-- ==== Sys2Proof/Syntax.lean ====
section
/-! DEFINITION. The commands of the block: one constructor per row of spec/opcode_table.json, with what the row
says the command carries. A detection that the spec leaves to hardware (a residue or parity hit, a tag mismatch, an
ECC word, a sensor reading) is an operand of the command that meets it. -/
namespace Sys2Proof

/-- The fields of a 64-bit vector instruction (05 R139), as its word gives them; OPC is the command. `rsv` holds bits
[25:22]. In the Ledger class and VFENCE the index of bits [50:45] is 2·va + vb/16. -/
structure VInsn where
  vd : Nat := 0
  va : Nat := 0
  vb : Nat := 0
  td : Nat := 0
  ts : Nat := 0
  rmode : Nat := 0
  ftz : Bool := false
  ovfSp : Bool := false
  sum : Bool := false
  lreg : Bool := false
  rsv : Nat := 0
  cnt : Nat := 0
deriving DecidableEq, Repr

/-- A corruption that a memory access met, at a device address: a parity hit in a pan store or in the Brine store; or on an LPDDR5X read the link
errors and the check mismatches it met in a row (06 R177, R184, R190, R196; 01 R39). -/
inductive Hit where
  | panParity (addr : Nat)
  | brineParity (addr : Nat)
  | lpd (addr link mism : Nat)
deriving DecidableEq, Repr

/-- A mandatory common command code of MIPI I3C that a target acts on (18 R477; notes/assumptions/29.md): a dynamic address assigned, every dynamic address
reset, in-band interrupts enabled or disabled, the status asked for. -/
inductive Ccc where
  | assign (addr : Fin 128)
  | rstdaa | enec | disec | getstatus
deriving DecidableEq, Repr

/-- A Bund transaction (13 R361); a COLL's and a SLUICE's content is carried as named data by its own commands. -/
structure Txn where
  op : Nat
  flags : Nat := 0
  dst : Nat
  src : Nat
  tag : Nat := 0
  status : Nat := 0
  hops : Nat := 8
  job : Nat := 0
  addr : Nat := 0
  data : List Nat := []
  len : Nat := 0
deriving DecidableEq, Repr

/-- A routing request at its owner (09 R259). SOURCE: the peer index, the Terrace, LOCAL. -/
structure SlReq where
  expert : Nat
  token : Nat
  rank : Nat
  gate : Nat
  srcPeer : Nat
  srcTer : Nat
  srcLocal : Bool
deriving DecidableEq, Repr

/-- A received flit (13 R358): header fields, the payload in use, and the two detections, CRC and tag. -/
structure FlitIn where
  seq : Nat
  ackSeq : Nat
  vc : Nat
  kind : Nat
  cvc : Nat := 0
  credits : Nat := 0
  payload : List Nat := []
  crcOk : Bool := true
  tagOk : Bool := true
deriving DecidableEq, Repr

/-- A frame received on the host port (13 R372, R373, R376): the destination MAC address and what its Ethernet and IP headers say (a VLAN tag's PCP,
IPv6, a fragment, the two UDP ports, whether the UDP checksum holds), the header's fields with its raw TYPE and OP codes, the data as received and
the GCM tag, CE, and the bytes of its priority's share of the receive buffer that are taken. A READ_REQ has no data and asks for PAYLEN bytes
(notes/assumptions/24.md). -/
structure Packet where
  typ : Nat
  op : Nat := 0
  mac : Nat := 0
  vlan : Option Nat := none
  v6 : Bool := false
  fragment : Bool := false
  ports : Nat × Nat := (47361, 47361)
  sumOk : Bool := true
  ver : Nat := 1
  flags : Nat := 0
  flow : Nat
  psn : Nat := 0
  ackPsn : Nat := 0
  msg : Nat := 0
  rsv : Nat := 0
  addr : Nat := 0
  data : List Nat := []
  len : Nat := 0
  tag : List Nat := []
  ce : Bool := false
  taken : Nat := 0
deriving DecidableEq, Repr

/-- What another member, or the members below it in the commit tree, bring to a step (10 R274, R284): the contributing samples and tokens, and for each
tensor (TENSOR_ID, AMAX, SATCNT, INFCNT, NANCNT); and the last write times of the snapshot layers in ns, the slowest member's (16 R442). -/
structure StepShare where
  samples : Nat := 0
  tokens : Nat := 0
  casts : List (List Nat) := []
  writes : List (Option Nat) := []
deriving DecidableEq, Repr

/-- What a Grader word's check found on read (11 R311). -/
inductive Ecc where
  | clean | corrected | uncorrectable
deriving DecidableEq, Repr

/-- The pan-cycle counts of a report window (15 R423). -/
structure SlowCounts where
  done : Nat
  lShare : Nat
  lPower : Nat
  lWait : Nat
  lInput : Nat
deriving DecidableEq, Repr

/-- An I3C private write (18 R478): the target address, LEN, the payload, whether its CRC is good. -/
structure Frame where
  addr : Nat := 0x30
  len : Nat
  payload : List Nat := []
  crcOk : Bool := true
deriving DecidableEq, Repr

/-- A packed record that a receiver asks for again (03 R101): record i of the LADD with a tag, or the record of a slot, token and column that a
Sluice formed. -/
inductive Again where
  | ladd (tag index : Nat)
  | sluice (ownTer ter expert slot token col : Nat)
deriving DecidableEq, Repr

/-- The agents that reach register space (19 R504). -/
inductive Agent where
  | pawezel | renura | security | debug
  | pan (p : Fin 64)
deriving DecidableEq, Repr

/-- The commands of spec/opcode_table.json. -/
inductive Instr where
  /-- PAN_CORE_INSTRUCTION (R164): The pan core executes one base RV64IMC instruction in order; a non-permitted address, length or system instruction halts it with a fault cause. -/
  | panCoreInstruction (p : Fin 64) (hit : Bool) (store : Option Nat)
  /-- MXD (R123): The pan core issues a 32-byte matrix descriptor into the pan's descriptor queue, stalling while the queue holds eight. -/
  | mxd (p : Fin 64) (rs1 : Nat) (hit : Option Nat)
  /-- CPY (R181): The pan core issues a copy command into the Terrace copy queue, stalling at eight outstanding commands or a full queue. -/
  | cpy (p : Fin 64) (rs1 : Nat) (hit : Option Nat)
  /-- FSET (R165): The pan core sets one of its own synchronisation flags. -/
  | fset (p : Fin 64) (flag : Nat)
  /-- FCLR (R165): The pan core clears one of its own synchronisation flags; a set in the same clock wins. -/
  | fclr (p : Fin 64) (flag : Nat)
  /-- FWAIT (R165): The pan core stalls until the named flag is set. -/
  | fwait (p : Fin 64) (flag : Nat)
  /-- FWAITC (R166): The pan core stalls until the named flag is set, then clears it atomically without losing a concurrent set. -/
  | fwaitc (p : Fin 64) (flag : Nat)
  /-- FTEST (R165): The pan core copies the state of a flag into an integer register. -/
  | ftest (p : Fin 64) (rd flag : Nat)
  /-- FSETR (R165): The pan core sets a flag in another pan of the job or device, raising RANGE for an invalid pan number. -/
  | fsetr (p : Fin 64) (rs1 flag : Nat)
  /-- SETVL (R142): In machine mode, sets VLEN to the lesser of the request and the width limit and returns it. -/
  | setvl (p : Fin 64) (rd rs1 width : Nat)
  /-- PDONE (R165): Ends the pan program's work for the step with a status; a non-zero status raises the PROGRAM cause. -/
  | pdone (p : Fin 64) (rs1 : Nat)
  /-- BSUM (R165): Branches on the scalar summary after waiting for earlier summarising instructions. -/
  | bsum (p : Fin 64) (cond : Nat) (off : Int)
  /-- VMOV (R143): Copies elements from one vector register to another. -/
  | vmov (p : Fin 64) (v : VInsn)
  /-- VCVT (R145): Converts elements from TS to TD by R67, R69 and R70, updating the numeric flags and SAT count. -/
  | vcvt (p : Fin 64) (v : VInsn)
  /-- VBCAST (R143): Broadcasts the low bits of a pan-core register into every element. -/
  | vbcast (p : Fin 64) (v : VInsn)
  /-- VIOTA (R143): Writes each element's index into the destination. -/
  | viota (p : Fin 64) (v : VInsn)
  /-- VADD (R144): Floating-point element addition rounded once under RNE. -/
  | vadd (p : Fin 64) (v : VInsn)
  /-- VSUB (R144): Floating-point element subtraction rounded once under RNE. -/
  | vsub (p : Fin 64) (v : VInsn)
  /-- VMUL (R144): Floating-point element multiplication rounded once under RNE. -/
  | vmul (p : Fin 64) (v : VInsn)
  /-- VFMA (R144): Fused multiply-add of elements with a single rounding. -/
  | vfma (p : Fin 64) (v : VInsn)
  /-- VMIN (R56): Element minimum under the NaN and signed-zero rules of R56. -/
  | vmin (p : Fin 64) (v : VInsn)
  /-- VMAX (R56): Element maximum under the NaN and signed-zero rules of R56. -/
  | vmax (p : Fin 64) (v : VInsn)
  /-- VABS (R143): Element absolute value. -/
  | vabs (p : Fin 64) (v : VInsn)
  /-- VNEG (R143): Element negation. -/
  | vneg (p : Fin 64) (v : VInsn)
  /-- VCPSGN (R143): Takes the magnitude of a with the sign of b for each element. -/
  | vcpsgn (p : Fin 64) (v : VInsn)
  /-- VIADD (R143): Integer element addition modulo 2^w. -/
  | viadd (p : Fin 64) (v : VInsn)
  /-- VISUB (R143): Integer element subtraction modulo 2^w. -/
  | visub (p : Fin 64) (v : VInsn)
  /-- VIMUL (R143): Integer element multiplication keeping the low w bits. -/
  | vimul (p : Fin 64) (v : VInsn)
  /-- VAND (R143): Bitwise AND of integer elements. -/
  | vand (p : Fin 64) (v : VInsn)
  /-- VOR (R143): Bitwise OR of integer elements. -/
  | vor (p : Fin 64) (v : VInsn)
  /-- VXOR (R143): Bitwise XOR of integer elements. -/
  | vxor (p : Fin 64) (v : VInsn)
  /-- VSLL (R143): Logical left shift of integer elements. -/
  | vsll (p : Fin 64) (v : VInsn)
  /-- VSRL (R143): Logical right shift of integer elements. -/
  | vsrl (p : Fin 64) (v : VInsn)
  /-- VSRA (R143): Arithmetic right shift of integer elements. -/
  | vsra (p : Fin 64) (v : VInsn)
  /-- VIMIN (R143): Signed integer element minimum. -/
  | vimin (p : Fin 64) (v : VInsn)
  /-- VIMAX (R143): Signed integer element maximum. -/
  | vimax (p : Fin 64) (v : VInsn)
  /-- VCMPEQ (R57): Quiet equality predicate per element. -/
  | vcmpeq (p : Fin 64) (v : VInsn)
  /-- VCMPLT (R57): Quiet less-than predicate per element. -/
  | vcmplt (p : Fin 64) (v : VInsn)
  /-- VCMPLE (R57): Quiet less-or-equal predicate per element. -/
  | vcmple (p : Fin 64) (v : VInsn)
  /-- VSEL (R143): Selects a or b per element on the raw bits of the mask register. -/
  | vsel (p : Fin 64) (v : VInsn)
  /-- VEXP2 (R159): Computes the bit-exact exp2 function per element. -/
  | vexp2 (p : Fin 64) (v : VInsn)
  /-- VLOG2 (R160): Computes the bit-exact log2 function per element. -/
  | vlog2 (p : Fin 64) (v : VInsn)
  /-- VRCP (R161): Computes the correctly rounded reciprocal per element. -/
  | vrcp (p : Fin 64) (v : VInsn)
  /-- VRSQRT (R161): Computes the correctly rounded reciprocal square root per element. -/
  | vrsqrt (p : Fin 64) (v : VInsn)
  /-- VSQRT (R161): Computes the correctly rounded square root per element. -/
  | vsqrt (p : Fin 64) (v : VInsn)
  /-- VTANH (R162): Computes the bit-exact tanh per element. -/
  | vtanh (p : Fin 64) (v : VInsn)
  /-- VSIGM (R163): Computes the bit-exact sigmoid per element. -/
  | vsigm (p : Fin 64) (v : VInsn)
  /-- VGELU (R163): Computes the bit-exact tanh-form GELU per element. -/
  | vgelu (p : Fin 64) (v : VInsn)
  /-- VSEGSUM (R146): Sums elements in segments of G, exactly with one rounding or clamping. -/
  | vsegsum (p : Fin 64) (v : VInsn)
  /-- VSEGMAX (R146): Takes the maximum of elements in segments of G. -/
  | vsegmax (p : Fin 64) (v : VInsn)
  /-- VSEGMIN (R146): Takes the minimum of elements in segments of G. -/
  | vsegmin (p : Fin 64) (v : VInsn)
  /-- VPERM (R152): Permutes elements by an index register, writing +0 and setting INDEX for out-of-range indices. -/
  | vperm (p : Fin 64) (v : VInsn)
  /-- VSLIDEDN (R153): Slides elements down by s, filling vacated positions with +0. -/
  | vslidedn (p : Fin 64) (v : VInsn)
  /-- VSLIDEUP (R153): Slides elements up by s, filling vacated positions with +0. -/
  | vslideup (p : Fin 64) (v : VInsn)
  /-- VREV (R143): Reverses the order of the counted elements. -/
  | vrev (p : Fin 64) (v : VInsn)
  /-- VLD (R147): Loads elements from the pan store by base and stride, holding on a parity hit until refetch. -/
  | vld (p : Fin 64) (v : VInsn) (hit : Option Nat)
  /-- VST (R147): Stores elements to the pan store by base and stride. -/
  | vst (p : Fin 64) (v : VInsn) (hit : Option Nat)
  /-- VZBC (R147): Writes elements in zero-block compressed form and emits a summary. -/
  | vzbc (p : Fin 64) (v : VInsn)
  /-- VLRD (R149): Reads Ledger entries rounded through the write-back converter. -/
  | vlrd (p : Fin 64) (v : VInsn)
  /-- VLXRD (R150): Reads Ledger entries exactly as full-form packed records. -/
  | vlxrd (p : Fin 64) (v : VInsn)
  /-- VLPADD (R150): Packed-adds full-form records from a register into Ledger entries. -/
  | vlpadd (p : Fin 64) (v : VInsn)
  /-- VFENCE (R143): Sets a flag once all earlier vector instructions are complete. -/
  | vfence (p : Fin 64) (v : VInsn)
  /-- AMAX_CAPTURE_SELECT (R273): A write of PAN_AMAX_SEL EN and SLOT changes which capture slot later conversions update. -/
  | amaxCaptureSelect (p : Fin 64) (en : Bool) (slot : Fin 16)
  /-- AMAX_SLOT_CLEAR (R274): A write of PAN_AMAX_SEL with CLR resets the named capture slot. -/
  | amaxSlotClear (p : Fin 64) (en : Bool) (slot : Fin 16)
  /-- MATMUL (R121): A MATMUL descriptor starts once its wait is met: checks, CLR, passes, write-back and CLR_AFTER. -/
  | matmul (p : Fin 64) (hit : Option Nat)
  /-- CONV (R237): A CONV descriptor starts, gathering patches of the input as activation rows by implicit im2col. -/
  | conv (p : Fin 64) (hit : Option Nat)
  /-- ATTEND (R211): An ATTN descriptor in ATTEND mode runs the score tile and value product for each listed page. -/
  | attend (p : Fin 64) (bad : Bool) (hit : Option Nat)
  /-- MERGE (R217): An ATTN descriptor in MERGE mode combines exported attention partials into its entries. -/
  | merge (p : Fin 64) (bad : Bool) (hit : Option Nat)
  /-- RAKE (R232): An ATTN descriptor in RAKE mode selects pages by sink, window and block bound. -/
  | rake (p : Fin 64) (hit : Option Nat)
  /-- APPEND (R228): An ATTN descriptor in APPEND mode quantises tokens into a KV page and updates its summary. -/
  | append (p : Fin 64) (hit : Option Nat)
  /-- ENTRY_OP (R121): A descriptor of OP ENTRY_OP clears and writes back Ledger entries without passes. -/
  | entryOp (p : Fin 64) (hit : Option Nat)
  /-- PASS (R115): One activation row passes the stationary tile, with spill replays and residue checks before the Ledger update. -/
  | pass (p : Fin 64) (bad : Bool) (hit : Option Nat)
  /-- PAN_QUARANTINE (R135): A third consecutive residue mismatch quarantines the pan and raises a job fault. -/
  | panQuarantine (p : Fin 64)
  /-- WRITE_BACK (R93): Once earlier passes on its entries have promoted, a descriptor's entries are converted once into the output format. -/
  | writeBack (p : Fin 64) (hit : Option Nat)
  /-- DESCRIPTOR_COMPLETE (R121): A descriptor completes or is rejected, records LAST_STATUS and sets SET_FLAG. -/
  | descriptorComplete (p : Fin 64)
  /-- HALO_TIMEOUT (R251): A pass that has waited 100 ms for a halo tag stops its pan with the HALO cause. -/
  | haloTimeout (p : Fin 64)
  /-- COPY (R179): A copy engine takes a COPY command and moves its rows, serialising overlap. -/
  | copy (t : Fin 4) (id : Nat) (hit : Option Hit)
  /-- FILL (R179): A copy engine writes WORD to every word of each destination row. -/
  | fill (t : Fin 4) (id : Nat)
  /-- COPY_TAG (R179): A copy engine copies the rows and then writes the tag after all data. -/
  | copyTag (t : Fin 4) (id : Nat) (hit : Option Hit)
  /-- COPY_COMPLETE (R181): A copy command completes once all its writes or remote acknowledgements have arrived, and sets its flag. -/
  | copyComplete (t : Fin 4) (id : Nat)
  /-- BUFFER_REGENERATE (R188): Renura firmware resolves a detected fault by the buffer's kind, or replays the step. -/
  | bufferRegenerate (j : Fin 16) (addr : Nat)
  /-- SEGMENT_RERUN (R170): On a RECOVER cause, Renura firmware re-runs the pan program from the start of its current segment. -/
  | segmentRerun (p : Fin 64)
  /-- BED_MODE_CHANGE (R185): A write of BRN_BED_MODE holds accesses, writes back and invalidates the cache, and applies the new bed modes. -/
  | bedModeChange (t : Fin 4) (modes : BitVec 80)
  /-- CHANNEL_MAP_OUT (R197): Pawezel clears a bit of LPD_CHAN_PRESENT, remapping the Terrace window. -/
  | channelMapOut (t : Fin 4) (c : Fin 32)
  /-- BED_MAP_OUT (R198): A bit of BRN_BED_OUT maps a bed out of cache or scratchpad use. -/
  | bedMapOut (t : Fin 4) (b : Fin 80)
  /-- TEST_MODE_ENABLE (R199): A write of LPD_TEST_EN.EN = 1 enters traffic-generator test mode, flushing the cache and treating the window as lost. -/
  | testModeEnable (t : Fin 4)
  /-- TEST_MODE_DISABLE (R199): Clearing LPD_TEST_EN.EN ends test mode, leaving the window undefined. -/
  | testModeDisable (t : Fin 4)
  /-- TG_GO (R200): Writing LPD_TG_CTRL.GO starts a generator run on a channel, or sets REJECTED. -/
  | tgGo (c : Fin 128) (pattern opmode : Nat)
  /-- TG_ABORT (R200): Writing LPD_TG_CTRL.ABORT stops a running generator at the next burst. -/
  | tgAbort (c : Fin 128)
  /-- TG_RUN_DONE (R200): A generator run completes, clearing GO and setting DONE. -/
  | tgRunDone (c : Fin 128) (flips : List (Nat × Nat))
  /-- SKIM_COMMAND (R246): The Skim engine takes a command from its queue and computes the convolution. -/
  | skimCommand (t : Fin 4) (mismatches : Nat) (hit : Option Hit)
  /-- SKIM_FAILED (R248): Three consecutive residue mismatches on one pixel mark the Skim engine failed and raise a job fault. -/
  | skimFailed (t : Fin 4)
  /-- SELECT (R258): The Sluice ranks router scores and writes routing records. -/
  | select (t : Fin 4) (hit : Option Hit)
  /-- DISPATCH (R259): The Sluice sends requests for its tokens and an END to every Sluice of the group. -/
  | dispatch (t : Fin 4) (group : List (Bool × Nat × Nat)) (hit : Option Hit)
  /-- SLUICE_REQUEST (R259): An owner receives a routing request for one of its experts. -/
  | sluiceRequest (t : Fin 4) (r : SlReq)
  /-- SLUICE_END (R259): An owner receives an END; at the NSRC-th it admits requests, writes the slot table and STAT, and sends grants. -/
  | sluiceEnd (t : Fin 4) (peer ter : Nat)
  /-- SLUICE_GRANT (R259): A source receives a grant, writes SLOT and sends the admitted token row. -/
  | sluiceGrant (t : Fin 4) (token rank slot : Nat) (hit : Option Hit)
  /-- SLUICE_ROW (R259): An owner receives an admitted token row; when all rows are done the DISPATCH completes. -/
  | sluiceRow (t : Fin 4) (expert slot : Nat) (data : List Nat)
  /-- COMBINE (R262): The owner forms gate products and sends one packed record per column to each token's source. -/
  | combine (t : Fin 4) (hit : Option Hit)
  /-- SLUICE_RECORD (R262): A source packed-adds a combine record and sets FLAG when a pan's combine count is reached. -/
  | sluiceRecord (t : Fin 4) (src ter expert slot token col : Nat) (rec : List Nat)
  /-- BRANCH (R265): The Sluice sorts samples into branch lists by their masks. -/
  | branch (t : Fin 4) (hit : Option Hit)
  /-- READ (R363): A Bund READ is served at the target through its region table and home Brine cache. -/
  | read (x : Txn) (hit : Option Hit)
  /-- READ_RESP (R363): A Bund READ_RESP completes the READ of the same tag. -/
  | readResp (x : Txn)
  /-- WRITE (R363): A Bund WRITE writes data at the target and returns WRITE_ACK. -/
  | write (x : Txn)
  /-- WRITE_ACK (R363): A Bund WRITE_ACK completes the WRITE. -/
  | writeAck (x : Txn)
  /-- LADD (R364): A LADD is checked and its packed records are added into target entries, setting the completion flag when last. -/
  | ladd (x : Txn)
  /-- LADD_ACK (R364): A LADD_ACK completes a LADD at its source. -/
  | laddAck (x : Txn)
  /-- LADD_RESEND (R364): Every 10 µs, a LADD refused with ST_FAB_TARGET_ABSENT is sent again. -/
  | laddResend
  /-- CHAIN_FORWARD (R366): Once COUNT records and LOCAL_FLAG are in, a chain member forwards its entries or sets DONE_FLAG. -/
  | chainForward (j : Fin 16) (chain : Nat)
  /-- BUND_FORWARD (R362): A transaction for another device is forwarded by the route table with HOPS reduced, or discarded. -/
  | bundForward (x : Txn)
  /-- FLAGSET (R363): A Bund FLAGSET sets a flag in a logical pan of a job. -/
  | flagset (x : Txn)
  /-- COLL_READY (R389): A commit-tree member receives READY(n) from a child. -/
  | collReady (src : Nat) (j : Fin 16) (step : Nat) (share : StepShare)
  /-- COLL_COMMIT (R389): A member receives COMMIT(n), applies the commit and forwards it to its children. -/
  | collCommit (src : Nat) (j : Fin 16) (step layers : Nat) (share : StepShare)
  /-- COLL_PHASE_TOKEN (R363): A collective phase token arrives at a member. -/
  | collPhaseToken (src : Nat) (j : Fin 16) (step param : Nat)
  /-- COLL_ABORT (R369): A COLL abort ends the collective and leaves the step uncommitted. -/
  | collAbort (src : Nat) (j : Fin 16) (step : Nat) (failed : Option Nat)
  /-- HOLD (R370): A COLL HOLD token restarts the 100 ms timers of waits on the sender for that step. -/
  | hold (src : Nat) (j : Fin 16) (step : Nat)
  /-- HOLD_SEND (R370): Every 50 ms while stage 5 waits on the input pipeline, Renura firmware sends HOLD to waiting members. -/
  | holdSend (j : Fin 16) (step : Nat)
  /-- JOIN (R446): A survivor receives JOIN and returns to RUNNING once every lacking member has joined. -/
  | join (src : Nat) (j : Fin 16) (bundId step : Nat)
  /-- QUEUED (R450): A COLL QUEUED token defers a second fill in a partner group. -/
  | queued (src : Nat) (j : Fin 16)
  /-- PARTNER (R433): A COLL PARTNER token is compared with the member's own partner group list. -/
  | partner (src : Nat) (j : Fin 16) (ids : List Nat)
  /-- COLLECTIVE_TIMEOUT (R369): A collective wait reaches 100 ms; the member sends abort and reports ST_FAB_COLLECTIVE_TIMEOUT. -/
  | collectiveTimeout (j : Fin 16) (step peer : Nat)
  /-- BUND_FLIT (R359): A flit is received, checked for CRC, tag and sequence, and delivered or answered by NAK. -/
  | bundFlit (b : Fin 8) (f : FlitIn)
  /-- NAK (R359): A NAK makes the sender resend every flit after ACKSEQ from its retry buffer. -/
  | nak (b : Fin 8) (ackSeq : Nat)
  /-- FLIT_RESEND_LIMIT (R359): A flit resent 16 times in a row retrains the port at its current state. -/
  | flitResendLimit (b : Fin 8) (untrained : List (Fin 9))
  /-- CONTROL_FLIT (R355): A control flit carries the other end's fault list for the port. -/
  | controlFlit (b : Fin 8) (bad : BitVec 9)
  /-- LANE_FAULT (R355): A lane loses lock for 10 µs or exceeds the error threshold and is declared faulty, changing the port state. -/
  | laneFault (b : Fin 8) (lane : Fin 9)
  /-- PORT_RETRAIN (R356): A port retraining completes and resends held flits. -/
  | portRetrain (b : Fin 8) (peerEnc : Bool)
  /-- BND_AUTH (R360): Eight tag mismatches within 1 ms take the port down and log a Lockdown-request. -/
  | bndAuth (b : Fin 8)
  /-- KEY_EPOCH_INSTALL (R360): The security block installs a new port key epoch before the flit counter reaches 2^63. -/
  | keyEpochInstall (b : Fin 8)
  /-- QT_WRITE (R374): A Quay transport WRITE packet is applied in order at its address. -/
  | qtWrite (k : Packet)
  /-- QT_READ_REQ (R374): A Quay transport READ_REQ is answered with READ_RESP data. -/
  | qtReadReq (k : Packet) (hit : Option Hit)
  /-- QT_READ_RESP (R374): A Quay transport READ_RESP delivers read data. -/
  | qtReadResp (k : Packet)
  /-- ACK (R375): A Quay transport ACK acknowledges packets and may carry ECE. -/
  | ack (k : Packet)
  /-- SACK (R375): A SACK reports received ranges and triggers selective retransmission of gaps. -/
  | sack (k : Packet) (ranges : List (Nat × Nat))
  /-- OPEN (R374): An OPEN packet opens a flow, or is refused beyond 1,024 flows. -/
  | openFlow (k : Packet)
  /-- CLOSE (R374): A CLOSE packet closes a flow. -/
  | closeFlow (k : Packet)
  /-- PROBE (R373): A Quay transport PROBE packet is received. -/
  | probe (k : Packet)
  /-- QT_RETX_TIMER (R375): A retransmission timer expires, resending the packet and failing the flow after 12 expiries. -/
  | qtRetxTimer (flow : Nat)
  /-- PFC_PAUSE_FRAME (R377): A received PFC frame pauses or resumes a priority. -/
  | pfcPauseFrame (paused : BitVec 8)
  /-- MAILBOX_POST (R399): A transport write of OWN with STATE 1 posts a command, locks the mailbox and raises an event. -/
  | mailboxPost (flow addr : Nat) (data : List Nat)
  /-- DEV_INFO (R404): Returns device information and sets the management notice address, flushing held notices. -/
  | devInfo (m : Fin 256)
  /-- FLOW_BIND (R395): Binds an open flow to a slot or management, or unbinds it. -/
  | flowBind (m : Fin 256)
  /-- PART_SET (R410): Sets the partition layout with fresh keys per partition. -/
  | partSet (m : Fin 256)
  /-- JOB_CREATE (R549): Reserves memory for a slot and places its staging, save areas and data parts. -/
  | jobCreate (m : Fin 256)
  /-- JOB_DESTROY (R404): Stops the job and frees the slot's reservation, entries and bindings. -/
  | jobDestroy (m : Fin 256)
  /-- CONFIG_STAGE (R514): Stages a configuration set of register writes and a seal reference, returning a handle. -/
  | configStage (m : Fin 256)
  /-- TIDE_ADD (R387): Checks and adds a Tide schedule entry. -/
  | tideAdd (m : Fin 256)
  /-- TIDE_CANCEL (R387): Cancels a Tide entry that has not fired. -/
  | tideCancel (m : Fin 256)
  /-- POWER_REQ (R427): Requests a power state change, refused for Doze or Shelf while jobs run. -/
  | powerReq (m : Fin 256)
  /-- WARM_RESET (R425): Replies, aborts other commands and asks Pawezel for a Warm reset. -/
  | warmReset (m : Fin 256)
  /-- JOB_LIST (R404): Returns the state of the sixteen job slots. -/
  | jobList (m : Fin 256)
  /-- JOB_START (R407): Checks the job-start record, loads the program, runs the partner exchange and starts the job. -/
  | jobStart (m : Fin 256) (hit : Option Hit)
  /-- JOB_STOP_AFTER_COMMIT (R413): JOB_STOP with MODE 0 lets the next submitted step commit and discards the rest. -/
  | jobStopAfterCommit (m : Fin 256)
  /-- JOB_STOP_AT_ONCE (R413): JOB_STOP with MODE 1 discards every uncommitted step at once. -/
  | jobStopAtOnce (m : Fin 256)
  /-- JOB_SUSPEND (R412): Saves the job's context and moves it to SUSPENDED. -/
  | jobSuspend (m : Fin 256)
  /-- JOB_RESUME (R414): Returns a suspended job to RUNNING if the partition allows. -/
  | jobResume (m : Fin 256)
  /-- JOB_QUERY (R404): Returns the job's state, steps, statuses and latest slowdown record. -/
  | jobQuery (m : Fin 256)
  /-- LOG_READ (R404): Copies whole records of the amax, redo or treatment log into staging. -/
  | logRead (m : Fin 256)
  /-- HOSTLANE_OPEN (R421): HOSTLANE with OP 0 opens the job's host lane with DEPTH request slots. -/
  | hostlaneOpen (m : Fin 256)
  /-- HOSTLANE_CLOSE (R421): HOSTLANE with OP 1 closes the lane, leaving requested samples outstanding. -/
  | hostlaneClose (m : Fin 256)
  /-- OVERRIDE_ADD (R319): Adds override records all or none. -/
  | overrideAdd (m : Fin 256) (hit : Option Hit)
  /-- MANIFEST (R296): Checks and holds a manifest window. -/
  | manifest (m : Fin 256) (hit : Option Hit)
  /-- STEP_SUBMIT (R302): Checks a step submission and assigns the next step number. -/
  | stepSubmit (m : Fin 256)
  /-- HOSTLANE_RETURN (R331): Accepts a host-decoded sample into its slot, or requests it again if malformed. -/
  | hostlaneReturn (m : Fin 256) (hit : Option Hit)
  /-- BATCH (R422): Accepts an evaluation or serving batch for later execution. -/
  | batch (m : Fin 256) (hit : Option Hit)
  /-- BATCH_RUN (R422): An accepted batch runs when its window is open and the job resident, writes outputs and sends a batch notice. -/
  | batchRun (j : Fin 16) (batchNo : Nat) (hit : Option Hit) (others : List (List Nat))
  /-- INTAKE_FETCH (R304): The intake engine fetches and CRC-checks a sample and routes it to the Grader, host lane or packer. -/
  | intakeFetch (j : Fin 16) (step slot : Nat) (data : List Nat)
  /-- FETCH_FAILED (R304): The eighth failed fetch stops the job with ST_PIPE_FETCH_FAILED. -/
  | fetchFailed (j : Fin 16) (step slot : Nat)
  /-- DECODE_START (R309): A free decoder core takes the next Grader entry by retry lane, then cost, then slot. -/
  | decodeStart (media : List Nat) (ecc0 ecc1 : Ecc)
  /-- DECODE_COMPLETE (R331): A decode and its augmentation finish and the decoded sample keeps its slot. -/
  | decodeComplete (j : Fin 16) (step slot : Nat)
  /-- DECODE_BUDGET_EXPIRED (R314): A decode attempt exceeds its budget and is aborted to the host lane or retry lane. -/
  | decodeBudgetExpired (j : Fin 16) (step slot : Nat)
  /-- GRADER_BANK_SWAP (R310): The banks swap when the draining bank is empty and the filling bank is sealed. -/
  | graderBankSwap
  /-- RETRY_LANE_ENTRY (R315): A waiting entry enters the retry lane when room frees. -/
  | retryLaneEntry
  /-- CROP (R347): Crops a visual sample to a drawn rectangle. -/
  | crop (j : Fin 16) (slot op : Nat)
  /-- RESIZE (R346): Resizes a visual sample with the defined scaler. -/
  | resize (j : Fin 16) (slot op : Nat)
  /-- HFLIP (R347): Flips a visual sample horizontally. -/
  | hflip (j : Fin 16) (slot op : Nat)
  /-- ROT90 (R347): Rotates a visual sample by quarter turns. -/
  | rot90 (j : Fin 16) (slot op : Nat)
  /-- JITTER (R347): Applies brightness, contrast and saturation jitter. -/
  | jitter (j : Fin 16) (slot op : Nat)
  /-- REENCODE (R349): Encodes and decodes the frames with the defined encoder. -/
  | reencode (j : Fin 16) (slot op : Nat)
  /-- TCROP (R347): Keeps a range of frames or sample frames. -/
  | tcrop (j : Fin 16) (slot op : Nat)
  /-- TSTRIDE (R347): Keeps every n-th frame. -/
  | tstride (j : Fin 16) (slot op : Nat)
  /-- GAIN (R347): Multiplies audio samples by a gain. -/
  | gain (j : Fin 16) (slot op : Nat)
  /-- RESAMPLE (R345): Resamples audio with the defined filter. -/
  | resample (j : Fin 16) (slot op : Nat)
  /-- DOWNMIX (R347): Averages audio channels to one. -/
  | downmix (j : Fin 16) (slot op : Nat)
  /-- MICROBATCH_CLOSE (R323): The packer closes a micro-batch once every earlier sample is decoded and treated. -/
  | microbatchClose (j : Fin 16)
  /-- MICROBATCH_DISPATCH (R38): Renura firmware places a micro-batch and starts pan programs in submission order. -/
  | microbatchDispatch (j : Fin 16) (step mb : Nat) (pans : List Nat) (addr tmb : Nat) (skim sluice : List (Nat × List Nat))
  /-- REDO_GATE (R278): A member pan reaches the redo gate, writes its watched slots and stalls on the verdict flag. -/
  | redoGate (p : Fin 64) (unit dir mb : Nat)
  /-- REDO_VERDICT (R278): Once all reports are in, Renura firmware combines them and writes the verdict to every member. -/
  | redoVerdict (j : Fin 16) (unit dir mb : Nat) (others : List (List Nat))
  /-- QUANTUM_EXPIRY (R415): A sliced job's quantum or 2 ms of no issue expires and the next runnable job is chosen. -/
  | quantumExpiry (part : Fin 4) (held idle : Nat)
  /-- CONTEXT_SWITCH (R416): Once in-flight adds and commands drain, the job's context is saved and the next job's restored. -/
  | contextSwitch (part : Fin 4) (hit : Option Hit)
  /-- SLOWDOWN_REPORT (R423): Every 10 ms of Tide time a report window closes and a KIND 2 notice is sent. -/
  | slowdownReport (j : Fin 16) (c : SlowCounts)
  /-- FLUSH_END (R424): The Flush completes and job commands are accepted again. -/
  | flushEnd
  /-- PHASE (R386): A PHASE entry fires and sets a flag in each named pan. -/
  | phase (i : Fin 256)
  /-- COMMIT (R389): A COMMIT entry fires and marks its step for commit. -/
  | commit (i : Fin 256)
  /-- CONFIG (R515): A CONFIG entry fires and Pawezel applies the staged set whole or not at all. -/
  | config (i : Fin 256)
  /-- CAP (R461): A CAP entry fires and replaces the scheduled package cap. -/
  | cap (i : Fin 256)
  /-- EVAL_OPEN (R386): An EVAL_OPEN entry fires and waits for its step to commit. -/
  | evalOpen (i : Fin 256)
  /-- EVAL_CLOSE (R388): An EVAL_CLOSE entry fires and waits for its window's batches. -/
  | evalClose (i : Fin 256)
  /-- SNAPSHOT (R392): A SNAPSHOT entry fires and waits for its step to commit. -/
  | snapshot (i : Fin 256)
  /-- EVAL_WINDOW_OPEN (R291): Once step n has committed, the evaluation window opens. -/
  | evalWindowOpen (j : Fin 16) (w : Nat)
  /-- EVAL_WINDOW_CLOSE (R293): Once its batches are complete, the window closes and step n + 1 may start. -/
  | evalWindowClose (j : Fin 16) (w : Nat)
  /-- STEP_READY (R389): The device becomes ready for step n and sends READY or applies the commit. -/
  | stepReady (j : Fin 16) (step : Nat)
  /-- GRADIENT_LOG_APPEND (R437): A member writes its step's log entry to the gradient log on its holder. -/
  | gradientLogAppend (j : Fin 16) (step : Nat) (scalars grads : List Nat) (total : StepShare)
  /-- SNAPSHOT_START (R392): Once its step has committed, the snapshot of that step starts writing its image. -/
  | snapshotStart (j : Fin 16) (layer : Fin 3) (hit : Option Hit)
  /-- SNAPSHOT_COMPLETE (R434): The snapshot header is written last and EV_SNAP_DONE is reported. -/
  | snapshotComplete (j : Fin 16) (layer : Fin 3)
  /-- RESTORE_COMPLETE (R445): A layer-1 restore finishes its replay and the spare sends JOIN. -/
  | restoreComplete (j : Fin 16) (images entries states : List (List Nat)) (logEnd : Nat)
  /-- PTP_SYNC (R380): A PTP Sync yields an offset and the servo slews or steps Tide time. -/
  | ptpSync (offset : Int)
  /-- TIDE_HOLDOVER (R381): No usable Sync for 2 s, or port down, enters holdover. -/
  | tideHoldover (linkDown : Bool)
  /-- TIDE_IN_EDGE (R384): An edge on TIDE_IN aligns the NS phase in follow mode and is repeated on TIDE_OUT. -/
  | tideInEdge
  /-- TIDE_EDGE_LOST (R384): The edge is absent for 3 s and the servo falls back to PTP. -/
  | tideEdgeLost
  /-- TIDE_SECOND_EDGE (R531): At each Tide second in source mode, TIDE_OUT rises. -/
  | tideSecondEdge
  /-- POWER_ESTIMATE (R459): Every 2 µs each Terrace forms its power estimate and adds energy. -/
  | powerEstimate (activity : List (List Nat))
  /-- FAST_LIMIT (R464): Every 2 µs each Terrace sets its slot allowance against its budget. -/
  | fastLimit (t : Fin 4)
  /-- KCAL_CALIBRATE (R460): Every 100 ms Pawezel moves KCAL toward the measured rails. -/
  | kcalCalibrate
  /-- MODULE_POWER_CHECK (R463): Each 1 ms measurement adjusts C_mod against the TDP. -/
  | modulePowerCheck
  /-- DROOP_DETECT (R466): A droop detector trips and the pan skips issue for 16 cycles. -/
  | droopDetect (p : Fin 64)
  /-- DROOP_SKIP_END (R466): The 16-cycle droop skip ends and issue resumes. -/
  | droopSkipEnd (p : Fin 64)
  /-- DROOP_HELD (R466): A detector stays tripped for 1 ms and EV_PWR_DROOP_HELD is logged. -/
  | droopHeld (p : Fin 64)
  /-- THERMAL_CEILING (R468): Every 10 ms Pawezel sets the thermal ceiling. -/
  | thermalCeiling
  /-- THERMAL_THROTTLE (R469): Every 1 ms the thermal allowance moves down or up by the sensors. -/
  | thermalThrottle (t : Fin 4)
  /-- THERMAL_TRIP (R470): A sensor at 110 °C stops issue, raises a job fault and forces Shelf. -/
  | thermalTrip (n : Fin 72)
  /-- SENSOR_SAMPLE (R476): Pawezel samples its sensors and judges coolant and temperature limits. -/
  | sensorSample (die : List Int) (rails : List (Int × Int)) (inlet outlet flow : Int)
  /-- PAWEZEL_RESTART (R475): A lockstep mismatch or parity hit restarts Pawezel from NOR. -/
  | pawezelRestart
  /-- BITTERN_PAGE_WRITE (R482): A full page, or every 1 s, is copied from the ring to NOR. -/
  | bitternPageWrite
  /-- I3C_STATUS (R478): Returns status registers, clearing alarm SOURCES. -/
  | i3cStatus (f : Frame)
  /-- I3C_SENSORS (R478): Returns every sensor reading. -/
  | i3cSensors (f : Frame)
  /-- I3C_LOG (R478): Returns Bittern records from a record number. -/
  | i3cLog (f : Frame)
  /-- I3C_POWER (R478): Requests a power state as POWER_REQ does. -/
  | i3cPower (f : Frame)
  /-- I3C_RESET (R478): Requests a Warm reset. -/
  | i3cReset (f : Frame)
  /-- UPD_BEGIN (R490): Erases the non-running slot of a type. -/
  | updBegin (f : Frame)
  /-- UPD_DATA (R490): Writes data into the slot being updated. -/
  | updData (f : Frame)
  /-- UPD_END (R485): Verifies the updated image. -/
  | updEnd (f : Frame)
  /-- ACTIVATE (R490): Names a verified slot preferred for the next boot. -/
  | activate (f : Frame)
  /-- SVN_COMMIT (R491): Raises a type's rollback count. -/
  | svnCommit (f : Frame)
  /-- NONCE (R478): Returns a fresh 16-byte nonce. -/
  | nonce (f : Frame)
  /-- ATTEST (R495): Returns a signed attestation report. -/
  | attest (f : Frame)
  /-- CERTS (R478): Returns the DeviceID, Alias and HSS certificates. -/
  | certs (f : Frame)
  /-- TALLY (R498): Returns signed Tally checkpoints from a step. -/
  | tally (f : Frame)
  /-- ALARM_CLEAR (R502): An owner token lowers the alarm level, or runs a Cold reset from Erase. -/
  | alarmClear (f : Frame)
  /-- DEBUG_UNLOCK (R503): An owner token sets DEBUG through a Module reset. -/
  | debugUnlock (f : Frame)
  /-- DEBUG_LOCK (R503): An owner token clears DEBUG through a Module reset. -/
  | debugLock (f : Frame)
  /-- OWNER_PROVISION (R502): An owner token programs an owner key slot. -/
  | ownerProvision (f : Frame)
  /-- OWNER_REVOKE (R502): An owner token revokes an owner key slot. -/
  | ownerRevoke (f : Frame)
  /-- MESH_BREACH (R499): The tamper mesh opens or shorts and the alarm responds, at least by Erase. -/
  | meshBreach
  /-- GLITCH (R499): A glitch detector fires, escalating to Erase at the third within 1 s. -/
  | glitch
  /-- JTAG_ACCESS (R544): A TAP access while DEBUG is clear is logged as a debug attempt. -/
  | jtagAccess
  /-- SEAL_PASS (R512): A seal pass ends, SEAL_VALUE is compared with SEAL_REF and ACTION applies on mismatch. -/
  | sealPass
  /-- SEAL_HOLD (R513): A write of SEAL_CTRL.HOLD discards the pass in progress and stops comparison. -/
  | sealHold (a : Agent)
  /-- DERIVED_COMMIT (R513): Pawezel computes the seal, writes SEAL_REF, stores the sealed image and clears HOLD. -/
  | derivedCommit
  /-- SEAL_HOLD_TIMEOUT (R513): HOLD stays set for more than 100 ms and is treated as a mismatch. -/
  | sealHoldTimeout
  /-- CONFIG_SET_EXPIRY (R515): A staged set that no entry names is freed after 60 s. -/
  | configSetExpiry (i : Fin 4)
  /-- GLB_LOCK_WRITE (R510): A write of 1 sets block LOCK bits, after which RWL writes are ignored. -/
  | glbLockWrite (a : Agent) (w : Nat)
  /-- WM_WRITE (R509): A masked write changes only the selected bits [15:0]. -/
  | wmWrite (a : Agent) (addr w : Nat)
  /-- RC_READ (R507): A read of an RC register by its RC reader returns and clears it. -/
  | rcRead (a : Agent) (addr : Nat)
  /-- TIDE_TIME_LATCH (R379): A read of TID_TIME_NS latches the seconds for the SEC registers. -/
  | tideTimeLatch
  /-- ENERGY_LATCH (R471): A read of an energy LO register latches its HI half. -/
  | energyLatch (addr : Nat)
  /-- REGISTER_WRITE (R14): A write to a register without a row of its own updates its fields by access type. -/
  | registerWrite (a : Agent) (addr w : Nat)
  /-- INPUT_POWER_APPLIED (R536): Input power reaches regulation, SID is sampled and a Cold reset begins with PWR_EN high. -/
  | inputPowerApplied (sid : Fin 32)
  /-- PWR_EN_RISE (R536): A rising PWR_EN with input power present starts a Cold reset. -/
  | pwrEnRise
  /-- PWR_EN_FALL (R537): PWR_EN falls and the device powers down in order. -/
  | pwrEnFall
  /-- MOD_RESET_N_ASSERT (R536): MOD_RESET_N low for 2 µs starts a Module reset, held at 500 ms while low. -/
  | modResetNAssert
  /-- MOD_RESET_N_RELEASE (R538): Release of MOD_RESET_N lets the held bring-up continue. -/
  | modResetNRelease
  /-- BRINGUP_RESUME (R522): Bring-up waiting under COOL_WAIT continues once the sensors are cool enough. -/
  | bringupResume
  /-- HOST_PORT_WAKE (R521): In Shelf, link partner signalling wakes the host port and the management mailboxes are served. -/
  | hostPortWake
  /-- INPUT_OVERVOLTAGE (R534): Input above 62 V for 10 µs turns the compute domain off and loses every job. -/
  | inputOvervoltage (mv : Nat)
  /-- INPUT_UNDERVOLTAGE (R534): Input below 42 V for 50 µs turns the compute domain off and loses every job. -/
  | inputUndervoltage (mv : Nat)
  /-- INPUT_HOLDUP (R482): Input below 40 V writes unwritten Bittern records within the hold-up time. -/
  | inputHoldup (mv : Nat)
  /-- INPUT_POWER_LOST (R534): Input below 38 V stops the always-on island. -/
  | inputPowerLost
  /-- INPUT_RECOVERED (R534): Input back within range for 100 ms with PWR_EN high starts a Cold reset. -/
  | inputRecovered (mv : Nat)
  /-- RECORD_REQUEST_AGAIN (R101): A sender receives a request to form again and resend a packed record whose residue did not match at the receiver. -/
  | recordRequestAgain (src : Nat) (j : Fin 16) (w : Again)
  /-- DYNAMIC_ADDRESS_ASSIGNMENT (R477): The tray controller assigns Pawezel an I3C dynamic address through the common command codes. -/
  | dynamicAddressAssignment (ccc : Ccc)
  /-- HOST_PORT_LINK_UP (R372): The host port completes auto-negotiation and link training and its link comes up. -/
  | hostPortLinkUp (cr : Bool)
  /-- PAWEZEL_WARM_RESET (R518): Pawezel starts a Warm reset on its own, without the mailbox completions. -/
  | pawezelWarmReset
  /-- GLITCH_WINDOW_EXPIRY (R499): The 1 s glitch window runs out and SEC_ALARM_STATUS.GLITCHES falls back. -/
  | glitchWindowExpiry
deriving DecidableEq, Repr

end Sys2Proof
end

