-- ==== Sys2Proof/Machine/Bits.lean ====
section
/-! DEFINITION. Bit fields, sign extension and byte order (00 R10), saturating counters, small list helpers. -/
namespace Sys2Proof.Machine

/-- Bits [hi:lo] of a word (00 R10). -/
def bits (w hi lo : Nat) : Nat := (w >>> lo) % 2 ^ (hi + 1 - lo)

/-- Bit n of a word. -/
def bitOf (w n : Nat) : Bool := (w >>> n) % 2 == 1

/-- A Bool as a bit. -/
def b2n (b : Bool) : Nat := if b then 1 else 0

/-- The value of a w-bit code read as two's complement. -/
def toSigned (w c : Nat) : Int := if c % 2 ^ w < 2 ^ (w - 1) then ((c % 2 ^ w : Nat) : Int) else ((c % 2 ^ w : Nat) : Int) - (2 ^ w : Nat)

/-- The w-bit two's-complement code of an integer. -/
def ofSigned (w : Nat) (x : Int) : Nat := (x % ((2 ^ w : Nat) : Int)).toNat

/-- n bytes of a value, least significant first (00 R10). -/
def toLE : Nat → Nat → List Nat
  | 0, _ => []
  | n + 1, v => v % 256 :: toLE n (v / 256)

/-- A value from bytes, least significant first (00 R10). -/
def ofLE : List Nat → Nat
  | [] => 0
  | b :: bs => b % 256 + 256 * ofLE bs

/-- A value from bytes, most significant first. -/
def ofBE (bs : List Nat) : Nat := ofLE bs.reverse

/-- A list in pieces of c; n bounds the number of pieces. -/
def chunks {α : Type} (c : Nat) : Nat → List α → List (List α)
  | 0, _ => []
  | n + 1, l => if l.isEmpty then [] else l.take c :: chunks c n (l.drop c)

/-- The n bytes of a list at an offset; bytes past its end read 0. -/
def sliceAt (bs : List Nat) (off n : Nat) : List Nat :=
  let s := (bs.drop off).take n
  s ++ List.replicate (n - s.length) 0

/-- A little-endian field of a record: n bytes at an offset. -/
def fieldAt (bs : List Nat) (off n : Nat) : Nat := ofLE (sliceAt bs off n)

/-- The 32-bit word at index i of a record. -/
def wordAt (bs : List Nat) (i : Nat) : Nat := fieldAt bs (4 * i) 4

/-- The ceiling of a division; 0 when the divisor is 0. -/
def ceilDiv (a b : Nat) : Nat := if b = 0 then 0 else (a + b - 1) / b

/-- Round up to a multiple of n. -/
def roundUp (a n : Nat) : Nat := n * ceilDiv a n

/-- The stop value of every 32-bit counter of the device. -/
def counterMax : Nat := 0xFFFFFFFF

/-- A 32-bit count raised by n; it stops at 0xFFFF_FFFF (02 R75 and every counter's entry). -/
def satAdd (c n : Nat) : Nat := min counterMax (c + n)

/-- The element of a list at an index, or the given value past its end. -/
def nthD {α : Type} (d : α) (l : List α) (i : Nat) : α := (l[i]?).getD d

/-- The list with the element at an index replaced by its image; unchanged past its end. -/
def modNth {α : Type} (f : α → α) : List α → Nat → List α
  | [], _ => []
  | x :: xs, 0 => f x :: xs
  | x :: xs, i + 1 => x :: modNth f xs i

/-- Insertion before the first element that the order puts after it: a stable sort's step. -/
def insertBy {α : Type} (le : α → α → Bool) (x : α) : List α → List α
  | [] => [x]
  | y :: ys => if le y x then y :: insertBy le x ys else x :: y :: ys

/-- A stable insertion sort. -/
def sortBy {α : Type} (le : α → α → Bool) (l : List α) : List α :=
  l.foldl (fun acc x => insertBy le x acc) []

/-- The sum of a list of naturals. -/
def sumNat (l : List Nat) : Nat := l.foldl (· + ·) 0

/-- The sum of a list of integers. -/
def sumInt (l : List Int) : Int := l.foldl (· + ·) 0

/-- The values lo, lo + 1, … of a range of n. -/
def range' (lo n : Nat) : List Nat := (List.range n).map (lo + ·)

/-- 2 ^ k for an integer exponent, as a numerator and a denominator. -/
def pow2Frac (k : Int) : Nat × Nat := if 0 ≤ k then (2 ^ k.toNat, 1) else (1, 2 ^ (-k).toNat)

/-- A natural times 2 ^ k, rounded toward zero. -/
def shiftNat (m : Nat) (k : Int) : Nat := if 0 ≤ k then m <<< k.toNat else m >>> (-k).toNat

/-- An arithmetic shift right of an integer, rounding toward −∞ (05 R157). -/
def sar (x : Int) (n : Nat) : Int := Int.fdiv x ((2 ^ n : Nat) : Int)

/-- The integer square root by one bit a step, from bit n − 1 down. -/
def isqrtAux (x : Nat) : Nat → Nat → Nat
  | 0, r => r
  | n + 1, r => let t := r + 2 ^ n; isqrtAux x n (if t * t ≤ x then t else r)

/-- The greatest r with r × r ≤ x. -/
def isqrt (x : Nat) : Nat := isqrtAux x (Nat.log2 x / 2 + 1) 0

/-- The least k with n ≤ 2 ^ k. -/
def ceilLog2 (n : Nat) : Nat := if n ≤ 1 then 0 else Nat.log2 (n - 1) + 1

end Sys2Proof.Machine
end

