-- ==== Sys2Proof/Machine/Flags.lean ====
section
/-! DEFINITION. The numeric flags of 02 R74 and their register images (02 R75, 05 R156). -/
namespace Sys2Proof.Machine

/-- The numeric flags of 02 R74. -/
structure NumFlags where
  invalid : Bool := false
  nanOut : Bool := false
  overflow : Bool := false
  satAny : Bool := false
  flush : Bool := false
  kblockRange : Bool := false
deriving DecidableEq, Repr

/-- No flag set. -/
def NumFlags.none : NumFlags := {}

/-- Flags are sticky: a new event is ORed into the kept ones (02 R74). -/
def NumFlags.or (a b : NumFlags) : NumFlags :=
  { invalid := a.invalid || b.invalid, nanOut := a.nanOut || b.nanOut, overflow := a.overflow || b.overflow,
    satAny := a.satAny || b.satAny, flush := a.flush || b.flush, kblockRange := a.kblockRange || b.kblockRange }

/-- INVALID alone. -/
def NumFlags.inv (b : Bool) : NumFlags := { invalid := b }

/-- FLUSH alone. -/
def NumFlags.fl (b : Bool) : NumFlags := { flush := b }

/-- Bits [5:0] of PAN_NUM_STATUS (02 R75). -/
def NumFlags.toNat (f : NumFlags) : Nat :=
  b2n f.invalid + 2 * b2n f.nanOut + 4 * b2n f.overflow + 8 * b2n f.satAny + 16 * b2n f.flush
    + 32 * b2n f.kblockRange

/-- A conversion's answer: the code written, the flags it set, the SAT events it counted (02 R67). -/
structure Conv where
  code : Nat
  flags : NumFlags := {}
  sat : Nat := 0
deriving DecidableEq, Repr

end Sys2Proof.Machine
end

