-- ==== Sys2Proof/Machine/Operands.lean ====
section
/-! DEFINITION. Number formats, the values their codes stand for, and dense packing (02 R42 to R52). -/
namespace Sys2Proof.Machine

/-- The formats of 02 R44. -/
inductive Fmt where
  | fp32 | bf16 | fp16 | e4m3 | e5m2 | e2m3 | e3m2 | e2m1 | int8 | int4 | int16 | int32 | e8m0
deriving DecidableEq, Repr

/-- The format a 4-bit code names; codes 0xD to 0xF are reserved (02 R44). -/
def Fmt.ofCode : Nat → Option Fmt
  | 0 => some .fp32 | 1 => some .bf16 | 2 => some .fp16 | 3 => some .e4m3 | 4 => some .e5m2
  | 5 => some .e2m3 | 6 => some .e3m2 | 7 => some .e2m1 | 8 => some .int8 | 9 => some .int4
  | 10 => some .int16 | 11 => some .int32 | 12 => some .e8m0 | _ => none

/-- The width of a format in bits (02 R44). -/
def Fmt.width : Fmt → Nat
  | .fp32 | .int32 => 32
  | .bf16 | .fp16 | .int16 => 16
  | .e4m3 | .e5m2 | .int8 | .e8m0 => 8
  | .e2m3 | .e3m2 => 6
  | .e2m1 | .int4 => 4

/-- An integer format (02 R50). -/
def Fmt.isInt : Fmt → Bool
  | .int8 | .int4 | .int16 | .int32 => true
  | _ => false

/-- A floating-point format (02 R46). -/
def Fmt.isFloat : Fmt → Bool
  | .fp32 | .bf16 | .fp16 | .e4m3 | .e5m2 | .e2m3 | .e3m2 | .e2m1 => true
  | _ => false

/-- The wide outputs of 02 R68. -/
def Fmt.isWide : Fmt → Bool
  | .fp32 | .bf16 | .fp16 => true
  | _ => false

/-- Mantissa bits mb (02 R46). -/
def Fmt.mb : Fmt → Nat
  | .fp32 => 23 | .bf16 => 7 | .fp16 => 10 | .e4m3 => 3 | .e5m2 => 2 | .e2m3 => 3 | .e3m2 => 2 | .e2m1 => 1
  | _ => 0

/-- Exponent bias (02 R46). -/
def Fmt.bias : Fmt → Nat
  | .fp32 => 127 | .bf16 => 127 | .fp16 => 15 | .e4m3 => 7 | .e5m2 => 15 | .e2m3 => 1 | .e3m2 => 3 | .e2m1 => 1
  | _ => 0

/-- The exponent of the smallest normal, 1 − bias (02 R46). -/
def Fmt.emin (f : Fmt) : Int := 1 - (f.bias : Int)

/-- The code of the largest finite positive value (02 R46). -/
def Fmt.maxCode : Fmt → Nat
  | .fp32 => 0x7F7FFFFF | .bf16 => 0x7F7F | .fp16 => 0x7BFF | .e4m3 => 0x7E | .e5m2 => 0x7B
  | .e2m3 => 0x1F | .e3m2 => 0x1F | .e2m1 => 7
  | _ => 0

/-- The canonical NaN of a format that has one (02 R53). -/
def Fmt.nanCode : Fmt → Option Nat
  | .fp32 => some 0x7FC00000 | .bf16 => some 0x7FC0 | .fp16 => some 0x7E00 | .e4m3 => some 0x7F
  | .e5m2 => some 0x7E
  | _ => none

/-- The code of +Inf of a format that has infinities (02 R46). -/
def Fmt.infCode : Fmt → Option Nat
  | .fp32 => some 0x7F800000 | .bf16 => some 0x7F80 | .fp16 => some 0x7C00 | .e5m2 => some 0x7C
  | _ => none

/-- The sign bit's weight. -/
def Fmt.signBit (f : Fmt) : Nat := 2 ^ (f.width - 1)

/-- What a code stands for: a NaN (signalling or quiet), an infinity, or the finite m × 2 ^ e with its sign
(a zero keeps its sign). -/
inductive Val where
  | nan (signalling : Bool)
  | inf (neg : Bool)
  | fin (neg : Bool) (m : Nat) (e : Int)
deriving DecidableEq, Repr

/-- An integer as a value. -/
def Val.ofInt (x : Int) : Val := .fin (decide (x < 0)) x.natAbs 0

/-- A floating-point code's value (02 R46 to R49, R52). -/
def decodeFloat (f : Fmt) (c : Nat) : Val :=
  let s := decide (f.signBit ≤ c % 2 ^ f.width)
  let mag := c % f.signBit
  let ex := mag >>> f.mb
  let m := mag % 2 ^ f.mb
  match f.infCode with
  | some i =>
    if mag = i then .inf s
    else if i < mag then .nan (decide (m < 2 ^ (f.mb - 1)))
    else if ex = 0 then .fin s m (f.emin - f.mb) else .fin s (2 ^ f.mb + m) ((ex : Int) - f.bias - f.mb)
  | none =>
    if f = .e4m3 ∧ mag = 0x7F then .nan false
    else if ex = 0 then .fin s m (f.emin - f.mb) else .fin s (2 ^ f.mb + m) ((ex : Int) - f.bias - f.mb)

/-- The value of a code of any format (02 R46 to R52). -/
def decodeVal (f : Fmt) (c : Nat) : Val :=
  match f with
  | .int8 => .ofInt (toSigned 8 c)
  | .int4 => .ofInt (toSigned 4 c)
  | .int16 => .ofInt (toSigned 16 c)
  | .int32 => .ofInt (toSigned 32 c)
  | .e8m0 => if c % 256 = 0xFF then .nan false else .fin false 1 ((c % 256 : Nat) - 127)
  | f => decodeFloat f c

def Val.isNan : Val → Bool
  | .nan _ => true
  | _ => false

/-- A signalling NaN (02 R52). -/
def Val.isSNan : Val → Bool
  | .nan s => s
  | _ => false

def Val.isInf : Val → Bool
  | .inf _ => true
  | _ => false

def Val.isZero : Val → Bool
  | .fin _ 0 _ => true
  | _ => false

def Val.isNeg : Val → Bool
  | .nan _ => false
  | .inf s => s
  | .fin s _ _ => s

/-- A finite, non-zero value. -/
def Val.isFinNz : Val → Bool
  | .fin _ (_ + 1) _ => true
  | _ => false

/-- The signed integer m, for a finite value. -/
def Val.sm : Val → Int
  | .fin s m _ => if s then -(m : Int) else m
  | _ => 0

/-- Input FTZ (02 R63): a subnormal reads as a zero of its sign, and FLUSH is set. -/
def ftzIn (on : Bool) (f : Fmt) (v : Val) : Val × Bool :=
  match v with
  | .fin s m e => if on && f.isFloat && m != 0 && e == f.emin - f.mb && decide (m < 2 ^ f.mb) then (.fin s 0 e, true) else (v, false)
  | _ => (v, false)

/-- The bytes that n densely packed elements of a format take, the last byte or 6-bit group padded (02 R45). -/
def packedBytes (f : Fmt) (n : Nat) : Nat :=
  match f.width with
  | 4 => ceilDiv n 2
  | 6 => 3 * ceilDiv n 4
  | w => n * (w / 8)

/-- Element i of densely packed bytes (02 R45). -/
def unpackAt (f : Fmt) (byteAt : Nat → Nat) (i : Nat) : Nat :=
  match f.width with
  | 4 => (byteAt (i / 2) >>> (4 * (i % 2))) % 16
  | 6 => (ofLE [byteAt (3 * (i / 4)), byteAt (3 * (i / 4) + 1), byteAt (3 * (i / 4) + 2)] >>> (6 * (i % 4))) % 64
  | 8 => byteAt i
  | 16 => ofLE [byteAt (2 * i), byteAt (2 * i + 1)]
  | _ => ofLE [byteAt (4 * i), byteAt (4 * i + 1), byteAt (4 * i + 2), byteAt (4 * i + 3)]

/-- Pairs of nibbles as bytes, low nibble first. -/
def pack4 : List Nat → List Nat
  | [] => []
  | [a] => [a % 16]
  | a :: b :: r => (a % 16 + 16 * (b % 16)) :: pack4 r

/-- Groups of four 6-bit codes as three bytes each. -/
def pack6 : List Nat → List Nat
  | [] => []
  | a :: r =>
    match r with
    | [] => toLE 3 (a % 64)
    | [b] => toLE 3 (a % 64 + 64 * (b % 64))
    | [b, c] => toLE 3 (a % 64 + 64 * (b % 64) + 4096 * (c % 64))
    | b :: c :: d :: r' => toLE 3 (a % 64 + 64 * (b % 64) + 4096 * (c % 64) + 262144 * (d % 64)) ++ pack6 r'

/-- Codes as densely packed bytes, padded with zero bits (02 R45). -/
def packCodes (f : Fmt) (cs : List Nat) : List Nat :=
  match f.width with
  | 4 => pack4 cs
  | 6 => pack6 cs
  | w => (cs.map (toLE (w / 8))).flatten

end Sys2Proof.Machine
end

