-- ==== Sys2Proof/Machine/Convert.lean ====
section
/-! DEFINITION. Exact arithmetic on values, and the one rounding into each format (02 R53 to R73). -/
namespace Sys2Proof.Machine

/-- The rounding modes of 02 R65. -/
inductive RMode where
  | rne | rtz | rup | rdn | sr
deriving DecidableEq, Repr

/-- The mode a 3-bit code names; codes 5 to 7 are reserved (02 R65). -/
def RMode.ofCode : Nat → Option RMode
  | 0 => some .rne | 1 => some .rtz | 2 => some .rup | 3 => some .rdn | 4 => some .sr | _ => none

/-- ⌊log₂ (num / den)⌋ of a positive rational. -/
def floorLog2 (num den : Nat) : Int :=
  let l : Int := (Nat.log2 num : Int) - (Nat.log2 den : Int)
  if 0 ≤ l then (if den <<< l.toNat ≤ num then l else l - 1)
  else (if den ≤ num <<< (-l).toNat then l else l - 1)

/-- Whether the value n + rem / den is rounded up in magnitude (02 R67, R71). Under SR the magnitude is raised for either sign, as the code of R67 has it,
where R71's words say toward +infinity (DEDUCED, notes/assumptions/39.md). -/
def roundsUp (mode : RMode) (neg : Bool) (n rem den r : Nat) : Bool :=
  match mode with
  | .rne => decide (den < 2 * rem) || (decide (2 * rem = den) && n % 2 == 1)
  | .rtz => false
  | .rup => decide (0 < rem) && !neg
  | .rdn => decide (0 < rem) && neg
  | .sr => decide (r < rem * 2 ^ 32 / den)

/-- A signed zero's code; integer zeros are unsigned (02 R70, R73). -/
def zeroCode (f : Fmt) (neg : Bool) : Nat := if neg && f.isFloat then f.signBit else 0

/-- The code of a sign with the largest finite magnitude. -/
def maxFinite (f : Fmt) (neg : Bool) : Nat := f.maxCode + (if neg then f.signBit else 0)

/-- An infinity's code, in a format that has one. -/
def infOf (f : Fmt) (neg : Bool) : Nat := (f.infCode.getD 0) + (if neg then f.signBit else 0)

/-- 02 R67: an exact positive magnitude num / den with a sign into a floating-point format. -/
def convertFloat (neg : Bool) (num den : Nat) (f : Fmt) (mode : RMode) (ftz ovfSp : Bool) (r : Nat) : Conv :=
  let lg := floorLog2 num den
  if ftz && decide (lg < f.emin) then { code := zeroCode f neg, flags := .fl true }
  else
    let e0 := max lg f.emin
    let k := e0 - f.mb
    let num' := if 0 ≤ k then num else num <<< (-k).toNat
    let den' := if 0 ≤ k then den <<< k.toNat else den
    let n0 := num' / den'
    let rem := num' % den'
    let n1 := if roundsUp mode neg n0 rem den' r then n0 + 1 else n0
    let n := if n1 = 2 ^ (f.mb + 1) then 2 ^ f.mb else n1
    let e := if n1 = 2 ^ (f.mb + 1) then e0 + 1 else e0
    let enc := if n < 2 ^ f.mb then n else ((e + f.bias).toNat <<< f.mb) + (n - 2 ^ f.mb)
    if f.maxCode < enc then
      if f.isWide then
        if mode = .rtz ∨ (mode = .rup ∧ neg = true) ∨ (mode = .rdn ∧ neg = false) then
          { code := maxFinite f neg, flags := { overflow := true } }
        else { code := infOf f neg, flags := { overflow := true } }
      else if ovfSp && decide (f = .e4m3) then { code := 0x7F, flags := { overflow := true, nanOut := true } }
      else if ovfSp && decide (f = .e5m2) then { code := infOf f neg, flags := { overflow := true } }
      else { code := maxFinite f neg, flags := { overflow := true, satAny := true }, sat := 1 }
    else if n = 0 then { code := zeroCode f neg }
    else { code := enc + (if neg then f.signBit else 0) }

/-- The most positive and most negative integers of an integer format (02 R50). -/
def intMax (f : Fmt) : Int := (2 ^ (f.width - 1) : Nat) - 1
def intMin (f : Fmt) : Int := -((2 ^ (f.width - 1) : Nat) : Int)

/-- 02 R70: an exact magnitude with a sign into an integer format. -/
def convertInt (neg : Bool) (num den : Nat) (f : Fmt) (mode : RMode) (r : Nat) : Conv :=
  let n0 := num / den
  let n := if roundsUp mode neg n0 (num % den) den r then n0 + 1 else n0
  let x : Int := if neg then -(n : Int) else n
  let c := max (intMin f) (min (intMax f) x)
  if c = x then { code := ofSigned f.width x }
  else { code := ofSigned f.width c, flags := { overflow := true, satAny := true }, sat := 1 }

/-- 02 R69: an infinity into each format. -/
def convertInf (neg : Bool) (f : Fmt) (ovfSp : Bool) : Conv :=
  if f.isInt then
    { code := ofSigned f.width (if neg then intMin f else intMax f), flags := { satAny := true, invalid := true }, sat := 1 }
  else match f.infCode with
  | some _ => { code := infOf f neg }
  | none =>
    if f = .e4m3 ∧ ovfSp = true then { code := 0x7F, flags := { nanOut := true } }
    else { code := maxFinite f neg, flags := { satAny := true }, sat := 1 }

/-- 02 R69: a NaN into each format. -/
def convertNan (f : Fmt) : Conv :=
  match f.nanCode with
  | some c => { code := c, flags := { nanOut := true } }
  | none => { code := 0, flags := { nanOut := true, invalid := true } }

/-- The conversion of an exact value into a format (02 R67, R69, R70, R73). A signalling NaN sets INVALID (02 R54). -/
def convertVal (v : Val) (f : Fmt) (mode : RMode) (ftz ovfSp : Bool) (r : Nat) : Conv :=
  match v with
  | .nan sn => { convertNan f with flags := (convertNan f).flags.or (.inv sn) }
  | .inf s => convertInf s f ovfSp
  | .fin s 0 _ => { code := zeroCode f s }
  | .fin s m e =>
    let p := pow2Frac e
    if f.isInt then convertInt s (m * p.1) p.2 f mode r else convertFloat s (m * p.1) p.2 f mode ftz ovfSp r

/-- The conversion of an exact quotient (numerator and denominator values of one sign each, den > 0). -/
def convertRat (neg : Bool) (num den : Nat) (f : Fmt) (mode : RMode) (ovfSp : Bool) (r : Nat) : Conv :=
  if num = 0 then { code := zeroCode f neg }
  else if f.isInt then convertInt neg num den f mode r else convertFloat neg num den f mode false ovfSp r

/-- The scale code of a cast from a finite amax m · 2^e, the margin exponent g and the target format: the least k with
amax · 2^g ≤ F · 2^k, biased and clamped to [lo, hi] (10 R268). Pan programs compute it; a cast is then VMUL by 2⁻ᵏ and VCVT (10 R267). -/
def scaleCode (m : Nat) (e : Int) (g : Nat) (f : Fmt) (lo hi : Nat) : Nat :=
  if m = 0 then 0x7F
  else match decodeVal f (if f.isInt then 127 else f.maxCode) with
  | .fin _ mf ef =>
    let l := floorLog2 m mf
    let exact := if 0 ≤ l then decide (m = mf <<< l.toNat) else decide (m <<< (-l).toNat = mf)
    let k : Int := l + (if exact then 0 else 1) + e + g - ef
    (max (lo : Int) (min (hi : Int) (k + 127))).toNat
  | _ => hi

/-- The exact product; an invalid product is a NaN and sets INVALID (02 R54, R55). -/
def mulVal (a b : Val) : Val × Bool :=
  let neg := xor a.isNeg b.isNeg
  if a.isNan || b.isNan then (.nan false, a.isSNan || b.isSNan)
  else match a, b with
  | .inf _, b => if b.isZero then (.nan false, true) else (.inf neg, false)
  | a, .inf _ => if a.isZero then (.nan false, true) else (.inf neg, false)
  | .fin _ m e, .fin _ n f => (.fin neg (m * n) (e + f), false)
  | _, _ => (.nan false, true)

/-- Two finite values on their lesser exponent: the exact signed sum and that exponent. -/
def addFin (a b : Val) : Int × Int :=
  match a, b with
  | .fin _ _ e, .fin _ _ f =>
    let g := min e f
    (a.sm * ((2 ^ (e - g).toNat : Nat) : Int) + b.sm * ((2 ^ (f - g).toNat : Nat) : Int), g)
  | _, _ => (0, 0)

/-- The exact sum; `zneg` is the sign of a zero sum of addends not both −0 (02 R55, R73; 03 R94). -/
def addVal (a b : Val) (zneg : Bool) : Val × Bool :=
  if a.isNan || b.isNan then (.nan false, a.isSNan || b.isSNan)
  else match a, b with
  | .inf s, .inf t => if s = t then (.inf s, false) else (.nan false, true)
  | .inf s, _ => (.inf s, false)
  | _, .inf t => (.inf t, false)
  | _, _ =>
    let p := addFin a b
    if p.1 = 0 then
      (.fin ((a.isZero && b.isZero && a.isNeg && b.isNeg) || (zneg && !(a.isZero && b.isZero && a.isNeg && b.isNeg))) 0 p.2, false)
    else (.fin (decide (p.1 < 0)) p.1.natAbs p.2, false)

/-- The negation of a value (a subtraction's second addend). -/
def negVal : Val → Val
  | .nan s => .nan s
  | .inf s => .inf (!s)
  | .fin s m e => .fin (!s) m e

/-- a < b of two values that are not NaN, −0 equal to +0 (02 R57). -/
def ltVal (a b : Val) : Bool :=
  match a, b with
  | .inf true, .inf true => false
  | .inf true, _ => true
  | .inf false, _ => false
  | _, .inf s => !s
  | a, b => decide ((addFin a (negVal b)).1 < 0)

/-- a = b of two values that are not NaN, −0 equal to +0 (02 R57). -/
def eqVal (a b : Val) : Bool := !ltVal a b && !ltVal b a

/-- a orders below b for minimum and maximum: −0 below +0 (02 R56). -/
def orderBelow (a b : Val) : Bool := ltVal a b || (eqVal a b && a.isNeg && !b.isNeg)

/-- The maximum of 02 R56 over two (code, value) pairs; none is a canonical NaN result. -/
def pickMax (a b : Nat × Val) : Option (Nat × Val) :=
  match a.2.isNan, b.2.isNan with
  | true, true => none
  | true, false => some b
  | false, true => some a
  | false, false => some (if orderBelow a.2 b.2 then b else a)

/-- The minimum of 02 R56. -/
def pickMin (a b : Nat × Val) : Option (Nat × Val) :=
  match a.2.isNan, b.2.isNan with
  | true, true => none
  | true, false => some b
  | false, true => some a
  | false, false => some (if orderBelow b.2 a.2 then b else a)

/-- The exact sum of finite values as a signed integer at an exponent. -/
def sumFin (vs : List Val) : Int × Int :=
  vs.foldl (fun p v =>
    match v with
    | .fin _ 0 _ => p
    | .fin s m e =>
      let g := min p.2 e
      (p.1 * ((2 ^ (p.2 - g).toNat : Nat) : Int) + (if s then -(m : Int) else m) * ((2 ^ (e - g).toNat : Nat) : Int), g)
    | _ => p) (0, 0)

/-- The exact sum of a reduction under RNE (02 R73): a zero sum is −0 only when every term is −0, and the sum
of no terms is +0; both infinities give NaN and INVALID (02 R55). -/
def sumVals (vs : List Val) : Val × Bool :=
  let sn := vs.any Val.isSNan
  let p := vs.any (fun v => v == .inf false)
  let n := vs.any (fun v => v == .inf true)
  if vs.any Val.isNan then (.nan false, sn || (p && n))
  else if p && n then (.nan false, true)
  else if p then (.inf false, false)
  else if n then (.inf true, false)
  else
    let s := sumFin vs
    if s.1 = 0 then (.fin (!vs.isEmpty && vs.all (fun v => v.isZero && v.isNeg)) 0 0, false)
    else (.fin (decide (s.1 < 0)) s.1.natAbs s.2, false)

/-- The FP32 code of a value under RNE with subnormals kept (05 R157). -/
def fp32Of (v : Val) : Nat := (convertVal v .fp32 .rne false false 0).code

/-- An FP32 code's value. -/
def fp32V (c : Nat) : Val := decodeFloat .fp32 c

/-- The least integer at or above a finite value. -/
def ceilVal (v : Val) : Int :=
  match v with
  | .fin s m e => if 0 ≤ e then (if s then -1 else 1) * ((m <<< e.toNat : Nat) : Int)
                  else - Int.fdiv (-(if s then -(m : Int) else m)) ((2 ^ (-e).toNat : Nat) : Int)
  | _ => 0

/-- ⌊v × 2 ^ k⌋ of a finite value. -/
def floorScaled (v : Val) (k : Nat) : Int :=
  match v with
  | .fin s m e =>
    let x : Int := if s then -(m : Int) else m
    let g := e + k
    if 0 ≤ g then x * ((2 ^ g.toNat : Nat) : Int) else Int.fdiv x ((2 ^ (-g).toNat : Nat) : Int)
  | _ => 0

/-- rne_int: the nearest integer to num / den, ties to even (05 R157). -/
def rneInt (num : Int) (den : Nat) : Int :=
  let q := Int.fdiv num den
  let r := num - q * den
  if (den : Int) < 2 * r then q + 1 else if 2 * r = den ∧ q % 2 ≠ 0 then q + 1 else q

end Sys2Proof.Machine
end

