-- ==== Sys2Proof/Machine/Functions.lean ====
section
/-! DEFINITION. The defined functions, bit for bit (05 R157 to R163), and the rotary sine and cosine (07 R223).
The tables are the numbers that the formulas of 05 R158 and 07 R223 give. -/
namespace Sys2Proof.Machine

/-- T2[j] = rne_int(2^(j/64) × 2^30) (05 R158). -/
def tabT2 : List Nat :=
  [1073741824, 1085434106, 1097253708, 1109202018, 1121280436, 1133490379, 1145833280, 1158310587, 1170923762, 1183674286, 1196563654, 1209593378, 1222764986, 1236080024, 1249540052, 1263146652] ++
  [1276901417, 1290805962, 1304861917, 1319070932, 1333434672, 1347954824, 1362633090, 1377471191, 1392470869, 1407633882, 1422962010, 1438457051, 1454120821, 1469955159, 1485961921, 1502142985] ++
  [1518500250, 1535035634, 1551751076, 1568648537, 1585730000, 1602997467, 1620452965, 1638098541, 1655936265, 1673968228, 1692196547, 1710623359, 1729250827, 1748081133, 1767116489, 1786359126] ++
  [1805811301, 1825475297, 1845353420, 1865448001, 1885761398, 1906295993, 1927054196, 1948038440, 1969251188, 1990694927, 2012372174, 2034285470, 2056437387, 2078830522, 2101467502, 2124350982]

/-- RC[j] = rne_int(2^30 / c_j), c_j = 1 + (2j + 1)/128 (05 R158). -/
def tabRC : List Nat :=
  [1065418244, 1049152317, 1033375590, 1018066322, 1003204040, 988769449, 974744351, 961111563, 947854852, 934958867, 922409084, 910191745, 898293814, 886702926, 875407347, 864395934] ++
  [853658096, 843183764, 832963354, 822987745, 813248245, 803736570, 794444818, 785365448, 776491263, 767815383, 759331235, 751032533, 742913262, 734967666, 727190230, 719575673] ++
  [712118930, 704815146, 697659662, 690648007, 683775888, 677039180, 670433919, 663956297, 657602648, 651369448, 645253303, 639250946, 633359233, 627575130, 621895717, 616318177] ++
  [610839793, 605457945, 600170102, 594973825, 589866753, 584846611, 579911196, 575058383, 570286114, 565592401, 560975320, 556433010, 551963669, 547565552, 543236970, 538976288]

/-- G[j] = rne_int(log2(c_j) × 2^30) (05 R158). -/
def tabG : List Nat :=
  [12055174, 35887675, 59359063, 82480119, 105261148, 127712004, 149842124, 171660541, 193175914, 214396548, 235330407, 255985140, 276368092, 296486323, 316346620, 335955515] ++
  [355319292, 374444004, 393335482, 411999347, 430441017, 448665721, 466678506, 484484242, 502087636, 519493235, 536705435, 553728485, 570566499, 587223455, 603703206, 620009483] ++
  [636145900, 652115959, 667923055, 683570481, 699061430, 714399001, 729586201, 744625951, 759521085, 774274358, 788888448, 803365955, 817709409, 831921271, 846003931, 859959719] ++
  [873790901, 887499680, 901088206, 914558569, 927912807, 941152905, 954280797, 967298370, 980207461, 993009864, 1005707329, 1018301561, 1030794226, 1043186948, 1055481314, 1067678873]

/-- SN[j] = rne_int(sin(2πj/256) × 2^30) (07 R223). -/
def tabSN : List Nat :=
  [0, 26350943, 52686014, 78989349, 105245103, 131437462, 157550647, 183568930, 209476638, 235258165, 260897982, 286380643, 311690799, 336813204, 361732726, 386434353] ++
  [410903207, 435124548, 459083786, 482766489, 506158392, 529245404, 552013618, 574449320, 596538995, 618269338, 639627258, 660599890, 681174602, 701339000, 721080937, 740388522] ++
  [759250125, 777654384, 795590213, 813046808, 830013654, 846480531, 862437520, 877875009, 892783698, 907154608, 920979082, 934248793, 946955747, 959092290, 970651112, 981625251] ++
  [992008094, 1001793390, 1010975242, 1019548121, 1027506862, 1034846671, 1041563127, 1047652185, 1053110176, 1057933813, 1062120190, 1065666786, 1068571464, 1070832474, 1072448455, 1073418433]

/-- CS[j] = rne_int(cos(2πj/256) × 2^30) (07 R223). -/
def tabCS : List Nat :=
  [1073741824, 1073418433, 1072448455, 1070832474, 1068571464, 1065666786, 1062120190, 1057933813, 1053110176, 1047652185, 1041563127, 1034846671, 1027506862, 1019548121, 1010975242, 1001793390] ++
  [992008094, 981625251, 970651112, 959092290, 946955747, 934248793, 920979082, 907154608, 892783698, 877875009, 862437520, 846480531, 830013654, 813046808, 795590213, 777654384] ++
  [759250125, 740388522, 721080937, 701339000, 681174602, 660599890, 639627258, 618269338, 596538995, 574449320, 552013618, 529245404, 506158392, 482766489, 459083786, 435124548] ++
  [410903207, 386434353, 361732726, 336813204, 311690799, 286380643, 260897982, 235258165, 209476638, 183568930, 157550647, 131437462, 105245103, 78989349, 52686014, 26350943]

/-- C1 of 05 R158. -/
def constC1 : Int := 744261118

/-- C2 of 05 R158. -/
def constC2 : Int := 257941248

/-- C3 of 05 R158. -/
def constC3 : Int := 59597083

/-- D1 of 05 R158. -/
def constD1 : Int := 1549082005

/-- D2 of 05 R158. -/
def constD2 : Int := 774541002

/-- D3 of 05 R158. -/
def constD3 : Int := 516360668

/-- TP of 07 R223. -/
def constTP : Int := 6746518852

/-- K6 of 07 R223. -/
def constK6 : Int := 178956971

/-- A function's answer: the FP32 code, INVALID, OVERFLOW. -/
structure FnRes where
  code : Nat
  invalid : Bool := false
  overflow : Bool := false
deriving DecidableEq, Repr

/-- The canonical FP32 NaN (02 R53). -/
def nan32 : Nat := 0x7FC00000

/-- FP32 multiplication under RNE with subnormals kept; its flags are discarded (05 R157). -/
def mul32 (a b : Nat) : Nat := fp32Of (mulVal (fp32V a) (fp32V b)).1

/-- FP32 addition under RNE (05 R157). -/
def add32 (a b : Nat) : Nat := fp32Of (addVal (fp32V a) (fp32V b) false).1

/-- FP32 subtraction under RNE (05 R157). -/
def sub32 (a b : Nat) : Nat := fp32Of (addVal (fp32V a) (negVal (fp32V b)) false).1

/-- The integer m of 05 R159 for a 30-bit fraction f: 2^(f / 2^30) × 2^30. -/
def exp2Core (f : Nat) : Nat :=
  let j := f >>> 24
  let rr : Int := ((f % 2 ^ 24 : Nat) : Int)
  let t := sar (rr * constC3) 30
  let t := sar (rr * (constC2 + t)) 30
  let p : Int := 2 ^ 30 + sar (rr * (constC1 + t)) 30
  (sar (((nthD 0 tabT2 j : Nat) : Int) * p) 30).toNat

/-- x ≥ a of a finite value and a natural. -/
def geNat (v : Val) (a : Nat) : Bool := !ltVal v (.fin false a 0)

/-- exp2 (05 R159). -/
def exp2Fn (x : Nat) : FnRes :=
  match fp32V x with
  | .nan s => { code := nan32, invalid := s }
  | .inf false => { code := 0x7F800000 }
  | .inf true => { code := 0 }
  | v =>
    if ltVal v (.fin true 150 0) then { code := 0 }
    else if geNat v 128 then { code := 0x7F800000, overflow := true }
    else
      let big := floorScaled v 30
      let n := sar big 30
      let f := (big - n * 2 ^ 30).toNat
      let c := convertVal (.fin false (exp2Core f) (n - 30)) .fp32 .rne false false 0
      { code := c.code, overflow := c.flags.overflow }

/-- log2 (05 R160). -/
def log2Fn (x : Nat) : FnRes :=
  match fp32V x with
  | .nan s => { code := nan32, invalid := s }
  | .inf true => { code := nan32, invalid := true }
  | .inf false => { code := 0x7F800000 }
  | .fin _ 0 _ => { code := 0xFF800000 }
  | .fin true _ _ => { code := nan32, invalid := true }
  | .fin false m ex =>
    let sh := 23 - Nat.log2 m
    let m24 := m <<< sh
    let e : Int := ex + 23 - sh
    if m24 = 2 ^ 23 then { code := fp32Of (.ofInt e) }
    else
      let j := (m24 >>> 17) - 64
      let q := (m24 * 2 ^ 7 * nthD 0 tabRC j) >>> 30
      let z : Int := (q : Int) - 2 ^ 30
      let t := sar (z * constD3) 30
      let t := sar (z * (constD2 - t)) 30
      let t := sar (z * (constD1 - t)) 30
      let s : Int := e * 2 ^ 30 + ((nthD 0 tabG j : Nat) : Int) + t
      { code := fp32Of (.fin (decide (s < 0)) s.natAbs (-30)) }

/-- 1/x, correctly rounded (05 R161). -/
def rcpFn (x : Nat) : FnRes :=
  match fp32V x with
  | .nan s => { code := nan32, invalid := s }
  | .inf s => { code := zeroCode .fp32 s }
  | .fin s 0 _ => { code := infOf .fp32 s }
  | .fin s m e =>
    let p := pow2Frac (-e)
    let c := convertFloat s p.1 (m * p.2) .fp32 .rne false false 0
    { code := c.code, overflow := c.flags.overflow }

/-- A positive finite m × 2 ^ e as m' × 4 ^ k with m' of at least 128 bits, for a root with its sticky bit. -/
def rootArg (m : Nat) (e : Int) : Nat × Int :=
  let sh : Nat := 128 + (if (e - 128) % 2 = 0 then 0 else 1)
  (m <<< sh, (e - (sh : Int)) / 2)

/-- √(m × 2 ^ e) as a value with a sticky last bit; no exact result lies on a tie (05 R161). -/
def rootVal (m : Nat) (e : Int) : Val :=
  let a := rootArg m e
  let r := isqrt a.1
  .fin false (2 * r + (if r * r = a.1 then 0 else 1)) (a.2 - 1)

/-- √x, correctly rounded (05 R161). -/
def sqrtFn (x : Nat) : FnRes :=
  match fp32V x with
  | .nan s => { code := nan32, invalid := s }
  | .inf false => { code := 0x7F800000 }
  | .inf true => { code := nan32, invalid := true }
  | .fin s 0 _ => { code := zeroCode .fp32 s }
  | .fin true _ _ => { code := nan32, invalid := true }
  | .fin false m e => { code := fp32Of (rootVal m e) }

/-- 1/√x, correctly rounded (05 R161): the root of 2 ^ 256 / m on an even exponent, with a sticky bit. -/
def rsqrtFn (x : Nat) : FnRes :=
  match fp32V x with
  | .nan s => { code := nan32, invalid := s }
  | .inf false => { code := 0 }
  | .inf true => { code := nan32, invalid := true }
  | .fin s 0 _ => { code := infOf .fp32 s }
  | .fin true _ _ => { code := nan32, invalid := true }
  | .fin false m e =>
    let odd := e % 2 ≠ 0
    let num := 2 ^ 256
    let den := if odd then 2 * m else m
    let e' := if odd then e - 1 else e
    let r := isqrt (num / den)
    let exact := r * r * den = num
    { code := fp32Of (.fin false (2 * r + (if exact then 0 else 1)) (-128 - e' / 2 - 1)) }

/-- The sign bit cleared. -/
def abs32 (x : Nat) : Nat := x % 2 ^ 31

/-- tanh (05 R162). -/
def tanhFn (x : Nat) : FnRes :=
  let sgn := x - abs32 x
  match fp32V x with
  | .nan s => { code := nan32, invalid := s }
  | .inf s => { code := 0x3F800000 + (if s then 2 ^ 31 else 0) }
  | .fin _ 0 _ => { code := x }
  | _ =>
    let a := abs32 x
    if ltVal (fp32V a) (.fin false 1 (-12)) then { code := x }
    else if ltVal (fp32V a) (.fin false 1 (-3)) then
      let s := mul32 a a
      let p := add32 0x3E088889 (mul32 s 0xBD5D0DD1)
      let p := add32 0xBEAAAAAB (mul32 s p)
      let y := add32 a (mul32 (mul32 a s) p)
      { code := abs32 y + sgn }
    else
      let e := (exp2Fn (mul32 a 0xC038AA3B)).code
      let y := mul32 (sub32 0x3F800000 e) (rcpFn (add32 0x3F800000 e)).code
      { code := abs32 y + sgn }

/-- sigmoid (05 R163). -/
def sigmFn (x : Nat) : FnRes :=
  match fp32V x with
  | .nan s => { code := nan32, invalid := s }
  | .inf false => { code := 0x3F800000 }
  | .inf true => { code := 0 }
  | _ =>
    let e := (exp2Fn (mul32 x 0xBFB8AA3B)).code
    { code := (rcpFn (add32 0x3F800000 e)).code }

/-- GELU in the tanh form (05 R163). -/
def geluFn (x : Nat) : FnRes :=
  match fp32V x with
  | .nan s => { code := nan32, invalid := s }
  | .inf false => { code := 0x7F800000 }
  | .inf true => { code := 0x80000000 }
  | _ =>
    let u := mul32 (mul32 x x) x
    let v := add32 x (mul32 0x3D372713 u)
    let t := (tanhFn (mul32 0x3F4C422A v)).code
    { code := mul32 (mul32 0x3F000000 x) (add32 0x3F800000 t) }

/-- Sine and cosine of a 64-bit phase, as FP32 codes (07 R223). -/
def sincos (phi : Nat) : Nat × Nat :=
  let u := (phi % 2 ^ 64) >>> 34
  let qd := u >>> 28
  let w := u % 2 ^ 28
  let j := w >>> 22
  let h : Int := ((w % 2 ^ 22 : Nat) : Int)
  let a := sar (h * constTP) 30
  let a2 := sar (a * a) 30
  let c1 : Int := 2 ^ 30 - sar a2 1
  let s1 := a - sar (sar (a2 * a) 30 * constK6) 30
  let sn : Int := ((nthD 0 tabSN j : Nat) : Int)
  let cs : Int := ((nthD 0 tabCS j : Nat) : Int)
  let s0 := sar (sn * c1 + cs * s1) 30
  let c0 := sar (cs * c1 - sn * s1) 30
  let p : Int × Int := match qd with
    | 0 => (s0, c0) | 1 => (c0, -s0) | 2 => (-s0, -c0) | _ => (-c0, s0)
  let f := fun (x : Int) => fp32Of (.fin (decide (x < 0)) x.natAbs (-30))
  (f p.1, f p.2)

end Sys2Proof.Machine
end

