-- ==== Sys2Proof/Config.lean ====
section
/-! DEFINITION. What an implementation fixes and the spec leaves open: constants with no body, so that no
proof can rest on a value of theirs. The log entry of each is named beside it. -/
namespace Sys2Proof

/-- A video picture as its standard decodes it, in-loop filters complete (R335, R336, R341): the dimensions of its sequence, its planes (chroma empty
when monochrome), the numbers of its lost 16 × 16 blocks, and the picture in the list that they are concealed from, none where there is none. -/
structure Picture where
  width : Nat
  height : Nat
  y : List Nat
  cb : List Nat
  cr : List Nat
  lost : List Nat := []
  ref : Option Nat := none
deriving DecidableEq, Repr, Inhabited

namespace Config

/-- A value the spec leaves undefined, for a fresh counter value (DESIGN CHOICE, notes/assumptions/2.md). -/
opaque freeNat : Nat → Nat

/-- The byte an undefined memory byte reads as: the event that made it undefined, then its address
(notes/assumptions/1.md). -/
opaque freeByte : Nat → Nat → Nat

/-- Whether both signatures of a signature block verify over a message under the block's own public keys (R485 steps 6 and 7): the message
bytes, the block's bytes. FIPS 186-5, RFC 8554 and SP 800-208 decide it (notes/assumptions/12.md). -/
opaque signatureValid : List Nat → List Nat → Bool

/-- The fused key hash of a vendor key slot (R485), 48 bytes (notes/assumptions/12.md). -/
opaque vendorKeyHash : Nat → List Nat

/-- The ECDSA signature of a message by the Alias key of a boot (R493, R495, R498). -/
opaque ecdsaSign : List Nat → List Nat → List Nat

/-- The HSS signature of a message at an index (R494, R495). -/
opaque hssSign : Nat → List Nat → List Nat

/-- The certificates CERTS returns (R478, R493), by the boot's measurements. -/
opaque certificates : List Nat → List Nat

/-- The SHA-384 of this device's DeviceID public key (R493, R502), 48 bytes. -/
opaque deviceIdDigest : List Nat

/-- The fused static term of an estimate in mW: the die (a Terrace 0 to 3, or 4 the Quay die) and its hottest sensor in 0.1 °C
(R459, notes/assumptions/28.md). -/
opaque staticPower : Nat → Int → Nat

/-- The fused weight of an activity counter in µW per count: the die, the counter's place (R459, notes/assumptions/28.md). -/
opaque powerWeight : Nat → Nat → Nat

/-- What REENCODE gives for a codec other than 0 and 1, which R347 does not state: the codec, the budget and the input frames. -/
opaque otherCodec : Nat → Nat → List (List Nat) → List (List Nat)

/-- Where the compiled program leaves the outputs of a batch (R422), as a device address and a length, by the program's digest: the program
image carries no such field (notes/assumptions/33.md). -/
opaque batchOutput : List Nat → Nat × Nat

/-- The tensor casts of the compiled program, by its digest, since the program image carries no such table (R273, R275; notes/assumptions/21.md):
how many there are; of a cast 0 TENSOR_ID, 1 UNIT, 2 the recipe KIND, 3 the direction of its unit; the cast that a capture slot of a logical pan captures. -/
opaque castCount : List Nat → Nat
opaque castOf : List Nat → Nat → Nat → Nat
opaque castAt : List Nat → Nat → Nat → Option Nat

/-- Whether the compiled program normalises its gradients by tokens (R284), by its digest. -/
opaque byTokens : List Nat → Bool

/-- The tokens of a token-data sample (R304, R332), by its bytes (notes/assumptions/26.md). -/
opaque tokenCount : List Nat → Nat

/-- What the decoding process of ITU-T H.264, ITU-T H.265 or AV1 gives for the NAL units or OBUs of a stream, by the MEDIA code (an OBU as its type and its
payload): the pictures in output order, and how many syntax errors it meets (R326, R340; notes/assumptions/32.md). -/
opaque videoPictures : Nat → List (List Nat) → List Picture × Nat

/-- The 16-bit samples, channels interleaved, that the device's fixed-point RFC 6716 decoder gives for the packets of a stream, by its identification
header and the packets (R344; notes/assumptions/32.md). -/
opaque opusSamples : List Nat → List (List Nat) → List Int

/-- A byte of a message whose coding the spec does not give, a COLL token's or a Sluice message's, by the message's content (R259, R363;
notes/assumptions/24.md). -/
opaque wireByte : List Nat → Nat → Nat


/-- The cost estimate of a branch's program, and the number of pan groups, by the compiled program's digest (R266; notes/assumptions/20.md). -/
opaque branchCost : List Nat → Nat → Nat
opaque branchGroups : List Nat → Nat

/-- The library's media version number MEDVER (R353). -/
opaque medver : Nat

/-- How many of the first bytes of a STATE buffer are master weights; the rest is optimiser state. The compiled program lays them out (16 R434); its digest
and the buffer's place in the table. -/
opaque masterBytes : List Nat → Nat → Nat

/-- The bytes of a snapshot image of the member that a member holds for: its program is its own (16 R432); the holder's program digest and DP_POS. -/
opaque predecessorImage : List Nat → Nat → Nat

/-- The magic value of a Bittern page header (R482). -/
opaque pageMagic : Nat

end Config

end Sys2Proof
end

