-- ==== Sys2Proof/Machine/Digest.lean ====
section
/-! DEFINITION. The named checks, digests and keyed generators: CRC-32C (19 R511), the CRC-16 of 06 R192,
SHA-384 (FIPS 180-4), Philox4x32-10 with the key and counter of 02 R72, and the shuffle of 11 R298.
The standards' own numbers are PRESUMED (notes/assumptions/13.md). -/
namespace Sys2Proof.Machine

/-- One bit of a reflected CRC-32C (19 R511: polynomial 0x82F6_3B78). -/
def crc32Bit (c : Nat) : Nat := if c % 2 = 1 then Nat.xor (c / 2) 0x82F63B78 else c / 2

/-- One byte of a CRC-32C. -/
def crc32Byte (c b : Nat) : Nat :=
  let x := Nat.xor c (b % 256)
  crc32Bit (crc32Bit (crc32Bit (crc32Bit (crc32Bit (crc32Bit (crc32Bit (crc32Bit x)))))))

/-- CRC-32C of bytes: initial value and final XOR 0xFFFF_FFFF (19 R511). -/
def crc32c (bs : List Nat) : Nat := Nat.xor (bs.foldl crc32Byte 0xFFFFFFFF) 0xFFFFFFFF

/-- One bit of the CRC-16 of 06 R192 (polynomial 0x8BB7, most significant bit first). -/
def crc16Bit (c : Nat) : Nat := if 0x8000 ≤ c then Nat.xor (2 * c % 65536) 0x8BB7 else 2 * c

/-- The check value of a 64-byte block of LPDDR5X and its device address bits [39:6] (06 R192). -/
def crc16Check (block : List Nat) (addr : Nat) : Nat :=
  (block ++ toLE 5 (bits addr 39 6)).foldl (fun c b =>
    let x := Nat.xor c ((b % 256) * 256)
    crc16Bit (crc16Bit (crc16Bit (crc16Bit (crc16Bit (crc16Bit (crc16Bit (crc16Bit x)))))))) 0xFFFF

/-- The round constants of SHA-384. -/
def shaK : List Nat :=
  [0x428A2F98D728AE22, 0x7137449123EF65CD, 0xB5C0FBCFEC4D3B2F, 0xE9B5DBA58189DBBC, 0x3956C25BF348B538, 0x59F111F1B605D019, 0x923F82A4AF194F9B, 0xAB1C5ED5DA6D8118] ++
  [0xD807AA98A3030242, 0x12835B0145706FBE, 0x243185BE4EE4B28C, 0x550C7DC3D5FFB4E2, 0x72BE5D74F27B896F, 0x80DEB1FE3B1696B1, 0x9BDC06A725C71235, 0xC19BF174CF692694] ++
  [0xE49B69C19EF14AD2, 0xEFBE4786384F25E3, 0xFC19DC68B8CD5B5, 0x240CA1CC77AC9C65, 0x2DE92C6F592B0275, 0x4A7484AA6EA6E483, 0x5CB0A9DCBD41FBD4, 0x76F988DA831153B5] ++
  [0x983E5152EE66DFAB, 0xA831C66D2DB43210, 0xB00327C898FB213F, 0xBF597FC7BEEF0EE4, 0xC6E00BF33DA88FC2, 0xD5A79147930AA725, 0x6CA6351E003826F, 0x142929670A0E6E70] ++
  [0x27B70A8546D22FFC, 0x2E1B21385C26C926, 0x4D2C6DFC5AC42AED, 0x53380D139D95B3DF, 0x650A73548BAF63DE, 0x766A0ABB3C77B2A8, 0x81C2C92E47EDAEE6, 0x92722C851482353B] ++
  [0xA2BFE8A14CF10364, 0xA81A664BBC423001, 0xC24B8B70D0F89791, 0xC76C51A30654BE30, 0xD192E819D6EF5218, 0xD69906245565A910, 0xF40E35855771202A, 0x106AA07032BBD1B8] ++
  [0x19A4C116B8D2D0C8, 0x1E376C085141AB53, 0x2748774CDF8EEB99, 0x34B0BCB5E19B48A8, 0x391C0CB3C5C95A63, 0x4ED8AA4AE3418ACB, 0x5B9CCA4F7763E373, 0x682E6FF3D6B2B8A3] ++
  [0x748F82EE5DEFB2FC, 0x78A5636F43172F60, 0x84C87814A1F0AB72, 0x8CC702081A6439EC, 0x90BEFFFA23631E28, 0xA4506CEBDE82BDE9, 0xBEF9A3F7B2C67915, 0xC67178F2E372532B] ++
  [0xCA273ECEEA26619C, 0xD186B8C721C0C207, 0xEADA7DD6CDE0EB1E, 0xF57D4F7FEE6ED178, 0x6F067AA72176FBA, 0xA637DC5A2C898A6, 0x113F9804BEF90DAE, 0x1B710B35131C471B] ++
  [0x28DB77F523047D84, 0x32CAAB7B40C72493, 0x3C9EBE0A15C9BEBC, 0x431D67C49C100D4C, 0x4CC5D4BECB3E42B6, 0x597F299CFC657E2A, 0x5FCB6FAB3AD6FAEC, 0x6C44198C4A475817]

/-- The initial hash value of SHA-384. -/
def shaInit : List Nat :=
  [0xCBBB9D5DC1059ED8, 0x629A292A367CD507, 0x9159015A3070DD17, 0x152FECD8F70E5939, 0x67332667FFC00B31, 0x8EB44A8768581511, 0xDB0C2E0D64F98FA7, 0x47B5481DBEFA4FA4]

/-- 64-bit addition and right rotation. -/
def add64 (a b : Nat) : Nat := (a + b) % 2 ^ 64
def rotr64 (x n : Nat) : Nat := Nat.lor (x >>> n) ((x <<< (64 - n)) % 2 ^ 64)

/-- The message schedule: the newest word first; n more words. -/
def shaSchedule : Nat → List Nat → List Nat
  | 0, w => w
  | n + 1, w =>
    let x2 := nthD 0 w 1
    let x15 := nthD 0 w 14
    let s0 := Nat.xor (Nat.xor (rotr64 x15 1) (rotr64 x15 8)) (x15 >>> 7)
    let s1 := Nat.xor (Nat.xor (rotr64 x2 19) (rotr64 x2 61)) (x2 >>> 6)
    shaSchedule n (add64 (add64 (nthD 0 w 15) s0) (add64 (nthD 0 w 6) s1) :: w)

/-- One round over the eight working values. -/
def shaRound (v : List Nat) (kw : Nat × Nat) : List Nat :=
  match v with
  | [a, b, c, d, e, f, g, h] =>
    let s1 := Nat.xor (Nat.xor (rotr64 e 14) (rotr64 e 18)) (rotr64 e 41)
    let ch := Nat.xor (Nat.land e f) (Nat.land (2 ^ 64 - 1 - e) g)
    let t1 := add64 (add64 (add64 h s1) (add64 ch kw.1)) kw.2
    let s0 := Nat.xor (Nat.xor (rotr64 a 28) (rotr64 a 34)) (rotr64 a 39)
    let mj := Nat.xor (Nat.xor (Nat.land a b) (Nat.land a c)) (Nat.land b c)
    [add64 t1 (add64 s0 mj), a, b, c, add64 d t1, e, f, g]
  | v => v

/-- Eight bytes, most significant first. -/
def be64 (bs : List Nat) : Nat := bs.foldl (fun a b => a * 256 + b % 256) 0

/-- Bytes of a value, most significant first. -/
def toBE (n v : Nat) : List Nat := (toLE n v).reverse

/-- One 128-byte block into the hash value. -/
def shaBlock (h : List Nat) (blk : List Nat) : List Nat :=
  let w0 := (List.range 16).map (fun i => be64 (sliceAt blk (8 * i) 8))
  let w := (shaSchedule 64 w0.reverse).reverse
  let v := (shaK.zip w).foldl shaRound h
  (h.zip v).map (fun p => add64 p.1 p.2)

/-- Every block of a padded message; the fuel is its block count. -/
def shaBlocks : Nat → List Nat → List Nat → List Nat
  | 0, h, _ => h
  | n + 1, h, bs => shaBlocks n (shaBlock h (bs.take 128)) (bs.drop 128)

/-- SHA-384 (FIPS 180-4): 48 bytes. -/
def sha384 (msg : List Nat) : List Nat :=
  let l := msg.length
  let z := (239 - l % 128) % 128
  let p := msg ++ [0x80] ++ List.replicate z 0 ++ toBE 16 (8 * l)
  ((shaBlocks (p.length / 128) shaInit p).take 6).flatMap (toBE 8)

/-- One round of Philox4x32 on (c0, c1, c2, c3) with a key. -/
def philoxRound (c : List Nat) (k0 k1 : Nat) : List Nat :=
  match c with
  | [c0, c1, c2, c3] =>
    let p0 := 0xD2511F53 * c0
    let p1 := 0xCD9E8D57 * c2
    [Nat.xor (Nat.xor (p1 >>> 32) c1) k0, p1 % 2 ^ 32, Nat.xor (Nat.xor (p0 >>> 32) c3) k1, p0 % 2 ^ 32]
  | c => c

/-- n rounds, the key raised by the Weyl constants after each. -/
def philoxRounds : Nat → List Nat → Nat → Nat → List Nat
  | 0, c, _, _ => c
  | n + 1, c, k0, k1 => philoxRounds n (philoxRound c k0 k1) ((k0 + 0x9E3779B9) % 2 ^ 32) ((k1 + 0xBB67AE85) % 2 ^ 32)

/-- Philox4x32-10: the output words of a key and a counter. -/
def philox (k0 k1 : Nat) (ctr : List Nat) : List Nat := philoxRounds 10 ctr k0 k1

/-- The key of a 128-bit seed (02 R72). -/
def seedKey (seed : Nat) : Nat × Nat :=
  (Nat.xor (bits seed 31 0) (bits seed 95 64), Nat.xor (bits seed 63 32) (bits seed 127 96))

/-- The random word of an element for stochastic rounding (02 R72): seed, tag, c2 (step or batch number), tensor
identifier, element index. -/
def srWord (seed tag c2 tensor e : Nat) : Nat :=
  let k := seedKey seed
  nthD 0 (philox k.1 k.2 [bits e 33 2, tag % 65536 * 65536 + bits e 49 34, c2 % 2 ^ 32, tensor % 2 ^ 32]) (e % 4)

/-- Eight Feistel rounds of the shuffle on (l, r) (11 R298). -/
def shuffleRounds (k0 k1 h e : Nat) : Nat → Nat → Nat × Nat → Nat × Nat
  | 0, _, p => p
  | n + 1, i, p =>
    let f := nthD 0 (philox k0 k1 [p.2, 0x5348 * 65536 + i, e % 2 ^ 32, 0]) 0 % 2 ^ h
    shuffleRounds k0 k1 h e n (i + 1) (p.2, Nat.xor p.1 f)

/-- Cycle-walking of the shuffle below n; the fuel bounds the walk by the size of the permuted set. -/
def shuffleWalk (k0 k1 h n e : Nat) : Nat → Nat → Nat
  | 0, x => x
  | fuel + 1, x =>
    let p := shuffleRounds k0 k1 h e 8 0 (x >>> h, x % 2 ^ h)
    let y := p.1 <<< h + p.2
    if y < n then y else shuffleWalk k0 k1 h n e fuel y

/-- π(p): the sample at position p of epoch e of size n (11 R298, R299). -/
def shuffle (seed p n e : Nat) : Nat :=
  let k := seedKey seed
  let b := max 2 (ceilLog2 n)
  let w := b + b % 2
  shuffleWalk k.1 k.2 (w / 2) n e (2 ^ w) p

end Sys2Proof.Machine
end

