-- ==== Sys2Proof/Machine/State.lean ====
section
/-! DEFINITION. The state of the block as plain data: every register, store, queue and mark the spec gives it, and
the queue of the commands that wait. INVENTORY.md lists each piece with its rule and its reset value. -/
namespace Sys2Proof.Machine

/-- A sparse map from numbers: pairs with keys strictly rising, an absent key reading as a default. -/
abbrev SMap (α : Type) := List (Nat × α)

/-! ### The pan (05, 04, 03) -/

/-- The causes that halt a pan core (05 R169; COPY of 06 R182; HALO of 08 R251). -/
inductive Cause where
  | illegal | typ | range | zeroSize | align | access | order | ledgerRec | program | recover | copy | halo
deriving DecidableEq, Repr

/-- A heritage entry's accumulator (03 R109, R548): none before the first chunk, and the next expected K. -/
structure Heritage where
  acc : Option Nat := none
  nextK : Nat := 0
deriving DecidableEq, Repr

/-- A Ledger entry of one column (03 R87, R88, R548): L of 576 bits as an integer in two's-complement range,
the six state bits, its mode, and whether a promotion or packed add has reached it since its clear. -/
structure LEntry where
  l : Int := 0
  nan : Bool := false
  pinf : Bool := false
  ninf : Bool := false
  negz : Bool := true
  invalid : Bool := false
  terms : Bool := false
  heritage : Option Heritage := none
  touched : Bool := false
deriving DecidableEq, Repr

/-- The row state of an attention row (07 R211): the running maximum M as a scaled integer, the minimum relative
exponent, and the four flags; after CLR the row is EMPTY and M is none, −65,536. `attn`: the entry is an attention entry
(07 R208). -/
structure RowState where
  m : Int := -65536
  minRel : Nat := 0
  empty : Bool := true
  floor : Bool := false
  nanRow : Bool := false
  ovfRow : Bool := false
  attn : Bool := false
deriving DecidableEq, Repr

/-- An amax capture slot (10 R273). -/
structure AmaxSlot where
  amax : Nat := 0
  sat : Nat := 0
  inf : Nat := 0
  nan : Nat := 0
deriving DecidableEq, Repr

/-- What PAN_AMAX_SEL holds: EN and SLOT (10 R274). -/
structure AmaxSel where
  en : Bool := false
  slot : Nat := 0
deriving DecidableEq, Repr

/-- Where a descriptor at the head of the queue stands (04 R121, R123). -/
inductive DescPhase where
  | waiting | passes | written | done
deriving DecidableEq, Repr

/-- A descriptor in the queue: its eight words, the capture slot in force at its MXD (10 R273), and its
progress: the phase, the next activation row, the status it will record; `seq` is its place in the order of issue (15 R420). -/
structure Desc where
  words : List Nat
  seq : Nat := 0
  amax : AmaxSel := {}
  phase : DescPhase := .waiting
  row : Nat := 0
  status : Nat := 0
deriving DecidableEq, Repr

/-- The stationary tile as WKEEP compares it (04 R122): the descriptor fields of the load and the pan-store addresses it is
reloaded from: the stored rows, the B K-block scales, the metadata. -/
structure Tile where
  fmtB : Nat
  sparse : Nat
  draw : Nat
  ftzB : Bool
  kbsB : Bool
  n : Nat
  k : Nat
  k0mod : Nat
  bAddr : Nat
  scaleAddr : Nat
  metaAddr : Nat
deriving DecidableEq, Repr

/-- The scalar summary registers (05 R156). -/
structure VSum where
  max : Nat := 0xFF800000
  min : Nat := 0x7F800000
  sum : Nat := 0
  sumHi : Nat := 0
  allZero : Bool := true
  nz : Nat := 0
  nan : Nat := 0
  fp : Bool := true
deriving DecidableEq, Repr

/-- A halted pan core (05 R169): the cause and the status it reports. -/
structure Halt where
  cause : Cause
  status : Nat
deriving DecidableEq, Repr

/-- The vector engine (05 R137, R142, R156, R167): registers as bytes, key 16384·v + byte. -/
structure VEng where
  regs : SMap (BitVec 8) := []
  vsum : VSum := {}
  index : Bool := false
  flags : NumFlags := {}
  tensor : Nat := 0
  ebase : Nat := 0
  vlen : Nat := 0
deriving DecidableEq, Repr

/-- What an instruction of a pan program left in its pan's registers (05 R170). -/
structure CoreStep where
  pc : BitVec 64
  x : Vector (BitVec 64) 31
  done : Option Nat
  running : Bool
  vec : VEng
  sel : AmaxSel
deriving DecidableEq, Repr

/-- The pan core (05 R164): pc, integer registers x1 to x31 (x0 reads 0), mode, core memories, halt, and the
current segment with its number and its hits (R170): the pc and registers it starts from, what each of its instructions has left (`trace`), and how
many of them this run of it has passed (`met`). `done` is the status PDONE gave, once it has run. -/
structure Core where
  pc : BitVec 64 := 0
  x : Vector (BitVec 64) 31 := Vector.replicate 31 0
  machine : Bool := false
  imem : SMap (BitVec 8) := []
  dmem : SMap (BitVec 8) := []
  halt : Option Halt := none
  segStart : BitVec 64 := 0
  segX : Vector (BitVec 64) 31 := Vector.replicate 31 0
  segNo : Nat := 0
  trace : List CoreStep := []
  met : Nat := 0
  hits : Nat := 0
  running : Bool := false
  done : Option Nat := none
deriving DecidableEq, Repr

/-- The matrix array, Ledger file and descriptor queue of a pan (03 R87, 04 R122, R123, R135; 07 R211): the Ledger
file keyed 256·entry + column. -/
structure Array where
  ledger : SMap LEntry := []
  rows : SMap RowState := []
  queue : List Desc := []
  tile : Option Tile := none
  tileValid : Bool := false
  lastStatus : Nat := 0
  consec : Nat := 0
deriving DecidableEq, Repr

/-- The counters and status of a pan (02 R75, 03 R86, 04 R135, 06 R177, 07 R233). -/
structure PanCounts where
  num : NumFlags := {}
  sat : Nat := 0
  spill : Nat := 0
  residue : Nat := 0
  parity : Nat := 0
  attnShift : Nat := 0
  attnFloor : Nat := 0
deriving DecidableEq, Repr

/-- What keys the random words of stochastic rounding on a pan (02 R72, 10 R292): seed, tag, and the step or batch number. -/
structure SrCtx where
  seed : Nat := 0
  tag : Nat := 0x5352
  count : Nat := 0
deriving DecidableEq, Repr

/-- One pan: its engines, flags, capture slots, held granules, droop marks, the logical pan
and job it runs (15 R409), and the vector state and capture selection that the current segment starts from (05 R170); `gated` while it stalls on
the verdict of a redo gate, and the capture slots that the current attempt of a redo unit started from (10 R278, R279). -/
structure Pan where
  core : Core := {}
  vec : VEng := {}
  arr : Array := {}
  counts : PanCounts := {}
  flags : BitVec 64 := 0
  sel : AmaxSel := {}
  slots : List AmaxSlot := List.replicate 16 {}
  held : List Nat := []
  droopSkip : Nat := 0
  droopHeld : Bool := false
  job : Option (Nat × Nat) := none
  sr : SrCtx := {}
  step : Option Nat := none
  segVec : VEng := {}
  segSel : AmaxSel := {}
  gated : Bool := false
  unitSlots : List AmaxSlot := List.replicate 16 {}
deriving DecidableEq, Repr

/-! ### Memory, Terraces, channels, ports, fabric (06, 08, 09, 13) -/

/-- A stretch of the device map and what its unlisted bytes read as: with a seed, the free byte of that seed (the
spec leaves the contents undefined since that event); without, zero. Newer layers come first. -/
structure Layer where
  lo : Nat
  hi : Nat
  seed : Option Nat
deriving DecidableEq, Repr

/-- The device map's bytes (06 R173): the listed cells with addresses strictly rising, over the layers. -/
structure Mem where
  cells : List Host.Cell := []
  layers : List Layer := []
deriving DecidableEq, Repr

/-- A region entry (06 R193); OWNER 0 partition, 1 partner region, 2 firmware only; LIMIT < BASE
disables it. -/
structure Region where
  base : Nat := 0
  limit : Nat := 0
  slot : Nat := 0
  owner : Nat := 0
  part : Nat := 0
  peer : Nat := 0
deriving DecidableEq, Repr

/-- Who issued a copy command: a pan, or Renura firmware (06 R181). -/
inductive Issuer where
  | pan (p : Nat) | firmware
deriving DecidableEq, Repr

/-- An entry that is disabled: LIMIT below BASE. -/
def Region.off : Region := { base := 1 }

/-- A copy command in a Terrace's queue (06 R178, R181, R182): its words, its issuer and the job that firmware issues it for, whether an engine
has taken it, the rows it has moved or asked for, and the tags of the remote transactions it still waits for. -/
structure CopyCmd where
  id : Nat
  words : List Nat
  issuer : Issuer
  seq : Nat := 0
  job : Nat := 16
  started : Bool := false
  row : Nat := 0
  waits : List Nat := []
deriving DecidableEq, Repr

/-- A Skim command in its queue (08 R246): its bytes, the job that issued it, its place in the order of issue. -/
structure SkimCmd where
  bytes : List Nat
  job : Nat
  seq : Nat := 0
deriving DecidableEq, Repr


/-- The DISPATCH in progress on a Terrace (09 R259): whether its admission is done, the grants still due to it as a source, the rows
still due to it as an owner. -/
structure Dispatch where
  answered : Bool := false
  grantsDue : Nat := 0
  rowsDue : Nat := 0
deriving DecidableEq, Repr

/-- A combine count of a target pan, by local number (09 R262): records expected, records applied. -/
structure CombineCount where
  pan : Nat
  expect : Nat
  got : Nat := 0
deriving DecidableEq, Repr

/-- Where the combine records of a source's DISPATCH go (09 R262, R263), the flag they set, and the counts; armed at the
DISPATCH's completion. `rows`: the expert, slot and token of each admitted request; `seen`: the expert, slot and column of each record applied. `missed`
holds a record's sender, Terrace, expert, slot and column once for each mismatch in a row. -/
structure CombineTarget where
  tbase : Nat
  dv : Nat
  pan0 : Nat
  epp : Nat
  lbase : Nat
  flag : Option Nat
  job : Nat
  counts : List CombineCount := []
  armed : Bool := false
  missed : List (List Nat) := []
  rows : List (Nat × Nat × Nat) := []
  seen : List (Nat × Nat × Nat) := []
deriving DecidableEq, Repr

/-- What an owner holds for its next admissions (09 R259): a request or an END, with its source by LOCAL, peer index and Terrace. -/
structure SlIn where
  isLocal : Bool
  peer : Nat
  ter : Nat
  req : Option SlReq := none
deriving DecidableEq, Repr

/-- A branch's work on one sample, and the pan group that firmware gave it (09 R266). -/
structure WorkItem where
  branch : Nat
  sample : Nat
  group : Nat
deriving DecidableEq, Repr

/-- A Sluice command in its queue (09 R254), with its place in the order of issue. -/
structure SluiceCmd where
  bytes : List Nat
  job : Nat
  seq : Nat := 0
deriving DecidableEq, Repr

/-- A Terrace's engines and memory control (06 R183 to R200, 08 R248, 09 R266). Beds and channels are bits. `dirty`: stretches of the
window that the Brine cache may hold unwritten (R186); `groups`: the partner group, as its Bund identifiers, that each key slot serves (R195). -/
structure Terrace where
  bedMode : BitVec 80 := 0
  bedOut : BitVec 80 := 0
  sleeveEn : Bool := false
  sleeveBase : Nat := 0x47
  parity : Nat := 0
  chans : BitVec 32 := 0xFFFFFFFF
  testEn : Bool := false
  regions : List Region := List.replicate 8 {}
  keys : List (Option Nat) := [none, none, none, none]
  groups : List (List Nat) := [[], [], [], []]
  panQuar : BitVec 16 := 0
  lostLines : List Nat := []
  dirty : List (Nat × Nat) := []
  mapOutDue : List Nat := []
deriving DecidableEq, Repr

/-- A Terrace's copy engines, Skim engine and Sluice (06 R181, 08 R246, 09 R254, R259): `waiters` are the issuers that wait for room in the
copy queue, in the order in which they reached it, each with the job it issues for; `returned` is the job and the status of the last command whose
status went back to firmware (06 R182); `inbox` holds the requests and ENDs
received for the next admissions; `targets` are the combine counts of the DISPATCHes whose records are still due, oldest first; `combines` are the
COMBINEs whose tables stand, newest first, which records asked for again are formed from (03 R101); `work` is the packing of the last BRANCH (R266). -/
structure Engines where
  copies : List CopyCmd := []
  waiters : List (Issuer × Nat) := []
  returned : Option (Nat × Nat) := none
  skim : List SkimCmd := []
  skimFailed : Bool := false
  skimResidue : Nat := 0
  sluice : List SluiceCmd := []
  disp : Option Dispatch := none
  inbox : List SlIn := []
  targets : List CombineTarget := []
  combines : List SluiceCmd := []
  work : List WorkItem := []
  skips : Nat := 0
deriving DecidableEq, Repr

/-- A generator run under way (06 R200): PATTERN, OPMODE, START, COUNT and SEED as they stood at GO, and whether a mismatch has been seen
since. -/
structure TgRun where
  pattern : Nat
  opmode : Nat
  start : Nat
  count : Nat
  seed : Nat
  failed : Bool := false
deriving DecidableEq, Repr

/-- Raw bytes that nothing has written, of every channel: the free bytes of a seed; byte k of channel c lies at 2⁴⁸ + 2³³·c + k. -/
def rawUnknown (seed : Nat) : Mem := { layers := [{ lo := 2 ^ 48, hi := 2 ^ 48 + 2 ^ 40, seed := some seed }] }

/-- A channel's raw bytes, counters and traffic generator (06 R196, R200); GO reads 1 while `run` is there. -/
structure Channel where
  raw : Mem := rawUnknown 0
  linkRetry : Nat := 0
  mismatch : Nat := 0
  run : Option TgRun := none
  pattern : Nat := 2
  opmode : Nat := 2
  start : Nat := 0
  count : Nat := 0
  seed : Nat := 0
  done : Bool := false
  aborted : Bool := false
  rejected : Bool := false
  dqFail : Nat := 0
  errCnt : Nat := 0
  failAddr : Nat := 0
  abort : Bool := false
deriving DecidableEq, Repr

/-- A flit that waits to be sent or stands in the retry buffer, with the transaction whose bytes it carries (13 R357 to R359). -/
structure Flit where
  seq : Nat
  vc : Nat
  kind : Nat
  payload : List Nat
  txn : Option Txn := none
deriving DecidableEq, Repr

/-- The states of a Bund port (13 R377). -/
inductive PortState where
  | down | training | full | half
deriving DecidableEq, Repr

/-- A Bund port (13 R355 to R360, R377). `pendFaults`: lanes found faulty during a change (R356); `dead`: down until a Module or Cold
reset (R357); `waiting`: flits that no one has sent yet; `owed`: received flits by virtual channel whose credit is still to be returned; `key`: the
draw that the port key is. A port starts with `credits` of 1,023 on each channel (notes/assumptions/41.md). -/
structure Port where
  encEn : Bool := false
  disable : Bool := false
  state : PortState := .training
  bad : BitVec 9 := 0
  pendFaults : List Nat := []
  retry : Nat := 0
  laneChange : Nat := 0
  authFail : Nat := 0
  rxSeq : Nat := 0
  txSeq : Nat := 0
  buffer : List Flit := []
  resends : Nat := 0
  credits : List Nat := [1023, 1023, 1023, 1023]
  waiting : List Flit := []
  owed : List Nat := [0, 0, 0, 0]
  key : Nat := 0
  keyEpoch : Nat := 0
  keyed : Bool := false
  flitCount : Nat := 0
  mismatches : List Nat := []
  dead : Bool := false
deriving DecidableEq, Repr


/-- A transaction this device sent and waits on (13 R363 to R365): the copy command of a Terrace that asked for it, and where a READ's data
goes; or for a LADD the job here, and the logical pan and the entry and column its first record was formed from (256·entry + column); or the job
whose log entry of a step, or whose layer-1 image, a WRITE to the holder is of (16 R438). -/
structure Pending where
  tag : Nat
  txn : Txn
  ter : Nat := 4
  copy : Nat := 0
  dest : Nat := 0
  job : Nat := 16
  pan : Nat := 0
  key : Nat := 0
  logStep : Option Nat := none
  image : Bool := false
deriving DecidableEq, Repr

/-- A COLL token the model carries as named data (13 R363; 14 R389; 13 R369, R370; 16 R433, R446, R450). `bounced`: a transaction of an
operation without a response was discarded with a status (13 R357, R362; notes/assumptions/23.md). -/
inductive Token where
  | ready (job step : Nat) (share : StepShare) | commit (job step layers : Nat) (share : StepShare) | phase (job step param : Nat) | abort (job step status : Nat) (failed : Option Nat)
  | hold (job step : Nat) | join (job bundId step : Nat) | queued (job bundId : Nat) | partner (job : Nat) (ids : List Nat)
  | lost (job : Nat) | bounced (op status : Nat)
deriving DecidableEq, Repr

/-- A HOLD received (13 R370): job, step, sender, and the Tide nanosecond that the timers of waits on it started again. -/
structure Wait where
  job : Nat
  step : Nat
  peer : Nat
  since : Nat
deriving DecidableEq, Repr

/-- A LADD that is not finished (13 R364; 03 R101): the transaction, the records asked for again with the mismatches met of each, the
status its answer will carry; `acked` once the answer has left and only its flag waits for earlier LADDs. -/
structure HeldLadd where
  txn : Txn
  missing : List (Nat × Nat)
  status : Nat
  acked : Bool := false
deriving DecidableEq, Repr

/-- A chain at this member (13 R366): job, CHAIN_ID, records added, whether it has been forwarded. -/
structure ChainRun where
  job : Nat
  id : Nat
  added : Nat := 0
  sent : Bool := false
deriving DecidableEq, Repr

/-- The fabric (13 R361 to R370): identifier and routes in force, transactions outstanding, chains, HOLDs, the LADDs refused with
ST_FAB_TARGET_ABSENT, the statuses reported to collectives by job, the LADDs received that are not finished; `fwd`: the requests forwarded for other
devices that no response has come back for (R357); `loop`: transactions for the device itself, not delivered yet (R362). -/
structure Fabric where
  selfId : Option Nat := none
  routes : List (Nat × Nat) := []
  nextTag : Nat := 0
  pend : List Pending := []
  chains : List ChainRun := []
  waits : List Wait := []
  absent : List Txn := []
  reports : List (Nat × Nat) := []
  held : List HeldLadd := []
  fwd : List Txn := []
  loop : List Txn := []
deriving DecidableEq, Repr

/-- The Ethernet port (13 R377, R378). STATE 0 down, 1 negotiating or training, 2 up; the priorities that the other end paused, and those for which
this end sent XOFF. -/
structure Eth where
  state : Nat := 1
  cr : Bool := false
  fecLock : Bool := false
  paused : BitVec 8 := 0
  xoffSent : BitVec 8 := 0
  fecCorr : Nat := 0
  fecUncorr : Nat := 0
  mtu : Nat := 0x2400
  prio : List Nat := [6, 3, 3, 3, 3]
  pfcEn : Nat := 0x48
  xoff : Nat := 0x300000
  xon : Nat := 0x200000
deriving DecidableEq, Repr

/-- The media engines' counters and contexts (12 R353). -/
structure Med where
  conceal : Nat := 0
  syntaxErr : Nat := 0
  reject : Nat := 0
  ctxOpen : Nat := 0
deriving DecidableEq, Repr

/-! ### Global, seal, security and management state (18, 19, 20) -/

/-- The power states (19 R521). -/
inductive PState where
  | active | idle | doze | shelf
deriving DecidableEq, Repr

/-- Where the bring-up of 20 R536 stands: compute domain off (PWR_EN low, or the input out of range), held at offset
500 ms by MOD_RESET_N, waiting under COOL_WAIT, or mailboxes served. -/
inductive Stage where
  | off | held | coolWait | served
deriving DecidableEq, Repr

/-- GLB_RESET_CAUSE (19 R517). -/
structure ResetCause where
  power : Bool := true
  cold : Bool := false
  module : Bool := false
  warm : Bool := false
  flush : Bool := false
  quar : Bool := false
deriving DecidableEq, Repr

/-- What is fused (19 R517, 17 R467, 20 R546); the values stand in notes/assumptions/5.md. -/
structure Fuses where
  variant : Nat := 1
  stepping : Nat := 0
  mac : Nat := 0
  fmax : List Nat := List.replicate 64 1300
deriving DecidableEq, Repr

/-- The global block (19 R506, R510, R517, R521). `flushing`: a Flush runs (15 R424). -/
structure Glb where
  cause : ResetCause := {}
  cur : PState := .active
  target : PState := .active
  busy : Bool := false
  coolWait : Bool := false
  lock : BitVec 15 := 0
  lockReject : Nat := 0
  scratch : Vector (BitVec 16) 4 := Vector.replicate 4 0
  flushing : Bool := false
  pans : Nat := 64
deriving DecidableEq, Repr

/-- The configuration seal (19 R511 to R513). `image` is the sealed image of the NOR record area: the 36 values and
the reference. `episode`: a mismatch episode is open; `blocked`: ACTION 1 or above refuses job starts. -/
structure Seal where
  hold : Bool := false
  action : Nat := 0
  matched : Bool := false
  valid : Bool := false
  mismatch : Bool := false
  value : Nat := 0
  ref : Nat := 0
  count : Nat := 0
  image : Option (List Nat × Nat) := none
  episode : Bool := false
  blocked : Bool := false
deriving DecidableEq, Repr

/-- The security alarm (18 R499 to R503): level 0, 2 or 3; SOURCES; glitch detections in the window; the alarm
count; the Tide nanoseconds of recent signature failures; whether Erase has zeroised the keys; the
draw that the current nonce is. -/
structure Sec where
  level : Nat := 0
  debug : Bool := false
  sources : BitVec 7 := 0
  glitches : Nat := 0
  alarmCount : Nat := 0
  sigFails : List Nat := []
  zeroised : Bool := false
  nonceGen : Nat := 1
deriving DecidableEq, Repr

/-- One image slot (18 R484, R485): its type's header fields, the digest of its header, whether it verified. -/
structure Image where
  valid : Bool := true
  svn : Nat := 0
  keyIdx : Nat := 0
  version : Nat := 0
  measurement : List Nat := []
  body : List Nat := []
deriving DecidableEq, Repr

/-- The four image types' state: slots A and B, the preferred slot, the running slot, fall-back and recovery marks, the rollback
count (18 R489 to R492). -/
structure ImageType where
  a : Image := {}
  b : Image := { valid := false }
  preferredB : Bool := false
  runningB : Bool := false
  fallback : Bool := false
  recovery : Bool := false
  rollback : Nat := 0
deriving DecidableEq, Repr

/-- An update in progress (18 R490): the type, the length, the bytes received so far. -/
structure Update where
  typ : Nat
  len : Nat
  data : SMap (BitVec 8) := []
deriving DecidableEq, Repr

/-- An owner key slot (18 R502): the fused hash when programmed, and the revoke fuse. A vendor slot's hash stands in Config. -/
structure KeySlot where
  hash : Option (List Nat) := none
  revoked : Bool := false
deriving DecidableEq, Repr

/-- A policy field record in force: ID, INDEX and value (18 R486, R487). -/
structure PolicyRec where
  id : Nat
  index : Nat
  value : Nat
deriving DecidableEq, Repr

/-- A recipe entry (10 R271). -/
structure Recipe where
  kind : Nat
  gran : Nat
  source : Nat
  hist : Nat
  margin : Nat
  rmode : Nat
  redo : Nat
  initAmax : Nat
deriving DecidableEq, Repr

/-- The policy table in force (18 R486, R487; 10 R271): its field records and recipe entries; a field without a record
takes its default; `recipeOk` is false when the entries break 10 R272. -/
structure Policy where
  recs : List PolicyRec := []
  recipes : List Recipe := []
  recipeOk : Bool := true
deriving DecidableEq, Repr

/-- The wear record of the NOR (16 R454, R455): pans out, channels out, beds out, port states, NAND blocks, lanes, Crust off, Skim
engines out, by unit number. -/
structure Wear where
  pans : List Nat := []
  chans : List Nat := []
  beds : List Nat := []
  lanes : List Nat := []
  skims : List Nat := []
  nand : Nat := 0
  crustOff : Bool := false
deriving DecidableEq, Repr

/-- A Tally checkpoint (18 R498): the 60 bytes and the two signatures. -/
structure Checkpoint where
  body : List Nat
  sig : List Nat
deriving DecidableEq, Repr

/-- A snapshot image (16 R434): layer, holder job slot, the header's fields, the sections and whether COMPLETE is set. -/
structure SnapImage where
  layer : Nat
  job : Nat
  slotNo : Nat
  step : Nat
  header : List Nat
  sections : List Nat
  complete : Bool
deriving DecidableEq, Repr

/-- Pawezel's flash, keys and sensors (18 R475 to R498). `aliasFrom`: what the Alias key was derived from at the last boot (R493). Sensor numbers are those of R552;
rails hold (mV, mA). -/
structure Pwz where
  types : List ImageType := [{}, {}, {}, { a := { valid := false } }]
  update : Option Update := none
  ownerKeys : List KeySlot := List.replicate 4 {}
  vendorRevoked : List Bool := List.replicate 4 false
  ownerRecord : List (Nat × Nat) := []
  crustEpochs : Nat := 0
  hssNext : Nat := 0
  hssFuses : Nat := 0
  aliasFrom : List Nat := List.replicate 197 0
  policy : Policy := {}
  wear : Wear := {}
  tally : List Checkpoint := []
  crust : List SnapImage := []
  die : List Int := List.replicate 72 0
  rails : List (Int × Int) := List.replicate 24 (0, 0)
  inlet : Int := 0
  outlet : Int := 0
  flow : Int := 0
  flowRun : Nat := 0
  tempRun : Nat := 0
  flowEpisode : Bool := false
  tempEpisode : Bool := false
  coolSince : Nat := 0
deriving DecidableEq, Repr

/-- The I3C target (18 R477, R478): dynamic address, whether in-band interrupts are disabled, sampled SID, ALERT_N asserted, the reply waiting to be
read. -/
structure I3C where
  dynAddr : Option Nat := none
  ibiOff : Bool := false
  sid : Nat := 0
  alert : Bool := false
  reply : Option (List Nat) := none
deriving DecidableEq, Repr

/-- A Bittern record with its record number (18 R479, R482). -/
structure Record where
  num : Nat
  bytes : List Nat
deriving DecidableEq, Repr

/-- A page of the Bittern NOR (18 R482): its header's magic value, first record number and CRC-32C, and its records. -/
structure NorPage where
  magic : Nat
  first : Nat
  crc : Nat
  recs : List Record
deriving DecidableEq, Repr

/-- The Bittern log (18 R482): the RAM ring, the NOR pages, the next record number, the number of the first record not yet in NOR. -/
structure Bittern where
  ring : List Record := []
  nor : List NorPage := []
  next : Nat := 0
  written : Nat := 0
deriving DecidableEq, Repr

/-- The input, the pins and the bring-up (20 R529 to R538): excursion marks, one per threshold of R534; TIDE_OUT with the Tide
nanosecond of its fall (R531). -/
structure Inputs where
  island : Bool := true
  pwrEn : Bool := true
  modResetN : Bool := true
  stage : Stage := .served
  overMark : Bool := false
  underMark : Bool := false
  holdupMark : Bool := false
  tideOut : Bool := false
  tideFall : Nat := 0
deriving DecidableEq, Repr

/-! ### The Tide and power control (14, 17) -/

/-- A schedule entry (14 R385), with the Tide time in ns at which it was accepted, whether a forward step of the Tide passed it, and whether it
has fired. -/
structure TideEntry where
  ns : Nat
  sec : Nat
  action : Nat
  param : Nat
  job : Nat
  step : Nat
  arg : Nat
  accepted : Nat := 0
  passed : Bool := false
  fired : Bool := false
deriving DecidableEq, Repr

/-- The Tide (14 R379 to R388): the clock and its latch, TID_CTRL, TID_STATUS, the offset, the late count, the servo (the correction pending in ns,
the ticks since its last nanosecond, the run of Sync messages within ±1 µs, its frequency correction in 10⁻⁹ with the part of a nanosecond that has
gathered, the present offset from PTP as the corrections since the last Sync leave it), whether the last tick passed over NS = 0, the schedule keyed by
entry index. -/
structure Tide where
  sec : Nat := 0
  ns : Nat := 0
  latch : Nat := 0
  edgeMode : Nat := 0
  edgeDelay : Nat := 0
  unset : Bool := true
  locked : Bool := false
  holdover : Bool := false
  edgeOk : Bool := false
  offset : Int := 0
  late : Nat := 0
  pending : Int := 0
  slew : Nat := 0
  syncRun : Nat := 0
  freq : Int := 0
  freqPart : Int := 0
  ptpErr : Int := 0
  skipped : Bool := false
  entries : SMap TideEntry := []
deriving DecidableEq, Repr

/-- An energy counter in µJ with its carried fraction in half nanojoules and its latched upper half (17 R471). -/
structure Energy where
  uJ : Nat := 0
  frac : Nat := 0
  hi : Nat := 0
deriving DecidableEq, Repr

/-- A Terrace's power state (17 R459, R460, R464, R466, R467, R469). KCAL in 1/10,000; EST in W. -/
structure TerPower where
  ftarget : Nat := 0x514
  slots : Nat := 0x40
  therm : Nat := 0x40
  fast : Bool := false
  throttle : Bool := false
  est : Nat := 0
  estMw : Nat := 0
  staticMw : Nat := 0
  droop : Nat := 0
  fastCount : Nat := 0
  kcal : Nat := 10000
deriving DecidableEq, Repr

/-- Package power state (17 R461 to R471): C_sched, C_therm, C_mod in W, fractions, thermal status, the ceiling's r
in 10⁻⁹ K/W, episodes, and the 1 ms checks since C_mod last rose (R463). What the means are taken over: the package estimates in mW and their number since
the last calibration and since the last thermal ceiling, the package rails in µW and their number since the last calibration (R460, R468), the last
100 ms of J2 in µW (R463), the inlet at the last 5 s of thermal ceilings in 0.1 °C (R468). -/
structure Pwr where
  sched : Nat := 0x866
  therm : Nat := 0x866
  module : Nat := 0x866
  frac : List Nat := [25, 25, 25, 25]
  tjMax : Nat := 0
  tIn : Nat := 0
  tripped : Bool := false
  flowLow : Bool := false
  r : Nat := 10000000
  moduleEpisode : Bool := false
  raiseRun : Nat := 0
  thermEpisode : Bool := false
  quayMw : Nat := 0
  calSum : Nat := 0
  calCount : Nat := 0
  railSum : Nat := 0
  railCount : Nat := 0
  ceilSum : Nat := 0
  ceilCount : Nat := 0
  j2 : List Nat := []
  inlets : List Int := []
  part : List Energy := List.replicate 4 {}
  job : List Energy := List.replicate 16 {}
  input : Energy := {}
deriving DecidableEq, Repr

/-! ### Jobs, steps and the input pipeline (15, 16, 10, 11) -/

/-- The slot states of 15 R412. -/
inductive JState where
  | empty | created | running | suspended | recovering | stopped | lost
deriving DecidableEq, Repr

/-- A reservation (15 R549): partition, STAGE_MIB, MEM_GIB, STAGE_DEV, the data parts (Terrace, device address, bytes), the
context save areas (Terrace, device address). -/
structure Resv where
  part : Nat
  stageMib : Nat
  memGib : Nat
  stageDev : Nat
  data : List (Nat × Nat × Nat)
  save : List (Nat × Nat)
deriving DecidableEq, Repr

/-- An augmentation operation (11 R317): SPEC holds (KIND, LO, HI). -/
structure AugOp where
  opcode : Nat
  nparam : Nat
  media : Nat
  prob : Nat
  specs : List (Nat × Nat × Nat)
deriving DecidableEq, Repr

/-- The job-start record's fields that the job keeps (15 R406). -/
structure JobRec where
  seed : Nat
  evalSeed : Nat
  n : Nat
  serving : Bool
  strict : Bool
  sliced : Bool
  treatLog : Bool
  visChannels : Nat
  fill : Nat
  fillY : Nat
  fillCb : Nat
  fillCr : Nat
  share : Nat
  patchW : Nat
  patchH : Nat
  patchF : Nat
  hop : Nat
  aug : List AugOp
  nflow : Nat
  naddr : Nat
  firstStep : Nat
  restore : Nat
  restoreStep : Nat
deriving DecidableEq, Repr

/-- A peer entry of the topology record (15 R408). -/
structure Peer where
  bundId : Nat
  child : Bool
  partner : Bool
  slot : Nat
deriving DecidableEq, Repr

/-- The topology record (15 R408): PARENT none at the root; routes (DST, PORT). -/
structure Topo where
  selfId : Nat
  peers : List Peer
  routes : List (Nat × Nat)
  dpSize : Nat
  dpPos : Nat
  parent : Option Nat
  nmemb : Nat
deriving DecidableEq, Repr

/-- An entry of the buffer table (15 R409, 06 R188): KIND 0 COPY, 1 PRODUCED, 2 INPUT, 3 STATE; SOURCE's 16 bytes. -/
structure BufEntry where
  base : Nat
  len : Nat
  kind : Nat
  source : List Nat
deriving DecidableEq, Repr

/-- A redo unit (15 R409, 10 R278). -/
structure RedoUnit where
  unit : Nat
  dir : Nat
  top : Nat
  watch : Nat
  gate : Nat
  entries : List Nat
  verdict : Nat
deriving DecidableEq, Repr

/-- A PAN section (15 R409). -/
structure PanImage where
  imem : List Nat
  dmem : List Nat
  live : Nat
deriving DecidableEq, Repr

/-- The compiled program as loaded (15 R409): the chain table as its 32-byte entries, DATA sections (DEST, bytes), the SHA-384
of the whole image (18 R497). -/
structure Program where
  pans : Nat
  memMib : Nat
  layers : Nat
  images : List PanImage
  bufs : List BufEntry
  redo : List RedoUnit
  ckpt : Nat
  chain : List (List Nat)
  data : List (Nat × List Nat)
  digest : List Nat
deriving DecidableEq, Repr

/-- A manifest entry at its epoch and position (11 R295). -/
structure ManEntry where
  epoch : Nat
  pos : Nat
  bytes : List Nat
deriving DecidableEq, Repr

/-- An override record (11 R319), and the first step number it takes effect for. -/
structure Override where
  sample : Nat
  epoch : Nat
  opidx : Nat
  param : Nat
  value : Nat
  since : Nat := 0
deriving DecidableEq, Repr

/-- A command accepted in CREATED whose checks JOB_START makes (15 R412): a manifest window (epoch, first position, entries), or override
records. -/
inductive Held where
  | window (epoch pos : Nat) (entries : List (List Nat))
  | overrides (recs : List (List Nat))
deriving DecidableEq, Repr

/-- A step submission (11 R301). -/
structure Sub where
  epoch : Nat
  posFirst : Nat
  posCount : Nat
  tbudget : Nat
  hyper : Nat
  globalCount : Nat
deriving DecidableEq, Repr

/-- Where a sample of a step stands: the 2-bit slot state of 11 R312, with the meanings of each named apart; `fetching` while its bytes are
asked for, `waiting` while it waits for the retry lane. -/
inductive Place where
  | unplaced | fetching | queued | decoding | waiting | decoded | hostLane | rejected
deriving DecidableEq, Repr

/-- A sample's slot (11 R304, R309, R312, R320): where it stands, the failed fetches, the decoded sample in the layout of 12 R331, its treatment
record (its operation records until it is treated), its tokens, the next operation, the conceal count; `again` once an uncorrectable Grader word
lost its entry (R311); `dimReason` when it waits for the host lane by R307; `raw`: the compressed bytes that the intake engine holds, in the buffer
of a handle. -/
structure SampleSlot where
  place : Place := .unplaced
  attempts : Nat := 0
  raw : List Nat := []
  buf : Nat := 0
  decoded : List Nat := []
  treatment : List Nat := []
  treated : Bool := false
  tokens : Nat := 0
  nextOp : Nat := 0
  concealed : Nat := 0
  overridden : Bool := false
  again : Bool := false
  dimReason : Bool := false
deriving DecidableEq, Repr

/-- A micro-batch record's sample (11 R322): position, SAMPLE, token offset, TOKENS, SLOT. -/
structure Packed where
  pos : Nat
  sample : Nat
  offset : Nat
  tokens : Nat
  slot : Nat
deriving DecidableEq, Repr

/-- A micro-batch (11 R321, R322); `addr`: where it was placed when it was dispatched. -/
structure MicroBatch where
  samples : List Packed := []
  tokens : Nat := 0
  dispatched : Bool := false
  addr : Nat := 0
deriving DecidableEq, Repr

/-- A step in progress (15 R419, R420; 14 R389; 10 R281). `stages` is set once stages 7 and 8 are complete on the device;
`logDone` once the holder has acknowledged the log entry (16 R438); `cap`: the capture slots by logical pan as its pans left them (10 R274);
`descSeq`: the place in the order of issue of what gave `descStatus` (15 R420); `passed`: the redo units of direction forward whose gate has passed, with
the micro-batch (10 R282);
`shares`: what the members below reported of it, by sender, `total`: what COMMIT brought of all members (10 R274, R284). A batch runs as a step of its own (11 R324): `batch` is its number and `list`
its manifest entries (notes/assumptions/25.md). -/
structure Step where
  num : Nat
  sub : Sub
  slots : SMap SampleSlot := []
  mbs : List MicroBatch := []
  packed : Nat := 0
  packDone : Bool := false
  descStatus : Nat := 0
  descSeq : Nat := 0
  stages : Bool := false
  readySent : Bool := false
  started : Bool := false
  logDone : Bool := false
  redo : List (List Nat) := []
  passed : List (Nat × Nat) := []
  dropped : Option (Nat × Nat) := none
  hostWaitLogged : Bool := false
  undo : List (Nat × List Nat) := []
  cap : List (Nat × List AmaxSlot) := []
  shares : List (Nat × StepShare) := []
  total : Option StepShare := none
  logTotal : Option StepShare := none
  batch : Option Nat := none
  list : List (List Nat) := []
deriving DecidableEq, Repr

/-- An evaluation window (10 R291 to R293, 14 R388). -/
structure Window where
  num : Nat
  step : Nat
  openFired : Bool := false
  isOpen : Bool := false
  closeFired : Bool := false
  closed : Bool := false
deriving DecidableEq, Repr

/-- A batch (15 R422): its output range in staging, and the step that its samples are fetched, decoded, treated, packed and run as (11 R324). -/
structure Batch where
  kind : Nat
  window : Nat
  batchNo : Nat
  work : Step
  outOff : Nat
  outMax : Nat
  done : Bool := false
deriving DecidableEq, Repr

/-- A host-lane request (15 R405, R421). -/
structure HostReq where
  sample : Nat
  step : Nat
  slot : Nat
  reason : Nat
deriving DecidableEq, Repr

/-- The host lane (15 R421): open with its depth, the request index, the requests outstanding. -/
structure HostLane where
  isOpen : Bool := false
  rflow : Nat := 0
  raddr : Nat := 0
  depth : Nat := 0
  nextReq : Nat := 0
  reqs : List HostReq := []
deriving DecidableEq, Repr

/-- A redo gate in progress (10 R278): the unit, its direction, the micro-batch, the level of the attempt, the reports in by member pan. -/
structure Gate where
  unit : Nat
  dir : Nat := 0
  mb : Nat
  level : Nat := 0
  reports : List (Nat × List AmaxSlot) := []
deriving DecidableEq, Repr

/-- A gradient history record (10 R276): TENSOR_ID, NEXT, COUNT, LAST_STEP, the entries. -/
structure Hist where
  tensor : Nat
  next : Nat := 0
  count : Nat := 0
  lastStep : Nat := 0
  entries : List Nat := List.replicate 16 0
deriving DecidableEq, Repr

/-- An image of this member for the present job (16 R431): layer, slot, step, whether it is complete. -/
structure ImageMeta where
  layer : Nat
  slotNo : Nat
  step : Nat
  complete : Bool
deriving DecidableEq, Repr

/-- The partner group state (16 R432 to R453): tokens received by sender and whether this member's own have left in the exchange of a start, JOINs received
in RECOVERING, the JOINs heard at any time as (device, step), the members waited for, whether this member's own restore from its holder runs, the fill in progress and the fills queued, whether this member owes its restored holder a fresh image (R445), the image copies by layer, log entries as (step, bytes) and where the next one is written, whether this member is
uncovered; and what the intervals of R442 read: counted events as (layer, Tide ns), write times by layer, the last commits' Tide ns, the
step of each layer's next snapshot. -/
structure Partner where
  tokens : List (Nat × List Nat) := []
  sent : Bool := false
  joins : List Nat := []
  joined : List (Nat × Nat) := []
  lacking : List Nat := []
  filling : Bool := false
  fill : Option Nat := none
  refill : Bool := false
  queued : List Nat := []
  images : List ImageMeta := []
  log : List (Nat × Nat) := []
  logAt : Nat := 0
  uncovered : Bool := false
  events : List (Nat × Nat) := []
  writes : List (Option Nat) := [none, none, none]
  commits : List Nat := []
  nextSnap : List (Option Nat) := [none, none, none]
deriving DecidableEq, Repr

/-- The slowdown report of a job (15 R423): its late-commit mark, and the body of the last notice. -/
structure Slow where
  late : Bool := false
  last : List Nat := []
deriving DecidableEq, Repr

/-- A snapshot that has started (16 R434 to R436): layer 1 to 3, step, the image slot it fills, the image's header and sections, the Tide
nanosecond of its start. -/
structure SnapRun where
  layer : Nat
  step : Nat
  slotNo : Nat
  image : List Nat
  started : Nat
deriving DecidableEq, Repr

/-- What stands of a job's last commit (14 R390, 18 R497), with its epoch (16 R434); `kept`: the committed state in LPDDR5X counts as a copy
(06 R199). -/
structure Committed where
  step : Option Nat := none
  epoch : Nat := 0
  sec : Nat := 0
  ns : Nat := 0
  head : List Nat := []
  pre : List Nat := []
  sinceSign : Nat := 0
  signDue : Bool := false
  kept : Bool := true
deriving DecidableEq, Repr

/-- A Grader entry (11 R308); `noBudget`: retried without a budget; `buf`: the handle of its compressed bytes; `job` names the owner. The Grader (11 R308 to R312, R315): bank A and B entries, the retry lane, the entries that wait for it, which bank drains,
the step each bank serves, whether the filling bank is sealed, the entries on decoder cores, the owner. -/
structure GEntry where
  cost : Nat
  slot : Nat
  media : Nat
  attempt : Nat
  noBudget : Bool
  hostElig : Bool
  sample : Nat
  step : Nat
  buf : Nat := 0
  job : Nat
deriving DecidableEq, Repr

/-- The Grader and intake state; `nextBuf` numbers the compressed buffers. -/
structure Grader where
  bankA : List GEntry := []
  bankB : List GEntry := []
  retry : List GEntry := []
  waiting : List GEntry := []
  drainB : Bool := false
  isSealed : Bool := false
  stepA : Option Nat := none
  stepB : Option Nat := none
  busy : List GEntry := []
  owner : Option Nat := none
  nextBuf : Nat := 0
deriving DecidableEq, Repr

/-- Grader counters (11 R312). -/
structure GrdCounts where
  corr : Nat := 0
  uncorr : Nat := 0
  slow : Nat := 0
deriving DecidableEq, Repr

/-- A saved context (15 R416): each pan of the job with its live pan-store bytes, and the Grader when the job owns it; `whole`: the first context of a job, whose
pan stores hold zero throughout (R550). -/
structure Saved where
  pans : List (Nat × Pan)
  store : List (Nat × Mem)
  grader : Option Grader
  whole : Bool := false
deriving DecidableEq, Repr

/-- What a job slot runs with (15 R406 to R409, 10 R272, R276). -/
structure JobSetup where
  jr : JobRec
  topo : Topo
  prog : Program
  recipes : List Recipe
  policy : Policy
deriving DecidableEq, Repr

/-- The logs a job keeps (10 R275, R281; 11 R320), 32-byte or treatment records with their step, and its histories. -/
structure JobLogs where
  amax : List (Nat × List Nat) := []
  redo : List (Nat × List Nat) := []
  treat : List (Nat × List Nat) := []
  hist : List Hist := []
deriving DecidableEq, Repr

/-- One job slot (15 R404 to R422). `stopping` is the mailbox of a JOB_STOP with MODE 0 that waits for a commit; `suspending`: it is suspended once nothing of it is in flight (R416); `nextBatch` counts the batches accepted; `ready` holds READY tokens
as (step, sender); `pipe` is its Grader state while another resident job owns the input pipeline. -/
structure JobSlot where
  state : JState := .empty
  resv : Option Resv := none
  setup : Option JobSetup := none
  nextStep : Nat := 0
  commit : Committed := {}
  lastStatus : Nat := 0
  lastDesc : Nat := 0
  steps : List Step := []
  manifest : List ManEntry := []
  overrides : List Override := []
  held : List Held := []
  batches : List Batch := []
  nextBatch : Nat := 0
  windows : List Window := []
  lane : HostLane := {}
  logs : JobLogs := {}
  gates : List Gate := []
  resident : Bool := false
  saved : Option Saved := none
  switching : Bool := false
  suspending : Bool := false
  partner : Partner := {}
  slow : Slow := {}
  stopping : Option Nat := none
  snaps : List SnapRun := []
  ready : List (Nat × Nat) := []
  pipe : Option Grader := none
deriving DecidableEq, Repr

/-- A DATA packet of a message that the device sends (13 R373, R375): its number and that of its message, OP, address, PAYLEN, data, whether it is the
last, its transport class (0 control, 1 data plane, 2 intake, 3 snapshot, 4 host lane); the UDP payload formed at its first sending, and whether it is on
its way. -/
structure TxPacket where
  psn : Nat
  msg : Nat
  op : Nat
  addr : Nat
  len : Nat
  data : List Nat := []
  last : Bool := true
  cls : Nat := 1
  wire : List Nat := []
  sent : Bool := false
deriving DecidableEq, Repr

/-- A Quay transport flow (13 R374 to R377; 15 R395): its binding (0 to 15 a slot, 0xFF management, none unbound), how its frames are formed (IPv6, a
VLAN tag), key epoch and key (empty for none), packet and message numbers, packets held early with their OP, packets not yet acknowledged, expiries, the
window, the PSN that ends the current round trip and that of the last halving, CE seen and not yet reported, data that READ_RESP delivered (address,
bytes), ownership words that a message has brought and its last packet will apply (mailbox, offset, bytes; 15 R399). -/
structure Flow where
  id : Nat
  binding : Option Nat := none
  v6 : Bool := false
  tagged : Bool := false
  keyEpoch : Nat := 0
  key : List Nat := []
  rxPsn : Nat := 0
  txPsn : Nat := 0
  txMsg : Nat := 0
  early : List (Nat × Packet) := []
  unacked : List TxPacket := []
  ceSeen : Bool := false
  expiries : Nat := 0
  window : Nat := 65536
  round : Nat := 0
  cut : Nat := 0
  rdata : List (Nat × List Nat) := []
  own : List (Nat × Nat × List Nat) := []
deriving DecidableEq, Repr

/-- A staged configuration set (19 R514), with the Tide nanosecond of its staging. -/
structure ConfigSet where
  gen : Nat
  pairs : List (Nat × Nat)
  sealRef : Nat
  staged : Nat
deriving DecidableEq, Repr

/-- The Quay control state (15 R393 to R405, R425; 13 R373 to R377; 19 R514): each mailbox's bytes keyed 4096·m + byte, posted mailboxes in
acceptance order, the flows, control packets that a pause holds back (flow, UDP payload), the management notice address, held notices and how many were lost; `turn` is the slot that was resident last in each partition, which R415's turns go on from (15 is the slot before
the first). -/
structure Quay where
  epoch : Nat := 1
  reject : Nat := 0
  retx : Nat := 0
  drop : Nat := 0
  ecn : Nat := 0
  layout : Nat := 0
  mbx : SMap (BitVec 8) := []
  posted : List Nat := []
  flows : List Flow := []
  owed : List (Nat × List Nat) := []
  mgmt : Option (Nat × Nat) := none
  heldNotices : List (List Nat) := []
  lostNotices : Nat := 0
  sets : List (Option ConfigSet) := [none, none, none, none]
  setGen : Nat := 0
  turn : List Nat := [15, 15, 15, 15]
deriving DecidableEq, Repr

/-! ### What leaves the device, and the whole -/

/-- A message between Sluices (09 R259, R262). -/
inductive SlMsg where
  | request (r : SlReq) | fin | grant (token rank slot : Nat) | row (expert slot : Nat) (data : List Nat)
  | record (expert slot token col : Nat) (rec : List Nat) | again (ownTer expert slot token col : Nat)
deriving DecidableEq, Repr

/-- What the device has sent, oldest first (the model's own record of its outputs, notes/assumptions/11.md). -/
inductive Out where
  | notice (flow addr : Nat) (bytes : List Nat)
  | quay (flow typ : Nat) (bytes : List Nat)
  | write (flow addr : Nat) (bytes : List Nat)
  | fetch (flow addr len : Nat)
  | packet (flow prio ecn : Nat) (udp : List Nat)
  | completed (flow msg status : Nat)
  | pfc (prio : Nat) (xoff : Bool)
  | bund (port : Option Nat) (t : Txn)
  | token (dst : Nat) (t : Token)
  | flit (port : Nat) (bytes : List Nat)
  | control (port : Nat) (bad : Nat)
  | ibi
  | i3cStatus (word : Nat)
  | again (dst job tag index : Nat)
  | sluice (dst ter job : Nat) (m : SlMsg)
  | reg (addr value : Nat)
  | edge
deriving DecidableEq, Repr

/-- The whole block but for its queue of commands; `issued` counts the descriptors and commands issued (15 R420). -/
structure Device where
  fuses : Fuses := {}
  glb : Glb := {}
  sl : Seal := {}
  sec : Sec := {}
  pwz : Pwz := {}
  bit : Bittern := {}
  i3c : I3C := {}
  inp : Inputs := {}
  tide : Tide := {}
  pwr : Pwr := {}
  terp : Vector TerPower 4 := Vector.replicate 4 {}
  ter : Vector Terrace 4 := Vector.replicate 4 {}
  eng : Vector Engines 4 := Vector.replicate 4 {}
  chan : Vector Channel 128 := Vector.replicate 128 {}
  port : Vector Port 8 := Vector.replicate 8 {}
  fab : Fabric := {}
  eth : Eth := {}
  quy : Quay := {}
  med : Med := {}
  grd : Grader := {}
  grdc : GrdCounts := {}
  mem : Mem := {}
  pan : Vector Pan 64 := Vector.replicate 64 {}
  job : Vector JobSlot 16 := Vector.replicate 16 {}
  out : List Out := []
  free : Nat := 0
  issued : Nat := 0
deriving DecidableEq, Repr

/-! ### Stops, the state, and reset -/

/-- The faults of a step. No command of this block stops the machine: the spec names a status code, an event or a halted pan
core for everything that goes wrong, and the machine goes on. The one constructor is raised by nobody (safe). -/
inductive Fault where
  | none
deriving DecidableEq, Repr

/-- The refusals of a step. Every command of the table has its meaning, so no step answers one. -/
inductive Refusal where
  /-- Raised by Dispatch alone, for a command that has no meaning yet (safe: the run stops there). -/
  | notModelled (mnemonic : String)
deriving DecidableEq, Repr

/-- The machine: the block, and the commands that wait, first in first out. -/
structure State where
  dev : Device := {}
  pending : List Instr := []
deriving DecidableEq, Repr

/-- The values of the 36 sealed registers after a Cold bring-up, in the order of 19 R511. -/
def sealedAtBoot : List Nat :=
  [0x4000, 0, 0x19191919, 0x514, 0x514, 0x514, 0x514, 0] ++ List.replicate 8 0
    ++ (List.replicate 4 [0, 0, 0, 0x47]).flatten ++ List.replicate 4 0xFFFFFFFF

/-- The region entries of a Terrace of layout 0 after boot (06 R195): the firmware zone, the partition zone, the rest disabled.
The zones' boundary is the model's (notes/assumptions/6.md). -/
def regionsAtBoot (units : Nat) : List Region :=
  [{ base := 0, limit := 147, slot := 0, owner := 2 }, { base := 148, limit := units - 1, slot := 0, owner := 0 }]
    ++ List.replicate 6 Region.off

/-- The machine right after the Cold reset that the application of input power starts (20 R536): boot is complete and the
mailboxes are served. notes/assumptions names every value the spec does not give. -/
def State.reset : State :=
  { dev :=
      { glb := { lock := 0x4000 }
        sl := { ref := crc32c (sealedAtBoot.flatMap (toLE 4)), image := some (sealedAtBoot, crc32c (sealedAtBoot.flatMap (toLE 4))) }
        ter := Vector.replicate 4 { regions := regionsAtBoot 3968, keys := [some 2, none, none, none] }
        mem := { cells := [], layers := [{ lo := 0, hi := 2 ^ 48, seed := some 0 }] }
        free := 16 } }

end Sys2Proof.Machine
end

