-- ==== Sys2Proof/Machine/Ops.lean ====
section
/-! DEFINITION. The named operations over the state: updates of one unit, sparse maps, the device map's bytes, free
values, the Tide's clock. -/
namespace Sys2Proof.Machine

/-- A meaning that always answers: the device after it, the queue of waiting commands as it was. -/
def onDev (s : State) (f : Device → Device) : Host.Outcome State Fault Refusal := .next { s with dev := f s.dev }

/-- The element of a vector at a number; the default past its end. -/
def vget {α : Type} {n : Nat} (d : α) (v : Vector α n) (i : Nat) : α := if h : i < n then v[i] else d

/-- The vector with one element replaced by its image; unchanged past its end. -/
def vmod {α : Type} {n : Nat} (v : Vector α n) (i : Nat) (f : α → α) : Vector α n :=
  if h : i < n then v.set i (f v[i]) else v

/-! ### Units by number (00 R12) -/

def Device.panAt (d : Device) (p : Nat) : Pan := vget {} d.pan p
def Device.updPan (d : Device) (p : Nat) (f : Pan → Pan) : Device := { d with pan := vmod d.pan p f }
def Device.jobAt (d : Device) (j : Nat) : JobSlot := vget {} d.job j
def Device.updJob (d : Device) (j : Nat) (f : JobSlot → JobSlot) : Device := { d with job := vmod d.job j f }
def Device.terAt (d : Device) (t : Nat) : Terrace := vget {} d.ter t
def Device.updTer (d : Device) (t : Nat) (f : Terrace → Terrace) : Device := { d with ter := vmod d.ter t f }
def Device.engAt (d : Device) (t : Nat) : Engines := vget {} d.eng t
def Device.updEng (d : Device) (t : Nat) (f : Engines → Engines) : Device := { d with eng := vmod d.eng t f }
def Device.terpAt (d : Device) (t : Nat) : TerPower := vget {} d.terp t
def Device.updTerp (d : Device) (t : Nat) (f : TerPower → TerPower) : Device := { d with terp := vmod d.terp t f }
def Device.chanAt (d : Device) (c : Nat) : Channel := vget {} d.chan c
def Device.updChan (d : Device) (c : Nat) (f : Channel → Channel) : Device := { d with chan := vmod d.chan c f }
def Device.portAt (d : Device) (b : Nat) : Port := vget {} d.port b
def Device.updPort (d : Device) (b : Nat) (f : Port → Port) : Device := { d with port := vmod d.port b f }

/-! ### Sparse maps: keys strictly rising, no entry equal to the default -/

/-- The value at a key. -/
def smGet {α : Type} (dflt : α) (m : SMap α) (k : Nat) : α :=
  match m with
  | [] => dflt
  | (i, v) :: r => if i = k then v else smGet dflt r k

/-- The map without a key. -/
def smErase {α : Type} (m : SMap α) (k : Nat) : SMap α :=
  match m with
  | [] => []
  | (i, v) :: r => if i = k then smErase r k else (i, v) :: smErase r k

/-- The map with a key listed at a value. -/
def smPut {α : Type} (m : SMap α) (k : Nat) (v : α) : SMap α :=
  match m with
  | [] => [(k, v)]
  | (i, w) :: r => if k < i then (k, v) :: (i, w) :: r else if i = k then (k, v) :: r else (i, w) :: smPut r k v

/-- A write: the default is not listed. -/
def smSet {α : Type} [DecidableEq α] (dflt : α) (m : SMap α) (k : Nat) (v : α) : SMap α :=
  if v = dflt then smErase m k else smPut m k v

/-- Whether the keys rise strictly. -/
def smSorted {α : Type} : SMap α → Bool
  | [] => true
  | [_] => true
  | (i, _) :: (j, w) :: r => decide (i < j) && smSorted ((j, w) :: r)

/-- The canonical form. -/
def smWf {α : Type} [DecidableEq α] (dflt : α) (m : SMap α) : Bool :=
  smSorted m && m.all (fun e => decide (e.2 ≠ dflt))

/-- A byte of a zero-filled byte map. -/
def bmGet (m : SMap (BitVec 8)) (k : Nat) : Nat := (smGet 0 m k).toNat

/-- n bytes of a byte map. -/
def bmRead (m : SMap (BitVec 8)) (k n : Nat) : List Nat := (List.range n).map (fun i => bmGet m (k + i))

/-- Bytes written from a key upward. -/
def bmWrite (m : SMap (BitVec 8)) (k : Nat) : List Nat → SMap (BitVec 8)
  | [] => m
  | b :: bs => bmWrite (smSet 0 m k (BitVec.ofNat 8 b)) (k + 1) bs

/-! ### The device map (06 R173) -/

/-- The newest layer over an address. -/
def layerOf (ls : List Layer) (a : Nat) : Option Nat :=
  match ls with
  | [] => none
  | l :: r => if decide (l.lo ≤ a) && decide (a < l.hi) then l.seed else layerOf r a

/-- What an unlisted address reads as (notes/assumptions/1.md): the free byte of its layer's seed, or zero. -/
def Mem.background (m : Mem) (a : Nat) : Nat :=
  match layerOf m.layers a with
  | some seed => Config.freeByte seed a % 256
  | none => 0

/-- The listed byte at an address. -/
def cellAt (cs : List Host.Cell) (a : Nat) : Option Nat :=
  match cs with
  | [] => none
  | (i, v) :: r => if i = a then some v.toNat else cellAt r a

/-- One byte of the device map. -/
def Mem.read (m : Mem) (a : Nat) : Nat := (cellAt m.cells a).getD (m.background a)

/-- n bytes from an address upward. -/
def Mem.readN (m : Mem) (a n : Nat) : List Nat := (List.range n).map (fun i => m.read (a + i))

/-- One byte written; a zero over a zero background is not listed. -/
def Mem.write (m : Mem) (a v : Nat) : Mem :=
  if layerOf m.layers a = none ∧ v % 256 = 0 then { m with cells := smErase m.cells a }
  else { m with cells := smPut m.cells a (BitVec.ofNat 8 v) }

/-- Bytes written from an address upward. -/
def Mem.writeN (m : Mem) (a : Nat) : List Nat → Mem
  | [] => m
  | b :: bs => Mem.writeN (m.write a b) (a + 1) bs

/-- The canonical form: addresses strictly rising, and no zero listed over a zero background. -/
def Mem.wf (m : Mem) : Bool :=
  smSorted m.cells && m.cells.all (fun c => !(decide (layerOf m.layers c.1 = none) && decide (c.2 = 0)))

/-- A stretch that reads as a background from now on: its listed bytes go, older layers inside it too. -/
def Mem.blank (m : Mem) (lo hi : Nat) (seed : Option Nat) : Mem :=
  { cells := m.cells.filter (fun c => !(decide (lo ≤ c.1) && decide (c.1 < hi)))
    layers := { lo := lo, hi := hi, seed := seed } :: m.layers.filter (fun l => !(decide (lo ≤ l.lo) && decide (l.hi ≤ hi))) }

/-- A value from n bytes of the device map. -/
def Mem.readLE (m : Mem) (a n : Nat) : Nat := ofLE (m.readN a n)

/-- Another device map. -/
def Device.setMem (d : Device) (m : Mem) : Device := { d with mem := m }

def Device.readN (d : Device) (a n : Nat) : List Nat := d.mem.readN a n
def Device.writeN (d : Device) (a : Nat) (bs : List Nat) : Device := { d with mem := d.mem.writeN a bs }

/-- Every step and batch of a job changed (11 R324). -/
def JobSlot.mapSteps (q : JobSlot) (f : Step → Step) : JobSlot :=
  { q with steps := q.steps.map f, batches := q.batches.map (fun b => { b with work := f b.work }) }

/-- A step with a status that a descriptor or command of it returned: the first in the order of issue stands (15 R420). -/
def Step.noteStatus (st : Step) (seq status : Nat) : Step :=
  if st.descStatus = 0 ∨ seq < st.descSeq then { st with descStatus := status, descSeq := seq } else st

/-- The next place in the order of issue, taken. -/
def Device.issue (d : Device) : Nat × Device := (d.issued, { d with issued := d.issued + 1 })

/-- A free value: the opaque constant of the counter, and the counter advanced (notes/assumptions/2.md). -/
def Device.draw (d : Device) : Nat × Device := (Config.freeNat d.free, { d with free := d.free + 1 })

/-- A stretch that the spec leaves undefined from now on. -/
def Device.undefine (d : Device) (lo hi : Nat) : Device :=
  { d with mem := d.mem.blank lo hi (some d.free), free := d.free + 1 }

/-- The bytes of a pan store, LPDDR5X window, scratchpad bed (06 R173). -/
def panStore (p : Nat) : Nat := 0x011000000000 + p * 0x2000000
def window (t : Nat) : Nat := t * 2 ^ 38
def scratchBed (t b : Nat) : Nat := 0x010000000000 + t * 0x200000000 + b * 0x4000000

/-- The Terrace of an LPDDR5X address, of a scratchpad address; the pan of a pan-store address. -/
def terOfWindow (a : Nat) : Nat := a / 2 ^ 38
def isWindow (a : Nat) : Bool := decide (a < 2 ^ 40)
def isScratch (a : Nat) : Bool := decide (0x010000000000 ≤ a) && decide (a < 0x010800000000)
def isPanStore (a : Nat) : Bool := decide (0x011000000000 ≤ a) && decide (a < 0x011080000000)
def terOfScratch (a : Nat) : Nat := (a - 0x010000000000) / 0x200000000
def bedOfScratch (a : Nat) : Nat := (a - 0x010000000000) % 0x200000000 / 0x4000000
def panOfStore (a : Nat) : Nat := (a - 0x011000000000) / 0x2000000

/-- A byte of a pan store; addresses wrap modulo 32 MiB (04 R117, 05 R147). -/
def psAddr (p a : Nat) : Nat := panStore p + a % 0x2000000
def Device.psRead (d : Device) (p a n : Nat) : List Nat := (List.range n).map (fun i => d.mem.read (psAddr p (a + i)))
def Device.psLE (d : Device) (p a n : Nat) : Nat := ofLE (d.psRead p a n)
def psWriteMem (p : Nat) (m : Mem) (a : Nat) : List Nat → Mem
  | [] => m
  | b :: bs => psWriteMem p (m.write (psAddr p a) b) (a + 1) bs
def Device.psWrite (d : Device) (p a : Nat) (bs : List Nat) : Device := { d with mem := psWriteMem p d.mem a bs }

/-- The number of set bits below n. -/
def popCount (n w : Nat) : Nat := ((List.range n).filter (fun i => bitOf w i)).length

/-- U of 06 R174 in units of 1/8 GiB times 8: the usable bytes per channel. -/
def usablePerChannel (d : Device) : Nat := if d.fuses.variant = 2 then 31 * 2 ^ 27 else 31 * 2 ^ 28

/-- The populated bytes of a Terrace's window (06 R174). -/
def populated (d : Device) (t : Nat) : Nat := popCount 32 (d.terAt t).chans.toNat * usablePerChannel d

/-! ### Stores through the Brine cache (06 R183, R186) -/

/-- The cache-mode, not-mapped-out beds of a Terrace, ascending. -/
def cacheBeds (t : Terrace) : List Nat := (List.range 80).filter (fun b => !t.bedMode.getLsbD b && !t.bedOut.getLsbD b)

/-- Whether a Terrace has a cache bed (06 R183). -/
def hasCache (t : Terrace) : Bool := !(cacheBeds t).isEmpty

/-- A stretch of a window that the Brine cache may hold unwritten from now on (06 R183, R186). -/
def Device.markDirty (d : Device) (a n : Nat) : Device :=
  if isWindow a && n != 0 && hasCache (d.terAt (terOfWindow a)) then
    d.updTer (terOfWindow a) (fun t => { t with dirty := (a, a + n) :: t.dirty })
  else d

/-- Bytes stored by the device through the home Terrace. -/
def Device.store (d : Device) (a : Nat) (bs : List Nat) : Device := (d.writeN a bs).markDirty a bs.length

/-- Whether a stretch lies whole in the map and its populated sizes (06 R173, R174). -/
def mapped (d : Device) (a n : Nat) : Bool :=
  n == 0 || (
    (isWindow a && decide (a % 2 ^ 38 + n ≤ populated d (terOfWindow a)))
    || (isScratch a && decide (a % 0x200000000 + n ≤ 80 * 0x4000000))
    || (isPanStore a && decide (a + n ≤ 0x011080000000)))

/-! ### The Tide's clock (14 R379) -/

/-- Tide time in nanoseconds. -/
def Tide.now (t : Tide) : Nat := t.sec * 1000000000 + t.ns

/-- The Tide set to a number of nanoseconds; NS stays below one second. -/
def Tide.setNow (t : Tide) (n : Nat) : Tide := { t with sec := n / 1000000000 % 2 ^ 48, ns := n % 1000000000 }

/-- What the frequency correction does in one nanosecond of the oscillator: the nanosecond it gives or takes, and the part left (14 R382). -/
def Tide.freqStep (t : Tide) : Int × Int :=
  let p := t.freqPart + t.freq
  if 1000000000 ≤ p then (1, p - 1000000000) else if p ≤ -1000000000 then (-1, p + 1000000000) else (0, p)

/-- What a pending phase correction does in one nanosecond of the oscillator: one nanosecond in each 10,000 (14 R380, 100 ppm), never one that the
frequency correction has taken already. -/
def Tide.slewStep (t : Tide) : Int :=
  if t.slew + 1 < 10000 then 0 else if 0 < t.pending then 1 else if t.pending < 0 ∧ t.freqStep.1 ≠ -1 then -1 else 0

/-- The Tide a nanosecond of its oscillator later: it never goes back (14 R380, R382). -/
def Tide.tick (t : Tide) : Tide :=
  let s := t.slewStep
  let n := (t.now + (1 + t.freqStep.1 + s).toNat)
  let u : Tide := { t with
    freqPart := t.freqStep.2, slew := if t.slew + 1 < 10000 then t.slew + 1 else if s = 0 ∧ t.pending ≠ 0 then t.slew else 0
    pending := t.pending - s, ptpErr := t.ptpErr + s, skipped := n / 1000000000 != t.sec && n % 1000000000 != 0 }
  u.setNow n

/-- What passes in a nanosecond on which no command comes: the Tide goes on while the always-on island does (notes/assumptions/10.md), and
TIDE_OUT falls 100 ns after its edge (20 R531). -/
def tideTick (d : Device) : Device :=
  if d.inp.island then
    { d with
      tide := d.tide.tick
      inp := { d.inp with tideOut := d.inp.tideOut && d.tide.edgeMode != 0 && decide (d.tide.tick.now < d.inp.tideFall) } }
  else d

/-- An answer appended to what the device has sent. -/
def Device.send (d : Device) (o : Out) : Device := { d with out := d.out ++ [o] }

/-- The Terraces of a partition (15 R410). -/
def partTerraces (layout part : Nat) : List Nat :=
  match layout with
  | 0 => if part = 0 then [0, 1, 2, 3] else []
  | 1 => if part = 0 then [0, 1] else if part = 1 then [2, 3] else []
  | _ => if part < 4 then [part] else []

/-- The partition of a Terrace. -/
def partOfTer (layout t : Nat) : Nat := match layout with | 0 => 0 | 1 => t / 2 | _ => t

/-- The partitions of a layout. -/
def partCount (layout : Nat) : Nat := match layout with | 0 => 1 | 1 => 2 | _ => 4

/-- The partition of a slot, when it has a reservation. -/
def JobSlot.part (j : JobSlot) : Option Nat := j.resv.map Resv.part

/-- The present pans of a partition in ascending number (15 R409): pans neither quarantined nor out by the wear record. -/
def presentPans (d : Device) (part : Nat) : List Nat :=
  (partTerraces d.quy.layout part).flatMap (fun t =>
    ((List.range 16).filter (fun i => !bitOf (d.terAt t).panQuar.toNat i)).map (fun i => 16 * t + i))

/-- The pans a job runs on, in logical order: its program's first PANS of the partition's present pans. -/
def jobPans (d : Device) (j : Nat) : List Nat :=
  match (d.jobAt j).part, (d.jobAt j).setup with
  | some p, some u => (presentPans d p).take u.prog.pans
  | _, _ => []

/-- A job in RUNNING or RECOVERING. -/
def JobSlot.live (j : JobSlot) : Bool := j.state == .running || j.state == .recovering

/-- The numbers of the sixteen slots. -/
def slots : List Nat := List.range 16

/-- A policy value in force: the record's, else the default (18 R486, R487). -/
def policyVal (p : Policy) (id index dflt : Nat) : Nat :=
  match p.recs.find? (fun r => r.id == id && r.index == index) with
  | some r => r.value
  | none => dflt

/-- The partner a peer index names in a job's topology. -/
def peerBund (d : Device) (j peer : Nat) : Option Peer := (d.jobAt j).setup.bind (fun u => u.topo.peers[peer]?)

end Sys2Proof.Machine
end

