-- ==== Sys2Proof/Machine/Desc.lean ====
section
/-! DEFINITION. The matrix descriptor: its fields, its auxiliary block, and the checks that every kind of descriptor shares
(04 R113 to R122). -/
namespace Sys2Proof.Machine

/-! ### Status codes (00 R19) -/

def stOk : Nat := 0
def stZeroSize : Nat := 0x0101
def stReserved : Nat := 0x0102
def stFormatPair : Nat := 0x0103
def stKAlign : Nat := 0x0104
def stDrawFormat : Nat := 0x0105
def stHeritageFormat : Nat := 0x0106
def stRange : Nat := 0x0107
def stSparseMeta : Nat := 0x0108
def stWkeep : Nat := 0x0109
def stOptionFormat : Nat := 0x010A
def stOutFormat : Nat := 0x010B
def stVectorType : Nat := 0x010C
def stAlign : Nat := 0x010D
def stAddress : Nat := 0x010E
def stHeritageOrder : Nat := 0x0301
def stAttnEntry : Nat := 0x0302

/-- The fields of a matrix descriptor (04 R117). `rsv`: a reserved bit of its words is set. Addresses are in bytes. -/
structure MxD where
  op : Nat
  fmtA : Nat
  fmtB : Nat
  fmtOut : Nat
  draw : Nat
  sparse : Nat
  rmode : Nat
  heritage : Bool
  ftzA : Bool
  ftzB : Bool
  ovfSp : Bool
  rs : Nat
  cs : Nat
  clr : Bool
  wb : Bool
  clrAfter : Bool
  wkeep : Bool
  zbc : Bool
  rope : Bool
  bias : Bool
  kbsA : Bool
  kbsB : Bool
  lbase : Nat
  m : Nat
  n : Nat
  k : Nat
  aAddr : Nat
  k0 : Nat
  aStride : Nat
  bAddr : Nat
  outStride : Nat
  outAddr : Nat
  waitFlag : Nat
  waitEn : Bool
  aux : Nat
  setFlag : Nat
  setEn : Bool
  rsv : Bool
deriving DecidableEq, Repr

/-- The descriptor that eight words hold (04 R117). -/
def mxd (ws : List Nat) : MxD :=
  let w := fun i => nthD 0 ws i
  { op := bits (w 0) 31 28, fmtA := bits (w 0) 27 24, fmtB := bits (w 0) 23 20, fmtOut := bits (w 0) 19 16
    draw := bits (w 0) 15 14, sparse := bits (w 0) 13 12, rmode := bits (w 0) 11 9
    heritage := bitOf (w 0) 8, ftzA := bitOf (w 0) 7, ftzB := bitOf (w 0) 6, ovfSp := bitOf (w 0) 5
    rs := bits (w 0) 4 3, cs := bits (w 0) 2 1
    clr := bitOf (w 1) 31, wb := bitOf (w 1) 30, clrAfter := bitOf (w 1) 29, wkeep := bitOf (w 1) 28
    zbc := bitOf (w 1) 27, rope := bitOf (w 1) 25, bias := bitOf (w 1) 24
    kbsA := bitOf (w 1) 23, kbsB := bitOf (w 1) 22
    lbase := bits (w 1) 21 16, m := bits (w 1) 15 9, n := bits (w 1) 8 0
    k := bits (w 2) 31 20, aAddr := 32 * bits (w 2) 19 0, k0 := bits (w 3) 31 0
    aStride := 32 * bits (w 4) 31 20, bAddr := 32 * bits (w 4) 19 0
    outStride := 32 * bits (w 5) 31 20, outAddr := 32 * bits (w 5) 19 0
    waitFlag := bits (w 6) 31 26, waitEn := bitOf (w 6) 25, aux := 32 * bits (w 6) 19 0
    setFlag := bits (w 7) 31 26, setEn := bitOf (w 7) 25
    rsv := bitOf (w 0) 0 || bitOf (w 1) 26 || bits (w 6) 24 20 != 0 || bits (w 7) 24 0 != 0 }

/-! ### Operand pairs (02 R43, 04 R113, R116) -/

/-- What an operand pair is to the array. -/
inductive Pair where
  | e2m1 | narrow | int8 | bf16 | fp16 | fp32
deriving DecidableEq, Repr

/-- The narrow floating-point formats of 02 R43. -/
def Fmt.isNarrow : Fmt → Bool
  | .e2m1 | .e2m3 | .e3m2 | .e4m3 | .e5m2 => true
  | _ => false

/-- The pair two formats form (02 R43), FP32 with FP32 counted (03 R96). -/
def pairOf (a b : Fmt) : Option Pair :=
  if a = .e2m1 ∧ b = .e2m1 then some .e2m1
  else if a.isNarrow && b.isNarrow then some .narrow
  else if a = .int8 ∧ b = .int8 then some .int8
  else if a = .bf16 ∧ b = .bf16 then some .bf16
  else if a = .fp16 ∧ b = .fp16 then some .fp16
  else if a = .fp32 ∧ b = .fp32 then some .fp32
  else none

/-- Product slots per column of a pass (04 R113). -/
def Pair.slots : Pair → Nat
  | .e2m1 => 512 | .narrow | .int8 => 256 | .bf16 | .fp16 | .fp32 => 128

/-- What sparsity multiplies K by (04 R113). -/
def sparseFactor : Nat → Nat
  | 1 => 2 | 2 => 4 | _ => 1

/-- Product slots per chunk (03 R81). -/
def Pair.chunkSlots : Pair → Nat
  | .e2m1 => 32 | .narrow | .int8 => 16 | .bf16 | .fp16 | .fp32 => 8

/-- K positions per chunk (04 R116). -/
def Pair.chunk (p : Pair) (sparse : Nat) : Nat := p.chunkSlots * sparseFactor sparse

/-- An anchored pair's window and least exponent (03 R85). -/
def Pair.window : Pair → Option (Int × Int)
  | .bf16 | .fp32 => some (52, -266)
  | .fp16 => some (46, -48)
  | _ => none

/-- A pair's format, by the descriptor's codes. -/
def MxD.fA (x : MxD) : Fmt := (Fmt.ofCode x.fmtA).getD .fp32
def MxD.fB (x : MxD) : Fmt := (Fmt.ofCode x.fmtB).getD .fp32
def MxD.fOut (x : MxD) : Fmt := (Fmt.ofCode x.fmtOut).getD .fp32
def MxD.pair (x : MxD) : Pair := (pairOf x.fA x.fB).getD .narrow
def MxD.mode (x : MxD) : RMode := (RMode.ofCode x.rmode).getD .rne

/-- The write-back outputs of 02 R42. -/
def Fmt.isOut : Fmt → Bool
  | .fp32 | .bf16 | .fp16 | .e4m3 | .e5m2 | .e3m2 | .e2m3 | .e2m1 | .int8 | .int32 => true
  | _ => false

/-! ### The auxiliary block (04 R119) -/

/-- Bytes of one scale of a code: none, E8M0, FP32. -/
def scaleWidth : Nat → Nat
  | 1 => 1 | 2 => 4 | _ => 0

/-- The K-blocks a tile touches. -/
def MxD.nb (x : MxD) : Nat := (x.k0 + x.k + 31) / 32 - x.k0 / 32

/-- The first byte of each section, as offsets from AUX_ADDR: row scales, channel scales, bias, A K-block scales, B K-block
scales, metadata. -/
structure AuxMap where
  rs : Nat
  cs : Nat
  bias : Nat
  kA : Nat
  kB : Nat
  smeta : Nat
deriving DecidableEq, Repr

def MxD.auxMap (x : MxD) : AuxMap :=
  let rs := 32
  let cs := roundUp (rs + x.m * scaleWidth x.rs) 32
  let bias := roundUp (cs + x.n * scaleWidth x.cs) 32
  let kA := roundUp (bias + (if x.bias then 4 * x.n else 0)) 32
  let kB := roundUp (kA + (if x.kbsA then x.m * x.nb else 0)) 32
  let smeta := roundUp (kB + (if x.kbsB then x.nb * x.n else 0)) 32
  { rs := rs, cs := cs, bias := bias, kA := kA, kB := kB, smeta := smeta }

/-- The header's fields. -/
structure AuxHdr where
  tensor : Nat
  ebase : Nat
  rowLen : Nat
  zbcIndex : Nat
  ext : Nat
  rsv : Bool
deriving DecidableEq, Repr

def auxHdr (d : Device) (p aux : Nat) : AuxHdr :=
  { tensor := d.psLE p aux 4, ebase := d.psLE p (aux + 4) 8, rowLen := d.psLE p (aux + 12) 4
    zbcIndex := d.psLE p (aux + 16) 4, ext := d.psLE p (aux + 20) 4, rsv := d.psLE p (aux + 24) 8 != 0 }

/-- The value of a scale code (02 R58): 1 when the descriptor has none. -/
def scaleVal (d : Device) (p kind addr i : Nat) : Val :=
  match kind with
  | 1 => decodeVal .e8m0 (d.psLE p (addr + i) 1)
  | 2 => fp32V (d.psLE p (addr + 4 * i) 4)
  | _ => .fin false 1 0

/-! ### Checks (04 R120) -/

/-- The first failing check's status; 0 when none fails. -/
def firstFail : List (Bool × Nat) → Nat
  | [] => 0
  | (b, st) :: r => if b then st else firstFail r

/-- A reserved format code. -/
def badFmt (c : Nat) : Bool := (Fmt.ofCode c).isNone

/-- Check 9's count of K positions per chunk at K0 (03 R82, 04 R116). -/
def kMisaligned (x : MxD) : Bool := x.k0 % x.pair.chunk x.sparse != 0

/-- Check 10 (04 R122): WKEEP without a matching tile load. -/
def wkeepBad (x : MxD) (t : Option Tile) : Bool :=
  x.wkeep && match t with
    | none => true
    | some t => !(t.fmtB == x.fmtB && t.sparse == x.sparse && t.draw == x.draw && t.ftzB == x.ftzB && t.kbsB == x.kbsB
        && t.n == x.n && t.k == x.k && t.k0mod == x.k0 % 32)

/-- The stored rows of a tile (04 R113, R127). -/
def storedRows (k sparse : Nat) : Nat :=
  match sparse with
  | 1 => 2 * ceilDiv k 4
  | 2 => ceilDiv k 4
  | _ => k

/-- The 2:4 code of a group and column (04 R127). -/
def meta24 (d : Device) (p base g n : Nat) : Nat := (d.psLE p (base + 128 * g + n / 2) 1 >>> (4 * (n % 2))) % 16

/-- The 1:4 index of a group and column (04 R127). -/
def meta14 (d : Device) (p base g n : Nat) : Nat := (d.psLE p (base + 64 * g + n / 4) 1 >>> (2 * (n % 4))) % 4

/-- Check 11 (04 R128): some 2:4 code of columns 0 to N − 1 is not rising. -/
def sparseBad (d : Device) (p base k n : Nat) : Bool :=
  (List.range (ceilDiv k 4)).any (fun g => (List.range n).any (fun c =>
    let v := meta24 d p base g c
    decide (v / 4 ≤ v % 4)))

/-- Checks 1 to 11 of 04 R120 for a descriptor with passes of its own, with what OP CONV adds at positions 1, 2, 6, 8 and
after them (08 R241, R242). The metadata of a kept tile was checked at its load. -/
def mxChecks (d : Device) (p : Nat) (x : MxD) (tile : Option Tile) (c1 c2 c6 c8 cAlign : Bool) : Nat :=
  let h := auxHdr d p x.aux
  let pr := pairOf x.fA x.fB
  let pairBad := pr.isNone
  let narrow := match pr with | some .e2m1 => true | some .narrow => true | _ => false
  firstFail [
    (badFmt x.fmtA || badFmt x.fmtB || badFmt x.fmtOut || x.draw == 3 || x.sparse == 3 || decide (4 < x.rmode)
      || x.rs == 3 || x.cs == 3 || x.rsv || h.rsv || c1, stReserved),
    (x.n == 0 || (x.rmode == 4 && h.rowLen == 0) || c2, stZeroSize),
    (pairBad, stFormatPair),
    ((pr == some .fp32) != (x.draw != 0), stDrawFormat),
    (x.heritage && !((pr == some .narrow && (x.fA == .e4m3 || x.fA == .e5m2) && (x.fB == .e4m3 || x.fB == .e5m2)
        || pr == some .bf16 || pr == some .fp16) && x.draw == 0 && !x.kbsA && !x.kbsB), stHeritageFormat),
    (((x.kbsA || x.kbsB) && !narrow) || (x.sparse != 0 && (x.draw != 0 || x.heritage)) || (x.zbc && pr == some .fp32)
      || x.rope || (x.clrAfter && !x.wb) || c6, stOptionFormat),
    (!x.fOut.isOut, stOutFormat),
    (decide (256 < x.n) || decide (64 < x.m) || decide (64 < x.lbase + x.m)
      || decide (x.pair.slots * sparseFactor x.sparse < x.k) || bits h.ebase 63 50 != 0 || c8, stRange),
    (cAlign, stAlign),
    (kMisaligned x, stKAlign),
    (wkeepBad x tile, stWkeep),
    (x.sparse == 1 && !x.wkeep && sparseBad d p (x.aux + x.auxMap.smeta) x.k x.n, stSparseMeta)]

/-- The checks of OP ENTRY_OP (04 R120). -/
def entryChecks (d : Device) (p : Nat) (x : MxD) : Nat :=
  let h := auxHdr d p x.aux
  firstFail [
    (badFmt x.fmtOut || decide (4 < x.rmode) || x.rs == 3 || x.cs == 3 || x.rsv || h.rsv, stReserved),
    (x.n == 0 || (x.rmode == 4 && h.rowLen == 0), stZeroSize),
    (x.clrAfter && !x.wb, stOptionFormat),
    (!x.fOut.isOut, stOutFormat),
    (decide (256 < x.n) || decide (64 < x.m) || decide (64 < x.lbase + x.m) || bits h.ebase 63 50 != 0, stRange)]

/-! ### Entries (03 R111, R548) -/

/-- The entry at a row and column as it will stand after the descriptor's own CLR. -/
def entryAfterClr (pan : Pan) (x : MxD) (m n : Nat) : LEntry :=
  if x.clr then {} else smGet {} pan.arr.ledger (256 * (x.lbase + m) + n)

/-- Check 12 (03 R111, R548): a heritage pass out of order, or the wrong mode. -/
def heritageBad (pan : Pan) (x : MxD) : Bool :=
  (List.range x.m).any (fun m => (List.range x.n).any (fun n =>
    let e := entryAfterClr pan x m n
    match e.heritage with
    | some h => if x.heritage then x.k != 0 && h.nextK != x.k0 else x.k != 0
    | none => x.heritage && (e.touched || (x.k != 0 && x.k0 != 0))))

/-- A flag of a pan set (05 R166). -/
def Pan.setFlag (p : Pan) (f : Nat) : Pan := { p with flags := p.flags ||| (1#64 <<< f) }

/-- A flag of a pan cleared. -/
def Pan.clearFlag (p : Pan) (f : Nat) : Pan := { p with flags := p.flags &&& ~~~(1#64 <<< f) }

/-- Whether a flag of a pan is set. -/
def Pan.flag (p : Pan) (f : Nat) : Bool := p.flags.getLsbD f

/-- A numeric event on a pan: its sticky flags (02 R75). -/
def Pan.raise (p : Pan) (f : NumFlags) : Pan := { p with counts := { p.counts with num := p.counts.num.or f } }

/-- Whether a stretch of a pan store meets a held 32-byte granule (06 R177). -/
def Pan.holds (p : Pan) (a n : Nat) : Bool :=
  n != 0 && p.held.any (fun h => (List.range ((a + n - 1) / 32 - a / 32 + 1)).any (fun i => ((a / 32 + i) % 0x100000) == h))

/-- A parity hit on a pan-store access at an address: counted, its granule held (06 R177). -/
def parityHit (d : Device) (p a : Nat) : Device :=
  d.updPan p (fun pan => { pan with
    held := if pan.held.contains (a / 32 % 0x100000) then pan.held else pan.held ++ [a / 32 % 0x100000]
    counts := { pan.counts with parity := satAdd pan.counts.parity 1 } })

/-- Whether an address lies in a stretch of a pan store; addresses wrap. -/
def inSpan (a : Nat) (s : Nat × Nat) : Bool := decide ((a % 0x2000000 + 0x2000000 - s.1 % 0x2000000) % 0x2000000 < s.2)

/-- An access of some stretches of a pan store, which may meet a parity hit in one of them: it waits while a granule of theirs is held, and a hit
holds its granule (06 R177). -/
def Device.panAccess (d : Device) (p : Nat) (hit : Option Nat) (spans : List (Nat × Nat)) (go : Device → Device) : Device :=
  if spans.any (fun s => (d.panAt p).holds s.1 s.2) then d
  else match hit with
  | none => go d
  | some a => if spans.any (inSpan a) then parityHit d p a else d

/-- The last word of a stretch that starts on a word, when the stretch ends inside it: a write of the stretch merges into it (06 R177). -/
def tailWord (s : Nat × Nat) : Nat × Nat := if s.2 % 4 = 0 then (s.1, 0) else (s.1 + s.2 / 4 * 4, s.2 % 4)

/-- The head descriptor, when its OP is the one asked for and it still waits. -/
def Pan.head (p : Pan) : Option Desc := p.arr.queue.head?

/-- The queue's head replaced. -/
def Pan.setHead (p : Pan) (x : Desc) : Pan :=
  { p with arr := { p.arr with queue := match p.arr.queue with | [] => [] | _ :: r => x :: r } }

/-- The head rejected with a status: it only has to be completed. -/
def Pan.rejectHead (p : Pan) (x : Desc) (st : Nat) : Pan := p.setHead { x with phase := .done, status := st }

/-- Whether a descriptor's wait is met (04 R123). -/
def MxD.ready (x : MxD) (p : Pan) : Bool := !x.waitEn || p.flag x.waitFlag

/-! ### When a pan runs -/

/-- Whether a switch-out has stopped issue on a pan of the job (15 R416). -/
def switchingOut (d : Device) (p : Nat) : Bool :=
  match (d.panAt p).job with
  | some (j, _) => (d.jobAt j).switching
  | none => false

/-- A pan that is powered, clocked, in service and not being reset: the compute domain is up, the power state is Active, no Flush
runs, the pan is not quarantined and its job is not being switched out (19 R518, R521, R523; 04 R135; 15 R416). -/
def Device.panOn (d : Device) (p : Nat) : Bool :=
  d.inp.stage == .served && d.glb.cur == .active && !d.glb.flushing && !bitOf (d.terAt (p / 16)).panQuar.toNat (p % 16) && !switchingOut d p

/-- The head descriptor of a pan that runs. -/
def Device.headOn (d : Device) (p : Nat) : Option Desc := if d.panOn p then (d.panAt p).head else none

/-- Whether the array issues: no droop skip, and at least one issue slot (17 R465, R466, R470). -/
def Device.arrayIssues (d : Device) (p : Nat) : Bool :=
  (d.panAt p).droopSkip == 0 && min (d.terpAt (p / 16)).slots (d.terpAt (p / 16)).therm != 0

/-! ### The segment of a pan program (05 R170; notes/assumptions/16.md) -/

/-- Whether a segment that is being run again has not passed every instruction that its earlier run had completed. -/
def Pan.replays (q : Pan) : Bool := decide (q.core.met < q.core.trace.length)

/-- Whether a pan program's segment is halted for a re-run or has not caught up with what its earlier run did: no descriptor starts then. -/
def Pan.rerunning (q : Pan) : Bool := q.replays || q.core.halt.any (fun h => h.cause == .recover)

/-- What the registers of a pan hold after an instruction. -/
def Pan.coreStep (q : Pan) : CoreStep :=
  { pc := q.core.pc, x := q.core.x, done := q.core.done, running := q.core.running, vec := q.vec, sel := q.sel }

/-- An instruction completed in its segment. -/
def Pan.logStep (q : Pan) : Pan :=
  { q with core := { q.core with trace := q.core.trace ++ [q.coreStep], met := q.core.trace.length + 1 } }

/-- An instruction run again: its registers as it left them first. What it left elsewhere stands already, and no input of it is read anew, so nothing
differs from the first run (05 R170; 01 R41). -/
def Pan.takeStep (q : Pan) (s : CoreStep) : Pan :=
  { q with vec := s.vec, sel := s.sel, core := { q.core with pc := s.pc, x := s.x, done := s.done, running := s.running, met := q.core.met + 1 } }

end Sys2Proof.Machine
end

