-- ==== Sys2Proof/Machine/Aes.lean ====
section
/-! DEFINITION. AES-256 (FIPS 197), its XTS mode (SP 800-38E) and its GCM mode (SP 800-38D), which 06 R193, 13 R360 and R376 name (PRESUMED,
notes/assumptions/13.md). -/
namespace Sys2Proof.Machine

/-! ### AES-256 and XTS -/

/-- Products in the field of FIPS 197: by x, and of two bytes over n bits of the second. -/
def gfDouble (b : Nat) : Nat := if b < 128 then 2 * b else Nat.xor (2 * b % 256) 0x1B
def gfMul : Nat → Nat → Nat → Nat
  | 0, _, _ => 0
  | n + 1, a, b => Nat.xor (if b % 2 = 1 then a else 0) (gfMul n (gfDouble a) (b / 2))

/-- The inverse a²⁵⁴; 0 for 0. -/
def gfInv (a : Nat) : Nat :=
  let sq := fun x => gfMul 8 x x
  let a2 := sq a
  let a3 := gfMul 8 a2 a
  let a12 := sq (sq a3)
  let a15 := gfMul 8 a12 a3
  gfMul 8 (gfMul 8 (sq (sq (sq (sq a15)))) a12) a2

/-- A byte turned left by n bits. -/
def rotl8 (b n : Nat) : Nat := Nat.lor (b * 2 ^ n % 256) (b / 2 ^ (8 - n))

/-- SubBytes of one byte. -/
def aesSub (b : Nat) : Nat :=
  let i := gfInv (b % 256)
  Nat.xor (Nat.xor (Nat.xor i (rotl8 i 1)) (Nat.xor (rotl8 i 2) (rotl8 i 3))) (Nat.xor (rotl8 i 4) 0x63)

/-- Bytes combined one by one. -/
def xorBytes (a b : List Nat) : List Nat := (a.zip b).map (fun p => Nat.xor p.1 p.2)

/-- The round-key words of AES-256, the newest first; n more. -/
def aesExpand : Nat → Nat → List (List Nat) → List (List Nat)
  | 0, _, ws => ws
  | n + 1, i, ws =>
    let t := nthD [] ws 0
    let t1 := if i % 8 = 0 then
        let r := ((t.drop 1) ++ (t.take 1)).map aesSub
        match r with | x :: xs => Nat.xor x (2 ^ (i / 8 - 1)) :: xs | [] => []
      else if i % 8 = 4 then t.map aesSub else t
    aesExpand n (i + 1) (xorBytes (nthD [] ws 7) t1 :: ws)

/-- The fifteen round keys of a 32-byte key. -/
def aesKeys (key : List Nat) : List (List Nat) :=
  let w0 := (List.range 8).map (fun i => sliceAt key (4 * i) 4)
  let ws := (aesExpand 52 8 w0.reverse).reverse
  (List.range 15).map (fun r => ((List.range 4).map (fun i => nthD [] ws (4 * r + i))).flatten)

/-- ShiftRows, then MixColumns, of a state in column order. -/
def aesShift (s : List Nat) : List Nat := (List.range 16).map (fun i => nthD 0 s ((i + 4 * (i % 4)) % 16))
def aesMix (s : List Nat) : List Nat :=
  (List.range 16).map (fun i =>
    let at' := fun k => nthD 0 s (4 * (i / 4) + (i + k) % 4)
    Nat.xor (Nat.xor (gfDouble (at' 0)) (Nat.xor (gfDouble (at' 1)) (at' 1))) (Nat.xor (at' 2) (at' 3)))

/-- AES-256 of one 16-byte block. -/
def aes256 (key blk : List Nat) : List Nat :=
  let ks := aesKeys key
  let mid := ((ks.drop 1).take 13).foldl (fun s k => xorBytes (aesMix (aesShift (s.map aesSub))) k) (xorBytes blk (nthD [] ks 0))
  xorBytes (aesShift (mid.map aesSub)) (nthD [] ks 14)

/-- The tweak value multiplied by α, as a 128-bit little-endian number. -/
def xtsNext (t : Nat) : Nat := if t < 2 ^ 127 then 2 * t else Nat.xor (2 * t % 2 ^ 128) 0x87

/-- The blocks of a data unit under a tweak. -/
def xtsBlocks (key : List Nat) : List (List Nat) → Nat → List Nat
  | [], _ => []
  | b :: bs, t => xorBytes (aes256 key (xorBytes b (toLE 16 t))) (toLE 16 t) ++ xtsBlocks key bs (xtsNext t)

/-! ### GCM (SP 800-38D) -/

/-- The field product of GHASH, over n bits of the first factor, its highest first. -/
def ghashMul : Nat → Nat → Nat → Nat → Nat
  | 0, _, _, z => z
  | n + 1, x, v, z =>
    ghashMul n x (if v % 2 = 1 then Nat.xor (v / 2) (0xE1 * 2 ^ 120) else v / 2) (if x / 2 ^ n % 2 = 1 then Nat.xor z v else z)

/-- The blocks of a run of bytes, the last one filled with zeros. -/
def gcmBlocks (bs : List Nat) : List (List Nat) := (chunks 16 bs.length bs).map (fun b => b ++ List.replicate (16 - b.length) 0)

/-- GHASH under a hash key. -/
def ghash (h : Nat) (blocks : List (List Nat)) : Nat := blocks.foldl (fun y b => ghashMul 128 (Nat.xor y (ofBE b)) h 0) 0

/-- AES-256-GCM: the ciphertext and the 16-byte tag of a text, under a 12-byte nonce, with its additional authenticated data. -/
def gcmSeal (key nonce aad text : List Nat) : List Nat × List Nat :=
  let h := ofBE (aes256 key (List.replicate 16 0))
  let block := fun (n : Nat) => aes256 key (nonce ++ toBE 4 n)
  let parts := chunks 16 text.length text
  let ct := (List.range parts.length).flatMap (fun i => xorBytes (nthD [] parts i) (block (i + 2)))
  let s := ghash h (gcmBlocks aad ++ gcmBlocks ct ++ [toBE 8 (8 * aad.length) ++ toBE 8 (8 * ct.length)])
  (ct, xorBytes (toBE 16 s) (block 1))

/-- A text opened: none where the tag does not match. The key stream is that of the sealing. -/
def gcmOpen (key nonce aad ct tag : List Nat) : Option (List Nat) :=
  let text := (gcmSeal key nonce aad ct).1
  if (gcmSeal key nonce aad text).2 = tag then some text else none

/-- The bytes of a symmetric key, which the entropy source draws (notes/assumptions/2.md). -/
def keyBytes (n k : Nat) : List Nat := toLE n (Config.freeNat k)

end Sys2Proof.Machine
end

