-- ==== Sys2Proof/Machine/Flows.lean ====
section
/-! DEFINITION. What the device sends on Quay transport flows: packets and their bytes, encryption, priorities and pause, the window
(13 R372 to R378). -/
namespace Sys2Proof.Machine

/-- Whether the host port carries packets. -/
def hostUp (d : Device) : Bool := d.inp.stage == .served && d.eth.state == 2

/-! ### Flows -/

/-- A flow by its identifier. -/
def Device.flowAt (d : Device) (id : Nat) : Option Flow := d.quy.flows.find? (fun f => f.id == id)

/-- A flow changed. -/
def Device.updFlow (d : Device) (id : Nat) (g : Flow → Flow) : Device :=
  { d with quy := { d.quy with flows := d.quy.flows.map (fun f => if f.id == id then g f else f) } }

/-- A flow gone. -/
def Device.dropFlow (d : Device) (id : Nat) : Device := { d with quy := { d.quy with flows := d.quy.flows.filter (fun f => f.id != id) } }

/-- Whether a key is installed on a flow. -/
def Flow.keyed (f : Flow) : Bool := !f.key.isEmpty

/-! ### The bytes of a packet (13 R373, R376) -/

/-- The 32-byte header. -/
def quayHeader (k : Packet) : List Nat :=
  [k.ver * 16 + k.typ, k.flags] ++ toLE 2 k.len ++ toLE 4 k.flow ++ toLE 4 k.psn ++ toLE 4 k.ackPsn ++ toLE 4 k.msg ++ [k.op] ++ toLE 3 k.rsv ++ toLE 8 k.addr

/-- The nonce {FLOW, PSN, key epoch}: one number of 96 bits, FLOW its most significant (notes/assumptions/41.md). -/
def Flow.nonce (f : Flow) (psn : Nat) : List Nat := toLE 12 (f.id * 2 ^ 64 + psn * 2 ^ 32 + f.keyEpoch)

/-- The UDP payload of a packet: the header, then its data, encrypted and followed by the tag where ENC is set. -/
def Flow.udp (f : Flow) (k : Packet) : List Nat :=
  (quayHeader k) ++ (if bitOf k.flags 0 then let c := gcmSeal f.key (f.nonce k.psn) (quayHeader k) k.data; c.1 ++ c.2 else k.data)

/-- Bytes of a frame around its data and tag: Ethernet, VLAN tag, IP, UDP, the header and FCS. -/
def frameAround (v6 tagged : Bool) : Nat := 14 + (if tagged then 4 else 0) + (if v6 then 40 else 20) + 8 + 32 + 4

/-- The most data that a packet of a flow carries: 8,192 bytes, or less where ETH_MTU allows no more, a multiple of 64 (13 R372, R373). -/
def Device.pieceMax (d : Device) (f : Flow) : Nat := min 8192 ((d.eth.mtu - frameAround f.v6 f.tagged - (if f.keyed then 16 else 0)) / 64 * 64)

/-- The packet of a DATA message as it leaves: ENC on a keyed flow (DEDUCED, notes/assumptions/24.md), LAST, the next PSN expected. -/
def Flow.packet (f : Flow) (u : TxPacket) : Packet :=
  { typ := 1, op := u.op, flags := b2n f.keyed + (if u.last then 8 else 0), flow := f.id, psn := u.psn, ackPsn := f.rxPsn, msg := u.msg, addr := u.addr
    data := u.data, len := u.len }

/-! ### What leaves (13 R375, R377, R378) -/

/-- The priority of a transport class. -/
def classPrio (d : Device) (cls : Nat) : Nat := nthD 3 d.eth.prio cls

/-- Whether the other end paused a class: only a priority of PFC_EN is ever paused. -/
def classPaused (d : Device) (cls : Nat) : Bool := d.eth.paused.getLsbD (classPrio d cls) && bitOf d.eth.pfcEn (classPrio d cls)

/-- The packets that leave now: those of no paused class, packets sent before first of all bounds, new ones while the window has room, one at least. -/
def duePackets (paused : Nat → Bool) (window : Nat) : Nat → List TxPacket → List TxPacket
  | _, [] => []
  | used, u :: us =>
    if u.sent || paused u.cls then duePackets paused window used us
    else if !u.wire.isEmpty then u :: duePackets paused window (used + u.data.length) us
    else if used = 0 ∨ used + u.data.length ≤ window then u :: duePackets paused window (used + u.data.length) us
    else []

/-- A packet on its way: its bytes are formed once. -/
def Flow.launch (f : Flow) (u : TxPacket) : TxPacket := { u with sent := true, wire := if u.wire.isEmpty then f.udp (f.packet u) else u.wire }

/-- A packet as packets of at most n data bytes. -/
def TxPacket.cut (u : TxPacket) (n : Nat) : List TxPacket :=
  if n = 0 ∨ u.data.length ≤ n then [u]
  else
    let m := ceilDiv u.data.length n
    (chunks n m u.data).zipIdx.map (fun p => { u with addr := u.addr + n * p.2, data := p.1, len := p.1.length, last := u.last && p.2 + 1 == m })

/-- Packets numbered from a PSN on. -/
def numbered (psn : Nat) (us : List TxPacket) : List TxPacket := us.zipIdx.map (fun p => { p.1 with psn := psn + p.2 })

/-- A flow whose packets not yet formed, behind all those formed, are cut to n data bytes and numbered anew: a lower ETH_MTU holds from the next frame
sent (13 R378). -/
def Flow.recut (f : Flow) (n : Nat) : Flow :=
  let tail := (f.unacked.reverse.takeWhile (fun u => u.wire.isEmpty)).reverse
  if tail.any (fun u => decide (n < u.data.length)) then
    let us := tail.flatMap (fun u => u.cut n)
    if 2 ^ 32 < f.txPsn + us.length - tail.length then f else { f with unacked := f.unacked.take (f.unacked.length - tail.length) ++ numbered ((tail.head?.map TxPacket.psn).getD f.txPsn) us, txPsn := f.txPsn + us.length - tail.length }
  else f

/-- The packets of a flow that may leave do, marked ECT(0), cut to what ETH_MTU allows now. -/
def Device.pushFlow (d0 : Device) (id : Nat) : Device :=
  let d := d0.updFlow id (fun f => f.recut (d0.pieceMax f))
  match (if hostUp d then d.flowAt id else none) with
  | none => d
  | some f =>
    let due := (duePackets (classPaused d) f.window (sumNat ((f.unacked.filter (fun u => u.sent)).map (fun u => u.data.length))) f.unacked).map f.launch
    due.foldl (fun e u => e.send (.packet id (classPrio d u.cls) 2 u.wire))
      (d.updFlow id (fun g => { g with unacked := g.unacked.map (fun u => (due.find? (fun v => v.psn == u.psn)).getD u) }))

/-- XON for the priorities that XOFF was sent for, once no frame waits: the receive buffer has drained (13 R377, R378; notes/assumptions/24.md). -/
def Device.pfcDrain (d : Device) : Device :=
  if hostUp d && d.eth.xoffSent != 0 then
    ((List.range 8).filter (fun p => d.eth.xoffSent.getLsbD p)).foldl (fun e p => e.send (.pfc p false)) { d with eth := { d.eth with xoffSent := 0 } }
  else d

/-- Control packets that a pause held back, then the packets of every flow. -/
def Device.pushAll (d : Device) : Device :=
  let d1 := if hostUp d && !classPaused d 0 then d.quy.owed.foldl (fun e o => e.send (.packet o.1 (classPrio d 0) 2 o.2)) { d with quy := { d.quy with owed := [] } } else d
  d1.quy.flows.foldl (fun e f => e.pushFlow f.id) d1

/-- An ACK, SACK, OPEN, CLOSE or PROBE packet of the device: it takes no PSN and leaves by the control class (notes/assumptions/24.md). -/
def Device.control (d : Device) (flow typ flags : Nat) (data : List Nat) : Device :=
  let f := (d.flowAt flow).getD { id := flow }
  let w := f.udp { typ := typ, flags := 8 + flags, flow := flow, psn := f.txPsn, ackPsn := f.rxPsn, data := data, len := data.length }
  if !hostUp d then d
  else if classPaused d 0 then { d with quy := { d.quy with owed := d.quy.owed ++ [(flow, w)] } }
  else d.send (.packet flow (classPrio d 0) 2 w)

/-- A flow whose PSN would wrap is closed with ST_FAB_FLOW_REKEY (13 R376). -/
def Device.rekeyFlow (d : Device) (id : Nat) : Device := ((d.control id 5 0 (toLE 2 0x0709)).dropFlow id).send (.quay id 0x50 (toLE 2 0x0709))

/-- A message queued on a flow, as its packets' (address, PAYLEN, data); on a flow that is not open nothing is sent. -/
def Device.queueMsg (d : Device) (flow op cls : Nat) (ps : List (Nat × Nat × List Nat)) : Device :=
  match d.flowAt flow with
  | none => d
  | some f =>
    if 2 ^ 32 < f.txPsn + ps.length then d.rekeyFlow flow
    else (d.updFlow flow (fun f =>
      { f with
        unacked := f.unacked ++ ps.zipIdx.map (fun p =>
          { psn := f.txPsn + p.2, msg := f.txMsg, op := op, addr := p.1.1, len := p.1.2.1, data := p.1.2.2, last := p.2 + 1 == ps.length, cls := cls })
        txPsn := f.txPsn + ps.length, txMsg := (f.txMsg + 1) % 2 ^ 32 })).pushFlow flow

/-- The most data that a packet on a flow carries. -/
def Device.pieceOf (d : Device) (flow : Nat) : Nat := ((d.flowAt flow).map d.pieceMax).getD 8192

/-- A WRITE (OP 1) or READ_RESP (OP 3) message of bytes. -/
def Device.transmit (d : Device) (flow op cls addr : Nat) (bytes : List Nat) : Device :=
  let n := d.pieceOf flow
  d.queueMsg flow op cls ((chunks n (ceilDiv bytes.length n) bytes).zipIdx.map (fun p => (addr + n * p.2, p.1.length, p.1)))

/-- A READ_REQ message for bytes of the host, and what asks for them. -/
def Device.askHost (d : Device) (flow cls addr len : Nat) : Device :=
  (d.queueMsg flow 2 cls ((List.range (ceilDiv len 8192)).map (fun i => (addr + 8192 * i, min 8192 (len - 8192 * i), [])))).send (.fetch flow addr len)

end Sys2Proof.Machine
end

