-- ==== Sys2Proof/Machine/Report.lean ====
section
/-! DEFINITION. What the device reports: the Bittern log (18 R479 to R482), notices (15 R405), and the end of a mailbox command (15 R401). -/
namespace Sys2Proof.Machine

/-! ### The Bittern log -/

/-- SOURCE words (18 R479). -/
def srcPan (p : Nat) : Nat := 0x100 + p
def srcTer (t : Nat) : Nat := 0x200 + t
def srcPort (b : Nat) : Nat := 0x300 + b
def srcChan (c : Nat) : Nat := 0x400 + c
def srcQuay : Nat := 0x500
def srcRenura : Nat := 0x600
def srcPawezel : Nat := 0x700
def srcSecurity : Nat := 0x800
def srcTide : Nat := 0x900

/-- The severities of 18 R479. -/
def sevNotice : Nat := 1
def sevWarning : Nat := 2
def sevFault : Nat := 3
def sevLockdown : Nat := 4
def sevAlarm : Nat := 5

/-- A Bittern record (18 R479). -/
def bitternRecord (t : Tide) (src ev sev job : Nat) (data : List Nat) : List Nat :=
  toLE 8 (t.sec % 2 ^ 34 * 2 ^ 30 + t.ns) ++ toLE 2 src ++ toLE 2 ev ++ [sev, job] ++ sliceAt data 0 18

/-- The last n elements of a list. -/
def keepLast {α : Type} (n : Nat) (l : List α) : List α := l.drop (l.length - n)

/-- A page of records, the rest of it erased (18 R482; notes/assumptions/29.md). -/
def pageCrc (rs : List Record) : Nat := crc32c (rs.flatMap Record.bytes ++ List.replicate (4064 - 32 * rs.length) 0xFF)
def pageOf (rs : List Record) : NorPage :=
  { magic := Config.pageMagic, first := ((rs.head?).map Record.num).getD 0, crc := pageCrc rs, recs := rs }

/-- Whether a page's CRC holds: at power-up another is discarded. -/
def NorPage.good (p : NorPage) : Bool := p.crc == pageCrc p.recs

/-- A page added; a full region loses its oldest erase block of 16 pages. -/
def addPage (nor : List NorPage) (rs : List Record) : List NorPage :=
  if nor.length < 4096 then nor ++ [pageOf rs] else nor.drop 16 ++ [pageOf rs]

/-- The records not yet in NOR. -/
def Bittern.unwritten (b : Bittern) : List Record := b.ring.filter (fun r => decide (b.written ≤ r.num))

/-- One page written: up to 127 unwritten records, oldest first. -/
def Bittern.writePage (b : Bittern) : Bittern :=
  let rs := b.unwritten.take 127
  match rs.getLast? with
  | some r => { b with nor := addPage b.nor rs, written := r.num + 1 }
  | none => b

/-- Every unwritten record written. -/
def Bittern.writeAll (b : Bittern) : Bittern :=
  { b with nor := (chunks 127 b.unwritten.length b.unwritten).foldl addPage b.nor, written := b.next }

/-- A record in the ring under the next record number, the oldest leaving a full ring; a full page of records is written (18 R482). -/
def Bittern.take (b : Bittern) (bytes : List Nat) : Bittern :=
  let b1 : Bittern := { b with ring := keepLast 32768 (b.ring ++ [{ num := b.next, bytes := bytes }]), next := b.next + 1 }
  if b.written + 127 ≤ b1.next then b1.writePage else b1

/-- A record enters the log; at warning or above an in-band interrupt is raised, unless they are disabled, and ALERT_N is asserted (18 R477). -/
def Device.logBytes (d : Device) (sev : Nat) (bytes : List Nat) : Device :=
  { d with
    bit := d.bit.take bytes
    i3c := { d.i3c with alert := d.i3c.alert || decide (2 ≤ sev) }
    out := if 2 ≤ sev ∧ d.i3c.ibiOff = false then d.out ++ [.ibi] else d.out }

/-- A record in the Bittern log alone. -/
def Device.logRaw (d : Device) (src ev sev job : Nat) (data : List Nat) : Device :=
  d.logBytes sev (bitternRecord d.tide src ev sev job data)

/-! ### Notices (15 R405) -/

/-- The committed step field of replies and notices: all ones when none (15 R397). -/
def JobSlot.committedField (j : JobSlot) : Nat := j.commit.step.getD (2 ^ 64 - 1)

/-- TNS and TSEC of a reply or notice. -/
def timeFields (t : Tide) : List Nat := toLE 4 t.ns ++ toLE 4 (t.sec % 2 ^ 32)

/-- The header of a notice. -/
def noticeHead (mbox cmd st kind slot : Nat) : List Nat := toLE 2 mbox ++ toLE 2 cmd ++ toLE 2 st ++ [kind, slot]

/-- A notice sent on a flow: a host-lane request in its own transport class, the others in that of the data plane (13 R378). -/
def Device.notice (d : Device) (flow addr : Nat) (bytes : List Nat) : Device :=
  (d.transmit flow 1 (if nthD 0 bytes 6 = 4 then 4 else 1) addr bytes).send (.notice flow addr bytes)

/-- A notice to the notice address of a job that has one. -/
def Device.jobNotice (d : Device) (j st kind : Nat) (body : List Nat) : Device :=
  match (d.jobAt j).setup with
  | some u => if d.inp.stage == .served then d.notice u.jr.nflow u.jr.naddr (noticeHead 0xFFFF 0 st kind j ++ body) else d
  | none => d

/-- An event notice not tied to a job: to the management notice address, or held, the oldest of more than 256 discarded; an event of a bring-up
is held for when the mailboxes are served (notes/assumptions/38.md). -/
def Device.mgmtNotice (d : Device) (rec : List Nat) : Device :=
  let bytes := noticeHead 0xFFFF 0 0 5 0xFF ++ rec
  match d.quy.mgmt with
  | some (f, a) => if d.inp.stage == .served then d.notice f a bytes else d
  | none =>
    if d.quy.heldNotices.length < 256 then { d with quy := { d.quy with heldNotices := d.quy.heldNotices ++ [bytes] } }
    else { d with quy := { d.quy with heldNotices := d.quy.heldNotices.drop 1 ++ [bytes], lostNotices := d.quy.lostNotices + 1 } }

/-- An event: its Bittern record, and the event notice that repeats it, to the job's notice address when the event is tied to a job
that has one. -/
def Device.logEvent (d : Device) (src ev sev : Nat) (job : Option Nat) (data : List Nat) : Device :=
  let rec' := bitternRecord d.tide src ev sev (job.getD 0xFF) data
  let d1 := d.logBytes sev rec'
  match job with
  | some j => if (d.jobAt j).setup.isSome then d1.jobNotice j 0 5 rec' else d1.mgmtNotice rec'
  | none => d1.mgmtNotice rec'

/-! ### Mailboxes (15 R394, R397, R401) -/

/-- The slot that owns a mailbox; none for the management class. -/
def mboxSlot (m : Nat) : Option Nat := if m < 16 then none else if m < 64 then some ((m - 16) / 3) else some ((m - 64) / 12)

/-- A field of a mailbox. -/
def Device.mbx (d : Device) (m off n : Nat) : Nat := ofLE (bmRead d.quy.mbx (4096 * m + off) n)

/-- Bytes written in a mailbox. -/
def Device.mbxWrite (d : Device) (m off : Nat) (bs : List Nat) : Device :=
  { d with quy := { d.quy with mbx := bmWrite d.quy.mbx (4096 * m + off) bs } }

/-- OWN with a new STATE and the same SEQ (15 R398). -/
def Device.setOwn (d : Device) (m st : Nat) : Device := d.mbxWrite m 0 (toLE 4 (st * 2 ^ 30 + d.mbx m 0 2))

/-- The STATE of a mailbox. -/
def Device.ownState (d : Device) (m : Nat) : Nat := d.mbx m 0 4 / 2 ^ 30

/-- The committed step that a reply of a mailbox carries: 0 in management replies. -/
def Device.stepField (d : Device) (m : Nat) : Nat :=
  match mboxSlot m with
  | some j => (d.jobAt j).committedField
  | none => 0

/-- The command code in a mailbox. -/
def Device.cmdAt (d : Device) (m : Nat) : Nat := d.mbx m 4 2

/-- Whether a posted command holds back a mailbox posted after it: one of the same slot or class, or a JOB_CREATE or JOB_DESTROY that names
the slot (15 R400, R404). -/
def holdsBack (d : Device) (m x : Nat) : Bool :=
  mboxSlot x == mboxSlot m
    || (match mboxSlot m with
        | some j => decide (x < 16) && (d.cmdAt x == 4 || d.cmdAt x == 5) && d.mbx x 64 1 == j
        | none => false)

/-- Whether every command accepted before a mailbox's has taken effect, as far as it holds the mailbox back. -/
def Device.atTurn (d : Device) (m : Nat) : Bool := (d.quy.posted.takeWhile (· != m)).all (fun x => !holdsBack d m x)

/-- The command codes of 15 R404. -/
def knownCmd (c : Nat) : Bool :=
  (decide (1 ≤ c) && decide (c ≤ 0x0B)) || (decide (0x0101 ≤ c) && decide (c ≤ 0x0108)) || (decide (0x0201 ≤ c) && decide (c ≤ 0x0204))

/-- The end of one command: the reply body, bytes 32 to 63, OWN with STATE 3, then the completion notice (15 R401). -/
def Device.finishOne (d : Device) (m st result : Nat) (body : List Nat) : Device :=
  let d1 := d.mbxWrite m 64 body
  let d2 := d1.mbxWrite m 32 (toLE 2 st ++ toLE 2 d.quy.epoch ++ toLE 4 body.length ++ toLE 8 (d.stepField m) ++ timeFields d.tide ++ toLE 8 result)
  let d3 := d2.setOwn m 3
  let d4 := { d3 with quy := { d3.quy with posted := d3.quy.posted.filter (fun x => x != m) } }
  if d.mbx m 12 2 = 0xFFFF then d4
  else d4.notice (d.mbx m 12 2) (d.mbx m 16 8)
    (noticeHead m (d.mbx m 4 2) st 0 ((mboxSlot m).getD 0xFF) ++ toLE 4 (d.mbx m 8 4) ++ [0, 0, 0, 0] ++ toLE 8 (d.stepField m) ++ timeFields d.tide)

/-- The commands of unknown CMD whose turn it is, refused (15 R400, R402). -/
def Device.sweepUnknown (d : Device) : Device :=
  if d.inp.stage == .served then
    d.quy.posted.foldl (fun e m => if e.atTurn m && !knownCmd (e.cmdAt m) then e.finishOne m 0x0001 0 [] else e) d
  else d

/-- The end of a command; an unknown one that it held back is refused then (15 R400 to R402). -/
def Device.finish (d : Device) (m st result : Nat) (body : List Nat) : Device := (d.finishOne m st result body).sweepUnknown

end Sys2Proof.Machine
end

