-- ==== Sys2Proof/Machine/Sign.lean ====
section
/-! DEFINITION. Pawezel's signatures: the HSS index, the Alias key, Tally checkpoints (18 R493, R494, R498). -/
namespace Sys2Proof.Machine

/-- The image that runs of a type (18 R489). -/
def ImageType.running (t : ImageType) : Image := if t.runningB then t.b else t.a

/-- The other slot's image. -/
def ImageType.other (t : ImageType) : Image := if t.runningB then t.a else t.b

/-- An image type by its number, 1 to 4 (18 R484). -/
def Pwz.typeAt (p : Pwz) (t : Nat) : ImageType := nthD {} p.types (t - 1)

/-- An image type changed. -/
def Pwz.updType (p : Pwz) (t : Nat) (f : ImageType → ImageType) : Pwz := { p with types := modNth f p.types (t - 1) }

/-- The measurements of the running images, 48 bytes each, in type order (18 R484, R495). -/
def measurements (d : Device) : List Nat := d.pwz.types.flatMap (fun t => sliceAt t.running.measurement 0 48)

/-- What the Alias key derives from at a boot (18 R493): the measurements, the rollback counts, DEBUG. -/
def aliasId (d : Device) : List Nat := measurements d ++ d.pwz.types.map ImageType.rollback ++ [b2n d.sec.debug]

/-- The last HSS index (18 R494). -/
def hssEnd : Nat := 2 ^ 40

/-- The next HSS index used: the record advanced before the signature leaves, the fuse of its block blown, EV_HSS_LOW at the
threshold (18 R494). None past the last index. -/
def Device.hssTake (d : Device) : Option (Nat × Device) :=
  let i := d.pwz.hssNext
  if hssEnd ≤ i then none
  else
    let d1 := { d with pwz := { d.pwz with hssNext := i + 1, hssFuses := max d.pwz.hssFuses (i / 2 ^ 32 + 1) } }
    some (i, if i = hssEnd - 2 ^ 32 then d1.logEvent srcSecurity 0x0A0B sevWarning none (toLE 8 i) else d1)

/-- The next index at a boot: the top of the reserved block of 1,024 when the record is not below what the fuses say, else the first index of the block that no
fuse counts (18 R494; notes/assumptions/29.md). -/
def hssAtBoot (p : Pwz) : Nat :=
  let top := roundUp p.hssNext 1024
  if (p.hssFuses - 1) * 2 ^ 32 ≤ top then top else p.hssFuses * 2 ^ 32

/-- The checkpoint of a job signed and stored (18 R498), when the keys stand and an index is left; otherwise it stays due. Before its first commit a job has the
genesis head, and its step field is all ones (notes/assumptions/29.md). -/
def Device.signCheckpoint (d : Device) (j : Nat) : Device :=
  let q := d.jobAt j
  match q.setup with
  | some u =>
    let body := toLE 2 u.topo.selfId ++ [j, 0] ++ toLE 8 q.committedField ++ sliceAt q.commit.head 0 48
    match (if d.sec.zeroised then none else d.hssTake) with
    | some (i, d1) =>
      let msg := sha384 body
      let c : Checkpoint := { body := body, sig := Config.ecdsaSign d.pwz.aliasFrom msg ++ Config.hssSign i msg }
      let d2 := { d1 with pwz := { d1.pwz with tally := keepLast 4096 (d1.pwz.tally ++ [c]) } }
      (d2.updJob j (fun q => { q with commit := { q.commit with sinceSign := 0, signDue := false } })).logEvent srcSecurity 0x0A0A sevNotice
        (some j) (toLE 8 q.committedField ++ sliceAt q.commit.head 0 8)
    | none => d.updJob j (fun q => { q with commit := { q.commit with signDue := true } })
  | none => d

end Sys2Proof.Machine
end

