-- ==== Sys2Proof/Machine/Jobs.lean ====
section
/-! DEFINITION. Jobs as a whole: ending steps, stopping, losing and suspending a job, its saved context, the Flush and the job fault
(15 R412 to R416, R420, R424; 16 R430), a pan core's halt (05 R169). -/
namespace Sys2Proof.Machine

/-- Status codes of 15 R403 and others that the chapters share. -/
def stUnknownCmd : Nat := 0x0001
def stWrongClass : Nat := 0x0002
def stAborted : Nat := 0x0003
def stJobState : Nat := 0x0004

/-! ### Manifest entries (11 R295) -/

/-- The fields of a manifest entry. -/
def manSample (e : List Nat) : Nat := fieldAt e 0 8
def manLoc (e : List Nat) : Nat := fieldAt e 8 8
def manCsize (e : List Nat) : Nat := fieldAt e 16 4
def manCost (e : List Nat) : Nat := max 1 (fieldAt e 20 4)
def manFlow (e : List Nat) : Nat := fieldAt e 24 2
def manMedia (e : List Nat) : Nat := fieldAt e 26 1
def manElig (e : List Nat) : Bool := bitOf (fieldAt e 27 1) 0
def manWrap (e : List Nat) : Bool := bitOf (fieldAt e 27 1) 1
def manCrc (e : List Nat) : Nat := fieldAt e 28 4

/-- The manifest entry of a position. -/
def JobSlot.manAt (q : JobSlot) (epoch pos : Nat) : Option (List Nat) :=
  (q.manifest.find? (fun e => e.epoch == epoch && e.pos == pos)).map ManEntry.bytes

/-- The manifest entry of a slot of a step; a batch lists its own (11 R324). -/
def entryOfSlot (q : JobSlot) (st : Step) (k : Nat) : List Nat :=
  if st.batch.isSome then nthD [] st.list k else (q.manAt st.sub.epoch (st.sub.posFirst + k)).getD []

/-- Whether some byte of a stretch is held: a LOST line, a scratchpad line or a pan-store granule that waits for regeneration
(06 R177, R184). -/
def heldAt (d : Device) (a n : Nat) : Bool :=
  n != 0 && (
    if isPanStore a then (d.panAt (panOfStore a)).holds ((a - 0x011000000000) % 0x2000000) n
    else
      let t := if isWindow a then terOfWindow a else terOfScratch a
      (d.terAt t).lostLines.any (fun l => decide (a / 256 ≤ l) && decide (l ≤ (a + n - 1) / 256)))

/-- The samples of this device that contribute to a step: those packed, rejected ones apart; none of a dropped share (10 R284; 11 R307;
16 R447). -/
def Step.localCount (st : Step) : Nat :=
  if st.dropped.isSome then 0
  else ((st.mbs.flatMap (fun m => m.samples)).filter (fun x => ((st.slots.find? (fun e => e.1 == x.slot)).map (fun e => e.2.place)) != some .rejected)).length

/-- The tokens of those samples. -/
def Step.localTokens (st : Step) : Nat := if st.dropped.isSome then 0 else sumNat (st.mbs.map MicroBatch.tokens)

/-- The contributing samples of a step: those of all members that COMMIT brought, else this device's with those reported from below; where none has
reported, in a job of several members, the other members' positions (notes/assumptions/22.md). -/
def contributing (q : JobSlot) (st : Step) : Nat :=
  match q.setup with
  | some u =>
    if u.topo.nmemb ≤ 1 then st.localCount
    else if st.total.isSome then (st.total.map StepShare.samples).getD 0
    else if st.shares.isEmpty then st.sub.globalCount - st.sub.posCount + st.localCount
    else st.localCount + sumNat (st.shares.map (fun x => x.2.samples))
  | none => st.localCount

/-- The n of R284: contributing samples, or contributing tokens where the compiled program normalises by tokens. -/
def normCount (q : JobSlot) (st : Step) : Nat :=
  match q.setup with
  | some u => if Config.byTokens u.prog.digest then
      (st.total.map StepShare.tokens).getD (st.localTokens + sumNat (st.shares.map (fun x => x.2.tokens))) else contributing q st
  | none => contributing q st

/-! ### Steps and batches under way (11 R324; 15 R422) -/

/-- The numbers that batches run under start here, beyond every step number (notes/assumptions/25.md). -/
def batchBase : Nat := 2 ^ 63

/-- Every step under way: the submissions, then the batches that have not run. -/
def JobSlot.allSteps (q : JobSlot) : List Step := q.steps ++ (q.batches.filter (fun b => !b.done)).map Batch.work

/-- The step under way of a number. -/
def JobSlot.stepAt (q : JobSlot) (n : Nat) : Option Step := q.allSteps.find? (fun st => st.num == n)

/-- Whether a batch may run: a serving batch at once, an evaluation batch while its window is open. -/
def batchReady (q : JobSlot) (b : Batch) : Bool := b.kind == 1 || q.windows.any (fun w => w.num == b.window && w.isOpen)

/-- The batch whose turn it is, while it may run. -/
def JobSlot.dueBatch (q : JobSlot) : Option Batch := (q.batches.find? (fun b => !b.done)).filter (batchReady q)

/-- A step notice (15 R405, R420), its SAMPLES the n of 10 R284; the job keeps its statuses. -/
def Device.stepNotice (d : Device) (j : Nat) (st : Step) (status : Nat) : Device :=
  (d.updJob j (fun q => { q with lastStatus := status, lastDesc := st.descStatus })).jobNotice j status 1
    (toLE 8 st.num ++ toLE 2 st.descStatus ++ [0, 0] ++ toLE 4 (normCount (d.jobAt j) st) ++ timeFields d.tide)

/-- The undo copies of a step written back (16 R430). -/
def undoStep (m : Mem) (st : Step) : Mem := st.undo.reverse.foldl (fun m e => m.writeN e.1 e.2) m

/-- The undo copies of a step stored again, through the Brine cache as any store (06 R186). -/
def Device.undoOf (d : Device) (st : Step) : Device := st.undo.reverse.foldl (fun e x => e.store x.1 x.2) d

/-- The undo copies of a job's uncommitted steps, the newest step first. -/
def Device.undoAll (d : Device) (j : Nat) : Device := (d.jobAt j).steps.reverse.foldl Device.undoOf d

/-- The Tide entries of a job freed. -/
def Device.freeEntries (d : Device) (j : Nat) : Device :=
  { d with tide := { d.tide with entries := d.tide.entries.filter (fun e => e.2.job != j) } }

/-! ### The work of a job on pans and engines -/

/-- A pan that no longer works for a job: its queue is empty and its program does not run. -/
def Pan.release (p : Pan) : Pan :=
  { p with job := none, step := none, gated := false, core := { p.core with running := false }, arr := { p.arr with queue := [] } }

/-- The work of a job dropped from an engine set: its pans' copies, its Skim and Sluice commands, its combine counts. -/
def Engines.drop (e : Engines) (j : Nat) (ps : List Nat) : Engines :=
  { e with
    copies := e.copies.filter (fun c => match c.issuer with | .pan p => !ps.contains p | .firmware => c.job != j)
    waiters := e.waiters.filter (fun i => match i.1 with | .pan p => !ps.contains p | .firmware => i.2 != j)
    skim := e.skim.filter (fun c => c.job != j)
    sluice := e.sluice.filter (fun c => c.job != j)
    disp := match e.sluice with | c :: _ => if c.job == j then none else e.disp | [] => e.disp
    inbox := match e.sluice with | c :: _ => if c.job == j then [] else e.inbox | [] => []
    targets := e.targets.filter (fun x => x.job != j)
    combines := e.combines.filter (fun c => c.job != j)
    work := match e.sluice with | c :: _ => if c.job == j then [] else e.work | [] => [] }

/-- The pans that hold a job's context. -/
def pansOf (d : Device) (j : Nat) : List Nat :=
  (List.range 64).filter (fun p => match (d.panAt p).job with | some (k, _) => k == j | none => false)

/-- The Grader without the entries of a job (11 R312). -/
def Grader.drop (g : Grader) (j : Nat) : Grader := if g.owner = some j then {} else g

/-- A job's traffic dropped: its LADDs outstanding, those it has received and not finished, its chains, its HOLDs and reports. -/
def Device.dropFabric (d : Device) (j : Nat) : Device :=
  let mine := (d.fab.pend.filter (fun p => p.job == j)).map Pending.tag
  { d with fab := { d.fab with
      pend := d.fab.pend.filter (fun p => p.job != j), absent := d.fab.absent.filter (fun x => !mine.contains x.tag)
      held := d.fab.held.filter (fun h => h.txn.job != j), chains := d.fab.chains.filter (fun c => c.job != j)
      waits := d.fab.waits.filter (fun w => w.job != j), reports := d.fab.reports.filter (fun r => r.1 != j) } }

/-- A job's work taken off pans, engines, the fabric and the Grader. -/
def Device.releaseWork (d : Device) (j : Nat) : Device :=
  let ps := pansOf d j
  let d1 := ps.foldl (fun e p => e.updPan p Pan.release) d
  ({ d1 with eng := d1.eng.map (fun e => e.drop j ps), grd := d1.grd.drop j
             med := if d1.grd.owner = some j then { d1.med with ctxOpen := 0 } else d1.med } : Device).dropFabric j

/-- Every uncommitted step of a job ended: its notice with the status given by step number, its undo copies restored (15 R413, R420;
16 R430). -/
def Device.discardSteps (d : Device) (j : Nat) (status : Nat → Nat) : Device :=
  let d1 := d.undoAll j
  let d2 := (d.jobAt j).steps.foldl (fun e st => e.stepNotice j st (status st.num)) d1
  d2.updJob j (fun q => { q with steps := [] })

/-- What a job loses when it no longer runs: batches, windows, gates, fills and snapshots under way, the lane open. -/
def JobSlot.quiet (q : JobSlot) (st : JState) : JobSlot :=
  { q with
    state := st, batches := [], windows := [], gates := [], resident := false, saved := none, switching := false, suspending := false, snaps := [], pipe := none
    lane := { q.lane with isOpen := false }
    partner := { q.partner with fill := none, queued := [], lacking := [], joins := [] } }

/-- A waiting JOB_STOP with MODE 0 answered (15 R413). -/
def Device.answerStop (d : Device) (j st : Nat) : Device :=
  match (d.jobAt j).stopping with
  | some m => (d.updJob j (fun q => { q with stopping := none })).finish m st 0 []
  | none => d

/-- A job stopped (15 R413): its uncommitted steps end, its Tide entries are freed, its lane closes, committed state and logs stay. -/
def Device.stopJob (d : Device) (j : Nat) (status : Nat → Nat) : Device :=
  let d1 := (d.discardSteps j status).releaseWork j
  ((d1.freeEntries j).updJob j (fun q => q.quiet .stopped)).answerStop j stOk

/-- A job lost (15 R412, R424). -/
def Device.loseJob (d : Device) (j : Nat) : Device :=
  ((d.releaseWork j).freeEntries j).updJob j (fun q => q.quiet .lost)

/-! ### A halted pan core (05 R169) -/

/-- A pan-program fault: the core halts; every cause but RECOVER stops the job of the pan, with the status at the step it ran; RECOVER
counts a hit in the segment (05 R170). -/
def Device.panFault (d : Device) (p : Nat) (c : Cause) (st : Nat) : Device :=
  let d1 := d.updPan p (fun q => { q with core := { q.core with
    halt := some { cause := c, status := st }, hits := if c = .recover then q.core.hits + 1 else q.core.hits } })
  if c = .recover then d1
  else match (d.panAt p).job with
    | some (j, _) => if (d.jobAt j).live then d1.stopJob j (fun n => if (d.panAt p).step = some n then st else stAborted) else d1
    | none => d1

/-! ### Saved contexts (15 R416) -/

/-- The part of the device map in a range, alone. -/
def Mem.slice (m : Mem) (lo hi : Nat) : Mem :=
  { cells := m.cells.filter (fun c => decide (lo ≤ c.1) && decide (c.1 < hi))
    layers := (m.layers.filter (fun l => decide (l.lo < hi) && decide (lo < l.hi))).map (fun l =>
      { l with lo := max l.lo lo, hi := min l.hi hi }) }

/-- A range of the device map replaced by a slice of it: the slice's backgrounds, then its bytes. -/
def Mem.paste (m : Mem) (lo hi : Nat) (s : Mem) : Mem :=
  let b := m.blank lo hi none
  let m1 : Mem := { cells := b.cells, layers := s.layers.map (fun l => { l with lo := max l.lo lo, hi := min l.hi hi }) ++ b.layers }
  (s.cells.filter (fun c => decide (lo ≤ c.1) && decide (c.1 < hi))).foldl (fun mm c => mm.write c.1 c.2.toNat) m1

/-- The live bytes of a logical pan's store (15 R409, R416). -/
def liveBytes (q : JobSlot) (i : Nat) : Nat :=
  match q.setup with
  | some u => match u.prog.images[i]? with | some im => im.live * 65536 | none => 0
  | none => 0

/-- A pan's context as it is saved: the residue and parity counts, droop and held granules are not part of it; the stationary tile is not kept, and
what it is reloaded from is (04 R122). -/
def Pan.context (p : Pan) : Pan :=
  { p with
    counts := { p.counts with residue := 0, parity := 0 }, droopSkip := 0, droopHeld := false, held := []
    arr := { p.arr with tileValid := false } }

/-- A pan whose context is lost or taken away: reset values, but for what is not job context. -/
def Pan.bare (p : Pan) : Pan :=
  { ({} : Pan) with
    counts := { residue := p.counts.residue, parity := p.counts.parity }, droopSkip := p.droopSkip, droopHeld := p.droopHeld }

/-- A pan with a context put into it. -/
def Pan.take (p ctx : Pan) : Pan :=
  { ctx with
    counts := { ctx.counts with residue := p.counts.residue, parity := p.counts.parity }
    droopSkip := p.droopSkip, droopHeld := p.droopHeld }

/-- The entries on decoder cores put back with ATTEMPT unchanged: those of the bank's step to the draining bank, the others to the retry lane, where what
is beyond its 64 waits first (11 R315; 12 R339). -/
def Grader.abandon (g : Grader) : Grader :=
  let back := g.busy.filter (fun e => e.attempt == 0 && !e.noBudget && some e.step == (if g.drainB then g.stepB else g.stepA))
  let again := g.busy.filter (fun e => !(e.attempt == 0 && !e.noBudget && some e.step == (if g.drainB then g.stepB else g.stepA)))
  { g with
    busy := [], retry := (again ++ g.retry).take 64, waiting := (again ++ g.retry).drop 64 ++ g.waiting
    bankA := if g.drainB then g.bankA else back ++ g.bankA, bankB := if g.drainB then back ++ g.bankB else g.bankB }

/-- A step whose job is switched out: fetches are asked for again, decodes are abandoned, host-lane samples placed again but for those that
wait for their dimensions (11 R307; 12 R339). -/
def Step.withdraw (st : Step) : Step :=
  { st with slots := st.slots.map (fun e =>
      if e.2.place = .decoding then (e.1, { e.2 with place := .queued })
      else if e.2.place = .fetching then (e.1, { e.2 with place := .unplaced })
      else if e.2.place = .hostLane ∧ !e.2.dimReason then (e.1, { e.2 with place := .unplaced }) else e) }

/-- Whether BRN_SLEEVE.EN reads 1: it reads 0 where a sleeve bed is not a present scratchpad bed (06 R187). -/
def sleeveReads (t : Terrace) : Bool :=
  t.sleeveEn && (List.range 9).all (fun i => t.bedMode.getLsbD (t.sleeveBase + i) && !t.bedOut.getLsbD (t.sleeveBase + i))
    && decide (t.sleeveBase ≤ 71)

/-- The size of a pan's context image (06 R187). -/
def contextBytes : Nat := 0x2400000

/-- n bytes copied as the start of a context image, which is open behind them: the zero backgrounds and the listed bytes of what is copied. -/
def Device.copyImage (d : Device) (src dst n : Nat) : Device :=
  let s := d.mem.slice src (src + n)
  let d1 := d.undefine dst (dst + contextBytes)
  let zero := ((s.layers.filter (fun l => l.seed.isNone)).map (fun l => { l with lo := dst + (l.lo - src), hi := dst + (l.hi - src) })).map (fun l =>
    ({ l with lo := max l.lo dst, hi := min l.hi (dst + contextBytes) } : Layer))
  (d1.setMem (s.cells.foldl (fun m c => m.write (dst + (c.1 - src)) c.2.toNat) { d1.mem with layers := zero ++ d1.mem.layers })).markDirty dst n

/-- A pan's image of 36 MiB written by copy commands of firmware: the live bytes of its pan store, at its start (DEDUCED, notes/assumptions/26.md), and
nothing stated behind them (06 R187). -/
def Device.putContext (d : Device) (base p live : Nat) : Device := d.copyImage (panStore p) base live

/-- The place of a pan's context image in its Terrace's sleeve, when there is one (06 R187, R198; 15 R411, R417). -/
def sleevePlace (d : Device) (p : Nat) : Option Nat :=
  let t := d.terAt (p / 16)
  if sleeveReads t then some (scratchBed (p / 16) t.sleeveBase + p % 16 * contextBytes) else none

/-- The place of a pan's context image in its job's save area. -/
def savePlace (d : Device) (j p : Nat) : Option Nat :=
  ((d.jobAt j).resv.bind (fun r => r.save.find? (fun x => x.1 == p / 16))).map (fun x => x.2 + p % 16 * contextBytes)

/-- Both places of a pan's context image. -/
def imagePlaces (d : Device) (j p : Nat) : List Nat := (sleevePlace d p).toList ++ (savePlace d j p).toList

/-- The context of a resident job saved (15 R416); the pan stores are undefined from then on. -/
def Device.saveContext (d : Device) (j : Nat) : Device :=
  if !(d.jobAt j).resident then d
  else
    let ps := pansOf d j
    let sv : Saved :=
      { pans := ps.map (fun p => (p, (d.panAt p).context))
        store := ps.map (fun p => (p, d.mem.slice (panStore p)
          (panStore p + liveBytes (d.jobAt j) (((d.panAt p).job.map Prod.snd).getD 0))))
        grader := if d.grd.owner = some j then some d.grd.abandon else none }
    let d0 := ps.foldl (fun e p => (imagePlaces d j p).foldl (fun f a =>
      f.putContext a p (liveBytes (d.jobAt j) (((d.panAt p).job.map Prod.snd).getD 0))) e) d
    let d1 := ps.foldl (fun e p => (e.updPan p Pan.bare).undefine (panStore p) (panStore (p + 1))) d0
    let d2 : Device := if d.grd.owner = some j then { d1 with grd := {}, med := { d1.med with ctxOpen := 0 } } else d1
    d2.updJob j (fun q =>
      { q.mapSteps Step.withdraw with saved := some sv, resident := false, switching := false, lane := { q.lane with reqs := [] } })

/-- A saved context put back (15 R416), a first one over whole pan stores (R550); what the save did not keep of a pan store stays undefined. Its Grader state waits while another job
owns the pipeline (15 R418). -/
def Device.restoreContext (d : Device) (j : Nat) : Device :=
  match (d.jobAt j).saved with
  | none => d
  | some sv =>
    let d1 := sv.pans.foldl (fun e x => e.updPan x.1 (fun p => p.take x.2)) d
    let m := sv.store.foldl (fun m x =>
      m.paste (panStore x.1) (if sv.whole then panStore (x.1 + 1) else panStore x.1 + liveBytes (d.jobAt j) (((sv.pans.find? (fun y => y.1 == x.1)).bind (fun y => y.2.job.map Prod.snd)).getD 0)) x.2) d.mem
    let free := d1.grd.owner.isNone
    ({ d1.setMem m with
        grd := if free then sv.grader.getD d1.grd else d1.grd
        quy := { d1.quy with turn := modNth (fun _ => j) d1.quy.turn (((d.jobAt j).part).getD 4) } } : Device).updJob j (fun q =>
      { q with saved := none, resident := true, switching := false, pipe := if free || sv.grader.isNone then q.pipe else sv.grader })

/-- Whether a granule of a job's live pan-store bytes is held: its save waits until the granule is regenerated (01 R39; 06 R177). -/
def liveHeld (d : Device) (j : Nat) : Bool :=
  (pansOf d j).any (fun p => (d.panAt p).holds 0 (liveBytes (d.jobAt j) (((d.panAt p).job.map Prod.snd).getD 0)))

/-- Whether no operation of a job is in flight (15 R416; 03 R107): no packed add, combine record still due, copy, Skim or Sluice command, no granule of
its context held. -/
def drained (d : Device) (j : Nat) : Bool :=
  let ps := pansOf d j
  !liveHeld d j &&
  (List.range 4).all (fun t =>
    let e := d.engAt t
    e.copies.all (fun c => match c.issuer with | .pan p => !ps.contains p | .firmware => c.job != j)
      && e.skim.all (fun c => c.job != j) && e.sluice.all (fun c => c.job != j) && e.targets.all (fun g => g.job != j))
    && d.fab.pend.all (fun p => p.job != j || p.txn.op != 5) && d.fab.held.all (fun h => h.txn.job != j || h.missing.isEmpty)

/-- A job suspended (15 R412): its context saved. -/
def Device.suspend (d : Device) (j : Nat) : Device := (d.saveContext j).updJob j (fun q => { q with state := .suspended, suspending := false })

/-- A job suspended as by JOB_SUSPEND (15 R416; 03 R107): at once when nothing of it is in flight, else issue stops, and CONTEXT_SWITCH suspends it
once all is done. -/
def Device.suspendDrained (d : Device) (j : Nat) : Device :=
  if (d.jobAt j).resident && !drained d j then d.updJob j (fun q => { q with switching := true, suspending := true }) else d.suspend j

/-- The resident job of a partition. -/
def residentOf (d : Device) (part : Nat) : Option Nat :=
  slots.find? (fun j => (d.jobAt j).part == some part && (d.jobAt j).resident)

/-! ### Flush and job fault (15 R424, 19 R518) -/

/-- The whole-line stretch around an address range of a window. -/
def lineSpan (lo hi : Nat) : Nat × Nat := (lo / 256 * 256, roundUp hi 256)

/-- Lines of a Terrace in the LOST state lose their contents when the Brine store is cleared (06 R184, 19 R520). -/
def Device.loseLostLines (d : Device) (t : Nat) : Device :=
  ((d.terAt t).lostLines.foldl (fun e l => e.undefine (256 * l) (256 * l + 256)) d).updTer t (fun x => { x with lostLines := [] })

/-- The Brine store cleared after its dirty lines are written back. -/
def Device.brineWrittenBack (d : Device) : Device :=
  let d1 := (List.range 4).foldl (fun e t => (e.loseLostLines t).updTer t (fun x => { x with dirty := [] })) d
  d1.undefine 0x010000000000 0x010800000000

/-- The staging windows of the slots. -/
def Device.stagingSpans (d : Device) : List (Nat × Nat) :=
  slots.filterMap (fun j => (d.jobAt j).resv.map (fun r => (r.stageDev, r.stageDev + r.stageMib * 1048576)))

/-- The parts of a stretch that lie outside every one of some windows. -/
def partsOutside (ws : List (Nat × Nat)) (r : Nat × Nat) : List (Nat × Nat) :=
  ws.foldl (fun rs w => rs.flatMap (fun x => [(x.1, min x.2 w.1), (max x.1 w.2, x.2)].filter (fun y => decide (y.1 < y.2)))) [r]

/-- The Brine store cleared with its dirty lines lost (06 R186): of a line LPDDR5X keeps what had been written back, so the bytes stored since are open and
the others stand; staging keeps its contents (19 R524; notes/assumptions/37.md). -/
def Device.brineLost (d : Device) : Device :=
  let d1 := (List.range 4).foldl (fun e t =>
    let ds := (d.terAt t).dirty.flatMap (fun r => partsOutside d.stagingSpans r)
    (ds.foldl (fun e' r => e'.undefine r.1 r.2) (e.loseLostLines t)).updTer t (fun x => { x with dirty := [] })) d
  d1.undefine 0x010000000000 0x010800000000

/-- A pan whose context is lost while its array keeps the record that its tile is reloaded from: after Doze and after a Flush (04 R122). -/
def Pan.unloaded (p : Pan) : Pan := { p.bare with arr := { tile := p.arr.tile } }

/-- The job context of every pan lost: reset values, pan stores undefined (19 R524). -/
def Device.pansLost (d : Device) : Device :=
  { d with pan := d.pan.map Pan.unloaded }.undefine (panStore 0) (panStore 64)

/-- The engines' queues cleared; a failed Skim engine stays failed. -/
def Engines.clear (e : Engines) : Engines :=
  { skimFailed := e.skimFailed, skimResidue := e.skimResidue, skips := e.skips }

/-- The compute domain returned to its reset values: pans, Terrace engines, the input pipeline and the media engines; the counters GRD_ and
MED_ keep, as their own entries say of a Flush (19 R518, R524; 00 R16; 11 R312; 12 R353). -/
def Device.computeLost (d : Device) : Device :=
  let d1 := d.pansLost
  { d1 with
    eng := d1.eng.map Engines.clear, grd := {}, med := { d1.med with ctxOpen := 0 }
    terp := d1.terp.map (fun x => { x with therm := 0x40 })
    pwr := { d1.pwr with r := 10000000 }
    sl := { d1.sl with matched := false, valid := false } }

/-- A Flush: dirty Brine lines written back, the compute domain reset, every host lane closed; it runs until FLUSH_END (15 R424, R425). -/
def Device.flush (d : Device) : Device :=
  let d1 := d.brineWrittenBack.computeLost
  { d1 with
    job := d1.job.map (fun q => { q with lane := { q.lane with isOpen := false } }), glb := { d1.glb with flushing := true, cause := { d1.glb.cause with flush := true } } }

/-- Every posted or running job-control and data-plane command completed with a status. -/
def Device.abortJobCommands (d : Device) (st : Nat) : Device :=
  let d1 := { d with job := d.job.map (fun q => { q with stopping := none }) }
  (d.quy.posted.filter (fun m => decide (16 ≤ m))).foldl (fun e m => e.finish m st 0 []) d1

/-- A job fault (15 R424). A SUSPENDED job keeps its saved context; jobs in CREATED, STOPPED and LOST are unchanged. -/
def Device.jobFault (d : Device) : Device :=
  let d1 := d.logEvent srcRenura 0x0001 sevFault none []
  let hit := slots.filter (fun j => (d1.jobAt j).live)
  let steps := hit.map (fun j => (j, (d1.jobAt j).steps))
  let d2 := hit.foldl (fun e j => (e.undoAll j).loseJob j) d1
  let d3 := d2.abortJobCommands stAborted
  let d4 := steps.foldl (fun e x => x.2.foldl (fun e' st => e'.stepNotice x.1 st stAborted) e) d3
  let d5 := hit.foldl (fun e j => e.updJob j (fun q => { q with steps := [] })) d4
  d5.flush

end Sys2Proof.Machine
end

