-- ==== Sys2Proof/Machine/Policy.lean ====
section
/-! DEFINITION. The policy table: parsing, validity, defaults (18 R486, R487; 10 R271, R272; 17 R474). -/
namespace Sys2Proof.Machine

/-- The width of a policy field and the checks of its INDEX and value (18 R487); none for an unknown ID. -/
def policyField (id index v : Nat) : Option (Nat × Bool × Bool) :=
  let i0 := index == 0
  let r (lo hi : Nat) : Bool := decide (lo ≤ v) && decide (v ≤ hi)
  match id with
  | 0x0100 => some (16, decide (index ≤ 2), true)
  | 0x0200 => some (4, i0, r 0 1000000)
  | 0x0201 => some (1, i0, r 2 64)
  | 0x0202 => some (2, i0, r 1 1000)
  | 0x0203 => some (1, i0, r 0 1)
  | 0x0204 => some (2, i0, r 1 268)
  | 0x0210 => some (2, decide (index ≤ 15) || index == 0xFFFF, true)
  | 0x0300 => some (4, i0, r 1 10000000)
  | 0x0301 => some (2, i0, r 1 4096)
  | 0x0302 => some (2, i0, r 1 4096)
  | 0x0303 => some (4, decide (1 ≤ index) && decide (index ≤ 3), true)
  | 0x0304 => some (2, i0, r 1 512)
  | 0x0305 => some (1, i0, r 0 1)
  | 0x0400 => some (2, i0, r 500 2150)
  | 0x0401 => some (1, decide (index ≤ 3), r 0 100)
  | 0x0402 => some (2, i0, r 1100 1300 && v % 25 == 0)
  | 0x0403 => some (1, i0, r 70 94)
  | 0x0500 => some (1, i0, r 1 100)
  | 0x0600 => some (1, decide (index ≤ 5), r 1 3)
  | 0x0601 => some (1, i0, r 0 1)
  | 0x0602 => some (4, i0, r 1 (2 ^ 32 - 1))
  | 0x0603 => some (2, i0, r 0 0x7FFF)
  | 0x0604 => some (1, i0, r 0 3)
  | _ => none

/-- A field record well formed (18 R486). -/
def policyRecOk (rec : List Nat) : Bool :=
  let id := fieldAt rec 0 2; let ix := fieldAt rec 2 2; let len := fieldAt rec 4 2
  match policyField id ix (fieldAt rec 8 len) with
  | some (w, okIx, okV) => len == w && okIx && okV && fieldAt rec 6 2 == 0 && fieldAt rec (8 + len) (24 - len) == 0
  | none => false

/-- The index of the first malformed record, or of the first that repeats an earlier ID and INDEX, recipes apart. -/
def firstBadRecord (recs : List (List Nat)) : Option Nat :=
  (List.range recs.length).find? (fun i =>
    let x := nthD [] recs i
    !policyRecOk x || (fieldAt x 0 2 != 0x100 && (recs.take i).any (fun y => fieldAt y 0 4 == fieldAt x 0 4)))

/-- A recipe entry (10 R271). -/
def recipeOf (b : List Nat) : Recipe :=
  { kind := fieldAt b 0 1, gran := fieldAt b 1 1, source := fieldAt b 2 1, hist := fieldAt b 3 1, margin := fieldAt b 4 1
    rmode := fieldAt b 5 1, redo := fieldAt b 6 1, initAmax := fieldAt b 8 4 }

/-- Whether a recipe entry keeps the rules of 10 R271 and R272, its KIND the record's INDEX (notes/assumptions/15.md). -/
def recipeEntryOk (b : List Nat) (index : Nat) : Bool :=
  let r := recipeOf b
  r.kind == index && (if r.kind == 0 then r.gran == 0 || r.gran == 2 else r.gran == 0 || r.gran == 1)
    && decide (r.source ≤ 1) && (r.source == 0 || (r.gran == 0 && decide (1 ≤ r.hist) && decide (r.hist ≤ 16)))
    && decide (r.margin ≤ 15) && (r.rmode == 0 || r.rmode == 4) && decide (r.redo ≤ 1) && fieldAt b 7 1 == 0
    && decide (r.initAmax < 0x7F800000) && fieldAt b 12 4 == 0

/-- The default recipes of 10 R272. -/
def defaultRecipe (kind : Nat) : Recipe :=
  match kind with
  | 0 => { kind := 0, gran := 2, source := 0, hist := 1, margin := 0, rmode := 0, redo := 1, initAmax := 0 }
  | 1 => { kind := 1, gran := 1, source := 0, hist := 1, margin := 0, rmode := 0, redo := 1, initAmax := 0 }
  | _ => { kind := 2, gran := 0, source := 1, hist := 16, margin := 1, rmode := 0, redo := 1, initAmax := 0x3F800000 }

/-- The recipe of a kind in force. -/
def recipeFor (p : Policy) (kind : Nat) : Recipe := (p.recipes.find? (fun r => r.kind == kind)).getD (defaultRecipe kind)

/-- A policy body parsed: the table, or the index of the first failing record (18 R486). -/
def parsePolicy (body : List Nat) : Except Nat Policy :=
  let n := fieldAt body 8 4
  if fieldAt body 0 4 ≠ 0x4C504B53 ∨ fieldAt body 4 2 ≠ 1 ∨ fieldAt body 6 2 ≠ 0 ∨ fieldAt body 12 4 ≠ 0 ∨ 16 + 32 * n ≠ body.length then .error 0
  else
    let recs := chunks 32 n (body.drop 16)
    match firstBadRecord recs with
    | some i => .error i
    | none =>
      let vals := (recs.filter (fun x => fieldAt x 0 2 != 0x100)).map (fun x =>
        ({ id := fieldAt x 0 2, index := fieldAt x 2 2, value := fieldAt x 8 (fieldAt x 4 2) } : PolicyRec))
      let rs := recs.filter (fun x => fieldAt x 0 2 == 0x100)
      let p : Policy :=
        { recs := vals, recipes := rs.map (fun x => recipeOf (sliceAt x 8 16))
          recipeOk := rs.all (fun x => recipeEntryOk (sliceAt x 8 16) (fieldAt x 2 2)) && decide ((rs.map (fun x => fieldAt x 2 2)).Nodup) }
      if sumNat ((List.range 4).map (fun t => policyVal p 0x0401 t 25)) = 100 then .ok p
      else .error (((List.range recs.length).find? (fun i => fieldAt (nthD [] recs i) 0 2 == 0x0401)).getD 0)

/-- The power fractions of a policy (17 R474). -/
def policyFrac (p : Policy) : List Nat := (List.range 4).map (fun t => policyVal p 0x0401 t 25)

/-- The power policy fields loaded into PWR_FRAC and PWR_FTARGET (17 R474). -/
def Device.loadPower (d : Device) : Device :=
  { d with
    pwr := { d.pwr with frac := policyFrac d.pwz.policy }
    terp := d.terp.map (fun t => { t with ftarget := policyVal d.pwz.policy 0x0402 0 0x514 }) }

/-- LOCK_AT_BOOT and SEAL_ACTION (19 R510, R512). -/
def lockAtBoot (p : Policy) : Nat := policyVal p 0x0603 0 0x4000
def sealAction (p : Policy) : Nat := policyVal p 0x0604 0 0

/-! ### The sealed registers (19 R511) -/

/-- The value of BRN_SLEEVE (06 R187). -/
def sleeveValue (t : Terrace) : Nat := b2n (sleeveReads t) * 2 ^ 31 + t.sleeveBase

/-- PWR_FRAC as a register. -/
def fracValue (p : Pwr) : Nat := ofLE (p.frac.map (· % 256))

/-- TID_CTRL and BND_PORT_CTRL as registers. -/
def tidCtrl (t : Tide) : Nat := t.edgeMode * 2 ^ 30 + t.edgeDelay
def portCtrl (p : Port) : Nat := b2n p.encEn * 2 ^ 31 + b2n p.disable * 2 ^ 30

/-- Register k of BRN_BED_MODE or BRN_BED_OUT. -/
def bedReg (b : BitVec 80) (k : Nat) : Nat := b.toNat >>> (32 * k) % 2 ^ 32

/-- The 36 sealed values in the order of 19 R511. -/
def sealedValues (d : Device) : List Nat :=
  [d.glb.lock.toNat, tidCtrl d.tide, fracValue d.pwr] ++ d.terp.toList.map TerPower.ftarget ++ [d.quy.layout]
    ++ d.port.toList.map portCtrl
    ++ d.ter.toList.flatMap (fun t => [bedReg t.bedMode 0, bedReg t.bedMode 1, bedReg t.bedMode 2, sleeveValue t])
    ++ d.ter.toList.map (fun t => t.chans.toNat)

/-- The seal of the current values. -/
def sealOf (vs : List Nat) : Nat := crc32c (vs.flatMap (toLE 4))

/-- A derived commit (19 R513): SEAL_REF and the sealed image from the current values. HOLD has been set and clears: what MATCH and VALID
said is gone. -/
def Device.deriveSeal (d : Device) : Device :=
  let vs := sealedValues d
  { d with sl := { d.sl with ref := sealOf vs, image := some (vs, sealOf vs), hold := false, matched := false, valid := false } }

/-- Bed modes and sleeves written back from the sealed image (19 R520, R521). -/
def Device.restoreBeds (d : Device) : Device :=
  match d.sl.image with
  | some (vs, _) =>
    (List.range 4).foldl (fun e t =>
      let g := fun i => nthD 0 vs (16 + 4 * t + i)
      e.updTer t (fun x => { x with
        bedMode := BitVec.ofNat 80 (g 0 + 2 ^ 32 * g 1 + 2 ^ 64 * g 2), sleeveEn := bitOf (g 3) 31, sleeveBase := g 3 % 128 })) d
  | none => d

end Sys2Proof.Machine
end

