-- ==== Sys2Proof/Machine/Alarm.lean ====
section
/-! DEFINITION. The security alarm: sources, responses, levels, Erase (18 R499 to R501), and entry to Shelf, which Erase shares
(19 R521). -/
namespace Sys2Proof.Machine

/-! ### Links at rest -/

/-- Entry to holdover: LOCKED clears, HOLDOVER is set, the event is logged (14 R381). -/
def Device.toHoldover (d : Device) : Device :=
  if d.tide.holdover then d
  else ({ d with tide := { d.tide with locked := false, holdover := true, syncRun := 0 } } : Device).logEvent srcTide 0x0704 sevWarning none []

/-- The host port at a state that is not up: one that was up goes down, and the Tide to holdover at once (14 R381). -/
def Device.hostPortDown (d : Device) (state : Nat) : Device :=
  let d1 : Device := { d with eth := { d.eth with state := state, cr := false, fecLock := false, paused := 0, xoffSent := 0 } }
  if d.eth.state = 2 then d1.toHoldover else d1

/-- The counters of the Grader and the media engines lost, in Shelf and on every reset above a Flush (11 R312, 12 R353). -/
def Device.pipeCountersLost (d : Device) : Device := { d with grdc := {}, med := {} }

/-! ### A generator run stopped (06 R200) -/

/-- Where the raw byte at 64·burst + byte of a channel stands. -/
def rawKey (c k : Nat) : Nat := 2 ^ 48 + 2 ^ 33 * c + k

/-- A run stopped: which bursts it had written by then is not stated, so what the run's range holds is free (06 R200). -/
def Device.tgStop (d : Device) (c : Nat) : Device :=
  match (d.chanAt c).run with
  | none => d
  | some r =>
    let d1 := d.updChan c (fun x => { x with run := none, aborted := true, abort := false })
    if r.opmode = 1 then d1
    else ({ d1 with free := d1.free + 1 } : Device).updChan c (fun x => { x with
      raw := x.raw.blank (rawKey c (64 * r.start)) (rawKey c (64 * (r.start + r.count))) (some d.free) })

/-- The runs of every channel stopped: ABORTED shows which ran. -/
def Device.tgStopAll (d : Device) : Device :=
  (List.range 128).foldl Device.tgStop { d with chan := d.chan.map (fun c => { c with aborted := false }) }

/-- Terraces and Brine off, Quay media and pipeline off, Bund lanes and the host port in electrical idle; bed modes, sleeves and test
mode are lost, and a running traffic generator is aborted (19 R521, R524; 06 R199). -/
def Device.shelfOff (d : Device) : Device :=
  let d1 := d.tgStopAll.computeLost.pipeCountersLost
  { d1 with
    pwr := d.pwr
    port := d1.port.map (fun p => { p with state := .down })
    ter := d1.ter.map (fun t => { t with bedMode := 0, sleeveEn := false, sleeveBase := 0x47, testEn := false })
    chan := d1.chan.map (fun c => { ({} : Channel) with
      linkRetry := c.linkRetry, mismatch := c.mismatch, aborted := c.aborted, raw := c.raw }) }

/-- The states of GLB_PSTATE. In Active and Idle no Terrace stays below one slot: a 0 that a trip, Doze or Shelf left becomes 1 (17 R465;
notes/assumptions/28.md). -/
def Device.setPState (d : Device) (s : PState) : Device :=
  { d with
    glb := { d.glb with cur := s, target := s, busy := false }
    terp := match s with | .active | .idle => d.terp.map (fun x => { x with slots := max 1 x.slots }) | _ => d.terp }

/-- Entry to Shelf with the dirty Brine lines written back (06 R186, 19 R521). -/
def Device.enterShelf (d : Device) : Device := (d.brineWrittenBack.shelfOff.setPState .shelf).hostPortDown 0

/-! ### Erase (18 R501) -/

/-- An update in progress is lost: its slot stays invalid, and the running slot is preferred; a type in recovery runs none (18 R490, R492). -/
def Device.dropUpdate (d : Device) : Device :=
  match d.pwz.update with
  | none => d
  | some u => { d with pwz := { d.pwz.updType u.typ (fun t => if t.recovery then t else { t with preferredB := t.runningB }) with update := none } }

/-- Step 1: every key zeroised; LPDDR5X contents are unreadable from then on. -/
def Device.zeroise (d : Device) : Device :=
  let d1 : Device := { d with
    sec := { d.sec with zeroised := true }
    ter := d.ter.map (fun t => { t with keys := [none, none, none, none], groups := [[], [], [], []] })
    port := d.port.map (fun p => { p with keyed := false })
    quy := { d.quy with flows := d.quy.flows.map (fun f => { f with key := [] }) } }
  d1.undefine 0 (2 ^ 40)

/-- The step that CRUST_ON_ERASE adds: a key-epoch fuse, or the store disabled once the 16 are used. -/
def Device.crustErase (d : Device) : Device :=
  if policyVal d.pwz.policy 0x0601 0 0 = 0 then d
  else if d.pwz.crustEpochs < 16 then { d with pwz := { d.pwz with crustEpochs := d.pwz.crustEpochs + 1, crust := [] } }
  else ({ d with pwz := { d.pwz with wear := { d.pwz.wear with crustOff := true } } }).logEvent srcPawezel 0x0806 sevWarning none
    (toLE 4 d.pwz.wear.nand)

/-- Every job that a slot holds is lost. -/
def Device.loseAll (d : Device) : Device :=
  slots.foldl (fun e j =>
    match (e.jobAt j).state with
    | .empty => e
    | .created => e
    | _ => (e.loseJob j).updJob j (fun q => { q with steps := [], stopping := none })) d

/-- Erase: steps 1 to 4. The fuses, NOR, the Bittern log, the Tide and, but for CRUST_ON_ERASE, the Crust store stay. -/
def Device.erase (d : Device) : Device :=
  let d1 := d.zeroise.crustErase
  let d2 := (d1.brineLost.shelfOff.setPState .shelf).hostPortDown 0
  (d2.loseAll.dropUpdate).logEvent srcSecurity 0x0A07 sevAlarm none []

/-! ### Sources and levels (18 R499, R500) -/

/-- The hardware floor and the default response of a source, in the row order of R499. -/
def alarmFloor (i : Nat) : Nat := match i with | 0 => 3 | 3 => 2 | _ => 1
def alarmDefault (i : Nat) : Nat := match i with | 0 => 3 | 1 => 1 | _ => 2

/-- The response to a source: the policy's, raised to the floor. -/
def alarmResponse (d : Device) (i : Nat) : Nat := max (policyVal d.pwz.policy 0x0600 i (alarmDefault i)) (alarmFloor i)

/-- Lockdown: every running job is suspended (18 R500). -/
def Device.lockdown (d : Device) : Device :=
  slots.foldl (fun e j => if (e.jobAt j).state == .running then e.suspendDrained j else e) d

/-- A source is met with a response: SOURCES; the level rises to a response above it, and never falls here. -/
def Device.meetSource (d : Device) (i resp : Nat) : Device :=
  let d1 := { d with sec := { d.sec with sources := d.sec.sources ||| (1#7 <<< i) } }
  if resp < 2 ∨ resp ≤ d.sec.level then d1
  else
    let d2 := { d1 with sec := { d1.sec with level := min resp 3, alarmCount := satAdd d1.sec.alarmCount 1 } }
    let d3 := (d2.logEvent srcSecurity 0x0A01 sevAlarm none [resp]).lockdown
    if 3 ≤ resp then d3.erase else d3

/-- A record of severity Lockdown-request: the event, and the alarm source it is (18 R480). -/
def Device.logLockdown (d : Device) (src ev : Nat) (data : List Nat) : Device :=
  (d.logEvent src ev sevLockdown none data).meetSource 5 (alarmResponse d 5)

/-- A failed verification: EV_SIG_FAIL; the third within 10 min meets its source (18 R499). -/
def Device.sigFail (d : Device) (subject : Nat) : Device :=
  let fs := keepLast 3 (d.sec.sigFails.filter (fun t => decide (d.tide.now < t + 600000000000)) ++ [d.tide.now])
  let d1 := ({ d with sec := { d.sec with sigFails := fs } }).logEvent srcSecurity 0x0A02 sevWarning none [subject]
  if 3 ≤ fs.length then d1.meetSource 4 (alarmResponse d 4) else d1

end Sys2Proof.Machine
end

