-- ==== Sys2Proof/Machine/Resets.lean ====
section
/-! DEFINITION. Resets, bring-up, power states, pan quarantine, the wear record (18 R488, R489; 19 R518 to R524; 20 R534 to R538;
04 R135; 16 R454, R455). -/
namespace Sys2Proof.Machine

/-! ### Wear and the RETIRE advisory (16 R454, R455) -/

/-- The faulty lanes of a port. -/
def Port.faults (p : Port) : Nat := popCount 9 p.bad.toNat

/-- The width a port's fault count gives it (13 R355). -/
def Port.width (p : Port) : PortState := if p.dead then .down else if p.faults ≤ 1 then .full else if p.faults = 2 then .half else .down

/-- The pans in service. -/
def pansIn (d : Device) : Nat := 64 - sumNat (d.ter.toList.map (fun t => popCount 16 t.panQuar.toNat))

/-- The faulty lanes of a port in the wear record. -/
def lanesOut (w : Wear) (b : Nat) : Nat := (w.lanes.filter (fun l => l / 9 == b)).length

/-- The ports at full width: by the lanes of the wear record, but for one that a tag mismatch has taken down (13 R355, R360). -/
def portsFull (d : Device) : Nat := ((List.range 8).filter (fun b => decide (lanesOut d.pwz.wear b ≤ 1) && !(d.portAt b).dead)).length

/-- PWZ_RETIRE, from the wear record (16 R455, R456). -/
def retireReg (d : Device) : Nat :=
  let a := decide (64 - d.pwz.wear.pans.length < 60); let b := decide (128 - d.pwz.wear.chans.length < 112); let c := decide (portsFull d < 6)
  b2n (a || b || c) * 2 ^ 31 + b2n a * 2 ^ 30 + b2n b * 2 ^ 29 + b2n c * 2 ^ 28

/-- PWZ_WEAR0 and PWZ_WEAR1, from the wear record (16 R456). -/
def wear0 (d : Device) : Nat :=
  let w := d.pwz.wear
  let half := ((List.range 8).filter (fun b => lanesOut w b == 2)).length
  let down := ((List.range 8).filter (fun b => decide (3 ≤ lanesOut w b))).length
  w.pans.length * 2 ^ 25 + w.chans.length * 2 ^ 17 + w.beds.length * 2 ^ 8 + half * 16 + down

def wear1 (d : Device) : Nat :=
  let w := d.pwz.wear
  min w.nand 0xFFFF * 2 ^ 16 + w.lanes.length * 2 ^ 8 + b2n w.crustOff * 128 + w.skims.length * 16

/-- A change of what is in service: EV_RETIRE when PWZ_RETIRE changes with it. -/
def Device.noteRetire (d : Device) (before : Nat) : Device :=
  if retireReg d = before then d else d.logEvent srcPawezel 0x0807 sevWarning none (toLE 4 (retireReg d))

/-- A unit entered in a list of the wear record once. -/
def wearAdd (l : List Nat) (u : Nat) : List Nat := if l.contains u then l else sortBy (fun a b => decide (a ≤ b)) (u :: l)

/-- The wear record changed. -/
def Device.updWear (d : Device) (f : Wear → Wear) : Device := { d with pwz := { d.pwz with wear := f d.pwz.wear } }

/-! ### Pan quarantine (04 R135, 19 R518) -/

/-- A pan quarantined: its context lost, its bit in TER_PAN_QUAR and the wear record set, EV_PAN_QUARANTINE, a job fault. -/
def Device.quarantine (d : Device) (p : Nat) : Device :=
  let job := (d.panAt p).job.map Prod.fst
  let d1 := (d.updTer (p / 16) (fun t => { t with panQuar := t.panQuar ||| (1#16 <<< (p % 16)) })).updWear (fun w => { w with pans := wearAdd w.pans p })
  let d2 := { d1 with glb := { d1.glb with cause := { d1.glb.cause with quar := true }, pans := pansIn d1 } }
  let d3 := (d2.logEvent (srcPan p) 0x0808 sevFault job [p]).noteRetire (retireReg d)
  (d3.jobFault).updPan p Pan.bare

/-! ### Bring-up (18 R488, R489; 19 R522; 20 R536) -/

/-- Whether the sensors are cool enough for a bring-up (19 R522). -/
def coolEnough (d : Device) : Bool :=
  if d.pwr.tripped then d.pwz.die.all (fun t => decide (t < 850)) && decide (d.pwz.coolSince + 10000000000 ≤ d.tide.now)
  else d.pwz.die.all (fun t => decide (t < 950))

/-- Whether a key slot's revoke fuse is blown: vendor slots serve types 1 to 3, owner slots type 4 (18 R485). -/
def Pwz.revoked (p : Pwz) (typ key : Nat) : Bool := if typ = 4 then (nthD {} p.ownerKeys key).revoked else nthD false p.vendorRevoked key

/-- A slot's image valid for boot: verified, its key not revoked since, and its SVN at or above the rollback count (18 R485). -/
def Pwz.imageOk (p : Pwz) (typ : Nat) (i : Image) : Bool :=
  i.valid && !p.revoked typ i.keyIdx && decide ((p.typeAt typ).rollback ≤ i.svn)

/-- A type's image selected (18 R489). An image in the preferred slot that fails a check is logged (R485); an empty slot has none to check. -/
def Device.selectImage (d : Device) (n : Nat) : Device :=
  let t := d.pwz.typeAt n
  let pref := if t.preferredB then t.b else t.a
  let oth := if t.preferredB then t.a else t.b
  let d0 := if pref.valid && !d.pwz.imageOk n pref then d.sigFail n else d
  let set (f : ImageType → ImageType) : Device := { d0 with pwz := d0.pwz.updType n f }
  if d.pwz.imageOk n pref then set (fun t => { t with runningB := t.preferredB, fallback := false, recovery := false })
  else if d.pwz.imageOk n oth then
    (set (fun t => { t with runningB := !t.preferredB, fallback := true, recovery := false })).logEvent srcPawezel 0x0A08 sevWarning none [n]
  else if n = 4 then set (fun t => { t with fallback := false, recovery := false })
  else (set (fun t => { t with fallback := false, recovery := true })).logEvent srcPawezel 0x0A0D sevWarning none [n]

/-- The policy table in force: the selected image's body when one is valid and well formed, else the default (18 R486, R489; 01 R34). -/
def Device.loadPolicy (d : Device) : Device :=
  let t := d.pwz.typeAt 4
  let set (p : Policy) : Device := { d with pwz := { d.pwz with policy := p } }
  if d.pwz.imageOk 4 t.running then
    match parsePolicy t.running.body with
    | .ok p => set p
    | .error i => (set {}).logEvent srcSecurity 0x0A0F sevWarning none (toLE 4 i)
  else set {}

/-- What the Terrace controllers, ports and engines take from the wear record (18 R488 step 7), with the keys and regions of layout 0 as
boot leaves them (06 R195, notes/assumptions/6.md); no key is installed at Lockdown or above (R500). -/
def Device.applyWear (d : Device) : Device :=
  let w := d.pwz.wear
  let d1 := (List.range 4).foldl (fun e t => e.updTer t (fun x => { x with
    panQuar := BitVec.ofNat 16 (sumNat ((w.pans.filter (fun p => p / 16 == t)).map (fun p => 2 ^ (p % 16))))
    chans := BitVec.ofNat 32 (2 ^ 32 - 1 - sumNat ((w.chans.filter (fun c => c / 32 == t)).map (fun c => 2 ^ (c % 32))))
    bedOut := BitVec.ofNat 80 (sumNat ((w.beds.filter (fun b => b / 80 == t)).map (fun b => 2 ^ (b % 80))))
    keys := [if d.sec.level < 2 then some (d.free + t) else none, none, none, none], groups := [[], [], [], []] })) { d with free := d.free + 4 }
  let d2 := (List.range 4).foldl (fun e t => (e.updTer t (fun x => { x with regions := regionsAtBoot (populated e t / 2 ^ 26) })).updEng t
    (fun x => { x with skimFailed := w.skims.contains t })) d1
  let d3 := (List.range 8).foldl (fun e b => e.updPort b (fun p =>
    let p1 := { p with bad := BitVec.ofNat 9 (sumNat ((w.lanes.filter (fun l => l / 9 == b)).map (fun l => 2 ^ (l % 9)))) }
    { p1 with state := if p1.width = .down then .down else .training })) d2
  { d3 with glb := { d3.glb with pans := pansIn d3 } }

/-- Boot steps 7 and 8 (18 R488): the wait for cool sensors, then the wear record, the power policy, LOCK_AT_BOOT and the derived seal;
mailboxes are served. -/
def Device.bringUp (d : Device) : Device :=
  if coolEnough d then
    let d1 := d.applyWear
    let d2 := { d1 with
      inp := { d1.inp with stage := .served }, eth := { state := 1 }
      glb := { d1.glb with coolWait := false, cur := .active, target := .active, busy := false, lock := BitVec.ofNat 15 (lockAtBoot d1.pwz.policy) }
      pwr := { d1.pwr with tripped := false, sched := policyVal d1.pwz.policy 0x0400 0 0x866 }
      sl := { action := sealAction d1.pwz.policy } }
    d2.loadPower.deriveSeal
  else { d with inp := { d.inp with stage := .coolWait }, glb := { d.glb with coolWait := true } }

/-- Boot from step 5: the Renura, media and policy images, the Alias key, then steps 7 and 8; a type in recovery leaves the compute domain off, and so does an
Erase that a failed check has called for (18 R488, R489, R499). -/
def Device.bootStep5 (d : Device) : Device :=
  let d0 := (((d.selectImage 2).selectImage 3).selectImage 4).loadPolicy
  let d1 : Device := { d0 with pwz := { d0.pwz with aliasFrom := aliasId d0 } }
  if d1.sec.level = 3 ∧ d.sec.level < 3 then { d1 with inp := { d1.inp with stage := .off } }
  else if ((d1.pwz.typeAt 2).recovery || (d1.pwz.typeAt 3).recovery) then { d1 with inp := { d1.inp with stage := .off } } else d1.bringUp

/-- The bring-up past offset 500 ms, which MOD_RESET_N low holds (20 R536, R538). -/
def Device.resumeBoot (d : Device) : Device :=
  if d.inp.modResetN then d.bootStep5 else { d with inp := { d.inp with stage := .held } }

/-- Everything but the always-on island, the NOR and the fuses at its reset values (19 R518, R524). -/
def Device.domainReset (d : Device) : Device :=
  let d0 := (d.hostPortDown 0).dropUpdate
  { fuses := d0.fuses
    glb := { cause := d0.glb.cause, pans := d0.glb.pans }
    sec := d0.sec
    pwz := d0.pwz
    bit := d0.bit
    i3c := d0.i3c
    inp := { d0.inp with stage := .off }
    tide := { d0.tide with entries := [], edgeMode := 0, edgeDelay := 0, late := 0, edgeOk := false }
    pwr := { tripped := d0.pwr.tripped, tjMax := d0.pwr.tjMax, tIn := d0.pwr.tIn, flowLow := d0.pwr.flowLow }
    eth := { state := 0 }
    quy := { epoch := (d0.quy.epoch + 1) % 65536 }
    mem := { layers := [{ lo := 0, hi := 2 ^ 48, seed := some d0.free }] }
    chan := Vector.replicate 128 { raw := rawUnknown d0.free }
    port := Vector.replicate 8 { state := .down }
    out := d0.out
    free := d0.free + 1 }

/-- A Module reset (19 R518). -/
def Device.moduleReset (d : Device) : Device :=
  let d1 := d.domainReset
  ({ d1 with
    glb := { d1.glb with cause := { d1.glb.cause with module := true } } } : Device).resumeBoot

/-- A Cold reset: boot from step 1, Pawezel's own image selected, keys derived again, ALERT_N released (18 R488, 20 R536). -/
def Device.coldReset (d : Device) : Device :=
  let d1 := d.domainReset
  let d2 : Device := { d1 with
    i3c := { sid := d1.i3c.sid }
    sec := { d1.sec with zeroised := false, nonceGen := d1.free }
    free := d1.free + 1
    pwz := { d1.pwz with hssNext := hssAtBoot d1.pwz } }
  let d3 := d2.selectImage 1
  if (d3.pwz.typeAt 1).recovery then d3 else d3.resumeBoot

/-- GLB_RESET_CAUSE.COLD set. -/
def Device.causeCold (d : Device) : Device := { d with glb := { d.glb with cause := { d.glb.cause with cold := true } } }

/-! ### Warm reset (19 R520) -/

/-- The counters that Warm, Module and Cold resets lose. -/
def Device.countersLost (d : Device) : Device :=
  { d with
    pan := d.pan.map (fun p => { p with counts := {} })
    ter := d.ter.map (fun t => { t with parity := 0 })
    eng := d.eng.map (fun e => { e with skimResidue := 0, skips := 0 })
    chan := d.chan.map (fun c => { ({} : Channel) with raw := c.raw })
    port := d.port.map (fun p => { p with retry := 0, laneChange := 0, authFail := 0 })
    eth := { d.eth with fecCorr := 0, fecUncorr := 0 }
    tide := { d.tide with late := 0 }
    terp := d.terp.map (fun t => { t with droop := 0, fastCount := 0 })
    sl := { d.sl with count := 0, mismatch := false }
    glb := { d.glb with lockReject := 0 } }

/-- Test mode ended by a reset or Shelf: the windows under test read as undefined (06 R199). -/
def Device.endTests (d : Device) : Device :=
  (List.range 4).foldl (fun e t =>
    if (e.terAt t).testEn then (e.updTer t (fun x => { x with testEn := false })).undefine (window t) (window (t + 1)) else e) d

/-- SEAL_REF after the registers are restored: the sealed image's, or a derived commit where the policy reload changed a sealed
register (19 R513, R520). -/
def Device.reloadSeal (d : Device) : Device :=
  match d.sl.image with
  | some (vs, r) => if sealedValues d = vs then { d with sl := { d.sl with ref := r, hold := false, matched := false, valid := false } } else d.deriveSeal
  | none => d.deriveSeal

/-- Exit from Shelf: bed modes and sleeves from the sealed image, links trained again (19 R521). -/
def Device.shelfExit (d : Device) : Device :=
  let d1 := (d.restoreBeds.setPState .active).reloadSeal
  { d1 with
    port := d1.port.map (fun p => { p with state := if p.width = .down then .down else .training })
    eth := { d1.eth with state := 1 }
    glb := { d1.glb with coolWait := false }
    pwr := { d1.pwr with tripped := false } }

/-- The jobs that a Warm reset loses. -/
def Device.loseLive (d : Device) : Device :=
  slots.foldl (fun e j => if (e.jobAt j).live then ((e.undoAll j).loseJob j).updJob j (fun q => { q with steps := [] }) else e) d

/-- What a Warm reset clears before the policy is loaded again. -/
def Device.warmClear (d : Device) : Device :=
  let d1 := (d.loseLive.endTests.brineLost.computeLost.pipeCountersLost.countersLost).dropUpdate
  { d1 with
    job := d1.job.map (fun q => { q with lane := { q.lane with isOpen := false }, stopping := none })
    ter := d1.ter.map (fun t => { t with bedMode := 0, sleeveEn := false, sleeveBase := 0x47 })
    quy := { epoch := (d1.quy.epoch + 1) % 65536, layout := d1.quy.layout }
    tide := { d1.tide with entries := [] }
    terp := d1.terp.map (fun t => { t with slots := 0x40, fast := false })
    glb := { d1.glb with flushing := false, cause := { d1.glb.cause with warm := true } } }

/-- A Warm reset (19 R520). Every reset but Flush ends in Active; from Shelf that is an exit from Shelf, which may wait (R522). -/
def Device.warmReset (d : Device) : Device :=
  let d3 := (d.warmClear.selectImage 4).loadPolicy.loadPower
  let d4 : Device := { d3 with
    pwr := { d3.pwr with sched := policyVal d3.pwz.policy 0x0400 0 0x866, therm := 0x866, module := 0x866, moduleEpisode := false, raiseRun := 0, thermEpisode := false }
    sl := { d3.sl with action := sealAction d3.pwz.policy } }
  if d.glb.cur = .shelf then
    if coolEnough d4 then d4.shelfExit
    else { d4 with glb := { d4.glb with coolWait := true, target := .active, busy := true } }
  else ((d4.restoreBeds).setPState .active).reloadSeal

/-! ### Power states (19 R521 to R523) -/

/-- A change of power state; any state passes through Active. -/
def Device.powerTo (d : Device) (s : PState) : Device :=
  if s = d.glb.cur then d.setPState s
  else
    let d1 := if d.glb.cur = .shelf then d.shelfExit else d.setPState .active
    match s with
    | .active => d1
    | .idle => d1.setPState .idle
    | .doze => d1.pansLost.setPState .doze
    | .shelf => (d1.endTests).enterShelf

/-- A request for a power state (15 R427; 17 R470; 19 R522; 20 R538): its status and the device after it. Doze and Shelf are refused while
a job runs; leaving Shelf waits for cool sensors, refused after a trip and while a wait goes on. -/
def Device.powerRequest (d : Device) (code : Nat) : Nat × Device :=
  let st? : Option PState := match code with | 0 => some .active | 1 => some .idle | 2 => some .doze | 3 => some .shelf | _ => none
  match st? with
  | none => (0x0107, d)
  | some s =>
    if (s == .doze || s == .shelf) && slots.any (fun j => (d.jobAt j).live) then (stJobState, d)
    else if d.glb.cur == .shelf && s != .shelf then
      if d.glb.coolWait || (d.pwr.tripped && !coolEnough d) then (0x0901, d)
      else if coolEnough d then (stOk, d.powerTo s)
      else (stOk, { d with glb := { d.glb with coolWait := true, target := s, busy := true } })
    else (stOk, d.powerTo s)

/-! ### Power down and loss of input (20 R534, R537) -/

/-- The compute domain turned off: LPDDR5X, Brine and pan contents lost, links down, every job lost, mailboxes stopped. -/
def Device.computeOff (d : Device) : Device :=
  let d1 := (((d.loseAll.endTests).brineLost.shelfOff).undefine 0 (2 ^ 40)).hostPortDown 0
  { d1 with
    inp := { d1.inp with stage := .off }
    glb := { d1.glb with coolWait := false, flushing := false, busy := false }
    quy := { d1.quy with posted := [] } }

/-- Loss of input power: only NOR, fuses and the Crust store stay (19 R524). What the next power-up finds in the log is the pages whose CRC holds
(18 R482). -/
def Device.inputLost (d : Device) : Device :=
  let nor := d.bit.nor.filter NorPage.good
  let next := match nor.getLast?.bind (fun p => p.recs.getLast?) with | some r => r.num + 1 | none => 0
  { fuses := d.fuses
    glb := { pans := d.glb.pans }
    sec := { level := d.sec.level, debug := d.sec.debug, alarmCount := d.sec.alarmCount, nonceGen := d.free + 1 }
    pwz := { d.dropUpdate.pwz with
      die := List.replicate 72 0, rails := List.replicate 24 (0, 0), inlet := 0, outlet := 0, flow := 0
      flowRun := 0, tempRun := 0, flowEpisode := false, tempEpisode := false, coolSince := 0 }
    bit := { nor := nor, next := next, written := next }
    inp := { island := false, pwrEn := d.inp.pwrEn, modResetN := d.inp.modResetN, stage := .off }
    eth := { state := 0 }
    quy := { epoch := 0 }
    mem := { layers := [{ lo := 0, hi := 2 ^ 48, seed := some d.free }] }
    chan := Vector.replicate 128 { raw := rawUnknown d.free }
    port := Vector.replicate 8 { state := .down }
    out := d.out
    free := d.free + 2 }

end Sys2Proof.Machine
end

