-- ==== Sys2Proof/Machine/BundOps.lean ====
section
/-! DEFINITION. Sending on Bund: routes, flits in the retry buffer, requests and responses (13 R358 to R365). -/
namespace Sys2Proof.Machine

/-- Statuses of 13 and 06. -/
def stNoRoute : Nat := 0x0702
def stPortDown : Nat := 0x0704
def stTargetAbsent : Nat := 0x0705
def stMalformed : Nat := 0x0703
def stTimeout : Nat := 0x0701
def stMemAddress : Nat := 0x0401
def stBedMode : Nat := 0x0402
def stUnrecovered : Nat := 0x0403
def stRegion : Nat := 0x0404
def stTgen : Nat := 0x0405
def stKeyAbsent : Nat := 0x0406
def stLockdown : Nat := 0x0A01

/-- Where a transaction goes: to the device itself, out of a port, or nowhere with a status (13 R357, R362). -/
inductive Route where
  | self | port (b : Nat) | fail (st : Nat)
deriving DecidableEq, Repr

/-- The route of a Bund device identifier. -/
def Device.routeOf (d : Device) (dst : Nat) : Route :=
  if d.fab.selfId = some dst then .self
  else match d.fab.routes.find? (fun r => r.1 == dst) with
    | some (_, b) => if 8 ≤ b then .fail stNoRoute else if (d.portAt b).state = .down then .fail stPortDown else .port b
    | none => .fail stNoRoute

/-- A transaction as bytes (13 R361). -/
def txnBytes (x : Txn) : List Nat :=
  [x.op, x.flags] ++ toLE 2 x.dst ++ toLE 2 x.src ++ toLE 2 x.tag ++ toLE 2 x.status ++ [x.hops, x.job] ++ toLE 4 x.len ++ toLE 8 x.addr ++ x.data

/-- Payload bytes of a flit (13 R358). -/
def Port.flitBytes (p : Port) : Nat := if p.encEn then 228 else 244

/-- The virtual channel of an operation (13 R358): requests, responses, Ledger and collective traffic. -/
def opVc (op : Nat) : Nat := match op with | 2 => 1 | 4 => 1 | 6 => 1 | 5 => 2 | 8 => 2 | _ => 0

/-- The 8-byte header of a flit: ACKSEQ acknowledges everything received so far; credits come back on CVC (13 R358). -/
def flitHeader (p : Port) (f : Flit) (cvc n : Nat) : List Nat :=
  toLE 8 (f.seq * 2 ^ 48 + (p.rxSeq + 65535) % 65536 * 2 ^ 32 + f.vc * 2 ^ 30 + f.kind * 2 ^ 28 + f.payload.length * 2 ^ 20 + cvc * 2 ^ 18 + n * 2 ^ 8)

/-- The 256 bytes of a flit (13 R358, R360): the header; the payload filled with free bytes, encrypted with its tag under ENC_EN; the CRC-32C over both.
The nonce is {key epoch, flit counter}, the header the additional authenticated data (byte orders: notes/assumptions/41.md). -/
def flitBytes (p : Port) (f : Flit) (cvc n pad : Nat) : List Nat :=
  let h := flitHeader p f cvc n
  let text := f.payload ++ (List.range (p.flitBytes - f.payload.length)).map (fun i => Config.freeByte pad i % 256)
  let body := if p.encEn then
      let c := gcmSeal (keyBytes 32 p.key) (toLE 12 (p.keyEpoch * 2 ^ 64 + p.flitCount)) h text
      c.1 ++ c.2
    else text
  h ++ body ++ toLE 4 (crc32c (h ++ body))

/-- The virtual channel that credit is due to, and how much of it one flit returns (13 R358). -/
def Port.giveBack (p : Port) : Nat × Nat :=
  let v := ((List.range 4).find? (fun v => nthD 0 p.owed v != 0)).getD 0
  (v, min 1023 (nthD 0 p.owed v))

/-- One flit leaves a port: it counts in the flit counter and returns credit (13 R358 to R360). -/
def Device.emit (d : Device) (b : Nat) (f : Flit) : Device :=
  let p := d.portAt b
  let c := p.giveBack
  let g := d.draw
  (g.2.updPort b (fun q => { q with flitCount := q.flitCount + 1, owed := modNth (· - c.2) q.owed c.1 })).send (.flit b (flitBytes p f c.1 c.2 g.1))

/-- A flit without a number of its own: idle or acknowledgement only (KIND 1), NAK (2), control (3). Its SEQ is the next one to be sent
(notes/assumptions/41.md). -/
def Device.emitPlain (d : Device) (b kind : Nat) (payload : List Nat) : Device :=
  d.emit b { seq := (d.portAt b).txSeq, vc := if kind = 3 then 3 else 0, kind := kind, payload := payload }

/-- The next waiting flit that may leave: the port runs and has its key, the retry buffer holds fewer than 2,048 flits, and its virtual channel has
credit; one channel never holds back another (13 R356, R359). -/
def Port.sendable (p : Port) : Option Flit :=
  if (p.state == .full || p.state == .half) && !p.disable && (!p.encEn || p.keyed) && decide (p.buffer.length < 2048) then
    p.waiting.find? (fun f => nthD 0 p.credits f.vc != 0)
  else none

/-- A flit that leaves for the first time takes the next number, a place in the retry buffer and a credit (13 R359). -/
def Port.numbered (p : Port) (f : Flit) : Port :=
  { p with waiting := p.waiting.erase f, buffer := p.buffer ++ [{ f with seq := p.txSeq }], txSeq := (p.txSeq + 1) % 65536
           credits := modNth (· - 1) p.credits f.vc }

/-- The waiting flits of a port that may leave do so, n at most. -/
def Device.pumpFlits (d : Device) (b : Nat) : Nat → Device
  | 0 => d
  | n + 1 =>
    match (d.portAt b).sendable with
    | some f => ((d.updPort b (fun p => p.numbered f)).emit b { f with seq := (d.portAt b).txSeq }).pumpFlits b n
    | none => d

/-- Every waiting flit of a port that may leave. -/
def Device.drain (d : Device) (b : Nat) : Device := d.pumpFlits b (d.portAt b).waiting.length

/-- A flit cut again to the payload that a flit holds now (13 R358). -/
def Flit.recut (n : Nat) (f : Flit) : List Flit :=
  if f.payload.length ≤ n then [f] else (chunks n f.payload.length f.payload).map (fun c => { f with payload := c })

/-- A port with ENC_EN as written: the flits that it still holds are cut to the payload in force, and those of the retry buffer numbered again from
its head (13 R358; notes/assumptions/41.md). -/
def Port.setEnc (p : Port) (en : Bool) : Port :=
  if p.encEn == en then p
  else
    let n := ({ p with encEn := en } : Port).flitBytes
    let held := p.buffer.flatMap (Flit.recut n)
    let first := ((p.buffer.head?).map Flit.seq).getD p.txSeq
    { p with encEn := en, waiting := p.waiting.flatMap (Flit.recut n)
             buffer := held.zipIdx.map (fun x => { x.1 with seq := (first + x.2) % 65536 })
             txSeq := (first + held.length) % 65536 }

/-- A transaction as flits of its virtual channel (13 R361). -/
def Port.queue (p : Port) (x : Txn) : Port :=
  let bs := txnBytes x
  { p with waiting := p.waiting ++ (chunks p.flitBytes bs.length bs).map (fun c => { seq := 0, vc := opVc x.op, kind := 0, payload := c, txn := some x }) }

/-- A transaction sent by its route: one for the device itself waits to be delivered to it; one that has no route is not sent (13 R362). -/
def Device.launch (d : Device) (x : Txn) : Device :=
  match d.routeOf x.dst with
  | .self => ({ d with fab := { d.fab with loop := d.fab.loop ++ [x] } } : Device).send (.bund none x)
  | .port b => ((d.updPort b (fun p => p.queue x)).drain b).send (.bund (some b) x)
  | .fail _ => d

/-- This device's identifier. -/
def Device.selfBund (d : Device) : Nat := d.fab.selfId.getD 0

/-- A request under the next tag, waited on: by a copy command of a Terrace, with the address that a READ's data goes to. Its status when it
cannot be sent. -/
def Device.request (d : Device) (x : Txn) (ter copy dest : Nat) : Nat × Device :=
  match d.routeOf x.dst with
  | .fail st => (st, d)
  | _ =>
    let y : Txn := { x with tag := d.fab.nextTag, src := d.selfBund, hops := 8 }
    let d1 : Device := { d with fab := { d.fab with
      nextTag := (d.fab.nextTag + 1) % 65536, pend := d.fab.pend ++ [{ tag := y.tag, txn := y, ter := ter, copy := copy, dest := dest }] } }
    (stOk, d1.launch y)

/-- The slot that a job here has on another device: the SLOT of that device's peer entry in the job's topology record (13 R361; 15 R408). -/
def Device.slotOf (d : Device) (j bund : Nat) : Nat :=
  match (d.jobAt j).setup with
  | some u => ((u.topo.peers.find? (fun p => p.bundId == bund)).map Peer.slot).getD j
  | none => j

/-- A response to a request, for the requester's slot of the job. -/
def Device.respond (d : Device) (x : Txn) (op st : Nat) (data : List Nat) : Device :=
  d.launch { op := op, dst := x.src, src := d.selfBund, tag := x.tag, status := st, hops := 8, job := d.slotOf x.job x.src, data := data, len := data.length }

/-- A one-way transaction under the next tag: nothing comes back for it. -/
def Device.oneWay (d : Device) (x : Txn) : Device :=
  ({ d with fab := { d.fab with nextTag := (d.fab.nextTag + 1) % 65536 } } : Device).launch { x with tag := d.fab.nextTag, src := d.selfBund, hops := 8, len := x.data.length }

/-- What a member reports of a step, as numbers. -/
def shareFields (x : StepShare) : List Nat := [x.samples, x.tokens] ++ x.casts.flatten ++ x.writes.map (fun w => w.getD 0)

/-- The fields of a COLL token as numbers. -/
def tokenFields : Token → List Nat
  | .ready j n x => [0, j, n] ++ shareFields x
  | .commit j n l x => [1, j, n, l] ++ shareFields x
  | .phase j n p => [2, j, n, p]
  | .abort j n st f => [3, j, n, st, (f.map (· + 1)).getD 0]
  | .hold j n => [4, j, n]
  | .join j b n => [5, j, b, n]
  | .queued j b => [6, j, b]
  | .partner j ids => 7 :: j :: ids
  | .lost j => [8, j]
  | .bounced op st => [9, op, st]

/-- A status reported to the collective of a job (13 R364, R369). -/
def Device.report (d : Device) (j st : Nat) : Device := { d with fab := { d.fab with reports := d.fab.reports ++ [(j, st)] } }

/-- A COLL token sent to a device (13 R363): a transaction of 8 data bytes, whose coding the spec does not give; the content stands as named
data beside it. -/
def Device.putToken (d : Device) (dst : Nat) (t : Token) : Device :=
  (d.oneWay { op := 8, dst := dst, src := 0, job := nthD 0 (tokenFields t) 1
              data := (List.range 8).map (fun i => Config.wireByte (tokenFields t) i % 256) }).send (.token dst t)

/-- A COLL token of a job sent to a device; without a route its status is the job's (13 R362). -/
def Device.sendToken (d : Device) (j dst : Nat) (t : Token) : Device :=
  match d.routeOf dst with
  | .fail st => d.report j st
  | _ => d.putToken dst t

/-- The response by which the source of a request learns its end; an operation that none follows has itself (13 R363). -/
def answerOp (op : Nat) : Nat := match op with | 1 => 2 | 3 => 4 | 5 => 6 | n => n

/-- A transaction discarded on its way: its source learns the status. A request ends by its response, which stands for the job of the source; a FLAGSET
comes back under its own operation; any other operation has no response, and a COLL token tells of it (13 R357, R362; notes/assumptions/23.md). -/
def Device.discard (d : Device) (x : Txn) (st : Nat) : Device :=
  match d.routeOf x.src with
  | .fail _ => d
  | _ => if x.op ∈ [1, 3, 5, 9] then
    d.launch { op := answerOp x.op, dst := x.src, src := d.selfBund, tag := x.tag, status := st, hops := 8, job := x.job }
  else d.putToken x.src (.bounced x.op st)

end Sys2Proof.Machine
end

