-- ==== Sys2Proof/Machine/Loader.lean ====
section
/-! DEFINITION. The convolution record (08 R236 to R243, R249, R250) and the operand loader of the array: activations by
stride, by zero-block compressed rows or by patch gathering, weights dense or sparse (04 R118, R127, R131, R132). -/
namespace Sys2Proof.Machine

/-! ### The convolution record -/

/-- The fields of a convolution record (08 R236); extents, kernels, strides, dilations and paddings of dimensions above DIM
are already those R236 gives them. `rsv`: DIM or a bit is reserved. `zero`: an applying size field is 0. -/
structure ConvRec where
  dim : Nat
  padMode : Nat
  halo : Bool
  padVal : Nat
  i : List Nat
  kn : List Nat
  s : List Nat
  dl : List Nat
  pa : List Nat
  pb : List Nat
  cin : Nat
  pix : Nat
  row : Nat
  plane : Nat
  obase : Nat
  groups : Nat
  ocbase : Nat
  y0 : Nat
  y1 : Nat
  haloTop : Nat
  haloBot : Nat
  haloStride : Nat
  gen : Nat
  og : Nat
  cbase : Nat
  rsv : Bool
  zero : Bool
deriving DecidableEq, Repr

/-- The record that 64 bytes hold; lists run x, y, z. -/
def convRec (bs : List Nat) : ConvRec :=
  let w := wordAt bs
  let dim := bits (w 0) 31 30
  let cut := fun (l : List Nat) (dflt : Nat) => (l.zipIdx).map (fun p => if p.2 < dim then p.1 else dflt)
  let i := [bits (w 1) 15 0, bits (w 1) 31 16, bits (w 2) 15 0]
  let kn := [bits (w 3) 7 0, bits (w 3) 15 8, bits (w 3) 23 16]
  let s := [bits (w 4) 7 0, bits (w 4) 15 8, bits (w 4) 23 16]
  let dl := [bits (w 4) 27 24, bits (w 4) 31 28, bits (w 5) 3 0]
  let cin := bits (w 2) 31 16
  let groups := bits (w 10) 15 0
  let og := bits (w 15) 15 0
  { dim := dim, padMode := bits (w 0) 29 28, halo := bitOf (w 0) 27, padVal := bits (w 0) 15 0
    i := cut i 1, kn := cut kn 1, s := cut s 1, dl := cut dl 1
    pa := cut [bits (w 5) 7 4, bits (w 5) 15 12, bits (w 5) 23 20] 0
    pb := cut [bits (w 5) 11 8, bits (w 5) 19 16, bits (w 5) 27 24] 0
    cin := cin, pix := w 6, row := w 7, plane := w 8, obase := w 9, groups := groups, ocbase := bits (w 10) 31 16
    y0 := bits (w 11) 15 0, y1 := bits (w 11) 31 16, haloTop := w 12, haloBot := w 13
    haloStride := bits (w 14) 23 0, gen := bits (w 14) 31 24, og := og, cbase := bits (w 15) 31 16
    rsv := dim == 0 || bits (w 0) 26 16 != 0 || bits (w 3) 31 24 != 0 || bits (w 5) 31 28 != 0
    zero := cin == 0 || groups == 0 || og == 0 || (cut i 1 ++ cut kn 1 ++ cut s 1 ++ cut dl 1).any (· == 0) }

/-- The output extent of dimension q, or none below 1 (08 R238). -/
def ConvRec.outExtent (c : ConvRec) (q : Nat) : Option Nat :=
  let i : Int := nthD 1 c.i q + nthD 0 c.pa q + nthD 0 c.pb q - nthD 1 c.dl q * ((nthD 1 c.kn q : Int) - 1) - 1
  if i < 0 then none else some (i.toNat / nthD 1 c.s q + 1)

/-- The three output extents. -/
def ConvRec.out (c : ConvRec) : Option (Nat × Nat × Nat) :=
  match c.outExtent 0, c.outExtent 1, c.outExtent 2 with
  | some a, some b, some e => some (a, b, e)
  | _, _, _ => none

/-- KT (08 R237). -/
def ConvRec.kt (c : ConvRec) : Nat := nthD 1 c.kn 0 * nthD 1 c.kn 1 * nthD 1 c.kn 2 * c.cin

/-- The kernel limit by dimension (08 R241). -/
def kernelLimit (dim : Nat) : Nat := match dim with | 1 => 255 | 2 => 15 | _ => 7

/-- The conditions that 08 R241 puts at position 8, past the limits of each dimension: `m` and `n` are the rows and columns,
`k0k` is K0 + K. -/
def ConvRec.rangeBad (c : ConvRec) (f : Fmt) (m n k0k kernel stride dilation : Nat) : Bool :=
  c.kn.any (fun k => decide (kernel < k)) || c.s.any (fun k => decide (stride < k)) || c.dl.any (fun k => decide (dilation < k))
  || (c.pa ++ c.pb).any (fun k => decide (14 < k))
  || decide (c.kt < k0k)
  || (match c.out with | none => true | some o => decide (o.1 * o.2.1 * o.2.2 < c.obase + m))
  || (c.padMode == 2 && (List.range 3).any (fun q => decide (nthD 1 c.i q < nthD 0 c.pa q + 1) || decide (nthD 1 c.i q < nthD 0 c.pb q + 1)))
  || (c.groups != 0 && c.cin % c.groups != 0)
  || decide (c.groups * c.og < c.ocbase + n)
  || decide (c.pix < packedBytes f (c.cbase + c.cin))
  || (c.halo && (decide (c.y1 ≤ c.y0) || decide (nthD 1 c.i 1 < c.y1)))

/-- The alignment conditions of 08 R241. -/
def ConvRec.alignBad (c : ConvRec) (f : Fmt) : Bool :=
  c.pix % 4 != 0 || (decide (2 ≤ c.dim) && c.row % 4 != 0) || (decide (3 ≤ c.dim) && c.plane % 4 != 0)
  || c.haloTop % 32 != 0 || c.haloBot % 32 != 0 || c.haloStride % 32 != 0
  || (f.width == 4 && (c.cin % 2 != 0 || c.cbase % 2 != 0)) || (f.width == 6 && (c.cin % 4 != 0 || c.cbase % 4 != 0))

/-- A coordinate after padding (08 R239): none replaces the element. -/
def padCoord (mode i : Nat) (x : Int) : Option Nat :=
  if 0 ≤ x ∧ x < i then some x.toNat
  else match mode with
    | 2 => if x < 0 then some (-x).toNat else some (2 * (i : Int) - 2 - x).toNat
    | 3 => if x < 0 then some 0 else some (i - 1)
    | _ => none

/-- The tap's input coordinates of output row m at global K position k, after padding: x, y, z and the channel; none in a
padded element (08 R237, R239). -/
def ConvRec.coord (c : ConvRec) (m k : Nat) : Option (Nat × Nat × Nat) × Nat :=
  let o := c.obase + m
  let e := (c.out).getD (1, 1, 1)
  let tap := k / c.cin
  let ch := k % c.cin
  let ov := [o % e.1, (o / e.1) % e.2.1, o / (e.1 * e.2.1)]
  let kv := [tap % nthD 1 c.kn 0, (tap / nthD 1 c.kn 0) % nthD 1 c.kn 1, tap / (nthD 1 c.kn 0 * nthD 1 c.kn 1)]
  let at' := fun q => padCoord c.padMode (nthD 1 c.i q)
    ((nthD 0 ov q * nthD 1 c.s q + nthD 0 kv q * nthD 1 c.dl q : Nat) - (nthD 0 c.pa q : Int))
  (match at' 0, at' 1, at' 2 with
    | some x, some y, some z => some (x, y, z)
    | _, _, _ => none, c.cbase + ch)

/-- The code of a padded element (08 R239). -/
def ConvRec.padCode (c : ConvRec) (f : Fmt) : Nat := if c.padMode = 1 then c.padVal % 2 ^ f.width else 0

/-- The byte address of the pixel at (x, y, z) (08 R240, R249), from the address of element (0, 0, 0, 0). -/
def ConvRec.pixelAt (c : ConvRec) (a x y z : Nat) : Nat :=
  if c.halo then
    if y < c.y0 then c.haloTop + (c.y0 - 1 - y) * c.haloStride + 32 + x * c.pix
    else if y < c.y1 then a + (y - c.y0) * c.row + x * c.pix
    else c.haloBot + (y - c.y1) * c.haloStride + 32 + x * c.pix
  else a + z * c.plane + y * c.row + x * c.pix

/-- The halo slot that input row y comes from, when it is not local (08 R249). -/
def ConvRec.slotOf (c : ConvRec) (y : Nat) : Option Nat :=
  if !c.halo then none
  else if y < c.y0 then some (c.haloTop + (c.y0 - 1 - y) * c.haloStride)
  else if y < c.y1 then none
  else some (c.haloBot + (y - c.y1) * c.haloStride)

/-- The group of output column n, and of global K position k (08 R243). -/
def ConvRec.colGroup (c : ConvRec) (n : Nat) : Nat := (c.ocbase + n) / c.og
def ConvRec.kGroup (c : ConvRec) (k : Nat) : Nat := (k % c.cin) / (c.cin / c.groups)

/-! ### Activations -/

/-- The convolution record of an OP CONV descriptor. -/
def MxD.conv (x : MxD) (d : Device) (p : Nat) : ConvRec := convRec (d.psRead p (auxHdr d p x.aux).ext 64)

/-- Bytes of a stored zero-block of 16 elements (04 R131). -/
def zbcBlock (f : Fmt) : Nat := packedBytes f 16

/-- The blocks of a unit that K reaches, as mask bits. -/
def zbcMask (d : Device) (p addr left : Nat) : Nat := d.psLE p addr 2 % 2 ^ (min 16 (ceilDiv left 16))

/-- The address of unit u of a compressed row of K elements (04 R131). -/
def zbcUnit (d : Device) (p : Nat) (f : Fmt) : Nat → Nat → Nat → Nat
  | 0, a, _ => a
  | u + 1, a, left => zbcUnit d p f u (a + roundUp (2 + zbcBlock f * popCount 16 (zbcMask d p a left)) 4) (left - 256)

/-- Element k of a compressed row: its code; an absent block is +0 (04 R131). -/
def zbcElem (d : Device) (p : Nat) (f : Fmt) (row kTotal k : Nat) : Nat :=
  let u := k / 256
  let a := zbcUnit d p f u row kTotal
  let mask := zbcMask d p a (kTotal - 256 * u)
  let b := k % 256 / 16
  if bitOf mask b then
    unpackAt f (fun i => d.psLE p (a + 2 + zbcBlock f * popCount b mask + i) 1) (k % 16)
  else 0

/-- The activation code at row m and tile position k, before FTZ (04 R132 stages 1 to 3). -/
def actCode (d : Device) (p : Nat) (x : MxD) (c : ConvRec) (m k : Nat) : Nat :=
  if x.op = 2 then
    match c.coord m (x.k0 + k) with
    | (some (ix, iy, iz), ch) => unpackAt x.fA (fun i => d.psLE p (c.pixelAt x.aAddr ix iy iz + i) 1) ch
    | (none, _) => c.padCode x.fA
  else if x.zbc then
    zbcElem d p x.fA (x.aAddr + d.psLE p ((auxHdr d p x.aux).zbcIndex + 4 * m) 4) x.k k
  else unpackAt x.fA (fun i => d.psLE p (x.aAddr + m * x.aStride + i) 1) k

/-- The halo rows that row m of a convolution reads: (slot address, tag) (08 R249, R250). -/
def haloTags (x : MxD) (c : ConvRec) (m : Nat) : List (Nat × Nat) :=
  (List.range x.k).filterMap (fun k =>
    match c.coord m (x.k0 + k) with
    | (some (_, iy, _), _) => (c.slotOf iy).map (fun a => (a, c.gen * 2 ^ 24 + iy % 2 ^ 24))
    | _ => none)

/-- Whether every halo row that row m reads carries its tag (08 R250). -/
def haloReady (d : Device) (p : Nat) (x : MxD) (m : Nat) : Bool :=
  if x.op = 2 then
    let c := x.conv d p
    !c.halo || (haloTags x c m).all (fun t => d.psLE p t.1 4 == t.2)
  else true

/-- Bytes of the metadata of a tile of K rows (04 R127). -/
def metaBytes (k sparse : Nat) : Nat := match sparse with | 1 => 128 * ceilDiv k 4 | 2 => 64 * ceilDiv k 4 | _ => 0

/-- What a tile is loaded from: the stored rows, its B K-block scales, its metadata. -/
def tileSpans (x : MxD) (t : Tile) : List (Nat × Nat) :=
  [(t.bAddr, storedRows x.k x.sparse * packedBytes x.fB 256), (t.scaleAddr, if x.kbsB then x.nb * x.n else 0), (t.metaAddr, metaBytes x.k x.sparse)]

/-- What row m of a descriptor's passes reads from the pan store: its tile's source, its activations, the ZBC index, the A K-block scales. -/
def passSpans (d : Device) (p : Nat) (x : MxD) (t : Tile) (m : Nat) : List (Nat × Nat) :=
  let c := x.conv d p
  tileSpans x t ++ [(x.aux + x.auxMap.kA + m * x.nb, if x.kbsA then x.nb else 0)]
  ++ (if x.op = 2 then (List.range x.k).flatMap (fun k =>
        match c.coord m (x.k0 + k) with
        | (some (ix, iy, iz), ch) => [(c.pixelAt x.aAddr ix iy iz + ch * x.fA.width / 8, (ch * x.fA.width % 8 + x.fA.width + 7) / 8)]
        | _ => [])
      else if x.zbc then
        let i := (auxHdr d p x.aux).zbcIndex + 4 * m
        let r := x.aAddr + d.psLE p i 4
        [(i, 4), (r, zbcUnit d p x.fA (ceilDiv x.k 256) r x.k - r)]
      else [(x.aAddr + m * x.aStride, packedBytes x.fA x.k)])

/-- Whether a held granule keeps row m from its operands (06 R177). -/
def operandsHeld (d : Device) (p : Nat) (x : MxD) (t : Tile) (m : Nat) : Bool := (passSpans d p x t m).any (fun s => (d.panAt p).holds s.1 s.2)

/-- What a descriptor reads before it starts: the auxiliary header, the record that EXT names, and the tile it loads. -/
def startSpans (d : Device) (p : Nat) (x : MxD) (t : Tile) : List (Nat × Nat) :=
  [(x.aux, 32)] ++ (if x.op = 2 ∨ x.op = 3 then [((auxHdr d p x.aux).ext, 64)] else [])
    ++ (if (x.op = 1 ∨ x.op = 2) ∧ !x.wkeep ∧ x.m ≠ 0 then tileSpans x t else [])

/-! ### Weights -/

/-- The stored row that K position k of column n takes its weight from; none for an implied +0 (04 R114, R127). -/
def storedRow (d : Device) (p : Nat) (t : Tile) (k n : Nat) : Option Nat :=
  let g := k / 4
  match t.sparse with
  | 1 =>
    let v := meta24 d p t.metaAddr g n
    if v % 4 = k % 4 then some (2 * g) else if v / 4 = k % 4 then some (2 * g + 1) else none
  | 2 => if meta14 d p t.metaAddr g n = k % 4 then some g else none
  | _ => some k

/-- The weight code at tile position k and column n (04 R118, R127). -/
def weightCode (d : Device) (p : Nat) (f : Fmt) (t : Tile) (k n : Nat) : Nat :=
  match storedRow d p t k n with
  | some r => unpackAt f (fun i => d.psLE p (t.bAddr + r * packedBytes f 256 + i) 1) n
  | none => 0

/-- The tile a descriptor loads (04 R122). -/
def MxD.tile (x : MxD) : Tile :=
  { fmtB := x.fmtB, sparse := x.sparse, draw := x.draw, ftzB := x.ftzB, kbsB := x.kbsB, n := x.n, k := x.k, k0mod := x.k0 % 32
    bAddr := x.bAddr, scaleAddr := x.aux + x.auxMap.kB, metaAddr := x.aux + x.auxMap.smeta }

/-- Whether the load of a tile flushes a subnormal weight (02 R63, 04 R132). -/
def tileFlushes (d : Device) (p : Nat) (x : MxD) (t : Tile) : Bool :=
  x.ftzB && (List.range x.k).any (fun k => (List.range x.n).any (fun n =>
    (ftzIn true x.fB (decodeVal x.fB (weightCode d p x.fB t k n))).2))

/-- An operand code after input FTZ: FP32 codes stay codes, for the split (04 R132). -/
def ftzCode (on : Bool) (f : Fmt) (c : Nat) : Nat :=
  if (ftzIn on f (decodeVal f c)).2 then (if c % 2 ^ f.width < f.signBit then 0 else f.signBit) else c

end Sys2Proof.Machine
end

