-- ==== Sys2Proof/Machine/Lpd.lean ====
section
/-! DEFINITION. LPDDR5X behind the device map: the channel interleave and check groups (06 R191), the encryption of a line (06 R193) and its check
bytes (06 R192). -/
namespace Sys2Proof.Machine

/-! ### Interleave and check groups (06 R191) -/

/-- Where a window address lies: the local channel, the data line within it, its check group and slot, the raw lines of the data and of its
check line, and the 64-byte block within the group. -/
structure LpdPlace where
  ch : Nat
  dl : Nat
  grp : Nat
  slot : Nat
  raw : Nat
  chk : Nat
  blk : Nat
deriving DecidableEq, Repr

/-- The present local channels of a Terrace, ascending. -/
def presentChans (t : Terrace) : List Nat := (List.range 32).filter (fun c => t.chans.getLsbD c)

/-- The place of an offset within a Terrace's window. -/
def lpdPlace (t : Terrace) (off : Nat) : LpdPlace :=
  let pc := presentChans t
  let ln := off / 256
  let dl := ln / pc.length
  { ch := nthD 0 pc (ln % pc.length), dl := dl, grp := dl / 31, slot := dl % 31, raw := dl / 31 * 32 + dl % 31, chk := dl / 31 * 32 + 31
    blk := dl % 31 * 4 + off % 256 / 64 }

/-- The device channel of a window address. -/
def channelOf (d : Device) (a : Nat) : Nat := let t := terOfWindow a; 32 * t + (lpdPlace (d.terAt t) (a % 2 ^ 38)).ch

/-! ### The encryption of a line (06 R193) -/

/-- One 256-byte line encrypted: the data unit is the line, the tweak its device address divided by 256 (06 R193). -/
def xtsLine (key line : List Nat) (addr : Nat) : List Nat :=
  xtsBlocks (key.take 32) ((List.range 16).map (fun i => sliceAt line (16 * i) 16)) (ofLE (aes256 (key.drop 32) (toLE 16 (addr / 256))))

/-! ### What a channel stores (06 R191 to R193) -/

/-- The key of a line's region. -/
def lineKey (t : Terrace) (off : Nat) : Option Nat :=
  let u := off / 2 ^ 26
  let rs := t.regions.filter (fun r => decide (r.base ≤ u) && decide (u ≤ r.limit))
  ((rs.find? (fun r => r.owner == 1)).orElse (fun _ => rs.head?)).bind (fun r => nthD none t.keys r.slot)

/-- The stored line at an offset of a Terrace's window; none without a key. -/
def storedLine (d : Device) (t off : Nat) : Option (List Nat) :=
  let a := window t + off / 256 * 256
  (lineKey (d.terAt t) off).map (fun k => xtsLine (keyBytes 64 k) (d.readN a 256) a)

/-- The window offset of 64-byte block blk of check group grp on the i-th present channel of n. -/
def groupOffset (n i grp blk : Nat) : Nat := 256 * ((31 * grp + blk / 4) * n + i) + 64 * (blk % 4)

/-- The two check bytes of the block at an offset. -/
def checkBytes (d : Device) (t off : Nat) : List Nat :=
  match storedLine d t off with
  | some l => toLE 2 (crc16Check (sliceAt l (off % 256 / 64 * 64) 64) (window t + off))
  | none => [0, 0]

/-- The check line of a group: the check bytes of its 124 blocks, their CRC-32C, the group number. -/
def checkLine (d : Device) (t i grp : Nat) : List Nat :=
  let cs := (List.range 124).flatMap (fun blk => checkBytes d t (groupOffset (presentChans (d.terAt t)).length i grp blk))
  cs ++ toLE 4 (crc32c cs) ++ toLE 4 grp

/-! ### The Brine cache (06 R183) -/

/-- The bed and set that a line of the window maps into; none without a cache bed. -/
def cachePlace (t : Terrace) (line : Nat) : Option (Nat × Nat) :=
  let cb := cacheBeds t
  if cb.isEmpty then none else some (nthD 0 cb (line % cb.length), line / cb.length % 32768)

end Sys2Proof.Machine
end

