-- ==== Sys2Proof/Machine/Memory.lean ====
section
/-! DEFINITION. Access to the device map: regions and keys, beds, held lines, the Brine cache's unwritten lines, corruption met by a read,
channel interleave (06 R173 to R198). -/
namespace Sys2Proof.Machine

/-- Who asks for an access (06 R194): a job of a partition, a Bund device for a job slot, or firmware. -/
inductive Requester where
  | part (p : Nat) | peer (src job : Nat) | firmware
deriving DecidableEq, Repr

/-- The region that governs a 64 MiB unit of a window: a partner region inside the partition region governs its own lines. -/
def regionFor (t : Terrace) (unit : Nat) : Option Region :=
  let rs := t.regions.filter (fun r => decide (r.base ≤ unit) && decide (unit ≤ r.limit))
  match rs.find? (fun r => r.owner == 1) with
  | some r => some r
  | none => rs.head?

/-- The peer index of a Bund device in a job's topology. -/
def peerIndex (d : Device) (j src : Nat) : Option Nat :=
  (d.jobAt j).setup.bind (fun u => (List.range u.topo.peers.length).find? (fun i => (u.topo.peers[i]?.map Peer.bundId) == some src))

/-- Whether a region entry lies in the data parts of a reservation on a Terrace. -/
def Resv.covers (r : Resv) (t : Nat) (g : Region) : Bool :=
  r.data.any (fun x => x.1 == t && decide (x.2.1 % 2 ^ 38 / 2 ^ 26 ≤ g.base) && decide (g.limit < (x.2.1 % 2 ^ 38 + x.2.2) / 2 ^ 26))

/-- Whether a requester matches a region's owner. A Bund device reaches a partition region as a peer of a job of that partition, and a
partner region as the peer it names (notes/assumptions/17.md). -/
def ownerMatches (d : Device) (req : Requester) (r : Region) : Bool :=
  match req with
  | .firmware => true
  | .part p => r.owner == 0 && r.part == p
  | .peer src j =>
    match peerIndex d j src with
    | some i => (r.owner == 0 && (d.jobAt j).part == some r.part) || (r.owner == 1 && r.peer == i)
    | none => false

/-- The 64 MiB units that a stretch of a window touches. -/
def unitsOf (a n : Nat) : List Nat := if n = 0 then [] else (List.range ((a % 2 ^ 38 + n - 1) / 2 ^ 26 - a % 2 ^ 38 / 2 ^ 26 + 1)).map (· + a % 2 ^ 38 / 2 ^ 26)

/-- The status of an access before any data moves: test mode, regions (06 R194, R199); outside the windows there is nothing to check. -/
def accessStatus (d : Device) (req : Requester) (a n : Nat) : Nat :=
  if !isWindow a || n == 0 then stOk
  else
    let t := d.terAt (terOfWindow a)
    if t.testEn then stTgen
    else if (unitsOf a n).all (fun u => match regionFor t u with | some r => ownerMatches d req r | none => false) then stOk else stRegion

/-- Whether every line of a stretch has a key (06 R194). -/
def keyed (d : Device) (a n : Nat) : Bool :=
  !isWindow a || n == 0 || (unitsOf a n).all (fun u => match regionFor (d.terAt (terOfWindow a)) u with
    | some r => (nthD none (d.terAt (terOfWindow a)).keys r.slot).isSome
    | none => false)

/-- Whether a stretch of the scratchpad lies in beds that serve it: scratchpad mode, not mapped out, and no sleeve bed for a pan
(06 R182, R187, R198). -/
def bedsOk (d : Device) (byPan : Bool) (a n : Nat) : Bool :=
  !isScratch a || n == 0 ||
    let t := d.terAt (terOfScratch a)
    let b0 := bedOfScratch a
    (List.range (((a + n - 1) - 0x010000000000) % 0x200000000 / 0x4000000 - b0 + 1)).all (fun i =>
      let b := b0 + i
      t.bedMode.getLsbD b && !t.bedOut.getLsbD b
        && !(byPan && sleeveReads t && decide (t.sleeveBase ≤ b) && decide (b ≤ t.sleeveBase + 8)))

/-- A line held until it is regenerated. -/
def Device.holdLine (d : Device) (t line : Nat) : Device :=
  d.updTer t (fun x => { x with lostLines := if x.lostLines.contains line then x.lostLines else x.lostLines ++ [line] })

/-- Whether a corruption met on an LPDDR5X read persists: eight retries of the link, or three checks, failed (06 R196). -/
def hitPersistent : Hit → Bool
  | .lpd _ link mism => decide (9 ≤ link) || decide (3 ≤ mism)
  | _ => false

/-- The device address of a corruption. -/
def hitAddr : Hit → Nat
  | .panParity a => a
  | .brineParity a => a
  | .lpd a _ _ => a

/-- Whether a corruption can stand in the memory that its address names: in a pan store; in the scratchpad or a cache bed; in LPDDR5X. -/
def hitFits (d : Device) : Hit → Bool
  | .panParity a => isPanStore a
  | .brineParity a => isScratch a || (isWindow a && (cachePlace (d.terAt (terOfWindow a)) (a % 2 ^ 38 / 256)).isSome)
  | .lpd a _ _ => isWindow a

/-- A corruption that an access met (06 R177, R184, R196): counted, and held where the only good copy may be gone. A clean cache line is read
again from LPDDR5X; a persistent fault is logged and marks its channel for map-out. -/
def Device.meetHit (d : Device) (h : Hit) : Device :=
  match h with
  | .panParity a =>
    d.updPan (panOfStore a) (fun p =>
      let g := (a - 0x011000000000) % 0x2000000 / 32
      { p with held := if p.held.contains g then p.held else p.held ++ [g], counts := { p.counts with parity := satAdd p.counts.parity 1 } })
  | .brineParity a =>
    let t := if isWindow a then terOfWindow a else terOfScratch a
    let d1 := d.updTer t (fun x => { x with parity := satAdd x.parity 1 })
    if isScratch a || (d.terAt t).dirty.any (fun r => decide ((lineSpan r.1 r.2).1 ≤ a) && decide (a < (lineSpan r.1 r.2).2)) then d1.holdLine t (a / 256) else d1
  | .lpd a link mism =>
    let c := channelOf d a
    let d1 := d.updChan c (fun x => { x with linkRetry := satAdd x.linkRetry (min 8 link), mismatch := satAdd x.mismatch (min 3 mism) })
    if hitPersistent h then
      let d2 := d1.updTer (terOfWindow a) (fun x => { x with mapOutDue := if x.mapOutDue.contains (c % 32) then x.mapOutDue else x.mapOutDue ++ [c % 32] })
      d2.logEvent (srcChan c) 0x0401 sevWarning none (toLE 8 a)
    else d1

/-- An access of some stretches, which may meet a corruption in one of them: it waits while a line or granule of theirs is held; a corruption is
counted and resolved, and what it leaves held makes the access wait; a persistent fault is the matter of `lost` (06 R177, R184, R196). -/
def Device.withHit (d : Device) (hit : Option Hit) (spans : List (Nat × Nat)) (lost : Device → Nat → Device) (go : Device → Device) : Device :=
  let waits := fun (e : Device) => spans.any (fun s => heldAt e s.1 s.2)
  if waits d then d
  else match hit with
  | none => go d
  | some h =>
    if !hitFits d h || !spans.any (fun s => decide (s.1 ≤ hitAddr h) && decide (hitAddr h < s.1 + s.2)) then d
    else
      let d1 := d.meetHit h
      if hitPersistent h then lost d1 (hitAddr h) else if waits d1 then d1 else go d1

/-- A persistent fault left to lineage: its line is held until BUFFER_REGENERATE resolves it (06 R188, R196). -/
def Device.holdFault (d : Device) (a : Nat) : Device := d.holdLine (terOfWindow a) (a / 256)

/-- The job whose buffer table names an address (06 R188). -/
def bufferOf (d : Device) (j a : Nat) : Option BufEntry :=
  (d.jobAt j).setup.bind (fun u => u.prog.bufs.find? (fun b => decide (b.base ≤ a) && decide (a < b.base + b.len)))

end Sys2Proof.Machine
end

