-- ==== Sys2Proof/Machine/Ledger.lean ====
section
/-! DEFINITION. The Ledger entry: products, promotion, packed records, write-back, heritage mode (03). -/
namespace Sys2Proof.Machine

/-- The 576-bit wrap of L (03 R87). -/
def wrapL (x : Int) : Int := if -(2 ^ 575) ≤ x ∧ x < 2 ^ 575 then x else toSigned 576 (ofSigned 576 x)

/-- An addition into L: past the 576-bit range NAN and INVALID are set and L is left as wrapped (03 R89). -/
def LEntry.addL (e : LEntry) (x : Int) : LEntry :=
  let y := wrapL (e.l + x)
  if y = e.l + x then { e with l := y } else { e with l := y, nan := true, invalid := true }

/-- PINF and NINF both set sets INVALID (03 R92). -/
def LEntry.settle (e : LEntry) : LEntry := if e.pinf && e.ninf then { e with invalid := true } else e

/-- What a clear leaves (03 R88, R548; 07 R208). -/
def LEntry.cleared : LEntry := {}

/-- An entry in normal mode. -/
def LEntry.normal (e : LEntry) : Bool := e.heritage.isNone

/-- The state-bit effect of one product (03 R79, R80): `zeroPos` makes a zero product count as +0 (INT8). -/
def LEntry.product (e : LEntry) (a b : Val) (zeroPos : Bool) : LEntry :=
  let neg := xor a.isNeg b.isNeg
  let e := { e with touched := true }
  if a.isNan || b.isNan then
    { e with nan := true, invalid := e.invalid || a.isSNan || b.isSNan, negz := false }
  else if a.isInf || b.isInf then
    if a.isZero || b.isZero then { e with nan := true, invalid := true, negz := false }
    else ({ e with pinf := e.pinf || !neg, ninf := e.ninf || neg, negz := false }).settle
  else
    { e with terms := true, negz := e.negz && (a.isZero || b.isZero) && neg && !zeroPos }

/-- The signed product of two finite values, scaled so that its unit is 2^−266 after the shift s; other
values add nothing (03 R90, R91). -/
def productL (a b : Val) (s : Int) : Int :=
  match a, b with
  | .fin sa m e, .fin sb n f =>
    let k := e + f + s + 266
    let x : Int := ((shiftNat (m * n) k : Nat) : Int)
    if xor sa sb then -x else x
  | _, _ => 0

/-- The scale exponent t of a non-zero finite product (03 R84). -/
def productExp (a b : Val) : Option Int :=
  match a, b with
  | .fin _ (_ + 1) e, .fin _ (_ + 1) f => some (e + f)
  | _, _ => none

/-- Whether an anchored chunk spills (03 R85): W and t_min by format. -/
def chunkSpills (w tmin : Int) (ps : List (Val × Val)) : Bool :=
  let ts := ps.filterMap (fun p => productExp p.1 p.2)
  match ts with
  | [] => false
  | t :: r =>
    let top := r.foldl max t
    let lam := max (top - w) tmin
    ts.any (fun x => decide (x < lam))

/-! ### K-block scales (02 R60, R61) -/

/-- What a K-block scale code says: its exponent, or out of range, or NaN. -/
inductive KScale where
  | ok (k : Int) | outOfRange | nan
deriving DecidableEq, Repr

def kscale (c : Nat) : KScale :=
  if c = 0xFF then .nan else if 0x0A ≤ c ∧ c ≤ 0xED then .ok ((c : Int) - 127) else .outOfRange

/-- The shift of a pair of codes, or what each refused code sets: INVALID for an out-of-range code. -/
def kshift (a b : Nat) : Option Int × Bool :=
  match kscale a, kscale b with
  | .ok x, .ok y => (some (x + y), false)
  | x, y => (none, x == .outOfRange || y == .outOfRange)

/-! ### Packed records (03 R99 to R104) -/

/-- L mod 127, non-negative (03 R99, R133). -/
def residue127 (l : Int) : Nat := (l % 127).toNat

/-- Limb i of L. -/
def limbOf (l : Int) (i : Nat) : Nat := (ofSigned 576 l >>> (32 * i)) % 2 ^ 32

/-- The header of 03 R99. -/
def recordHeader (e : LEntry) (sign : Bool) (n lo : Nat) : Nat :=
  residue127 e.l * 2 ^ 17 + b2n e.terms * 2 ^ 16 + b2n e.invalid * 2 ^ 15 + b2n e.negz * 2 ^ 14
    + b2n e.ninf * 2 ^ 13 + b2n e.pinf * 2 ^ 12 + b2n e.nan * 2 ^ 11 + b2n sign * 2 ^ 10 + n * 2 ^ 5 + lo

/-- The lowest limb at or above i that is not zero, within a number of limbs. -/
def lowestLimb (l : Int) : Nat → Nat → Nat
  | 0, i => i
  | n + 1, i => if limbOf l i ≠ 0 then i else lowestLimb l n (i + 1)

/-- How many limbs from lo on are sent: up to the highest that differs from the fill. -/
def limbCount (l : Int) (lo fill : Nat) : Nat :=
  ((List.range 18).filter (fun i => decide (lo ≤ i) && decide (limbOf l i ≠ fill))).foldl (fun m i => max m (i + 1 - lo)) 0

/-- A record: its header and its limbs. -/
structure Packet99 where
  header : Nat
  limbs : List Nat
deriving DecidableEq, Repr

/-- The canonical form of an entry (03 R100). -/
def canonicalRecord (e : LEntry) : Packet99 :=
  if e.l = 0 then { header := recordHeader e false 0 0, limbs := [] }
  else
    let sign := decide (e.l < 0)
    let lo := lowestLimb e.l 17 0
    let n := limbCount e.l lo (if sign then 0xFFFFFFFF else 0)
    { header := recordHeader e sign n lo, limbs := (List.range n).map (fun i => limbOf e.l (lo + i)) }

/-- The full form of an entry (03 R104): 18 limbs from limb 0. -/
def fullRecord (e : LEntry) : Packet99 :=
  { header := recordHeader e (decide (e.l < 0)) 18 0, limbs := (List.range 18).map (limbOf e.l) }

/-- A record's words, and its bytes. -/
def Packet99.words (r : Packet99) : List Nat := r.header :: r.limbs
def Packet99.bytes (r : Packet99) : List Nat := r.words.flatMap (toLE 4)

/-- Whether a header is of a valid form (03 R100). -/
def headerOk (h : Nat) : Bool := decide (bits h 9 5 + bits h 4 0 ≤ 18) && decide (bits h 31 24 = 0)

/-- L rebuilt from a record (03 R100). -/
def rebuildL (r : Packet99) : Int :=
  let lo := bits r.header 4 0
  let n := bits r.header 9 5
  let fill := if bitOf r.header 10 then 0xFFFFFFFF else 0
  toSigned 576 (ofLE ((List.range 18).flatMap (fun i =>
    toLE 4 (if i < lo then 0 else if i < lo + n then nthD 0 r.limbs (i - lo) else fill))))

/-- Whether a record's residue is that of its L (03 R101). -/
def residueOk (r : Packet99) : Bool := residue127 (rebuildL r) == bits r.header 23 17

/-- One record read from bytes: the record and the bytes after it; none when the bytes end inside it or it is malformed. -/
def takeRecord (bs : List Nat) : Option (Packet99 × List Nat) :=
  if bs.length < 4 then none
  else
    let h := ofLE (bs.take 4)
    let n := bits h 9 5
    if headerOk h && decide (4 + 4 * n ≤ bs.length) then
      some ({ header := h, limbs := (List.range n).map (fun i => fieldAt bs (4 + 4 * i) 4) }, bs.drop (4 + 4 * n))
    else none

/-- Every record of a run of bytes, and whether the run ended in a malformed one; fuel by the byte count. -/
def takeRecords : Nat → List Nat → List Packet99 × Bool
  | 0, bs => ([], !bs.isEmpty)
  | n + 1, bs =>
    if bs.isEmpty then ([], false)
    else match takeRecord bs with
    | some (r, rest) => let p := takeRecords n rest; (r :: p.1, p.2)
    | none => ([], true)

/-- The packed add of a record into an entry in normal mode (03 R102, R92). -/
def LEntry.packedAdd (e : LEntry) (r : Packet99) : LEntry :=
  let h := r.header
  let e := e.addL (rebuildL r)
  ({ e with
      nan := e.nan || bitOf h 11, pinf := e.pinf || bitOf h 12, ninf := e.ninf || bitOf h 13,
      negz := e.negz && bitOf h 14, invalid := e.invalid || bitOf h 15, terms := e.terms || bitOf h 16,
      touched := true }).settle

/-! ### Write-back (03 R93, R94, R110) -/

/-- A write-back's answer: the value it rounded, the code with its flags. -/
structure Written where
  value : Val
  conv : Conv
deriving DecidableEq, Repr

/-- The value an entry holds before its scales (03 R93). -/
def LEntry.value (e : LEntry) (mode : RMode) : Val :=
  if e.nan || (e.pinf && e.ninf) then .nan false
  else if e.pinf then .inf false
  else if e.ninf then .inf true
  else if e.l ≠ 0 then .fin (decide (e.l < 0)) e.l.natAbs (-266)
  else .fin (e.terms && (e.negz || mode == RMode.rdn)) 0 0

/-- Write-back in normal mode (03 R93, R94). -/
def writeBackNormal (e : LEntry) (rs cs : Val) (b : Option Val) (f : Fmt) (mode : RMode) (ovfSp : Bool) (r : Nat) : Written :=
  let x1 := mulVal (e.value mode) rs
  let x2 := mulVal x1.1 cs
  let x3 := match b with
    | some v => addVal x2.1 v (mode == RMode.rdn)
    | none => (x2.1, false)
  let c := convertVal x3.1 f mode false ovfSp r
  { value := x3.1, conv := { c with flags := c.flags.or (.inv (e.invalid || x1.2 || x2.2 || x3.2)) } }

/-- An exact value rounded into FP32 under RNE, with the invalid operation that made it: the code and its flags. -/
def rne32 (x : Val × Bool) : Nat × NumFlags :=
  let c := convertVal x.1 .fp32 .rne false false 0
  (c.code, c.flags.or (.inv x.2))

/-- Heritage write-back (03 R110). -/
def writeBackHeritage (h : Heritage) (rs cs : Val) (b : Option Val) (f : Fmt) (mode : RMode) (ovfSp : Bool) (r : Nat) : Written :=
  let g := rne32 (mulVal rs cs)
  let y := rne32 (mulVal (fp32V (h.acc.getD 0)) (fp32V g.1))
  let z := match b with
    | some v => rne32 (addVal (fp32V y.1) v false)
    | none => (y.1, .none)
  let c := convertVal (fp32V z.1) f mode false ovfSp r
  { value := fp32V z.1, conv := { c with flags := ((c.flags.or g.2).or y.2).or z.2 } }

/-- Write-back by the entry's mode (03 R548). -/
def LEntry.writeBack (e : LEntry) (rs cs : Val) (b : Option Val) (f : Fmt) (mode : RMode) (ovfSp : Bool) (r : Nat) : Written :=
  match e.heritage with
  | some h => writeBackHeritage h rs cs b f mode ovfSp r
  | none => writeBackNormal e rs cs b f mode ovfSp r

/-! ### Heritage accumulation (03 R109) -/

/-- The exact sum of a heritage chunk's products: NaN, infinities and the −0 rule (03 R109, R55). -/
def heritageChunk (ps : List (Val × Val)) : Val × Bool :=
  let qs := ps.map (fun p => mulVal p.1 p.2)
  let s := sumVals (qs.map Prod.fst)
  (s.1, s.2 || qs.any Prod.snd)

/-- One heritage chunk into the accumulator. -/
def heritageStep (acc : Option Nat) (ps : List (Val × Val)) : Nat × NumFlags :=
  let s := heritageChunk ps
  match acc with
  | none => rne32 s
  | some a =>
    let t := addVal (fp32V a) s.1 false
    rne32 (t.1, t.2 || s.2)

/-- Chunks of c products each, in order; fuel by the product count. -/
def heritageFold (c : Nat) : Nat → Option Nat → List (Val × Val) → Option Nat × NumFlags
  | 0, acc, _ => (acc, .none)
  | n + 1, acc, ps =>
    if ps.isEmpty then (acc, .none)
    else
      let s := heritageStep acc (ps.take c)
      let q := heritageFold c n (some s.1) (ps.drop c)
      (q.1, s.2.or q.2)

/-! ### The split of FP32 (03 R97) -/

/-- The BF16 pieces hi, mid, lo; the lower two are absent for NaN and infinities. -/
def split32 (x : Nat) : Nat × Option (Nat × Nat) :=
  match fp32V x with
  | .nan s => ((if s then 0x7FA0 else 0x7FC0), none)
  | .inf _ => (x / 65536, none)
  | _ =>
    let hi := x / 65536
    let d1 := sub32 x (hi * 65536)
    let mid := d1 / 65536
    let d2 := sub32 d1 (mid * 65536)
    (hi, some (mid, d2 / 65536))

/-! ### The amax capture unit (10 R273) -/

/-- A conversion's effect on a capture slot: the magnitude before rounding, the SAT events, an infinity or a NaN written. -/
def AmaxSlot.capture (s : AmaxSlot) (v : Val) (c : Conv) (f : Fmt) : AmaxSlot :=
  let mag : Nat := match v with
    | .fin _ m e => let k := convertVal (.fin false m e) .fp32 .rup false false 0
                    if k.flags.overflow then 0x7F7FFFFF else k.code
    | _ => 0
  let o := decodeVal f c.code
  { amax := max s.amax mag, sat := satAdd s.sat c.sat, inf := satAdd s.inf (b2n o.isInf), nan := satAdd s.nan (b2n o.isNan) }

/-- A conversion's effect on its pan (02 R75, 10 R273): the sticky flags, the SAT count, the selected slot. -/
def Pan.record (p : Pan) (sel : AmaxSel) (v : Val) (c : Conv) (f : Fmt) : Pan :=
  { p with
    counts := { p.counts with num := p.counts.num.or c.flags, sat := satAdd p.counts.sat c.sat }
    slots := if sel.en then modNth (fun s => s.capture v c f) p.slots sel.slot else p.slots }

/-- The entry of a Ledger column. -/
def Pan.entry (p : Pan) (e col : Nat) : LEntry := smGet {} p.arr.ledger (256 * e + col)

/-- The row state of an entry (07 R211). -/
def Pan.row (p : Pan) (e : Nat) : RowState := smGet {} p.arr.rows e

/-- The Ledger with one entry replaced. -/
def Pan.setEntry (p : Pan) (e col : Nat) (v : LEntry) : Pan :=
  { p with arr := { p.arr with ledger := smSet {} p.arr.ledger (256 * e + col) v } }

/-- Every column of an entry cleared, and its row state as after CLR (03 R88; 07 R211). -/
def Pan.clearEntry (p : Pan) (e : Nat) : Pan :=
  { p with arr := { p.arr with
      ledger := p.arr.ledger.filter (fun kv => decide (kv.1 / 256 ≠ e))
      rows := smErase p.arr.rows e } }

end Sys2Proof.Machine
end

