-- ==== Sys2Proof/Machine/Matrix.lean ====
section
/-! DEFINITION. Matrix descriptors at work: the start of MATMUL and CONV, one pass, the write-back converter, ENTRY_OP (04 R114 to
R134; 03 R77 to R98, R105 to R111). -/
namespace Sys2Proof.Machine

/-! ### One pass -/

/-- One part of a chunk promoted into an entry (03 R79, R80, R85, R86, R90 to R92): the state bits of every product, then the
sum, or after a spill each product alone. `sh` is the K-block shift, or what a refused scale sets. The number of spills. -/
def promotePart (pr : Pair) (e : LEntry) (ps : List (Val × Val)) (sh : Option Int × Bool) : LEntry × Nat :=
  let e1 := ps.foldl (fun e q => e.product q.1 q.2 (pr == .int8)) e
  match sh.1 with
  | none => ({ e1 with nan := true, invalid := e1.invalid || sh.2 }, 0)
  | some s =>
    match pr.window with
    | some (w, t) =>
      if chunkSpills w t ps then (ps.foldl (fun e q => e.addL (productL q.1 q.2 s)) e1, 1)
      else (e1.addL (sumInt (ps.map (fun q => productL q.1 q.2 s))), 0)
    | none => (e1.addL (sumInt (ps.map (fun q => productL q.1 q.2 s))), 0)

/-- A term of a multi-draw pass other than hi·hi: values only (03 R98). -/
def promoteTerm (e : LEntry) (ps : List (Val × Val)) : LEntry × Nat :=
  let qs := ps.filter (fun q => (productExp q.1 q.2).isSome)
  if chunkSpills 52 (-266) qs then (qs.foldl (fun e q => e.addL (productL q.1 q.2 0)) e, 1)
  else (e.addL (sumInt (qs.map (fun q => productL q.1 q.2 0))), 0)

/-- The pieces of an FP32 code as BF16 values (03 R97). -/
def pieces (c : Nat) : Val × Option (Val × Val) :=
  let s := split32 c
  (decodeFloat .bf16 s.1, s.2.map (fun q => (decodeFloat .bf16 q.1, decodeFloat .bf16 q.2)))

/-- The terms beside hi·hi, as the pairs of pieces each draws (03 R96): hi·mid, mid·hi; then hi·lo, lo·hi, mid·mid. -/
def drawTerms (draw : Nat) (a b : Val × Option (Val × Val)) : List (Option (Val × Val)) :=
  let hm := b.2.map (fun q => (a.1, q.1))
  let mh := a.2.map (fun q => (q.1, b.1))
  let hl := b.2.map (fun q => (a.1, q.2))
  let lh := a.2.map (fun q => (q.2, b.1))
  let mm := match a.2, b.2 with | some x, some y => some (x.1, y.1) | _, _ => none
  if draw = 2 then [hm, mh, hl, lh, mm] else [hm, mh]

/-- K positions per promoted part: a chunk, or a K-block of it for the narrow pairs (04 R116). -/
def MxD.part (x : MxD) : Nat :=
  match x.pair with
  | .e2m1 | .narrow => min 32 (x.pair.chunk x.sparse)
  | pr => pr.chunk x.sparse

/-- The K-block shift of part k0 of row m and column n (02 R60, R61). -/
def partShift (d : Device) (p : Nat) (x : MxD) (t : Tile) (m n k : Nat) : Option Int × Bool :=
  let kb := (x.k0 + k) / 32 - x.k0 / 32
  let a := if x.kbsA then d.psLE p (x.aux + x.auxMap.kA + m * x.nb + kb) 1 else 0x7F
  let b := if x.kbsB then d.psLE p (t.scaleAddr + kb * x.n + n) 1 else 0x7F
  kshift a b

/-- What one column's pass does: the entry, its spills, KBLOCK_RANGE, the heritage flags. -/
structure ColRes where
  entry : LEntry
  spills : Nat := 0
  range : Bool := false
  flags : NumFlags := {}
deriving DecidableEq, Repr

/-- One part of a column: `ks` its K positions with their activation codes. -/
def colPart (d : Device) (p : Nat) (x : MxD) (t : Tile) (m n : Nat) (r : ColRes) (ks : List (Nat × Nat)) : ColRes :=
  let sh := match ks with | [] => (some 0, false) | k :: _ => partShift d p x t m n k.1
  if x.draw = 0 then
    let ps := ks.map (fun k => (decodeVal x.fA k.2, decodeVal x.fB (ftzCode x.ftzB x.fB (weightCode d p x.fB t k.1 n))))
    let q := promotePart x.pair r.entry ps sh
    { r with entry := q.1, spills := r.spills + q.2, range := r.range || sh.1.isNone }
  else
    let qs := ks.map (fun k => (pieces k.2, pieces (ftzCode x.ftzB .fp32 (weightCode d p .fp32 t k.1 n))))
    let hh := promotePart .bf16 r.entry (qs.map (fun q => (q.1.1, q.2.1))) (some 0, false)
    let terms := qs.map (fun q => drawTerms x.draw q.1 q.2)
    let q := (List.range (if x.draw = 2 then 5 else 2)).foldl (fun acc i =>
      let y := promoteTerm acc.1 (terms.filterMap (fun l => nthD none l i))
      (y.1, acc.2 + y.2)) hh
    { r with entry := q.1, spills := r.spills + q.2 }

/-- Chunks of a list, each of c elements; fuel by its length. -/
def splitEvery {α : Type} (c : Nat) : Nat → List α → List (List α)
  | 0, _ => []
  | n + 1, l => if l.isEmpty then [] else l.take c :: splitEvery c n (l.drop c)

/-- The K positions that form products for column n, part by part (03 R82, 08 R243). -/
def colKs (x : MxD) (c : ConvRec) (acts : List Nat) (n : Nat) : List (List (Nat × Nat)) :=
  (splitEvery x.part x.k (acts.zipIdx.map (fun q => (q.2, q.1)))).map (fun part =>
    part.filter (fun k => x.op != 2 || c.kGroup (x.k0 + k.1) == c.colGroup n))

/-- The pass of one column (04 R115; 03 R109 in heritage mode). -/
def colPass (d : Device) (p : Nat) (x : MxD) (t : Tile) (c : ConvRec) (acts : List Nat) (m n : Nat) (e : LEntry) : ColRes :=
  match e.heritage with
  | none => (colKs x c acts n).foldl (colPart d p x t m n) { entry := e }
  | some h =>
    let len := if x.pair = .narrow then 8 else 2
    let ps := acts.zipIdx.map (fun k => (decodeVal x.fA k.1, decodeVal x.fB (ftzCode x.ftzB x.fB (weightCode d p x.fB t k.2 n))))
    let r := heritageFold len x.k h.acc ps
    { entry := { e with heritage := some { acc := r.1, nextK := (x.k0 + x.k) % 2 ^ 32 }, touched := true }, flags := r.2 }

/-- One column's result on its pan. -/
def Pan.column (pan : Pan) (e n : Nat) (r : ColRes) : Pan :=
  let pan := pan.setEntry e n r.entry
  { pan with counts := { pan.counts with
      spill := satAdd pan.counts.spill r.spills
      num := pan.counts.num.or { r.flags with kblockRange := r.flags.kblockRange || r.range } } }

/-- The pass of activation row m over every column below N (04 R115). -/
def passRow (d : Device) (p : Nat) (x : MxD) (t : Tile) (m : Nat) : Pan :=
  let c := if x.op = 2 then x.conv d p else convRec []
  let raw := (List.range x.k).map (actCode d p x c m)
  let acts := raw.map (ftzCode x.ftzA x.fA)
  let pan := (d.panAt p).raise (.fl (raw != acts))
  (List.range x.n).foldl (fun pan n =>
    pan.column (x.lbase + m) n (colPass d p x t c acts m n (pan.entry (x.lbase + m) n))) pan

/-! ### Starting a descriptor -/

/-- CLR and CLR_AFTER: every column of entries LBASE to LBASE + M − 1 (04 R117). -/
def Pan.clearRows (pan : Pan) (lbase m : Nat) : Pan := (List.range m).foldl (fun q i => q.clearEntry (lbase + i)) pan

/-- Heritage mode at the first act on each entry (03 R548). -/
def Pan.makeHeritage (pan : Pan) (x : MxD) : Pan :=
  if x.heritage then
    (List.range x.m).foldl (fun q i => (List.range x.n).foldl (fun q n =>
      let e := q.entry (x.lbase + i) n
      if e.heritage.isNone then q.setEntry (x.lbase + i) n { e with heritage := some {} } else q) q) pan
  else pan

/-- A MATMUL or CONV descriptor whose checks have passed and whose wait is met (04 R121): check 12, CLR, the tile's load. -/
def startPasses (d : Device) (p : Nat) (q : Desc) (x : MxD) : Device :=
  let pan := d.panAt p
  if x.m = 0 then d.updPan p (fun _ => pan.rejectHead q stOk)
  else if heritageBad pan x then d.updPan p (fun _ => pan.rejectHead q stHeritageOrder)
  else
    let pan := if x.clr then pan.clearRows x.lbase x.m else pan
    let pan := pan.makeHeritage x
    let pan :=
      if x.wkeep then { pan with arr := { pan.arr with tileValid := true } }
      else
        let pan := pan.raise (.fl (tileFlushes d p x x.tile))
        { pan with arr := { pan.arr with tile := some x.tile, tileValid := true } }
    d.updPan p (fun _ => pan.setHead { q with phase := .passes, row := 0 })

/-- The start of a MATMUL or CONV descriptor at the head of the queue (04 R120 to R123), once what it reads is not held; `hit` is a parity hit met
by that read. -/
def startMatrix (d : Device) (p op : Nat) (hit : Option Nat) (checks : MxD → Option Tile → Nat) : Device :=
  let pan := d.panAt p
  match d.headOn p with
  | some q =>
    let x := mxd q.words
    if (x.op = op ∨ (op = 1 ∧ (x.op = 0 ∨ 4 < x.op))) ∧ q.phase = .waiting ∧ !pan.rerunning then
      d.panAccess p hit (startSpans d p x x.tile) (fun d =>
        let st := checks x pan.arr.tile
        if st ≠ 0 then d.updPan p (fun _ => pan.rejectHead q st)
        else if x.ready pan then startPasses d p q x else d)
    else d
  | none => d

/-- The checks of a MATMUL descriptor; a reserved OP fails check 1 (04 R120). -/
def matmulChecks (d : Device) (p : Nat) (x : MxD) (t : Option Tile) : Nat := mxChecks d p x t (x.op != 1) false false false false

/-- The checks of a CONV descriptor (08 R241, R242). -/
def convChecks (d : Device) (p : Nat) (x : MxD) (t : Option Tile) : Nat :=
  let c := x.conv d p
  mxChecks d p x t c.rsv c.zero (x.zbc || x.kbsA || x.heritage || (x.sparse != 0 && decide (1 < c.groups)) || (c.halo && c.dim != 2))
    (c.rangeBad x.fA x.m x.n (x.k0 + x.k) (kernelLimit c.dim) 8 8) (c.alignBad x.fA || (auxHdr d p x.aux).ext % 32 != 0)

/-- MATMUL (04 R121). -/
def execMatmul (p : Fin 64) (hit : Option Nat) (s : State) : Host.Outcome State Fault Refusal :=
  onDev s (fun d => startMatrix d p 1 hit (matmulChecks d p))

/-- CONV (08 R236 to R242). -/
def execConv (p : Fin 64) (hit : Option Nat) (s : State) : Host.Outcome State Fault Refusal :=
  onDev s (fun d => startMatrix d p 2 hit (convChecks d p))

/-- Whether a started descriptor has passes left. -/
def Desc.passesLeft (q : Desc) : Bool := q.phase == .passes && (mxd q.words).k != 0 && decide (q.row < (mxd q.words).m)

/-- A mismatching attempt of a pass: its updates are suppressed; the attempt counts once, however many of its checks fail (04 R134;
notes/assumptions/39.md). -/
def Pan.mismatch (pan : Pan) : Pan :=
  { pan with arr := { pan.arr with consec := pan.arr.consec + 1 }, counts := { pan.counts with residue := satAdd pan.counts.residue 1 } }

/-- An attempt that passed ends the run of mismatches (04 R135). -/
def Pan.attempted (pan : Pan) : Pan := { pan with arr := { pan.arr with consec := 0 } }

/-- A pass that passed: the array holds its tile (04 R122). -/
def Pan.passed (pan : Pan) : Pan := { pan with arr := { pan.arr with consec := 0, tileValid := true } }

/-- PASS: one activation row (04 R115). A parity hit on an operand holds its granule and the pass waits (06 R177); a residue mismatch
suppresses the pass and counts (04 R134); a wanted halo tag or an issue skip makes it wait (08 R250; 17 R466). -/
def execPass (p : Fin 64) (bad : Bool) (hit : Option Nat) (s : State) : Host.Outcome State Fault Refusal :=
  onDev s (fun d =>
    let pan := d.panAt p
    match d.headOn p with
    | some q =>
      let x := mxd q.words
      let t := pan.arr.tile.getD x.tile
      if !q.passesLeft || !(x.op == 1 || x.op == 2) || !d.arrayIssues p || decide (3 ≤ pan.arr.consec) || !haloReady d p x q.row then d
      else d.panAccess p hit (passSpans d p x t q.row) (fun d =>
        if bad then d.updPan p Pan.mismatch
        else d.updPan p (fun _ => ((passRow d p x t q.row).setHead { q with row := q.row + 1 }).passed))
    | none => d)

/-! ### Write-back -/

/-- The random word of an output element on a pan (02 R72). -/
def Pan.srWord (pan : Pan) (tensor e : Nat) : Nat := Sys2Proof.Machine.srWord pan.sr.seed pan.sr.tag pan.sr.count tensor e

/-- The conversion of one entry into output (m, n) (03 R93 to R95, R110). -/
def wbOne (d : Device) (p : Nat) (x : MxD) (h : AuxHdr) (pan : Pan) (m n : Nat) : Written :=
  let a := x.auxMap
  let r := if x.rmode = 4 then pan.srWord h.tensor (h.ebase + m * h.rowLen + n) else 0
  (pan.entry (x.lbase + m) n).writeBack (scaleVal d p x.rs (x.aux + a.rs) m) (scaleVal d p x.cs (x.aux + a.cs) n)
    (if x.bias then some (fp32V (d.psLE p (x.aux + a.bias + 4 * n) 4)) else none) x.fOut x.mode x.ovfSp r

/-- One output row: the codes and the pan after their flags, counts and captures (02 R75; 10 R273). -/
def wbRow (p : Nat) (x : MxD) (sel : AmaxSel) (one : Nat → Written) (d : Device) (m : Nat) : Device :=
  let ws := (List.range x.n).map one
  let d := d.updPan p (fun pan => ws.foldl (fun q w => q.record sel w.value w.conv x.fOut) pan)
  d.psWrite p (x.outAddr + m * x.outStride) (packCodes x.fOut (ws.map (fun w => w.conv.code)))

/-- The write-back of a descriptor's entries, row by row (04 R118). -/
def writeBackRows (d : Device) (p : Nat) (x : MxD) (sel : AmaxSel) : Device :=
  let h := auxHdr d p x.aux
  let pan := d.panAt p
  let src := d
  (List.range x.m).foldl (fun d m => wbRow p x sel (wbOne src p x h pan m) d m) d

/-- The output rows of a write-back. -/
def outSpans (x : MxD) : List (Nat × Nat) := (List.range x.m).map (fun m => (x.outAddr + m * x.outStride, packedBytes x.fOut x.n))

/-- Whether a held granule keeps the write-back from its output (06 R177). -/
def outputHeld (pan : Pan) (x : MxD) : Bool := (outSpans x).any (fun s => pan.holds s.1 s.2)

/-- What a write-back reads: the auxiliary header, the row and channel scales, the bias, and the words at its rows' ends that it merges into. -/
def wbReads (x : MxD) : List (Nat × Nat) :=
  let a := x.auxMap
  [(x.aux, 32), (x.aux + a.rs, x.m * scaleWidth x.rs), (x.aux + a.cs, x.n * scaleWidth x.cs), (x.aux + a.bias, if x.bias then 4 * x.n else 0)]
    ++ (outSpans x).map tailWord

/-- ENTRY_OP: CLR, write-back by the mode of each entry, CLR_AFTER (04 R120, R121); `hit` is a parity hit met by what it reads. -/
def execEntryOp (p : Fin 64) (hit : Option Nat) (s : State) : Host.Outcome State Fault Refusal :=
  onDev s (fun d =>
    let pan := d.panAt p
    match d.headOn p with
    | some q =>
      let x := mxd q.words
      if x.op = 4 ∧ q.phase = .waiting ∧ !pan.rerunning then
        let st := entryChecks d p x
        d.panAccess p hit (startSpans d p x x.tile ++ if st = 0 ∧ x.wb then wbReads x else []) (fun d =>
          if st ≠ 0 then d.updPan p (fun _ => pan.rejectHead q st)
          else if !x.ready pan || (x.wb && outputHeld pan x) then d
          else
            let d := if x.clr then d.updPan p (fun q => q.clearRows x.lbase x.m) else d
            let d := if x.wb then writeBackRows d p x q.amax else d
            let d := if x.clrAfter then d.updPan p (fun q => q.clearRows x.lbase x.m) else d
            d.updPan p (fun pan => pan.rejectHead q stOk))
      else d
    | none => d)

/-! ### The amax capture unit (10 R273, R274) -/

/-- AMAX_CAPTURE_SELECT: EN and SLOT for the conversions that follow. -/
def execAmaxCaptureSelect (p : Fin 64) (en : Bool) (slot : Fin 16) (s : State) : Host.Outcome State Fault Refusal :=
  onDev s (fun d => d.updPan p (fun pan => { pan with sel := { en := en, slot := slot } }))

/-- AMAX_SLOT_CLEAR: the same write with CLR: the named slot is reset first. -/
def execAmaxSlotClear (p : Fin 64) (en : Bool) (slot : Fin 16) (s : State) : Host.Outcome State Fault Refusal :=
  onDev s (fun d => d.updPan p (fun pan =>
    { pan with sel := { en := en, slot := slot }, slots := modNth (fun _ => {}) pan.slots slot }))

end Sys2Proof.Machine
end

