-- ==== Sys2Proof/Machine/Attention.lean ====
section
/-! DEFINITION. Attention descriptors: ATTEND, MERGE, RAKE and APPEND with their checks, and the write-back of attention rows
(07). -/
namespace Sys2Proof.Machine

/-! ### The attention record (07 R209) -/

/-- The record's fields. `rsv`: a reserved code or bit that applies in every mode. -/
structure AttnRec where
  mode : Nat
  kvfmt : Nat
  kvin : Nat
  causal : Bool
  segEn : Bool
  layout : Bool
  preset : Bool
  exportRec : Bool
  pairs : Nat
  count : Nat
  list : Nat
  qrec : Nat
  freq : Nat
  rowrec : Nat
  out2 : Nat
  kin : Nat
  vin : Nat
  page : Nat
  inStride : Nat
  pc : Nat
  rsv : Bool
deriving DecidableEq, Repr

def attnRec (bs : List Nat) : AttnRec :=
  let w := wordAt bs
  { mode := bits (w 0) 31 28, kvfmt := bits (w 0) 27 24, kvin := bits (w 0) 23 20, causal := bitOf (w 0) 19, segEn := bitOf (w 0) 18
    layout := bitOf (w 0) 17, preset := bitOf (w 0) 16, exportRec := bitOf (w 0) 15, pairs := bits (w 0) 14 8
    count := w 1, list := w 2, qrec := w 3, freq := w 4, rowrec := w 5, out2 := w 6, kin := w 7, vin := w 8, page := w 9
    inStride := w 10, pc := w 11
    rsv := decide (3 < bits (w 0) 31 28) || !(bits (w 0) 27 24 == 3 || bits (w 0) 27 24 == 9)
      || (bits (w 0) 31 28 == 3 && (decide (1 < bits (w 0) 23 20) || w 1 != 0))
      || bits (w 0) 7 0 != 0 || [12, 13, 14, 15].any (fun i => w i != 0) }

def MxD.attn (x : MxD) (d : Device) (p : Nat) : AttnRec := attnRec (d.psRead p (auxHdr d p x.aux).ext 64)

/-! ### KV blocks (07 R225) -/

/-- The section offsets of a KV block: keys, key scales, values, value scales. -/
structure KvMap where
  keys : Nat
  kscale : Nat
  vals : Nat
  vscale : Nat
deriving DecidableEq, Repr

def kvMap (fmt dk dv : Nat) : KvMap :=
  let kb := if fmt = 9 then dk / 2 else dk
  let vb := if fmt = 9 then dv / 2 else dv
  let ks := if fmt = 9 then 2 * (dk / 32) else 2
  let keys := 32
  let kscale := roundUp (keys + 256 * kb) 32
  let vals := roundUp (kscale + 256 * ks) 32
  let vscale := roundUp (vals + 256 * vb) 32
  { keys := keys, kscale := kscale, vals := vals, vscale := vscale }

/-- A page's COUNT, d, dv. -/
def kvCount (d : Device) (p a : Nat) : Nat := d.psLE p a 2
def kvD (d : Device) (p a : Nat) : Nat := d.psLE p (a + 4) 1
def kvDv (d : Device) (p a : Nat) : Nat := d.psLE p (a + 5) 1

/-- A stored element of a row of `n` elements, and its scale's code (07 R225, R226). -/
def kvElem (d : Device) (p fmt base n slot i : Nat) : Nat :=
  if fmt = 9 then unpackAt .int4 (fun j => d.psLE p (base + slot * (n / 2) + j) 1) i
  else d.psLE p (base + slot * n + i) 1
def kvScale (d : Device) (p fmt base n slot i : Nat) : Nat :=
  if fmt = 9 then d.psLE p (base + 2 * (slot * (n / 32) + i / 32)) 2 else d.psLE p (base + 2 * slot) 2

/-- The product of two values rounded once into BF16 under RNE. -/
def bf16Of (v : Val × Bool) : Conv :=
  let c := convertVal v.1 .bf16 .rne false false 0
  { c with flags := c.flags.or (.inv v.2) }

/-- A key channel or a value widened into BF16 (07 R227): E4M3 keys exactly, everything else with its scale. -/
def widenKey (d : Device) (p fmt blk dk dv slot i : Nat) : Conv :=
  let m := kvMap fmt dk dv
  let e := kvElem d p fmt (blk + m.keys) dk slot i
  if fmt = 9 then bf16Of (mulVal (decodeVal .int4 e) (decodeVal .bf16 (kvScale d p fmt (blk + m.kscale) dk slot i)))
  else convertVal (decodeVal .e4m3 e) .bf16 .rne false false 0
def widenValue (d : Device) (p fmt blk dk dv slot i : Nat) : Conv :=
  let m := kvMap fmt dk dv
  bf16Of (mulVal (decodeVal (if fmt = 9 then .int4 else .e4m3) (kvElem d p fmt (blk + m.vals) dv slot i))
    (decodeVal .bf16 (kvScale d p fmt (blk + m.vscale) dv slot i)))

/-- The channel scale of a key's scores (07 R210). -/
def keyScale (d : Device) (p fmt blk dk dv slot : Nat) : Val :=
  if fmt = 9 then .fin false 1 0 else decodeVal .bf16 (kvScale d p fmt (blk + (kvMap fmt dk dv).kscale) dk slot 0)

/-! ### Rotation (07 R222 to R224) -/

/-- The rotated pair that channel i belongs to, and whether i is its second channel. -/
def ropePair (r : AttnRec) (dk i : Nat) : Option (Nat × Bool) :=
  if r.layout then
    if i < r.pairs then some (i, false)
    else if decide (dk / 2 ≤ i) && decide (i < dk / 2 + r.pairs) then some (i - dk / 2, true) else none
  else if i < 2 * r.pairs then some (i / 2, i % 2 == 1) else none

/-- A row of BF16 codes after rotation at a position, and the flags of its roundings. -/
def rotateRow (d : Device) (p : Nat) (r : AttnRec) (on : Bool) (pos : Nat) (row : List Nat) : List Nat × NumFlags :=
  if !on then (row, .none)
  else
    let dk := row.length
    let out := (List.range dk).map (fun i =>
      match ropePair r dk i with
      | none => ({ code := nthD 0 row i } : Conv)
      | some (j, second) =>
        let a := if r.layout then j else 2 * j
        let b := if r.layout then j + dk / 2 else 2 * j + 1
        let sc := sincos (pos * d.psLE p (r.freq + 8 * j) 8)
        let x0 := decodeVal .bf16 (nthD 0 row a)
        let x1 := decodeVal .bf16 (nthD 0 row b)
        let l := if second then mulVal x0 (fp32V sc.1) else mulVal x0 (fp32V sc.2)
        let rr := if second then mulVal x1 (fp32V sc.2) else mulVal (negVal x1) (fp32V sc.1)
        let s := addVal l.1 rr.1 false
        bf16Of (s.1, l.2 || rr.2 || s.2))
    (out.map Conv.code, out.foldl (fun f c => f.or c.flags) .none)

/-- Input FTZ over a row of BF16 codes, with FLUSH (04 R132). -/
def ftzRow (on : Bool) (row : List Nat) : List Nat × NumFlags :=
  let o := row.map (ftzCode on .bf16)
  (o, .fl (o != row))

/-! ### Queries and visibility (07 R220, R221) -/

/-- A query record's POS, SEG, TIDX. -/
def qPos (d : Device) (p : Nat) (r : AttnRec) (m : Nat) : Nat := d.psLE p (r.qrec + 16 * m) 4
def qSeg (d : Device) (p : Nat) (r : AttnRec) (m : Nat) : Nat := d.psLE p (r.qrec + 16 * m + 4) 4
def qIdx (d : Device) (p : Nat) (r : AttnRec) (m : Nat) : Nat := d.psLE p (r.qrec + 16 * m + 8) 4

/-- Query row m as the array receives it, and the flags of its loading. -/
def queryRow (d : Device) (p : Nat) (x : MxD) (r : AttnRec) (m : Nat) : List Nat × NumFlags :=
  let raw := (List.range x.k).map (fun i => d.psLE p (x.aAddr + m * x.aStride + 2 * i) 2)
  let a := rotateRow d p r x.rope (qPos d p r m) raw
  let b := ftzRow x.ftzA a.1
  (b.1, a.2.or b.2)

/-- A listed page: its index, its KV block, its token block. -/
structure PageRef where
  idx : Nat
  blk : Nat
  tok : Nat
deriving DecidableEq, Repr

def pageRefs (d : Device) (p : Nat) (r : AttnRec) : List PageRef :=
  (List.range r.count).map (fun i =>
    { idx := d.psLE p (r.list + 16 * i) 4, blk := d.psLE p (r.list + 16 * i + 4) 4, tok := d.psLE p (r.list + 16 * i + 8) 4 })

/-- Whether slot s of a page is visible to query m (07 R220). -/
def visible (d : Device) (p : Nat) (r : AttnRec) (g : PageRef) (m s : Nat) : Bool :=
  decide (s < kvCount d p g.blk) && (!r.causal || decide (256 * g.idx + s ≤ qIdx d p r m))
    && (!r.segEn || d.psLE p (g.tok + 8 * s + 4) 4 == qSeg d p r m)

/-! ### Checks (07 R207) -/

/-- Checks of an ATTN descriptor. FMT_OUT, RMODE, M, N, K, RS and the rest are read only where the mode reads them. -/
def attnChecks (d : Device) (p : Nat) (x : MxD) : Nat :=
  let h := auxHdr d p x.aux
  let r := x.attn d p
  let outs := decide (r.mode < 2)
  let att := r.mode == 0
  let keyed := r.mode != 1
  let qs := att || r.mode == 2
  let apd := r.mode == 3
  let pages := if att then pageRefs d p r else []
  let int4 := r.kvfmt == 9
  let mmax := if apd then 64 else 32
  let newD := apd && x.clr
  let cnt := if newD then 0 else kvCount d p r.list
  firstFail [
    (badFmt x.fmtA || badFmt x.fmtB || (outs && (badFmt x.fmtOut || decide (4 < x.rmode))) || x.draw == 3 || x.sparse == 3
      || (att && x.rs == 3) || x.cs == 3 || x.rsv || h.rsv || r.rsv
      || (List.range pages.length).any (fun i => d.psLE p (r.list + 16 * i + 12) 4 != 0)
      || (qs && (List.range x.m).any (fun m => d.psLE p (r.qrec + 16 * m + 12) 4 != 0)), stReserved),
    ((r.mode != 2 && x.n == 0) || (outs && x.rmode == 4 && h.rowLen == 0), stZeroSize),
    (x.fA != .bf16 || x.fB != .bf16, stFormatPair),
    (x.cs != 0 || x.bias || x.kbsA || x.kbsB || x.wkeep || x.zbc || x.sparse != 0 || x.draw != 0 || x.heritage
      || (r.mode != 2 && x.clrAfter && !x.wb), stOptionFormat),
    (outs && !x.fOut.isOut, stOutFormat),
    (decide (mmax < x.m) || (outs && decide (64 < x.lbase + 2 * x.m)) || (r.mode != 2 && decide (255 < x.n))
      || (keyed && decide (128 < x.k)) || (x.k0 != 0 && x.k0 % 8 == 0) || bits h.ebase 63 50 != 0
      || ((att || apd) && int4 && (x.k % 32 != 0 || x.n % 32 != 0))
      || pages.any (fun g => kvD d p g.blk != x.k || kvDv d p g.blk != x.n || decide (16383 < g.idx))
      || (apd && !newD && (kvD d p r.list != x.k || kvDv d p r.list != x.n))
      || (apd && (decide (16383 < r.page) || decide (256 < cnt + x.m)))
      || (r.mode == 2 && decide (16383 < r.page + (r.count - 1)) && r.count != 0)
      || (keyed && decide (x.k < 2 * r.pairs)) || (r.mode == 2 && decide (256 < r.pc))
      || (qs && (List.range x.m).any (fun m => decide (4194303 < qIdx d p r m))), stRange),
    (x.k0 % 8 != 0, stKAlign),
    ([h.ext, r.list, r.qrec, r.freq, r.rowrec, r.out2, r.kin, r.vin, r.inStride].any (fun a => a % 32 != 0), stAlign)]

/-! ### Row states (07 R211, R218) -/

/-- A row record, and the row state it carries. -/
def RowState.pack (r : RowState) : Nat :=
  ofSigned 17 r.m * 2 ^ 15 + r.minRel % 128 * 2 ^ 8 + b2n r.ovfRow * 16 + b2n r.nanRow * 8 + b2n r.floor * 4 + b2n r.empty * 2
def RowState.unpack (w : Nat) : RowState :=
  { m := toSigned 17 (bits w 31 15), minRel := bits w 14 8, ovfRow := bitOf w 4, nanRow := bitOf w 3, floor := bitOf w 2
    empty := bitOf w 1, attn := true }



def Pan.setRow (p : Pan) (e : Nat) (r : RowState) : Pan := { p with arr := { p.arr with rows := smSet {} p.arr.rows e r } }

/-- FLOOR set on a row, counted once (07 R214). -/
def Pan.floorRow (p : Pan) (e : Nat) : Pan :=
  if (p.row e).floor then p
  else { p.setRow e { p.row e with floor := true } with counts := { p.counts with attnFloor := satAdd p.counts.attnFloor 1 } }

/-- Columns 0 to n of an entry shifted right by k, counted as one row shift (07 R211, R233). -/
def Pan.shiftRow (p : Pan) (e n k : Nat) : Pan :=
  let q := (List.range (n + 1)).foldl (fun q c =>
    let v := q.entry e c
    q.setEntry e c { v with l := sar v.l k }) p
  { q with counts := { q.counts with attnShift := satAdd q.counts.attnShift 1 } }

/-- Entries cleared by a descriptor of OP ATTN: attention entries stay such (07 R208). -/
def Pan.clearKeep (pan : Pan) (lbase m : Nat) : Pan :=
  (List.range m).foldl (fun q i =>
    let c := q.clearEntry (lbase + i)
    if (q.row (lbase + i)).attn then c.setRow (lbase + i) { attn := true } else c) pan

/-- Check 12 of 04 R120 for an ATTEND or MERGE: it would run passes or adds into a heritage entry that it does not clear (03 R548). -/
def attnHeritage (pan : Pan) (x : MxD) (r : AttnRec) : Bool :=
  decide (r.mode < 2) && !x.clr && r.count != 0 && (List.range x.m).any (fun m => (List.range (x.n + 1)).any (fun c =>
    (smGet ({} : LEntry) pan.arr.ledger (256 * (x.lbase + m) + c)).heritage.isSome))

/-- The start of an ATTEND or MERGE: CLR, the attention mark, PRESET (07 R208, R215). -/
def attnStart (d : Device) (p : Nat) (x : MxD) (r : AttnRec) : Pan :=
  let pan := d.panAt p
  let pan := if x.clr then pan.clearKeep x.lbase x.m else pan
  (List.range x.m).foldl (fun q m =>
    let e := x.lbase + m
    let q := q.setRow e { q.row e with attn := true }
    if r.preset then q.setRow e { q.row e with m := (RowState.unpack (d.psLE p (r.rowrec + 4 * m) 4)).m } else q) pan

/-! ### ATTEND -/

/-- The raising of a row's maximum to mt (07 R211). -/
def raiseMax (p : Pan) (e n : Nat) (mt : Int) : Pan :=
  let r := p.row e
  if r.m = -65536 then p.setRow e { r with m := mt }
  else if r.m < mt then
    let dm := (mt - r.m).toNat
    if !r.empty && decide (96 < r.minRel + dm) then
      let q := p.floorRow e
      q.setRow e { q.row e with m := mt }
    else if r.floor then p.setRow e { r with m := mt }
    else
      let q := p.shiftRow e n dm
      q.setRow e { r with m := mt, minRel := if r.empty then 0 else r.minRel + dm }
  else p

/-- The weight of a kept score against the row's maximum (07 R201, R211): its FP32 code and −rel; none past 96 binades. -/
def weightOf (t : Val) (m : Int) : Option (Nat × Nat) :=
  let x := floorScaled t 30
  let nk := sar x 30
  let f := (x - nk * 2 ^ 30).toNat
  let rel := nk - m
  if rel < -96 then none
  else some (fp32Of (match fp32V (fp32Of (.fin false (exp2Core f) (-30))) with
    | .fin s a e => .fin s a (e + rel)
    | v => v), (-rel).toNat)

/-- A page as a row needs it: for each visible slot, the score. -/
def pageScores (d : Device) (p : Nat) (x : MxD) (r : AttnRec) (g : PageRef) (q : List Nat) (keys : List (List Nat)) (m : Nat) :
    List (Nat × Conv × Nat) :=
  let a := x.auxMap
  (List.range 256).filterMap (fun s =>
    if visible d p r g m s then
      let prod := List.zip (q.map (decodeVal .bf16)) ((nthD [] keys s).map (decodeVal .bf16))
      let e := (splitEvery 8 x.k prod).foldl (fun acc ps =>
        let y := promotePart .bf16 acc.1 ps (some 0, false)
        (y.1, acc.2 + y.2)) (({} : LEntry), 0)
      let w := e.1.writeBack (scaleVal d p x.rs (x.aux + a.rs) m) (keyScale d p r.kvfmt g.blk x.k x.n s) none .fp32 .rne false 0
      some (s, w.conv, e.2)
    else none)

/-- The value product of a row: the weighted keys of a page into column c (07 R212): hi by R79 and R80, mid and lo by R98. -/
def valueColumn (ws : List (Nat × Nat)) (val : Nat → Nat) (e : LEntry) : LEntry × Nat :=
  let chunk := fun (i : Nat) => ws.filter (fun w => w.1 / 8 == i)
  (List.range 32).foldl (fun acc i =>
    let ps := (chunk i).map (fun w => (pieces w.2, decodeVal .bf16 (val w.1)))
    if ps.isEmpty then acc
    else
      let h := promotePart .bf16 acc.1 (ps.map (fun q => (q.1.1, q.2))) (some 0, false)
      let m := promoteTerm h.1 (ps.filterMap (fun q => q.1.2.map (fun y => (y.1, q.2))))
      let l := promoteTerm m.1 (ps.filterMap (fun q => q.1.2.map (fun y => (y.2, q.2))))
      (l.1, acc.2 + h.2 + m.2 + l.2)) (e, 0)

/-- One row's share of one page (07 R211, R212). -/
def pageRow (d : Device) (p : Nat) (x : MxD) (r : AttnRec) (g : PageRef) (q : List Nat) (keys vals : List (List Nat × NumFlags)) (m : Nat)
    (pan : Pan) : Pan :=
  let e := x.lbase + m
  let sc := pageScores d p x r g q (keys.map Prod.fst) m
  let ts := sc.map (fun s => (s.1, fp32V s.2.1.code))
  let pan := sc.foldl (fun pan s => pan.raise (s.2.1.flags.or (nthD ([], .none) keys s.1).2)) pan
  let pan := { pan with counts := { pan.counts with spill := satAdd pan.counts.spill (sumNat (sc.map (fun (s : Nat × Conv × Nat) => s.2.2))) } }
  let high := fun (v : Val) => !v.isNan && !ltVal v (.fin false (2 ^ 15) 0)
  let rs := pan.row e
  let pan := pan.setRow e { rs with
    nanRow := rs.nanRow || ts.any (fun t => t.2.isNan), ovfRow := rs.ovfRow || ts.any (fun t => high t.2) }
  let kept := ts.filter (fun t => !t.2.isNan && !high t.2 && !ltVal t.2 (.fin true (2 ^ 15) 0))
  match kept with
  | [] => pan
  | k :: _ =>
    let pan := raiseMax pan e x.n (kept.foldl (fun a t => max a (ceilVal t.2)) (ceilVal k.2))
    let rs := pan.row e
    if rs.floor then pan
    else
      let ws := kept.filterMap (fun t => (weightOf t.2 rs.m).map (fun w => (t.1, w)))
      if ws.isEmpty then pan
      else
        let pan := (pan.setRow e { rs with minRel := ws.foldl (fun a w => max a w.2.2) rs.minRel, empty := false }).raise
          (ws.foldl (fun f w => f.or (nthD ([], .none) vals w.1).2) .none)
        (List.range (x.n + 1)).foldl (fun pan c =>
          let v := valueColumn (ws.map (fun w => (w.1, w.2.1))) (fun s => if c = x.n then 0x3F80 else nthD 0 (nthD ([], .none) vals s).1 c) (pan.entry e c)
          let pan := pan.setEntry e c v.1
          { pan with counts := { pan.counts with spill := satAdd pan.counts.spill v.2 } }) pan

/-- One page for every row: its keys and values are loaded once (07 R212, R227). The flags of a key's loading count when the key is visible to a
row, and those of its values when it forms products there (07 R203, R210). -/
def attendPage (d : Device) (p : Nat) (x : MxD) (r : AttnRec) (qs : List (List Nat)) (pan : Pan) (g : PageRef) : Pan :=
  let n := kvCount d p g.blk
  let wk := (List.range n).map (fun s => (List.range x.k).map (widenKey d p r.kvfmt g.blk x.k x.n s))
  let rk := wk.zipIdx.map (fun q => rotateRow d p r x.rope (d.psLE p (g.tok + 8 * q.2) 4) (q.1.map Conv.code))
  let keys := (List.zip wk rk).map (fun q =>
    let z := ftzRow x.ftzB q.2.1
    (z.1, ((q.1.map Conv.flags).foldl NumFlags.or q.2.2).or z.2))
  let wv := (List.range n).map (fun s => (List.range x.n).map (widenValue d p r.kvfmt g.blk x.k x.n s))
  let vals := wv.map (fun q =>
    let z := ftzRow x.ftzB (q.map Conv.code)
    (z.1, (q.map Conv.flags).foldl NumFlags.or z.2))
  (List.range x.m).foldl (fun pan m => pageRow d p x r g (nthD [] qs m) keys vals m pan) pan

/-- The body of ATTEND (07 R208 to R213): the score entries are left cleared. -/
def attendBody (d : Device) (p : Nat) (x : MxD) (r : AttnRec) : Pan :=
  let qs := (List.range x.m).map (queryRow d p x r)
  let pan := (attnStart d p x r).raise (qs.foldl (fun f q => f.or q.2) .none)
  let pan := pan.clearKeep (x.lbase + x.m) x.m
  (pageRefs d p r).foldl (attendPage d p x r (qs.map Prod.fst)) pan

/-! ### MERGE (07 R216, R217) -/

/-- The address of record (m, c) of a partial of M rows. -/
def partialRec (base rows m c : Nat) : Nat := base + roundUp (4 * rows) 32 + 76 * (256 * m + c)

/-- What the record check of a merge finds: the first malformed record, or the first residue that does not match. -/
def mergeRecordFault (d : Device) (p : Nat) (x : MxD) (r : AttnRec) : Option (Cause × Nat) :=
  let bad := (List.range r.count).flatMap (fun i =>
    let base := d.psLE p (r.list + 4 * i) 4
    (List.range x.m).flatMap (fun m =>
      if (RowState.unpack (d.psLE p (base + 4 * m) 4)).empty then []
      else (List.range (x.n + 1)).filterMap (fun c =>
        match takeRecord (d.psRead p (partialRec base x.m m c) 76) with
        | none => some (Cause.ledgerRec, 0x0703)
        | some q => if residueOk q.1 then none else some (Cause.recover, 0))))
  bad.head?

/-- One contribution to a row: its state, shifted to M', added (07 R217). `add` adds the shifted records. -/
def mergeOne (e : Nat) (mNew : Int) (c : RowState) (add : Nat → Pan → Pan) (pan : Pan) : Pan :=
  let pan := if c.floor then pan.floorRow e else pan
  let rs := pan.row e
  if rs.floor || c.empty then pan
  else
    let sh := (mNew - c.m).toNat
    if 96 < c.minRel + sh then pan.floorRow e
    else
      let q := add sh pan
      let q := q.setRow e { q.row e with minRel := max (q.row e).minRel (c.minRel + sh), empty := false }
      if sh = 0 then q else { q with counts := { q.counts with attnShift := satAdd q.counts.attnShift 1 } }

/-- The merge of one row. -/
def mergeRow (d : Device) (p : Nat) (x : MxD) (r : AttnRec) (pan : Pan) (m : Nat) : Pan :=
  let e := x.lbase + m
  let own := pan.row e
  let bases := (List.range r.count).map (fun i => d.psLE p (r.list + 4 * i) 4)
  let cs := bases.map (fun b => (b, RowState.unpack (d.psLE p (b + 4 * m) 4)))
  let mNew := cs.foldl (fun a c => max a c.2.m) own.m
  let flagsOr := { own with m := own.m, nanRow := own.nanRow || cs.any (fun c => c.2.nanRow), ovfRow := own.ovfRow || cs.any (fun c => c.2.ovfRow), attn := true }
  let pan := pan.setRow e flagsOr
  let pan := mergeOne e mNew own (fun sh q =>
    if sh = 0 then q else (List.range (x.n + 1)).foldl (fun q c => q.setEntry e c { q.entry e c with l := sar (q.entry e c).l sh }) q) pan
  let pan := cs.foldl (fun pan c => mergeOne e mNew c.2 (fun sh q =>
    (List.range (x.n + 1)).foldl (fun q col =>
      match takeRecord (d.psRead p (partialRec c.1 x.m m col) 76) with
      | some k =>
        let part : LEntry := ({} : LEntry).packedAdd k.1
        q.setEntry e col ((q.entry e col).packedAdd (fullRecord { part with l := sar part.l sh }))
      | none => q) q) pan) pan
  pan.setRow e { pan.row e with m := mNew }

/-- The body of MERGE (07 R208, R217); its score entries are left cleared. -/
def mergeBody (d : Device) (p : Nat) (x : MxD) (r : AttnRec) : Pan :=
  (List.range x.m).foldl (mergeRow d p x r) ((attnStart d p x r).clearKeep (x.lbase + x.m) x.m)

/-! ### RAKE (07 R229 to R232) -/

/-- The bytes of a summary entry. -/
def summaryBytes (dk : Nat) : Nat := 32 + 4 * dk

/-- Whether summary entry j is eligible for query m (07 R230). -/
def eligible (d : Device) (p : Nat) (x : MxD) (r : AttnRec) (j m : Nat) : Bool :=
  let a := r.list + summaryBytes x.k * j
  d.psLE p a 2 != 0 && (!r.causal || decide (256 * (r.page + j) ≤ qIdx d p r m))
    && (!r.segEn || (decide (d.psLE p (a + 4) 4 ≤ qSeg d p r m) && decide (qSeg d p r m ≤ d.psLE p (a + 8) 4)))

/-- The bound of a page for a query (07 R231). -/
def pageBound (d : Device) (p : Nat) (x : MxD) (r : AttnRec) (q : List Nat) (j : Nat) : Val :=
  let a := r.list + summaryBytes x.k * j
  let ts := (List.range x.k).map (fun i =>
    let qv := decodeVal .bf16 (nthD 0 q i)
    let hi := (mulVal qv (decodeVal .bf16 (d.psLE p (a + 32 + 2 * i) 2))).1
    let lo := (mulVal qv (decodeVal .bf16 (d.psLE p (a + 32 + 2 * x.k + 2 * i) 2))).1
    if hi.isNan || hi.isInf || lo.isNan || lo.isInf then Val.inf false else if ltVal hi lo then lo else hi)
  if ts.any Val.isInf then .inf false else (sumVals ts).1

/-- The selection: sink, window, and the P best bounds of the rest, ascending (07 R232). -/
def rakeSelect (elig : List (Nat × Val)) (pc : Nat) : List Nat :=
  let win := (elig.drop (elig.length - 16)).map Prod.fst
  let fixed := fun (g : Nat) => g == 0 || win.contains g
  let rest := elig.filter (fun g => !fixed g.1)
  let best := (sortBy (fun a b => !ltVal a.2 b.2) rest).take pc
  (elig.filter (fun g => fixed g.1 || best.any (fun b => b.1 == g.1))).map Prod.fst

def rakeBody (d : Device) (p : Nat) (x : MxD) (r : AttnRec) : Device :=
  let qs := (List.range x.m).map (queryRow d p x r)
  let elig := (List.range r.count).filterMap (fun j =>
    let bs := qs.zipIdx.filterMap (fun q => if eligible d p x r j q.2 then some (pageBound d p x r q.1.1 j) else none)
    match bs with
    | [] => none
    | b :: rest => some (r.page + j, rest.foldl (fun a c => if ltVal a c then c else a) b))
  let sel := rakeSelect elig r.pc
  let d := d.updPan p (fun pan => pan.raise (qs.foldl (fun f q => f.or q.2) .none))
  d.psWrite p r.out2 (toLE 4 sel.length ++ sel.flatMap (toLE 4))

/-! ### APPEND (07 R226, R228, R229) -/

/-- The greatest magnitude of finite elements, NaN and infinities left out (07 R226). -/
def maxMag (vs : List Val) : Val :=
  vs.foldl (fun a v => match v with
    | .fin _ m e => if ltVal a (.fin false m e) then .fin false m e else a
    | _ => a) (.fin false 0 0)

/-- The scale of a group: a / q rounded up into BF16, or 1 (07 R226). -/
def kvScaleOf (a : Val) (q : Nat) : Nat :=
  match a with
  | .fin _ (m + 1) e => let f := pow2Frac e; (convertRat false ((m + 1) * f.1) (f.2 * q) .bf16 .rup false 0).code
  | _ => 0x3F80

/-- An element over its scale, converted (07 R226). -/
def quantOne (v : Val) (s : Nat) (f : Fmt) : Conv :=
  match v, decodeVal .bf16 s with
  | .fin sg m e, .fin _ (n + 1) g =>
    let k := pow2Frac (e - g)
    if m = 0 then { code := zeroCode f sg } else convertRat sg (m * k.1) (k.2 * (n + 1)) f .rne false 0
  | v, _ => convertVal v f .rne false false 0

/-- A token's row quantised: codes, scales, and the conversions. -/
def quantRow (fmt : Nat) (vs : List Val) : List Nat × List Nat × List Conv :=
  let f : Fmt := if fmt = 9 then .int4 else .e4m3
  let groups := if fmt = 9 then splitEvery 32 vs.length vs else [vs]
  let sc := groups.map (fun g => kvScaleOf (maxMag g) (if fmt = 9 then 7 else 448))
  let cs := (groups.zip sc).flatMap (fun g => g.1.map (fun v => quantOne v g.2 f))
  (cs.map Conv.code, sc, cs)

/-- The channel bound merged into a summary entry: maximum or minimum by 02 R56, the NaN result canonical. -/
def mergeBound (isMax : Bool) (old new : Nat) : Nat :=
  let a := (old, decodeVal .bf16 old)
  let b := (new, decodeVal .bf16 new)
  match (if isMax then pickMax a b else pickMin a b) with
  | some q => q.1
  | none => 0x7FC0

/-- One token appended at the page's COUNT (07 R228). -/
def appendToken (p : Nat) (x : MxD) (r : AttnRec) (d : Device) (i : Nat) : Device :=
  let slot := kvCount d p r.list
  let f : Fmt := if r.kvin = 1 then .bf16 else .fp32
  let get := fun (base n : Nat) => (List.range n).map (fun c =>
    decodeVal f (unpackAt f (fun b => d.psLE p (base + i * r.inStride + b) 1) c))
  let km := kvMap r.kvfmt x.k x.n
  let k := quantRow r.kvfmt (get r.kin x.k)
  let v := quantRow r.kvfmt (get r.vin x.n)
  let ef : Fmt := if r.kvfmt = 9 then .int4 else .e4m3
  let put := fun (d : Device) (eb sb n : Nat) (q : List Nat × List Nat × List Conv) =>
    let d := d.psWrite p (r.list + eb + slot * packedBytes ef n) (packCodes ef q.1)
    d.psWrite p (r.list + sb + slot * (2 * q.2.1.length)) (q.2.1.flatMap (toLE 2))
  let d := put d km.keys km.kscale x.k k
  let d := put d km.vals km.vscale x.n v
  let d := d.psWrite p r.list (toLE 2 (slot + 1))
  let d := d.updPan p (fun pan => (k.2.2 ++ v.2.2).foldl (fun pan c =>
    { pan.raise c.flags with counts := { (pan.raise c.flags).counts with sat := satAdd pan.counts.sat c.sat } }) pan)
  let row := (List.range x.k).map (fun c => (widenKey d p r.kvfmt r.list x.k x.n slot c).code)
  let rot := (rotateRow d p r x.rope (d.psLE p (r.qrec + 8 * slot) 4) row).1
  let sc := keyScale d p r.kvfmt r.list x.k x.n slot
  let o := r.out2
  let d := (List.range x.k).foldl (fun d c =>
    let y := (mulVal (decodeVal .bf16 (nthD 0 rot c)) sc).1
    let hi := (convertVal y .bf16 .rup false false 0).code
    let lo := (convertVal y .bf16 .rdn false false 0).code
    let a := o + 32 + 2 * c
    let b := o + 32 + 2 * x.k + 2 * c
    let sn := [d.psLE p a 2, d.psLE p b 2, hi, lo].any (fun w => (decodeVal .bf16 w).isSNan)
    let d := d.psWrite p a (toLE 2 (mergeBound true (d.psLE p a 2) hi))
    (d.psWrite p b (toLE 2 (mergeBound false (d.psLE p b 2) lo))).updPan p (fun pan => pan.raise (.inv sn))) d
  let seg := d.psRead p (r.qrec + 8 * slot + 4) 4
  let d := d.psWrite p o (toLE 2 (slot + 1))
  let d := if slot = 0 then d.psWrite p (o + 4) seg else d
  d.psWrite p (o + 8) seg

def appendBody (d : Device) (p : Nat) (x : MxD) (r : AttnRec) : Device :=
  let d := if x.clr then
      let d := d.psWrite p r.list ([0, 0, r.kvfmt, 0, x.k, x.n, 0, 0] ++ toLE 4 r.page ++ List.replicate 20 0)
      d.psWrite p r.out2 (List.replicate 32 0 ++ (List.replicate x.k [0x80, 0xFF]).flatten ++ (List.replicate x.k [0x80, 0x7F]).flatten)
    else d
  (List.range x.m).foldl (appendToken p x r) d

/-! ### The write-back of attention rows (07 R204 to R206) -/

/-- One output element of an attention row. A denominator of zero, which no ATTEND leaves, has no stated quotient: a free value. -/
def attnOne (d : Device) (x : MxD) (h : AuxHdr) (pan : Pan) (m n : Nat) : Written :=
  let st := pan.row (x.lbase + m)
  let e := pan.entry (x.lbase + m) n
  let den := (pan.entry (x.lbase + m) x.n).l
  let f := x.fOut
  let nan := convertVal (.nan false) f x.mode false x.ovfSp 0
  if st.nanRow then { value := .nan false, conv := { nan with flags := nan.flags.or { nanOut := true } } }
  else if st.ovfRow then { value := .nan false, conv := { nan with flags := nan.flags.or { nanOut := true, overflow := true } } }
  else if st.empty then { value := .fin false 0 0, conv := { code := zeroCode f (e.terms && (e.negz || x.mode == RMode.rdn)) } }
  else if e.nan || e.pinf || e.ninf then
    let v : Val := if e.nan || (e.pinf && e.ninf) then .nan false else .inf e.ninf
    { value := v, conv := convertVal v f x.mode false x.ovfSp 0 }
  else if e.l = 0 then { value := .fin false 0 0, conv := { code := zeroCode f (e.terms && (e.negz || x.mode == RMode.rdn)) } }
  else if den = 0 then { value := .fin false 0 0, conv := { code := Config.freeNat (d.free + 256 * m + n) % 2 ^ f.width } }
  else
    let neg := xor (decide (e.l < 0)) (decide (den < 0))
    let r := if x.rmode = 4 then pan.srWord h.tensor (h.ebase + m * h.rowLen + n) else 0
    let mag := convertRat false e.l.natAbs den.natAbs .fp32 .rup false 0
    { value := fp32V (if mag.flags.overflow then 0x7F7FFFFF else mag.code)
      conv := convertRat neg e.l.natAbs den.natAbs f x.mode x.ovfSp r }

/-- Write-back, EXPORT and CLR_AFTER of an ATTEND or MERGE descriptor, in that order (07 R204, R209). -/
def attnFinish (d : Device) (p : Nat) (x : MxD) (sel : AmaxSel) : Device :=
  let h := auxHdr d p x.aux
  let r := x.attn d p
  let pan := d.panAt p
  let src := d
  let d := if x.wb then
      (List.range x.m).foldl (fun d m =>
        if (pan.row (x.lbase + m)).floor then d else wbRow p x sel (attnOne src x h pan m) d m) { d with free := d.free + 16384 }
    else d
  let d := if r.exportRec then d.psWrite p r.rowrec ((List.range x.m).flatMap (fun m => toLE 4 (pan.row (x.lbase + m)).pack)) else d
  if x.clrAfter then d.updPan p (fun q => q.clearKeep x.lbase x.m) else d

/-! ### Starting an attention descriptor -/

/-- Bytes of a KV block (07 R225). -/
def kvBytes (fmt dk dv : Nat) : Nat := roundUp ((kvMap fmt dk dv).vscale + 256 * (if fmt = 9 then 2 * (dv / 32) else 2)) 32

/-- What an attention descriptor's checks read beside its header and record: the page list, the query records, the page headers. -/
def attnCheckSpans (d : Device) (p : Nat) (x : MxD) (r : AttnRec) : List (Nat × Nat) :=
  (if r.mode = 0 then (r.list, 16 * r.count) :: (pageRefs d p r).map (fun g => (g.blk, 32)) else [])
  ++ (if r.mode = 0 ∨ r.mode = 2 then [(r.qrec, 16 * x.m)] else [])
  ++ (if r.mode = 3 then [(r.list, 32)] else [])

/-- What an attention descriptor's work reads and writes in the pan store, its outputs apart: scales, row records, queries, frequencies, lists, pages,
token blocks, partials and summaries (06 R177). -/
def attnSpans (d : Device) (p : Nat) (x : MxD) (r : AttnRec) : List (Nat × Nat) :=
  let freq := if x.rope then [(r.freq, 8 * r.pairs)] else []
  let queries := (List.range x.m).map (fun m => (x.aAddr + m * x.aStride, 2 * x.k)) ++ freq
  (if r.preset ∧ r.mode < 2 then [(r.rowrec, 4 * x.m)] else [])
  ++ (match r.mode with
  | 0 => (x.aux + x.auxMap.rs, x.m * scaleWidth x.rs) :: queries
      ++ (pageRefs d p r).flatMap (fun g => [(g.blk, kvBytes r.kvfmt x.k x.n), (g.tok, 2048)])
  | 1 => (r.list, 4 * r.count) :: (List.range r.count).map (fun i => (d.psLE p (r.list + 4 * i) 4, partialRec 0 x.m x.m 0))
  | 2 => (r.list, summaryBytes x.k * r.count) :: (r.out2, 4 * (r.count + 1)) :: queries
  | _ => [(r.list, kvBytes r.kvfmt x.k x.n), (r.out2, summaryBytes x.k), (r.qrec, 2048)] ++ freq
      ++ (List.range x.m).flatMap (fun i => [(r.kin + i * r.inStride, 4 * x.k), (r.vin + i * r.inStride, 4 * x.n)]))

/-- Whether a held granule keeps an attention descriptor from what its checks and its work touch. -/
def attnHeld (d : Device) (p : Nat) (x : MxD) (r : AttnRec) : Bool :=
  (startSpans d p x x.tile ++ attnCheckSpans d p x r ++ attnSpans d p x r).any (fun s => (d.panAt p).holds s.1 s.2)

/-- The start of the ATTN descriptor of one mode at the head of the queue; `body` is its work. A parity hit, or a mismatch of a promotion or Ledger
update (`bad`), makes it wait with none of its effect (04 R133, R134; 06 R177). -/
def startAttn (d : Device) (p mode : Nat) (bad : Bool) (hit : Option Nat) (body : Device → MxD → AttnRec → Device) (after : DescPhase) : Device :=
  let pan := d.panAt p
  match d.headOn p with
  | some q =>
    let x := mxd q.words
    let r := x.attn d p
    if x.op = 3 ∧ q.phase = .waiting ∧ !pan.rerunning ∧ (r.mode = mode ∨ (mode = 0 ∧ 3 < r.mode)) then
      let st := attnChecks d p x
      d.panAccess p hit (startSpans d p x x.tile ++ attnCheckSpans d p x r ++ if st = 0 then attnSpans d p x r else []) (fun d =>
        if st ≠ 0 then d.updPan p (fun _ => pan.rejectHead q st)
        else if !x.ready pan || !d.arrayIssues p || decide (3 ≤ pan.arr.consec) then d
        else if x.m = 0 ∧ mode ≠ 3 then d.updPan p (fun _ => pan.rejectHead q stOk)
        else if attnHeritage pan x r then d.updPan p (fun _ => pan.rejectHead q stHeritageOrder)
        else if bad then d.updPan p Pan.mismatch
        else
          let d := body d x r
          d.updPan p (fun pan => (pan.setHead { q with phase := after, row := x.m }).attempted))
    else d
  | none => d

/-- ATTEND (07 R211): the pages of the list; write-back is WRITE_BACK's. `bad`: an attempt of one of its passes mismatches (04 R133, R134). -/
def execAttend (p : Fin 64) (bad : Bool) (hit : Option Nat) (s : State) : Host.Outcome State Fault Refusal :=
  onDev s (fun d => startAttn d p 0 bad hit (fun d x r => d.updPan p (fun _ => attendBody d p x r)) .passes)

/-- RAKE (07 R232). -/
def execRake (p : Fin 64) (hit : Option Nat) (s : State) : Host.Outcome State Fault Refusal :=
  onDev s (fun d => startAttn d p 2 false hit (fun d x r => rakeBody d p x r) .done)

/-- APPEND (07 R228). -/
def execAppend (p : Fin 64) (hit : Option Nat) (s : State) : Host.Outcome State Fault Refusal :=
  onDev s (fun d => startAttn d p 3 false hit (fun d x r => appendBody d p x r) .done)

/-! ### WRITE_BACK and the end of a descriptor -/

/-- Whether the head descriptor's passes have all promoted. -/
def Desc.passesDone (q : Desc) : Bool := q.phase == .passes && !((mxd q.words).op != 3 && q.passesLeft)

/-- Whether a descriptor whose passes are done still owes write-back or an export. -/
def owesFinish (d : Device) (p : Nat) (x : MxD) : Bool := x.wb || (x.op == 3 && (x.attn d p).exportRec)

/-- What a finish touches in the pan store: the outputs with what their conversion reads, and the row records of an EXPORT. -/
def finishSpans (d : Device) (p : Nat) (x : MxD) : List (Nat × Nat) :=
  let r := x.attn d p
  (if x.wb then outSpans x ++ (if x.op = 3 then [(x.aux, 32)] else wbReads x) else [])
    ++ (if x.op = 3 ∧ r.exportRec then [(r.rowrec, 4 * x.m)] else [])

/-- WRITE_BACK: the entries converted once, then CLR_AFTER (03 R93, R105; 04 R121; 07 R204). `hit` is a parity hit met by what it reads, or by a
word that a row's end merges into (06 R177). -/
def execWriteBack (p : Fin 64) (hit : Option Nat) (s : State) : Host.Outcome State Fault Refusal :=
  onDev s (fun d =>
    let pan := d.panAt p
    match d.headOn p with
    | some q =>
      let x := mxd q.words
      if q.passesDone && owesFinish d p x && !((finishSpans d p x).any (fun s => pan.holds s.1 s.2)) then
        d.panAccess p hit ((outSpans x).map tailWord ++ if x.op = 3 then [(x.aux, 32)] else wbReads x) (fun d =>
          let d := if x.op = 3 then attnFinish d p x q.amax
            else
              let d := writeBackRows d p x q.amax
              if x.clrAfter then d.updPan p (fun q => q.clearRows x.lbase x.m) else d
          d.updPan p (fun pan => pan.setHead { q with phase := .written }))
      else d
    | none => d)

/-- A status of a descriptor or copy command of a pan, of a place in the order of issue, noted at the step of the pan (04 R121; 15 R420). -/
def noteDescStatus (d : Device) (p seq st : Nat) : Device :=
  match (d.panAt p).job, (d.panAt p).step with
  | some (j, _), some n => d.updJob j (fun js => js.mapSteps (fun x => if x.num = n then x.noteStatus seq st else x))
  | _, _ => d

/-- DESCRIPTOR_COMPLETE: LAST_STATUS, SET_FLAG, and the queue entry frees (04 R121, R123). -/
def execDescriptorComplete (p : Fin 64) (s : State) : Host.Outcome State Fault Refusal :=
  onDev s (fun d =>
    match d.headOn p with
    | some q =>
      let x := mxd q.words
      if q.phase == .done || q.phase == .written || (q.passesDone && !owesFinish d p x) then
        let d := d.updPan p (fun pan =>
          let pan := { pan with arr := { pan.arr with queue := pan.arr.queue.drop 1, lastStatus := q.status } }
          if x.setEn then pan.setFlag x.setFlag else pan)
        if q.status = 0 then d else noteDescStatus d p q.seq q.status
      else d
    | none => d)

end Sys2Proof.Machine
end

