-- ==== Sys2Proof/Machine/Vector.lean ====
section
/-! DEFINITION. The vector engine: checks, elements, arithmetic, reductions, permutations, pan-store transfers, Ledger reads and adds,
and the scalar summary (05 R137 to R163, R551). -/
namespace Sys2Proof.Machine

/-- What an instruction of the pan core does: it completes, its core halts with a cause (05 R169), or it waits. -/
inductive PRes where
  | ok (d : Device)
  | halt (d : Device) (c : Cause) (status : Nat)
  | wait (d : Device)
deriving Repr

/-- The value of a pan-core register; x0 reads 0 (05 R140). -/
def Pan.xreg (p : Pan) (n : Nat) : Nat := if n = 0 then 0 else (vget 0 p.core.x (n - 1)).toNat

/-- The kinds of vector instruction that the checks tell apart (05 R143). -/
inductive VKind where
  | lanes (types : List Fmt)
  | cmp
  | cvt
  | perm
  | zbc
  | lrd
  | lxrd
  | lpadd
  | fence
deriving DecidableEq, Repr

/-- The types of 05 R138. -/
def vTypes : List Fmt := [.fp32, .bf16, .fp16, .e4m3, .e5m2, .int32, .int16, .int8]
def vFloats : List Fmt := [.fp32, .bf16, .fp16, .e4m3, .e5m2]
def vCvtTypes : List Fmt := vTypes ++ [.e2m1, .e2m3, .e3m2]
def vArith : List Fmt := [.fp32, .bf16, .fp16]
def vInts : List Fmt := [.int32, .int16, .int8]

/-- The width a count is limited by: 4-bit and 6-bit types count as 8 (05 R138). -/
def vWidth (f : Fmt) : Nat := max 8 f.width

/-- The greatest count for the widest type touched (05 R141). -/
def vLimit (w : Nat) : Nat := if w = 32 then 4096 else if w = 16 then 8192 else 16384

def vfD (v : VInsn) : Fmt := (Fmt.ofCode v.td).getD .int8
def vfS (v : VInsn) : Fmt := (Fmt.ofCode v.ts).getD .int8

/-- The first Ledger entry or the flag of bits [50:45] (05 R139). -/
def vIndex6 (v : VInsn) : Nat := (2 * v.va + v.vb / 16) % 64

/-- The count in force (05 R141, R142). -/
def vCount (v : VInsn) (p : Pan) : Nat := if v.lreg then p.vec.vlen else v.cnt

/-- The index type of a permutation (05 R152). -/
def permIndex (f : Fmt) : Fmt := if f.width = 32 then .int32 else .int16

/-- Whether a type pair is accepted (05 R143). -/
def vTypeOk (k : VKind) (v : VInsn) : Bool :=
  match k with
  | .lanes ts => ts.contains (vfD v)
  | .cmp => vTypes.contains (vfS v) && vInts.contains (vfD v) && (vfD v).width == (vfS v).width
  | .cvt => vCvtTypes.contains (vfD v) && vCvtTypes.contains (vfS v)
  | .perm => vTypes.contains (vfD v)
  | .zbc => [Fmt.bf16, .fp16, .e4m3, .e5m2, .int8].contains (vfD v)
  | .lrd => [Fmt.fp32, .bf16, .fp16, .e4m3, .e5m2, .int8, .int32].contains (vfD v)
  | .lxrd => (vfD v) == .int32
  | .lpadd => (vfS v) == .int32
  | .fence => true

/-- The greatest count of an instruction (05 R141). -/
def vMax (k : VKind) (v : VInsn) : Nat :=
  match k with
  | .lxrd | .lpadd => 215
  | .cvt => vLimit (max (vWidth (vfD v)) (vWidth (vfS v)))
  | .perm => vLimit (max (vWidth (vfD v)) (permIndex (vfD v)).width)
  | _ => vLimit (vWidth (vfD v))

/-- Whether the Ledger class reads past entry 63 (05 R149). -/
def lentBad (v : VInsn) (n : Nat) : Bool := decide (0 < n) && decide (63 < vIndex6 v + (n - 1) / 256)

/-- The first fault that an instruction's fields raise, in the order of 05 R169. -/
def vFault (k : VKind) (v : VInsn) (p : Pan) : Option (Cause × Nat) :=
  let conv := match k with | .cvt | .lrd => true | _ => false
  let tsFree := match k with | .cvt | .cmp | .lpadd => true | _ => false
  let ledger := match k with | .lrd | .lxrd | .lpadd => true | _ => false
  let noSum := match k with | .fence | .lpadd => true | _ => false
  if v.rsv != 0 || (!conv && v.rmode != 0) || decide (4 < v.rmode) || (!conv && v.ovfSp) || (!tsFree && v.td != v.ts)
      || badFmt v.td || badFmt v.ts || (ledger && v.vb % 16 != 0) || (noSum && v.sum)
      || (v.lreg && (v.cnt != 0 || !p.core.machine)) then some (.illegal, stReserved)
  else if !vTypeOk k v then some (.typ, stVectorType)
  else if k != .fence && decide (vMax k v < vCount v p) then some (.range, stRange)
  else if ledger && lentBad v (vCount v p) then some (.range, stRange)
  else none

/-! ### Register elements (05 R137, R138) -/

def vKey (r b : Nat) : Nat := 16384 * r + b

/-- Element i of a register. -/
def Pan.velem (p : Pan) (r : Nat) (f : Fmt) (i : Nat) : Nat := unpackAt f (fun b => bmGet p.vec.regs (vKey r b)) i

/-- The first n elements of a register. -/
def Pan.velems (p : Pan) (r : Nat) (f : Fmt) (n : Nat) : List Nat := (List.range n).map (p.velem r f)

/-- Elements written from element 0 of a register; the bytes beyond keep their contents (05 R137). -/
def Pan.vwrite (p : Pan) (r : Nat) (f : Fmt) (cs : List Nat) : Pan :=
  { p with vec := { p.vec with regs := bmWrite p.vec.regs (vKey r 0) (packCodes f cs) } }

/-! ### Summaries (05 R154 to R156) -/

/-- The summary of elements. -/
def summaryOf (f : Fmt) (cs : List Nat) : VSum × NumFlags :=
  let vs := cs.map (decodeVal f)
  let nan := (vs.filter Val.isNan).length
  let nz := (vs.filter (fun v => !v.isZero)).length
  if f.isInt then
    let xs := vs.map Val.sm
    let s := ofSigned 64 (sumInt xs)
    ({ max := ofSigned 32 (xs.foldl max (-2147483648)), min := ofSigned 32 (xs.foldl min 2147483647), sum := s % 2 ^ 32, sumHi := s / 2 ^ 32
       allZero := nz == 0, nz := nz, nan := 0, fp := false }, .none)
  else
    let ps := vs.map (fun v => (fp32Of v, v))
    let fold := fun (g : Nat × Val → Nat × Val → Option (Nat × Val)) (dflt : Nat) =>
      match ps.filter (fun p => !p.2.isNan) with
      | [] => if ps.isEmpty then dflt else nan32
      | q :: r => (r.foldl (fun a b => (g a b).getD a) q).1
    let s := rne32 (sumVals vs)
    ({ max := fold pickMax 0xFF800000, min := fold pickMin 0x7F800000, sum := s.1, sumHi := 0, allZero := nz == 0, nz := nz, nan := nan },
      s.2.or (.inv (vs.any Val.isSNan)))

/-- Flags of a vector instruction (05 R156). -/
def Pan.vflags (p : Pan) (f : NumFlags) : Pan := { p with vec := { p.vec with flags := p.vec.flags.or f } }

/-- The summary taken when asked for. -/
def Pan.summarise (p : Pan) (on : Bool) (f : Fmt) (cs : List Nat) : Pan :=
  if on then let s := summaryOf f cs; { p.vflags s.2 with vec := { (p.vflags s.2).vec with vsum := s.1 } } else p

/-! ### Lane operations -/

/-- FTZ acts on BF16, FP16, E4M3 and E5M2 alone (02 R62, 05 R139). -/
def vFtz (v : VInsn) (f : Fmt) : Bool := v.ftz && [Fmt.bf16, .fp16, .e4m3, .e5m2].contains f

/-- An operand element as a value after input FTZ. -/
def vIn (v : VInsn) (f : Fmt) (c : Nat) : Val × Bool := ftzIn (vFtz v f) f (decodeVal f c)

/-- The exact result of a floating-point operation rounded into TD under RNE with output FTZ (05 R144). -/
def vOut (v : VInsn) (f : Fmt) (x : Val × Bool) (fl : Bool) : Conv :=
  let c := convertVal x.1 f .rne (vFtz v f) false 0
  { c with flags := (c.flags.or (.inv x.2)).or (.fl fl) }

/-- The lane operations of two or three sources; `d` is the destination's element on entry. -/
inductive LaneOp where
  | add | sub | mul | fma | min | max | abs | neg | cpsgn
  | iadd | isub | imul | band | bor | bxor | sll | srl | sra | imin | imax
  | sel | mov
deriving DecidableEq, Repr

/-- A minimum or maximum of 02 R56 as a conversion. -/
def pickConv (v : VInsn) (f : Fmt) (g : Nat × Val → Nat × Val → Option (Nat × Val)) (a b : Val × Bool) : Conv :=
  let sn := a.1.isSNan || b.1.isSNan
  match g (0, a.1) (0, b.1) with
  | some q => vOut v f (q.2, sn) (a.2 || b.2)
  | none => vOut v f (.nan false, sn) (a.2 || b.2)

/-- One lane. -/
def lane (o : LaneOp) (v : VInsn) (f : Fmt) (ca cb cd : Nat) : Conv :=
  let a := vIn v f ca
  let b := vIn v f cb
  let d := vIn v f cd
  let w := f.width
  let ia := toSigned w ca
  let ib := toSigned w cb
  match o with
  | .add => vOut v f (addVal a.1 b.1 false) (a.2 || b.2)
  | .sub => vOut v f (addVal a.1 (negVal b.1) false) (a.2 || b.2)
  | .mul => vOut v f (mulVal a.1 b.1) (a.2 || b.2)
  | .fma =>
    let m := mulVal a.1 b.1
    let s := addVal m.1 d.1 false
    vOut v f (s.1, m.2 || s.2 || d.1.isSNan) (a.2 || b.2 || d.2)
  | .min => pickConv v f pickMin a b
  | .max => pickConv v f pickMax a b
  | .abs => vOut v f (match a.1 with | .fin _ m e => .fin false m e | .inf _ => .inf false | x => x, false) a.2
  | .neg => vOut v f (negVal a.1, false) a.2
  | .cpsgn => vOut v f (match a.1 with
      | .fin _ m e => if b.1.isNan then .nan b.1.isSNan else .fin b.1.isNeg m e
      | .inf _ => if b.1.isNan then .nan b.1.isSNan else .inf b.1.isNeg
      | .nan s => .nan (s || b.1.isSNan), false) (a.2 || b.2)
  | .iadd => { code := ofSigned w (ia + ib) }
  | .isub => { code := ofSigned w (ia - ib) }
  | .imul => { code := ofSigned w (ia * ib) }
  | .band => { code := Nat.land ca cb }
  | .bor => { code := Nat.lor ca cb }
  | .bxor => { code := Nat.xor ca cb }
  | .sll => { code := (ca <<< (cb % w)) % 2 ^ w }
  | .srl => { code := ca >>> (cb % w) }
  | .sra => { code := ofSigned w (sar ia (cb % w)) }
  | .imin => { code := ofSigned w (Min.min ia ib) }
  | .imax => { code := ofSigned w (Max.max ia ib) }
  | .sel => { code := if cd ≠ 0 then ca else cb }
  | .mov => { code := ca }

/-- The pan after a vector instruction that wrote codes into VD: the register, the flags, the summary. -/
def Pan.vdone (p : Pan) (v : VInsn) (f : Fmt) (cs : List Conv) : Pan :=
  ((p.vwrite v.vd f (cs.map Conv.code)).vflags (cs.foldl (fun a c => a.or c.flags) .none)).summarise v.sum f (cs.map Conv.code)

/-- Whether a kind runs on the lane unit, whose issue a droop skip holds (05 R143; 17 R466). -/
def VKind.onLanes : VKind → Bool
  | .lanes _ | .cmp | .cvt | .perm => true
  | _ => false

/-- A vector instruction on one pan: the checks, then its work on the pan for the count in force. -/
def vRun (d : Device) (p : Nat) (k : VKind) (v : VInsn) (body : Pan → Nat → PRes) : PRes :=
  let pan := d.panAt p
  match vFault k v pan with
  | some c => .halt d c.1 c.2
  | none => if k.onLanes && pan.droopSkip != 0 then .wait d else body pan (vCount v pan)

/-- A lane operation on whole registers. -/
def vLanes (d : Device) (p : Nat) (o : LaneOp) (ts : List Fmt) (v : VInsn) : PRes :=
  vRun d p (.lanes ts) v (fun pan n =>
    let f := (vfD v)
    let cs := (List.range n).map (fun i => lane o v f (pan.velem v.va f i) (pan.velem v.vb f i) (pan.velem v.vd f i))
    .ok (d.updPan p (fun _ => pan.vdone v f cs)))

/-- VBCAST, VIOTA (05 R143). -/
def vBcast (d : Device) (p : Nat) (v : VInsn) : PRes :=
  vRun d p (.lanes vTypes) v (fun pan n =>
    .ok (d.updPan p (fun _ => pan.vdone v (vfD v) (List.replicate n { code := pan.xreg v.va % 2 ^ (vfD v).width }))))
def vIota (d : Device) (p : Nat) (v : VInsn) : PRes :=
  vRun d p (.lanes [.int32, .int16]) v (fun pan n =>
    .ok (d.updPan p (fun _ => pan.vdone v (vfD v) ((List.range n).map (fun i => { code := i % 2 ^ (vfD v).width })))))

/-- A quiet comparison (02 R57). -/
def vCompare (d : Device) (p : Nat) (test : Val → Val → Bool) (v : VInsn) : PRes :=
  vRun d p .cmp v (fun pan n =>
    let f := (vfS v)
    .ok (d.updPan p (fun _ => pan.vdone v (vfD v) ((List.range n).map (fun i =>
      let a := vIn v f (pan.velem v.va f i)
      let b := vIn v f (pan.velem v.vb f i)
      { code := b2n (!a.1.isNan && !b.1.isNan && test a.1 b.1)
        flags := { invalid := a.1.isSNan || b.1.isSNan, flush := a.2 || b.2 } })))))

/-- VCVT (05 R145; 10 R273). -/
def vCvt (d : Device) (p : Nat) (v : VInsn) : PRes :=
  vRun d p .cvt v (fun pan n =>
    let m := (RMode.ofCode v.rmode).getD .rne
    let ws := (List.range n).map (fun i =>
      let a := vIn v (vfS v) (pan.velem v.va (vfS v) i)
      let r := if m = .sr then pan.srWord pan.vec.tensor (pan.vec.ebase + i) else 0
      let c := convertVal a.1 (vfD v) m (vFtz v (vfD v)) v.ovfSp r
      (a.1, { c with flags := c.flags.or (.fl a.2) }))
    let pan' := ws.foldl (fun q w => q.record pan.sel w.1 w.2 (vfD v)) pan
    .ok (d.updPan p (fun _ => pan'.vdone v (vfD v) (ws.map Prod.snd))))

/-- A defined function over FP32, BF16 or FP16 elements (05 R157). -/
def vFunction (d : Device) (p : Nat) (fn : Nat → FnRes) (v : VInsn) : PRes :=
  vRun d p (.lanes vArith) v (fun pan n =>
    let f := (vfD v)
    .ok (d.updPan p (fun _ => pan.vdone v f ((List.range n).map (fun i =>
      let a := vIn v f (pan.velem v.va f i)
      let y := fn (match a.1 with | .nan s => if s then 0x7FA00000 else nan32 | x => fp32Of x)
      let c := convertVal (fp32V y.code) f .rne (vFtz v f) false 0
      { c with flags := c.flags.or { invalid := y.invalid, overflow := y.overflow, flush := a.2 } })))))

/-! ### Segments and permutations (05 R146, R152, R153) -/

/-- The reductions. -/
inductive SegOp where
  | sum | max | min
deriving DecidableEq, Repr

/-- One segment. -/
def segment (o : SegOp) (v : VInsn) (f : Fmt) (cs : List Nat) : Conv :=
  let vs := cs.map (vIn v f)
  let fl := vs.any Prod.snd
  if f.isInt then
    let xs := cs.map (toSigned f.width)
    match o, xs with
    | .sum, xs => convertVal (.ofInt (sumInt xs)) f .rne false false 0
    | .max, x :: r => { code := ofSigned f.width (r.foldl Max.max x) }
    | .min, x :: r => { code := ofSigned f.width (r.foldl Min.min x) }
    | _, [] => { code := 0 }
  else match o with
  | .sum => vOut v f (sumVals (vs.map Prod.fst)) fl
  | _ =>
    let sn := vs.any (fun x => x.1.isSNan)
    match (vs.map Prod.fst).filter (fun x => !x.isNan) with
    | [] => vOut v f (.nan false, sn) fl
    | x :: r =>
      vOut v f (r.foldl (fun a b => ((if o = .max then pickMax (0, a) (0, b) else pickMin (0, a) (0, b)).getD (0, a)).2) x, sn) fl

def vSegment (d : Device) (p : Nat) (o : SegOp) (v : VInsn) : PRes :=
  vRun d p (.lanes vTypes) v (fun pan n =>
    let g := pan.xreg v.vb
    if g = 0 then .halt d .zeroSize stZeroSize
    else .ok (d.updPan p (fun _ => pan.vdone v (vfD v) ((splitEvery g n (pan.velems v.va (vfD v) n)).map (segment o v (vfD v))))))

def vPerm (d : Device) (p : Nat) (v : VInsn) : PRes :=
  vRun d p .perm v (fun pan n =>
    let f := (vfD v)
    let ix := permIndex f
    let is := (List.range n).map (fun i => toSigned ix.width (pan.velem v.vb ix i))
    let bad := fun (i : Int) => decide (i < 0) || decide ((n : Int) ≤ i)
    let q := pan.vdone v f (is.map (fun i => { code := if bad i then 0 else pan.velem v.va f i.toNat }))
    .ok (d.updPan p (fun _ => { q with vec := { q.vec with index := q.vec.index || is.any bad } })))

def vSlide (d : Device) (p : Nat) (down : Bool) (v : VInsn) : PRes :=
  vRun d p (.lanes vTypes) v (fun pan n =>
    let f := (vfD v)
    let s := pan.xreg v.vb
    .ok (d.updPan p (fun _ => pan.vdone v f ((List.range n).map (fun i =>
      { code := if down then (if i + s < n then pan.velem v.va f (i + s) else 0)
                else (if s ≤ i then pan.velem v.va f (i - s) else 0) })))))

def vRev (d : Device) (p : Nat) (v : VInsn) : PRes :=
  vRun d p (.lanes vTypes) v (fun pan n =>
    .ok (d.updPan p (fun _ => pan.vdone v (vfD v) ((List.range n).map (fun i => { code := pan.velem v.va (vfD v) (n - 1 - i) })))))

/-! ### Pan-store transfers (05 R147) -/

/-- An instruction that may meet a parity hit at a pan-store address: a hit in what it accesses is counted and holds its granule, and the instruction
waits (05 R147; 06 R177). -/
def withStoreHit (d : Device) (p : Nat) (hit : Option Nat) (f : Device → PRes) : PRes :=
  match hit with
  | none => f d
  | some a =>
    match f d, f (parityHit d p a) with
    | .ok _, .wait e => .wait e
    | r, _ => r

/-- The base and stride of VLD and VST; VB naming x0 selects the element width (05 R140). -/
def vBase (pan : Pan) (v : VInsn) : Nat × Nat := (pan.xreg v.va, if v.vb = 0 then (vfD v).width / 8 else pan.xreg v.vb)

/-- A count of 0 reads no memory, so no address of it can be misaligned (DEDUCED, 05 R141, R147; notes/assumptions/35.md). -/
def vMisaligned (pan : Pan) (v : VInsn) : Bool :=
  let b := vBase pan v
  vCount v pan != 0 && (b.1 % ((vfD v).width / 8) != 0 || b.2 % ((vfD v).width / 8) != 0)

def vLoad (d : Device) (p : Nat) (v : VInsn) : PRes :=
  vRun d p (.lanes vTypes) v (fun pan n =>
    let b := vBase pan v
    let w := (vfD v).width / 8
    if vMisaligned pan v then .halt d .align stAlign
    else if (List.range n).any (fun i => pan.holds (b.1 + i * b.2) w) then .wait d
    else .ok (d.updPan p (fun _ => pan.vdone v (vfD v) ((List.range n).map (fun i => { code := d.psLE p (b.1 + i * b.2) w })))))

def vStore (d : Device) (p : Nat) (v : VInsn) : PRes :=
  vRun d p (.lanes vTypes) v (fun pan n =>
    let b := vBase pan v
    let w := (vfD v).width / 8
    if vMisaligned pan v then .halt d .align stAlign
    else if (List.range n).any (fun i => pan.holds (b.1 + i * b.2) w) then .wait d
    else
      let cs := pan.velems v.vd (vfD v) n
      let d := cs.zipIdx.foldl (fun d q => d.psWrite p (b.1 + q.2 * b.2) (toLE w q.1)) d
      .ok (d.updPan p (fun pan => pan.summarise v.sum (vfD v) cs)))

/-- One unit of the compressed form: the mask, the stored blocks, the padding (04 R131). -/
def zbcUnitBytes (f : Fmt) (cs : List Nat) : List Nat :=
  let bl := splitEvery 16 cs.length cs
  let stored := bl.filter (fun b => b.any (· ≠ 0))
  let mask := sumNat (bl.zipIdx.map (fun b => if b.1.any (· ≠ 0) then 2 ^ b.2 else 0))
  let body := toLE 2 mask ++ stored.flatMap (fun b => packCodes f (b ++ List.replicate (16 - b.length) 0))
  body ++ List.replicate (roundUp body.length 4 - body.length) 0

def vZbc (d : Device) (p : Nat) (v : VInsn) : PRes :=
  vRun d p .zbc v (fun pan n =>
    let a := pan.xreg v.vb
    let cs := pan.velems v.va (vfD v) n
    let out := (splitEvery 256 n cs).flatMap (zbcUnitBytes (vfD v))
    if n ≠ 0 ∧ a % 4 ≠ 0 then .halt d .align stAlign
    else if pan.holds a out.length then .wait d
    else
      let d := d.psWrite p a out
      .ok (d.updPan p (fun pan =>
        let q := pan.vflags (.inv (cs.any (fun c => (decodeVal (vfD v) c).isSNan)))
        { q with vec := { q.vec with vsum := { (summaryOf (vfD v) cs).1 with sum := out.length, sumHi := 0 } } })))

/-! ### Ledger reads and adds (05 R149, R150) -/

/-- The entry and column of element i (05 R149). -/
def lentAt (v : VInsn) (i : Nat) : Nat × Nat := (vIndex6 v + i / 256, i % 256)

/-- The Ledger entries that a descriptor uses from LBASE: M, twice as many for an ATTEND or MERGE, none for a RAKE or APPEND (07 R207, R208). -/
def entriesOf (d : Device) (p : Nat) (x : MxD) : Nat :=
  if x.op = 3 then (if bits (d.psLE p (auxHdr d p x.aux).ext 4) 31 28 < 2 then 2 * x.m else 0) else x.m

/-- Whether an earlier descriptor of the pan may still act on an entry that the instruction names: the instruction waits for it
(03 R105, 05 R151). -/
def lentBusy (d : Device) (p : Nat) (v : VInsn) : Bool :=
  let pan := d.panAt p
  let n := vCount v pan
  n != 0 && pan.arr.queue.any (fun q =>
    let x := mxd q.words
    q.phase != .done && q.phase != .written && decide (x.lbase ≤ vIndex6 v + (n - 1) / 256) && decide (vIndex6 v < x.lbase + entriesOf d p x))

/-- A Ledger read or add once the earlier descriptors are done with its entries. -/
def lRun (d : Device) (p : Nat) (k : VKind) (v : VInsn) (f : Pan → Nat → PRes) : PRes :=
  vRun d p k v (fun pan n => if lentBusy d p v then .wait d else f pan n)

def vLrd (d : Device) (p : Nat) (v : VInsn) : PRes :=
  lRun d p .lrd v (fun pan n =>
    let es := (List.range n).map (fun i => pan.entry (lentAt v i).1 (lentAt v i).2)
    if (vfD v) != .fp32 && es.any (fun e => e.heritage.isSome) then .halt d .order stHeritageOrder
    else
      let m := (RMode.ofCode v.rmode).getD .rne
      let ws := es.zipIdx.map (fun q =>
        match q.1.heritage with
        | some h => (none, ({ code := h.acc.getD 0 } : Conv))
        | none =>
          let r := if m = .sr then pan.srWord pan.vec.tensor (pan.vec.ebase + q.2) else 0
          let w := writeBackNormal q.1 (.fin false 1 0) (.fin false 1 0) none (vfD v) m v.ovfSp r
          (some w.value, w.conv))
      let pan' := ws.foldl (fun q w => match w.1 with | some x => q.record pan.sel x w.2 (vfD v) | none => q) pan
      .ok (d.updPan p (fun _ => pan'.vdone v (vfD v) (ws.map Prod.snd))))

def vLxrd (d : Device) (p : Nat) (v : VInsn) : PRes :=
  lRun d p .lxrd v (fun pan n =>
    let es := (List.range n).map (fun i => pan.entry (lentAt v i).1 (lentAt v i).2)
    if es.any (fun e => e.heritage.isSome) then .halt d .order stHeritageOrder
    else .ok (d.updPan p (fun _ => pan.vdone v .int32 (es.flatMap (fun e => (fullRecord e).words.map (fun w => { code := w }))))))

/-- The adds of VLPADD, record by record: the pan after them, and what stopped them. -/
def lpadds (v : VInsn) (pan0 : Pan) : List Nat → Pan → Pan × Option (Cause × Nat)
  | [], pan => (pan, none)
  | j :: js, pan =>
    let bs := (List.range 19).flatMap (fun i => toLE 4 (pan0.velem v.vd .int32 (19 * j + i)))
    match takeRecord bs with
    | none => (pan, some (.ledgerRec, 0x0703))
    | some r =>
      if residueOk r.1 then
        let e := lentAt v j
        lpadds v pan0 js (pan.setEntry e.1 e.2 ((pan.entry e.1 e.2).packedAdd r.1))
      else (pan0, some (.recover, 0))

def vLpadd (d : Device) (p : Nat) (v : VInsn) : PRes :=
  lRun d p .lpadd v (fun pan n =>
    let es := (List.range n).map (lentAt v)
    if es.any (fun e => (pan.entry e.1 e.2).heritage.isSome) then .halt d .order stHeritageOrder
    else if es.any (fun e => (pan.row e.1).attn) then .halt d .order stAttnEntry
    else
      let r := lpadds v pan (List.range n) pan
      match r.2 with
      | none => .ok (d.updPan p (fun _ => r.1))
      | some c => .halt (d.updPan p (fun _ => r.1)) c.1 c.2)

/-- VFENCE: every earlier vector instruction is complete, so the flag is set (05 R143, R166). -/
def vFence (d : Device) (p : Nat) (v : VInsn) : PRes :=
  vRun d p .fence v (fun _ _ => .ok (d.updPan p (fun pan => pan.setFlag (vIndex6 v))))

end Sys2Proof.Machine
end

