-- ==== Sys2Proof/Machine/PanCore.lean ====
section
/-! DEFINITION. The pan core: memories, RV64IMC decoding and execution, CSRs, the Pan extension (05 R164 to R170). The base instruction
set is that of the RISC-V unprivileged specification (PRESUMED, notes/assumptions/14.md). -/
namespace Sys2Proof.Machine

/-! ### Registers and memories -/

/-- A register written; x0 discards (05 R140, R164). -/
def Pan.setX (p : Pan) (n v : Nat) : Pan :=
  if n = 0 then p else { p with core := { p.core with x := vmod p.core.x (n - 1) (fun _ => BitVec.ofNat 64 v) } }

/-- The pc moved on. -/
def Pan.setPc (p : Pan) (a : Nat) : Pan := { p with core := { p.core with pc := BitVec.ofNat 64 a } }
def Pan.pc (p : Pan) : Nat := p.core.pc.toNat

/-- The regions of 05 R164. -/
inductive CoreMem where
  | imem (off : Nat) | dmem (off : Nat) | store (off : Nat)
deriving DecidableEq, Repr

/-- Where n bytes at a core address lie; none outside. -/
def coreMem (a n : Nat) : Option CoreMem :=
  if a + n ≤ 0x20000 then some (.imem a)
  else if 0x100000 ≤ a ∧ a + n ≤ 0x110000 then some (.dmem (a - 0x100000))
  else if 0x10000000 ≤ a ∧ a + n ≤ 0x12000000 then some (.store (a - 0x10000000))
  else none

/-- A data read: its value; or a cause; none waits on a held granule. -/
def coreRead (d : Device) (p a n : Nat) : Option (Except Cause Nat) :=
  if a % n ≠ 0 then some (.error .align)
  else match coreMem a n with
  | some (.dmem o) => some (.ok (ofLE (bmRead (d.panAt p).core.dmem o n)))
  | some (.store o) => if (d.panAt p).holds o n then none else some (.ok (d.psLE p o n))
  | _ => some (.error .access)

/-- A data write. -/
def coreWrite (d : Device) (p a n v : Nat) : Option (Except Cause Device) :=
  if a % n ≠ 0 then some (.error .align)
  else match coreMem a n with
  | some (.dmem o) => some (.ok (d.updPan p (fun q => { q with core := { q.core with dmem := bmWrite q.core.dmem o (toLE n v) } })))
  | some (.store o) => if (d.panAt p).holds o n then none else some (.ok (d.psWrite p o (toLE n v)))
  | _ => some (.error .access)

/-- A cause's status (05 R169). -/
def Cause.status : Cause → Nat
  | .illegal => stReserved | .typ => stVectorType | .range => stRange | .zeroSize => stZeroSize | .align => stAlign
  | .access => stAddress | .order => stHeritageOrder | .ledgerRec => 0x0703 | .halo => 0x0708
  | _ => 0

/-- An instruction of len bytes whose effect on the device is known: the pc goes on. -/
def next (d : Device) (p len : Nat) (f : Pan → Pan) : PRes :=
  .ok (d.updPan p (fun q => (f q).setPc (q.pc + len)))

/-- A halt with the cause's own status. -/
def fault (d : Device) (c : Cause) : PRes := .halt d c c.status

/-- A vector instruction's answer as a core instruction: it is 8 bytes long. -/
def vNext (p : Nat) : PRes → PRes
  | .ok d => next d p 8 id
  | r => r

/-- An instruction of a pan program in its segment: one that the segment's re-run has reached again, else one more of it; `hit` is a parity hit that
it meets. -/
def inSegment (p : Nat) (hit : Bool) (f : Device → PRes) (d : Device) : PRes :=
  let q := d.panAt p
  match (if hit then none else q.core.trace[q.core.met]?) with
  | some s => .ok (d.updPan p (fun q => q.takeStep s))
  | none =>
    match f d with
    | .ok e => .ok (e.updPan p (fun r => if r.core.segNo = q.core.segNo then r.logStep else r))
    | r => r

/-! ### CSRs (05 R156, R167; 10 R274) -/

/-- The value of a CSR, and the pan after a read of it; none where the pan core has no such CSR or may not read it. -/
def csrRead (q : Pan) (n : Nat) : Option (Nat × Pan) :=
  let s := q.vec.vsum
  if n = 0x800 then some (q.vec.tensor, q)
  else if n = 0x801 then some (q.vec.ebase, q)
  else if n = 0x7C0 then (if q.core.machine then some (q.vec.vlen, q) else none)
  else if n = 0x808 then some (b2n q.sel.en * 2 ^ 31 + q.sel.slot, q)
  else if n = 0xCC0 then some (s.max, q)
  else if n = 0xCC1 then some (s.min, q)
  else if n = 0xCC2 then some (s.sum, q)
  else if n = 0xCC3 then some (s.sumHi, q)
  else if n = 0xCC4 then some (b2n s.allZero * 2 ^ 31 + s.nz % 2 ^ 15 * 2 ^ 16 + s.nan % 2 ^ 15, q)
  else if n = 0xCC5 then some ({ q.vec.flags with kblockRange := false }.toNat + 64 * b2n q.vec.index,
    { q with vec := { q.vec with flags := .none, index := false } })
  else if n = 0xCC6 then some (q.flags.toNat % 2 ^ 32, q)
  else if n = 0xCC7 then some (q.flags.toNat / 2 ^ 32, q)
  else if 0x810 ≤ n ∧ n < 0x850 then
    let a := nthD {} q.slots ((n - 0x810) / 4)
    some (nthD 0 [a.amax, a.sat, a.inf, a.nan] ((n - 0x810) % 4), q)
  else none

/-- A write of PAN_AMAX_SEL (10 R274). -/
def Pan.writeSel (q : Pan) (w : Nat) : Pan :=
  let q1 := if bitOf w 30 then { q with slots := modNth (fun _ => {}) q.slots (w % 16) } else q
  { q1 with sel := { en := bitOf w 31, slot := w % 16 } }

/-- The pan after a CSR write; none where it may not be written. A read-only register ignores writes (00 R14). -/
def csrWrite (q : Pan) (n v : Nat) : Option Pan :=
  if n = 0x800 then some { q with vec := { q.vec with tensor := v % 2 ^ 32 } }
  else if n = 0x801 then some { q with vec := { q.vec with ebase := v % 2 ^ 50 } }
  else if n = 0x7C0 then (if q.core.machine then some { q with vec := { q.vec with vlen := v % 2 ^ 15 } } else none)
  else if n = 0x808 then some (q.writeSel v)
  else if (0x810 ≤ n ∧ n < 0x850) ∨ (0xCC0 ≤ n ∧ n ≤ 0xCC7) then some q
  else none

/-! ### The Pan extension (05 R165) -/

/-- Whether an address is one a descriptor or a copy command may be issued from: 32-byte aligned, in the data memory or the pan-store
window. -/
def issueWords (d : Device) (p a : Nat) : Option (Except Cause (List Nat)) :=
  if a % 32 ≠ 0 then some (.error .align)
  else match coreMem a 32 with
  | some (.dmem o) => some (.ok ((List.range 8).map (fun i => ofLE (bmRead (d.panAt p).core.dmem (o + 4 * i) 4))))
  | some (.store o) => if (d.panAt p).holds o 32 then none else some (.ok ((List.range 8).map (fun i => d.psLE p (o + 4 * i) 4)))
  | _ => some (.error .access)

/-- MXD: the descriptor enters the queue, with the capture slot in force; it waits while the queue holds eight. -/
def mxdRun (d : Device) (p rs1 : Nat) : PRes :=
  match issueWords d p ((d.panAt p).xreg rs1) with
  | none => .wait d
  | some (.error c) => fault d c
  | some (.ok ws) =>
    if 8 ≤ (d.panAt p).arr.queue.length then .wait d
    else next d.issue.2 p 4 (fun q => { q with arr := { q.arr with queue := q.arr.queue ++ [{ words := ws, seq := d.issued, amax := q.sel }] } })

/-- The copy commands a pan has outstanding. -/
def copiesOf (d : Device) (p : Nat) : Nat :=
  ((d.engAt (p / 16)).copies.filter (fun c => c.issuer == .pan p)).length

/-- The next identifier of a Terrace's copy commands. -/
def nextCopyId (e : Engines) : Nat := e.copies.foldl (fun a c => max a (c.id + 1)) 0

/-- Whether an issuer's command may enter the queue: there is room, and no other issuer reached it earlier (06 R181). -/
def Engines.mayQueue (e : Engines) (i : Issuer) (job : Nat) : Bool :=
  decide (e.copies.length < 64) && (e.waiters.head? == none || e.waiters.head? == some (i, job))

/-- An issuer that waits for room, behind those that reached the queue before it. -/
def Engines.await (e : Engines) (i : Issuer) (job : Nat) : Engines :=
  { e with waiters := if e.waiters.contains (i, job) then e.waiters else e.waiters ++ [(i, job)] }

/-- A command in the queue; its issuer waits no longer. -/
def Engines.queueCopy (e : Engines) (i : Issuer) (job seq : Nat) (ws : List Nat) : Engines :=
  { e with copies := e.copies ++ [{ id := nextCopyId e, words := ws, issuer := i, seq := seq, job := job }], waiters := e.waiters.filter (· != (i, job)) }

/-- CPY: the command enters the Terrace's queue; it waits at eight outstanding of this pan, and in the order of arrival while the queue of 64 is
full (06 R181). -/
def cpyRun (d : Device) (p rs1 : Nat) : PRes :=
  match issueWords d p ((d.panAt p).xreg rs1) with
  | none => .wait d
  | some (.error c) => fault d c
  | some (.ok ws) =>
    let j := ((d.panAt p).job.map Prod.fst).getD 16
    if 8 ≤ copiesOf d p then .wait d
    else if (d.engAt (p / 16)).mayQueue (.pan p) j then next (d.issue.2.updEng (p / 16) (fun e => e.queueCopy (.pan p) j d.issued ws)) p 4 id
    else .wait (d.updEng (p / 16) (fun e => e.await (.pan p) j))

/-- A chain's table entry of a job (13 R367). -/
def chainEntry (d : Device) (j id : Nat) : Option (List Nat) := (d.jobAt j).setup.bind (fun u => u.prog.chain[id]?)

/-- A flag of a pan cleared: a chain whose LOCAL_FLAG it is waits for a local contribution anew (13 R366). -/
def Device.unflag (d : Device) (p f : Nat) : Device :=
  let mine := fun (c : ChainRun) => match chainEntry d c.job c.id with
    | some e => (d.panAt p).job == some (c.job, fieldAt e 12 1) && fieldAt e 15 1 == f
    | none => false
  ({ d with fab := { d.fab with chains := d.fab.chains.map (fun c => if mine c then { c with sent := false } else c) } } : Device).updPan p
    (fun q => q.clearFlag f)

/-- FSET, FCLR, FWAIT, FWAITC, FTEST. -/
def fsetRun (d : Device) (p f : Nat) : PRes := next d p 4 (fun q => q.setFlag f)
def fclrRun (d : Device) (p f : Nat) : PRes := next (d.unflag p f) p 4 id
/-- A segment that starts at a pc, with the registers as they stand (05 R170). -/
def Pan.segmentAt (q : Pan) (pc : BitVec 64) : Pan :=
  { q with
    segVec := q.vec, segSel := q.sel
    core := { q.core with segStart := pc, segX := q.core.x, segNo := q.core.segNo + 1, trace := [], met := 0, hits := 0 } }

/-- A wait that ends is a synchronisation point: a segment starts at the next instruction (05 R170, notes/assumptions/16.md). -/
def Pan.newSegment (q : Pan) : Pan := q.segmentAt (q.core.pc + 4)

def fwaitRun (d : Device) (p f : Nat) : PRes := if (d.panAt p).flag f then next d p 4 Pan.newSegment else .wait d
def fwaitcRun (d : Device) (p f : Nat) : PRes :=
  if (d.panAt p).flag f then next (d.unflag p f) p 4 Pan.newSegment else .wait d
def ftestRun (d : Device) (p rd f : Nat) : PRes := next d p 4 (fun q => q.setX rd (b2n (q.flag f)))

/-- The pan that an FSETR names: a logical pan of the job in user mode, a device pan in machine mode. -/
def fsetrTarget (d : Device) (p n : Nat) : Option Nat :=
  if (d.panAt p).core.machine then (if n < 64 then some n else none)
  else match (d.panAt p).job with
    | some (j, _) => (jobPans d j)[n]?
    | none => none

def fsetrRun (d : Device) (p rs1 f : Nat) : PRes :=
  match fsetrTarget d p ((d.panAt p).xreg rs1) with
  | some t => next (d.updPan t (fun q => q.setFlag f)) p 4 id
  | none => fault d .range

/-- SETVL (05 R142). -/
def setvlRun (d : Device) (p rd rs1 width : Nat) : PRes :=
  if !(d.panAt p).core.machine || decide (2 < width) then fault d .illegal
  else
    let v := min ((d.panAt p).xreg rs1) (vLimit (8 * 2 ^ width))
    next d p 4 (fun q => { q with vec := { q.vec with vlen := v } }.setX rd v)

/-- PDONE: a status of zero ends the program's work for the step; another raises PROGRAM. -/
def pdoneRun (d : Device) (p rs1 : Nat) : PRes :=
  let st := (d.panAt p).xreg rs1 % 65536
  if st ≠ 0 then .halt d .program st
  else next d p 4 (fun q => { q with core := { q.core with done := some st, running := false } })

/-- BSUM: a branch on the scalar summary. -/
def bsumRun (d : Device) (p cond : Nat) (off : Int) : PRes :=
  let v := (d.panAt p).vec
  let s := fp32V v.vsum.sum
  match (match cond with
    | 0 => some v.vsum.allZero
    | 1 => some (!v.vsum.allZero)
    | 2 => some (v.vsum.nan != 0)
    | 3 => some (v.vsum.nan == 0)
    | 4 => some (v.vsum.fp && (s.isNan || s.isInf))
    | 5 => some v.index
    | _ => none) with
  | none => fault d .illegal
  | some t => .ok (d.updPan p (fun q => q.setPc (ofSigned 64 ((q.pc : Int) + (if t then off else 4)))))

/-! ### Vector instructions by opcode (05 R139, R143) -/

/-- The fields of a 64-bit vector word. -/
def vFields (w : Nat) : VInsn :=
  { vd := bits w 55 51, va := bits w 50 46, vb := bits w 45 41, td := bits w 40 37, ts := bits w 36 33, rmode := bits w 32 30
    ftz := bitOf w 29, ovfSp := bitOf w 28, sum := bitOf w 27, lreg := bitOf w 26, rsv := bits w 25 22, cnt := bits w 21 7 }

/-- The instruction an opcode names. -/
def vOpcode (d : Device) (p opc : Nat) (v : VInsn) : PRes :=
  match opc with
  | 0x00 => vLanes d p .mov vTypes v
  | 0x01 => vCvt d p v
  | 0x02 => vBcast d p v
  | 0x03 => vIota d p v
  | 0x10 => vLanes d p .add vArith v
  | 0x11 => vLanes d p .sub vArith v
  | 0x12 => vLanes d p .mul vArith v
  | 0x13 => vLanes d p .fma vArith v
  | 0x14 => vLanes d p .min vFloats v
  | 0x15 => vLanes d p .max vFloats v
  | 0x16 => vLanes d p .abs vArith v
  | 0x17 => vLanes d p .neg vArith v
  | 0x18 => vLanes d p .cpsgn vArith v
  | 0x20 => vLanes d p .iadd vInts v
  | 0x21 => vLanes d p .isub vInts v
  | 0x22 => vLanes d p .imul vInts v
  | 0x23 => vLanes d p .band vInts v
  | 0x24 => vLanes d p .bor vInts v
  | 0x25 => vLanes d p .bxor vInts v
  | 0x26 => vLanes d p .sll vInts v
  | 0x27 => vLanes d p .srl vInts v
  | 0x28 => vLanes d p .sra vInts v
  | 0x29 => vLanes d p .imin vInts v
  | 0x2A => vLanes d p .imax vInts v
  | 0x30 => vCompare d p eqVal v
  | 0x31 => vCompare d p ltVal v
  | 0x32 => vCompare d p (fun a b => !ltVal b a) v
  | 0x33 => vLanes d p .sel vTypes v
  | 0x40 => vFunction d p exp2Fn v
  | 0x41 => vFunction d p log2Fn v
  | 0x42 => vFunction d p rcpFn v
  | 0x43 => vFunction d p rsqrtFn v
  | 0x44 => vFunction d p sqrtFn v
  | 0x45 => vFunction d p tanhFn v
  | 0x46 => vFunction d p sigmFn v
  | 0x47 => vFunction d p geluFn v
  | 0x50 => vSegment d p .sum v
  | 0x51 => vSegment d p .max v
  | 0x52 => vSegment d p .min v
  | 0x60 => vPerm d p v
  | 0x61 => vSlide d p true v
  | 0x62 => vSlide d p false v
  | 0x63 => vRev d p v
  | 0x70 => vLoad d p v
  | 0x71 => vStore d p v
  | 0x72 => vZbc d p v
  | 0x80 => vLrd d p v
  | 0x81 => vLxrd d p v
  | 0x82 => vLpadd d p v
  | 0x90 => vFence d p v
  | _ => fault d .illegal

/-! ### RV64IM -/

/-- Immediates of the base formats. -/
def immI (w : Nat) : Int := toSigned 12 (bits w 31 20)
def immS (w : Nat) : Int := toSigned 12 (bits w 31 25 * 32 + bits w 11 7)
def immB (w : Nat) : Int := toSigned 13 (b2n (bitOf w 31) * 4096 + b2n (bitOf w 7) * 2048 + bits w 30 25 * 32 + bits w 11 8 * 2)
def immU (w : Nat) : Int := toSigned 32 (bits w 31 12 * 4096)
def immJ (w : Nat) : Int := toSigned 21 (b2n (bitOf w 31) * 1048576 + bits w 19 12 * 4096 + b2n (bitOf w 20) * 2048 + bits w 30 21 * 2)

/-- A 64-bit wrap, and a 32-bit result sign-extended. -/
def w64 (x : Int) : Nat := ofSigned 64 x
def w32 (x : Int) : Nat := ofSigned 64 (toSigned 32 (ofSigned 32 x))

/-- Division and remainder of the M extension: a zero divisor gives −1 and the dividend. -/
def divM (a b : Int) : Int := if b = 0 then -1 else Int.tdiv a b
def remM (a b : Int) : Int := if b = 0 then a else Int.tmod a b

/-- OP and OP-IMM by funct3; `alt` is bit 30, `bw` the width 64 or 32. -/
def aluOp (f3 : Nat) (alt : Bool) (bw : Nat) (a b : Nat) : Nat :=
  let sa := toSigned bw a
  let sb := toSigned bw b
  let out : Int → Nat := if bw = 32 then w32 else w64
  let sh := b % bw
  match f3 with
  | 0 => out (if alt then sa - sb else sa + sb)
  | 1 => out ((a <<< sh : Nat) : Int)
  | 2 => b2n (decide (sa < sb))
  | 3 => b2n (decide (a < b))
  | 4 => Nat.xor a b
  | 5 => if alt then out (sar sa sh) else out (((a % 2 ^ bw) >>> sh : Nat) : Int)
  | 6 => Nat.lor a b
  | _ => Nat.land a b

/-- The M extension by funct3. -/
def mulOp (f3 bw : Nat) (a b : Nat) : Nat :=
  let sa := toSigned bw a
  let sb := toSigned bw b
  let ua : Int := ((a % 2 ^ bw : Nat) : Int)
  let ub : Int := ((b % 2 ^ bw : Nat) : Int)
  let out : Int → Nat := if bw = 32 then w32 else w64
  match f3 with
  | 0 => out (sa * sb)
  | 1 => out (sar (sa * sb) 64)
  | 2 => out (sar (sa * ub) 64)
  | 3 => out (sar (ua * ub) 64)
  | 4 => out (divM sa sb)
  | 5 => out (divM ua ub)
  | 6 => out (remM sa sb)
  | _ => out (remM ua ub)

/-- Branch conditions; none for the reserved codes. -/
def branchTaken (f3 a b : Nat) : Option Bool :=
  let sa := toSigned 64 a
  let sb := toSigned 64 b
  match f3 with
  | 0 => some (a == b) | 1 => some (a != b) | 4 => some (decide (sa < sb)) | 5 => some (!decide (sa < sb))
  | 6 => some (decide (a < b)) | 7 => some (!decide (a < b)) | _ => none

/-- SYSTEM: the CSR instructions; everything else is illegal (05 R164). -/
def systemRun (d : Device) (p len w : Nat) : PRes :=
  let q := d.panAt p
  let f3 := bits w 14 12
  let rd := bits w 11 7
  let rs := bits w 19 15
  let n := bits w 31 20
  let src := if 4 ≤ f3 then rs else q.xreg rs
  if f3 % 4 = 0 then fault d .illegal
  else
    let needRead := !(f3 % 4 == 1 && rd == 0)
    let needWrite := f3 % 4 == 1 || rs != 0
    match csrRead q n with
    | none => fault d .illegal
    | some r =>
      let q1 := if needRead then r.2 else q
      let new := match f3 % 4 with | 1 => src | 2 => Nat.lor r.1 src | _ => r.1 - Nat.land r.1 src
      if needWrite then
        match csrWrite q1 n new with
        | none => fault d .illegal
        | some q2 => next (d.updPan p (fun _ => q2)) p len (fun q => q.setX rd r.1)
      else next (d.updPan p (fun _ => q1)) p len (fun q => q.setX rd r.1)

/-- A load or store of the base set. -/
def loadRun (d : Device) (p len rd a n : Nat) (signed : Bool) : PRes :=
  match coreRead d p a n with
  | none => .wait d
  | some (.error c) => fault d c
  | some (.ok v) => next d p len (fun q => q.setX rd (if signed then w64 (toSigned (8 * n) v) else v))
def storeRun (d : Device) (p len a n v : Nat) : PRes :=
  match coreWrite d p a n v with
  | none => .wait d
  | some (.error c) => fault d c
  | some (.ok d) => next d p len id

/-- The Pan extension by its word (05 R165). -/
def customRun (d : Device) (p w : Nat) : PRes :=
  let f3 := bits w 14 12
  let hi := bits w 31 26
  let lo := bits w 25 20
  let rs1 := bits w 19 15
  let rd := bits w 11 7
  match f3, hi with
  | 0, 0 => if lo = 0 ∧ rd = 0 then mxdRun d p rs1 else fault d .illegal
  | 0, 1 => if lo = 0 ∧ rd = 0 then cpyRun d p rs1 else fault d .illegal
  | 1, 0 => if rs1 = 0 ∧ rd = 0 then fsetRun d p lo else fault d .illegal
  | 1, 1 => if rs1 = 0 ∧ rd = 0 then fclrRun d p lo else fault d .illegal
  | 1, 2 => if rs1 = 0 ∧ rd = 0 then fwaitRun d p lo else fault d .illegal
  | 1, 3 => if rs1 = 0 ∧ rd = 0 then fwaitcRun d p lo else fault d .illegal
  | 1, 4 => if rs1 = 0 then ftestRun d p rd lo else fault d .illegal
  | 1, 5 => if rd = 0 then fsetrRun d p rs1 lo else fault d .illegal
  | 2, 0 => setvlRun d p rd rs1 lo
  | 3, 0 => if lo = 0 ∧ rd = 0 then pdoneRun d p rs1 else fault d .illegal
  | _, _ => fault d .illegal

/-- A 32-bit instruction; `len` is 2 when it stands for a compressed one. -/
def wordRun (d : Device) (p len w : Nat) : PRes :=
  let q := d.panAt p
  let op := bits w 6 0
  let f3 := bits w 14 12
  let f7 := bits w 31 25
  let rd := bits w 11 7
  let a := q.xreg (bits w 19 15)
  let b := q.xreg (bits w 24 20)
  let put := fun (v : Nat) => next d p len (fun q => q.setX rd v)
  let goto := fun (t : Int) (link : Bool) =>
    PRes.ok (d.updPan p (fun q => (if link then q.setX rd (w64 (q.pc + len)) else q).setPc (w64 t)))
  match op with
  | 0x37 => put (w64 (immU w))
  | 0x17 => put (w64 (q.pc + immU w))
  | 0x6F => goto (q.pc + immJ w) true
  | 0x67 => if f3 = 0 then goto (((w64 (a + immI w)) / 2 * 2 : Nat) : Int) true else fault d .illegal
  | 0x63 => match branchTaken f3 a b with
    | some t => if t then goto (q.pc + immB w) false else next d p len id
    | none => fault d .illegal
  | 0x03 =>
    if f3 = 7 then fault d .illegal
    else loadRun d p len rd (w64 (a + immI w)) (2 ^ (f3 % 4)) (decide (f3 < 4))
  | 0x23 => if f3 < 4 then storeRun d p len (w64 (a + immS w)) (2 ^ f3) b else fault d .illegal
  | 0x13 =>
    let sh := bits w 25 20
    if f3 = 1 then (if bits w 31 26 = 0 then put (aluOp 1 false 64 a sh) else fault d .illegal)
    else if f3 = 5 then
      (if bits w 31 26 = 0 then put (aluOp 5 false 64 a sh) else if bits w 31 26 = 16 then put (aluOp 5 true 64 a sh) else fault d .illegal)
    else put (aluOp f3 false 64 a (w64 (immI w)))
  | 0x1B =>
    let sh := bits w 24 20
    if f3 = 0 then put (aluOp 0 false 32 a (w64 (immI w)))
    else if f3 = 1 ∧ f7 = 0 then put (aluOp 1 false 32 a sh)
    else if f3 = 5 ∧ f7 = 0 then put (aluOp 5 false 32 a sh)
    else if f3 = 5 ∧ f7 = 32 then put (aluOp 5 true 32 a sh)
    else fault d .illegal
  | 0x33 =>
    if f7 = 1 then put (mulOp f3 64 a b)
    else if f7 = 0 then put (aluOp f3 false 64 a b)
    else if f7 = 32 ∧ (f3 = 0 ∨ f3 = 5) then put (aluOp f3 true 64 a b)
    else fault d .illegal
  | 0x3B =>
    if f7 = 1 ∧ (f3 = 0 ∨ 4 ≤ f3) then put (mulOp f3 32 a b)
    else if f7 = 0 ∧ (f3 = 0 ∨ f3 = 1 ∨ f3 = 5) then put (aluOp f3 false 32 a b)
    else if f7 = 32 ∧ (f3 = 0 ∨ f3 = 5) then put (aluOp f3 true 32 a b)
    else fault d .illegal
  | 0x0F => if f3 = 0 then next d p len id else fault d .illegal
  | 0x73 => systemRun d p len w
  | 0x0B => customRun d p w
  | 0x2B => if bits w 24 15 = 0 then bsumRun d p f3 (immB w) else fault d .illegal
  | _ => fault d .illegal

/-! ### The C extension -/

/-- Words of the base formats. -/
def encI (imm : Int) (rs1 f3 rd op : Nat) : Nat := ofSigned 12 imm * 2 ^ 20 + rs1 * 2 ^ 15 + f3 * 2 ^ 12 + rd * 2 ^ 7 + op
def encR (f7 rs2 rs1 f3 rd op : Nat) : Nat := f7 * 2 ^ 25 + rs2 * 2 ^ 20 + rs1 * 2 ^ 15 + f3 * 2 ^ 12 + rd * 2 ^ 7 + op
def encS (imm rs2 rs1 f3 : Nat) : Nat := imm / 32 * 2 ^ 25 + rs2 * 2 ^ 20 + rs1 * 2 ^ 15 + f3 * 2 ^ 12 + imm % 32 * 2 ^ 7 + 0x23
def encB (imm : Int) (rs2 rs1 f3 : Nat) : Nat :=
  let u := ofSigned 13 imm
  b2n (bitOf u 12) * 2 ^ 31 + bits u 10 5 * 2 ^ 25 + rs2 * 2 ^ 20 + rs1 * 2 ^ 15 + f3 * 2 ^ 12 + bits u 4 1 * 2 ^ 8
    + b2n (bitOf u 11) * 2 ^ 7 + 0x63
def encJ (imm : Int) (rd : Nat) : Nat :=
  let u := ofSigned 21 imm
  b2n (bitOf u 20) * 2 ^ 31 + bits u 10 1 * 2 ^ 21 + b2n (bitOf u 11) * 2 ^ 20 + bits u 19 12 * 2 ^ 12 + rd * 2 ^ 7 + 0x6F

/-- The 32-bit instruction that a compressed one stands for; none where its encoding is reserved or of an absent extension. -/
def expandC (c : Nat) : Option Nat :=
  let f3 := bits c 15 13
  let rd := bits c 11 7
  let rs2 := bits c 6 2
  let rd' := 8 + bits c 4 2
  let rs1' := 8 + bits c 9 7
  let imm6 : Int := toSigned 6 (b2n (bitOf c 12) * 32 + rs2)
  let sh := b2n (bitOf c 12) * 32 + rs2
  let offW := bits c 12 10 * 8 + b2n (bitOf c 6) * 4 + b2n (bitOf c 5) * 64
  let offD := bits c 12 10 * 8 + bits c 6 5 * 64
  let jimm : Int := toSigned 12 (b2n (bitOf c 12) * 2048 + b2n (bitOf c 11) * 16 + bits c 10 9 * 256 + b2n (bitOf c 8) * 1024
    + b2n (bitOf c 7) * 64 + b2n (bitOf c 6) * 128 + bits c 5 3 * 2 + b2n (bitOf c 2) * 32)
  let bimm : Int := toSigned 9 (b2n (bitOf c 12) * 256 + bits c 11 10 * 8 + bits c 6 5 * 64 + bits c 4 3 * 2 + b2n (bitOf c 2) * 32)
  match c % 4, f3 with
  | 0, 0 =>
    let imm := bits c 12 11 * 16 + bits c 10 7 * 64 + b2n (bitOf c 6) * 4 + b2n (bitOf c 5) * 8
    if imm = 0 then none else some (encI imm 2 0 rd' 0x13)
  | 0, 2 => some (encI offW rs1' 2 rd' 0x03)
  | 0, 3 => some (encI offD rs1' 3 rd' 0x03)
  | 0, 6 => some (encS offW rd' rs1' 2)
  | 0, 7 => some (encS offD rd' rs1' 3)
  | 1, 0 => some (encI imm6 rd 0 rd 0x13)
  | 1, 1 => if rd = 0 then none else some (encI imm6 rd 0 rd 0x1B)
  | 1, 2 => some (encI imm6 0 0 rd 0x13)
  | 1, 3 =>
    if imm6 = 0 then none
    else if rd = 2 then
      some (encI (toSigned 10 (b2n (bitOf c 12) * 512 + b2n (bitOf c 6) * 16 + b2n (bitOf c 5) * 64 + bits c 4 3 * 128
        + b2n (bitOf c 2) * 32)) 2 0 2 0x13)
    else some (ofSigned 20 imm6 * 2 ^ 12 + rd * 2 ^ 7 + 0x37)
  | 1, 4 =>
    match bits c 11 10, bitOf c 12, bits c 6 5 with
    | 0, _, _ => some (encI sh rs1' 5 rs1' 0x13)
    | 1, _, _ => some (encI (1024 + sh) rs1' 5 rs1' 0x13)
    | 2, _, _ => some (encI imm6 rs1' 7 rs1' 0x13)
    | _, false, 0 => some (encR 32 rd' rs1' 0 rs1' 0x33)
    | _, false, 1 => some (encR 0 rd' rs1' 4 rs1' 0x33)
    | _, false, 2 => some (encR 0 rd' rs1' 6 rs1' 0x33)
    | _, false, _ => some (encR 0 rd' rs1' 7 rs1' 0x33)
    | _, true, 0 => some (encR 32 rd' rs1' 0 rs1' 0x3B)
    | _, true, 1 => some (encR 0 rd' rs1' 0 rs1' 0x3B)
    | _, true, _ => none
  | 1, 5 => some (encJ jimm 0)
  | 1, 6 => some (encB bimm 0 rs1' 0)
  | 1, 7 => some (encB bimm 0 rs1' 1)
  | 2, 0 => some (encI sh rd 1 rd 0x13)
  | 2, 2 => if rd = 0 then none else some (encI (b2n (bitOf c 12) * 32 + bits c 6 4 * 4 + bits c 3 2 * 64 : Nat) 2 2 rd 0x03)
  | 2, 3 => if rd = 0 then none else some (encI (b2n (bitOf c 12) * 32 + bits c 6 5 * 8 + bits c 4 2 * 64 : Nat) 2 3 rd 0x03)
  | 2, 4 =>
    if rs2 = 0 then (if rd = 0 then none else some (encI 0 rd 0 (b2n (bitOf c 12)) 0x67))
    else some (encR 0 rs2 (if bitOf c 12 then rd else 0) 0 rd 0x33)
  | 2, 6 => some (encS (bits c 12 9 * 4 + bits c 8 7 * 64) rs2 2 2)
  | 2, 7 => some (encS (bits c 12 10 * 8 + bits c 9 7 * 64) rs2 2 3)
  | _, _ => none

/-- One instruction at the pc (05 R164): the length by its low bits, then its work. A parity hit in a core memory or a vector
register raises RECOVER (05 R170). -/
def coreRun (d : Device) (p : Nat) (hit : Bool) : PRes :=
  let q := d.panAt p
  let a := q.pc
  let at' := fun (n : Nat) => ofLE (bmRead q.core.imem a n)
  if hit then .halt d .recover 0
  else if 0x20000 < a + 2 then fault d .access
  else
    let lo := at' 2
    if lo % 4 ≠ 3 then
      match expandC lo with
      | some w => wordRun d p 2 w
      | none => fault d .illegal
    else if lo % 32 ≠ 31 then (if 0x20000 < a + 4 then fault d .access else wordRun d p 4 (at' 4))
    else if lo % 128 = 63 then
      (if 0x20000 < a + 8 then fault d .access
       else let w := at' 8; vNext p (vOpcode d p (bits w 63 56) (vFields w)))
    else fault d .illegal

end Sys2Proof.Machine
end

