-- ==== Sys2Proof/Machine/Stages.lean ====
section
/-! DEFINITION. The end of a step's stages 7 and 8 on the device, the committed shard, and its undo copies (01 R36, R37; 16 R430;
18 R497). -/
namespace Sys2Proof.Machine

/-- A job of several members. -/
def JobSlot.multi (q : JobSlot) : Bool := match q.setup with | some u => decide (1 < u.topo.nmemb) | none => false

/-- The parameter blocks of a member: the buffers of kind STATE, in table order (06 R188; notes/assumptions/21.md). -/
def JobSlot.blocks (q : JobSlot) : List (Nat × Nat) :=
  match q.setup with
  | some u => (u.prog.bufs.filter (fun b => b.kind == 3)).map (fun b => (b.base, b.len))
  | none => []

/-- The bytes of every block, in order. -/
def Device.shardBytes (d : Device) (j : Nat) : List Nat := (d.jobAt j).blocks.flatMap (fun b => d.readN b.1 b.2)

/-- The shard digest: SHA-384 over the block digests (18 R497). -/
def Device.shardDigest (d : Device) (j : Nat) : List Nat := sha384 ((d.jobAt j).blocks.flatMap (fun b => sha384 (d.readN b.1 b.2)))

/-- Whether a line of a member's parameter blocks is held: it is read once it is regenerated (01 R39, R40). -/
def JobSlot.shardHeld (q : JobSlot) (d : Device) : Bool := q.blocks.any (fun b => heldAt d b.1 b.2)

/-- A step of a job changed. -/
def Device.updStep (d : Device) (j n : Nat) (f : Step → Step) : Device :=
  d.updJob j (fun q => q.mapSteps (fun x => if x.num = n then f x else x))

/-- The undo copies of a step taken, unless it has them (16 R430). -/
def Device.captureUndo (d : Device) (j n : Nat) : Device :=
  let cs := (d.jobAt j).blocks.map (fun b => (b.1, d.readN b.1 b.2))
  d.updStep j n (fun x => if x.undo.isEmpty then { x with undo := cs } else x)

/-- Whether a job's COMMIT mark for a step has fired and waits (14 R388, R389). -/
def commitMarked (d : Device) (j n : Nat) : Bool :=
  d.tide.entries.any (fun e => e.2.fired && e.2.action == 2 && e.2.job == j && e.2.step == n)

/-- Whether a snapshot of an earlier step has fired and not yet read its blocks: stage 8 waits for that (16 R436). -/
def snapshotDue (d : Device) (j n : Nat) : Bool :=
  d.tide.entries.any (fun e => e.2.fired && e.2.action == 7 && e.2.job == j && decide (e.2.step < n))

/-- Whether every micro-batch of a step has been started. A step without micro-batches is started once, for its part in the reductions and in
stage 8 of a job of several members (11 R302); in a job of one member nothing waits for that, since no sample remains (10 R284). -/
def Step.dispatchedAll (st : Step) (multi : Bool) : Bool :=
  st.packDone && st.mbs.all (fun m => m.dispatched) && (st.started || (st.mbs.isEmpty && !multi))

/-- Whether a pan has ended its program of a step, or works on a later one. -/
def panPast (d : Device) (n p : Nat) : Bool :=
  match (d.panAt p).step with
  | some k => if k = n then (d.panAt p).core.done == some 0 else decide (n < k) && decide (k < batchBase)
  | none => false

/-- Whether the pans have done their work of a step: everything of it started, and no pan of the job still in the step or before it. A step
that was never started has none. -/
def workDone (d : Device) (j : Nat) (st : Step) : Bool :=
  st.dispatchedAll (d.jobAt j).multi && (!st.started || (jobPans d j).all (panPast d st.num))

/-- Whether stages 7 and 8 of a step are complete: the pans have done their work, and no snapshot has still to read what stage 8 writes (16 R436). -/
def stagesDone (d : Device) (j : Nat) (st : Step) : Bool := !snapshotDue d j st.num && workDone d j st

/-- The pans of a job, resident or saved. -/
def jobPanStates (d : Device) (j : Nat) : List Pan :=
  match (d.jobAt j).saved with
  | some sv => sv.pans.map Prod.snd
  | none => (pansOf d j).map d.panAt

/-- The capture slots of a job's pans, by logical pan. -/
def jobSlotsOf (d : Device) (j : Nat) : List (Nat × List AmaxSlot) := (jobPanStates d j).map (fun p => ((p.job.map Prod.snd).getD 0, p.slots))

/-- The capture slots of a step, with those of pans that it has none of yet: a pan that goes on to the next step leaves its own first (10 R274). -/
def Step.capture (st : Step) (cs : List (Nat × List AmaxSlot)) : Step :=
  { st with cap := st.cap ++ cs.filter (fun c => !st.cap.any (fun y => y.1 == c.1)) }

/-- The oldest step without its stages complete takes them when they are; the next step's undo copies are taken then, before its stage 8
(16 R430). -/
def Device.settleStages (d : Device) (j : Nat) : Device :=
  match (d.jobAt j).steps.find? (fun x => !x.stages) with
  | some st =>
    if stagesDone d j st then
      let d1 := d.updStep j st.num (fun x => { x.capture (jobSlotsOf d j) with stages := true })
      match (d1.jobAt j).steps.find? (fun x => decide (st.num < x.num) && x.started) with
      | some nx => d1.captureUndo j nx.num
      | none => d1
    else d
  | none => d

/-- Every step whose stages are complete takes them, in step order. -/
def Device.settleAll (d : Device) (j : Nat) : Device := (d.jobAt j).steps.foldl (fun e _ => e.settleStages j) d

/-- Whether a detected fault waits in data of a job: in a buffer of its program or in a store of its pans. Its step does not commit until that is resolved
(01 R40). -/
def JobSlot.dataHeld (q : JobSlot) (d : Device) (j : Nat) : Bool :=
  (match q.setup with | some u => u.prog.bufs.any (fun b => heldAt d b.base b.len) | none => false)
    || (pansOf d j).any (fun p => !(d.panAt p).held.isEmpty)

end Sys2Proof.Machine
end

