-- ==== Sys2Proof/Machine/PanExec.lean ====
section
/-! DEFINITION. The vector instructions and the Pan extension as commands: each runs on its pan core as the instruction at the pc
(05 R139, R143, R165). -/
namespace Sys2Proof.Machine

/-- A pan core that takes instructions: its pan runs, it has not halted, it does not stall on a redo gate, and its program has not ended its step
(05 R165, R169; 10 R278). -/
def coreReady (d : Device) (p : Nat) : Bool :=
  d.panOn p && (d.panAt p).core.halt.isNone && (d.panAt p).core.done.isNone && !(d.panAt p).gated

/-- What an instruction's answer leaves: a wait changes nothing, a fault halts the core (05 R169). -/
def settle (p : Nat) : PRes → Device
  | .ok d => d
  | .wait d => d
  | .halt d c st => d.panFault p c st

/-- A core instruction; `hit` is a parity hit that it meets in a core memory or a vector register (05 R170). -/
def Device.runCore (d : Device) (p : Nat) (f : Device → PRes) (hit : Bool := false) : Device :=
  if coreReady d p then settle p (inSegment p hit f d) else d

/-- A vector instruction: 8 bytes long, and held by a droop skip (17 R466). -/
def Device.runLane (d : Device) (p : Nat) (f : Device → PRes) : Device :=
  if coreReady d p && (d.panAt p).droopSkip == 0 then settle p (inSegment p false (fun d => vNext p (f d)) d) else d

def execVmov (p : Fin 64) (v : VInsn) (s : State) : Host.Outcome State Fault Refusal :=
  onDev s (fun d => d.runLane p (fun d => vLanes d p .mov vTypes v))
def execVcvt (p : Fin 64) (v : VInsn) (s : State) : Host.Outcome State Fault Refusal :=
  onDev s (fun d => d.runLane p (fun d => vCvt d p v))
def execVbcast (p : Fin 64) (v : VInsn) (s : State) : Host.Outcome State Fault Refusal :=
  onDev s (fun d => d.runLane p (fun d => vBcast d p v))
def execViota (p : Fin 64) (v : VInsn) (s : State) : Host.Outcome State Fault Refusal :=
  onDev s (fun d => d.runLane p (fun d => vIota d p v))
def execVadd (p : Fin 64) (v : VInsn) (s : State) : Host.Outcome State Fault Refusal :=
  onDev s (fun d => d.runLane p (fun d => vLanes d p .add vArith v))
def execVsub (p : Fin 64) (v : VInsn) (s : State) : Host.Outcome State Fault Refusal :=
  onDev s (fun d => d.runLane p (fun d => vLanes d p .sub vArith v))
def execVmul (p : Fin 64) (v : VInsn) (s : State) : Host.Outcome State Fault Refusal :=
  onDev s (fun d => d.runLane p (fun d => vLanes d p .mul vArith v))
def execVfma (p : Fin 64) (v : VInsn) (s : State) : Host.Outcome State Fault Refusal :=
  onDev s (fun d => d.runLane p (fun d => vLanes d p .fma vArith v))
def execVmin (p : Fin 64) (v : VInsn) (s : State) : Host.Outcome State Fault Refusal :=
  onDev s (fun d => d.runLane p (fun d => vLanes d p .min vFloats v))
def execVmax (p : Fin 64) (v : VInsn) (s : State) : Host.Outcome State Fault Refusal :=
  onDev s (fun d => d.runLane p (fun d => vLanes d p .max vFloats v))
def execVabs (p : Fin 64) (v : VInsn) (s : State) : Host.Outcome State Fault Refusal :=
  onDev s (fun d => d.runLane p (fun d => vLanes d p .abs vArith v))
def execVneg (p : Fin 64) (v : VInsn) (s : State) : Host.Outcome State Fault Refusal :=
  onDev s (fun d => d.runLane p (fun d => vLanes d p .neg vArith v))
def execVcpsgn (p : Fin 64) (v : VInsn) (s : State) : Host.Outcome State Fault Refusal :=
  onDev s (fun d => d.runLane p (fun d => vLanes d p .cpsgn vArith v))
def execViadd (p : Fin 64) (v : VInsn) (s : State) : Host.Outcome State Fault Refusal :=
  onDev s (fun d => d.runLane p (fun d => vLanes d p .iadd vInts v))
def execVisub (p : Fin 64) (v : VInsn) (s : State) : Host.Outcome State Fault Refusal :=
  onDev s (fun d => d.runLane p (fun d => vLanes d p .isub vInts v))
def execVimul (p : Fin 64) (v : VInsn) (s : State) : Host.Outcome State Fault Refusal :=
  onDev s (fun d => d.runLane p (fun d => vLanes d p .imul vInts v))
def execVand (p : Fin 64) (v : VInsn) (s : State) : Host.Outcome State Fault Refusal :=
  onDev s (fun d => d.runLane p (fun d => vLanes d p .band vInts v))
def execVor (p : Fin 64) (v : VInsn) (s : State) : Host.Outcome State Fault Refusal :=
  onDev s (fun d => d.runLane p (fun d => vLanes d p .bor vInts v))
def execVxor (p : Fin 64) (v : VInsn) (s : State) : Host.Outcome State Fault Refusal :=
  onDev s (fun d => d.runLane p (fun d => vLanes d p .bxor vInts v))
def execVsll (p : Fin 64) (v : VInsn) (s : State) : Host.Outcome State Fault Refusal :=
  onDev s (fun d => d.runLane p (fun d => vLanes d p .sll vInts v))
def execVsrl (p : Fin 64) (v : VInsn) (s : State) : Host.Outcome State Fault Refusal :=
  onDev s (fun d => d.runLane p (fun d => vLanes d p .srl vInts v))
def execVsra (p : Fin 64) (v : VInsn) (s : State) : Host.Outcome State Fault Refusal :=
  onDev s (fun d => d.runLane p (fun d => vLanes d p .sra vInts v))
def execVimin (p : Fin 64) (v : VInsn) (s : State) : Host.Outcome State Fault Refusal :=
  onDev s (fun d => d.runLane p (fun d => vLanes d p .imin vInts v))
def execVimax (p : Fin 64) (v : VInsn) (s : State) : Host.Outcome State Fault Refusal :=
  onDev s (fun d => d.runLane p (fun d => vLanes d p .imax vInts v))
def execVcmpeq (p : Fin 64) (v : VInsn) (s : State) : Host.Outcome State Fault Refusal :=
  onDev s (fun d => d.runLane p (fun d => vCompare d p eqVal v))
def execVcmplt (p : Fin 64) (v : VInsn) (s : State) : Host.Outcome State Fault Refusal :=
  onDev s (fun d => d.runLane p (fun d => vCompare d p ltVal v))
def execVcmple (p : Fin 64) (v : VInsn) (s : State) : Host.Outcome State Fault Refusal :=
  onDev s (fun d => d.runLane p (fun d => vCompare d p (fun a b => !ltVal b a) v))
def execVsel (p : Fin 64) (v : VInsn) (s : State) : Host.Outcome State Fault Refusal :=
  onDev s (fun d => d.runLane p (fun d => vLanes d p .sel vTypes v))
def execVexp2 (p : Fin 64) (v : VInsn) (s : State) : Host.Outcome State Fault Refusal :=
  onDev s (fun d => d.runLane p (fun d => vFunction d p exp2Fn v))
def execVlog2 (p : Fin 64) (v : VInsn) (s : State) : Host.Outcome State Fault Refusal :=
  onDev s (fun d => d.runLane p (fun d => vFunction d p log2Fn v))
def execVrcp (p : Fin 64) (v : VInsn) (s : State) : Host.Outcome State Fault Refusal :=
  onDev s (fun d => d.runLane p (fun d => vFunction d p rcpFn v))
def execVrsqrt (p : Fin 64) (v : VInsn) (s : State) : Host.Outcome State Fault Refusal :=
  onDev s (fun d => d.runLane p (fun d => vFunction d p rsqrtFn v))
def execVsqrt (p : Fin 64) (v : VInsn) (s : State) : Host.Outcome State Fault Refusal :=
  onDev s (fun d => d.runLane p (fun d => vFunction d p sqrtFn v))
def execVtanh (p : Fin 64) (v : VInsn) (s : State) : Host.Outcome State Fault Refusal :=
  onDev s (fun d => d.runLane p (fun d => vFunction d p tanhFn v))
def execVsigm (p : Fin 64) (v : VInsn) (s : State) : Host.Outcome State Fault Refusal :=
  onDev s (fun d => d.runLane p (fun d => vFunction d p sigmFn v))
def execVgelu (p : Fin 64) (v : VInsn) (s : State) : Host.Outcome State Fault Refusal :=
  onDev s (fun d => d.runLane p (fun d => vFunction d p geluFn v))
def execVsegsum (p : Fin 64) (v : VInsn) (s : State) : Host.Outcome State Fault Refusal :=
  onDev s (fun d => d.runLane p (fun d => vSegment d p .sum v))
def execVsegmax (p : Fin 64) (v : VInsn) (s : State) : Host.Outcome State Fault Refusal :=
  onDev s (fun d => d.runLane p (fun d => vSegment d p .max v))
def execVsegmin (p : Fin 64) (v : VInsn) (s : State) : Host.Outcome State Fault Refusal :=
  onDev s (fun d => d.runLane p (fun d => vSegment d p .min v))
def execVperm (p : Fin 64) (v : VInsn) (s : State) : Host.Outcome State Fault Refusal :=
  onDev s (fun d => d.runLane p (fun d => vPerm d p v))
def execVslidedn (p : Fin 64) (v : VInsn) (s : State) : Host.Outcome State Fault Refusal :=
  onDev s (fun d => d.runLane p (fun d => vSlide d p true v))
def execVslideup (p : Fin 64) (v : VInsn) (s : State) : Host.Outcome State Fault Refusal :=
  onDev s (fun d => d.runLane p (fun d => vSlide d p false v))
def execVrev (p : Fin 64) (v : VInsn) (s : State) : Host.Outcome State Fault Refusal :=
  onDev s (fun d => d.runLane p (fun d => vRev d p v))
/-- VST; a store of elements below 32 bits merges into the words it writes, which may meet a parity hit (06 R177). -/
def execVst (p : Fin 64) (v : VInsn) (hit : Option Nat) (s : State) : Host.Outcome State Fault Refusal :=
  onDev s (fun d => d.runLane p (fun d => withStoreHit d p (if (vfD v).width < 32 then hit else none) (fun d => vStore d p v)))
def execVzbc (p : Fin 64) (v : VInsn) (s : State) : Host.Outcome State Fault Refusal :=
  onDev s (fun d => d.runLane p (fun d => vZbc d p v))
def execVlrd (p : Fin 64) (v : VInsn) (s : State) : Host.Outcome State Fault Refusal :=
  onDev s (fun d => d.runLane p (fun d => vLrd d p v))
def execVlxrd (p : Fin 64) (v : VInsn) (s : State) : Host.Outcome State Fault Refusal :=
  onDev s (fun d => d.runLane p (fun d => vLxrd d p v))
def execVlpadd (p : Fin 64) (v : VInsn) (s : State) : Host.Outcome State Fault Refusal :=
  onDev s (fun d => d.runLane p (fun d => vLpadd d p v))
def execVfence (p : Fin 64) (v : VInsn) (s : State) : Host.Outcome State Fault Refusal :=
  onDev s (fun d => d.runLane p (fun d => vFence d p v))

/-- VLD, with the pan-store address at which a parity hit met its load, if one did (05 R147, 06 R177). -/
def execVld (p : Fin 64) (v : VInsn) (hit : Option Nat) (s : State) : Host.Outcome State Fault Refusal :=
  onDev s (fun d => d.runLane p (fun d => withStoreHit d p hit (fun d => vLoad d p v)))

/-! ### The Pan extension (05 R165) -/

/-- MXD and CPY, with the pan-store address at which a parity hit met the read of their words, if one did (06 R177). -/
def execMxd (p : Fin 64) (rs1 : Nat) (hit : Option Nat) (s : State) : Host.Outcome State Fault Refusal :=
  onDev s (fun d => d.runCore p (fun d => withStoreHit d p hit (fun d => mxdRun d p rs1)))
def execCpy (p : Fin 64) (rs1 : Nat) (hit : Option Nat) (s : State) : Host.Outcome State Fault Refusal :=
  onDev s (fun d => d.runCore p (fun d => withStoreHit d p hit (fun d => cpyRun d p rs1)))
def execFset (p : Fin 64) (flag : Nat) (s : State) : Host.Outcome State Fault Refusal := onDev s (fun d => d.runCore p (fun d => fsetRun d p flag))
def execFclr (p : Fin 64) (flag : Nat) (s : State) : Host.Outcome State Fault Refusal := onDev s (fun d => d.runCore p (fun d => fclrRun d p flag))
def execFwait (p : Fin 64) (flag : Nat) (s : State) : Host.Outcome State Fault Refusal := onDev s (fun d => d.runCore p (fun d => fwaitRun d p flag))
def execFwaitc (p : Fin 64) (flag : Nat) (s : State) : Host.Outcome State Fault Refusal := onDev s (fun d => d.runCore p (fun d => fwaitcRun d p flag))
def execFtest (p : Fin 64) (rd flag : Nat) (s : State) : Host.Outcome State Fault Refusal := onDev s (fun d => d.runCore p (fun d => ftestRun d p rd flag))
def execFsetr (p : Fin 64) (rs1 flag : Nat) (s : State) : Host.Outcome State Fault Refusal := onDev s (fun d => d.runCore p (fun d => fsetrRun d p rs1 flag))
def execSetvl (p : Fin 64) (rd rs1 width : Nat) (s : State) : Host.Outcome State Fault Refusal :=
  onDev s (fun d => d.runCore p (fun d => setvlRun d p rd rs1 width))
def execBsum (p : Fin 64) (cond : Nat) (off : Int) (s : State) : Host.Outcome State Fault Refusal :=
  onDev s (fun d => d.runCore p (fun d => bsumRun d p cond off))

/-- A segment run again: the pc, the registers and the vector state it started from. What its earlier run left elsewhere stands, and what each of its
instructions read it reads again (05 R170; notes/assumptions/16.md). -/
def Pan.rerun (q : Pan) : Pan :=
  { q with
    vec := q.segVec, sel := q.segSel
    core := { q.core with halt := none, pc := q.core.segStart, x := q.core.segX, done := none, running := true, met := 0 } }

/-- SEGMENT_RERUN: after a RECOVER halt, the program goes on from the start of its segment; at three hits the pan is quarantined
instead (05 R170). -/
def execSegmentRerun (p : Fin 64) (s : State) : Host.Outcome State Fault Refusal :=
  onDev s (fun d =>
    match (d.panAt p).core.halt with
    | some h => if h.cause = .recover ∧ (d.panAt p).core.hits < 3 ∧ d.panOn p then d.updPan p Pan.rerun else d
    | none => d)

/-- PAN_QUARANTINE: at the third mismatch of a pass, or the third hit of a segment (04 R135, 05 R170). -/
def execPanQuarantine (p : Fin 64) (s : State) : Host.Outcome State Fault Refusal :=
  onDev s (fun d => if d.panOn p && (decide (3 ≤ (d.panAt p).arr.consec) || decide (3 ≤ (d.panAt p).core.hits)) then d.quarantine p else d)

end Sys2Proof.Machine
end

