-- ==== Sys2Proof/Machine/PanEvents.lean ====
section
/-! DEFINITION. Descriptor events that may halt a pan core: MERGE with a broken record (07 R217), a halo tag that never came (08 R251). -/
namespace Sys2Proof.Machine

/-- The record that stops a merge about to start, if one does. -/
def mergeStop (d : Device) (p : Nat) (x : MxD) : Option (Cause × Nat) :=
  if attnChecks d p x = 0 ∧ x.ready (d.panAt p) ∧ d.arrayIssues p ∧ !attnHeld d p x (x.attn d p) ∧ !attnHeritage (d.panAt p) x (x.attn d p) then
    mergeRecordFault d p x (x.attn d p)
  else none

/-- MERGE (07 R217). A malformed record halts the pan with LEDGER_REC, a residue mismatch with RECOVER; nothing is merged then, and the
descriptor starts once the segment has been run again (notes/assumptions/16.md). `bad`: an attempt's updates mismatch (04 R133, R134). -/
def execMerge (p : Fin 64) (bad : Bool) (hit : Option Nat) (s : State) : Host.Outcome State Fault Refusal :=
  onDev s (fun d =>
    match d.headOn p with
    | some q =>
      let x := mxd q.words
      if x.op = 3 ∧ q.phase = .waiting ∧ (x.attn d p).mode = 1 ∧ !(d.panAt p).rerunning then
        match (if hit.isSome then none else mergeStop d p x) with
        | some (c, st) => d.panFault p c st
        | none => startAttn d p 1 bad hit (fun d x r => d.updPan p (fun _ => mergeBody d p x r)) .passes
      else d
    | none => d)

/-- HALO_TIMEOUT (08 R251): the pass at the head waits for a tag; its pan stops with HALO. -/
def execHaloTimeout (p : Fin 64) (s : State) : Host.Outcome State Fault Refusal :=
  onDev s (fun d =>
    match d.headOn p with
    | some q =>
      let x := mxd q.words
      if q.passesLeft && x.op == 2 && !haloReady d p x q.row then
        (d.updPan p (fun pan => pan.rejectHead q Cause.halo.status)).panFault p .halo Cause.halo.status
      else d
    | none => d)

end Sys2Proof.Machine
end

