-- ==== Sys2Proof/Machine/Copy.lean ====
section
/-! DEFINITION. Copy commands: COPY, FILL, COPY_TAG, their completion, and lineage (06 R178 to R182, R188). -/
namespace Sys2Proof.Machine

/-- The fields of a copy command (06 R178). -/
structure CopyF where
  op : Nat
  remote : Nat
  peer : Nat
  rows : Nat
  src : Nat
  dst : Nat
  rowG : Nat
  setFlag : Nat
  setEn : Bool
  rsv : Nat
  srcStride : Nat
  dstStride : Nat
  word : Nat
deriving DecidableEq, Repr

/-- A command's words as fields. -/
def copyF (ws : List Nat) : CopyF :=
  let w := nthD 0 ws
  { op := bits (w 0) 31 28, remote := bits (w 0) 27 26, peer := bits (w 0) 25 14, rows := bits (w 0) 13 0
    src := w 1 + bits (w 2) 15 0 * 2 ^ 32, dst := bits (w 2) 31 16 + w 3 * 2 ^ 16, rowG := bits (w 4) 31 12
    setFlag := bits (w 4) 11 6, setEn := bitOf (w 4) 5, rsv := bits (w 4) 4 0, srcStride := w 5, dstStride := w 6, word := w 7 }

/-- Whether data moves (06 R179). -/
def CopyF.moves (x : CopyF) : Bool := x.rows != 0 && x.rowG != 0
def CopyF.len (x : CopyF) : Nat := 32 * x.rowG
def CopyF.srcRow (x : CopyF) (i : Nat) : Nat := x.src + 32 * x.srcStride * i
def CopyF.dstRow (x : CopyF) (i : Nat) : Nat := x.dst + 32 * x.dstStride * i
def CopyF.localSrc (x : CopyF) : Bool := x.op != 2 && x.remote != 1
def CopyF.localDst (x : CopyF) : Bool := x.remote != 2

/-- The stretches of this device's map that a command touches, the tag's granule among them. -/
def CopyF.spans (x : CopyF) : List (Nat × Nat) :=
  if !x.moves then [] else
  (List.range x.rows).flatMap (fun i =>
    (if x.localSrc then [(x.srcRow i, x.len)] else []) ++ (if x.localDst then [(x.dstRow i, x.len)] else []))
    ++ (if x.op = 3 ∧ x.localDst then [(x.dst - 32, 32)] else [])

/-- The job that issued a command, or that firmware issues it for. -/
def copyJob (d : Device) (c : CopyCmd) : Option Nat :=
  match c.issuer with
  | .pan p => (d.panAt p).job.map Prod.fst
  | .firmware => if c.job < 16 then some c.job else none

/-- The peer entry that PEER names (06 R175). -/
def copyPeer (d : Device) (c : CopyCmd) : Option Peer :=
  (copyJob d c).bind (fun j => peerBund d j (copyF c.words).peer)

/-- Who asks: the partition of the issuing pan's job, else of its Terrace; or firmware (06 R194). -/
def copyRequester (d : Device) (c : CopyCmd) : Requester :=
  match c.issuer with
  | .pan p => .part (((copyJob d c).bind (fun j => (d.jobAt j).part)).getD (partOfTer d.quy.layout (p / 16)))
  | .firmware => .firmware

def CopyCmd.byPan (c : CopyCmd) : Bool := match c.issuer with | .pan _ => true | .firmware => false

/-- Checks 1 to 6 of 06 R182; the first failing one decides. -/
def copyChecks (d : Device) (c : CopyCmd) : Nat :=
  let x := copyF c.words
  let acc := (x.spans.map (fun s => accessStatus d (copyRequester d c) s.1 s.2)).find? (· != 0)
  firstFail [
    (!(x.op == 1 || x.op == 2 || x.op == 3) || x.remote == 3 || x.rsv != 0 || (x.op == 1 && x.word != 0), stReserved),
    ((x.op != 2 && x.src % 32 != 0) || x.dst % 32 != 0, stAlign),
    (x.remote != 0 && (copyPeer d c).isNone, stNoRoute),
    ((x.op == 3 && x.localDst && x.moves && decide (x.dst < 32)) || x.spans.any (fun s => !mapped d s.1 s.2), stMemAddress),
    (x.spans.any (fun s => !bedsOk d c.byPan s.1 s.2), stBedMode),
    (acc.isSome, acc.getD 0)]

/-! ### Step replay (06 R188; 16 R446; 15 R413) -/

/-- A step taken back to where its packing left it: everything of it is to be done again. -/
def Step.restart (st : Step) : Step :=
  { st with mbs := st.mbs.map (fun m => { m with dispatched := false }), descStatus := 0, descSeq := 0, stages := false, started := false, logDone := false
            readySent := false, redo := [], passed := [], undo := [], cap := [], shares := [], total := none, logTotal := none }

/-- A pan whose steps are replayed: nothing of the attempt stays on it (01 R41; notes/assumptions/21.md). -/
def Pan.replay (p : Pan) : Pan :=
  { p with
    step := none, held := [], flags := 0, slots := List.replicate 16 {}, sel := {}, vec := {}, segVec := {}, segSel := {}, gated := false
    unitSlots := List.replicate 16 {}
    arr := { tile := p.arr.tile, lastStatus := p.arr.lastStatus }
    core := { p.core with running := false, done := none, halt := none, trace := [], met := 0, hits := 0 } }

/-- The uncommitted steps of a job replayed from its committed state: undo copies back, the work of the attempts dropped, on its pans and in a saved
context, every step to be run again. -/
def Device.replaySteps (d : Device) (j : Nat) : Device :=
  let ps := pansOf d j
  let d1 := ps.foldl (fun e p => e.updPan p Pan.replay) (d.undoAll j)
  (({ d1 with eng := d1.eng.map (fun e => e.drop j ps) } : Device).dropFabric j).updJob j (fun q => { q with
    steps := q.steps.map Step.restart, batches := q.batches.map (fun b => { b with work := b.work.restart }), gates := [], saved := q.saved.map (fun sv => { sv with pans := sv.pans.map (fun e => (e.1, e.2.replay)) }) })

/-! ### Ends of a command -/

/-- A command taken off its queue. -/
def Device.dropCopy (d : Device) (t id : Nat) : Device :=
  (d.updEng t (fun e => { e with copies := e.copies.filter (fun c => c.id != id) }))

/-- A grain: the start and length of the granule or line that holds an address. -/
def grainOf (a : Nat) : Nat × Nat := if isPanStore a then (a / 32 * 32, 32) else (a / 256 * 256, 256)

/-- A grain served again. -/
def Device.releaseGrain (d : Device) (a : Nat) : Device :=
  if isPanStore a then
    d.updPan (panOfStore a) (fun p => { p with held := p.held.filter (fun g => g != (a - 0x011000000000) % 0x2000000 / 32) })
  else
    d.updTer (if isWindow a then terOfWindow a else terOfScratch a) (fun t => { t with lostLines := t.lostLines.filter (fun l => l != a / 256) })

/-- Whether a command writes a tag at its home Terrace. -/
def CopyF.tagsHere (x : CopyF) : Bool := x.op == 3 && x.remote != 2 && x.moves

/-- The rows of a command, and the write of the tag that a remote destination waits for as one more (06 R179). -/
def CopyF.stages (x : CopyF) : Nat := x.rows + (if x.op = 3 ∧ x.remote = 2 then 1 else 0)

/-- The grains that a command of firmware rewrites are served again once it is complete (06 R177, R184, R188). -/
def releaseRows (d : Device) (x : CopyF) : Device :=
  (List.range x.rows).foldl (fun e i =>
    let a := x.dstRow i
    if isPanStore a then (List.range x.rowG).foldl (fun f g => f.releaseGrain (a + 32 * g)) e
    else (List.range ((a + x.len - 1) / 256 - a / 256 + 1)).foldl (fun f k => f.releaseGrain (256 * (a / 256 + k))) e) d

/-- A rejected or failed command: its flag is not set, its answers are no longer waited for, and the issuing pan stops with COPY. A command of firmware
returns its status to it: what the command was to regenerate is written by a replay of the step instead (06 R182, R188). -/
def Device.failCopy (d : Device) (t : Nat) (c : CopyCmd) (st : Nat) : Device :=
  let d1 := d.dropCopy t c.id
  let d2 := { d1 with fab := { d1.fab with pend := d1.fab.pend.filter (fun q => !(q.ter == t && q.copy == c.id)) } }
  match c.issuer with
  | .pan p => (noteDescStatus d2 p c.seq st).panFault p .copy st
  | .firmware =>
    let d3 := d2.updEng t (fun e => { e with returned := some (c.job, st) })
    if (d.jobAt c.job).live then releaseRows (d3.replaySteps c.job) (copyF c.words) else d3

/-- A command complete: a tag that waited for remote data is written, then the flag of the issuing pan is set (06 R179, R181). A tag whose granule has
no key fails the command after its rows (R182). -/
def Device.completeCopy (d : Device) (t : Nat) (c : CopyCmd) : Device :=
  let x := copyF c.words
  if x.tagsHere && x.remote == 1 && !keyed d (x.dst - 32) 32 then d.failCopy t c stKeyAbsent
  else
    let d1 := if x.tagsHere && x.remote == 1 then d.store (x.dst - 32) (toLE 4 x.word) else d
    let d2 := d1.dropCopy t c.id
    match c.issuer with
    | .pan p => if x.setEn then d2.updPan p (fun q => q.setFlag x.setFlag) else d2
    | .firmware => let d3 := d2.updEng t (fun e => { e with returned := some (c.job, stOk) }); if x.moves then releaseRows d3 x else d3

/-! ### Moving data -/

/-- n bytes copied in ascending address (06 R180). -/
def copyBytes : Nat → Mem → Nat → Nat → Mem
  | 0, m, _, _ => m
  | n + 1, m, src, dst => copyBytes n (m.write dst (m.read src)) (src + 1) (dst + 1)

/-- The bytes of a FILL row. -/
def fillBytes (x : CopyF) : List Nat := (List.replicate (8 * x.rowG) (toLE 4 x.word)).flatten

/-- One local row moved. -/
def moveRow (x : CopyF) (d : Device) (i : Nat) : Device :=
  if x.op = 2 then d.store (x.dstRow i) (fillBytes x)
  else (d.setMem (copyBytes x.len d.mem (x.srcRow i) (x.dstRow i))).markDirty (x.dstRow i) x.len

/-- One granule of a row moved. -/
def moveGranule (x : CopyF) (i : Nat) (d : Device) (g : Nat) : Device :=
  if x.op = 2 then d.store (x.dstRow i + 32 * g) (toLE 4 x.word ++ toLE 4 x.word ++ toLE 4 x.word ++ toLE 4 x.word ++ toLE 4 x.word ++ toLE 4 x.word ++ toLE 4 x.word ++ toLE 4 x.word)
  else (d.setMem (copyBytes 32 d.mem (x.srcRow i + 32 * g) (x.dstRow i + 32 * g))).markDirty (x.dstRow i + 32 * g) 32

/-- Whether a granule of a local row meets a fault: a line without a key, or the persistently faulty one. -/
def granuleBad (d : Device) (x : CopyF) (bad : Option Nat) (i g : Nat) : Bool :=
  (x.localSrc && (!keyed d (x.srcRow i + 32 * g) 32 || match bad with
    | some a => decide (x.srcRow i + 32 * g ≤ a) && decide (a < x.srcRow i + 32 * g + 32)
    | none => false))
  || (x.localDst && !keyed d (x.dstRow i + 32 * g) 32)

/-- A failed execution: rows before the fault whole, any of the faulting row's other granules or none as a free value says (06 R182). -/
def failedRows (d : Device) (x : CopyF) (bad : Option Nat) (i : Nat) : Device :=
  let d1 := (List.range i).foldl (moveRow x) d
  let (v, d2) := d1.draw
  ((List.range x.rowG).filter (fun g => bitOf v g && !granuleBad d x bad i g)).foldl (moveGranule x i) d2

/-- The pieces of at most 4,096 bytes of a row (13 R361). -/
def rowPieces (n : Nat) : List (Nat × Nat) := (List.range (ceilDiv n 4096)).map (fun k => (4096 * k, min 4096 (n - 4096 * k)))

/-- The requests of one row of a remote command: READs of its source, or WRITEs of what it reads here; past the last row, the write of the
tag (06 R179, 13 R361, R365). -/
def rowRequests (d : Device) (x : CopyF) (pe : Peer) (i : Nat) : List (Txn × Nat) :=
  if i < x.rows then
    (rowPieces x.len).map (fun k =>
      if x.remote = 1 then
        (({ op := 1, dst := pe.bundId, src := 0, job := pe.slot, addr := x.srcRow i + k.1, len := k.2 } : Txn), x.dstRow i + k.1)
      else
        (({ op := 3, dst := pe.bundId, src := 0, job := pe.slot, addr := x.dstRow i + k.1, len := k.2
            data := if x.op = 2 then (fillBytes x).take k.2 else d.readN (x.srcRow i + k.1) k.2 } : Txn), 0))
  else [(({ op := 3, dst := pe.bundId, src := 0, job := pe.slot, addr := x.dst - 32, len := 4, data := toLE 4 x.word } : Txn), 0)]

/-- The requests sent; the first status other than ST_OK ends them. -/
def sendAll (t id : Nat) (rs : List (Txn × Nat)) (d : Device) : Nat × List Nat × Device :=
  rs.foldl (fun acc r =>
    if acc.1 ≠ 0 then acc
    else
      let tag := acc.2.2.fab.nextTag
      let (st, d') := acc.2.2.request r.1 t id r.2
      (st, if st = 0 then acc.2.1 ++ [tag] else acc.2.1, d')) (0, [], d)

/-- A command marked as started, with the rows it has moved or asked for and the answers it waits for. -/
def Device.startCopy (d : Device) (t id row : Nat) (waits : List Nat) : Device :=
  d.updEng t (fun e => { e with copies := e.copies.map (fun c => if c.id = id then { c with started := true, row := row, waits := waits } else c) })

/-- The rows and the tag of a local command moved; `bad` is a persistently faulty byte of its source. A fault ends it at its row, or at the tag
(06 R179, R182). -/
def runLocal (d : Device) (t : Nat) (c : CopyCmd) (bad : Option Nat) : Device :=
  let x := copyF c.words
  match (List.range x.rows).find? (fun i => (List.range x.rowG).any (fun g => granuleBad d x bad i g)) with
  | some i =>
    (failedRows d x bad i).failCopy t c (if (List.range x.rowG).any (fun g => granuleBad d x none i g) then stKeyAbsent else stUnrecovered)
  | none =>
    let d1 := (List.range x.rows).foldl (moveRow x) d
    if x.tagsHere && !keyed d (x.dst - 32) 32 then d1.failCopy t c stKeyAbsent
    else (if x.tagsHere then d1.store (x.dst - 32) (toLE 4 x.word) else d1).startCopy t c.id x.stages []

/-- One row of a remote command asked for, once the rows before it are whole; a fault of the row at this end fails the command before any of its
transactions leave (06 R182). -/
def runRow (d : Device) (t : Nat) (c : CopyCmd) (bad : Option Nat) : Device :=
  let x := copyF c.words
  let i := c.row
  let here := decide (i < x.rows)
  if here && (List.range x.rowG).any (fun g => granuleBad d x none i g) then d.failCopy t c stKeyAbsent
  else if here && (List.range x.rowG).any (fun g => granuleBad d x bad i g) then d.failCopy t c stUnrecovered
  else match copyPeer d c with
    | some pe =>
      let (st, tags, d1) := sendAll t c.id (rowRequests d x pe i) d
      if st = 0 then d1.startCopy t c.id (i + 1) tags else d1.failCopy t c st
    | none => d.failCopy t c stNoRoute

/-- The work of a command that passed its checks. -/
def runCopy (d : Device) (t : Nat) (c : CopyCmd) (bad : Option Nat) : Device :=
  let x := copyF c.words
  if !x.moves then d.completeCopy t c
  else if x.remote = 0 ∨ (x.op = 2 ∧ x.remote = 1) then runLocal d t c bad
  else runRow d t c bad

/-- A powered Terrace that is not being reset: its copy engines and Bund side work (19 R518, R521). -/
def terOn (d : Device) : Bool := d.inp.stage == .served && d.glb.cur != .shelf && !d.glb.flushing

/-- A Terrace whose Skim engine and Sluice are clocked: not in Idle, nor in Doze (19 R521). -/
def engOn (d : Device) : Bool := terOn d && d.glb.cur == .active

/-- Whether an engine may take a command: it is the oldest of its issuer not taken yet, and fewer than eight are under way (06 R181); a command
under way goes on with its next row once the row before it is whole. -/
def mayStart (e : Engines) (c : CopyCmd) : Bool :=
  if c.started then c.waits.isEmpty && decide (c.row < (copyF c.words).stages)
  else decide ((e.copies.filter (fun x => x.started)).length < 8) && (e.copies.find? (fun x => !x.started && x.issuer == c.issuer) == some c)

/-- The stretches that a command touches in its next part: all of a local one, the next row of a remote one. Firmware's regeneration rewrites held
grains, so its destination does not hold it back. -/
def nextSpans (c : CopyCmd) : List (Nat × Nat) :=
  let x := copyF c.words
  let part := if x.remote = 0 ∨ x.op = 2 then x.spans
    else if !x.moves ∨ x.rows ≤ c.row then []
    else if x.remote = 1 then [(x.dstRow c.row, x.len)] else [(x.srcRow c.row, x.len)]
  if c.byPan then part else part.filter (fun s => !(List.range x.rows).any (fun i => s == (x.dstRow i, x.len)))

/-- A copy engine takes a command whose OP is one of those asked for, or goes on with it. A command that meets a held line or granule waits in its engine,
and the commands issued after it start (06 R177, R181); a
corruption met by the read is counted, and a persistent fault that the issuing job's buffer table does not cover fails the command (06 R177,
R184, R196). -/
def takeCopy (d : Device) (t id : Nat) (mine : Nat → Bool) (hit : Option Hit) : Device :=
  match (d.engAt t).copies.find? (fun c => c.id == id) with
  | none => d
  | some c =>
    if !terOn d || !mayStart (d.engAt t) c || !mine (copyF c.words).op then d
    else
      let st := if c.started then 0 else copyChecks d c
      if st ≠ 0 then d.failCopy t c st
      else (if c.started then d else d.startCopy t id 0 []).withHit hit (nextSpans c)
        (fun e a => if ((copyJob e c).bind (fun j => bufferOf e j a)).isSome then e.holdFault a else runCopy e t c (some a))
        (fun e => runCopy e t c none)

/-- COPY (06 R179); a command with a reserved OP is refused here too. -/
def execCopy (t : Fin 4) (id : Nat) (hit : Option Hit) (s : State) : Host.Outcome State Fault Refusal :=
  onDev s (fun d => takeCopy d t id (fun op => op != 2 && op != 3) hit)

/-- FILL (06 R179). -/
def execFill (t : Fin 4) (id : Nat) (s : State) : Host.Outcome State Fault Refusal :=
  onDev s (fun d => takeCopy d t id (fun op => op == 2) none)

/-- COPY_TAG (06 R179). -/
def execCopyTag (t : Fin 4) (id : Nat) (hit : Option Hit) (s : State) : Host.Outcome State Fault Refusal :=
  onDev s (fun d => takeCopy d t id (fun op => op == 3) hit)

/-- COPY_COMPLETE (06 R181): every write and every remote answer is in; a tag for a held granule waits for it. -/
def execCopyComplete (t : Fin 4) (id : Nat) (s : State) : Host.Outcome State Fault Refusal :=
  onDev s (fun d =>
    match (d.engAt t).copies.find? (fun c => c.id == id) with
    | some c =>
      let x := copyF c.words
      if terOn d && c.started && c.waits.isEmpty && decide (x.stages ≤ c.row) && !(x.tagsHere && x.remote == 1 && heldAt d (x.dst - 32) 32) then d.completeCopy t c
      else d
    | none => d)

end Sys2Proof.Machine
end

