-- ==== Sys2Proof/Machine/Recover.lean ====
section
/-! DEFINITION. Tide entries that firmware places, a collective's ending at a survivor, coverage (16 R429, R432, R444, R453; 14 R385). -/
namespace Sys2Proof.Machine

/-! ### The schedule (14 R385, R387) -/

/-- The lowest free entry of the schedule. -/
def freeEntry (t : Tide) : Option Nat := (List.range 256).find? (fun i => t.entries.all (fun e => e.1 != i))

/-- An entry taken at an index. -/
def Device.putEntry (d : Device) (i : Nat) (e : TideEntry) : Device := { d with tide := { d.tide with entries := smPut d.tide.entries i e } }

/-- An entry freed. -/
def Device.freeEntryAt (d : Device) (i : Nat) : Device := { d with tide := { d.tide with entries := smErase d.tide.entries i } }

/-- A SNAPSHOT entry that firmware places at the current Tide time: it fires at once and waits for its step (16 R444). -/
def Device.placeSnapshot (d : Device) (j layer n : Nat) : Device :=
  match freeEntry d.tide with
  | some i => d.putEntry i { ns := d.tide.ns, sec := d.tide.sec, action := 7, param := 0, job := j, step := n, arg := layer, accepted := d.tide.now, fired := true }
  | none => d

/-! ### Partner groups (16 R432) -/

/-- The partner group of a job: the partner peers and the member itself, ascending; empty when no partner is flagged. -/
def groupOf (t : Topo) : List Nat :=
  let ps := (t.peers.filter (fun p => p.partner)).map Peer.bundId
  if ps.isEmpty then [] else sortBy (fun a b => decide (a ≤ b)) (t.selfId :: ps)

/-- The member after another in a group. -/
def nextInGroup (g : List Nat) (x : Nat) : Option Nat :=
  match g.findIdx? (· == x) with
  | some i => g[(i + 1) % g.length]?
  | none => none

/-- The holder of this member's layer-1 copy, and the member whose copy this one holds. -/
def holderOf (t : Topo) : Option Nat := nextInGroup (groupOf t) t.selfId
def predecessorOf (t : Topo) : Option Nat := (groupOf t).find? (fun x => nextInGroup (groupOf t) x == some t.selfId)

/-- The peer entry of a Bund device. -/
def peerOf (t : Topo) (bund : Nat) : Option Peer := t.peers.find? (fun p => p.bundId == bund)

/-- A token to a peer of a job, which the token names by its own slot there. -/
def Device.tokenTo (d : Device) (j bund : Nat) (tk : Nat → Token) : Device :=
  match (d.jobAt j).setup.bind (fun u => peerOf u.topo bund) with
  | some p => d.sendToken j p.bundId (tk p.slot)
  | none => d

/-- A token to every peer of a job. -/
def Device.tokenAll (d : Device) (j : Nat) (tk : Nat → Token) : Device :=
  match (d.jobAt j).setup with
  | some u => u.topo.peers.foldl (fun e p => e.sendToken j p.bundId (tk p.slot)) d
  | none => d

/-- Whether every peer of a job has sent JOIN for the step that this member restored: the whole job was restored, an escalation (16 R447, R448, R451;
notes/assumptions/27.md). -/
def JobSlot.escalated (q : JobSlot) : Bool :=
  q.setup.any (fun u => !u.topo.peers.isEmpty && u.topo.peers.all (fun p => q.partner.joined.contains (p.bundId, u.jr.restoreStep)))

/-- The READs of the headers of both image slots on the holder, by which a restore starts, or starts again on new routes with what it had discarded
(16 R445, R450; notes/assumptions/25.md). -/
def Device.readHolder (d : Device) (j : Nat) (slotBytes : Nat) : Device :=
  match (d.jobAt j).setup with
  | some u =>
    match holderOf u.topo with
    | some h =>
      let sl := ((peerOf u.topo h).map Peer.slot).getD j
      [0, slotBytes].foldl (fun (e : Device) off => (e.request { op := 1, dst := h, src := 0, job := sl, addr := off, len := 96 } 4 0 0).2) d
    | none => d
  | none => d

/-! ### Coverage (16 R453) -/

/-- Whether a complete layer-2 or layer-3 image of the present job exists on this member; one in a Crust store that is off does not serve. -/
def imaged (d : Device) (j : Nat) : Bool :=
  (d.jobAt j).partner.images.any (fun x => x.complete && (x.layer == 3 || (x.layer == 2 && !d.pwz.wear.crustOff)))

/-- Whether a holder that has not failed keeps a complete layer-1 image and every log entry from it to the committed step. -/
def heldByHolder (d : Device) (j c : Nat) : Bool :=
  let q := d.jobAt j
  match q.setup.bind (fun u => holderOf u.topo) with
  | some h => !q.partner.lacking.contains h && q.partner.images.any (fun x =>
      x.layer == 1 && x.complete && decide (x.step ≤ c) && (List.range (c - x.step)).all (fun i => q.partner.log.any (fun e => e.1 == x.step + 1 + i)))
  | none => false

/-- Whether this member is covered; before its first commit nothing needs cover. -/
def covered (d : Device) (j : Nat) : Bool :=
  match (d.jobAt j).commit.step with
  | some c => imaged d j || heldByHolder d j c
  | none => true

/-- A member that a failure or a loss leaves uncovered: logged, reported at the first held step, and a snapshot of its committed step placed, in layer 2, or
in layer 3 when layer 2 is disabled. -/
def Device.noteCoverage (d : Device) (j : Nat) : Device :=
  match (d.jobAt j).setup, (d.jobAt j).commit.step with
  | some u, some c =>
    if covered d j || (d.jobAt j).partner.uncovered then d
    else
      let d1 := (d.updJob j (fun q => { q with partner := { q.partner with uncovered := true } })).logEvent srcRenura 0x0804 sevWarning (some j) (toLE 4 u.topo.dpPos)
      (match (d1.jobAt j).steps.head? with
        | some st => d1.stepNotice j st 0x0804
        | none => d1).placeSnapshot j (if d.pwz.wear.crustOff then 2 else 1) c
  | _, _ => d

/-! ### A collective's ending (13 R369; 16 R429) -/

/-- A survivor's job meets the ending of a collective of step n with a status: RECOVERING, EV_RES_HALT, the work beyond the committed step
discarded with its undo copies restored, the step's notice sent. Submissions stay and run again from their first stage (R446). A suspended job meets
it as a running one does (notes/assumptions/23.md). `lost`: the members whose JOIN it waits for; `failed`: those that count as failed (R441). A job that is
RECOVERING already only takes in what it did not know of. -/
def Device.haltJob (d : Device) (j n st : Nat) (lost failed : List Nat) : Device :=
  let q := d.jobAt j
  let new := lost.filter (fun x => !q.partner.lacking.contains x)
  let evs := (failed.filter (fun x => !q.partner.lacking.contains x)).map (fun _ => (1, d.tide.now))
  if q.state = .running ∨ q.state = .suspended then
    let d1 := d.logEvent srcRenura 0x0801 sevNotice (some j) (toLE 8 q.committedField)
    let d2 := match q.steps.find? (fun x => x.num == n) with
      | some s => d1.stepNotice j s st
      | none => d1
    ((d2.replaySteps j).updJob j (fun q => { q with
      state := .recovering, ready := []
      partner := { q.partner with lacking := q.partner.lacking ++ new, events := evs ++ q.partner.events } })).noteCoverage j
  else if q.state = .recovering then
    (d.updJob j (fun q => { q with partner := { q.partner with lacking := q.partner.lacking ++ new, events := evs ++ q.partner.events } })).noteCoverage j
  else d

/-- The step that a job's collective ending concerns: the one it works on, else the next. -/
def haltStep (q : JobSlot) : Nat := (q.steps.head?.map Step.num).getD q.nextStep

end Sys2Proof.Machine
end

