-- ==== Sys2Proof/Machine/Commit.lean ====
section
/-! DEFINITION. Applying a commit: the Tally record and chain, logs and histories, snapshot intervals, the commit tree (14 R389 to R391;
18 R496 to R498; 10 R274 to R276; 16 R441 to R444). -/
namespace Sys2Proof.Machine

/-! ### Snapshot intervals (16 R441, R442), in fixed point with 96 fraction bits -/

/-- 1 in fixed point. -/
def fx1 : Nat := 2 ^ 96

/-- 2 ^ −(1/2), 2 ^ −(1/4), … in fixed point. -/
def fxRoots : Nat → Nat → List Nat
  | 0, _ => []
  | n + 1, r => let s := isqrt (r * fx1); s :: fxRoots n s

/-- 2 ^ −(num/den). -/
def fxPow2Neg (num den : Nat) : Nat :=
  let q := num / den
  let f := (num % den) * 2 ^ 64 / den
  let rs := fxRoots 64 (fx1 / 2)
  ((List.range 64).foldl (fun acc i => if bitOf f (63 - i) then acc * nthD fx1 rs i / fx1 else acc) fx1) / 2 ^ q

/-- ln 2 with 40 decimals. -/
def ln2Dec : Nat := 6931471805599453094172321214581765680755

/-- e of R441, in hours: (6 / ln 2) × (1 − 2⁻⁴). -/
def fxExposure : Nat := 5625 * fx1 * 10 ^ 37 / ln2Dec

/-- The weighted count s of a layer: counted events of the last 24 h by age. -/
def fxCount (now layer : Nat) (evs : List (Nat × Nat)) : Nat :=
  sumNat ((evs.filter (fun e => e.1 == layer && decide (now ≤ e.2 + 86400000000000))).map (fun e => fxPow2Neg (now - e.2) 21600000000000))

/-- The mean time M of a layer in ns. -/
def fxMean (p : Policy) (nmemb now layer : Nat) (evs : List (Nat × Nat)) : Nat :=
  let k := match layer with | 1 => 1 | 2 => policyVal p 0x0301 0 8 | _ => policyVal p 0x0302 0 64
  let m0 := policyVal p 0x0300 0 55296 * fx1 / nmemb
  (fxExposure + m0 * k) * 3600000000000 / (fxCount now layer evs + fx1)

/-- τ of R442 in ns, for δ in ns. -/
def snapTau (delta m : Nat) : Nat := if delta < 2 * m then isqrt (2 * delta * m) - delta else m

/-- The write rate of a layer in bytes per µs (01 R28). -/
def layerRate (layer : Nat) : Nat := match layer with | 1 => 200000 | 2 => 12000 | _ => 100000

/-- The bytes of a member's blocks, and how many of the first bytes of each are master weights (16 R434). -/
def JobSlot.stateLen (q : JobSlot) : Nat := sumNat (q.blocks.map Prod.snd)
def JobSlot.masters (q : JobSlot) : List (Nat × Nat) :=
  q.blocks.zipIdx.map (fun x => (min x.1.2 (((q.setup.map (fun u => Config.masterBytes u.prog.digest x.2)).getD 0)), x.1.2))

/-- The bytes of the replicated state that are not histories. -/
def replicatedFixed : Nat := 60

/-- A commit counted among the last 65, between which lie the last 64 steps (16 R442). -/
def Partner.withCommit (p : Partner) (now : Nat) : Partner := { p with commits := keepLast 65 (p.commits ++ [now]) }

/-- The interval in steps. -/
def snapInterval (p : Policy) (nmemb now layer imageBytes : Nat) (writes : List (Option Nat)) (pa : Partner) : Nat :=
  let fixed := policyVal p 0x0303 layer 0
  if fixed ≠ 0 then fixed
  else
    let delta := (nthD none writes (layer - 1)).getD (imageBytes * 1000 / layerRate layer)
    let tau := snapTau delta (fxMean p nmemb now layer pa.events)
    let cs := pa.commits
    let t := match cs.head?, cs.getLast? with
      | some a, some b => if cs.length < 2 then 0 else (b - a) / (cs.length - 1)
      | _, _ => 0
    if t = 0 then 1 else max 1 (rneInt tau t).toNat

/-! ### The bytes of a commit -/

/-- The device map as step n left it: the undo copies of later steps applied. -/
def Device.memAfter (d : Device) (j n : Nat) : Mem := (((d.jobAt j).steps.filter (fun x => decide (n < x.num))).reverse).foldl undoStep d.mem

/-- The shard digest after step n. -/
def Device.postDigest (d : Device) (j n : Nat) : List Nat := (d.setMem (d.memAfter j n)).shardDigest j

/-- SHA-384 of SEED followed by EVAL_SEED. -/
def seedsDigest (r : JobRec) : List Nat := sha384 (toLE 16 r.seed ++ toLE 16 r.evalSeed)

/-- The manifest window digest of a step (11 R297). -/
def manifestDigest (q : JobSlot) (st : Step) : List Nat :=
  sha384 ((List.range st.sub.posCount).flatMap (fun i =>
    ((q.manifest.find? (fun e => e.epoch == st.sub.epoch && e.pos == st.sub.posFirst + i)).map ManEntry.bytes).getD []))

/-- The augmentation-record digest of a step (11 R320). -/
def augDigest (st : Step) : List Nat := sha384 (st.slots.flatMap (fun e => e.2.treatment))

/-- The Tally record of a step (18 R496). -/
def tallyRecord (d : Device) (q : JobSlot) (u : JobSetup) (st : Step) (post : List Nat) : List Nat :=
  let n := normCount q st
  toLE 8 st.num ++ toLE 4 st.sub.epoch ++ toLE 4 u.topo.dpPos ++ toLE 4 u.topo.dpSize ++ toLE 4 d.sl.value
    ++ [b2n st.dropped.isSome + 2 * b2n (n == 0), 0, 0, 0]
    ++ toLE 4 ((st.dropped.map Prod.snd).getD 0) ++ toLE 8 ((st.dropped.map Prod.fst).getD 0)
    ++ manifestDigest q st ++ seedsDigest u.jr ++ augDigest st ++ sliceAt q.commit.pre 0 48 ++ post ++ sha384 (measurements d)

/-! ### Amax records, histories and scale codes (10 R268, R269, R274 to R276) -/

/-- Capture slots combined: the greatest AMAX, the sums of the counts (10 R274). -/
def combineSlots (ss : List AmaxSlot) : AmaxSlot :=
  ss.foldl (fun a s => { amax := max a.amax s.amax, sat := satAdd a.sat s.sat, inf := satAdd a.inf s.inf, nan := satAdd a.nan s.nan }) {}

/-- A row (an identifier, AMAX, SATCNT, INFCNT, NANCNT) that another device reported, as a capture slot. -/
def slotOfRow (o : List Nat) : AmaxSlot := { amax := nthD 0 o 1 % 2 ^ 32, sat := nthD 0 o 2 % 2 ^ 32, inf := nthD 0 o 3 % 2 ^ 32, nan := nthD 0 o 4 % 2 ^ 32 }

/-- The level of a unit's final attempt for a micro-batch of a step: that of its last redo record (10 R282). -/
def levelOf (recs : List (List Nat)) (p : List Nat → Bool) : Nat :=
  match (recs.filter p).getLast? with
  | some r => if fieldAt r 18 1 = 0xFF then fieldAt r 17 1 else fieldAt r 18 1
  | none => 0

/-- The TENSOR_ID of a cast. -/
def castTensor (u : JobSetup) (k : Nat) : Nat := Config.castOf u.prog.digest k 0 % 2 ^ 32

/-- What captured a cast in a step: what COMMIT brought of its tensor, else the slots of this device's pans and what was reported from below
(10 R274). -/
def castSlots (u : JobSetup) (st : Step) (k : Nat) : List AmaxSlot :=
  let rows (x : StepShare) := (x.casts.filter (fun o => nthD 0 o 0 == castTensor u k)).map slotOfRow
  let all := (st.total.map rows).getD []
  if !all.isEmpty then all
  else st.cap.flatMap (fun c => ((List.range 16).filter (fun s => Config.castAt u.prog.digest c.1 s == some k)).map (fun s => nthD {} c.2 s))
      ++ st.shares.flatMap (fun x => rows x.2)

/-- The row of a tensor cast of a step, as it is reported. -/
def castRow (u : JobSetup) (st : Step) (k : Nat) : List Nat :=
  let s := combineSlots (castSlots u st k)
  [castTensor u k, s.amax, s.sat, s.inf, s.nan]

/-- The rows of tensors that the members below, or all members, reported and this member's program does not cast: combined and passed on (10 R274). -/
def foreignRows (u : JobSetup) (st : Step) : List (List Nat) :=
  let mine := (List.range (Config.castCount u.prog.digest)).map (castTensor u)
  let rows : List (List Nat) := match st.total with | some x => x.casts | none => st.shares.flatMap (fun x => x.2.casts)
  let ids := (rows.map (fun o => nthD 0 o 0)).foldl (fun (l : List Nat) t => if l.contains t || mine.contains t then l else l ++ [t]) []
  ids.map (fun t => let s := combineSlots ((rows.filter (fun o => nthD 0 o 0 == t)).map slotOfRow); [t, s.amax, s.sat, s.inf, s.nan])

/-- The slower of two write times. -/
def slower : Option Nat → Option Nat → Option Nat
  | some a, some b => some (max a b)
  | some a, none => some a
  | none, b => b

/-- The last write times of the layers, of this member and those below it (16 R442). -/
def slowWrites (q : JobSlot) (st : Step) : List (Option Nat) :=
  (List.range 3).map (fun l => st.shares.foldl (fun a x => slower a (nthD none x.2.writes l)) (nthD none q.partner.writes l))

/-- What this member and those below it bring to a step: READY carries it up the tree, and COMMIT the root's back down (14 R389; 10 R274, R284;
notes/assumptions/22.md). -/
def stepShare (q : JobSlot) (st : Step) : StepShare :=
  { samples := st.total.map StepShare.samples |>.getD (st.localCount + sumNat (st.shares.map (fun x => x.2.samples)))
    tokens := st.total.map StepShare.tokens |>.getD (st.localTokens + sumNat (st.shares.map (fun x => x.2.tokens)))
    casts := match q.setup with | some u => (List.range (Config.castCount u.prog.digest)).map (castRow u st) ++ foreignRows u st | none => []
    writes := slowWrites q st }

/-- The amax record of a cast of a step (10 R275). -/
def amaxRecord (u : JobSetup) (st : Step) (n : Nat) (k : Nat) : List Nat :=
  let s := combineSlots (castSlots u st k)
  let unit := Config.castOf u.prog.digest k 1 % 2 ^ 32
  let dir := Config.castOf u.prog.digest k 3 % 2
  toLE 4 (castTensor u k) ++ toLE 4 (n % 2 ^ 32) ++ toLE 4 unit
    ++ [Config.castOf u.prog.digest k 2 % 3, levelOf st.redo (fun r => fieldAt r 8 4 == unit && fieldAt r 16 1 == dir), b2n st.batch.isSome, 0]
    ++ toLE 4 s.amax ++ toLE 4 s.sat ++ toLE 4 s.inf ++ toLE 4 s.nan

/-- The amax records of a step: one for each tensor cast of the compiled program (notes/assumptions/21.md). -/
def amaxRecords (u : JobSetup) (st : Step) (n : Nat) : List (List Nat) := (List.range (Config.castCount u.prog.digest)).map (amaxRecord u st n)

/-- An amax entered in a history. -/
def Hist.push (h : Hist) (n amax : Nat) : Hist :=
  { h with entries := modNth (fun _ => amax) h.entries h.next, next := (h.next + 1) % 16, count := min 16 (h.count + 1), lastStep := n }

/-- The amax A that a history gives: the greatest of the min(HIST, COUNT) newest entries, INIT_AMAX with none (10 R276). -/
def Hist.amax (h : Hist) (r : Recipe) : Nat :=
  if h.count = 0 then r.initAmax
  else ((List.range (min r.hist h.count)).map (fun i => nthD 0 h.entries ((h.next + 15 - i) % 16))).foldl max 0

/-- The scale code of a tensor cast from history: one for every micro-batch of a step (10 R276). -/
def historyCode (hs : List Hist) (r : Recipe) (tensor : Nat) (f : Fmt) : Nat :=
  match decodeVal .fp32 (((hs.find? (fun h => h.tensor == tensor)).getD { tensor := tensor }).amax r) with
  | .fin _ m e => scaleCode m e r.margin f 0 0xFE
  | _ => 0xFE

/-- Whether a tensor cast of a program takes its scale from history. -/
def fromHistory (u : JobSetup) (k : Nat) : Bool := (nthD (defaultRecipe 0) u.recipes (Config.castOf u.prog.digest k 2 % 3)).source == 1

/-- The casts of a program that have histories, in order. -/
def histCasts (u : JobSetup) : List Nat := (List.range (Config.castCount u.prog.digest)).filter (fromHistory u)

/-- The history entries that a step adds, in history order: the amax of every tensor cast from history (10 R276). -/
def histEntries (u : JobSetup) (st : Step) : List Nat := (histCasts u).map (fun k => (combineSlots (castSlots u st k)).amax)

/-- The histories after a step, by the entries that it adds. -/
def pushHists (u : JobSetup) (n : Nat) (hs : List Hist) (es : List Nat) : List Hist :=
  ((histCasts u).zip es).foldl (fun hs e =>
    let t := castTensor u e.1
    if hs.any (fun h => h.tensor == t) then hs.map (fun h => if h.tensor = t then h.push n e.2 else h) else hs ++ [({ tensor := t } : Hist).push n e.2]) hs

/-- Log records of the last 16 committed steps (10 R275, R281). -/
def keepSteps (n : Nat) (l : List (Nat × List Nat)) : List (Nat × List Nat) := l.filter (fun e => decide (n < e.1 + 16))

/-- The bytes of an image of a job: every history that its casts have counts, those not yet made too (16 R432, R434). -/
def imageSize (q : JobSlot) : Nat :=
  96 + q.stateLen + 80 * ((q.setup.map (fun u => (histCasts u).length)).getD 0) + replicatedFixed + 48

/-! ### Applying a commit (14 R390) -/

/-- The step of the next snapshot of a layer: the planned one; after a job's first commit, of step f, an interval after it, once the mean step time that
the interval needs is known by the commit now applied. A fixed interval needs none (16 R442; notes/assumptions/27.md). -/
def nextSnapOf (d : Device) (q : JobSlot) (u : JobSetup) (n l : Nat) (writes : List (Option Nat)) : Option Nat :=
  (nthD none q.partner.nextSnap l).orElse (fun _ =>
    let iv := snapInterval u.policy u.topo.nmemb d.tide.now (l + 1) (imageSize q) writes (q.partner.withCommit d.tide.now)
    some (n - 1 + iv))

/-- The layers that the root snapshots at a commit (16 R442, R444): layers 1 and 2 at a job's first, then those whose step has come. -/
def rootLayers (d : Device) (j n : Nat) : Nat :=
  let q := d.jobAt j
  if q.partner.commits.isEmpty then 3
  else match q.setup, q.stepAt n with
    | some u, some st => sumNat ((List.range 3).map (fun l => if (nextSnapOf d q u n l (slowWrites q st)).any (fun k => decide (k ≤ n)) then 2 ^ l else 0))
    | _, _ => 0

/-- The next snapshot steps after a commit of step n, which the slot does not count yet: an interval after a snapshot; layer 3, which no first commit takes,
is due an interval after the first. `writes`: the slowest member's write times. -/
def Device.planSnaps (d : Device) (j n layers : Nat) (writes : List (Option Nat)) : Device :=
  match (d.jobAt j).setup with
  | some u =>
    d.updJob j (fun q => { q with partner := { q.partner with
      nextSnap := (List.range 3).map (fun l =>
        if q.partner.commits.isEmpty then
          let fixed := policyVal u.policy 0x0303 (l + 1) 0
          if fixed = 0 then none else some (n + fixed)
        else if bitOf layers l then
          some (n + snapInterval u.policy u.topo.nmemb d.tide.now (l + 1) (imageSize q) writes (q.partner.withCommit d.tide.now))
        else nextSnapOf d q u n l writes) } })
  | none => d

/-- A commit counted among those that the mean step time is taken over (16 R442). -/
def Device.noteCommit (d : Device) (j : Nat) : Device :=
  d.updJob j (fun q => { q with partner := q.partner.withCommit d.tide.now })

/-- A step with n = 0 leaves no update: its blocks are those of the step before it. Later steps that have started run again from them (10 R284;
notes/assumptions/22.md). -/
def Device.voidStep (d : Device) (j : Nat) (st : Step) : Device :=
  if (d.jobAt j).steps.any (fun x => decide (st.num < x.num) && x.started) then
    (d.replaySteps j).updJob j (fun q => { q with steps := q.steps.map (fun x => if x.num = st.num then { st with undo := [] } else x) })
  else (d.undoOf st).updStep j st.num (fun x => { x with undo := [] })

/-- A step as its log entry has it: what all the members brought to it is what the entry was formed from (16 R437). -/
def Step.logged (st : Step) : Step := { st with total := st.logTotal.orElse (fun _ => st.total) }

/-- The commit of step n applied (14 R390), with the snapshots it calls for placed (16 R444), among them the fresh image of R445. -/
def Device.applyCommit (d0 : Device) (j n layers : Nat) : Device :=
  let d := match (d0.jobAt j).steps.find? (fun x => x.num == n) with
    | some st => if normCount (d0.jobAt j) st = 0 then d0.voidStep j st else d0
    | none => d0
  let q := d.jobAt j
  match q.setup, (q.steps.find? (fun x => x.num == n)).map Step.logged with
  | some u, some st =>
    let post := d.postDigest j n
    let head := sha384 (sliceAt q.commit.head 0 48 ++ tallyRecord d q u st post)
    let none' := normCount q st == 0
    let recs := amaxRecords u st n
    let d1 := d.updJob j (fun q => { q with
      commit := { q.commit with step := some n, epoch := st.sub.epoch, sec := d.tide.sec, ns := d.tide.ns, head := head, pre := post, sinceSign := q.commit.sinceSign + 1 }
      logs := {
        amax := keepSteps n (q.logs.amax ++ recs.map (fun r => (n, r)))
        redo := keepSteps n (q.logs.redo ++ st.redo.map (fun r => (n, r)))
        treat := keepSteps n (q.logs.treat ++ (if u.jr.treatLog then st.slots.map (fun e => (n, e.2.treatment)) else []))
        hist := if none' then q.logs.hist else pushHists u n q.logs.hist (histEntries u st) }
      partner := { q.partner with refill := false }
      ready := q.ready.filter (fun r => decide (n < r.1)) })
    let d2 := if none' then d1.logEvent srcRenura 0x0303 sevNotice (some j) (toLE 8 n) else d1
    let d3 := d2.stepNotice j st stOk
    let d4 := d3.updJob j (fun q => { q with
      steps := q.steps.filter (fun x => x.num != n)
      manifest := q.manifest.filter (fun e => !(e.epoch == st.sub.epoch && decide (st.sub.posFirst ≤ e.pos) && decide (e.pos < st.sub.posFirst + st.sub.posCount))) })
    let d5 : Device := { d4 with tide := { d4.tide with entries := d4.tide.entries.filter (fun e =>
      !(e.2.fired && e.2.action == 2 && e.2.job == j && e.2.step == n)) } }
    let d6 := if (d5.jobAt j).commit.signDue || decide (policyVal u.policy 0x0602 0 1024 ≤ (d5.jobAt j).commit.sinceSign) then d5.signCheckpoint j else d5
    let d7 := (List.range 3).foldl (fun e l => if bitOf layers l || (l == 0 && q.partner.refill) then e.placeSnapshot j l n else e) ((d6.planSnaps j n layers (slowWrites q st)).noteCommit j)
    if (d7.jobAt j).stopping.isSome then (d7.signCheckpoint j).stopJob j (fun _ => stAborted) else d7
  | _, _ => d

/-! ### The commit tree (14 R389) -/

/-- The commit-tree children of a member. -/
def childrenOf (t : Topo) : List Nat := (t.peers.filter (fun p => p.child)).map Peer.bundId

/-- Whether a device is ready for a step: it is the oldest uncommitted one, marked and complete, no fault waits in its data, its log entry is with
the holder, and the member is covered (14 R389; 01 R40; 16 R438, R453). -/
def deviceReady (d : Device) (j n : Nat) : Bool :=
  let q := d.jobAt j
  match q.steps.head?, q.setup with
  | some st, some u =>
    st.num == n && st.stages && commitMarked d j n && !q.dataHeld d j && ((groupOf u.topo).isEmpty || st.logDone) && !q.partner.uncovered
      && (q.state == .running || q.state == .suspended)
  | _, _ => false

/-- COMMIT(n) sent to the children. -/
def Device.forwardCommit (d : Device) (j n layers : Nat) (share : StepShare) : Device :=
  match (d.jobAt j).setup with
  | some u => (childrenOf u.topo).foldl (fun e c => e.tokenTo j c (fun s => .commit s n layers share)) d
  | none => d

/-- A device that may be ready acts: the root, or a single device, applies the commit; another member sends READY to its parent. -/
def Device.tryReady (d : Device) (j n : Nat) : Device :=
  let d1 := d.settleAll j
  match (d1.jobAt j).setup with
  | some u =>
    if deviceReady d1 j n && (childrenOf u.topo).all (fun c => (d1.jobAt j).ready.contains (n, c)) then
      let share := (((d1.jobAt j).stepAt n).map (stepShare (d1.jobAt j))).getD {}
      match u.topo.parent.bind (fun p => u.topo.peers[p]?) with
      | none => let ls := rootLayers d1 j n; (d1.forwardCommit j n ls share).applyCommit j n ls
      | some p =>
        if (d1.jobAt j).steps.any (fun x => x.num == n && x.readySent) then d1
        else (d1.updStep j n (fun x => { x with readySent := true })).sendToken j p.bundId (.ready p.slot n share)
    else d1
  | none => d1

/-- STEP_READY (14 R389). -/
def execStepReady (j : Fin 16) (step : Nat) (s : State) : Host.Outcome State Fault Refusal :=
  onDev s (fun d => d.tryReady j step)

/-- What a child reported of a step, kept with it. -/
def Device.takeShare (d : Device) (j n src : Nat) (x : StepShare) : Device :=
  d.updStep j n (fun st => { st with shares := st.shares.filter (fun y => y.1 != src) ++ [(src, x)] })

/-- COLL_READY: READY(n) from a child; `share`: what the members below it bring to the step (10 R274, R284). -/
def execCollReady (src : Nat) (j : Fin 16) (step : Nat) (share : StepShare) (s : State) : Host.Outcome State Fault Refusal :=
  onDev s (fun d =>
    match (d.jobAt j).setup with
    | some u =>
      if (childrenOf u.topo).contains src && !(d.jobAt j).ready.contains (step, src) then
        ((d.updJob j (fun q => { q with ready := q.ready ++ [(step, src)] })).takeShare j step src share).tryReady j step
      else d
    | none => d)

/-- COLL_COMMIT: COMMIT(n) from the parent, applied and forwarded; it counts for the step whose READY this member has sent. The shard is hashed once no
line of it is held (01 R39). `share`: what all the members brought to the step. -/
def execCollCommit (src : Nat) (j : Fin 16) (step layers : Nat) (share : StepShare) (s : State) : Host.Outcome State Fault Refusal :=
  onDev s (fun d =>
    match (d.jobAt j).setup with
    | some u =>
      let parent := (u.topo.parent.bind (fun p => u.topo.peers[p]?)).map Peer.bundId
      if parent == some src && (d.jobAt j).steps.head?.any (fun x => x.num == step && x.readySent) && !(d.jobAt j).shardHeld d then
        ((d.forwardCommit j step layers share).updStep j step (fun st => { st with total := some share })).applyCommit j step layers
      else d
    | none => d)

/-- COLL_PHASE_TOKEN (13 R363, R369): a peer's phase token ends the waits on it for that step. -/
def execCollPhaseToken (src : Nat) (j : Fin 16) (step _param : Nat) (s : State) : Host.Outcome State Fault Refusal :=
  onDev s (fun d => { d with fab := { d.fab with waits := d.fab.waits.filter (fun w => !(w.job == j.val && w.step == step && w.peer == src)) } })

end Sys2Proof.Machine
end

