-- ==== Sys2Proof/Machine/Skim.lean ====
section
/-! DEFINITION. The Skim engine: its commands, and its failure (08 R245 to R248). -/
namespace Sys2Proof.Machine

/-! ### What Skim and Sluice commands share -/

/-- The step that a job works on: its oldest uncommitted step that has started. -/
def JobSlot.current (q : JobSlot) : Option Nat := (q.steps.find? (fun x => x.started)).map Step.num

/-- A Skim or Sluice command that was rejected or failed: its status is the step's descriptor status, the step does not commit, and the job
stops as after a failed copy command (06 R182; 08 R246; 09 R261); `seq`: the command's place in the order of issue. -/
def Device.failEngine (d : Device) (j seq st : Nat) : Device :=
  let cur := (d.jobAt j).current
  let d1 := d.updJob j (fun q => { q with steps := q.steps.map (fun x => if some x.num = cur then x.noteStatus seq st else x) })
  if (d1.jobAt j).live then d1.stopJob j (fun n => if some n = cur then st else stAborted) else d1

/-- The status of an engine's access to stretches of this device's map for a job's partition (06 R173, R182, R194); notes/assumptions/19.md. -/
def engineAccess (d : Device) (j : Nat) (spans : List (Nat × Nat)) : Nat :=
  let req := Requester.part (((d.jobAt j).part).getD 4)
  let acc := (spans.map (fun s => accessStatus d req s.1 s.2)).find? (· != 0)
  firstFail [
    (spans.any (fun s => !mapped d s.1 s.2), stMemAddress),
    (spans.any (fun s => !bedsOk d false s.1 s.2), stBedMode),
    (acc.isSome, acc.getD 0),
    (spans.any (fun s => !keyed d s.1 s.2), stKeyAbsent)]

/-! ### The command -/

/-- The fields of a Skim command (08 R246). -/
structure SkimF where
  fmtA : Nat
  fmtB : Nat
  fmtOut : Nat
  rmode : Nat
  ftzA : Bool
  ftzB : Bool
  ovfSp : Bool
  cs : Nat
  bias : Bool
  m : Nat
  recAddr : Nat
  inp : Nat
  wgt : Nat
  aux : Nat
  out : Nat
  outStride : Nat
  n : Nat
  flag : Nat
  flagEn : Bool
  pan : Nat
  rsv : Bool
deriving DecidableEq, Repr

/-- A command's 64 bytes as fields. -/
def skimF (bs : List Nat) : SkimF :=
  let c := wordAt bs 0
  let w := wordAt bs 13
  { fmtA := bits c 31 28, fmtB := bits c 27 24, fmtOut := bits c 23 20, rmode := bits c 19 17
    ftzA := bitOf c 16, ftzB := bitOf c 15, ovfSp := bitOf c 14, cs := bits c 13 12, bias := bitOf c 11
    m := wordAt bs 1, recAddr := fieldAt bs 8 8, inp := fieldAt bs 16 8, wgt := fieldAt bs 24 8, aux := fieldAt bs 32 8
    out := fieldAt bs 40 8, outStride := wordAt bs 12
    n := bits w 15 0, flag := bits w 21 16, flagEn := bitOf w 22, pan := bits w 29 24
    rsv := bits c 10 0 != 0 || bitOf w 23 || bits w 31 30 != 0 || fieldAt bs 56 8 != 0 }

def SkimF.fA (x : SkimF) : Fmt := (Fmt.ofCode x.fmtA).getD .bf16
def SkimF.fB (x : SkimF) : Fmt := (Fmt.ofCode x.fmtB).getD .bf16
def SkimF.fOut (x : SkimF) : Fmt := (Fmt.ofCode x.fmtOut).getD .bf16
def SkimF.mode (x : SkimF) : RMode := (RMode.ofCode x.rmode).getD .rne

/-- Bytes of a weight row, of the channel scales, and where the bias starts. -/
def SkimF.wRow (x : SkimF) : Nat := roundUp (packedBytes x.fB x.n) 32
def SkimF.csBytes (x : SkimF) : Nat := match x.cs with | 1 => x.n | 2 => 4 * x.n | _ => 0
def SkimF.biasAt (x : SkimF) : Nat := x.aux + roundUp x.csBytes 32

/-- The stretches a command touches: weights, scales, bias, output rows. -/
def SkimF.spans (x : SkimF) (c : ConvRec) : List (Nat × Nat) :=
  [(x.wgt, c.kt * x.wRow), (x.aux, x.csBytes), (x.biasAt, if x.bias then 4 * x.n else 0)]
    ++ (List.range x.m).map (fun m => (x.out + m * x.outStride, packedBytes x.fOut x.n))

/-- The input pixels a command reads. -/
def SkimF.pixels (x : SkimF) (c : ConvRec) : List (Nat × Nat) :=
  (List.range x.m).flatMap (fun m => (List.range (c.kt / c.cin)).filterMap (fun tap =>
    match c.coord m (tap * c.cin) with
    | (some (ix, iy, iz), ch) =>
      let a := c.pixelAt x.inp ix iy iz
      some (a + packedBytes x.fA ch, packedBytes x.fA (ch + c.cin) - packedBytes x.fA ch)
    | (none, _) => none))

/-- The checks of a Skim command in the order of 04 R120 with the limits of 08 R245: RMODE 4 and above at position 1, HALO_EN at 6, DIM 3
and the limits at 8, alignment after them, then the accesses (notes/assumptions/19.md). -/
def skimChecks (d : Device) (j : Nat) (x : SkimF) (c : ConvRec) : Nat :=
  let pr := pairOf x.fA x.fB
  let big := max c.cin x.n
  firstFail [
    (badFmt x.fmtA || badFmt x.fmtB || badFmt x.fmtOut || decide (3 < x.rmode) || x.cs == 3 || x.rsv || c.rsv, stReserved),
    (x.n == 0 || c.zero, stZeroSize),
    (pr.isNone || pr == some .fp32, stFormatPair),
    (c.halo, stOptionFormat),
    (!x.fOut.isOut, stOutFormat),
    (c.dim == 3 || decide (15 < x.pan) || decide (8 < c.cin) && decide (8 < x.n) || decide (1024 < big)
      || c.rangeBad x.fA x.m x.n c.kt (if c.dim = 1 then 255 else 32) (if c.dim = 1 then 255 else 32) 8, stRange),
    (c.alignBad x.fA || x.recAddr % 32 != 0 || x.outStride % 4 != 0, stAlign),
    (x.m != 0 && engineAccess d j (x.spans c ++ x.pixels c) != 0, engineAccess d j (x.spans c ++ x.pixels c))]

/-! ### The convolution (08 R235, R237 to R240) -/

/-- The activation code of output pixel m at K position k, before FTZ. -/
def skimAct (d : Device) (x : SkimF) (c : ConvRec) (m k : Nat) : Nat :=
  match c.coord m k with
  | (some (ix, iy, iz), ch) => unpackAt x.fA (fun i => d.mem.read (c.pixelAt x.inp ix iy iz + i)) ch
  | (none, _) => c.padCode x.fA

/-- The weight code of K position k and column n, before FTZ. -/
def skimWeight (d : Device) (x : SkimF) (k n : Nat) : Nat := unpackAt x.fB (fun i => d.mem.read (x.wgt + k * x.wRow + i)) n

/-- The Ledger value of output (m, n): the exact sum of the products of column n's group (08 R243; 03 R77). -/
def skimEntry (d : Device) (x : SkimF) (c : ConvRec) (acts : List Nat) (n : Nat) : LEntry :=
  let ks := (List.range c.kt).filter (fun k => c.kGroup k == c.colGroup n)
  let ps := ks.map (fun k => (decodeVal x.fA (nthD 0 acts k), decodeVal x.fB (ftzCode x.ftzB x.fB (skimWeight d x k n))))
  let e := ps.foldl (fun e q => e.product q.1 q.2 (pairOf x.fA x.fB == some .int8)) ({} : LEntry)
  e.addL (sumInt (ps.map (fun q => productL q.1 q.2 0)))

/-- A scale of the command's channel scales. -/
def memScale (d : Device) (kind addr i : Nat) : Val :=
  match kind with
  | 1 => decodeVal .e8m0 (d.mem.read (addr + i))
  | 2 => fp32V (d.mem.readLE (addr + 4 * i) 4)
  | _ => .fin false 1 0

/-- One output pixel: its codes stored, its flags and counts in the pan that PAN names. No capture slot changes (10 R273). -/
def skimPixel (src : Device) (p : Nat) (x : SkimF) (c : ConvRec) (d : Device) (m : Nat) : Device :=
  let raw := (List.range c.kt).map (skimAct src x c m)
  let acts := raw.map (ftzCode x.ftzA x.fA)
  let ws := (List.range x.n).map (fun n => (skimEntry src x c acts n).writeBack (.fin false 1 0) (memScale src x.cs x.aux n)
    (if x.bias then some (fp32V (src.mem.readLE (x.biasAt + 4 * n) 4)) else none) x.fOut x.mode x.ovfSp 0)
  let d1 := d.updPan p (fun q => ws.foldl (fun q w => q.record {} w.value w.conv x.fOut) (q.raise (.fl (raw != acts))))
  d1.store (x.out + m * x.outStride) (packCodes x.fOut (ws.map (fun w => w.conv.code)))

/-- Whether the command flushes a subnormal weight (02 R63). -/
def skimFlushes (d : Device) (x : SkimF) (c : ConvRec) : Bool :=
  x.ftzB && (List.range c.kt).any (fun k => (List.range x.n).any (fun n => skimWeight d x k n != ftzCode true x.fB (skimWeight d x k n)))

/-- The head of a Skim queue taken off. -/
def Device.popSkim (d : Device) (t : Nat) : Device := d.updEng t (fun e => { e with skim := e.skim.drop 1 })

/-- The computation of the oldest Skim command. -/
def Device.skimWork (d : Device) (t mismatches : Nat) (x : SkimF) (c : ConvRec) : Device :=
  let p := 16 * t + x.pan % 16
  let d1 := (List.range x.m).foldl (skimPixel d p x c) (d.updPan p (fun q => q.raise (.fl (x.m != 0 && skimFlushes d x c))))
  let d2 := (d1.popSkim t).updEng t (fun e => { e with skimResidue := satAdd e.skimResidue (if x.m = 0 then 0 else mismatches) })
  if x.flagEn then d2.updPan p (fun q => q.setFlag x.flag) else d2

/-- SKIM_COMMAND (08 R246): the oldest command is checked and computed whole; `mismatches` pixels were computed again after a residue
mismatch (R248). A failed engine refuses it. -/
def execSkimCommand (t : Fin 4) (mismatches : Nat) (hit : Option Hit) (s : State) : Host.Outcome State Fault Refusal :=
  onDev s (fun d =>
    match (d.engAt t).skim with
    | [] => d
    | q :: _ =>
      let x := skimF q.bytes
      let c := convRec (d.mem.readN x.recAddr 64)
      let recSt := if x.recAddr % 32 = 0 then engineAccess d q.job [(x.recAddr, 64)] else 0
      let st := if (d.engAt t).skimFailed then 0x0805 else if recSt ≠ 0 then recSt else skimChecks d q.job x c
      if !engOn d then d
      else if st ≠ 0 then (d.popSkim t).failEngine q.job q.seq st
      else d.withHit hit (if x.m = 0 then [(x.recAddr, 64)] else (x.recAddr, 64) :: x.spans c ++ x.pixels c) Device.holdFault
        (fun e => e.skimWork t mismatches x c))

/-- SKIM_FAILED (08 R248): the third mismatch in a row on one pixel of the command in work; a job fault follows. -/
def execSkimFailed (t : Fin 4) (s : State) : Host.Outcome State Fault Refusal :=
  onDev s (fun d =>
    if !engOn d || (d.engAt t).skim.isEmpty || (d.engAt t).skimFailed then d
    else
      let job := (d.engAt t).skim.head?.map SkimCmd.job
      let d1 := (d.updEng t (fun e => { e with skimFailed := true, skimResidue := satAdd e.skimResidue 3 })).updWear
        (fun w => { w with skims := wearAdd w.skims t })
      (d1.logEvent (srcTer t) 0x0809 sevFault job [t.val]).jobFault)

end Sys2Proof.Machine
end

