-- ==== Sys2Proof/Machine/Sluice.lean ====
section
/-! DEFINITION. The Sluice: expert choice, admission and dispatch, combine, branch gating (09 R254 to R266). -/
namespace Sys2Proof.Machine

/-- The fields of a Sluice command (09 R255). -/
structure SluiceF where
  op : Nat
  fmt : Nat
  ksel : Nat
  flag : Nat
  flagEn : Bool
  pan : Nat
  wflag : Nat
  waitEn : Bool
  t : Nat
  e : Nat
  wpan : Nat
  tbase : Nat
  route : Nat
  src : Nat
  srcStride : Nat
  rowBytes : Nat
  xtab : Nat
  stat : Nat
  pan0 : Nat
  epp : Nat
  lbase : Nat
  dv : Nat
  nsrc : Nat
  rsv : Bool
deriving DecidableEq, Repr

/-- A command's 64 bytes as fields. -/
def sluiceF (bs : List Nat) : SluiceF :=
  let c := wordAt bs 0
  let ew := wordAt bs 2
  let g := wordAt bs 14
  { op := bits c 31 28, fmt := bits c 27 24, ksel := bits c 23 20, flag := bits c 19 14, flagEn := bitOf c 13, pan := bits c 12 9
    wflag := bits c 8 3, waitEn := bitOf c 2
    t := wordAt bs 1, e := bits ew 15 0, wpan := bits ew 19 16, tbase := wordAt bs 3
    route := fieldAt bs 16 8, src := fieldAt bs 24 8, srcStride := wordAt bs 8, rowBytes := wordAt bs 9
    xtab := fieldAt bs 40 8, stat := fieldAt bs 48 8
    pan0 := bits g 3 0, epp := bits g 10 4, lbase := bits g 16 11, dv := fieldAt bs 60 2, nsrc := fieldAt bs 62 2
    rsv := bits c 1 0 != 0 || bits ew 31 20 != 0 || bits g 31 17 != 0 }

/-- An entry of the expert table (09 R256). -/
structure Expert where
  buf : Nat
  out : Nat
  tab : Nat
  stride : Nat
  cap : Nat
  peer : Nat
  ter : Nat
  isLocal : Bool
deriving DecidableEq, Repr

/-- Expert e of a command's table. -/
def expertAt (d : Device) (x : SluiceF) (e : Nat) : Expert :=
  let a := x.xtab + 32 * e
  let o := d.mem.readLE (a + 30) 2
  { buf := d.mem.readLE a 8, out := d.mem.readLE (a + 8) 8, tab := d.mem.readLE (a + 16) 8, stride := d.mem.readLE (a + 24) 4
    cap := d.mem.readLE (a + 28) 2, peer := bits o 11 0, ter := bits o 13 12, isLocal := bitOf o 15 }

/-- The experts that a Terrace's Sluice owns. -/
def ownedExperts (d : Device) (x : SluiceF) (t : Nat) : List Nat :=
  (List.range x.e).filter (fun e => (expertAt d x e).isLocal && (expertAt d x e).ter == t)

/-- The address of a routing record (09 R257). -/
def SluiceF.recordAt (x : SluiceF) (i r : Nat) : Nat := x.route + (i * x.ksel + r) * 8

/-- ⌈DV/256⌉. -/
def SluiceF.perToken (x : SluiceF) : Nat := ceilDiv x.dv 256

/-- The Sluice command at the head of a Terrace's queue. -/
def Device.sluiceHead (d : Device) (t : Nat) : Option SluiceCmd := (d.engAt t).sluice.head?

/-- The head when it may start: its OP, its wait, and no DISPATCH under way (09 R254). -/
def sluiceStart (d : Device) (t : Nat) (mine : Nat → Bool) : Option (SluiceCmd × SluiceF) :=
  match d.sluiceHead t with
  | some c =>
    let x := sluiceF c.bytes
    if engOn d && mine x.op && (d.engAt t).disp.isNone && (!x.waitEn || (d.panAt (16 * t + x.wpan)).flag x.wflag) then some (c, x) else none
  | none => none

/-- A command complete: off the queue, its flag set. -/
def Device.completeSluice (d : Device) (t : Nat) (x : SluiceF) : Device :=
  let d1 := d.updEng t (fun e => { e with sluice := e.sluice.drop 1, disp := none })
  if x.flagEn then d1.updPan (16 * t + x.pan) (fun q => q.setFlag x.flag) else d1

/-- A command rejected (09 R261). -/
def Device.rejectSluice (d : Device) (t : Nat) (c : SluiceCmd) (st : Nat) : Device :=
  (d.updEng t (fun e => { e with sluice := e.sluice.drop 1, disp := none })).failEngine c.job c.seq st

/-- The fields of a Sluice message as numbers, and the row or record bytes it carries. -/
def slFields : SlMsg → List Nat × List Nat
  | .request r => ([0, r.expert, r.token, r.rank, r.gate, r.srcPeer, r.srcTer, b2n r.srcLocal], [])
  | .fin => ([1], [])
  | .grant token rank slot => ([2, token, rank, slot], [])
  | .row expert slot data => ([3, expert, slot], data)
  | .record expert slot token col r => ([4, expert, slot, token, col], r)
  | .again ownTer expert slot token col => ([5, ownTer, expert, slot, token, col], [])

/-- A Sluice message as bytes: 16 for its fields, then its row or record; the spec gives no layout, so each byte is free (notes/assumptions/24.md). -/
def slBytes (ter : Nat) (m : SlMsg) : List Nat :=
  let f := slFields m
  (List.range (16 + f.2.length)).map (fun i => Config.wireByte (ter :: f.1 ++ f.2) i % 256)

/-- A message sent to a Terrace's Sluice of another device, in SLUICE transactions of at most 4,096 bytes (13 R361, R363). -/
def Device.sendSluice (d : Device) (j dst slot ter : Nat) (m : SlMsg) : Device :=
  match d.routeOf dst with
  | .fail st => d.report j st
  | _ =>
    let bs := slBytes ter m
    ((chunks 4096 bs.length bs).foldl (fun e c => e.oneWay { op := 7, dst := dst, src := 0, job := slot, data := c }) d).send (.sluice dst ter slot m)

/-- The same by peer index. -/
def Device.sluiceToPeer (d : Device) (j peer ter : Nat) (m : SlMsg) : Device :=
  match peerBund d j peer with
  | some pe => d.sendSluice j pe.bundId pe.slot ter m
  | none => d.report j stNoRoute

/-! ### SELECT (09 R258) -/

/-- The scores that may be chosen, greatest first, the lower expert first on a tie. -/
def ranked (scores : List Nat) : List (Nat × Nat) :=
  let ok := scores.zipIdx.filter (fun p => match fp32V p.1 with | .nan _ => false | .inf s => !s | _ => true)
  sortBy (fun a b => !orderBelow (fp32V a.1) (fp32V b.1)) ok

/-- The routing records of one token as bytes. -/
def chosen (ksel : Nat) (scores : List Nat) : List Nat :=
  let rs := ranked scores
  (List.range ksel).flatMap (fun r => match rs[r]? with
    | some (g, e) => toLE 2 e ++ toLE 2 0xFFFF ++ toLE 4 g
    | none => toLE 2 0xFFFF ++ toLE 2 0xFFFF ++ toLE 4 0)

/-- The stretches a SELECT touches, and its checks (09 R258, R261). -/
def selectSpans (x : SluiceF) : List (Nat × Nat) :=
  (List.range x.t).map (fun i => (x.src + i * x.srcStride, 4 * x.e)) ++ [(x.route, x.t * x.ksel * 8)]
def selectChecks (d : Device) (j : Nat) (x : SluiceF) : Nat :=
  firstFail [(x.rsv || badFmt x.fmt, stReserved), (x.ksel == 0 || x.e == 0, stZeroSize), (decide (1024 < x.e) || decide (8 < x.ksel), stRange),
    (x.srcStride % 32 != 0 || x.route % 32 != 0 || x.src % 32 != 0, stAlign),
    (engineAccess d j (selectSpans x) != 0, engineAccess d j (selectSpans x))]

/-- The records that a SELECT writes. -/
def Device.selectWork (d : Device) (t : Nat) (x : SluiceF) : Device :=
  ((List.range x.t).foldl (fun e i =>
    e.store (x.recordAt i 0) (chosen x.ksel ((List.range x.e).map (fun k => d.mem.readLE (x.src + i * x.srcStride + 4 * k) 4)))) d).completeSluice t x

/-- SELECT. -/
def execSelect (t : Fin 4) (hit : Option Hit) (s : State) : Host.Outcome State Fault Refusal :=
  onDev s (fun d =>
    match sluiceStart d t (fun op => op == 1) with
    | none => d
    | some (c, x) =>
      let st := selectChecks d c.job x
      if st ≠ 0 then d.rejectSluice t c st
      else d.withHit hit (selectSpans x) Device.holdFault (fun e => e.selectWork t x))

/-- The stretches a DISPATCH touches on this device. -/
def dispatchSpans (d : Device) (x : SluiceF) (t : Nat) : List (Nat × Nat) :=
  [(x.route, x.t * x.ksel * 8), (x.xtab, 32 * x.e), (x.stat, 4 * x.e)]
    ++ (List.range x.t).map (fun i => (x.src + i * x.srcStride, x.rowBytes))
    ++ (ownedExperts d x t).flatMap (fun e =>
      let y := expertAt d x e
      (List.range y.cap).flatMap (fun k => [(y.tab + 16 * k, 16), (y.buf + k * y.stride, x.rowBytes)]))

/-! ### DISPATCH: completion, rows, grants (09 R259) -/

/-- The combine counts of a source (09 R262, R263): the records that each target pan expects for a granted token. -/
def expectFor (g : CombineTarget) (token : Nat) : List CombineCount :=
  let j := token - g.tbase
  let per := ceilDiv g.dv 256
  let pans := (List.range g.dv).map (fun c => g.pan0 + (j * per + c / 256) / g.epp)
  pans.dedup.map (fun p => { pan := p, expect := (pans.filter (· == p)).length })

/-- Counts added pan by pan. -/
def addCounts (cs new : List CombineCount) : List CombineCount :=
  new.foldl (fun cs n =>
    if cs.any (fun c => c.pan == n.pan) then cs.map (fun c => if c.pan == n.pan then { c with expect := c.expect + n.expect, got := c.got + n.got } else c)
    else cs ++ [n]) cs

/-- The flags of armed counts that are reached: set in their pans (09 R262). A reached count is done, and a DISPATCH with none left is. -/
def Device.settleCombine (d : Device) (t : Nat) : Device :=
  let due := (d.engAt t).targets.filter (fun g => g.armed)
  let d1 := d.updEng t (fun e => { e with
    targets := (e.targets.map (fun (g : CombineTarget) => if g.armed then { g with counts := g.counts.filter (fun c => decide (c.got < c.expect)) } else g)).filter
      (fun g => !g.armed || !g.counts.isEmpty) })
  due.foldl (fun e g => match g.flag with
    | some f => (g.counts.filter (fun c => decide (c.expect ≤ c.got))).foldl (fun e c => e.updPan (16 * t + c.pan) (fun q => q.setFlag f)) e
    | none => e) d1

/-- The combine counts of the DISPATCH in progress changed. -/
def Engines.updTarget (e : Engines) (f : CombineTarget → CombineTarget) : Engines :=
  { e with targets := e.targets.map (fun g => if g.armed then g else f g) }

/-- A DISPATCH whose three conditions hold completes (09 R259 phase 5): the combine counts are armed, FLAG is set. -/
def Device.settleDispatch (d : Device) (t : Nat) : Device :=
  match d.sluiceHead t, (d.engAt t).disp with
  | some c, some p =>
    if p.answered && p.grantsDue == 0 && p.rowsDue == 0 then
      let d1 := (d.completeSluice t (sluiceF c.bytes)).updEng t (fun e => e.updTarget (fun g => { g with armed := true }))
      d1.settleCombine t
    else d
  | _, _ => d

/-- Where an admitted row goes at its owner. -/
def rowSpan (d : Device) (x : SluiceF) (expert slot n : Nat) : Nat × Nat := let y := expertAt d x expert; (y.buf + slot * y.stride, n)

/-- An admitted row at its owner: stored in its slot. -/
def Device.takeRow (d : Device) (t expert slot : Nat) (data : List Nat) : Device :=
  match d.sluiceHead t, (d.engAt t).disp with
  | some c, some p =>
    if p.rowsDue = 0 then d
    else
      let y := expertAt d (sluiceF c.bytes) expert
      ((d.store (y.buf + slot * y.stride) data).updEng t (fun e => { e with disp := some { p with rowsDue := p.rowsDue - 1 } })).settleDispatch t
  | _, _ => d

/-- The stretches that a grant touches at its source: its routing record, and for an admitted request the row, with its slot when this device owns the
expert. -/
def grantSpans (d : Device) (t token rank slot : Nat) : List (Nat × Nat) :=
  match d.sluiceHead t with
  | some c =>
    let x := sluiceF c.bytes
    let i := token - x.tbase
    let ex := d.mem.readLE (x.recordAt i rank) 2
    (x.recordAt i rank, 8) :: (if slot = 0xFFFF then []
      else (x.src + i * x.srcStride, x.rowBytes) :: (if (expertAt d x ex).isLocal then [rowSpan d x ex slot x.rowBytes] else []))
  | none => []

/-- A grant at its source: SLOT written, and for an admitted request the row sent and the combine count raised. -/
def Device.takeGrant (d : Device) (t token rank slot : Nat) : Device :=
  match d.sluiceHead t, (d.engAt t).disp with
  | some c, some p =>
    let x := sluiceF c.bytes
    if p.grantsDue = 0 then d
    else
      let i := token - x.tbase
      let a := x.recordAt i rank
      let ex := d.mem.readLE a 2
      let d1 := (d.store (a + 2) (toLE 2 slot)).updEng t (fun e => ({ e with disp := some { p with grantsDue := p.grantsDue - 1 } } : Engines).updTarget
        (fun g => if slot = 0xFFFF then g else { g with counts := addCounts g.counts (expectFor g token), rows := g.rows ++ [(ex, slot, token)] }))
      let d2 :=
        if slot = 0xFFFF then d1
        else
          let y := expertAt d x ex
          let row := d.readN (x.src + i * x.srcStride) x.rowBytes
          if y.isLocal then d1.takeRow y.ter ex slot row else d1.sluiceToPeer c.job y.peer y.ter (.row ex slot row)
      d2.settleDispatch t
  | _, _ => d

/-! ### DISPATCH: admission (09 R259, R260) -/

/-- A grant on its way to its source. -/
def Device.sendGrant (d : Device) (j : Nat) (r : SlReq) (slot : Nat) : Device :=
  if r.srcLocal then d.takeGrant r.srcTer r.token r.rank slot else d.sluiceToPeer j r.srcPeer r.srcTer (.grant r.token r.rank slot)

/-- A slot-table entry. -/
def slotEntry (r : SlReq) : List Nat :=
  toLE 4 r.token ++ toLE 2 (r.srcPeer % 4096 + 4096 * (r.srcTer % 4) + 32768 * b2n r.srcLocal) ++ [r.rank % 256, 0] ++ toLE 4 r.gate ++ [0, 0, 0, 0]

/-- The requests of an expert in ascending global token index. -/
def requestsFor (rs : List SlReq) (e : Nat) : List SlReq :=
  sortBy (fun a b => decide (a.token ≤ b.token)) (rs.filter (fun r => r.expert == e))

/-- Whether two requests of an expert name one token (09 R261). -/
def requestsClash (rs : List SlReq) : Bool := !decide ((rs.map SlReq.token).Nodup)

/-- One expert admitted: its slot table and STAT word, the skips counted. -/
def admitExpert (t : Nat) (x : SluiceF) (rs : List SlReq) (d : Device) (e : Nat) : Device :=
  let y := expertAt d x e
  let mine := requestsFor rs e
  let adm := mine.take y.cap
  let skip := mine.length - adm.length
  let d1 := (List.range adm.length).foldl (fun f i => match adm[i]? with | some r => f.store (y.tab + 16 * i) (slotEntry r) | none => f) d
  (d1.store (x.stat + 4 * e) (toLE 2 adm.length ++ toLE 2 skip)).updEng t (fun g => { g with skips := satAdd g.skips skip })

/-- The source of an entry, and the sources whose END has come. -/
def SlIn.source (e : SlIn) : Bool × Nat × Nat := (e.isLocal, e.peer, e.ter)
def endedSources (l : List SlIn) : List (Bool × Nat × Nat) := ((l.filter (fun e => e.req.isNone)).map SlIn.source).dedup

/-- The requests of one admission, each source's up to its first END, and what stays for the next; `closed` are the sources whose END is passed. -/
def splitRound (ready : List (Bool × Nat × Nat)) : List (Bool × Nat × Nat) → List SlIn → List SlReq × List SlIn
  | _, [] => ([], [])
  | closed, e :: l =>
    if ready.contains e.source && !closed.contains e.source then
      let r := splitRound ready (if e.req.isNone then e.source :: closed else closed) l
      (e.req.toList ++ r.1, r.2)
    else
      let r := splitRound ready closed l
      (r.1, e :: r.2)

/-- Whether a line that the DISPATCHes in progress on this device touch is held: their admission and the rows between them wait for it (01 R39). -/
def dispatchHeld (d : Device) : Bool :=
  (List.range 4).any (fun t => match d.sluiceHead t, (d.engAt t).disp with
    | some c, some _ => (dispatchSpans d (sluiceF c.bytes) t).any (fun s => heldAt d s.1 s.2)
    | _, _ => false)

/-- The owner's admission once NSRC sources have sent their END. Requests that clash for an expert get no grant, and the group hears of it
(09 R261). -/
def Device.grantAll (d : Device) (t : Nat) : Device :=
  match d.sluiceHead t, (d.engAt t).disp with
  | some c, some p =>
    let x := sluiceF c.bytes
    let ready := endedSources (d.engAt t).inbox
    if p.answered || decide (ready.length < x.nsrc) || dispatchHeld d then d
    else
      let r := splitRound ready [] (d.engAt t).inbox
      let rs := r.1
      let own := ownedExperts d x t
      let good := own.filter (fun e => !requestsClash (requestsFor rs e))
      let d1 := good.foldl (admitExpert t x rs) d
      let rows := sumNat (good.map (fun e => ((requestsFor rs e).take (expertAt d x e).cap).length))
      let d2 := d1.updEng t (fun g => { g with inbox := r.2, disp := some { p with answered := true, rowsDue := rows } })
      let d3 := (own.filter (fun e => requestsClash (requestsFor rs e))).foldl (fun f _ => f.report c.job 0x010F) d2
      let answers := good.flatMap (fun e =>
        let q := requestsFor rs e
        (List.range q.length).filterMap (fun i => (q[i]?).map (fun r => (r, if i < (expertAt d x e).cap then i else 0xFFFF))))
      (answers.foldl (fun f a => f.sendGrant c.job a.1 a.2) d3).settleDispatch t
  | _, _ => d

/-- A request or an END at an owner; an END may open the admission. -/
def Device.takeRequest (d : Device) (t : Nat) (r : SlReq) : Device :=
  d.updEng t (fun e => { e with inbox := e.inbox ++ [{ isLocal := r.srcLocal, peer := r.srcPeer, ter := r.srcTer, req := some r }] })
def Device.takeEnd (d : Device) (t : Nat) (isLocal : Bool) (peer ter : Nat) : Device :=
  (d.updEng t (fun e => { e with inbox := e.inbox ++ [{ isLocal := isLocal, peer := peer, ter := ter }] })).grantAll t

/-! ### DISPATCH: the command (09 R259, R261) -/

/-- The requests of a source in ascending token and rank. -/
def ownRequests (d : Device) (x : SluiceF) (t : Nat) : List SlReq :=
  (List.range x.t).flatMap (fun i => (List.range x.ksel).filterMap (fun r =>
    let a := x.recordAt i r
    let e := d.mem.readLE a 2
    if e = 0xFFFF then none
    else some { expert := e, token := x.tbase + i, rank := r, gate := d.mem.readLE (a + 4) 4, srcPeer := 0, srcTer := t, srcLocal := true }))

/-- Whether a token names one expert twice. -/
def routeTwice (d : Device) (x : SluiceF) : Bool :=
  (List.range x.t).any (fun i =>
    let es := ((List.range x.ksel).map (fun r => d.mem.readLE (x.recordAt i r) 2)).filter (· != 0xFFFF)
    !decide es.Nodup)

/-- The checks of R261. -/
def dispatchChecks (d : Device) (j : Nat) (x : SluiceF) (t : Nat) : Nat :=
  let acc := engineAccess d j (dispatchSpans d x t)
  let ex := (List.range x.e).map (expertAt d x)
  firstFail [
    (x.rsv || badFmt x.fmt, stReserved),
    (x.ksel == 0 || x.e == 0 || x.rowBytes == 0 || x.dv == 0 || x.nsrc == 0 || x.epp == 0, stZeroSize),
    (decide (1024 < x.e) || decide (8 < x.ksel)
      || (List.range x.t).any (fun i => (List.range x.ksel).any (fun r =>
          let e := d.mem.readLE (x.recordAt i r) 2
          decide (x.e ≤ e) && e != 0xFFFF))
      || decide (x.epp * (16 - x.pan0) < x.t * x.perToken) || decide (64 < x.lbase + x.epp), stRange),
    (x.route % 32 != 0 || x.src % 32 != 0 || x.xtab % 32 != 0 || x.stat % 32 != 0 || x.srcStride % 32 != 0 || x.rowBytes % 32 != 0
      || ex.any (fun y => y.buf % 32 != 0 || y.out % 32 != 0 || y.tab % 32 != 0 || y.stride % 32 != 0), stAlign),
    (routeTwice d x, 0x010F),
    (acc != 0, acc)]

/-- A request on its way to its owner, numbered there by the source's peer entry. -/
def Device.sendRequest (d : Device) (j : Nat) (x : SluiceF) (r : SlReq) : Device :=
  let y := expertAt d x r.expert
  if y.isLocal then d.takeRequest y.ter r else d.sluiceToPeer j y.peer y.ter (.request { r with srcLocal := false })

/-- The owners of a table, each once: local Terraces, and peers with a Terrace. -/
def tableOwners (d : Device) (x : SluiceF) : List (Bool × Nat × Nat) :=
  ((List.range x.e).map (fun e => let y := expertAt d x e; (y.isLocal, if y.isLocal then 0 else y.peer, y.ter))).dedup

/-- SLOT of the records without a choice (09 R257). -/
def Device.skipSlots (d : Device) (x : SluiceF) : Device :=
  (List.range (x.t * x.ksel)).foldl (fun e k => let a := x.recordAt 0 k; if d.mem.readLE a 2 = 0xFFFF then e.store (a + 2) [0xFF, 0xFF] else e) d

/-- The Sluices that an END goes to: the source itself, the owners of the table, and the rest of the group, each once. The command does not list its
group, so the rest is an operand (notes/assumptions/20.md). -/
def endTargets (d : Device) (x : SluiceF) (t : Nat) (group : List (Bool × Nat × Nat)) : List (Bool × Nat × Nat) :=
  ((true, 0, t) :: tableOwners d x ++ group).dedup

/-- The work of a DISPATCH (09 R259): its combine target, SLOT of the records without a choice, its requests in order, then an END to every Sluice of
the group. -/
def Device.dispatchWork (d : Device) (t : Nat) (c : SluiceCmd) (x : SluiceF) (group : List (Bool × Nat × Nat)) : Device :=
  let rs := ownRequests d x t
  let g : CombineTarget :=
    { tbase := x.tbase, dv := x.dv, pan0 := x.pan0, epp := x.epp, lbase := x.lbase
      flag := if x.flagEn then some x.flag else none, job := c.job
      counts := ((List.range (x.t * x.perToken)).map (fun k => x.pan0 + k / x.epp)).dedup.map (fun p => { pan := p, expect := 0 }) }
  let d1 := (d.skipSlots x).updEng t (fun e => { e with disp := some { grantsDue := rs.length }, targets := e.targets ++ [g] })
  let d2 := rs.foldl (fun e r => e.sendRequest c.job x r) d1
  (endTargets d x t group).foldl (fun e o => if o.1 then e.takeEnd o.2.2 true 0 t else e.sluiceToPeer c.job o.2.1 o.2.2 .fin) d2

/-- DISPATCH; a command with a reserved OP is refused here too. One in progress goes on with the admission that a held line kept back. -/
def execDispatch (t : Fin 4) (group : List (Bool × Nat × Nat)) (hit : Option Hit) (s : State) : Host.Outcome State Fault Refusal :=
  onDev s (fun d =>
    match sluiceStart d t (fun op => op != 1 && op != 3 && op != 4) with
    | none => if engOn d then d.grantAll t else d
    | some (c, x) =>
      let st := if x.op = 2 then dispatchChecks d c.job x t else stReserved
      if st ≠ 0 then d.rejectSluice t c st
      else d.withHit hit (dispatchSpans d x t) Device.holdFault (fun e => e.dispatchWork t c x group))

/-- SLUICE_REQUEST (09 R259): a request from another device. -/
def execSluiceRequest (t : Fin 4) (r : SlReq) (s : State) : Host.Outcome State Fault Refusal :=
  onDev s (fun d => if engOn d then d.takeRequest t r else d)

/-- SLUICE_END: the END of a Sluice of a peer. -/
def execSluiceEnd (t : Fin 4) (peer ter : Nat) (s : State) : Host.Outcome State Fault Refusal :=
  onDev s (fun d => if engOn d then d.takeEnd t false peer ter else d)

/-- SLUICE_GRANT; it waits while a line it touches is held, and the row it reads may meet a corruption (01 R39; 06 R184, R196). -/
def execSluiceGrant (t : Fin 4) (token rank slot : Nat) (hit : Option Hit) (s : State) : Host.Outcome State Fault Refusal :=
  onDev s (fun d => if engOn d then d.withHit hit (grantSpans d t token rank slot) Device.holdFault (fun e => e.takeGrant t token rank slot) else d)

/-- SLUICE_ROW; it waits while a line of its slot is held. -/
def execSluiceRow (t : Fin 4) (expert slot : Nat) (data : List Nat) (s : State) : Host.Outcome State Fault Refusal :=
  onDev s (fun d =>
    let held := match d.sluiceHead t with | some c => let r := rowSpan d (sluiceF c.bytes) expert slot data.length; heldAt d r.1 r.2 | none => false
    if engOn d && !held then d.takeRow t expert slot data else d)

/-! ### COMBINE (09 R262, R263) -/

/-- The gate of a product: below 2⁻⁹⁶ a zero of its sign. -/
def gateVal (g : Nat) : Val :=
  match fp32V g with
  | .fin s m e => if ltVal (.fin false m e) (.fin false 1 (-96)) then .fin s 0 e else .fin s m e
  | v => v

/-- The record of one gate product. -/
def gateRecord (g : Nat) (y : Val) : Packet99 :=
  let v := gateVal g
  canonicalRecord ((({} : LEntry).product v y false).addL (productL v y 0))

/-- The DISPATCH that a record belongs to: the oldest one that had its request admitted and has not applied it yet. -/
def targetOf (gs : List CombineTarget) (expert slot token col : Nat) : Option Nat :=
  gs.findIdx? (fun g => g.rows.contains (expert, slot, token) && !g.seen.contains (expert, slot, col))

/-- The local pan, the entry and the column that a record of a token and column is added into (09 R263). -/
def CombineTarget.place (g : CombineTarget) (token col : Nat) : Nat × Nat × Nat :=
  let x := (token - g.tbase) * ceilDiv g.dv 256 + col / 256
  (g.pan0 + x / g.epp, g.lbase + x % g.epp, col % 256)

/-- Whether packed adds wait on a pan, whose pass is to be reissued (04 R134). -/
def reissueDue (d : Device) (p : Nat) : Bool := (d.panAt p).arr.consec != 0

/-- Whether a record waits for a pass that is to be reissued. -/
def recordWaits (d : Device) (t expert slot token col : Nat) : Bool :=
  match targetOf (d.engAt t).targets expert slot token col with
  | some k => reissueDue d (16 * t + ((nthD { tbase := 0, dv := 0, pan0 := 0, epp := 0, lbase := 0, flag := none, job := 0 } (d.engAt t).targets k).place token col).1)
  | none => false

/-- A record of a DISPATCH at its source (09 R262 to R264): malformed, or for a heritage or attention entry, it is discarded and the group hears of
it; a residue mismatch is counted and the record asked for again, the third in a row discarding it (03 R101); else it is added and counted. -/
def Device.applyRecord (d : Device) (t k src ter expert slot token col : Nat) (g : CombineTarget) (bytes : List Nat) : Device :=
  let at' := g.place token col
  let p := 16 * t + at'.1
  let put := fun (e : Device) (h : CombineTarget) => e.updEng t (fun f => { f with targets := modNth (fun _ => h) f.targets k })
  match takeRecord bytes with
  | none => d.report g.job 0x0703
  | some (r, _) =>
    if token < g.tbase ∨ g.dv ≤ col ∨ 15 < at'.1 ∨ 63 < at'.2.1 then d
    else if !residueOk r then
      let key := [src, ter, expert, slot, col]
      let d1 := d.updPan p (fun q => { q with counts := { q.counts with residue := satAdd q.counts.residue 1 } })
      let last := decide (2 ≤ (g.missed.filter (· == key)).length)
      let d2 := put d1 { g with missed := if last then g.missed.filter (· != key) else key :: g.missed }
      if last then d2.report g.job 0x0703
      else d2.sendSluice g.job src (((d.jobAt g.job).setup.bind (fun u => u.topo.peers.find? (fun q => q.bundId == src))).map Peer.slot |>.getD 0) t
        (.again ter expert slot token col)
    else
      let le := (d.panAt p).entry at'.2.1 at'.2.2
      if ((d.panAt p).row at'.2.1).attn then d.report g.job stAttnEntry
      else if le.heritage.isSome then d.report g.job stHeritageOrder
      else
        (put (d.updPan p (fun q => q.setEntry at'.2.1 at'.2.2 (le.packedAdd r)))
          { g with missed := g.missed.filter (· != [src, ter, expert, slot, col]), seen := (expert, slot, col) :: g.seen
                   counts := addCounts g.counts [{ pan := at'.1, expect := 0, got := 1 }] }).settleCombine t

/-- A record at a source's Terrace: for the DISPATCH it belongs to; one that no DISPATCH expects is dropped. -/
def Device.takeRecord09 (d : Device) (t src ter expert slot token col : Nat) (bytes : List Nat) : Device :=
  match targetOf (d.engAt t).targets expert slot token col with
  | some k =>
    match (d.engAt t).targets[k]? with
    | some g => d.applyRecord t k src ter expert slot token col g bytes
    | none => d
  | none => d

/-- The slot-table entry of an admitted slot. -/
def slotAt (d : Device) (y : Expert) (k : Nat) : SlReq :=
  let a := y.tab + 16 * k
  let w := d.mem.readLE (a + 4) 2
  { expert := 0, token := d.mem.readLE a 4, rank := d.mem.readLE (a + 6) 1, gate := d.mem.readLE (a + 8) 4
    srcPeer := bits w 11 0, srcTer := bits w 13 12, srcLocal := bitOf w 15 }

/-- The output element of a slot. -/
def outElem (d : Device) (x : SluiceF) (y : Expert) (k col : Nat) : Val :=
  let f := (Fmt.ofCode x.fmt).getD .bf16
  decodeVal f (unpackAt f (fun i => d.mem.read (y.out + k * y.stride + i)) col)

/-- The records of one slot sent to its source. -/
def combineSlot (src : Device) (j t : Nat) (x : SluiceF) (e : Nat) (d : Device) (k : Nat) : Device :=
  let y := expertAt src x e
  let r := slotAt src y k
  (List.range x.dv).foldl (fun f col =>
    let rec' := (gateRecord r.gate (outElem src x y k col)).bytes
    if r.srcLocal then f.takeRecord09 r.srcTer src.selfBund t e k r.token col rec'
    else f.sluiceToPeer j r.srcPeer r.srcTer (.record e k r.token col rec')) d

/-- The admitted slots of an expert, from its STAT word. -/
def admittedOf (d : Device) (x : SluiceF) (e : Nat) : Nat := d.mem.readLE (x.stat + 4 * e) 2

/-- The stretches a COMBINE reads. -/
def combineSpans (d : Device) (x : SluiceF) (t : Nat) : List (Nat × Nat) :=
  let f := (Fmt.ofCode x.fmt).getD .bf16
  [(x.xtab, 32 * x.e), (x.stat, 4 * x.e)] ++ (ownedExperts d x t).flatMap (fun e =>
    let y := expertAt d x e
    (List.range (admittedOf d x e)).flatMap (fun k => [(y.tab + 16 * k, 16), (y.out + k * y.stride, packedBytes f x.dv)]))

/-- The checks of a COMBINE before its accesses (09 R261). -/
def combineChecks (x : SluiceF) : Nat :=
  firstFail [(x.rsv || badFmt x.fmt, stReserved), (x.e == 0 || x.dv == 0, stZeroSize), (decide (1024 < x.e), stRange),
    (x.xtab % 32 != 0 || x.stat % 32 != 0, stAlign)]

/-- The records of a COMBINE: every admitted slot of every expert that this Terrace owns. Its tables are those of no earlier one from then on. -/
def Device.combineWork (d : Device) (t : Nat) (c : SluiceCmd) (x : SluiceF) : Device :=
  let d1 := (ownedExperts d x t).foldl (fun f e => (List.range (admittedOf d x e)).foldl (combineSlot d c.job t x e) f) d
  (d1.updEng t (fun e => { e with combines := c :: e.combines.filter (fun y => !((sluiceF y.bytes).xtab == x.xtab && (sluiceF y.bytes).stat == x.stat)) })).completeSluice t x

/-- Whether a record for a pan of this device waits for a pass that is to be reissued. -/
def combineWaits (d : Device) : Bool :=
  (List.range 4).any (fun t => (d.engAt t).targets.any (fun g => g.counts.any (fun c => reissueDue d (16 * t + c.pan))))

/-- COMBINE. A FMT other than BF16 and FP16 is refused, with a status that the
spec does not state (notes/assumptions/20.md). -/
def execCombine (t : Fin 4) (hit : Option Hit) (s : State) : Host.Outcome State Fault Refusal :=
  onDev s (fun d =>
    match sluiceStart d t (fun op => op == 3) with
    | none => d
    | some (c, x) =>
      let acc := engineAccess d c.job (combineSpans d x t)
      let st := combineChecks x
      if st ≠ 0 then d.rejectSluice t c st
      else if x.fmt ≠ 1 ∧ x.fmt ≠ 2 then let (v, d1) := d.draw; d1.rejectSluice t c (1 + v % 65535)
      else if acc ≠ 0 then d.rejectSluice t c acc
      else if combineWaits d then d
      else d.withHit hit (combineSpans d x t) Device.holdFault (fun e => e.combineWork t c x))

/-- SLUICE_RECORD: a record from another device's Sluice. -/
def execSluiceRecord (t : Fin 4) (src ter expert slot token col : Nat) (rec : List Nat) (s : State) : Host.Outcome State Fault Refusal :=
  onDev s (fun d => if engOn d && !recordWaits d t expert slot token col then d.takeRecord09 t src ter expert slot token col rec else d)

/-! ### BRANCH (09 R265) -/

/-- The list of branch b: its count and the indices of the samples that select it. -/
def branchList (d : Device) (x : SluiceF) (b : Nat) : List Nat :=
  let is := (List.range x.t).filter (fun i => bitOf (d.mem.readLE (x.src + 2 * i) 2) b)
  toLE 4 is.length ++ is.flatMap (fun i => toLE 4 (x.tbase + i))

/-- Bytes from one branch list to the next, the stretches a BRANCH touches, its checks (09 R265). -/
def branchStep (x : SluiceF) : Nat := roundUp (4 + 4 * x.t) 32
def branchSpans (x : SluiceF) : List (Nat × Nat) := [(x.src, 2 * x.t), (x.route, 16 * branchStep x)]
def branchChecks (d : Device) (j : Nat) (x : SluiceF) : Nat :=
  firstFail [(x.rsv || badFmt x.fmt, stReserved), (x.src % 32 != 0 || x.route % 32 != 0, stAlign), (engineAccess d j (branchSpans x) != 0, engineAccess d j (branchSpans x))]

/-- Work items in the order of their packing (09 R266): the dearest branch first, then the lower branch, then the lower sample. -/
def workOrder (cost : Nat → Nat) (items : List (Nat × Nat)) : List (Nat × Nat) :=
  sortBy (fun a b => decide (cost b.1 < cost a.1) || (cost a.1 == cost b.1 && (decide (a.1 < b.1) || (a.1 == b.1 && decide (a.2 ≤ b.2))))) items

/-- The group with the least cost assigned, the lower one on a tie. -/
def leastLoaded (loads : List Nat) : Nat :=
  ((List.range loads.length).foldl (fun (best : Option Nat) g => match best with
    | some b => if nthD 0 loads g < nthD 0 loads b then some g else some b
    | none => some g) none).getD 0

/-- Items assigned one by one to the least loaded group. -/
def packWork (cost : Nat → Nat) : List (Nat × Nat) → List Nat → List WorkItem
  | [], _ => []
  | i :: l, loads => let g := leastLoaded loads; { branch := i.1, sample := i.2, group := g } :: packWork cost l (modNth (· + cost i.1) loads g)

/-- The work items of a BRANCH: one for each branch and sample of its lists. -/
def branchItems (d : Device) (x : SluiceF) : List (Nat × Nat) :=
  (List.range 16).flatMap (fun b => ((List.range x.t).filter (fun i => bitOf (d.mem.readLE (x.src + 2 * i) 2) b)).map (fun i => (b, x.tbase + i)))

/-- The work of a BRANCH: its lists, and firmware's packing of them onto pan groups. -/
def Device.branchWork (d : Device) (t : Nat) (c : SluiceCmd) (x : SluiceF) : Device :=
  let prog := ((d.jobAt c.job).setup.map (fun u => u.prog.digest)).getD []
  let cost := Config.branchCost prog
  let d1 := (List.range 16).foldl (fun e b => e.store (x.route + b * branchStep x) (branchList d x b)) d
  (d1.updEng t (fun e => { e with
    work := packWork cost (workOrder cost (branchItems d x)) (List.replicate (Config.branchGroups prog) 0) })).completeSluice t x

/-- BRANCH. -/
def execBranch (t : Fin 4) (hit : Option Hit) (s : State) : Host.Outcome State Fault Refusal :=
  onDev s (fun d =>
    match sluiceStart d t (fun op => op == 4) with
    | none => d
    | some (c, x) =>
      let st := branchChecks d c.job x
      if st ≠ 0 then d.rejectSluice t c st
      else d.withHit hit (branchSpans x) Device.holdFault (fun e => e.branchWork t c x))

end Sys2Proof.Machine
end

