-- ==== Sys2Proof/Machine/Bund.lean ====
section
/-! DEFINITION. Bund transactions at their target and their source: READ, WRITE, LADD, chains, flags, forwarding (13 R361 to R367;
03 R99 to R102). -/
namespace Sys2Proof.Machine

/-- Whether a transaction is for this device and the device serves Bund. -/
def mine (d : Device) (x : Txn) : Bool := terOn d && d.fab.selfId == some x.dst

/-- The status of a peer's access before any data moves: Lockdown, then the target's region table, which opens windows of LPDDR5X alone
(06 R175, R194; 18 R500). -/
def peerAccess (d : Device) (x : Txn) : Nat :=
  if 2 ≤ d.sec.level then stLockdown
  else if x.len = 0 then stOk
  else if !isWindow x.addr then stRegion
  else
    let a := accessStatus d (.peer x.src x.job) x.addr x.len
    firstFail [(a != 0, a), (!mapped d x.addr x.len, stMemAddress), (!keyed d x.addr x.len, stKeyAbsent)]

/-- READ (13 R363): the data of an allowed read, or its status and no data. A held line makes it wait; a corruption met by the read is
resolved first, and a persistent one leaves no data. -/
def execRead (x : Txn) (hit : Option Hit) (s : State) : Host.Outcome State Fault Refusal :=
  onDev s (fun d =>
    if !mine d x then d
    else
      let st := peerAccess d x
      if st ≠ 0 then d.respond x 2 st []
      else d.withHit hit [(x.addr, x.len)] (fun e _ => e.respond x 2 stUnrecovered []) (fun e => e.respond x 2 stOk (e.readN x.addr x.len)))

/-- WRITE (13 R363). -/
def execWrite (x : Txn) (s : State) : Host.Outcome State Fault Refusal :=
  onDev s (fun d =>
    if !mine d x then d
    else
      let st := peerAccess d x
      if st ≠ 0 then d.respond x 4 st []
      else if heldAt d x.addr x.len then d
      else (d.store x.addr (sliceAt x.data 0 x.len)).respond x 4 stOk [])

/-- The transaction of an operation that an answer completes: the one with its TAG; a device on the way may answer in the target's place (13 R357,
R362). -/
def Device.pendOf (d : Device) (op : Nat) (x : Txn) : Option Pending := d.fab.pend.find? (fun p => p.tag == x.tag && p.txn.op == op)

/-- A transaction no longer outstanding; a copy command no longer waits for it. -/
def Device.dropPend (d : Device) (p : Pending) : Device :=
  ({ d with fab := { d.fab with pend := d.fab.pend.filter (fun q => q.tag != p.tag) } } : Device).updEng p.ter (fun e => { e with
    copies := e.copies.map (fun (c : CopyCmd) => if c.id = p.copy then { c with waits := c.waits.filter (· != p.tag) } else c) })

/-- The answer to a copy command's request: a status other than ST_OK fails the command (06 R182). -/
def Device.answerCopy (d : Device) (p : Pending) (st : Nat) (data : List Nat) : Device :=
  let d1 := d.dropPend p
  match (d1.engAt p.ter).copies.find? (fun c => c.id == p.copy) with
  | some c => if st ≠ 0 then d1.failCopy p.ter c st else d1.store p.dest data
  | none => d1

/-- READ_RESP (13 R363, R365). Data whose destination is held waits. -/
def execReadResp (x : Txn) (s : State) : Host.Outcome State Fault Refusal :=
  onDev s (fun d =>
    if !mine d x then d
    else match d.pendOf 1 x with
      | some p => if x.status = 0 ∧ heldAt d p.dest p.txn.len = true then d else d.answerCopy p x.status (sliceAt x.data 0 p.txn.len)
      | none => d)

/-- A holder whose region table no longer has this member's region: what stood there is lost (06 R197; 16 R453). -/
def Device.loseRegion (d : Device) (j st : Nat) : Device :=
  if st = stRegion then
    d.updJob j (fun q => { q with partner := { q.partner with images := q.partner.images.filter (fun x => x.layer != 1), log := [] } })
  else d

/-- The answer to a WRITE of a job's log entry or image to its holder: once all of an entry is acknowledged its step may commit; an entry or an image with
a WRITE that failed does not exist (16 R435, R438). -/
def Device.answerHolder (d : Device) (p : Pending) (st : Nat) : Device :=
  let d1 := d.dropPend p
  match p.logStep with
  | none => if st = 0 then d1 else ((d1.updJob p.job (fun q => { q with snaps := q.snaps.filter (fun r => r.layer != 1) })).loseRegion p.job st).noteCoverage p.job
  | some n =>
    if st ≠ 0 then
      ((d1.updJob p.job (fun q => { q with partner := { q.partner with log := q.partner.log.filter (fun e => e.1 != n) } })).loseRegion p.job st).noteCoverage p.job
    else if d1.fab.pend.any (fun x => x.job == p.job && x.logStep == some n) || (d1.jobAt p.job).partner.log.all (fun e => e.1 != n) then d1
    else (d1.updStep p.job n (fun x => { x with logDone := true })).tryReady p.job n

/-- WRITE_ACK (13 R363, R365). -/
def execWriteAck (x : Txn) (s : State) : Host.Outcome State Fault Refusal :=
  onDev s (fun d =>
    if !mine d x then d
    else match d.pendOf 3 x with
      | some p => if p.image || p.logStep.isSome then d.answerHolder p x.status else d.answerCopy p x.status []
      | none => d)

/-! ### LADD at its target (13 R364; 03 R100, R101) -/

/-- The first Ledger column an ADDR names, as 256·entry + column; its logical pan; the flag that FLAGS names. -/
def laddKey (addr : Nat) : Nat := 256 * bits addr 11 6 + bits addr 19 12
def laddPan (addr : Nat) : Nat := bits addr 5 0
def laddFlag (x : Txn) : Nat := bits x.flags 7 2
def laddFwd (x : Txn) : Bool := bitOf x.flags 0

/-- The records of a run of bytes in order, none for a malformed one; fuel by the byte count. -/
def laddRecords : Nat → List Nat → List (Option Packet99)
  | 0, _ => []
  | n + 1, bs =>
    if bs.isEmpty then []
    else match takeRecord bs with
    | some (r, rest) => some r :: laddRecords n rest
    | none => if bs.length < 4 then [none] else none :: laddRecords n (bs.drop (4 + 4 * bits (ofLE (bs.take 4)) 9 5))

/-- The records of a LADD; a chain record comes before those of FWD = 1. -/
def txnRecords (x : Txn) : List (Option Packet99) :=
  let bs := if laddFwd x then x.data.drop 8 else x.data
  laddRecords bs.length bs

/-- The device pan that runs a logical pan of a job. -/
def physPan (d : Device) (j l : Nat) : Option Nat := (pansOf d j).find? (fun p => (d.panAt p).job == some (j, l))


/-- Whether the chain record of a FWD = 1 LADD names an entry and agrees with it. -/
def chainOk (d : Device) (x : Txn) : Bool :=
  match chainEntry d x.job (fieldAt x.data 0 2) with
  | some e => decide (8 ≤ x.data.length) && fieldAt x.data 2 1 == fieldAt e 2 1 && fieldAt x.data 3 1 == fieldAt e 3 1
  | none => false

/-- A chain at this member changed. -/
def Device.updChain (d : Device) (j id : Nat) (f : ChainRun → ChainRun) : Device :=
  let cs := if d.fab.chains.any (fun c => c.job == j && c.id == id) then d.fab.chains else d.fab.chains ++ [{ job := j, id := id }]
  { d with fab := { d.fab with chains := cs.map (fun c => if c.job == j && c.id == id then f c else c) } }

/-- One record at its entry: what it was discarded with, or added (03 R101, R102; 13 R364). -/
def Device.addRecord (d : Device) (p key : Nat) (r : Packet99) : Nat × Device :=
  let e := (d.panAt p).entry (key / 256) (key % 256)
  if ((d.panAt p).row (key / 256)).attn then (stAttnEntry, d)
  else if e.heritage.isSome then (stHeritageOrder, d)
  else (stOk, d.updPan p (fun q => q.setEntry (key / 256) (key % 256) (e.packedAdd r)))

/-- What the records of a LADD leave: the device, the first status other than ST_OK, the records asked for again with their mismatches in
a row, the records added. -/
structure LaddRun where
  dev : Device
  status : Nat
  missing : List (Nat × Nat)
  added : Nat

/-- One record of a LADD: record i, with the mismatches it has had. -/
def laddOne (x : Txn) (p key : Nat) (a : LaddRun) (i before : Nat) (r : Option Packet99) : LaddRun :=
  let bad (st : Nat) (d : Device) : LaddRun := { a with dev := d, status := if a.status = 0 then st else a.status }
  match r with
  | none => bad stMalformed a.dev
  | some r =>
    if !residueOk r then
      let d1 := a.dev.updPan p (fun q => { q with counts := { q.counts with residue := satAdd q.counts.residue 1 } })
      if 2 ≤ before then bad stMalformed d1
      else { a with dev := d1.send (.again x.src x.job x.tag i), missing := a.missing ++ [(i, before + 1)] }
    else
      let (st, d1) := a.dev.addRecord p (key + i) r
      if st = 0 then { a with dev := d1, added := a.added + 1 } else bad st d1

/-- The statuses of a received LADD reported, its answer sent. -/
def Device.answerLadd (d : Device) (x : Txn) (st : Nat) : Device :=
  (if st = 0 || st = stTargetAbsent then d else d.report x.job st).respond x 6 st []

/-- The finished LADDs of a source leave in order: the first one that is not applied whole keeps the rest. Each sets its flag as it leaves
(13 R364). -/
def Device.settleFlags (d : Device) (src : Nat) : Nat → Device
  | 0 => d
  | n + 1 =>
    match d.fab.held.find? (fun h => h.txn.src == src) with
    | some h =>
      if h.acked && h.status == 0 then
        let d1 : Device := { d with fab := { d.fab with held := d.fab.held.filter (fun g => !(g.txn.src == src && g.txn.tag == h.txn.tag && g.txn.job == h.txn.job)) } }
        let d2 := if bitOf h.txn.flags 1 && !laddFwd h.txn then
            match physPan d1 h.txn.job (laddPan h.txn.addr) with
            | some p => d1.updPan p (fun q => q.setFlag (laddFlag h.txn))
            | none => d1
          else d1
        d2.settleFlags src n
      else d
    | none => d

/-- The state of a held LADD put in its place, or last when it is new. -/
def putHeld (hs : List HeldLadd) (h : HeldLadd) : List HeldLadd :=
  let same (g : HeldLadd) : Bool := g.txn.src == h.txn.src && g.txn.tag == h.txn.tag && g.txn.job == h.txn.job
  if hs.any same then hs.map (fun g => if same g then h else g) else hs ++ [h]

/-- A LADD whose records are all added or discarded is answered; then flags settle. -/
def Device.finishLadd (d : Device) (h : HeldLadd) : Device :=
  if h.missing.isEmpty then
    let d1 := d.answerLadd h.txn h.status
    ({ d1 with fab := { d1.fab with held := putHeld d1.fab.held { h with acked := true } } } : Device).settleFlags h.txn.src (d1.fab.held.length + 1)
  else { d with fab := { d.fab with held := putHeld d.fab.held h } }

/-- Whether the LADD as a whole is out of range (13 R364). -/
def laddRange (x : Txn) (pans n : Nat) : Bool :=
  decide (2 ^ 20 ≤ x.addr) || decide (pans ≤ laddPan x.addr) || (n != 0 && decide (64 * 256 ≤ laddKey x.addr + n - 1))

/-- A LADD's records from its data, beside one that is held: only those that it lacks. -/
def Device.runLadd (d : Device) (x : Txn) (p : Nat) (old : Option HeldLadd) : Device :=
  let rs := txnRecords x
  let run : LaddRun := match old with
    | none => (List.range rs.length).foldl (fun a i => laddOne x p (laddKey x.addr) a i 0 (nthD none rs i)) { dev := d, status := 0, missing := [], added := 0 }
    | some h =>
      let base := laddKey x.addr - laddKey h.txn.addr
      (List.range rs.length).foldl (fun a i => match h.missing.find? (fun m => m.1 == base + i) with
        | some m => laddOne h.txn p (laddKey h.txn.addr) a (base + i) m.2 (nthD none rs i)
        | none => a) { dev := d, status := h.status, missing := h.missing.filter (fun m => !(decide (base ≤ m.1) && decide (m.1 < base + rs.length))), added := 0 }
  let t := match old with | some h => h.txn | none => x
  let d1 := if laddFwd t then run.dev.updChain t.job (fieldAt t.data 0 2) (fun c => { c with added := c.added + run.added }) else run.dev
  d1.finishLadd { txn := t, missing := run.missing, status := run.status }

/-- The pan that takes a LADD's records now: the one that runs its logical pan while the job is resident. A job that is being switched out takes
only the records it asked for again, which the switch waits for (03 R101, R107; 15 R416). -/
def laddTarget (d : Device) (x : Txn) (asked : Bool) : Option Nat :=
  if (d.jobAt x.job).resident && (asked || !(d.jobAt x.job).switching) then physPan d x.job (laddPan x.addr) else none

/-- LADD (13 R364, R367). -/
def execLadd (x : Txn) (s : State) : Host.Outcome State Fault Refusal :=
  onDev s (fun d =>
    if !mine d x then d
    else if 2 ≤ d.sec.level then d.respond x 6 stLockdown []
    else
      let held := d.fab.held.find? (fun h => h.txn.src == x.src && h.txn.tag == x.tag && h.txn.job == x.job && !(h.acked && h.status != stTargetAbsent))
      let wait (st : Nat) : Device := d.finishLadd { txn := x, missing := [], status := st }
      match (d.jobAt x.job).setup with
      | none => wait stTargetAbsent
      | some u =>
        if laddRange x u.prog.pans (txnRecords x).length then wait stRange
        else if laddFwd x && !chainOk d x then wait stMalformed
        else
          let old := held.filter (fun h => !h.missing.isEmpty)
          match laddTarget d x old.isSome with
          | none => wait stTargetAbsent
          | some p => if reissueDue d p then d else d.runLadd x p old)

/-! ### LADD at its source -/

/-- LADD_ACK (13 R364): a target where the job is not resident has the LADD sent again later; another status is reported. -/
def execLaddAck (x : Txn) (s : State) : Host.Outcome State Fault Refusal :=
  onDev s (fun d =>
    if !mine d x then d
    else match d.pendOf 5 x with
      | some p =>
        if x.status = stTargetAbsent then { d with fab := { d.fab with absent := d.fab.absent.filter (fun y => y.tag != p.tag) ++ [p.txn] } }
        else
          let d1 := d.dropPend p
          if x.status = 0 then d1 else d1.report p.job x.status
      | none => d)

/-- LADD_RESEND (13 R364): every LADD refused with ST_FAB_TARGET_ABSENT leaves again. -/
def execLaddResend (s : State) : Host.Outcome State Fault Refusal :=
  onDev s (fun d =>
    if terOn d then d.fab.absent.foldl (fun e x => e.launch x) ({ d with fab := { d.fab with absent := [] } } : Device) else d)

/-- A LADD sent and waited on by a job; without a route its status is reported. -/
def Device.sendLadd (d : Device) (j pan key : Nat) (x : Txn) : Device :=
  match d.routeOf x.dst with
  | .fail st => d.report j st
  | _ =>
    let y : Txn := { x with tag := d.fab.nextTag, src := d.selfBund, hops := 8 }
    let d1 : Device := { d with fab := { d.fab with
      nextTag := (d.fab.nextTag + 1) % 65536, pend := d.fab.pend ++ [{ tag := y.tag, txn := y, job := j, pan := pan, key := key }] } }
    d1.launch y

/-! ### Chains (13 R366, R367) -/

/-- The ADDR of LADDs that target record i from a first ADDR. -/
def laddAt (addr i : Nat) : Nat :=
  let k := laddKey addr + i
  laddPan addr + 64 * (k / 256) + 4096 * (k % 256)

/-- Records in runs of at most n bytes: each run's first index and its bytes. -/
def recordRuns (n : Nat) (rs : List (List Nat)) : List (Nat × List Nat) :=
  ((List.range rs.length).foldl (fun (acc : List (Nat × List Nat)) i =>
    let r := nthD [] rs i
    match acc with
    | (k, bs) :: rest => if bs.length + r.length ≤ n then (k, bs ++ r) :: rest else (i, r) :: acc
    | [] => [(i, r)]) []).reverse

/-- The chain record of a member's LADDs. -/
def chainRecord (e : List Nat) (id : Nat) : List Nat := toLE 2 id ++ [fieldAt e 2 1 + 1, fieldAt e 3 1] ++ toLE 4 (fieldAt e 8 4)

/-- A chain whose records and local contribution are in: rejected when an entry of it is a heritage entry (03 R111), else forwarded, or DONE_FLAG set
at the last member. -/
def Device.forwardChain (d : Device) (j id p : Nat) (e : List Nat) : Device :=
  let cnt := fieldAt e 8 4
  let pos := fieldAt e 2 1
  let key := 256 * fieldAt e 13 1 + fieldAt e 14 1
  let d1 := d.updChain j id (fun c => { c with added := c.added - cnt, sent := true })
  if (List.range cnt).any (fun i => ((d.panAt p).entry ((key + i) / 256) ((key + i) % 256)).heritage.isSome) then d1.report j stHeritageOrder
  else if fieldAt e 3 1 ≤ pos + 1 then d1.updPan p (fun q => q.setFlag (fieldAt e 16 1))
  else match peerBund d j (fieldAt e 0 2) with
    | some pe =>
      let rs := (List.range cnt).map (fun i => (canonicalRecord ((d.panAt p).entry ((key + i) / 256) ((key + i) % 256))).bytes)
      let runs := recordRuns 4088 rs
      (List.range runs.length).foldl (fun f k =>
        let r := nthD (0, []) runs k
        let bs := chainRecord e id ++ r.2
        let x : Txn := { op := 5, flags := 1 + 2 * b2n (k + 1 == runs.length), dst := pe.bundId, src := 0, job := pe.slot,
                         addr := laddAt (fieldAt e 4 4) r.1, data := bs, len := bs.length }
        f.sendLadd j (fieldAt e 12 1) (key + r.1) x) d1
    | none => d1.report j stNoRoute

/-- CHAIN_FORWARD (13 R366): once COUNT records are added and LOCAL_FLAG is set. The first member waits for LOCAL_FLAG alone, set anew since it last
forwarded. -/
def execChainForward (j : Fin 16) (chain : Nat) (s : State) : Host.Outcome State Fault Refusal :=
  onDev s (fun d =>
    match chainEntry d j chain with
    | some e =>
      match physPan d j (fieldAt e 12 1) with
      | some p =>
        let c := (d.fab.chains.find? (fun c => c.job == j.val && c.id == chain)).getD { job := j, id := chain }
        if terOn d && (d.jobAt j).live && (d.panAt p).flag (fieldAt e 15 1) && !reissueDue d p
            && (if fieldAt e 2 1 = 0 ∨ fieldAt e 8 4 = 0 then !c.sent else decide (fieldAt e 8 4 ≤ c.added)) then d.forwardChain j chain p e
        else d
      | none => d
    | none => d)

/-! ### Records asked for again (03 R101) -/

/-- Whether a COMBINE of a job formed the record of an expert's slot and column for a token of a device. -/
def combineHad (d : Device) (j src ter expert slot token col : Nat) (c : SluiceCmd) : Bool :=
  let x := sluiceF c.bytes
  let y := expertAt d x expert
  let r := slotAt d y slot
  c.job == j && y.isLocal && decide (slot < admittedOf d x expert) && decide (col < x.dv) && r.token == token && r.srcTer == ter
    && !r.srcLocal && (peerBund d j r.srcPeer).map Peer.bundId == some src

/-- The record of a slot and column formed again, from the COMBINE of its owner that formed it. -/
def Device.reformRecord (d : Device) (j src own ter expert slot token col : Nat) : Device :=
  match (d.engAt own).combines.find? (combineHad d j src ter expert slot token col) with
  | some c =>
    let x := sluiceF c.bytes
    let y := expertAt d x expert
    let r := slotAt d y slot
    d.sluiceToPeer j r.srcPeer ter (.record expert slot token col (gateRecord r.gate (outElem d x y slot col)).bytes)
  | none => d

/-- RECORD_REQUEST_AGAIN: the record formed again from its entry, or from its slot, and sent. -/
def execRecordRequestAgain (src : Nat) (j : Fin 16) (w : Again) (s : State) : Host.Outcome State Fault Refusal :=
  onDev s (fun d =>
    if !terOn d then d
    else match w with
    | .ladd tag index =>
      match d.fab.pend.find? (fun p => p.tag == tag && p.txn.op == 5 && p.txn.dst == src && p.job == j.val) with
      | some p =>
        match physPan d j p.pan with
        | some q =>
          let k := p.key + index
          let bs := (if laddFwd p.txn then p.txn.data.take 8 else []) ++ (canonicalRecord ((d.panAt q).entry (k / 256) (k % 256))).bytes
          d.launch { p.txn with addr := laddAt p.txn.addr index, data := bs, len := bs.length }
        | none => d
      | none => d
    | .sluice ownTer ter expert slot token col => d.reformRecord j src ownTer ter expert slot token col)

/-! ### Flags and forwarding (13 R362, R363) -/

/-- A flag of a logical pan of a job set: in the pan, or in the saved context of a job that is not resident. -/
def Device.setJobFlag (d : Device) (j l f : Nat) : Device :=
  match physPan d j l with
  | some p => d.updPan p (fun q => q.setFlag f)
  | none => d.updJob j (fun q => { q with saved := q.saved.map (fun sv => { sv with
      pans := sv.pans.map (fun e => if e.2.job = some (j, l) then (e.1, e.2.setFlag f) else e) }) })

/-- FLAGSET. One that comes back discarded sets no flag: its status is reported (13 R362). -/
def execFlagset (x : Txn) (s : State) : Host.Outcome State Fault Refusal :=
  onDev s (fun d =>
    if !mine d x then d
    else if x.status ≠ 0 then d.report x.job x.status
    else match (d.jobAt x.job).setup with
      | some u => if 4096 ≤ x.addr ∨ u.prog.pans ≤ bits x.addr 11 6 then d.report x.job stRange else d.setJobFlag x.job (bits x.addr 11 6) (bits x.addr 5 0)
      | none => d)

/-- A transaction passed on: a request waits for its response, and a response ends that wait (13 R357). -/
def Device.passOn (d : Device) (x : Txn) : Device :=
  let fwd := if x.op ∈ [1, 3, 5] then d.fab.fwd ++ [x]
    else d.fab.fwd.filter (fun y => !(y.tag == x.tag && y.src == x.dst && answerOp y.op == x.op))
  ({ d with fab := { d.fab with fwd := fwd } } : Device).launch { x with hops := x.hops - 1 }

/-- BUND_FORWARD: sent on with HOPS reduced, or discarded and its source told. -/
def execBundForward (x : Txn) (s : State) : Host.Outcome State Fault Refusal :=
  onDev s (fun d =>
    if !terOn d || d.fab.selfId == some x.dst then d
    else if x.hops = 0 then d.discard x stNoRoute
    else match d.routeOf x.dst with
      | .fail st => d.discard x st
      | _ => d.passOn x)

/-! ### Transactions for the device itself (13 R362) -/

/-- Whether a transaction for the device itself waits, for a held line or a pass to be reissued. -/
def loopWaits (d : Device) (x : Txn) : Bool :=
  match x.op with
  | 1 => heldAt d x.addr x.len
  | 2 => (d.pendOf 1 x).any (fun p => heldAt d p.dest p.txn.len)
  | 3 => heldAt d x.addr x.len
  | 5 => (laddTarget d x false).any (reissueDue d)
  | _ => false

/-- The first transaction that the device sent to itself, served as its command serves it. -/
def Device.deliver (d : Device) : Device :=
  match d.fab.loop with
  | [] => d
  | x :: rest =>
    let s : State := { dev := { d with fab := { d.fab with loop := rest } } }
    if loopWaits d x then d
    else match (match x.op with
      | 1 => execRead x none s | 2 => execReadResp x s | 3 => execWrite x s | 4 => execWriteAck x s
      | 5 => execLadd x s | 6 => execLaddAck x s | 9 => execFlagset x s | _ => .next s) with
    | .next t => t.dev
    | _ => d

/-- What the block does on its own when no command waits: a nanosecond of the Tide, and one transaction for itself. -/
def Device.idle (d : Device) : Device := (tideTick d).deliver.pfcDrain

end Sys2Proof.Machine
end

