-- ==== Sys2Proof/Machine/Collective.lean ====
section
/-! DEFINITION. Collective control: aborts, timeouts, HOLD, JOIN, QUEUED, PARTNER (13 R369, R370; 16 R433, R446, R450). -/
namespace Sys2Proof.Machine

/-- The own list of a partner group, padded with 0xFFFF to four entries (16 R433). -/
def groupList (t : Topo) : List Nat := ((groupOf t) ++ List.replicate 4 0xFFFF).take 4

/-- Whether a device is a peer of a job. -/
def isPeer (d : Device) (j src : Nat) : Bool := (d.jobAt j).setup.any (fun u => (peerOf u.topo src).isSome)

/-- A job that a collective's ending reaches: running, or suspended between its steps' work (13 R369). -/
def JobSlot.started (q : JobSlot) : Bool := q.state == .running || q.state == .suspended

/-- COLL_ABORT: the collective of a step ends and the step does not commit here; `failed` is the member that the sender's wait named. A step that this
member has committed stays committed (notes/assumptions/23.md). -/
def execCollAbort (src : Nat) (j : Fin 16) (step : Nat) (failed : Option Nat) (s : State) : Host.Outcome State Fault Refusal :=
  onDev s (fun d =>
    if isPeer d j src && ((d.jobAt j).started || (d.jobAt j).state == .recovering) && (d.jobAt j).commit.step.all (fun c => decide (c < step)) then
      d.haltJob j step stTimeout failed.toList failed.toList
    else d)

/-- The mailbox of a JOB_START of a slot that waits for its partners. -/
def busyStart (d : Device) (j : Nat) : Option Nat :=
  d.quy.posted.find? (fun m => decide (16 ≤ m) && mboxSlot m == some j && d.mbx m 4 2 == 0x0101 && d.ownState m == 2)

/-- A HOLD of a peer for a step within the last 100 ms. -/
def holdsOff (d : Device) (j step peer : Nat) : Bool :=
  d.fab.waits.any (fun w => w.job == j && w.step == step && w.peer == peer && decide (d.tide.now < w.since + 100000000))

/-- The partner exchange of a start at its end: nothing of it remains (16 R433). -/
def Device.endExchange (d : Device) (j : Nat) : Device :=
  d.updJob j (fun q => { q with partner := { q.partner with tokens := [], sent := false, queued := [] } })

/-- Whether a Sluice of this device waits for another one of it in a DISPATCH of a job (09 R264). -/
def sluiceWaits (d : Device) (j : Nat) : Bool :=
  (List.range 4).any (fun t => (d.engAt t).disp.isSome && (d.sluiceHead t).any (fun c => c.job == j) || (d.engAt t).targets.any (fun g => g.job == j))

/-- COLLECTIVE_TIMEOUT: a wait on a peer, or on another Terrace of this device, reached 100 ms. In the partner exchange the start fails; in a step
every member hears COLL abort and this one meets the ending. In a job that is RECOVERING already another wait of the step names one more failed member. -/
def execCollectiveTimeout (j : Fin 16) (step peer : Nat) (s : State) : Host.Outcome State Fault Refusal :=
  onDev s (fun d =>
    match busyStart d j with
    | some m => if (d.jobAt j).partner.tokens.any (fun t => t.1 == peer) then d
                else (d.endExchange j).finish m 0x0806 0 []
    | none =>
      let own := d.fab.selfId == some peer && sluiceWaits d j
      if (isPeer d j peer || own) && (d.jobAt j).started && (d.jobAt j).steps.any (fun x => x.num == step) && !holdsOff d j step peer then
        let failed := if own then none else some peer
        (d.tokenAll j (fun s => .abort s step stTimeout failed)).haltJob j step stTimeout failed.toList failed.toList
      else if isPeer d j peer && (d.jobAt j).state == .recovering && (d.jobAt j).steps.any (fun x => x.num == step) && !holdsOff d j step peer then
        d.haltJob j step stTimeout [peer] [peer]
      else d)

/-- HOLD: the timers of the waits on a peer for the step start again; any other step is ignored. -/
def execHold (src : Nat) (j : Fin 16) (step : Nat) (s : State) : Host.Outcome State Fault Refusal :=
  onDev s (fun d =>
    if isPeer d j src && (d.jobAt j).steps.head?.any (fun x => x.num == step) then
      { d with fab := { d.fab with
          waits := d.fab.waits.filter (fun w => !(w.job == j.val && w.peer == src)) ++ [{ job := j, step := step, peer := src, since := d.tide.now }] } }
    else d)

/-- Whether stage 5 of a step waits on the input pipeline: a sample at the host lane, one that waits for the retry lane, one retried without
a budget (13 R370). -/
def inputWaits (d : Device) (j : Nat) (st : Step) : Bool :=
  !st.packDone && (st.slots.any (fun e => e.2.place == .hostLane || e.2.place == .waiting)
    || (d.grd.retry ++ d.grd.busy).any (fun g => g.job == j && g.step == st.num && g.noBudget))

/-- HOLD_SEND: HOLD to the members that wait on a step held by its own input pipeline. -/
def execHoldSend (j : Fin 16) (step : Nat) (s : State) : Host.Outcome State Fault Refusal :=
  onDev s (fun d =>
    match (d.jobAt j).steps.find? (fun x => x.num == step) with
    | some st => if (d.jobAt j).state == .running && inputWaits d j st then d.tokenAll j (fun s => .hold s step) else d
    | none => d)

/-- A fill that ends: the next queued one is the fill in progress (16 R450). -/
def Partner.fillDone (p : Partner) : Partner := { p with fill := p.queued.head?, queued := p.queued.drop 1 }

/-- A JOIN heard. An escalation onto layer 1 shows when the last peer's has come, and is logged (16 R451, R458). -/
def Device.hearJoin (d : Device) (j bundId step : Nat) : Device :=
  let q := d.jobAt j
  let d1 := d.updJob j (fun q => { q with partner := { q.partner with
    joined := if q.partner.joined.contains (bundId, step) then q.partner.joined else q.partner.joined ++ [(bundId, step)] } })
  match q.setup with
  | some u => if u.jr.restore = 1 ∧ q.escalated = false ∧ (d1.jobAt j).escalated = true then
      d1.logEvent srcRenura 0x0803 sevWarning (some j) (toLE 2 bundId ++ [1] ++ toLE 8 step) else d1
  | none => d1

/-- JOIN at a survivor: for its committed step it counts, and the last one lacked returns the job to RUNNING; for another step it is
ignored and logged. The survivor whose holder it is owes that holder a fresh image (16 R445, R446). A fill here that waited starts. -/
def execJoin (src : Nat) (j : Fin 16) (bundId step : Nat) (s : State) : Host.Outcome State Fault Refusal :=
  onDev s (fun d =>
    let q := d.jobAt j
    match q.setup with
    | none => d
    | some u =>
      if (peerOf u.topo src).isNone then d
      else if q.state = .recovering then
        if q.committedField = step then
          let joins := if q.partner.joins.contains bundId then q.partner.joins else q.partner.joins ++ [bundId]
          let own := holderOf u.topo == some bundId
          let d1 := d.updJob j (fun q => { q with partner := { (if own then q.partner else q.partner.fillDone) with joins := joins, refill := q.partner.refill || own } })
          if q.partner.lacking.all (fun x => joins.contains x) then
            d1.updJob j (fun q => { q with state := .running, partner := { q.partner with joins := [], lacking := [] } })
          else d1
        else
          let (ev, d1) := d.draw
          d1.logEvent srcRenura (ev % 65536) sevNotice (some j) (toLE 2 bundId ++ toLE 8 step)
      else
        let d1 := d.hearJoin j bundId step
        if q.state = .running && q.partner.filling then d1.updJob j (fun q => { q with partner := { q.partner with queued := [] } }) else d1)

/-- QUEUED: the fill of this spare waits for the one before it, during the exchange of its start too (16 R450). -/
def execQueued (src : Nat) (j : Fin 16) (s : State) : Host.Outcome State Fault Refusal :=
  onDev s (fun d =>
    if (isPeer d j src && (d.jobAt j).partner.filling) || (busyStart d j).isSome then
      d.updJob j (fun q => { q with partner := { q.partner with queued := q.partner.queued.filter (· != src) ++ [src] } })
    else d)

/-- PARTNER: the token is kept for the exchange of JOB_START. A survivor in RECOVERING, or a spare whose own fill runs, answers with its own list; a second
fill in the group is queued behind the first (16 R433, R450). -/
def execPartner (src : Nat) (j : Fin 16) (ids : List Nat) (s : State) : Host.Outcome State Fault Refusal :=
  onDev s (fun d =>
    let q := d.jobAt j
    if q.state = .empty then d
    else if q.state = .recovering ∨ q.partner.filling = true then
      match q.setup with
      | some u =>
        if (groupOf u.topo).contains src then
          let d1 := d.tokenTo j src (fun s => .partner s (groupList u.topo))
          match q.partner.fill with
          | none => d1.updJob j (fun q => { q with partner := { q.partner with fill := some src } })
          | some f => if f = src ∨ q.partner.queued.contains src then d1
                      else (if q.partner.filling then d1 else d1.updJob j (fun q => { q with partner := { q.partner with queued := q.partner.queued ++ [src] } })).tokenTo
                        j src (fun s => .queued s u.topo.selfId)
        else d
      | none => d
    else d.updJob j (fun q => { q with partner := { q.partner with tokens := q.partner.tokens.filter (fun t => t.1 != src) ++ [(src, ids)] } }))

end Sys2Proof.Machine
end

