-- ==== Sys2Proof/Machine/Links.lean ====
section
/-! DEFINITION. Bund ports: flits, retry, lanes, keys, ports that go down (13 R355 to R360). -/
namespace Sys2Proof.Machine

/-! ### A port that goes down (13 R357) -/

/-- Whether a Bund device is reached through a port. -/
def viaPort (d : Device) (b bund : Nat) : Bool := d.fab.routes.any (fun r => r.1 == bund && r.2 == b)

/-- A transaction that a dead port completes at its source. -/
def Device.failPend (d : Device) (p : Pending) : Device :=
  if p.txn.op = 5 then (d.dropPend p).report p.job stPortDown
  else if p.image || p.logStep.isSome then d.answerHolder p stPortDown
  else d.answerCopy p stPortDown []

/-- The transactions of other devices that a port holds and that no response follows, each once: the retry buffer's, then those that wait. -/
def Device.passing (d : Device) (b : Nat) : List Txn :=
  (((d.portAt b).buffer ++ (d.portAt b).waiting).filterMap Flit.txn).eraseDups.filter (fun x => x.op ∉ [1, 3, 5] && d.fab.selfId != some x.src)

/-- What was forwarded for other devices through a dead port: the requests without their response, and the other transactions that had not left it
whole. Their sources learn of it (13 R357). -/
def Device.failForwarded (d : Device) (b : Nat) (lost : List Txn) : Device :=
  let dead := d.fab.fwd.filter (fun x => viaPort d b x.dst)
  (dead ++ lost).foldl (fun e x => e.discard x stPortDown)
    { d with fab := { d.fab with fwd := d.fab.fwd.filter (fun x => !viaPort d b x.dst && !viaPort d b x.src) } }

/-- A port down: what this device had sent or forwarded through it completes with ST_FAB_PORT_DOWN, and the step in progress of every job with a peer
behind it ends: it waits for them on new routes (16 R429). A restore from the holder starts again (16 R450). -/
def Device.portDown (d : Device) (b : Nat) : Device :=
  let d1 := d.updPort b (fun p => { p with state := .down, buffer := [], waiting := [], resends := 0 })
  let d2 := ((d.fab.pend.filter (fun p => viaPort d b p.txn.dst)).foldl (fun e p => e.failPend p) d1).failForwarded b (d.passing b)
  slots.foldl (fun e j =>
    match (e.jobAt j).setup with
    | some u =>
      let cut := (u.topo.peers.filter (fun p => viaPort d b p.bundId)).map Peer.bundId
      if (e.jobAt j).partner.filling then (if (holderOf u.topo).any (fun h => cut.contains h) then e.readHolder j (imageSize (e.jobAt j)) else e)
      else if cut.isEmpty then e else e.haltJob j (haltStep (e.jobAt j)) stPortDown cut []
    | none => e) d2

/-! ### Lanes (13 R355, R356) -/

/-- A lane of a port found faulty: at once, or after the change under way. Each change is counted and logged, enters the wear record and
retrains the port, or takes it down. -/
def Device.laneFaulty (d : Device) (b lane : Nat) : Device :=
  let p := d.portAt b
  if p.state = .down ∨ p.bad.getLsbD lane then d
  else if p.state = .training then d.updPort b (fun q => { q with pendFaults := if q.pendFaults.contains lane then q.pendFaults else q.pendFaults ++ [lane] })
  else
    let before := retireReg d
    let d1 := (d.updPort b (fun q => { q with bad := q.bad ||| (1#9 <<< lane), state := .training, laneChange := satAdd q.laneChange 1 })).updWear
      (fun w => { w with lanes := wearAdd w.lanes (9 * b + lane) })
    let d2 := (d1.logEvent (srcPort b) 0x0701 sevWarning none [b, lane]).noteRetire before
    if (d2.portAt b).width = .down then d2.portDown b else d2

/-- A port that takes part in the link. -/
def linkUp (d : Device) (b : Nat) : Bool := terOn d && !(d.portAt b).disable && (d.portAt b).state != .down

/-- The fault list of a port sent to its other end in a control flit (13 R355). -/
def Device.sendFaults (d : Device) (b : Nat) (bad : BitVec 9) : Device := (d.emitPlain b 3 (toLE 2 bad.toNat)).send (.control b bad.toNat)

/-- A lane that this end finds faulty: its list goes to the other end and the lane changes the port; during a change nothing leaves and the
lane waits for the change's end (13 R355, R356). -/
def Device.foundFaulty (d : Device) (b lane : Nat) : Device :=
  (if (d.portAt b).state = .training then d else d.sendFaults b ((d.portAt b).bad ||| (1#9 <<< lane))).laneFaulty b lane

/-- LANE_FAULT. -/
def execLaneFault (b : Fin 8) (lane : Fin 9) (s : State) : Host.Outcome State Fault Refusal :=
  onDev s (fun d =>
    if linkUp d b && !(d.portAt b).bad.getLsbD lane then d.foundFaulty b lane else d)

/-- CONTROL_FLIT: the other end's fault list; lanes not known faulty here are faulty from now on. -/
def execControlFlit (b : Fin 8) (bad : BitVec 9) (s : State) : Host.Outcome State Fault Refusal :=
  onDev s (fun d =>
    if linkUp d b then (List.range 9).foldl (fun e l => if bad.getLsbD l then e.laneFaulty b l else e) d else d)

/-! ### Flits (13 R358, R359) -/

/-- The retry buffer after an acknowledgement of every flit up to a sequence number; a number that it does not hold frees nothing. -/
def Port.acked (p : Port) (ackSeq : Nat) : Port :=
  match p.buffer.findIdx? (fun f => f.seq == ackSeq) with
  | some i => { p with buffer := p.buffer.drop (i + 1), resends := 0 }
  | none => p

/-- Every flit of the retry buffer sent again: each counts, in BND_RETRY_COUNT and in the flit counter. -/
def Device.resendFlits (d : Device) (b : Nat) : Device :=
  let fs := (d.portAt b).buffer
  fs.foldl (fun e f => e.emit b f) (d.updPort b (fun p => { p with retry := satAdd p.retry fs.length, resends := p.resends + b2n (!fs.isEmpty) }))

/-- Whether a port carries flits. -/
def carries (d : Device) (b : Nat) : Bool := linkUp d b && (d.portAt b).state != .training

/-- A NAK: its ACKSEQ is the last flit received in order and intact. -/
def Device.sendNak (d : Device) (b : Nat) : Device := d.emitPlain b 2 []

/-- A tag mismatch counted, with its time (13 R360). -/
def Device.countTag (d : Device) (b : Nat) : Device :=
  d.updPort b (fun q => { q with
    authFail := satAdd q.authFail 1, mismatches := q.mismatches.filter (fun t => decide (d.tide.now < t + 1000000)) ++ [d.tide.now] })

/-- What the header of a good flit brings: its acknowledgement frees flits, its credits are added. A data flit takes the next number, and the buffer
that it leaves is owed as credit (13 R358, R359). -/
def Port.took (p : Port) (f : FlitIn) : Port :=
  let q := p.acked f.ackSeq
  let q1 := { q with credits := modNth (· + f.credits) q.credits f.cvc }
  if f.kind = 0 then { q1 with rxSeq := (q1.rxSeq + 1) % 65536, owed := modNth (· + 1) q1.owed f.vc } else q1

/-- BUND_FLIT: a flit whose CRC or tag does not match, or out of sequence, is discarded and answered by NAK; a good one is taken, waiting flits leave,
and where none does a data flit is acknowledged by a flit without payload. What it carries arrives as a command of its own. -/
def execBundFlit (b : Fin 8) (f : FlitIn) (s : State) : Host.Outcome State Fault Refusal :=
  onDev s (fun d =>
    if !carries d b then d
    else
      let p := d.portAt b
      let tagBad := p.encEn && f.crcOk && !f.tagOk
      if !f.crcOk || tagBad || f.seq != p.rxSeq then (if tagBad then d.countTag b else d).sendNak b
      else
        let d1 := d.updPort b (fun q => q.took f)
        let d2 := d1.drain b
        if f.kind = 0 ∧ (d2.portAt b).flitCount = (d1.portAt b).flitCount then d2.emitPlain b 1 [] else d2)

/-- NAK: every flit after ACKSEQ leaves again, then those that wait. -/
def execNak (b : Fin 8) (ackSeq : Nat) (s : State) : Host.Outcome State Fault Refusal :=
  onDev s (fun d => if carries d b then ((d.updPort b (fun p => p.acked ackSeq)).resendFlits b).drain b else d)

/-- FLIT_RESEND_LIMIT: after 16 resends in a row the port retrains at its state; the lanes that the retraining could not train are
faulty, and the other end hears of them. -/
def execFlitResendLimit (b : Fin 8) (untrained : List (Fin 9)) (s : State) : Host.Outcome State Fault Refusal :=
  onDev s (fun d =>
    if carries d b && decide (16 ≤ (d.portAt b).resends) then
      let bad := untrained.foldl (fun (m : BitVec 9) l => m ||| (1#9 <<< l.val)) (d.portAt b).bad
      let d1 := d.updPort b (fun p => { p with resends := 0 })
      let d2 := untrained.foldl (fun e l => e.laneFaulty b l.val) (if untrained.isEmpty then d1 else d1.sendFaults b bad)
      d2.updPort b (fun p => if p.state = .down then p else { p with state := .training })
    else d)

/-- PORT_RETRAIN: the port is at the state of its lanes, flits held in the retry buffer leave again, then those that waited; a fault found
meanwhile is the next change, of which the other end hears now. `peerEnc`: ENC_EN of the other end, without which the port does not train (13 R360). -/
def execPortRetrain (b : Fin 8) (peerEnc : Bool) (s : State) : Host.Outcome State Fault Refusal :=
  onDev s (fun d =>
    let p := d.portAt b
    if !linkUp d b || p.state != .training || p.width == .down || p.encEn != peerEnc then d
    else
      let d1 := d.updPort b (fun q => { q with state := q.width, pendFaults := [] })
      if p.pendFaults.isEmpty then (d1.resendFlits b).drain b else p.pendFaults.foldl (fun e l => e.foundFaulty b l) d1)

/-! ### Authentication and keys (13 R360) -/

/-- BND_AUTH: the eighth tag mismatch within 1 ms takes the port down until a Module or Cold reset; a Lockdown-request is logged. -/
def execBndAuth (b : Fin 8) (s : State) : Host.Outcome State Fault Refusal :=
  onDev s (fun d =>
    let p := d.portAt b
    if linkUp d b && decide (8 ≤ (p.mismatches.filter (fun t => decide (d.tide.now < t + 1000000))).length) then
      let before := retireReg d
      (((d.updPort b (fun q => { q with dead := true, mismatches := [] })).portDown b).noteRetire before).logLockdown (srcPort b) 0x0702 [b]
    else d)

/-- KEY_EPOCH_INSTALL: a new key epoch, from which the flit counter starts again; none at Lockdown (18 R500). -/
def execKeyEpochInstall (b : Fin 8) (s : State) : Host.Outcome State Fault Refusal :=
  onDev s (fun d =>
    if d.inp.stage == .served && decide (d.sec.level < 2) && !d.sec.zeroised then
      (({ d with free := d.free + 1 } : Device).updPort b (fun p => { p with
        keyEpoch := (p.keyEpoch + 1) % 2 ^ 32, keyed := true, key := if p.keyed then p.key else d.free, flitCount := 0 })).drain b
    else d)

end Sys2Proof.Machine
end

