-- ==== Sys2Proof/Machine/MemCtl.lean ====
section
/-! DEFINITION. Control of the memories: bed modes, map-outs, test mode, the traffic generator and checker (06 R185, R197 to R200). -/
namespace Sys2Proof.Machine

/-- A job boundary of the partition that owns a Terrace: no job of it runs, recovers or stands suspended (06 R185, R197, R199). -/
def atBoundary (d : Device) (t : Nat) : Bool :=
  slots.all (fun j =>
    let q := d.jobAt j
    !(q.part == some (partOfTer d.quy.layout t) && (q.live || q.state == .suspended)))

/-- The procedure of 06 R185 up to the new modes: dirty lines written back, every line invalidated; what a LOST line held is gone. -/
def Device.cacheOut (d : Device) (t : Nat) : Device :=
  let ws := (d.terAt t).lostLines.filter (fun l => isWindow (256 * l))
  let d1 := ws.foldl (fun e l => e.undefine (256 * l) (256 * l + 256)) d
  d1.updTer t (fun x => { x with dirty := [], lostLines := x.lostLines.filter (fun l => !isWindow (256 * l)) })

/-- A scratchpad bed's contents undefined. -/
def Device.undefBed (d : Device) (t b : Nat) : Device := d.undefine (scratchBed t b) (scratchBed t b + 0x4000000)

/-- BED_MODE_CHANGE (06 R185): Renura firmware changes the modes of a Terrace's beds at a job boundary; a bed that leaves or enters
scratchpad mode has undefined contents. A sealed register changes by a derived commit (19 R513). -/
def execBedModeChange (t : Fin 4) (modes : BitVec 80) (s : State) : Host.Outcome State Fault Refusal :=
  onDev s (fun d =>
    if !atBoundary d t || d.inp.stage != .served || d.glb.cur == .shelf then d
    else
      let old := (d.terAt t).bedMode
      let d1 := (d.cacheOut t).updTer t (fun x => { x with bedMode := modes })
      let d2 := ((List.range 80).filter (fun b => old.getLsbD b != modes.getLsbD b)).foldl (fun e b => e.undefBed t b) d1
      d2.deriveSeal)

/-- A map-out logged (06 R198; 16 R454). The spec lists no event for it: its code in the memory subsystem is a free value (notes/assumptions/40.md). -/
def Device.logMapOut (d : Device) (src unit : Nat) : Device :=
  let (v, d1) := d.draw
  d1.logEvent src (0x0400 + v % 256) sevWarning none (toLE 4 unit)

/-- The member of a job whose partner region a Terrace holds, with the job (16 R432). -/
def regionOwner (d : Device) (t : Nat) (g : Region) : Option (Nat × Peer) :=
  slots.findSome? (fun j =>
    let q := d.jobAt j
    if q.resv.any (fun r => r.covers t g) then q.setup.bind (fun u => (u.topo.peers[g.peer]?).map (fun x => (j, x))) else none)

/-- The partner regions of a Terrace reported lost to their owners, and freed (06 R197). -/
def Device.losePartners (d : Device) (t : Nat) : Device :=
  let gs := (d.terAt t).regions.filter (fun g => decide (g.base ≤ g.limit) && g.owner == 1)
  let d1 := gs.foldl (fun e g => match regionOwner d t g with | some x => e.sendToken x.1 x.2.bundId (.lost x.2.slot) | none => e) d
  d1.updTer t (fun x => { x with
    regions := x.regions.map (fun g => if decide (g.base ≤ g.limit) && g.owner == 1 then Region.off else g)
    keys := x.keys.take 1 ++ [none, none, none], groups := [[], [], [], []] })

/-- CHANNEL_MAP_OUT (06 R197): Pawezel clears a channel's bit at a job boundary; the last one stays; the Terrace's window reads as
undefined, its partition region ends at the new top, partner regions there are lost, and the wear record keeps the map-out. -/
def execChannelMapOut (t : Fin 4) (c : Fin 32) (s : State) : Host.Outcome State Fault Refusal :=
  onDev s (fun d =>
    let ter := d.terAt t
    let left := ter.chans &&& ~~~(1#32 <<< c.val)
    if !atBoundary d t || !ter.chans.getLsbD c || left == 0 then d
    else
      let d1 := (d.updTer t (fun x => { x with chans := left, dirty := [], lostLines := x.lostLines.filter (fun l => !isWindow (256 * l)), mapOutDue := x.mapOutDue.filter (fun k => k != c.val) })).undefine
        (window t) (window (t + 1))
      let d2 := (d1.losePartners t).updTer t (fun x => { x with regions := modNth (fun r => { r with limit := populated d1 t / 2 ^ 26 - 1 }) x.regions 1 })
      ((d2.updWear (fun w => { w with chans := wearAdd w.chans (32 * t + c) })).deriveSeal.logMapOut (srcChan (32 * t + c)) (32 * t + c)).noteRetire (retireReg d))

/-- BED_MAP_OUT (06 R198): one way; a cache bed leaves by the procedure of R185. -/
def execBedMapOut (t : Fin 4) (b : Fin 80) (s : State) : Host.Outcome State Fault Refusal :=
  onDev s (fun d =>
    if (d.terAt t).bedOut.getLsbD b then d
    else
      let d1 := if (d.terAt t).bedMode.getLsbD b then d else d.cacheOut t
      let d2 := (d1.updTer t (fun x => { x with bedOut := x.bedOut ||| (1#80 <<< b.val) })).undefBed t b
      (d2.updWear (fun w => { w with beds := wearAdd w.beds (80 * t + b) })).deriveSeal.logMapOut (srcTer t) (80 * t + b))

/-! ### Test mode (06 R199) -/

/-- Whether a Terrace holds a partner region of another device. -/
def holdsPartner (t : Terrace) : Bool := t.regions.any (fun r => decide (r.base ≤ r.limit) && r.owner == 1)

/-- TEST_MODE_ENABLE (06 R199): every byte of the window is lost, and the staging of every slot of the partition, wherever it lies. -/
def execTestModeEnable (t : Fin 4) (s : State) : Host.Outcome State Fault Refusal :=
  onDev s (fun d =>
    if !atBoundary d t || holdsPartner (d.terAt t) || d.inp.stage != .served || d.glb.cur == .shelf || (d.terAt t).testEn then d
    else
      let d1 := (d.cacheOut t).undefine (window t) (window (t + 1))
      let d2 := (List.range 32).foldl (fun e c => e.updChan (32 * t + c) (fun x => { x with raw := rawUnknown d1.free })) { d1 with free := d1.free + 1 }
      let d3 := slots.foldl (fun e j =>
        let q := e.jobAt j
        if q.part == some (partOfTer e.quy.layout t) && (q.state == .stopped || q.state == .lost) then
          e.updJob j (fun q => { q with state := .lost, commit := { q.commit with kept := false } }) else e) d2
      let d4 := slots.foldl (fun e j =>
        match (e.jobAt j).resv with
        | some r => if r.part = partOfTer e.quy.layout t then e.undefine r.stageDev (r.stageDev + r.stageMib * 1048576) else e
        | none => e) d3
      (d4.updTer t (fun x => { x with testEn := true })).logEvent (srcTer t) 0x0402 sevWarning none [t.val])

/-- TEST_MODE_DISABLE (06 R199): the window reads as undefined until it is written again; a generator does not run on. -/
def execTestModeDisable (t : Fin 4) (s : State) : Host.Outcome State Fault Refusal :=
  onDev s (fun d =>
    if !(d.terAt t).testEn then d
    else
      let d1 := (d.updTer t (fun x => { x with testEn := false })).undefine (window t) (window (t + 1))
      (List.range 32).foldl (fun e c => e.updChan (32 * t + c) (fun x => { x with run := none, abort := false })) d1)

/-! ### The traffic generator (06 R200) -/

/-- The LFSR lengths and second taps of PATTERN 0 to 2. -/
def prbsTaps (pattern : Nat) : Nat × Nat := match pattern with | 0 => (7, 6) | 1 => (15, 14) | _ => (31, 28)

/-- The LFSR's start: the low bits of SEED, all ones in place of zero. -/
def prbsStart (pattern seed : Nat) : Nat :=
  let n := (prbsTaps pattern).1
  if seed % 2 ^ n = 0 then 2 ^ n - 1 else seed % 2 ^ n

/-- One step: the new bit, which is the bit put out (notes/assumptions/18.md), and the next state. -/
def prbsStep (pattern st : Nat) : Nat × Nat :=
  let (n, m) := prbsTaps pattern
  let b := ((st >>> (n - 1)) + (st >>> (m - 1))) % 2
  (b, (2 * st + b) % 2 ^ n)

/-- k bits from a state, the first in bit 0. -/
def prbsBits (pattern : Nat) : Nat → Nat → Nat × Nat
  | 0, st => (0, st)
  | k + 1, st =>
    let (b, st1) := prbsStep pattern st
    let (r, st2) := prbsBits pattern k st1
    (b + 2 * r, st2)

/-- The 64 bytes of one burst, and the LFSR after it. -/
def burstData (pattern idx st : Nat) : List Nat × Nat :=
  if pattern ≤ 2 then let (v, st') := prbsBits pattern 512 st; (toLE 64 v, st')
  else if pattern = 3 then ((List.range 32).flatMap (fun j => toLE 2 (2 ^ (j % 16))), st)
  else if pattern = 4 then ((List.range 32).flatMap (fun j => toLE 2 (0xFFFF - 2 ^ (j % 16))), st)
  else ((List.replicate 16 (toLE 4 idx)).flatten, st)

/-- The expected bursts of a run from START: index and bytes. -/
def runData (pattern : Nat) : Nat → Nat → Nat → List (Nat × List Nat)
  | 0, _, _ => []
  | n + 1, idx, st => let (bs, st') := burstData pattern idx st; (idx, bs) :: runData pattern n (idx + 1) st'

/-- A raw byte of a channel. -/
def rawAt (n : Nat) (c : Channel) (k : Nat) : Nat := c.raw.read (rawKey n k)

/-- A raw burst written. -/
def rawWrite (n : Nat) (c : Channel) (idx : Nat) (bs : List Nat) : Channel := { c with raw := c.raw.writeN (rawKey n (64 * idx)) bs }

/-- The check of one burst, with the read's flipped bits: mismatching bits counted, DQ_FAIL, the first failing index since GO (06 R200). -/
def checkBurst (n : Nat) (flips : List (Nat × Nat)) (c : Channel) (b : Nat × List Nat) : Channel :=
  let got := (List.range 64).map (fun i => rawAt n c (64 * b.1 + i))
  let bad := (List.range 512).filter (fun k => xor (bitOf (nthD 0 got (k / 8)) (k % 8) != bitOf (nthD 0 b.2 (k / 8)) (k % 8)) (flips.contains (b.1, k)))
  if bad.isEmpty then c
  else { c with
    errCnt := satAdd c.errCnt bad.length
    dqFail := bad.foldl (fun m k => if bitOf m (k % 16) then m else m + 2 ^ (k % 16)) c.dqFail
    failAddr := if c.run.any TgRun.failed then c.failAddr else b.1
    run := c.run.map (fun r => { r with failed := true }) }

/-- The raw bursts of a channel: 2²⁷ on L1024, 2²⁶ on L512. -/
def rawBursts (d : Device) : Nat := if d.fuses.variant = 2 then 2 ^ 26 else 2 ^ 27

/-- A write of LPD_TG_CTRL: PATTERN and OPMODE are held; GO starts a run with the registers as they stand, or sets REJECTED; while a run is
under way GO reads 1 already (06 R200). -/
def Device.tgWrite (d : Device) (c pattern opmode : Nat) (go : Bool) : Device :=
  d.updChan c (fun x =>
    let y : Channel := { x with pattern := pattern % 8, opmode := opmode % 4, abort := false }
    if !go || x.run.isSome then y
    else if !(d.terAt (c / 32)).testEn || decide (6 ≤ pattern % 8) || decide (rawBursts d < x.start + x.count) then { y with rejected := true }
    else if x.count = 0 then { y with done := true }
    else { y with run := some { pattern := pattern % 8, opmode := opmode % 4, start := x.start, count := x.count, seed := x.seed } })

/-- TG_GO (06 R200): a write of LPD_TG_CTRL with GO and its PATTERN and OPMODE. -/
def execTgGo (c : Fin 128) (pattern opmode : Nat) (s : State) : Host.Outcome State Fault Refusal :=
  onDev s (fun d => d.tgWrite c pattern opmode true)

/-- A write of LPD_TG_CTRL: every field takes effect, GO before ABORT, which stops the run that is under way then (00 R14; 06 R200;
notes/assumptions/18.md). -/
def Device.tgCtrl (d : Device) (c pattern opmode : Nat) (go abort : Bool) : Device :=
  let e := d.tgWrite c pattern opmode go
  if abort then e.tgStop c else e

/-- TG_ABORT (06 R200). -/
def execTgAbort (c : Fin 128) (s : State) : Host.Outcome State Fault Refusal := onDev s (fun d => d.tgStop c)

/-- TG_RUN_DONE (06 R200): the run's bursts written, checked or both; `flips` are the bits that the check's reads got wrong. A loop goes on
until ABORT. -/
def execTgRunDone (c : Fin 128) (flips : List (Nat × Nat)) (s : State) : Host.Outcome State Fault Refusal :=
  onDev s (fun d =>
    match (d.chanAt c).run with
    | none => d
    | some r => d.updChan c (fun x =>
      let ds := runData r.pattern r.count r.start (prbsStart r.pattern r.seed)
      let y := if r.opmode = 1 then x else ds.foldl (fun y b => rawWrite c y b.1 b.2) x
      let z := if r.opmode = 0 then y else ds.foldl (checkBurst c flips) y
      if r.opmode = 3 then z else { z with run := none, done := true }))

end Sys2Proof.Machine
end

