-- ==== Sys2Proof/Machine/Regs.lean ====
section
/-! DEFINITION. Register space: where each register lies, what it reads as, what a read clears or latches, what a write changes, and
configuration sets (19 R504 to R515; 00 R14). -/
namespace Sys2Proof.Machine

/-! ### Values the registers gather -/

/-- C_eff (17 R461). -/
def effCap (p : Pwr) : Nat := min (min p.sched p.therm) (min p.module 2150)

/-- TID_STATUS (14). -/
def tidStatus (t : Tide) : Nat :=
  b2n t.unset * 2 ^ 31 + b2n t.locked * 2 ^ 30 + b2n t.holdover * 2 ^ 29 + b2n t.edgeOk * 2 ^ 28 + (256 - t.entries.length)

/-- BND_PORT_STATUS (13): STATE, FAULTS up to 3, BAD, and SPARE while lane 8 stands in for another. -/
def portStatus (p : Port) : Nat :=
  let st := match p.state with | .down => 0 | .training => 1 | .full => 2 | .half => 3
  st * 2 ^ 30 + min 3 p.faults * 2 ^ 28 + p.bad.toNat * 2 ^ 19 + b2n (p.faults == 1 && !p.bad.getLsbD 8) * 2 ^ 18

/-- The states of GLB_PSTATE as codes (19). -/
def pstateCode (s : PState) : Nat := match s with | .active => 0 | .idle => 1 | .doze => 2 | .shelf => 3

/-- The Grader's filling bank, and the entries that wait on it (11 R312). -/
def Grader.filling (g : Grader) : List GEntry := if g.drainB then g.bankA else g.bankB
def Grader.draining (g : Grader) : List GEntry := if g.drainB then g.bankB else g.bankA

/-- GRD_BACKLOG (11 R312). -/
def grdBacklog (g : Grader) : Nat := sumNat ((g.bankA ++ g.bankB ++ g.retry).map GEntry.cost) / 16

/-- GRD_STATUS; RETRY reads 64 while an entry waits for the retry lane (11 R315). -/
def grdStatus (g : Grader) : Nat :=
  let n := g.filling.length
  b2n g.drainB * 2 ^ 31 + b2n g.isSealed * 2 ^ 30 + n % 4096 * 2 ^ 13 + b2n (n == 4096) * 2 ^ 12 + (if g.waiting.isEmpty then g.retry.length else 64)

/-- PWZ_BOOT_STATUS (18). -/
def bootStatus (p : Pwz) : Nat :=
  let f (g : ImageType → Bool) : Nat := sumNat ((List.range 4).map (fun i => b2n (g (p.typeAt (i + 1))) * 2 ^ i))
  f ImageType.runningB * 2 ^ 28 + f ImageType.fallback * 2 ^ 24 + f ImageType.recovery * 2 ^ 20
    + b2n (p.ownerKeys.any (fun k => k.hash.isSome && !k.revoked)) * 2 ^ 19

/-- A region entry as R193 lays it out. -/
def regionWord (r : Region) : Nat := r.base * 2 ^ 48 + r.limit * 2 ^ 32 + r.slot * 2 ^ 30 + r.owner * 2 ^ 28 + r.part * 2 ^ 24 + r.peer * 2 ^ 12
def regionOf (w : Nat) : Region :=
  { base := bits w 63 48, limit := bits w 47 32, slot := bits w 31 30, owner := bits w 29 28, part := bits w 27 24, peer := bits w 23 12 }

/-! ### Addresses (19 R504) -/

/-- A block instance. -/
inductive Blk where
  | glb | seal | sec | pwz | tid | pwr | quy | eth | med | grd
  | bnd (b : Nat) | brn (t : Nat) | lpd (c : Nat) | lpt (t : Nat) | ter (t : Nat) | pan (p : Nat) | nowhere
deriving DecidableEq, Repr

/-- The block of a register address. -/
def blkOf (a : Nat) : Blk :=
  if a < 0x100000 then
    match a / 0x10000 with
    | 0 => .glb | 1 => .seal | 2 => .sec | 3 => .pwz | 4 => .tid | 5 => .pwr | 6 => .quy | 7 => .eth | 8 => .med | 9 => .grd | _ => .nowhere
  else if a < 0x180000 then .bnd ((a - 0x100000) / 0x10000)
  else if a < 0x600000 then .nowhere
  else if a < 0x640000 then .brn ((a - 0x600000) / 0x10000)
  else if a < 0x800000 then .nowhere
  else if a < 0x880000 then .lpd ((a - 0x800000) / 0x1000)
  else if a < 0x900000 then .nowhere
  else if a < 0x904000 then .lpt ((a - 0x900000) / 0x1000)
  else if a < 0xA00000 then .nowhere
  else if a < 0xA40000 then .ter ((a - 0xA00000) / 0x10000)
  else if a < 0x1000000 then .nowhere
  else if a < 0x1400000 then .pan ((a - 0x1000000) / 0x10000)
  else .nowhere

/-- The offset within a block instance. -/
def blkOffset (a : Nat) : Nat :=
  match blkOf a with
  | .lpd _ => a % 0x1000
  | .lpt _ => a % 0x1000
  | _ => a % 0x10000

/-- The CSR number of a PAN_ offset that has one (19 R506). -/
def panCsr (off : Nat) : Option Nat :=
  if 0x40 ≤ off ∧ off < 0x60 then some (0xCC0 + (off - 0x40) / 4)
  else if off = 0x60 then some 0x808
  else if 0x80 ≤ off ∧ off < 0x180 then some (0x810 + (off - 0x80) / 4)
  else none

/-- The RC reader of a register (19 R504). -/
def rcReader (a : Nat) : Agent :=
  match blkOf a with
  | .glb => .pawezel | .seal => .pawezel | .sec => .pawezel | .pwz => .pawezel | .tid => .pawezel | .pwr => .pawezel
  | .pan p => if (panCsr (blkOffset a)).isSome then .pan (Fin.ofNat 64 p) else .renura
  | _ => .renura

/-- Whether an address is a word of a region entry. -/
def regionEntry (a : Nat) : Bool := match blkOf a with | .lpt _ => decide (0x40 ≤ blkOffset a) && decide (blkOffset a < 0x80) | _ => false

/-- Whether an agent reaches a register (19 R504): the debug header with DEBUG set and below Lockdown, a pan core its own CSRs, the security block the region
entries that are its own to write (R506). -/
def reaches (d : Device) (g : Agent) (a : Nat) : Bool :=
  a % 4 == 0 && (match g with
  | .pan p => (match blkOf a with | .pan q => q == p.val && (panCsr (blkOffset a)).isSome | _ => false)
  | .debug => d.sec.debug && decide (d.sec.level < 2)
  | .security => regionEntry a
  | _ => true)

/-! ### Reads -/

/-- The part of an energy counter at an offset from its LO. -/
def energyPart (e : Energy) (off : Nat) : Nat := if off = 0 then e.uJ % 2 ^ 32 else e.hi

/-- A PWR_ register. -/
def pwrValue (d : Device) (off : Nat) : Nat :=
  let p := d.pwr
  let t := off / 4 % 4
  if off = 0x00 then p.sched * 2 ^ 16 + effCap p
  else if off = 0x04 then p.therm * 2 ^ 16 + p.module
  else if off = 0x08 then fracValue p
  else if off = 0x0C then p.tjMax * 2 ^ 24 + p.tIn * 2 ^ 16 + b2n p.tripped * 2 ^ 15 + b2n p.flowLow * 2 ^ 14
  else if off = 0x10 ∨ off = 0x14 then energyPart p.input (off - 0x10)
  else if 0x20 ≤ off ∧ off < 0x40 then energyPart (nthD {} p.part ((off - 0x20) / 8)) (off % 8)
  else if 0x40 ≤ off ∧ off < 0xC0 then energyPart (nthD {} p.job ((off - 0x40) / 8)) (off % 8)
  else if 0x100 ≤ off ∧ off < 0x110 then (d.terpAt t).ftarget
  else if 0x110 ≤ off ∧ off < 0x120 then
    let x := d.terpAt t
    x.slots * 2 ^ 25 + x.therm * 2 ^ 18 + b2n x.fast * 2 ^ 17 + b2n x.throttle * 2 ^ 16 + x.est % 2 ^ 16
  else if 0x120 ≤ off ∧ off < 0x130 then (d.terpAt t).droop
  else if 0x130 ≤ off ∧ off < 0x140 then (d.terpAt t).fastCount
  else 0

/-- A channel's register. -/
def chanValue (c : Channel) (off : Nat) : Nat :=
  match off with
  | 0x00 => c.linkRetry
  | 0x04 => c.mismatch
  | 0x10 => b2n c.run.isSome * 2 ^ 31 + b2n c.abort * 2 ^ 30 + c.pattern * 2 ^ 24 + c.opmode * 2 ^ 22
  | 0x14 => c.start
  | 0x18 => c.count
  | 0x1C => c.seed
  | 0x20 => b2n c.done * 2 ^ 31 + b2n c.aborted * 2 ^ 30 + b2n c.rejected * 2 ^ 29 + c.dqFail
  | 0x24 => c.errCnt
  | 0x28 => c.failAddr
  | _ => 0

/-- A pan's register. -/
def panValue (d : Device) (p off : Nat) : Nat :=
  let q := d.panAt p
  match off with
  | 0x00 => q.counts.num.toNat
  | 0x04 => q.counts.sat
  | 0x08 => q.counts.spill
  | 0x0C => q.counts.residue
  | 0x10 => q.arr.lastStatus * 2 ^ 16 + q.arr.queue.length * 2 ^ 12 + min 2 q.arr.consec * 2 ^ 10 + b2n q.arr.tileValid * 4
      + b2n (q.arr.queue.any (fun x => x.phase != .waiting)) * 2
  | 0x14 => q.counts.parity
  | 0x18 => q.counts.attnShift
  | 0x1C => q.counts.attnFloor
  | 0x20 => (nthD 0 d.fuses.fmax p - 1100) / 25
  | _ => match panCsr off with
    | some n => ((csrRead q n).map Prod.fst).getD 0
    | none => 0

/-- What a register reads as; a reserved address reads zero (19 R505). -/
def regValue (d : Device) (a : Nat) : Nat :=
  let off := blkOffset a
  match blkOf a with
  | .glb => (match off with
    | 0x00 => 0x0E44 * 2 ^ 16 + d.fuses.variant * 2 ^ 12 + d.fuses.stepping * 2 ^ 8 + d.glb.pans
    | 0x04 => let c := d.glb.cause
              b2n c.power * 32 + b2n c.cold * 16 + b2n c.module * 8 + b2n c.warm * 4 + b2n c.flush * 2 + b2n c.quar
    | 0x08 => pstateCode d.glb.cur * 2 ^ 30 + pstateCode d.glb.target * 2 ^ 28 + b2n d.glb.busy * 2 ^ 27 + b2n d.glb.coolWait * 2 ^ 26
    | 0x0C => d.glb.lock.toNat
    | 0x10 => d.glb.lockReject
    | _ => if 0x20 ≤ off ∧ off < 0x30 then (d.glb.scratch[(off - 0x20) / 4]?.getD 0).toNat else 0)
  | .seal => (match off with
    | 0x00 => b2n d.sl.hold * 2 ^ 31 + d.sl.action * 2 ^ 29
    | 0x04 => b2n d.sl.matched * 2 ^ 31 + b2n d.sl.valid * 2 ^ 30 + b2n d.sl.mismatch * 2 ^ 29
    | 0x08 => d.sl.value
    | 0x0C => d.sl.ref
    | 0x10 => d.sl.count
    | _ => 0)
  | .sec => if off = 0 then d.sec.level * 2 ^ 30 + b2n d.sec.debug * 2 ^ 29 + d.sec.sources.toNat * 2 ^ 16 + min 2 d.sec.glitches else 0
  | .pwz => (match off with
    | 0x00 => bootStatus d.pwz | 0x04 => wear0 d | 0x08 => wear1 d | 0x0C => retireReg d | _ => 0)
  | .tid => (match off with
    | 0x00 => d.tide.ns
    | 0x04 => d.tide.latch % 2 ^ 32
    | 0x08 => d.tide.latch / 2 ^ 32
    | 0x10 => tidCtrl d.tide
    | 0x14 => tidStatus d.tide
    | 0x18 => ofSigned 32 d.tide.offset
    | 0x1C => d.tide.late
    | _ => 0)
  | .pwr => pwrValue d off
  | .quy => (match off with
    | 0x00 => d.quy.epoch | 0x04 => d.quy.reject | 0x08 => d.quy.retx | 0x0C => d.quy.drop | 0x10 => d.quy.ecn | 0x20 => d.quy.layout | _ => 0)
  | .eth => (match off with
    | 0x00 => d.eth.state * 2 ^ 30 + b2n d.eth.cr * 2 ^ 29 + b2n d.eth.fecLock * 2 ^ 28 + d.eth.paused.toNat * 2 ^ 20
    | 0x04 => d.eth.fecCorr
    | 0x08 => d.eth.fecUncorr
    | 0x10 => d.eth.mtu
    | 0x14 => sumNat ((List.range 5).map (fun i => nthD 0 d.eth.prio i * 2 ^ (3 * i)))
    | 0x18 => d.eth.pfcEn * 2 ^ 24 + d.eth.xoff
    | 0x1C => d.eth.xon
    | _ => 0)
  | .med => (match off with
    | 0x00 => d.med.conceal | 0x04 => d.med.syntaxErr | 0x08 => d.med.reject | 0x0C => d.med.ctxOpen | _ => 0)
  | .grd => (match off with
    | 0x00 => grdStatus d.grd | 0x04 => grdBacklog d.grd | 0x08 => d.grdc.corr | 0x0C => d.grdc.uncorr | 0x10 => d.grdc.slow | _ => 0)
  | .bnd b => let p := d.portAt b
    (match off with
    | 0x00 => portCtrl p | 0x04 => portStatus p | 0x08 => p.retry | 0x0C => p.laneChange | 0x10 => p.authFail | _ => 0)
  | .brn t => let x := d.terAt t
    (match off with
    | 0x00 => bedReg x.bedMode 0 | 0x04 => bedReg x.bedMode 1 | 0x08 => bedReg x.bedMode 2 | 0x0C => sleeveValue x
    | 0x10 => x.parity
    | 0x14 => bedReg (~~~x.bedOut) 0 | 0x18 => bedReg (~~~x.bedOut) 1 | 0x1C => bedReg (~~~x.bedOut) 2
    | _ => 0)
  | .lpd c => chanValue (d.chanAt c) off
  | .lpt t => let x := d.terAt t
    if off = 0 then x.chans.toNat
    else if off = 4 then b2n x.testEn
    else if 0x40 ≤ off ∧ off < 0x80 then (regionWord (nthD {} x.regions ((off - 0x40) / 8)) >>> (8 * (off % 8))) % 2 ^ 32
    else 0
  | .ter t => let e := d.engAt t
    (match off with
    | 0x00 => (d.terAt t).panQuar.toNat
    | 0x04 => b2n e.skimFailed * 2 ^ 31 + e.skim.length
    | 0x08 => e.skimResidue
    | 0x0C => b2n e.disp.isSome * 32 + e.sluice.length
    | 0x10 => e.skips
    | _ => 0)
  | .pan p => panValue d p off
  | .nowhere => 0

/-- The device after an RC register is read by its RC reader (00 R14, 19 R507). -/
def rcClear (d : Device) (a : Nat) : Device :=
  let off := blkOffset a
  match blkOf a with
  | .glb => (match off with
    | 0x04 => { d with glb := { d.glb with cause := { power := false } } }
    | 0x10 => { d with glb := { d.glb with lockReject := 0 } }
    | _ => d)
  | .seal => (match off with
    | 0x04 => { d with sl := { d.sl with mismatch := false } }
    | 0x10 => { d with sl := { d.sl with count := 0 } }
    | _ => d)
  | .sec => if off = 0 then { d with sec := { d.sec with sources := 0 } } else d
  | .tid => if off = 0x1C then { d with tide := { d.tide with late := 0 } } else d
  | .pwr =>
    let t := off / 4 % 4
    if 0x110 ≤ off ∧ off < 0x120 then d.updTerp t (fun x => { x with fast := false })
    else if 0x120 ≤ off ∧ off < 0x130 then d.updTerp t (fun x => { x with droop := 0 })
    else if 0x130 ≤ off ∧ off < 0x140 then d.updTerp t (fun x => { x with fastCount := 0 })
    else d
  | .quy => (match off with
    | 0x04 => { d with quy := { d.quy with reject := 0 } }
    | 0x08 => { d with quy := { d.quy with retx := 0 } }
    | 0x0C => { d with quy := { d.quy with drop := 0 } }
    | 0x10 => { d with quy := { d.quy with ecn := 0 } }
    | _ => d)
  | .eth => (match off with
    | 0x04 => { d with eth := { d.eth with fecCorr := 0 } }
    | 0x08 => { d with eth := { d.eth with fecUncorr := 0 } }
    | _ => d)
  | .med => (match off with
    | 0x00 => { d with med := { d.med with conceal := 0 } }
    | 0x04 => { d with med := { d.med with syntaxErr := 0 } }
    | 0x08 => { d with med := { d.med with reject := 0 } }
    | _ => d)
  | .grd => (match off with
    | 0x08 => { d with grdc := { d.grdc with corr := 0 } }
    | 0x0C => { d with grdc := { d.grdc with uncorr := 0 } }
    | 0x10 => { d with grdc := { d.grdc with slow := 0 } }
    | _ => d)
  | .bnd b => d.updPort b (fun p => match off with
    | 0x08 => { p with retry := 0 } | 0x0C => { p with laneChange := 0 } | 0x10 => { p with authFail := 0 } | _ => p)
  | .brn t => if off = 0x10 then d.updTer t (fun x => { x with parity := 0 }) else d
  | .lpd c => d.updChan c (fun x => match off with
    | 0x00 => { x with linkRetry := 0 }
    | 0x04 => { x with mismatch := 0 }
    | 0x20 => { x with done := false, aborted := false, rejected := false, dqFail := 0 }
    | 0x24 => { x with errCnt := 0 }
    | _ => x)
  | .ter t => d.updEng t (fun e => match off with | 0x08 => { e with skimResidue := 0 } | 0x10 => { e with skips := 0 } | _ => e)
  | .pan p => d.updPan p (fun q => match off with
    | 0x00 => { q with counts := { q.counts with num := {} } }
    | 0x04 => { q with counts := { q.counts with sat := 0 } }
    | 0x08 => { q with counts := { q.counts with spill := 0 } }
    | 0x0C => { q with counts := { q.counts with residue := 0 } }
    | 0x14 => { q with counts := { q.counts with parity := 0 } }
    | 0x18 => { q with counts := { q.counts with attnShift := 0 } }
    | 0x1C => { q with counts := { q.counts with attnFloor := 0 } }
    | 0x54 => ((csrRead q 0xCC5).map Prod.snd).getD q
    | _ => q)
  | _ => d

/-- RC_READ: the value, and the register cleared when its RC reader reads it. -/
def execRcRead (a : Agent) (addr : Nat) (s : State) : Host.Outcome State Fault Refusal :=
  onDev s (fun d =>
    if reaches d a addr then
      let d1 := if a = rcReader addr then rcClear d addr else d
      d1.send (.reg addr (regValue d addr))
    else d)

/-- TIDE_TIME_LATCH: a read of TID_TIME_NS latches the seconds (14). -/
def execTideTimeLatch (s : State) : Host.Outcome State Fault Refusal :=
  onDev s (fun d => ({ d with tide := { d.tide with latch := d.tide.sec } } : Device).send (.reg 0x40000 d.tide.ns))

/-- An energy counter whose upper half is latched (17 R471). -/
def Energy.latched (e : Energy) : Energy := { e with hi := e.uJ / 2 ^ 32 % 2 ^ 32 }

/-- ENERGY_LATCH: a read of an energy LO register latches its HI half. -/
def execEnergyLatch (addr : Nat) (s : State) : Host.Outcome State Fault Refusal :=
  onDev s (fun d =>
    let off := blkOffset addr
    let p := d.pwr
    let d1 : Device :=
      if blkOf addr ≠ .pwr then d
      else if off = 0x10 then { d with pwr := { p with input := p.input.latched } }
      else if 0x20 ≤ off ∧ off < 0x40 ∧ off % 8 = 0 then { d with pwr := { p with part := modNth Energy.latched p.part ((off - 0x20) / 8) } }
      else if 0x40 ≤ off ∧ off < 0xC0 ∧ off % 8 = 0 then { d with pwr := { p with job := modNth Energy.latched p.job ((off - 0x40) / 8) } }
      else d
    if d1 = d then d.send (.reg addr (regValue d addr)) else d1.send (.reg addr (regValue d addr)))

/-! ### Writes -/

/-- The LOCK bit of an RWL register's block (19 R510). -/
def rwlBlock (a : Nat) : Option Nat :=
  let off := blkOffset a
  match blkOf a with
  | .tid => if off = 0x10 then some 8 else none
  | .bnd _ => if off = 0 then some 9 else none
  | .eth => if 0x10 ≤ off ∧ off ≤ 0x1C then some 10 else none
  | .seal => if off = 0 then some 14 else none
  | _ => none

/-- Whether a register's RWL fields are locked. -/
def locked (d : Device) (a : Nat) : Bool := (rwlBlock a).any (fun i => d.glb.lock.getLsbD i)

/-- BND_PORT_CTRL written (13): a disabled port is held down, and trains again once it is no longer disabled. -/
def Device.writePortCtrl (d : Device) (b w : Nat) : Device :=
  let was := (d.portAt b).disable
  let d1 := d.updPort b (fun p => { p.setEnc (bitOf w 31) with disable := bitOf w 30 })
  if bitOf w 30 && !was then d1.portDown b
  else if !bitOf w 30 && was then d1.updPort b (fun p => { p with state := if p.width = .down then .down else .training })
  else d1

/-- Whether an entry would overlap another enabled one: a partner region may lie inside a partition region, and no other overlap is taken
(06 R194). -/
def overlaps (rs : List Region) (k : Nat) : Bool :=
  let r := nthD Region.off rs k
  decide (r.base ≤ r.limit) && (rs.zipIdx).any (fun x =>
    let o := x.1
    let inside := fun (a b : Region) => a.owner == 1 && b.owner == 0 && decide (b.base ≤ a.base) && decide (a.limit ≤ b.limit)
    x.2 != k && decide (o.base ≤ o.limit) && decide (o.base ≤ r.limit) && decide (r.base ≤ o.limit) && !inside r o && !inside o r)

/-- SEAL_CTRL written: HOLD by Pawezel and Renura, ACTION unless it is locked (19 R510, R513). A set HOLD discards the pass in progress. -/
def writeSealCtrl (d : Device) (g : Agent) (w : Nat) (lock : Bool) : Device :=
  let s := if g = .pawezel ∨ g = .renura then
      (if bitOf w 31 then { d.sl with hold := true, matched := false, valid := false } else { d.sl with hold := false })
    else d.sl
  { d with sl := if lock then s else { s with action := bits w 30 29 } }

/-- The fields of a register written by its access type, the ranges kept (00 R14, 13 R378, 17). Registers with commands of their own are
not written here. -/
def regWrite (d : Device) (a w : Nat) : Device :=
  let off := blkOffset a
  match blkOf a with
  | .seal => if off = 0 then { d with sl := { d.sl with action := bits w 30 29 } } else if off = 0x0C then { d with sl := { d.sl with ref := w } } else d
  | .tid => if off = 0x10 then { d with tide := { d.tide with edgeMode := bits w 31 30, edgeDelay := bits w 15 0, edgeOk := d.tide.edgeOk && bits w 31 30 == 2 } } else d
  | .pwr =>
    if off = 0x08 then { d with pwr := { d.pwr with frac := toLE 4 w } }
    else if 0x100 ≤ off ∧ off < 0x110 then
      let m := bits w 10 0
      if 1100 ≤ m ∧ m ≤ 1300 then d.updTerp (off / 4 % 4) (fun x => { x with ftarget := m }) else d
    else d
  | .eth => (match off with
    | 0x10 => let m := bits w 13 0; if 1518 ≤ m ∧ m ≤ 9216 then { d with eth := { d.eth with mtu := m } } else d
    | 0x14 => { d with eth := { d.eth with prio := (List.range 5).map (fun i => bits w (3 * i + 2) (3 * i)) } }
    | 0x18 => let x := bits w 22 0
              { d with eth := { d.eth with pfcEn := bits w 31 24, xoff := if 65536 ≤ x ∧ x ≤ 4194304 then x else d.eth.xoff } }
    | 0x1C => let x := bits w 22 0; if x ≤ 4128768 then { d with eth := { d.eth with xon := x } } else d
    | _ => d)
  | .bnd b => if off = 0 then d.writePortCtrl b w else d
  | .brn t => if off = 0x0C then d.updTer t (fun x => { x with sleeveEn := bitOf w 31, sleeveBase := if bits w 6 0 ≤ 71 then bits w 6 0 else x.sleeveBase }) else d
  | .lpd c =>
    if off = 0x10 then d.tgCtrl c (bits w 26 24) (bits w 23 22) (bitOf w 31) (bitOf w 30)
    else d.updChan c (fun x => match off with
      | 0x14 => { x with start := w } | 0x18 => { x with count := w } | 0x1C => { x with seed := w } | _ => x)
  | .lpt t =>
    if 0x40 ≤ off ∧ off < 0x80 then
      d.updTer t (fun x =>
        let k := (off - 0x40) / 8
        let rs := modNth (fun r => regionOf (if off % 8 = 0 then regionWord r / 2 ^ 32 * 2 ^ 32 + w else w * 2 ^ 32 + regionWord r % 2 ^ 32)) x.regions k
        if overlaps rs k then x else { x with regions := rs })
    else d
  | _ => d

/-- Whether an agent may write a register's fields (19 R504; 06 R193; 17; 19 R513). -/
def mayWrite (g : Agent) (a : Nat) : Bool :=
  let off := blkOffset a
  match blkOf a with
  | .sec => g == .pawezel
  | .pwz => g == .pawezel
  | .seal => if off = 0x0C then g == .pawezel else true
  | .pwr => if off = 0x08 then g == .pawezel else !(decide (0x100 ≤ off) && decide (off < 0x110))
  | .lpt _ => !regionEntry a || g == .security
  | _ => true

/-- REGISTER_WRITE: a write to a register that has no command of its own; RWL fields of a locked block keep their value and count. A sleeve
change is a sealed register's change by a derived commit (19 R513). -/
def execRegisterWrite (a : Agent) (addr w : Nat) (s : State) : Host.Outcome State Fault Refusal :=
  onDev s (fun d =>
    if !reaches d a addr || !mayWrite a addr then d
    else
      let lock := locked d addr
      let d0 : Device := if lock then { d with glb := { d.glb with lockReject := satAdd d.glb.lockReject 1 } } else d
      let d1 := if blkOf addr = .seal ∧ blkOffset addr = 0 then writeSealCtrl d0 a w lock else if lock then d0 else regWrite d0 addr (w % 2 ^ 32)
      match blkOf addr with
      | .brn _ => if blkOffset addr = 0x0C then d1.deriveSeal else d1
      | _ => d1)

/-- WM_WRITE (19 R509): GLB_SCRATCH0 to 3. -/
def execWmWrite (a : Agent) (addr w : Nat) (s : State) : Host.Outcome State Fault Refusal :=
  onDev s (fun d =>
    let off := blkOffset addr
    if reaches d a addr && blkOf addr == .glb && decide (0x20 ≤ off) && decide (off < 0x30) then
      let mask := BitVec.ofNat 16 (w / 65536)
      { d with glb := { d.glb with scratch := vmod d.glb.scratch ((off - 0x20) / 4) (fun old => (old &&& ~~~mask) ||| (BitVec.ofNat 16 w &&& mask)) } }
    else d)

/-- GLB_LOCK_WRITE (19 R510): bits are set and never cleared. -/
def execGlbLockWrite (a : Agent) (w : Nat) (s : State) : Host.Outcome State Fault Refusal :=
  onDev s (fun d => if reaches d a 0x0C then { d with glb := { d.glb with lock := d.glb.lock ||| BitVec.ofNat 15 w } } else d)

/-! ### Configuration sets (19 R514, R515) -/

/-- Whether a pair names a configurable register with a value in range. -/
def configurable (d : Device) (a v : Nat) : Bool :=
  let off := blkOffset a
  a % 4 == 0 && (match blkOf a with
  | .glb => off == 0x0C && Nat.land (v % 2 ^ 15) d.glb.lock.toNat == d.glb.lock.toNat
  | .tid => off == 0x10 && bits v 31 30 != 3
  | .pwr => decide (0x100 ≤ off) && decide (off < 0x110) && decide (1100 ≤ v) && decide (v ≤ 1300) && v % 25 == 0
  | .bnd _ => off == 0
  | .eth => (match off with
    | 0x10 => decide (1518 ≤ bits v 13 0) && decide (bits v 13 0 ≤ 9216)
    | 0x14 => true
    | 0x18 => decide (65536 ≤ bits v 22 0) && decide (bits v 22 0 ≤ 4194304)
    | 0x1C => decide (bits v 22 0 ≤ 4128768)
    | _ => false)
  | _ => false)

/-- One pair of a set written. -/
def Device.writePair (d : Device) (x : Nat × Nat) : Device :=
  if blkOf x.1 = .glb then { d with glb := { d.glb with lock := d.glb.lock ||| BitVec.ofNat 15 x.2 } } else regWrite d x.1 x.2

/-- The current values stored as the sealed image with a reference; HOLD clears. -/
def Device.storeSeal (d : Device) (ref : Nat) : Device :=
  { d with sl := { d.sl with ref := ref, image := some (sealedValues d, ref), hold := false, matched := false, valid := false } }

/-- A staged set freed. -/
def Device.freeSet (d : Device) (i : Nat) : Device := { d with quy := { d.quy with sets := modNth (fun _ => none) d.quy.sets i } }

/-- The set a handle names. -/
def setOf (d : Device) (handle : Nat) : Option ConfigSet :=
  (nthD none d.quy.sets (handle % 256)).filter (fun c => c.gen == handle / 256)

/-- A set applied whole, or not at all (19 R515); HOLD, set before the lock check, is clear at either end. -/
def Device.applySet (d : Device) (handle : Nat) : Device :=
  match setOf d handle with
  | none => d.logEvent srcPawezel 0x0003 sevWarning none (toLE 4 handle ++ [1])
  | some c =>
    if c.pairs.any (fun x => locked d x.1) then
      ({ d with sl := { d.sl with hold := false, matched := false, valid := false } } : Device).logEvent srcPawezel 0x0003 sevWarning none (toLE 4 handle ++ [2])
    else
      let d1 := c.pairs.foldl Device.writePair d.loadPower
      (d1.storeSeal (if c.sealRef = 0 then sealOf (sealedValues d1) else c.sealRef)).freeSet (handle % 256)

/-- CONFIG_SET_EXPIRY: a set that no entry names, 60 s after staging. -/
def execConfigSetExpiry (i : Fin 4) (s : State) : Host.Outcome State Fault Refusal :=
  onDev s (fun d =>
    match nthD none d.quy.sets i with
    | some c =>
      if decide (c.staged + 60000000000 ≤ d.tide.now) && !d.tide.entries.any (fun e => e.2.action == 3 && e.2.arg == i + 256 * c.gen) then d.freeSet i else d
    | none => d)

end Sys2Proof.Machine
end

