-- ==== Sys2Proof/Machine/Firing.lean ====
section
/-! DEFINITION. Firings of the Tide schedule, evaluation windows, the servo and the tray edge (14 R380 to R388; 10 R291, R293; 17 R461; 19 R515;
20 R531). -/
namespace Sys2Proof.Machine

/-! ### Firing (14 R388) -/

/-- The firing time of an entry, in ns. -/
def TideEntry.time (e : TideEntry) : Nat := e.sec * 1000000000 + e.ns

/-- The order in which entries fire: by time, then ACTION, then index. -/
def firesBefore (a b : Nat × TideEntry) : Bool :=
  decide (a.2.time < b.2.time)
    || (a.2.time == b.2.time && (decide (a.2.action < b.2.action) || (a.2.action == b.2.action && decide (a.1 < b.1))))

/-- The entry of an index, when it is one of an action, has not fired, has reached its time, and no other due entry fires before it. -/
def dueEntry (t : Tide) (i action : Nat) : Option TideEntry :=
  match t.entries.find? (fun e => e.1 == i) with
  | some e =>
    if e.2.action == action && !e.2.fired && decide (e.2.time ≤ t.now)
        && t.entries.all (fun x => x.2.fired || decide (t.now < x.2.time) || x.1 == i || !firesBefore x e) then some e.2
    else none
  | none => none

/-- A late firing counted: more than 1 µs after its time and its acceptance, or passed by a forward step. -/
def countLate (t : Tide) (e : TideEntry) : Tide := if e.passed ∨ max e.time e.accepted + 1000 < t.now then { t with late := satAdd t.late 1 } else t

/-- A firing: its lateness counted, then its effect. -/
def Device.fire (d : Device) (i action : Nat) (f : Device → TideEntry → Device) : Device :=
  match (if d.inp.island then dueEntry d.tide i action else none) with
  | some e => f { d with tide := countLate d.tide e } e
  | none => d

/-- An entry marked as fired: it waits on its step. -/
def Device.markFired (d : Device) (i : Nat) : Device :=
  { d with tide := { d.tide with entries := d.tide.entries.map (fun e => if e.1 = i then (e.1, { e.2 with fired := true }) else e) } }

/-- A flag set in a logical pan of a job, in its saved image when it is not resident (15 R418). -/
def Device.phaseFlag (d : Device) (j l flag : Nat) : Device :=
  match (d.jobAt j).saved with
  | some sv => d.updJob j (fun q => { q with
      saved := some { sv with pans := sv.pans.map (fun x => if x.2.job = some (j, l) then (x.1, x.2.setFlag flag) else x) } })
  | none =>
    match (List.range 64).find? (fun p => (d.panAt p).job == some (j, l)) with
    | some p => d.updPan p (fun q => q.setFlag flag)
    | none => d

/-- PHASE: the flag PARAM in each named pan. -/
def execPhase (i : Fin 256) (s : State) : Host.Outcome State Fault Refusal :=
  onDev s (fun d => d.fire i 1 (fun d e =>
    ((List.range 64).filter (fun l => bitOf e.arg l)).foldl (fun (x : Device) l => x.phaseFlag e.job l e.param) (d.freeEntryAt i)))

/-- COMMIT: the step is marked; a single device commits it at once when it is ready. A commit that is still to come is late (01 R37). -/
def execCommit (i : Fin 256) (s : State) : Host.Outcome State Fault Refusal :=
  onDev s (fun d => d.fire i 2 (fun d e =>
    let d1 := (d.markFired i).tryReady e.job e.step
    if commitMarked d1 e.job e.step then d1.updJob e.job (fun q => { q with slow := { q.slow with late := true } }) else d1))

/-- CONFIG: the staged set applied whole or not at all (19 R515). -/
def execConfig (i : Fin 256) (s : State) : Host.Outcome State Fault Refusal :=
  onDev s (fun d => d.fire i 3 (fun d e => (d.freeEntryAt i).applySet e.arg))

/-- CAP: the scheduled cap; 0 for the policy's (17 R461, R472). -/
def execCap (i : Fin 256) (s : State) : Host.Outcome State Fault Refusal :=
  onDev s (fun d => d.fire i 4 (fun d e =>
    let w := if e.arg = 0 then policyVal d.pwz.policy 0x0400 0 0x866 else e.arg
    { d.freeEntryAt i with pwr := { d.pwr with sched := w } }))

/-- SNAPSHOT: the entry waits for its step. -/
def execSnapshot (i : Fin 256) (s : State) : Host.Outcome State Fault Refusal := onDev s (fun d => d.fire i 7 (fun d _ => d.markFired i))

/-! ### Evaluation windows (10 R291, R293) -/

/-- The live window of a number. -/
def JobSlot.windowAt (q : JobSlot) (w : Nat) : Option Window := q.windows.find? (fun x => x.num == w && !x.closed)

/-- The live window of a number changed, made when there is none. -/
def JobSlot.updWindow (q : JobSlot) (w n : Nat) (f : Window → Window) : JobSlot :=
  match q.windowAt w with
  | some _ => { q with windows := q.windows.map (fun x => if x.num = w ∧ x.closed = false then f x else x) }
  | none => { q with windows := q.windows.filter (fun x => x.num != w) ++ [f { num := w, step := n }] }

/-- EVAL_OPEN: the window waits for its step. -/
def execEvalOpen (i : Fin 256) (s : State) : Host.Outcome State Fault Refusal :=
  onDev s (fun d => d.fire i 6 (fun d e =>
    (d.markFired i).updJob e.job (fun q => q.updWindow e.arg e.step (fun w => { w with openFired := true, step := e.step }))))

/-- EVAL_CLOSE: the window waits for its batches; one without an EVAL_OPEN closes nothing. -/
def execEvalClose (i : Fin 256) (s : State) : Host.Outcome State Fault Refusal :=
  onDev s (fun d => d.fire i 5 (fun d e =>
    if d.tide.entries.any (fun x => x.2.action == 6 && x.2.job == e.job && x.2.arg == e.arg)
        || ((d.jobAt e.job).windowAt e.arg).any (fun w => w.openFired) then
      (d.markFired i).updJob e.job (fun q => q.updWindow e.arg e.step (fun w => { w with closeFired := true }))
    else d.freeEntryAt i))

/-- A job's fired entries of an action and argument freed. -/
def Device.freeFired (d : Device) (j action arg : Nat) : Device :=
  { d with tide := { d.tide with entries := d.tide.entries.filter (fun e => !(e.2.fired && e.2.action == action && e.2.job == j && e.2.arg == arg)) } }

/-- EVAL_WINDOW_OPEN: once step n has committed. -/
def execEvalWindowOpen (j : Fin 16) (w : Nat) (s : State) : Host.Outcome State Fault Refusal :=
  onDev s (fun d =>
    let q := d.jobAt j
    match q.windowAt w with
    | some x =>
      if x.openFired && !x.isOpen && q.commit.step.any (fun c => decide (x.step ≤ c)) then
        (d.freeFired j 6 w).updJob j (fun q => q.updWindow w x.step (fun y => { y with isOpen := true }))
      else d
    | none => d)

/-- EVAL_WINDOW_CLOSE: once its batches are complete. -/
def execEvalWindowClose (j : Fin 16) (w : Nat) (s : State) : Host.Outcome State Fault Refusal :=
  onDev s (fun d =>
    let q := d.jobAt j
    match q.windowAt w with
    | some x =>
      if x.isOpen && x.closeFired && q.batches.all (fun b => b.done || b.kind != 0 || b.window != w) then
        (d.freeFired j 5 w).updJob j (fun q => q.updWindow w x.step (fun y => { y with isOpen := false, closed := true }))
      else d
    | none => d)

/-! ### The servo (14 R380 to R382) -/

/-- The offset a register holds: clamped to ±(2³¹ − 1). -/
def clampOffset (o : Int) : Int := max (-(2 ^ 31 - 1)) (min (2 ^ 31 - 1) o)

/-- The Tide stepped forward: the entries that the step passes are late (14 R380, R388). -/
def Tide.stepBy (t : Tide) (n : Nat) : Tide :=
  { t.setNow (t.now + n) with
    pending := 0, ptpErr := 0
    entries := t.entries.map (fun x =>
      if !x.2.fired && decide (t.now < x.2.time) && decide (x.2.time < t.now + n) then (x.1, { x.2 with passed := true }) else x) }

/-- A correction for an offset of Tide time from PTP: a forward step when it is behind by more than 1 ms, else a slew. -/
def Tide.correct (t : Tide) (o : Int) : Tide :=
  if o < -1000000 then t.stepBy o.natAbs else { t with pending := -o }

/-- The frequency correction that the servo takes from a Sync: a free value within ±100 ppm (14 R382; notes/assumptions/10.md). -/
def freqOf (v : Nat) : Int := (v % 200001 : Nat) - 100000

/-- PTP_SYNC: the newest offset replaces any correction pending, and the servo takes its frequency correction, which holdover keeps; sixteen in a row within ±1 µs lock the Tide. In follow mode with the edge
good, the edge gives the phase. -/
def execPtpSync (offset : Int) (s : State) : Host.Outcome State Fault Refusal :=
  onDev s (fun d =>
    if d.inp.island && d.eth.state == 2 then
      let near := decide (offset.natAbs ≤ 1000)
      let run := if near then min 16 (d.tide.syncRun + 1) else 0
      let lock := decide (run = 16)
      let (v, d0) := d.draw
      let t0 : Tide := { d.tide with ptpErr := offset }
      let t := if d.tide.edgeMode = 2 ∧ d.tide.edgeOk = true ∧ near = true then t0 else t0.correct offset
      let d1 : Device := { d0 with tide := { t with
        offset := clampOffset offset, syncRun := run, freq := freqOf v, holdover := false, locked := d.tide.locked || lock, unset := d.tide.unset && !lock } }
      if lock && !d.tide.locked then d1.logEvent srcTide 0x0705 sevNotice none [] else d1
    else d)

/-- TIDE_HOLDOVER: the port's link went down, which outside Shelf it negotiates and trains again, or no usable Sync came for 2 s. -/
def execTideHoldover (linkDown : Bool) (s : State) : Host.Outcome State Fault Refusal :=
  onDev s (fun d =>
    if linkDown then d.hostPortDown (if d.inp.stage == .served && d.glb.cur != .shelf then 1 else 0)
    else d.toHoldover)

/-! ### The tray edge (14 R384, 20 R531) -/

/-- TIDE_OUT rises. -/
def Device.edgeOut (d : Device) : Device := ({ d with inp := { d.inp with tideOut := true, tideFall := d.tide.now + 100 } } : Device).send .edge

/-- Tide time when the edge less EDGE_DELAY came, in ns from the nearest second, to the nearest ns; EDGE_DELAY counts quarters of one. -/
def Tide.edgePhase (t : Tide) : Int :=
  let x := (4 * t.now + 4000000000 - t.edgeDelay) % 4000000000
  (if x < 2000000000 then ((x + 2) / 4 : Nat) else ((x + 2) / 4 : Nat) - 1000000000)

/-- The servo back on PTP alone: what its last offset leaves to correct is corrected (14 R384). -/
def Tide.ptpAlone (t : Tide) : Tide := { t with edgeOk := false, pending := if t.edgeOk then -t.ptpErr else t.pending }

/-- TIDE_IN_EDGE in follow mode: repeated on TIDE_OUT, and it marks NS = 0. One more than 1 µs from PTP time is not followed. -/
def execTideInEdge (s : State) : Host.Outcome State Fault Refusal :=
  onDev s (fun d =>
    if d.inp.island && d.tide.edgeMode == 2 then
      let phase := d.tide.edgePhase
      let d1 := d.edgeOut
      if 1000 < (phase - d.tide.ptpErr).natAbs then
        let d2 : Device := { d1 with tide := d1.tide.ptpAlone }
        if d.tide.edgeOk then d2.logEvent srcTide 0x0706 sevWarning none [] else d2
      else { d1 with tide := { d1.tide with edgeOk := true, pending := -phase } }
    else d)

/-- TIDE_EDGE_LOST: absent for 3 s, the servo falls back to PTP. -/
def execTideEdgeLost (s : State) : Host.Outcome State Fault Refusal :=
  onDev s (fun d =>
    if d.tide.edgeMode = 2 ∧ d.tide.edgeOk = true then
      ({ d with tide := d.tide.ptpAlone } : Device).logEvent srcTide 0x0706 sevWarning none []
    else d)

/-- TIDE_SECOND_EDGE: in source mode, TIDE_OUT rises at NS = 0, or at the tick that passes over it. -/
def execTideSecondEdge (s : State) : Host.Outcome State Fault Refusal :=
  onDev s (fun d => if d.inp.island && d.tide.edgeMode == 1 && (d.tide.ns == 0 || d.tide.skipped) then d.edgeOut else d)

end Sys2Proof.Machine
end

