-- ==== Sys2Proof/Machine/Quay.lean ====
section
/-! DEFINITION. The host port and the Quay transport: packets, flows, retransmission, what a flow reaches, posting a mailbox command
(13 R372 to R377; 15 R393 to R400). -/
namespace Sys2Proof.Machine

/-! ### What a flow reaches (15 R393, R395) -/

/-- Where a transport address lies: a mailbox at an offset, or a device address in a staging region. -/
inductive Reach where
  | mailbox (m off : Nat) | staging (a : Nat)
deriving DecidableEq, Repr

/-- What a flow reaches with n bytes at a transport address; none outside one region of its binding or beyond a staging window's populated
part, or that R194 and R199 refuse to firmware (06 R194, R199; notes/assumptions/31.md). -/
def reachOf (d : Device) (f : Flow) (addr n : Nat) : Option Reach :=
  if addr < 0x100000 then
    let m := addr / 4096
    let ok := match f.binding with
      | none => decide (m < 16)
      | some b => if b = 0xFF then decide (m < 16) else mboxSlot m == some b
    if ok && decide (addr % 4096 + n ≤ 4096) then some (.mailbox m (addr % 4096)) else none
  else
    let j := (addr - 0x100000) / 0x40000000
    let off := (addr - 0x100000) % 0x40000000
    match f.binding, (d.jobAt j).resv with
    | some b, some r =>
      if b = j ∧ j < 16 ∧ off + n ≤ r.stageMib * 1048576 ∧ accessStatus d .firmware (r.stageDev + off) n = 0 ∧ keyed d (r.stageDev + off) n then
        some (.staging (r.stageDev + off))
      else none
    | _, _ => none

/-! ### Posting (15 R399, R400) -/

/-- A command latched: it waits in acceptance order. A job command while a Flush runs is completed at once, an unknown one in its turn (15 R400, R424). -/
def Device.post (d : Device) (m : Nat) : Device :=
  let d1 := { d with quy := { d.quy with posted := d.quy.posted ++ [m] } }
  if decide (16 ≤ m) && d.glb.flushing then d1.finish m stAborted 0 []
  else d1.sweepUnknown

/-- QUY_MBX_REJECT_COUNT. -/
def Device.mbxReject (d : Device) : Device := { d with quy := { d.quy with reject := satAdd d.quy.reject 1 } }

/-- The bytes after OWN of a transport write to a mailbox (15 R399). -/
def Device.writeBeyond (d : Device) (m off : Nat) (bs : List Nat) : Device :=
  let st := d.ownState m
  let rest := if off < 4 then bs.drop (4 - off) else bs
  if rest.isEmpty then d else if st = 1 ∨ st = 2 then d.mbxReject else d.mbxWrite m (max off 4) rest

/-- Bytes of OWN written by transport: STATE 1 over a STATE of 0 or 3 posts the command; any other write is ignored (15 R399). -/
def Device.writeOwn (d : Device) (m off : Nat) (bs : List Nat) : Device :=
  let st := d.ownState m
  if off = 0 ∧ 4 ≤ bs.length ∧ fieldAt bs 0 4 / 2 ^ 30 = 1 ∧ (st = 0 ∨ st = 3) then (d.mbxWrite m 0 (bs.take 4)).post m else d.mbxReject

/-- The bytes of OWN among those that a write brings. -/
def ownPart (m off : Nat) (bs : List Nat) : List (Nat × Nat × List Nat) := if 4 ≤ off ∨ bs.isEmpty then [] else [(m, off, bs.take (4 - off))]

/-- Ownership words applied, in the order in which they came. -/
def Device.applyOwn (d : Device) (os : List (Nat × Nat × List Nat)) : Device := os.foldl (fun e o => e.writeOwn o.1 o.2.1 o.2.2) d

/-- A message of one write to a mailbox: the bytes after OWN first, then OWN (15 R399). -/
def Device.writeMailbox (d : Device) (m off : Nat) (bs : List Nat) : Device := (d.writeBeyond m off bs).applyOwn (ownPart m off bs)

/-- A packet of a WRITE message to a mailbox: what it brings of OWN waits for the message's last packet (15 R399). -/
def Device.packetMailbox (d : Device) (f : Flow) (last : Bool) (m off : Nat) (bs : List Nat) : Device :=
  let d1 := d.writeBeyond m off bs
  let os := f.own ++ ownPart m off bs
  if last then (d1.updFlow f.id (fun g => { g with own := [] })).applyOwn os else d1.updFlow f.id (fun g => { g with own := os })

/-- What becomes of a DATA packet in its turn: it waits for held data, is discarded, or is applied. -/
inductive Applied where
  | waits (d : Device) | discarded | done (d : Device)

/-- A packet of a transport write at an address, the last of its message or not: discarded where the flow does not reach it; one of held staging waits
(06 R184). -/
def transportWrite (d : Device) (f : Flow) (last : Bool) (addr : Nat) (bs : List Nat) : Applied :=
  match reachOf d f addr bs.length with
  | some (.mailbox m off) => .done (d.packetMailbox f last m off bs)
  | some (.staging a) => if heldAt d a bs.length then .waits d else .done (d.store a bs)
  | none => .discarded

/-- The transport class of what a flow reads: job-control and management mailboxes, or data-plane mailboxes and staging (13 R378). -/
def classOf : Reach → Nat
  | .mailbox m _ => if m < 64 then 0 else 1
  | .staging _ => 1

/-- The answer to a read request. -/
def Device.readAnswer (d : Device) (flow cls addr : Nat) (bs : List Nat) : Device := (d.transmit flow 3 cls addr bs).send (.quay flow 0x13 bs)

/-- A transport read of n bytes: of held staging it waits; a corruption that it meets is resolved first, and one that is not leaves it waiting for the
line's regeneration (01 R39; 06 R184, R196). -/
def transportRead (d : Device) (f : Flow) (addr n : Nat) (hit : Option Hit) : Applied :=
  match reachOf d f addr n with
  | some (.mailbox m off) => .done (d.readAnswer f.id (classOf (.mailbox m off)) addr (bmRead d.quy.mbx (4096 * m + off) n))
  | some (.staging a) =>
    let e := d.withHit hit [(a, n)] (fun e x => e.holdFault x) id
    if heldAt e a n || hit.any (fun h => !hitFits d h || !(decide (a ≤ hitAddr h) && decide (hitAddr h < a + n))) then .waits e
    else .done (e.readAnswer f.id 1 addr (e.readN a n))
  | none => .discarded

/-- MAILBOX_POST: a message that writes OWN with STATE 1. -/
def execMailboxPost (flow addr : Nat) (data : List Nat) (s : State) : Host.Outcome State Fault Refusal :=
  onDev s (fun d =>
    match (if hostUp d then d.flowAt flow else none) with
    | some f =>
      match transportWrite d f true addr data with
      | .done e => e
      | .waits e => e
      | .discarded => { d with quy := { d.quy with drop := satAdd d.quy.drop 1 } }
    | none => d)

/-! ### Packets (13 R373, R376) -/

/-- QUY_DROP_COUNT. -/
def Device.dropPacket (d : Device) : Device := { d with quy := { d.quy with drop := satAdd d.quy.drop 1 } }

/-- Bytes of the frame that carries a packet, FCS included (13 R377, R378). -/
def frameBytes (k : Packet) : Nat := frameAround k.v6 k.vlan.isSome + k.data.length + (if bitOf k.flags 0 then 16 else 0)

/-- Whether a frame reaches the transport: it bears the port's unicast address (broadcasts are taken for address resolution alone), is no fragment, goes
to or comes from UDP port 47,361, and its UDP checksum holds (13 R372, R373). -/
def forQuay (d : Device) (k : Packet) : Bool := k.mac == d.fuses.mac && !k.fragment && (k.ports.1 == 47361 || k.ports.2 == 47361) && k.sumOk

/-- Whether a TYPE or OP code is reserved. -/
def badCode (k : Packet) : Bool := k.typ = 0 || decide (6 < k.typ) || (if k.typ = 1 then k.op = 0 || decide (3 < k.op) else k.op != 0)

/-- Whether a packet is discarded and counted: a reserved field or code, another VER, a length out of range, a frame above the MTU. -/
def badPacket (d : Device) (k : Packet) : Bool :=
  k.ver != 1 || badCode k || decide (16 ≤ k.flags) || k.rsv != 0 || decide (8192 < k.len) || (k.len % 64 != 0 && !bitOf k.flags 3) || decide (d.eth.mtu < frameBytes k)

/-- The data of a packet: as it came, or decrypted under its flow's key; none where the tag does not match, or the flow has no key (13 R376). -/
def openPacket (f : Flow) (k : Packet) : Option Packet :=
  if !bitOf k.flags 0 then some k
  else if !f.keyed then none
  else (gcmOpen f.key (f.nonce k.psn) (quayHeader k) k.data k.tag).map (fun bs => { k with data := bs })

/-- The priority of a received frame: its tag's PCP, 0 without a tag (PRESUMED from IEEE 802.1Q, notes/assumptions/24.md). -/
def prioOf (k : Packet) : Nat := k.vlan.getD 0 % 8

/-- PFC sent for a received frame's priority: XOFF past ETH_PFC_XOFF, XON below min(XON, XOFF − 65,536), where PFC_EN has it (13 R377, R378). -/
def Device.pfcSend (d : Device) (k : Packet) : Device :=
  let p := prioOf k
  if !bitOf d.eth.pfcEn p then d
  else if d.eth.xoff < k.taken && !d.eth.xoffSent.getLsbD p then { d with eth := { d.eth with xoffSent := d.eth.xoffSent ||| BitVec.ofNat 8 (2 ^ p) } }.send (.pfc p true)
  else if k.taken < min d.eth.xon (d.eth.xoff - 65536) && d.eth.xoffSent.getLsbD p then
    { d with eth := { d.eth with xoffSent := d.eth.xoffSent &&& ~~~(BitVec.ofNat 8 (2 ^ p)) } }.send (.pfc p false)
  else d

/-- A frame received at the port's address: what of the port answers it, whether it goes on, as a packet of the TYPE and OP of its command. A frame above
the MTU, a reserved code or field is counted; a packet of other codes is another command's (notes/assumptions/31.md). -/
def Device.arrive (d : Device) (typ op : Nat) (k : Packet) (g : Device → Device) : Device :=
  if !hostUp d || k.mac != d.fuses.mac then d
  else
    let d1 := d.pfcSend k
    if decide (d.eth.mtu < frameBytes k) then d1.dropPacket
    else if !forQuay d k then d1
    else if badPacket d1 k then d1.dropPacket else if k.typ != typ || k.op != op then d1 else g d1

/-- The packets that ACKPSN acknowledges leave the retransmission store. -/
def Flow.ackTo (f : Flow) (psn : Nat) : Flow :=
  if f.unacked.any (fun u => decide (u.1 < psn)) then { f with unacked := f.unacked.filter (fun u => decide (psn ≤ u.1)), expiries := 0 } else f

/-- An ACK sent: the next PSN expected, with ECE where CE was seen since the last one. -/
def Device.sendAck (d : Device) (flow : Nat) : Device :=
  match d.flowAt flow with
  | some f => (((d.control flow 2 (if f.ceSeen then 2 else 0) []).updFlow flow (fun g => { g with ceSeen := false })).send
      (.quay flow 0x20 (toLE 4 f.rxPsn ++ [b2n f.ceSeen])))
  | none => d

/-- A number put in an ascending list. -/
def insertPsn (n : Nat) : List Nat → List Nat
  | [] => [n]
  | m :: ms => if n ≤ m then n :: m :: ms else m :: insertPsn n ms

/-- A list of ascending PSNs as ranges of {first PSN, count}. -/
def rangesOf : List Nat → List (Nat × Nat)
  | [] => []
  | p :: ps => match rangesOf ps with
    | (q, n) :: rs => if p + 1 = q then (p, n + 1) :: rs else (p, 1) :: (q, n) :: rs
    | [] => [(p, 1)]

/-- A SACK sent: the next PSN expected, and up to 16 ranges of what is held early. -/
def Device.sendSack (d : Device) (flow : Nat) : Device :=
  match d.flowAt flow with
  | some f =>
    let rs := ((rangesOf (f.early.foldl (fun l e => insertPsn e.2.psn l) [])).take 16).flatMap (fun r => toLE 4 r.1 ++ toLE 4 r.2)
    (d.control flow 3 0 rs).send (.quay flow 0x30 (toLE 4 f.rxPsn ++ rs))
  | none => d

/-- A DATA packet in its turn. -/
def applyData (d : Device) (f : Flow) (op : Nat) (k : Packet) (hit : Option Hit) : Applied :=
  match op with
  | 1 => transportWrite d f (bitOf k.flags 3) k.addr k.data
  | 2 => transportRead d f k.addr k.len hit
  | _ => .done (d.updFlow k.flow (fun g => { g with rdata := g.rdata ++ [(k.addr, k.data)] }))

/-- Packets applied in PSN order from one that is in turn, then those held early that follow it. A PSN that would wrap closes the flow. -/
def Device.applyInOrder (d : Device) (op : Nat) (k : Packet) (hit : Option Hit) : Nat → Device
  | 0 => d
  | n + 1 =>
    match d.flowAt k.flow with
    | none => d
    | some f =>
      match applyData d f op k hit with
      | .discarded => d.dropPacket
      | .waits e => e
      | .done d1 =>
        if f.rxPsn + 1 = 2 ^ 32 then d1.rekeyFlow k.flow
        else
          let d2 := d1.updFlow k.flow (fun g => { g with rxPsn := f.rxPsn + 1, early := g.early.filter (fun e => e.2.psn != f.rxPsn + 1) })
          match f.early.find? (fun e => e.2.psn == f.rxPsn + 1) with
          | some e => d2.applyInOrder e.1 e.2 none n
          | none => d2

/-- What ACKPSN and CE of a packet bring to its flow; CE counts in QUY_ECN_COUNT. -/
def Device.note (d : Device) (k : Packet) : Device :=
  ((if k.ce then { d with quy := { d.quy with ecn := satAdd d.quy.ecn 1 } } else d).updFlow k.flow (fun g =>
    { g.ackTo k.ackPsn with ceSeen := g.ceSeen || k.ce })).pushFlow k.flow

/-- Whether what a DATA packet writes or reads lies outside the regions that its flow reaches (15 R393). -/
def unreached (d : Device) (f : Flow) (op : Nat) (k : Packet) : Bool :=
  match op with
  | 1 => (reachOf d f k.addr k.data.length).isNone
  | 2 => (reachOf d f k.addr k.len).isNone
  | _ => false

/-- A received DATA packet: applied in its turn and acknowledged, held early in the receive window, or acknowledged again; one that its flow does not
reach is discarded, early or not (15 R393). -/
def Device.rxData (d : Device) (op : Nat) (k : Packet) (hit : Option Hit) : Device :=
  d.arrive 1 op k (fun d =>
    match d.flowAt k.flow with
    | none => d.dropPacket
    | some f =>
      match openPacket f k with
      | none => d
      | some k =>
        let d1 := d.note k
        if k.psn < f.rxPsn then d1.sendAck k.flow
        else if k.psn = f.rxPsn then
          let d2 := d1.applyInOrder op k hit (f.early.length + 1)
          if (d2.flowAt k.flow).any (fun g => decide (f.rxPsn < g.rxPsn)) then d2.sendAck k.flow else d2
        else if unreached d1 f op k then d1.dropPacket
        else if 16777216 < sumNat (f.early.map (fun e => e.2.data.length)) + k.data.length then d1
        else (d1.updFlow k.flow (fun g => { g with early := if g.early.any (fun e => e.2.psn == k.psn) then g.early else g.early ++ [(op, k)] })).sendSack k.flow)

/-- QT_WRITE. -/
def execQtWrite (k : Packet) (s : State) : Host.Outcome State Fault Refusal := onDev s (fun d => d.rxData 1 k none)

/-- QT_READ_REQ. -/
def execQtReadReq (k : Packet) (hit : Option Hit) (s : State) : Host.Outcome State Fault Refusal := onDev s (fun d => d.rxData 2 k hit)

/-- QT_READ_RESP: the data is held for what asked for it. -/
def execQtReadResp (k : Packet) (s : State) : Host.Outcome State Fault Refusal := onDev s (fun d => d.rxData 3 k none)

/-- A packet without data of an open flow. -/
def Device.rxControl (d : Device) (typ : Nat) (k : Packet) (g : Device → Device) : Device :=
  d.arrive typ 0 k (fun d =>
    match d.flowAt k.flow with
    | none => d.dropPacket
    | some f => if (openPacket f k).isSome then g (d.note k) else d)

/-! ### Acknowledgement and retransmission (13 R375, R377) -/

/-- The window after an acknowledgement: halved by ECE, at most once per round trip, else one packet of n bytes larger per round trip, up to 16 MiB. -/
def Flow.adjust (f : Flow) (n ack : Nat) (ece : Bool) : Flow :=
  if ece then
    if f.cut ≤ ack then { f with window := f.window / 2, cut := f.txPsn, round := f.txPsn } else f
  else if f.round ≤ ack then { f with window := min 16777216 (f.window + n), round := f.txPsn }
  else f

/-- ACK: what it acknowledges makes room in the window. -/
def execAck (k : Packet) (s : State) : Host.Outcome State Fault Refusal :=
  onDev s (fun d => d.rxControl 2 k (fun d => (d.updFlow k.flow (fun f => f.adjust (d.pieceOf k.flow) k.ackPsn (bitOf k.flags 1))).pushFlow k.flow))

/-- Whether ranges hold a PSN. -/
def inRanges (rs : List (Nat × Nat)) (psn : Nat) : Bool := rs.any (fun r => decide (r.1 ≤ psn) && decide (psn < r.1 + r.2))

/-- The packets of ranges that come after a PSN. -/
def laterThan (rs : List (Nat × Nat)) (psn : Nat) : Nat := sumNat (rs.map (fun r => r.1 + r.2 - max r.1 (psn + 1)))

/-- Packets of a flow sent again, byte for byte, and counted. -/
def Device.resend (d : Device) (flow : Nat) (us : List TxPacket) : Device :=
  (({ d with quy := { d.quy with retx := satAdd d.quy.retx us.length } } : Device).updFlow flow (fun f =>
    { f with unacked := f.unacked.map (fun u => if us.any (fun v => v.psn == u.psn) then { u with sent := false } else u) })).pushFlow flow

/-- SACK: what the ranges hold is acknowledged; a gap after which three later packets are acknowledged is sent again. -/
def execSack (k : Packet) (ranges : List (Nat × Nat)) (s : State) : Host.Outcome State Fault Refusal :=
  onDev s (fun d => d.rxControl 3 k (fun d =>
    let d1 := d.updFlow k.flow (fun f => { f.adjust (d.pieceOf k.flow) k.ackPsn (bitOf k.flags 1) with unacked := f.unacked.filter (fun u => !inRanges ranges u.psn) })
    match d1.flowAt k.flow with
    | some f => d1.resend k.flow (f.unacked.filter (fun u => u.sent && decide (3 ≤ laterThan ranges u.psn)))
    | none => d1))

/-- An intake fetch outstanding on a flow that failed counts as one failed attempt (11 R304). -/
def JobSlot.fetchLost (q : JobSlot) (flow : Nat) : JobSlot :=
  q.mapSteps (fun st => { st with slots := st.slots.map (fun e =>
    if e.2.place = .fetching ∧ manFlow (entryOfSlot q st e.1) = flow then (e.1, { e.2 with attempts := min 8 (e.2.attempts + 1) }) else e) })

/-- Numbers without repeats, in the order of their first places. -/
def firsts (l : List Nat) : List Nat := l.foldl (fun m x => if m.contains x then m else m ++ [x]) []

/-- The failure of a flow: EV_QT_FLOW_FAILED, every message outstanding on it completed with ST_FAB_FLOW_FAILED, the flow closed. -/
def Device.failFlow (d : Device) (f : Flow) : Device :=
  let d1 := (d.dropFlow f.id).logEvent srcQuay 0x0703 sevWarning none (toLE 4 f.id)
  let d2 := (firsts (f.unacked.map TxPacket.msg)).foldl (fun e m => e.send (.completed f.id m 0x0707)) d1
  ({ d2 with job := d2.job.map (fun q => q.fetchLost f.id) } : Device).send (.quay f.id 0x50 (toLE 2 0x0707))

/-- QT_RETX_TIMER: the oldest packet on its way leaves again; at the twelfth expiry in a row the flow fails and is closed. -/
def execQtRetxTimer (flow : Nat) (s : State) : Host.Outcome State Fault Refusal :=
  onDev s (fun d =>
    match (if hostUp d then d.flowAt flow else none) with
    | some f =>
      match f.unacked.find? (fun u => u.sent) with
      | none => d
      | some u => if 11 ≤ f.expiries then d.failFlow f else (d.updFlow flow (fun g => { g with expiries := g.expiries + 1 })).resend flow [u]
    | none => d)

/-! ### Flows and the port (13 R372, R374, R377) -/

/-- The answer to an OPEN or CLOSE: a packet of the same TYPE with a status. -/
def Device.answerFlow (d : Device) (flow typ st : Nat) : Device := (d.control flow typ 0 (toLE 2 st)).send (.quay flow (16 * typ) (toLE 2 st))

/-- OPEN: a flow beyond 1,024 is answered with ST_FAB_FLOW_LIMIT. -/
def execOpenFlow (k : Packet) (s : State) : Host.Outcome State Fault Refusal :=
  onDev s (fun d => d.arrive 4 0 k (fun d =>
    match d.flowAt k.flow with
    | some _ => d.answerFlow k.flow 4 stOk
    | none =>
      if 1024 ≤ d.quy.flows.length then d.answerFlow k.flow 4 0x0706
      else ({ d with quy := { d.quy with flows := d.quy.flows ++ [{ id := k.flow, v6 := k.v6, tagged := k.vlan.isSome }] } } : Device).answerFlow k.flow 4 stOk))

/-- CLOSE. -/
def execCloseFlow (k : Packet) (s : State) : Host.Outcome State Fault Refusal :=
  onDev s (fun d => d.rxControl 5 k (fun d => (d.answerFlow k.flow 5 stOk).dropFlow k.flow))

/-- PROBE: checked as every packet is, and acknowledged. -/
def execProbe (k : Packet) (s : State) : Host.Outcome State Fault Refusal :=
  onDev s (fun d => d.rxControl 6 k (fun d => d.sendAck k.flow))

/-- PFC_PAUSE_FRAME: honoured for the priorities of PFC_EN; what a priority held back leaves when it resumes. -/
def execPfcPauseFrame (paused : BitVec 8) (s : State) : Host.Outcome State Fault Refusal :=
  onDev s (fun d => if hostUp d then { d with eth := { d.eth with paused := paused &&& BitVec.ofNat 8 d.eth.pfcEn } }.pushAll else d)

/-- HOST_PORT_LINK_UP: negotiation and training end. -/
def execHostPortLinkUp (cr : Bool) (s : State) : Host.Outcome State Fault Refusal :=
  onDev s (fun d => if d.inp.stage == .served && d.eth.state == 1 then { d with eth := { d.eth with state := 2, cr := cr, fecLock := true } }.pushAll else d)

end Sys2Proof.Machine
end

