-- ==== Sys2Proof/Machine/Mailbox.lean ====
section
/-! DEFINITION. Mailbox commands: the checks that every command shares (15 R400 to R402, R412), and the commands of the management class
(15 R404; 14 R387; 15 R410, R425, R427, R549; 19 R514). -/
namespace Sys2Proof.Machine

/-! ### The order and the checks of R402 -/

/-- The payload in a mailbox, at most 4,032 bytes. -/
def Device.payload (d : Device) (m : Nat) : List Nat := bmRead d.quy.mbx (4096 * m + 64) (min 4032 (d.mbx m 6 2))

/-- Whether it is a mailbox's turn, with this command code. -/
def Device.turn (d : Device) (m code : Nat) : Bool :=
  d.inp.stage == .served && d.quy.posted.contains m && d.cmdAt m == code && d.atTurn m

/-- Whether a command may stand in a mailbox of a class (15 R394, R404). -/
def classOk (m code : Nat) : Bool :=
  if m < 16 then decide (code ≤ 0x0B)
  else if m < 64 then decide (0x0101 ≤ code) && decide (code ≤ 0x0108) || code == 7 || code == 8
  else decide (0x0201 ≤ code)

/-- Whether bytes lo to hi − 1 of a payload are 0. -/
def zeroBytes (p : List Nat) (lo hi : Nat) : Bool := ((p.take hi).drop lo).all (· == 0)

/-- The reserved bytes of the payloads, as (code, first, past the last) (15 R404, R406; 11 R301; 14 R385). -/
def payloadReserved : List (Nat × Nat × Nat) :=
  [(0x0002, 5, 8), (0x0006, 2, 4), (0x0007, 13, 16), (0x0101, 82, 88), (0x0101, 105, 112), (0x0101, 120, 128), (0x0106, 1, 4), (0x0107, 1, 2),
    (0x0201, 4, 8), (0x0202, 4, 8), (0x0202, 13, 16), (0x0202, 36, 64), (0x0204, 1, 4)]

/-- Whether the reserved fields of a command's payload are 0; MODE[7:3] of a job-start record among them. -/
def payloadClean (code : Nat) (p : List Nat) : Bool :=
  payloadReserved.all (fun x => x.1 != code || zeroBytes p x.2.1 x.2.2) && (code != 0x0101 || fieldAt p 49 1 / 8 == 0)

/-- The payload bytes of the commands whose payload has a fixed length (15 R404). -/
def payloadLens : List (Nat × Nat) :=
  [(0x0002, 44), (0x0003, 1), (0x0004, 6), (0x0005, 1), (0x0007, 32), (0x0008, 4), (0x0009, 1), (0x0101, 128), (0x0102, 1), (0x0106, 20),
    (0x0107, 20), (0x0108, 8), (0x0201, 24), (0x0202, 64), (0x0203, 28), (0x0204, 32)]

/-- The bytes of a command's payload (15 R404). -/
def payloadLen (code : Nat) (p : List Nat) : Nat :=
  if code = 0x0006 then 8 + 8 * min 500 (fieldAt p 0 2) else ((payloadLens.find? (fun x => x.1 == code)).map Prod.snd).getD 0

/-- Whether a slot in a state accepts a job command (15 R412). -/
def stateAccepts (st : JState) (code : Nat) : Bool :=
  match st with
  | .empty => false
  | .created => [0x0101, 0x0105, 7, 8, 0x0201, 0x0108].contains code
  | .running => !([0x0101, 0x0104].contains code)
  | .suspended => !([0x0101, 0x0103].contains code)
  | .recovering => [0x0105, 0x0106, 0x0102, 0x0201, 0x0202, 0x0108].contains code
  | .stopped => [0x0101, 0x0105, 0x0106, 8].contains code
  | .lost => [0x0101, 0x0105, 0x0106, 8].contains code

/-- Checks 2 to 6 of R402; 0 when none fails. Check 1 is made when the command is posted. -/
def headerCheck (d : Device) (m : Nat) : Nat :=
  let code := d.cmdAt m
  let p := d.payload m
  firstFail [
    (!classOk m code, stWrongClass),
    (d.mbx m 14 2 != 0 || d.mbx m 24 8 != 0 || bits (d.mbx m 0 4) 29 16 != 0 || !payloadClean code p, stReserved),
    (decide (4032 < d.mbx m 6 2) || decide (d.mbx m 6 2 < payloadLen code p), stRange),
    (decide (16 ≤ m) && decide (2 ≤ d.sec.level), stLockdown),
    ((mboxSlot m).any (fun j => !stateAccepts (d.jobAt j).state code), stJobState)]

/-- A command taken in its turn: refused by the first failing check of R402, or executed with its payload. `sel` picks the payloads that
the row is for. -/
def Device.commandIf (d : Device) (m code : Nat) (sel : List Nat → Bool) (f : Device → List Nat → Device) : Device :=
  if d.turn m code && sel (d.payload m) then
    if headerCheck d m = 0 then f d (d.payload m) else d.finish m (headerCheck d m) 0 []
  else d

/-- A command whose row covers every payload. -/
def Device.command (d : Device) (m code : Nat) (f : Device → List Nat → Device) : Device := d.commandIf m code (fun _ => true) f

/-- A refusal, or an effect with its reply. -/
def Device.reply (d : Device) (m st : Nat) (ok : Device → Device) : Device := if st = 0 then ok d else d.finish m st 0 []

/-- Whether a slot is allocated. -/
def allocated (d : Device) (j : Nat) : Bool := decide (j < 16) && (d.jobAt j).state != .empty

/-! ### Management commands -/

/-- The present pans as a mask. -/
def panMask (d : Device) : Nat := sumNat ((List.range 4).map (fun t => (65535 - (d.terAt t).panQuar.toNat) * 2 ^ (16 * t)))

/-- The reply body of DEV_INFO. -/
def devInfoBody (d : Device) : List Nat :=
  toLE 4 (Config.medver % 2 ^ 32) ++ toLE 2 d.quy.epoch ++ [d.quy.layout, 0] ++ toLE 8 (panMask d)
    ++ d.ter.toList.flatMap (fun t => toLE 4 t.chans.toNat) ++ d.port.toList.flatMap (fun p => toLE 4 (portStatus p)) ++ toLE 4 (tidStatus d.tide)

/-- The management notice address set: EV_NOTICE_LOST first after a loss, then the notices held (15 R405). -/
def Device.setMgmt (d : Device) (f a : Nat) : Device :=
  let d1 : Device := { d with quy := { d.quy with mgmt := some (f, a), heldNotices := [], lostNotices := 0 } }
  let d2 := if 0 < d.quy.lostNotices then d1.logEvent srcRenura 0x0004 sevWarning none (toLE 4 d.quy.lostNotices) else d1
  d.quy.heldNotices.foldl (fun e b => e.notice f a b) d2

/-- DEV_INFO. -/
def execDevInfo (m : Fin 256) (s : State) : Host.Outcome State Fault Refusal :=
  onDev s (fun d => d.command m 0x0001 (fun d _ =>
    let d1 := if d.mbx m 12 2 = 0xFFFF then d else d.setMgmt (d.mbx m 12 2) (d.mbx m 16 8)
    d1.finish m stOk 0 (devInfoBody d1)))

/-- FLOW_BIND (15 R395). No key is installed at Lockdown (notes/assumptions/24.md). -/
def execFlowBind (m : Fin 256) (s : State) : Host.Outcome State Fault Refusal :=
  onDev s (fun d => d.command m 0x0002 (fun d p =>
    let slot := fieldAt p 4 1
    d.reply m (firstFail [((d.flowAt (fieldAt p 0 4)).isNone, 0x070D), (slot != 0xFF && slot != 0xFE && !allocated d slot, stJobState)])
      (fun d => (d.updFlow (fieldAt p 0 4) (fun f =>
        { f with
          binding := if slot = 0xFE then none else some slot
          keyEpoch := if 2 ≤ d.sec.level then f.keyEpoch else fieldAt p 8 4
          key := if 2 ≤ d.sec.level then f.key else if fieldAt p 12 32 = 0 then [] else sliceAt p 12 32 })).finish m stOk 0 [])))

/-- PART_SET (15 R410): a fresh key for each partition, so nothing written before can be read. -/
def execPartSet (m : Fin 256) (s : State) : Host.Outcome State Fault Refusal :=
  onDev s (fun d => d.command m 0x0003 (fun d p =>
    let l := fieldAt p 0 1
    d.reply m (firstFail [(slots.any (allocated d), stJobState), (decide (2 < l), stRange),
        ((List.range 4).any (fun t => (d.terAt t).testEn), stTgen), (decide (2 ≤ d.sec.level), stLockdown)])
      (fun d =>
        let d1 : Device := { d with quy := { d.quy with layout := l }, free := d.free + 4 }
        let d2 := (List.range 4).foldl (fun e t => e.updTer t (fun x =>
          { x with
            keys := [some (d.free + t), none, none, none], groups := [[], [], [], []]
            regions := (x.regions.take 2).map (fun r => { r with part := partOfTer l t }) ++ List.replicate 6 Region.off })) d1
        ((d2.undefine 0 (2 ^ 40)).deriveSeal).finish m stOk 0 [])))

/-! ### JOB_CREATE and JOB_DESTROY (15 R411, R549) -/

/-- The units of 64 MiB that reservations hold on a Terrace, as (start, length). -/
def usedUnits (d : Device) (t : Nat) : List (Nat × Nat) :=
  slots.flatMap (fun j =>
    match (d.jobAt j).resv with
    | some r =>
      (if r.stageDev / 2 ^ 38 = t then [(r.stageDev % 2 ^ 38 / 2 ^ 26, ceilDiv r.stageMib 64)] else [])
        ++ ((r.data.filter (fun x => x.1 == t)).map (fun x => (x.2.1 % 2 ^ 38 / 2 ^ 26, x.2.2 / 2 ^ 26)))
        ++ ((r.save.filter (fun x => x.1 == t)).map (fun x => (x.2 % 2 ^ 38 / 2 ^ 26, 9)))
    | none => [])

/-- The first fit of a part in units lo to hi − 1. -/
def firstFit (used : List (Nat × Nat)) (lo hi n : Nat) : Option Nat :=
  let starts := sortBy (fun a b => decide (a ≤ b)) (lo :: used.map (fun u => u.1 + u.2))
  if n = 0 then some lo
  else starts.find? (fun a => decide (lo ≤ a) && decide (a + n ≤ hi) && used.all (fun u => decide (u.2 = 0) || decide (a + n ≤ u.1) || decide (u.1 + u.2 ≤ a)))

/-- A slot's parts on a Terrace: the save area, the staging range, the data part, and the boundary between the zones after it (15 R549). -/
structure Placed where
  save : Nat
  stage : Nat
  data : Nat
  boundary : Nat
deriving DecidableEq, Repr

/-- Staging then data, first fit from a boundary. -/
def placeAbove (used : List (Nat × Nat)) (b top stage data save : Nat) : Option Placed :=
  match firstFit used b top stage with
  | some s =>
    match firstFit (if stage = 0 then used else (s, stage) :: used) b top data with
    | some a => some { save := save, stage := s, data := a, boundary := b }
    | none => none
  | none => none

/-- The parts placed on a Terrace, the boundary moved across free units only where it must. -/
def placeOn (d : Device) (t stage data : Nat) : Option Placed :=
  let used := usedUnits d t
  let cur := (nthD {} (d.terAt t).regions 0).limit + 1
  let top := populated d t / 2 ^ 26
  let low := used.filter (fun u => decide (u.1 < cur))
  let firstPart := ((used.filter (fun u => decide (cur ≤ u.1))).map Prod.fst).foldl min top
  match firstFit low 4 firstPart 9 with
  | none => none
  | some s =>
    let used' := (s, 9) :: used
    match placeAbove used' (max cur (s + 9)) top stage data s with
    | some p => some p
    | none => placeAbove used' ((((s, 9) :: low).map (fun u => u.1 + u.2)).foldl max 4) top stage data s

/-- The units of a reservation: staging, then the data units of each Terrace, the remainder to the lowest (15 R549). -/
def dataUnits (memGib stageMib nT i : Nat) : Nat :=
  let tot := memGib * 16 - ceilDiv stageMib 64 - 9 * nT
  tot / nT + (if i = 0 then tot % nT else 0)

/-- The parts of a reservation on the Terraces of a partition, in ascending order. -/
def placeAll (d : Device) (part stageMib memGib : Nat) : Option (List (Nat × Placed)) :=
  let ts := partTerraces d.quy.layout part
  let ps := (ts.zipIdx).map (fun x => (x.1, placeOn d x.1 (if x.2 = 0 then ceilDiv stageMib 64 else 0) (dataUnits memGib stageMib ts.length x.2)))
  if ps.all (fun x => x.2.isSome) then some (ps.filterMap (fun x => x.2.map (fun y => (x.1, y)))) else none

/-- Whether the sum of R411 leaves room. -/
def memFits (d : Device) (part memGib : Nat) : Bool :=
  let ts := partTerraces d.quy.layout part
  let held := sumNat (slots.map (fun j => match (d.jobAt j).resv with | some r => if r.part = part then r.memGib else 0 | none => 0))
  decide ((held + memGib) * 16 ≤ sumNat (ts.map (fun t => populated d t / 2 ^ 26 - 4)))

/-- The checks of JOB_CREATE. -/
def createCheck (d : Device) (p : List Nat) : Nat :=
  let slot := fieldAt p 0 1; let part := fieldAt p 1 1; let st := fieldAt p 2 2; let mem := fieldAt p 4 2
  let nT := (partTerraces d.quy.layout part).length
  firstFail [
    (st == 0 || mem == 0, stZeroSize),
    (decide (15 < slot) || decide (1023 < st) || decide (partCount d.quy.layout ≤ part), stRange),
    (allocated d slot, 0x0201),
    (decide (mem * 16 < ceilDiv st 64 + 9 * nT) || !memFits d part mem || (placeAll d part st mem).isNone, 0x0204)]

/-- The regions of the zones around a boundary. -/
def Terrace.setBoundary (x : Terrace) (b : Nat) : Terrace :=
  { x with regions := modNth (fun r => { r with base := b }) (modNth (fun r => { r with limit := b - 1 }) x.regions 0) 1 }

/-- JOB_CREATE. -/
def execJobCreate (m : Fin 256) (s : State) : Host.Outcome State Fault Refusal :=
  onDev s (fun d => d.command m 0x0004 (fun d p =>
    let slot := fieldAt p 0 1; let part := fieldAt p 1 1; let st := fieldAt p 2 2; let mem := fieldAt p 4 2
    d.reply m (createCheck d p) (fun d =>
      let ps := (placeAll d part st mem).getD []
      let data := (ps.zipIdx).map (fun x => (x.1.1, window x.1.1 + x.1.2.data * 2 ^ 26, dataUnits mem st ps.length x.2 * 2 ^ 26))
      let dev := (ps.head?.map (fun x => window x.1 + x.2.stage * 2 ^ 26)).getD 0
      let r : Resv := { part := part, stageMib := st, memGib := mem, stageDev := dev, data := data, save := ps.map (fun x => (x.1, window x.1 + x.2.save * 2 ^ 26)) }
      let d1 := ps.foldl (fun e x => e.updTer x.1 (fun y => y.setBoundary x.2.boundary)) d
      let d2 := d1.updJob slot (fun _ => { state := .created, resv := some r })
      ({ d2 with pwr := { d2.pwr with job := modNth (fun _ => ({} : Energy)) d2.pwr.job slot } } : Device).finish m stOk dev
        (data.flatMap (fun x => toLE 8 x.2.1 ++ toLE 8 x.2.2)))))

/-- The job stopped at once, its checkpoint signed (15 R413; 18 R498). -/
def Device.stopNow (d : Device) (j : Nat) : Device := (d.signCheckpoint j).stopJob j (fun _ => stAborted)

/-- The partner regions of a reservation freed, with the keys that no region uses any more. -/
def Terrace.freePartner (x : Terrace) (t : Nat) (r : Resv) : Terrace :=
  let gs := x.regions.map (fun g => if g.owner = 1 ∧ g.base ≤ g.limit ∧ r.covers t g then Region.off else g)
  { x with
    regions := gs
    keys := (x.keys.zipIdx).map (fun k => if k.2 = 0 ∨ gs.any (fun g => decide (g.base ≤ g.limit) && g.owner == 1 && g.slot == k.2) then k.1 else none)
    groups := (x.groups.zipIdx).map (fun k => if gs.any (fun g => decide (g.base ≤ g.limit) && g.owner == 1 && g.slot == k.2) then k.1 else []) }

/-- The partner regions of a reservation freed on every Terrace: their lines were written under a key that no longer governs them, so they read as
undefined (06 R193, R194). -/
def Device.freePartners (d : Device) (r : Resv) : Device :=
  (List.range 4).foldl (fun (e : Device) t =>
    let gs := (e.terAt t).regions.filter (fun g => decide (g.owner = 1) && decide (g.base ≤ g.limit) && r.covers t g)
    (gs.foldl (fun (e : Device) g => e.undefine (window t + g.base * 2 ^ 26) (window t + (g.limit + 1) * 2 ^ 26)) e).updTer t (fun x => x.freePartner t r)) d

/-- The identifier and routes in force: those of the slots that hold a topology record (13 R362). -/
def Device.refreshRoutes (d : Device) : Device :=
  let us := slots.filterMap (fun j => if (d.jobAt j).state = .empty ∨ (d.jobAt j).state = .created then none else (d.jobAt j).setup)
  { d with fab := { d.fab with
      selfId := us.head?.map (fun u => u.topo.selfId)
      routes := us.foldl (fun rs u => rs ++ u.topo.routes.filter (fun r => !rs.contains r)) [] } }

/-- The slot emptied: its job stopped, then reservation, staging, Tide entries, flow bindings and partner regions freed (15 R404). -/
def Device.destroySlot (d : Device) (j : Nat) : Device :=
  let st := (d.jobAt j).state
  let d1 := if (d.jobAt j).live || st == .suspended then d.stopNow j else d
  let d2 : Device := match (d.jobAt j).resv with
    | some r => d1.freePartners r
    | none => d1
  let d3 : Device := (d2.freeEntries j).updJob j (fun _ => {})
  ({ d3 with quy := { d3.quy with flows := d3.quy.flows.map (fun f => if f.binding = some j then { f with binding := none } else f) } } : Device).refreshRoutes

/-- JOB_DESTROY. -/
def execJobDestroy (m : Fin 256) (s : State) : Host.Outcome State Fault Refusal :=
  onDev s (fun d => d.command m 0x0005 (fun d p =>
    let slot := fieldAt p 0 1
    d.reply m (firstFail [(decide (15 < slot), stRange), (!allocated d slot, stJobState)]) (fun d => (d.destroySlot slot).finish m stOk 0 [])))

/-! ### Configuration sets and the schedule -/

/-- The pairs of a CONFIG_STAGE payload. -/
def stagedPairs (p : List Nat) : List (Nat × Nat) := (List.range (min 500 (fieldAt p 0 2))).map (fun i => (fieldAt p (8 + 8 * i) 4, fieldAt p (12 + 8 * i) 4))

/-- CONFIG_STAGE (19 R514). -/
def execConfigStage (m : Fin 256) (s : State) : Host.Outcome State Fault Refusal :=
  onDev s (fun d => d.command m 0x0006 (fun d p =>
    let ps := stagedPairs p
    let free := (List.range 4).find? (fun i => (nthD none d.quy.sets i).isNone)
    d.reply m (firstFail [
        (decide (500 < fieldAt p 0 2), stRange), (ps.any (fun x => !configurable d x.1 x.2), 0x0114),
        (ps.any (fun x => locked d x.1), 0x0A04), (free.isNone, 0x0206)])
      (fun d =>
        let i := free.getD 0
        let g := (d.quy.setGen + 1) % 2 ^ 24
        let c : ConfigSet := { gen := g, pairs := ps, sealRef := fieldAt p 4 4, staged := d.tide.now }
        ({ d with quy := { d.quy with setGen := g, sets := modNth (fun _ => some c) d.quy.sets i } } : Device).finish m stOk (i + 256 * g) [])))

/-- A schedule entry from its 32 bytes (14 R385). -/
def entryOf (p : List Nat) (now : Nat) : TideEntry :=
  { ns := fieldAt p 0 4, sec := fieldAt p 4 6, action := fieldAt p 10 1, param := fieldAt p 11 1, job := fieldAt p 12 1
    step := fieldAt p 16 8, arg := fieldAt p 24 8, accepted := now }

/-- Check 1 of 14 R387: a reserved action or layer, or a field that the action does not use. -/
def entryReserved (e : TideEntry) : Bool :=
  e.action == 0 || decide (7 < e.action) || (e.action != 1 && e.param != 0)
    || ((e.action == 3 || e.action == 4) && e.step != 0)
    || (e.action == 2 && e.arg != 0) || (e.action == 3 && decide (2 ^ 32 ≤ e.arg)) || (e.action == 4 && decide (2 ^ 16 ≤ e.arg))
    || (e.action == 7 && decide (3 ≤ e.arg))

/-- The checks of 14 R387 for an entry asked for in mailbox m. -/
def entryCheck (d : Device) (m : Nat) (p : List Nat) (e : TideEntry) : Nat :=
  firstFail [
    (entryReserved e || !zeroBytes p 13 16, stReserved),
    (decide (999999999 < e.ns) || (e.action == 4 && e.arg != 0 && (decide (e.arg < 500) || decide (2150 < e.arg))) || (e.action == 1 && decide (63 < e.param)), stRange),
    (match mboxSlot m with
      | some j => e.job != j || e.action == 3 || e.action == 4
      | none => e.job != 0xFF && !allocated d e.job, 0x070B),
    ((freeEntry d.tide).isNone, 0x070A)]

/-- TIDE_ADD. -/
def execTideAdd (m : Fin 256) (s : State) : Host.Outcome State Fault Refusal :=
  onDev s (fun d => d.command m 0x0007 (fun d p =>
    let e := entryOf p d.tide.now
    d.reply m (entryCheck d m p e) (fun d =>
      let i := (freeEntry d.tide).getD 0
      (d.putEntry i e).finish m stOk i [])))

/-- The entry of an index. -/
def entryAt (t : Tide) (i : Nat) : Option TideEntry := (t.entries.find? (fun e => e.1 == i)).map Prod.snd

/-- A fired EVAL_CLOSE whose window has no EVAL_OPEN entry left, pending or fired, closes nothing: it is freed (14 R388). -/
def Device.freeClose (d : Device) (j w : Nat) : Device :=
  if d.tide.entries.any (fun x => x.2.action == 6 && x.2.job == j && x.2.arg == w)
      || (d.jobAt j).windows.any (fun x => x.num == w && !x.closed && x.openFired) then d
  else
    ({ d with tide := { d.tide with entries := d.tide.entries.filter (fun x => !(x.2.fired && x.2.action == 5 && x.2.job == j && x.2.arg == w)) } } : Device).updJob j
      (fun q => { q with windows := q.windows.filter (fun x => x.num != w || x.closed) })

/-- TIDE_CANCEL: an entry that has not fired; the set that a CONFIG entry names is freed with it (19 R515). -/
def execTideCancel (m : Fin 256) (s : State) : Host.Outcome State Fault Refusal :=
  onDev s (fun d => d.command m 0x0008 (fun d p =>
    let i := fieldAt p 0 4
    let bad := match entryAt d.tide i with
      | some e => e.fired || (match mboxSlot m with | some j => e.job != j | none => false)
      | none => true
    d.reply m (firstFail [(decide (255 < i), stRange), (bad, 0x070B)]) (fun d =>
      let d1 := match entryAt d.tide i with
        | some e => if e.action = 3 ∧ (setOf d e.arg).isSome then d.freeSet (e.arg % 256) else d
        | none => d
      let d2 := d1.freeEntryAt i
      (match entryAt d.tide i with
        | some e => if e.action = 6 then d2.freeClose e.job e.arg else d2
        | none => d2).finish m stOk 0 [])))

/-- POWER_REQ (15 R427): the reply, then the change. -/
def execPowerReq (m : Fin 256) (s : State) : Host.Outcome State Fault Refusal :=
  onDev s (fun d => d.command m 0x0009 (fun d p =>
    let st := (d.powerRequest (fieldAt p 0 1)).1
    let d1 := d.finish m st 0 []
    if st = stOk then (d1.powerRequest (fieldAt p 0 1)).2 else d1))

/-- The Warm reset that Renura firmware prepares: every posted or busy command completed with ST_GEN_ABORTED, then the reset (15 R425). -/
def Device.warmAsked (d : Device) : Device :=
  let d1 : Device := { d with job := d.job.map (fun q => { q with stopping := none }) }
  (d.quy.posted.foldl (fun (e : Device) x => e.finish x stAborted 0 []) d1).warmReset

/-- WARM_RESET (15 R425). -/
def execWarmReset (m : Fin 256) (s : State) : Host.Outcome State Fault Refusal :=
  onDev s (fun d => d.command m 0x000A (fun d _ => (d.finish m stOk 0 []).warmAsked))

/-- The state of a slot as a code, in the order of 15 R412 (notes/assumptions/24.md). -/
def stateCode (st : JState) : Nat :=
  match st with | .empty => 0 | .created => 1 | .running => 2 | .suspended => 3 | .recovering => 4 | .stopped => 5 | .lost => 6

/-- One record of JOB_LIST; its flags, and the partition of an empty slot, are free values. -/
def listRecord (d : Device) (j : Nat) : List Nat × Device :=
  let q := d.jobAt j
  let (f, d1) := d.draw
  let (g, d2) := d1.draw
  ([stateCode q.state, (q.part).getD (g % 256)] ++ toLE 2 (f % 65536) ++ toLE 8 q.committedField ++ [0, 0, 0, 0], d2)

/-- The records of slots from a list. -/
def listRecords : List Nat → Device → List Nat × Device
  | [], d => ([], d)
  | j :: js, d => let (b, d1) := listRecord d j; let (bs, d2) := listRecords js d1; (b ++ bs, d2)

/-- JOB_LIST. -/
def execJobList (m : Fin 256) (s : State) : Host.Outcome State Fault Refusal :=
  onDev s (fun d => d.command m 0x000B (fun d _ =>
    let (b, d1) := listRecords slots d
    d1.finish m stOk 0 b))

end Sys2Proof.Machine
end

