-- ==== Sys2Proof/Machine/Tray.lean ====
section
/-! DEFINITION. Pawezel's work and its I3C target: restart, page writes, frames and replies, the log, power and reset commands, image update,
rollback, attestation (18 R475 to R498). notes/assumptions/29.md names what is the model's. -/
namespace Sys2Proof.Machine

/-! ### Frames and replies (18 R477, R478) -/

/-- The address Pawezel answers at: the dynamic address once one is assigned, else 0x30 + SID. -/
def i3cAddr (d : Device) : Nat := d.i3c.dynAddr.getD (0x30 + d.i3c.sid)

/-- The bytes the next private read returns. -/
def i3cBytes (st : Nat) (body : List Nat) : List Nat :=
  let h := toLE 2 st ++ toLE 2 body.length ++ body
  h ++ toLE 4 (crc32c h)

/-- A reply waiting to be read. -/
def Device.i3cReply (d : Device) (st : Nat) (body : List Nat) : Device :=
  { d with i3c := { d.i3c with reply := some (i3cBytes st body) } }

/-- Whether some image type is in recovery (18 R492). -/
def inRecovery (d : Device) : Bool := d.pwz.types.any ImageType.recovery

/-- What a command answers: its status, its reply's payload, and what it does once the reply stands. -/
structure I3CAnswer where
  status : Nat := 0
  body : List Nat := []
  effect : Device → Device := id

/-- A private write received (R478): a bad CRC is ignored; a LEN that does not fit is answered with ST_PARAM_RANGE; in recovery only the
commands so marked are served (R492). -/
def Device.i3cFrame (d : Device) (f : Frame) (need : Nat) (served : Bool) (run : Device → List Nat → I3CAnswer) : Device :=
  if !d.inp.island || f.addr != i3cAddr d || !f.crcOk then d
  else if f.len ≠ f.payload.length ∨ 8192 < f.len ∨ f.payload.length < need then d.i3cReply stRange []
  else if inRecovery d && !served then d
  else
    let r := run d f.payload
    r.effect (d.i3cReply r.status r.body)

/-- A refusal. -/
def i3cRefuse (st : Nat) : I3CAnswer := { status := st }

/-- DYNAMIC_ADDRESS_ASSIGNMENT: the common command codes of the tray controller: the dynamic address it assigns, or its reset; in-band interrupts enabled or
disabled; the target's status, which shows a pending interrupt (18 R477; notes/assumptions/29.md). -/
def execDynamicAddressAssignment (ccc : Ccc) (s : State) : Host.Outcome State Fault Refusal :=
  onDev s (fun d =>
    if !d.inp.island then d
    else match ccc with
    | .assign a => { d with i3c := { d.i3c with dynAddr := some a } }
    | .rstdaa => { d with i3c := { d.i3c with dynAddr := none } }
    | .enec => { d with i3c := { d.i3c with ibiOff := false } }
    | .disec => { d with i3c := { d.i3c with ibiOff := true } }
    | .getstatus => d.send (.i3cStatus (b2n d.i3c.alert)))

/-! ### Pawezel (18 R475, R482; 19 R518) -/

/-- PAWEZEL_RESTART: Pawezel starts again from NOR: its open update, its unread reply and its nonce are lost, and unused HSS indices of the
reserved block are skipped; everything else runs on. -/
def execPawezelRestart (s : State) : Host.Outcome State Fault Refusal :=
  onDev s (fun d =>
    if !d.inp.island then d
    else
      let d0 := d.dropUpdate
      let d1 : Device := { d0 with i3c := { d0.i3c with reply := none }, sec := { d0.sec with nonceGen := d0.free }, free := d0.free + 1 }
      (({ d1 with pwz := { d1.pwz with hssNext := hssAtBoot d1.pwz } } : Device)).logEvent srcPawezel 0x0A0C sevWarning none [])

/-- BITTERN_PAGE_WRITE: a page of the records not yet in NOR is written. -/
def execBitternPageWrite (s : State) : Host.Outcome State Fault Refusal :=
  onDev s (fun d => if d.inp.island then { d with bit := d.bit.writePage } else d)

/-- PAWEZEL_WARM_RESET: a Warm reset without the completions; a Cold or Module bring-up absorbs it. -/
def execPawezelWarmReset (s : State) : Host.Outcome State Fault Refusal :=
  onDev s (fun d => if d.inp.stage == .served then d.warmReset else d)

/-! ### Status, sensors, log, power, reset -/

/-- The five words of STATUS. -/
def statusWords (d : Device) : List Nat :=
  [regValue d 0x20000, regValue d 0x30000, regValue d 0x3000C, pstateCode d.glb.cur, regValue d 0x40014]

/-- I3C_STATUS: the status words; SOURCES clears and ALERT_N is released. -/
def execI3cStatus (f : Frame) (s : State) : Host.Outcome State Fault Refusal :=
  onDev s (fun d => d.i3cFrame f 0 true (fun d _ =>
    { body := (statusWords d).flatMap (toLE 4)
      effect := fun e => { e with sec := { e.sec with sources := 0 }, i3c := { e.i3c with alert := false } } }))

/-- The 123 readings in sensor order (18 R552). -/
def readings (p : Pwz) : List Int := p.die ++ p.rails.flatMap (fun r => [r.1, r.2]) ++ [p.inlet, p.outlet, p.flow]

/-- I3C_SENSORS. -/
def execI3cSensors (f : Frame) (s : State) : Host.Outcome State Fault Refusal :=
  onDev s (fun d => d.i3cFrame f 0 false (fun d _ => { body := (readings d.pwz).flatMap (fun v => toLE 4 (ofSigned 32 v)) }))

/-- The records that stand in NOR or the ring from a record number upward, rising. -/
def recordsFrom (b : Bittern) (n : Nat) : List Record :=
  let old := match b.ring with
    | r :: _ => (b.nor.flatMap NorPage.recs).filter (fun x => decide (x.num < r.num))
    | [] => b.nor.flatMap NorPage.recs
  (old ++ b.ring).filter (fun x => decide (n ≤ x.num))

/-- I3C_LOG: up to MAX records, each after its record number; a reply holds 8,192 bytes. -/
def execI3cLog (f : Frame) (s : State) : Host.Outcome State Fault Refusal :=
  onDev s (fun d => d.i3cFrame f 10 true (fun d p =>
    { body := ((recordsFrom d.bit (fieldAt p 0 8)).take (min 204 (fieldAt p 8 2))).flatMap (fun r => toLE 8 r.num ++ r.bytes) }))

/-- ST_PWR_DISABLED and ST_PWR_THERMAL (20 R545; 19 R522). -/
def stPwrDisabled : Nat := 0x0902
def stPwrThermal : Nat := 0x0901

/-- I3C_POWER: as POWER_REQ; refused with the compute domain off, and while a bring-up is under way (20 R538, 19 R522). -/
def execI3cPower (f : Frame) (s : State) : Host.Outcome State Fault Refusal :=
  onDev s (fun d => d.i3cFrame f 1 false (fun d p =>
    let code := fieldAt p 0 1
    match d.inp.stage with
    | .off => i3cRefuse stPwrDisabled
    | .held => i3cRefuse stJobState
    | .coolWait => i3cRefuse stPwrThermal
    | .served =>
      let st := (d.powerRequest code).1
      { status := st, effect := fun e => if st = stOk then (e.powerRequest code).2 else e }))

/-- I3C_RESET: a Warm reset as WARM_RESET asks for it; a Cold or Module bring-up absorbs it. -/
def execI3cReset (f : Frame) (s : State) : Host.Outcome State Fault Refusal :=
  onDev s (fun d => d.i3cFrame f 0 false (fun d _ =>
    match d.inp.stage with
    | .off => i3cRefuse stPwrDisabled
    | .served => { effect := Device.warmAsked }
    | _ => {}))

/-! ### Images and their update (18 R483 to R485, R490 to R492) -/

/-- The size of a type's slot. -/
def slotSize (typ : Nat) : Nat := match typ with | 1 => 2 ^ 20 | 2 => 2 ^ 24 | 3 => 2 ^ 23 | _ => 2 ^ 18

/-- ST_SEC_SIGNATURE, ST_SEC_ROLLBACK, ST_SEC_HSS_EXHAUSTED, ST_SEC_OWNER_SLOT. -/
def stSignature : Nat := 0x0A02
def stRollback : Nat := 0x0A03
def stHssExhausted : Nat := 0x0A06
def stOwnerSlot : Nat := 0x0A07

/-- Whether a signature block is by a key slot of this hash and verifies over a message (R485 steps 2, 6, 7). -/
def blockOk (hash : Option (List Nat)) (msg blk : List Nat) : Bool :=
  hash == some (sha384 (sliceAt blk 0 97 ++ sliceAt blk 128 60)) && Config.signatureValid msg blk

/-- The key hash of a slot: owner slots for type 4, vendor slots for the others. -/
def keyHash (p : Pwz) (typ key : Nat) : Option (List Nat) :=
  if typ = 4 then (nthD {} p.ownerKeys key).hash else some (sliceAt (Config.vendorKeyHash key) 0 48)

/-- Whether a header's fields are in range for a type and the image's length (R485 step 1). -/
def imageHeaderOk (typ : Nat) (img : List Nat) : Bool :=
  let n := fieldAt img 12 4
  fieldAt img 0 4 == 0x47574B53 && fieldAt img 4 1 == typ && decide (fieldAt img 5 1 ≤ 3) && decide (fieldAt img 6 1 ≤ 64)
    && fieldAt img 7 1 == 0 && decide (n + 69632 ≤ slotSize typ) && img.length == 64 + n + 4096

/-- The image a header and body stand for. -/
def imageOf (img : List Nat) : Image :=
  { valid := true, svn := fieldAt img 6 1, keyIdx := fieldAt img 5 1, version := fieldAt img 8 4, measurement := sha384 (sliceAt img 0 64)
    body := sliceAt img 64 (fieldAt img 12 4) }

/-- The verification of R485: its status. BODY_LEN, a size field, rejects 0 by 00 R18 (notes/assumptions/38.md). -/
def verifyImage (p : Pwz) (typ : Nat) (img : List Nat) : Nat :=
  let n := fieldAt img 12 4
  let key := fieldAt img 5 1
  let blk := sliceAt img (64 + n) 4096
  let hash := keyHash p typ key
  if imageHeaderOk typ img ∧ n = 0 then stZeroSize
  else if !imageHeaderOk typ img || hash != some (sha384 (sliceAt blk 0 97 ++ sliceAt blk 128 60)) || p.revoked typ key
      || sliceAt img 16 48 != sha384 (sliceAt img 64 n) then stSignature
  else if fieldAt img 6 1 < (p.typeAt typ).rollback then stRollback
  else if blockOk hash (sha384 (sliceAt img 0 64)) blk then stOk else stSignature

/-- Whether an update of a type goes to slot B: the slot that does not run; in recovery slot A (R490, R492). -/
def updatesB (t : ImageType) : Bool := !t.recovery && !t.runningB

/-- An image in the slot that an update of a type fills. -/
def ImageType.put (t : ImageType) (i : Image) : ImageType := if updatesB t then { t with b := i } else { t with a := i }

/-- UPD_BEGIN: the slot is erased. -/
def execUpdBegin (f : Frame) (s : State) : Host.Outcome State Fault Refusal :=
  onDev s (fun d => d.i3cFrame f 5 true (fun d p =>
    let typ := fieldAt p 0 1
    let len := fieldAt p 1 4
    if typ = 0 ∨ 4 < typ ∨ slotSize typ < len then i3cRefuse stRange
    else if (match d.pwz.update with | some u => u.typ != typ | none => false) then i3cRefuse stJobState
    else { effect := fun e => { e with pwz := { e.pwz.updType typ (fun t => t.put { valid := false }) with update := some { typ := typ, len := len } } } }))

/-- UPD_DATA: bytes at an offset of the slot. -/
def execUpdData (f : Frame) (s : State) : Host.Outcome State Fault Refusal :=
  onDev s (fun d => d.i3cFrame f 4 true (fun d p =>
    match d.pwz.update with
    | none => i3cRefuse stJobState
    | some u =>
      let off := fieldAt p 0 4
      let bytes := p.drop 4
      if u.len < off + bytes.length then i3cRefuse stRange
      else { effect := fun e => { e with pwz := { e.pwz with update := some { u with data := bmWrite u.data off bytes } } } }))

/-- The boot that a recovery interrupted, gone on with (R492). -/
def Device.leaveRecovery (d : Device) (typ : Nat) : Device :=
  if !d.inp.pwrEn || d.sec.level == 3 then d
  else if typ = 1 then
    let d1 := d.selectImage 1
    if (d1.pwz.typeAt 1).recovery then d1 else d1.resumeBoot
  else d.bootStep5

/-- A verified image in its slot; in recovery it is made preferred and the boot goes on. -/
def Device.takeImage (d : Device) (typ : Nat) (i : Image) : Device :=
  let rec' := (d.pwz.typeAt typ).recovery
  let d1 : Device := { d with pwz := { d.pwz.updType typ (fun t =>
    let t1 := t.put i
    if t.recovery then { t1 with preferredB := false, recovery := false } else t1) with update := none } }
  if rec' then d1.leaveRecovery typ else d1

/-- An update ended without an image. -/
def Device.endUpdate (d : Device) : Device := { d with pwz := { d.pwz with update := none } }

/-- UPD_END: the image verified by R485; the update ends. -/
def execUpdEnd (f : Frame) (s : State) : Host.Outcome State Fault Refusal :=
  onDev s (fun d => d.i3cFrame f 0 true (fun d _ =>
    match d.pwz.update with
    | none => i3cRefuse stJobState
    | some u =>
      let img := bmRead u.data 0 u.len
      let st := verifyImage d.pwz u.typ img
      { status := st
        effect := fun e => if st = stOk then e.takeImage u.typ (imageOf img) else (e.endUpdate).sigFail u.typ }))

/-- ACTIVATE: a verified slot made preferred for the next boot. -/
def execActivate (f : Frame) (s : State) : Host.Outcome State Fault Refusal :=
  onDev s (fun d => d.i3cFrame f 2 true (fun d p =>
    let typ := fieldAt p 0 1
    let slot := fieldAt p 1 1
    let t := d.pwz.typeAt typ
    if typ = 0 ∨ 4 < typ ∨ 1 < slot then i3cRefuse stRange
    else if !(if slot = 1 then t.b else t.a).valid then i3cRefuse stSignature
    else { effect := fun e => { e with pwz := e.pwz.updType typ (fun t => { t with preferredB := slot == 1 }) } }))

/-- SVN_COMMIT: the rollback count raised to the running image's SVN while the other slot holds a valid fallback. -/
def execSvnCommit (f : Frame) (s : State) : Host.Outcome State Fault Refusal :=
  onDev s (fun d => d.i3cFrame f 1 true (fun d p =>
    let typ := fieldAt p 0 1
    let t := d.pwz.typeAt typ
    if typ = 0 ∨ 4 < typ then i3cRefuse stRange
    else if !t.running.valid || !d.pwz.imageOk typ t.other || decide (t.other.svn < t.running.svn) then i3cRefuse stRollback
    else
      { effect := fun e =>
          if t.running.svn ≤ t.rollback then e
          else ({ e with pwz := e.pwz.updType typ (fun t => { t with rollback := t.running.svn }) } : Device).logEvent srcSecurity 0x0A09 sevNotice
            none [typ, t.running.svn] }))

/-! ### Attestation (18 R493 to R495, R498) -/

/-- The current nonce: a free value (notes/assumptions/2.md). -/
def nonceBytes (d : Device) : List Nat := toLE 16 (Config.freeNat d.sec.nonceGen)

/-- The nonce replaced. -/
def Device.newNonce (d : Device) : Device := { d with sec := { d.sec with nonceGen := d.free }, free := d.free + 1 }

/-- NONCE: a fresh nonce. -/
def execNonce (f : Frame) (s : State) : Host.Outcome State Fault Refusal :=
  onDev s (fun d => d.i3cFrame f 0 false (fun d _ => { body := nonceBytes d.newNonce, effect := Device.newNonce }))

/-- A job's 64 bytes of the attestation report. -/
def jobAttest (q : JobSlot) : List Nat := [stateCode q.state] ++ List.replicate 7 0 ++ toLE 8 q.committedField ++ sliceAt q.commit.head 0 48

/-- Bytes 0 to 1,271 of the attestation report (R495). -/
def attestBody (d : Device) (nonce : List Nat) (index : Nat) : List Nat :=
  sliceAt nonce 0 16
    ++ toLE 4 (b2n d.sec.debug + 2 * d.sec.level + 8 * b2n d.sl.matched + 16 * b2n (decide (2 ^ 31 ≤ retireReg d)))
    ++ toLE 4 d.sec.alarmCount ++ toLE 4 d.sl.value ++ d.pwz.types.map ImageType.rollback ++ toLE 8 index
    ++ measurements d ++ toLE 4 (wear0 d) ++ toLE 4 (wear1 d) ++ List.replicate 8 0 ++ d.job.toList.flatMap jobAttest

/-- ATTEST: the report signed by the Alias key and the HSS key; keys that Erase zeroised sign nothing. -/
def execAttest (f : Frame) (s : State) : Host.Outcome State Fault Refusal :=
  onDev s (fun d => d.i3cFrame f 16 false (fun d p =>
    if d.sec.zeroised then i3cRefuse stLockdown
    else match d.hssTake with
    | none => i3cRefuse stHssExhausted
    | some (i, _) =>
      let body := attestBody d p i
      let msg := sha384 body
      { body := body ++ sliceAt (Config.ecdsaSign (d.pwz.aliasFrom) msg) 0 96 ++ sliceAt (Config.hssSign i msg) 0 3604
        effect := fun e => match e.hssTake with | some (_, x) => x | none => e }))

/-- CERTS: the DER certificates of the DeviceID, Alias and HSS keys. -/
def execCerts (f : Frame) (s : State) : Host.Outcome State Fault Refusal :=
  onDev s (fun d => d.i3cFrame f 0 false (fun d _ => { body := ((Config.certificates (d.pwz.aliasFrom)).map (· % 256)).take 8192 }))

/-- TALLY: the stored checkpoints of a slot from a step upward, whole, as many as a reply holds. -/
def execTally (f : Frame) (s : State) : Host.Outcome State Fault Refusal :=
  onDev s (fun d => d.i3cFrame f 9 false (fun d p =>
    let slot := fieldAt p 0 1
    if 15 < slot then i3cRefuse stRange
    else
      let cs := d.pwz.tally.filter (fun c => fieldAt c.body 2 1 == slot && decide (fieldAt p 1 8 ≤ fieldAt c.body 4 8))
      { body := (cs.take 2).flatMap (fun c => sliceAt c.body 0 60 ++ sliceAt c.sig 0 3700) }))

end Sys2Proof.Machine
end

