-- ==== Sys2Proof/Machine/Guard.lean ====
section
/-! DEFINITION. The alarm's events and the owner token (18 R499 to R503; 20 R544). notes/assumptions/29.md names what is the model's. -/
namespace Sys2Proof.Machine

/-! ### Sources of the alarm (18 R499) -/

/-- MESH_BREACH: the tamper mesh opens or shorts. -/
def execMeshBreach (s : State) : Host.Outcome State Fault Refusal :=
  onDev s (fun d =>
    if d.inp.island then (d.logEvent srcSecurity 0x0A05 sevWarning none []).meetSource 0 (alarmResponse d 0) else d)

/-- GLITCH: a detection; the third within 1 s of the first of the three is answered by Erase. -/
def execGlitch (s : State) : Host.Outcome State Fault Refusal :=
  onDev s (fun d =>
    if d.inp.island then
      let n := d.sec.glitches + 1
      let d1 := ({ d with sec := { d.sec with glitches := n } } : Device).logEvent srcSecurity 0x0A04 sevWarning none []
      d1.meetSource 1 (if 3 ≤ n then 3 else alarmResponse d 1)
    else d)

/-- GLITCH_WINDOW_EXPIRY: the oldest detection is 1 s old and counts no longer. -/
def execGlitchWindowExpiry (s : State) : Host.Outcome State Fault Refusal :=
  onDev s (fun d => { d with sec := { d.sec with glitches := d.sec.glitches - 1 } })

/-- A debug unlock attempt: the event and its source. -/
def Device.debugAttempt (d : Device) : Device := (d.logEvent srcSecurity 0x0A03 sevWarning none []).meetSource 3 (alarmResponse d 3)

/-- JTAG_ACCESS: an access of the test access port while DEBUG is clear (20 R544). -/
def execJtagAccess (s : State) : Host.Outcome State Fault Refusal :=
  onDev s (fun d => if d.inp.island && !d.sec.debug then d.debugAttempt else d)

/-! ### Owner tokens (18 R502) -/

/-- Whether an owner slot is programmed. -/
def KeySlot.programmed (k : KeySlot) : Bool := k.hash.isSome

/-- The key hash and the revoke fuse a token is checked under: owner slot KEYIDX, or the vendor slot for the provisioning of the first
owner. -/
def tokenKey (p : Pwz) (op key : Nat) : Option (List Nat) × Bool :=
  if op = 4 ∧ p.ownerKeys.all (fun k => !k.programmed) then (keyHash p 1 key, p.revoked 1 key) else (keyHash p 4 key, p.revoked 4 key)

/-- Whether a token is accepted: its reserved values 0, its DEVICE and NONCE this device's, its signatures good. -/
def tokenOk (d : Device) (tok : List Nat) : Bool :=
  let op := fieldAt tok 0 1
  let key := fieldAt tok 1 1
  let k := tokenKey d.pwz op key
  decide (1 ≤ op) && decide (op ≤ 5) && decide (key ≤ 3) && fieldAt tok 3 1 == 0
    && (if op = 4 ∨ op = 5 then decide (fieldAt tok 2 1 ≤ 3) else fieldAt tok 2 1 == 0)
    && (op == 4 || fieldAt tok 68 48 == 0)
    && sliceAt tok 4 48 == sliceAt Config.deviceIdDigest 0 48 && sliceAt tok 52 16 == nonceBytes d
    && !k.2 && blockOk k.1 (sha384 (sliceAt tok 0 116)) (sliceAt tok 116 4096)

/-- A refused token: a failed verification, and for DEBUG_UNLOCK a failed unlock attempt; the nonce is replaced. -/
def Device.tokenRefused (d : Device) (op : Nat) : Device :=
  let d1 := d.newNonce.sigFail 0x30
  if op = 2 then d1.debugAttempt else d1

/-- AUTH carrying a token of one operation: a token that another operation owns is not this command; a refused one is answered with
ST_SEC_SIGNATURE; an accepted one replaces the nonce and acts. -/
def Device.auth (d : Device) (f : Frame) (op : Nat) (act : Device → List Nat → I3CAnswer) : Device :=
  let named := fieldAt f.payload 0 1
  if f.len = f.payload.length ∧ 1 ≤ named ∧ named ≤ 5 ∧ named ≠ op then d
  else d.i3cFrame f 4212 false (fun d tok =>
    if tokenOk d tok then
      let r := act d tok
      { r with effect := fun e => r.effect e.newNonce }
    else { status := stSignature, effect := fun e => e.tokenRefused op })

/-- ALARM_CLEAR: from Lockdown level 0; from Erase level 0 and, with PWR_EN high, a Cold reset. -/
def execAlarmClear (f : Frame) (s : State) : Host.Outcome State Fault Refusal :=
  onDev s (fun d => d.auth f 1 (fun _ _ =>
    { effect := fun e =>
        let e1 : Device := { e with sec := { e.sec with level := 0 } }
        if e.sec.level = 3 ∧ e.inp.pwrEn then e1.causeCold.coldReset else e1 }))

/-- A change of DEBUG through a Module reset; with PWR_EN low no reset runs, and a bring-up under way absorbs it (R503, R519). -/
def Device.setDebug (d : Device) (on : Bool) : Device :=
  let d1 : Device := { d with sec := { d.sec with debug := on } }
  if d.inp.stage == .served then d1.moduleReset else d1

/-- DEBUG_UNLOCK: DEBUG set; blocked at Lockdown and above (R500). -/
def execDebugUnlock (f : Frame) (s : State) : Host.Outcome State Fault Refusal :=
  onDev s (fun d => d.auth f 2 (fun d _ =>
    if 2 ≤ d.sec.level then i3cRefuse stLockdown else { effect := fun e => e.setDebug true }))

/-- DEBUG_LOCK: DEBUG cleared. -/
def execDebugLock (f : Frame) (s : State) : Host.Outcome State Fault Refusal :=
  onDev s (fun d => d.auth f 3 (fun _ _ => { effect := fun e => e.setDebug false }))

/-- An owner slot changed, recorded and logged. -/
def Device.ownerChange (d : Device) (op target : Nat) (g : KeySlot → KeySlot) : Device :=
  ({ d with pwz := { d.pwz with ownerKeys := modNth g d.pwz.ownerKeys target, ownerRecord := d.pwz.ownerRecord ++ [(op, target)] } } : Device).logEvent
    srcSecurity 0x0A0E sevWarning none [op, target]

/-- OWNER_PROVISION: an unprogrammed slot takes KEYHASH. -/
def execOwnerProvision (f : Frame) (s : State) : Host.Outcome State Fault Refusal :=
  onDev s (fun d => d.auth f 4 (fun d tok =>
    let t := fieldAt tok 2 1
    if (nthD {} d.pwz.ownerKeys t).programmed then i3cRefuse stOwnerSlot
    else { effect := fun e => e.ownerChange 4 t (fun k => { k with hash := some (sliceAt tok 68 48) }) }))

/-- OWNER_REVOKE: a programmed slot other than the signer's and not the last one left. -/
def execOwnerRevoke (f : Frame) (s : State) : Host.Outcome State Fault Refusal :=
  onDev s (fun d => d.auth f 5 (fun d tok =>
    let t := fieldAt tok 2 1
    let left := (List.range 4).filter (fun i => (nthD {} d.pwz.ownerKeys i).programmed && !(nthD {} d.pwz.ownerKeys i).revoked)
    if !(nthD {} d.pwz.ownerKeys t).programmed || t == fieldAt tok 1 1 || left == [t] then i3cRefuse stOwnerSlot
    else { effect := fun e => e.ownerChange 5 t (fun k => { k with revoked := true }) }))

end Sys2Proof.Machine
end

