-- ==== Sys2Proof/Machine/Records.lean ====
section
/-! DEFINITION. The records host software puts in staging: manifest windows, override records, augmentation programs; the partition rule
(11 R295, R296, R317, R319; 15 R395, R396, R414). -/
namespace Sys2Proof.Machine

/-- A pipe status. -/
def stManifestOrder : Nat := 0x0601
def stStaging : Nat := 0x0205
def stFlowUnknown : Nat := 0x070D

/-! ### Staging (15 R396) -/

/-- Whether a staging range lies beyond STAGE_MIB. -/
def Resv.beyond (r : Resv) (off n : Nat) : Bool := decide (r.stageMib * 1048576 < off + n)

/-- The same for a slot; true without a reservation. -/
def JobSlot.beyond (q : JobSlot) (off n : Nat) : Bool := match q.resv with | some r => r.beyond off n | none => true

/-- n bytes of a slot's staging. -/
def Device.staged (d : Device) (j off n : Nat) : List Nat :=
  match (d.jobAt j).resv with
  | some r => d.readN (r.stageDev + off) n
  | none => List.replicate n 0

/-- Stretches of a slot's staging, by offset and length, as device addresses. -/
def Device.stagingAt (d : Device) (j : Nat) (spans : List (Nat × Nat)) : List (Nat × Nat) :=
  match (d.jobAt j).resv with
  | some r => spans.map (fun x => (r.stageDev + x.1, x.2))
  | none => []

/-- A mailbox command that touches stretches of its slot's staging: it waits while a line of them is held, may meet a corruption there, and ends with
ST_MEM_UNRECOVERED at a persistent one, which nothing regenerates (06 R184, R196; notes/assumptions/17.md). -/
def Device.stagingHit (d : Device) (m j : Nat) (hit : Option Hit) (spans : List (Nat × Nat)) (go : Device → Device) : Device :=
  d.withHit hit (d.stagingAt j spans) (fun e _ => e.finish m stUnrecovered 0 []) go

/-- The same, refused while a window of the stretches is under test (06 R199). -/
def Device.onStaging (d : Device) (m j : Nat) (hit : Option Hit) (spans : List (Nat × Nat)) (go : Device → Device) : Device :=
  if (d.stagingAt j spans).any (fun x => accessStatus d .firmware x.1 x.2 == stTgen) then d.finish m stTgen 0 [] else d.stagingHit m j hit spans go

/-- Whether a flow is open and bound to a slot. -/
def boundTo (d : Device) (flow j : Nat) : Bool := (d.flowAt flow).any (fun f => f.binding == some j)

/-! ### Manifest windows (11 R295, R296) -/

/-- A reserved field or code in a manifest entry. -/
def manReserved (e : List Nat) : Bool := decide (2 ^ 40 ≤ manSample e) || decide (8 < manMedia e) || decide (4 ≤ fieldAt e 27 1)

/-- Whether a submission of a job names a position. -/
def named (q : JobSlot) (epoch pos : Nat) : Bool :=
  q.steps.any (fun st => st.sub.epoch == epoch && decide (st.sub.posFirst ≤ pos) && decide (pos < st.sub.posFirst + st.sub.posCount))

/-- The held entries without those of a window's positions. -/
def outsideWindow (es : List ManEntry) (epoch pos n : Nat) : List ManEntry :=
  es.filter (fun e => !(e.epoch == epoch && decide (pos ≤ e.pos) && decide (e.pos < pos + n)))

/-- The checks of 11 R296 for a window, against the seed and N. -/
def windowCheck (q : JobSlot) (seed n epoch pos : Nat) (es : List (List Nat)) : Nat :=
  if es.isEmpty then 0
  else firstFail [
    ((es.zipIdx).any (fun x => manReserved x.1 || decide (n ≤ pos + x.2) || manSample x.1 != shuffle seed (pos + x.2) n epoch), stManifestOrder),
    (decide (1048576 < (outsideWindow q.manifest epoch pos es.length).length + es.length), 0x0604),
    ((List.range es.length).any (fun i => named q epoch (pos + i)), stManifestOrder)]

/-- A window held. -/
def JobSlot.addWindow (q : JobSlot) (epoch pos : Nat) (es : List (List Nat)) : JobSlot :=
  { q with manifest := outsideWindow q.manifest epoch pos es.length ++ (es.zipIdx).map (fun x => ({ epoch := epoch, pos := pos + x.2, bytes := x.1 } : ManEntry)) }

/-! ### Augmentation programs (11 R317, 12 R347) -/

/-- The parameters of an opcode: how many, whether FP32, and the sample kinds it acts on (visual, audio). -/
def augShape (op : Nat) : Option (Nat × Bool × Bool × Bool) :=
  match op with
  | 0x01 => some (4, false, true, false) | 0x02 => some (2, false, true, false) | 0x03 => some (0, false, true, false)
  | 0x04 => some (1, false, true, false) | 0x05 => some (3, true, true, false) | 0x06 => some (2, false, true, false)
  | 0x07 => some (2, false, true, true) | 0x08 => some (1, false, true, false) | 0x09 => some (1, true, false, true)
  | 0x0A => some (1, false, false, true) | 0x0B => some (0, false, false, true)
  | _ => none

/-- The order of FP32 values by their codes: finite a ≤ b. -/
def fp32Le (a b : Nat) : Bool :=
  let key (c : Nat) : Int := if c < 2 ^ 31 then (c : Int) else (2 ^ 31 : Int) - (c : Int)
  decide (key a ≤ key b)

/-- Whether an FP32 code is finite. -/
def fp32Finite (c : Nat) : Bool := bits c 30 23 != 255

/-- An augmentation entry of 64 bytes. -/
def augOf (b : List Nat) : AugOp :=
  { opcode := fieldAt b 0 1, nparam := fieldAt b 1 1, media := fieldAt b 2 2, prob := fieldAt b 4 4
    specs := (List.range 4).map (fun i => (fieldAt b (8 + 12 * i) 1, fieldAt b (12 + 12 * i) 4, fieldAt b (16 + 12 * i) 4)) }

/-- Whether an augmentation entry is refused: a reserved field or code, LO > HI, parameters that are not the opcode's, a media code of the
wrong kind (notes/assumptions/26.md). -/
def augBad (b : List Nat) : Bool :=
  let o := augOf b
  match augShape o.opcode with
  | none => true
  | some (n, fp, vis, aud) =>
    o.nparam != n || !zeroBytes b 56 64
      || (List.range 4).any (fun i => decide (1 < (nthD (0, 0, 0) o.specs i).1) || !zeroBytes b (9 + 12 * i) (12 + 12 * i))
      || (o.specs.take n).any (fun s => (s.1 == 1) != fp)
      || o.specs.any (fun s => if s.1 = 1 then !fp32Finite s.2.1 || !fp32Finite s.2.2 || !fp32Le s.2.1 s.2.2 else decide (s.2.2 < s.2.1))
      || (List.range 16).any (fun k => bitOf o.media k && !((vis && decide (1 ≤ k) && decide (k ≤ 5)) || (aud && decide (6 ≤ k) && decide (k ≤ 8))))

/-! ### Override records (11 R319) -/

/-- An override record of 24 bytes. -/
def overrideOf (b : List Nat) : Override :=
  { sample := fieldAt b 0 8, epoch := fieldAt b 8 4, opidx := fieldAt b 12 1, param := fieldAt b 13 1, value := fieldAt b 16 4 }

/-- A reserved field of an override record. -/
def overrideReserved (b : List Nat) : Bool := decide (2 ^ 40 ≤ fieldAt b 0 8) || !zeroBytes b 14 16 || !zeroBytes b 20 24

/-- The range check of a record against the augmentation program. -/
def overrideRange (aug : List AugOp) (o : Override) : Bool :=
  match aug[o.opidx]? with
  | none => true
  | some a =>
    decide (a.nparam < o.param) || (o.param == 0 && decide (1 < o.value))
      || (o.param != 0 && (nthD (0, 0, 0) a.specs (o.param - 1)).1 == 1 && !fp32Finite o.value)

/-- The same draw pinned. -/
def sameDraw (a b : Override) : Bool := a.sample == b.sample && a.epoch == b.epoch && a.opidx == b.opidx && a.param == b.param

/-- Records added one after another to those held; the first failing record's status. -/
def addOverrides (aug : List AugOp) : List Override → List (List Nat) → Except Nat (List Override)
  | os, [] => .ok os
  | os, b :: bs =>
    if overrideReserved b then .error stReserved
    else if overrideRange aug (overrideOf b) then .error stRange
    else if os.any (sameDraw (overrideOf b)) then .error 0x0605
    else addOverrides aug (os ++ [overrideOf b]) bs

/-! ### Partitions (15 R414) -/

/-- Whether a job runs exclusively. -/
def JobSlot.exclusive (q : JobSlot) : Bool := match q.setup with | some u => !u.jr.sliced | none => true

/-- Whether a partition refuses a job: an exclusive one beside any other live job, a sliced one beside an exclusive one. -/
def partitionBusy (d : Device) (j : Nat) (sliced : Bool) : Bool :=
  slots.any (fun k => k != j && (d.jobAt k).live && (d.jobAt k).part == (d.jobAt j).part && (!sliced || (d.jobAt k).exclusive))

/-- Whether no job may start or resume: Doze, Shelf, or a seal mismatch under ACTION 1 or above (19 R512, R521). -/
def startsBarred (d : Device) : Bool := d.glb.cur == .doze || d.glb.cur == .shelf || d.sl.blocked

end Sys2Proof.Machine
end

