-- ==== Sys2Proof/Machine/Intake.lean ====
section
/-! DEFINITION. The intake engine and the Grader's banks: which job and step they serve, the fetches asked for, sealing; host-lane requests
(11 R304, R305, R307, R310, R312; 15 R405, R418, R421). -/
namespace Sys2Proof.Machine

/-! ### Banks -/

/-- The steps of the two banks. -/
def Grader.fillStep (g : Grader) : Option Nat := if g.drainB then g.stepA else g.stepB
def Grader.drainStep (g : Grader) : Option Nat := if g.drainB then g.stepB else g.stepA

/-- The filling bank changed. -/
def Grader.setFill (g : Grader) (st : Option Nat) (es : List GEntry) : Grader :=
  if g.drainB then { g with stepA := st, bankA := es } else { g with stepB := st, bankB := es }

/-- Whether the intake engine has begun a step. -/
def Grader.begun (g : Grader) (n : Nat) : Bool := [g.stepA, g.stepB].any (fun o => o.any (fun k => decide (n ≤ k)))

/-- A step whose every position is placed. -/
def Step.placed (st : Step) : Bool := st.slots.all (fun e => e.2.place != .unplaced && e.2.place != .fetching)

/-- The batch whose turn it is has every sample placed. -/
def JobSlot.batchPlaced (q : JobSlot) : Bool := q.dueBatch.all (fun b => b.work.placed)

/-- Whether a filling bank is sealed: it has a step, and every position of the step is placed (11 R310); or it holds a batch's entries alone, and the
batch is placed (R324, notes/assumptions/25.md). -/
def Grader.full (g : Grader) (q : JobSlot) : Bool :=
  match g.fillStep with
  | some n => match q.steps.find? (fun st => st.num == n) with | some st => st.placed | none => true
  | none => !g.filling.isEmpty && q.batchPlaced

/-- The banks swapped, when they may be: the draining bank empty and the filling bank sealed. -/
def Grader.swap (g : Grader) : Grader :=
  if g.draining.isEmpty && g.isSealed then ({ g with drainB := !g.drainB, isSealed := false } : Grader).setFill none [] else g

/-! ### Ownership (15 R418) -/

/-- Whether the intake engine may serve a job now. -/
def serves (d : Device) (j : Nat) : Bool :=
  let q := d.jobAt j
  q.live && q.resident && !q.switching && !d.glb.flushing && d.inp.stage == .served

/-- The step whose intake may begin next: the oldest one not begun, while pans execute no step but the one before it (01 R36). -/
def nextFill (d : Device) (j : Nat) (g : Grader) : Option Step :=
  ((d.jobAt j).steps.find? (fun st => !g.begun st.num)).filter (fun st =>
    (d.jobAt j).steps.all (fun x => x.stages || decide (st.num ≤ x.num + 1) || workDone d j x))

/-- Whether a job has work for the pipeline: a submission or a due batch to place, or Grader state that waits. -/
def wantsPipe (d : Device) (j : Nat) : Bool :=
  let q := d.jobAt j
  match q.pipe with
  | some g => !g.bankA.isEmpty || !g.bankB.isEmpty || (nextFill d j g).isSome || q.steps.any (fun st => g.begun st.num && !st.placed) || !q.batchPlaced
  | none => q.steps.any (fun st => !st.placed) || !q.batchPlaced

/-- Whether an owner may hand over: nothing drains, and its filling bank is sealed or has nothing to fill. -/
def mayPass (d : Device) (g : Grader) (j : Nat) : Bool :=
  let q := d.jobAt j
  g.draining.isEmpty && g.busy.isEmpty && g.retry.isEmpty && g.waiting.isEmpty
    && q.batchPlaced && (g.isSealed || (g.fillStep.isNone && g.filling.isEmpty && (nextFill d j g).isNone))

/-- The Grader given to a job; its state, when one was saved, takes its due swap. -/
def Device.giveGrader (d : Device) (k : Nat) : Device :=
  ({ d with grd := ({ ((d.jobAt k).pipe.getD {}) with owner := some k } : Grader).swap } : Device).updJob k (fun q => { q with pipe := none })

/-- The slots after a number, in turn. -/
def slotsAfter (j : Nat) : List Nat := (List.range 16).map (fun i => (j + 1 + i) % 16)

/-- The pipeline's ownership settled: taken by a job that has work when nobody has it, passed on when the owner may hand over. -/
def Device.passOwner (d : Device) : Device :=
  match d.grd.owner with
  | none => match (slotsAfter 15).find? (fun k => serves d k && wantsPipe d k) with | some k => d.giveGrader k | none => d
  | some o =>
    match (slotsAfter o).find? (fun k => k != o && serves d k && wantsPipe d k) with
    | some k => if mayPass d d.grd o then (d.updJob o (fun q => { q with pipe := some d.grd })).giveGrader k else d
    | none => d

/-! ### Fetches (11 R304) -/

/-- The filling bank takes the next step whose intake may begin, once it holds no entries of a batch. -/
def Device.startFill (d : Device) (j : Nat) : Device :=
  if d.grd.fillStep.isSome || !d.grd.filling.isEmpty then d
  else match nextFill d j d.grd with
    | some st => { d with grd := d.grd.setFill (some st.num) [] }
    | none => d

/-- The fetch of a manifest entry's bytes. -/
def Device.askFetch (d : Device) (e : List Nat) : Device := d.askHost (manFlow e) 2 (manLoc e) (manCsize e)

/-- Whether the engine works on a step: one it has begun, or the due batch. -/
def onIntake (g : Grader) (q : JobSlot) (st : Step) : Bool :=
  if st.batch.isSome then q.dueBatch.any (fun b => b.work.num == st.num) else g.begun st.num

/-- Every position of those that is not placed is asked for, in order. -/
def Device.askFetches (d : Device) (j : Nat) : Device :=
  let q := d.jobAt j
  let g := d.grd
  let due := (q.allSteps.filter (onIntake g q)).flatMap (fun st => (st.slots.filter (fun e => e.2.place == .unplaced)).map (fun e => entryOfSlot q st e.1))
  let d1 := due.foldl Device.askFetch d
  d1.updJob j (fun q => q.mapSteps (fun st =>
    if onIntake g q st then { st with slots := st.slots.map (fun e => if e.2.place = .unplaced then (e.1, { e.2 with place := .fetching }) else e) } else st))

/-- The engine's work for the job it serves: the bank begun, the fetches asked for, the bank sealed. -/
def Device.serveIntake (d : Device) : Device :=
  match d.grd.owner with
  | some j =>
    if serves d j then
      let d1 := (d.startFill j).askFetches j
      { d1 with grd := { d1.grd with isSealed := d1.grd.full (d1.jobAt j) } }
    else d
  | none => d

/-- The intake engine brought up to date. -/
def Device.pump (d : Device) : Device := ((d.passOwner.serveIntake).passOwner).serveIntake

/-! ### Host-lane requests (15 R405, R421) -/

/-- Whether a job's lane is open to new samples. -/
def laneOpen (q : JobSlot) : Bool := q.lane.isOpen && decide (q.lane.reqs.length < q.lane.depth)

/-- The request of a sample: a KIND 4 notice to its slot of the request ring. -/
def Device.requestLane (d : Device) (j : Nat) (st : Step) (k reason : Nat) : Device :=
  let q := d.jobAt j
  let e := entryOfSlot q st k
  let body := toLE 8 (manSample e) ++ toLE 8 st.num ++ toLE 4 k ++ toLE 4 (manCsize e) ++ toLE 8 (manLoc e) ++ toLE 2 (manFlow e) ++ [manMedia e, fieldAt e 27 1]
    ++ toLE 4 (fieldAt e 20 4) ++ toLE 4 (manCrc e) ++ [reason] ++ List.replicate 11 0
  (d.updJob j (fun q => { q with lane := { q.lane with
      nextReq := q.lane.nextReq + 1, reqs := q.lane.reqs ++ [{ sample := manSample e, step := st.num, slot := k, reason := reason }] } })).notice
    q.lane.rflow (q.lane.raddr + 64 * (q.lane.nextReq % max 1 q.lane.depth)) (noticeHead 0xFFFF 0 stOk 4 j ++ body)

/-- The samples that wait for the lane by R307 and are not requested, in order. -/
def laneWaiters (q : JobSlot) : List (Step × Nat) :=
  q.allSteps.flatMap (fun st => (st.slots.filter (fun e => e.2.place == .hostLane && e.2.dimReason
    && !q.lane.reqs.any (fun r => r.step == st.num && r.slot == e.1))).map (fun e => (st, e.1)))

/-- Requests for the waiting samples, while the lane has room. -/
def Device.pumpLane (d : Device) (j : Nat) : Device :=
  (laneWaiters (d.jobAt j)).foldl (fun (e : Device) (x : Step × Nat) => if laneOpen (e.jobAt j) then e.requestLane j x.1 x.2 1 else e) d

end Sys2Proof.Machine
end

