-- ==== Sys2Proof/Machine/JobCmds.lean ====
section
/-! DEFINITION. The job-control and data-plane commands but for JOB_START and the host lane (15 R404, R412 to R414, R419, R422; 11 R296, R301,
R302, R319; 16 R447). -/
namespace Sys2Proof.Machine

/-- A command of the slot of its mailbox. -/
def Device.jobCommand (d : Device) (m code : Nat) (f : Device → Nat → List Nat → Device) : Device :=
  d.command m code (fun d p => f d ((mboxSlot m).getD 0) p)

/-! ### Stopping, suspending, resuming -/

/-- JOB_STOP_AFTER_COMMIT: JOB_STOP with MODE 0. It waits for the next commit of a submitted step, of a suspended job too (15 R413, R418); a job with none
stops at once. -/
def execJobStopAfterCommit (m : Fin 256) (s : State) : Host.Outcome State Fault Refusal :=
  onDev s (fun d => d.commandIf m 0x0102 (fun p => fieldAt p 0 1 == 0) (fun d _ =>
    let j := (mboxSlot m).getD 0
    if (d.jobAt j).stopping.isSome then d
    else if (d.jobAt j).steps.isEmpty then (d.stopNow j).finish m stOk 0 []
    else (d.updJob j (fun q => { q with stopping := some m.val })).setOwn m 2))

/-- JOB_STOP_AT_ONCE: JOB_STOP with another MODE; above 1 it is refused. -/
def execJobStopAtOnce (m : Fin 256) (s : State) : Host.Outcome State Fault Refusal :=
  onDev s (fun d => d.commandIf m 0x0102 (fun p => fieldAt p 0 1 != 0) (fun d p =>
    let j := (mboxSlot m).getD 0
    d.reply m (if 1 < fieldAt p 0 1 then stRange else 0) (fun d => (d.stopNow j).finish m stOk 0 [])))

/-- JOB_SUSPEND: issue stops, and the context is saved once nothing of the job is in flight (15 R416). -/
def execJobSuspend (m : Fin 256) (s : State) : Host.Outcome State Fault Refusal :=
  onDev s (fun d => d.jobCommand m 0x0103 (fun d j _ =>
    if (d.jobAt j).resident && !drained d j then (d.updJob j (fun q => { q with switching := true })).setOwn m 2
    else (d.suspend j).finish m stOk 0 []))

/-- JOB_RESUME: the job is RUNNING, and resident when no other job is (15 R414). -/
def execJobResume (m : Fin 256) (s : State) : Host.Outcome State Fault Refusal :=
  onDev s (fun d => d.jobCommand m 0x0104 (fun d j _ =>
    d.reply m (firstFail [(startsBarred d, stJobState), (partitionBusy d j !(d.jobAt j).exclusive, 0x0202)]) (fun d =>
      let d1 := d.updJob j (fun q => { q with state := .running })
      let d2 := match (d.jobAt j).part with
        | some pt => if (residentOf d1 pt).isNone then d1.restoreContext j else d1
        | none => d1
      ((d2.finish m stOk 0 []).pumpLane j).pump)))

/-- JOB_QUERY; its flags are a free value. -/
def execJobQuery (m : Fin 256) (s : State) : Host.Outcome State Fault Refusal :=
  onDev s (fun d => d.jobCommand m 0x0105 (fun d j _ =>
    let q := d.jobAt j
    let (f, d1) := d.draw
    d1.finish m stOk 0 ([stateCode q.state, f % 256, 0, 0, 0, 0, 0, 0] ++ toLE 8 q.nextStep ++ toLE 2 q.lastStatus ++ toLE 2 q.lastDesc ++ [0, 0, 0, 0]
      ++ sliceAt q.slow.last 0 56)))

/-! ### Logs -/

/-- Whole records of a list, in order, up to a number of bytes. -/
def wholeRecords : Nat → List (List Nat) → List Nat
  | _, [] => []
  | n, r :: rs => if r.length ≤ n then r ++ wholeRecords (n - r.length) rs else []

/-- The log a number names. -/
def logOf (l : JobLogs) (k : Nat) : List (Nat × List Nat) := match k with | 0 => l.amax | 1 => l.redo | _ => l.treat

/-- LOG_READ. -/
def execLogRead (m : Fin 256) (s : State) : Host.Outcome State Fault Refusal :=
  onDev s (fun d => d.jobCommand m 0x0106 (fun d j p =>
    let q := d.jobAt j
    let off := fieldAt p 4 4; let mx := fieldAt p 16 4
    d.reply m (firstFail [(decide (2 < fieldAt p 0 1), stRange), (q.beyond off mx, stStaging)]) (fun d =>
      let bs := wholeRecords mx (((logOf q.logs (fieldAt p 0 1)).filter (fun e => decide (fieldAt p 8 8 ≤ e.1))).map Prod.snd)
      d.onStaging m j none [(off, bs.length)] (fun d => (d.store ((q.resv.map Resv.stageDev).getD 0 + off) bs).finish m stOk bs.length []))))

/-! ### Records -/

/-- Records of n bytes in staging. -/
def Device.stagedRecords (d : Device) (j off n count : Nat) : List (List Nat) := chunks n count (d.staged j off (n * count))

/-- OVERRIDE_ADD (11 R319): all or none; held before the job starts (15 R412). -/
def execOverrideAdd (m : Fin 256) (hit : Option Hit) (s : State) : Host.Outcome State Fault Refusal :=
  onDev s (fun d => d.jobCommand m 0x0108 (fun d j p =>
    let q := d.jobAt j
    let n := fieldAt p 0 4; let off := fieldAt p 4 4
    if q.beyond off (24 * n) then d.finish m stStaging 0 []
    else d.onStaging m j hit [(off, 24 * n)] (fun d =>
      let rs := d.stagedRecords j off 24 n
      if q.state = .created then
        d.reply m (firstFail [(rs.any overrideReserved, stReserved),
            (rs.any (fun b => let o := overrideOf b; decide (4 < o.param) || (o.param == 0 && decide (1 < o.value))), stRange)])
          (fun d => (d.updJob j (fun q => { q with held := q.held ++ [.overrides rs] })).finish m stOk 1 [])
      else match addOverrides ((q.setup.map (fun u => u.jr.aug)).getD []) q.overrides rs with
        | .ok os =>
          let old := q.overrides.length
          let new := (os.drop old).map (fun (o : Override) => { o with since := q.nextStep })
          (d.updJob j (fun q => { q with overrides := os.take old ++ new })).finish m stOk 0 []
        | .error st => d.finish m st 0 [])))

/-- MANIFEST (11 R296): held before the job starts (15 R412). -/
def execManifest (m : Fin 256) (hit : Option Hit) (s : State) : Host.Outcome State Fault Refusal :=
  onDev s (fun d => d.jobCommand m 0x0201 (fun d j p =>
    let q := d.jobAt j
    let n := fieldAt p 16 4; let off := fieldAt p 20 4; let pos := fieldAt p 8 8; let ep := fieldAt p 0 4
    if q.beyond off (32 * n) then d.finish m stStaging 0 []
    else d.onStaging m j hit [(off, 32 * n)] (fun d =>
      let es := d.stagedRecords j off 32 n
      if es.any (fun e => !boundTo d (manFlow e) j) then d.finish m stFlowUnknown 0 []
      else if q.state = .created then
        d.reply m (if es.any manReserved then stManifestOrder else 0)
          (fun d => (d.updJob j (fun q => { q with held := q.held ++ [.window ep pos es] })).finish m stOk 1 [])
      else match q.setup with
        | some u =>
          d.reply m (windowCheck q u.jr.seed u.jr.n ep pos es) (fun d => (d.updJob j (fun q => q.addWindow ep pos es)).finish m stOk 0 [])
        | none => d.finish m stJobState 0 [])))

/-! ### Step submissions (11 R301, R302) -/

/-- A submission from its 64 bytes. -/
def subOf (p : List Nat) : Sub :=
  { epoch := fieldAt p 0 4, posFirst := fieldAt p 8 8, posCount := fieldAt p 16 4, tbudget := fieldAt p 20 4, hyper := fieldAt p 24 8, globalCount := fieldAt p 32 4 }

/-- The checks of 11 R302. -/
def submitCheck (q : JobSlot) (p : List Nat) : Nat :=
  let s := subOf p
  let n := (q.setup.map (fun u => u.jr.n)).getD 0
  firstFail [
    (!zeroBytes p 4 8 || decide (2 ^ 40 ≤ s.posFirst) || !zeroBytes p 36 64, stReserved),
    (s.tbudget == 0, stZeroSize),
    (decide (4096 < s.posCount) || decide (4194304 < s.tbudget) || decide (n < s.posFirst + s.posCount), 0x0602),
    ((List.range s.posCount).any (fun i => (q.manAt s.epoch (s.posFirst + i)).isNone), 0x0603)]

/-- A step before its first stage. -/
def newStep (n : Nat) (s : Sub) : Step := { num := n, sub := s, slots := (List.range s.posCount).map (fun i => (i, {})), packDone := s.posCount == 0 }

/-- Whether a step is the one that a spare drops: the first after a layer-1 restore in drop mode, in a job of several members; an escalation, which restores
them all, drops none (16 R447, R448). -/
def dropsStep (q : JobSlot) (n : Nat) : Bool :=
  !q.escalated && q.setup.any (fun u => u.jr.restore == 1 && !u.jr.strict && decide (1 < u.topo.nmemb) && n == u.jr.restoreStep + 1)

/-- STEP_SUBMIT. -/
def execStepSubmit (m : Fin 256) (s : State) : Host.Outcome State Fault Refusal :=
  onDev s (fun d => d.jobCommand m 0x0202 (fun d j p =>
    let q := d.jobAt j
    d.reply m (submitCheck q p) (fun d =>
      let n := q.nextStep
      let b := subOf p
      let drop := dropsStep q n
      let st := newStep n b
      let d1 := d.updJob j (fun q => { q with
        steps := q.steps ++ [if drop then { st with dropped := some (b.posFirst, b.posCount) } else st], nextStep := n + 1 })
      let d2 := if drop then
          d1.logEvent srcRenura 0x0802 sevNotice (some j) (toLE 8 n ++ toLE 2 ((q.setup.map (fun u => u.topo.dpPos)).getD 0) ++ toLE 6 b.posFirst ++ toLE 2 b.posCount)
        else d1
      (d2.finish m stOk n []).pump)))

/-! ### Batches (15 R422) -/

/-- The KIND 3 notice of a batch. -/
def Device.batchNotice (d : Device) (j st batchNo n : Nat) : Device :=
  d.jobNotice j st 3 (toLE 8 batchNo ++ toLE 4 n ++ [0, 0, 0, 0] ++ timeFields d.tide)

/-- The checks of BATCH: the staging ranges, then a KIND or COUNT out of range (notes/assumptions/24.md), the job, the window (15 R422). -/
def batchCheck (q : JobSlot) (p : List Nat) : Nat :=
  let kind := fieldAt p 0 1; let n := fieldAt p 16 4
  firstFail [
    (q.beyond (fieldAt p 20 4) (32 * n) || q.beyond (fieldAt p 24 4) (fieldAt p 28 4), stStaging),
    (decide (1 < kind) || decide (4096 < n), stRange),
    (q.setup.any (fun u => u.jr.serving != (kind == 1)), stJobState),
    (kind == 0 && q.windows.any (fun w => w.num == fieldAt p 4 4 && w.closeFired), 0x0609)]

/-- The step a batch runs as: its samples in list order, packed without a token budget (11 R324; notes/assumptions/25.md). -/
def batchStep (num batchNo : Nat) (es : List (List Nat)) : Step :=
  { num := num, batch := some batchNo, list := es, slots := (List.range es.length).map (fun i => (i, {}))
    sub := { epoch := 0, posFirst := 0, posCount := es.length, tbudget := 2 ^ 64, hyper := 0, globalCount := es.length } }

/-- BATCH: accepted to run in its turn; one without entries completes at once. -/
def execBatch (m : Fin 256) (hit : Option Hit) (s : State) : Host.Outcome State Fault Refusal :=
  onDev s (fun d => d.jobCommand m 0x0204 (fun d j p =>
    d.reply m (batchCheck (d.jobAt j) p) (fun d => d.onStaging m j hit [(fieldAt p 20 4, 32 * fieldAt p 16 4)] (fun d =>
      let n := fieldAt p 16 4
      let b : Batch :=
        { kind := fieldAt p 0 1, window := fieldAt p 4 4, batchNo := fieldAt p 8 8
          work := batchStep (batchBase + (d.jobAt j).nextBatch) (fieldAt p 8 8) (d.stagedRecords j (fieldAt p 20 4) 32 n), outOff := fieldAt p 24 4, outMax := fieldAt p 28 4 }
      if n = 0 then (d.finish m stOk 0 []).batchNotice j stOk b.batchNo 0
      else ((d.updJob j (fun q => { q with batches := q.batches ++ [b], nextBatch := q.nextBatch + 1 })).finish m stOk 0 []).pump))))

end Sys2Proof.Machine
end

