-- ==== Sys2Proof/Machine/Image.lean ====
section
/-! DEFINITION. Snapshot images: their sections and headers, written and read back, and the layer-3 addresses (16 R434, R437, R439; 10 R276). -/
namespace Sys2Proof.Machine

/-! ### Sections -/

/-- A history record (10 R276). -/
def histBytes (h : Hist) : List Nat := toLE 4 h.tensor ++ [h.next, h.count, 0, 0] ++ toLE 8 h.lastStep ++ h.entries.flatMap (toLE 4)

/-- The history that 80 bytes hold. -/
def histOf (b : List Nat) : Hist :=
  { tensor := fieldAt b 0 4, next := fieldAt b 4 1 % 16, count := min 16 (fieldAt b 5 1), lastStep := fieldAt b 8 8
    entries := (List.range 16).map (fun i => fieldAt b (16 + 4 * i) 4) }

/-- A recipe entry (10 R271). -/
def recipeBytes (r : Recipe) : List Nat := [r.kind, r.gran, r.source, r.hist, r.margin, r.rmode, r.redo, 0] ++ toLE 4 r.initAmax ++ [0, 0, 0, 0]

/-- The replicated state: histories, the step and epoch numbers, the recipes in force (16 R434). -/
def replicated (hs : List Hist) (step epoch : Nat) (rs : List Recipe) : List Nat :=
  hs.flatMap histBytes ++ toLE 8 step ++ toLE 4 epoch ++ (rs.take 3).flatMap recipeBytes

/-- The four sections of the image of a committed step, from the device map as that step left it: the master weights of every block, then the optimiser
state of every block. -/
def imageSections (d : Device) (j n : Nat) : List Nat :=
  let q := d.jobAt j
  let m := d.memAfter j n
  let bs := (q.blocks.zip q.masters).map (fun x => (m.readN x.1.1 x.1.2, x.2.1))
  bs.flatMap (fun x => x.1.take x.2) ++ bs.flatMap (fun x => x.1.drop x.2)
    ++ replicated q.logs.hist n q.commit.epoch ((q.setup.map JobSetup.recipes).getD []) ++ sliceAt q.commit.head 0 48

/-- An image header (16 R434). -/
def imageHeader (q : JobSlot) (u : JobSetup) (layer n : Nat) (sections : List Nat) (complete : Bool) : List Nat :=
  toLE 8 n ++ toLE 4 q.commit.ns ++ toLE 4 (q.commit.sec % 2 ^ 32) ++ toLE 2 u.topo.selfId ++ [layer, b2n complete]
    ++ toLE 4 u.topo.dpPos ++ toLE 4 u.topo.dpSize ++ [0, 0, 0, 0] ++ toLE 8 sections.length ++ sha384 sections ++ List.replicate 8 0

/-- Whether a header and its sections exist for restore: COMPLETE, and the digest matches. -/
def imageGood (header sections : List Nat) : Bool :=
  bitOf (fieldAt header 19 1) 0 && sliceAt header 40 48 == sha384 sections && fieldAt header 32 8 == sections.length

/-- What an image holds of a member: its blocks, the histories, the epoch, the chain head. -/
structure ImageParts where
  blocks : List Nat
  hist : List Hist
  epoch : Nat
  head : List Nat
deriving DecidableEq, Repr

/-- Blocks from their master weights and their optimiser state; each block's first count and its length. -/
def joinBlocks : List (Nat × Nat) → List Nat → List Nat → List Nat
  | [], _, _ => []
  | (m, n) :: bs, ms, os => sliceAt ms 0 m ++ sliceAt os 0 (n - m) ++ joinBlocks bs (ms.drop m) (os.drop (n - m))

/-- The parts of an image's four sections, by the master bytes and the lengths of the member's blocks. -/
def imageParts (bl : List (Nat × Nat)) (sections : List Nat) : ImageParts :=
  let n := sumNat (bl.map Prod.snd)
  let m := sumNat (bl.map Prod.fst)
  let k := (sections.length - n - replicatedFixed - 48) / 80
  { blocks := joinBlocks bl (sections.take m) (sections.drop m), hist := (List.range k).map (fun i => histOf (sliceAt sections (n + 80 * i) 80))
    epoch := fieldAt sections (n + 80 * k + 8) 4
    head := sliceAt sections (sections.length - 48) 48 }

/-- The block bytes of an image put in place. -/
def putBlocks : List (Nat × Nat) → List Nat → Mem → Mem
  | [], _, m => m
  | (a, n) :: bs, xs, m => putBlocks bs (xs.drop n) (m.writeN a (sliceAt xs 0 n))

/-- Blocks stored through the Brine cache (06 R186). -/
def Device.storeBlocks (d : Device) (bs : List (Nat × Nat)) (xs : List Nat) : Device :=
  bs.foldl (fun e b => e.markDirty b.1 b.2) (d.setMem (putBlocks bs xs d.mem))

/-! ### The shared store (16 R439) -/

/-- The host address of image slot s of the member at DP_POS p. -/
def sharedAddr (s p : Nat) : Nat := 2 ^ 63 + s * 2 ^ 62 + p * 2 ^ 40

/-- n bytes at an address from data that a flow has delivered; the bound is on the pieces used. -/
def gather (rs : List (Nat × List Nat)) : Nat → Nat → Nat → Option (List Nat)
  | 0, _, n => if n = 0 then some [] else none
  | k + 1, a, n =>
    if n = 0 then some []
    else match rs.find? (fun r => decide (r.1 ≤ a) && decide (a < r.1 + r.2.length)) with
      | some r =>
        let piece := (r.2.drop (a - r.1)).take n
        (gather rs k (a + piece.length) (n - piece.length)).map (fun t => piece ++ t)
      | none => none

/-- What a flow has delivered at an address. -/
def Device.delivered (d : Device) (flow a n : Nat) : Option (List Nat) :=
  match d.flowAt flow with
  | some f => gather f.rdata (f.rdata.length + 1) a n
  | none => none

end Sys2Proof.Machine
end

