-- ==== Sys2Proof/Machine/JobStart.lean ====
section
/-! DEFINITION. JOB_START: the job-start record, the program image, the topology record, partner regions, restore, the partner exchange and
the first context (15 R406 to R409, R550; 16 R432, R433, R440, R445, R449; 18 R497). -/
namespace Sys2Proof.Machine

/-! ### The compiled program (15 R409) -/

/-- A directory entry: TYPE, INDEX, reserved, OFFSET, LEN. -/
structure Sect where
  typ : Nat
  index : Nat
  rsv : Nat
  off : Nat
  len : Nat
deriving DecidableEq, Repr

/-- The directory of an image. -/
def sections (img : List Nat) : List Sect :=
  (List.range (fieldAt img 14 2)).map (fun i =>
    let e := sliceAt img (64 + 16 * i) 16
    { typ := fieldAt e 0 2, index := fieldAt e 2 2, rsv := fieldAt e 4 4, off := fieldAt e 8 4, len := fieldAt e 12 4 })

/-- The bytes of a section. -/
def Sect.bytes (s : Sect) (img : List Nat) : List Nat := sliceAt img s.off s.len

/-- The sections of a type. -/
def ofType (ss : List Sect) (t : Nat) : List Sect := ss.filter (fun s => s.typ == t)

/-- The entries of a section of 32-byte entries. -/
def entries32 (b : List Nat) : List (List Nat) := chunks 32 (b.length / 32) b

/-- Whether a PAN section is malformed. -/
def panSectBad (b : List Nat) : Bool :=
  let i := fieldAt b 0 4; let dm := fieldAt b 4 4; let live := fieldAt b 8 2
  decide (b.length < 32) || decide (131072 < i) || decide (65536 < dm) || live == 0 || decide (512 < live) || !zeroBytes b 10 32
    || decide (b.length < 32 + roundUp i 32 + dm)

/-- Whether a chain entry is malformed (13 R367); NEXT is 0xFFFF at the last member and there alone. -/
def chainBad (pans : Nat) (b : List Nat) : Bool :=
  let pos := fieldAt b 2 1; let nm := fieldAt b 3 1
  nm == 0 || decide (nm ≤ pos) || decide (pans ≤ fieldAt b 12 1) || decide (63 < fieldAt b 13 1) || decide (63 < fieldAt b 15 1) || decide (63 < fieldAt b 16 1)
    || decide (64 * 256 < 256 * fieldAt b 13 1 + fieldAt b 14 1 + fieldAt b 8 4) || decide (2 ^ 20 ≤ fieldAt b 4 4) || !zeroBytes b 17 32
    || (pos + 1 == nm) != (fieldAt b 0 2 == 0xFFFF)

/-- The stretches of a reservation: staging, data parts, context save areas of 576 MiB (15 R549). -/
def Resv.parts (r : Resv) : List (Nat × Nat) :=
  (r.stageDev, r.stageDev + r.stageMib * 1048576) :: r.data.map (fun x => (x.2.1, x.2.1 + x.2.2)) ++ r.save.map (fun x => (x.2, x.2 + 576 * 1048576))

/-- Whether a DATA section is malformed or its range leaves the reservation. -/
def dataBad (r : Resv) (b : List Nat) : Bool :=
  let a := fieldAt b 0 8; let n := b.length - 32
  decide (b.length < 32) || !zeroBytes b 8 32 || (n != 0 && !(partsOutside r.parts (a, a + n)).isEmpty)

/-- Whether two sections overlap. -/
def sectsClash (a b : Sect) : Bool := a.len != 0 && b.len != 0 && decide (a.off < b.off + b.len) && decide (b.off < a.off + a.len)

/-- Whether any two of a list overlap. -/
def anyClash : List Sect → Bool
  | [] => false
  | s :: r => r.any (sectsClash s) || anyClash r

/-- Whether a section's contents are malformed. -/
def sectBad (r : Resv) (img : List Nat) (pans : Nat) (s : Sect) : Bool :=
  let b := s.bytes img
  s.rsv != 0 || (match s.typ with
  | 1 => decide (pans ≤ s.index) || panSectBad b
  | 2 => s.index != 0 || s.len % 32 != 0 || (entries32 b).any (fun e => decide (3 < fieldAt e 12 1) || !zeroBytes e 13 16)
  | 3 => s.index != 0 || s.len % 32 != 0 || (entries32 b).any (fun e => decide (1 < fieldAt e 4 1) || decide (2 < fieldAt e 5 1) || decide (63 < fieldAt e 24 1) || !zeroBytes e 25 32)
  | 4 => s.index != 0 || s.len != 512
  | 5 => s.index != 0 || s.len % 32 != 0 || decide (4096 < s.len / 32) || (entries32 b).any (chainBad pans)
  | 6 => dataBad r b
  | _ => true)

/-- Whether an image is malformed. -/
def programBad (r : Resv) (img : List Nat) : Bool :=
  let ss := sections img; let pans := fieldAt img 6 2; let layers := fieldAt img 12 2; let first := 64 + 16 * fieldAt img 14 2
  decide (img.length < 64) || fieldAt img 0 4 != 0x4A505247 || fieldAt img 4 2 != 1 || pans == 0 || decide (64 < pans) || layers == 0 || decide (4096 < layers)
    || !zeroBytes img 16 64 || decide (img.length < first)
    || ss.any (fun s => s.off % 32 != 0 || decide (img.length < s.off + s.len) || decide (s.off < first)) || anyClash ss
    || ss.any (sectBad r img pans)
    || (List.range pans).any (fun i => ((ofType ss 1).filter (fun s => s.index == i)).length != 1)
    || (ofType ss 2).length != 1 || (ofType ss 4).length != 1 || decide (1 < (ofType ss 3).length) || decide (1 < (ofType ss 5).length)

/-- The contents of the first section of a type; empty when absent. -/
def firstOf (img : List Nat) (ss : List Sect) (t : Nat) : List Nat := ((ofType ss t).head?.map (fun s => s.bytes img)).getD []

/-- A well-formed image read. -/
def programOf (img : List Nat) : Program :=
  let ss := sections img
  { pans := fieldAt img 6 2, memMib := fieldAt img 8 4, layers := fieldAt img 12 2
    images := (List.range (fieldAt img 6 2)).map (fun i =>
      let b := (((ofType ss 1).find? (fun s => s.index == i)).map (fun s => s.bytes img)).getD []
      { imem := sliceAt b 32 (fieldAt b 0 4), dmem := sliceAt b (32 + roundUp (fieldAt b 0 4) 32) (fieldAt b 4 4), live := fieldAt b 8 2 })
    bufs := (entries32 (firstOf img ss 2)).map (fun e => { base := fieldAt e 0 8, len := fieldAt e 8 4, kind := fieldAt e 12 1, source := sliceAt e 16 16 })
    redo := (entries32 (firstOf img ss 3)).map (fun e =>
      { unit := fieldAt e 0 4, dir := fieldAt e 4 1, top := fieldAt e 5 1, watch := fieldAt e 6 2, gate := fieldAt e 8 4
        entries := [fieldAt e 12 4, fieldAt e 16 4, fieldAt e 20 4], verdict := fieldAt e 24 1 })
    ckpt := ofLE (firstOf img ss 4)
    chain := entries32 (firstOf img ss 5)
    data := (ofType ss 6).map (fun s => let b := s.bytes img; (fieldAt b 0 8, b.drop 32))
    digest := sha384 img }

/-! ### The topology record (15 R408) -/

/-- The bytes of a topology record with its header. -/
def topoLen (h : List Nat) : Nat := 32 + 8 * fieldAt h 0 2 + 4 * fieldAt h 4 4

/-- A topology record read. -/
def topoOf (b : List Nat) : Topo :=
  let np := fieldAt b 0 2
  { selfId := fieldAt b 2 2
    peers := (List.range np).map (fun i =>
      let e := sliceAt b (32 + 8 * i) 8
      { bundId := fieldAt e 0 2, child := bitOf (fieldAt e 2 1) 0, partner := bitOf (fieldAt e 2 1) 1, slot := fieldAt e 3 1 })
    routes := (List.range (fieldAt b 4 4)).map (fun i => (fieldAt b (32 + 8 * np + 4 * i) 2, fieldAt b (34 + 8 * np + 4 * i) 1))
    dpSize := fieldAt b 8 4, dpPos := fieldAt b 12 4
    parent := if fieldAt b 16 2 = 0xFFFF then none else some (fieldAt b 16 2)
    nmemb := fieldAt b 18 4 }

/-- Whether a topology record is malformed, beside a program's chain table. -/
def topoBad (b : List Nat) (chain : List (List Nat)) : Bool :=
  let t := topoOf b; let np := t.peers.length
  decide (4096 < np) || !zeroBytes b 22 32 || t.dpSize == 0 || t.nmemb == 0 || decide (65536 < t.nmemb)
    || (List.range np).any (fun i => decide (4 ≤ fieldAt b (34 + 8 * i) 1) || decide (15 < fieldAt b (35 + 8 * i) 1) || fieldAt b (36 + 8 * i) 4 != 0)
    || (List.range t.routes.length).any (fun i => fieldAt b (35 + 8 * np + 4 * i) 1 != 0)
    || !decide ((t.peers.map Peer.bundId).Nodup) || !decide ((t.routes.map Prod.fst).Nodup) || t.peers.any (fun p => p.bundId == t.selfId)
    || t.routes.any (fun r => decide (7 < r.2)) || t.parent.any (fun p => decide (np ≤ p)) || decide (t.dpSize ≤ t.dpPos)
    || decide (t.nmemb < np + 1) || decide (t.nmemb < t.dpSize) || decide (3 < (t.peers.filter (fun p => p.partner)).length)
    || chain.any (fun e => fieldAt e 0 2 != 0xFFFF && decide (np ≤ fieldAt e 0 2))

/-- Whether a topology conflicts with the identifier or routes in force (13 R362). -/
def topoClash (d : Device) (t : Topo) : Bool :=
  d.fab.selfId.any (fun s => s != t.selfId) || t.routes.any (fun r => d.fab.routes.any (fun x => x.1 == r.1 && x.2 != r.2))

/-! ### The record and its setup (15 R406) -/

/-- What the staging ranges of a job-start record hold: the image, the augmentation entries, the checkpoint override, the topology. -/
structure StartParts where
  img : List Nat
  aug : List (List Nat)
  ckpt : Option (List Nat)
  topo : List Nat
deriving DecidableEq, Repr

def startParts (d : Device) (j : Nat) (p : List Nat) : StartParts :=
  { img := d.staged j (fieldAt p 0 4) (fieldAt p 4 4)
    aug := (List.range (min 256 (fieldAt p 68 4))).map (fun i => d.staged j (fieldAt p 64 4 + 64 * i) 64)
    ckpt := if fieldAt p 72 4 = 0xFFFFFFFF then none else some (d.staged j (fieldAt p 72 4) 512)
    topo := d.staged j (fieldAt p 76 4) (topoLen (d.staged j (fieldAt p 76 4) 32)) }

/-- The job record. -/
def jobRecOf (p : List Nat) (aug : List (List Nat)) : JobRec :=
  { seed := fieldAt p 8 16, evalSeed := fieldAt p 24 16, n := if fieldAt p 48 1 = 1 then 0 else fieldAt p 40 8
    serving := fieldAt p 48 1 == 1, strict := bitOf (fieldAt p 49 1) 0, sliced := bitOf (fieldAt p 49 1) 1, treatLog := bitOf (fieldAt p 49 1) 2
    visChannels := fieldAt p 50 1, fill := fieldAt p 51 1, fillY := fieldAt p 52 1, fillCb := fieldAt p 53 1, fillCr := fieldAt p 54 1
    share := fieldAt p 55 1, patchW := fieldAt p 56 2, patchH := fieldAt p 58 2, patchF := fieldAt p 60 2, hop := fieldAt p 62 2
    aug := aug.map augOf, nflow := fieldAt p 80 2, naddr := fieldAt p 88 8, firstStep := fieldAt p 96 8
    restore := fieldAt p 104 1, restoreStep := fieldAt p 112 8 }

/-- The setup of a job: its record, topology, program with the declaration in force, recipes and policy at its start (10 R272; 11 R306). -/
def setupOf (d : Device) (j : Nat) (p : List Nat) : JobSetup :=
  let s := startParts d j p
  let prog := programOf s.img
  { jr := jobRecOf p s.aug, topo := topoOf s.topo
    prog := { prog with ckpt := (s.ckpt.map ofLE).getD prog.ckpt }
    recipes := (List.range 3).map (recipeFor d.pwz.policy), policy := d.pwz.policy }

/-! ### Partner regions (06 R195; 15 R549; 16 R432) -/

/-- The units of the partner region that a job holds for its predecessor: two of its images and the log (16 R432; notes/assumptions/25.md). -/
def regionUnits (u : JobSetup) : Nat :=
  ceilDiv (2 * Config.predecessorImage u.prog.digest u.topo.dpPos + policyVal u.policy 0x0304 0 64 * 2 ^ 30) (2 ^ 26)

/-- A free partner region entry and a free partner key slot of a Terrace. -/
def freeRegion (x : Terrace) : Option Nat := (List.range 6).findSome? (fun i => if (nthD {} x.regions (2 + i)).limit < (nthD {} x.regions (2 + i)).base then some (2 + i) else none)
def freeKey (x : Terrace) : Option Nat := (List.range 3).findSome? (fun i => if (nthD none x.keys (1 + i)).isNone then some (1 + i) else none)

/-- The key slot that already holds a partner group's key, and the slot a region of the group takes: that one, else a free one (06 R195). -/
def groupKey (x : Terrace) (g : List Nat) : Option Nat :=
  (List.range 3).findSome? (fun i => if (nthD none x.keys (1 + i)).isSome ∧ nthD [] x.groups (1 + i) = g then some (1 + i) else none)
def usableKey (x : Terrace) (g : List Nat) : Option Nat := (groupKey x g).orElse (fun _ => freeKey x)

/-- The units of a reservation's data part on a Terrace, first and past the last. -/
def Resv.dataOn (r : Resv) (t : Nat) : Nat × Nat :=
  match r.data.find? (fun x => x.1 == t) with
  | some x => (x.2.1 % 2 ^ 38 / 2 ^ 26, (x.2.1 % 2 ^ 38 + x.2.2) / 2 ^ 26)
  | none => (0, 0)

/-- A partner region that a reservation already holds for a peer, of a size. -/
def heldRegion (d : Device) (r : Resv) (peer units : Nat) : Bool :=
  (List.range 4).any (fun t => (d.terAt t).regions.any (fun g => g.owner == 1 && decide (g.base ≤ g.limit) && g.peer == peer && g.limit + 1 == g.base + units && r.covers t g))

/-- Where a new partner region goes: a status, or the Terrace. -/
def placeRegion (d : Device) (layout : Nat) (r : Resv) (g : List Nat) (units : Nat) : Except Nat Nat :=
  let free := (partTerraces layout r.part).filter (fun t => (freeRegion (d.terAt t)).isSome && (usableKey (d.terAt t) g).isSome)
  if free.isEmpty then .error 0x0207
  else match free.find? (fun t => decide (units ≤ (r.dataOn t).2 - (r.dataOn t).1)) with
    | some t => .ok t
    | none => .error 0x0204

/-- The peer index whose copy a job holds. -/
def predecessorIndex (t : Topo) : Option Nat := (predecessorOf t).bind (fun b => t.peers.findIdx? (fun p => p.bundId == b))

/-- A device in which a slot's old partner regions are freed, unless they serve the same peer. -/
def freeOldRegions (d : Device) (r : Resv) (peer : Option Nat) (units : Nat) : Device :=
  if peer.any (fun i => heldRegion d r i units) then d
  else d.freePartners r

/-- The status of the partner region a start needs. -/
def regionCheck (d : Device) (r : Resv) (u : JobSetup) : Nat :=
  let units := regionUnits u
  match predecessorIndex u.topo with
  | none => 0
  | some i =>
    if heldRegion d r i units then 0
    else match placeRegion (freeOldRegions d r (some i) units) d.quy.layout r (groupOf u.topo) units with
      | .ok _ => 0
      | .error st => st

/-- The partner region of a start made: an entry at the top of the data part, under the group's key, which is fresh when no slot of the Terrace holds it. -/
def Device.makeRegion (d : Device) (r : Resv) (u : JobSetup) : Device :=
  let units := regionUnits u
  let d1 := freeOldRegions d r (predecessorIndex u.topo) units
  match predecessorIndex u.topo with
  | none => d1
  | some i =>
    if heldRegion d1 r i units then d1
    else match placeRegion d1 d.quy.layout r (groupOf u.topo) units with
      | .error _ => d1
      | .ok t =>
        let held := (groupKey (d1.terAt t) (groupOf u.topo)).isSome
        let k := (usableKey (d1.terAt t) (groupOf u.topo)).getD 1
        let hi := (r.dataOn t).2
        let g : Region := { base := hi - units, limit := hi - 1, slot := k, owner := 1, part := r.part, peer := i }
        let d2 := d1.updTer t (fun x => { x with
          regions := modNth (fun _ => g) x.regions ((freeRegion x).getD 2), keys := if held then x.keys else modNth (fun _ => some d1.free) x.keys k
          groups := modNth (fun _ => groupOf u.topo) x.groups k })
        ({ d2 with free := d2.free + 1 } : Device).undefine (window t + (hi - units) * 2 ^ 26) (window t + hi * 2 ^ 26)

/-! ### The checks of R407 -/

/-- The bytes of data parts of a reservation that the populated windows still hold (06 R197). -/
def dataHeld (d : Device) (r : Resv) : Nat :=
  sumNat (r.data.map (fun x => min (x.2.1 % 2 ^ 38 + x.2.2) (populated d (terOfWindow x.2.1)) - x.2.1 % 2 ^ 38))

/-- Whether the populated windows still hold the staging region and the save areas of a reservation (06 R197; 15 R411). -/
def fitsWindows (d : Device) (r : Resv) : Bool :=
  mapped d r.stageDev (r.stageMib * 1048576) && r.save.all (fun x => mapped d x.2 (576 * 1048576))

/-- Checks 1 to 13. -/
def startCheck (d : Device) (j : Nat) (p : List Nat) : Nat :=
  let q := d.jobAt j
  let s := startParts d j p
  let u := setupOf d j p
  let r := q.resv.getD { part := 0, stageMib := 0, memGib := 0, stageDev := 0, data := [], save := [] }
  let topoOff := fieldAt p 76 4
  let units := match predecessorIndex u.topo with | some _ => regionUnits u | none => 0
  firstFail [
    (r.beyond (fieldAt p 0 4) (fieldAt p 4 4) || r.beyond (fieldAt p 64 4) (64 * fieldAt p 68 4) || r.beyond topoOff 32 || r.beyond topoOff (topoLen (d.staged j topoOff 32))
      || (fieldAt p 72 4 != 0xFFFFFFFF && r.beyond (fieldAt p 72 4) 512), stStaging),
    (fieldAt p 4 4 == 0 || fieldAt p 55 1 == 0 || fieldAt p 56 2 == 0 || fieldAt p 58 2 == 0 || fieldAt p 60 2 == 0 || fieldAt p 62 2 == 0
      || (fieldAt p 48 1 != 1 && fieldAt p 40 8 == 0), stZeroSize),
    (decide (1 < fieldAt p 48 1) || !(fieldAt p 50 1 == 1 || fieldAt p 50 1 == 3) || decide (1 < fieldAt p 51 1) || decide (3 < fieldAt p 104 1)
      || decide (2 ^ 40 < u.jr.n) || decide (256 < fieldAt p 68 4), stRange),
    (d.tide.unset, 0x070C),
    (programBad r s.img, 0x0111),
    (topoBad s.topo u.prog.chain || topoClash d u.topo, 0x0113),
    (!boundTo d u.jr.nflow j, stFlowUnknown),
    ((u.jr.sliced && decide (1 < u.topo.nmemb)) || (u.jr.serving && u.jr.restore == 0) || (u.jr.serving && u.jr.strict)
      || (!u.jr.serving && !u.jr.strict && policyVal d.pwz.policy 0x0305 0 0 == 1), 0x0112),
    (!d.pwz.policy.recipeOk, 0x0110),
    (q.setup.any (fun o => u.jr.restore != 0 && !u.jr.serving && o.jr.n != u.jr.n), 0x0607),
    (s.aug.any augBad, 0x0608),
    (decide (2 ^ u.prog.layers ≤ u.prog.ckpt), stRange),
    ((partTerraces d.quy.layout r.part).any (fun t => (d.terAt t).testEn), stTgen),
    (u.prog.pans != (presentPans d r.part).length, 0x0203),
    (!fitsWindows d r || decide (dataHeld d r < u.prog.memMib * 1048576 + units * 2 ^ 26), 0x0204),
    (regionCheck d r u != 0, regionCheck d r u),
    (partitionBusy d j u.jr.sliced, 0x0202)]

/-- What a start restores from: nothing, its own committed shard, an image, or the partner's memory later. -/
inductive Source where
  | fresh | own | image (parts : ImageParts) (sec ns : Nat) | partner
deriving DecidableEq, Repr

/-- The outcome of check 14: a source, a refusal, or data asked for and not yet here. -/
inductive Restore where
  | from (s : Source) | refuse | wait (d : Device)

/-- A layer-3 image of a slot of the shared store, from what the notice flow delivered: none while bytes are missing, which are asked for. -/
def sharedImage (d : Device) (u : JobSetup) (s : Nat) : Option (List Nat × Option (List Nat)) × Device :=
  let a := sharedAddr s u.topo.dpPos
  match d.delivered u.jr.nflow a 96 with
  | none => (none, d.askHost u.jr.nflow 3 a 96)
  | some h =>
    if fieldAt h 0 8 != u.jr.restoreStep || !bitOf (fieldAt h 19 1) 0 || fieldAt h 18 1 != 3 then (some (h, none), d)
    else match d.delivered u.jr.nflow (a + 96) (fieldAt h 32 8) with
      | none => (none, d.askHost u.jr.nflow 3 (a + 96) (fieldAt h 32 8))
      | some b => (some (h, some b), d)

/-- The newest of some steps. -/
def newestStep (ns : List Nat) : Option Nat := ns.foldl (fun a n => some (match a with | some b => max b n | none => n)) none

/-- Check 14 of R407 (16 R431, R440, R449). -/
def restoreCheck (d : Device) (j : Nat) (p : List Nat) : Restore :=
  let q := d.jobAt j
  let u := setupOf d j p
  let q1 : JobSlot := { q with setup := some u }
  let c := u.jr.restoreStep
  let img (h b : List Nat) : Restore := .from (.image (imageParts q1.masters b) (fieldAt h 12 4) (fieldAt h 8 4))
  match u.jr.restore with
  | 0 => .from .fresh
  | 1 =>
    if (groupOf u.topo).isEmpty then .refuse
    else if q.commit.step == some c && q.commit.kept && !q1.shardHeld d && (d.updJob j (fun _ => q1)).shardDigest j == q.commit.pre then .from .own
    else match newestStep ((q.partner.images.filter (fun x => x.layer == 1 && x.complete)).map ImageMeta.step) with
    | some n => if n ≤ c ∧ c ≤ max n ((newestStep (q.partner.log.map Prod.fst)).getD 0) then .from .partner else .refuse
    | none => .from .partner
  | 2 =>
    match d.pwz.crust.find? (fun x => x.job == j && x.complete && x.step == c && fieldAt x.header 16 2 == u.topo.selfId && fieldAt x.header 20 4 == u.topo.dpPos && imageGood x.header x.sections) with
    | some x => if d.pwz.wear.crustOff then .refuse else img x.header x.sections
    | none => .refuse
  | _ =>
    let (a, d1) := sharedImage d u 0
    let (b, d2) := sharedImage d1 u 1
    match a, b with
    | some (h, some s), _ => if imageGood h s then img h s else (match b with | some (h', some s') => if imageGood h' s' then img h' s' else .refuse | some _ => .refuse | none => .wait d2)
    | some _, some (h, some s) => if imageGood h s then img h s else .refuse
    | some _, some _ => .refuse
    | _, _ => .wait d2

/-- Check 15: the held windows and records against the job, in acceptance order: the slot with them taken in, or the status. -/
def takeHeld (u : JobSetup) : List Held → JobSlot → Except Nat JobSlot
  | [], q => .ok q
  | .window e pos es :: hs, q =>
    let st := windowCheck q u.jr.seed u.jr.n e pos es
    if st = 0 then takeHeld u hs (q.addWindow e pos es) else .error st
  | .overrides rs :: hs, q =>
    match addOverrides u.jr.aug q.overrides rs with
    | .ok os => takeHeld u hs { q with overrides := os }
    | .error st => .error st

/-! ### The start -/

/-- The slot before its held commands are taken in: what an earlier job of the slot left and a restart keeps (notes/assumptions/26.md). -/
def startSlot (q : JobSlot) (u : JobSetup) : JobSlot :=
  let same := q.setup.any (fun o => o.jr.seed == u.jr.seed && o.jr.n == u.jr.n)
  { q with
    setup := some u, steps := [], batches := [], windows := [], lane := {}, gates := [], snaps := [], ready := [], pipe := none, stopping := none
    lastStatus := 0, lastDesc := 0, slow := {}, held := []
    logs := if u.jr.restore = 0 then {} else q.logs
    manifest := if same then q.manifest else []
    overrides := if same && q.setup.any (fun o => o.jr.aug == u.jr.aug) then q.overrides.map (fun (o : Override) => { o with since := 0 }) else [] }

/-- The first context of a logical pan (15 R550). -/
def firstPan (u : JobSetup) (j i : Nat) : Pan :=
  let im := nthD { imem := [], dmem := [], live := 1 } u.prog.images i
  { ({} : Pan) with
    core := { imem := bmWrite [] 0 im.imem, dmem := bmWrite [] 0 im.dmem }, job := some (j, i), sr := { seed := u.jr.seed } }

/-- The first context of a job, zero pan stores. -/
def firstContext (u : JobSetup) (j : Nat) (ps : List Nat) : Saved :=
  { pans := (ps.zipIdx).map (fun x => (x.1, firstPan u j x.2))
    store := ps.map (fun p => (p, { cells := [], layers := [{ lo := panStore p, hi := panStore (p + 1), seed := none }] }))
    grader := none, whole := true }

/-- The committed state a start begins with: of no step, the restored one, or what a restore from partner memory will bring. -/
def startCommit (d : Device) (j : Nat) (q : JobSlot) (u : JobSetup) (src : Source) (img : List Nat) : Committed :=
  let pre := d.shardDigest j
  match src with
  | .fresh => { head := sha384 (img ++ seedsDigest u.jr), pre := pre }
  | .own => { q.commit with sinceSign := 0 }
  | .image p sec ns => { step := some u.jr.restoreStep, epoch := p.epoch, sec := sec, ns := ns, head := p.head, pre := pre }
  | .partner => { step := some u.jr.restoreStep, pre := pre }

/-- The logs a start begins with. -/
def startLogs (q : JobSlot) (u : JobSetup) (src : Source) : JobLogs :=
  let keep := fun (l : List (Nat × List Nat)) => l.filter (fun e => decide (e.1 ≤ u.jr.restoreStep))
  match src with
  | .fresh => {}
  | .own => { amax := keep q.logs.amax, redo := keep q.logs.redo, treat := keep q.logs.treat, hist := q.logs.hist }
  | .image p _ _ => { amax := keep q.logs.amax, redo := keep q.logs.redo, treat := keep q.logs.treat, hist := p.hist }
  | .partner => { amax := keep q.logs.amax, redo := keep q.logs.redo, treat := keep q.logs.treat, hist := [] }

/-- The Crust store's complete images that the present job can restore, as images of it (16 R440). -/
def crustImages (d : Device) (j : Nat) (u : JobSetup) : List ImageMeta :=
  (d.pwz.crust.filter (fun x => x.job == j && x.complete && fieldAt x.header 16 2 == u.topo.selfId && fieldAt x.header 20 4 == u.topo.dpPos)).map (fun x =>
    { layer := 2, slotNo := x.slotNo, step := x.step, complete := true })

/-- The partner state a start begins with; restoring beyond layer 1 counts as an escalation (16 R441, R451). A job begun anew has no image, a restored one
those of its Crust store and the others that its slot knows of. -/
def startPartner (d : Device) (j : Nat) (q : JobSlot) (u : JobSetup) (src : Source) : Partner :=
  let fills := match src with | .partner => true | _ => false
  { fill := if fills then holderOf u.topo else none
    filling := fills, queued := if fills then q.partner.queued else [], joined := q.partner.joined
    images := if u.jr.restore = 0 then [] else q.partner.images.filter (fun x => x.layer != 2) ++ crustImages d j u
    log := if u.jr.restore = 0 then [] else q.partner.log
    logAt := if u.jr.restore = 0 then 0 else q.partner.logAt
    events := (if 3 ≤ u.jr.restore then [(3, d.tide.now)] else []) ++ (if 2 ≤ u.jr.restore then [(2, d.tide.now)] else []) ++ q.partner.events
    writes := q.partner.writes }

/-- The failed member that a start knows of: one that the slot waited for; on a device whose slot is new, the member whose place it takes (16 R458). -/
def failedId (q : JobSlot) (u : JobSetup) : Nat :=
  match q.setup with
  | none => u.topo.selfId
  | some _ => (q.partner.lacking.head?).getD 0xFFFF

/-- The job started: the program loaded, the topology in force, its context made, the job RUNNING; the reply (15 R407, R409, R550). -/
def Device.beginJob (d : Device) (m j : Nat) (p : List Nat) (q0 : JobSlot) (src : Source) : Device :=
  let q := d.jobAt j
  let u := setupOf d j p
  let s := startParts d j p
  let r := q.resv.getD { part := 0, stageMib := 0, memGib := 0, stageDev := 0, data := [], save := [] }
  let blocks := q0.blocks
  let old := blocks.flatMap (fun b => d.readN b.1 b.2)
  let d1 := u.prog.data.foldl (fun (e : Device) x => e.store x.1 x.2) (d.makeRegion r u)
  let d2 : Device := match src with
    | .own => d1.storeBlocks blocks old
    | .image x _ _ => d1.storeBlocks blocks x.blocks
    | _ => d1
  let d3 := d2.updJob j (fun _ => q0)
  let next := if u.jr.restore = 0 then u.jr.firstStep else u.jr.restoreStep + 1
  let d4 := d3.updJob j (fun q1 => { q1 with
    state := .running, nextStep := next, resident := false, switching := false
    commit := startCommit d3 j q u src s.img, logs := startLogs q u src, partner := startPartner d j q u src
    saved := some (firstContext u j ((presentPans d r.part).take u.prog.pans)) })
  let d5 := d4.refreshRoutes
  let d6 : Device := if d.sec.zeroised then d5 else
    { d5 with
      free := d5.free + 8
      port := Vector.ofFn (fun (b : Fin 8) =>
        let p := d5.port[b]
        if u.topo.routes.any (fun x => x.2 == b.val) then { p with keyed := true, key := if p.keyed then p.key else d5.free + b.val } else p) }
  let d7 := if (residentOf d6 r.part).isNone then d6.restoreContext j else d6
  let d8 := if 2 ≤ u.jr.restore ∧ 1 < u.topo.nmemb then
      d7.logEvent srcRenura 0x0803 sevWarning (some j) (toLE 2 (failedId q u) ++ [u.jr.restore] ++ toLE 8 u.jr.restoreStep)
    else d7
  let d9 := match src with
    | .own => d8.tokenAll j (fun s => .join s u.topo.selfId u.jr.restoreStep)
    | .partner => d8.readHolder j (imageSize (d8.jobAt j))
    | _ => d8
  d9.finish m stOk next []

/-- The partner exchange (16 R433), then the start: every flagged partner is sent a token once; a start waits until each has sent its own, and any member's
token that differs from the own list fails it. -/
def Device.exchange (d : Device) (m j : Nat) (p : List Nat) (q0 : JobSlot) (src : Source) : Device :=
  let u := setupOf d j p
  let mine := groupList u.topo
  let partners := u.topo.peers.filter (fun x => x.partner)
  let toks := (d.jobAt j).partner.tokens.filter (fun t => (peerOf u.topo t.1).isSome)
  let d1 := if (d.jobAt j).partner.sent then d
    else (partners.foldl (fun (e : Device) x => e.sendToken j x.bundId (.partner x.slot mine)) d).updJob j (fun q => { q with partner := { q.partner with sent := true } })
  if toks.any (fun t => t.2 != mine) then (d1.endExchange j).finish m 0x0806 0 []
  else if partners.all (fun x => toks.any (fun t => t.1 == x.bundId)) then d1.beginJob m j p q0 src
  else d1.setOwn m 2

/-- The staging stretches that a JOB_START reads, as far as they lie in the region. -/
def jobStartSpans (d : Device) (j : Nat) (p : List Nat) : List (Nat × Nat) :=
  [(fieldAt p 0 4, fieldAt p 4 4), (fieldAt p 64 4, 64 * fieldAt p 68 4), (fieldAt p 76 4, topoLen (d.staged j (fieldAt p 76 4) 32)),
    (fieldAt p 72 4, if fieldAt p 72 4 = 0xFFFFFFFF then 0 else 512)].filter (fun x => !(d.jobAt j).beyond x.1 x.2)

/-- JOB_START (15 R407): the checks in order, then the exchange and the start. A held line of what it reads from staging makes it wait, and a corruption may meet
that read (01 R39; 06 R184, R196). -/
def execJobStart (m : Fin 256) (hit : Option Hit) (s : State) : Host.Outcome State Fault Refusal :=
  onDev s (fun d => d.command m 0x0101 (fun d p => d.stagingHit m ((mboxSlot m).getD 0) hit (jobStartSpans d ((mboxSlot m).getD 0) p) (fun d =>
    let j := (mboxSlot m).getD 0
    let st := firstFail [(startsBarred d, stJobState), (startCheck d j p != 0, startCheck d j p)]
    if st ≠ 0 then d.finish m st 0 []
    else match restoreCheck d j p with
    | .refuse => d.finish m 0x0801 0 []
    | .wait d1 => d1.setOwn m 2
    | .from src =>
      let u := setupOf d j p
      match takeHeld u (d.jobAt j).held (startSlot (d.jobAt j) u) with
      | .error st => (d.updJob j (fun q => { q with held := [] })).finish m st 0 []
      | .ok q0 => d.exchange m j p q0 src)))

end Sys2Proof.Machine
end

