-- ==== Sys2Proof/Word.lean ====
section
/-! DEFINITION. The word types of the model: bytes and 32-bit words are the spec's units (00 R10, R14). -/
namespace Sys2Proof

/-- A byte, as Host.Cell holds it. -/
abbrev Byte := BitVec 8

/-- A 32-bit register or record word (00 R14). -/
abbrev Word := BitVec 32

/-- A run of bytes read by index. -/
abbrev Octets := Array Nat

end Sys2Proof
end

