-- ==== Sys2Proof/Machine/Inflate.lean ====
section
/-! DEFINITION. The inflate engine (12 R325, R328): DEFLATE, zlib and gzip as RFC 1950, RFC 1951 and RFC 1952 define them (PRESUMED,
notes/assumptions/42.md). -/
namespace Sys2Proof.Machine

/-! ### Bits and codes -/

/-- Byte i of the data; 0 past its end. -/
def byteAt (a : Octets) (i : Nat) : Nat := (a[i]?).getD 0 % 256

/-- n bits from a bit position on, the first the least significant (RFC 1951). -/
def bitsLsb (a : Octets) (pos : Nat) : Nat → Nat
  | 0 => 0
  | n + 1 => b2n (bitOf (byteAt a (pos / 8)) (pos % 8)) + 2 * bitsLsb a (pos + 1) n

/-- A canonical code: for each length from 1 on, its symbols in order. -/
def codeTable (lens : List Nat) (top : Nat) : List (List Nat) :=
  (List.range top).map (fun l => ((lens.zipIdx).filter (fun e => e.1 == l + 1)).map Prod.snd)

/-- Whether the lengths give more codes than there are. -/
def overfull (lens : List Nat) (top : Nat) : Bool :=
  decide (2 ^ top < sumNat (lens.map (fun l => if l = 0 then 0 else 2 ^ (top - l))))

/-- The symbol that the bits of a reader spell in a canonical code, and the bits it took: code and first as far as the lengths read. -/
def readSymbol (bit : Nat → Nat) : List (List Nat) → Nat → Nat → Nat → Option (Nat × Nat)
  | [], _, _, _ => none
  | syms :: rest, pos, code, first =>
    let c := 2 * code + bit pos
    if c < first then none
    else if c - first < syms.length then some (nthD 0 syms (c - first), pos + 1)
    else readSymbol bit rest (pos + 1) c (2 * (first + syms.length))

/-- A symbol of a DEFLATE code at a bit position, while the data lasts. -/
def inflSymbol (a : Octets) (code : List (List Nat)) (pos : Nat) : Option (Nat × Nat) :=
  match readSymbol (fun p => bitsLsb a p 1) code pos 0 0 with
  | some (s, p) => if p ≤ 8 * a.size then some (s, p) else none
  | none => none

/-- Why bits could not be read: a syntax error, or the data ended. -/
inductive JErr where
  | syntaxError | ended
deriving DecidableEq, Repr

/-- A bit, the most significant of a byte first; 1 past the end. -/
def jBit (a : Octets) (p : Nat) : Nat := if p / 8 < a.size then b2n (bitOf (byteAt a (p / 8)) (7 - p % 8)) else 1

/-- n bits from a position on. -/
def jBits (a : Octets) (p : Nat) (n : Nat) : Except JErr (Nat × Nat) :=
  if 8 * a.size < p + n then .error .ended else .ok ((List.range n).foldl (fun v i => 2 * v + jBit a (p + i)) 0, p + n)

/-! ### DEFLATE (RFC 1951) -/

/-- What an inflate has reached: the bit position, the bytes produced (the newest first), and whether no fault was met. -/
structure Inf where
  pos : Nat
  out : List Nat
  ok : Bool
deriving DecidableEq, Repr

/-- The base and extra bits of a length code from 257 on. -/
def lenBase : List (Nat × Nat) :=
  [(3, 0), (4, 0), (5, 0), (6, 0), (7, 0), (8, 0), (9, 0), (10, 0), (11, 1), (13, 1), (15, 1), (17, 1), (19, 2), (23, 2), (27, 2), (31, 2), (35, 3), (43, 3),
    (51, 3), (59, 3), (67, 4), (83, 4), (99, 4), (115, 4), (131, 5), (163, 5), (195, 5), (227, 5), (258, 0)]

/-- The base and extra bits of a distance code. -/
def distBase (c : Nat) : Nat × Nat := if c < 4 then (c + 1, 0) else ((2 + c % 2) * 2 ^ (c / 2 - 1) + 1, c / 2 - 1)

/-- n bytes copied from a distance back. -/
def copyBack (dist : Nat) : Nat → List Nat → List Nat
  | 0, out => out
  | n + 1, out => copyBack dist n (nthD 0 out (dist - 1) :: out)

/-- The coded data of a block up to its end or a fault; the first number bounds the symbols. -/
def inflCodes (a : Octets) (lit dist : List (List Nat)) : Nat → Nat → List Nat → Nat → Inf
  | 0, pos, out, _ => { pos := pos, out := out, ok := false }
  | n + 1, pos, out, made =>
    match inflSymbol a lit pos with
    | none => { pos := pos, out := out, ok := false }
    | some (s, p) =>
      if s < 256 then inflCodes a lit dist n p (s :: out) (made + 1)
      else if s = 256 then { pos := p, out := out, ok := true }
      else if 285 < s then { pos := pos, out := out, ok := false }
      else
        let lb := nthD (0, 0) lenBase (s - 257)
        let len := lb.1 + bitsLsb a p lb.2
        match inflSymbol a dist (p + lb.2) with
        | none => { pos := pos, out := out, ok := false }
        | some (c, p2) =>
          let db := distBase c
          let d := db.1 + bitsLsb a p2 db.2
          let p3 := p2 + db.2
          if 29 < c ∨ made < d ∨ 8 * a.size < p3 then { pos := pos, out := out, ok := false }
          else inflCodes a lit dist n p3 (copyBack d len out) (made + len)

/-- The order of the code lengths of the code-length code. -/
def clOrder : List Nat := [16, 17, 18, 0, 8, 7, 9, 6, 10, 5, 11, 4, 12, 3, 13, 2, 14, 1, 15]

/-- The code lengths of a dynamic block, newest first; the first number bounds the symbols. -/
def readLens (a : Octets) (code : List (List Nat)) (total : Nat) : Nat → Nat → List Nat → Option (List Nat × Nat)
  | 0, _, _ => none
  | n + 1, pos, ls =>
    if total ≤ ls.length then (if total = ls.length then some (ls, pos) else none)
    else match inflSymbol a code pos with
    | none => none
    | some (s, p) =>
      if s < 16 then readLens a code total n p (s :: ls)
      else if s = 16 then (if ls.isEmpty then none else readLens a code total n (p + 2) (List.replicate (3 + bitsLsb a p 2) (ls.headD 0) ++ ls))
      else if s = 17 then readLens a code total n (p + 3) (List.replicate (3 + bitsLsb a p 3) 0 ++ ls)
      else readLens a code total n (p + 7) (List.replicate (11 + bitsLsb a p 7) 0 ++ ls)

/-- The fixed code lengths. -/
def fixedLit : List Nat := List.replicate 144 8 ++ List.replicate 112 9 ++ List.replicate 24 7 ++ List.replicate 8 8

/-- One block from its first bit on, and whether it is the last. -/
def inflBlock (a : Octets) (pos : Nat) (out : List Nat) : Inf × Bool :=
  let last := bitsLsb a pos 1 == 1
  let p := pos + 3
  let fault : Inf := { pos := pos, out := out, ok := false }
  if 8 * a.size < p then (fault, true)
  else match bitsLsb a (pos + 1) 2 with
  | 0 =>
    let b := ceilDiv p 8
    let len := byteAt a b + 256 * byteAt a (b + 1)
    if a.size < b + 4 ∨ len + byteAt a (b + 2) + 256 * byteAt a (b + 3) ≠ 65535 then (fault, true)
    else
      let n := min len (a.size - (b + 4))
      ({ pos := 8 * (b + 4 + n), out := ((List.range n).map (fun i => byteAt a (b + 4 + i))).reverse ++ out, ok := n == len }, last)
  | 1 => (inflCodes a (codeTable fixedLit 15) (codeTable (List.replicate 30 5) 15) (8 * a.size + 1) p out out.length, last)
  | 2 =>
    let hl := 257 + bitsLsb a p 5; let hd := 1 + bitsLsb a (p + 5) 5; let hc := 4 + bitsLsb a (p + 10) 4
    let cl := (List.range 19).map (fun s => match (clOrder.take hc).findIdx? (· == s) with | some i => bitsLsb a (p + 14 + 3 * i) 3 | none => 0)
    match (if overfull cl 7 then none else readLens a (codeTable cl 7) (hl + hd) (hl + hd + 1) (p + 14 + 3 * hc) []) with
    | none => (fault, true)
    | some (rev, p2) =>
      let ls := rev.reverse
      if overfull (ls.take hl) 15 || overfull (ls.drop hl) 15 || decide (8 * a.size < p2) then (fault, true)
      else (inflCodes a (codeTable (ls.take hl) 15) (codeTable (ls.drop hl) 15) (8 * a.size + 1) p2 out out.length, last)
  | _ => (fault, true)

/-- Blocks up to the last or a fault; the first number bounds them. -/
def inflBlocks (a : Octets) : Nat → Nat → List Nat → Inf
  | 0, pos, out => { pos := pos, out := out, ok := false }
  | n + 1, pos, out =>
    let r := inflBlock a pos out
    if r.1.ok && !r.2 then inflBlocks a n r.1.pos r.1.out else r.1

/-- A DEFLATE stream from a byte on. -/
def inflateRaw (a : Octets) (start : Nat) : Inf := inflBlocks a (8 * a.size + 1) (8 * start) []

/-! ### zlib and gzip (RFC 1950, RFC 1952) -/

/-- Whether a 16-bit zlib header begins the data. -/
def isZlib (a : Octets) : Bool := byteAt a 0 % 16 == 8 && (byteAt a 0 * 256 + byteAt a 1) % 31 == 0 && decide (2 ≤ a.size)

/-- CRC-32 of RFC 1952. -/
def crc32g (bs : List Nat) : Nat :=
  let bit (c : Nat) : Nat := if c % 2 = 1 then Nat.xor (c / 2) 0xEDB88320 else c / 2
  let byte (c b : Nat) : Nat := (List.range 8).foldl (fun x _ => bit x) (Nat.xor c (b % 256))
  Nat.xor (bs.foldl byte 0xFFFFFFFF) 0xFFFFFFFF

/-- The end of a zero-terminated field. -/
def pastZero (a : Octets) : Nat → Nat → Nat
  | 0, i => i
  | n + 1, i => if a.size ≤ i then i else if byteAt a i = 0 then i + 1 else pastZero a n (i + 1)

/-- The first byte of a gzip member's DEFLATE data; none when its header is broken. -/
def gzipStart (a : Octets) (m : Nat) : Option Nat :=
  let f := byteAt a (m + 3)
  if a.size < m + 10 ∨ byteAt a m ≠ 0x1F ∨ byteAt a (m + 1) ≠ 0x8B ∨ byteAt a (m + 2) ≠ 8 ∨ 32 ≤ f then none
  else
    let p1 := if bitOf f 2 then m + 12 + byteAt a (m + 10) + 256 * byteAt a (m + 11) else m + 10
    let p2 := if bitOf f 3 then pastZero a a.size p1 else p1
    let p3 := if bitOf f 4 then pastZero a a.size p2 else p2
    some (if bitOf f 1 then p3 + 2 else p3)

/-- gzip members from a byte on, decoded in order up to the end or the first fault; the first number bounds them. -/
def gunzip (a : Octets) : Nat → Nat → List Nat
  | 0, _ => []
  | n + 1, m =>
    match gzipStart a m with
    | none => []
    | some p =>
      let r := inflateRaw a p
      let bs := r.out.reverse
      let t := ceilDiv r.pos 8
      let word (i : Nat) : Nat := byteAt a i + 256 * byteAt a (i + 1) + 65536 * byteAt a (i + 2) + 16777216 * byteAt a (i + 3)
      if r.ok && decide (t + 8 ≤ a.size) && word t == crc32g bs && word (t + 4) == bs.length % 2 ^ 32 then bs ++ gunzip a n (t + 8) else bs

/-- The inflated bytes of a sample with WRAP, up to the end or the first fault; none where a preset dictionary is asked for (12 R328). A trailer mismatch
ends the stream behind the bytes it covers, so for zlib it changes nothing. -/
def unwrap (data : List Nat) : Option (List Nat) :=
  let a := data.toArray
  if byteAt a 0 = 0x1F ∧ byteAt a 1 = 0x8B then some (gunzip a (a.size + 1) 0)
  else if isZlib a then (if bitOf (byteAt a 1) 5 then none else some (inflateRaw a 2).out.reverse)
  else some (inflateRaw a 0).out.reverse

end Sys2Proof.Machine
end

