-- ==== Sys2Proof/Machine/Media.lean ====
section
/-! DEFINITION. Decoded samples: their layout, the dimension checks, reconstruction of JPEG blocks, chroma upsampling, colour conversion,
concealment, audio samples (12 R329 to R344). -/
namespace Sys2Proof.Machine

/-! ### The layout of a decoded sample (12 R331) -/

/-- A decoded sample: the header's fields, the data (samples of visual media, FP32 codes of audio, bytes of token data) and the conceal map's
bits, padded per frame. -/
structure Smp where
  media : Nat
  kind : Nat
  elem : Nat
  ch : Nat
  depth : Nat
  w : Nat
  h : Nat
  f : Nat
  s : Nat
  rate : Nat
  conceal : Nat
  status : Nat
  mapW : Nat
  mapH : Nat
  data : List Nat
  map : List Nat
deriving DecidableEq, Repr

/-- The bytes of one element. -/
def elemBytes (e : Nat) : Nat := match e with | 1 => 1 | 2 => 2 | _ => 4

/-- The map bytes of a frame. -/
def mapFrame (mw mh : Nat) : Nat := 4 * ceilDiv (mw * mh) 32

/-- A sample as bytes: header, data, conceal map at the next multiple of 4 (notes/assumptions/26.md). -/
def Smp.bytes (x : Smp) : List Nat :=
  let d := x.data.flatMap (toLE (elemBytes x.elem))
  let at' := roundUp (64 + d.length) 4
  [x.media, x.kind, x.elem, x.ch] ++ toLE 2 x.depth ++ [0, 0] ++ toLE 4 x.w ++ toLE 4 x.h ++ toLE 4 x.f ++ toLE 8 x.s ++ toLE 4 x.rate
    ++ toLE 4 x.conceal ++ toLE 2 x.status ++ [0, 0] ++ toLE 8 at' ++ toLE 8 d.length ++ toLE 2 x.mapW ++ toLE 2 x.mapH ++ [0, 0, 0, 0]
    ++ d ++ List.replicate (at' - 64 - d.length) 0 ++ x.map

/-- The elements of a run of bytes. -/
def elements (n : Nat) : Nat → List Nat → List Nat
  | 0, _ => []
  | k + 1, bs => ofLE (bs.take n) :: elements n k (bs.drop n)

/-- A sample read from its bytes. -/
def smpOf (b : List Nat) : Smp :=
  let e := fieldAt b 2 1
  let n := elemBytes e
  let mw := fieldAt b 56 2; let mh := fieldAt b 58 2
  { media := fieldAt b 0 1, kind := fieldAt b 1 1, elem := e, ch := fieldAt b 3 1, depth := fieldAt b 4 2, w := fieldAt b 8 4, h := fieldAt b 12 4
    f := fieldAt b 16 4, s := fieldAt b 20 8, rate := fieldAt b 28 4, conceal := fieldAt b 32 4, status := fieldAt b 36 2, mapW := mw, mapH := mh
    data := elements n (fieldAt b 48 8 / n) (b.drop 64), map := b.drop (fieldAt b 40 8) }

/-- A sample that ended with a status. -/
def failedSmp (media st : Nat) : Smp :=
  { media := media, kind := if media = 0 then 2 else if media ≤ 5 then 0 else 1, elem := 1, ch := 1, depth := 8, w := 0, h := 0, f := 0, s := 0, rate := 0
    conceal := 0, status := st, mapW := 0, mapH := 0, data := [], map := [] }

/-! ### Dimension checks (12 R329) -/

def stUnsupported : Nat := 0x0501
def stNoHeader : Nat := 0x0502
def stDims : Nat := 0x0503

/-- The media that have dimensions, and those that are video. -/
def isVideo (media : Nat) : Bool := decide (3 ≤ media) && decide (media ≤ 5)
def isVisual (media : Nat) : Bool := decide (1 ≤ media) && decide (media ≤ 5)

/-- Whether declared dimensions fail the checks of R329; `limit` is PIX_LIMIT in Mpixel. -/
def dimsBad (media w h csize limit : Nat) : Bool :=
  w == 0 || h == 0
    || (if isVideo media then decide (4096 < max w h) || decide (2304 < min w h) else decide (16384 < max w h))
    || decide (limit * 1000000 < w * h) || decide (2048 * csize < w * h)

/-! ### What a stream holds (12 R326, R327, R340) -/

/-- A component of a JPEG image (12 R334): its identifier, sampling factors and quantisation table by [v][u], the 8 × 8 blocks of coefficients by [v][u]
over the grid of MCUs, row by row, none where a block was lost to a syntax error; and how many MCU rows of it are complete, when not all are. -/
structure JpegComp where
  h : Nat
  v : Nat
  q : List Nat
  blocks : List (Option (List Int))
  rows : Option Nat := none
deriving DecidableEq, Repr

/-- How audio samples are coded (12 R344). -/
inductive AudioForm where
  | signed | unsigned8 | float | opus
deriving DecidableEq, Repr

/-- What R326, R329, R335 and R336 read of a sequence header. `profile`, `level`, `chroma` and `mat` are the standard's own codes (profile_idc,
general_profile_idc or seq_profile; the level of AV1; chroma_format_idc, 0 monochrome; matrix coefficients, 2 when absent), `constrained` is
constraint_set1_flag, `compat` the general_profile_compatibility_flags; width and height are those of the output, cropped. -/
structure VideoHead where
  profile : Nat
  constrained : Bool := false
  compat : List Bool := []
  level : Nat := 0
  chroma : Nat
  depth : Nat
  depthC : Nat
  interlaced : Bool := false
  layered : Bool := false
  width : Nat
  height : Nat
  mat : Nat := 2
  full : Bool := false
deriving DecidableEq, Repr, Inhabited

/-- A video stream: what its first picture's sequence header declares, its pictures in output order, the syntax errors met (12 R326, R327, R330, R340). -/
structure VideoStream where
  head : VideoHead
  pics : List Picture
  errors : Nat
deriving DecidableEq, Repr, Inhabited

/-- The content of a stream before the work that R333 to R344 define, or the status of one that has none. `rows`, `passes`: how far a PNG that ended early
came, in pixel rows or Adam7 passes; `lost`: spans of lost audio sample frames, and `count` their number for R343; `errors`: the syntax errors met. -/
inductive Decoded where
  | failed (status : Nat)
  | jpeg (width height : Nat) (rgb : Bool) (comps : List JpegComp) (errors : Nat)
  | png (width height channels depth : Nat) (samples : List Nat) (rows passes : Option Nat) (errors : Nat)
  | video (stream : VideoStream)
  | audio (rate channels bits : Nat) (form : AudioForm) (samples : List Int) (lost : List (Nat × Nat)) (count errors : Nat)
deriving DecidableEq, Repr

/-! ### Planes -/

/-- A plane: its width, its height, its samples row by row. -/
structure Plane where
  w : Nat
  h : Nat
  px : List Nat
deriving DecidableEq, Repr

/-- The sample at a column and row, edges repeated. -/
def Plane.at (p : Plane) (x y : Int) : Nat :=
  let cx := (max 0 (min x ((p.w : Int) - 1))).toNat
  let cy := (max 0 (min y ((p.h : Int) - 1))).toNat
  nthD 0 p.px (cy * p.w + cx)

/-- A plane from a function of column and row. -/
def planeOf (w h : Nat) (f : Nat → Nat → Nat) : Plane :=
  { w := w, h := h, px := (List.range h).flatMap (fun y => (List.range w).map (fun x => f x y)) }

/-- An integer clamped to 0 to m. -/
def clampTo (m : Nat) (x : Int) : Nat := (max 0 (min x (m : Int))).toNat

/-! ### JPEG blocks (12 R334) -/

/-- C[x][u]. -/
def idctC : List (List Int) :=
  [[2896, 4017, 3784, 3406, 2896, 2276, 1567, 799],
    [2896, 3406, 1567, -799, -2896, -4017, -3784, -2276],
    [2896, 2276, -1567, -4017, -2896, 799, 3784, 3406],
    [2896, 799, -3784, -2276, 2896, 3406, -1567, -4017],
    [2896, -799, -3784, 2276, 2896, -3406, -1567, 4017],
    [2896, -2276, -1567, 4017, -2896, -799, 3784, -3406],
    [2896, -3406, 1567, 799, -2896, 4017, -3784, 2276],
    [2896, -4017, 3784, -3406, 2896, -2276, 1567, -799]]

/-- A block reconstructed: 64 samples, row by row. -/
def idct (coef : List Int) (q : List Nat) : List Nat :=
  let dq := (List.range 64).map (fun i => max (-32768) (min 32767 (nthD 0 coef i * (nthD 0 q i : Int))))
  let t := (List.range 8).flatMap (fun v => (List.range 8).map (fun x =>
    sar (sumInt ((List.range 8).map (fun u => nthD 0 (nthD [] idctC x) u * nthD 0 dq (8 * v + u))) + 1024) 11))
  (List.range 8).flatMap (fun y => (List.range 8).map (fun x =>
    clampTo 255 (sar (sumInt ((List.range 8).map (fun v => nthD 0 (nthD [] idctC y) v * nthD 0 t (8 * v + x))) + 16384) 15 + 128)))

/-! ### Upsampling (12 R335) -/

/-- 3c + c′ of output index o along an axis: the nearer sample and its neighbour on the side of o. -/
def tapPair (o : Nat) : Int × Int := ((o / 2 : Nat), if o % 2 = 0 then ((o / 2 : Nat) : Int) - 1 else ((o / 2 : Nat) : Int) + 1)

/-- A component brought to the frame's size, by its factors. -/
def upsample (p : Plane) (fx fy w h : Nat) : Plane :=
  planeOf w h (fun x y =>
    let a := tapPair x; let b := tapPair y
    let col (cx : Int) : Nat := 3 * p.at cx b.1 + p.at cx b.2
    match fx, fy with
    | 2, 2 => (3 * col a.1 + col a.2 + 8) / 16
    | 2, _ => (3 * p.at a.1 y + p.at a.2 y + 2) / 4
    | _, 2 => (3 * p.at x b.1 + p.at x b.2 + 2) / 4
    | _, _ => p.at x y)

/-! ### Colour conversion (12 R333, R336) -/

/-- An exact coefficient as a fraction. -/
structure Frac where
  num : Int
  den : Nat
deriving DecidableEq, Repr

/-- rne_int of a fraction × 2¹⁶. -/
def fix16 (f : Frac) : Int := rneInt (f.num * 65536) f.den

/-- A matrix of R336 with its offsets: three rows of (M, M, M, O). -/
abbrev Matrix := List (List Frac)

/-- The JPEG matrix at a depth. -/
def jpegMatrix (depth : Nat) : Matrix :=
  let mid : Int := (128 * 2 ^ (depth - 8) : Nat)
  [[⟨1, 1⟩, ⟨0, 1⟩, ⟨1402, 1000⟩, ⟨-1402 * mid, 1000⟩],
    [⟨1, 1⟩, ⟨-344136, 1000000⟩, ⟨-714136, 1000000⟩, ⟨(344136 + 714136) * mid, 1000000⟩],
    [⟨1, 1⟩, ⟨1772, 1000⟩, ⟨0, 1⟩, ⟨-1772 * mid, 1000⟩]]

/-- Kr and Kb in 1/10,000 of matrix coefficients: BT.601, BT.709, BT.2020; other codes by the height. -/
def lumaWeights (code h : Nat) : Int × Int :=
  if code = 5 ∨ code = 6 then (2990, 1140)
  else if code = 1 then (2126, 722)
  else if code = 9 then (2627, 593)
  else if 576 < h then (2126, 722) else (2990, 1140)

/-- A video matrix at a depth (12 R336). -/
def videoMatrix (code h depth : Nat) (full : Bool) : Matrix :=
  let k := lumaWeights code h
  let kr := k.1; let kb := k.2; let kg := 10000 - kr - kb
  let sc : Int := (2 ^ (depth - 8) : Nat)
  let top : Int := (2 ^ depth : Nat) - 1
  -- The luma and chroma gains as fractions over ly and lc, the luma and chroma offsets.
  let ly : Int := if full then top else 219 * sc
  let lc : Int := if full then top else 224 * sc
  let oy : Int := if full then 0 else 16 * sc
  let oc : Int := 128 * sc
  let row (cb cr : Int) (den : Int) : List Frac :=
    -- top × ((Y − oy) / ly + (cb × (Cb − oc) + cr × (Cr − oc)) / (den × lc))
    [⟨top, ly.toNat⟩, ⟨top * cb, (den * lc).toNat⟩, ⟨top * cr, (den * lc).toNat⟩,
      ⟨-(top * oy * den * lc) - top * (cb + cr) * oc * ly, (ly * den * lc).toNat⟩]
  [row 0 (2 * (10000 - kr)) 10000,
    row (-2 * kb * (10000 - kb)) (-2 * kr * (10000 - kr)) (10000 * kg),
    row (2 * (10000 - kb)) 0 10000]

/-- Three component samples converted to R, G, B. -/
def convert3 (m : Matrix) (depth a b c : Nat) : List Nat :=
  m.map (fun r =>
    let k (i : Nat) : Int := fix16 (nthD ⟨0, 1⟩ r i)
    clampTo (2 ^ depth - 1) (sar (k 0 * a + k 1 * b + k 2 * c + k 3 + 32768) 16))

/-- Y of R, G, B (12 R333). -/
def lumaOf (r g b : Nat) : Nat := (77 * r + 150 * g + 29 * b + 128) / 256

/-- A pixel in the job's channels: R, G, B, or Y. -/
def toChannels (vis : Nat) (rgb : List Nat) : List Nat :=
  if vis = 1 then [lumaOf (nthD 0 rgb 0) (nthD 0 rgb 1) (nthD 0 rgb 2)] else rgb

/-- A grey pixel in the job's channels. -/
def greyChannels (vis v : Nat) : List Nat := List.replicate (if vis = 1 then 1 else 3) v

/-! ### Concealment (12 R341 to R343) -/

/-- The fill triple of a job at a depth: mid-grey, or the constants. -/
def fillTriple (r : JobRec) (depth : Nat) : List Nat :=
  if r.fill = 0 then List.replicate 3 (2 ^ (depth - 1)) else [r.fillY, r.fillCb, r.fillCr].map (· * 2 ^ (depth - 8))

/-- The conceal map of a frame, from a test of its 16 × 16 blocks: its bits as bytes, padded to 32 bits, and the count. -/
def concealMap (mw mh : Nat) (lost : Nat → Nat → Bool) : List Nat × Nat :=
  let bs := (List.range mh).flatMap (fun y => (List.range mw).map (fun x => lost x y))
  let n := sumNat ((bs.zipIdx).map (fun e => b2n e.1 * 2 ^ e.2))
  (toLE (mapFrame mw mh) n, (bs.filter id).length)

/-- Whether two pixel ranges meet. -/
def meets (a n b m : Nat) : Bool := decide (a < b + m) && decide (b < a + n)

/-! ### Decoded media (12 R329 to R344) -/

/-- The greatest sampling factors of the components of an image. -/
def maxFactor (f : JpegComp → Nat) (cs : List JpegComp) : Nat := (cs.map f).foldl max 1

/-- What a JPEG component's grid is: its factors over those of the image (a lone component's are 1), its MCU columns and rows. -/
structure JGrid where
  sx : Nat
  sy : Nat
  cols : Nat
  rows : Nat
deriving DecidableEq, Repr

/-- The grids of an image's components, with the greatest factors. -/
def jGrid (cs : List JpegComp) (w h : Nat) (c : JpegComp) : JGrid :=
  let one := cs.length == 1
  let hm := if one then 1 else maxFactor JpegComp.h cs; let vm := if one then 1 else maxFactor JpegComp.v cs
  { sx := if one then 1 else hm / max 1 c.h, sy := if one then 1 else vm / max 1 c.v, cols := ceilDiv w (8 * hm), rows := ceilDiv h (8 * vm) }

/-- A component's blocks per MCU, across and down. -/
def blocksPer (cs : List JpegComp) (c : JpegComp) : Nat × Nat := if cs.length = 1 then (1, 1) else (c.h, c.v)

/-- A component's plane before upsampling: lost blocks filled, the rows after the last complete MCU row replicated (12 R341, R342). -/
def jpegPlane (cs : List JpegComp) (w h fill : Nat) (c : JpegComp) : Plane :=
  let g := jGrid cs w h c
  let b := blocksPer cs c
  let bw := g.cols * b.1
  let px := c.blocks.map (fun o => match o with | some k => idct k c.q | none => List.replicate 64 fill)
  let raw (x y : Nat) : Nat := nthD fill (nthD [] px (y / 8 * bw + x / 8)) (y % 8 * 8 + x % 8)
  let full := match c.rows with | some r => r * b.2 * 8 | none => g.rows * b.2 * 8
  planeOf (ceilDiv w g.sx) (ceilDiv h g.sy) (fun x y => if y < full then raw x y else if full = 0 then fill else raw x (full - 1))

/-- Whether the 16 × 16 block (bx, by) of a JPEG holds a concealed sample. -/
def jpegLost (cs : List JpegComp) (w h : Nat) (bx by' : Nat) : Bool :=
  let vm := if cs.length = 1 then 1 else maxFactor JpegComp.v cs
  cs.any (fun c =>
    (match c.rows with | some r => decide (r * 8 * vm < min h (16 * by' + 16)) | none => false)
    || (let g := jGrid cs w h c
      let bw := g.cols * (blocksPer cs c).1
      (c.blocks.zipIdx).any (fun e => e.1.isNone && meets (e.2 % bw * 8 * g.sx) (8 * g.sx) (16 * bx) 16 && meets (e.2 / bw * 8 * g.sy) (8 * g.sy) (16 * by') 16)))

/-- A visual sample from its frames of channel samples. -/
def visualSmp (media ch depth w h : Nat) (frames : List (List Nat)) (maps : List (List Nat × Nat)) : Smp :=
  { media := media, kind := 0, elem := if depth = 8 then 1 else 2, ch := ch, depth := depth, w := w, h := h, f := frames.length, s := 0, rate := 0
    conceal := sumNat (maps.map Prod.snd), status := 0, mapW := ceilDiv w 16, mapH := ceilDiv h 16, data := frames.flatten, map := maps.flatMap Prod.fst }

/-- A decoded JPEG. -/
def decodeJpeg (r : JobRec) (w h : Nat) (rgb : Bool) (cs : List JpegComp) : Smp :=
  let fills := fillTriple r 8
  let vis := if r.visChannels = 1 then 1 else 3
  let planes := (cs.zipIdx).map (fun e => let g := jGrid cs w h e.1; upsample (jpegPlane cs w h (nthD 128 fills e.2) e.1) g.sx g.sy w h)
  let p (i x y : Nat) : Nat := (nthD { w := 0, h := 0, px := [] } planes i).at x y
  let px (x y : Nat) : List Nat :=
    if cs.length = 1 then greyChannels vis (p 0 x y)
    else toChannels vis (if rgb then [p 0 x y, p 1 x y, p 2 x y] else convert3 (jpegMatrix 8) 8 (p 0 x y) (p 1 x y) (p 2 x y))
  visualSmp 1 vis 8 w h [(List.range h).flatMap (fun y => (List.range w).flatMap (fun x => px x y))]
    [concealMap (ceilDiv w 16) (ceilDiv h 16) (jpegLost cs w h)]

/-- The size of the block a pixel stands in once so many Adam7 passes are complete. -/
def adamBlock (k : Nat) : Nat × Nat :=
  match k with | 1 => (8, 8) | 2 => (4, 8) | 3 => (4, 4) | 4 => (2, 4) | 5 => (2, 2) | 6 => (1, 2) | _ => (1, 1)

/-- A decoded PNG (12 R333, R337, R342): alpha is discarded. -/
def decodePng (r : JobRec) (w h ch depth : Nat) (samples : List Nat) (rows passes : Option Nat) : Smp :=
  let vis := if r.visChannels = 1 then 1 else 3
  let t := fillTriple r depth
  let fill := toChannels vis (convert3 (jpegMatrix depth) depth (nthD 0 t 0) (nthD 0 t 1) (nthD 0 t 2))
  let raw (x y : Nat) : List Nat :=
    let s (i : Nat) : Nat := nthD 0 samples ((y * w + x) * ch + i)
    if ch ≤ 2 then greyChannels vis (s 0) else toChannels vis [s 0, s 1, s 2]
  let full := match rows with | some k => k / 16 * 16 | none => h
  let px (x y : Nat) : List Nat :=
    match passes with
    | some 0 => fill
    | some k => raw (x / (adamBlock k).1 * (adamBlock k).1) (y / (adamBlock k).2 * (adamBlock k).2)
    | none => if y < full then raw x y else if full = 0 then fill else raw x (full - 1)
  let lost (bx by' : Nat) : Bool :=
    match passes with
    | some 0 => true
    | some k => decide (1 < (adamBlock k).1 ∧ 1 < min 16 (w - 16 * bx)) || decide (1 < (adamBlock k).2 ∧ 1 < min 16 (h - 16 * by'))
    | none => decide (full < min h (16 * by' + 16))
  visualSmp 2 vis depth w h [(List.range h).flatMap (fun y => (List.range w).flatMap (fun x => px x y))] [concealMap (ceilDiv w 16) (ceilDiv h 16) lost]

end Sys2Proof.Machine
end

