-- ==== Sys2Proof/Machine/Audio.lean ====
section
/-! DEFINITION. Audio streams decoded: RIFF WAVE, FLAC, and the Ogg framing, timing and trimming of Opus (12 R326, R327, R340 to R344). The streams' own
rules are those of RIFF, RFC 9639, RFC 3533, RFC 6716 and RFC 7845 (PRESUMED, notes/assumptions/42.md). -/
namespace Sys2Proof.Machine

/-- The bytes of a run, least significant first, as a number. -/
def leAt (a : Octets) (i n : Nat) : Nat := ofLE ((List.range n).map (fun k => byteAt a (i + k)))

/-- Whether a run of bytes stands at a place. -/
def tagAt (a : Octets) (i : Nat) (t : List Nat) : Bool := decide (i + t.length ≤ a.size) && (t.zipIdx).all (fun x => byteAt a (i + x.2) == x.1)

/-- Whether a stream may begin with a tag: as much of it as the data has. -/
def startsAs (bs t : List Nat) : Bool := bs.take t.length == t.take bs.length

/-! ### RIFF WAVE -/

/-- The chunks of a WAVE file from a byte on: type, start, length. -/
def riffChunks (a : Octets) : Nat → Nat → List (List Nat × Nat × Nat)
  | 0, _ => []
  | n + 1, i =>
    if a.size < i + 8 then []
    else let len := leAt a (i + 4) 4; ((List.range 4).map (fun k => byteAt a (i + k)), i + 8, len) :: riffChunks a n (i + 8 + len + len % 2)

/-- A WAVE file decoded (12 R326, R344). -/
def readWave (bs : List Nat) : Decoded :=
  let a := bs.toArray
  let riff := [0x52, 0x49, 0x46, 0x46]; let wave := [0x57, 0x41, 0x56, 0x45]
  if !startsAs bs riff || !startsAs (bs.drop 8) wave then .failed stUnsupported
  else
    let cs := riffChunks a (a.size + 1) 12
    match cs.find? (fun c => c.1 == [0x66, 0x6D, 0x74, 0x20]) with
    | none => .failed stNoHeader
    | some (_, i, n) =>
      if a.size < i + 16 ∨ n < 16 then .failed stNoHeader
      else
        let f := leAt a i 2; let ch := leAt a (i + 2) 2; let rate := leAt a (i + 4) 4; let b := leAt a (i + 14) 2
        if !((f == 1 && [8, 16, 24, 32].contains b) || (f == 3 && b == 32)) || ch == 0 || decide (8 < ch) then .failed stUnsupported
        else
          let w := b / 8
          let (p, m) := ((cs.find? (fun c => c.1 == [0x64, 0x61, 0x74, 0x61])).map (fun c => (c.2.1, min c.2.2 (a.size - c.2.1)))).getD (0, 0)
          let k := m / (w * ch) * ch
          let form : AudioForm := if f = 3 then .float else if b = 8 then .unsigned8 else .signed
          let v (j : Nat) : Int := let u := leAt a (p + w * j) w; if form = .signed then toSigned b u else (u : Int)
          .audio rate ch b form ((List.range k).map v) [] 0 0

/-! ### FLAC (RFC 9639) -/

/-- A CRC whose polynomial takes the most significant bit first. -/
def crcMsb (width poly : Nat) (bs : List Nat) : Nat :=
  bs.foldl (fun c b => (List.range 8).foldl (fun x _ => if 2 ^ (width - 1) ≤ x then Nat.xor (2 * x % 2 ^ width) poly else 2 * x) (Nat.xor c (b % 256 * 2 ^ (width - 8)))) 0

/-- What STREAMINFO declares: block size, sample rate, channels, bits. -/
structure FlacInfo where
  block : Nat
  rate : Nat
  ch : Nat
  bits : Nat
deriving DecidableEq, Repr

/-- A frame header: block size, the first sample's number, channel assignment, bits of a sample, the byte behind it. -/
structure FlacHead where
  block : Nat
  first : Nat
  chans : Nat
  bits : Nat
  next : Nat
deriving DecidableEq, Repr

/-- The coded number of a header, and the byte behind it. -/
def codedNumber (a : Octets) (i : Nat) : Option (Nat × Nat) :=
  let b := byteAt a i
  let n := if b < 0x80 then 1 else if b < 0xC0 then 0 else if b < 0xE0 then 2 else if b < 0xF0 then 3 else if b < 0xF8 then 4 else if b < 0xFC then 5
    else if b < 0xFE then 6 else if b = 0xFE then 7 else 0
  if n = 0 ∨ a.size < i + n then none
  else if n = 1 then some (b, i + 1)
  else if (List.range (n - 1)).all (fun k => byteAt a (i + 1 + k) / 64 == 2) then
    some ((List.range (n - 1)).foldl (fun v k => 64 * v + byteAt a (i + 1 + k) % 64) (b % 2 ^ (7 - n)), i + n)
  else none

/-- A frame header at a byte, when one is there and its CRC-8 matches. -/
def flacHead (a : Octets) (s : FlacInfo) (i : Nat) : Option FlacHead :=
  if byteAt a i ≠ 0xFF ∨ byteAt a (i + 1) / 2 ≠ 0x7C then none
  else
    let bc := byteAt a (i + 2) / 16; let rc := byteAt a (i + 2) % 16; let ca := byteAt a (i + 3) / 16; let sc := byteAt a (i + 3) / 2 % 8
    match codedNumber a (i + 4) with
    | none => none
    | some (num, p) =>
      let be (k n : Nat) : Nat := (List.range n).foldl (fun v x => 256 * v + byteAt a (k + x)) 0
      let bl := if bc = 6 then 1 else if bc = 7 then 2 else 0
      let rl := if rc = 12 then 1 else if rc = 13 ∨ rc = 14 then 2 else 0
      let block := if bc = 1 then 192 else if bc ≤ 5 then 576 * 2 ^ (bc - 2) else if bc ≤ 7 then be p bl + 1 else 256 * 2 ^ (bc - 8)
      let e := p + bl + rl
      if bc = 0 ∨ rc = 15 ∨ 10 < ca ∨ sc = 3 ∨ byteAt a (i + 3) % 2 = 1 ∨ a.size < e + 1 then none
      else if crcMsb 8 0x07 ((List.range (e - i)).map (fun k => byteAt a (i + k))) ≠ byteAt a e then none
      else some { block := block, first := if byteAt a (i + 1) % 2 = 1 then num else num * s.block, chans := ca, next := e + 1
                  bits := match sc with | 1 => 8 | 2 => 12 | 4 => 16 | 5 => 20 | 6 => 24 | 7 => 32 | _ => s.bits }

/-- Zeros up to a one, and the position behind it. -/
def unary (a : Octets) : Nat → Nat → Nat → Except JErr (Nat × Nat)
  | 0, _, _ => .error .ended
  | n + 1, p, k => if 8 * a.size ≤ p then .error .ended else if jBit a p = 1 then .ok (k, p + 1) else unary a n (p + 1) (k + 1)

/-- A signed value of n bits. -/
def signedBits (a : Octets) (p n : Nat) : Except JErr (Int × Nat) := do
  let (v, q) ← jBits a p n
  .ok (if n = 0 then 0 else toSigned n v, q)

/-- k signed values of n bits. -/
def signedRun (a : Octets) (n : Nat) : Nat → Nat → List Int → Except JErr (List Int × Nat)
  | 0, p, acc => .ok (acc.reverse, p)
  | k + 1, p, acc => match signedBits a p n with | .ok (v, q) => signedRun a n k q (v :: acc) | .error e => .error e

/-- k Rice-coded residuals of a parameter. -/
def riceRun (a : Octets) (m : Nat) : Nat → Nat → List Int → Except JErr (List Int × Nat)
  | 0, p, acc => .ok (acc.reverse, p)
  | k + 1, p, acc => do
    let (q, p1) ← unary a (8 * a.size + 1) p 0
    let (r, p2) ← jBits a p1 m
    let u := q * 2 ^ m + r
    riceRun a m k p2 ((if u % 2 = 0 then ((u / 2 : Nat) : Int) else -((u / 2 : Nat) : Int) - 1) :: acc)

/-- The partitions of a residual from number i on. -/
def riceParts (a : Octets) (wide : Bool) (size order : Nat) : Nat → Nat → Nat → List Int → Except JErr (List Int × Nat)
  | 0, _, p, acc => .ok (acc, p)
  | n + 1, i, p, acc => do
    let w := if wide then 5 else 4
    let (m, p1) ← jBits a p w
    let k := if i = 0 then size - order else size
    if m = 2 ^ w - 1 then
      let (b, p2) ← jBits a p1 5
      let (vs, p3) ← signedRun a b k p2 []
      riceParts a wide size order n (i + 1) p3 (acc ++ vs)
    else
      let (vs, p2) ← riceRun a m k p1 []
      riceParts a wide size order n (i + 1) p2 (acc ++ vs)

/-- A residual of a block after a predictor's warm-up. -/
def residual (a : Octets) (block order p : Nat) : Except JErr (List Int × Nat) := do
  let (m, p1) ← jBits a p 2
  let (o, p2) ← jBits a p1 4
  if 1 < m ∨ block % 2 ^ o ≠ 0 ∨ block / 2 ^ o < order then .error .syntaxError
  else riceParts a (m == 1) (block / 2 ^ o) order (2 ^ o) 0 p2 []

/-- Samples from a warm-up (the newest first) and residuals, by a linear predictor. -/
def predictRun (coefs : List Int) (shift : Nat) : List Int → List Int → List Int
  | acc, [] => acc.reverse
  | acc, r :: rs => predictRun coefs shift ((r + sar (sumInt ((coefs.zip acc).map (fun x => x.1 * x.2))) shift) :: acc) rs

/-- The coefficients of a fixed predictor. -/
def fixedCoefs : Nat → List Int
  | 1 => [1] | 2 => [2, -1] | 3 => [3, -3, 1] | 4 => [4, -6, 4, -1] | _ => []

/-- A subframe of a block, of so many bits. -/
def subframe (a : Octets) (block bits0 p : Nat) : Except JErr (List Int × Nat) := do
  let (h, p0) ← jBits a p 8
  let t := h / 2 % 64
  let (wasted, p1) ← (if h % 2 = 1 then (match unary a (8 * a.size + 1) p0 0 with | .ok (k, q) => .ok (k + 1, q) | .error e => .error e) else .ok (0, p0) : Except JErr (Nat × Nat))
  let b := bits0 - wasted
  let out (x : Except JErr (List Int × Nat)) : Except JErr (List Int × Nat) :=
    match x with | .ok (vs, q) => .ok (vs.map (· * 2 ^ wasted), q) | .error e => .error e
  if 128 ≤ h ∨ bits0 ≤ wasted then .error .syntaxError
  else if t = 0 then out (do let (v, q) ← signedBits a p1 b; .ok (List.replicate block v, q))
  else if t = 1 then out (signedRun a b block p1 [])
  else if 8 ≤ t ∧ t ≤ 12 then out (do
    let (ws, q) ← signedRun a b (min block (t - 8)) p1 []
    let (rs, q2) ← residual a block (t - 8) q
    .ok (predictRun (fixedCoefs (t - 8)) 0 ws.reverse rs, q2))
  else if 32 ≤ t then out (do
    let o := t - 31
    let (ws, q) ← signedRun a b (min block o) p1 []
    let (pr, q2) ← jBits a q 4
    let (sh, q3) ← signedBits a q2 5
    let (cs, q4) ← signedRun a (pr + 1) o q3 []
    let (rs, q5) ← residual a block o q4
    if pr = 15 ∨ sh < 0 then .error .syntaxError else .ok (predictRun cs sh.toNat ws.reverse rs, q5))
  else .error .syntaxError

/-- The subframes of a frame. -/
def subframes (a : Octets) (block : Nat) : List Nat → Nat → List (List Int) → Except JErr (List (List Int) × Nat)
  | [], p, acc => .ok (acc.reverse, p)
  | b :: bs, p, acc => match subframe a block b p with | .ok (s, q) => subframes a block bs q (s :: acc) | .error e => .error e

/-- The channels of a frame from its subframes, by the channel assignment. -/
def decorrelate (ca : Nat) (cs : List (List Int)) : List (List Int) :=
  let x := nthD [] cs 0; let y := nthD [] cs 1
  let pair (f : Int → Int → Int × Int) : List (List Int) := let z := (x.zip y).map (fun v => f v.1 v.2); [z.map Prod.fst, z.map Prod.snd]
  match ca with
  | 8 => pair (fun l s => (l, l - s))
  | 9 => pair (fun s r => (s + r, r))
  | 10 => pair (fun m s => let t := 2 * m + s % 2; (sar (t + s) 1, sar (t - s) 1))
  | _ => cs

/-- A frame at a byte: its channels and the byte behind it. -/
def flacFrame (a : Octets) (s : FlacInfo) (i : Nat) (h : FlacHead) : Except JErr (List (List Int) × Nat) := do
  let n := if h.chans ≤ 7 then h.chans + 1 else 2
  let side (k : Nat) : Nat := if (h.chans = 8 ∧ k = 1) ∨ (h.chans = 9 ∧ k = 0) ∨ (h.chans = 10 ∧ k = 1) then 1 else 0
  let (cs, p) ← subframes a h.block ((List.range n).map (fun k => h.bits + side k)) (8 * h.next) []
  let e := ceilDiv p 8
  if a.size < e + 2 then .error .ended
  else if crcMsb 16 0x8005 ((List.range (e - i)).map (fun k => byteAt a (i + k))) ≠ byteAt a e * 256 + byteAt a (e + 1) then .error .syntaxError
  else if n ≠ s.ch ∨ h.bits ≠ s.bits then .error .syntaxError
  else .ok (decorrelate h.chans cs, e + 2)

/-- The next byte from one on at which a frame header stands. -/
def nextSync (a : Octets) (s : FlacInfo) : Nat → Nat → Option Nat
  | 0, _ => none
  | n + 1, i => if a.size ≤ i then none else if (flacHead a s i).isSome then some i else nextSync a s n (i + 1)

/-- What frames came to: samples interleaved (the newest block first), how many sample frames, the lost spans, the syntax errors. -/
structure FlacRun where
  out : List (List Int) := []
  made : Nat := 0
  lost : List (Nat × Nat) := []
  errors : Nat := 0
deriving DecidableEq, Repr

/-- A block put behind what there is; the span up to its first sample is lost (12 R341). -/
def FlacRun.put (r : FlacRun) (ch first : Nat) (cs : List (List Int)) : FlacRun :=
  let n := (cs.headD []).length
  let gap := first - r.made
  { r with
    out := ((List.range n).flatMap (fun k => cs.map (fun c => nthD 0 c k))) :: (if gap = 0 then r.out else List.replicate (gap * ch) 0 :: r.out)
    made := r.made + gap + n, lost := if gap = 0 then r.lost else r.lost ++ [(r.made, gap)] }

/-- The frames from a byte on; the first number bounds them. A frame that breaks, with another behind it, is a syntax error; one that the data end in
ends the sample. -/
def flacFrames (a : Octets) (s : FlacInfo) : Nat → Nat → FlacRun → FlacRun
  | 0, _, r => r
  | n + 1, i, r =>
    if a.size ≤ i then r
    else
      let err : FlacRun := { r with errors := r.errors + 1 }
      match flacHead a s i with
      | none => match nextSync a s (a.size + 1) (i + 1) with | some k => flacFrames a s n k err | none => if a.size < i + 16 then r else err
      | some h =>
        match flacFrame a s i h with
        | .ok (cs, e) => flacFrames a s n e (r.put s.ch h.first cs)
        | .error e => match nextSync a s (a.size + 1) (i + 1) with | some k => flacFrames a s n k err | none => if e = .ended then r else err

/-- The first byte behind the metadata blocks. -/
def pastMeta (a : Octets) : Nat → Nat → Nat
  | 0, i => i
  | n + 1, i =>
    let e := i + 4 + (byteAt a (i + 1) * 65536 + byteAt a (i + 2) * 256 + byteAt a (i + 3))
    if a.size ≤ e ∨ 128 ≤ byteAt a i then e else pastMeta a n e

/-- A FLAC stream decoded (12 R326, R327, R340, R341). -/
def readFlac (bs : List Nat) : Decoded :=
  let a := bs.toArray
  if !startsAs bs [0x66, 0x4C, 0x61, 0x43] then .failed stUnsupported
  else if a.size < 42 ∨ byteAt a 4 % 128 ≠ 0 then .failed stNoHeader
  else
    let s : FlacInfo := { block := byteAt a 10 * 256 + byteAt a 11, rate := byteAt a 18 * 4096 + byteAt a 19 * 16 + byteAt a 20 / 16
                          ch := byteAt a 20 / 2 % 8 + 1, bits := byteAt a 20 % 2 * 16 + byteAt a 21 / 16 + 1 }
    if s.rate = 0 ∨ 655350 < s.rate ∨ s.bits < 4 then .failed stUnsupported
    else
      let r := flacFrames a s (a.size + 1) (pastMeta a (a.size + 1) 4) {}
      .audio s.rate s.ch s.bits .signed r.out.reverse.flatten r.lost (sumNat (r.lost.map (fun l => ceilDiv l.2 (max 1 s.block)))) r.errors

/-! ### Ogg and Opus (RFC 3533, RFC 7845) -/

/-- A page: its flags, granule position, serial number, lacing values, where its body starts, where it ends. -/
structure OggPage where
  flags : Nat
  granule : Nat
  serial : Nat
  lacing : List Nat
  body : Nat
  next : Nat
deriving DecidableEq, Repr

/-- The page at a byte, when one with a valid CRC is there; none inside when the data end in it. -/
def oggPage (a : Octets) (i : Nat) : Option OggPage :=
  if !tagAt a i [0x4F, 0x67, 0x67, 0x53] || a.size < i + 27 then none
  else
    let n := byteAt a (i + 26)
    let ls := (List.range n).map (fun k => byteAt a (i + 27 + k))
    let e := i + 27 + n + sumNat ls
    if a.size < e then none
    else if crcMsb 32 0x04C11DB7 ((List.range (e - i)).map (fun k => if 22 ≤ k ∧ k < 26 then 0 else byteAt a (i + k))) ≠ leAt a (i + 22) 4 then none
    else some { flags := byteAt a (i + 5), granule := leAt a (i + 6) 8, serial := leAt a (i + 14) 4, lacing := ls, body := i + 27 + n, next := e }

/-- Whether a whole page stands at a byte, whatever its CRC. -/
def wholePage (a : Octets) (i : Nat) : Bool :=
  tagAt a i [0x4F, 0x67, 0x67, 0x53] && decide (i + 27 ≤ a.size)
    && decide (i + 27 + byteAt a (i + 26) + sumNat ((List.range (byteAt a (i + 26))).map (fun k => byteAt a (i + 27 + k))) ≤ a.size)

/-- The next byte from one on at which a good page stands. -/
def nextPage (a : Octets) : Nat → Nat → Option Nat
  | 0, _ => none
  | n + 1, i => if a.size ≤ i then none else if (oggPage a i).isSome then some i else nextPage a n (i + 1)

/-- The pages of a stream, each with whether something was lost before it, and the errors met: a whole page whose CRC fails is one even when no good page
follows; one that the end of the data cuts is none (12 R340, R342). -/
def oggPages (a : Octets) : Nat → Nat → Bool → List (OggPage × Bool) × Nat
  | 0, _, _ => ([], 0)
  | n + 1, i, gap =>
    if a.size ≤ i then ([], 0)
    else match oggPage a i with
    | some p => let r := oggPages a n p.next false; ((p, gap) :: r.1, r.2)
    | none => match nextPage a (a.size + 1) (i + 1) with | some k => let r := oggPages a n k true; (r.1, r.2 + 1) | none => ([], b2n (wholePage a i))

/-- The packets that end on a page, the first beginning with what earlier pages left; and what it leaves over. -/
def pagePackets (a : Octets) : List Nat → Nat → List Nat → List (List Nat) × List Nat
  | [], _, acc => ([], acc)
  | l :: ls, i, acc =>
    let acc1 := acc ++ (List.range l).map (fun k => byteAt a (i + k))
    if l < 255 then let r := pagePackets a ls (i + l) []; (acc1 :: r.1, r.2) else pagePackets a ls (i + l) acc1

/-- A frame length of RFC 6716 3.1 and the bytes behind it. -/
def opusLength : List Nat → Option (Nat × List Nat)
  | [] => none
  | l :: rest => if l < 252 then some (l, rest) else match rest with | m :: r => some (l + 4 * m, r) | [] => none

/-- The padding bytes that a code 3 packet gives, and the bytes behind their count; the bound is on the bytes. -/
def opusPadding : Nat → List Nat → Option (Nat × List Nat)
  | 0, _ => none
  | n + 1, bs => match bs with
    | [] => none
    | b :: rest => if b = 255 then (opusPadding n rest).map (fun r => (r.1 + 254, r.2)) else some (b, rest)

/-- Some frame lengths, whose sum and the bytes behind them; none when one is cut or above 1,275. -/
def opusLengths : Nat → List Nat → Option (Nat × List Nat)
  | 0, bs => some (0, bs)
  | n + 1, bs => (opusLength bs).bind (fun x => if 1275 < x.1 then none else (opusLengths n x.2).map (fun r => (x.1 + r.1, r.2)))

/-- Whether the frame lengths of a packet of a code and a frame count fit its bytes (RFC 6716 3.2, 3.4). -/
def opusFits (code n : Nat) (rest : List Nat) : Bool :=
  match code with
  | 0 => decide (rest.length ≤ 1275)
  | 1 => rest.length % 2 == 0 && decide (rest.length ≤ 2550)
  | 2 => (opusLengths 1 rest).any (fun r => decide (r.1 ≤ r.2.length) && decide (r.2.length ≤ r.1 + 1275))
  | _ =>
    let h := rest.headD 0
    match (if bitOf h 6 then opusPadding rest.length (rest.drop 1) else some (0, rest.drop 1)) with
    | none => false
    | some (pad, bs) =>
      if bitOf h 7 then (opusLengths (n - 1) bs).any (fun r => decide (r.1 + pad ≤ r.2.length) && decide (r.2.length ≤ r.1 + pad + 1275))
      else decide (pad ≤ bs.length) && (bs.length - pad) % n == 0 && decide (bs.length - pad ≤ 1275 * n)

/-- The 48 kHz sample frames of an Opus packet, by its TOC; none when it is invalid or a frame length does not fit (12 R340). -/
def opusFrames (p : List Nat) : Option Nat :=
  match p with
  | [] => none
  | t :: rest =>
    let c := t / 8
    let size := if c < 12 then nthD 0 [480, 960, 1920, 2880] (c % 4) else if c < 16 then nthD 0 [480, 960] (c % 2) else nthD 0 [120, 240, 480, 960] (c % 4)
    let n := match t % 4 with | 0 => 1 | 1 => 2 | 2 => 2 | _ => rest.headD 0 % 64
    if n = 0 ∨ 5760 < n * size ∨ (2 ≤ t % 4 ∧ rest.isEmpty) ∨ opusFits (t % 4) n rest = false then none else some (n * size)

/-- What an Opus stream came to: its good packets, the newest first, with the sample frame each begins at, where the sound has come to, the granule position
that the first sound begins at (RFC 7845 4.5), the packet under way, and the errors met. -/
structure OpusRun where
  packets : List (List Nat × Nat) := []
  made : Nat := 0
  base : Nat := 0
  begun : Bool := false
  part : List Nat := []
  errors : Nat := 0
deriving DecidableEq, Repr

/-- The packets up to the first invalid one. -/
def goodPackets (ps : List (List Nat)) : List (List Nat × Nat) := (ps.map (fun p => (p, opusFrames p))).takeWhile (fun x => x.2.isSome) |>.map (fun x => (x.1, x.2.getD 0))

/-- One page of sound taken: its packets end at its granule position; what is missing before them is lost (12 R341). -/
def OpusRun.page (a : Octets) (r : OpusRun) (p : OggPage) (gap : Bool) : OpusRun :=
  let part := if gap || !bitOf p.flags 0 then [] else r.part
  let raw := pagePackets a p.lacing p.body part
  -- A packet continued from a page that was lost is lost with it.
  let ps := if gap && bitOf p.flags 0 then raw.1.drop 1 else raw.1
  let good := goodPackets ps
  let dur := sumNat (good.map Prod.snd)
  let errs := b2n (decide (good.length < ps.length))
  let all := good.length == ps.length
  let base := if !r.begun && !gap && all && !bitOf p.flags 2 then p.granule - dur else r.base
  let start := if !r.begun && !gap then 0 else if gap && all then max r.made (p.granule - base - dur) else r.made
  let placed := (good.foldl (fun (acc : List (List Nat × Nat) × Nat) x => ((x.1, acc.2) :: acc.1, acc.2 + x.2)) (r.packets, start))
  { packets := placed.1, made := if all then placed.2 else max placed.2 (p.granule - base), base := base, begun := true, part := raw.2, errors := r.errors + errs }

/-- The samples of packets in their places, spans between them lost: the samples, and the spans. -/
def placeOpus (ch : Nat) : List (Nat × Nat) → Nat → List Int → List Int × List (Nat × Nat)
  | [], _, _ => ([], [])
  | (start, dur) :: ps, made, pcm =>
    let gap := start - made
    let body := (pcm.take (dur * ch)) ++ List.replicate (dur * ch - pcm.length) 0
    let r := placeOpus ch ps (made + gap + dur) (pcm.drop (dur * ch))
    (List.replicate (gap * ch) 0 ++ body ++ r.1, if gap = 0 then r.2 else (made, gap) :: r.2)

/-- The part of a span from sample frame a to b, counted from a. -/
def clipSpan (a b : Nat) (l : Nat × Nat) : Option (Nat × Nat) :=
  let lo := max a l.1; let hi := min b (l.1 + l.2)
  if lo < hi then some (lo - a, hi - lo) else none

/-- An Opus stream in Ogg decoded; pre-skip and end trimming applied (12 R326, R327, R340, R341, R344). -/
def readOpus (bs : List Nat) : Decoded :=
  let a := bs.toArray
  if !startsAs bs [0x4F, 0x67, 0x67, 0x53] then .failed stUnsupported
  else match oggPages a (a.size + 1) 0 false with
  | ([], _) => .failed stNoHeader
  | ((_, true) :: _, _) => .failed stNoHeader
  | ((p, false) :: rest, errs) =>
    let head := ((pagePackets a p.lacing p.body []).1.headD [])
    let ch := nthD 0 head 9; let fam := nthD 0 head 18; let skip := nthD 0 head 10 + 256 * nthD 0 head 11
    if head.take 8 ≠ [0x4F, 0x70, 0x75, 0x73, 0x48, 0x65, 0x61, 0x64] then .failed stUnsupported
    else if head.length < 19 then .failed stNoHeader
    else if nthD 0 head 8 / 16 ≠ 0 ∨ ch = 0 ∨ (fam = 0 ∧ 2 < ch) ∨ (fam = 1 ∧ 8 < ch) ∨ 1 < fam then .failed stUnsupported
    else
      let mine := rest.filter (fun x => x.1.serial == p.serial)
      -- The comment header ends the page that its last packet ends on.
      let sound := (mine.dropWhile (fun x => (x.1.lacing.all (· == 255)))).drop 1
      let r := sound.foldl (fun r x => OpusRun.page a r x.1 x.2) {}
      let ps := r.packets.reverse
      let pcm := Config.opusSamples head (ps.map Prod.fst)
      let placed := placeOpus ch (ps.map (fun x => (x.2, (opusFrames x.1).getD 0))) 0 pcm
      let total := placed.1.length / ch
      let last := (sound.getLast?.map (fun x => if bitOf x.1.flags 2 then x.1.granule - r.base else total)).getD 0
      let hi := min total last
      let lost := placed.2.filterMap (clipSpan skip hi)
      .audio 48000 ch 16 .opus ((placed.1.drop (skip * ch)).take ((hi - skip) * ch)) lost (ceilDiv (sumNat (lost.map Prod.snd)) 960) (errs + r.errors)

end Sys2Proof.Machine
end

