-- ==== Sys2Proof/Machine/Codec.lean ====
section
/-! DEFINITION. What ITU-T H.264 and H.265 define for the encoders of REENCODE: prediction, transforms, scaling, the deblocking filter (12 R349, R350;
PRESUMED, notes/assumptions/43.md). The codec is 0 H.264 (High, 4 × 4 transform) or 1 HEVC (Main, 16 × 16 CUs with one transform unit). Eight bits, 4:2:0;
blocks are lists row by row. -/
namespace Sys2Proof.Machine

/-- A 4:2:0 picture of padded size: Y, Cb, Cr. -/
structure Yuv where
  w : Nat
  h : Nat
  planes : List (List Nat)
deriving DecidableEq, Repr

/-- The width and the height of a plane. -/
def Yuv.pw (v : Yuv) (p : Nat) : Nat := if p = 0 then v.w else v.w / 2
def Yuv.ph (v : Yuv) (p : Nat) : Nat := if p = 0 then v.h else v.h / 2

/-- A sample of a plane, edges repeated. -/
def Yuv.at (v : Yuv) (p : Nat) (x y : Int) : Nat := ({ w := v.pw p, h := v.ph p, px := nthD [] v.planes p } : Plane).at x y

/-- The side of the block of a plane that belongs to a 16 × 16 luma block. -/
def blockSide (p : Nat) : Nat := if p = 0 then 16 else 8

/-- What a block was coded as: intra with its mode, or inter with its vector; the QP; the levels by plane. -/
structure CodedBlock where
  intra : Bool
  mode : Nat
  mvx : Int
  mvy : Int
  qp : Nat
  levels : List (List Int)
deriving DecidableEq, Repr

/-- A coded block as the arithmetic coder takes it. -/
def CodedBlock.flat (b : CodedBlock) : List Int :=
  ([if b.intra then 1 else 0, (b.mode : Int), b.mvx, b.mvy, (b.qp : Int)] : List Int) ++ b.levels.flatten

/-- A block of n × n values from a function of column and row. -/
def gridOf {α : Type} (n : Nat) (f : Nat → Nat → α) : List α := (List.range n).flatMap (fun y => (List.range n).map (fun x => f x y))

/-- The element of an n × n block at a column and row. -/
def gridAt (n : Nat) (b : List Int) (x y : Nat) : Int := nthD 0 b (y * n + x)

/-- The product of two n × n matrices, and a transpose. -/
def gridMul (n : Nat) (a b : List Int) : List Int := gridOf n (fun x y => sumInt ((List.range n).map (fun k => gridAt n a k y * gridAt n b x k)))
def gridFlip (n : Nat) (b : List Int) : List Int := gridOf n (fun x y => gridAt n b y x)

/-! ### Intra prediction of H.264 (8.3.3, 8.3.4) -/

/-- The prediction of a 16 × 16 luma block at (x, y) by a mode: vertical, horizontal, DC, plane. -/
def avcLuma (mode : Nat) (v : Yuv) (x y : Nat) : List Nat :=
  let up (i : Int) : Int := v.at 0 ((x : Int) + i) ((y : Int) - 1)
  let lf (j : Int) : Int := v.at 0 ((x : Int) - 1) ((y : Int) + j)
  let su := sumInt ((List.range 16).map (fun i => up i)); let sl := sumInt ((List.range 16).map (fun j => lf j))
  let dc : Int := if 0 < x ∧ 0 < y then sar (su + sl + 16) 5 else if 0 < x then sar (sl + 8) 4 else if 0 < y then sar (su + 8) 4 else 128
  let hh := sumInt ((List.range 8).map (fun i => ((i : Int) + 1) * (up (8 + i) - up (6 - (i : Int)))))
  let vv := sumInt ((List.range 8).map (fun j => ((j : Int) + 1) * (lf (8 + j) - lf (6 - (j : Int)))))
  gridOf 16 (fun i j =>
    if mode = 0 then (up i).toNat
    else if mode = 1 then (lf j).toNat
    else if mode = 2 then dc.toNat
    else clampTo 255 (sar (16 * (lf 15 + up 15) + sar (5 * hh + 32) 6 * ((i : Int) - 7) + sar (5 * vv + 32) 6 * ((j : Int) - 7) + 16) 5))

/-- The DC prediction of an 8 × 8 chroma block that belongs to the luma block at (x, y). -/
def avcChroma (p : Nat) (v : Yuv) (x y : Nat) : List Nat :=
  let up (i : Nat) : Int := v.at p ((x / 2 + i : Nat) : Int) (((y / 2 : Nat) : Int) - 1)
  let lf (j : Nat) : Int := v.at p (((x / 2 : Nat) : Int) - 1) ((y / 2 + j : Nat) : Int)
  gridOf 8 (fun i j =>
    let su := sumInt ((List.range 4).map (fun k => up (i / 4 * 4 + k))); let sl := sumInt ((List.range 4).map (fun k => lf (j / 4 * 4 + k)))
    let one (s : Int) : Int := sar (s + 2) 2
    let d : Int :=
      if i / 4 = j / 4 then if 0 < x ∧ 0 < y then sar (su + sl + 4) 3 else if 0 < x then one sl else if 0 < y then one su else 128
      else if j < 4 then if 0 < y then one su else if 0 < x then one sl else 128
      else if 0 < x then one sl else if 0 < y then one su else 128
    d.toNat)

/-! ### Intra prediction of HEVC (8.4.4.2) -/

/-- The place of the 16 × 16 CU with a luma sample in the coding order: CTB row, CTB, CU in its CTB. -/
def cuOrder (x y : Nat) : List Nat := [y / 32, x / 32, y / 16 % 2 * 2 + x / 16 % 2]

/-- Whether one place comes before another. -/
def before : List Nat → List Nat → Bool
  | a :: as, b :: bs => decide (a < b) || (a == b && before as bs)
  | _, _ => false

/-- A list with what is not there taken from the element before it, at the start from the first that is there, else mid-grey (8.4.4.2.2). -/
def substituted (l : List (Option Nat)) : List Nat :=
  let first := ((l.filterMap id).head?).getD 128
  (l.foldl (fun (a : List Nat × Nat) o => (o.getD a.2 :: a.1, o.getD a.2)) ([], first)).1.reverse

/-- The 4n + 1 neighbours of the block of a plane at luma (x, y): from the lower left up to the corner, then along the top. -/
def hevcRefs (p : Nat) (v : Yuv) (x y : Nat) : List Nat :=
  let n := blockSide p; let k := 16 / n
  let at' (i j : Int) : Option Nat :=
    let xx : Int := ((x / k : Nat) : Int) + i; let yy : Int := ((y / k : Nat) : Int) + j
    if 0 ≤ xx ∧ 0 ≤ yy ∧ xx < (v.pw p : Int) ∧ yy < (v.ph p : Int) ∧ before (cuOrder (xx.toNat * k) (yy.toNat * k)) (cuOrder x y) then some (v.at p xx yy) else none
  substituted (((List.range (2 * n)).reverse.map (fun j => at' (-1) j)) ++ [at' (-1) (-1)] ++ (List.range (2 * n)).map (fun i => at' i (-1)))

/-- The neighbours smoothed by 1, 2, 1 (8.4.4.2.3). -/
def smoothed (l : List Nat) : List Nat :=
  (l.zipIdx).map (fun e => if e.2 = 0 ∨ e.2 + 1 = l.length then e.1 else (nthD 0 l (e.2 - 1) + 2 * e.1 + nthD 0 l (e.2 + 1) + 2) / 4)

/-- The prediction of the block of a plane by a mode: planar, DC, 10 horizontal, 26 vertical. Of luma, planar takes smoothed neighbours and the others have
their edges smoothed. -/
def hevcIntra (p mode : Nat) (v : Yuv) (x y : Nat) : List Nat :=
  let n := blockSide p
  let refs := hevcRefs p v x y
  let rs := if p = 0 ∧ mode = 0 then smoothed refs else refs
  let lf (j : Int) : Int := nthD 0 rs ((2 * n : Nat) - 1 - j).toNat
  let up (i : Nat) : Int := nthD 0 rs (2 * n + 1 + i)
  let corner : Int := lf (-1)
  let dc := (sumInt ((List.range n).map (fun i => up i)) + sumInt ((List.range n).map (fun j => lf j)) + n) / (2 * n : Nat)
  gridOf n (fun i j =>
    if mode = 0 then (((n : Int) - 1 - i) * lf j + (i + 1) * up n + ((n : Int) - 1 - j) * up i + (j + 1) * lf n + n).toNat / (2 * n)
    else if mode = 1 then
      if p ≠ 0 then dc.toNat
      else if i = 0 ∧ j = 0 then (lf 0 + 2 * dc + up 0 + 2).toNat / 4
      else if j = 0 then (up i + 3 * dc + 2).toNat / 4
      else if i = 0 then (lf j + 3 * dc + 2).toNat / 4
      else dc.toNat
    else if mode = 10 then clampTo 255 (if p = 0 ∧ j = 0 then lf 0 + sar (up i - corner) 1 else lf j)
    else clampTo 255 (if p = 0 ∧ i = 0 then up 0 + sar (lf j - corner) 1 else up i))

/-- The intra prediction of the block of a plane that belongs to the luma block at (x, y), by the luma mode (12 R350: chroma DC, or the derived mode). -/
def intraBlock (codec p mode : Nat) (v : Yuv) (x y : Nat) : List Nat :=
  if codec ≠ 0 then hevcIntra p mode v x y else if p = 0 then avcLuma mode v x y else avcChroma p v x y

/-! ### Inter prediction of chroma (H.264 8.4.2.2.2, HEVC 8.5.3.3.3) -/

/-- The chroma block by a vector of whole luma samples: between samples where the vector is odd, by the halves of H.264 or the taps of HEVC. -/
def interChroma (codec p : Nat) (v : Yuv) (x y : Nat) (mv : Int × Int) : List Nat :=
  let x0 : Int := ((x / 2 : Nat) : Int) + sar mv.1 1; let y0 : Int := ((y / 2 : Nat) : Int) + sar mv.2 1
  let hx := mv.1 % 2 != 0; let hy := mv.2 % 2 != 0
  gridOf 8 (fun i j =>
    let s (a b : Int) : Int := v.at p (x0 + i + a) (y0 + j + b)
    if codec = 0 then
      let fx : Int := if hx then 4 else 0; let fy : Int := if hy then 4 else 0
      (sar ((8 - fx) * (8 - fy) * s 0 0 + fx * (8 - fy) * s 1 0 + (8 - fx) * fy * s 0 1 + fx * fy * s 1 1 + 32) 6).toNat
    else
      let row (b : Int) : Int := if hx then -4 * s (-1) b + 36 * s 0 b + 36 * s 1 b - 4 * s 2 b else 64 * s 0 b
      clampTo 255 (sar ((if hy then sar (-4 * row (-1) + 36 * row 0 + 36 * row 1 - 4 * row 2) 6 else row 0) + 32) 6))

/-! ### Transforms and scaling of H.264 (8.5) -/

/-- The QP of a plane by the luma QP. -/
def planeQp (codec p qp : Nat) : Nat :=
  if p = 0 ∨ qp < 30 then qp
  else if codec = 0 then nthD 39 [29, 30, 31, 32, 32, 33, 34, 34, 35, 35, 36, 36, 37, 37, 37, 38, 38, 38, 39, 39, 39, 39] (qp - 30)
  else if 43 < qp then qp - 6 else nthD 37 [29, 30, 31, 32, 33, 33, 34, 34, 35, 35, 36, 36, 37, 37] (qp - 30)

/-- The 4 × 4 block number k of an n × n block, and an n × n block from its 4 × 4 blocks. -/
def tileAt (n : Nat) (b : List Int) (k : Nat) : List Int := gridOf 4 (fun i j => gridAt n b (k % (n / 4) * 4 + i) (k / (n / 4) * 4 + j))
def untile (n : Nat) (ts : List (List Int)) : List Int := gridOf n (fun i j => gridAt 4 (nthD [] ts (j / 4 * (n / 4) + i / 4)) (i % 4) (j % 4))

/-- The forward core transform of 4 × 4, and the Hadamard transforms of the DC coefficients. -/
def avcCore : List Int := [1, 1, 1, 1, 2, 1, -1, -2, 1, -1, -1, 1, 1, -2, 2, -1]
def hadamard4 : List Int := [1, 1, 1, 1, 1, 1, -1, -1, 1, -1, -1, 1, 1, -1, 1, -1]
def hadamard (n : Nat) (d : List Int) : List Int :=
  let m : List Int := if n = 4 then hadamard4 else [1, 1, 1, -1]
  gridMul n (gridMul n m d) m

/-- Whether the DC coefficients of a plane are transformed once more: of an Intra16×16 luma block, and of chroma. -/
def hasDc (p : Nat) (intra : Bool) : Bool := p != 0 || intra

/-- Blocks of 16 coefficients with their first ones replaced. -/
def withDc (ts : List (List Int)) (ds : List Int) : List (List Int) := (ts.zip ds).map (fun e => e.2 :: e.1.drop 1)

/-- The coefficients of a residual: 16 for each 4 × 4 block, the first of each the DC coefficients' transform where there is one (halved for luma). -/
def avcForward (p : Nat) (intra : Bool) (r : List Int) : List Int :=
  let n := blockSide p; let m := n / 4
  let ts := (List.range (m * m)).map (fun k => gridMul 4 (gridMul 4 avcCore (tileAt n r k)) (gridFlip 4 avcCore))
  if hasDc p intra then
    let d := hadamard m (ts.map (fun t => nthD 0 t 0))
    (withDc ts (if p = 0 then d.map (fun c => sar c 1) else d)).flatten
  else ts.flatten

/-- The class of a coefficient of a 4 × 4 block: both coordinates even, both odd, or other. -/
def coefClass (i : Nat) : Nat := if i % 2 = 0 ∧ i / 4 % 2 = 0 then 0 else if i % 2 = 1 ∧ i / 4 % 2 = 1 then 1 else 2

/-- The multiplier MF and the scale of a class at QP mod 6. -/
def avcMf (m c : Nat) : Nat :=
  nthD 0 (nthD [] [[13107, 5243, 8066], [11916, 4660, 7490], [10082, 4194, 6554], [9362, 3647, 5825], [8192, 3355, 5243], [7282, 2893, 4559]] m) c
def avcScale (m c : Nat) : Int := 16 * nthD 0 (nthD [] [[10, 16, 13], [11, 18, 14], [13, 20, 16], [14, 23, 18], [16, 25, 20], [18, 29, 23]] m) c

/-- The inverse transform of four values (8.5.12.2). -/
def avcButterfly (d : List Int) : List Int :=
  let v (i : Nat) : Int := nthD 0 d i
  let e0 := v 0 + v 2; let e1 := v 0 - v 2; let e2 := sar (v 1) 1 - v 3; let e3 := v 1 + sar (v 3) 1
  [e0 + e3, e1 + e2, e1 - e2, e0 - e3]

/-- The rows of an n × n block. -/
def gridRows (n : Nat) (b : List Int) : List (List Int) := (List.range n).map (fun j => (List.range n).map (fun i => gridAt n b i j))

/-- The residual of a 4 × 4 block of scaled coefficients. -/
def avcInverse (d : List Int) : List Int :=
  let f := ((gridRows 4 d).map avcButterfly).flatten
  (gridFlip 4 ((gridRows 4 (gridFlip 4 f)).map avcButterfly).flatten).map (fun x => sar (x + 32) 6)

/-- The residual that the levels of a plane give (8.5.2, 8.5.10 to 8.5.12). -/
def avcResidual (p : Nat) (intra : Bool) (qp : Nat) (ls : List Int) : List Int :=
  let n := blockSide p; let m := n / 4; let q := planeQp 0 p qp
  let ts := (List.range (m * m)).map (fun k => (ls.drop (16 * k)).take 16)
  let scaled (t : List Int) : List Int := (t.zipIdx).map (fun e =>
    let c := e.1 * avcScale (q % 6) (coefClass e.2)
    if 24 ≤ q then c * (2 ^ (q / 6 - 4) : Nat) else sar (c + (2 ^ (3 - q / 6) : Nat)) (4 - q / 6))
  let us := ts.map scaled
  let ds := hadamard m (ts.map (fun t => nthD 0 t 0))
  let s := avcScale (q % 6) 0
  let dc := if p = 0 then ds.map (fun f => if 36 ≤ q then f * s * (2 ^ (q / 6 - 6) : Nat) else sar (f * s + (2 ^ (5 - q / 6) : Nat)) (6 - q / 6))
    else ds.map (fun f => sar (f * s * (2 ^ (q / 6) : Nat)) 5)
  untile n ((if hasDc p intra then withDc us dc else us).map avcInverse)

/-! ### Transforms and scaling of HEVC (8.6) -/

/-- The coefficients of the transform matrices: the standard's integers for 64 √2 cos (m π / 32). -/
def dctTable : List Int := [64, 90, 89, 87, 83, 80, 75, 70, 64, 57, 50, 43, 36, 25, 18, 9, 0]

/-- The entry of the n-point matrix in row k and column i. -/
def dctAt (n k i : Nat) : Int :=
  let m := (2 * i + 1) * k * (16 / n) % 64
  let t (j : Nat) : Int := if k = 0 then 64 else nthD 0 dctTable j
  if m ≤ 16 then t m else if m < 32 then -t (32 - m) else if m ≤ 48 then -t (m - 32) else t (64 - m)

/-- The n-point matrix. -/
def dctMatrix (n : Nat) : List Int := gridOf n (fun i k => dctAt n k i)

/-- A value rounded to a right shift. -/
def roundShift (x : Int) (n : Nat) : Int := sar (x + (2 ^ (n - 1) : Nat)) n

/-- The coefficients of a residual: columns after rows, with the shifts that keep 16 bits. -/
def hevcForward (p : Nat) (r : List Int) : List Int :=
  let n := blockSide p; let m := dctMatrix n; let k := Nat.log2 n
  let rows := (gridMul n r (gridFlip n m)).map (fun x => roundShift x (k - 1))
  (gridMul n m rows).map (fun x => roundShift x (k + 6))

/-- The residual that the levels of a plane give (8.6.3, 8.6.4). -/
def hevcResidual (p qp : Nat) (ls : List Int) : List Int :=
  let n := blockSide p; let m := dctMatrix n; let k := Nat.log2 n; let q := planeQp 1 p qp
  let clip (x : Int) : Int := max (-32768) (min 32767 x)
  let scale : Int := 16 * nthD 0 [40, 45, 51, 57, 64, 72] (q % 6) * (2 ^ (q / 6) : Nat)
  let ds := ls.map (fun l => clip (roundShift (l * scale) (k + 3)))
  let cols := (gridMul n (gridFlip n m) ds).map (fun x => clip (roundShift x 7))
  (gridMul n cols m).map (fun x => roundShift x 12)

/-! ### Both codecs -/

/-- The coefficients of a residual block of a plane. -/
def forward (codec p : Nat) (intra : Bool) (r : List Int) : List Int := if codec = 0 then avcForward p intra r else hevcForward p r

/-- MF and qbits of coefficient i of a plane's block by the luma QP. -/
def quantScale (codec p : Nat) (intra : Bool) (qp i : Nat) : Nat × Nat :=
  let q := planeQp codec p qp
  if codec = 0 then
    if hasDc p intra && i % 16 == 0 then (avcMf (q % 6) 0, 16 + q / 6) else (avcMf (q % 6) (coefClass (i % 16)), 15 + q / 6)
  else (nthD 0 [26214, 23302, 20560, 18396, 16384, 14564] (q % 6), 14 + q / 6 + (7 - Nat.log2 (blockSide p)))

/-- The residual block that the levels of a plane give. -/
def residual420 (codec p : Nat) (intra : Bool) (qp : Nat) (ls : List Int) : List Int := if codec = 0 then avcResidual p intra qp ls else hevcResidual p qp ls

/-! ### Deblocking (H.264 8.7, HEVC 8.7.2) -/

/-- The coded blocks of a picture by the place of their luma. -/
abbrev Coded := List ((Nat × Nat) × CodedBlock)

/-- The block that holds a luma sample. -/
def Coded.at (cs : Coded) (x y : Nat) : Option CodedBlock := (cs.find? (fun c => c.1.1 == x / 16 * 16 && c.1.2 == y / 16 * 16)).map Prod.snd

/-- Whether the vectors of two blocks differ by a luma sample or more. -/
def vectorsDiffer (a b : CodedBlock) : Bool := a.mvx != b.mvx || a.mvy != b.mvy

/-- Whether the 4 × 4 luma block of H.264 that holds a sample has a level. -/
def avcCoded (b : CodedBlock) (x y : Nat) : Bool := (((nthD [] b.levels 0).drop (16 * (y % 16 / 4 * 4 + x % 16 / 4))).take 16).any (· != 0)

/-- The strength of the edge of H.264 between the samples p0 and q0. -/
def avcStrength (cs : Coded) (px py qx qy : Nat) : Nat :=
  match cs.at px py, cs.at qx qy with
  | some a, some b =>
    let inner := px / 16 == qx / 16 && py / 16 == qy / 16
    if a.intra || b.intra then (if inner then 3 else 4)
    else if avcCoded a px py || avcCoded b qx qy then 2 else if vectorsDiffer a b then 1 else 0
  | _, _ => 0

/-- The strength of the edge of HEVC: of CUs, with a transform unit each. -/
def hevcStrength (cs : Coded) (px py qx qy : Nat) : Nat :=
  match cs.at px py, cs.at qx qy with
  | some a, some b =>
    if a.intra || b.intra then 2
    else if (nthD [] a.levels 0).any (· != 0) || (nthD [] b.levels 0).any (· != 0) || vectorsDiffer a b then 1 else 0
  | _, _ => 0

/-- The QPs of a plane on the two sides of an edge. -/
def edgeQps (cs : Coded) (px py qx qy : Nat) : Nat × Nat := (((cs.at px py).map CodedBlock.qp).getD 0, ((cs.at qx qy).map CodedBlock.qp).getD 0)

/-- The thresholds of H.264 by the index, and tC0 by the index and the strength. -/
def avcAlpha (i : Nat) : Int :=
  nthD 0 [4, 4, 5, 6, 7, 8, 9, 10, 12, 13, 15, 17, 20, 22, 25, 28, 32, 36, 40, 45, 50, 56, 63, 71, 80, 90, 101, 113, 127, 144, 162, 182, 203, 226, 255, 255] (i - 16)
    * (if i < 16 then 0 else 1)
def avcBeta (i : Nat) : Int :=
  nthD 0 [2, 2, 2, 3, 3, 3, 3, 4, 4, 4, 6, 6, 7, 7, 8, 8, 9, 9, 10, 10, 11, 11, 12, 12, 13, 13, 14, 14, 15, 15, 16, 16, 17, 17, 18, 18] (i - 16) * (if i < 16 then 0 else 1)
def avcTc0 (i bs : Nat) : Int :=
  if i < 17 then 0
  else nthD 0 (nthD [] [[0, 0, 1], [0, 0, 1], [0, 0, 1], [0, 0, 1], [0, 1, 1], [0, 1, 1], [1, 1, 1], [1, 1, 1], [1, 1, 1], [1, 1, 1], [1, 1, 2], [1, 1, 2], [1, 1, 2],
    [1, 1, 2], [1, 2, 3], [1, 2, 3], [2, 2, 3], [2, 2, 4], [2, 3, 4], [2, 3, 4], [3, 3, 5], [3, 4, 6], [3, 4, 6], [4, 5, 7], [4, 5, 8], [4, 6, 9], [5, 7, 10],
    [6, 8, 11], [6, 8, 13], [7, 10, 14], [8, 11, 16], [9, 12, 18], [10, 13, 20], [11, 15, 23], [13, 17, 25]] (i - 17)) (bs - 1)

/-- A value kept within ±t of another; the samples across an edge: number k of side p (below 0: p0 is −1) or q, whose first is at i, s apart. -/
def within' (c t x : Int) : Int := max (c - t) (min (c + t) x)
def across (a : Octets) (i s : Nat) (k : Int) : Int := (a[((i : Int) + k * s).toNat]?).getD 0

/-- Samples across an edge replaced. -/
def putAcross (a : Octets) (i s : Nat) (vs : List (Int × Int)) : Octets := vs.foldl (fun a v => a.setIfInBounds ((i : Int) + v.1 * s).toNat (clampTo 255 v.2)) a

/-- One line across an edge of H.264 filtered (8.7.2.3, 8.7.2.4). -/
def avcLine (luma : Bool) (bs qav : Nat) (i s : Nat) (a : Octets) : Octets :=
  let q (k : Nat) : Int := across a i s k
  let p (k : Nat) : Int := across a i s (-1 - (k : Int))
  let al := avcAlpha qav; let be := avcBeta qav
  if bs = 0 ∨ al ≤ (p 0 - q 0).natAbs ∨ be ≤ (p 1 - p 0).natAbs ∨ be ≤ (q 1 - q 0).natAbs then a
  else
    let ap := luma && decide (((p 2 - p 0).natAbs : Int) < be); let aq := luma && decide (((q 2 - q 0).natAbs : Int) < be)
    if bs < 4 then
      let t0 := avcTc0 qav bs
      let tc := if luma then t0 + b2n ap + b2n aq else t0 + 1
      let d := within' 0 tc (sar ((q 0 - p 0) * 4 + (p 1 - q 1) + 4) 3)
      let side (x0 x1 x2 y0 : Int) : Int := x1 + within' 0 t0 (sar (x2 + sar (x0 + y0 + 1) 1 - 2 * x1) 1)
      putAcross a i s ([(-1, p 0 + d), (0, q 0 - d)] ++ (if ap then [(-2, side (p 0) (p 1) (p 2) (q 0))] else []) ++ (if aq then [(1, side (q 0) (q 1) (q 2) (p 0))] else []))
    else
      let small := decide (((p 0 - q 0).natAbs : Int) < sar al 2 + 2)
      let strong (x0 x1 x2 x3 y0 y1 : Int) : List Int := [sar (x2 + 2 * x1 + 2 * x0 + 2 * y0 + y1 + 4) 3, sar (x2 + x1 + x0 + y0 + 2) 2, sar (2 * x3 + 3 * x2 + x1 + x0 + y0 + 4) 3]
      let weak (x0 x1 y1 : Int) : List Int := [sar (2 * x1 + x0 + y1 + 2) 2]
      let ps := if ap && small then strong (p 0) (p 1) (p 2) (p 3) (q 0) (q 1) else weak (p 0) (p 1) (q 1)
      let qs := if aq && small then strong (q 0) (q 1) (q 2) (q 3) (p 0) (p 1) else weak (q 0) (q 1) (p 1)
      putAcross a i s ((ps.zipIdx).map (fun e => (-1 - (e.2 : Int), e.1)) ++ (qs.zipIdx).map (fun e => ((e.2 : Int), e.1)))

/-- The edges of one macroblock of H.264 in a plane filtered: the vertical ones from left to right, then the horizontal ones. -/
def avcBlockEdges (cs : Coded) (p w : Nat) (a : Octets) (x y : Nat) : Octets :=
  let n := blockSide p; let k := 16 / n
  let run (vert : Bool) (a : Octets) : Octets :=
    (List.range (n / 4)).foldl (fun a e =>
      if e = 0 ∧ (if vert then x else y) = 0 then a
      else (List.range n).foldl (fun a t =>
        let qx := if vert then x / k + 4 * e else x / k + t; let qy := if vert then y / k + t else y / k + 4 * e
        let lx := if vert then qx * k - 1 else qx * k; let ly := if vert then qy * k else qy * k - 1
        let bs := avcStrength cs lx ly (qx * k) (qy * k)
        let qs := edgeQps cs lx ly (qx * k) (qy * k)
        avcLine (p == 0) bs ((planeQp 0 p qs.1 + planeQp 0 p qs.2 + 1) / 2) (qy * w + qx) (if vert then 1 else w) a) a) a
  run false (run true a)

/-- The thresholds of HEVC. -/
def hevcBeta (q : Nat) : Int := if q < 16 then 0 else if q ≤ 28 then (q : Int) - 10 else 2 * (q : Int) - 38
def hevcTc (q : Nat) : Int :=
  if q < 18 then 0
  else nthD 24 [1, 1, 1, 1, 1, 1, 1, 1, 1, 2, 2, 2, 2, 3, 3, 3, 3, 4, 4, 4, 5, 5, 6, 6, 7, 8, 9, 10, 11, 13, 14, 16, 18, 20, 22, 24] (q - 18)

/-- Four lines across a luma edge of HEVC filtered (8.7.2.5.3, 8.7.2.5.6, 8.7.2.5.7): the lines are `l` apart, the first at i. -/
def hevcLuma (bs qp : Nat) (i s l : Nat) (a : Octets) : Octets :=
  let be := hevcBeta (min 51 qp); let tc := hevcTc (min 53 (qp + 2 * (bs - 1)))
  let q (t k : Nat) : Int := across a (i + t * l) s k
  let p (t k : Nat) : Int := across a (i + t * l) s (-1 - (k : Int))
  let dp (t : Nat) : Int := (p t 2 - 2 * p t 1 + p t 0).natAbs
  let dq (t : Nat) : Int := (q t 2 - 2 * q t 1 + q t 0).natAbs
  if bs = 0 ∨ be ≤ dp 0 + dq 0 + dp 3 + dq 3 then a
  else
    let sam (t : Nat) : Bool := decide (2 * (dp t + dq t) < sar be 2) && decide ((((p t 3 - p t 0).natAbs + (q t 0 - q t 3).natAbs : Nat) : Int) < sar be 3)
      && decide (((p t 0 - q t 0).natAbs : Int) < sar (5 * tc + 1) 1)
    let strong := sam 0 && sam 3
    let side := sar (be + sar be 1) 3
    let ep := decide (dp 0 + dp 3 < side); let eq := decide (dq 0 + dq 3 < side)
    (List.range 4).foldl (fun b t =>
      let q (k : Nat) : Int := q t k
      let p (k : Nat) : Int := p t k
      let j := i + t * l
      if strong then
        let three (x0 x1 x2 x3 y0 y1 : Int) : List Int := [within' x0 (2 * tc) (sar (x2 + 2 * x1 + 2 * x0 + 2 * y0 + y1 + 4) 3),
          within' x1 (2 * tc) (sar (x2 + x1 + x0 + y0 + 2) 2), within' x2 (2 * tc) (sar (2 * x3 + 3 * x2 + x1 + x0 + y0 + 4) 3)]
        putAcross b j s (((three (p 0) (p 1) (p 2) (p 3) (q 0) (q 1)).zipIdx).map (fun e => (-1 - (e.2 : Int), e.1))
          ++ ((three (q 0) (q 1) (q 2) (q 3) (p 0) (p 1)).zipIdx).map (fun e => ((e.2 : Int), e.1)))
      else
        let d0 := sar (9 * (q 0 - p 0) - 3 * (q 1 - p 1) + 8) 4
        if tc * 10 ≤ d0.natAbs then b
        else
          let d := within' 0 tc d0
          putAcross b j s ([(-1, p 0 + d), (0, q 0 - d)]
            ++ (if ep then [(-2, p 1 + within' 0 (sar tc 1) (sar (sar (p 2 + p 0 + 1) 1 - p 1 + d) 1))] else [])
            ++ (if eq then [(1, q 1 + within' 0 (sar tc 1) (sar (sar (q 2 + q 0 + 1) 1 - q 1 - d) 1))] else []))) a

/-- A line across a chroma edge of HEVC filtered (8.7.2.5.5, 8.7.2.5.8). -/
def hevcChroma (bs qp : Nat) (i s : Nat) (a : Octets) : Octets :=
  if bs < 2 then a
  else
    let tc := hevcTc (min 53 (planeQp 1 1 qp + 2))
    let d := within' 0 tc (sar ((across a i s 0 - across a i s (-1)) * 4 + across a i s (-2) - across a i s 1 + 4) 3)
    putAcross a i s [(-1, across a i s (-1) + d), (0, across a i s 0 - d)]

/-- The edges of one direction of a picture's CUs in a plane filtered. -/
def hevcEdges (cs : Coded) (p w h : Nat) (vert : Bool) (a : Octets) : Octets :=
  let n := blockSide p; let k := 16 / n
  let along := if vert then h else w
  (List.range ((if vert then w else h) / n)).foldl (fun a e =>
    if e = 0 then a
    else (List.range (along / 4)).foldl (fun a g =>
      let qx := if vert then n * e else 4 * g; let qy := if vert then 4 * g else n * e
      let lx := if vert then qx * k - 1 else qx * k; let ly := if vert then qy * k else qy * k - 1
      let bs := hevcStrength cs lx ly (qx * k) (qy * k)
      let qs := edgeQps cs lx ly (qx * k) (qy * k)
      let qp := (qs.1 + qs.2 + 1) / 2
      let s := if vert then 1 else w; let l := if vert then w else 1
      if p = 0 then hevcLuma bs qp (qy * w + qx) s l a
      else (List.range 4).foldl (fun a t => hevcChroma bs qp (qy * w + qx + t * l) s a) a) a) a

/-- The planes of a picture behind the deblocking filter. -/
def loopFilter (codec : Nat) (v : Yuv) (cs : Coded) : Yuv :=
  { v with planes := (v.planes.zipIdx).map (fun e =>
      let p := e.2; let a := e.1.toArray
      (if codec = 0 then
        (List.range (v.h / 16)).foldl (fun a r => (List.range (v.w / 16)).foldl (fun a c => avcBlockEdges cs p (v.pw p) a (16 * c) (16 * r)) a) a
      else hevcEdges cs p (v.pw p) (v.ph p) false (hevcEdges cs p (v.pw p) (v.ph p) true a)).toList) }

end Sys2Proof.Machine
end

