-- ==== Sys2Proof/Machine/Cabac.lean ====
section
/-! DEFINITION. The arithmetic coder of H.264 and H.265 and the bins that the blocks of a picture of REENCODE put into it: how many bits it has emitted or
holds outstanding (12 R350, R351; H.264 9.3, HEVC 9.3: PRESUMED, notes/assumptions/43.md). -/
namespace Sys2Proof.Machine

/-! ### The coder (H.264 9.3.4.2) -/

/-- A bin: of a context, bypassed, or before the end. -/
inductive Bin where
  | ctx (i : Nat) (b : Bool)
  | bypass (b : Bool)
  | term (b : Bool)
deriving DecidableEq, Repr

/-- The range of the less probable symbol by state and quarter of the range, and the state after one. -/
def rangeLps : List (List Nat) := List.flatten [
  [[128, 176, 208, 240], [128, 167, 197, 227], [128, 158, 187, 216], [123, 150, 178, 205], [116, 142, 169, 195], [111, 135, 160, 185], [105, 128, 152, 175],
    [100, 122, 144, 166], [95, 116, 137, 158], [90, 110, 130, 150], [85, 104, 123, 142], [81, 99, 117, 135], [77, 94, 111, 128], [73, 89, 105, 122], [69, 85, 100, 116],
    [66, 80, 95, 110], [62, 76, 90, 104], [59, 72, 86, 99], [56, 69, 81, 94], [53, 65, 77, 89], [51, 62, 73, 85], [48, 59, 69, 80], [46, 56, 66, 76], [43, 53, 63, 72],
    [41, 50, 59, 69], [39, 48, 56, 65], [37, 45, 54, 62], [35, 43, 51, 59], [33, 41, 48, 56], [32, 39, 46, 53], [30, 37, 43, 50], [29, 35, 41, 48], [27, 33, 39, 45],
    [26, 31, 37, 43], [24, 30, 35, 41], [23, 28, 33, 39], [22, 27, 32, 37], [21, 26, 30, 35], [20, 24, 29, 33], [19, 23, 27, 31], [18, 22, 26, 30], [17, 21, 25, 28]],
  [[16, 20, 23, 27], [15, 19, 22, 25], [14, 18, 21, 24], [14, 17, 20, 23], [13, 16, 19, 22], [12, 15, 18, 21], [12, 14, 17, 20], [11, 14, 16, 19], [11, 13, 15, 18],
    [10, 12, 15, 17], [10, 12, 14, 16], [9, 11, 13, 15], [9, 11, 12, 14], [8, 10, 12, 14], [8, 9, 11, 13], [7, 9, 11, 12], [7, 9, 10, 12], [7, 8, 10, 11], [6, 8, 9, 11],
    [6, 7, 9, 10], [6, 7, 8, 9], [2, 2, 2, 2]]]
def transLps : List Nat :=
  [0, 0, 1, 2, 2, 4, 4, 5, 6, 7, 8, 9, 9, 11, 11, 12, 13, 13, 15, 15, 16, 16, 18, 18, 19, 19, 21, 21, 22, 22, 23, 24, 24, 25, 26, 26, 27, 27, 28, 29, 29, 30, 30, 30,
    31, 32, 32, 33, 33, 33, 34, 34, 35, 35, 35, 36, 36, 36, 37, 37, 37, 38, 38, 63]

/-- The encoder: low, range, outstanding bits, bits emitted, whether the first bit is still to come, and of each context its state × 2 + its more probable
symbol. -/
structure Coder where
  low : Nat := 0
  range : Nat := 510
  outstanding : Nat := 0
  emitted : Nat := 0
  first : Bool := true
  states : Octets

/-- A bit put: the first one is not emitted, and the outstanding ones follow it. -/
def Coder.putBit (c : Coder) : Coder :=
  { c with emitted := c.emitted + c.outstanding + b2n (!c.first), outstanding := 0, first := false }

/-- The renormalisation. -/
def Coder.renorm : Nat → Coder → Coder
  | 0, c => c
  | n + 1, c =>
    if 256 ≤ c.range then c
    else
      let d := if c.low < 256 then c.putBit
        else if 512 ≤ c.low then { c.putBit with low := c.low - 512 }
        else { c with low := c.low - 256, outstanding := c.outstanding + 1 }
      Coder.renorm n { d with range := 2 * d.range, low := 2 * d.low }

/-- A bin encoded. -/
def Coder.put (c : Coder) (b : Bin) : Coder :=
  match b with
  | .ctx i v =>
    let st := (c.states[i]?).getD 0
    let s := st / 2; let mps := st % 2 == 1
    let r := nthD 0 (nthD [] rangeLps s) (c.range / 64 % 4)
    if v = mps then ({ c with range := c.range - r, states := c.states.setIfInBounds i (2 * (if s < 62 then s + 1 else s) + b2n mps) } : Coder).renorm 8
    else ({ c with low := c.low + (c.range - r), range := r
                   states := c.states.setIfInBounds i (2 * nthD 0 transLps s + b2n (if s = 0 then !mps else mps)) } : Coder).renorm 8
  | .bypass v =>
    let l := 2 * c.low + (if v then c.range else 0)
    if 1024 ≤ l then { c.putBit with low := l - 1024 }
    else if l < 512 then { c.putBit with low := l }
    else { c with low := l - 512, outstanding := c.outstanding + 1 }
  | .term v => if v then { c with low := c.low + (c.range - 2), range := 2 } else ({ c with range := c.range - 2 } : Coder).renorm 8

/-- The state of a context by its initial pair and the slice QP. -/
def contextState (m n : Int) (qp : Nat) : Nat :=
  let s := (max 1 (min 126 (sar (m * (min 51 qp : Nat)) 4 + n))).toNat
  if s ≤ 63 then 2 * (63 - s) else 2 * (s - 64) + 1

/-- The bits emitted and outstanding after bins. -/
def bitsOf (states : Octets) (bins : List Bin) : Nat := let c := bins.foldl Coder.put { states := states }; c.emitted + c.outstanding

/-! ### Binarizations -/

/-- n bypassed bits of a value, the most significant first. -/
def fixedBins (n v : Nat) : List Bin := (List.range n).map (fun i => Bin.bypass (bitOf v (n - 1 - i)))

/-- An Exp-Golomb code of order k, bypassed; the fuel bounds its prefix. -/
def golombBins : Nat → Nat → Nat → List Bin
  | 0, _, _ => []
  | f + 1, k, v => if 2 ^ k ≤ v then Bin.bypass true :: golombBins f (k + 1) (v - 2 ^ k) else Bin.bypass false :: fixedBins k v

/-- Ones in number v and a zero, which is left out at the most; bin i has the context given. -/
def unaryBins (most v : Nat) (ctx : Nat → Nat) : List Bin :=
  (List.range (min v most)).map (fun i => Bin.ctx (ctx i) true) ++ (if v < most then [Bin.ctx (ctx v) false] else [])

/-! ### H.264 slice data (7.3.4, 7.3.5, 9.3.3) -/

/-- The initial pairs of an I slice: contexts 3 to 10, 60 to 69, 73 to 104, 105 to 165, 166 to 226, 227 to 275. -/
def avcInitI : List (Nat × List (Int × Int)) := List.flatten [
  [(3, [(20, -15), (2, 54), (3, 74), (-28, 127), (-23, 104), (-6, 53), (-1, 54), (7, 51)]),
    (60, [(0, 41), (0, 63), (0, 63), (0, 63), (-9, 83), (4, 86), (0, 97), (-7, 72), (13, 41), (3, 62)]),
    (73, [(-17, 127), (-13, 102), (0, 82), (-7, 74), (-21, 107), (-27, 127), (-31, 127), (-24, 127), (-18, 95), (-27, 127), (-21, 114), (-30, 127), (-17, 123),
      (-12, 115), (-16, 122), (-11, 115), (-12, 63), (-2, 68), (-15, 84), (-13, 104), (-3, 70), (-8, 93), (-10, 90), (-30, 127), (-1, 74), (-6, 97), (-7, 91),
      (-20, 127), (-4, 56), (-5, 82), (-7, 76), (-22, 125)])],
  [(105, [(-7, 93), (-11, 87), (-3, 77), (-5, 71), (-4, 63), (-4, 68), (-12, 84), (-7, 62), (-7, 65), (8, 61), (5, 56), (-2, 66), (1, 64), (0, 61), (-2, 78), (1, 50),
      (7, 52), (10, 35), (0, 44), (11, 38), (1, 45), (0, 46), (5, 44), (31, 17), (1, 51), (7, 50), (28, 19), (16, 33), (14, 62), (-13, 108), (-15, 100), (-13, 101),
      (-13, 91), (-12, 94), (-10, 88), (-16, 84), (-10, 86), (-7, 83), (-13, 87), (-19, 94), (1, 70), (0, 72), (-5, 74), (18, 59), (-8, 102), (-15, 100), (0, 95),
      (-4, 75), (2, 72), (-11, 75), (-3, 71), (15, 46), (-13, 69), (0, 62), (0, 65), (21, 37), (-15, 72), (9, 57), (16, 54), (0, 62), (12, 72)])],
  [(166, [(24, 0), (15, 9), (8, 25), (13, 18), (15, 9), (13, 19), (10, 37), (12, 18), (6, 29), (20, 33), (15, 30), (4, 45), (1, 58), (0, 62), (7, 61), (12, 38), (11, 45),
      (15, 39), (11, 42), (13, 44), (16, 45), (12, 41), (10, 49), (30, 34), (18, 42), (10, 55), (17, 51), (17, 46), (0, 89), (26, -19), (22, -17), (26, -17), (30, -25),
      (28, -20), (33, -23), (37, -27), (33, -23), (40, -28), (38, -17), (33, -11), (40, -15), (41, -6), (38, 1), (41, 17), (30, -6), (27, 3), (26, 22), (37, -16),
      (35, -4), (38, -8), (38, -3), (37, 3), (38, 5), (42, 0), (35, 16), (39, 22), (14, 48), (27, 37), (21, 60), (12, 68), (2, 97)])],
  [(227, [(-3, 71), (-6, 42), (-5, 50), (-3, 54), (-2, 62), (0, 58), (1, 63), (-2, 72), (-1, 74), (-9, 91), (-5, 67), (-5, 27), (-3, 39), (-2, 44), (0, 46), (-16, 64),
      (-8, 68), (-10, 78), (-6, 77), (-10, 86), (-12, 92), (-15, 55), (-10, 60), (-6, 62), (-4, 65), (-12, 73), (-8, 76), (-7, 80), (-9, 88), (-17, 110), (-11, 97),
      (-20, 84), (-11, 79), (-6, 73), (-4, 74), (-13, 86), (-13, 96), (-11, 97), (-19, 117), (-8, 78), (-5, 33), (-4, 48), (-2, 53), (-3, 62), (-13, 71), (-10, 79),
      (-12, 86), (-13, 90), (-14, 97)])]]

/-- The initial pairs of a P slice with cabac_init_idc 0: contexts 11 to 20, 40 to 53, 60 to 69, 73 to 104, 105 to 165, 166 to 226, 227 to 275. -/
def avcInitP : List (Nat × List (Int × Int)) := List.flatten [
  [(11, [(23, 33), (23, 2), (21, 0), (1, 9), (0, 49), (-37, 118), (5, 57), (-13, 78), (-11, 65), (1, 62)]),
    (40, [(-3, 69), (-6, 81), (-11, 96), (6, 55), (7, 67), (-5, 86), (2, 88), (0, 58), (-3, 76), (-10, 94), (5, 54), (4, 69), (-3, 81), (0, 88)]),
    (60, [(0, 41), (0, 63), (0, 63), (0, 63), (-9, 83), (4, 86), (0, 97), (-7, 72), (13, 41), (3, 62)]),
    (73, [(-27, 126), (-28, 98), (-25, 101), (-23, 67), (-28, 82), (-20, 94), (-16, 83), (-22, 110), (-21, 91), (-18, 102), (-13, 93), (-29, 127), (-7, 92), (-5, 89),
      (-7, 96), (-13, 108), (-3, 46), (-1, 65), (-1, 57), (-9, 93), (-3, 74), (-9, 92), (-8, 87), (-23, 126), (5, 54), (6, 60), (6, 59), (6, 69), (-1, 48), (0, 68),
      (-4, 69), (-8, 88)])],
  [(105, [(-2, 85), (-6, 78), (-1, 75), (-7, 77), (2, 54), (5, 50), (-3, 68), (1, 50), (6, 42), (-4, 81), (1, 63), (-4, 70), (0, 67), (2, 57), (-2, 76), (11, 35),
      (4, 64), (1, 61), (11, 35), (18, 25), (12, 24), (13, 29), (13, 36), (-10, 93), (-7, 73), (-2, 73), (13, 46), (9, 49), (-7, 100), (9, 53), (2, 53), (5, 53),
      (-2, 61), (0, 56), (0, 56), (-13, 63), (-5, 60), (-1, 62), (4, 57), (-6, 69), (4, 57), (14, 39), (4, 51), (13, 68), (3, 64), (1, 61), (9, 63), (7, 50), (16, 39),
      (5, 44), (4, 52), (11, 48), (-5, 60), (-1, 59), (0, 59), (22, 33), (5, 44), (14, 43), (-1, 78), (0, 60), (9, 69)])],
  [(166, [(11, 28), (2, 40), (3, 44), (0, 49), (0, 46), (2, 44), (2, 51), (0, 47), (4, 39), (2, 62), (6, 46), (0, 54), (3, 54), (2, 58), (4, 63), (6, 51), (6, 57), (7, 53),
      (6, 52), (6, 55), (11, 45), (14, 36), (8, 53), (-1, 82), (7, 55), (-3, 78), (15, 46), (22, 31), (-1, 84), (25, 7), (30, -7), (28, 3), (28, 4), (32, 0), (34, -1),
      (30, 6), (30, 6), (32, 9), (31, 19), (26, 27), (26, 30), (37, 20), (28, 34), (17, 70), (1, 67), (5, 59), (9, 67), (16, 30), (18, 32), (18, 35), (22, 29), (24, 31),
      (23, 38), (18, 43), (20, 41), (11, 63), (9, 59), (9, 64), (-1, 94), (-2, 89), (-9, 108)])],
  [(227, [(-6, 76), (-2, 44), (0, 45), (0, 52), (-3, 64), (-2, 59), (-4, 70), (-4, 75), (-8, 82), (-17, 102), (-9, 77), (3, 24), (0, 42), (0, 48), (0, 55), (-6, 59),
      (-7, 71), (-12, 83), (-11, 87), (-30, 119), (1, 58), (-3, 29), (-1, 36), (1, 38), (2, 43), (-6, 55), (0, 58), (0, 64), (-3, 74), (-10, 90), (0, 70), (-4, 29),
      (5, 31), (7, 42), (1, 59), (-2, 58), (-3, 72), (-3, 81), (-11, 97), (0, 58), (8, 5), (10, 14), (14, 18), (13, 27), (2, 40), (0, 58), (-3, 70), (-6, 79), (-8, 85)])]]

/-- The states of the contexts at the start of a slice of H.264. -/
def avcStates (inter : Bool) (qp : Nat) : Octets :=
  (if inter then avcInitP else avcInitI).foldl (fun a r => (r.2.zipIdx).foldl (fun a e => a.setIfInBounds (r.1 + e.2) (contextState e.1.1 e.1.2 qp)) a)
    (List.replicate 276 0).toArray

/-- The levels of 4 × 4 block k of a plane, row by row, and in the order of the zigzag scan. -/
def avcTile (b : CodedBlock) (p k : Nat) : List Int := ((nthD [] b.levels p).drop (16 * k)).take 16
def avcScan (b : CodedBlock) (p k : Nat) : List Int := [0, 1, 4, 8, 5, 2, 3, 6, 9, 12, 13, 10, 7, 11, 14, 15].map (fun i => nthD 0 (avcTile b p k) i)

/-- The levels coded as a block of a category: 0 the luma DC of Intra16×16, 1 a luma AC block of it, 2 a luma block, 3 chroma DC, 4 a chroma AC block. -/
def avcLevels (b : CodedBlock) (cat p k : Nat) : List Int :=
  match cat with
  | 0 => [0, 1, 4, 8, 5, 2, 3, 6, 9, 12, 13, 10, 7, 11, 14, 15].map (fun i => nthD 0 (avcTile b 0 i) 0)
  | 2 => avcScan b p k
  | 3 => (List.range 4).map (fun i => nthD 0 (avcTile b p i) 0)
  | _ => (avcScan b p k).drop 1

/-- The block of 4 × 4 number i in coding order: its place row by row. -/
def avcBlk (i : Nat) : Nat := (i / 8 * 2 + i % 4 / 2) * 4 + (i / 4 % 2 * 2 + i % 2)

/-- The luma category of a macroblock, and whether levels are there. -/
def avcCat (b : CodedBlock) : Nat := if b.intra then 1 else 2
def anyLevel (l : List Int) : Bool := l.any (· != 0)

/-- CodedBlockPatternLuma as bits, and CodedBlockPatternChroma. -/
def avcCbpBit (b : CodedBlock) (i : Nat) : Bool :=
  if b.intra then (List.range 16).any (fun k => anyLevel (avcLevels b 1 0 k)) else (List.range 4).any (fun k => anyLevel (avcLevels b 2 0 (avcBlk (4 * i + k))))
def avcCbpChroma (b : CodedBlock) : Nat :=
  if [1, 2].any (fun p => (List.range 4).any (fun k => anyLevel (avcLevels b 4 p k))) then 2 else if [1, 2].any (fun p => anyLevel (avcLevels b 3 p 0)) then 1 else 0

/-- Whether a block sends its QP: Intra16×16 always in H.264, else one with levels. -/
def CodedBlock.sendsQp (codec : Nat) (b : CodedBlock) : Bool := (codec == 0 && b.intra) || b.levels.any anyLevel

/-- The macroblocks beside one: left, above. -/
def Coded.left (cs : Coded) (x y : Nat) : Option CodedBlock := if x = 0 then none else cs.at (x - 16) y
def Coded.above (cs : Coded) (x y : Nat) : Option CodedBlock := if y = 0 then none else cs.at x (y - 16)

/-- coded_block_flag of a neighbouring block of a category for the context (9.3.3.1.1.9): that of an absent macroblock is set for an intra one. -/
def avcFlagOf (cur : CodedBlock) (n : Option CodedBlock) (cat p k : Nat) : Nat :=
  match n with
  | none => b2n cur.intra
  | some b => b2n (match cat with
    | 0 => b.intra && anyLevel (avcLevels b 0 0 0)
    | 1 | 2 => anyLevel (avcLevels b (avcCat b) 0 k)
    | c => anyLevel (avcLevels b c p k))

/-- Level magnitudes in reverse scan order, with how many were 1 and how many greater (9.3.3.1.3). -/
def avcMagnitudes (cat : Nat) : List Int → Nat → Nat → List Bin
  | [], _, _ => []
  | l :: ls, eq1, gt1 =>
    let v := l.natAbs - 1
    let base := 227 + nthD 0 [0, 10, 20, 30, 39] cat
    let c (i : Nat) : Nat := base + (if i = 0 then (if gt1 ≠ 0 then 0 else min 4 (1 + eq1)) else 5 + min (if cat = 3 then 3 else 4) gt1)
    unaryBins 14 v c ++ (if 14 ≤ v then golombBins 32 0 (v - 14) else []) ++ [Bin.bypass (decide (l < 0))]
      ++ avcMagnitudes cat ls (if v = 0 then eq1 + 1 else eq1) (if v = 0 then gt1 else gt1 + 1)

/-- residual_block_cabac (7.3.5.3.3): the flag, the significance map, the levels. -/
def avcResidualBins (cs : Coded) (x y : Nat) (b : CodedBlock) (cat p k : Nat) : List Bin :=
  let ls := avcLevels b cat p k
  let m := if cat = 3 ∨ cat = 0 then 0 else if cat = 4 then 2 else 4
  let fa := if m = 0 ∨ k % m = 0 then avcFlagOf b (cs.left x y) cat p (k + (m - 1)) else avcFlagOf b (some b) cat p (k - 1)
  let fb := if m = 0 ∨ k < m then avcFlagOf b (cs.above x y) cat p (k + m * (m - 1)) else avcFlagOf b (some b) cat p (k - m)
  let flag : Bin := Bin.ctx (85 + 4 * cat + fa + 2 * fb) (anyLevel ls)
  if !anyLevel ls then [flag]
  else
    let n := ls.length
    let last := (((ls.zipIdx).filter (fun e => e.1 != 0)).getLast?.map Prod.snd).getD 0
    let off := nthD 0 [0, 15, 29, 44, 47] cat
    let inc (i : Nat) : Nat := off + (if cat = 3 then min i 2 else i)
    let map := (List.range (min (last + 1) (n - 1))).flatMap (fun i =>
      if nthD 0 ls i = 0 then [Bin.ctx (105 + inc i) false] else [Bin.ctx (105 + inc i) true, Bin.ctx (166 + inc i) (i == last)])
    flag :: map ++ avcMagnitudes cat ((ls.filter (· != 0)).reverse) 0 0

/-- The vector of a neighbour for the prediction: none where it is not there; an intra one has no reference. -/
def avcVector (n : Option CodedBlock) : Option (Option (Int × Int)) := n.map (fun b => if b.intra then none else some (4 * b.mvx, 4 * b.mvy))

/-- The middle of three. -/
def middle (a b c : Int) : Int := max (min a b) (min (max a b) c)

/-- The predicted vector of a 16 × 16 macroblock (8.4.1.3). -/
def avcPredicted (cs : Coded) (x y : Nat) : Int × Int :=
  let a := avcVector (cs.left x y)
  let b := avcVector (cs.above x y)
  let c := if y = 0 then none else (avcVector (cs.at (x + 16) (y - 16))).orElse (fun _ => avcVector (if x = 0 then none else cs.at (x - 16) (y - 16)))
  let (b, c) := if b.isNone && c.isNone && a.isSome then (a, a) else (b, c)
  match [a, b, c].filterMap (fun v => v.join) with
  | [v] => v
  | _ =>
    let z (v : Option (Option (Int × Int))) : Int × Int := (v.join).getD (0, 0)
    (middle (z a).1 (z b).1 (z c).1, middle (z a).2 (z b).2 (z c).2)

/-- The vector difference of an inter macroblock. -/
def avcMvd (cs : Coded) (x y : Nat) (b : CodedBlock) : Int × Int :=
  if b.intra then (0, 0) else let p := avcPredicted cs x y; (4 * b.mvx - p.1, 4 * b.mvy - p.2)

/-- A component of a vector difference, by the sum of the neighbours' magnitudes. -/
def avcMvdBins (base sum : Nat) (d : Int) : List Bin :=
  let v := d.natAbs
  let c (i : Nat) : Nat := base + (if i = 0 then (if sum < 3 then 0 else if sum ≤ 32 then 1 else 2) else min 6 (2 + i))
  unaryBins 9 v c ++ (if 9 ≤ v then golombBins 32 3 (v - 9) else []) ++ (if v = 0 then [] else [Bin.bypass (decide (d < 0))])

/-- mb_type of an Intra16×16 macroblock, behind the prefix of a P slice in one. -/
def avcIntraType (cs : Coded) (inter : Bool) (x y : Nat) (b : CodedBlock) : List Bin :=
  let luma := avcCbpBit b 0; let chroma := avcCbpChroma b
  let near := b2n (cs.left x y).isSome + b2n (cs.above x y).isSome
  let c (i : Nat) : Nat := nthD 0 (if inter then [17, 18, 19, 19, 20, 20] else [3 + near, 6, 7, 8, 9, 10]) i
  [Bin.ctx (c 0) true, Bin.term false, Bin.ctx (c 1) luma, Bin.ctx (c 2) (chroma != 0)] ++ (if chroma = 0 then [] else [Bin.ctx (c 3) (chroma == 2)])
    ++ [Bin.ctx (c 4) (bitOf b.mode 1), Bin.ctx (c 5) (bitOf b.mode 0)]

/-- coded_block_pattern of an inter macroblock. -/
def avcCbpBins (cs : Coded) (x y : Nat) (b : CodedBlock) : List Bin :=
  let clear (n : Option CodedBlock) (i : Nat) : Nat := match n with | some m => b2n (!avcCbpBit m i) | none => 0
  let luma := (List.range 4).map (fun i =>
    let a := if i % 2 = 1 then clear (some b) (i - 1) else clear (cs.left x y) (i + 1)
    let u := if 2 ≤ i then clear (some b) (i - 2) else clear (cs.above x y) (i + 2)
    (Bin.ctx (73 + a + 2 * u) (avcCbpBit b i) : Bin))
  let chroma := avcCbpChroma b
  let near (f : Nat → Bool) : Nat := b2n ((cs.left x y).any (fun n => f (avcCbpChroma n))) + 2 * b2n ((cs.above x y).any (fun n => f (avcCbpChroma n)))
  luma ++ [Bin.ctx (77 + near (· != 0)) (chroma != 0)] ++ (if chroma = 0 then [] else [Bin.ctx (81 + near (· == 2)) (chroma == 2)])

/-- A signed number as an unsigned one: 1, −1, 2, −2, … -/
def unsignedOf (d : Int) : Nat := if 0 < d then 2 * d.natAbs - 1 else 2 * d.natAbs

/-- A macroblock: no skip, its type, its vector or its chroma mode, its pattern, the QP against the one before, its residual, the end flag. `prev`: the QP before
it, and whether the macroblock before it had a difference. -/
def avcBins (inter : Bool) (cs : Coded) (x y : Nat) (b : CodedBlock) (prev : Nat × Bool) : List Bin :=
  let near := b2n (cs.left x y).isSome + b2n (cs.above x y).isSome
  let skip : List Bin := if inter then [Bin.ctx (11 + near) false] else []
  let d := avcMvd cs x y b
  let dn (n : Option CodedBlock) (x y : Nat) : Int × Int := match n with | some m => avcMvd cs x y m | none => (0, 0)
  let da := dn (cs.left x y) (x - 16) y; let du := dn (cs.above x y) x (y - 16)
  let head : List Bin :=
    if b.intra then (if inter then [Bin.ctx 14 true] else []) ++ avcIntraType cs inter x y b ++ [Bin.ctx 64 false]
    else [Bin.ctx 14 false, Bin.ctx 15 false, Bin.ctx 16 false] ++ avcMvdBins 40 (da.1.natAbs + du.1.natAbs) d.1 ++ avcMvdBins 47 (da.2.natAbs + du.2.natAbs) d.2 ++ avcCbpBins cs x y b
  let v := unsignedOf ((b.qp : Int) - prev.1)
  let qp := if b.sendsQp 0 then unaryBins 256 v (fun i => if i = 0 then 60 + b2n prev.2 else if i = 1 then 62 else 63) else []
  let luma := (if b.intra then avcResidualBins cs x y b 0 0 0 else []) ++ (List.range 16).flatMap (fun i =>
    if avcCbpBit b (i / 4) then avcResidualBins cs x y b (avcCat b) 0 (avcBlk i) else [])
  let chroma := (if avcCbpChroma b = 0 then [] else [1, 2].flatMap (fun p => avcResidualBins cs x y b 3 p 0))
    ++ (if avcCbpChroma b = 2 then [1, 2].flatMap (fun p => (List.range 4).flatMap (fun k => avcResidualBins cs x y b 4 p k)) else [])
  skip ++ head ++ qp ++ luma ++ chroma ++ [Bin.term false]

/-- The bins of the macroblocks of a picture coded so far. -/
def avcPicture (inter : Bool) (sliceQp : Nat) (cs : Coded) : List Bin :=
  (cs.foldl (fun (a : List (List Bin) × (Nat × Bool)) c =>
    (avcBins inter cs c.1.1 c.1.2 c.2 a.2 :: a.1, (c.2.qp, c.2.qp != a.2.1))) ([], (sliceQp, false))).1.reverse.flatten

/-! ### HEVC slice data (7.3.8, 9.3.4) -/

/-- The initial values of the contexts, of an I slice and of a P slice, in the order of `HevcCtx`. -/
def hevcInit (inter : Bool) : List Nat :=
  if inter then List.flatten [
    [107, 139, 126, 197, 185, 201, 149, 154, 154, 152, 79, 110, 168, 140, 198, 153, 111, 149, 107, 167, 154, 154, 154],
    [125, 110, 94, 110, 95, 79, 125, 111, 110, 78, 110, 111, 111, 95, 94, 108, 123, 108],
    [125, 110, 94, 110, 95, 79, 125, 111, 110, 78, 110, 111, 111, 95, 94, 108, 123, 108],
    [121, 140, 61, 154],
    [155, 154, 139, 153, 139, 123, 123, 63, 153, 166, 183, 140, 136, 153, 154, 166, 183, 140, 136, 153, 154, 166, 183, 140, 136, 153, 154, 170, 153, 123, 123, 107, 121,
      107, 121, 167, 151, 183, 140, 151, 183, 140],
    [154, 196, 196, 167, 154, 152, 167, 182, 182, 134, 149, 136, 153, 121, 136, 137, 169, 194, 166, 167, 154, 167, 137, 182],
    [107, 167, 91, 122, 107, 167]]
  else List.flatten [
    [139, 141, 157, 154, 154, 154, 154, 184, 184, 63, 154, 154, 154, 154, 154, 111, 141, 94, 138, 182, 154, 154, 154],
    [110, 110, 124, 125, 140, 153, 125, 127, 140, 109, 111, 143, 127, 111, 79, 108, 123, 63],
    [110, 110, 124, 125, 140, 153, 125, 127, 140, 109, 111, 143, 127, 111, 79, 108, 123, 63],
    [91, 171, 134, 141],
    [111, 111, 125, 110, 110, 94, 124, 108, 124, 107, 125, 141, 179, 153, 125, 107, 125, 141, 179, 153, 125, 107, 125, 141, 179, 153, 125, 140, 139, 182, 182, 152, 136,
      152, 136, 153, 136, 139, 111, 136, 139, 111],
    [140, 92, 137, 138, 140, 152, 138, 139, 153, 74, 149, 92, 139, 107, 122, 152, 140, 179, 166, 182, 140, 227, 122, 197],
    [138, 153, 136, 167, 152, 152]]

/-- The first context of each syntax element. -/
structure HevcCtx where
  split : Nat := 0
  skip : Nat := 3
  predMode : Nat := 6
  partMode : Nat := 7
  prevIntra : Nat := 8
  chromaMode : Nat := 9
  rootCbf : Nat := 10
  merge : Nat := 11
  mvp : Nat := 12
  mvdZero : Nat := 13
  mvdOne : Nat := 14
  cbfLuma : Nat := 15
  cbfChroma : Nat := 17
  qpDelta : Nat := 21
  lastX : Nat := 23
  lastY : Nat := 41
  subBlock : Nat := 59
  sig : Nat := 63
  greater1 : Nat := 105
  greater2 : Nat := 129

def hc : HevcCtx := {}

/-- The states of the contexts at the start of a slice of HEVC. -/
def hevcStates (inter : Bool) (qp : Nat) : Octets :=
  ((hevcInit inter).map (fun v => contextState (5 * (v / 16 : Nat) - 45) (8 * (v % 16 : Nat) - 16) qp)).toArray

/-- The up-right diagonal scan of an n × n block. -/
def diagonal (n : Nat) : List (Nat × Nat) :=
  (List.range (2 * n - 1)).flatMap (fun d => ((List.range (d + 1)).map (fun x => (x, d - x))).filter (fun e => decide (e.1 < n) && decide (e.2 < n)))

/-- A coordinate of the last level: its prefix in contexts of a base, and its suffix. -/
def lastPrefix (k base offset shift v : Nat) : List Bin :=
  unaryBins (2 * k - 1) (nthD 7 [0, 1, 2, 3, 4, 4, 5, 5, 6, 6, 6, 6, 7, 7, 7, 7] v) (fun i => base + offset + i / 2 ^ shift)
def lastSuffix (v : Nat) : List Bin := if v < 4 then [] else if v < 8 then fixedBins 1 v else fixedBins 2 v

/-- coeff_abs_level_remaining (9.3.3.11). -/
def remainingBins (rice v : Nat) : List Bin :=
  if v < 3 * 2 ^ rice then List.replicate (v / 2 ^ rice) (Bin.bypass true) ++ [Bin.bypass false] ++ fixedBins rice v
  else List.replicate 3 (Bin.bypass true) ++ golombBins 32 rice (v - 3 * 2 ^ rice)

/-- The magnitudes left over of the levels of a sub-block, in reverse scan order: number i of them, the Rice parameter, whether none was above 1 yet. -/
def remainders : List Nat → Nat → Nat → Bool → List Bin
  | [], _, _, _ => []
  | a :: as, i, rice, none' =>
    let base := if i < 8 then 2 + b2n none' else 1
    (if base ≤ a then remainingBins rice (a - base) else [])
      ++ remainders as (i + 1) (if base ≤ a ∧ 3 * 2 ^ rice < a then min 4 (rice + 1) else rice) (none' && decide (a < 2))

/-- The flags of levels above 1 of a sub-block and the state behind them (9.3.4.2.6). -/
def greaterFlags (base : Nat) : List Nat → Nat → List Bin × Nat
  | [], c => ([], c)
  | a :: as, c =>
    let r := greaterFlags base as (if 1 < a then 0 else if 0 < c ∧ c < 3 then c + 1 else c)
    (Bin.ctx (base + c) (decide (1 < a)) :: r.1, r.2)

/-- The context of sig_coeff_flag at a place (9.3.4.2.5): `k` the size's logarithm; the flags of the sub-blocks right and below. -/
def sigContext (chroma : Bool) (k x y : Nat) (right below : Bool) : Nat :=
  let xp := x % 4; let yp := y % 4
  let c :=
    if x + y = 0 then 0
    else
      let s := match right, below with
        | false, false => if xp + yp = 0 then 2 else if xp + yp < 3 then 1 else 0
        | true, false => if yp = 0 then 2 else if yp = 1 then 1 else 0
        | false, true => if xp = 0 then 2 else if xp = 1 then 1 else 0
        | true, true => 2
      if chroma then s + (if k = 3 then 9 else 12) else s + (if x / 4 + y / 4 = 0 then 0 else 3) + (if k = 3 then 9 else 21)
  hc.sig + (if chroma then 27 + c else c)

/-- residual_coding (7.3.8.11) of a block of 2^k × 2^k levels: the place of the last, then the sub-blocks back from it. -/
def hevcResidualBins (chroma : Bool) (k : Nat) (ls : List Int) : List Bin :=
  let n := 2 ^ k
  let subs := diagonal (n / 4); let inner := diagonal 4
  let at' (i j : Nat) : Int := let s := nthD (0, 0) subs i; let e := nthD (0, 0) inner j; gridAt n ls (4 * s.1 + e.1) (4 * s.2 + e.2)
  let full (sx sy : Nat) : Bool := decide (sx < n / 4) && decide (sy < n / 4) && inner.any (fun e => gridAt n ls (4 * sx + e.1) (4 * sy + e.2) != 0)
  match ((List.range (n / 4 * (n / 4))).reverse.find? (fun i => let s := nthD (0, 0) subs i; full s.1 s.2)) with
  | none => []
  | some li =>
    let lj := ((List.range 16).reverse.find? (fun j => at' li j != 0)).getD 0
    let s := nthD (0, 0) subs li; let e := nthD (0, 0) inner lj
    let x := 4 * s.1 + e.1; let y := 4 * s.2 + e.2
    let off := if chroma then 15 else 3 * (k - 2) + (k - 1) / 4
    let sh := if chroma then k - 2 else (k + 1) / 4
    let head := lastPrefix k hc.lastX off sh x ++ lastPrefix k hc.lastY off sh y ++ lastSuffix x ++ lastSuffix y
    head ++ ((List.range (li + 1)).reverse.foldl (fun (a : List Bin × Nat) i =>
      let s := nthD (0, 0) subs i
      let right := full (s.1 + 1) s.2; let below := full s.1 (s.2 + 1)
      let coded := i == li || i == 0 || full s.1 s.2
      let flag : List Bin := if i = li ∨ i = 0 then [] else [Bin.ctx (hc.subBlock + b2n (right || below) + (if chroma then 2 else 0)) coded]
      let js := (List.range (if i = li then lj else 16)).reverse
      let sigs := js.flatMap (fun j =>
        let e := nthD (0, 0) inner j
        let inferred := j == 0 && i != li && i != 0 && (List.range 15).all (fun t => at' i (t + 1) == 0)
        if !coded || inferred then [] else [(Bin.ctx (sigContext chroma k (4 * s.1 + e.1) (4 * s.2 + e.2) right below) (at' i j != 0) : Bin)])
      let vs := ((List.range 16).reverse.map (at' i)).filter (· != 0)
      let ms := vs.map Int.natAbs
      if vs.isEmpty then (a.1 ++ flag ++ sigs, a.2)
      else
        let set := (if i = 0 ∨ chroma then 0 else 2) + b2n (a.2 == 0)
        let g := greaterFlags (hc.greater1 + (if chroma then 16 else 0) + 4 * set) (ms.take 8) 1
        let g2 : List Bin := match (ms.take 8).find? (fun m => decide (1 < m)) with | some m => [Bin.ctx (hc.greater2 + (if chroma then 4 else 0) + set) (decide (2 < m))] | none => []
        (a.1 ++ flag ++ sigs ++ g.1 ++ g2 ++ vs.map (fun v => Bin.bypass (decide (v < 0))) ++ remainders ms 0 0 true, g.2)) ([], 1)).1

/-- The CU that holds a sample, when it comes before the one at (x, y). -/
def hevcNear (cs : Coded) (x y : Nat) (xn yn : Int) : Option CodedBlock :=
  if xn < 0 ∨ yn < 0 then none else if before (cuOrder xn.toNat yn.toNat) (cuOrder x y) then cs.at xn.toNat yn.toNat else none

/-- The intra mode that a neighbour stands for: DC when it is not there or not intra. -/
def hevcMode (n : Option CodedBlock) : Nat := match n with | some b => if b.intra then b.mode else 1 | none => 1

/-- The three most probable modes by the left and the upper neighbour's (8.4.2). -/
def mpmOf (a b : Nat) : List Nat :=
  if a = b then (if a < 2 then [0, 1, 26] else [a, 2 + (a + 29) % 32, 2 + (a - 1) % 32])
  else [a, b, if a ≠ 0 ∧ b ≠ 0 then 0 else if a ≠ 1 ∧ b ≠ 1 then 1 else 26]

/-- The three most probable modes of a CU; the neighbour above counts only in the same CTB row. -/
def hevcMpm (cs : Coded) (x y : Nat) : List Nat :=
  mpmOf (hevcMode (hevcNear cs x y ((x : Int) - 1) y)) (hevcMode (if y % 32 = 0 then none else hevcNear cs x y x ((y : Int) - 1)))

/-- The bins of an intra mode: one of the most probable, or what remains without them. -/
def hevcModeBins (cs : Coded) (x y mode : Nat) : List Bin :=
  let m := hevcMpm cs x y
  match m.findIdx? (· == mode) with
  | some i => Bin.ctx hc.prevIntra true :: (if i = 0 then [Bin.bypass false] else [Bin.bypass true, Bin.bypass (i == 2)])
  | none => Bin.ctx hc.prevIntra false :: fixedBins 5 (mode - (m.filter (fun c => decide (c < mode))).length)

/-- AMVP candidate 0 with one reference picture and no temporal candidate: the vector of the first neighbour of A0, A1, B0, B1, B2 that has one (8.5.3.2.6). -/
def hevcPredicted (cs : Coded) (x y : Nat) : Int × Int :=
  let xi : Int := x; let yi : Int := y
  (([(xi - 1, yi + 16), (xi - 1, yi + 15), (xi + 16, yi - 1), (xi + 15, yi - 1), (xi - 1, yi - 1)].filterMap (fun e =>
    (hevcNear cs x y e.1 e.2).bind (fun b => if b.intra then none else some (4 * b.mvx, 4 * b.mvy)))).head?).getD (0, 0)

/-- mvd_coding. -/
def hevcMvdBins (d : Int × Int) : List Bin :=
  let g0 (v : Int) : Bin := Bin.ctx hc.mvdZero (v != 0)
  let g1 (v : Int) : List Bin := if v = 0 then [] else [Bin.ctx hc.mvdOne (decide (1 < v.natAbs))]
  let rest (v : Int) : List Bin := if v = 0 then [] else (if 1 < v.natAbs then golombBins 32 1 (v.natAbs - 2) else []) ++ [Bin.bypass (decide (v < 0))]
  [g0 d.1, g0 d.2] ++ g1 d.1 ++ g1 d.2 ++ rest d.1 ++ rest d.2

/-- The difference of a CTB's QP against the one before. -/
def hevcQpBins (d : Int) : List Bin :=
  let v := d.natAbs
  unaryBins 5 v (fun i => hc.qpDelta + min i 1) ++ (if 5 ≤ v then golombBins 32 0 (v - 5) else []) ++ (if v = 0 then [] else [Bin.bypass (decide (d < 0))])

/-- A coding unit: no skip, its mode, its partition, its intra mode or its vector, its transform unit; `delta`: the difference of QP, when its CTB has sent none. -/
def hevcBins (inter : Bool) (cs : Coded) (x y : Nat) (b : CodedBlock) (delta : Option Int) : List Bin :=
  let p := hevcPredicted cs x y
  let cbf (i : Nat) : Bool := anyLevel (nthD [] b.levels i)
  let head : List Bin := (if inter then [Bin.ctx hc.skip false, Bin.ctx hc.predMode b.intra] else []) ++ [Bin.ctx hc.partMode true]
  let pred := if b.intra then hevcModeBins cs x y b.mode ++ [Bin.ctx hc.chromaMode false]
    else [Bin.ctx hc.merge false] ++ hevcMvdBins (4 * b.mvx - p.1, 4 * b.mvy - p.2) ++ [Bin.ctx hc.mvp false, Bin.ctx hc.rootCbf (cbf 0 || cbf 1 || cbf 2)]
  let tree : List Bin :=
    if !b.intra && !(cbf 0 || cbf 1 || cbf 2) then []
    else [Bin.ctx hc.cbfChroma (cbf 1), Bin.ctx hc.cbfChroma (cbf 2)] ++ (if b.intra || cbf 1 || cbf 2 then [Bin.ctx (hc.cbfLuma + 1) (cbf 0)] else [])
  let qp := match delta with | some d => if cbf 0 || cbf 1 || cbf 2 then hevcQpBins d else [] | none => []
  head ++ pred ++ tree ++ qp ++ (if cbf 0 then hevcResidualBins false 4 (nthD [] b.levels 0) else [])
    ++ [1, 2].flatMap (fun i => if cbf i then hevcResidualBins true 3 (nthD [] b.levels i) else [])

/-- Where the coding of CTBs stands: the bins, the newest first, the QP, whether the CTB has sent its difference. -/
structure HevcRun where
  bins : List (List Bin)
  qp : Nat
  sent : Bool

/-- The bins of the coding units of a picture coded so far; a CTB that the picture's edge cuts is split without a flag. -/
def hevcPicture (inter : Bool) (sliceQp w h : Nat) (cs : Coded) : List Bin :=
  let r := cs.foldl (fun (a : HevcRun) c =>
    let x := c.1.1; let y := c.1.2; let start := x % 32 == 0 && y % 32 == 0
    let sent := !start && a.sent
    let opening : List Bin := if start then (if a.bins.isEmpty then [] else [Bin.term false])
      ++ (if x + 32 ≤ w ∧ y + 32 ≤ h then [Bin.ctx (hc.split + b2n (x != 0) + b2n (y != 0)) true] else []) else []
    { bins := (opening ++ hevcBins inter cs x y c.2 (if sent then none else some ((c.2.qp : Int) - a.qp))) :: a.bins
      qp := c.2.qp, sent := sent || c.2.sendsQp 1 }) { bins := [], qp := sliceQp, sent := false }
  r.bins.reverse.flatten ++ [Bin.term false]

/-- The arithmetic coder's emitted bits plus its outstanding bits after the blocks of a picture of w × h coded so far (12 R351). -/
def coderBits (codec : Nat) (inter : Bool) (sliceQp w h : Nat) (cs : Coded) : Nat :=
  if codec = 0 then bitsOf (avcStates inter sliceQp) (avcPicture inter sliceQp cs) else bitsOf (hevcStates inter sliceQp) (hevcPicture inter sliceQp w h cs)

end Sys2Proof.Machine
end

