-- ==== Sys2Proof/Machine/Encoder.lean ====
section
/-! DEFINITION. The encoders of REENCODE: the decisions of 12 R350 and the rate control of R351, over what ITU-T H.264 and H.265 define. The codec is 0 H.264
or 1 HEVC. -/
namespace Sys2Proof.Machine

/-- The block of a plane that belongs to the 16 × 16 luma block at (x, y), moved by a vector. -/
def Yuv.block (v : Yuv) (p x y : Nat) (mx my : Int) : List Nat :=
  let n := blockSide p
  let x0 : Int := if p = 0 then x else x / 2; let y0 : Int := if p = 0 then y else y / 2
  (List.range n).flatMap (fun (j : Nat) => (List.range n).map (fun (i : Nat) => v.at p (x0 + mx + i) (y0 + my + j)))

/-- The picture with a block of a plane put into it. -/
def Yuv.put (v : Yuv) (p x y : Nat) (b : List Nat) : Yuv :=
  let n := blockSide p
  let x0 := if p = 0 then x else x / 2; let y0 := if p = 0 then y else y / 2
  let w := v.pw p
  { v with planes := modNth (fun px => (px.zipIdx).map (fun e =>
      let i := e.2 % w; let j := e.2 / w
      if x0 ≤ i ∧ i < x0 + n ∧ y0 ≤ j ∧ j < y0 + n then nthD 0 b ((j - y0) * n + (i - x0)) else e.1)) v.planes p }

/-- The sum of absolute differences. -/
def sad (a b : List Nat) : Nat := sumNat ((a.zip b).map (fun x => ((x.1 : Int) - x.2).natAbs))

/-! ### Decisions (12 R350) -/

/-- The intra modes of a codec: vertical, horizontal, DC, plane; or planar, DC, horizontal, vertical. -/
def intraModes (codec : Nat) : List Nat := if codec = 0 then [0, 1, 2, 3] else [0, 1, 10, 26]

/-- Whether the neighbours a mode predicts from are there; HEVC substitutes them. -/
def intraAllowed (codec mode x y : Nat) : Bool :=
  codec != 0 || mode == 2 || (mode == 0 && decide (0 < y)) || (mode == 1 && decide (0 < x)) || (mode == 3 && decide (0 < x) && decide (0 < y))

/-- The first of the least by a key. -/
def leastBy {α : Type} (le : α → α → Bool) : List α → Option α
  | [] => none
  | a :: as => match leastBy le as with | some b => some (if le a b then a else b) | none => some a

/-- The intra mode of a block, by least luma SAD, the lowest mode number on a tie. -/
def bestIntra (codec : Nat) (src recon : Yuv) (x y : Nat) : Nat × Nat :=
  let s := src.block 0 x y 0 0
  let cs := ((intraModes codec).filter (fun m => intraAllowed codec m x y)).map (fun m => (sad s (intraBlock codec 0 m recon x y), m))
  (leastBy (fun a b => decide (a.1 < b.1) || (a.1 == b.1 && decide (a.2 ≤ b.2))) cs).getD (0, 2)

/-- The integer vectors within ±16. -/
def searchVectors : List (Int × Int) :=
  (List.range 33).flatMap (fun (j : Nat) => (List.range 33).map (fun (i : Nat) => ((i : Int) - 16, (j : Int) - 16)))

/-- The order of the motion search: SAD, then |mvx| + |mvy|, then mvy, then mvx. -/
def vectorBefore (a b : Nat × Int × Int) : Bool :=
  let m (v : Int × Int) : Nat := v.1.natAbs + v.2.natAbs
  decide (a.1 < b.1) || (a.1 == b.1 && (decide (m a.2 < m b.2) || (m a.2 == m b.2 && (decide (a.2.2 < b.2.2) || (a.2.2 == b.2.2 && decide (a.2.1 ≤ b.2.1))))))

/-- The vector of a block against the reference, with its luma SAD. -/
def bestVector (src ref : Yuv) (x y : Nat) : Nat × Int × Int :=
  let s := src.block 0 x y 0 0
  (leastBy vectorBefore (searchVectors.map (fun v => (sad s (ref.block 0 x y v.1 v.2), v)))).getD (0, 0, 0)

/-- A level: sign(c) × ((|c| × MF + f × 2^qbits) >> qbits), with f = 1/3 intra and 1/6 inter. -/
def quantLevel (intra : Bool) (c : Int) (mf qbits : Nat) : Int :=
  let m : Nat := (c.natAbs * mf + 2 ^ qbits / (if intra then 3 else 6)) / 2 ^ qbits
  if c < 0 then -(m : Int) else m

/-- One 16 × 16 block coded, and the reconstruction with it; no reference in picture 0. -/
def codeBlock (codec qp : Nat) (src : Yuv) (ref : Option Yuv) (recon : Yuv) (x y : Nat) : CodedBlock × Yuv :=
  let i := bestIntra codec src recon x y
  let mv := match ref with | some r => bestVector src r x y | none => (0, 0, 0)
  let inter := ref.isSome && decide (mv.1 ≤ i.1)
  let pred (p : Nat) : List Nat :=
    match ref with
    | some r =>
      if inter then (if p = 0 then r.block 0 x y mv.2.1 mv.2.2 else interChroma codec p r x y (mv.2.1, mv.2.2))
      else intraBlock codec p i.2 recon x y
    | none => intraBlock codec p i.2 recon x y
  let levels (p : Nat) : List Int :=
    let cs := forward codec p (!inter) (((src.block p x y 0 0).zip (pred p)).map (fun e => (e.1 : Int) - e.2))
    (cs.zipIdx).map (fun c => let q := quantScale codec p (!inter) qp c.2; quantLevel (!inter) c.1 q.1 q.2)
  let ls := (List.range 3).map levels
  let b : CodedBlock := { intra := !inter, mode := if inter then 0 else i.2, mvx := if inter then mv.2.1 else 0, mvy := if inter then mv.2.2 else 0, qp := qp, levels := ls }
  (b, (List.range 3).foldl (fun r p =>
    r.put p x y (((pred p).zip (residual420 codec p (!inter) qp (nthD [] ls p))).map (fun e => clampTo 255 (e.1 + e.2)))) recon)

/-! ### Rate control (12 R351) -/

/-- The bits of a sample and of its pictures: ⌊budget × W × H × F / 1,000⌋ shared out, the remainder with picture 0. -/
def pictureBudget (budget w h f k : Nat) : Nat := let b := budget * w * h * f / 1000; b / f + (if k = 0 then b % f else 0)

/-- The starting QP: clamp(44 − 6 × ⌊log₂(max(1, ⌊budget/50⌋))⌋, 10, 51). -/
def startQp (budget : Nat) : Nat := (max 10 (min 51 ((44 : Int) - 6 * (Nat.log2 (max 1 (budget / 50)) : Nat)))).toNat

/-- The QP of the next row, from the bits used and the target. -/
def nextQp (qp u t : Nat) : Nat :=
  let d : Int := if 5 * t < 4 * u then 2 else if t < u then 1 else if 4 * u < 3 * t then -1 else 0
  (max 10 (min 51 ((qp : Int) + d))).toNat

/-! ### A picture and a sample -/

/-- The blocks of block row r in coding order: macroblocks, or the 16 × 16 CUs of each 32 × 32 CTB that are inside the picture. -/
def rowBlocks (codec w h r : Nat) : List (Nat × Nat) :=
  if codec = 0 then (List.range (w / 16)).map (fun i => (16 * i, 16 * r))
  else ((List.range (ceilDiv w 32)).flatMap (fun i =>
    [(32 * i, 32 * r), (32 * i + 16, 32 * r), (32 * i, 32 * r + 16), (32 * i + 16, 32 * r + 16)])).filter (fun b => decide (b.1 < w) && decide (b.2 < h))

/-- The block rows of a picture. -/
def blockRows (codec h : Nat) : Nat := ceilDiv h (if codec = 0 then 16 else 32)

/-- What the coding of a picture has reached: the reconstruction, the blocks coded, the QP that the blocks before have, the QP of the next row and of the last. -/
structure PicRun where
  recon : Yuv
  coded : Coded
  sent : Nat
  qp : Nat
  last : Nat
deriving DecidableEq, Repr

/-- One block of a row coded at the row's QP: a block that sends no QP has the one before it. -/
def codeNext (codec : Nat) (src : Yuv) (ref : Option Yuv) (s : PicRun) (b : Nat × Nat) : PicRun :=
  let x := codeBlock codec s.qp src ref s.recon b.1 b.2
  let q := if x.1.sendsQp codec then s.qp else s.sent
  { s with recon := x.2, coded := s.coded ++ [(b, { x.1 with qp := q })], sent := q }

/-- One block row coded, and the QP that the row behind it has. -/
def codeRow (codec budget rows start : Nat) (src : Yuv) (ref : Option Yuv) (s : PicRun) (r : Nat) : PicRun :=
  let n := (rowBlocks codec src.w src.h r).foldl (codeNext codec src ref) s
  { n with qp := nextQp s.qp (coderBits codec ref.isSome start src.w src.h n.coded) (budget * (r + 1) / rows), last := s.qp }

/-- A picture coded from a QP: its decode, the loop filter behind it, and the QP of its last row. -/
def codePicture (codec budget qp : Nat) (src : Yuv) (ref : Option Yuv) : Yuv × Nat :=
  let rows := blockRows codec src.h
  let s0 : PicRun := { recon := { src with planes := src.planes.map (fun p => p.map (fun _ => 0)) }, coded := [], sent := qp, qp := qp, last := qp }
  let s := (List.range rows).foldl (codeRow codec budget rows qp src ref) s0
  (loopFilter codec s.recon s.coded, s.last)

/-- The pictures of a sample coded in order, each from the one before it (12 R349). -/
def codePictures (codec budget w h f : Nat) : List Yuv → Nat → Nat → Option Yuv → List Yuv
  | [], _, _, _ => []
  | p :: ps, k, qp, ref =>
    let r := codePicture codec (pictureBudget budget w h f k) qp p ref
    r.1 :: codePictures codec budget w h f ps (k + 1) r.2 (some r.1)

/-- The frames of a sample encoded and decoded again: w × h is the size before padding. -/
def encodeFrames (codec budget w h : Nat) (fs : List Yuv) : List Yuv := codePictures codec budget w h fs.length fs 0 (startQp budget) none

end Sys2Proof.Machine
end

