-- ==== Sys2Proof/Machine/Jpeg.lean ====
section
/-! DEFINITION. The entropy decode of a JPEG stream, sequential and progressive, into its coefficient store, with its syntax errors, their
resynchronisation, and where a short stream ends (12 R326, R327, R334, R340 to R342). The stream's own rules are those of ITU-T T.81 (PRESUMED,
notes/assumptions/42.md). -/
namespace Sys2Proof.Machine

/-- The place of zigzag index k in a block. -/
def zigzag : List Nat :=
  [0, 1, 8, 16, 9, 2, 3, 10, 17, 24, 32, 25, 18, 11, 4, 5, 12, 19, 26, 33, 40, 48, 41, 34, 27, 20, 13, 6, 7, 14, 21, 28]
    ++ [35, 42, 49, 56, 57, 50, 43, 36, 29, 22, 15, 23, 30, 37, 44, 51, 58, 59, 52, 45, 38, 31, 39, 46, 53, 60, 61, 54, 47, 55, 62, 63]

/-! ### Entropy-coded segments -/

/-- The bytes of an entropy-coded segment from a byte on, its stuffing removed, and where the marker that ends it stands, or the end of the data. -/
def ecSegment (a : Octets) : Nat → Nat → List Nat → List Nat × Nat
  | 0, i, acc => (acc.reverse, i)
  | n + 1, i, acc =>
    if a.size ≤ i then (acc.reverse, a.size)
    else if byteAt a i ≠ 255 then ecSegment a n (i + 1) (byteAt a i :: acc)
    else if byteAt a (i + 1) = 0 ∧ i + 1 < a.size then ecSegment a n (i + 2) (255 :: acc)
    else (acc.reverse, i)

/-- The marker at a byte: its code and the byte behind it, fill bytes passed over; 0 at the end of the data. -/
def markerAt (a : Octets) : Nat → Nat → Nat × Nat
  | 0, i => (0, i)
  | n + 1, i =>
    if a.size ≤ i + 1 then (0, a.size)
    else if byteAt a i = 255 ∧ byteAt a (i + 1) ≠ 255 ∧ byteAt a (i + 1) ≠ 0 then (byteAt a (i + 1), i + 2)
    else markerAt a n (i + 1)

/-- Whether a marker is RSTn. -/
def isRst (m : Nat) : Bool := decide (0xD0 ≤ m) && decide (m ≤ 0xD7)

/-- The segments of a scan from a byte on: each with the marker that ends it, up to the first that RSTn does not end; and the place of that marker. -/
def scanSegments (a : Octets) : Nat → Nat → List (Octets × Nat) × Nat
  | 0, i => ([], i)
  | n + 1, i =>
    let s := ecSegment a (a.size + 1) i []
    let m := markerAt a (a.size + 1) s.2
    if isRst m.1 then let r := scanSegments a n m.2; ((s.1.toArray, m.1) :: r.1, r.2) else ([(s.1.toArray, m.1)], s.2)

/-! ### Reading a segment -/

/-- A Huffman table: for each length, its symbols. -/
abbrev JTable := List (List Nat)

/-- A symbol. -/
def jSymbol (a : Octets) (t : JTable) (p : Nat) : Except JErr (Nat × Nat) :=
  match readSymbol (jBit a) t p 0 0 with
  | some (s, q) => if q ≤ 8 * a.size then .ok (s, q) else .error .ended
  | none => .error (if 8 * a.size < p + 16 then .ended else .syntaxError)

/-- The value of a category and its bits. -/
def extend (v t : Nat) : Int := if t = 0 then 0 else if v < 2 ^ (t - 1) then (v : Int) - 2 ^ t + 1 else v

/-- What a scan's decode carries in an interval: the bit position, the DC predictions, the end-of-band run. -/
structure JPos where
  bit : Nat := 0
  preds : List Int := [0, 0, 0]
  eob : Nat := 0
deriving DecidableEq, Repr

/-- A scan's parameters: whether progressive, the band, the bit positions. -/
structure JScan where
  prog : Bool
  ss : Nat
  se : Nat
  ah : Nat
  al : Nat
deriving DecidableEq, Repr

/-- The coefficients of a block: by their place. -/
abbrev JBlock := List Int

def setCoef (b : JBlock) (k : Nat) (v : Int) : JBlock := modNth (fun _ => v) b (nthD 0 zigzag k)
def coefAt (b : JBlock) (k : Nat) : Int := nthD 0 b (nthD 0 zigzag k)

/-- A DC difference read. -/
def jDiff (a : Octets) (t : JTable) (p : Nat) : Except JErr (Int × Nat) := do
  let (c, p1) ← jSymbol a t p
  if 11 < c then .error .syntaxError else
    let (v, p2) ← jBits a p1 c
    .ok (extend v c, p2)

/-- The AC coefficients of a block from index k on, of a sequential scan or of a progressive scan's first pass over a band; the run that an end-of-band
code starts. The first number bounds the symbols. -/
def jFirst (a : Octets) (t : JTable) (prog : Bool) (se al : Nat) : Nat → Nat → Nat → JBlock → Except JErr (JBlock × Nat × Nat)
  | 0, p, _, b => .ok (b, p, 0)
  | n + 1, p, k, b => do
    if se < k then .ok (b, p, 0) else
      let (rs, p1) ← jSymbol a t p
      let r := rs / 16; let s := rs % 16
      if s = 0 ∧ r = 15 then (if 63 < k + 15 then .error .syntaxError else jFirst a t prog se al n p1 (k + 16) b)
      else if s = 0 then
        if prog then (do let (e, p2) ← jBits a p1 r; .ok (b, p2, 2 ^ r + e)) else .ok (b, p1, 0)
      else if 10 < s ∨ 63 < k + r then .error .syntaxError
      else
        let (v, p2) ← jBits a p1 s
        jFirst a t prog se al n p2 (k + r + 1) (setCoef b (k + r) (extend v s * 2 ^ al))

/-- A correction bit for each coefficient that is not zero, from index k to e; as far as `zeros` zero ones have been passed and another is met. The place
reached. -/
def jRefine (a : Octets) (e al : Nat) : Nat → Nat → Nat → Nat → JBlock → Except JErr (JBlock × Nat × Nat)
  | 0, p, k, _, b => .ok (b, p, k)
  | n + 1, p, k, zeros, b => do
    if e < k then .ok (b, p, k)
    else
      let c := coefAt b k
      if c = 0 then (if zeros = 0 then .ok (b, p, k) else jRefine a e al n p (k + 1) (zeros - 1) b)
      else
        let (v, p1) ← jBits a p 1
        let hit := v = 1 ∧ c.natAbs / 2 ^ al % 2 = 0
        jRefine a e al n p1 (k + 1) zeros (if hit then setCoef b k (if 0 < c then c + 2 ^ al else c - 2 ^ al) else b)

/-- A band refined from index k on; the end-of-band run left. -/
def jAgain (a : Octets) (t : JTable) (se al : Nat) : Nat → Nat → Nat → JBlock → Except JErr (JBlock × Nat × Nat)
  | 0, p, _, b => .ok (b, p, 0)
  | n + 1, p, k, b => do
    if se < k then .ok (b, p, 0) else
      let (rs, p1) ← jSymbol a t p
      let r := rs / 16; let s := rs % 16
      if s = 0 ∧ r < 15 then do
        let (e, p2) ← jBits a p1 r
        let (b1, p3, _) ← jRefine a se al 65 p2 k 64 b
        .ok (b1, p3, 2 ^ r + e)
      else if 1 < s then .error .syntaxError
      else do
        let (v, p2) ← jBits a p1 s
        let (b1, p3, k1) ← jRefine a se al 65 p2 k r b
        if s = 1 ∧ se < k1 then .error .syntaxError
        else jAgain a t se al n p3 (k1 + 1) (if s = 1 then setCoef b1 k1 (if v = 1 then 2 ^ al else -(2 ^ al)) else b1)

/-- One block of component c of a scan, from what earlier scans left of it. -/
def jBlock (a : Octets) (x : JScan) (dc ac : JTable) (c : Nat) (s : JPos) (b : JBlock) : Except JErr (JBlock × JPos) := do
  if x.ss = 0 ∧ x.ah ≠ 0 then
    let (v, p) ← jBits a s.bit 1
    .ok (if v = 1 ∧ (coefAt b 0 / 2 ^ x.al) % 2 = 0 then setCoef b 0 (coefAt b 0 + 2 ^ x.al) else b, { s with bit := p })
  else if x.ss = 0 then
    let (d, p) ← jDiff a dc s.bit
    let v := nthD 0 s.preds c + d
    let s1 := { s with bit := p, preds := modNth (fun _ => v) s.preds c }
    let b1 := setCoef b 0 (v * 2 ^ x.al)
    if x.prog then .ok (b1, s1)
    else
      let (b2, p2, _) ← jFirst a ac false 63 0 65 s1.bit 1 b1
      .ok (b2, { s1 with bit := p2 })
  else if s.eob ≠ 0 then
    if x.ah = 0 then .ok (b, { s with eob := s.eob - 1 })
    else
      let (b1, p, _) ← jRefine a x.se x.al 65 s.bit x.ss 64 b
      .ok (b1, { s with bit := p, eob := s.eob - 1 })
  else
    let (b1, p, e) ← (if x.ah = 0 then jFirst a ac true x.se x.al 65 s.bit x.ss b else jAgain a ac x.se x.al 65 s.bit x.ss b)
    .ok (b1, { s with bit := p, eob := e - 1 })

/-! ### The frame -/

/-- A component in decode: identifier, factors, quantisation table number, its blocks and those lost, its grid's columns and rows of blocks, the complete
MCU rows when not all are, and whether its DC has been decoded. -/
structure JComp where
  id : Nat
  h : Nat
  v : Nat
  tq : Nat
  cols : Nat
  blocks : List JBlock
  lost : List Bool
  rows : Option Nat := none
  seen : Bool := false
deriving DecidableEq, Repr

/-- A stream in decode: tables, restart interval, the colour transform field, the frame, the errors met. -/
structure Jpg where
  qt : List (Nat × List Nat) := []
  dc : List (Nat × JTable) := []
  ac : List (Nat × JTable) := []
  ri : Nat := 0
  transform : Option Nat := none
  prog : Bool := false
  w : Nat := 0
  h : Nat := 0
  comps : List JComp := []
  errors : Nat := 0
  header : Bool := false
deriving DecidableEq, Repr

/-- The blocks of unit u of a scan over some components: (component, block, place of the prediction). A lone component's units are its own blocks. -/
def unitBlocks (g : Jpg) (sel : List Nat) (u : Nat) : List (Nat × Nat) :=
  let hm := (g.comps.map JComp.h).foldl max 1
  match sel with
  | [c] =>
    match g.comps[c]? with
    | some x =>
      let cw := if g.comps.length = 1 then ceilDiv g.w 8 else ceilDiv (ceilDiv (g.w * x.h) hm) 8
      [(c, u / cw * x.cols + u % cw)]
    | none => []
  | _ =>
    let mc := ceilDiv g.w (8 * hm)
    sel.flatMap (fun c => match g.comps[c]? with
      | some x => (List.range x.v).flatMap (fun j => (List.range x.h).map (fun i => (c, (u / mc * x.v + j) * x.cols + u % mc * x.h + i)))
      | none => [])

/-- The units of a scan, and how many make one MCU row of the frame. -/
def scanUnits (g : Jpg) (sel : List Nat) : Nat × Nat :=
  let hm := (g.comps.map JComp.h).foldl max 1; let vm := (g.comps.map JComp.v).foldl max 1
  match sel with
  | [c] =>
    match g.comps[c]? with
    | some x =>
      if g.comps.length = 1 then (ceilDiv g.w 8 * ceilDiv g.h 8, ceilDiv g.w 8)
      else let cw := ceilDiv (ceilDiv (g.w * x.h) hm) 8; (cw * ceilDiv (ceilDiv (g.h * x.v) vm) 8, cw * x.v)
    | none => (0, 1)
  | _ => (ceilDiv g.w (8 * hm) * ceilDiv g.h (8 * vm), ceilDiv g.w (8 * hm))

/-- A component changed. -/
def Jpg.updComp (g : Jpg) (c : Nat) (f : JComp → JComp) : Jpg := { g with comps := modNth f g.comps c }

/-- A list changed at an index past none of its elements. -/
def setBlock (b : JBlock) (x : JComp) (k : Nat) : JComp := { x with blocks := modNth (fun _ => b) x.blocks k }

/-- The blocks of one unit read. -/
def jUnit (a : Octets) (x : JScan) (tabs : List (JTable × JTable)) (sel : List Nat) : List (Nat × Nat) → Jpg → JPos → Except JErr (Jpg × JPos)
  | [], g, s => .ok (g, s)
  | (c, k) :: bs, g, s =>
    let i := (sel.findIdx? (· == c)).getD 0
    let t := nthD ([], []) tabs i
    let b := ((g.comps[c]?).bind (fun y => y.blocks[k]?)).getD []
    match jBlock a x t.1 t.2 i s b with
    | .ok (b1, s1) => jUnit a x tabs sel bs (g.updComp c (fun y => setBlock b1 y k)) s1
    | .error e => .error e

/-- n units of an interval from u on: the frame, and the unit at which it stopped with why, if it did. -/
def jInterval (a : Octets) (x : JScan) (tabs : List (JTable × JTable)) (sel : List Nat) : Nat → Nat → Jpg → JPos → Jpg × Option (Nat × JErr)
  | 0, _, g, _ => (g, none)
  | n + 1, u, g, s =>
    match jUnit a x tabs sel (unitBlocks g sel u) g s with
    | .ok (g1, s1) => jInterval a x tabs sel n (u + 1) g1 s1
    | .error e => (g, some (u, e))

/-- The units of a range lost. -/
def Jpg.lose (g : Jpg) (sel : List Nat) (lo hi : Nat) : Jpg :=
  (List.range (hi - lo)).foldl (fun g i =>
    (unitBlocks g sel (lo + i)).foldl (fun g x => g.updComp x.1 (fun y => { y with lost := modNth (fun _ => true) y.lost x.2 })) g) g

/-- The scan's components complete as far as a unit. -/
def Jpg.endAt (g : Jpg) (sel : List Nat) (perRow u : Nat) : Jpg :=
  let r := u / max 1 perRow
  sel.foldl (fun g c => g.updComp c (fun y => { y with rows := some (min (y.rows.getD r) r) })) g

/-- The intervals of a scan from interval i on over the segments left (12 R340, R342; notes/assumptions/42.md): an error loses the blocks up to the unit at
which the next RSTn resumes; the end of the stream ends the components there. `skip`: the segment at hand stands behind an RSTn out of sequence. -/
def jScan (x : JScan) (tabs : List (JTable × JTable)) (sel : List Nat) (total per perRow : Nat) : List (Octets × Nat) → Nat → Bool → Jpg → Jpg
  | [], i, _, g => g.lose sel (i * per) total
  | (a, m) :: rest, i, skip, g =>
    let lo := min total (i * per); let hi := min total (lo + per)
    -- The interval that an RSTn resumes: the least after i of its number.
    let resume := i + 1 + (m + 256 - 0xD0 - i % 8) % 8
    let lost (g : Jpg) (u : Nat) : Jpg :=
      if isRst m then jScan x tabs sel total per perRow rest resume false ({ g with errors := g.errors + 1 }.lose sel u (min total (resume * per)))
      else { g with errors := g.errors + 1 }.lose sel u total
    if skip then
      if isRst m then jScan x tabs sel total per perRow rest resume false (g.lose sel lo (min total (resume * per))) else g.lose sel lo total
    else match jInterval a x tabs sel (hi - lo) lo g {} with
    | (g1, none) =>
      if total ≤ hi then g1
      else if m = 0xD0 + i % 8 then jScan x tabs sel total per perRow rest (i + 1) false g1
      else if isRst m then jScan x tabs sel total per perRow rest (i + 1) true { g1 with errors := g1.errors + 1 }
      else if m = 0xD9 ∨ m = 0 then g1.endAt sel perRow hi
      else { g1 with errors := g1.errors + 1 }.lose sel hi total
    | (g1, some (u, .syntaxError)) => lost g1 u
    | (g1, some (u, .ended)) => if m = 0xD9 ∨ m = 0 then g1.endAt sel perRow u else lost g1 u

/-! ### Marker segments -/

/-- The Huffman tables of a DHT segment from a byte on, as (class, number, table). -/
def readDht (a : Octets) : Nat → Nat → Nat → List (Nat × Nat × JTable)
  | 0, _, _ => []
  | n + 1, i, e =>
    if e < i + 17 then []
    else
      let ns := bytesIn a (i + 1) 16
      let t := (List.range 16).map (fun l => bytesIn a (i + 17 + sumNat (ns.take l)) (nthD 0 ns l))
      (byteAt a i / 16, byteAt a i % 16, t) :: readDht a n (i + 17 + sumNat ns) e
where
  bytesIn (a : Octets) (i n : Nat) : List Nat := (List.range n).map (fun k => byteAt a (i + k))

/-- The quantisation tables of a DQT segment from a byte on, by place. -/
def readDqt (a : Octets) : Nat → Nat → Nat → List (Nat × List Nat)
  | 0, _, _ => []
  | n + 1, i, e =>
    let wide := decide (16 ≤ byteAt a i)
    let size := if wide then 128 else 64
    if e < i + 1 + size then []
    else
      let v (k : Nat) : Nat := if wide then byteAt a (i + 1 + 2 * k) * 256 + byteAt a (i + 2 + 2 * k) else byteAt a (i + 1 + k)
      let t := (List.range 64).map (fun p => v ((zigzag.findIdx? (· == p)).getD 0))
      (byteAt a i % 16, t) :: readDqt a n (i + 1 + size) e

/-- Entries put before those of the same number. -/
def putTabs {α : Type} (new old : List (Nat × α)) : List (Nat × α) := new.reverse ++ old

def tabAt {α : Type} (dflt : α) (l : List (Nat × α)) (k : Nat) : α := ((l.find? (fun e => e.1 == k)).map Prod.snd).getD dflt

/-- A frame header read: none when R326 does not support it. -/
def readSof (a : Octets) (m i : Nat) (g : Jpg) : Option Jpg :=
  let n := byteAt a (i + 7)
  let f (k : Nat) : Nat × Nat × Nat × Nat := (byteAt a (i + 8 + 3 * k), byteAt a (i + 9 + 3 * k) / 16, byteAt a (i + 9 + 3 * k) % 16, byteAt a (i + 10 + 3 * k))
  let fs := (List.range n).map f
  let luma := nthD (0, 1, 1, 0) fs 0
  let ok := byteAt a (i + 2) == 8 && (n == 1 || n == 3) && [1, 2].contains luma.2.1 && [1, 2].contains luma.2.2.1
    && (fs.drop 1).all (fun x => x.2.1 == 1 && x.2.2.1 == 1)
  if !ok then none
  else
    let h := byteAt a (i + 3) * 256 + byteAt a (i + 4); let w := byteAt a (i + 5) * 256 + byteAt a (i + 6)
    let one := n == 1
    let hm := if one then 1 else luma.2.1; let vm := if one then 1 else luma.2.2.1
    some { g with
      prog := m == 0xC2, w := w, h := h
      comps := fs.map (fun x =>
        let ch := if one then 1 else x.2.1; let cv := if one then 1 else x.2.2.1
        let cols := ceilDiv w (8 * hm) * ch; let k := cols * (ceilDiv h (8 * vm) * cv)
        { id := x.1, h := ch, v := cv, tq := x.2.2.2, cols := cols, blocks := List.replicate k (List.replicate 64 0), lost := List.replicate k false }) }

/-- Whether the header is complete: the frame and its components' quantisation tables. -/
def Jpg.hasTables (g : Jpg) : Bool := !g.comps.isEmpty && g.comps.all (fun c => g.qt.any (fun t => t.1 == c.tq))

/-- The scan at a byte run over the frame: the frame, and the place of the marker behind it. A scan whose tables the stream lacks is lost. -/
def runScan (a : Octets) (i len : Nat) (g : Jpg) : Jpg × Nat :=
  let n := byteAt a (i + 2)
  let sel := (List.range n).filterMap (fun k => g.comps.findIdx? (fun c => c.id == byteAt a (i + 3 + 2 * k)))
  let tabs := (List.range n).map (fun k => (tabAt [] g.dc (byteAt a (i + 4 + 2 * k) / 16), tabAt [] g.ac (byteAt a (i + 4 + 2 * k) % 16)))
  let e := i + 3 + 2 * n
  let x : JScan := if g.prog then { prog := true, ss := byteAt a e, se := min 63 (byteAt a (e + 1)), ah := byteAt a (e + 2) / 16, al := byteAt a (e + 2) % 16 }
    else { prog := false, ss := 0, se := 63, ah := 0, al := 0 }
  let segs := scanSegments a (a.size + 1) (i + len)
  let u := scanUnits g sel
  let g1 := jScan x tabs sel u.1 (if g.ri = 0 then max 1 u.1 else g.ri) u.2 segs.1 0 false g
  (sel.foldl (fun g c => g.updComp c (fun y => { y with seen := y.seen || x.ss == 0 })) g1, segs.2)

/-- What the markers of a stream came to. -/
inductive JEnd where
  | unsupported | stream (g : Jpg)

/-- The segments of a stream from a byte on; the first number bounds them. -/
def jMarkers (a : Octets) : Nat → Nat → Jpg → JEnd
  | 0, _, g => .stream g
  | n + 1, i, g =>
    let mk := markerAt a (a.size + 1) i
    let m := mk.1; let p := mk.2
    let len := byteAt a p * 256 + byteAt a (p + 1)
    if m = 0 ∨ m = 0xD9 then .stream g
    else if isRst m || m == 0x01 || m == 0xD8 then jMarkers a n p g
    else if a.size < p + len ∨ len < 2 then .stream g
    else if m = 0xC4 then
      let ts := readDht a 8 (p + 2) (p + len)
      let pick (k : Nat) : List (Nat × JTable) := (ts.filter (fun t => t.1 == k)).map Prod.snd
      jMarkers a n (p + len) { g with dc := putTabs (pick 0) g.dc, ac := putTabs (pick 1) g.ac }
    else if m = 0xDB then jMarkers a n (p + len) { g with qt := putTabs (readDqt a 4 (p + 2) (p + len)) g.qt }
    else if m = 0xDD then jMarkers a n (p + len) { g with ri := byteAt a (p + 2) * 256 + byteAt a (p + 3) }
    else if m = 0xEE ∧ 14 ≤ len ∧ (List.range 5).map (fun k => byteAt a (p + 2 + k)) = [0x41, 0x64, 0x6F, 0x62, 0x65] then
      jMarkers a n (p + len) { g with transform := some (byteAt a (p + 13)) }
    else if m = 0xC0 ∨ m = 0xC1 ∨ m = 0xC2 then
      (if g.comps.isEmpty then match readSof a m p g with | some g1 => jMarkers a n (p + len) g1 | none => .unsupported else jMarkers a n (p + len) g)
    else if (0xC3 ≤ m ∧ m ≤ 0xCF) ∨ m = 0xDE then .unsupported
    else if m = 0xDA then
      if !(g.header || g.hasTables) then .stream g
      else let r := runScan a p len { g with header := true }; jMarkers a n r.2 r.1
    else jMarkers a n (p + len) g

/-- A JPEG stream decoded into its coefficient store, or the status it ends with (12 R326, R327). A component that no scan reached has no complete row. -/
def readJpeg (bs : List Nat) : Decoded :=
  let a := bs.toArray
  if bs.take 2 ≠ [0xFF, 0xD8].take bs.length then .failed stUnsupported
  else match jMarkers a (a.size + 1) 2 {} with
  | .unsupported => .failed stUnsupported
  | .stream g =>
    if !(g.header || g.hasTables) then .failed stNoHeader
    else
      let rgb := g.comps.map JComp.id == [0x52, 0x47, 0x42] || g.transform == some 0
      .jpeg g.w g.h rgb (g.comps.map (fun c =>
        { h := c.h, v := c.v, q := tabAt [] g.qt c.tq
          blocks := (c.blocks.zip c.lost).map (fun b => if b.2 then none else some b.1), rows := if c.seen then c.rows else some 0 })) g.errors

end Sys2Proof.Machine
end

