-- ==== Sys2Proof/Machine/Png.lean ====
section
/-! DEFINITION. The lossless decode of a PNG datastream: chunks, filters, Adam7, the palette, and where a damaged or short one ends (12 R326, R327,
R337, R340, R342). The datastream's own rules are those of the PNG standard (PRESUMED, notes/assumptions/42.md). -/
namespace Sys2Proof.Machine

/-- A big-endian field. -/
def beAt (a : Octets) (i n : Nat) : Nat := ofBE ((List.range n).map (fun k => byteAt a (i + k)))

/-- A run of bytes. -/
def bytesAt (a : Octets) (i n : Nat) : List Nat := (List.range n).map (fun k => byteAt a (i + k))

/-- A chunk: its type, where its data start and how many bytes of it there are. -/
structure PngChunk where
  typ : Nat
  start : Nat
  len : Nat
deriving DecidableEq, Repr

/-- The chunks from a byte on, up to IEND, the end of the data or a critical chunk with a CRC mismatch, and whether one was met. Of a chunk that the data
end in, what is there. -/
def pngChunks (a : Octets) : Nat → Nat → List PngChunk × Bool
  | 0, _ => ([], false)
  | n + 1, i =>
    if a.size < i + 8 then ([], false)
    else
      let len := beAt a i 4; let typ := beAt a (i + 4) 4
      let c : PngChunk := { typ := typ, start := i + 8, len := min len (a.size - (i + 8)) }
      if a.size < i + 12 + len then ([c], false)
      else if !bitOf typ 29 && beAt a (i + 8 + len) 4 != crc32g (bytesAt a (i + 4) (4 + len)) then ([], true)
      else if typ = 0x49454E44 then ([c], false)
      else let r := pngChunks a n (i + 12 + len); (c :: r.1, r.2)

/-- The channels of a colour type as the rows hold them. -/
def pngChannels (colour : Nat) : Nat := match colour with | 2 => 3 | 4 => 2 | 6 => 4 | _ => 1

/-- Whether R326 supports a header. -/
def pngSupported (depth colour compression filter interlace : Nat) : Bool :=
  ((depth == 8 && [0, 2, 3, 4, 6].contains colour) || (depth == 16 && [0, 2, 4, 6].contains colour)) && compression == 0 && filter == 0 && decide (interlace ≤ 1)

/-- The predictor of filter type 4. -/
def paeth (a b c : Nat) : Nat :=
  let p : Int := (a : Int) + b - c
  let pa := (p - a).natAbs; let pb := (p - b).natAbs; let pc := (p - c).natAbs
  if pa ≤ pb ∧ pa ≤ pc then a else if pb ≤ pc then b else c

/-- A row with its filter undone: `bpp` bytes a pixel, the row above. -/
def unfilter (ft bpp : Nat) (above : Octets) (raw : List Nat) : List Nat :=
  ((raw.zipIdx).foldl (fun acc (x : Nat × Nat) =>
    let l := if x.2 < bpp then 0 else nthD 0 acc (bpp - 1)
    let u := byteAt above x.2
    let ul := if x.2 < bpp then 0 else byteAt above (x.2 - bpp)
    let p := match ft with | 1 => l | 2 => u | 3 => (l + u) / 2 | 4 => paeth l u ul | _ => 0
    ((x.1 + p) % 256) :: acc) []).reverse

/-- What the rows of an image or pass came to: the rows, the place behind the last, whether a syntax error ended them. -/
structure PngRows where
  rows : List (List Nat)
  pos : Nat
  error : Bool
deriving DecidableEq, Repr

/-- The rows of an image or pass: each a filter type and its bytes. A filter type above 4 and an index beyond the palette are syntax errors. -/
def pngRows (a : Octets) (bpp w : Nat) (colours : Option Nat) : Nat → Nat → List Nat → PngRows
  | 0, i, _ => { rows := [], pos := i, error := false }
  | n + 1, i, above =>
    if a.size < i + 1 + bpp * w then { rows := [], pos := i, error := false }
    else
      let ft := byteAt a i
      let row := unfilter ft bpp above.toArray (bytesAt a (i + 1) (bpp * w))
      if 4 < ft ∨ colours.any (fun k => row.any (fun x => decide (k ≤ x))) = true then { rows := [], pos := i, error := true }
      else let r := pngRows a bpp w colours n (i + 1 + bpp * w) row; { r with rows := row :: r.rows }

/-- The Adam7 passes: first column and row, steps. -/
def adamPasses : List (Nat × Nat × Nat × Nat) := [(0, 0, 8, 8), (4, 0, 8, 8), (0, 4, 4, 8), (2, 0, 4, 4), (0, 2, 2, 4), (1, 0, 2, 2), (0, 1, 1, 2)]

/-- The size of a pass. -/
def passSize (w h : Nat) (p : Nat × Nat × Nat × Nat) : Nat × Nat :=
  let pw := ceilDiv (w - p.1) p.2.2.1; let ph := ceilDiv (h - p.2.1) p.2.2.2
  if pw = 0 ∨ ph = 0 then (0, 0) else (pw, ph)

/-- The passes completed, with their rows, and whether a syntax error ended them. -/
def pngPasses (a : Octets) (bpp w h : Nat) (colours : Option Nat) : List (Nat × Nat × Nat × Nat) → Nat → List (List (List Nat)) × Bool
  | [], _ => ([], false)
  | p :: ps, i =>
    let s := passSize w h p
    let r := pngRows a bpp s.1 colours s.2 i (List.replicate (bpp * s.1) 0)
    if r.rows.length < s.2 then ([], r.error) else let q := pngPasses a bpp w h colours ps r.pos; (r.rows :: q.1, q.2)

/-- The pass that holds a pixel. -/
def adamPassOf (x y : Nat) : Nat :=
  if y % 8 = 0 ∧ x % 8 = 0 then 0 else if y % 8 = 0 ∧ x % 8 = 4 then 1 else if y % 8 = 4 ∧ x % 4 = 0 then 2
  else if y % 4 = 0 ∧ x % 4 = 2 then 3 else if y % 4 = 2 ∧ x % 2 = 0 then 4 else if y % 2 = 0 ∧ x % 2 = 1 then 5 else 6

/-- The samples of a row, indices expanded through the palette. -/
def rowSamples (depth colour : Nat) (plte : Octets) (row : List Nat) : List Nat :=
  if colour = 3 then row.flatMap (fun k => bytesAt plte (3 * k) 3)
  else if depth = 16 then (chunks 2 row.length row).map ofBE else row

/-- A PNG decoded: its content before the work of R333, or the status it ends with (12 R327). -/
def readPng (bs : List Nat) : Decoded :=
  let a := bs.toArray
  let sig := [0x89, 0x50, 0x4E, 0x47, 0x0D, 0x0A, 0x1A, 0x0A]
  if bs.take 8 ≠ sig.take bs.length then .failed stUnsupported
  else
    let cs := pngChunks a (a.size + 1) 8
    match cs.1 with
    | [] => .failed stNoHeader
    | c :: rest =>
      if c.typ ≠ 0x49484452 ∨ c.len < 13 ∨ (rest.isEmpty ∧ a.size < c.start + 17) then .failed stNoHeader
      else
        let w := beAt a c.start 4; let h := beAt a (c.start + 4) 4
        let depth := byteAt a (c.start + 8); let colour := byteAt a (c.start + 9); let inter := byteAt a (c.start + 12)
        if !pngSupported depth colour (byteAt a (c.start + 10)) (byteAt a (c.start + 11)) inter then .failed stUnsupported
        else
          let plte := ((rest.find? (fun x => x.typ == 0x504C5445)).map (fun x => bytesAt a x.start x.len)).getD []
          let z := ((rest.filter (fun x => x.typ == 0x49444154)).flatMap (fun x => bytesAt a x.start x.len)).toArray
          let data := (if isZlib z && !bitOf (byteAt z 1) 5 then (inflateRaw z 2).out.reverse else []).toArray
          let bpp := pngChannels colour * depth / 8
          let colours := if colour = 3 then some (plte.length / 3) else none
          let ch := if colour = 3 then 3 else pngChannels colour
          let samples := rowSamples depth colour plte.toArray
          if inter = 0 then
            let r := pngRows data bpp w colours h 0 (List.replicate (bpp * w) 0)
            .png w h ch depth (r.rows.flatMap samples) (if r.rows.length < h then some r.rows.length else none) none (b2n r.error + b2n cs.2)
          else
            let r := pngPasses data bpp w h colours adamPasses 0
            let ps := (r.1.map (fun rows => (rows.map (fun row => (samples row).toArray)).toArray)).toArray
            let px (x y k : Nat) : Nat :=
              let p := adamPassOf x y
              let q := nthD (0, 0, 1, 1) adamPasses p
              (((((ps[p]?).getD #[])[(y - q.2.1) / q.2.2.2]?).getD #[])[(x - q.1) / q.2.2.1 * ch + k]?).getD 0
            .png w h ch depth ((List.range h).flatMap (fun y => (List.range w).flatMap (fun x => (List.range ch).map (px x y))))
              none (if r.1.length < 7 then some r.1.length else none) (b2n r.2 + b2n cs.2)

end Sys2Proof.Machine
end

