-- ==== Sys2Proof/Machine/Video.lean ====
section
/-! DEFINITION. The stream forms of video and what a stream declares before its pictures: Annex B, ISO/IEC 14496-12 and IVF files, OBU streams; sequence
headers and the first picture (12 R326, R327, R330). The syntax is that of ITU-T H.264, ITU-T H.265, AV1 and ISO/IEC 14496-12 and -15 (PRESUMED,
notes/assumptions/42.md). -/
namespace Sys2Proof.Machine

/-! ### Reading bits -/

/-- A reader of syntax elements: it goes on from a bit position, or ends with the reason. -/
abbrev Rd (α : Type) := StateT Nat (Except JErr) α

/-- n bits; a flag; n bits passed over. -/
def rdU (a : Octets) (n : Nat) : Rd Nat := fun p => jBits a p n
def rdFlag (a : Octets) : Rd Bool := do return (← rdU a 1) == 1
def rdSkip (a : Octets) (n : Nat) : Rd Unit := fun p => if 8 * a.size < p + n then .error .ended else .ok ((), p + n)

/-- A syntax error. -/
def rdBad {α : Type} : Rd α := fun _ => .error .syntaxError

/-- An unsigned and a signed Exp-Golomb code, of at most 32 leading zeros. -/
def rdUe (a : Octets) : Rd Nat := do
  let z ← unary a 33
  return 2 ^ z - 1 + (← rdU a z)
where unary (a : Octets) (n : Nat) : Rd Nat := fun p =>
  match Machine.unary a n p 0 with
  | .ok r => .ok r
  | .error _ => .error (if 8 * a.size < p + n then .ended else .syntaxError)
def rdSe (a : Octets) : Rd Int := do
  let k ← rdUe a
  return if k % 2 = 1 then ((k + 1) / 2 : Nat) else -((k / 2 : Nat) : Int)

/-- A reader run n times, and when a flag says so. -/
def rdTimes {α : Type} (r : Rd α) : Nat → Rd (List α)
  | 0 => return []
  | n + 1 => do let x ← r; return x :: (← rdTimes r n)
def rdWhen {α : Type} (b : Bool) (dflt : α) (r : Rd α) : Rd α := if b then r else return dflt

/-- What a reader gives on bytes from their first bit on. -/
def Rd.of {α : Type} (r : Octets → Rd α) (bs : List Nat) : Except JErr α := match r bs.toArray 0 with | .ok (x, _) => .ok x | .error e => .error e

/-! ### Sequence parameter sets of H.264 -/

/-- The start of the video usability information of H.264 and H.265: the range and the matrix coefficients. -/
def rdVui (a : Octets) : Rd (Bool × Nat) := do
  if ← rdFlag a then
    let idc ← rdU a 8
    rdSkip a (if idc = 255 then 32 else 0)
  if ← rdFlag a then rdSkip a 1
  if ← rdFlag a then
    rdSkip a 3
    let full ← rdFlag a
    if ← rdFlag a then
      rdSkip a 16
      return (full, ← rdU a 8)
    else return (full, 2)
  else return (false, 2)

/-- A scaling list of H.264 passed over: n coefficients left, the last one and the next. -/
def rdScaling (a : Octets) : Nat → Int → Int → Rd Unit
  | 0, _, _ => return ()
  | n + 1, last, next => do
    let nx ← rdWhen (next != 0) next (do return (last + (← rdSe a) + 256) % 256)
    rdScaling a n (if nx = 0 then last else nx) nx

/-- The scaling lists of H.264 from number i on. -/
def rdScalings (a : Octets) : Nat → Nat → Rd Unit
  | 0, _ => return ()
  | n + 1, i => do
    if ← rdFlag a then rdScaling a (if i < 6 then 16 else 64) 8 8
    rdScalings a n (i + 1)

/-- A sequence parameter set of H.264: its number, what it declares, and how a slice header is read under it: the bits of colour_plane_id and of frame_num,
and frame_mbs_only_flag. -/
structure AvcSps where
  id : Nat
  head : VideoHead
  plane : Nat
  frameNum : Nat
  frameMbsOnly : Bool
deriving DecidableEq, Repr, Inhabited

/-- seq_parameter_set_data (H.264 7.3.2.1.1), behind the NAL unit header. -/
def rdAvcSps (a : Octets) : Rd AvcSps := do
  rdSkip a 8
  let profile ← rdU a 8
  let flags ← rdU a 8
  rdSkip a 8
  let id ← rdUe a
  let high := [100, 110, 122, 244, 44, 83, 86, 118, 128, 138, 139, 134, 135].contains profile
  let (chroma, planes, dl, dc) ← rdWhen high (1, false, 8, 8) (do
    let c ← rdUe a
    let planes ← rdWhen (c == 3) false (rdFlag a)
    let dl ← rdUe a
    let dc ← rdUe a
    rdSkip a 1
    if ← rdFlag a then rdScalings a (if c = 3 then 12 else 8) 0
    return (c, planes, dl + 8, dc + 8))
  let frameNum ← rdUe a
  let poc ← rdUe a
  if poc = 0 then let _ ← rdUe a
  else if poc = 1 then
    rdSkip a 1
    let _ ← rdSe a
    let _ ← rdSe a
    let n ← rdUe a
    if 255 < n then rdBad
    let _ ← rdTimes (rdSe a) n
  let _ ← rdUe a
  rdSkip a 1
  let w ← rdUe a
  let h ← rdUe a
  let only ← rdFlag a
  let mbaff ← rdWhen (!only) false (rdFlag a)
  rdSkip a 1
  let crop ← rdWhen (← rdFlag a) [] (rdTimes (rdUe a) 4)
  let (full, mat) ← rdWhen (← rdFlag a) (false, 2) (rdVui a)
  let fields := if only then 1 else 2
  let cw := if chroma = 1 ∨ chroma = 2 then 2 else 1
  let ch := (if chroma = 1 then 2 else 1) * fields
  let cutW := cw * (nthD 0 crop 0 + nthD 0 crop 1)
  let cutH := ch * (nthD 0 crop 2 + nthD 0 crop 3)
  if 16 * (w + 1) ≤ cutW ∨ 16 * fields * (h + 1) ≤ cutH ∨ 31 < id ∨ 3 < chroma ∨ 14 < dl ∨ 14 < dc ∨ 12 < frameNum ∨ 2 < poc then rdBad
  return { id := id, plane := if planes then 2 else 0, frameNum := frameNum + 4, frameMbsOnly := only
           head := { profile := profile, constrained := bitOf flags 6, chroma := if planes then 3 else chroma, depth := dl, depthC := if chroma = 0 then dl else dc
                     interlaced := mbaff, mat := mat, full := full
                     width := 16 * (w + 1) - cutW, height := 16 * fields * (h + 1) - cutH } }

/-- The numbers of a picture parameter set and of the sequence parameter set it names, behind a NAL unit header of n bits; of H.264 and of H.265. -/
def rdPps (n : Nat) (a : Octets) : Rd (Nat × Nat) := do
  rdSkip a n
  let p ← rdUe a
  let s ← rdUe a
  if 255 < p ∨ 31 < s then rdBad
  return (p, s)

/-! ### H.265 sequence parameter sets -/

/-- A short-term reference picture set by the one before it in the table: the negative and the positive distances, nearest first (H.265 7.3.7, 7.4.8). -/
def rdRefSet (a : Octets) (first : Bool) (ref : List Int × List Int) : Rd (List Int × List Int) := do
  if ← rdWhen (!first) false (rdFlag a) then
    let sign ← rdFlag a
    let m ← rdUe a
    let dl : Int := if sign then -((m : Int) + 1) else (m : Int) + 1
    let used ← rdTimes (do
      let u ← rdFlag a
      if u then return true else rdFlag a) (ref.1.length + ref.2.length + 1)
    let put (i : Nat) (v : Int) : List Int := if nthD false used i then [v] else []
    let s0 := (ref.1.zipIdx).flatMap (fun x => put x.2 (x.1 + dl))
    let s1 := (ref.2.zipIdx).flatMap (fun x => put (ref.1.length + x.2) (x.1 + dl))
    let own := put (ref.1.length + ref.2.length) dl
    return ((s1.reverse ++ own ++ s0).filter (fun v => decide (v < 0)), (s0.reverse ++ own ++ s1).filter (fun v => decide (0 < v)))
  else
    let n ← rdUe a
    let p ← rdUe a
    if 16 < n ∨ 16 < p then rdBad
    let step : Rd Nat := do
      let v ← rdUe a
      rdSkip a 1
      return v + 1
    let ns ← rdTimes step n
    let ps ← rdTimes step p
    return ((List.range n).map (fun i => -((sumNat (ns.take (i + 1)) : Nat) : Int)), (List.range p).map (fun i => ((sumNat (ps.take (i + 1)) : Nat) : Int)))

/-- The table of n sets, each after the one before. -/
def rdRefSets (a : Octets) : Nat → Bool → List Int × List Int → Rd Unit
  | 0, _, _ => return ()
  | n + 1, first, ref => do let r ← rdRefSet a first ref; rdRefSets a n false r

/-- scaling_list_data of H.265 passed over (7.3.4). -/
def rdHevcScaling (a : Octets) : Rd Unit := do
  let one (size : Nat) : Rd Unit := do
    if ← rdFlag a then
      if 1 < size then let _ ← rdSe a
      let _ ← rdTimes (rdSe a) (min 64 (2 ^ (4 + 2 * size)))
    else let _ ← rdUe a
  let _ ← rdTimes (one 0) 6
  let _ ← rdTimes (one 1) 6
  let _ ← rdTimes (one 2) 6
  let _ ← rdTimes (one 3) 2

/-- profile_tier_level: the profile and the compatibility flags (7.3.3). -/
def rdTier (a : Octets) (subLayers : Nat) : Rd (Nat × List Bool) := do
  rdSkip a 3
  let profile ← rdU a 5
  let compat ← rdTimes (rdFlag a) 32
  rdSkip a 56
  let sub ← rdTimes (do let p ← rdFlag a; return (p, ← rdFlag a)) subLayers
  if 0 < subLayers then rdSkip a (2 * (8 - subLayers))
  rdSkip a (sumNat (sub.map (fun x => 88 * b2n x.1 + 8 * b2n x.2)))
  return (profile, compat)

/-- seq_parameter_set_rbsp (H.265 7.3.2.2), behind the NAL unit header: its number and what it declares. -/
def rdHevcSps (a : Octets) : Rd (Nat × VideoHead) := do
  rdSkip a 16
  rdSkip a 4
  let sub ← rdU a 3
  rdSkip a 1
  let (profile, compat) ← rdTier a sub
  let id ← rdUe a
  let chroma ← rdUe a
  let planes ← rdWhen (chroma == 3) false (rdFlag a)
  let w ← rdUe a
  let h ← rdUe a
  let crop ← rdWhen (← rdFlag a) [] (rdTimes (rdUe a) 4)
  let dl ← rdUe a
  let dc ← rdUe a
  let poc ← rdUe a
  let all ← rdFlag a
  let _ ← rdTimes (rdUe a) (3 * (if all then sub + 1 else 1))
  let _ ← rdTimes (rdUe a) 6
  if ← rdFlag a then
    if ← rdFlag a then rdHevcScaling a
  rdSkip a 2
  if ← rdFlag a then
    rdSkip a 8
    let _ ← rdUe a
    let _ ← rdUe a
    rdSkip a 1
  let sets ← rdUe a
  if 64 < sets ∨ 15 < id ∨ 3 < chroma ∨ 8 < dl ∨ 8 < dc ∨ 12 < poc ∨ 6 < sub then rdBad
  rdRefSets a sets true ([], [])
  if ← rdFlag a then
    let n ← rdUe a
    if 32 < n then rdBad
    rdSkip a (n * (poc + 5))
  rdSkip a 2
  let (full, mat) ← rdWhen (← rdFlag a) (false, 2) (rdVui a)
  let cutW := (if chroma = 1 ∨ chroma = 2 then 2 else 1) * (nthD 0 crop 0 + nthD 0 crop 1)
  let cutH := (if chroma = 1 then 2 else 1) * (nthD 0 crop 2 + nthD 0 crop 3)
  if w ≤ cutW ∨ h ≤ cutH then rdBad
  return (id, { profile := profile, compat := compat, chroma := if planes then 3 else chroma, depth := dl + 8, depthC := if chroma = 0 then dl + 8 else dc + 8
                width := w - cutW, height := h - cutH, mat := mat, full := full })

/-! ### NAL units -/

/-- Whether a start code prefix stands at a byte, and whether a run of three zeros does. -/
def startCode (a : Octets) (i : Nat) : Bool := byteAt a i == 0 && byteAt a (i + 1) == 0 && byteAt a (i + 2) == 1 && decide (i + 3 ≤ a.size)

/-- The NAL units of a byte stream from byte i on, each without the zeros behind it; `cur` is the one being read, newest byte first. -/
def nalUnits (a : Octets) : Nat → Nat → Option (List Nat) → List (List Nat)
  | 0, _, _ => []
  | n + 1, i, cur =>
    let done := match cur with | some c => let u := (c.dropWhile (· == 0)).reverse; if u.isEmpty then [] else [u] | none => []
    if a.size ≤ i then done
    else if startCode a i then done ++ nalUnits a n (i + 3) (some [])
    else nalUnits a n (i + 1) (cur.map (byteAt a i :: ·))

/-- Whether bytes are a byte stream (Annex B): zeros up to a start code, or nothing but zeros as far as they go. -/
def annexB (bs : List Nat) : Bool := match bs.dropWhile (· == 0) with | [] => true | b :: _ => b == 1 && decide (2 ≤ (bs.takeWhile (· == 0)).length)

/-- A NAL unit without its emulation prevention bytes; `z` counts the zeros before. -/
def rbsp : Nat → List Nat → List Nat
  | _, [] => []
  | z, b :: bs => if 2 ≤ z ∧ b = 3 then rbsp 0 bs else b :: rbsp (if b = 0 then z + 1 else 0) bs

/-- The entry of a table by its key. -/
def paramSet {α : Type} (t : List (Nat × α)) (k : Nat) : Option α := (t.find? (fun x => x.1 == k)).map Prod.snd

/-- What the NAL units read so far have given: the parameter sets, the newest first; of each coded picture's sequence header once; and whether a syntax error
came before the first picture. -/
structure NalRun (σ : Type) where
  sps : List (Nat × σ) := []
  pps : List (Nat × Nat) := []
  heads : List VideoHead := []
  bad : Bool := false

/-- The sequence header of a further picture noted. -/
def NalRun.see {σ : Type} (r : NalRun σ) (h : VideoHead) : NalRun σ := if r.heads.contains h then r else { r with heads := r.heads ++ [h] }

/-- A unit that cannot be read: before the first picture it leaves the stream without a header (12 R327). -/
def NalRun.fail {σ : Type} (r : NalRun σ) : NalRun σ := if r.heads.isEmpty then { r with bad := true } else r

/-- The slice header of H.264 as far as field_pic_flag (7.3.3): the slice type, the sequence header, and whether it is of a field. -/
def rdAvcSlice (sps : List (Nat × AvcSps)) (pps : List (Nat × Nat)) (a : Octets) : Rd (Nat × AvcSps × Bool) := do
  rdSkip a 8
  let _ ← rdUe a
  let ty ← rdUe a
  let p ← rdUe a
  match (paramSet pps p).bind (paramSet sps) with
  | some s =>
    rdSkip a (s.plane + s.frameNum)
    let field ← rdWhen (!s.frameMbsOnly) false (rdFlag a)
    if 9 < ty then rdBad
    return (ty % 5, s, field)
  | none => rdBad

/-- A NAL unit of H.264. The first coded slice is decodable when it is of an IDR picture or intra. -/
def avcUnit (r : NalRun AvcSps) (u : List Nat) : NalRun AvcSps :=
  let b := rbsp 0 u
  match nthD 0 u 0 % 32 with
  | 7 => match Rd.of rdAvcSps b with
    | .ok s => { r with sps := (s.id, s) :: r.sps }
    | .error _ => r.fail
  | 8 => match Rd.of (rdPps 8) b with | .ok x => { r with pps := x :: r.pps } | .error _ => r.fail
  | 1 | 2 | 5 => match Rd.of (rdAvcSlice r.sps r.pps) b with
    | .ok (ty, s, field) =>
      if r.heads.isEmpty && nthD 0 u 0 % 32 != 5 && ty != 2 then r.fail
      else r.see { s.head with interlaced := s.head.interlaced || field }
    | .error _ => r.fail
  | _ => r

/-- A NAL unit of H.265, of the base layer; another layer makes the stream one of several. The first coded slice is decodable when its picture is an IRAP. -/
def hevcUnit (r : NalRun VideoHead) (u : List Nat) : NalRun VideoHead :=
  let b := rbsp 0 u
  let ty := nthD 0 u 0 / 2 % 64
  if ty = 33 then match Rd.of rdHevcSps b with | .ok x => { r with sps := x :: r.sps } | .error _ => r.fail
  else if ty = 34 then match Rd.of (rdPps 16) b with | .ok x => { r with pps := x :: r.pps } | .error _ => r.fail
  else if ty < 32 then
    let irap := decide (16 ≤ ty) && decide (ty < 24)
    match Rd.of (fun a => do rdSkip a (17 + b2n irap); rdUe a) b with
    | .ok p => match (paramSet r.pps p).bind (paramSet r.sps) with
      | some h => if r.heads.isEmpty && !irap then r.fail else r.see h
      | none => r.fail
    | .error _ => r.fail
  else r

/-- The layer of a NAL unit of H.265. -/
def hevcLayer (u : List Nat) : Nat := nthD 0 u 0 % 2 * 32 + nthD 0 u 1 / 8

/-! ### AV1 -/

/-- A number of AV1 in groups of 7 bits, of at most 8 bytes, and the byte behind it. -/
def leb128 (a : Octets) : Nat → Nat → Option (Nat × Nat)
  | 0, _ => none
  | n + 1, i =>
    if a.size ≤ i then none
    else if byteAt a i < 128 then some (byteAt a i, i + 1)
    else (leb128 a n (i + 1)).map (fun x => (byteAt a i % 128 + 128 * x.1, x.2))

/-- The OBUs from byte i up to byte e, each as its type and its payload, as far as their sizes can be read; one without a size reaches to the end, and one that
the data end in is cut there. -/
def obus (a : Octets) (e : Nat) : Nat → Nat → List (Nat × List Nat)
  | 0, _ => []
  | n + 1, i =>
    let h := byteAt a i
    let j0 := i + 1 + h / 4 % 2
    match (if e ≤ i ∨ 128 ≤ h then none else if h / 2 % 2 = 1 then leb128 a 8 j0 else some (e - j0, j0)) with
    | some (k, j) => (h / 8 % 16, bytesAt a j (min k (e - j))) :: obus a e n (j + k)
    | none => []

/-- uvlc() of AV1 passed over. -/
def rdUvlc (a : Octets) : Rd Unit := do let _ ← rdUe a

/-- The operating points of a sequence header; gives the level of number 0. -/
def rdPoints (a : Octets) (delay : Option Nat) (display : Bool) : Nat → Rd Nat
  | 0 => return 0
  | n + 1 => do
    rdSkip a 12
    let level ← rdU a 5
    if 7 < level then rdSkip a 1
    match delay with
    | some k =>
      if ← rdFlag a then rdSkip a (2 * k + 1)
    | none => pure ()
    if display then
      if ← rdFlag a then rdSkip a 4
    let _ ← rdPoints a delay display n
    return level

/-- sequence_header_obu (AV1 5.5): what it declares, and whether it is of a reduced still picture. -/
def rdAv1Sequence (a : Octets) : Rd (VideoHead × Bool) := do
  let profile ← rdU a 3
  rdSkip a 1
  let still ← rdFlag a
  let level ← if still then rdU a 5 else do
    let model ← rdWhen (← rdFlag a) none (do
      rdSkip a 64
      if ← rdFlag a then rdUvlc a
      rdWhen (← rdFlag a) none (do
        let k ← rdU a 5
        rdSkip a 42
        return some (k + 1)))
    let display ← rdFlag a
    let n ← rdU a 5
    rdPoints a model display (n + 1)
  let wb ← rdU a 4
  let hb ← rdU a 4
  let w ← rdU a (wb + 1)
  let h ← rdU a (hb + 1)
  if !still then
    if ← rdFlag a then rdSkip a 7
  rdSkip a 3
  if !still then
    rdSkip a 4
    let order ← rdFlag a
    if order then rdSkip a 2
    let force ← if ← rdFlag a then pure 2 else rdU a 1
    if 0 < force then
      if !(← rdFlag a) then rdSkip a 1
    if order then rdSkip a 3
  rdSkip a 3
  let high ← rdFlag a
  let twelve ← rdWhen (profile == 2 && high) false (rdFlag a)
  let mono ← rdWhen (profile != 1) false (rdFlag a)
  let cs ← rdWhen (← rdFlag a) [2, 2, 2] (rdTimes (rdU a 8) 3)
  let depth := if twelve then 12 else if high then 10 else 8
  let head (chroma : Nat) (full : Bool) : VideoHead :=
    { profile := profile, level := level, chroma := chroma, depth := depth, depthC := depth, width := w + 1, height := h + 1, mat := nthD 2 cs 2, full := full }
  if mono then return (head 0 (← rdFlag a), still)
  else if cs = [1, 13, 0] then return (head 3 true, still)
  else
    let full ← rdFlag a
    return (head (if profile = 0 then 1 else if profile = 1 then 3 else 2) full, still)

/-- Whether a frame header begins a frame that needs no other: shown for the first time, a key frame or intra only. -/
def av1Intra (still : Bool) (b : List Nat) : Bool := still || (nthD 0 b 0 / 128 == 0 && nthD 0 b 0 / 32 % 2 == 0)

/-- An OBU: the sequence headers of the frames, each once, with the newest one. -/
def av1Unit (r : NalRun (VideoHead × Bool)) (u : Nat × List Nat) : NalRun (VideoHead × Bool) :=
  match u.1 with
  | 1 => match Rd.of rdAv1Sequence u.2 with | .ok x => { r with sps := [(0, x)] } | .error _ => r.fail
  | 3 | 6 => match paramSet r.sps 0 with
    | some (h, still) => if r.heads.isEmpty && !av1Intra still u.2 then r.fail else r.see h
    | none => r.fail
  | _ => r

/-! ### ISO/IEC 14496-12 files -/

/-- The four characters of a box type as a number. -/
def fourcc (a b c d : Char) : Nat := ofBE ([a, b, c, d].map Char.toNat)

/-- The boxes from a byte up to another: each its type, where its body begins, where it ends. One that the data end in is not there yet. -/
def boxes (a : Octets) (e : Nat) : Nat → Nat → List (Nat × Nat × Nat)
  | 0, _ => []
  | n + 1, i =>
    if e < i + 8 then []
    else
      let k := beAt a i 4
      let big := k == 1
      let body := if big then i + 16 else i + 8
      let z := if k = 0 then e else if big then i + beAt a (i + 8) 8 else i + k
      if z < body ∨ e < z then [] else (beAt a (i + 4) 4, body, z) :: boxes a e n z

/-- The boxes of a type inside a stretch. -/
def within (a : Octets) (t : Nat) (r : Nat × Nat) : List (Nat × Nat) := ((boxes a r.2 (r.2 - r.1) r.1).filter (fun b => b.1 == t)).map Prod.snd

/-- The first box along a path of types. -/
def boxAt (a : Octets) : List Nat → Nat × Nat → Option (Nat × Nat)
  | [], r => some r
  | t :: ts, r => ((within a t r).head?).bind (boxAt a ts)

/-- Entries of n bytes in a table that begins with its count. -/
def tableAt (a : Octets) (i n : Nat) : List Nat := (List.range (min (beAt a i 4) a.size)).map (fun k => i + 4 + n * k)

/-- The sample sizes of a track (stsz, stz2). -/
def sampleSizes (a : Octets) (stbl : Nat × Nat) : List Nat :=
  match boxAt a [fourcc 's' 't' 's' 'z'] stbl, boxAt a [fourcc 's' 't' 'z' '2'] stbl with
  | some b, _ =>
    if beAt a (b.1 + 4) 4 = 0 then (tableAt a (b.1 + 8) 4).map (fun i => beAt a i 4)
    else List.replicate (min (beAt a (b.1 + 8) 4) a.size) (beAt a (b.1 + 4) 4)
  | none, some b =>
    let f := byteAt a (b.1 + 7)
    (List.range (min (beAt a (b.1 + 8) 4) (2 * a.size))).map (fun k =>
      if f = 4 then (if k % 2 = 0 then byteAt a (b.1 + 12 + k / 2) / 16 else byteAt a (b.1 + 12 + k / 2) % 16) else beAt a (b.1 + 12 + f / 8 * k) (f / 8))
  | none, none => []

/-- Samples of the sizes laid one after the other from a byte on: each as its place and its size. -/
def laidFrom : Nat → List Nat → List (Nat × Nat)
  | _, [] => []
  | i, k :: ks => (i, k) :: laidFrom (i + k) ks

/-- The samples of the chunks (stsc), by the chunks' places and how many samples each holds. -/
def chunkSamples : List (Nat × Nat) → List Nat → List (Nat × Nat)
  | [], _ => []
  | (at', n) :: cs, ks => laidFrom at' (ks.take n) ++ chunkSamples cs (ks.drop n)

/-- The samples of a track's own table: place and size of each, in decoding order. -/
def trackSamples (a : Octets) (stbl : Nat × Nat) : List (Nat × Nat) :=
  let at32 := (boxAt a [fourcc 's' 't' 'c' 'o'] stbl).map (fun b => (tableAt a (b.1 + 4) 4).map (fun i => beAt a i 4))
  let at64 := (boxAt a [fourcc 'c' 'o' '6' '4'] stbl).map (fun b => (tableAt a (b.1 + 4) 8).map (fun i => beAt a i 8))
  let places := (at32.orElse (fun _ => at64)).getD []
  let runs := match boxAt a [fourcc 's' 't' 's' 'c'] stbl with | some b => (tableAt a (b.1 + 4) 12).map (fun i => (beAt a i 4, beAt a (i + 4) 4)) | none => []
  let count (c : Nat) : Nat := (((runs.filter (fun r => decide (r.1 ≤ c + 1))).getLast?).map Prod.snd).getD 0
  chunkSamples ((places.zipIdx).map (fun p => (p.1, count p.2))) (sampleSizes a stbl)

/-- The samples of a track fragment run (trun): the base place, where the run before it ended, the default size. -/
def runSamples (a : Octets) (base next size : Nat) (b : Nat × Nat) : List (Nat × Nat) :=
  let fl := beAt a (b.1 + 1) 3
  let n := min (beAt a (b.1 + 4) 4) a.size
  let i := b.1 + 8 + 4 * b2n (bitOf fl 0) + 4 * b2n (bitOf fl 2)
  let k := 4 * (b2n (bitOf fl 8) + b2n (bitOf fl 9) + b2n (bitOf fl 10) + b2n (bitOf fl 11))
  let first := if bitOf fl 0 then ((base : Int) + toSigned 32 (beAt a (b.1 + 8) 4)).toNat else next
  laidFrom first ((List.range n).map (fun x => if bitOf fl 9 then beAt a (i + k * x + 4 * b2n (bitOf fl 8)) 4 else size))

/-- The samples of the runs of a fragment, one run after the other. -/
def runsSamples (a : Octets) (base size : Nat) : List (Nat × Nat) → Nat → List (Nat × Nat)
  | [], _ => []
  | b :: bs, next =>
    let s := runSamples a base next size b
    s ++ runsSamples a base size bs (((s.getLast?).map (fun x => x.1 + x.2)).getD next)

/-- The samples of a track in a movie fragment (moof) whose box begins at `start`. -/
def fragmentSamples (a : Octets) (track size start : Nat) (moof : Nat × Nat) : List (Nat × Nat) :=
  (within a (fourcc 't' 'r' 'a' 'f') moof).flatMap (fun tr =>
    match boxAt a [fourcc 't' 'f' 'h' 'd'] tr with
    | some b =>
      let fl := beAt a (b.1 + 1) 3
      let opt (bit n : Nat) : Nat := n * b2n (bitOf fl bit)
      let base := if bitOf fl 0 then beAt a (b.1 + 8) 8 else start
      let sz := if bitOf fl 4 then beAt a (b.1 + 8 + opt 0 8 + opt 1 4 + opt 3 4) 4 else size
      if beAt a (b.1 + 4) 4 = track then runsSamples a base sz (within a (fourcc 't' 'r' 'u' 'n') tr) base else []
    | none => [])

/-- The first video track of a file: its number and its sample tables; none where the movie box is not there yet. -/
def videoTrack (a : Octets) : Option (Option (Nat × Nat × Nat)) :=
  (boxAt a [fourcc 'm' 'o' 'o' 'v'] (0, a.size)).map (fun moov =>
    match (within a (fourcc 't' 'r' 'a' 'k') moov).find? (fun t =>
      (boxAt a [fourcc 'm' 'd' 'i' 'a', fourcc 'h' 'd' 'l' 'r'] t).any (fun h => beAt a (h.1 + 8) 4 == fourcc 'v' 'i' 'd' 'e')) with
    | some t => match boxAt a [fourcc 't' 'k' 'h' 'd'] t, boxAt a [fourcc 'm' 'd' 'i' 'a', fourcc 'm' 'i' 'n' 'f', fourcc 's' 't' 'b' 'l'] t with
      | some k, some s => some (beAt a (k.1 + (if byteAt a k.1 = 1 then 20 else 12)) 4, s)
      | _, _ => none
    | none => none)

/-- The default sample size of a track in fragments (trex). -/
def trexSize (a : Octets) (track : Nat) : Nat :=
  match (boxAt a [fourcc 'm' 'o' 'o' 'v', fourcc 'm' 'v' 'e' 'x'] (0, a.size)).bind (fun m =>
    (within a (fourcc 't' 'r' 'e' 'x') m).find? (fun b => beAt a (b.1 + 4) 4 == track)) with
  | some b => beAt a (b.1 + 16) 4
  | none => 0

/-- The samples of a track in a file: those of its table, then those of the fragments, in order; a sample that the data end in is cut there. -/
def fileSamples (a : Octets) (track : Nat) (stbl : Nat × Nat) : List (List Nat) :=
  let size := trexSize a track
  let frags := ((boxes a a.size a.size 0).filter (fun b => b.1 == fourcc 'm' 'o' 'o' 'f')).flatMap (fun b => fragmentSamples a track size (b.2.1 - 8) b.2)
  (trackSamples a stbl ++ frags).map (fun s => bytesAt a s.1 (min s.2 (a.size - s.1)))

/-- The body of the decoder configuration in the first sample entry of one of the types given. -/
def configBox (a : Octets) (types : List Nat) (conf : Nat) (stbl : Nat × Nat) : Option (Nat × Nat) :=
  match boxAt a [fourcc 's' 't' 's' 'd'] stbl with
  | some d => match (boxes a d.2 (d.2 - d.1) (d.1 + 8)).head? with
    | some e => if types.contains e.1 then boxAt a [conf] (e.2.1 + 78, e.2.2) else none
    | none => none
  | none => none

/-- n units from byte i on, each behind its length of 2 bytes; and the byte behind them. -/
def countedUnits (a : Octets) : Nat → Nat → List (List Nat) × Nat
  | 0, i => ([], i)
  | n + 1, i =>
    let k := beAt a i 2
    let r := countedUnits a n (i + 2 + k)
    (bytesAt a (i + 2) k :: r.1, r.2)

/-- The arrays of parameter sets of an HEVC configuration. -/
def hevcArrays (a : Octets) : Nat → Nat → List (List Nat)
  | 0, _ => []
  | n + 1, i => let r := countedUnits a (beAt a (i + 1) 2) (i + 3); r.1 ++ hevcArrays a n r.2

/-- The NAL units of a sample, each behind a length of `len` bytes, as far as they go. -/
def sampleUnits (len : Nat) : Nat → List Nat → List (List Nat)
  | 0, _ => []
  | n + 1, bs => if bs.length ≤ len then [] else let k := ofBE (bs.take len); ((bs.drop len).take k) :: sampleUnits len n (bs.drop (len + k))

/-! ### Streams -/

/-- How bytes are read as a stream: not one of a form of R326, one that ends before anything of it can be read, or its NAL units or OBUs. -/
inductive Units where
  | none | ended
  | nal (us : List (List Nat))
  | obu (us : List (Nat × List Nat))
deriving DecidableEq, Repr

/-- Whether bytes are an ISO/IEC 14496-12 file, by the type of their first box. -/
def isoFile (a : Octets) : Bool :=
  decide (8 ≤ a.size) && ([fourcc 'f' 't' 'y' 'p', fourcc 's' 't' 'y' 'p', fourcc 'm' 'o' 'o' 'v', fourcc 'm' 'o' 'o' 'f', fourcc 'm' 'd' 'a' 't',
    fourcc 'f' 'r' 'e' 'e', fourcc 's' 'k' 'i' 'p', fourcc 'w' 'i' 'd' 'e', fourcc 'p' 'd' 'i' 'n', fourcc 's' 'i' 'd' 'x', fourcc 'u' 'u' 'i' 'd'].contains (beAt a 4 4))

/-- The units of a file by its first video track (12 R326). -/
def fileUnits (media : Nat) (a : Octets) : Units :=
  match videoTrack a with
  | none => .ended
  | some none => .none
  | some (some (track, stbl)) =>
    let ss := fileSamples a track stbl
    match media with
    | 3 => match configBox a [fourcc 'a' 'v' 'c' '1', fourcc 'a' 'v' 'c' '3'] (fourcc 'a' 'v' 'c' 'C') stbl with
      | some b =>
        let s := countedUnits a (byteAt a (b.1 + 5) % 32) (b.1 + 6)
        .nal (s.1 ++ (countedUnits a (byteAt a s.2) (s.2 + 1)).1 ++ ss.flatMap (fun x => sampleUnits (byteAt a (b.1 + 4) % 4 + 1) x.length x))
      | none => .none
    | 4 => match configBox a [fourcc 'h' 'v' 'c' '1', fourcc 'h' 'e' 'v' '1'] (fourcc 'h' 'v' 'c' 'C') stbl with
      | some b => .nal (hevcArrays a (byteAt a (b.1 + 22)) (b.1 + 23) ++ ss.flatMap (fun x => sampleUnits (byteAt a (b.1 + 21) % 4 + 1) x.length x))
      | none => .none
    | _ => match configBox a [fourcc 'a' 'v' '0' '1'] (fourcc 'a' 'v' '1' 'C') stbl with
      | some b => .obu (obus a b.2 b.2 (b.1 + 4) ++ ss.flatMap (fun x => obus x.toArray x.length (x.length + 1) 0))
      | none => .none

/-- The frames of an IVF file from byte i on, the last cut where the data end. -/
def ivfFrames (a : Octets) : Nat → Nat → List (List Nat)
  | 0, _ => []
  | n + 1, i => if a.size < i + 12 then [] else
    let k := leAt a i 4
    bytesAt a (i + 12) (min k (a.size - (i + 12))) :: ivfFrames a n (i + 12 + k)

/-- The units of a video stream (12 R326). -/
def videoUnits (media : Nat) (bs : List Nat) : Units :=
  let a := bs.toArray
  if isoFile a then fileUnits media a
  else if media = 3 ∨ media = 4 then if annexB bs then .nal (nalUnits a (a.size + 1) 0 none) else .none
  else if startsAs bs [0x44, 0x4B, 0x49, 0x46] then
    if a.size < 12 then .ended
    else if tagAt a 8 [0x41, 0x56, 0x30, 0x31] then .obu ((ivfFrames a (a.size + 1) (leAt a 6 2)).flatMap (fun x => obus x.toArray x.length (x.length + 1) 0))
    else .none
  else if startsAs bs [0x12, 0x00] then .obu (obus a a.size (a.size + 1) 0)
  else .none

/-- The sequence headers of a stream's pictures, each once, the first picture's first; or the status of one outside R326 by its form, or in which no complete
header with a decodable first picture comes before the data end or a syntax error (12 R327). -/
def videoHeads (media : Nat) (us : Units) : Except Nat (List VideoHead) :=
  let out {σ : Type} (layered : Bool) (r : NalRun σ) : Except Nat (List VideoHead) :=
    if r.bad || r.heads.isEmpty then .error stNoHeader else .ok (r.heads.map (fun h => { h with layered := layered }))
  match us with
  | .none => .error stUnsupported
  | .ended => .error stNoHeader
  | .nal us =>
    if media = 3 then out false (us.foldl avcUnit {})
    else out (us.any (fun u => hevcLayer u != 0)) ((us.filter (fun u => hevcLayer u == 0)).foldl hevcUnit {})
  | .obu us => out false (us.foldl av1Unit {})

/-- Whether R326 supports what a sequence header declares. -/
def headSupported (media : Nat) (v : VideoHead) : Bool :=
  v.depth == v.depthC && (match media with
    | 3 => !v.interlaced && v.depth == 8 && decide (v.chroma ≤ 1)
        && (v.profile == 77 || v.profile == 100 || ((v.profile == 66 || v.profile == 88) && v.constrained))
    | 4 => !v.layered && v.chroma == 1 && (((v.profile == 1 || nthD false v.compat 1) && v.depth == 8)
        || ((v.profile == 2 || nthD false v.compat 2) && (v.depth == 8 || v.depth == 10)))
    | _ => v.profile == 0 && (v.depth == 8 || v.depth == 10) && decide (v.chroma ≤ 1) && decide (v.level ≤ 13))

end Sys2Proof.Machine
end

