-- ==== Sys2Proof/Machine/MediaOps.lean ====
section
/-! DEFINITION. Video and audio decodes brought to samples, the scaler, the augmentation operations' work on a sample, its tokens (12 R330, R332,
R344 to R349). -/
namespace Sys2Proof.Machine

/-! ### The scaler (12 R346) -/

/-- The taps of output index o on an axis scaled from I to O: (input index, weight of 14 bits). -/
def scaleTaps (i o idx : Nat) : List (Int × Int) :=
  let two : Int := 2 * o
  let u : Int := (2 * idx + 1) * i - o
  let r : Int := 2 * max i o
  let lo := Int.fdiv (u - r) two
  let n := (Int.fdiv (u + r) two - lo + 1).toNat
  let ks := ((List.range n).map (fun k => lo + (k : Int))).filterMap (fun t =>
    let a : Int := ((two * t - u).natAbs : Nat)
    if a < r then some (t, r - a) else none)
  let total := (sumInt (ks.map Prod.snd)).toNat
  let ws := ks.map (fun k => (k.1, rneInt (k.2 * 16384) total))
  let short := 16384 - sumInt (ws.map Prod.snd)
  let top := (ws.map Prod.snd).foldl max 0
  match ws.findIdx? (fun w => w.2 == top) with
  | some m => modNth (fun w => (w.1, w.2 + short)) ws m
  | none => ws

/-- The weighted sum of taps. -/
def tapSum (ts : List (Int × Int)) (f : Int → Int) : Int := sumInt (ts.map (fun t => t.2 * f t.1))

/-- A plane scaled, horizontal pass first. -/
def scalePlane (p : Plane) (w h depth : Nat) : Plane :=
  let tx := (List.range w).map (fun x => scaleTaps p.w w x)
  let ty := (List.range h).map (fun y => scaleTaps p.h h y)
  let mid (x : Nat) (y : Int) : Int := sar (tapSum (nthD [] tx x) (fun i => (p.at i y : Int)) + 128) 8
  planeOf w h (fun x y => clampTo (2 ^ depth - 1) (sar (tapSum (nthD [] ty y) (mid x) + 2 ^ 19) 20))

/-- A requested extent brought within the ratios of the scaler. -/
def scaleExtent (i o : Nat) : Nat := max (ceilDiv i 16) (min (16 * i) o)

/-- The channels of one interleaved frame. -/
def framePlanes (ch w h : Nat) (px : List Nat) : List Plane := (List.range ch).map (fun c => planeOf w h (fun x y => nthD 0 px ((y * w + x) * ch + c)))

/-- Channels interleaved into a frame. -/
def interleave (ps : List Plane) (w h : Nat) : List Nat :=
  (List.range h).flatMap (fun (y : Nat) => (List.range w).flatMap (fun (x : Nat) => ps.map (fun p => p.at x y)))

/-- An interleaved frame scaled. -/
def scaleFrame (ch depth w h w' h' : Nat) (px : List Nat) : List Nat := interleave ((framePlanes ch w h px).map (fun p => scalePlane p w' h' depth)) w' h'

/-! ### Video (12 R330, R333, R335, R336, R343) -/

/-- A grey sample of a video: the luma row of R336 with no chroma. -/
def greyVideo (depth : Nat) (full : Bool) (y : Nat) : Nat :=
  if full then y
  else
    let sc := 2 ^ (depth - 8); let top : Nat := 2 ^ depth - 1
    clampTo top (sar (fix16 ⟨top, 219 * sc⟩ * y + fix16 ⟨-((top * 16 * sc : Nat) : Int), 219 * sc⟩ + 32768) 16)

/-- 4:2:0 planes of a picture converted into interleaved channels. -/
def convert420 (vis depth code : Nat) (mono full : Bool) (w h : Nat) (y cb cr : List Nat) : List Nat :=
  let py : Plane := { w := w, h := h, px := y }
  let up (c : List Nat) : Plane := upsample { w := ceilDiv w 2, h := ceilDiv h 2, px := c } 2 2 w h
  if mono then y.flatMap (fun v => greyChannels vis (greyVideo depth full v))
  else
    let b := up cb; let r := up cr
    let m := videoMatrix code h depth full
    (List.range h).flatMap (fun (j : Nat) => (List.range w).flatMap (fun (i : Nat) => toChannels vis (convert3 m depth (py.at i j) (b.at i j) (r.at i j))))

/-- The conceal map of a picture on the blocks of a W × H output. -/
def pictureMap (w h : Nat) (p : Picture) : List Nat × Nat :=
  let bw := ceilDiv p.width 16
  concealMap (ceilDiv w 16) (ceilDiv h 16) (fun bx by' =>
    p.lost.any (fun b => meets (16 * bx * p.width) (16 * p.width) (b % bw * 16 * w) (16 * w)
      && meets (16 * by' * p.height) (16 * p.height) (b / bw * 16 * h) (16 * h)))

/-- The pictures of a video sample that are output: those before the first whose sequence fails R329, at most 65,536. -/
def outputPictures (media csize limit : Nat) (ps : List Picture) : List Picture :=
  (ps.takeWhile (fun p => !dimsBad media p.width p.height csize limit)).take 65536

/-- The samples of one plane of a picture with its lost 16 × 16 blocks taken from those of its reference; `s` shrinks the block for chroma. -/
def concealPlane (w s bw : Nat) (lost : List Nat) (px ref : List Nat) : List Nat :=
  let pw := ceilDiv w s; let b := 16 / s
  (px.zipIdx).map (fun e => if lost.contains (e.2 / pw / b * bw + e.2 % pw / b) then nthD 0 ref e.2 else e.1)

/-- A picture with its lost blocks concealed from its reference, itself concealed, or by the flat fill where it has none of its size (12 R341). The number
bounds the chain of references. -/
def concealed (fills : List Nat) (ps : List Picture) : Nat → Picture → Picture
  | 0, p => p
  | n + 1, p =>
    let flat : Picture := { p with y := p.y.map (fun _ => nthD 0 fills 0), cb := p.cb.map (fun _ => nthD 0 fills 1), cr := p.cr.map (fun _ => nthD 0 fills 2) }
    let q := match p.ref.bind (fun i => ps[i]?) with
      | some r => if r.width = p.width ∧ r.height = p.height then concealed fills ps n r else flat
      | none => flat
    let bw := ceilDiv p.width 16
    if p.lost.isEmpty then p
    else { p with y := concealPlane p.width 1 bw p.lost p.y q.y, cb := concealPlane p.width 2 bw p.lost p.cb q.cb, cr := concealPlane p.width 2 bw p.lost p.cr q.cr }

/-- A decoded video. -/
def decodeVideo (r : JobRec) (media csize limit : Nat) (v : VideoStream) : Smp :=
  let w := v.head.width; let h := v.head.height; let depth := v.head.depth; let mono := v.head.chroma == 0; let code := v.head.mat; let full := v.head.full
  let vis := if r.visChannels = 1 then 1 else 3
  let all := v.pics.map (concealed (fillTriple r depth) v.pics (v.pics.length + 1))
  let ps := outputPictures media csize limit all
  let frame (p : Picture) : List Nat :=
    let px := convert420 vis depth code mono full p.width p.height p.y p.cb p.cr
    if p.width = w ∧ p.height = h then px else scaleFrame vis depth p.width p.height w h px
  visualSmp media vis depth w h (ps.map frame) (ps.map (pictureMap w h))

/-! ### Audio (12 R343, R344) -/

/-- An audio sample as an FP32 code. -/
def audioCode (form : AudioForm) (bits : Nat) (v : Int) : Nat :=
  match form with
  | .signed => fp32Of (.fin (decide (v < 0)) v.natAbs (1 - (bits : Int)))
  | .unsigned8 => fp32Of (.fin (decide (v < 128)) (v - 128).natAbs (-7))
  | .opus => fp32Of (.fin (decide (v < 0)) v.natAbs (-15))
  | .float => let c := v.toNat % 2 ^ 32; if (fp32V c).isNan then 0x7FC00000 else c

/-- Decoded audio: lost spans are +0. -/
def decodeAudio (media rate ch bits : Nat) (form : AudioForm) (samples : List Int) (lost : List (Nat × Nat)) (count : Nat) : Smp :=
  let c := max 1 ch
  let n := samples.length / c
  let gone (i : Nat) : Bool := lost.any (fun l => decide (l.1 ≤ i / c) && decide (i / c < l.1 + l.2))
  { media := media, kind := 1, elem := 3, ch := ch, depth := 32, w := 0, h := 0, f := 0, s := n, rate := rate
    conceal := count, status := 0, mapW := 0, mapH := 0
    data := ((samples.take (n * c)).zipIdx).map (fun e => if gone e.2 then 0 else audioCode form bits e.1), map := [] }

/-! ### All media -/

/-- A video stream read: unsupported, without a header, or decoded (12 R326, R327). Every sequence header that its pictures use is one that R326 supports. -/
def readVideo (media : Nat) (bs : List Nat) : Decoded :=
  let us := videoUnits media bs
  match videoHeads media us with
  | .error st => .failed st
  | .ok hs =>
    if !hs.all (headSupported media) then .failed stUnsupported
    else
      let p := Config.videoPictures media (match us with | .nal us => us | .obu us => us.map (fun u => u.1 :: u.2) | _ => [])
      .video { head := hs.headD default, pics := p.1, errors := p.2 }

/-- What the decoder of a MEDIA code reads in a byte string. -/
def readStream (media : Nat) (bs : List Nat) : Decoded :=
  match media with
  | 1 => readJpeg bs | 2 => readPng bs | 6 => readFlac bs | 7 => readOpus bs | 8 => readWave bs
  | _ => readVideo media bs

/-- The compressed bytes of a sample decoded, inflated first with WRAP (12 R328). -/
def decodeBytes (media : Nat) (wrap : Bool) (bs : List Nat) : Decoded :=
  if wrap then match unwrap bs with | some x => readStream media x | none => .failed stUnsupported
  else readStream media bs

/-- The declared dimensions of a decode, when its medium has them. -/
def declared (d : Decoded) : Option (Nat × Nat) :=
  match d with
  | .jpeg w h .. => some (w, h)
  | .png w h .. => some (w, h)
  | .video v => some (v.head.width, v.head.height)
  | _ => none

/-- The sample a decode gives. -/
def sampleOf (r : JobRec) (media csize limit : Nat) (d : Decoded) : Smp :=
  match d with
  | .failed st => failedSmp media st
  | .jpeg w h rgb cs _ => decodeJpeg r w h rgb cs
  | .png w h ch depth px rows passes _ => decodePng r w h ch depth px rows passes
  | .video v => decodeVideo r media csize limit v
  | .audio rate ch bits form samples lost count _ => decodeAudio media rate ch bits form samples lost count

/-- The syntax errors a decode met. -/
def syntaxErrors (d : Decoded) : Nat :=
  match d with
  | .failed _ => 0
  | .jpeg _ _ _ _ e => e
  | .png _ _ _ _ _ _ _ e => e
  | .video v => v.errors
  | .audio _ _ _ _ _ _ _ e => e

/-- Whether a sample holds nothing for an operation to act on. -/
def Smp.bare (x : Smp) : Bool := if x.kind = 1 then x.s == 0 || x.ch == 0 else x.w * x.h * x.f == 0

/-- The tokens of a sample (12 R332; of token data notes/assumptions/26.md). -/
def tokensOf (r : JobRec) (x : Smp) : Nat :=
  if x.status ≠ 0 then 0
  else if x.kind = 2 then Config.tokenCount x.data
  else if x.bare then 0
  else if x.kind = 1 then ceilDiv x.s r.hop
  else ceilDiv x.w r.patchW * ceilDiv x.h r.patchH * ceilDiv x.f r.patchF

/-! ### Visual operations (12 R347) -/

/-- A channel sample of a visual sample. -/
def Smp.px (x : Smp) (f y i c : Nat) : Nat := nthD 0 x.data (((f * x.h + y) * x.w + i) * x.ch + c)

/-- A visual sample rebuilt from the frames listed. -/
def Smp.rebuild (x : Smp) (w h : Nat) (fs : List Nat) (g : Nat → Nat → Nat → Nat → Nat) : Smp :=
  { x with
    w := w, h := h, f := fs.length
    data := fs.flatMap (fun f => (List.range h).flatMap (fun y => (List.range w).flatMap (fun i => (List.range x.ch).map (fun c => g f y i c)))) }

/-- The frames of a sample. -/
def Smp.frames (x : Smp) : List Nat := List.range x.f

def opCrop (x : Smp) (x0 y0 w h : Nat) : Smp :=
  x.rebuild (min x.w (x0 + w) - x0) (min x.h (y0 + h) - y0) x.frames (fun f y i c => x.px f (y0 + y) (x0 + i) c)

def opResize (x : Smp) (w h : Nat) : Smp :=
  if w = 0 ∧ h = 0 then x
  else
    let w1 := scaleExtent x.w (if w = 0 then max 1 (x.w * h / x.h) else w)
    let h1 := scaleExtent x.h (if h = 0 then max 1 (x.h * w / x.w) else h)
    { x with w := w1, h := h1, data := (chunks (x.w * x.h * x.ch) x.f x.data).flatMap (scaleFrame x.ch x.depth x.w x.h w1 h1) }

def opHflip (x : Smp) : Smp := x.rebuild x.w x.h x.frames (fun f y i c => x.px f y (x.w - 1 - i) c)

def opRot90 (x : Smp) (q : Nat) : Smp :=
  match q % 4 with
  | 0 => x
  | 1 => x.rebuild x.h x.w x.frames (fun f y i c => x.px f (x.h - 1 - i) y c)
  | 2 => x.rebuild x.w x.h x.frames (fun f y i c => x.px f (x.h - 1 - y) (x.w - 1 - i) c)
  | _ => x.rebuild x.h x.w x.frames (fun f y i c => x.px f i (x.w - 1 - y) c)

/-- A finite FP32 value × 2¹⁴⁹, exact. -/
def fp32Scaled (c : Nat) : Int := floorScaled (fp32V c) 149

/-- One channel sample under JITTER: exact before the one rounding. -/
def jitterPx (depth b k a luma c : Nat) : Nat :=
  let one : Int := 2 ^ 149
  let mid : Int := 2 ^ (depth - 1); let top : Int := 2 ^ depth - 1
  let y : Int := luma
  let x := (y * one + fp32Scaled a * ((c : Int) - y) - mid * one) * fp32Scaled k + mid * one * one + fp32Scaled b * top * one
  clampTo (2 ^ depth - 1) (rneInt x (2 ^ 298))

def opJitter (x : Smp) (b k a : Nat) : Smp :=
  x.rebuild x.w x.h x.frames (fun f y i c =>
    let v (n : Nat) : Nat := x.px f y i n
    jitterPx x.depth b k a (if x.ch = 1 then v 0 else lumaOf (v 0) (v 1) (v 2)) (v c))

def opTcrop (x : Smp) (first count : Nat) : Smp :=
  if x.kind = 1 then
    let n := min x.s (first + count) - first
    { x with s := n, data := (x.data.drop (first * x.ch)).take (n * x.ch) }
  else x.rebuild x.w x.h ((x.frames.drop first).take count) x.px

def opTstride (x : Smp) (n : Nat) : Smp := x.rebuild x.w x.h (x.frames.filter (fun f => f % max 1 n == 0)) x.px

/-! ### REENCODE (12 R349) -/

/-- A pixel as 8-bit BT.709 limited-range Y, Cb, Cr. -/
def toYcc (depth : Nat) (rgb : List Nat) : List Nat :=
  let r : Int := nthD 0 rgb 0; let g : Int := nthD 0 rgb 1; let b : Int := nthD 0 rgb 2
  let top : Nat := 2 ^ depth - 1
  -- Luma in 1/10,000 of the code unit.
  let y := 2126 * r + 7152 * g + 722 * b
  let chroma (c : Int) (k : Nat) : Nat := clampTo 255 (rneInt (128 * (2 * k * top) + 224 * (10000 * c - y)) (2 * k * top))
  [clampTo 255 (rneInt (16 * 10000 * top + 219 * y) (10000 * top)), chroma b 9278, chroma r 7874]

/-- A frame as padded 4:2:0 planes, Y then Cb then Cr. -/
def encoderInput (ch depth w h : Nat) (px : List Nat) : Nat × Nat × List Nat :=
  let ps := framePlanes ch w h px
  let pl (i : Nat) : Plane := nthD { w := 0, h := 0, px := [] } ps i
  let ycc (n : Nat) : Plane := planeOf w h (fun x y =>
    let v (i : Nat) : Nat := (pl i).at x y
    nthD 0 (toYcc depth (if ch = 1 then [v 0, v 0, v 0] else [v 0, v 1, v 2])) n)
  let down (p : Plane) : Plane := planeOf (ceilDiv w 2) (ceilDiv h 2) (fun x y =>
    (p.at (2 * x : Nat) (2 * y : Nat) + p.at (2 * x + 1 : Nat) (2 * y : Nat) + p.at (2 * x : Nat) (2 * y + 1 : Nat) + p.at (2 * x + 1 : Nat) (2 * y + 1 : Nat) + 2) / 4)
  let w1 := roundUp w 16; let h1 := roundUp h 16
  let pad (p : Plane) (a b : Nat) : List Nat := (planeOf a b (fun x y => p.at x y)).px
  (w1, h1, pad (ycc 0) w1 h1 ++ pad (down (ycc 1)) (w1 / 2) (h1 / 2) ++ pad (down (ycc 2)) (w1 / 2) (h1 / 2))

/-- A decoded padded frame cropped and converted back. -/
def encoderOutput (ch w h : Nat) (s : List Nat) : List Nat :=
  let w1 := roundUp w 16; let h1 := roundUp h 16
  let part (off row x y : Nat) : List Nat := (planeOf x y (fun i j => nthD 0 s (off + j * row + i) % 256)).px
  convert420 ch 8 1 false false w h (part 0 w1 w h) (part (w1 * h1) (w1 / 2) (ceilDiv w 2) (ceilDiv h 2))
    (part (w1 * h1 * 5 / 4) (w1 / 2) (ceilDiv w 2) (ceilDiv h 2))

/-- REENCODE; none when a frame is beyond the video limit. The decoded frames have 8 bits (12 R349 to R351). -/
def opReencode (x : Smp) (codec budget : Nat) : Option Smp :=
  if 4096 < max x.w x.h ∨ 2304 < min x.w x.h then none
  else
    let ins := (chunks (x.w * x.h * x.ch) x.f x.data).map (encoderInput x.ch x.depth x.w x.h)
    let yuv (e : Nat × Nat × List Nat) : Yuv :=
      let n := e.1 * e.2.1; { w := e.1, h := e.2.1, planes := [e.2.2.take n, (e.2.2.drop n).take (n / 4), e.2.2.drop (n + n / 4)] }
    let out := if 1 < codec then Config.otherCodec codec budget (ins.map (fun e => e.2.2))
      else (encodeFrames codec budget x.w x.h (ins.map yuv)).map (fun v => v.planes.flatten)
    some { x with depth := 8, elem := 1, data := (List.range x.f).flatMap (fun f => encoderOutput x.ch x.w x.h (nthD [] out f)) }

/-! ### Audio operations (12 R345, R347) -/

def opGain (x : Smp) (g : Nat) : Smp := { x with data := x.data.map (fun c => fp32Of (mulVal (fp32V c) (fp32V g)).1) }

/-- fp32 of the exact mean of the channels of a sample frame. -/
def meanCode (cs : List Nat) : Nat :=
  match (sumVals (cs.map fp32V)).1 with
  | .fin s m e => let p := pow2Frac e; (convertRat s (m * p.1) (p.2 * cs.length) .fp32 .rne false 0).code
  | v => fp32Of v

def opDownmix (x : Smp) : Smp := { x with ch := 1, data := (chunks x.ch x.s x.data).map meanCode }

/-- The fixed point of the resampling filter: 256 fraction bits, and π in it. -/
def rs1 : Nat := 2 ^ 256
def rsPi : Nat := 363771576891766324280234942777729862653393377328392429958772151117938894466185

/-- An alternating series t − t·x²/((k+1)(k+2)) + …, its terms in fixed point; `xx` is x². -/
def rsSeries : Nat → Nat → Nat → Nat → Int
  | 0, _, _, _ => 0
  | n + 1, t, k, xx => (t : Int) - rsSeries n (t * xx / rs1 / ((k + 1) * (k + 2))) (k + 2) xx

/-- sin(π × a / b) in fixed point, for a natural a. -/
def sinPi (a b : Nat) : Int :=
  let m := a % (2 * b)
  let neg := decide (b < m)
  let q := if neg then m - b else m
  let r := if b < 2 * q then b - q else q
  let x := rsPi * r / b
  let v := rsSeries 60 x 1 (x * x / rs1)
  if neg then -v else v

/-- cos(π × a / b) in fixed point. -/
def cosPi (a b : Nat) : Int := sinPi (2 * a + b) (2 * b)

/-- h(t) of R345 at t = n / l, as an FP32 code: sin(π·fc·t)·w(t) / (π·t), rounded once. -/
def resampleTap (fi fo l : Nat) (n : Int) : Nat :=
  let a := n.natAbs
  let fcN := 19 * min fi fo; let fcD := 20 * fi
  if a = 0 then (convertRat false fcN fcD .fp32 .rne false 0).code
  else if 16 * l ≤ a then 0
  else
    let w := (42 * (rs1 : Int) + 50 * cosPi a (16 * l) + 8 * cosPi (2 * a) (16 * l)) / 100
    let s := sinPi (fcN * a) (fcD * l)
    if s = 0 then 0 else (convertRat (decide (s < 0)) (s.natAbs * w.toNat * l) (rsPi * rs1 * a) .fp32 .rne false 0).code

/-- The rates RESAMPLE accepts (12 R345; a source rate of 0, notes/assumptions/26.md). -/
def resampleOk (fi fo : Nat) : Bool := decide (0 < fi) && decide (1000 ≤ fo) && decide (fo ≤ 192000) && decide (fo / Nat.gcd fi fo ≤ 4096)

/-- RESAMPLE; none when its rate is outside the limits. -/
def opResample (x : Smp) (fo : Nat) : Option Smp :=
  if !resampleOk x.rate fo then none
  else
    let g := Nat.gcd x.rate fo
    let l := fo / g; let dd := x.rate / g
    let n := ceilDiv (x.s * fo) x.rate
    let inp (i : Int) (c : Nat) : Nat := if 0 ≤ i ∧ i < (x.s : Int) then nthD 0 x.data (i.toNat * x.ch + c) else 0
    let out (k c : Nat) : Nat :=
      let i := k * dd / l; let phi := k * dd % l
      fp32Of (sumVals ((List.range 32).map (fun (m : Nat) =>
        let j : Int := (m : Int) - 15
        (mulVal (fp32V (resampleTap x.rate fo l (j * l - phi))) (fp32V (inp (i + j) c))).1))).1
    some { x with s := n, rate := fo, data := (List.range n).flatMap (fun k => (List.range x.ch).map (out k)) }

/-! ### One operation -/

/-- An operation on a sample by its opcode and parameters; none when it is not applied (12 R348). -/
def applyOp (op : Nat) (ps : List Nat) (x : Smp) : Option Smp :=
  let p (i : Nat) : Nat := nthD 0 ps i
  if x.bare then some x
  else match op with
  | 0x01 => some (opCrop x (p 0) (p 1) (p 2) (p 3))
  | 0x02 => some (opResize x (p 0) (p 1))
  | 0x03 => some (opHflip x)
  | 0x04 => some (opRot90 x (p 0))
  | 0x05 => some (opJitter x (p 0) (p 1) (p 2))
  | 0x06 => opReencode x (p 0) (p 1)
  | 0x07 => some (opTcrop x (p 0) (p 1))
  | 0x08 => some (opTstride x (p 0))
  | 0x09 => some (opGain x (p 0))
  | 0x0A => opResample x (p 0)
  | 0x0B => some (opDownmix x)
  | _ => some x

end Sys2Proof.Machine
end

