-- ==== Sys2Proof/Machine/Treat.lean ====
section
/-! DEFINITION. The draws of the augmentation program, treatment records, and the commands that apply one operation (11 R318 to R321;
12 R347, R348). -/
namespace Sys2Proof.Machine

/-! ### Draws (11 R318, R319) -/

/-- Draw k of operation o for a sample, under a tag. -/
def drawWord (seed tag sample epoch o k : Nat) : Nat :=
  let key := seedKey seed
  nthD 0 (philox key.1 key.2 [sample % 2 ^ 32, tag * 65536 + o % 256 * 256 + sample / 2 ^ 32 % 256, epoch, k / 4]) (k % 4)

/-- A word as a parameter between LO and HI. -/
def drawParam (spec : Nat × Nat × Nat) (u : Nat) : Nat :=
  let lo := spec.2.1; let hi := spec.2.2
  if spec.1 = 0 then lo + u * (hi - lo + 1) / 2 ^ 32
  else
    let x := fp32Scaled lo * 2 ^ 24 + (fp32Scaled hi - fp32Scaled lo) * ((u / 256 : Nat) : Int)
    fp32Of (.fin (decide (x < 0)) x.natAbs (-173))

/-- The override of a draw that a step takes: one for its epoch before one for every epoch. -/
def overrideFor (os : List Override) (sample epoch step o k : Nat) : Option Nat :=
  let at' (e : Nat) : Option Override := os.find? (fun x => x.sample == sample && x.epoch == e && x.opidx == o && x.param == k && decide (x.since ≤ step))
  match at' epoch with
  | some x => some x.value
  | none => (at' 0xFFFFFFFF).map Override.value

/-- What the draws of a sample hang on: the seed and tag, the job's program and overrides, the sample, the epoch, the step and the MEDIA code. -/
structure DrawCtx where
  seed : Nat
  tag : Nat
  aug : List AugOp
  overrides : List Override
  sample : Nat
  epoch : Nat
  step : Nat
  media : Nat
deriving DecidableEq, Repr

/-- The draws of a slot of a step; a batch's come from the evaluation seed, under its own tag, with its number for the epoch and the override records for every epoch
(11 R318, R324; 10 R292; notes/assumptions/25.md). -/
def drawCtx (q : JobSlot) (st : Step) (slot : Nat) : DrawCtx :=
  let e := entryOfSlot q st slot
  let aug := (q.setup.map (fun u => u.jr.aug)).getD []
  match st.batch with
  | some n =>
    { seed := (q.setup.map (fun u => u.jr.evalSeed)).getD 0, tag := 0xC147, aug := aug, overrides := q.overrides.filter (fun o => o.epoch == 0xFFFFFFFF)
      sample := manSample e, epoch := n % 2 ^ 32, step := st.num, media := manMedia e }
  | none =>
    { seed := (q.setup.map (fun u => u.jr.seed)).getD 0, tag := 0x4147, aug := aug, overrides := q.overrides, sample := manSample e, epoch := st.sub.epoch
      step := st.num, media := manMedia e }

/-- Whether operation o is applied, and whether an override says so; none when its MEDIA bits leave the sample out. -/
def applies (c : DrawCtx) (o : Nat) : Option (Bool × Bool) :=
  match c.aug[o]? with
  | none => none
  | some a =>
    if !bitOf a.media c.media then none
    else match overrideFor c.overrides c.sample c.epoch c.step o 0 with
      | some v => some (v != 0, true)
      | none => some (a.prob == 0xFFFFFFFF || decide (drawWord c.seed c.tag c.sample c.epoch o 0 < a.prob), false)

/-- The parameters of operation o, and the bits of those overridden. -/
def params (c : DrawCtx) (o : Nat) (a : AugOp) : List Nat × Nat :=
  let one (i : Nat) : Nat × Bool :=
    match overrideFor c.overrides c.sample c.epoch c.step o (i + 1) with
    | some v => (v, true)
    | none => (drawParam (nthD (0, 0, 0) a.specs i) (drawWord c.seed c.tag c.sample c.epoch o (i + 1)), false)
  let ps := (List.range a.nparam).map one
  (ps.map Prod.fst, sumNat ((ps.zipIdx).map (fun x => b2n x.1.2 * 2 ^ x.2)))

/-! ### Treatment records (11 R320) -/

/-- The header of a treatment record. -/
def treatHead (c : DrawCtx) (pos nops flags tokens conceal : Nat) : List Nat :=
  toLE 8 c.sample ++ toLE 8 pos ++ toLE 4 c.epoch ++ toLE 2 nops ++ [flags, 0] ++ toLE 4 tokens ++ toLE 4 conceal

/-- A sample treated: its tokens, or its rejection as OVERSIZE without data, and its record (11 R321). -/
def finishSlot (r : JobRec) (c : DrawCtx) (pos tbudget : Nat) (x : SampleSlot) : SampleSlot :=
  let t := tokensOf r (smpOf x.decoded)
  let big := decide (tbudget < t)
  { x with
    treated := true, place := if big then .rejected else x.place, tokens := if big then 0 else t, decoded := if big then [] else x.decoded
    treatment := treatHead c pos (x.treatment.length / 20) (b2n x.overridden + 2 * b2n (x.concealed != 0) + (if big then 12 else 0)) (if big then 0 else t) x.concealed
      ++ x.treatment }

/-- A sample rejected: no tokens, its record marked. -/
def rejectSlot (c : DrawCtx) (pos : Nat) (x : SampleSlot) : SampleSlot :=
  { x with place := .rejected, treated := true, tokens := 0, raw := [], decoded := [], treatment := treatHead c pos 0 4 0 0 }

/-- The operations that are not applied passed over from an index on; with none left the sample is treated. -/
def advance (r : JobRec) (c : DrawCtx) (pos tbudget : Nat) : Nat → SampleSlot → SampleSlot
  | 0, x => finishSlot r c pos tbudget x
  | n + 1, x =>
    if c.aug.length ≤ x.nextOp then finishSlot r c pos tbudget x
    else match applies c x.nextOp with
      | some (true, ov) => { x with overridden := x.overridden || ov }
      | some (false, ov) => advance r c pos tbudget n { x with nextOp := x.nextOp + 1, overridden := x.overridden || ov }
      | none => advance r c pos tbudget n { x with nextOp := x.nextOp + 1 }

/-- The same over a whole program. -/
def settleSlot (r : JobRec) (c : DrawCtx) (pos tbudget : Nat) (x : SampleSlot) : SampleSlot := advance r c pos tbudget (c.aug.length + 1) x

/-! ### A sample of a step -/

/-- The slot of a step's list changed. -/
def Step.updSlot (st : Step) (k : Nat) (f : SampleSlot → SampleSlot) : Step :=
  { st with slots := st.slots.map (fun e => if e.1 = k then (e.1, f e.2) else e) }

/-- A slot of a step. -/
def Step.slotAt (st : Step) (k : Nat) : Option SampleSlot := (st.slots.find? (fun e => e.1 == k)).map Prod.snd

/-- The oldest step or batch of a job whose slot satisfies a test. -/
def stepWith (q : JobSlot) (k : Nat) (p : SampleSlot → Bool) : Option Step := q.allSteps.find? (fun st => (st.slotAt k).any p)

/-- The step or batch of a number when its slot satisfies a test. -/
def stepSlot (q : JobSlot) (n k : Nat) (p : SampleSlot → Bool) : Option Step := (q.stepAt n).filter (fun st => (st.slotAt k).any p)

/-- A slot of a job's step changed, with its draws at hand. -/
def Device.updSample (d : Device) (j n k : Nat) (f : JobRec → DrawCtx → Nat → Nat → SampleSlot → SampleSlot) : Device :=
  d.updJob j (fun q => match q.setup with
    | some u => q.mapSteps (fun st => if st.num = n then st.updSlot k (f u.jr (drawCtx q st k) (st.sub.posFirst + k) st.sub.tbudget) else st)
    | none => q)

/-! ### Operation commands (12 R347, R348) -/

/-- One operation applied to a sample at its next operation, recorded unless R345 or R349 leaves it out. -/
def opSlot (code o : Nat) (r : JobRec) (c : DrawCtx) (pos tbudget : Nat) (x : SampleSlot) : SampleSlot :=
  match c.aug[o]? with
  | none => x
  | some a =>
    let (ps, ov) := params c o a
    match applyOp code ps (smpOf x.decoded) with
    | some y =>
      settleSlot r c pos tbudget { x with
        decoded := y.bytes, nextOp := o + 1, overridden := x.overridden || ov != 0
        treatment := x.treatment ++ [o, code, a.nparam, ov] ++ (List.range 4).flatMap (fun i => toLE 4 (nthD 0 ps i)) }
    | none => settleSlot r c pos tbudget { x with nextOp := o + 1 }

/-- An operation command: the oldest sample of the slot number for which it comes next. -/
def Device.augment (d : Device) (j k o code : Nat) : Device :=
  let q := d.jobAt j
  if (q.setup.bind (fun u => u.jr.aug[o]?)).any (fun a => a.opcode == code) then
    match stepWith q k (fun x => x.place == .decoded && !x.treated && x.nextOp == o) with
    | some st => d.updSample j st.num k (opSlot code o)
    | none => d
  else d

/-- CROP (12 R347): the rectangle that the drawn parameters give. -/
def execCrop (j : Fin 16) (slot op : Nat) (s : State) : Host.Outcome State Fault Refusal := onDev s (fun d => d.augment j slot op 0x01)
/-- RESIZE (12 R346): the scaler to the drawn size. -/
def execResize (j : Fin 16) (slot op : Nat) (s : State) : Host.Outcome State Fault Refusal := onDev s (fun d => d.augment j slot op 0x02)
/-- HFLIP (12 R347): each row from right to left. -/
def execHflip (j : Fin 16) (slot op : Nat) (s : State) : Host.Outcome State Fault Refusal := onDev s (fun d => d.augment j slot op 0x03)
/-- ROT90 (12 R347): a turn by quarter turns. -/
def execRot90 (j : Fin 16) (slot op : Nat) (s : State) : Host.Outcome State Fault Refusal := onDev s (fun d => d.augment j slot op 0x04)
/-- JITTER (12 R347): brightness, contrast and saturation. -/
def execJitter (j : Fin 16) (slot op : Nat) (s : State) : Host.Outcome State Fault Refusal := onDev s (fun d => d.augment j slot op 0x05)
/-- REENCODE (12 R349): the frames through the defined encoder and back. -/
def execReencode (j : Fin 16) (slot op : Nat) (s : State) : Host.Outcome State Fault Refusal := onDev s (fun d => d.augment j slot op 0x06)
/-- TCROP (12 R347): a range of frames or sample frames. -/
def execTcrop (j : Fin 16) (slot op : Nat) (s : State) : Host.Outcome State Fault Refusal := onDev s (fun d => d.augment j slot op 0x07)
/-- TSTRIDE (12 R347): every n-th frame. -/
def execTstride (j : Fin 16) (slot op : Nat) (s : State) : Host.Outcome State Fault Refusal := onDev s (fun d => d.augment j slot op 0x08)
/-- GAIN (12 R347): each audio sample times the gain. -/
def execGain (j : Fin 16) (slot op : Nat) (s : State) : Host.Outcome State Fault Refusal := onDev s (fun d => d.augment j slot op 0x09)
/-- RESAMPLE (12 R345): the audio at the drawn rate. -/
def execResample (j : Fin 16) (slot op : Nat) (s : State) : Host.Outcome State Fault Refusal := onDev s (fun d => d.augment j slot op 0x0A)
/-- DOWNMIX (12 R347): the mean of the channels. -/
def execDownmix (j : Fin 16) (slot op : Nat) (s : State) : Host.Outcome State Fault Refusal := onDev s (fun d => d.augment j slot op 0x0B)

end Sys2Proof.Machine
end

