-- ==== Sys2Proof/Machine/Pipe.lean ====
section
/-! DEFINITION. The commands of the input pipeline: the host lane, intake fetches, the Grader and decodes (11 R304 to R316; 12 R327 to R331, R339;
15 R421). -/
namespace Sys2Proof.Machine

/-! ### Policy of the pipeline, in force from job start (11 R306) -/

def JobSlot.pipePolicy (q : JobSlot) (id dflt : Nat) : Nat := (q.setup.map (fun u => policyVal u.policy id 0 dflt)).getD dflt
def JobSlot.hlThresh (q : JobSlot) : Nat := q.pipePolicy 0x0200 40000
def JobSlot.budgetMult (q : JobSlot) : Nat := q.pipePolicy 0x0201 16
def JobSlot.budgetAbs (q : JobSlot) : Nat := q.pipePolicy 0x0202 50
def JobSlot.dimAction (q : JobSlot) : Nat := q.pipePolicy 0x0203 0
def JobSlot.pixLimit (q : JobSlot) : Nat := q.pipePolicy 0x0204 64

/-- The budget of a decode attempt in µs (11 R313). -/
def budgetOf (q : JobSlot) (cost : Nat) : Nat := min (q.budgetMult * cost) (q.budgetAbs * 1000)

/-! ### Where a sample goes -/

/-- A Grader entry of a slot. -/
def graderEntry (j k : Nat) (st : Step) (e : List Nat) : GEntry :=
  { cost := manCost e, slot := k, media := manMedia e, attempt := 0, noBudget := false, hostElig := manElig e, sample := manSample e, step := st.num
    buf := ((st.slotAt k).map SampleSlot.buf).getD 0, job := j }

/-- The two words of a Grader entry (11 R308). -/
def GEntry.words (e : GEntry) : Nat × Nat :=
  (e.cost % 2 ^ 32 * 2 ^ 32 + e.slot % 2 ^ 12 * 2 ^ 20 + e.media % 256 * 2 ^ 12 + e.attempt % 16 * 2 ^ 8 + b2n e.noBudget * 2 ^ 7 + b2n e.hostElig * 2 ^ 6,
    e.sample % 2 ^ 40 * 2 ^ 24 + e.step % 256 * 2 ^ 16 + e.buf % 2 ^ 16)

/-- The state of a slot in the slot map (11 R312): not yet placed, queued or in decode, decoded, on the host lane or rejected. -/
def slotState (x : SampleSlot) : Nat :=
  match x.place with
  | .unplaced | .fetching => 0
  | .queued | .waiting | .decoding => 1
  | .decoded => 2
  | .hostLane | .rejected => 3

/-- An entry to the retry lane, or to wait for it behind those that wait (11 R315). -/
def Device.toRetry (d : Device) (g : GEntry) : Device :=
  let full := decide (64 ≤ d.grd.retry.length) || !d.grd.waiting.isEmpty
  let d1 : Device := { d with grd := if full then { d.grd with waiting := d.grd.waiting ++ [g] } else { d.grd with retry := d.grd.retry ++ [g] } }
  d1.updSample g.job g.step g.slot (fun _ _ _ _ x => { x with place := if full then .waiting else .queued })

/-- A sample to the host lane, for a reason. -/
def Device.toLane (d : Device) (j : Nat) (st : Step) (k reason : Nat) : Device :=
  (d.updSample j st.num k (fun _ _ _ _ x => { x with place := .hostLane })).requestLane j st k reason

/-- A fetched sample: token data to the packer, the others to the filling bank, or to the retry lane when the bank does not fill for their step; a batch's
enter it only while it has no step. An eligible one that would enter the bank over the threshold goes to the host lane (11 R304, R305, R311, R324). -/
def Device.route (d : Device) (j : Nat) (st : Step) (k : Nat) (data : List Nat) : Device :=
  let q := d.jobAt j
  let e := entryOfSlot q st k
  let x := (st.slotAt k).getD {}
  if manMedia e = 0 then
    match (if manWrap e then unwrap data else some data) with
    | none => { d.updSample j st.num k (fun _ c pos _ x => rejectSlot c pos x) with med := { d.med with reject := satAdd d.med.reject 1 } }
    | some bs =>
      let y := { failedSmp 0 0 with data := bs.map (· % 256) }
      d.updSample j st.num k (fun r c pos tb x => settleSlot r c pos tb { x with place := .decoded, raw := [], decoded := y.bytes })
  else if !x.again && (if st.batch.isSome then d.grd.fillStep.isNone && decide (d.grd.filling.length < 4096) else d.grd.fillStep == some st.num) then
    if manElig e && laneOpen q && decide (q.hlThresh < grdBacklog d.grd) then d.toLane j st k 0
    else ({ d with grd := d.grd.setFill d.grd.fillStep (d.grd.filling ++ [graderEntry j k st e]) } : Device).updSample j st.num k (fun _ _ _ _ x => { x with place := .queued })
  else d.toRetry (graderEntry j k st e)

/-- The compressed bytes of a slot held in a buffer of the next handle (11 R304, R308; notes/assumptions/25.md). -/
def Device.holdBytes (d : Device) (j n k : Nat) (data : List Nat) : Device :=
  { d.updSample j n k (fun _ _ _ _ x => { x with raw := data.map (· % 256), buf := d.grd.nextBuf }) with
    grd := { d.grd with nextBuf := (d.grd.nextBuf + 1) % 2 ^ 16 } }

/-- INTAKE_FETCH: bytes asked for arrive for a slot of a step; bad ones are asked for again, up to eight attempts. -/
def execIntakeFetch (j : Fin 16) (step slot : Nat) (data : List Nat) (s : State) : Host.Outcome State Fault Refusal :=
  onDev s (fun d0 =>
    let d := d0.pump
    let q := d.jobAt j
    match (if d.grd.owner = some j.val ∧ serves d j then stepSlot q step slot (fun x => x.place == .fetching && decide (x.attempts < 8)) else none) with
    | some st =>
      let e := entryOfSlot q st slot
      if data.length == manCsize e && crc32c data == manCrc e then
        let d1 := d.holdBytes j step slot data
        match (d1.jobAt j).stepAt step with
        | some st1 => (d1.route j st1 slot data).pump
        | none => d1
      else
        let n := ((st.slotAt slot).getD {}).attempts + 1
        let d1 := d.updSample j st.num slot (fun _ _ _ _ x => { x with attempts := n })
        if n < 8 then d1.askFetch e else d1
    | none => d)

/-- FETCH_FAILED: after the eighth failure the job stops. -/
def execFetchFailed (j : Fin 16) (step slot : Nat) (s : State) : Host.Outcome State Fault Refusal :=
  onDev s (fun d =>
    let q := d.jobAt j
    match stepSlot q step slot (fun x => x.place == .fetching && decide (8 ≤ x.attempts)) with
    | some st =>
      let d1 := d.logEvent srcQuay 0x0601 sevFault (some j) (toLE 8 (manSample (entryOfSlot q st slot)) ++ toLE 8 st.num)
      d1.stopJob j (fun n => if n = st.num then 0x0606 else stAborted)
    | none => d)

/-! ### The Grader (11 R308 to R315) -/

/-- The order of the draining bank: the higher COST, then the lower SLOT. -/
def graderFirst (a b : GEntry) : Bool := decide (b.cost < a.cost) || (a.cost == b.cost && decide (a.slot ≤ b.slot))

/-- The decode units that serve a MEDIA code: how many, and the codes they share (12 R325, R339). -/
def unitsFor (media : Nat) : Nat × List Nat :=
  if media = 1 then (16, [1]) else if isVideo media then (64, [3, 4, 5]) else (8, [2, 6, 7, 8])

/-- Whether a unit is free for a MEDIA code. -/
def unitFree (g : Grader) (media : Nat) : Bool :=
  decide ((g.busy.filter (fun e => (unitsFor media).2.contains e.media)).length < (unitsFor media).1)

/-- The entry that a free core for some MEDIA codes takes next, and whether from the retry lane. -/
def nextEntry (g : Grader) (media : List Nat) : Option (GEntry × Bool) :=
  let can (e : GEntry) : Bool := media.contains e.media && unitFree g e.media
  match g.retry.find? can with
  | some e => some (e, true)
  | none => ((sortBy graderFirst (g.draining.filter can)).head?).map (fun e => (e, false))

/-- A Grader without an entry of its queues. -/
def Grader.remove (g : Grader) (e : GEntry) : Grader :=
  { g with bankA := g.bankA.erase e, bankB := g.bankB.erase e, retry := g.retry.erase e }

/-- DECODE_START: the entry leaves its queue for a core. Each of its two words is checked on read: corrected words are counted, and an uncorrectable one
discards the entry, whose slot is fetched again (11 R309, R311). -/
def execDecodeStart (media : List Nat) (ecc0 ecc1 : Ecc) (s : State) : Host.Outcome State Fault Refusal :=
  onDev s (fun d =>
    match (if (d.grd.owner.map (serves d)).getD false then nextEntry d.grd media else none) with
    | some (e, _) =>
      let g := d.grd.remove e
      let n (x : Ecc) : Nat := ([ecc0, ecc1].filter (· == x)).length
      let c : GrdCounts := { d.grdc with corr := satAdd d.grdc.corr (n .corrected), uncorr := satAdd d.grdc.uncorr (n .uncorrectable) }
      if n .uncorrectable ≠ 0 then
        (({ d with grd := g, grdc := c } : Device).updSample e.job e.step e.slot (fun _ _ _ _ x => { x with place := .unplaced, again := true, attempts := 0 })).pump
      else
        let d1 : Device := { d with
          grd := { g with busy := g.busy ++ [e] }, grdc := c
          med := if isVideo e.media then { d.med with ctxOpen := d.med.ctxOpen + 1 } else d.med }
        d1.updSample e.job e.step e.slot (fun _ _ _ _ x => { x with place := .decoding })
    | none => d)

/-- The entry of a slot of a step on a core, and the device without it: its core and stream context are free. -/
def Device.takeBusy (d : Device) (j n k : Nat) : Option (GEntry × Device) :=
  match d.grd.busy.find? (fun e => e.job == j && e.step == n && e.slot == k) with
  | some e => some (e, { d with
      grd := { d.grd with busy := d.grd.busy.erase e }
      med := if isVideo e.media then { d.med with ctxOpen := d.med.ctxOpen - 1 } else d.med })
  | none => none

/-- A sample that ended with a 0x05 status (11 R307; 12 R327): one that failed its dimensions waits for the host lane when the policy and its
entry say so, the others are rejected. `last`: the library's own limit refused it. -/
def Device.endMedia (d : Device) (j : Nat) (st : Step) (k status : Nat) (last : Bool) : Device :=
  let q := d.jobAt j
  let d1 : Device := { d with med := { d.med with reject := satAdd d.med.reject 1 } }
  if status = stDims ∧ last = false ∧ q.dimAction = 0 ∧ manElig (entryOfSlot q st k) = true then
    let d2 := d1.updSample j st.num k (fun _ _ _ _ x => { x with place := .hostLane, dimReason := true })
    let d3 := if st.hostWaitLogged then d2
      else (d2.updStep j st.num (fun x => { x with hostWaitLogged := true })).logEvent srcQuay 0x0603 sevNotice (some j)
        (toLE 8 (manSample (entryOfSlot q st k)) ++ toLE 8 st.num)
    d3.pumpLane j
  else d1.updSample j st.num k (fun _ c pos _ x => rejectSlot c pos x)

/-- A decoded sample in its slot, ready for its first operation. -/
def Device.takeSample (d : Device) (j n k conceal : Nat) (bytes : List Nat) : Device :=
  d.updSample j n k (fun r c pos tb x =>
    settleSlot r c pos tb { x with place := .decoded, raw := [], decoded := bytes, concealed := conceal, nextOp := 0, treatment := [], overridden := false, dimReason := false })

/-- DECODE_COMPLETE: the compressed bytes of the slot decoded; the checks of R327 and R329, then the sample in its slot. -/
def execDecodeComplete (j : Fin 16) (step slot : Nat) (s : State) : Host.Outcome State Fault Refusal :=
  onDev s (fun d =>
    let q := d.jobAt j
    match d.takeBusy j step slot, q.setup with
    | some (e, d1), some u =>
      match q.stepAt e.step with
      | some st =>
        let m := entryOfSlot q st slot
        let x := decodeBytes e.media (manWrap m) (((st.slotAt slot).map SampleSlot.raw).getD [])
        let bad := match declared x with | some (w, h) => dimsBad e.media w h (manCsize m) q.pixLimit | none => false
        let r := match x with
          | .failed c => d1.endMedia j st slot c false
          | _ =>
            if bad then d1.endMedia j st slot stDims false
            else
              let y := sampleOf u.jr e.media (manCsize m) q.pixLimit x
              ({ d1 with med := { d1.med with conceal := satAdd d1.med.conceal y.conceal, syntaxErr := satAdd d1.med.syntaxErr (syntaxErrors x) } } : Device).takeSample
                j st.num slot y.conceal y.bytes
        r.pump
      | none => d1.pump
    | _, _ => d)

/-- DECODE_BUDGET_EXPIRED: the attempt is aborted; the sample goes to an open host lane when eligible, else to the retry lane without a budget. -/
def execDecodeBudgetExpired (j : Fin 16) (step slot : Nat) (s : State) : Host.Outcome State Fault Refusal :=
  onDev s (fun d =>
    let q := d.jobAt j
    match d.takeBusy j step slot with
    | some (e, d1) =>
      if e.noBudget then d
      else match q.stepAt e.step with
      | some st =>
        let d2 : Device := { d1 with grdc := { d1.grdc with slow := satAdd d1.grdc.slow 1 } }
        let d3 := d2.logEvent srcQuay 0x0602 sevNotice (some j) (toLE 8 e.sample ++ toLE 4 (e.step % 2 ^ 32) ++ toLE 4 (budgetOf q e.cost))
        (if e.hostElig && laneOpen q then d3.toLane j st slot 0 else d3.toRetry { e with noBudget := true, attempt := min 15 (e.attempt + 1) }).pump
      | none => d1
    | none => d)

/-- GRADER_BANK_SWAP: an empty draining bank and a sealed filling bank swap; the bank freed fills for the next step (11 R310). -/
def execGraderBankSwap (s : State) : Host.Outcome State Fault Refusal :=
  onDev s (fun d => if d.grd.draining.isEmpty && d.grd.isSealed then ({ d with grd := d.grd.swap } : Device).pump else d)

/-- RETRY_LANE_ENTRY: the entry that has waited longest enters when there is room. -/
def execRetryLaneEntry (s : State) : Host.Outcome State Fault Refusal :=
  onDev s (fun d =>
    match d.grd.waiting with
    | e :: es =>
      if 64 ≤ d.grd.retry.length then d
      else ({ d with grd := { d.grd with waiting := es, retry := d.grd.retry ++ [e] } } : Device).updSample e.job e.step e.slot (fun _ _ _ _ x => { x with place := .queued })
    | [] => d)

/-! ### The host lane (15 R421; 12 R331, R352, R353) -/

/-- The checks of HOSTLANE but for the media version, in the order of its row (15 R404): OP, DEPTH, RFLOW. -/
def laneCheck (d : Device) (j : Nat) (p : List Nat) : Nat :=
  firstFail [(decide (1 < fieldAt p 0 1), stRange), (fieldAt p 16 4 == 0, stZeroSize), (decide (4096 < fieldAt p 16 4), stRange), (!boundTo d (fieldAt p 2 2) j, stFlowUnknown)]

/-- HOSTLANE_OPEN: HOSTLANE with OP 0; samples that wait are requested at once. -/
def execHostlaneOpen (m : Fin 256) (s : State) : Host.Outcome State Fault Refusal :=
  onDev s (fun d => d.commandIf m 0x0107 (fun p => fieldAt p 0 1 == 0) (fun d p =>
    let j := (mboxSlot m).getD 0
    let depth := fieldAt p 16 4
    d.reply m (firstFail [(laneCheck d j p != 0, laneCheck d j p), (fieldAt p 4 4 != Config.medver % 2 ^ 32, 0x0504)]) (fun d =>
      ((d.updJob j (fun q => { q with lane := { isOpen := true, rflow := fieldAt p 2 2, raddr := fieldAt p 8 8, depth := depth, nextReq := 0, reqs := q.lane.reqs } })).finish
        m stOk 0 []).pumpLane j)))

/-- HOSTLANE_CLOSE: HOSTLANE with another OP; above 1 it is refused. Requests stay outstanding. A closing names no library, so MEDVER is not checked (12 R353;
notes/assumptions/24.md). -/
def execHostlaneClose (m : Fin 256) (s : State) : Host.Outcome State Fault Refusal :=
  onDev s (fun d => d.commandIf m 0x0107 (fun p => fieldAt p 0 1 != 0) (fun d p =>
    let j := (mboxSlot m).getD 0
    d.reply m (laneCheck d j p) (fun d => (d.updJob j (fun q => { q with lane := { q.lane with isOpen := false } })).finish m stOk 0 [])))

/-- Whether a MEDIA code gives samples of a depth (12 R326, R331). -/
def depthOk (media depth : Nat) : Bool :=
  match media with | 1 | 3 => depth == 8 | 2 => depth == 8 || depth == 16 | _ => depth == 8 || depth == 10

/-- Whether a returned sample has the layout of R331 (notes/assumptions/27.md). -/
def layoutOk (r : JobRec) (media : Nat) (b : List Nat) : Bool :=
  let x := smpOf b
  let vis := if r.visChannels = 1 then 1 else 3
  let n := fieldAt b 48 8; let at' := fieldAt b 40 8
  decide (64 ≤ b.length) && x.media == media && zeroBytes b 6 8 && zeroBytes b 38 40 && zeroBytes b 60 64
    && (x.status == 0 || x.status == stUnsupported || x.status == 0x0502 || x.status == stDims)
    && decide (64 + n ≤ at') && decide (at' + mapFrame x.mapW x.mapH * x.f ≤ b.length)
    && (if isVisual media then
        x.kind == 0 && (x.ch == vis || (x.status != 0 && (x.ch == 1 || x.ch == 3))) && depthOk media x.depth && (isVideo media || x.f == 1 || x.status != 0)
          && x.elem == (if x.depth = 8 then 1 else 2) && x.s == 0 && x.rate == 0
          && (x.status != 0 || (x.mapW == ceilDiv x.w 16 && x.mapH == ceilDiv x.h 16)) && n == x.w * x.h * x.f * x.ch * elemBytes x.elem
      else
        x.kind == 1 && x.elem == 3 && x.depth == 32 && decide (1 ≤ x.ch) && decide (x.ch ≤ 8) && x.w == 0 && x.h == 0 && x.f == 0 && n == x.s * x.ch * 4)

/-- HOSTLANE_RETURN: the decoded sample of an outstanding request taken into its slot; a broken one is asked for again, on a closed lane too (12 R331). -/
def execHostlaneReturn (m : Fin 256) (hit : Option Hit) (s : State) : Host.Outcome State Fault Refusal :=
  onDev s (fun d => d.jobCommand m 0x0203 (fun d j p =>
    let q := d.jobAt j
    let n := fieldAt p 20 4; let off := fieldAt p 24 4; let k := fieldAt p 16 4
    let req := q.lane.reqs.find? (fun r => r.sample == fieldAt p 0 8 && r.step == fieldAt p 8 8 && r.slot == k)
    match (if q.beyond off n then none else req), q.setup with
    | some r, some u =>
      match q.stepAt r.step with
      | some st => d.onStaging m j hit [(off, n)] (fun d =>
        let bs := d.staged j off n
        let gone := d.updJob j (fun q => { q with lane := { q.lane with reqs := q.lane.reqs.erase r } })
        if layoutOk u.jr (manMedia (entryOfSlot q st k)) bs then
          let y := smpOf bs
          let d1 := if y.status ≠ 0 then gone.endMedia j st k y.status (r.reason == 1) else gone.takeSample j st.num k y.conceal bs
          ((d1.finish m stOk 0 []).pumpLane j).pump
        else (gone.finish m stRange 0 []).requestLane j st k r.reason)
      | none => d.finish m stJobState 0 []
    | _, _ => d.finish m (if q.beyond off n then stStaging else stJobState) 0 []))

end Sys2Proof.Machine
end

