-- ==== Sys2Proof/Machine/Pack.lean ====
section
/-! DEFINITION. The packer, the dispatch of micro-batches, and layer redo (11 R321 to R323; 01 R36, R38; 10 R277 to R282, R291). -/
namespace Sys2Proof.Machine

/-! ### The packer (11 R321 to R323) -/

/-- The samples of the micro-batch that starts at a slot, as far as they are treated, with the slot that the next one starts at; none while an
untreated sample leaves open where it ends. The first number bounds the slots left. -/
def fillBatch (st : Step) (sampleOf' : Nat → Nat) : Nat → Nat → Nat → List Packed → Option (List Packed × Nat × Nat)
  | 0, k, t, acc => some (acc, t, k)
  | n + 1, k, t, acc =>
    match st.slotAt k with
    | none => some (acc, t, k)
    | some x =>
      if !x.treated then none
      else if st.sub.tbudget < t + x.tokens then some (acc, t, k)
      else fillBatch st sampleOf' n (k + 1) (t + x.tokens)
        (acc ++ [{ pos := st.sub.posFirst + k, sample := sampleOf' k, offset := t, tokens := x.tokens, slot := k }])

/-- A step with its next micro-batch closed; a step without tokens, and the step whose share is dropped, has none (16 R447). -/
def Step.closeBatch (st : Step) (sampleOf' : Nat → Nat) : Step :=
  match fillBatch st sampleOf' (st.sub.posCount - st.packed) st.packed 0 [] with
  | some (ps, t, k) =>
    let last := decide (st.sub.posCount ≤ k)
    let mbs := st.mbs ++ [{ samples := ps, tokens := t }]
    { st with packed := k, packDone := last, mbs := if st.dropped.isSome || (last && mbs.all (fun m => m.tokens == 0)) then [] else mbs }
  | none => st

/-- Whether a step's next micro-batch can close now. -/
def Step.closable (st : Step) : Bool := !st.packDone && (fillBatch st (fun _ => 0) (st.sub.posCount - st.packed) st.packed 0 []).isSome

/-- MICROBATCH_CLOSE: the micro-batch that the due batch, else the oldest unpacked step, is building closes once its last sample is known
(11 R321, R323, R324). -/
def execMicrobatchClose (j : Fin 16) (s : State) : Host.Outcome State Fault Refusal :=
  onDev s (fun d =>
    let q := d.jobAt j
    let work := match q.dueBatch with | some b => if b.work.closable then some b.work else q.steps.find? (fun st => !st.packDone) | none => q.steps.find? (fun st => !st.packDone)
    match work with
    | some st => ((d.updStep j st.num (fun x => x.closeBatch (fun k => manSample (entryOfSlot q st k)))).settleAll j).pump
    | none => d)

/-! ### Dispatch (01 R36, R38; 10 R291) -/

/-- Whether an evaluation window stands before a step: one scheduled or open after an earlier step. -/
def evalBlocks (d : Device) (j n : Nat) : Bool :=
  d.tide.entries.any (fun e => e.2.action == 6 && e.2.job == j && decide (e.2.step < n))
    || (d.jobAt j).windows.any (fun w => (w.openFired || w.isOpen) && !w.closed && decide (w.step < n))

/-- The micro-batch that a step starts next; a packed step without micro-batches starts once, as number 0 with no sample, for its part in
the reductions and in stage 8 (11 R302; 10 R284; notes/assumptions/36.md). -/
def Step.nextBatch (st : Step) : Option Nat :=
  if st.mbs.isEmpty then (if st.packDone && !st.started then some 0 else none) else st.mbs.findIdx? (fun m => !m.dispatched)

/-- Whether nothing of a step stands before it on some pans: no fill and no window, every earlier step's stages complete; but of the step just before, which
must have everything started, it is enough that those pans have ended it (01 R36; 10 R287, R291; notes/assumptions/36.md). A batch may run in its turn
while its window is open (15 R422). -/
def inTurn (d : Device) (j : Nat) (st : Step) (ps : List Nat) : Bool :=
  let q := d.jobAt j
  if st.batch.isSome then q.dueBatch.any (fun b => b.work.num == st.num)
  else !q.partner.filling && !evalBlocks d j st.num && (q.steps.filter (fun x => decide (x.num < st.num))).all (fun x =>
      x.stages || (x.num + 1 == st.num && x.dispatchedAll q.multi && ps.all (panPast d x.num)))

/-- Whether a job may start micro-batch mb of a step on some pans: it runs, resident and covered, the step is in turn, and the micro-batch is its
next. -/
def mayDispatch (d : Device) (j : Nat) (st : Step) (mb : Nat) (ps : List Nat) : Bool :=
  let q := d.jobAt j
  q.state == .running && q.resident && !q.switching && d.glb.cur == .active && !d.glb.flushing && d.inp.stage == .served
    && !q.partner.uncovered && inTurn d j st ps && st.nextBatch == some mb

/-- The pans of logical numbers, when each is the job's, in service and not running a program. -/
def idlePans (d : Device) (j : Nat) (ls : List Nat) : Option (List Nat) :=
  let ps := jobPans d j
  if ls.all (fun l => decide (l < ps.length) && (let p := d.panAt (nthD 0 ps l); !p.core.running && p.core.halt.isNone && d.panOn (nthD 0 ps l))) then
    some (ls.map (fun l => nthD 0 ps l))
  else none

/-- The stream context of a step's random words: the training tag and the step number, or the evaluation tag and the batch number (02 R72; 10 R289). -/
def streamOf (seed : Nat) (st : Step) : SrCtx :=
  match st.batch with
  | some n => { seed := seed, tag := 0x5352 + 0x8000, count := n }
  | none => { seed := seed, tag := 0x5352, count := st.num }

/-- A pan program started on a micro-batch of a step: from its first instruction, in user mode. -/
def Pan.startProgram (p : Pan) (seed : Nat) (st : Step) : Pan :=
  { p with
    step := some st.num, sr := streamOf seed st, gated := false, unitSlots := p.slots, segVec := p.vec, segSel := p.sel
    core := { p.core with
      pc := 0, x := Vector.replicate 31 0, machine := false, segStart := 0, segX := Vector.replicate 31 0, segNo := 0, trace := [], met := 0, hits := 0
      running := true, done := none } }

/-- A micro-batch record: 32 bytes a sample (11 R322, notes/assumptions/25.md). -/
def batchRecord (m : MicroBatch) : List Nat :=
  m.samples.flatMap (fun x => toLE 8 x.pos ++ toLE 8 x.sample ++ toLE 4 x.offset ++ toLE 4 x.tokens ++ toLE 4 x.slot ++ [0, 0, 0, 0])

/-- The marks of a micro-batch's tokens, each in the layout of a query record (07 R221): POS from 0 at each sample, SEG the sample's SLOT, TIDX from 0
(11 R322, notes/assumptions/25.md). -/
def tokenMarks (m : MicroBatch) : List Nat :=
  m.samples.flatMap (fun x => (List.range x.tokens).flatMap (fun i => toLE 4 i ++ toLE 4 x.slot ++ toLE 4 (x.offset + i) ++ [0, 0, 0, 0]))

/-- A micro-batch as it is placed: its record, the marks of its tokens, then its samples' decoded data. -/
def batchBytes (st : Step) (m : MicroBatch) : List Nat :=
  batchRecord m ++ tokenMarks m ++ m.samples.flatMap (fun x => ((st.slotAt x.slot).map SampleSlot.decoded).getD [])

/-- Commands of a step placed in the queues of their Terraces. -/
def Device.queueEngines (d : Device) (j : Nat) (skim sluice : List (Nat × List Nat)) : Device :=
  let d1 := skim.foldl (fun (e : Device) (x : Nat × List Nat) => e.issue.2.updEng x.1 (fun g => { g with skim := g.skim ++ [{ bytes := x.2, job := j, seq := e.issued }] })) d
  sluice.foldl (fun (e : Device) (x : Nat × List Nat) => e.issue.2.updEng x.1 (fun g => { g with sluice := g.sluice ++ [{ bytes := x.2, job := j, seq := e.issued }] })) d1

/-- Whether the queues have room for them: 16 commands each (08 R246, 09 R254). -/
def enginesFit (d : Device) (skim sluice : List (Nat × List Nat)) : Bool :=
  (List.range 4).all (fun t =>
    decide ((d.engAt t).skim.length + (skim.filter (fun x => x.1 == t)).length ≤ 16)
      && decide ((d.engAt t).sluice.length + (sluice.filter (fun x => x.1 == t)).length ≤ 16))

/-- Whether a step's undo copies are due: every earlier step has its stages complete (16 R430). -/
def undoDue (q : JobSlot) (n : Nat) : Bool := (q.steps.filter (fun x => decide (x.num < n))).all (fun x => x.stages)

/-- The capacity of an expert (09 R256): the policy's for the job, else ⌈1.25 × T_mb × KSEL / E⌉, in 16 bits. -/
def expertCap (p : Policy) (j tokens ksel e : Nat) : Nat :=
  min 0xFFFF (policyVal p 0x0210 j (policyVal p 0x0210 0xFFFF (ceilDiv (5 * tokens * ksel) (4 * e))))

/-- The expert table of a DISPATCH command, whose CAPs firmware writes; an empty stretch of any other command. -/
def capSpan (d : Device) (c : Nat × List Nat) : Nat × Nat :=
  let x := sluiceF c.2
  if x.op = 2 ∧ mapped d x.xtab (32 * x.e) = true then (x.xtab, 32 * x.e) else (0, 0)

/-- CAP written into the expert tables of a micro-batch's DISPATCH commands (09 R256): `tokens` are those of the micro-batch on all members of the group,
so that every Sluice of it holds the same table. -/
def Device.writeCaps (d : Device) (j : Nat) (u : JobSetup) (tokens : Nat) (sluice : List (Nat × List Nat)) : Device :=
  sluice.foldl (fun (e : Device) c =>
    let x := sluiceF c.2
    if (capSpan d c).2 ≠ 0 then
      (List.range x.e).foldl (fun f k => f.store (x.xtab + 32 * k + 28) (toLE 2 (expertCap u.policy j tokens x.ksel x.e))) e
    else e) d

/-- The capture slots of pans that leave a step for a later one, kept with the step that they leave. -/
def Device.leaveStep (d : Device) (j n : Nat) (ps : List Nat) : Device :=
  ps.foldl (fun e p =>
    match (e.panAt p).step with
    | some k => if k = n then e else e.updStep j k (fun x => x.capture [((((e.panAt p).job).map Prod.snd).getD 0, (e.panAt p).slots)])
    | none => e) d

/-- MICROBATCH_DISPATCH: the micro-batch and its record are placed, the pan programs and the commands of the step start. A held line where they or the
CAPs of their DISPATCH commands are placed makes it wait (01 R39). `tmb`: the tokens of the micro-batch on all members of a job of several (09 R256; notes/assumptions/20.md). -/
def execMicrobatchDispatch (j : Fin 16) (step mb : Nat) (pans : List Nat) (addr tmb : Nat) (skim sluice : List (Nat × List Nat)) (s : State) :
    Host.Outcome State Fault Refusal :=
  onDev s (fun d0 =>
    let d := d0.settleAll j
    let q := d.jobAt j
    match q.stepAt step, q.setup, idlePans d j pans with
    | some st, some u, some ps =>
      let m := nthD ({} : MicroBatch) st.mbs mb
      let bs := batchBytes st m
      if mayDispatch d j st mb ps && mapped d addr bs.length && !heldAt d addr bs.length && !sluice.any (fun c => heldAt d (capSpan d c).1 (capSpan d c).2) && enginesFit d skim sluice then
        let d1 := d.store addr bs
        let d2 := (d1.leaveStep j step ps).updStep j step (fun x => { x with started := true, mbs := modNth (fun m => { m with dispatched := true, addr := addr }) x.mbs mb })
        let d3 := if st.batch.isNone && undoDue q step then d2.captureUndo j step else d2
        let d4 : Device := if st.started || st.batch.isSome then d3
          else { d3 with fab := { d3.fab with chains := d3.fab.chains.map (fun c => if c.job == j.val then { c with sent := false } else c) } }
        ((ps.foldl (fun (e : Device) p => e.updPan p (fun x => x.startProgram u.jr.seed st)) (d4.writeCaps j u (if u.topo.nmemb ≤ 1 then m.tokens else tmb) sluice)).queueEngines j skim sluice).pump
      else d
    | _, _, _ => d)

/-! ### Batches (11 R324; 15 R422; 10 R291 to R293) -/

/-- The first batch that has not run marked as run. -/
def markDone : List Batch → List Batch
  | [] => []
  | b :: bs => if b.done then b :: markDone bs else { b with done := true } :: bs

/-- Whether a batch's work is done: packed, every micro-batch started, and no pan of the job still in it. -/
def batchDone (d : Device) (j : Nat) (st : Step) : Bool :=
  st.packDone && st.mbs.all (fun m => m.dispatched)
    && (jobPans d j).all (fun p => (d.panAt p).step != some st.num || (d.panAt p).core.done == some 0)

/-- The records of a batch in an evaluation window, kept with the step whose weights it evaluates; `others`: the rows of casts that the other members of the
job captured in it (10 R274, R275, R281). -/
def Device.batchRecords (d : Device) (j : Nat) (u : JobSetup) (st : Step) (others : List (List Nat)) : Device :=
  let st1 : Step := { st with cap := jobSlotsOf d j, shares := [(u.topo.selfId, { casts := others })] }
  d.updJob j (fun q =>
    let n := q.commit.step.getD 0
    { q with logs := { q.logs with
      amax := q.logs.amax ++ (amaxRecords u st1 n).map (fun r => (n, r)), redo := q.logs.redo ++ st.redo.map (fun r => (n, r)) } })

/-- BATCH_RUN: the batch whose turn it is, decoded, packed and run on the forward code, has its outputs written up to OUT_MAX, then its notice goes. The
outputs are what the pan programs left where the compiled program puts them (notes/assumptions/33.md); a held line of them makes it wait, and a corruption may meet
its read (01 R39; 06 R184, R196). `others`: what the other members captured of the batch's casts. -/
def execBatchRun (j : Fin 16) (batchNo : Nat) (hit : Option Hit) (others : List (List Nat)) (s : State) : Host.Outcome State Fault Refusal :=
  onDev s (fun d =>
    let q := d.jobAt j
    match q.dueBatch, q.resv, q.setup with
    | some b, some r, some u =>
      if b.batchNo == batchNo && q.resident && !q.switching && q.state == .running && d.glb.cur == .active && !d.glb.flushing && batchDone d j b.work then
        let o := Config.batchOutput u.prog.digest
        d.withHit hit [(o.1, min b.outMax o.2), (r.stageDev + b.outOff, min b.outMax o.2)] Device.holdFault (fun d =>
        let bs := d.readN o.1 (min b.outMax o.2)
        let d1 := (d.store (r.stageDev + b.outOff) bs).updJob j (fun q => { q with batches := markDone q.batches })
        let d2 := if b.kind = 0 then d1.batchRecords j u b.work others else d1
        (d2.batchNotice j (if b.outMax < o.2 then stStaging else stOk) batchNo bs.length).pump)
      else d
    | _, _, _ => d)

/-! ### The ladder of formats (10 R277) -/

/-- The format of a cast on a ladder level; none where the level-0 format has no entry there. -/
def ladder (f : Fmt) : Nat → Option Fmt
  | 0 => some f
  | 1 => match f with
    | .e2m1 | .e2m3 | .e3m2 => some .e4m3
    | .e4m3 | .e5m2 | .int8 => some .bf16
    | _ => none
  | 2 => match f with | .e2m1 | .e2m3 | .e3m2 => some .bf16 | _ => none
  | _ => none

/-- The highest level of a unit by the level-0 formats of its casts: the last column that holds a format for every one of them. -/
def topLevel (casts : List Fmt) : Nat :=
  if !casts.isEmpty && casts.all (fun f => (ladder f 2).isSome) then 2 else if !casts.isEmpty && casts.all (fun f => (ladder f 1).isSome) then 1 else 0

/-- The format a cast has at a level: level 2 makes every cast of the unit BF16. -/
def castAtLevel (f : Fmt) (lv : Nat) : Fmt := if lv = 2 then .bf16 else (ladder f lv).getD f

/-- The formats of a product's operands at a level: both BF16 where the pair is none of 02 R43. -/
def pairAtLevel (a b : Fmt) (lv : Nat) : Fmt × Fmt :=
  let x := castAtLevel a lv; let y := castAtLevel b lv
  if (pairOf x y).isSome then (x, y) else (.bf16, .bf16)

/-- The scale code of a cast on a level: a BF16 or FP16 cast made at level 1 or 2 uses 0x7F. -/
def codeAtLevel (f : Fmt) (lv code : Nat) : Nat := if lv ≠ 0 ∧ (castAtLevel f lv = .bf16 ∨ castAtLevel f lv = .fp16) then 0x7F else code

/-! ### Checkpoint layers (10 R288) -/

/-- Whether a layer's outputs are kept from its forward pass until its backward pass has consumed them. -/
def keeps (ckpt layer : Nat) : Bool := bitOf ckpt layer

/-- Where the recompute of an undeclared layer starts: the nearest earlier declared layer, or none for the micro-batch input. -/
def recomputeFrom (ckpt layer : Nat) : Option Nat := ((List.range layer).filter (keeps ckpt)).getLast?

/-! ### Layer redo (10 R277 to R282) -/

/-- The capture slots a unit watches. -/
def watched (r : RedoUnit) : List Nat := (List.range 16).filter (fun k => bitOf r.watch k)

/-- A capture slot as a gate report holds it. -/
def slotBytes (a : AmaxSlot) : List Nat := toLE 4 a.amax ++ toLE 4 a.sat ++ toLE 4 a.inf ++ toLE 4 a.nan

/-- The redo unit of an identifier and direction in a job's program. -/
def redoUnit (q : JobSlot) (unit dir : Nat) : Option RedoUnit := (q.setup.bind (fun u => u.prog.redo.find? (fun r => r.unit == unit && r.dir == dir)))

/-- Whether a gate is that of a unit, direction and micro-batch. -/
def Gate.isOf (g : Gate) (unit dir mb : Nat) : Bool := g.unit == unit && g.dir == dir && g.mb == mb

/-- The gate of a unit and micro-batch: the one in progress, else a new one at level 0. -/
def gateOf (q : JobSlot) (unit dir mb : Nat) : Gate := (q.gates.find? (fun g => g.isOf unit dir mb)).getD { unit := unit, dir := dir, mb := mb }

/-- The gates without one, and with a gate put back. -/
def gatesBut (q : JobSlot) (unit dir mb : Nat) : List Gate := q.gates.filter (fun g => !g.isOf unit dir mb)

/-- The level that a unit's final attempt for a micro-batch of a step had (10 R281, R282). -/
def recordedLevel (st : Step) (unit dir mb : Nat) : Nat :=
  levelOf st.redo (fun r => fieldAt r 8 4 == unit && fieldAt r 12 4 == mb && fieldAt r 16 1 == dir)

/-- Where a recompute of a forward unit starts: at the level recorded for it, without a gate (10 R282, R288). -/
def recomputeEntry (st : Step) (r : RedoUnit) (mb : Nat) : Nat := nthD 0 r.entries (recordedLevel st r.unit r.dir mb)

/-- Whether a forward unit's gate has passed for a micro-batch in the pan's step: its pans reach it again in a recompute (10 R282, R288). -/
def recomputes (q : JobSlot) (p : Pan) (unit dir mb : Nat) : Bool :=
  dir == 0 && (p.step.bind q.stepAt).any (fun st => st.passed.contains (unit, mb))

/-- A pan that ends a recompute of a unit: the watched slots hold what the unit's final attempt left in them (10 R282). -/
def Pan.recomputed (p : Pan) (r : RedoUnit) : Pan :=
  { p with slots := p.slots.zipIdx.map (fun x => if (watched r).contains x.2 then nthD x.1 p.unitSlots x.2 else x.1) }

/-- REDO_GATE: a member pan reports the watched slots at its gate address, once no granule there is held; it then stalls on the verdict. In a recompute of a
forward unit there is no gate and no record (10 R282). -/
def execRedoGate (p : Fin 64) (unit dir mb : Nat) (s : State) : Host.Outcome State Fault Refusal :=
  onDev s (fun d =>
    match (if d.panOn p && (d.panAt p).core.running && (d.panAt p).core.halt.isNone && !(d.panAt p).gated then (d.panAt p).job else none) with
    | some (j, _) =>
      match redoUnit (d.jobAt j) unit dir with
      | some r =>
        let g := gateOf (d.jobAt j) unit dir mb
        let ss := (d.panAt p).slots
        if recomputes (d.jobAt j) (d.panAt p) unit dir mb then d.updPan p (fun q => q.recomputed r)
        else if (d.panAt p).holds r.gate (16 * (watched r).length) then d
        else
        let d1 := (d.psWrite p r.gate ((watched r).flatMap (fun k => slotBytes (nthD {} ss k)))).updPan p (fun q => { q with gated := true })
        d1.updJob j (fun q => { q with gates := gatesBut q unit dir mb ++ [{ g with reports := g.reports.filter (fun x => x.1 != p.val) ++ [(p.val, ss)] }] })
      | none => d
    | none => d)

/-- The watched slots combined over every report: this device's, and the others' as rows (slot, AMAX, SATCNT, INFCNT, NANCNT, TENSOR_ID) (10 R274). -/
def combinedSlots (r : RedoUnit) (g : Gate) (others : List (List Nat)) : List AmaxSlot :=
  (watched r).map (fun k => combineSlots (g.reports.map (fun x => nthD ({} : AmaxSlot) x.2 k) ++ (others.filter (fun o => nthD 0 o 0 == k)).map slotOfRow))

/-- The tensor identifiers of the watched casts with a non-zero count, by logical pan of the members. -/
def redoTensors (d : Device) (u : JobSetup) (r : RedoUnit) (g : Gate) (others : List (List Nat)) : List Nat :=
  let hot (s : AmaxSlot) : Bool := s.sat + s.inf != 0
  g.reports.flatMap (fun x => ((watched r).filter (fun k => hot (nthD ({} : AmaxSlot) x.2 k))).filterMap (fun k =>
      (Config.castAt u.prog.digest ((((d.panAt x.1).job).map Prod.snd).getD 0) k).map (castTensor u)))
    ++ (others.filter (fun o => (watched r).contains (nthD 0 o 0) && hot (slotOfRow o))).map (fun o => nthD 0 o 5 % 2 ^ 32)

/-- A redo record (10 R281). -/
def redoRecord (n : Nat) (eval : Bool) (r : RedoUnit) (mb lv to' sat inf : Nat) (ids : List Nat) : List Nat :=
  toLE 8 n ++ toLE 4 r.unit ++ toLE 4 mb ++ [r.dir, lv, to', b2n eval] ++ toLE 4 sat ++ toLE 4 inf ++ toLE 4 (ids.foldl min (ids.headD 0))

/-- The data of a redo event. -/
def redoData (r : RedoUnit) (mb n lv to' sat inf : Nat) : List Nat :=
  toLE 4 r.unit ++ toLE 4 mb ++ toLE 4 (n % 2 ^ 32) ++ [lv, to'] ++ toLE 2 (min 0xFFFF sat) ++ toLE 2 (min 0xFFFF inf)

/-- What a verdict does to a member: the attempt passes, or its captures are discarded and the unit runs again from its entry at the level, where
a segment starts (10 R279; 05 R170). -/
def Pan.verdict (p : Pan) (r : RedoUnit) (v : Nat) : Pan :=
  let q := { p.setFlag r.verdict with gated := false }
  if v = 0 then { q with unitSlots := q.slots }
  else
    let pc := BitVec.ofNat 64 (nthD 0 r.entries v)
    ({ q with slots := q.unitSlots, core := { q.core with pc := pc } } : Pan).segmentAt pc

/-- The verdict written to the members of a gate at their report address, and its flag set. -/
def Device.giveVerdict (d : Device) (r : RedoUnit) (g : Gate) (v : Nat) : Device :=
  g.reports.foldl (fun (e : Device) x => (e.psWrite x.1 r.gate (toLE 4 v)).updPan x.1 (fun p => p.verdict r v)) d

/-- REDO_VERDICT: the reports combined, the verdict written to every member once no granule there is held, and a record of a re-run or an exhausted trigger. `others`: the
counts that the members on other devices reported. -/
def execRedoVerdict (j : Fin 16) (unit dir mb : Nat) (others : List (List Nat)) (s : State) : Host.Outcome State Fault Refusal :=
  onDev s (fun d =>
    let q := d.jobAt j
    let g := gateOf q unit dir mb
    match redoUnit q unit dir, q.setup, g.reports.head?.bind (fun x => (d.panAt x.1).step) with
    | some r, some u, some n =>
      if q.live && q.resident && !q.switching && !g.reports.any (fun x => (d.panAt x.1).holds r.gate 4) then
        let cs := combinedSlots r g others
        let sat := cs.foldl (fun a c => satAdd a c.sat) 0; let inf := cs.foldl (fun a c => satAdd a c.inf) 0
        let eval := decide (batchBase ≤ n)
        let shown := if eval then q.commit.step.getD 0 else n
        let rec' (to' : Nat) : List Nat := redoRecord shown eval r mb g.level to' sat inf (redoTensors d u r g others)
        let trig := decide (0 < sat + inf)
        if trig && decide (g.level < r.top) then
          let d1 := d.updJob j (fun q => { q with gates := gatesBut q unit dir mb ++ [{ g with level := g.level + 1, reports := [] }] })
          let d2 := d1.updStep j n (fun st => { st with redo := st.redo ++ [rec' (g.level + 1)] })
          (d2.giveVerdict r g (g.level + 1)).logEvent srcRenura 0x0301 sevNotice (some j) (redoData r mb shown g.level (g.level + 1) sat inf)
        else
          let d1 := d.updJob j (fun q => { q with gates := gatesBut q unit dir mb })
          let d2 := if trig then
              (d1.updStep j n (fun st => { st with redo := st.redo ++ [rec' 0xFF] })).logEvent srcRenura 0x0302 sevNotice (some j) (redoData r mb shown g.level 0xFF sat inf)
            else d1
          let d3 := if dir = 0 then d2.updStep j n (fun st => { st with passed := st.passed ++ [(unit, mb)] }) else d2
          d3.giveVerdict r g 0
      else d
    | _, _, _ => d)

end Sys2Proof.Machine
end

