-- ==== Sys2Proof/Machine/Lineage.lean ====
section
/-! DEFINITION. Lineage: a detected fault resolved from the buffer table (06 R188; 01 R39 to R41). -/
namespace Sys2Proof.Machine

/-- Whether the grain of an address is held. -/
def grainHeld (d : Device) (a : Nat) : Bool := heldAt d (grainOf a).1 (grainOf a).2

/-- A fault that no kind resolves: the step is replayed from the last committed state, whose work writes the grain again. -/
def Device.replayFor (d : Device) (j a : Nat) : Device := (d.replaySteps j).releaseGrain a

/-- The part of a buffer that lies in the grain of an address: its start and length. -/
def partOf (b : BufEntry) (a : Nat) : Nat × Nat :=
  let g := grainOf a
  let lo := max g.1 b.base
  (lo, min (g.1 + g.2) (b.base + b.len) - lo)

/-- The words of the copy that reissues n bytes of a buffer. -/
def recopyWords (src dst n : Nat) : List Nat :=
  [2 ^ 28 + 1, src % 2 ^ 32, src / 2 ^ 32 % 2 ^ 16 + dst % 2 ^ 16 * 2 ^ 16, dst / 2 ^ 16 % 2 ^ 32, n / 32 * 2 ^ 12, 0, 0, 0]

/-- The Terrace whose copy engines serve an address. -/
def terOf (a : Nat) : Nat := if isPanStore a then panOfStore a / 16 else if isWindow a then terOfWindow a else terOfScratch a

/-- COPY: the copy of the grain is reissued by firmware, which waits for room in the order in which it reached the queue; a corrupt source is
resolved first. Its completion serves the grain again. -/
def Device.recopy (d : Device) (j a : Nat) (b : BufEntry) : Device :=
  let part := partOf b a
  let src := fieldAt b.source 0 8 + (part.1 - b.base)
  let t := terOf a
  let ws := recopyWords src part.1 part.2
  if part.1 % 32 ≠ 0 ∨ part.2 % 32 ≠ 0 ∨ src % 32 ≠ 0 then d.replayFor j a
  else if heldAt d src part.2 then d
  else if (d.engAt t).copies.any (fun c => c.issuer == .firmware && c.words == ws) then d
  else if (d.engAt t).mayQueue .firmware j then d.issue.2.updEng t (fun e => e.queueCopy .firmware j d.issued ws)
  else d.updEng t (fun e => e.await .firmware j)

/-- PRODUCED: the segment that wrote the buffer is re-run, which writes the same bits as its first run (01 R41) and so serves the grain again: the segment
that its pan is in starts again; one that the pan has passed is re-run by firmware, and nothing but the grain is different after it
(notes/assumptions/21.md). -/
def Device.reproduce (d : Device) (j a : Nat) (b : BufEntry) : Device :=
  match physPanOf d j (fieldAt b.source 0 1) with
  | some p =>
    let d1 := d.releaseGrain a
    if (d.panAt p).core.running && (d.panAt p).core.segNo == fieldAt b.source 1 4 then d1.updPan p Pan.rerun
    else if (d.panAt p).core.segNo < fieldAt b.source 1 4 then d.replayFor j a
    else d1
  | none => d.replayFor j a
where
  physPanOf (d : Device) (j l : Nat) : Option Nat := (pansOf d j).find? (fun p => (d.panAt p).job == some (j, l))

/-- INPUT: the micro-batches that hold the sample slot are placed again from their samples, and the grain is served. -/
def Device.rebuild (d : Device) (j a : Nat) (b : BufEntry) : Device :=
  let slot := fieldAt b.source 0 4
  let of' := (d.jobAt j).allSteps.flatMap (fun st => (st.mbs.filter (fun m => m.dispatched && m.samples.any (fun x => x.slot == slot))).map (fun m => (m.addr, batchBytes st m)))
  if of'.isEmpty then d.replayFor j a
  else (of'.foldl (fun e x => e.store x.1 x.2) d).releaseGrain a

/-- STATE: a buffer of this kind is its own LPDDR5X copy (15 R409: SOURCE 0), and a grain of it is held only when that copy is the corrupt one or older than
what was lost: the step is replayed, from the undo copies of the committed state (06 R184, R188; notes/assumptions/21.md). -/
def Device.reread (d : Device) (j a : Nat) : Device := d.replayFor j a

/-- Whether an address lies in a saved context of a job: its save areas, or the sleeve of their Terraces (06 R187; 15 R411). -/
def inContext (d : Device) (j a : Nat) : Bool :=
  (d.jobAt j).saved.isSome && (d.jobAt j).resv.any (fun r => r.save.any (fun x =>
    (decide (x.2 ≤ a) && decide (a < x.2 + 16 * contextBytes))
      || (let t := d.terAt x.1; sleeveReads t && decide (scratchBed x.1 t.sleeveBase ≤ a) && decide (a < scratchBed x.1 t.sleeveBase + 16 * contextBytes))))

/-- BUFFER_REGENERATE: a held grain of a saved context, which no kind resolves, raises a job fault (15 R424); a held grain of a job's data resolved by the kind of its buffer, or by a replay of the step where no buffer names it. -/
def execBufferRegenerate (j : Fin 16) (addr : Nat) (s : State) : Host.Outcome State Fault Refusal :=
  onDev s (fun d =>
    if !terOn d || !grainHeld d addr then d
    else if inContext d j addr then (d.releaseGrain addr).jobFault
    else if !(d.jobAt j).live then d
    else match bufferOf d j addr with
    | some b => match b.kind with
      | 0 => d.recopy j addr b
      | 1 => d.reproduce j addr b
      | 2 => d.rebuild j addr b
      | _ => d.reread j addr
    | none => d.replayFor j addr)

end Sys2Proof.Machine
end

