-- ==== Sys2Proof/Machine/PanStep.lean ====
section
/-! DEFINITION. The instructions that may end a pan's program: PDONE, and the one at the pc (05 R164, R165; 01 R36). -/
namespace Sys2Proof.Machine

/-- After a program may have ended its work, the stages of its job's step may be complete, and the intake of a later step may begin (01 R36). -/
def afterPdone (p : Nat) (d : Device) : Device :=
  match (d.panAt p).job with
  | some (j, _) => if (d.panAt p).core.done.isSome then (d.settleStages j).pump else d
  | none => d

/-- PDONE (05 R165). -/
def execPdone (p : Fin 64) (rs1 : Nat) (s : State) : Host.Outcome State Fault Refusal :=
  onDev s (fun d => afterPdone p (d.runCore p (fun d => pdoneRun d p rs1)))
/-- The 64-bit vector word at the pc, which a droop skip holds (05 R139, 17 R466). -/
def vectorAtPc (d : Device) (p : Nat) : Bool := bmGet (d.panAt p).core.imem (d.panAt p).pc % 128 == 63

/-- Whether the instruction at the pc reads words of the pan store, those it merges into among them: a load, MXD or CPY, a store below 32 bits, VLD, or
VST of elements below 32 bits (06 R177). -/
def readsStore (d : Device) (p : Nat) : Bool :=
  let q := d.panAt p
  let w := ofLE (bmRead q.core.imem q.pc 8)
  if vectorAtPc d p then bits w 63 56 == 0x70 || (bits w 63 56 == 0x71 && decide ((vfD (vFields w)).width < 32))
  else
    let b := if w % 4 = 3 then w % 2 ^ 32 else (expandC (w % 65536)).getD 0
    b % 128 == 0x03 || b % 128 == 0x0B || (b % 128 == 0x23 && decide (bits b 14 12 < 2))

/-- PAN_CORE_INSTRUCTION: the instruction that the instruction memory holds at the pc; `hit` is a parity hit met by it in a core memory or a vector
register, `store` the pan-store address of one met there (05 R164, R170; 06 R177). -/
def execPanCoreInstruction (p : Fin 64) (hit : Bool) (store : Option Nat) (s : State) : Host.Outcome State Fault Refusal :=
  onDev s (fun d =>
    if (d.panAt p).droopSkip != 0 && vectorAtPc d p then d
    else afterPdone p (d.runCore p (fun d => withStoreHit d p (if readsStore d p then store else none) (fun d => coreRun d p hit)) hit))

end Sys2Proof.Machine
end

