-- ==== Sys2Proof/Machine/Pins.lean ====
section
/-! DEFINITION. The configuration seal's engine (19 R512, R513), and the input, the pins and the bring-up they start (19 R521, R522;
20 R529 to R538). notes/assumptions/30.md names what is the model's. -/
namespace Sys2Proof.Machine

/-! ### The seal (19 R512, R513) -/

/-- ACTION applied: every running job suspended and starts refused; from 2 on a Lockdown-request too, once an episode. -/
def Device.sealAct (d : Device) (first : Bool) : Device :=
  if d.sl.action = 0 then (if first then d.logEvent srcQuay 0x0002 sevWarning none (toLE 4 d.sl.value) else d)
  else
    let d1 := ({ d with sl := { d.sl with blocked := true } } : Device).lockdown
    if !first then d1
    else if d.sl.action = 1 then d1.logEvent srcQuay 0x0002 sevWarning none (toLE 4 d.sl.value)
    else d1.logLockdown srcQuay 0x0002 (toLE 4 d.sl.value)

/-- A mismatch: MATCH clears, MISMATCH is set, it is counted, and ACTION acts. -/
def Device.sealMismatch (d : Device) : Device :=
  ({ d with sl := { d.sl with matched := false, mismatch := true, count := satAdd d.sl.count 1, episode := true } } : Device).sealAct (!d.sl.episode)

/-- SEAL_PASS: the seal of the sealed registers compared with SEAL_REF; a pass that HOLD discards, or that meets the compute domain off or
in Shelf, compares nothing. -/
def execSealPass (s : State) : Host.Outcome State Fault Refusal :=
  onDev s (fun d =>
    if d.inp.stage != .served || d.glb.cur == .shelf || d.sl.hold then d
    else
      let v := sealOf (sealedValues d)
      let d1 : Device := { d with sl := { d.sl with value := v, valid := true } }
      if v = d.sl.ref then { d1 with sl := { d1.sl with matched := true, episode := false, blocked := false } } else d1.sealMismatch)

/-- SEAL_HOLD: HOLD set by Pawezel or Renura firmware; the pass in progress is discarded. -/
def execSealHold (a : Agent) (s : State) : Host.Outcome State Fault Refusal :=
  onDev s (fun d => if a = .pawezel ∨ a = .renura then { d with sl := { d.sl with hold := true, matched := false, valid := false } } else d)

/-- DERIVED_COMMIT: SEAL_REF and the sealed image from the current values; HOLD clears. -/
def execDerivedCommit (s : State) : Host.Outcome State Fault Refusal := onDev s (fun d => if d.inp.stage == .served then d.deriveSeal else d)

/-- SEAL_HOLD_TIMEOUT: HOLD set for more than 100 ms is a mismatch. -/
def execSealHoldTimeout (s : State) : Host.Outcome State Fault Refusal :=
  onDev s (fun d => if d.sl.hold then d.sealMismatch else d)

/-! ### Input power (20 R534, R536; 18 R482) -/

/-- Whether the input has left its limits and not come back. -/
def Inputs.excursion (i : Inputs) : Bool := i.overMark || i.underMark

/-- INPUT_POWER_APPLIED: the island starts, SID is sampled, POWER is set, and with PWR_EN high a Cold reset runs. -/
def execInputPowerApplied (sid : Fin 32) (s : State) : Host.Outcome State Fault Refusal :=
  onDev s (fun d =>
    if d.inp.island then d
    else
      let d1 : Device := { d with
        inp := { d.inp with island := true, overMark := false, underMark := false, holdupMark := false }
        i3c := { sid := sid }
        glb := { d.glb with cause := {} } }
      if d.inp.pwrEn then d1.coldReset else d1)

/-- INPUT_OVERVOLTAGE: above 62 V the compute domain goes off, once an excursion. -/
def execInputOvervoltage (mv : Nat) (s : State) : Host.Outcome State Fault Refusal :=
  onDev s (fun d =>
    if d.inp.island && !d.inp.overMark && decide (62000 < mv) then
      (({ d with inp := { d.inp with overMark := true } } : Device).computeOff).logEvent srcPawezel 0x0907 sevWarning none (toLE 4 mv)
    else d)

/-- INPUT_UNDERVOLTAGE: below 42 V the compute domain goes off, once an excursion. -/
def execInputUndervoltage (mv : Nat) (s : State) : Host.Outcome State Fault Refusal :=
  onDev s (fun d =>
    if d.inp.island && !d.inp.underMark && decide (mv < 42000) then
      (({ d with inp := { d.inp with underMark := true } } : Device).computeOff).logEvent srcPawezel 0x0906 sevWarning none (toLE 4 mv)
    else d)

/-- INPUT_HOLDUP: below 40 V every unwritten record is written, once an excursion. -/
def execInputHoldup (mv : Nat) (s : State) : Host.Outcome State Fault Refusal :=
  onDev s (fun d =>
    if d.inp.island && !d.inp.holdupMark && decide (mv < 40000) then
      { d with inp := { d.inp with holdupMark := true }, bit := d.bit.writeAll }
    else d)

/-- INPUT_POWER_LOST: below 38 V the always-on island stops. -/
def execInputPowerLost (s : State) : Host.Outcome State Fault Refusal := onDev s (fun d => if d.inp.island then d.inputLost else d)

/-- INPUT_RECOVERED: back within 44 to 61 V for 100 ms the excursion is over, and with PWR_EN high a Cold reset runs. -/
def execInputRecovered (mv : Nat) (s : State) : Host.Outcome State Fault Refusal :=
  onDev s (fun d =>
    if d.inp.island && decide (44000 ≤ mv) && decide (mv ≤ 61000) then
      let d1 : Device := { d with inp := { d.inp with overMark := false, underMark := false, holdupMark := false } }
      if d.inp.excursion && d.inp.pwrEn then d1.causeCold.coldReset else d1
    else d)

/-! ### The pins (20 R529, R536 to R538) -/

/-- PWR_EN_RISE: a Cold reset; outside the limits of R534 it waits for the input's recovery. -/
def execPwrEnRise (s : State) : Host.Outcome State Fault Refusal :=
  onDev s (fun d =>
    if d.inp.pwrEn then d
    else
      let d1 : Device := { d with inp := { d.inp with pwrEn := true } }
      if d.inp.island && !d.inp.excursion then d1.causeCold.coldReset else d1)

/-- PWR_EN_FALL: the power-down of R537: every job lost, mailboxes stopped, the compute domain off, the current Bittern page written. -/
def execPwrEnFall (s : State) : Host.Outcome State Fault Refusal :=
  onDev s (fun d =>
    if !d.inp.pwrEn then d
    else
      let d1 : Device := { d with inp := { d.inp with pwrEn := false } }
      if d.inp.island then
        let d2 := d1.computeOff
        { d2 with bit := d2.bit.writePage }
      else d1)

/-- MOD_RESET_N_ASSERT: in operation a Module reset; a bring-up holds at offset 500 ms; with the compute domain off nothing follows, but a
domain that a recovery keeps off boots again. -/
def execModResetNAssert (s : State) : Host.Outcome State Fault Refusal :=
  onDev s (fun d =>
    if !d.inp.modResetN then d
    else
      let d1 : Device := { d with inp := { d.inp with modResetN := false } }
      match d.inp.stage with
      | .served => d1.moduleReset
      | .held => d1
      | .coolWait => { d1 with inp := { d1.inp with stage := .held }, glb := { d1.glb with coolWait := false } }
      | .off =>
        if d.inp.island && d.inp.pwrEn && !d.inp.excursion && !(d.pwz.typeAt 1).recovery then d1.moduleReset else d1)

/-- MOD_RESET_N_RELEASE: the bring-up held at offset 500 ms goes on. -/
def execModResetNRelease (s : State) : Host.Outcome State Fault Refusal :=
  onDev s (fun d =>
    let d1 : Device := { d with inp := { d.inp with modResetN := true } }
    if d.inp.stage == .held then d1.bootStep5 else d1)

/-- BRINGUP_RESUME: a bring-up, or an exit from Shelf, that waits for cool sensors goes on once they are cool enough. -/
def execBringupResume (s : State) : Host.Outcome State Fault Refusal :=
  onDev s (fun d =>
    if !coolEnough d then d
    else if d.inp.stage == .coolWait then d.bringUp
    else if d.inp.stage == .served && d.glb.coolWait then
      ({ d with glb := { d.glb with coolWait := false } } : Device).powerTo d.glb.target
    else d)

/-- HOST_PORT_WAKE: in Shelf the link partner's signalling wakes the host port; it trains, and the management mailboxes are served. -/
def execHostPortWake (s : State) : Host.Outcome State Fault Refusal :=
  onDev s (fun d =>
    if d.inp.stage == .served && d.glb.cur == .shelf && d.eth.state == 0 then { d with eth := { d.eth with state := 1 } } else d)

end Sys2Proof.Machine
end

