-- ==== Sys2Proof/Machine/Power.lean ====
section
/-! DEFINITION. Power and thermal control: estimates and energy, the fast limit, calibration, the module limit, droop, the thermal ceiling,
throttle and trip, and sensor sampling (17 R459 to R471; 18 R476; 20 R540). notes/assumptions/28.md names what is the model's. -/
namespace Sys2Proof.Machine

/-! ### Sensors (18 R552) -/

/-- The greatest of a list of readings; the given value when it is empty. -/
def hottest (l : List Int) : Int := match l with | [] => 0 | x :: r => r.foldl max x

/-- The readings of a Terrace: its die's twelve sensors and its four Brine dies'. -/
def terraceTemps (p : Pwz) (t : Nat) : List Int := (p.die.drop (12 * t)).take 12 ++ (p.die.drop (48 + 4 * t)).take 4

/-- The readings of the Quay die. -/
def quayTemps (p : Pwz) : List Int := p.die.drop 64

/-- A sensor number and its reading, as event data. -/
def sensorData (s : Nat) (v : Int) : List Nat := [s] ++ toLE 2 (BitVec.ofInt 16 v).toNat

/-! ### Estimates and energy (17 R459, R471) -/

/-- An estimate in mW: the static term and the weighted counters, times a gain in 1/10,000 (R459). -/
def estimate (die : Nat) (hot : Int) (counters : List Nat) (gain : Nat) : Nat :=
  let dyn := sumNat ((List.range counters.length).map (fun i => Config.powerWeight die i * nthD 0 counters i))
  (1000 * Config.staticPower die hot + dyn) * gain / 10000000

/-- Energy added in half nanojoules, the fraction carried (R471). -/
def Energy.add (e : Energy) (half : Nat) : Energy :=
  { e with uJ := (e.uJ + (e.frac + half) / 2000) % 2 ^ 64, frac := (e.frac + half) % 2000 }

/-- The energy of a Terrace's last estimate over 2 µs with its quarter of the Quay die's, in half nanojoules. -/
def terraceEnergy (d : Device) (t : Nat) : Nat := 4 * (d.terpAt t).estMw + d.pwr.quayMw

/-- One Terrace's energy added to its partition, and to each job of the partition that is resident and not being switched. -/
def Device.addEnergy (d : Device) (t : Nat) : Device :=
  let e := terraceEnergy d t
  let p := partOfTer d.quy.layout t
  let mine (j : Nat) : Bool := (d.jobAt j).part == some p && (d.jobAt j).resident && !(d.jobAt j).switching
  { d with pwr := { d.pwr with
      part := modNth (fun x => x.add e) d.pwr.part p
      job := (List.range 16).map (fun j => let x := nthD {} d.pwr.job j; if mine j then x.add e else x) } }

/-- A Terrace's estimate formed from its activity counters. -/
def Device.estimateTerrace (d : Device) (t : Nat) (counters : List Nat) : Device :=
  let hot := hottest (terraceTemps d.pwz t)
  let p := estimate t hot counters (d.terpAt t).kcal
  d.updTerp t (fun x => { x with estMw := p, est := min (p / 1000) 0xFFFF, staticMw := Config.staticPower t hot })

/-- The package estimate in mW: the four Terraces' and the Quay die's (R459). -/
def packageMw (d : Device) : Nat := sumNat (d.terp.toList.map TerPower.estMw) + d.pwr.quayMw

/-- A package estimate entered in what the calibration and the thermal ceiling take their means over (R460, R468). -/
def Pwr.noteEstimate (p : Pwr) (mw : Nat) : Pwr :=
  { p with calSum := p.calSum + mw, calCount := p.calCount + 1, ceilSum := p.ceilSum + mw, ceilCount := p.ceilCount + 1 }

/-- POWER_ESTIMATE: the four Terraces and the Quay die form their estimates from the window's counters, and the energy is added. -/
def execPowerEstimate (activity : List (List Nat)) (s : State) : Host.Outcome State Fault Refusal :=
  onDev s (fun d =>
    if d.inp.stage != .served || d.glb.cur == .shelf then d
    else
      let d1 := (List.range 4).foldl (fun (e : Device) t => e.estimateTerrace t (nthD [] activity t)) d
      let d2 : Device := { d1 with pwr := { d1.pwr with quayMw := estimate 4 (hottest (quayTemps d.pwz)) (nthD [] activity 4) 10000 } }
      let d3 := (List.range 4).foldl (fun (e : Device) t => e.addEnergy t) d2
      { d3 with pwr := d3.pwr.noteEstimate (packageMw d3) })

/-! ### The fast limit (17 R462, R464) -/

/-- A Terrace's budget in mW (R462). -/
def budgetMw (p : Pwr) (t : Nat) : Nat := nthD 0 p.frac t * (effCap p - 100) * 10

/-- The slot allowance after a window, before the thermal allowance bounds it, and whether the limit acted (R464). -/
def fastLimit (p b ps s : Nat) : Nat × Bool :=
  if b < p then (if b ≤ ps then 1 else max 1 (s * (b - ps) / (p - ps)), true)
  else if 100 * p ≤ 97 * b then (min 64 (s + 4), false)
  else (s, false)

/-- FAST_LIMIT: the slot allowance of a Terrace against its budget; in Doze and Shelf no slot is left (R464, R465). -/
def execFastLimit (t : Fin 4) (s : State) : Host.Outcome State Fault Refusal :=
  onDev s (fun d =>
    if d.inp.stage != .served then d
    else if d.glb.cur == .doze || d.glb.cur == .shelf then d.updTerp t (fun x => { x with slots := 0 })
    else d.updTerp t (fun x =>
      let r := fastLimit x.estMw (budgetMw d.pwr t) x.staticMw (max 1 x.slots)
      { x with slots := min r.1 x.therm, fast := x.fast || r.2, fastCount := if r.2 then satAdd x.fastCount 1 else x.fastCount }))

/-! ### Calibration and the module limit (17 R460, R463) -/

/-- KCAL moved toward agreement by at most 1 %, within 0.75 to 1.25 (R460). -/
def kcalStep (k measured estimated : Nat) : Nat :=
  if estimated = 0 then k
  else max 7500 (min 12500 (max (k - k / 100) (min (k + k / 100) (k * measured / estimated))))

/-- A mean, the given value when nothing was counted. -/
def meanOr (dflt sum count : Nat) : Nat := if count = 0 then dflt else sum / count

/-- The mean of the package rails in mW since the last calibration (R460). -/
def railMean (p : Pwr) : Nat := meanOr 0 p.railSum p.railCount / 1000

/-- KCAL_CALIBRATE: the mean of the package estimate since the last one compared with that of the measured rails, and each Terrace's gain moved. -/
def execKcalCalibrate (s : State) : Host.Outcome State Fault Refusal :=
  onDev s (fun d => { d with
    terp := d.terp.map (fun x => { x with
      kcal := if d.pwr.railCount = 0 then x.kcal else kcalStep x.kcal (railMean d.pwr) (meanOr (packageMw d) d.pwr.calSum d.pwr.calCount) })
    pwr := { d.pwr with calSum := 0, calCount := 0, railSum := 0, railCount := 0 } })

/-- The J2 energy of one 1 ms measurement in half nanojoules: twice mV × mA. -/
def inputEnergy (p : Pwz) : Nat := let r := nthD (0, 0) p.rails 0; 2 * (r.1 * r.2).toNat

/-- The J2 power of the last reading in µW. -/
def inputPower (p : Pwz) : Nat := let r := nthD (0, 0) p.rails 0; (r.1 * r.2).toNat

/-- The mean of J2 over the last 100 ms in mW (R463). -/
def j2Mean (p : Pwr) : Nat := meanOr 0 (sumNat p.j2) p.j2.length / 1000

/-- MODULE_POWER_CHECK: J2 is read, and its energy counted; above the TDP C_mod falls by the excess, below 2,350 W it rises by 10 W in 100 ms
(R463, R471). -/
def execModulePowerCheck (s : State) : Host.Outcome State Fault Refusal :=
  onDev s (fun d0 =>
    let d : Device := { d0 with pwr := { d0.pwr with
      input := d0.pwr.input.add (inputEnergy d0.pwz), j2 := keepLast 100 (d0.pwr.j2 ++ [inputPower d0.pwz]) } }
    let meanMw := j2Mean d.pwr
    if 2400000 < meanMw then
      let c := d.pwr.module - ceilDiv (meanMw - 2400000) 1000
      let d1 : Device := { d with pwr := { d.pwr with module := c, moduleEpisode := true, raiseRun := 0 } }
      if d.pwr.moduleEpisode then d1 else d1.logEvent srcPawezel 0x0901 sevWarning none (toLE 4 meanMw)
    else if meanMw < 2350000 then
      if d.pwr.raiseRun + 1 < 100 then { d with pwr := { d.pwr with moduleEpisode := false, raiseRun := d.pwr.raiseRun + 1 } }
      else { d with pwr := { d.pwr with moduleEpisode := false, raiseRun := 0, module := min 2150 (d.pwr.module + 10) } }
    else { d with pwr := { d.pwr with raiseRun := 0 } })

/-! ### Droop (17 R466) -/

/-- DROOP_DETECT: the pan skips array and vector lane issue for 16 cycles from now; the Terrace counts the detection. -/
def execDroopDetect (p : Fin 64) (s : State) : Host.Outcome State Fault Refusal :=
  onDev s (fun d => (d.updPan p (fun x => { x with droopSkip := 16 })).updTerp (p / 16) (fun x => { x with droop := satAdd x.droop 1 }))

/-- DROOP_SKIP_END: the skip and the trip behind it are over; what was skipped issues. -/
def execDroopSkipEnd (p : Fin 64) (s : State) : Host.Outcome State Fault Refusal :=
  onDev s (fun d => d.updPan p (fun x => { x with droopSkip := 0, droopHeld := false }))

/-- DROOP_HELD: the detector has stayed tripped for 1 ms; the pan goes on skipping while it does. -/
def execDroopHeld (p : Fin 64) (s : State) : Host.Outcome State Fault Refusal :=
  onDev s (fun d => (d.updPan p (fun x => { x with droopSkip := 16, droopHeld := true })).logEvent (srcPan p) 0x0902 sevWarning none [p])

/-! ### Thermal control (17 R468 to R470) -/

/-- r of the ceiling after 10 ms at p mW, in 10⁻⁹ K/W: 1 − exp(−0.0125) in 10⁻¹⁸ (R468). -/
def ceilingR (r : Nat) (tj tin : Int) (powerMw : Nat) : Nat :=
  if powerMw < 200000 then r
  else
    let target : Int := (tj - tin) * 100000000000 / powerMw
    (r + (target - r) * 12422199506118559 / 1000000000000000000 : Int).toNat

/-- The ceiling in W from TJ_TARGET in °C, the inlet in 0.1 °C, its slope in K/s as a fraction, r, and low flow (R468). -/
def ceilingW (target : Nat) (tin num : Int) (den r : Nat) (flowLow : Bool) : Nat :=
  let den' : Int := if den = 0 then 1 else den
  let num' : Int := if den = 0 then 0 else max 0 num
  let c : Int := ((10 * target - tin) * den' - 50 * num') * 100000000 / (den' * max 1 r)
  (max 500 (min 2150 (if flowLow then min c 1000 else c))).toNat

/-- The least-squares slope of readings taken every 10 ms, in tenths a tick, as a fraction (R468). -/
def slopeOf (ts : List Int) : Int × Nat :=
  let n := ts.length
  let is := List.range n
  let si := sumNat is
  let st := ts.foldl (· + ·) 0
  let sit := (ts.zipIdx.map (fun x => (x.2 : Int) * x.1)).foldl (· + ·) 0
  (n * sit - si * st, n * sumNat (is.map (fun i => i * i)) - si * si)

/-- THERMAL_CEILING: C_therm by the procedure of R468, and the events at the start of each episode. -/
def execThermalCeiling (s : State) : Host.Outcome State Fault Refusal :=
  onDev s (fun d =>
    let powerMw := meanOr (packageMw d) d.pwr.ceilSum d.pwr.ceilCount
    let ins := keepLast 500 (d.pwr.inlets ++ [d.pwz.inlet])
    let slope := slopeOf ins
    let r := ceilingR d.pwr.r (hottest d.pwz.die) d.pwz.inlet powerMw
    let c := ceilingW (policyVal d.pwz.policy 0x0403 0 90) d.pwz.inlet (10 * slope.1) slope.2 r d.pwr.flowLow
    let limits := decide (c < min d.pwr.sched (min d.pwr.module 2150))
    let d1 : Device := { d with pwr := { d.pwr with r := r, therm := c, thermEpisode := limits, ceilSum := 0, ceilCount := 0, inlets := ins } }
    let d2 := if limits && !d.pwr.thermEpisode then d1.logEvent srcPawezel 0x0903 sevNotice none (toLE 4 c) else d1
    if d.pwr.flowLow && !d.pwz.flowEpisode then
      ({ d2 with pwz := { d2.pwz with flowEpisode := true } } : Device).logEvent srcPawezel 0x0904 sevWarning none
        (sensorData 98 d.pwz.flow)
    else d2)

/-- THROTTLE by the sensors of a Terrace: set at 95 °C, clear below 93 °C (R469). -/
def throttled (d : Device) (t : Nat) (was : Bool) : Bool :=
  decide (950 ≤ hottest (terraceTemps d.pwz t)) || (was && decide (930 ≤ hottest (terraceTemps d.pwz t)))

/-- THERMAL_THROTTLE: THROTTLE sets at 95 °C and clears below 93 °C; while it is set the thermal allowance falls by one a time, and below 93 °C it
rises by one (R469). -/
def execThermalThrottle (t : Fin 4) (s : State) : Host.Outcome State Fault Refusal :=
  onDev s (fun d =>
    let hot := hottest (terraceTemps d.pwz t)
    d.updTerp t (fun x =>
      let on := throttled d t x.throttle
      { x with throttle := on, therm := if on then max 1 (x.therm - 1) else if hot < 930 then min 64 (x.therm + 1) else x.therm }))

/-- THERMAL_TRIP: every slot allowance 0, a job fault, Shelf with dirty Brine lines written back, EV_THERM_TRIP (R470). With the compute
domain off only the trip is marked. -/
def execThermalTrip (n : Fin 72) (s : State) : Host.Outcome State Fault Refusal :=
  onDev s (fun d =>
    let v := max 1100 (nthD 0 d.pwz.die n)
    let d1 : Device := { d with
      pwz := { d.pwz with die := modNth (fun _ => v) d.pwz.die n, coolSince := d.tide.now }
      pwr := { d.pwr with tripped := true }
      terp := d.terp.map (fun x => { x with slots := 0 }) }
    let d2 := if d.inp.stage != .served then d1 else if d.glb.cur == .shelf then d1.jobFault else d1.jobFault.enterShelf
    d2.logEvent srcPawezel 0x0905 sevFault none (sensorData n v))

/-! ### Sampling (18 R476, R499; 20 R540) -/

/-- New readings over the last ones; a reading that is not given keeps its value. -/
def resample {α : Type} (dflt : α) (old new : List α) : List α :=
  (List.range old.length).map (fun i => nthD (nthD dflt old i) new i)

/-- Whether a die reads outside −40 °C to 150 °C (R499). -/
def outOfRange (v : Int) : Bool := decide (v < -400) || decide (1500 < v)

/-- The die sensors that have gone out of range since the last sample meet their source of the alarm (R499). -/
def Device.judgeDies (d : Device) (old : List Int) : Device :=
  (List.range 72).foldl (fun (e : Device) i =>
    let v := nthD 0 d.pwz.die i
    if outOfRange v && !outOfRange (nthD 0 old i) then
      (e.logEvent srcSecurity 0x0A06 sevWarning none (sensorData i v)).meetSource 2 (alarmResponse e 2)
    else e) d

/-- The coolant limits, each tested on 10 consecutive samples (20 R540). -/
def Device.judgeCoolant (d : Device) : Device :=
  let z := d.pwz
  let fr := if z.flow < 300 then min 10 (z.flowRun + 1) else 0
  let tr := if 450 < z.inlet ∨ 600 < z.outlet then min 10 (z.tempRun + 1) else 0
  let d1 : Device := { d with
    pwr := { d.pwr with flowLow := decide (fr = 10) }
    pwz := { z with flowRun := fr, tempRun := tr
                    flowEpisode := decide (fr = 10) || (z.flowEpisode && decide (fr ≠ 0)), tempEpisode := decide (tr = 10) } }
  let d2 := if fr = 10 ∧ !z.flowEpisode then d1.logEvent srcPawezel 0x0904 sevWarning none (sensorData 98 z.flow) else d1
  if tr = 10 ∧ !z.tempEpisode then
    d2.logEvent srcPawezel 0x0908 sevWarning none (toLE 2 (BitVec.ofInt 16 z.inlet).toNat ++ toLE 2 (BitVec.ofInt 16 z.outlet).toNat)
  else d2

/-- A temperature in 0.1 °C as a field of whole degrees. -/
def degrees (v : Int) : Nat := min 255 (v / 10).toNat

/-- THROTTLE of every Terrace brought up to date. -/
def Device.judgeThrottle (d : Device) : Device :=
  (List.range 4).foldl (fun (e : Device) t => e.updTerp t (fun x => { x with throttle := throttled d t x.throttle })) d

/-- The package rails of one sample in µW: every rail but J2 (R460, R552; notes/assumptions/28.md). -/
def railPower (rails : List (Int × Int)) : Nat := (((rails.drop 1).map (fun (r : Int × Int) => r.1 * r.2)).foldl (· + ·) 0).toNat

/-- SENSOR_SAMPLE: one reading of every sensor, the fields that show them, and the limits judged. -/
def execSensorSample (die : List Int) (rails : List (Int × Int)) (inlet outlet flow : Int) (s : State) : Host.Outcome State Fault Refusal :=
  onDev s (fun d =>
    if !d.inp.island then d
    else
      let dies := resample 0 d.pwz.die die
      let d1 : Device := { d with
        pwz := { d.pwz with
          die := dies, rails := resample (0, 0) d.pwz.rails rails, inlet := inlet, outlet := outlet, flow := flow
          coolSince := if dies.all (fun t => decide (t < 850)) then d.pwz.coolSince else d.tide.now }
        pwr := { d.pwr with
          tjMax := degrees (hottest dies), tIn := degrees inlet, railCount := d.pwr.railCount + 1
          railSum := d.pwr.railSum + railPower (resample (0, 0) d.pwz.rails rails) } }
      (d1.judgeThrottle.judgeCoolant).judgeDies d.pwz.die)

end Sys2Proof.Machine
end

