-- ==== Sys2Proof/Machine/Resil.lean ====
section
/-! DEFINITION. Snapshots, the gradient log and the restore from partner memory (16 R434 to R440, R444 to R446, R453; 14 R392). -/
namespace Sys2Proof.Machine

/-! ### Writing to a holder -/

/-- A WRITE to a holder, waited on for a job's log entry of a step or its image. -/
def Device.writeFor (d : Device) (j dst job addr : Nat) (bs : List Nat) (logStep : Option Nat) : Device :=
  let r := d.request { op := 3, dst := dst, src := 0, job := job, addr := addr, data := bs, len := bs.length } 4 0 0
  { r.2 with fab := { r.2.fab with pend := r.2.fab.pend.map (fun p =>
      if p.tag = d.fab.nextTag then { p with job := j, logStep := logStep, image := logStep.isNone } else p) } }

/-- Bytes written to another device by Bund WRITEs of at most 4,096 bytes, from an offset of the region there (notes/assumptions/25.md). -/
def Device.writeHolder (d : Device) (j dst job off : Nat) (bs : List Nat) (logStep : Option Nat) : Device :=
  ((chunks 4096 bs.length bs).zipIdx).foldl (fun (e : Device) (x : List Nat × Nat) => e.writeFor j dst job (off + 4096 * x.2) x.1 logStep) d

/-- The holder of a job's layer-1 copy, with the job's slot there, when it can be reached. -/
def reachHolder (d : Device) (j : Nat) : Option (Nat × Nat) :=
  match (d.jobAt j).setup with
  | some u => match holderOf u.topo with
    | some h => match d.routeOf h with | .fail _ => none | _ => (peerOf u.topo h).map (fun p => (h, p.slot))
    | none => none
  | none => none

/-! ### Snapshots (14 R392, 16 R434 to R436) -/

/-- The complete images of the present job in a layer, as (slot, step). -/
def imagesOf (d : Device) (j layer : Nat) : List (Nat × Nat) :=
  ((d.jobAt j).partner.images.filter (fun x => x.layer == layer && x.complete)).map (fun x => (x.slotNo, x.step))

/-- The slot of the older image; one without a complete image of the job first (16 R435). -/
def olderSlot (xs : List (Nat × Nat)) : Nat :=
  match xs.find? (fun x => x.1 == 0), xs.find? (fun x => x.1 == 1) with
  | none, _ => 0
  | _, none => 1
  | some a, some b => if a.2 ≤ b.2 then 0 else 1

/-- The image of a slot no longer exists. -/
def Device.dropImage (d : Device) (j layer slotNo : Nat) : Device :=
  ({ d with pwz := { d.pwz with
    crust := if layer = 2 then d.pwz.crust.filter (fun x => !(x.job == j && x.slotNo == slotNo)) else d.pwz.crust } } : Device).updJob j (fun q => { q with partner := { q.partner with images := q.partner.images.filter (fun x => !(x.layer == layer && x.slotNo == slotNo)) } })

/-- Whether a layer is disabled for a job: layer 1 without a partner group, layer 2 with the Crust store off (16 R432, R440, R454). -/
def layerOff (d : Device) (j layer : Nat) : Bool :=
  (layer == 1 && (d.jobAt j).setup.any (fun u => (groupOf u.topo).isEmpty)) || (layer == 2 && d.pwz.wear.crustOff)

/-- Bytes of an image at an offset of its slot: in the region on the holder, or in the shared store. -/
def Device.putPart (d : Device) (j : Nat) (u : JobSetup) (r : SnapRun) (off : Nat) (bs : List Nat) : Device :=
  if r.layer = 1 then match reachHolder d j with
    | some (h, sl) => d.writeHolder j h sl (r.slotNo * imageSize (d.jobAt j) + off) bs none
    | none => d
  else (d.transmit u.jr.nflow 1 3 (sharedAddr r.slotNo u.topo.dpPos + off) bs).send (.write u.jr.nflow (sharedAddr r.slotNo u.topo.dpPos + off) bs)

/-- The sections of an image go to its layer: in the Crust store under a header whose COMPLETE bit is 0. -/
def Device.putSections (d : Device) (j : Nat) (u : JobSetup) (r : SnapRun) : Device :=
  if r.layer = 2 then { d with pwz := { d.pwz with crust := d.pwz.crust ++
      [{ layer := 2, job := j, slotNo := r.slotNo, step := r.step, header := modNth (fun _ => 0) (r.image.take 96) 19, sections := r.image.drop 96, complete := false }] } }
  else d.putPart j u r 96 (r.image.drop 96)

/-- The header of an image goes to its layer, and the image is complete. -/
def Device.putImage (d : Device) (j : Nat) (u : JobSetup) (r : SnapRun) : Device :=
  (if r.layer = 2 then { d with pwz := { d.pwz with crust := d.pwz.crust.map (fun x =>
      if x.job = j ∧ x.slotNo = r.slotNo then { x with header := r.image.take 96, complete := true } else x) } }
    else d.putPart j u r 0 (r.image.take 96)).updJob j (fun q => { q with partner := { q.partner with
    images := q.partner.images ++ [{ layer := r.layer, slotNo := r.slotNo, step := r.step, complete := true }] } })

/-- The image of a committed step begun: the older one of its layer is no more, and the sections are written. -/
def Device.beginImage (d : Device) (j : Nat) (u : JobSetup) (layer c : Nat) : Device :=
  let k := olderSlot (imagesOf d j layer)
  let sec := imageSections d j c
  let run : SnapRun := { layer := layer, step := c, slotNo := k, image := imageHeader (d.jobAt j) u layer c sec true ++ sec, started := d.tide.now }
  ((d.dropImage j layer k).putSections j u run).updJob j (fun q => { q with snaps := q.snaps ++ [run] })

/-- The fired SNAPSHOT entry of a layer of a job that may act: the first whose step has committed (14 R392). -/
def snapEntry (d : Device) (j layer c : Nat) : Option (Nat × TideEntry) :=
  d.tide.entries.find? (fun e => e.2.fired && e.2.action == 7 && e.2.job == j && e.2.arg == layer && decide (e.2.step ≤ c))

/-- SNAPSHOT_START: the fired entry of a layer whose step is the committed one acts: its image is read and begins to be written. An entry for a
disabled layer completes with ST_RES_LAYER_DISABLED (16 R432, R440); one for a step that a later commit has replaced only ends
(notes/assumptions/27.md). Held lines of the shard are read once they are regenerated (01 R39), and a corruption may meet the read (06 R184, R196). -/
def execSnapshotStart (j : Fin 16) (layer : Fin 3) (hit : Option Hit) (s : State) : Host.Outcome State Fault Refusal :=
  onDev s (fun d =>
    let q := d.jobAt j
    match q.commit.step, q.setup with
    | some c, some u =>
      match snapEntry d j layer c with
      | some (i, e) =>
        if layerOff d j (layer + 1) then (d.freeEntryAt i).report j 0x0803
        else if e.step < c then d.freeEntryAt i
        else if q.snaps.any (fun x => x.layer == layer.val + 1) || (layer.val == 0 && (reachHolder d j).isNone) then d
        else d.withHit hit q.blocks Device.holdFault (fun d => (d.freeEntryAt i).beginImage j u (layer + 1) c)
      | none => d
    | _, _ => d)

/-- What a completed image changes in a member's partner state: its write time; a layer-1 image ends a fill of the holder and lets the log before it
go; an image covers the member (16 R438, R442, R450, R453). -/
def Partner.imaged (p : Partner) (r : SnapRun) (now : Nat) : Partner :=
  let p1 := if r.layer = 1 then p.fillDone else p
  { p1 with
    writes := modNth (fun _ => some (now - r.started)) p1.writes (r.layer - 1), uncovered := false
    log := if r.layer = 1 then p1.log.filter (fun e => decide (r.step ≤ e.1)) else p1.log }

/-- SNAPSHOT_COMPLETE: once the holder has acknowledged every WRITE of a layer-1 image, the header is written last, and EV_SNAP_DONE is reported. -/
def execSnapshotComplete (j : Fin 16) (layer : Fin 3) (s : State) : Host.Outcome State Fault Refusal :=
  onDev s (fun d =>
    let q := d.jobAt j
    match q.setup, q.snaps.find? (fun r => r.layer == layer.val + 1) with
    | some u, some r =>
      if layer.val = 0 ∧ d.fab.pend.any (fun p => p.job == j.val && p.image) = true then d
      else
      let d1 := (d.putImage j u r).updJob j (fun q => { q with
        snaps := q.snaps.filter (fun x => x.layer != layer.val + 1), partner := q.partner.imaged r d.tide.now })
      d1.logEvent srcRenura 0x0805 sevNotice (some j) ([r.layer] ++ toLE 8 r.step ++ sliceAt r.image 40 8)
    | _, _ => d)

/-! ### The gradient log (16 R437, R438) -/

/-- The bytes of a Tally record (18 R496). -/
def tallyBytes : Nat := 328

/-- The bytes of the gradients that a member wrote back as shard owner: an FP32 one for each FP32 master weight (16 R434, R437). -/
def JobSlot.gradLen (q : JobSlot) : Nat := sumNat (q.masters.map Prod.fst)

/-- The log entry of a step: header, optimiser scalars, the history entries it added, its Tally record, the gradients written back, the digest; a step
without an optimiser update adds and logs none of its own (notes/assumptions/25.md). -/
def logEntry (d : Device) (j : Nat) (u : JobSetup) (st : Step) (scalars grads : List Nat) : List Nat :=
  let q := d.jobAt j
  let none' := normCount q st == 0
  let hs := if none' then [] else histEntries u st
  let body := scalars.flatMap (toLE 4) ++ hs.flatMap (toLE 4) ++ tallyRecord d q u st (d.postDigest j st.num) ++ (if none' then [] else sliceAt grads 0 q.gradLen)
  let b := toLE 8 st.num ++ toLE 8 (64 + body.length + 48) ++ toLE 4 scalars.length ++ toLE 4 hs.length ++ List.replicate 40 0 ++ body
  b ++ sha384 b

/-- Whether bytes are a valid log entry of a step: its header names it, its lengths fit, and the digest matches. -/
def logEntryOk (n : Nat) (b : List Nat) : Bool :=
  fieldAt b 0 8 == n && fieldAt b 8 8 == b.length && decide (64 + 4 * (fieldAt b 16 4 + fieldAt b 20 4) + tallyBytes + 48 ≤ b.length) && zeroBytes b 24 64
    && (b.drop (b.length - 48)) == sha384 (b.take (b.length - 48))

/-- The bytes of the log in a region; the log is written round. -/
def logSize (u : JobSetup) : Nat := policyVal u.policy 0x0304 0 64 * 2 ^ 30

/-- Bytes written at a place of a member's log on the holder, behind the two image slots. -/
def Device.writeLog (d : Device) (j h sl n : Nat) (u : JobSetup) (bs : List Nat) : Device :=
  let q := d.jobAt j
  let base := 2 * imageSize q
  let k := logSize u - q.partner.logAt
  ((d.writeHolder j h sl (base + q.partner.logAt) (bs.take k) (some n)).writeHolder j h sl base (bs.drop k) (some n)).updJob j (fun q =>
    { q with partner := { q.partner with log := q.partner.log.filter (fun e => e.1 != n) ++ [(n, bs.length)], logAt := (q.partner.logAt + bs.length) % logSize u } })

/-- GRADIENT_LOG_APPEND: the entry of the oldest step, its stages complete, goes to the holder; without room, a layer-1 snapshot of the step before it comes
first. `scalars` and `grads` are what the step's program computed (10 R284, R286), `total` what its reductions over all the members gave, from which the entry
is formed and which the commit uses (notes/assumptions/25.md). -/
def execGradientLogAppend (j : Fin 16) (step : Nat) (scalars grads : List Nat) (total : StepShare) (s : State) : Host.Outcome State Fault Refusal :=
  onDev s (fun d =>
    let q := d.jobAt j
    match q.setup, q.steps.head?, reachHolder d j with
    | some u, some st, some (h, sl) =>
      if st.num == step && st.stages && !st.logDone && d.fab.pend.all (fun p => p.job != j.val || p.logStep != some step) && !q.shardHeld d then
        let entry := logEntry d j u { st with total := some total } scalars grads
        let used := sumNat ((q.partner.log.filter (fun e => e.1 != step)).map Prod.snd)
        if logSize u < used + entry.length then
          if q.snaps.any (fun r => r.layer == 1) || d.tide.entries.any (fun e => e.2.action == 7 && e.2.job == j.val && e.2.arg == 0 && e.2.fired) then d
          else match q.commit.step with
            | some c => d.placeSnapshot j 0 c
            | none => d
        else (d.updStep j step (fun x => { x with logTotal := some total })).writeLog j h sl step u entry
      else d
    | _, _, _ => d)

/-! ### Restore (16 R445, R446) -/

/-- What a replay has reached: the step, its blocks, the histories, the epoch, the chain head. -/
structure Replay where
  step : Nat
  blocks : List Nat
  hist : List Hist
  epoch : Nat
  head : List Nat
deriving DecidableEq, Repr

/-- The shard digest of block bytes. -/
def blocksDigest (bl : List (Nat × Nat)) (bs : List Nat) : List Nat :=
  sha384 ((bl.foldl (fun (a : List Nat × List Nat) b => (a.1 ++ sha384 (sliceAt a.2 0 b.2), a.2.drop b.2)) ([], bs)).1)

/-- One log entry applied: the blocks that the optimiser left, checked against the entry's record; the history entries; the record in the chain. None for an
entry of another step, an invalid one, or a digest mismatch. -/
def Replay.apply (u : JobSetup) (bl : List (Nat × Nat)) (r : Replay) (entry blocks : List Nat) : Option Replay :=
  let at' := 64 + 4 * (fieldAt entry 16 4 + fieldAt entry 20 4)
  let rec' := sliceAt entry at' tallyBytes
  if logEntryOk (r.step + 1) entry && sliceAt rec' 232 48 == blocksDigest bl blocks then
    some { step := r.step + 1, blocks := blocks, epoch := fieldAt rec' 8 4, head := sha384 (r.head ++ rec')
           hist := pushHists u (r.step + 1) r.hist ((List.range (fieldAt entry 20 4)).map (fun i => fieldAt entry (64 + 4 * fieldAt entry 16 4 + 4 * i) 4)) }
  else none

/-- Log entries applied in step order, each with the blocks after it. -/
def Replay.run (u : JobSetup) (bl : List (Nat × Nat)) : Replay → List (List Nat) → List (List Nat) → Option Replay
  | r, e :: es, b :: bs => (r.apply u bl e b).bind (fun r' => Replay.run u bl r' es bs)
  | r, [], _ => some r
  | _, _ :: _, [] => none

/-- Whether an image exists for the restore of this member from its holder. -/
def partnerImage (u : JobSetup) (image : List Nat) : Bool :=
  let h := image.take 96
  imageGood h (image.drop 96) && fieldAt h 16 2 == u.topo.selfId && fieldAt h 18 1 == 1 && fieldAt h 20 4 == u.topo.dpPos

/-- The images that the holder's two slots give, as images of this member. -/
def partnerImages (u : JobSetup) (images : List (List Nat)) : List ImageMeta :=
  ((images.take 2).zipIdx.filter (fun x => partnerImage u x.1)).map (fun x => { layer := 1, slotNo := x.2, step := fieldAt x.1 0 8, complete := true })

/-- The newest complete image of the holder's two slots. -/
def newestImage (u : JobSetup) (images : List (List Nat)) : Option (List Nat) :=
  ((images.take 2).filter (partnerImage u)).foldl (fun a b => some (match a with | some x => if fieldAt x 0 8 < fieldAt b 0 8 then b else x | none => b)) none

/-- The committed state that the newest complete image of this member and its log give for a step; none for no such image, a mismatch, a missing
entry or a gap. -/
def replayOf (q : JobSlot) (u : JobSetup) (c : Nat) (images entries states : List (List Nat)) : Option Replay :=
  (newestImage u images).bind (fun image =>
    let p := imageParts q.masters (image.drop 96)
    (Replay.run u q.blocks { step := fieldAt image 0 8, blocks := p.blocks, hist := p.hist, epoch := p.epoch, head := p.head } entries states).filter
      (fun r => r.step == c))

/-- What a restore learns of its layer-1 copy: the images on the holder, the log entries and where the next one goes. -/
def Partner.refilled (p : Partner) (u : JobSetup) (images entries : List (List Nat)) (logEnd : Nat) : Partner :=
  { p with
    fill := none, filling := false, images := p.images.filter (fun x => x.layer != 1) ++ partnerImages u images
    log := entries.map (fun e => (fieldAt e 0 8, e.length)), logAt := logEnd % logSize u }

/-- RESTORE_COMPLETE: a restore from partner memory ends. `images` and `entries` are what the two slots and the log of the holder's region gave, the log read up to
`logEnd`, `states` the blocks that the optimiser left for each entry (16 R445); a mismatch stops the job. -/
def execRestoreComplete (j : Fin 16) (images entries states : List (List Nat)) (logEnd : Nat) (s : State) : Host.Outcome State Fault Refusal :=
  onDev s (fun d =>
    let q := d.jobAt j
    match q.setup with
    | some u =>
      if q.state == .running && u.jr.restore == 1 && q.partner.filling && q.partner.queued.isEmpty then
        match replayOf q u u.jr.restoreStep images entries states with
        | some r =>
          let d1 := d.storeBlocks q.blocks r.blocks
          let d2 := d1.updJob j (fun q => { q with
            commit := { q.commit with epoch := r.epoch, head := r.head, pre := d1.shardDigest j }
            logs := { q.logs with hist := r.hist }, partner := q.partner.refilled u images entries logEnd })
          d2.tokenAll j (fun s => .join s u.topo.selfId u.jr.restoreStep)
        | none => (d.updJob j (fun q => { q with lastStatus := 0x0802 })).stopJob j (fun _ => 0x0802)
      else d
    | none => d)

end Sys2Proof.Machine
end

