-- ==== Sys2Proof/Machine/Sched.lean ====
section
/-! DEFINITION. Time slicing, context switches, slowdown reports, the end of a Flush (15 R415, R416, R423, R424). -/
namespace Sys2Proof.Machine

/-- Whether a step holds a micro-batch to run: one not started, or one that a pan of the job has not ended. -/
def holdsBatch (d : Device) (j : Nat) (st : Step) : Bool :=
  st.mbs.any (fun x => !x.dispatched) || (st.started && !st.stages && (jobPanStates d j).any (fun p => p.step == some st.num && p.core.done.isNone))

/-- Whether a job has something to run: a micro-batch, a batch, or a window (15 R415). -/
def runnable (d : Device) (j : Nat) : Bool :=
  let q := d.jobAt j
  q.state == .running
    && (q.steps.any (holdsBatch d j) || q.batches.any (fun b => !b.done && batchReady q b) || q.windows.any (fun w => w.isOpen))

/-- The slots in turn order after one. -/
def turnAfter (j : Nat) : List Nat := (List.range 16).map (fun i => (j + 1 + i) % 16)

/-- The job that R415 names next in a partition, after a slot: runnable and not resident. -/
def nextJob (d : Device) (part j : Nat) : Option Nat :=
  (turnAfter j).find? (fun k => (d.jobAt k).part == some part && !(d.jobAt k).resident && runnable d k)

/-- Whether a resident job's turn is over, by how long it has held the pans and how long it has issued no pan work, in ns: QUANTUM × SHARE / 128, and
2 ms. -/
def turnOver (d : Device) (q : JobSlot) (held idle : Nat) : Bool :=
  decide (policyVal d.pwz.policy 0x0500 0 10 * 1000000 * ((q.setup.map (fun u => u.jr.share)).getD 1) ≤ 128 * held) || decide (2000000 ≤ idle)

/-- QUANTUM_EXPIRY: the resident sliced job is to be switched out when another is runnable. -/
def execQuantumExpiry (part : Fin 4) (held idle : Nat) (s : State) : Host.Outcome State Fault Refusal :=
  onDev s (fun d =>
    match residentOf d part with
    | some j =>
      if !(d.jobAt j).exclusive && turnOver d (d.jobAt j) held idle && (nextJob d part j).isSome then d.updJob j (fun q => { q with switching := true }) else d
    | none => d)

/-- A job of a partition that may come in when no other is resident: the next runnable one, else any that runs. -/
def incoming (d : Device) (part j : Nat) : Option Nat :=
  match nextJob d part j with
  | some k => some k
  | none => (turnAfter j).find? (fun k => (d.jobAt k).part == some part && (d.jobAt k).live && (d.jobAt k).saved.isSome)

/-- The stretches that a saved context is read back from: the live bytes of its pans' images in the save areas, once they have been written there. -/
def contextSpans (d : Device) (j : Nat) : List (Nat × Nat) :=
  match (d.jobAt j).saved with
  | some sv => if sv.whole then [] else sv.pans.filterMap (fun x => (savePlace d j x.1).map (fun a => (a, liveBytes (d.jobAt j) ((x.2.job.map Prod.snd).getD 0))))
  | none => []

/-- The image of the job that R415 names next prefetched into the sleeves of a partition (15 R417). -/
def Device.prefetch (d : Device) (part j : Nat) : Device :=
  match nextJob d part j with
  | some n => match (d.jobAt n).saved with
    | some sv => sv.pans.foldl (fun e x =>
        match sleevePlace d x.1, savePlace d n x.1 with
        | some a, some b => e.copyImage b a (liveBytes (d.jobAt n) ((x.2.job.map Prod.snd).getD 0))
        | _, _ => e) d
    | none => d
  | none => d

/-- The incoming job's context restored, and the next one prefetched; a held line of its image makes it wait, and a corruption there, which no kind of R188
resolves, raises a job fault (15 R424). -/
def Device.switchIn (d : Device) (part k : Nat) (hit : Option Hit) : Device :=
  d.withHit hit (contextSpans d k) (fun e _ => e.jobFault) (fun e => (((e.restoreContext k).prefetch part k).pumpLane k).pump)

/-- CONTEXT_SWITCH: the outgoing context saved once nothing of the job is in flight, the next job's restored (15 R416). `hit`: a corruption met by the read of
the incoming image. -/
def execContextSwitch (part : Fin 4) (hit : Option Hit) (s : State) : Host.Outcome State Fault Refusal :=
  onDev s (fun d =>
    match residentOf d part with
    | some j =>
      if (d.jobAt j).switching && drained d j then
        let d1 := if (d.jobAt j).suspending then d.suspend j else d.saveContext j
        match incoming d1 part j with
        | some k => d1.switchIn part k hit
        | none => d1.pump
      else d
    | none =>
      match incoming d part (nthD 15 d.quy.turn part) with
      | some k => if d.glb.cur == .active || d.glb.cur == .idle then d.switchIn part k hit else d
      | none => d)

/-- The cycles of a report's five counts (15 R423). -/
def slowSum (c : SlowCounts) : Nat := c.done + c.lShare + c.lPower + c.lWait + c.lInput

/-- DONE / REF in 0.16 fixed point; a free value where it has none (notes/assumptions/26.md). -/
def slowRate (d : Device) (dn rf : Nat) : Nat × Device :=
  if dn < rf then (dn * 65536 / rf, d) else let (x, d1) := d.draw; (x % 65536, d1)

/-- SLOWDOWN_REPORT: at a multiple of 10 ms, the KIND 2 notice of a live job, whose five counts sum to REF within 64 pan-cycles (15 R423); other counts are none of
a window. -/
def execSlowdownReport (j : Fin 16) (c : SlowCounts) (s : State) : Host.Outcome State Fault Refusal :=
  onDev s (fun d =>
    let q := d.jobAt j
    let rf := sumNat ((jobPans d j).map (fun p => nthD 0 d.fuses.fmax p * 10000))
    if q.live && d.tide.ns % 10000000 == 0 && decide (slowSum c ≤ rf + 64) && decide (rf ≤ slowSum c + 64) then
      let (rate, d1) := slowRate d c.done rf
      let body := toLE 8 q.committedField ++ timeFields d.tide ++ toLE 4 rf ++ toLE 4 c.done ++ toLE 4 c.lShare ++ toLE 4 c.lPower ++ toLE 4 c.lWait ++ toLE 4 c.lInput
        ++ toLE 2 rate ++ [b2n q.slow.late + 2 * b2n d.tide.holdover + 4 * b2n (q.state == .recovering)] ++ List.replicate 13 0
      (d1.updJob j (fun q => { q with slow := { late := false, last := body } })).jobNotice j stOk 2 body
    else d)

/-- FLUSH_END: job commands are accepted again. -/
def execFlushEnd (s : State) : Host.Outcome State Fault Refusal :=
  onDev s (fun d => { d with glb := { d.glb with flushing := false } })

end Sys2Proof.Machine
end

