-- ==== Sys2Proof/Machine/Dispatch.lean ====
section
/-! DEFINITION. The meaning of each command, arm by arm. -/
namespace Sys2Proof.Machine

/-- The command's effect on the machine but for the queue of waiting commands, which stays as it is. -/
def exec (i : Instr) (s : State) : Host.Outcome State Fault Refusal :=
  match i with
  | .panCoreInstruction p hit store => Sys2Proof.Machine.execPanCoreInstruction p hit store s
  | .mxd p rs1 hit => Sys2Proof.Machine.execMxd p rs1 hit s
  | .cpy p rs1 hit => Sys2Proof.Machine.execCpy p rs1 hit s
  | .fset p flag => Sys2Proof.Machine.execFset p flag s
  | .fclr p flag => Sys2Proof.Machine.execFclr p flag s
  | .fwait p flag => Sys2Proof.Machine.execFwait p flag s
  | .fwaitc p flag => Sys2Proof.Machine.execFwaitc p flag s
  | .ftest p rd flag => Sys2Proof.Machine.execFtest p rd flag s
  | .fsetr p rs1 flag => Sys2Proof.Machine.execFsetr p rs1 flag s
  | .setvl p rd rs1 width => Sys2Proof.Machine.execSetvl p rd rs1 width s
  | .pdone p rs1 => Sys2Proof.Machine.execPdone p rs1 s
  | .bsum p cond off => Sys2Proof.Machine.execBsum p cond off s
  | .vmov p v => Sys2Proof.Machine.execVmov p v s
  | .vcvt p v => Sys2Proof.Machine.execVcvt p v s
  | .vbcast p v => Sys2Proof.Machine.execVbcast p v s
  | .viota p v => Sys2Proof.Machine.execViota p v s
  | .vadd p v => Sys2Proof.Machine.execVadd p v s
  | .vsub p v => Sys2Proof.Machine.execVsub p v s
  | .vmul p v => Sys2Proof.Machine.execVmul p v s
  | .vfma p v => Sys2Proof.Machine.execVfma p v s
  | .vmin p v => Sys2Proof.Machine.execVmin p v s
  | .vmax p v => Sys2Proof.Machine.execVmax p v s
  | .vabs p v => Sys2Proof.Machine.execVabs p v s
  | .vneg p v => Sys2Proof.Machine.execVneg p v s
  | .vcpsgn p v => Sys2Proof.Machine.execVcpsgn p v s
  | .viadd p v => Sys2Proof.Machine.execViadd p v s
  | .visub p v => Sys2Proof.Machine.execVisub p v s
  | .vimul p v => Sys2Proof.Machine.execVimul p v s
  | .vand p v => Sys2Proof.Machine.execVand p v s
  | .vor p v => Sys2Proof.Machine.execVor p v s
  | .vxor p v => Sys2Proof.Machine.execVxor p v s
  | .vsll p v => Sys2Proof.Machine.execVsll p v s
  | .vsrl p v => Sys2Proof.Machine.execVsrl p v s
  | .vsra p v => Sys2Proof.Machine.execVsra p v s
  | .vimin p v => Sys2Proof.Machine.execVimin p v s
  | .vimax p v => Sys2Proof.Machine.execVimax p v s
  | .vcmpeq p v => Sys2Proof.Machine.execVcmpeq p v s
  | .vcmplt p v => Sys2Proof.Machine.execVcmplt p v s
  | .vcmple p v => Sys2Proof.Machine.execVcmple p v s
  | .vsel p v => Sys2Proof.Machine.execVsel p v s
  | .vexp2 p v => Sys2Proof.Machine.execVexp2 p v s
  | .vlog2 p v => Sys2Proof.Machine.execVlog2 p v s
  | .vrcp p v => Sys2Proof.Machine.execVrcp p v s
  | .vrsqrt p v => Sys2Proof.Machine.execVrsqrt p v s
  | .vsqrt p v => Sys2Proof.Machine.execVsqrt p v s
  | .vtanh p v => Sys2Proof.Machine.execVtanh p v s
  | .vsigm p v => Sys2Proof.Machine.execVsigm p v s
  | .vgelu p v => Sys2Proof.Machine.execVgelu p v s
  | .vsegsum p v => Sys2Proof.Machine.execVsegsum p v s
  | .vsegmax p v => Sys2Proof.Machine.execVsegmax p v s
  | .vsegmin p v => Sys2Proof.Machine.execVsegmin p v s
  | .vperm p v => Sys2Proof.Machine.execVperm p v s
  | .vslidedn p v => Sys2Proof.Machine.execVslidedn p v s
  | .vslideup p v => Sys2Proof.Machine.execVslideup p v s
  | .vrev p v => Sys2Proof.Machine.execVrev p v s
  | .vld p v hit => Sys2Proof.Machine.execVld p v hit s
  | .vst p v hit => Sys2Proof.Machine.execVst p v hit s
  | .vzbc p v => Sys2Proof.Machine.execVzbc p v s
  | .vlrd p v => Sys2Proof.Machine.execVlrd p v s
  | .vlxrd p v => Sys2Proof.Machine.execVlxrd p v s
  | .vlpadd p v => Sys2Proof.Machine.execVlpadd p v s
  | .vfence p v => Sys2Proof.Machine.execVfence p v s
  | .amaxCaptureSelect p en slot => Sys2Proof.Machine.execAmaxCaptureSelect p en slot s
  | .amaxSlotClear p en slot => Sys2Proof.Machine.execAmaxSlotClear p en slot s
  | .matmul p hit => Sys2Proof.Machine.execMatmul p hit s
  | .conv p hit => Sys2Proof.Machine.execConv p hit s
  | .attend p bad hit => Sys2Proof.Machine.execAttend p bad hit s
  | .merge p bad hit => Sys2Proof.Machine.execMerge p bad hit s
  | .rake p hit => Sys2Proof.Machine.execRake p hit s
  | .append p hit => Sys2Proof.Machine.execAppend p hit s
  | .entryOp p hit => Sys2Proof.Machine.execEntryOp p hit s
  | .pass p bad hit => Sys2Proof.Machine.execPass p bad hit s
  | .panQuarantine p => Sys2Proof.Machine.execPanQuarantine p s
  | .writeBack p hit => Sys2Proof.Machine.execWriteBack p hit s
  | .descriptorComplete p => Sys2Proof.Machine.execDescriptorComplete p s
  | .haloTimeout p => Sys2Proof.Machine.execHaloTimeout p s
  | .copy t id hit => Sys2Proof.Machine.execCopy t id hit s
  | .fill t id => Sys2Proof.Machine.execFill t id s
  | .copyTag t id hit => Sys2Proof.Machine.execCopyTag t id hit s
  | .copyComplete t id => Sys2Proof.Machine.execCopyComplete t id s
  | .bufferRegenerate j addr => Sys2Proof.Machine.execBufferRegenerate j addr s
  | .segmentRerun p => Sys2Proof.Machine.execSegmentRerun p s
  | .bedModeChange t modes => Sys2Proof.Machine.execBedModeChange t modes s
  | .channelMapOut t c => Sys2Proof.Machine.execChannelMapOut t c s
  | .bedMapOut t b => Sys2Proof.Machine.execBedMapOut t b s
  | .testModeEnable t => Sys2Proof.Machine.execTestModeEnable t s
  | .testModeDisable t => Sys2Proof.Machine.execTestModeDisable t s
  | .tgGo c pattern opmode => Sys2Proof.Machine.execTgGo c pattern opmode s
  | .tgAbort c => Sys2Proof.Machine.execTgAbort c s
  | .tgRunDone c flips => Sys2Proof.Machine.execTgRunDone c flips s
  | .skimCommand t mismatches hit => Sys2Proof.Machine.execSkimCommand t mismatches hit s
  | .skimFailed t => Sys2Proof.Machine.execSkimFailed t s
  | .select t hit => Sys2Proof.Machine.execSelect t hit s
  | .dispatch t group hit => Sys2Proof.Machine.execDispatch t group hit s
  | .sluiceRequest t r => Sys2Proof.Machine.execSluiceRequest t r s
  | .sluiceEnd t peer ter => Sys2Proof.Machine.execSluiceEnd t peer ter s
  | .sluiceGrant t token rank slot hit => Sys2Proof.Machine.execSluiceGrant t token rank slot hit s
  | .sluiceRow t expert slot data => Sys2Proof.Machine.execSluiceRow t expert slot data s
  | .combine t hit => Sys2Proof.Machine.execCombine t hit s
  | .sluiceRecord t src ter expert slot token col rec => Sys2Proof.Machine.execSluiceRecord t src ter expert slot token col rec s
  | .branch t hit => Sys2Proof.Machine.execBranch t hit s
  | .read x hit => Sys2Proof.Machine.execRead x hit s
  | .readResp x => Sys2Proof.Machine.execReadResp x s
  | .write x => Sys2Proof.Machine.execWrite x s
  | .writeAck x => Sys2Proof.Machine.execWriteAck x s
  | .ladd x => Sys2Proof.Machine.execLadd x s
  | .laddAck x => Sys2Proof.Machine.execLaddAck x s
  | .laddResend => Sys2Proof.Machine.execLaddResend s
  | .chainForward j chain => Sys2Proof.Machine.execChainForward j chain s
  | .bundForward x => Sys2Proof.Machine.execBundForward x s
  | .flagset x => Sys2Proof.Machine.execFlagset x s
  | .collReady src j step share => Sys2Proof.Machine.execCollReady src j step share s
  | .collCommit src j step layers share => Sys2Proof.Machine.execCollCommit src j step layers share s
  | .collPhaseToken src j step param => Sys2Proof.Machine.execCollPhaseToken src j step param s
  | .collAbort src j step failed => Sys2Proof.Machine.execCollAbort src j step failed s
  | .hold src j step => Sys2Proof.Machine.execHold src j step s
  | .holdSend j step => Sys2Proof.Machine.execHoldSend j step s
  | .join src j bundId step => Sys2Proof.Machine.execJoin src j bundId step s
  | .queued src j => Sys2Proof.Machine.execQueued src j s
  | .partner src j ids => Sys2Proof.Machine.execPartner src j ids s
  | .collectiveTimeout j step peer => Sys2Proof.Machine.execCollectiveTimeout j step peer s
  | .bundFlit b f => Sys2Proof.Machine.execBundFlit b f s
  | .nak b ackSeq => Sys2Proof.Machine.execNak b ackSeq s
  | .flitResendLimit b untrained => Sys2Proof.Machine.execFlitResendLimit b untrained s
  | .controlFlit b bad => Sys2Proof.Machine.execControlFlit b bad s
  | .laneFault b lane => Sys2Proof.Machine.execLaneFault b lane s
  | .portRetrain b peerEnc => Sys2Proof.Machine.execPortRetrain b peerEnc s
  | .bndAuth b => Sys2Proof.Machine.execBndAuth b s
  | .keyEpochInstall b => Sys2Proof.Machine.execKeyEpochInstall b s
  | .qtWrite k => Sys2Proof.Machine.execQtWrite k s
  | .qtReadReq k hit => Sys2Proof.Machine.execQtReadReq k hit s
  | .qtReadResp k => Sys2Proof.Machine.execQtReadResp k s
  | .ack k => Sys2Proof.Machine.execAck k s
  | .sack k ranges => Sys2Proof.Machine.execSack k ranges s
  | .openFlow k => Sys2Proof.Machine.execOpenFlow k s
  | .closeFlow k => Sys2Proof.Machine.execCloseFlow k s
  | .probe k => Sys2Proof.Machine.execProbe k s
  | .qtRetxTimer flow => Sys2Proof.Machine.execQtRetxTimer flow s
  | .pfcPauseFrame paused => Sys2Proof.Machine.execPfcPauseFrame paused s
  | .mailboxPost flow addr data => Sys2Proof.Machine.execMailboxPost flow addr data s
  | .devInfo m => Sys2Proof.Machine.execDevInfo m s
  | .flowBind m => Sys2Proof.Machine.execFlowBind m s
  | .partSet m => Sys2Proof.Machine.execPartSet m s
  | .jobCreate m => Sys2Proof.Machine.execJobCreate m s
  | .jobDestroy m => Sys2Proof.Machine.execJobDestroy m s
  | .configStage m => Sys2Proof.Machine.execConfigStage m s
  | .tideAdd m => Sys2Proof.Machine.execTideAdd m s
  | .tideCancel m => Sys2Proof.Machine.execTideCancel m s
  | .powerReq m => Sys2Proof.Machine.execPowerReq m s
  | .warmReset m => Sys2Proof.Machine.execWarmReset m s
  | .jobList m => Sys2Proof.Machine.execJobList m s
  | .jobStart m hit => Sys2Proof.Machine.execJobStart m hit s
  | .jobStopAfterCommit m => Sys2Proof.Machine.execJobStopAfterCommit m s
  | .jobStopAtOnce m => Sys2Proof.Machine.execJobStopAtOnce m s
  | .jobSuspend m => Sys2Proof.Machine.execJobSuspend m s
  | .jobResume m => Sys2Proof.Machine.execJobResume m s
  | .jobQuery m => Sys2Proof.Machine.execJobQuery m s
  | .logRead m => Sys2Proof.Machine.execLogRead m s
  | .hostlaneOpen m => Sys2Proof.Machine.execHostlaneOpen m s
  | .hostlaneClose m => Sys2Proof.Machine.execHostlaneClose m s
  | .overrideAdd m hit => Sys2Proof.Machine.execOverrideAdd m hit s
  | .manifest m hit => Sys2Proof.Machine.execManifest m hit s
  | .stepSubmit m => Sys2Proof.Machine.execStepSubmit m s
  | .hostlaneReturn m hit => Sys2Proof.Machine.execHostlaneReturn m hit s
  | .batch m hit => Sys2Proof.Machine.execBatch m hit s
  | .batchRun j batchNo hit others => Sys2Proof.Machine.execBatchRun j batchNo hit others s
  | .intakeFetch j step slot data => Sys2Proof.Machine.execIntakeFetch j step slot data s
  | .fetchFailed j step slot => Sys2Proof.Machine.execFetchFailed j step slot s
  | .decodeStart media ecc0 ecc1 => Sys2Proof.Machine.execDecodeStart media ecc0 ecc1 s
  | .decodeComplete j step slot => Sys2Proof.Machine.execDecodeComplete j step slot s
  | .decodeBudgetExpired j step slot => Sys2Proof.Machine.execDecodeBudgetExpired j step slot s
  | .graderBankSwap => Sys2Proof.Machine.execGraderBankSwap s
  | .retryLaneEntry => Sys2Proof.Machine.execRetryLaneEntry s
  | .crop j slot op => Sys2Proof.Machine.execCrop j slot op s
  | .resize j slot op => Sys2Proof.Machine.execResize j slot op s
  | .hflip j slot op => Sys2Proof.Machine.execHflip j slot op s
  | .rot90 j slot op => Sys2Proof.Machine.execRot90 j slot op s
  | .jitter j slot op => Sys2Proof.Machine.execJitter j slot op s
  | .reencode j slot op => Sys2Proof.Machine.execReencode j slot op s
  | .tcrop j slot op => Sys2Proof.Machine.execTcrop j slot op s
  | .tstride j slot op => Sys2Proof.Machine.execTstride j slot op s
  | .gain j slot op => Sys2Proof.Machine.execGain j slot op s
  | .resample j slot op => Sys2Proof.Machine.execResample j slot op s
  | .downmix j slot op => Sys2Proof.Machine.execDownmix j slot op s
  | .microbatchClose j => Sys2Proof.Machine.execMicrobatchClose j s
  | .microbatchDispatch j step mb pans addr tmb skim sluice => Sys2Proof.Machine.execMicrobatchDispatch j step mb pans addr tmb skim sluice s
  | .redoGate p unit dir mb => Sys2Proof.Machine.execRedoGate p unit dir mb s
  | .redoVerdict j unit dir mb others => Sys2Proof.Machine.execRedoVerdict j unit dir mb others s
  | .quantumExpiry part held idle => Sys2Proof.Machine.execQuantumExpiry part held idle s
  | .contextSwitch part hit => Sys2Proof.Machine.execContextSwitch part hit s
  | .slowdownReport j c => Sys2Proof.Machine.execSlowdownReport j c s
  | .flushEnd => Sys2Proof.Machine.execFlushEnd s
  | .phase idx => Sys2Proof.Machine.execPhase idx s
  | .commit idx => Sys2Proof.Machine.execCommit idx s
  | .config idx => Sys2Proof.Machine.execConfig idx s
  | .cap idx => Sys2Proof.Machine.execCap idx s
  | .evalOpen idx => Sys2Proof.Machine.execEvalOpen idx s
  | .evalClose idx => Sys2Proof.Machine.execEvalClose idx s
  | .snapshot idx => Sys2Proof.Machine.execSnapshot idx s
  | .evalWindowOpen j w => Sys2Proof.Machine.execEvalWindowOpen j w s
  | .evalWindowClose j w => Sys2Proof.Machine.execEvalWindowClose j w s
  | .stepReady j step => Sys2Proof.Machine.execStepReady j step s
  | .gradientLogAppend j step scalars grads total => Sys2Proof.Machine.execGradientLogAppend j step scalars grads total s
  | .snapshotStart j layer hit => Sys2Proof.Machine.execSnapshotStart j layer hit s
  | .snapshotComplete j layer => Sys2Proof.Machine.execSnapshotComplete j layer s
  | .restoreComplete j images entries states logEnd => Sys2Proof.Machine.execRestoreComplete j images entries states logEnd s
  | .ptpSync offset => Sys2Proof.Machine.execPtpSync offset s
  | .tideHoldover linkDown => Sys2Proof.Machine.execTideHoldover linkDown s
  | .tideInEdge => Sys2Proof.Machine.execTideInEdge s
  | .tideEdgeLost => Sys2Proof.Machine.execTideEdgeLost s
  | .tideSecondEdge => Sys2Proof.Machine.execTideSecondEdge s
  | .powerEstimate activity => Sys2Proof.Machine.execPowerEstimate activity s
  | .fastLimit t => Sys2Proof.Machine.execFastLimit t s
  | .kcalCalibrate => Sys2Proof.Machine.execKcalCalibrate s
  | .modulePowerCheck => Sys2Proof.Machine.execModulePowerCheck s
  | .droopDetect p => Sys2Proof.Machine.execDroopDetect p s
  | .droopSkipEnd p => Sys2Proof.Machine.execDroopSkipEnd p s
  | .droopHeld p => Sys2Proof.Machine.execDroopHeld p s
  | .thermalCeiling => Sys2Proof.Machine.execThermalCeiling s
  | .thermalThrottle t => Sys2Proof.Machine.execThermalThrottle t s
  | .thermalTrip n => Sys2Proof.Machine.execThermalTrip n s
  | .sensorSample die rails inlet outlet flow => Sys2Proof.Machine.execSensorSample die rails inlet outlet flow s
  | .pawezelRestart => Sys2Proof.Machine.execPawezelRestart s
  | .bitternPageWrite => Sys2Proof.Machine.execBitternPageWrite s
  | .i3cStatus f => Sys2Proof.Machine.execI3cStatus f s
  | .i3cSensors f => Sys2Proof.Machine.execI3cSensors f s
  | .i3cLog f => Sys2Proof.Machine.execI3cLog f s
  | .i3cPower f => Sys2Proof.Machine.execI3cPower f s
  | .i3cReset f => Sys2Proof.Machine.execI3cReset f s
  | .updBegin f => Sys2Proof.Machine.execUpdBegin f s
  | .updData f => Sys2Proof.Machine.execUpdData f s
  | .updEnd f => Sys2Proof.Machine.execUpdEnd f s
  | .activate f => Sys2Proof.Machine.execActivate f s
  | .svnCommit f => Sys2Proof.Machine.execSvnCommit f s
  | .nonce f => Sys2Proof.Machine.execNonce f s
  | .attest f => Sys2Proof.Machine.execAttest f s
  | .certs f => Sys2Proof.Machine.execCerts f s
  | .tally f => Sys2Proof.Machine.execTally f s
  | .alarmClear f => Sys2Proof.Machine.execAlarmClear f s
  | .debugUnlock f => Sys2Proof.Machine.execDebugUnlock f s
  | .debugLock f => Sys2Proof.Machine.execDebugLock f s
  | .ownerProvision f => Sys2Proof.Machine.execOwnerProvision f s
  | .ownerRevoke f => Sys2Proof.Machine.execOwnerRevoke f s
  | .meshBreach => Sys2Proof.Machine.execMeshBreach s
  | .glitch => Sys2Proof.Machine.execGlitch s
  | .jtagAccess => Sys2Proof.Machine.execJtagAccess s
  | .sealPass => Sys2Proof.Machine.execSealPass s
  | .sealHold a => Sys2Proof.Machine.execSealHold a s
  | .derivedCommit => Sys2Proof.Machine.execDerivedCommit s
  | .sealHoldTimeout => Sys2Proof.Machine.execSealHoldTimeout s
  | .configSetExpiry idx => Sys2Proof.Machine.execConfigSetExpiry idx s
  | .glbLockWrite a w => Sys2Proof.Machine.execGlbLockWrite a w s
  | .wmWrite a addr w => Sys2Proof.Machine.execWmWrite a addr w s
  | .rcRead a addr => Sys2Proof.Machine.execRcRead a addr s
  | .tideTimeLatch => Sys2Proof.Machine.execTideTimeLatch s
  | .energyLatch addr => Sys2Proof.Machine.execEnergyLatch addr s
  | .registerWrite a addr w => Sys2Proof.Machine.execRegisterWrite a addr w s
  | .inputPowerApplied sid => Sys2Proof.Machine.execInputPowerApplied sid s
  | .pwrEnRise => Sys2Proof.Machine.execPwrEnRise s
  | .pwrEnFall => Sys2Proof.Machine.execPwrEnFall s
  | .modResetNAssert => Sys2Proof.Machine.execModResetNAssert s
  | .modResetNRelease => Sys2Proof.Machine.execModResetNRelease s
  | .bringupResume => Sys2Proof.Machine.execBringupResume s
  | .hostPortWake => Sys2Proof.Machine.execHostPortWake s
  | .inputOvervoltage mv => Sys2Proof.Machine.execInputOvervoltage mv s
  | .inputUndervoltage mv => Sys2Proof.Machine.execInputUndervoltage mv s
  | .inputHoldup mv => Sys2Proof.Machine.execInputHoldup mv s
  | .inputPowerLost => Sys2Proof.Machine.execInputPowerLost s
  | .inputRecovered mv => Sys2Proof.Machine.execInputRecovered mv s
  | .recordRequestAgain src j w => Sys2Proof.Machine.execRecordRequestAgain src j w s
  | .dynamicAddressAssignment ccc => Sys2Proof.Machine.execDynamicAddressAssignment ccc s
  | .hostPortLinkUp cr => Sys2Proof.Machine.execHostPortLinkUp cr s
  | .pawezelWarmReset => Sys2Proof.Machine.execPawezelWarmReset s
  | .glitchWindowExpiry => Sys2Proof.Machine.execGlitchWindowExpiry s

end Sys2Proof.Machine
end

