-- ==== Sys2Proof/Safety.lean ====
section
/-! DEFINITION. What a legal state is, in the terms the statements use: the fused values stand, the Tide's nanoseconds stay below one second
(14 R379), the alarm level is 0, 2 or 3 (18 R500) and no lower than a level kept, allowances and gains keep their ranges (17 R460, R464, R469), and the device map keeps its
canonical form. -/
namespace Sys2Proof.Machine

/-- A Terrace's allowances and gain in range: the thermal allowance 1 to 64, the slot allowance at most 64, KCAL 0.75 to 1.25. -/
abbrev TerPower.legal (t : TerPower) : Prop := 1 ≤ t.therm ∧ t.therm ≤ 64 ∧ t.slots ≤ 64 ∧ 7500 ≤ t.kcal ∧ t.kcal ≤ 12500

/-- A legal alarm level (18 R500). -/
abbrev Sec.legal (s : Sec) : Prop := s.level = 0 ∨ s.level = 2 ∨ s.level = 3

/-- What a run keeps of the state it starts in: the fused values, and a level that the alarm does not fall below (18 R500). -/
structure Kept where
  fuses : Fuses
  level : Nat := 0
deriving DecidableEq, Repr

/-- A legal device that keeps z. -/
structure Device.Legal (z : Kept) (d : Device) : Prop where
  fused : d.fuses = z.fuses
  clock : d.tide.ns < 1000000000
  alarm : d.sec.legal
  floor : z.level ≤ d.sec.level
  power : ∀ t (h : t < 4), d.terp[t].legal
  memory : d.mem.wf = true

/-- Command c takes device d to device e, whatever commands wait; the queue stays as it is. -/
def Takes (c : Instr) (d e : Device) : Prop := ∀ q, exec c { dev := d, pending := q } = .next { dev := e, pending := q }

/-- A command of a mailbox is taken in its turn, no check of R402 before its own fails, and p is its payload (15 R400 to R402). -/
abbrev Served (d : Device) (m : Fin 256) (code : Nat) (p : List Nat) : Prop :=
  d.turn m code = true ∧ headerCheck d m = 0 ∧ d.payload m = p

/-- A packet of TYPE `typ` and OP `op` that the host port takes on flow f as packet x: the port is up, the frame is this transport's, nothing of
R373 to R376 discards it, and it opens under the flow's key as x; device e is d after the PFC that the frame asked for. -/
abbrev Received (d e : Device) (typ op : Nat) (k : Packet) (f : Flow) (x : Packet) : Prop :=
  hostUp d = true ∧ forQuay d k = true ∧ d.pfcSend k = e ∧ badPacket e k = false ∧ k.typ = typ ∧ k.op = op ∧ e.flowAt k.flow = some f
    ∧ openPacket f k = some x

/-- A private write that reaches Pawezel: the island is up, it is addressed to the module, its CRC is good (18 R478). -/
abbrev Heard (d : Device) (f : Frame) : Prop := d.inp.island = true ∧ f.addr = i3cAddr d ∧ f.crcOk = true

/-- A private write whose LEN is that of a payload of at least `need` bytes, within 8,192 (18 R478). -/
abbrev Fits (f : Frame) (need : Nat) : Prop := f.len = f.payload.length ∧ f.len ≤ 8192 ∧ need ≤ f.payload.length

/-- A private write that Pawezel serves: it reaches Pawezel and fits, and its command is served in recovery or no image type is in recovery
(18 R478, R492). -/
abbrev Taken (d : Device) (f : Frame) (need : Nat) (inRec : Bool) : Prop :=
  Heard d f ∧ Fits f need ∧ (inRec = true ∨ inRecovery d = false)

/-- Pan p's core takes an instruction that its segment reaches for the first time: it is none that a re-run passes again (05 R170). -/
abbrev CoreTakes (d : Device) (p : Nat) : Prop := coreReady d p = true ∧ (d.panAt p).replays = false

/-- Pan p runs a vector instruction of a kind now, for the first time in its segment: its core takes instructions, no droop skip holds it, and no field
of the word raises a fault (05 R139 to R143, R169, R170; 17 R466). -/
abbrev VectorReady (d : Device) (p : Nat) (k : VKind) (v : VInsn) : Prop :=
  CoreTakes d p ∧ (d.panAt p).droopSkip = 0 ∧ vFault k v (d.panAt p) = none

/-- The device after a vector instruction that wrote elements of format f into VD from element 0: the register, the flags, the summary when
asked for, the pc 8 bytes on, and the instruction noted in its segment. -/
def vectorDone (d : Device) (p : Nat) (v : VInsn) (f : Fmt) (cs : Pan → List Conv) : Device :=
  d.updPan p (fun q => ((q.vdone v f (cs q)).setPc (q.pc + 8)).logStep)

/-- The answers of a lane function over the counted elements of VA, VB and VD, of one format. -/
def lanesOf (v : VInsn) (f : Fmt) (g : Nat → Nat → Nat → Conv) (q : Pan) : List Conv :=
  (List.range (vCount v q)).map (fun i => g (q.velem v.va f i) (q.velem v.vb f i) (q.velem v.vd f i))

end Sys2Proof.Machine
end

