-- ==== Sys2Proof/Certificates/Slice0/Obligations.lean ====
section
/-! DEFINITION. The statements for the provers: what the block's commands do and what every step keeps, rule by rule of spec/. -/
open Sys2Proof Sys2Proof.Machine

/-- For every state whose queue holds command c in front of rest, step answers what exec answers for c on that state with the queue rest. -/
def Obligations.StepRunsFrontCommand : Prop :=
  ∀ (c : Instr) (rest : List Instr) (d : Device), step { dev := d, pending := c :: rest } = exec c { dev := d, pending := rest }

/-- With no command waiting, step answers the next state in which the device has made one Tide tick, the oldest transaction that the device addressed to
itself has been delivered where nothing holds it, XON has been sent for the priorities that XOFF was sent for, and nothing waits. That an idle step
does these is the DESIGN CHOICE of log entries 10, 24 and 36. -/
def Obligations.IdleStepIsOneTick : Prop :=
  ∀ (d : Device), step { dev := d, pending := [] } = .next { dev := ((tideTick d).deliver).pfcDrain, pending := [] }

/-- For every command c and device d there is a device e such that, whatever commands q wait, exec c on d with q answers the next state e with the same q:
no command faults or is refused, and none reads or writes the queue. -/
def Obligations.EveryCommandAnswersANextState : Prop :=
  ∀ (c : Instr) (d : Device), ∃ e, Takes c d e

/-- From every state, as many steps as commands wait answer a next state whose queue is empty. -/
def Obligations.QueueDrains : Prop :=
  ∀ (s : State), ∃ t : State, Host.Core.run Sys2Proof.core s.pending.length s = .next t ∧ t.pending = []

/-- The device of State.reset is legal: its fused values stand, the Tide's nanoseconds are below one second, the alarm level is 0, 2 or 3, allowances and
gains are in range, and the device map is in canonical form. -/
def Obligations.ResetDeviceIsLegal : Prop :=
  State.reset.dev.Legal { fuses := State.reset.dev.fuses, level := 0 }

/-- For every state whose device is legal for fused values z, step answers a next state whose device is legal for z again: the fused values stand, the
Tide nanoseconds stay below 10^9, the alarm level stays 0, 2 or 3, every Terrace's thermal allowance stays 1 to 64, slot allowance at most 64 and KCAL
0.75 to 1.25, and the device map keeps its canonical form. -/
def Obligations.EveryStepKeepsTheDeviceLegal : Prop :=
  ∀ (s : State) (z : Fuses), s.dev.Legal { fuses := z, level := 0 } → ∃ t, step s = .next t ∧ t.dev.Legal { fuses := z, level := 0 }

/-- From every legal state, every command other than ALARM_CLEAR answers a next state whose alarm level is no lower than before. The premise that the
device is legal is the invariant that every step keeps. -/
def Obligations.AlarmLevelFallsOnlyByAlarmClear : Prop :=
  ∀ (c : Instr) (s : State) (z : Fuses), (∀ f, c ≠ .alarmClear f) → s.dev.Legal { fuses := z, level := 0 } →
    ∃ t, exec c s = .next t ∧ s.dev.sec.level ≤ t.dev.sec.level

/-- VIADD, VISUB, VIMUL, VAND, VOR, VXOR, VSLL, VSRL, VSRA, VIMIN and VIMAX, where the core takes instructions and no field raises a fault, complete: for
every counted element they write the two's-complement sum, difference or low product, the bitwise operation, the shift by b modulo w, or the signed
minimum or maximum into VD, take the summary when SUM asks for it, and move the pc 8 bytes on; nothing else of the device changes. -/
def Obligations.IntegerLaneInstructions : Prop :=
  (∀ (p : Fin 64) (v : VInsn) (d : Device), VectorReady d p (.lanes vInts) v →
      Takes (.viadd p v) d (vectorDone d p v (vfD v) (lanesOf v (vfD v)
        (fun a b _ => { code := ofSigned (vfD v).width (toSigned (vfD v).width a + toSigned (vfD v).width b) }))))
  ∧ (∀ (p : Fin 64) (v : VInsn) (d : Device), VectorReady d p (.lanes vInts) v →
      Takes (.visub p v) d (vectorDone d p v (vfD v) (lanesOf v (vfD v)
        (fun a b _ => { code := ofSigned (vfD v).width (toSigned (vfD v).width a - toSigned (vfD v).width b) }))))
  ∧ (∀ (p : Fin 64) (v : VInsn) (d : Device), VectorReady d p (.lanes vInts) v →
      Takes (.vimul p v) d (vectorDone d p v (vfD v) (lanesOf v (vfD v)
        (fun a b _ => { code := ofSigned (vfD v).width (toSigned (vfD v).width a * toSigned (vfD v).width b) }))))
  ∧ (∀ (p : Fin 64) (v : VInsn) (d : Device), VectorReady d p (.lanes vInts) v →
      Takes (.vand p v) d (vectorDone d p v (vfD v) (lanesOf v (vfD v)
        (fun a b _ => { code := Nat.land a b }))))
  ∧ (∀ (p : Fin 64) (v : VInsn) (d : Device), VectorReady d p (.lanes vInts) v →
      Takes (.vor p v) d (vectorDone d p v (vfD v) (lanesOf v (vfD v)
        (fun a b _ => { code := Nat.lor a b }))))
  ∧ (∀ (p : Fin 64) (v : VInsn) (d : Device), VectorReady d p (.lanes vInts) v →
      Takes (.vxor p v) d (vectorDone d p v (vfD v) (lanesOf v (vfD v)
        (fun a b _ => { code := Nat.xor a b }))))
  ∧ (∀ (p : Fin 64) (v : VInsn) (d : Device), VectorReady d p (.lanes vInts) v →
      Takes (.vsll p v) d (vectorDone d p v (vfD v) (lanesOf v (vfD v)
        (fun a b _ => { code := (a <<< (b % (vfD v).width)) % 2 ^ (vfD v).width }))))
  ∧ (∀ (p : Fin 64) (v : VInsn) (d : Device), VectorReady d p (.lanes vInts) v →
      Takes (.vsrl p v) d (vectorDone d p v (vfD v) (lanesOf v (vfD v)
        (fun a b _ => { code := a >>> (b % (vfD v).width) }))))
  ∧ (∀ (p : Fin 64) (v : VInsn) (d : Device), VectorReady d p (.lanes vInts) v →
      Takes (.vsra p v) d (vectorDone d p v (vfD v) (lanesOf v (vfD v)
        (fun a b _ => { code := ofSigned (vfD v).width (sar (toSigned (vfD v).width a) (b % (vfD v).width)) }))))
  ∧ (∀ (p : Fin 64) (v : VInsn) (d : Device), VectorReady d p (.lanes vInts) v →
      Takes (.vimin p v) d (vectorDone d p v (vfD v) (lanesOf v (vfD v)
        (fun a b _ => { code := ofSigned (vfD v).width (min (toSigned (vfD v).width a) (toSigned (vfD v).width b)) }))))
  ∧ (∀ (p : Fin 64) (v : VInsn) (d : Device), VectorReady d p (.lanes vInts) v →
      Takes (.vimax p v) d (vectorDone d p v (vfD v) (lanesOf v (vfD v)
        (fun a b _ => { code := ofSigned (vfD v).width (max (toSigned (vfD v).width a) (toSigned (vfD v).width b)) }))))

/-- VMOV, VSEL, VADD, VSUB, VMUL, VNEG, VMIN, VMAX, VFMA, VABS and VCPSGN, where the core takes instructions and no field raises a fault, complete: every
counted element of VD becomes the copy, the selection on the raw bits of VD, the exact sum, difference, product or negation of the operands after
input FTZ, the exact product plus the element of VD, rounded once under RNE, the minimum or maximum of R56, or the element of VA with a positive sign
or that of VB, rounded into TD (a NaN gives the canonical NaN); the flags are ORed in, the summary is taken when SUM asks for it, and the pc moves 8
bytes on; nothing else changes. -/
def Obligations.FloatLaneInstructions : Prop :=
  (∀ (p : Fin 64) (v : VInsn) (d : Device), VectorReady d p (.lanes vTypes) v →
      Takes (.vmov p v) d (vectorDone d p v (vfD v) (lanesOf v (vfD v)
        (fun a _ _ => { code := a }))))
  ∧ (∀ (p : Fin 64) (v : VInsn) (d : Device), VectorReady d p (.lanes vArith) v →
      Takes (.vadd p v) d (vectorDone d p v (vfD v) (lanesOf v (vfD v)
        (fun a b _ => vOut v (vfD v) (addVal (vIn v (vfD v) a).1 (vIn v (vfD v) b).1 false) ((vIn v (vfD v) a).2 || (vIn v (vfD v) b).2)))))
  ∧ (∀ (p : Fin 64) (v : VInsn) (d : Device), VectorReady d p (.lanes vArith) v →
      Takes (.vsub p v) d (vectorDone d p v (vfD v) (lanesOf v (vfD v)
        (fun a b _ => vOut v (vfD v) (addVal (vIn v (vfD v) a).1 (negVal (vIn v (vfD v) b).1) false) ((vIn v (vfD v) a).2 || (vIn v (vfD v) b).2)))))
  ∧ (∀ (p : Fin 64) (v : VInsn) (d : Device), VectorReady d p (.lanes vArith) v →
      Takes (.vmul p v) d (vectorDone d p v (vfD v) (lanesOf v (vfD v)
        (fun a b _ => vOut v (vfD v) (mulVal (vIn v (vfD v) a).1 (vIn v (vfD v) b).1) ((vIn v (vfD v) a).2 || (vIn v (vfD v) b).2)))))
  ∧ (∀ (p : Fin 64) (v : VInsn) (d : Device), VectorReady d p (.lanes vFloats) v →
      Takes (.vmin p v) d (vectorDone d p v (vfD v) (lanesOf v (vfD v)
        (fun a b _ => pickConv v (vfD v) pickMin (vIn v (vfD v) a) (vIn v (vfD v) b)))))
  ∧ (∀ (p : Fin 64) (v : VInsn) (d : Device), VectorReady d p (.lanes vFloats) v →
      Takes (.vmax p v) d (vectorDone d p v (vfD v) (lanesOf v (vfD v)
        (fun a b _ => pickConv v (vfD v) pickMax (vIn v (vfD v) a) (vIn v (vfD v) b)))))
  ∧ (∀ (p : Fin 64) (v : VInsn) (d : Device), VectorReady d p (.lanes vArith) v →
      Takes (.vneg p v) d (vectorDone d p v (vfD v) (lanesOf v (vfD v)
        (fun a _ _ => vOut v (vfD v) (negVal (vIn v (vfD v) a).1, false) (vIn v (vfD v) a).2))))
  ∧ (∀ (p : Fin 64) (v : VInsn) (d : Device), VectorReady d p (.lanes vTypes) v →
      Takes (.vsel p v) d (vectorDone d p v (vfD v) (lanesOf v (vfD v)
        (fun a b m => { code := if m ≠ 0 then a else b }))))
  ∧ (∀ (p : Fin 64) (v : VInsn) (d : Device), VectorReady d p (.lanes vArith) v →
      Takes (.vfma p v) d (vectorDone d p v (vfD v) (lanesOf v (vfD v) (fun a b c =>
        let x := vIn v (vfD v) a; let y := vIn v (vfD v) b; let z := vIn v (vfD v) c
        vOut v (vfD v) ((addVal (mulVal x.1 y.1).1 z.1 false).1, (mulVal x.1 y.1).2 || (addVal (mulVal x.1 y.1).1 z.1 false).2 || z.1.isSNan)
          (x.2 || y.2 || z.2)))))
  ∧ (∀ (p : Fin 64) (v : VInsn) (d : Device), VectorReady d p (.lanes vArith) v →
      Takes (.vabs p v) d (vectorDone d p v (vfD v) (lanesOf v (vfD v) (fun a _ _ =>
        match (vIn v (vfD v) a).1 with
        | .fin _ m e => vOut v (vfD v) (.fin false m e, false) (vIn v (vfD v) a).2
        | .inf _ => vOut v (vfD v) (.inf false, false) (vIn v (vfD v) a).2
        | .nan s => vOut v (vfD v) (.nan s, false) (vIn v (vfD v) a).2))))
  ∧ (∀ (p : Fin 64) (v : VInsn) (d : Device), VectorReady d p (.lanes vArith) v →
      Takes (.vcpsgn p v) d (vectorDone d p v (vfD v) (lanesOf v (vfD v) (fun a b _ =>
        let x := vIn v (vfD v) a; let y := vIn v (vfD v) b
        match x.1 with
        | .fin _ m e => vOut v (vfD v) (if y.1.isNan then .nan y.1.isSNan else .fin y.1.isNeg m e, false) (x.2 || y.2)
        | .inf _ => vOut v (vfD v) (if y.1.isNan then .nan y.1.isSNan else .inf y.1.isNeg, false) (x.2 || y.2)
        | .nan s => vOut v (vfD v) (.nan (s || y.1.isSNan), false) (x.2 || y.2)))))

/-- Where the core takes instructions and no field raises a fault: VCMPEQ, VCMPLT and VCMPLE write to element i of VD 1 when neither operand is a NaN and
the first is equal to, less than, or not greater than the second, else 0; a signalling NaN sets INVALID, a flushed input FLUSH. VEXP2, VLOG2, VRCP,
VRSQRT, VSQRT, VTANH, VSIGM and VGELU widen each element to FP32 (after FTZ), give it to the function of its rule and convert the result to TD under
RNE; the function's INVALID and OVERFLOW and the conversion's flags are set. The pc moves 8 bytes on, and nothing else changes. -/
def Obligations.ComparisonAndFunctionInstructions : Prop :=
  (∀ (p : Fin 64) (v : VInsn) (d : Device), VectorReady d p (.cmp) v →
      Takes (.vcmpeq p v) d (vectorDone d p v (vfD v) (lanesOf v (vfS v) (fun a b _ =>
        let x := vIn v (vfS v) a; let y := vIn v (vfS v) b
        { code := b2n (!x.1.isNan && !y.1.isNan && eqVal x.1 y.1)
          flags := { invalid := x.1.isSNan || y.1.isSNan, flush := x.2 || y.2 } }))))
  ∧ (∀ (p : Fin 64) (v : VInsn) (d : Device), VectorReady d p (.cmp) v →
      Takes (.vcmplt p v) d (vectorDone d p v (vfD v) (lanesOf v (vfS v) (fun a b _ =>
        let x := vIn v (vfS v) a; let y := vIn v (vfS v) b
        { code := b2n (!x.1.isNan && !y.1.isNan && ltVal x.1 y.1)
          flags := { invalid := x.1.isSNan || y.1.isSNan, flush := x.2 || y.2 } }))))
  ∧ (∀ (p : Fin 64) (v : VInsn) (d : Device), VectorReady d p (.cmp) v →
      Takes (.vcmple p v) d (vectorDone d p v (vfD v) (lanesOf v (vfS v) (fun a b _ =>
        let x := vIn v (vfS v) a; let y := vIn v (vfS v) b
        { code := b2n (!x.1.isNan && !y.1.isNan && !ltVal y.1 x.1)
          flags := { invalid := x.1.isSNan || y.1.isSNan, flush := x.2 || y.2 } }))))
  ∧ (∀ (p : Fin 64) (v : VInsn) (d : Device), VectorReady d p (.lanes vArith) v →
      Takes (.vexp2 p v) d (vectorDone d p v (vfD v) (lanesOf v (vfD v) (fun a _ _ =>
        let x := vIn v (vfD v) a
        let y := exp2Fn (match x.1 with | .nan s => if s then 0x7FA00000 else nan32 | z => fp32Of z)
        let c := convertVal (fp32V y.code) (vfD v) .rne (vFtz v (vfD v)) false 0
        { c with flags := c.flags.or { invalid := y.invalid, overflow := y.overflow, flush := x.2 } }))))
  ∧ (∀ (p : Fin 64) (v : VInsn) (d : Device), VectorReady d p (.lanes vArith) v →
      Takes (.vlog2 p v) d (vectorDone d p v (vfD v) (lanesOf v (vfD v) (fun a _ _ =>
        let x := vIn v (vfD v) a
        let y := log2Fn (match x.1 with | .nan s => if s then 0x7FA00000 else nan32 | z => fp32Of z)
        let c := convertVal (fp32V y.code) (vfD v) .rne (vFtz v (vfD v)) false 0
        { c with flags := c.flags.or { invalid := y.invalid, overflow := y.overflow, flush := x.2 } }))))
  ∧ (∀ (p : Fin 64) (v : VInsn) (d : Device), VectorReady d p (.lanes vArith) v →
      Takes (.vrcp p v) d (vectorDone d p v (vfD v) (lanesOf v (vfD v) (fun a _ _ =>
        let x := vIn v (vfD v) a
        let y := rcpFn (match x.1 with | .nan s => if s then 0x7FA00000 else nan32 | z => fp32Of z)
        let c := convertVal (fp32V y.code) (vfD v) .rne (vFtz v (vfD v)) false 0
        { c with flags := c.flags.or { invalid := y.invalid, overflow := y.overflow, flush := x.2 } }))))
  ∧ (∀ (p : Fin 64) (v : VInsn) (d : Device), VectorReady d p (.lanes vArith) v →
      Takes (.vrsqrt p v) d (vectorDone d p v (vfD v) (lanesOf v (vfD v) (fun a _ _ =>
        let x := vIn v (vfD v) a
        let y := rsqrtFn (match x.1 with | .nan s => if s then 0x7FA00000 else nan32 | z => fp32Of z)
        let c := convertVal (fp32V y.code) (vfD v) .rne (vFtz v (vfD v)) false 0
        { c with flags := c.flags.or { invalid := y.invalid, overflow := y.overflow, flush := x.2 } }))))
  ∧ (∀ (p : Fin 64) (v : VInsn) (d : Device), VectorReady d p (.lanes vArith) v →
      Takes (.vsqrt p v) d (vectorDone d p v (vfD v) (lanesOf v (vfD v) (fun a _ _ =>
        let x := vIn v (vfD v) a
        let y := sqrtFn (match x.1 with | .nan s => if s then 0x7FA00000 else nan32 | z => fp32Of z)
        let c := convertVal (fp32V y.code) (vfD v) .rne (vFtz v (vfD v)) false 0
        { c with flags := c.flags.or { invalid := y.invalid, overflow := y.overflow, flush := x.2 } }))))
  ∧ (∀ (p : Fin 64) (v : VInsn) (d : Device), VectorReady d p (.lanes vArith) v →
      Takes (.vtanh p v) d (vectorDone d p v (vfD v) (lanesOf v (vfD v) (fun a _ _ =>
        let x := vIn v (vfD v) a
        let y := tanhFn (match x.1 with | .nan s => if s then 0x7FA00000 else nan32 | z => fp32Of z)
        let c := convertVal (fp32V y.code) (vfD v) .rne (vFtz v (vfD v)) false 0
        { c with flags := c.flags.or { invalid := y.invalid, overflow := y.overflow, flush := x.2 } }))))
  ∧ (∀ (p : Fin 64) (v : VInsn) (d : Device), VectorReady d p (.lanes vArith) v →
      Takes (.vsigm p v) d (vectorDone d p v (vfD v) (lanesOf v (vfD v) (fun a _ _ =>
        let x := vIn v (vfD v) a
        let y := sigmFn (match x.1 with | .nan s => if s then 0x7FA00000 else nan32 | z => fp32Of z)
        let c := convertVal (fp32V y.code) (vfD v) .rne (vFtz v (vfD v)) false 0
        { c with flags := c.flags.or { invalid := y.invalid, overflow := y.overflow, flush := x.2 } }))))
  ∧ (∀ (p : Fin 64) (v : VInsn) (d : Device), VectorReady d p (.lanes vArith) v →
      Takes (.vgelu p v) d (vectorDone d p v (vfD v) (lanesOf v (vfD v) (fun a _ _ =>
        let x := vIn v (vfD v) a
        let y := geluFn (match x.1 with | .nan s => if s then 0x7FA00000 else nan32 | z => fp32Of z)
        let c := convertVal (fp32V y.code) (vfD v) .rne (vFtz v (vfD v)) false 0
        { c with flags := c.flags.or { invalid := y.invalid, overflow := y.overflow, flush := x.2 } }))))

/-- VSEGSUM, VSEGMAX and VSEGMIN, where the core takes instructions and no field raises a fault, write the reduction of each run of G = x[VB] counted
elements of VA (the last may be shorter) to the elements of VD and move the pc 8 bytes on; with G = 0 they halt the core with the ZERO_SIZE cause and
write no register. -/
def Obligations.SegmentInstructions : Prop :=
  (∀ (p : Fin 64) (v : VInsn) (d : Device), VectorReady d p (.lanes vTypes) v → (d.panAt p).xreg v.vb ≠ 0 →
      Takes (.vsegsum p v) d (vectorDone d p v (vfD v) (fun q =>
        (splitEvery (q.xreg v.vb) (vCount v q) (q.velems v.va (vfD v) (vCount v q))).map (segment .sum v (vfD v)))))
  ∧ (∀ (p : Fin 64) (v : VInsn) (d : Device), VectorReady d p (.lanes vTypes) v → (d.panAt p).xreg v.vb ≠ 0 →
      Takes (.vsegmax p v) d (vectorDone d p v (vfD v) (fun q =>
        (splitEvery (q.xreg v.vb) (vCount v q) (q.velems v.va (vfD v) (vCount v q))).map (segment .max v (vfD v)))))
  ∧ (∀ (p : Fin 64) (v : VInsn) (d : Device), VectorReady d p (.lanes vTypes) v → (d.panAt p).xreg v.vb ≠ 0 →
      Takes (.vsegmin p v) d (vectorDone d p v (vfD v) (fun q =>
        (splitEvery (q.xreg v.vb) (vCount v q) (q.velems v.va (vfD v) (vCount v q))).map (segment .min v (vfD v)))))
  ∧ (∀ (p : Fin 64) (v : VInsn) (d : Device), VectorReady d p (.lanes vTypes) v → (d.panAt p).xreg v.vb = 0 →
      Takes (.vsegsum p v) d (d.panFault p .zeroSize stZeroSize))
  ∧ (∀ (p : Fin 64) (v : VInsn) (d : Device), VectorReady d p (.lanes vTypes) v → (d.panAt p).xreg v.vb = 0 →
      Takes (.vsegmax p v) d (d.panFault p .zeroSize stZeroSize))
  ∧ (∀ (p : Fin 64) (v : VInsn) (d : Device), VectorReady d p (.lanes vTypes) v → (d.panAt p).xreg v.vb = 0 →
      Takes (.vsegmin p v) d (d.panFault p .zeroSize stZeroSize))

/-- Where the core takes instructions and no field raises a fault: VBCAST writes the low bits of x[VA] to every counted element, VIOTA element i's number,
VREV the counted elements in reverse order, VSLIDEDN element i + s and VSLIDEUP element i − s with s = x[VB] and +0 in vacated places; VPERM writes
element a[b[i]] with the signed index b[i] of type INT32 for 32-bit types and INT16 otherwise, +0 where it lies outside 0 to count − 1, and then sets
INDEX; VCVT converts each element from TS to TD under RMODE (SR with the word of the pan's stream, TENSOR and ebase + i), recording every conversion
in the pan's sticky flags, SAT count and selected capture slot. The pc moves 8 bytes on, and nothing else changes. -/
def Obligations.RearrangingAndConverting : Prop :=
  (∀ (p : Fin 64) (v : VInsn) (d : Device), VectorReady d p (.lanes vTypes) v →
      Takes (.vbcast p v) d (vectorDone d p v (vfD v) (fun q =>
        List.replicate (vCount v q) { code := q.xreg v.va % 2 ^ (vfD v).width })))
  ∧ (∀ (p : Fin 64) (v : VInsn) (d : Device), VectorReady d p (.lanes [.int32, .int16]) v →
      Takes (.viota p v) d (vectorDone d p v (vfD v) (fun q =>
        (List.range (vCount v q)).map (fun i => { code := i % 2 ^ (vfD v).width }))))
  ∧ (∀ (p : Fin 64) (v : VInsn) (d : Device), VectorReady d p (.lanes vTypes) v →
      Takes (.vrev p v) d (vectorDone d p v (vfD v) (fun q =>
        (List.range (vCount v q)).map (fun i => { code := q.velem v.va (vfD v) (vCount v q - 1 - i) }))))
  ∧ (∀ (p : Fin 64) (v : VInsn) (d : Device), VectorReady d p (.lanes vTypes) v →
      Takes (.vslidedn p v) d (vectorDone d p v (vfD v) (fun q =>
        (List.range (vCount v q)).map (fun i =>
          { code := if i + q.xreg v.vb < vCount v q then q.velem v.va (vfD v) (i + q.xreg v.vb) else 0 }))))
  ∧ (∀ (p : Fin 64) (v : VInsn) (d : Device), VectorReady d p (.lanes vTypes) v →
      Takes (.vslideup p v) d (vectorDone d p v (vfD v) (fun q =>
        (List.range (vCount v q)).map (fun i =>
          { code := if q.xreg v.vb ≤ i then q.velem v.va (vfD v) (i - q.xreg v.vb) else 0 }))))
  ∧ (∀ (p : Fin 64) (v : VInsn) (d : Device), VectorReady d p (.perm) v →
      Takes (.vperm p v) d (d.updPan p (fun q =>
        let is := (List.range (vCount v q)).map (fun i => toSigned (permIndex (vfD v)).width (q.velem v.vb (permIndex (vfD v)) i))
        let bad := fun (i : Int) => decide (i < 0) || decide ((vCount v q : Int) ≤ i)
        let r := q.vdone v (vfD v) (is.map (fun i => { code := if bad i then 0 else q.velem v.va (vfD v) i.toNat }))
        (({ r with vec := { r.vec with index := r.vec.index || is.any bad } } : Pan).setPc (q.pc + 8)).logStep)))
  ∧ (∀ (p : Fin 64) (v : VInsn) (d : Device), VectorReady d p (.cvt) v →
      Takes (.vcvt p v) d (d.updPan p (fun q =>
        let ws := (List.range (vCount v q)).map (fun i =>
          let a := vIn v (vfS v) (q.velem v.va (vfS v) i)
          let m := (RMode.ofCode v.rmode).getD .rne
          let c := convertVal a.1 (vfD v) m (vFtz v (vfD v)) v.ovfSp (if m = .sr then q.srWord q.vec.tensor (q.vec.ebase + i) else 0)
          (a.1, ({ c with flags := c.flags.or (.fl a.2) } : Conv)))
        (((ws.foldl (fun r w => r.record q.sel w.1 w.2 (vfD v)) q).vdone v (vfD v) (ws.map Prod.snd)).setPc (q.pc + 8)).logStep)))

/-- Where the core takes instructions and no field raises a fault: with base x[VA] and stride x[VB] (the element width when VB names x0), both multiples
of the element width, and no granule held, VLD writes the element at base + i·stride to element i of VD, and VST stores element i of VD there; the
summary is taken when SUM asks for it and the pc moves 8 bytes on. A misaligned base or stride halts the core with ALIGN. A count of 0 raises no ALIGN
(the model's reading, log entry 35). A parity hit that lies in an element which VLD reads, or into whose word a VST of elements below 32 bits merges,
is counted and its granule held, and the instruction waits; while a granule of an accessed element is held, both wait. -/
def Obligations.VectorLoadAndStore : Prop :=
  (∀ (p : Fin 64) (v : VInsn) (d : Device), VectorReady d p (.lanes vTypes) v → vMisaligned (d.panAt p) v = false →
    ((List.range (vCount v (d.panAt p))).any (fun i => (d.panAt p).holds ((vBase (d.panAt p) v).1 + i * (vBase (d.panAt p) v).2) ((vfD v).width / 8)) = false) →
      Takes (.vld p v none) d (vectorDone d p v (vfD v) (fun q => (List.range (vCount v q)).map (fun i =>
        { code := d.psLE p ((vBase q v).1 + i * (vBase q v).2) ((vfD v).width / 8) }))))
  ∧ (∀ (p : Fin 64) (v : VInsn) (d : Device), VectorReady d p (.lanes vTypes) v → vMisaligned (d.panAt p) v = false →
    ((List.range (vCount v (d.panAt p))).any (fun i => (d.panAt p).holds ((vBase (d.panAt p) v).1 + i * (vBase (d.panAt p) v).2) ((vfD v).width / 8)) = false) →
      Takes (.vst p v none) d ((((d.panAt p).velems v.vd (vfD v) (vCount v (d.panAt p))).zipIdx.foldl (fun e c =>
          e.psWrite p ((vBase (d.panAt p) v).1 + c.2 * (vBase (d.panAt p) v).2) (toLE ((vfD v).width / 8) c.1)) d).updPan p (fun q =>
        ((q.summarise v.sum (vfD v) ((d.panAt p).velems v.vd (vfD v) (vCount v (d.panAt p)))).setPc (q.pc + 8)).logStep)))
  ∧ (∀ (p : Fin 64) (v : VInsn) (hit : Option Nat) (d : Device), VectorReady d p (.lanes vTypes) v → vMisaligned (d.panAt p) v = true →
      Takes (.vld p v hit) d (d.panFault p .align stAlign))
  ∧ (∀ (p : Fin 64) (v : VInsn) (hit : Option Nat) (d : Device), VectorReady d p (.lanes vTypes) v → vMisaligned (d.panAt p) v = true →
      Takes (.vst p v hit) d (d.panFault p .align stAlign))
  ∧ (∀ (p : Fin 64) (v : VInsn) (a : Nat) (d : Device), VectorReady d p (.lanes vTypes) v → vMisaligned (d.panAt p) v = false →
    ((List.range (vCount v (d.panAt p))).any (fun i => (d.panAt p).holds ((vBase (d.panAt p) v).1 + i * (vBase (d.panAt p) v).2) ((vfD v).width / 8)) = false) →
    ((List.range (vCount v (d.panAt p))).any (fun i => ((parityHit d p a).panAt p).holds ((vBase (d.panAt p) v).1 + i * (vBase (d.panAt p) v).2) ((vfD v).width / 8)) = true) →
      Takes (.vld p v (some a)) d (parityHit d p a))
  ∧ (∀ (p : Fin 64) (v : VInsn) (a : Nat) (d : Device), VectorReady d p (.lanes vTypes) v → (vfD v).width < 32 → vMisaligned (d.panAt p) v = false →
    ((List.range (vCount v (d.panAt p))).any (fun i => (d.panAt p).holds ((vBase (d.panAt p) v).1 + i * (vBase (d.panAt p) v).2) ((vfD v).width / 8)) = false) →
    ((List.range (vCount v (d.panAt p))).any (fun i => ((parityHit d p a).panAt p).holds ((vBase (d.panAt p) v).1 + i * (vBase (d.panAt p) v).2) ((vfD v).width / 8)) = true) →
      Takes (.vst p v (some a)) d (parityHit d p a))
  ∧ (∀ (p : Fin 64) (v : VInsn) (hit : Option Nat) (d : Device), VectorReady d p (.lanes vTypes) v → vMisaligned (d.panAt p) v = false →
    ((List.range (vCount v (d.panAt p))).any (fun i => (d.panAt p).holds ((vBase (d.panAt p) v).1 + i * (vBase (d.panAt p) v).2) ((vfD v).width / 8)) = true) →
      Takes (.vld p v hit) d d ∧ Takes (.vst p v hit) d d)

/-- Where VST completes (ready, aligned, nothing held), it answers a next device in which every byte of the device map whose address is none of the stored
element bytes (pan-store address base + i·stride + b, for element i below the count and byte b below the element width, wrapped modulo 32 MiB) reads
as before, and the vector registers, the Ledger and the flags of every pan stand. -/
def Obligations.StoreTouchesOnlyItsBytes : Prop :=
  ∀ (p : Fin 64) (v : VInsn) (d : Device), VectorReady d p (.lanes vTypes) v → vMisaligned (d.panAt p) v = false →
  ((List.range (vCount v (d.panAt p))).any (fun i => (d.panAt p).holds ((vBase (d.panAt p) v).1 + i * (vBase (d.panAt p) v).2) ((vfD v).width / 8)) = false) →
    ∃ e, Takes (.vst p v none) d e
      ∧ (∀ a, (∀ i b, i < vCount v (d.panAt p) → b < (vfD v).width / 8 →
          a ≠ psAddr p ((vBase (d.panAt p) v).1 + i * (vBase (d.panAt p) v).2 + b)) → e.mem.read a = d.mem.read a)
      ∧ ∀ r : Fin 64, (e.panAt r).vec.regs = (d.panAt r).vec.regs ∧ (e.panAt r).arr = (d.panAt r).arr ∧ (e.panAt r).flags = (d.panAt r).flags

/-- Where the core takes instructions and no field raises a fault: with x[VB] a multiple of 4 and nothing held, VZBC writes the compressed units of the
counted elements of VA to the pan store from x[VB], takes the summary with the number of bytes written as its SUM, and raises INVALID when an element
is a signalling NaN; VFENCE sets the flag that bits [50:45] name. The pc moves 8 bytes on. Where the core takes instructions, no field raises a fault
and no earlier descriptor of the pan may still act on the named entries: VLRD writes the write-back of each normal entry with unit scales and no bias
into TD, recording each conversion on the pan, and into FP32 the accumulator of each heritage entry; on entries in normal mode VLXRD writes the 19
words of each entry's full record; VLPADD, on entries that are no attention entries, when every record is well formed and its residue matches,
packed-adds record j of VD into entry j, and a malformed record halts the core with LEDGER_REC after the records before it, one whose residue differs
with RECOVER and none added. The pc moves 8 bytes on. VLXRD, VLPADD and a VLRD into another format than FP32 on an entry in heritage mode halt the
core with ORDER, and VLPADD on an attention entry with the ORDER cause and the attention-entry status. While an earlier descriptor may still act on a
named entry, each of the three waits and changes nothing. -/
def Obligations.CompressedFenceAndLedgerInstructions : Prop :=
  (∀ (p : Fin 64) (v : VInsn) (d : Device), VectorReady d p (.zbc) v → (d.panAt p).xreg v.vb % 4 = 0 →
    (d.panAt p).holds ((d.panAt p).xreg v.vb) ((splitEvery 256 (vCount v (d.panAt p)) ((d.panAt p).velems v.va (vfD v) (vCount v (d.panAt p)))).flatMap (zbcUnitBytes (vfD v))).length = false →
      let cs := (d.panAt p).velems v.va (vfD v) (vCount v (d.panAt p))
      let out := (splitEvery 256 (vCount v (d.panAt p)) cs).flatMap (zbcUnitBytes (vfD v))
      Takes (.vzbc p v) d ((d.psWrite p ((d.panAt p).xreg v.vb) out).updPan p (fun q =>
        let r := q.vflags (.inv (cs.any (fun c => (decodeVal (vfD v) c).isSNan)))
        (({ r with vec := { r.vec with vsum := { (summaryOf (vfD v) cs).1 with sum := out.length, sumHi := 0 } } } : Pan).setPc (q.pc + 8)).logStep)))
  ∧ (∀ (p : Fin 64) (v : VInsn) (d : Device), VectorReady d p (.fence) v →
      Takes (.vfence p v) d (d.updPan p (fun q => ((q.setFlag (vIndex6 v)).setPc (q.pc + 8)).logStep)))
  ∧ (∀ (p : Fin 64) (v : VInsn) (d : Device), VectorReady d p (.lrd) v → lentBusy d p v = false →
    (vfD v = .fp32 ∨ (List.range (vCount v (d.panAt p))).any (fun i => ((d.panAt p).entry (lentAt v i).1 (lentAt v i).2).heritage.isSome) = false) →
      Takes (.vlrd p v) d (d.updPan p (fun q =>
        let m := (RMode.ofCode v.rmode).getD .rne
        let ws := (List.range (vCount v q)).map (fun i =>
          let e := q.entry (lentAt v i).1 (lentAt v i).2
          match e.heritage with
          | some h => (none, ({ code := h.acc.getD 0 } : Conv))
          | none =>
            let w := writeBackNormal e (.fin false 1 0) (.fin false 1 0) none (vfD v) m v.ovfSp (if m = .sr then q.srWord q.vec.tensor (q.vec.ebase + i) else 0)
            (some w.value, w.conv))
        (((ws.foldl (fun r w => match w.1 with | some x => r.record q.sel x w.2 (vfD v) | none => r) q).vdone v (vfD v) (ws.map Prod.snd)).setPc (q.pc + 8)).logStep)))
  ∧ (∀ (p : Fin 64) (v : VInsn) (d : Device), VectorReady d p (.lxrd) v → lentBusy d p v = false →
    ((List.range (vCount v (d.panAt p))).any (fun i => ((d.panAt p).entry (lentAt v i).1 (lentAt v i).2).heritage.isSome) = false) →
      Takes (.vlxrd p v) d (vectorDone d p v .int32 (fun q => (List.range (vCount v q)).flatMap (fun i =>
        (fullRecord (q.entry (lentAt v i).1 (lentAt v i).2)).words.map (fun w => { code := w })))))
  ∧ (∀ (p : Fin 64) (v : VInsn) (d : Device), VectorReady d p (.lxrd) v → lentBusy d p v = false →
    ((List.range (vCount v (d.panAt p))).any (fun i => ((d.panAt p).entry (lentAt v i).1 (lentAt v i).2).heritage.isSome) = true) →
      Takes (.vlxrd p v) d (d.panFault p .order stHeritageOrder))
  ∧ (∀ (p : Fin 64) (v : VInsn) (d : Device), VectorReady d p (.lpadd) v → lentBusy d p v = false →
    ((List.range (vCount v (d.panAt p))).any (fun i => ((d.panAt p).entry (lentAt v i).1 (lentAt v i).2).heritage.isSome) = false) →
    ((List.range (vCount v (d.panAt p))).any (fun i => ((d.panAt p).row (lentAt v i).1).attn) = false) →
    (lpadds v (d.panAt p) (List.range (vCount v (d.panAt p))) (d.panAt p)).2 = none →
      Takes (.vlpadd p v) d (d.updPan p (fun q => (((lpadds v q (List.range (vCount v q)) q).1).setPc (q.pc + 8)).logStep)))
  ∧ (∀ (p : Fin 64) (v : VInsn) (d : Device), VectorReady d p (.lpadd) v → lentBusy d p v = false →
    ((List.range (vCount v (d.panAt p))).any (fun i => ((d.panAt p).entry (lentAt v i).1 (lentAt v i).2).heritage.isSome) = true) →
      Takes (.vlpadd p v) d (d.panFault p .order stHeritageOrder))
  ∧ (∀ (p : Fin 64) (v : VInsn) (d : Device), VectorReady d p (.lpadd) v → lentBusy d p v = false →
    ((List.range (vCount v (d.panAt p))).any (fun i => ((d.panAt p).entry (lentAt v i).1 (lentAt v i).2).heritage.isSome) = false) →
    ((List.range (vCount v (d.panAt p))).any (fun i => ((d.panAt p).row (lentAt v i).1).attn) = true) →
      Takes (.vlpadd p v) d (d.panFault p .order stAttnEntry))
  ∧ (∀ (p : Fin 64) (v : VInsn) (c : Cause × Nat) (d : Device), VectorReady d p (.lpadd) v → lentBusy d p v = false →
    ((List.range (vCount v (d.panAt p))).any (fun i => ((d.panAt p).entry (lentAt v i).1 (lentAt v i).2).heritage.isSome) = false) →
    ((List.range (vCount v (d.panAt p))).any (fun i => ((d.panAt p).row (lentAt v i).1).attn) = false) →
    (lpadds v (d.panAt p) (List.range (vCount v (d.panAt p))) (d.panAt p)).2 = some c →
      Takes (.vlpadd p v) d ((d.updPan p (fun q => (lpadds v q (List.range (vCount v q)) q).1)).panFault p c.1 c.2))
  ∧ (∀ (p : Fin 64) (v : VInsn) (d : Device), VectorReady d p (.lrd) v → lentBusy d p v = false →
    ((List.range (vCount v (d.panAt p))).any (fun i => ((d.panAt p).entry (lentAt v i).1 (lentAt v i).2).heritage.isSome) = true) → vfD v ≠ .fp32 →
      Takes (.vlrd p v) d (d.panFault p .order stHeritageOrder))
  ∧ (∀ (p : Fin 64) (v : VInsn) (d : Device), VectorReady d p (.lrd) v → lentBusy d p v = true → Takes (.vlrd p v) d d)
  ∧ (∀ (p : Fin 64) (v : VInsn) (d : Device), VectorReady d p (.lxrd) v → lentBusy d p v = true → Takes (.vlxrd p v) d d)
  ∧ (∀ (p : Fin 64) (v : VInsn) (d : Device), VectorReady d p (.lpadd) v → lentBusy d p v = true → Takes (.vlpadd p v) d d)

/-- For each of the 50 vector instructions, on every word and with any parity hit: when the core takes instructions, no droop skip holds it, and the first
fault of its fields in the order of R169 is cause c with status st (ILLEGAL for a reserved field or format code, a forbidden RMODE, OVF_SP, TS, SUM or
LREG; TYPE for a type its opcode does not accept; RANGE for a count above the limit or an entry past 63), the answer is the device in which the core
has halted with c and st and its job has taken the fault, and nothing else has happened. -/
def Obligations.VectorFieldFaults : Prop :=
  ∀ (p : Fin 64) (v : VInsn) (hit : Option Nat) (d : Device) (c : Cause) (st : Nat), CoreTakes d p → (d.panAt p).droopSkip = 0 →
    (vFault (.lanes vTypes) v (d.panAt p) = some (c, st) → Takes (.vmov p v) d (d.panFault p c st))
    ∧ (vFault (.lanes vTypes) v (d.panAt p) = some (c, st) → Takes (.vsel p v) d (d.panFault p c st))
    ∧ (vFault (.lanes vFloats) v (d.panAt p) = some (c, st) → Takes (.vmin p v) d (d.panFault p c st))
    ∧ (vFault (.lanes vFloats) v (d.panAt p) = some (c, st) → Takes (.vmax p v) d (d.panFault p c st))
    ∧ (vFault (.lanes vArith) v (d.panAt p) = some (c, st) → Takes (.vadd p v) d (d.panFault p c st))
    ∧ (vFault (.lanes vArith) v (d.panAt p) = some (c, st) → Takes (.vsub p v) d (d.panFault p c st))
    ∧ (vFault (.lanes vArith) v (d.panAt p) = some (c, st) → Takes (.vmul p v) d (d.panFault p c st))
    ∧ (vFault (.lanes vArith) v (d.panAt p) = some (c, st) → Takes (.vfma p v) d (d.panFault p c st))
    ∧ (vFault (.lanes vArith) v (d.panAt p) = some (c, st) → Takes (.vabs p v) d (d.panFault p c st))
    ∧ (vFault (.lanes vArith) v (d.panAt p) = some (c, st) → Takes (.vneg p v) d (d.panFault p c st))
    ∧ (vFault (.lanes vArith) v (d.panAt p) = some (c, st) → Takes (.vcpsgn p v) d (d.panFault p c st))
    ∧ (vFault (.lanes vInts) v (d.panAt p) = some (c, st) → Takes (.viadd p v) d (d.panFault p c st))
    ∧ (vFault (.lanes vInts) v (d.panAt p) = some (c, st) → Takes (.visub p v) d (d.panFault p c st))
    ∧ (vFault (.lanes vInts) v (d.panAt p) = some (c, st) → Takes (.vimul p v) d (d.panFault p c st))
    ∧ (vFault (.lanes vInts) v (d.panAt p) = some (c, st) → Takes (.vand p v) d (d.panFault p c st))
    ∧ (vFault (.lanes vInts) v (d.panAt p) = some (c, st) → Takes (.vor p v) d (d.panFault p c st))
    ∧ (vFault (.lanes vInts) v (d.panAt p) = some (c, st) → Takes (.vxor p v) d (d.panFault p c st))
    ∧ (vFault (.lanes vInts) v (d.panAt p) = some (c, st) → Takes (.vsll p v) d (d.panFault p c st))
    ∧ (vFault (.lanes vInts) v (d.panAt p) = some (c, st) → Takes (.vsrl p v) d (d.panFault p c st))
    ∧ (vFault (.lanes vInts) v (d.panAt p) = some (c, st) → Takes (.vsra p v) d (d.panFault p c st))
    ∧ (vFault (.lanes vInts) v (d.panAt p) = some (c, st) → Takes (.vimin p v) d (d.panFault p c st))
    ∧ (vFault (.lanes vInts) v (d.panAt p) = some (c, st) → Takes (.vimax p v) d (d.panFault p c st))
    ∧ (vFault (.cmp) v (d.panAt p) = some (c, st) → Takes (.vcmpeq p v) d (d.panFault p c st))
    ∧ (vFault (.cmp) v (d.panAt p) = some (c, st) → Takes (.vcmplt p v) d (d.panFault p c st))
    ∧ (vFault (.cmp) v (d.panAt p) = some (c, st) → Takes (.vcmple p v) d (d.panFault p c st))
    ∧ (vFault (.cvt) v (d.panAt p) = some (c, st) → Takes (.vcvt p v) d (d.panFault p c st))
    ∧ (vFault (.perm) v (d.panAt p) = some (c, st) → Takes (.vperm p v) d (d.panFault p c st))
    ∧ (vFault (.lrd) v (d.panAt p) = some (c, st) → Takes (.vlrd p v) d (d.panFault p c st))
    ∧ (vFault (.lxrd) v (d.panAt p) = some (c, st) → Takes (.vlxrd p v) d (d.panFault p c st))
    ∧ (vFault (.lpadd) v (d.panAt p) = some (c, st) → Takes (.vlpadd p v) d (d.panFault p c st))
    ∧ (vFault (.fence) v (d.panAt p) = some (c, st) → Takes (.vfence p v) d (d.panFault p c st))
    ∧ (vFault (.zbc) v (d.panAt p) = some (c, st) → Takes (.vzbc p v) d (d.panFault p c st))
    ∧ (vFault (.lanes vTypes) v (d.panAt p) = some (c, st) → Takes (.vst p v hit) d (d.panFault p c st))
    ∧ (vFault (.lanes vTypes) v (d.panAt p) = some (c, st) → Takes (.vld p v hit) d (d.panFault p c st))
    ∧ (vFault (.lanes [.int32, .int16]) v (d.panAt p) = some (c, st) → Takes (.viota p v) d (d.panFault p c st))
    ∧ (vFault (.lanes vTypes) v (d.panAt p) = some (c, st) → Takes (.vbcast p v) d (d.panFault p c st))
    ∧ (vFault (.lanes vTypes) v (d.panAt p) = some (c, st) → Takes (.vsegsum p v) d (d.panFault p c st))
    ∧ (vFault (.lanes vTypes) v (d.panAt p) = some (c, st) → Takes (.vsegmax p v) d (d.panFault p c st))
    ∧ (vFault (.lanes vTypes) v (d.panAt p) = some (c, st) → Takes (.vsegmin p v) d (d.panFault p c st))
    ∧ (vFault (.lanes vTypes) v (d.panAt p) = some (c, st) → Takes (.vslidedn p v) d (d.panFault p c st))
    ∧ (vFault (.lanes vTypes) v (d.panAt p) = some (c, st) → Takes (.vslideup p v) d (d.panFault p c st))
    ∧ (vFault (.lanes vTypes) v (d.panAt p) = some (c, st) → Takes (.vrev p v) d (d.panFault p c st))
    ∧ (vFault (.lanes vArith) v (d.panAt p) = some (c, st) → Takes (.vexp2 p v) d (d.panFault p c st))
    ∧ (vFault (.lanes vArith) v (d.panAt p) = some (c, st) → Takes (.vlog2 p v) d (d.panFault p c st))
    ∧ (vFault (.lanes vArith) v (d.panAt p) = some (c, st) → Takes (.vrcp p v) d (d.panFault p c st))
    ∧ (vFault (.lanes vArith) v (d.panAt p) = some (c, st) → Takes (.vrsqrt p v) d (d.panFault p c st))
    ∧ (vFault (.lanes vArith) v (d.panAt p) = some (c, st) → Takes (.vsqrt p v) d (d.panFault p c st))
    ∧ (vFault (.lanes vArith) v (d.panAt p) = some (c, st) → Takes (.vtanh p v) d (d.panFault p c st))
    ∧ (vFault (.lanes vArith) v (d.panAt p) = some (c, st) → Takes (.vsigm p v) d (d.panFault p c st))
    ∧ (vFault (.lanes vArith) v (d.panAt p) = some (c, st) → Takes (.vgelu p v) d (d.panFault p c st))

/-- For every pan, register r below 32, format and codes that fit the register: after the codes are written from element 0, element i reads as code i
modulo 2 to its width; every byte of another register, and every byte of r past the packed bytes of the codes, is as before. -/
def Obligations.VectorRegisterReadBack : Prop :=
  (∀ (q : Pan) (r : Nat) (f : Fmt) (cs : List Nat) (i : Nat), packedBytes f cs.length ≤ 16384 → i < cs.length →
      (q.vwrite r f cs).velem r f i = nthD 0 cs i % 2 ^ f.width)
  ∧ (∀ (q : Pan) (r s b : Nat) (f : Fmt) (cs : List Nat), packedBytes f cs.length ≤ 16384 → b < 16384 → (s ≠ r ∨ packedBytes f cs.length ≤ b) →
      bmGet (q.vwrite r f cs).vec.regs (vKey s b) = bmGet q.vec.regs (vKey s b))

/-- Where the core takes instructions: FSET sets the named flag and FCLR clears it; FWAIT with the flag set goes on, and FWAITC then clears it, either
starting a new segment at the next instruction; with the flag clear both change nothing, so the core waits; FTEST writes the flag to rd. A cleared
flag that is the LOCAL_FLAG of a chain of the job lets that chain forward again (13 R366). Each that goes on moves the pc 4 bytes and changes nothing
else. -/
def Obligations.FlagInstructions : Prop :=
  (∀ (p : Fin 64) (flag : Nat) (d : Device), CoreTakes d p →
      Takes (.fset p flag) d (d.updPan p (fun q => ((q.setFlag flag).setPc (q.pc + 4)).logStep)))
  ∧ (∀ (p : Fin 64) (flag : Nat) (d : Device), CoreTakes d p →
      Takes (.fclr p flag) d ((d.unflag p flag).updPan p (fun q => (q.setPc (q.pc + 4)).logStep)))
  ∧ (∀ (p : Fin 64) (flag : Nat) (d : Device), CoreTakes d p → (d.panAt p).flag flag = true →
      Takes (.fwait p flag) d (d.updPan p (fun q => q.newSegment.setPc (q.pc + 4))))
  ∧ (∀ (p : Fin 64) (flag : Nat) (d : Device), CoreTakes d p → (d.panAt p).flag flag = false → Takes (.fwait p flag) d d)
  ∧ (∀ (p : Fin 64) (flag : Nat) (d : Device), CoreTakes d p → (d.panAt p).flag flag = true →
      Takes (.fwaitc p flag) d ((d.unflag p flag).updPan p (fun q => q.newSegment.setPc (q.pc + 4))))
  ∧ (∀ (p : Fin 64) (flag : Nat) (d : Device), CoreTakes d p → (d.panAt p).flag flag = false → Takes (.fwaitc p flag) d d)
  ∧ (∀ (p : Fin 64) (rd flag : Nat) (d : Device), CoreTakes d p →
      Takes (.ftest p rd flag) d (d.updPan p (fun q => ((q.setX rd (b2n (q.flag flag))).setPc (q.pc + 4)).logStep)))

/-- For every pan and flags f and g below 64: after a set of f, flag g reads set if g = f and as before otherwise; after a clear of f, flag g reads clear
if g = f and as before otherwise. -/
def Obligations.FlagsSetAndCleared : Prop :=
  ∀ (q : Pan) (f g : Nat), f < 64 → g < 64 →
    (q.setFlag f).flag g = (decide (g = f) || q.flag g) ∧ (q.clearFlag f).flag g = (!decide (g = f) && q.flag g)

/-- Where the core takes instructions and x[rs1] is a 32-byte aligned address of core data memory or of the pan-store window with no granule held: MXD
with fewer than eight descriptors queued appends the eight words with the capture selection in force, and CPY with fewer than eight copies of this pan
outstanding, room in the Terrace queue and no earlier issuer waiting for it appends a command under the next identifier, each with the next place in
the device's order of issue; the pc moves 4 bytes on. With eight outstanding each changes nothing, and a CPY that finds no room waits behind the
issuers before it. A misaligned address halts the core with ALIGN, one that names no such memory with ACCESS. While a granule of the words is held
both wait, and a parity hit in them is counted and holds its granule. -/
def Obligations.PanExtensionIssue : Prop :=
  (∀ (p : Fin 64) (rs1 : Nat) (ws : List Nat) (d : Device), CoreTakes d p → issueWords d p ((d.panAt p).xreg rs1) = some (.ok ws) →
    (d.panAt p).arr.queue.length < 8 →
      Takes (.mxd p rs1 none) d (d.issue.2.updPan p (fun q =>
        (({ q with arr := { q.arr with queue := q.arr.queue ++ [{ words := ws, seq := d.issued, amax := q.sel }] } } : Pan).setPc (q.pc + 4)).logStep)))
  ∧ (∀ (p : Fin 64) (rs1 : Nat) (ws : List Nat) (d : Device), CoreTakes d p → issueWords d p ((d.panAt p).xreg rs1) = some (.ok ws) →
    8 ≤ (d.panAt p).arr.queue.length → Takes (.mxd p rs1 none) d d)
  ∧ (∀ (p : Fin 64) (rs1 : Nat) (hit : Option Nat) (d : Device), CoreTakes d p → (d.panAt p).xreg rs1 % 32 ≠ 0 →
      Takes (.mxd p rs1 hit) d (d.panFault p .align stAlign) ∧ Takes (.cpy p rs1 hit) d (d.panFault p .align stAlign))
  ∧ (∀ (p : Fin 64) (rs1 : Nat) (hit : Option Nat) (d : Device), CoreTakes d p → issueWords d p ((d.panAt p).xreg rs1) = some (.error .access) →
      Takes (.mxd p rs1 hit) d (d.panFault p .access stAddress) ∧ Takes (.cpy p rs1 hit) d (d.panFault p .access stAddress))
  ∧ (∀ (p : Fin 64) (rs1 : Nat) (hit : Option Nat) (d : Device), CoreTakes d p → issueWords d p ((d.panAt p).xreg rs1) = none →
      Takes (.mxd p rs1 hit) d d ∧ Takes (.cpy p rs1 hit) d d)
  ∧ (∀ (p : Fin 64) (rs1 a : Nat) (ws : List Nat) (d : Device), CoreTakes d p → issueWords d p ((d.panAt p).xreg rs1) = some (.ok ws) →
    issueWords (parityHit d p a) p ((d.panAt p).xreg rs1) = none →
    ((d.panAt p).arr.queue.length < 8 ∧ copiesOf d p < 8 ∧ (d.engAt (p / 16)).mayQueue (.pan p) (((d.panAt p).job.map Prod.fst).getD 16) = true) →
      Takes (.mxd p rs1 (some a)) d (parityHit d p a) ∧ Takes (.cpy p rs1 (some a)) d (parityHit d p a))
  ∧ (∀ (p : Fin 64) (rs1 : Nat) (ws : List Nat) (d : Device), CoreTakes d p → issueWords d p ((d.panAt p).xreg rs1) = some (.ok ws) →
    copiesOf d p < 8 → (d.engAt (p / 16)).mayQueue (.pan p) (((d.panAt p).job.map Prod.fst).getD 16) = true →
      Takes (.cpy p rs1 none) d ((d.issue.2.updEng (p / 16) (fun e => { e with
        copies := e.copies ++ [{ id := nextCopyId e, words := ws, issuer := .pan p, seq := d.issued, job := (((d.panAt p).job.map Prod.fst).getD 16) }]
        waiters := e.waiters.filter (· != (.pan p, (((d.panAt p).job.map Prod.fst).getD 16))) })).updPan p (fun q => (q.setPc (q.pc + 4)).logStep)))
  ∧ (∀ (p : Fin 64) (rs1 : Nat) (ws : List Nat) (d : Device), CoreTakes d p → issueWords d p ((d.panAt p).xreg rs1) = some (.ok ws) →
    8 ≤ copiesOf d p → Takes (.cpy p rs1 none) d d)
  ∧ (∀ (p : Fin 64) (rs1 : Nat) (ws : List Nat) (d : Device), CoreTakes d p → issueWords d p ((d.panAt p).xreg rs1) = some (.ok ws) →
    copiesOf d p < 8 → (d.engAt (p / 16)).mayQueue (.pan p) (((d.panAt p).job.map Prod.fst).getD 16) = false →
      Takes (.cpy p rs1 none) d (d.updEng (p / 16) (fun e => e.await (.pan p) (((d.panAt p).job.map Prod.fst).getD 16))))

/-- Where the core takes instructions: FSETR sets the flag in the logical pan of the job (user mode) or the device pan (machine mode) that x[rs1] names,
or halts with RANGE when it names none; SETVL in machine mode with a width code of 0 to 2 sets VLEN and rd to the lesser of x[rs1] and the limit of
that width, and otherwise halts with ILLEGAL; PDONE with status 0 ends the program, after which the stages of its job's step may be complete, and with
another status halts with PROGRAM and that status; BSUM adds its offset to the pc when its condition on the summary registers holds, else 4, and halts
with ILLEGAL on a reserved condition code. -/
def Obligations.PanExtensionControl : Prop :=
  (∀ (p : Fin 64) (rs1 flag t : Nat) (d : Device), CoreTakes d p → fsetrTarget d p ((d.panAt p).xreg rs1) = some t →
      Takes (.fsetr p rs1 flag) d ((d.updPan t (fun q => q.setFlag flag)).updPan p (fun q => (q.setPc (q.pc + 4)).logStep)))
  ∧ (∀ (p : Fin 64) (rs1 flag : Nat) (d : Device), CoreTakes d p → fsetrTarget d p ((d.panAt p).xreg rs1) = none →
      Takes (.fsetr p rs1 flag) d (d.panFault p .range stRange))
  ∧ (∀ (p : Fin 64) (rd rs1 width : Nat) (d : Device), CoreTakes d p → (d.panAt p).core.machine = true → width ≤ 2 →
      Takes (.setvl p rd rs1 width) d (d.updPan p (fun q =>
        let n := min (q.xreg rs1) (vLimit (8 * 2 ^ width))
        ((({ q with vec := { q.vec with vlen := n } } : Pan).setX rd n).setPc (q.pc + 4)).logStep)))
  ∧ (∀ (p : Fin 64) (rd rs1 width : Nat) (d : Device), CoreTakes d p → ((d.panAt p).core.machine = false ∨ 2 < width) →
      Takes (.setvl p rd rs1 width) d (d.panFault p .illegal stReserved))
  ∧ (∀ (p : Fin 64) (rs1 : Nat) (d : Device), CoreTakes d p → (d.panAt p).xreg rs1 % 65536 = 0 →
      Takes (.pdone p rs1) d (afterPdone p (d.updPan p (fun q =>
        (({ q with core := { q.core with done := some 0, running := false } } : Pan).setPc (q.pc + 4)).logStep))))
  ∧ (∀ (p : Fin 64) (rs1 : Nat) (d : Device), CoreTakes d p → (d.panAt p).xreg rs1 % 65536 ≠ 0 →
      Takes (.pdone p rs1) d (afterPdone p (d.panFault p .program ((d.panAt p).xreg rs1 % 65536))))
  ∧ (∀ (p : Fin 64) (cond : Nat) (off : Int) (d : Device), CoreTakes d p → cond ≤ 5 →
      let s := (d.panAt p).vec.vsum
      let taken := match cond with
        | 0 => s.allZero | 1 => !s.allZero | 2 => s.nan != 0 | 3 => s.nan == 0
        | 4 => s.fp && ((fp32V s.sum).isNan || (fp32V s.sum).isInf) | _ => (d.panAt p).vec.index
      Takes (.bsum p cond off) d (d.updPan p (fun q => (q.setPc (ofSigned 64 ((q.pc : Int) + (if taken then off else 4)))).logStep)))
  ∧ (∀ (p : Fin 64) (cond : Nat) (off : Int) (d : Device), CoreTakes d p → 5 < cond → Takes (.bsum p cond off) d (d.panFault p .illegal stReserved))

/-- Where the core takes instructions and the instruction memory holds at the pc the word of the RISC-V base encoding (the base set is taken from the
RISC-V specification, log entry 14) of ADD or SUB, rd becomes the sum or difference modulo 2^64; of ADDI, rs1 plus the sign-extended immediate; of
BEQ, the pc moves by the offset when the registers are equal, else by 4; of JAL, rd becomes pc + 4 and the pc moves by the offset. ECALL halts the
core with ILLEGAL. A parity hit halts it with RECOVER whatever the word. The pc of ADD, SUB and ADDI moves 4 bytes on, and nothing else of the device
changes. -/
def Obligations.PanCoreInstructions : Prop :=
  (∀ (p : Fin 64) (rd rs1 rs2 : Nat) (d : Device), CoreTakes d p → (d.panAt p).droopSkip = 0 → (d.panAt p).pc + 4 ≤ 0x20000 →
    (rd < 32 ∧ rs1 < 32 ∧ rs2 < 32) → ofLE (bmRead (d.panAt p).core.imem (d.panAt p).pc 4) = encR 0 rs2 rs1 0 rd 0x33 → (d.panAt p).core.done = none →
      Takes (.panCoreInstruction p false none) d (d.updPan p (fun q =>
        ((q.setX rd ((q.xreg rs1 + q.xreg rs2) % 2 ^ 64)).setPc (q.pc + 4)).logStep)))
  ∧ (∀ (p : Fin 64) (rd rs1 rs2 : Nat) (d : Device), CoreTakes d p → (d.panAt p).droopSkip = 0 → (d.panAt p).pc + 4 ≤ 0x20000 →
    (rd < 32 ∧ rs1 < 32 ∧ rs2 < 32) → ofLE (bmRead (d.panAt p).core.imem (d.panAt p).pc 4) = encR 32 rs2 rs1 0 rd 0x33 →
    (d.panAt p).core.done = none →
      Takes (.panCoreInstruction p false none) d (d.updPan p (fun q =>
        ((q.setX rd ((q.xreg rs1 + 2 ^ 64 - q.xreg rs2) % 2 ^ 64)).setPc (q.pc + 4)).logStep)))
  ∧ (∀ (p : Fin 64) (rd rs1 : Nat) (imm : Int) (d : Device), CoreTakes d p → (d.panAt p).droopSkip = 0 → (d.panAt p).pc + 4 ≤ 0x20000 →
    (rd < 32 ∧ rs1 < 32 ∧ -2048 ≤ imm ∧ imm < 2048) → ofLE (bmRead (d.panAt p).core.imem (d.panAt p).pc 4) = encI imm rs1 0 rd 0x13 →
    (d.panAt p).core.done = none →
      Takes (.panCoreInstruction p false none) d (d.updPan p (fun q =>
        ((q.setX rd (ofSigned 64 ((q.xreg rs1 : Int) + imm))).setPc (q.pc + 4)).logStep)))
  ∧ (∀ (p : Fin 64) (rs1 rs2 : Nat) (off : Int) (d : Device), CoreTakes d p → (d.panAt p).droopSkip = 0 → (d.panAt p).pc + 4 ≤ 0x20000 →
    (rs1 < 32 ∧ rs2 < 32 ∧ -4096 ≤ off ∧ off < 4096 ∧ off % 2 = 0) → ofLE (bmRead (d.panAt p).core.imem (d.panAt p).pc 4) = encB off rs2 rs1 0 →
    (d.panAt p).core.done = none →
      Takes (.panCoreInstruction p false none) d (d.updPan p (fun q =>
        (q.setPc (if q.xreg rs1 = q.xreg rs2 then ofSigned 64 ((q.pc : Int) + off) else q.pc + 4)).logStep)))
  ∧ (∀ (p : Fin 64) (rd : Nat) (off : Int) (d : Device), CoreTakes d p → (d.panAt p).droopSkip = 0 → (d.panAt p).pc + 4 ≤ 0x20000 →
    (rd < 32 ∧ -1048576 ≤ off ∧ off < 1048576 ∧ off % 2 = 0) → ofLE (bmRead (d.panAt p).core.imem (d.panAt p).pc 4) = encJ off rd →
    (d.panAt p).core.done = none →
      Takes (.panCoreInstruction p false none) d (d.updPan p (fun q =>
        ((q.setX rd (q.pc + 4)).setPc (ofSigned 64 ((q.pc : Int) + off))).logStep)))
  ∧ (∀ (p : Fin 64) (d : Device), CoreTakes d p → (d.panAt p).droopSkip = 0 → (d.panAt p).pc + 4 ≤ 0x20000 →
    ofLE (bmRead (d.panAt p).core.imem (d.panAt p).pc 4) = 0x73 →
      Takes (.panCoreInstruction p false none) d (afterPdone p (d.panFault p .illegal stReserved)))
  ∧ (∀ (p : Fin 64) (d : Device), coreReady d p = true → (d.panAt p).droopSkip = 0 →
      Takes (.panCoreInstruction p true none) d (afterPdone p (d.panFault p .recover 0)))

/-- SEGMENT_RERUN on a pan that is on and halted with RECOVER with fewer than three hits of its segment ends the halt with the pc, the core and vector
registers and the capture selection as at the segment's start, and none of its instructions passed again yet; nothing else changes. An instruction
that such a re-run passes again leaves pc and registers as it left them first and has no other effect (05 R170: as if the fault had not occurred; log
entry 16). On a pan that is not on, not halted, halted with another cause or with three hits it changes nothing. PAN_QUARANTINE on a pan that is on
and has three consecutive residue mismatches or three hits of one segment quarantines the pan; on a pan that is not on, or below three of each, it
changes nothing. -/
def Obligations.SegmentRerunAndQuarantine : Prop :=
  (∀ (p : Fin 64) (h : Halt) (d : Device), (d.panAt p).core.halt = some h → h.cause = .recover → (d.panAt p).core.hits < 3 → d.panOn p = true →
      Takes (.segmentRerun p) d (d.updPan p (fun q => { q with
        vec := q.segVec, sel := q.segSel
        core := { q.core with halt := none, pc := q.core.segStart, x := q.core.segX, done := none, running := true, met := 0 } })))
  ∧ (∀ (p : Fin 64) (v : VInsn) (x : CoreStep) (rd rs1 k : Nat) (off : Int) (hit : Option Nat) (d : Device), coreReady d p = true →
    (d.panAt p).droopSkip = 0 → (d.panAt p).core.trace[(d.panAt p).core.met]? = some x →
      (∀ c ∈ [.vmov p v, .vsel p v, .vmin p v, .vmax p v, .vadd p v, .vsub p v, .vmul p v, .vfma p v, .vabs p v, .vneg p v, .vcpsgn p v, .viadd p v, .visub p v, .vimul p v, .vand p v, .vor p v, .vxor p v, .vsll p v, .vsrl p v, .vsra p v, .vimin p v, .vimax p v, .vcmpeq p v, .vcmplt p v, .vcmple p v, .vcvt p v, .vperm p v, .vlrd p v, .vlxrd p v, .vlpadd p v, .vfence p v, .vzbc p v, .vst p v hit, .vld p v hit, .viota p v, .vbcast p v, .vsegsum p v, .vsegmax p v, .vsegmin p v, .vslidedn p v, .vslideup p v, .vrev p v, .vexp2 p v, .vlog2 p v, .vrcp p v, .vrsqrt p v, .vsqrt p v, .vtanh p v, .vsigm p v, .vgelu p v,
          .mxd p rs1 hit, .cpy p rs1 hit, .fset p k, .fclr p k, .fwait p k, .fwaitc p k, .ftest p rd k, .fsetr p rs1 k, .setvl p rd rs1 k, .bsum p k off],
          Takes c d (d.updPan p (fun q => q.takeStep x)))
        ∧ Takes (.pdone p rs1) d (afterPdone p (d.updPan p (fun q => q.takeStep x)))
        ∧ Takes (.panCoreInstruction p false hit) d (afterPdone p (d.updPan p (fun q => q.takeStep x))))
  ∧ (∀ (p : Fin 64) (d : Device), (d.panAt p).core.halt = none → Takes (.segmentRerun p) d d)
  ∧ (∀ (p : Fin 64) (h : Halt) (d : Device), (d.panAt p).core.halt = some h → (h.cause ≠ .recover ∨ 3 ≤ (d.panAt p).core.hits ∨ d.panOn p = false) →
      Takes (.segmentRerun p) d d)
  ∧ (∀ (p : Fin 64) (d : Device), d.panOn p = true → (3 ≤ (d.panAt p).arr.consec ∨ 3 ≤ (d.panAt p).core.hits) →
      Takes (.panQuarantine p) d (d.quarantine p))
  ∧ (∀ (p : Fin 64) (d : Device), (((d.panAt p).arr.consec < 3 ∧ (d.panAt p).core.hits < 3) ∨ d.panOn p = false) → Takes (.panQuarantine p) d d)

/-- For a pan that is on with a descriptor waiting at the head of its queue, of OP CONV for CONV and of OP MATMUL or a reserved OP for MATMUL, outside a
re-run of its segment and with nothing held that the start reads: if its checks give a status other than 0 it is rejected with that status; if they
pass and its wait is not met nothing changes; if they pass and the wait is met it is done with status 0 when M is 0, rejected with the heritage-order
status when an entry breaks the heritage order, and otherwise its entries are cleared under CLR and put in heritage mode where asked, its tile is
loaded without WKEEP (a flushed weight sets FLUSH), and its passes begin at row 0. A parity hit in what the start reads is counted and holds its
granule. While a granule of it is held, with a parity hit that lies elsewhere, with no such descriptor waiting at the head, or in a re-run of the
segment, neither command changes anything. For a pan that is on whose head MATMUL or CONV descriptor has passes left, with the array issuing, fewer
than three mismatches in a row and the halo tags of its row present: with nothing held that the row reads, PASS with a good residue leaves the pan as
the pass of that row leaves it, with the row done, the tile in the array and the run of mismatches ended; with a bad residue it promotes nothing and
counts one mismatch (once for each attempt: the model's choice, log entry 39). A parity hit in what the row reads is counted and holds its granule.
While a granule of it is held, with a hit that lies elsewhere, and whenever one of those conditions is not met, PASS changes nothing. -/
def Obligations.MatrixDescriptorAndPasses : Prop :=
  (∀ (p : Fin 64) (q : Desc) (d : Device), d.headOn p = some q → q.phase = .waiting →
    ((mxd q.words).op = 1 ∨ (mxd q.words).op = 0 ∨ 4 < (mxd q.words).op) → (d.panAt p).rerunning = false →
    ((startSpans d p (mxd q.words) (mxd q.words).tile).any (fun s => (d.panAt p).holds s.1 s.2) = false) →
    matmulChecks d p (mxd q.words) (d.panAt p).arr.tile ≠ 0 →
      Takes (.matmul p none) d (d.updPan p (fun r => r.rejectHead q (matmulChecks d p (mxd q.words) (d.panAt p).arr.tile))))
  ∧ (∀ (p : Fin 64) (q : Desc) (d : Device), d.headOn p = some q → q.phase = .waiting →
    ((mxd q.words).op = 1 ∨ (mxd q.words).op = 0 ∨ 4 < (mxd q.words).op) → (d.panAt p).rerunning = false →
    ((startSpans d p (mxd q.words) (mxd q.words).tile).any (fun s => (d.panAt p).holds s.1 s.2) = false) →
    matmulChecks d p (mxd q.words) (d.panAt p).arr.tile = 0 → (mxd q.words).ready (d.panAt p) = false → Takes (.matmul p none) d d)
  ∧ (∀ (p : Fin 64) (q : Desc) (d : Device), d.headOn p = some q → q.phase = .waiting →
    ((mxd q.words).op = 1 ∨ (mxd q.words).op = 0 ∨ 4 < (mxd q.words).op) → (d.panAt p).rerunning = false →
    ((startSpans d p (mxd q.words) (mxd q.words).tile).any (fun s => (d.panAt p).holds s.1 s.2) = false) →
    matmulChecks d p (mxd q.words) (d.panAt p).arr.tile = 0 → (mxd q.words).ready (d.panAt p) = true → (mxd q.words).m ≠ 0 →
    heritageBad (d.panAt p) (mxd q.words) = false →
      Takes (.matmul p none) d (d.updPan p (fun r =>
        let a := (if (mxd q.words).clr then r.clearRows (mxd q.words).lbase (mxd q.words).m else r).makeHeritage (mxd q.words)
        let b : Pan := if (mxd q.words).wkeep then { a with arr := { a.arr with tileValid := true } } else
          { a.raise (.fl (tileFlushes d p (mxd q.words) (mxd q.words).tile)) with arr := { a.arr with tile := some (mxd q.words).tile, tileValid := true } }
        b.setHead { q with phase := .passes, row := 0 })))
  ∧ (∀ (p : Fin 64) (q : Desc) (d : Device), d.headOn p = some q → q.phase = .waiting →
    ((mxd q.words).op = 1 ∨ (mxd q.words).op = 0 ∨ 4 < (mxd q.words).op) → (d.panAt p).rerunning = false →
    ((startSpans d p (mxd q.words) (mxd q.words).tile).any (fun s => (d.panAt p).holds s.1 s.2) = false) →
    matmulChecks d p (mxd q.words) (d.panAt p).arr.tile = 0 → (mxd q.words).ready (d.panAt p) = true → (mxd q.words).m = 0 →
      Takes (.matmul p none) d (d.updPan p (fun r => r.rejectHead q stOk)))
  ∧ (∀ (p : Fin 64) (q : Desc) (d : Device), d.headOn p = some q → q.phase = .waiting →
    ((mxd q.words).op = 1 ∨ (mxd q.words).op = 0 ∨ 4 < (mxd q.words).op) → (d.panAt p).rerunning = false →
    ((startSpans d p (mxd q.words) (mxd q.words).tile).any (fun s => (d.panAt p).holds s.1 s.2) = false) →
    matmulChecks d p (mxd q.words) (d.panAt p).arr.tile = 0 → (mxd q.words).ready (d.panAt p) = true → (mxd q.words).m ≠ 0 →
    heritageBad (d.panAt p) (mxd q.words) = true → Takes (.matmul p none) d (d.updPan p (fun r => r.rejectHead q stHeritageOrder)))
  ∧ (∀ (p : Fin 64) (hit : Option Nat) (d : Device),
    (∀ q, d.headOn p = some q → ¬((mxd q.words).op = 1 ∨ (mxd q.words).op = 0 ∨ 4 < (mxd q.words).op) ∨ q.phase ≠ .waiting ∨ (d.panAt p).rerunning = true) →
      Takes (.matmul p hit) d d)
  ∧ (∀ (p : Fin 64) (q : Desc) (a : Nat) (d : Device), d.headOn p = some q → q.phase = .waiting →
    ((mxd q.words).op = 1 ∨ (mxd q.words).op = 0 ∨ 4 < (mxd q.words).op) → (d.panAt p).rerunning = false →
    ((startSpans d p (mxd q.words) (mxd q.words).tile).any (fun s => (d.panAt p).holds s.1 s.2) = false) →
    (startSpans d p (mxd q.words) (mxd q.words).tile).any (inSpan a) = true → Takes (.matmul p (some a)) d (parityHit d p a))
  ∧ (∀ (p : Fin 64) (q : Desc) (hit : Option Nat) (d : Device), d.headOn p = some q → q.phase = .waiting →
    ((mxd q.words).op = 1 ∨ (mxd q.words).op = 0 ∨ 4 < (mxd q.words).op) → (d.panAt p).rerunning = false →
    ((startSpans d p (mxd q.words) (mxd q.words).tile).any (fun s => (d.panAt p).holds s.1 s.2) = true ∨ (∃ a, hit = some a ∧ (startSpans d p (mxd q.words) (mxd q.words).tile).any (inSpan a) = false)) →
      Takes (.matmul p hit) d d)
  ∧ (∀ (p : Fin 64) (q : Desc) (d : Device), d.headOn p = some q → q.phase = .waiting → (mxd q.words).op = 2 → (d.panAt p).rerunning = false →
    ((startSpans d p (mxd q.words) (mxd q.words).tile).any (fun s => (d.panAt p).holds s.1 s.2) = false) →
    convChecks d p (mxd q.words) (d.panAt p).arr.tile ≠ 0 →
      Takes (.conv p none) d (d.updPan p (fun r => r.rejectHead q (convChecks d p (mxd q.words) (d.panAt p).arr.tile))))
  ∧ (∀ (p : Fin 64) (q : Desc) (d : Device), d.headOn p = some q → q.phase = .waiting → (mxd q.words).op = 2 → (d.panAt p).rerunning = false →
    ((startSpans d p (mxd q.words) (mxd q.words).tile).any (fun s => (d.panAt p).holds s.1 s.2) = false) →
    convChecks d p (mxd q.words) (d.panAt p).arr.tile = 0 → (mxd q.words).ready (d.panAt p) = false → Takes (.conv p none) d d)
  ∧ (∀ (p : Fin 64) (q : Desc) (d : Device), d.headOn p = some q → q.phase = .waiting → (mxd q.words).op = 2 → (d.panAt p).rerunning = false →
    ((startSpans d p (mxd q.words) (mxd q.words).tile).any (fun s => (d.panAt p).holds s.1 s.2) = false) →
    convChecks d p (mxd q.words) (d.panAt p).arr.tile = 0 → (mxd q.words).ready (d.panAt p) = true → (mxd q.words).m ≠ 0 →
    heritageBad (d.panAt p) (mxd q.words) = false →
      Takes (.conv p none) d (d.updPan p (fun r =>
        let a := (if (mxd q.words).clr then r.clearRows (mxd q.words).lbase (mxd q.words).m else r).makeHeritage (mxd q.words)
        let b : Pan := if (mxd q.words).wkeep then { a with arr := { a.arr with tileValid := true } } else
          { a.raise (.fl (tileFlushes d p (mxd q.words) (mxd q.words).tile)) with arr := { a.arr with tile := some (mxd q.words).tile, tileValid := true } }
        b.setHead { q with phase := .passes, row := 0 })))
  ∧ (∀ (p : Fin 64) (q : Desc) (d : Device), d.headOn p = some q → q.phase = .waiting → (mxd q.words).op = 2 → (d.panAt p).rerunning = false →
    ((startSpans d p (mxd q.words) (mxd q.words).tile).any (fun s => (d.panAt p).holds s.1 s.2) = false) →
    convChecks d p (mxd q.words) (d.panAt p).arr.tile = 0 → (mxd q.words).ready (d.panAt p) = true → (mxd q.words).m = 0 →
      Takes (.conv p none) d (d.updPan p (fun r => r.rejectHead q stOk)))
  ∧ (∀ (p : Fin 64) (q : Desc) (d : Device), d.headOn p = some q → q.phase = .waiting → (mxd q.words).op = 2 → (d.panAt p).rerunning = false →
    ((startSpans d p (mxd q.words) (mxd q.words).tile).any (fun s => (d.panAt p).holds s.1 s.2) = false) →
    convChecks d p (mxd q.words) (d.panAt p).arr.tile = 0 → (mxd q.words).ready (d.panAt p) = true → (mxd q.words).m ≠ 0 →
    heritageBad (d.panAt p) (mxd q.words) = true → Takes (.conv p none) d (d.updPan p (fun r => r.rejectHead q stHeritageOrder)))
  ∧ (∀ (p : Fin 64) (hit : Option Nat) (d : Device),
    (∀ q, d.headOn p = some q → ¬((mxd q.words).op = 2) ∨ q.phase ≠ .waiting ∨ (d.panAt p).rerunning = true) → Takes (.conv p hit) d d)
  ∧ (∀ (p : Fin 64) (q : Desc) (a : Nat) (d : Device), d.headOn p = some q → q.phase = .waiting → (mxd q.words).op = 2 →
    (d.panAt p).rerunning = false → ((startSpans d p (mxd q.words) (mxd q.words).tile).any (fun s => (d.panAt p).holds s.1 s.2) = false) →
    (startSpans d p (mxd q.words) (mxd q.words).tile).any (inSpan a) = true → Takes (.conv p (some a)) d (parityHit d p a))
  ∧ (∀ (p : Fin 64) (q : Desc) (hit : Option Nat) (d : Device), d.headOn p = some q → q.phase = .waiting → (mxd q.words).op = 2 →
    (d.panAt p).rerunning = false →
    ((startSpans d p (mxd q.words) (mxd q.words).tile).any (fun s => (d.panAt p).holds s.1 s.2) = true ∨ (∃ a, hit = some a ∧ (startSpans d p (mxd q.words) (mxd q.words).tile).any (inSpan a) = false)) →
      Takes (.conv p hit) d d)
  ∧ (∀ (p : Fin 64) (q : Desc) (d : Device), d.headOn p = some q → q.passesLeft = true → ((mxd q.words).op = 1 ∨ (mxd q.words).op = 2) →
    d.arrayIssues p = true → (d.panAt p).arr.consec < 3 → haloReady d p (mxd q.words) q.row = true →
    ((passSpans d p (mxd q.words) ((d.panAt p).arr.tile.getD (mxd q.words).tile) q.row).any (fun s => (d.panAt p).holds s.1 s.2) = false) →
      Takes (.pass p false none) d (d.updPan p (fun _ =>
        let r := (passRow d p (mxd q.words) ((d.panAt p).arr.tile.getD (mxd q.words).tile) q.row).setHead { q with row := q.row + 1 }
        { r with arr := { r.arr with consec := 0, tileValid := true } })))
  ∧ (∀ (p : Fin 64) (q : Desc) (d : Device), d.headOn p = some q → q.passesLeft = true → ((mxd q.words).op = 1 ∨ (mxd q.words).op = 2) →
    d.arrayIssues p = true → (d.panAt p).arr.consec < 3 → haloReady d p (mxd q.words) q.row = true →
    ((passSpans d p (mxd q.words) ((d.panAt p).arr.tile.getD (mxd q.words).tile) q.row).any (fun s => (d.panAt p).holds s.1 s.2) = false) →
      Takes (.pass p true none) d (d.updPan p (fun r =>
        { r with arr := { r.arr with consec := r.arr.consec + 1 }, counts := { r.counts with residue := satAdd r.counts.residue 1 } })))
  ∧ (∀ (p : Fin 64) (bad : Bool) (hit : Option Nat) (d : Device),
    (∀ q, d.headOn p = some q → q.passesLeft = false ∨ ¬((mxd q.words).op = 1 ∨ (mxd q.words).op = 2) ∨ d.arrayIssues p = false ∨ 3 ≤ (d.panAt p).arr.consec ∨
      haloReady d p (mxd q.words) q.row = false) →
      Takes (.pass p bad hit) d d)
  ∧ (∀ (p : Fin 64) (q : Desc) (a : Nat) (bad : Bool) (d : Device), d.headOn p = some q → q.passesLeft = true →
    ((mxd q.words).op = 1 ∨ (mxd q.words).op = 2) → d.arrayIssues p = true → (d.panAt p).arr.consec < 3 → haloReady d p (mxd q.words) q.row = true →
    ((passSpans d p (mxd q.words) ((d.panAt p).arr.tile.getD (mxd q.words).tile) q.row).any (fun s => (d.panAt p).holds s.1 s.2) = false) →
    (passSpans d p (mxd q.words) ((d.panAt p).arr.tile.getD (mxd q.words).tile) q.row).any (inSpan a) = true →
      Takes (.pass p bad (some a)) d (parityHit d p a))
  ∧ (∀ (p : Fin 64) (q : Desc) (hit : Option Nat) (bad : Bool) (d : Device), d.headOn p = some q → q.passesLeft = true →
    ((mxd q.words).op = 1 ∨ (mxd q.words).op = 2) → d.arrayIssues p = true → (d.panAt p).arr.consec < 3 → haloReady d p (mxd q.words) q.row = true →
    ((passSpans d p (mxd q.words) ((d.panAt p).arr.tile.getD (mxd q.words).tile) q.row).any (fun s => (d.panAt p).holds s.1 s.2) = true ∨ (∃ a, hit = some a ∧ (passSpans d p (mxd q.words) ((d.panAt p).arr.tile.getD (mxd q.words).tile) q.row).any (inSpan a) = false)) →
      Takes (.pass p bad hit) d d)

/-- For a pan that is on: ENTRY_OP with its descriptor waiting at the head outside a re-run of its segment, with nothing held that it reads, rejects it
with the status of its checks when that is not 0; otherwise, with the wait met and no output granule held, it clears its entries under CLR, writes
them back under WB, clears them again under CLR_AFTER, in that order, and is done with status 0; with the wait not met or an output granule held
nothing changes. WRITE_BACK, once the head descriptor's passes are done and it owes write-back (or the export of its row records), with nothing held
that the finish touches, writes the entries of a MATMUL or CONV row by row and clears them under CLR_AFTER, or finishes an attention descriptor, and
marks it written. For each, a parity hit in what it reads is counted and holds its granule. While a granule of that is held, with a hit that lies
elsewhere, and on any other head or none, neither changes anything. -/
def Obligations.EntryOpAndWriteBack : Prop :=
  (∀ (p : Fin 64) (q : Desc) (d : Device), d.headOn p = some q → q.phase = .waiting → (mxd q.words).op = 4 → (d.panAt p).rerunning = false →
    ((startSpans d p (mxd q.words) (mxd q.words).tile ++ if entryChecks d p (mxd q.words) = 0 ∧ (mxd q.words).wb then wbReads (mxd q.words) else []).any (fun s => (d.panAt p).holds s.1 s.2) = false) →
    entryChecks d p (mxd q.words) ≠ 0 → Takes (.entryOp p none) d (d.updPan p (fun r => r.rejectHead q (entryChecks d p (mxd q.words)))))
  ∧ (∀ (p : Fin 64) (q : Desc) (d : Device), d.headOn p = some q → q.phase = .waiting → (mxd q.words).op = 4 → (d.panAt p).rerunning = false →
    ((startSpans d p (mxd q.words) (mxd q.words).tile ++ if entryChecks d p (mxd q.words) = 0 ∧ (mxd q.words).wb then wbReads (mxd q.words) else []).any (fun s => (d.panAt p).holds s.1 s.2) = false) →
    entryChecks d p (mxd q.words) = 0 → (mxd q.words).ready (d.panAt p) = true →
    ((mxd q.words).wb = false ∨ outputHeld (d.panAt p) (mxd q.words) = false) →
      Takes (.entryOp p none) d (let a := if (mxd q.words).clr then d.updPan p (fun r => r.clearRows (mxd q.words).lbase (mxd q.words).m) else d
        let b := if (mxd q.words).wb then writeBackRows a p (mxd q.words) q.amax else a
        let c := if (mxd q.words).clrAfter then b.updPan p (fun r => r.clearRows (mxd q.words).lbase (mxd q.words).m) else b
        c.updPan p (fun r => r.rejectHead q stOk)))
  ∧ (∀ (p : Fin 64) (q : Desc) (d : Device), d.headOn p = some q → q.phase = .waiting → (mxd q.words).op = 4 → (d.panAt p).rerunning = false →
    ((startSpans d p (mxd q.words) (mxd q.words).tile ++ if entryChecks d p (mxd q.words) = 0 ∧ (mxd q.words).wb then wbReads (mxd q.words) else []).any (fun s => (d.panAt p).holds s.1 s.2) = false) →
    entryChecks d p (mxd q.words) = 0 →
    ((mxd q.words).ready (d.panAt p) = false ∨ ((mxd q.words).wb = true ∧ outputHeld (d.panAt p) (mxd q.words) = true)) → Takes (.entryOp p none) d d)
  ∧ (∀ (p : Fin 64) (hit : Option Nat) (d : Device),
    (∀ q, d.headOn p = some q → (mxd q.words).op ≠ 4 ∨ q.phase ≠ .waiting ∨ (d.panAt p).rerunning = true) → Takes (.entryOp p hit) d d)
  ∧ (∀ (p : Fin 64) (q : Desc) (a : Nat) (d : Device), d.headOn p = some q → q.phase = .waiting → (mxd q.words).op = 4 →
    (d.panAt p).rerunning = false →
    ((startSpans d p (mxd q.words) (mxd q.words).tile ++ if entryChecks d p (mxd q.words) = 0 ∧ (mxd q.words).wb then wbReads (mxd q.words) else []).any (fun s => (d.panAt p).holds s.1 s.2) = false) →
    ((startSpans d p (mxd q.words) (mxd q.words).tile ++ if entryChecks d p (mxd q.words) = 0 ∧ (mxd q.words).wb then wbReads (mxd q.words) else []).any (inSpan a) = true) →
      Takes (.entryOp p (some a)) d (parityHit d p a))
  ∧ (∀ (p : Fin 64) (q : Desc) (hit : Option Nat) (d : Device), d.headOn p = some q → q.phase = .waiting → (mxd q.words).op = 4 →
    (d.panAt p).rerunning = false →
    ((startSpans d p (mxd q.words) (mxd q.words).tile ++ if entryChecks d p (mxd q.words) = 0 ∧ (mxd q.words).wb then wbReads (mxd q.words) else []).any (fun s => (d.panAt p).holds s.1 s.2) = true ∨ (∃ a, hit = some a ∧ (startSpans d p (mxd q.words) (mxd q.words).tile ++ if entryChecks d p (mxd q.words) = 0 ∧ (mxd q.words).wb then wbReads (mxd q.words) else []).any (inSpan a) = false)) →
      Takes (.entryOp p hit) d d)
  ∧ (∀ (p : Fin 64) (q : Desc) (d : Device), d.headOn p = some q → q.passesDone = true → (mxd q.words).op ≠ 3 → (mxd q.words).wb = true →
    ((finishSpans d p (mxd q.words)).any (fun s => (d.panAt p).holds s.1 s.2) = false) →
    (((outSpans (mxd q.words)).map tailWord ++ if (mxd q.words).op = 3 then [((mxd q.words).aux, 32)] else wbReads (mxd q.words)).any (fun s => (d.panAt p).holds s.1 s.2) = false) →
      Takes (.writeBack p none) d ((if (mxd q.words).clrAfter then (writeBackRows d p (mxd q.words) q.amax).updPan p (fun r => r.clearRows (mxd q.words).lbase (mxd q.words).m)
          else writeBackRows d p (mxd q.words) q.amax).updPan p (fun r => r.setHead { q with phase := .written })))
  ∧ (∀ (p : Fin 64) (q : Desc) (d : Device), d.headOn p = some q → q.passesDone = true → (mxd q.words).op = 3 → owesFinish d p (mxd q.words) = true →
    ((finishSpans d p (mxd q.words)).any (fun s => (d.panAt p).holds s.1 s.2) = false) →
    (((outSpans (mxd q.words)).map tailWord ++ if (mxd q.words).op = 3 then [((mxd q.words).aux, 32)] else wbReads (mxd q.words)).any (fun s => (d.panAt p).holds s.1 s.2) = false) →
      Takes (.writeBack p none) d ((attnFinish d p (mxd q.words) q.amax).updPan p (fun r => r.setHead { q with phase := .written })))
  ∧ (∀ (p : Fin 64) (hit : Option Nat) (d : Device),
    (∀ q, d.headOn p = some q → q.passesDone = false ∨ owesFinish d p (mxd q.words) = false ∨ (finishSpans d p (mxd q.words)).any (fun s => (d.panAt p).holds s.1 s.2) = true) →
      Takes (.writeBack p hit) d d)
  ∧ (∀ (p : Fin 64) (q : Desc) (a : Nat) (d : Device), d.headOn p = some q → q.passesDone = true → owesFinish d p (mxd q.words) = true →
    ((finishSpans d p (mxd q.words)).any (fun s => (d.panAt p).holds s.1 s.2) = false) →
    (((outSpans (mxd q.words)).map tailWord ++ if (mxd q.words).op = 3 then [((mxd q.words).aux, 32)] else wbReads (mxd q.words)).any (fun s => (d.panAt p).holds s.1 s.2) = false) →
    (((outSpans (mxd q.words)).map tailWord ++ if (mxd q.words).op = 3 then [((mxd q.words).aux, 32)] else wbReads (mxd q.words)).any (inSpan a) = true) →
      Takes (.writeBack p (some a)) d (parityHit d p a))
  ∧ (∀ (p : Fin 64) (q : Desc) (hit : Option Nat) (d : Device), d.headOn p = some q → q.passesDone = true → owesFinish d p (mxd q.words) = true →
    ((finishSpans d p (mxd q.words)).any (fun s => (d.panAt p).holds s.1 s.2) = false) →
    (((outSpans (mxd q.words)).map tailWord ++ if (mxd q.words).op = 3 then [((mxd q.words).aux, 32)] else wbReads (mxd q.words)).any (fun s => (d.panAt p).holds s.1 s.2) = true ∨ (∃ a, hit = some a ∧ ((outSpans (mxd q.words)).map tailWord ++ if (mxd q.words).op = 3 then [((mxd q.words).aux, 32)] else wbReads (mxd q.words)).any (inSpan a) = false)) →
      Takes (.writeBack p hit) d d)

/-- For a pan that is on: DESCRIPTOR_COMPLETE on a head descriptor that is done, written, or through its passes with no write-back or export owed removes
it from the queue, makes its status LAST_STATUS, sets its SET_FLAG when asked, and notes a status other than 0 with its job; with any other head, or
none, or on a pan that is not on, it changes nothing. HALO_TIMEOUT on a head CONV descriptor with passes left whose next row waits for a halo tag
rejects the descriptor and halts the core with HALO; in every other case it changes nothing. -/
def Obligations.DescriptorCompletion : Prop :=
  (∀ (p : Fin 64) (q : Desc) (d : Device), d.headOn p = some q →
    (q.phase = .done ∨ q.phase = .written ∨ (q.passesDone = true ∧ owesFinish d p (mxd q.words) = false)) →
      let e := d.updPan p (fun r =>
        let a : Pan := { r with arr := { r.arr with queue := r.arr.queue.drop 1, lastStatus := q.status } }
        if (mxd q.words).setEn then a.setFlag (mxd q.words).setFlag else a)
      Takes (.descriptorComplete p) d (if q.status = 0 then e else noteDescStatus e p q.seq q.status))
  ∧ (∀ (p : Fin 64) (d : Device),
    (∀ q, d.headOn p = some q → ¬(q.phase = .done ∨ q.phase = .written ∨ (q.passesDone = true ∧ owesFinish d p (mxd q.words) = false))) →
      Takes (.descriptorComplete p) d d)
  ∧ (∀ (p : Fin 64) (q : Desc) (d : Device), d.headOn p = some q → q.passesLeft = true → (mxd q.words).op = 2 →
    haloReady d p (mxd q.words) q.row = false → Takes (.haloTimeout p) d ((d.updPan p (fun r => r.rejectHead q 0x0708)).panFault p .halo 0x0708))
  ∧ (∀ (p : Fin 64) (d : Device), (∀ q, d.headOn p = some q → q.passesLeft = false ∨ (mxd q.words).op ≠ 2 ∨ haloReady d p (mxd q.words) q.row = true) →
      Takes (.haloTimeout p) d d)

/-- For a pan that is on with an ATTN descriptor of the command's mode waiting at the head (a reserved mode goes to ATTEND), outside a re-run, nothing
held that it touches: a failed check rejects it with its status; otherwise, the wait met, the array issuing, fewer than three mismatches in a row:
with M = 0 ATTEND, MERGE and RAKE are done with status 0; ATTEND or MERGE into heritage entries that it does not clear is rejected with the
heritage-order status; else ATTEND leaves the pan as the pages of its list leave it and MERGE as the merged partials leave it, with their passes done,
RAKE writes the selected pages, APPEND quantises its tokens into the page, both done, and the run of mismatches ends. With the wait not met, no issue,
or three mismatches nothing changes. A residue mismatch of ATTEND or MERGE only counts. A parity hit in what it touches is counted and holds its
granule. MERGE on a record that stops it (no hit) halts the core with that record's cause. While something is held (no such record), with a hit that
lies elsewhere, and on any other head or none, the command changes nothing. -/
def Obligations.AttentionDescriptors : Prop :=
  (∀ (p : Fin 64) (q : Desc) (d : Device), d.headOn p = some q → q.phase = .waiting → (mxd q.words).op = 3 →
    (((mxd q.words).attn d p).mode = 0 ∨ 3 < ((mxd q.words).attn d p).mode) → (d.panAt p).rerunning = false →
    ((startSpans d p (mxd q.words) (mxd q.words).tile ++ attnCheckSpans d p (mxd q.words) ((mxd q.words).attn d p) ++ if attnChecks d p (mxd q.words) = 0 then attnSpans d p (mxd q.words) ((mxd q.words).attn d p) else []).any (fun s => (d.panAt p).holds s.1 s.2) = false) →
    attnChecks d p (mxd q.words) = 0 → (mxd q.words).ready (d.panAt p) = true → d.arrayIssues p = true → (d.panAt p).arr.consec < 3 →
    (mxd q.words).m ≠ 0 → attnHeritage (d.panAt p) (mxd q.words) ((mxd q.words).attn d p) = false →
      Takes (.attend p false none) d ((d.updPan p (fun _ => attendBody d p (mxd q.words) ((mxd q.words).attn d p))).updPan p (fun r => (r.setHead { q with phase := .passes, row := (mxd q.words).m }).attempted)))
  ∧ (∀ (p : Fin 64) (q : Desc) (d : Device), d.headOn p = some q → q.phase = .waiting → (mxd q.words).op = 3 → ((mxd q.words).attn d p).mode = 1 →
    (d.panAt p).rerunning = false →
    ((startSpans d p (mxd q.words) (mxd q.words).tile ++ attnCheckSpans d p (mxd q.words) ((mxd q.words).attn d p) ++ if attnChecks d p (mxd q.words) = 0 then attnSpans d p (mxd q.words) ((mxd q.words).attn d p) else []).any (fun s => (d.panAt p).holds s.1 s.2) = false) →
    attnChecks d p (mxd q.words) = 0 → (mxd q.words).ready (d.panAt p) = true → d.arrayIssues p = true → (d.panAt p).arr.consec < 3 →
    (mxd q.words).m ≠ 0 → attnHeritage (d.panAt p) (mxd q.words) ((mxd q.words).attn d p) = false → mergeStop d p (mxd q.words) = none →
      Takes (.merge p false none) d ((d.updPan p (fun _ => mergeBody d p (mxd q.words) ((mxd q.words).attn d p))).updPan p (fun r => (r.setHead { q with phase := .passes, row := (mxd q.words).m }).attempted)))
  ∧ (∀ (p : Fin 64) (q : Desc) (d : Device), d.headOn p = some q → q.phase = .waiting → (mxd q.words).op = 3 → ((mxd q.words).attn d p).mode = 2 →
    (d.panAt p).rerunning = false →
    ((startSpans d p (mxd q.words) (mxd q.words).tile ++ attnCheckSpans d p (mxd q.words) ((mxd q.words).attn d p) ++ if attnChecks d p (mxd q.words) = 0 then attnSpans d p (mxd q.words) ((mxd q.words).attn d p) else []).any (fun s => (d.panAt p).holds s.1 s.2) = false) →
    attnChecks d p (mxd q.words) = 0 → (mxd q.words).ready (d.panAt p) = true → d.arrayIssues p = true → (d.panAt p).arr.consec < 3 →
    (mxd q.words).m ≠ 0 →
      Takes (.rake p none) d ((rakeBody d p (mxd q.words) ((mxd q.words).attn d p)).updPan p (fun r => (r.setHead { q with phase := .done, row := (mxd q.words).m }).attempted)))
  ∧ (∀ (p : Fin 64) (q : Desc) (d : Device), d.headOn p = some q → q.phase = .waiting → (mxd q.words).op = 3 → ((mxd q.words).attn d p).mode = 3 →
    (d.panAt p).rerunning = false →
    ((startSpans d p (mxd q.words) (mxd q.words).tile ++ attnCheckSpans d p (mxd q.words) ((mxd q.words).attn d p) ++ if attnChecks d p (mxd q.words) = 0 then attnSpans d p (mxd q.words) ((mxd q.words).attn d p) else []).any (fun s => (d.panAt p).holds s.1 s.2) = false) →
    attnChecks d p (mxd q.words) = 0 → (mxd q.words).ready (d.panAt p) = true → d.arrayIssues p = true → (d.panAt p).arr.consec < 3 →
      Takes (.append p none) d ((appendBody d p (mxd q.words) ((mxd q.words).attn d p)).updPan p (fun r => (r.setHead { q with phase := .done, row := (mxd q.words).m }).attempted)))
  ∧ (∀ (p : Fin 64) (q : Desc) (d : Device), d.headOn p = some q → q.phase = .waiting → (mxd q.words).op = 3 →
    (((mxd q.words).attn d p).mode = 0 ∨ 3 < ((mxd q.words).attn d p).mode) → (d.panAt p).rerunning = false →
    ((startSpans d p (mxd q.words) (mxd q.words).tile ++ attnCheckSpans d p (mxd q.words) ((mxd q.words).attn d p) ++ if attnChecks d p (mxd q.words) = 0 then attnSpans d p (mxd q.words) ((mxd q.words).attn d p) else []).any (fun s => (d.panAt p).holds s.1 s.2) = false) →
    attnChecks d p (mxd q.words) ≠ 0 → Takes (.attend p false none) d (d.updPan p (fun r => r.rejectHead q (attnChecks d p (mxd q.words)))))
  ∧ (∀ (p : Fin 64) (q : Desc) (d : Device), d.headOn p = some q → q.phase = .waiting → (mxd q.words).op = 3 → ((mxd q.words).attn d p).mode = 1 →
    (d.panAt p).rerunning = false →
    ((startSpans d p (mxd q.words) (mxd q.words).tile ++ attnCheckSpans d p (mxd q.words) ((mxd q.words).attn d p) ++ if attnChecks d p (mxd q.words) = 0 then attnSpans d p (mxd q.words) ((mxd q.words).attn d p) else []).any (fun s => (d.panAt p).holds s.1 s.2) = false) →
    attnChecks d p (mxd q.words) ≠ 0 → mergeStop d p (mxd q.words) = none →
      Takes (.merge p false none) d (d.updPan p (fun r => r.rejectHead q (attnChecks d p (mxd q.words)))))
  ∧ (∀ (p : Fin 64) (q : Desc) (d : Device), d.headOn p = some q → q.phase = .waiting → (mxd q.words).op = 3 → ((mxd q.words).attn d p).mode = 2 →
    (d.panAt p).rerunning = false →
    ((startSpans d p (mxd q.words) (mxd q.words).tile ++ attnCheckSpans d p (mxd q.words) ((mxd q.words).attn d p) ++ if attnChecks d p (mxd q.words) = 0 then attnSpans d p (mxd q.words) ((mxd q.words).attn d p) else []).any (fun s => (d.panAt p).holds s.1 s.2) = false) →
    attnChecks d p (mxd q.words) ≠ 0 → Takes (.rake p none) d (d.updPan p (fun r => r.rejectHead q (attnChecks d p (mxd q.words)))))
  ∧ (∀ (p : Fin 64) (q : Desc) (d : Device), d.headOn p = some q → q.phase = .waiting → (mxd q.words).op = 3 → ((mxd q.words).attn d p).mode = 3 →
    (d.panAt p).rerunning = false →
    ((startSpans d p (mxd q.words) (mxd q.words).tile ++ attnCheckSpans d p (mxd q.words) ((mxd q.words).attn d p) ++ if attnChecks d p (mxd q.words) = 0 then attnSpans d p (mxd q.words) ((mxd q.words).attn d p) else []).any (fun s => (d.panAt p).holds s.1 s.2) = false) →
    attnChecks d p (mxd q.words) ≠ 0 → Takes (.append p none) d (d.updPan p (fun r => r.rejectHead q (attnChecks d p (mxd q.words)))))
  ∧ (∀ (p : Fin 64) (q : Desc) (d : Device), d.headOn p = some q → q.phase = .waiting → (mxd q.words).op = 3 →
    (((mxd q.words).attn d p).mode = 0 ∨ 3 < ((mxd q.words).attn d p).mode) → (d.panAt p).rerunning = false →
    ((startSpans d p (mxd q.words) (mxd q.words).tile ++ attnCheckSpans d p (mxd q.words) ((mxd q.words).attn d p) ++ if attnChecks d p (mxd q.words) = 0 then attnSpans d p (mxd q.words) ((mxd q.words).attn d p) else []).any (fun s => (d.panAt p).holds s.1 s.2) = false) →
    attnChecks d p (mxd q.words) = 0 → ((mxd q.words).ready (d.panAt p) = false ∨ d.arrayIssues p = false ∨ 3 ≤ (d.panAt p).arr.consec) →
      Takes (.attend p false none) d d)
  ∧ (∀ (p : Fin 64) (q : Desc) (d : Device), d.headOn p = some q → q.phase = .waiting → (mxd q.words).op = 3 → ((mxd q.words).attn d p).mode = 1 →
    (d.panAt p).rerunning = false →
    ((startSpans d p (mxd q.words) (mxd q.words).tile ++ attnCheckSpans d p (mxd q.words) ((mxd q.words).attn d p) ++ if attnChecks d p (mxd q.words) = 0 then attnSpans d p (mxd q.words) ((mxd q.words).attn d p) else []).any (fun s => (d.panAt p).holds s.1 s.2) = false) →
    attnChecks d p (mxd q.words) = 0 → ((mxd q.words).ready (d.panAt p) = false ∨ d.arrayIssues p = false ∨ 3 ≤ (d.panAt p).arr.consec) →
    mergeStop d p (mxd q.words) = none → Takes (.merge p false none) d d)
  ∧ (∀ (p : Fin 64) (q : Desc) (d : Device), d.headOn p = some q → q.phase = .waiting → (mxd q.words).op = 3 → ((mxd q.words).attn d p).mode = 2 →
    (d.panAt p).rerunning = false →
    ((startSpans d p (mxd q.words) (mxd q.words).tile ++ attnCheckSpans d p (mxd q.words) ((mxd q.words).attn d p) ++ if attnChecks d p (mxd q.words) = 0 then attnSpans d p (mxd q.words) ((mxd q.words).attn d p) else []).any (fun s => (d.panAt p).holds s.1 s.2) = false) →
    attnChecks d p (mxd q.words) = 0 → ((mxd q.words).ready (d.panAt p) = false ∨ d.arrayIssues p = false ∨ 3 ≤ (d.panAt p).arr.consec) →
      Takes (.rake p none) d d)
  ∧ (∀ (p : Fin 64) (q : Desc) (d : Device), d.headOn p = some q → q.phase = .waiting → (mxd q.words).op = 3 → ((mxd q.words).attn d p).mode = 3 →
    (d.panAt p).rerunning = false →
    ((startSpans d p (mxd q.words) (mxd q.words).tile ++ attnCheckSpans d p (mxd q.words) ((mxd q.words).attn d p) ++ if attnChecks d p (mxd q.words) = 0 then attnSpans d p (mxd q.words) ((mxd q.words).attn d p) else []).any (fun s => (d.panAt p).holds s.1 s.2) = false) →
    attnChecks d p (mxd q.words) = 0 → ((mxd q.words).ready (d.panAt p) = false ∨ d.arrayIssues p = false ∨ 3 ≤ (d.panAt p).arr.consec) →
      Takes (.append p none) d d)
  ∧ (∀ (p : Fin 64) (q : Desc) (d : Device), d.headOn p = some q → q.phase = .waiting → (mxd q.words).op = 3 →
    (((mxd q.words).attn d p).mode = 0 ∨ 3 < ((mxd q.words).attn d p).mode) → (d.panAt p).rerunning = false →
    ((startSpans d p (mxd q.words) (mxd q.words).tile ++ attnCheckSpans d p (mxd q.words) ((mxd q.words).attn d p) ++ if attnChecks d p (mxd q.words) = 0 then attnSpans d p (mxd q.words) ((mxd q.words).attn d p) else []).any (fun s => (d.panAt p).holds s.1 s.2) = false) →
    attnChecks d p (mxd q.words) = 0 → (mxd q.words).ready (d.panAt p) = true → d.arrayIssues p = true → (d.panAt p).arr.consec < 3 →
    (mxd q.words).m = 0 → Takes (.attend p false none) d (d.updPan p (fun r => r.rejectHead q stOk)))
  ∧ (∀ (p : Fin 64) (q : Desc) (d : Device), d.headOn p = some q → q.phase = .waiting → (mxd q.words).op = 3 → ((mxd q.words).attn d p).mode = 1 →
    (d.panAt p).rerunning = false →
    ((startSpans d p (mxd q.words) (mxd q.words).tile ++ attnCheckSpans d p (mxd q.words) ((mxd q.words).attn d p) ++ if attnChecks d p (mxd q.words) = 0 then attnSpans d p (mxd q.words) ((mxd q.words).attn d p) else []).any (fun s => (d.panAt p).holds s.1 s.2) = false) →
    attnChecks d p (mxd q.words) = 0 → (mxd q.words).ready (d.panAt p) = true → d.arrayIssues p = true → (d.panAt p).arr.consec < 3 →
    (mxd q.words).m = 0 → mergeStop d p (mxd q.words) = none → Takes (.merge p false none) d (d.updPan p (fun r => r.rejectHead q stOk)))
  ∧ (∀ (p : Fin 64) (q : Desc) (d : Device), d.headOn p = some q → q.phase = .waiting → (mxd q.words).op = 3 → ((mxd q.words).attn d p).mode = 2 →
    (d.panAt p).rerunning = false →
    ((startSpans d p (mxd q.words) (mxd q.words).tile ++ attnCheckSpans d p (mxd q.words) ((mxd q.words).attn d p) ++ if attnChecks d p (mxd q.words) = 0 then attnSpans d p (mxd q.words) ((mxd q.words).attn d p) else []).any (fun s => (d.panAt p).holds s.1 s.2) = false) →
    attnChecks d p (mxd q.words) = 0 → (mxd q.words).ready (d.panAt p) = true → d.arrayIssues p = true → (d.panAt p).arr.consec < 3 →
    (mxd q.words).m = 0 → Takes (.rake p none) d (d.updPan p (fun r => r.rejectHead q stOk)))
  ∧ (∀ (p : Fin 64) (q : Desc) (d : Device), d.headOn p = some q → q.phase = .waiting → (mxd q.words).op = 3 →
    (((mxd q.words).attn d p).mode = 0 ∨ 3 < ((mxd q.words).attn d p).mode) → (d.panAt p).rerunning = false →
    ((startSpans d p (mxd q.words) (mxd q.words).tile ++ attnCheckSpans d p (mxd q.words) ((mxd q.words).attn d p) ++ if attnChecks d p (mxd q.words) = 0 then attnSpans d p (mxd q.words) ((mxd q.words).attn d p) else []).any (fun s => (d.panAt p).holds s.1 s.2) = false) →
    attnChecks d p (mxd q.words) = 0 → (mxd q.words).ready (d.panAt p) = true → d.arrayIssues p = true → (d.panAt p).arr.consec < 3 →
    (mxd q.words).m ≠ 0 → attnHeritage (d.panAt p) (mxd q.words) ((mxd q.words).attn d p) = true →
      Takes (.attend p false none) d (d.updPan p (fun r => r.rejectHead q stHeritageOrder)))
  ∧ (∀ (p : Fin 64) (q : Desc) (d : Device), d.headOn p = some q → q.phase = .waiting → (mxd q.words).op = 3 → ((mxd q.words).attn d p).mode = 1 →
    (d.panAt p).rerunning = false →
    ((startSpans d p (mxd q.words) (mxd q.words).tile ++ attnCheckSpans d p (mxd q.words) ((mxd q.words).attn d p) ++ if attnChecks d p (mxd q.words) = 0 then attnSpans d p (mxd q.words) ((mxd q.words).attn d p) else []).any (fun s => (d.panAt p).holds s.1 s.2) = false) →
    attnChecks d p (mxd q.words) = 0 → (mxd q.words).ready (d.panAt p) = true → d.arrayIssues p = true → (d.panAt p).arr.consec < 3 →
    (mxd q.words).m ≠ 0 → attnHeritage (d.panAt p) (mxd q.words) ((mxd q.words).attn d p) = true → mergeStop d p (mxd q.words) = none →
      Takes (.merge p false none) d (d.updPan p (fun r => r.rejectHead q stHeritageOrder)))
  ∧ (∀ (p : Fin 64) (q : Desc) (d : Device), d.headOn p = some q → q.phase = .waiting → (mxd q.words).op = 3 →
    (((mxd q.words).attn d p).mode = 0 ∨ 3 < ((mxd q.words).attn d p).mode) → (d.panAt p).rerunning = false →
    ((startSpans d p (mxd q.words) (mxd q.words).tile ++ attnCheckSpans d p (mxd q.words) ((mxd q.words).attn d p) ++ if attnChecks d p (mxd q.words) = 0 then attnSpans d p (mxd q.words) ((mxd q.words).attn d p) else []).any (fun s => (d.panAt p).holds s.1 s.2) = false) →
    attnChecks d p (mxd q.words) = 0 → (mxd q.words).ready (d.panAt p) = true → d.arrayIssues p = true → (d.panAt p).arr.consec < 3 →
    (mxd q.words).m ≠ 0 → attnHeritage (d.panAt p) (mxd q.words) ((mxd q.words).attn d p) = false →
      Takes (.attend p true none) d (d.updPan p (fun r =>
        { r with arr := { r.arr with consec := r.arr.consec + 1 }, counts := { r.counts with residue := satAdd r.counts.residue 1 } })))
  ∧ (∀ (p : Fin 64) (q : Desc) (d : Device), d.headOn p = some q → q.phase = .waiting → (mxd q.words).op = 3 → ((mxd q.words).attn d p).mode = 1 →
    (d.panAt p).rerunning = false →
    ((startSpans d p (mxd q.words) (mxd q.words).tile ++ attnCheckSpans d p (mxd q.words) ((mxd q.words).attn d p) ++ if attnChecks d p (mxd q.words) = 0 then attnSpans d p (mxd q.words) ((mxd q.words).attn d p) else []).any (fun s => (d.panAt p).holds s.1 s.2) = false) →
    attnChecks d p (mxd q.words) = 0 → (mxd q.words).ready (d.panAt p) = true → d.arrayIssues p = true → (d.panAt p).arr.consec < 3 →
    (mxd q.words).m ≠ 0 → attnHeritage (d.panAt p) (mxd q.words) ((mxd q.words).attn d p) = false → mergeStop d p (mxd q.words) = none →
      Takes (.merge p true none) d (d.updPan p (fun r =>
        { r with arr := { r.arr with consec := r.arr.consec + 1 }, counts := { r.counts with residue := satAdd r.counts.residue 1 } })))
  ∧ (∀ (p : Fin 64) (q : Desc) (bad : Bool) (c : Cause) (st : Nat) (d : Device), d.headOn p = some q → q.phase = .waiting → (mxd q.words).op = 3 →
    ((mxd q.words).attn d p).mode = 1 → (d.panAt p).rerunning = false → mergeStop d p (mxd q.words) = some (c, st) →
      Takes (.merge p bad none) d (d.panFault p c st))
  ∧ (∀ (p : Fin 64) (q : Desc) (a : Nat) (bad : Bool) (d : Device), d.headOn p = some q → q.phase = .waiting → (mxd q.words).op = 3 →
    (((mxd q.words).attn d p).mode = 0 ∨ 3 < ((mxd q.words).attn d p).mode) → (d.panAt p).rerunning = false →
    ((startSpans d p (mxd q.words) (mxd q.words).tile ++ attnCheckSpans d p (mxd q.words) ((mxd q.words).attn d p) ++ if attnChecks d p (mxd q.words) = 0 then attnSpans d p (mxd q.words) ((mxd q.words).attn d p) else []).any (fun s => (d.panAt p).holds s.1 s.2) = false) →
    ((startSpans d p (mxd q.words) (mxd q.words).tile ++ attnCheckSpans d p (mxd q.words) ((mxd q.words).attn d p) ++ if attnChecks d p (mxd q.words) = 0 then attnSpans d p (mxd q.words) ((mxd q.words).attn d p) else []).any (inSpan a) = true) →
      Takes (.attend p bad (some a)) d (parityHit d p a))
  ∧ (∀ (p : Fin 64) (q : Desc) (bad : Bool) (d : Device), d.headOn p = some q → q.phase = .waiting → (mxd q.words).op = 3 →
    (((mxd q.words).attn d p).mode = 0 ∨ 3 < ((mxd q.words).attn d p).mode) → (d.panAt p).rerunning = false →
    ((startSpans d p (mxd q.words) (mxd q.words).tile ++ attnCheckSpans d p (mxd q.words) ((mxd q.words).attn d p) ++ if attnChecks d p (mxd q.words) = 0 then attnSpans d p (mxd q.words) ((mxd q.words).attn d p) else []).any (fun s => (d.panAt p).holds s.1 s.2) = true) →
      Takes (.attend p bad none) d d)
  ∧ (∀ (p : Fin 64) (q : Desc) (a : Nat) (bad : Bool) (d : Device), d.headOn p = some q → q.phase = .waiting → (mxd q.words).op = 3 →
    (((mxd q.words).attn d p).mode = 0 ∨ 3 < ((mxd q.words).attn d p).mode) → (d.panAt p).rerunning = false →
    ((startSpans d p (mxd q.words) (mxd q.words).tile ++ attnCheckSpans d p (mxd q.words) ((mxd q.words).attn d p) ++ if attnChecks d p (mxd q.words) = 0 then attnSpans d p (mxd q.words) ((mxd q.words).attn d p) else []).any (fun s => (d.panAt p).holds s.1 s.2) = true ∨ (startSpans d p (mxd q.words) (mxd q.words).tile ++ attnCheckSpans d p (mxd q.words) ((mxd q.words).attn d p) ++ if attnChecks d p (mxd q.words) = 0 then attnSpans d p (mxd q.words) ((mxd q.words).attn d p) else []).any (inSpan a) = false) →
      Takes (.attend p bad (some a)) d d)
  ∧ (∀ (p : Fin 64) (hit : Option Nat) (bad : Bool) (d : Device),
    (∀ q, d.headOn p = some q → (mxd q.words).op ≠ 3 ∨ q.phase ≠ .waiting ∨ ¬(((mxd q.words).attn d p).mode = 0 ∨ 3 < ((mxd q.words).attn d p).mode) ∨ (d.panAt p).rerunning = true) →
      Takes (.attend p bad hit) d d)
  ∧ (∀ (p : Fin 64) (q : Desc) (a : Nat) (bad : Bool) (d : Device), d.headOn p = some q → q.phase = .waiting → (mxd q.words).op = 3 →
    ((mxd q.words).attn d p).mode = 1 → (d.panAt p).rerunning = false →
    ((startSpans d p (mxd q.words) (mxd q.words).tile ++ attnCheckSpans d p (mxd q.words) ((mxd q.words).attn d p) ++ if attnChecks d p (mxd q.words) = 0 then attnSpans d p (mxd q.words) ((mxd q.words).attn d p) else []).any (fun s => (d.panAt p).holds s.1 s.2) = false) →
    ((startSpans d p (mxd q.words) (mxd q.words).tile ++ attnCheckSpans d p (mxd q.words) ((mxd q.words).attn d p) ++ if attnChecks d p (mxd q.words) = 0 then attnSpans d p (mxd q.words) ((mxd q.words).attn d p) else []).any (inSpan a) = true) →
      Takes (.merge p bad (some a)) d (parityHit d p a))
  ∧ (∀ (p : Fin 64) (q : Desc) (bad : Bool) (d : Device), d.headOn p = some q → q.phase = .waiting → (mxd q.words).op = 3 →
    ((mxd q.words).attn d p).mode = 1 → (d.panAt p).rerunning = false →
    ((startSpans d p (mxd q.words) (mxd q.words).tile ++ attnCheckSpans d p (mxd q.words) ((mxd q.words).attn d p) ++ if attnChecks d p (mxd q.words) = 0 then attnSpans d p (mxd q.words) ((mxd q.words).attn d p) else []).any (fun s => (d.panAt p).holds s.1 s.2) = true) →
    mergeStop d p (mxd q.words) = none → Takes (.merge p bad none) d d)
  ∧ (∀ (p : Fin 64) (q : Desc) (a : Nat) (bad : Bool) (d : Device), d.headOn p = some q → q.phase = .waiting → (mxd q.words).op = 3 →
    ((mxd q.words).attn d p).mode = 1 → (d.panAt p).rerunning = false →
    ((startSpans d p (mxd q.words) (mxd q.words).tile ++ attnCheckSpans d p (mxd q.words) ((mxd q.words).attn d p) ++ if attnChecks d p (mxd q.words) = 0 then attnSpans d p (mxd q.words) ((mxd q.words).attn d p) else []).any (fun s => (d.panAt p).holds s.1 s.2) = true ∨ (startSpans d p (mxd q.words) (mxd q.words).tile ++ attnCheckSpans d p (mxd q.words) ((mxd q.words).attn d p) ++ if attnChecks d p (mxd q.words) = 0 then attnSpans d p (mxd q.words) ((mxd q.words).attn d p) else []).any (inSpan a) = false) →
      Takes (.merge p bad (some a)) d d)
  ∧ (∀ (p : Fin 64) (hit : Option Nat) (bad : Bool) (d : Device),
    (∀ q, d.headOn p = some q → (mxd q.words).op ≠ 3 ∨ q.phase ≠ .waiting ∨ ¬(((mxd q.words).attn d p).mode = 1) ∨ (d.panAt p).rerunning = true) →
      Takes (.merge p bad hit) d d)
  ∧ (∀ (p : Fin 64) (q : Desc) (a : Nat) (d : Device), d.headOn p = some q → q.phase = .waiting → (mxd q.words).op = 3 →
    ((mxd q.words).attn d p).mode = 2 → (d.panAt p).rerunning = false →
    ((startSpans d p (mxd q.words) (mxd q.words).tile ++ attnCheckSpans d p (mxd q.words) ((mxd q.words).attn d p) ++ if attnChecks d p (mxd q.words) = 0 then attnSpans d p (mxd q.words) ((mxd q.words).attn d p) else []).any (fun s => (d.panAt p).holds s.1 s.2) = false) →
    ((startSpans d p (mxd q.words) (mxd q.words).tile ++ attnCheckSpans d p (mxd q.words) ((mxd q.words).attn d p) ++ if attnChecks d p (mxd q.words) = 0 then attnSpans d p (mxd q.words) ((mxd q.words).attn d p) else []).any (inSpan a) = true) →
      Takes (.rake p (some a)) d (parityHit d p a))
  ∧ (∀ (p : Fin 64) (q : Desc) (d : Device), d.headOn p = some q → q.phase = .waiting → (mxd q.words).op = 3 → ((mxd q.words).attn d p).mode = 2 →
    (d.panAt p).rerunning = false →
    ((startSpans d p (mxd q.words) (mxd q.words).tile ++ attnCheckSpans d p (mxd q.words) ((mxd q.words).attn d p) ++ if attnChecks d p (mxd q.words) = 0 then attnSpans d p (mxd q.words) ((mxd q.words).attn d p) else []).any (fun s => (d.panAt p).holds s.1 s.2) = true) →
      Takes (.rake p none) d d)
  ∧ (∀ (p : Fin 64) (q : Desc) (a : Nat) (d : Device), d.headOn p = some q → q.phase = .waiting → (mxd q.words).op = 3 →
    ((mxd q.words).attn d p).mode = 2 → (d.panAt p).rerunning = false →
    ((startSpans d p (mxd q.words) (mxd q.words).tile ++ attnCheckSpans d p (mxd q.words) ((mxd q.words).attn d p) ++ if attnChecks d p (mxd q.words) = 0 then attnSpans d p (mxd q.words) ((mxd q.words).attn d p) else []).any (fun s => (d.panAt p).holds s.1 s.2) = true ∨ (startSpans d p (mxd q.words) (mxd q.words).tile ++ attnCheckSpans d p (mxd q.words) ((mxd q.words).attn d p) ++ if attnChecks d p (mxd q.words) = 0 then attnSpans d p (mxd q.words) ((mxd q.words).attn d p) else []).any (inSpan a) = false) →
      Takes (.rake p (some a)) d d)
  ∧ (∀ (p : Fin 64) (hit : Option Nat) (d : Device),
    (∀ q, d.headOn p = some q → (mxd q.words).op ≠ 3 ∨ q.phase ≠ .waiting ∨ ¬(((mxd q.words).attn d p).mode = 2) ∨ (d.panAt p).rerunning = true) →
      Takes (.rake p hit) d d)
  ∧ (∀ (p : Fin 64) (q : Desc) (a : Nat) (d : Device), d.headOn p = some q → q.phase = .waiting → (mxd q.words).op = 3 →
    ((mxd q.words).attn d p).mode = 3 → (d.panAt p).rerunning = false →
    ((startSpans d p (mxd q.words) (mxd q.words).tile ++ attnCheckSpans d p (mxd q.words) ((mxd q.words).attn d p) ++ if attnChecks d p (mxd q.words) = 0 then attnSpans d p (mxd q.words) ((mxd q.words).attn d p) else []).any (fun s => (d.panAt p).holds s.1 s.2) = false) →
    ((startSpans d p (mxd q.words) (mxd q.words).tile ++ attnCheckSpans d p (mxd q.words) ((mxd q.words).attn d p) ++ if attnChecks d p (mxd q.words) = 0 then attnSpans d p (mxd q.words) ((mxd q.words).attn d p) else []).any (inSpan a) = true) →
      Takes (.append p (some a)) d (parityHit d p a))
  ∧ (∀ (p : Fin 64) (q : Desc) (d : Device), d.headOn p = some q → q.phase = .waiting → (mxd q.words).op = 3 → ((mxd q.words).attn d p).mode = 3 →
    (d.panAt p).rerunning = false →
    ((startSpans d p (mxd q.words) (mxd q.words).tile ++ attnCheckSpans d p (mxd q.words) ((mxd q.words).attn d p) ++ if attnChecks d p (mxd q.words) = 0 then attnSpans d p (mxd q.words) ((mxd q.words).attn d p) else []).any (fun s => (d.panAt p).holds s.1 s.2) = true) →
      Takes (.append p none) d d)
  ∧ (∀ (p : Fin 64) (q : Desc) (a : Nat) (d : Device), d.headOn p = some q → q.phase = .waiting → (mxd q.words).op = 3 →
    ((mxd q.words).attn d p).mode = 3 → (d.panAt p).rerunning = false →
    ((startSpans d p (mxd q.words) (mxd q.words).tile ++ attnCheckSpans d p (mxd q.words) ((mxd q.words).attn d p) ++ if attnChecks d p (mxd q.words) = 0 then attnSpans d p (mxd q.words) ((mxd q.words).attn d p) else []).any (fun s => (d.panAt p).holds s.1 s.2) = true ∨ (startSpans d p (mxd q.words) (mxd q.words).tile ++ attnCheckSpans d p (mxd q.words) ((mxd q.words).attn d p) ++ if attnChecks d p (mxd q.words) = 0 then attnSpans d p (mxd q.words) ((mxd q.words).attn d p) else []).any (inSpan a) = false) →
      Takes (.append p (some a)) d d)
  ∧ (∀ (p : Fin 64) (hit : Option Nat) (d : Device),
    (∀ q, d.headOn p = some q → (mxd q.words).op ≠ 3 ∨ q.phase ≠ .waiting ∨ ¬(((mxd q.words).attn d p).mode = 3) ∨ (d.panAt p).rerunning = true) →
      Takes (.append p hit) d d)

/-- AMAX_CAPTURE_SELECT sets the pan's EN and SLOT and changes nothing else; AMAX_SLOT_CLEAR does the same and puts the named slot at its reset values,
AMAX, SAT, INF and NAN 0, the other fifteen slots standing. -/
def Obligations.AmaxCaptureRegister : Prop :=
  (∀ (p : Fin 64) (en : Bool) (slot : Fin 16) (d : Device),
      Takes (.amaxCaptureSelect p en slot) d (d.updPan p (fun q => { q with sel := { en := en, slot := slot } })))
  ∧ (∀ (p : Fin 64) (en : Bool) (slot : Fin 16) (d : Device),
      Takes (.amaxSlotClear p en slot) d (d.updPan p (fun q =>
        { q with sel := { en := en, slot := slot }, slots := modNth (fun _ => { amax := 0, sat := 0, inf := 0, nan := 0 }) q.slots slot })))

/-- For a Terrace that works and a queued command that an engine may take, of the command's OP (a reserved OP goes to COPY): one not started whose checks
give a status other than 0 fails with it. One past its checks, with nothing held that it touches next: when it moves no row it completes; a local one
(a FILL with REMOTE 1 is local too) that meets no granule without a key writes every row in ascending order (FILL its word), a COPY_TAG then its tag
word 32 bytes before the destination, and stands as started with no answer to wait for; a row that meets a granule without a key fails the command
there with that status, and so does a tag whose granule has no key, after the rows. A corruption met by a COPY or COPY_TAG in what it touches is
counted and resolved, and the command then waits if it left something held, else goes on as without it; a persistent fault that a buffer of its job
covers is held for lineage, else the command meets it. While something it touches is held, or with a corruption that is not there, the command only
stands as started and waits in its engine; for any other queued command or none, nothing changes. -/
def Obligations.CopyCommands : Prop :=
  (∀ (t : Fin 4) (c : CopyCmd) (d : Device), ((d.engAt t).copies.find? (fun x => x.id == c.id) = some c) → terOn d = true →
    mayStart (d.engAt t) c = true → ((copyF c.words).op ≠ 2 ∧ (copyF c.words).op ≠ 3) → c.started = false → copyChecks d c ≠ 0 →
      Takes (.copy t c.id none) d (d.failCopy t c (copyChecks d c)))
  ∧ (∀ (t : Fin 4) (c : CopyCmd) (d : Device), ((d.engAt t).copies.find? (fun x => x.id == c.id) = some c) → terOn d = true →
    mayStart (d.engAt t) c = true → ((copyF c.words).op ≠ 2 ∧ (copyF c.words).op ≠ 3) → (c.started = true ∨ copyChecks d c = 0) →
    ((nextSpans c).any (fun s => heldAt d s.1 s.2) = false) → (copyF c.words).moves = true →
    ((copyF c.words).remote = 0 ∨ ((copyF c.words).op = 2 ∧ (copyF c.words).remote = 1)) →
    ((List.range (copyF c.words).rows).find? (fun i => (List.range (copyF c.words).rowG).any (fun g => granuleBad d (copyF c.words) none i g)) = none) →
      let d1 := (List.range (copyF c.words).rows).foldl (moveRow (copyF c.words)) (if c.started then d else d.startCopy t c.id 0 [])
      Takes (.copy t c.id none) d (d1.startCopy t c.id (copyF c.words).stages []))
  ∧ (∀ (t : Fin 4) (c : CopyCmd) (i : Nat) (d : Device), ((d.engAt t).copies.find? (fun x => x.id == c.id) = some c) → terOn d = true →
    mayStart (d.engAt t) c = true → ((copyF c.words).op ≠ 2 ∧ (copyF c.words).op ≠ 3) → (c.started = true ∨ copyChecks d c = 0) →
    ((nextSpans c).any (fun s => heldAt d s.1 s.2) = false) → (copyF c.words).moves = true →
    ((copyF c.words).remote = 0 ∨ ((copyF c.words).op = 2 ∧ (copyF c.words).remote = 1)) →
    ((List.range (copyF c.words).rows).find? (fun i => (List.range (copyF c.words).rowG).any (fun g => granuleBad d (copyF c.words) none i g)) = some i) →
      Takes (.copy t c.id none) d ((failedRows (if c.started then d else d.startCopy t c.id 0 []) (copyF c.words) none i).failCopy t c stKeyAbsent))
  ∧ (∀ (t : Fin 4) (c : CopyCmd) (d : Device), ((d.engAt t).copies.find? (fun x => x.id == c.id) = some c) → terOn d = true →
    mayStart (d.engAt t) c = true → ((copyF c.words).op ≠ 2 ∧ (copyF c.words).op ≠ 3) → (c.started = true ∨ copyChecks d c = 0) →
    ((nextSpans c).any (fun s => heldAt d s.1 s.2) = false) → (copyF c.words).moves = false →
      Takes (.copy t c.id none) d ((if c.started then d else d.startCopy t c.id 0 []).completeCopy t c))
  ∧ (∀ (t : Fin 4) (c : CopyCmd) (d : Device), ((d.engAt t).copies.find? (fun x => x.id == c.id) = some c) → terOn d = true →
    mayStart (d.engAt t) c = true → ((copyF c.words).op ≠ 2 ∧ (copyF c.words).op ≠ 3) → (c.started = true ∨ copyChecks d c = 0) →
    ((nextSpans c).any (fun s => heldAt d s.1 s.2) = true) → Takes (.copy t c.id none) d (if c.started then d else d.startCopy t c.id 0 []))
  ∧ (∀ (t : Fin 4) (id : Nat) (hit : Option Hit) (d : Device),
    (∀ c, (d.engAt t).copies.find? (fun x => x.id == id) = some c → terOn d = false ∨ mayStart (d.engAt t) c = false ∨ ¬((copyF c.words).op ≠ 2 ∧ (copyF c.words).op ≠ 3)) →
      Takes (.copy t id hit) d d)
  ∧ (∀ (t : Fin 4) (c : CopyCmd) (d : Device), ((d.engAt t).copies.find? (fun x => x.id == c.id) = some c) → terOn d = true →
    mayStart (d.engAt t) c = true → (copyF c.words).op = 2 → c.started = false → copyChecks d c ≠ 0 →
      Takes (.fill t c.id) d (d.failCopy t c (copyChecks d c)))
  ∧ (∀ (t : Fin 4) (c : CopyCmd) (d : Device), ((d.engAt t).copies.find? (fun x => x.id == c.id) = some c) → terOn d = true →
    mayStart (d.engAt t) c = true → (copyF c.words).op = 2 → (c.started = true ∨ copyChecks d c = 0) →
    ((nextSpans c).any (fun s => heldAt d s.1 s.2) = false) → (copyF c.words).moves = true →
    ((copyF c.words).remote = 0 ∨ ((copyF c.words).op = 2 ∧ (copyF c.words).remote = 1)) →
    ((List.range (copyF c.words).rows).find? (fun i => (List.range (copyF c.words).rowG).any (fun g => granuleBad d (copyF c.words) none i g)) = none) →
      let d1 := (List.range (copyF c.words).rows).foldl (moveRow (copyF c.words)) (if c.started then d else d.startCopy t c.id 0 [])
      Takes (.fill t c.id) d (d1.startCopy t c.id (copyF c.words).stages []))
  ∧ (∀ (t : Fin 4) (c : CopyCmd) (i : Nat) (d : Device), ((d.engAt t).copies.find? (fun x => x.id == c.id) = some c) → terOn d = true →
    mayStart (d.engAt t) c = true → (copyF c.words).op = 2 → (c.started = true ∨ copyChecks d c = 0) →
    ((nextSpans c).any (fun s => heldAt d s.1 s.2) = false) → (copyF c.words).moves = true →
    ((copyF c.words).remote = 0 ∨ ((copyF c.words).op = 2 ∧ (copyF c.words).remote = 1)) →
    ((List.range (copyF c.words).rows).find? (fun i => (List.range (copyF c.words).rowG).any (fun g => granuleBad d (copyF c.words) none i g)) = some i) →
      Takes (.fill t c.id) d ((failedRows (if c.started then d else d.startCopy t c.id 0 []) (copyF c.words) none i).failCopy t c stKeyAbsent))
  ∧ (∀ (t : Fin 4) (c : CopyCmd) (d : Device), ((d.engAt t).copies.find? (fun x => x.id == c.id) = some c) → terOn d = true →
    mayStart (d.engAt t) c = true → (copyF c.words).op = 2 → (c.started = true ∨ copyChecks d c = 0) →
    ((nextSpans c).any (fun s => heldAt d s.1 s.2) = false) → (copyF c.words).moves = false →
      Takes (.fill t c.id) d ((if c.started then d else d.startCopy t c.id 0 []).completeCopy t c))
  ∧ (∀ (t : Fin 4) (c : CopyCmd) (d : Device), ((d.engAt t).copies.find? (fun x => x.id == c.id) = some c) → terOn d = true →
    mayStart (d.engAt t) c = true → (copyF c.words).op = 2 → (c.started = true ∨ copyChecks d c = 0) →
    ((nextSpans c).any (fun s => heldAt d s.1 s.2) = true) → Takes (.fill t c.id) d (if c.started then d else d.startCopy t c.id 0 []))
  ∧ (∀ (t : Fin 4) (id : Nat) (d : Device),
    (∀ c, (d.engAt t).copies.find? (fun x => x.id == id) = some c → terOn d = false ∨ mayStart (d.engAt t) c = false ∨ ¬((copyF c.words).op = 2)) →
      Takes (.fill t id) d d)
  ∧ (∀ (t : Fin 4) (c : CopyCmd) (d : Device), ((d.engAt t).copies.find? (fun x => x.id == c.id) = some c) → terOn d = true →
    mayStart (d.engAt t) c = true → (copyF c.words).op = 3 → c.started = false → copyChecks d c ≠ 0 →
      Takes (.copyTag t c.id none) d (d.failCopy t c (copyChecks d c)))
  ∧ (∀ (t : Fin 4) (c : CopyCmd) (d : Device), ((d.engAt t).copies.find? (fun x => x.id == c.id) = some c) → terOn d = true →
    mayStart (d.engAt t) c = true → (copyF c.words).op = 3 → (c.started = true ∨ copyChecks d c = 0) →
    ((nextSpans c).any (fun s => heldAt d s.1 s.2) = false) → (copyF c.words).moves = true →
    ((copyF c.words).remote = 0 ∨ ((copyF c.words).op = 2 ∧ (copyF c.words).remote = 1)) →
    ((List.range (copyF c.words).rows).find? (fun i => (List.range (copyF c.words).rowG).any (fun g => granuleBad d (copyF c.words) none i g)) = none) →
    keyed d ((copyF c.words).dst - 32) 32 = true →
      let d1 := (List.range (copyF c.words).rows).foldl (moveRow (copyF c.words)) (if c.started then d else d.startCopy t c.id 0 [])
      Takes (.copyTag t c.id none) d ((d1.store ((copyF c.words).dst - 32) (toLE 4 (copyF c.words).word)).startCopy t c.id (copyF c.words).stages []))
  ∧ (∀ (t : Fin 4) (c : CopyCmd) (i : Nat) (d : Device), ((d.engAt t).copies.find? (fun x => x.id == c.id) = some c) → terOn d = true →
    mayStart (d.engAt t) c = true → (copyF c.words).op = 3 → (c.started = true ∨ copyChecks d c = 0) →
    ((nextSpans c).any (fun s => heldAt d s.1 s.2) = false) → (copyF c.words).moves = true →
    ((copyF c.words).remote = 0 ∨ ((copyF c.words).op = 2 ∧ (copyF c.words).remote = 1)) →
    ((List.range (copyF c.words).rows).find? (fun i => (List.range (copyF c.words).rowG).any (fun g => granuleBad d (copyF c.words) none i g)) = some i) →
      Takes (.copyTag t c.id none) d ((failedRows (if c.started then d else d.startCopy t c.id 0 []) (copyF c.words) none i).failCopy t c stKeyAbsent))
  ∧ (∀ (t : Fin 4) (c : CopyCmd) (d : Device), ((d.engAt t).copies.find? (fun x => x.id == c.id) = some c) → terOn d = true →
    mayStart (d.engAt t) c = true → (copyF c.words).op = 3 → (c.started = true ∨ copyChecks d c = 0) →
    ((nextSpans c).any (fun s => heldAt d s.1 s.2) = false) → (copyF c.words).moves = false →
      Takes (.copyTag t c.id none) d ((if c.started then d else d.startCopy t c.id 0 []).completeCopy t c))
  ∧ (∀ (t : Fin 4) (c : CopyCmd) (d : Device), ((d.engAt t).copies.find? (fun x => x.id == c.id) = some c) → terOn d = true →
    mayStart (d.engAt t) c = true → (copyF c.words).op = 3 → (c.started = true ∨ copyChecks d c = 0) →
    ((nextSpans c).any (fun s => heldAt d s.1 s.2) = true) → Takes (.copyTag t c.id none) d (if c.started then d else d.startCopy t c.id 0 []))
  ∧ (∀ (t : Fin 4) (id : Nat) (hit : Option Hit) (d : Device),
    (∀ c, (d.engAt t).copies.find? (fun x => x.id == id) = some c → terOn d = false ∨ mayStart (d.engAt t) c = false ∨ ¬((copyF c.words).op = 3)) →
      Takes (.copyTag t id hit) d d)
  ∧ (∀ (t : Fin 4) (c : CopyCmd) (d : Device), ((d.engAt t).copies.find? (fun x => x.id == c.id) = some c) → terOn d = true →
    mayStart (d.engAt t) c = true → (copyF c.words).op = 3 → (c.started = true ∨ copyChecks d c = 0) →
    ((nextSpans c).any (fun s => heldAt d s.1 s.2) = false) → (copyF c.words).moves = true →
    ((copyF c.words).remote = 0 ∨ ((copyF c.words).op = 2 ∧ (copyF c.words).remote = 1)) →
    ((List.range (copyF c.words).rows).find? (fun i => (List.range (copyF c.words).rowG).any (fun g => granuleBad d (copyF c.words) none i g)) = none) →
    keyed d ((copyF c.words).dst - 32) 32 = false →
      Takes (.copyTag t c.id none) d (((List.range (copyF c.words).rows).foldl (moveRow (copyF c.words)) (if c.started then d else d.startCopy t c.id 0 [])).failCopy t c stKeyAbsent))
  ∧ (∀ (t : Fin 4) (c : CopyCmd) (h : Hit) (d : Device), ((d.engAt t).copies.find? (fun x => x.id == c.id) = some c) → terOn d = true →
    mayStart (d.engAt t) c = true → ((copyF c.words).op ≠ 2 ∧ (copyF c.words).op ≠ 3) → (c.started = true ∨ copyChecks d c = 0) →
    ((nextSpans c).any (fun s => heldAt d s.1 s.2) = false) →
    (hitFits d h = true ∧ (nextSpans c).any (fun s => decide (s.1 ≤ hitAddr h) && decide (hitAddr h < s.1 + s.2)) = true) → hitPersistent h = false →
      Takes (.copy t c.id (some h)) d (if (nextSpans c).any (fun s => heldAt ((if c.started then d else d.startCopy t c.id 0 []).meetHit h) s.1 s.2) then (if c.started then d else d.startCopy t c.id 0 []).meetHit h
          else runCopy ((if c.started then d else d.startCopy t c.id 0 []).meetHit h) t c none))
  ∧ (∀ (t : Fin 4) (c : CopyCmd) (h : Hit) (d : Device), ((d.engAt t).copies.find? (fun x => x.id == c.id) = some c) → terOn d = true →
    mayStart (d.engAt t) c = true → ((copyF c.words).op ≠ 2 ∧ (copyF c.words).op ≠ 3) → (c.started = true ∨ copyChecks d c = 0) →
    ((nextSpans c).any (fun s => heldAt d s.1 s.2) = false) →
    (hitFits d h = true ∧ (nextSpans c).any (fun s => decide (s.1 ≤ hitAddr h) && decide (hitAddr h < s.1 + s.2)) = true) → hitPersistent h = true →
      let e := (if c.started then d else d.startCopy t c.id 0 []).meetHit h
      Takes (.copy t c.id (some h)) d (if ((copyJob e c).bind (fun j => bufferOf e j (hitAddr h))).isSome then e.holdFault (hitAddr h)
          else runCopy e t c (some (hitAddr h))))
  ∧ (∀ (t : Fin 4) (c : CopyCmd) (h : Hit) (d : Device), ((d.engAt t).copies.find? (fun x => x.id == c.id) = some c) → terOn d = true →
    mayStart (d.engAt t) c = true → ((copyF c.words).op ≠ 2 ∧ (copyF c.words).op ≠ 3) → (c.started = true ∨ copyChecks d c = 0) →
    (((nextSpans c).any (fun s => heldAt d s.1 s.2) = true) ∨ ¬(hitFits d h = true ∧ (nextSpans c).any (fun s => decide (s.1 ≤ hitAddr h) && decide (hitAddr h < s.1 + s.2)) = true)) →
      Takes (.copy t c.id (some h)) d (if c.started then d else d.startCopy t c.id 0 []))
  ∧ (∀ (t : Fin 4) (c : CopyCmd) (h : Hit) (d : Device), ((d.engAt t).copies.find? (fun x => x.id == c.id) = some c) → terOn d = true →
    mayStart (d.engAt t) c = true → (copyF c.words).op = 3 → (c.started = true ∨ copyChecks d c = 0) →
    ((nextSpans c).any (fun s => heldAt d s.1 s.2) = false) →
    (hitFits d h = true ∧ (nextSpans c).any (fun s => decide (s.1 ≤ hitAddr h) && decide (hitAddr h < s.1 + s.2)) = true) → hitPersistent h = false →
      Takes (.copyTag t c.id (some h)) d (if (nextSpans c).any (fun s => heldAt ((if c.started then d else d.startCopy t c.id 0 []).meetHit h) s.1 s.2) then (if c.started then d else d.startCopy t c.id 0 []).meetHit h
          else runCopy ((if c.started then d else d.startCopy t c.id 0 []).meetHit h) t c none))
  ∧ (∀ (t : Fin 4) (c : CopyCmd) (h : Hit) (d : Device), ((d.engAt t).copies.find? (fun x => x.id == c.id) = some c) → terOn d = true →
    mayStart (d.engAt t) c = true → (copyF c.words).op = 3 → (c.started = true ∨ copyChecks d c = 0) →
    ((nextSpans c).any (fun s => heldAt d s.1 s.2) = false) →
    (hitFits d h = true ∧ (nextSpans c).any (fun s => decide (s.1 ≤ hitAddr h) && decide (hitAddr h < s.1 + s.2)) = true) → hitPersistent h = true →
      let e := (if c.started then d else d.startCopy t c.id 0 []).meetHit h
      Takes (.copyTag t c.id (some h)) d (if ((copyJob e c).bind (fun j => bufferOf e j (hitAddr h))).isSome then e.holdFault (hitAddr h)
          else runCopy e t c (some (hitAddr h))))
  ∧ (∀ (t : Fin 4) (c : CopyCmd) (h : Hit) (d : Device), ((d.engAt t).copies.find? (fun x => x.id == c.id) = some c) → terOn d = true →
    mayStart (d.engAt t) c = true → (copyF c.words).op = 3 → (c.started = true ∨ copyChecks d c = 0) →
    (((nextSpans c).any (fun s => heldAt d s.1 s.2) = true) ∨ ¬(hitFits d h = true ∧ (nextSpans c).any (fun s => decide (s.1 ≤ hitAddr h) && decide (hitAddr h < s.1 + s.2)) = true)) →
      Takes (.copyTag t c.id (some h)) d (if c.started then d else d.startCopy t c.id 0 []))

/-- For a Terrace that works and a command between this device and a peer that an engine may take or go on with, past its checks and with nothing held:
its next row (past the last one, a COPY_TAG's tag write) leaves as READs or WRITEs to the peer, and it stands as started with their tags to wait for
and one row more under way; a request that cannot leave fails it with that status, a local granule of a COPY or COPY_TAG row without a key with the
key-absent status, and a command under way whose peer is gone with the no-route status. COPY_COMPLETE on a started command with every part done and no
answer outstanding completes it: a tag that waited for remote data is written (without a key for its granule the command fails instead), it leaves the
queue, and a pan's flag is set when asked, or firmware has its status and the grains that it rewrote are served again; while that tag's granule is
held, on any other command, or none, or on a Terrace that does not work, it changes nothing. -/
def Obligations.RemoteCopyAndCompletion : Prop :=
  (∀ (t : Fin 4) (c : CopyCmd) (pe : Peer) (tags : List Nat) (d e : Device), ((d.engAt t).copies.find? (fun x => x.id == c.id) = some c) →
    terOn d = true → mayStart (d.engAt t) c = true → ((copyF c.words).op ≠ 2 ∧ (copyF c.words).op ≠ 3) → (c.started = true ∨ copyChecks d c = 0) →
    ((nextSpans c).any (fun s => heldAt d s.1 s.2) = false) → (copyF c.words).moves = true →
    ((copyF c.words).remote = 2 ∨ ((copyF c.words).op ≠ 2 ∧ (copyF c.words).remote ≠ 0)) →
    ((copyF c.words).rows ≤ c.row ∨ (List.range (copyF c.words).rowG).any (fun g => granuleBad d (copyF c.words) none c.row g) = false) →
    copyPeer d c = some pe →
    (sendAll t c.id (rowRequests d (copyF c.words) pe c.row) (if c.started then d else d.startCopy t c.id 0 []) = (0, tags, e)) →
      Takes (.copy t c.id none) d (e.startCopy t c.id (c.row + 1) tags))
  ∧ (∀ (t : Fin 4) (c : CopyCmd) (pe : Peer) (st : Nat) (tags : List Nat) (d e : Device), ((d.engAt t).copies.find? (fun x => x.id == c.id) = some c) →
    terOn d = true → mayStart (d.engAt t) c = true → ((copyF c.words).op ≠ 2 ∧ (copyF c.words).op ≠ 3) → (c.started = true ∨ copyChecks d c = 0) →
    ((nextSpans c).any (fun s => heldAt d s.1 s.2) = false) → (copyF c.words).moves = true →
    ((copyF c.words).remote = 2 ∨ ((copyF c.words).op ≠ 2 ∧ (copyF c.words).remote ≠ 0)) →
    ((copyF c.words).rows ≤ c.row ∨ (List.range (copyF c.words).rowG).any (fun g => granuleBad d (copyF c.words) none c.row g) = false) →
    copyPeer d c = some pe →
    (sendAll t c.id (rowRequests d (copyF c.words) pe c.row) (if c.started then d else d.startCopy t c.id 0 []) = (st, tags, e)) → st ≠ 0 →
      Takes (.copy t c.id none) d (e.failCopy t c st))
  ∧ (∀ (t : Fin 4) (c : CopyCmd) (d : Device), ((d.engAt t).copies.find? (fun x => x.id == c.id) = some c) → terOn d = true →
    mayStart (d.engAt t) c = true → ((copyF c.words).op ≠ 2 ∧ (copyF c.words).op ≠ 3) → (c.started = true ∨ copyChecks d c = 0) →
    ((nextSpans c).any (fun s => heldAt d s.1 s.2) = false) → (copyF c.words).moves = true →
    ((copyF c.words).remote = 2 ∨ ((copyF c.words).op ≠ 2 ∧ (copyF c.words).remote ≠ 0)) →
    (c.row < (copyF c.words).rows ∧ (List.range (copyF c.words).rowG).any (fun g => granuleBad d (copyF c.words) none c.row g) = true) →
      Takes (.copy t c.id none) d ((if c.started then d else d.startCopy t c.id 0 []).failCopy t c stKeyAbsent))
  ∧ (∀ (t : Fin 4) (c : CopyCmd) (d : Device), ((d.engAt t).copies.find? (fun x => x.id == c.id) = some c) → terOn d = true →
    mayStart (d.engAt t) c = true → ((copyF c.words).op ≠ 2 ∧ (copyF c.words).op ≠ 3) → c.started = true →
    ((nextSpans c).any (fun s => heldAt d s.1 s.2) = false) → (copyF c.words).moves = true →
    ((copyF c.words).remote = 2 ∨ ((copyF c.words).op ≠ 2 ∧ (copyF c.words).remote ≠ 0)) →
    ((copyF c.words).rows ≤ c.row ∨ (List.range (copyF c.words).rowG).any (fun g => granuleBad d (copyF c.words) none c.row g) = false) →
    copyPeer d c = none → Takes (.copy t c.id none) d (d.failCopy t c stNoRoute))
  ∧ (∀ (t : Fin 4) (c : CopyCmd) (pe : Peer) (tags : List Nat) (d e : Device), ((d.engAt t).copies.find? (fun x => x.id == c.id) = some c) →
    terOn d = true → mayStart (d.engAt t) c = true → (copyF c.words).op = 2 → (c.started = true ∨ copyChecks d c = 0) →
    ((nextSpans c).any (fun s => heldAt d s.1 s.2) = false) → (copyF c.words).moves = true →
    ((copyF c.words).remote = 2 ∨ ((copyF c.words).op ≠ 2 ∧ (copyF c.words).remote ≠ 0)) →
    ((copyF c.words).rows ≤ c.row ∨ (List.range (copyF c.words).rowG).any (fun g => granuleBad d (copyF c.words) none c.row g) = false) →
    copyPeer d c = some pe →
    (sendAll t c.id (rowRequests d (copyF c.words) pe c.row) (if c.started then d else d.startCopy t c.id 0 []) = (0, tags, e)) →
      Takes (.fill t c.id) d (e.startCopy t c.id (c.row + 1) tags))
  ∧ (∀ (t : Fin 4) (c : CopyCmd) (pe : Peer) (st : Nat) (tags : List Nat) (d e : Device), ((d.engAt t).copies.find? (fun x => x.id == c.id) = some c) →
    terOn d = true → mayStart (d.engAt t) c = true → (copyF c.words).op = 2 → (c.started = true ∨ copyChecks d c = 0) →
    ((nextSpans c).any (fun s => heldAt d s.1 s.2) = false) → (copyF c.words).moves = true →
    ((copyF c.words).remote = 2 ∨ ((copyF c.words).op ≠ 2 ∧ (copyF c.words).remote ≠ 0)) →
    ((copyF c.words).rows ≤ c.row ∨ (List.range (copyF c.words).rowG).any (fun g => granuleBad d (copyF c.words) none c.row g) = false) →
    copyPeer d c = some pe →
    (sendAll t c.id (rowRequests d (copyF c.words) pe c.row) (if c.started then d else d.startCopy t c.id 0 []) = (st, tags, e)) → st ≠ 0 →
      Takes (.fill t c.id) d (e.failCopy t c st))
  ∧ (∀ (t : Fin 4) (c : CopyCmd) (d : Device), ((d.engAt t).copies.find? (fun x => x.id == c.id) = some c) → terOn d = true →
    mayStart (d.engAt t) c = true → (copyF c.words).op = 2 → c.started = true → ((nextSpans c).any (fun s => heldAt d s.1 s.2) = false) →
    (copyF c.words).moves = true → ((copyF c.words).remote = 2 ∨ ((copyF c.words).op ≠ 2 ∧ (copyF c.words).remote ≠ 0)) →
    ((copyF c.words).rows ≤ c.row ∨ (List.range (copyF c.words).rowG).any (fun g => granuleBad d (copyF c.words) none c.row g) = false) →
    copyPeer d c = none → Takes (.fill t c.id) d (d.failCopy t c stNoRoute))
  ∧ (∀ (t : Fin 4) (c : CopyCmd) (pe : Peer) (tags : List Nat) (d e : Device), ((d.engAt t).copies.find? (fun x => x.id == c.id) = some c) →
    terOn d = true → mayStart (d.engAt t) c = true → (copyF c.words).op = 3 → (c.started = true ∨ copyChecks d c = 0) →
    ((nextSpans c).any (fun s => heldAt d s.1 s.2) = false) → (copyF c.words).moves = true →
    ((copyF c.words).remote = 2 ∨ ((copyF c.words).op ≠ 2 ∧ (copyF c.words).remote ≠ 0)) →
    ((copyF c.words).rows ≤ c.row ∨ (List.range (copyF c.words).rowG).any (fun g => granuleBad d (copyF c.words) none c.row g) = false) →
    copyPeer d c = some pe →
    (sendAll t c.id (rowRequests d (copyF c.words) pe c.row) (if c.started then d else d.startCopy t c.id 0 []) = (0, tags, e)) →
      Takes (.copyTag t c.id none) d (e.startCopy t c.id (c.row + 1) tags))
  ∧ (∀ (t : Fin 4) (c : CopyCmd) (pe : Peer) (st : Nat) (tags : List Nat) (d e : Device), ((d.engAt t).copies.find? (fun x => x.id == c.id) = some c) →
    terOn d = true → mayStart (d.engAt t) c = true → (copyF c.words).op = 3 → (c.started = true ∨ copyChecks d c = 0) →
    ((nextSpans c).any (fun s => heldAt d s.1 s.2) = false) → (copyF c.words).moves = true →
    ((copyF c.words).remote = 2 ∨ ((copyF c.words).op ≠ 2 ∧ (copyF c.words).remote ≠ 0)) →
    ((copyF c.words).rows ≤ c.row ∨ (List.range (copyF c.words).rowG).any (fun g => granuleBad d (copyF c.words) none c.row g) = false) →
    copyPeer d c = some pe →
    (sendAll t c.id (rowRequests d (copyF c.words) pe c.row) (if c.started then d else d.startCopy t c.id 0 []) = (st, tags, e)) → st ≠ 0 →
      Takes (.copyTag t c.id none) d (e.failCopy t c st))
  ∧ (∀ (t : Fin 4) (c : CopyCmd) (d : Device), ((d.engAt t).copies.find? (fun x => x.id == c.id) = some c) → terOn d = true →
    mayStart (d.engAt t) c = true → (copyF c.words).op = 3 → (c.started = true ∨ copyChecks d c = 0) →
    ((nextSpans c).any (fun s => heldAt d s.1 s.2) = false) → (copyF c.words).moves = true →
    ((copyF c.words).remote = 2 ∨ ((copyF c.words).op ≠ 2 ∧ (copyF c.words).remote ≠ 0)) →
    (c.row < (copyF c.words).rows ∧ (List.range (copyF c.words).rowG).any (fun g => granuleBad d (copyF c.words) none c.row g) = true) →
      Takes (.copyTag t c.id none) d ((if c.started then d else d.startCopy t c.id 0 []).failCopy t c stKeyAbsent))
  ∧ (∀ (t : Fin 4) (c : CopyCmd) (d : Device), ((d.engAt t).copies.find? (fun x => x.id == c.id) = some c) → terOn d = true →
    mayStart (d.engAt t) c = true → (copyF c.words).op = 3 → c.started = true → ((nextSpans c).any (fun s => heldAt d s.1 s.2) = false) →
    (copyF c.words).moves = true → ((copyF c.words).remote = 2 ∨ ((copyF c.words).op ≠ 2 ∧ (copyF c.words).remote ≠ 0)) →
    ((copyF c.words).rows ≤ c.row ∨ (List.range (copyF c.words).rowG).any (fun g => granuleBad d (copyF c.words) none c.row g) = false) →
    copyPeer d c = none → Takes (.copyTag t c.id none) d (d.failCopy t c stNoRoute))
  ∧ (∀ (t : Fin 4) (c : CopyCmd) (d : Device), ((d.engAt t).copies.find? (fun x => x.id == c.id) = some c) → terOn d = true → c.started = true →
    c.waits = [] → (copyF c.words).stages ≤ c.row →
    ((copyF c.words).tagsHere = false ∨ (copyF c.words).remote ≠ 1 ∨ heldAt d ((copyF c.words).dst - 32) 32 = false) →
    ((copyF c.words).tagsHere = false ∨ (copyF c.words).remote ≠ 1 ∨ keyed d ((copyF c.words).dst - 32) 32 = true) →
      let d1 := if (copyF c.words).tagsHere && (copyF c.words).remote == 1 then d.store ((copyF c.words).dst - 32) (toLE 4 (copyF c.words).word) else d
      let d2 := d1.dropCopy t c.id
      Takes (.copyComplete t c.id) d (match c.issuer with
        | .pan p => if (copyF c.words).setEn then d2.updPan p (fun q => q.setFlag (copyF c.words).setFlag) else d2
        | .firmware => let d3 := d2.updEng t (fun e => { e with returned := some (c.job, stOk) }); if (copyF c.words).moves then releaseRows d3 (copyF c.words) else d3))
  ∧ (∀ (t : Fin 4) (c : CopyCmd) (d : Device), ((d.engAt t).copies.find? (fun x => x.id == c.id) = some c) → terOn d = true → c.started = true →
    c.waits = [] → (copyF c.words).stages ≤ c.row → (copyF c.words).tagsHere = true → (copyF c.words).remote = 1 →
    heldAt d ((copyF c.words).dst - 32) 32 = false → keyed d ((copyF c.words).dst - 32) 32 = false →
      Takes (.copyComplete t c.id) d (d.failCopy t c stKeyAbsent))
  ∧ (∀ (t : Fin 4) (id : Nat) (d : Device),
    (∀ c, (d.engAt t).copies.find? (fun x => x.id == id) = some c → terOn d = false ∨ c.started = false ∨ c.waits ≠ [] ∨ c.row < (copyF c.words).stages ∨
      ((copyF c.words).tagsHere = true ∧ (copyF c.words).remote = 1 ∧ heldAt d ((copyF c.words).dst - 32) 32 = true)) →
      Takes (.copyComplete t id) d d)

/-- For a local COPY command of one row that its engine may take, whose checks pass, that meets no held grain and no granule without a key, and whose
source and destination do not overlap: the answer is a device in which byte i of the destination row reads as byte i of the source row read before,
for each of the row's bytes, and every byte of the device map outside the destination row reads as before. -/
def Obligations.LocalCopyMovesItsBytes : Prop :=
  ∀ (t : Fin 4) (c : CopyCmd) (d : Device), ((d.engAt t).copies.find? (fun x => x.id == c.id) = some c) → terOn d = true →
  mayStart (d.engAt t) c = true → (copyF c.words).op = 1 → copyChecks d c = 0 → ((nextSpans c).any (fun s => heldAt d s.1 s.2) = false) →
  (copyF c.words).moves = true → (copyF c.words).remote = 0 →
  ((List.range (copyF c.words).rows).find? (fun i => (List.range (copyF c.words).rowG).any (fun g => granuleBad d (copyF c.words) none i g)) = none) →
  (copyF c.words).rows = 1 →
  ((copyF c.words).src + (copyF c.words).len ≤ (copyF c.words).dst ∨ (copyF c.words).dst + (copyF c.words).len ≤ (copyF c.words).src) →
    ∃ e, Takes (.copy t c.id none) d e
      ∧ (∀ i, i < (copyF c.words).len → e.mem.read ((copyF c.words).dst + i) = d.mem.read ((copyF c.words).src + i))
      ∧ (∀ a, a < (copyF c.words).dst ∨ (copyF c.words).dst + (copyF c.words).len ≤ a → e.mem.read a = d.mem.read a)

/-- For Terraces that work and an address whose granule or line is held: in a saved context of the job nothing resolves it, so it is served again and a
job fault taken (15 R424). Else, for a live job: in a COPY buffer, the copy of the grain from the buffer's source enters the copy queue of the grain's
Terrace as firmware's command, or firmware waits for room there, while its source is not held and the same copy not queued yet (else nothing changes),
and a grain that is not whole granules is replayed; in a PRODUCED buffer the grain is released, and the pan of the job that wrote it, when its program
runs and is in that segment, starts the segment again (with no such pan, or one that has not reached that segment: replayed); in an INPUT buffer the
dispatched micro-batches that hold the sample slot are placed again and the grain is released (with none: replayed); in a STATE buffer, and where no
buffer names the address, it is replayed. Replayed: the uncommitted steps of the job are replayed and the grain is released. Otherwise nothing
changes. -/
def Obligations.BufferRegeneration : Prop :=
  (∀ (j : Fin 16) (addr : Nat) (b : BufEntry) (d : Device), terOn d = true → grainHeld d addr = true → inContext d j addr = false →
    (d.jobAt j).live = true → bufferOf d j addr = some b → b.kind = 0 →
    ((partOf b addr).1 % 32 = 0 ∧ (partOf b addr).2 % 32 = 0 ∧ (fieldAt b.source 0 8 + ((partOf b addr).1 - b.base)) % 32 = 0) →
    heldAt d (fieldAt b.source 0 8 + ((partOf b addr).1 - b.base)) (partOf b addr).2 = false →
    ((d.engAt (terOf addr)).copies.any (fun c => c.issuer == .firmware && c.words == recopyWords (fieldAt b.source 0 8 + ((partOf b addr).1 - b.base)) (partOf b addr).1 (partOf b addr).2) = false) →
      Takes (.bufferRegenerate j addr) d (if (d.engAt (terOf addr)).mayQueue .firmware j = true then d.issue.2.updEng (terOf addr) (fun e => e.queueCopy .firmware j d.issued (recopyWords (fieldAt b.source 0 8 + ((partOf b addr).1 - b.base)) (partOf b addr).1 (partOf b addr).2))
          else d.updEng (terOf addr) (fun e => e.await .firmware j)))
  ∧ (∀ (j : Fin 16) (addr : Nat) (b : BufEntry) (d : Device), terOn d = true → grainHeld d addr = true → inContext d j addr = false →
    (d.jobAt j).live = true → bufferOf d j addr = some b → b.kind = 0 →
    ((partOf b addr).1 % 32 = 0 ∧ (partOf b addr).2 % 32 = 0 ∧ (fieldAt b.source 0 8 + ((partOf b addr).1 - b.base)) % 32 = 0) →
    (heldAt d (fieldAt b.source 0 8 + ((partOf b addr).1 - b.base)) (partOf b addr).2 = true ∨ (d.engAt (terOf addr)).copies.any (fun c => c.issuer == .firmware && c.words == recopyWords (fieldAt b.source 0 8 + ((partOf b addr).1 - b.base)) (partOf b addr).1 (partOf b addr).2) = true) →
      Takes (.bufferRegenerate j addr) d d)
  ∧ (∀ (j : Fin 16) (addr : Nat) (b : BufEntry) (d : Device), terOn d = true → grainHeld d addr = true → inContext d j addr = false →
    (d.jobAt j).live = true → bufferOf d j addr = some b → b.kind = 0 →
    (¬((partOf b addr).1 % 32 = 0 ∧ (partOf b addr).2 % 32 = 0 ∧ (fieldAt b.source 0 8 + ((partOf b addr).1 - b.base)) % 32 = 0)) →
      Takes (.bufferRegenerate j addr) d ((d.replaySteps j).releaseGrain addr))
  ∧ (∀ (j : Fin 16) (addr : Nat) (b : BufEntry) (p : Nat) (d : Device), terOn d = true → grainHeld d addr = true → inContext d j addr = false →
    (d.jobAt j).live = true → bufferOf d j addr = some b → b.kind = 1 →
    ((pansOf d j).find? (fun p => (d.panAt p).job == some (j.val, fieldAt b.source 0 1)) = some p) →
      Takes (.bufferRegenerate j addr) d (if (d.panAt p).core.running ∧ (d.panAt p).core.segNo = fieldAt b.source 1 4 then (d.releaseGrain addr).updPan p Pan.rerun
          else if (d.panAt p).core.segNo < fieldAt b.source 1 4 then ((d.replaySteps j).releaseGrain addr) else d.releaseGrain addr))
  ∧ (∀ (j : Fin 16) (addr : Nat) (b : BufEntry) (d : Device), terOn d = true → grainHeld d addr = true → inContext d j addr = false →
    (d.jobAt j).live = true → bufferOf d j addr = some b → b.kind = 1 →
    ((pansOf d j).find? (fun p => (d.panAt p).job == some (j.val, fieldAt b.source 0 1)) = none) →
      Takes (.bufferRegenerate j addr) d ((d.replaySteps j).releaseGrain addr))
  ∧ (∀ (j : Fin 16) (addr : Nat) (b : BufEntry) (d : Device), terOn d = true → grainHeld d addr = true → inContext d j addr = false →
    (d.jobAt j).live = true → bufferOf d j addr = some b → b.kind = 2 →
    (((d.jobAt j).allSteps.flatMap (fun st => (st.mbs.filter (fun m => m.dispatched && m.samples.any (fun x => x.slot == fieldAt b.source 0 4))).map (fun m => (m.addr, batchBytes st m)))) ≠ []) →
      Takes (.bufferRegenerate j addr) d ((((d.jobAt j).allSteps.flatMap (fun st => (st.mbs.filter (fun m => m.dispatched && m.samples.any (fun x => x.slot == fieldAt b.source 0 4))).map (fun m => (m.addr, batchBytes st m)))).foldl (fun e x => e.store x.1 x.2) d).releaseGrain addr))
  ∧ (∀ (j : Fin 16) (addr : Nat) (b : BufEntry) (d : Device), terOn d = true → grainHeld d addr = true → inContext d j addr = false →
    (d.jobAt j).live = true → bufferOf d j addr = some b → b.kind = 2 →
    (((d.jobAt j).allSteps.flatMap (fun st => (st.mbs.filter (fun m => m.dispatched && m.samples.any (fun x => x.slot == fieldAt b.source 0 4))).map (fun m => (m.addr, batchBytes st m)))) = []) →
      Takes (.bufferRegenerate j addr) d ((d.replaySteps j).releaseGrain addr))
  ∧ (∀ (j : Fin 16) (addr : Nat) (b : BufEntry) (d : Device), terOn d = true → grainHeld d addr = true → inContext d j addr = false →
    (d.jobAt j).live = true → bufferOf d j addr = some b → 3 ≤ b.kind → Takes (.bufferRegenerate j addr) d ((d.replaySteps j).releaseGrain addr))
  ∧ (∀ (j : Fin 16) (addr : Nat) (d : Device), terOn d = true → grainHeld d addr = true → inContext d j addr = true →
      Takes (.bufferRegenerate j addr) d (d.releaseGrain addr).jobFault)
  ∧ (∀ (j : Fin 16) (addr : Nat) (d : Device), terOn d = true → grainHeld d addr = true → inContext d j addr = false → (d.jobAt j).live = true →
    bufferOf d j addr = none → Takes (.bufferRegenerate j addr) d ((d.replaySteps j).releaseGrain addr))
  ∧ (∀ (j : Fin 16) (addr : Nat) (d : Device), (terOn d = false ∨ grainHeld d addr = false ∨ (inContext d j addr = false ∧ (d.jobAt j).live = false)) →
      Takes (.bufferRegenerate j addr) d d)

/-- At a job boundary of the Terrace's partition with mailboxes served and power not in Shelf, BED_MODE_CHANGE empties the Brine cache, sets the modes,
leaves the contents of each bed that enters or leaves scratchpad mode undefined, and derives the seal; otherwise it changes nothing. At such a
boundary CHANNEL_MAP_OUT of a present channel that is not the last clears its bit, leaves the window's contents undefined and nothing dirty or held in
it, reports partner regions lost to their owners, ends partition region 1 at the new top, records the wear, derives the seal and logs the map-out (its
event code is a free value: log entry 40); otherwise it changes nothing. BED_MAP_OUT of a bed in service marks it out for good with its contents
undefined, a cache bed by way of an emptied cache, records the wear, derives the seal and logs; of one that is out it changes nothing.
TEST_MODE_ENABLE at a job boundary, with no partner region held, mailboxes served, not in Shelf and test mode off, empties the cache, leaves the
window and the raw bytes of the channels undefined, makes the stopped jobs of the partition LOST with no committed copy and their staging undefined,
turns test mode on and logs event 0x0402; otherwise it changes nothing. TEST_MODE_DISABLE in test mode turns it off, stops the Terrace's generators
and leaves the window undefined again; with test mode off it changes nothing. TG_GO holds PATTERN and OPMODE and clears ABORT; while a run is under
way it does no more; else it is REJECTED outside test mode, with a reserved PATTERN or past the channel's bursts, DONE at once for COUNT 0, and
otherwise a run starts with the registers as they stand. TG_ABORT ends a run as aborted, and the range of one that writes holds free bytes.
TG_RUN_DONE writes, checks or both the run's bursts, and ends a run that does not loop as done. TG_ABORT and TG_RUN_DONE with no run under way change
nothing. -/
def Obligations.MemoryModesAndTest : Prop :=
  (∀ (t : Fin 4) (modes : BitVec 80) (d : Device), atBoundary d t = true → d.inp.stage = .served → d.glb.cur ≠ .shelf →
      Takes (.bedModeChange t modes) d (((List.range 80).filter (fun b => (d.terAt t).bedMode.getLsbD b != modes.getLsbD b)).foldl (fun e b => e.undefBed t b)
        ((d.cacheOut t).updTer t (fun x => { x with bedMode := modes }))).deriveSeal)
  ∧ (∀ (t : Fin 4) (modes : BitVec 80) (d : Device), (atBoundary d t = false ∨ d.inp.stage ≠ .served ∨ d.glb.cur = .shelf) →
      Takes (.bedModeChange t modes) d d)
  ∧ (∀ (t : Fin 4) (c : Fin 32) (d : Device), atBoundary d t = true → (d.terAt t).chans.getLsbD c = true →
    (d.terAt t).chans &&& ~~~(1#32 <<< c.val) ≠ 0 →
      let d1 := (d.updTer t (fun x => { x with chans := (d.terAt t).chans &&& ~~~(1#32 <<< c.val), dirty := [], lostLines := x.lostLines.filter (fun l => !isWindow (256 * l)), mapOutDue := x.mapOutDue.filter (fun k => k != c.val) })).undefine (window t) (window (t + 1))
      let d2 := (d1.losePartners t).updTer t (fun x => { x with regions := modNth (fun r => { r with limit := populated d1 t / 2 ^ 26 - 1 }) x.regions 1 })
      let d3 := (d2.updWear (fun w => { w with chans := wearAdd w.chans (32 * t + c) })).deriveSeal
      Takes (.channelMapOut t c) d ((d3.logMapOut (srcChan (32 * t + c)) (32 * t + c)).noteRetire (retireReg d)))
  ∧ (∀ (t : Fin 4) (c : Fin 32) (d : Device),
    (atBoundary d t = false ∨ (d.terAt t).chans.getLsbD c = false ∨ (d.terAt t).chans &&& ~~~(1#32 <<< c.val) = 0) → Takes (.channelMapOut t c) d d)
  ∧ (∀ (t : Fin 4) (b : Fin 80) (d : Device), (d.terAt t).bedOut.getLsbD b = false →
      let d1 := if (d.terAt t).bedMode.getLsbD b then d else d.cacheOut t
      let d2 := ((d1.updTer t (fun x => { x with bedOut := x.bedOut ||| (1#80 <<< b.val) })).undefBed t b).updWear
        (fun w => { w with beds := wearAdd w.beds (80 * t + b) })
      Takes (.bedMapOut t b) d (d2.deriveSeal.logMapOut (srcTer t) (80 * t + b)))
  ∧ (∀ (t : Fin 4) (b : Fin 80) (d : Device), (d.terAt t).bedOut.getLsbD b = true → Takes (.bedMapOut t b) d d)
  ∧ (∀ (t : Fin 4) (d : Device), atBoundary d t = true → holdsPartner (d.terAt t) = false → d.inp.stage = .served → d.glb.cur ≠ .shelf →
    (d.terAt t).testEn = false →
      let d1 := (d.cacheOut t).undefine (window t) (window (t + 1))
      let d2 := (List.range 32).foldl (fun e c => e.updChan (32 * t + c) (fun x => { x with raw := rawUnknown d1.free })) { d1 with free := d1.free + 1 }
      let d3 := slots.foldl (fun e j =>
        if (e.jobAt j).part = some (partOfTer e.quy.layout t) ∧ ((e.jobAt j).state = .stopped ∨ (e.jobAt j).state = .lost) then
          e.updJob j (fun q => { q with state := .lost, commit := { q.commit with kept := false } }) else e) d2
      let d4 := slots.foldl (fun e j => match (e.jobAt j).resv with
        | some r => if r.part = partOfTer e.quy.layout t then e.undefine r.stageDev (r.stageDev + r.stageMib * 1048576) else e
        | none => e) d3
      Takes (.testModeEnable t) d ((d4.updTer t (fun x => { x with testEn := true })).logEvent (srcTer t) 0x0402 sevWarning none [t.val]))
  ∧ (∀ (t : Fin 4) (d : Device),
    (atBoundary d t = false ∨ holdsPartner (d.terAt t) = true ∨ d.inp.stage ≠ .served ∨ d.glb.cur = .shelf ∨ (d.terAt t).testEn = true) →
      Takes (.testModeEnable t) d d)
  ∧ (∀ (t : Fin 4) (d : Device), (d.terAt t).testEn = true →
      Takes (.testModeDisable t) d ((List.range 32).foldl (fun e c => e.updChan (32 * t + c) (fun x => { x with run := none, abort := false }))
        ((d.updTer t (fun x => { x with testEn := false })).undefine (window t) (window (t + 1)))))
  ∧ (∀ (t : Fin 4) (d : Device), (d.terAt t).testEn = false → Takes (.testModeDisable t) d d)
  ∧ (∀ (c : Fin 128) (pattern opmode : Nat) (d : Device), (d.chanAt c).run.isSome = true →
      Takes (.tgGo c pattern opmode) d (d.updChan c (fun x => { x with pattern := pattern % 8, opmode := opmode % 4, abort := false })))
  ∧ (∀ (c : Fin 128) (pattern opmode : Nat) (d : Device), (d.chanAt c).run = none →
    ((d.terAt (c / 32)).testEn = false ∨ 6 ≤ pattern % 8 ∨ rawBursts d < (d.chanAt c).start + (d.chanAt c).count) →
      Takes (.tgGo c pattern opmode) d (d.updChan c (fun x => { x with pattern := pattern % 8, opmode := opmode % 4, abort := false, rejected := true })))
  ∧ (∀ (c : Fin 128) (pattern opmode : Nat) (d : Device), (d.chanAt c).run = none → (d.terAt (c / 32)).testEn = true → pattern % 8 < 6 →
    (d.chanAt c).start + (d.chanAt c).count ≤ rawBursts d → (d.chanAt c).count = 0 →
      Takes (.tgGo c pattern opmode) d (d.updChan c (fun x => { x with pattern := pattern % 8, opmode := opmode % 4, abort := false, done := true })))
  ∧ (∀ (c : Fin 128) (pattern opmode : Nat) (d : Device), (d.chanAt c).run = none → (d.terAt (c / 32)).testEn = true → pattern % 8 < 6 →
    (d.chanAt c).start + (d.chanAt c).count ≤ rawBursts d → (d.chanAt c).count ≠ 0 →
      Takes (.tgGo c pattern opmode) d (d.updChan c (fun x => { x with
        pattern := pattern % 8, opmode := opmode % 4, abort := false
        run := some { pattern := pattern % 8, opmode := opmode % 4, start := x.start, count := x.count, seed := x.seed } })))
  ∧ (∀ (c : Fin 128) (r : TgRun) (d : Device), (d.chanAt c).run = some r → r.opmode = 1 →
      Takes (.tgAbort c) d (d.updChan c (fun x => { x with run := none, aborted := true, abort := false })))
  ∧ (∀ (c : Fin 128) (r : TgRun) (d : Device), (d.chanAt c).run = some r → r.opmode ≠ 1 →
      let d1 := d.updChan c (fun x => { x with run := none, aborted := true, abort := false })
      Takes (.tgAbort c) d (({ d1 with free := d1.free + 1 } : Device).updChan c (fun x => { x with
        raw := x.raw.blank (rawKey c (64 * r.start)) (rawKey c (64 * (r.start + r.count))) (some d.free) })))
  ∧ (∀ (c : Fin 128) (r : TgRun) (flips : List (Nat × Nat)) (d : Device), (d.chanAt c).run = some r →
      let ds := runData r.pattern r.count r.start (prbsStart r.pattern r.seed)
      Takes (.tgRunDone c flips) d (d.updChan c (fun x =>
        let y := if r.opmode = 1 then x else ds.foldl (fun y b => rawWrite c y b.1 b.2) x
        let z := if r.opmode = 0 then y else ds.foldl (checkBurst c flips) y
        if r.opmode = 3 then z else { z with run := none, done := true })))
  ∧ (∀ (c : Fin 128) (flips : List (Nat × Nat)) (d : Device), (d.chanAt c).run = none → Takes (.tgAbort c) d d ∧ Takes (.tgRunDone c flips) d d)

/-- For a Terrace whose Skim engine is clocked, with a command oldest in its queue: a failed engine ends it with status 0x0805, a record outside what the
job may read or a failing check with that status, each as an engine failure of its job; else, with nothing held that it touches, every output pixel is
computed in order, the command leaves the queue, the residue count grows by the mismatches met (none for a command of no pixels), and its flag is set
when asked. A corruption met in what it touches is counted and resolved, a persistent one held for lineage; what it leaves held makes the command
wait, else it goes on as without it. While something it touches is held, with a corruption that is not there, with no command queued, or unclocked,
SKIM_COMMAND changes nothing. SKIM_FAILED with the engine in service and clocked and a command queued marks the engine failed, counts three
mismatches, records the wear, logs event 0x0809 and faults the job; otherwise it changes nothing. -/
def Obligations.SkimCommands : Prop :=
  (∀ (t : Fin 4) (k : SkimCmd) (rest : List SkimCmd) (n : Nat) (hit : Option Hit) (d : Device), (d.engAt t).skim = k :: rest → engOn d = true →
    (d.engAt t).skimFailed = false → ((skimF k.bytes).recAddr % 32 = 0 ∧ engineAccess d k.job [((skimF k.bytes).recAddr, 64)] ≠ 0) →
      Takes (.skimCommand t n hit) d ((d.popSkim t).failEngine k.job k.seq (engineAccess d k.job [((skimF k.bytes).recAddr, 64)])))
  ∧ (∀ (t : Fin 4) (k : SkimCmd) (rest : List SkimCmd) (n : Nat) (hit : Option Hit) (d : Device), (d.engAt t).skim = k :: rest → engOn d = true →
    (d.engAt t).skimFailed = false → ((skimF k.bytes).recAddr % 32 ≠ 0 ∨ engineAccess d k.job [((skimF k.bytes).recAddr, 64)] = 0) →
    skimChecks d k.job (skimF k.bytes) (convRec (d.mem.readN (skimF k.bytes).recAddr 64)) ≠ 0 →
      Takes (.skimCommand t n hit) d ((d.popSkim t).failEngine k.job k.seq (skimChecks d k.job (skimF k.bytes) (convRec (d.mem.readN (skimF k.bytes).recAddr 64)))))
  ∧ (∀ (t : Fin 4) (k : SkimCmd) (rest : List SkimCmd) (n : Nat) (d : Device), (d.engAt t).skim = k :: rest → engOn d = true →
    (d.engAt t).skimFailed = false → ((skimF k.bytes).recAddr % 32 ≠ 0 ∨ engineAccess d k.job [((skimF k.bytes).recAddr, 64)] = 0) →
    skimChecks d k.job (skimF k.bytes) (convRec (d.mem.readN (skimF k.bytes).recAddr 64)) = 0 →
    ((if (skimF k.bytes).m = 0 then [((skimF k.bytes).recAddr, 64)] else ((skimF k.bytes).recAddr, 64) :: (skimF k.bytes).spans (convRec (d.mem.readN (skimF k.bytes).recAddr 64)) ++ (skimF k.bytes).pixels (convRec (d.mem.readN (skimF k.bytes).recAddr 64))).any (fun s => heldAt d s.1 s.2) = false) →
      let x := skimF k.bytes
      let c := convRec (d.mem.readN (skimF k.bytes).recAddr 64)
      let p := 16 * t.val + x.pan % 16
      let d1 := (List.range x.m).foldl (skimPixel d p x c) (d.updPan p (fun q => q.raise (.fl (x.m != 0 && skimFlushes d x c))))
      let d2 := (d1.popSkim t).updEng t (fun e => { e with skimResidue := satAdd e.skimResidue (if x.m = 0 then 0 else n) })
      Takes (.skimCommand t n none) d (if x.flagEn then d2.updPan p (fun q => q.setFlag x.flag) else d2))
  ∧ (∀ (t : Fin 4) (k : SkimCmd) (rest : List SkimCmd) (n : Nat) (h : Hit) (d : Device), (d.engAt t).skim = k :: rest → engOn d = true →
    (d.engAt t).skimFailed = false → ((skimF k.bytes).recAddr % 32 ≠ 0 ∨ engineAccess d k.job [((skimF k.bytes).recAddr, 64)] = 0) →
    skimChecks d k.job (skimF k.bytes) (convRec (d.mem.readN (skimF k.bytes).recAddr 64)) = 0 →
    ((if (skimF k.bytes).m = 0 then [((skimF k.bytes).recAddr, 64)] else ((skimF k.bytes).recAddr, 64) :: (skimF k.bytes).spans (convRec (d.mem.readN (skimF k.bytes).recAddr 64)) ++ (skimF k.bytes).pixels (convRec (d.mem.readN (skimF k.bytes).recAddr 64))).any (fun s => heldAt d s.1 s.2) = false) →
    (hitFits d h = true ∧ (if (skimF k.bytes).m = 0 then [((skimF k.bytes).recAddr, 64)] else ((skimF k.bytes).recAddr, 64) :: (skimF k.bytes).spans (convRec (d.mem.readN (skimF k.bytes).recAddr 64)) ++ (skimF k.bytes).pixels (convRec (d.mem.readN (skimF k.bytes).recAddr 64))).any (fun s => decide (s.1 ≤ hitAddr h) && decide (hitAddr h < s.1 + s.2)) = true) →
      Takes (.skimCommand t n (some h)) d (if hitPersistent h then (d.meetHit h).holdFault (hitAddr h)
        else if (if (skimF k.bytes).m = 0 then [((skimF k.bytes).recAddr, 64)] else ((skimF k.bytes).recAddr, 64) :: (skimF k.bytes).spans (convRec (d.mem.readN (skimF k.bytes).recAddr 64)) ++ (skimF k.bytes).pixels (convRec (d.mem.readN (skimF k.bytes).recAddr 64))).any (fun s => heldAt (d.meetHit h) s.1 s.2) then d.meetHit h else (d.meetHit h).skimWork t n (skimF k.bytes) (convRec (d.mem.readN (skimF k.bytes).recAddr 64))))
  ∧ (∀ (t : Fin 4) (k : SkimCmd) (rest : List SkimCmd) (n : Nat) (hit : Option Hit) (d : Device), (d.engAt t).skim = k :: rest → engOn d = true →
    (d.engAt t).skimFailed = false → ((skimF k.bytes).recAddr % 32 ≠ 0 ∨ engineAccess d k.job [((skimF k.bytes).recAddr, 64)] = 0) →
    skimChecks d k.job (skimF k.bytes) (convRec (d.mem.readN (skimF k.bytes).recAddr 64)) = 0 →
    ((if (skimF k.bytes).m = 0 then [((skimF k.bytes).recAddr, 64)] else ((skimF k.bytes).recAddr, 64) :: (skimF k.bytes).spans (convRec (d.mem.readN (skimF k.bytes).recAddr 64)) ++ (skimF k.bytes).pixels (convRec (d.mem.readN (skimF k.bytes).recAddr 64))).any (fun s => heldAt d s.1 s.2) = true ∨ (∃ h, hit = some h ∧ ¬(hitFits d h = true ∧ (if (skimF k.bytes).m = 0 then [((skimF k.bytes).recAddr, 64)] else ((skimF k.bytes).recAddr, 64) :: (skimF k.bytes).spans (convRec (d.mem.readN (skimF k.bytes).recAddr 64)) ++ (skimF k.bytes).pixels (convRec (d.mem.readN (skimF k.bytes).recAddr 64))).any (fun s => decide (s.1 ≤ hitAddr h) && decide (hitAddr h < s.1 + s.2)) = true))) →
      Takes (.skimCommand t n hit) d d)
  ∧ (∀ (t : Fin 4) (k : SkimCmd) (rest : List SkimCmd) (n : Nat) (hit : Option Hit) (d : Device), (d.engAt t).skim = k :: rest → engOn d = true →
    (d.engAt t).skimFailed = true → Takes (.skimCommand t n hit) d ((d.popSkim t).failEngine k.job k.seq 0x0805))
  ∧ (∀ (t : Fin 4) (n : Nat) (hit : Option Hit) (d : Device), ((d.engAt t).skim = [] ∨ engOn d = false) → Takes (.skimCommand t n hit) d d)
  ∧ (∀ (t : Fin 4) (k : SkimCmd) (rest : List SkimCmd) (d : Device), (d.engAt t).skim = k :: rest → engOn d = true → (d.engAt t).skimFailed = false →
      Takes (.skimFailed t) d ((((d.updEng t (fun e => { e with skimFailed := true, skimResidue := satAdd e.skimResidue 3 })).updWear
        (fun w => { w with skims := wearAdd w.skims t })).logEvent (srcTer t) 0x0809 sevFault (some k.job) [t.val]).jobFault))
  ∧ (∀ (t : Fin 4) (d : Device), ((d.engAt t).skim = [] ∨ engOn d = false ∨ (d.engAt t).skimFailed = true) → Takes (.skimFailed t) d d)

/-- For a Terrace whose Sluice is clocked, whose head command has the OP of the command (a reserved OP goes to DISPATCH and is rejected), no DISPATCH
under way and its wait met: if its checks give a status other than 0 the command is rejected with it, a COMBINE in another format than BF16 and FP16
with a status that is a free value (log entry 20), one whose accesses are refused with their status. Past that, with nothing held that it touches:
SELECT writes for each token the records of the KSEL greatest scores, DISPATCH sends its requests and its ENDs (to the group that its operand gives:
log entry 20), COMBINE forms the records of every admitted slot of every expert its Terrace owns, BRANCH writes the sixteen lists and packs the work
items onto the pan groups; SELECT, COMBINE and BRANCH leave the queue with their flag set. A COMBINE changes nothing while a record for a pan of this
device waits for a pass to be reissued. A corruption met in what is touched is counted and resolved, a persistent one held for lineage; what it leaves
held makes the command wait, else it goes on. While something is held, with a corruption that is not there, or with no such command to start, each
changes nothing, but that DISPATCH then goes on with an admission that a held line kept back. -/
def Obligations.SluiceCommands : Prop :=
  (∀ (t : Fin 4) (c : SluiceCmd) (x : SluiceF) (hit : Option Hit) (d : Device), (sluiceStart d t (fun op => op == 1) = some (c, x)) →
    selectChecks d c.job x ≠ 0 → Takes (.select t hit) d (d.rejectSluice t c (selectChecks d c.job x)))
  ∧ (∀ (t : Fin 4) (hit : Option Hit) (d : Device), (sluiceStart d t (fun op => op == 1) = none) → Takes (.select t hit) d d)
  ∧ (∀ (t : Fin 4) (c : SluiceCmd) (x : SluiceF) (group : List (Bool × Nat × Nat)) (hit : Option Hit) (d : Device),
    (sluiceStart d t (fun op => op != 1 && op != 3 && op != 4) = some (c, x)) → x.op = 2 → dispatchChecks d c.job x t ≠ 0 →
      Takes (.dispatch t group hit) d (d.rejectSluice t c (dispatchChecks d c.job x t)))
  ∧ (∀ (t : Fin 4) (group : List (Bool × Nat × Nat)) (hit : Option Hit) (d : Device),
    (sluiceStart d t (fun op => op != 1 && op != 3 && op != 4) = none) → Takes (.dispatch t group hit) d (if engOn d then d.grantAll t else d))
  ∧ (∀ (t : Fin 4) (c : SluiceCmd) (x : SluiceF) (hit : Option Hit) (d : Device), (sluiceStart d t (fun op => op == 3) = some (c, x)) →
    combineChecks x ≠ 0 → Takes (.combine t hit) d (d.rejectSluice t c (combineChecks x)))
  ∧ (∀ (t : Fin 4) (hit : Option Hit) (d : Device), (sluiceStart d t (fun op => op == 3) = none) → Takes (.combine t hit) d d)
  ∧ (∀ (t : Fin 4) (c : SluiceCmd) (x : SluiceF) (hit : Option Hit) (d : Device), (sluiceStart d t (fun op => op == 4) = some (c, x)) →
    branchChecks d c.job x ≠ 0 → Takes (.branch t hit) d (d.rejectSluice t c (branchChecks d c.job x)))
  ∧ (∀ (t : Fin 4) (hit : Option Hit) (d : Device), (sluiceStart d t (fun op => op == 4) = none) → Takes (.branch t hit) d d)
  ∧ (∀ (t : Fin 4) (c : SluiceCmd) (x : SluiceF) (group : List (Bool × Nat × Nat)) (hit : Option Hit) (d : Device),
    (sluiceStart d t (fun op => op != 1 && op != 3 && op != 4) = some (c, x)) → x.op ≠ 2 →
      Takes (.dispatch t group hit) d (d.rejectSluice t c stReserved))
  ∧ (∀ (t : Fin 4) (c : SluiceCmd) (x : SluiceF) (hit : Option Hit) (d : Device), (sluiceStart d t (fun op => op == 3) = some (c, x)) →
    combineChecks x = 0 → x.fmt ≠ 1 → x.fmt ≠ 2 → Takes (.combine t hit) d (let (v, d1) := d.draw; d1.rejectSluice t c (1 + v % 65535)))
  ∧ (∀ (t : Fin 4) (c : SluiceCmd) (x : SluiceF) (hit : Option Hit) (d : Device), (sluiceStart d t (fun op => op == 3) = some (c, x)) →
    combineChecks x = 0 → (x.fmt = 1 ∨ x.fmt = 2) → engineAccess d c.job (combineSpans d x t) ≠ 0 →
      Takes (.combine t hit) d (d.rejectSluice t c (engineAccess d c.job (combineSpans d x t))))
  ∧ (∀ (t : Fin 4) (c : SluiceCmd) (x : SluiceF) (hit : Option Hit) (d : Device), (sluiceStart d t (fun op => op == 3) = some (c, x)) →
    combineChecks x = 0 → (x.fmt = 1 ∨ x.fmt = 2) → engineAccess d c.job (combineSpans d x t) = 0 → combineWaits d = true → Takes (.combine t hit) d d)
  ∧ (∀ (t : Fin 4) (c : SluiceCmd) (x : SluiceF) (d : Device), (sluiceStart d t (fun op => op == 1) = some (c, x)) → selectChecks d c.job x = 0 →
    ((selectSpans x).any (fun s => heldAt d s.1 s.2) = false) →
      Takes (.select t none) d (((List.range x.t).foldl (fun e i => e.store (x.recordAt i 0) (chosen x.ksel ((List.range x.e).map (fun k =>
          d.mem.readLE (x.src + i * x.srcStride + 4 * k) 4)))) d).completeSluice t x))
  ∧ (∀ (t : Fin 4) (c : SluiceCmd) (x : SluiceF) (h : Hit) (d : Device), (sluiceStart d t (fun op => op == 1) = some (c, x)) →
    selectChecks d c.job x = 0 → ((selectSpans x).any (fun s => heldAt d s.1 s.2) = false) →
    (hitFits d h = true ∧ (selectSpans x).any (fun s => decide (s.1 ≤ hitAddr h) && decide (hitAddr h < s.1 + s.2)) = true) →
      Takes (.select t (some h)) d (if hitPersistent h then (d.meetHit h).holdFault (hitAddr h)
        else if (selectSpans x).any (fun s => heldAt (d.meetHit h) s.1 s.2) then d.meetHit h else (d.meetHit h).selectWork t x))
  ∧ (∀ (t : Fin 4) (c : SluiceCmd) (x : SluiceF) (hit : Option Hit) (d : Device), (sluiceStart d t (fun op => op == 1) = some (c, x)) →
    selectChecks d c.job x = 0 →
    (((selectSpans x).any (fun s => heldAt d s.1 s.2) = true) ∨ (∃ h, hit = some h ∧ ¬(hitFits d h = true ∧ (selectSpans x).any (fun s => decide (s.1 ≤ hitAddr h) && decide (hitAddr h < s.1 + s.2)) = true))) →
      Takes (.select t hit) d d)
  ∧ (∀ (t : Fin 4) (c : SluiceCmd) (x : SluiceF) (group : List (Bool × Nat × Nat)) (d : Device),
    (sluiceStart d t (fun op => op != 1 && op != 3 && op != 4) = some (c, x)) → x.op = 2 → dispatchChecks d c.job x t = 0 →
    ((dispatchSpans d x t).any (fun s => heldAt d s.1 s.2) = false) → Takes (.dispatch t group none) d (d.dispatchWork t c x group))
  ∧ (∀ (t : Fin 4) (c : SluiceCmd) (x : SluiceF) (group : List (Bool × Nat × Nat)) (h : Hit) (d : Device),
    (sluiceStart d t (fun op => op != 1 && op != 3 && op != 4) = some (c, x)) → x.op = 2 → dispatchChecks d c.job x t = 0 →
    ((dispatchSpans d x t).any (fun s => heldAt d s.1 s.2) = false) →
    (hitFits d h = true ∧ (dispatchSpans d x t).any (fun s => decide (s.1 ≤ hitAddr h) && decide (hitAddr h < s.1 + s.2)) = true) →
      Takes (.dispatch t group (some h)) d (if hitPersistent h then (d.meetHit h).holdFault (hitAddr h)
        else if (dispatchSpans d x t).any (fun s => heldAt (d.meetHit h) s.1 s.2) then d.meetHit h else (d.meetHit h).dispatchWork t c x group))
  ∧ (∀ (t : Fin 4) (c : SluiceCmd) (x : SluiceF) (group : List (Bool × Nat × Nat)) (hit : Option Hit) (d : Device),
    (sluiceStart d t (fun op => op != 1 && op != 3 && op != 4) = some (c, x)) → x.op = 2 → dispatchChecks d c.job x t = 0 →
    (((dispatchSpans d x t).any (fun s => heldAt d s.1 s.2) = true) ∨ (∃ h, hit = some h ∧ ¬(hitFits d h = true ∧ (dispatchSpans d x t).any (fun s => decide (s.1 ≤ hitAddr h) && decide (hitAddr h < s.1 + s.2)) = true))) →
      Takes (.dispatch t group hit) d d)
  ∧ (∀ (t : Fin 4) (c : SluiceCmd) (x : SluiceF) (d : Device), (sluiceStart d t (fun op => op == 3) = some (c, x)) → combineChecks x = 0 →
    (x.fmt = 1 ∨ x.fmt = 2) → engineAccess d c.job (combineSpans d x t) = 0 → combineWaits d = false →
    ((combineSpans d x t).any (fun s => heldAt d s.1 s.2) = false) →
      Takes (.combine t none) d ((((ownedExperts d x t).foldl (fun f e => (List.range (admittedOf d x e)).foldl (combineSlot d c.job t x e) f) d).updEng t
          (fun e => { e with combines := c :: e.combines.filter (fun y => !((sluiceF y.bytes).xtab == x.xtab && (sluiceF y.bytes).stat == x.stat)) })).completeSluice t x))
  ∧ (∀ (t : Fin 4) (c : SluiceCmd) (x : SluiceF) (h : Hit) (d : Device), (sluiceStart d t (fun op => op == 3) = some (c, x)) → combineChecks x = 0 →
    (x.fmt = 1 ∨ x.fmt = 2) → engineAccess d c.job (combineSpans d x t) = 0 → combineWaits d = false →
    ((combineSpans d x t).any (fun s => heldAt d s.1 s.2) = false) →
    (hitFits d h = true ∧ (combineSpans d x t).any (fun s => decide (s.1 ≤ hitAddr h) && decide (hitAddr h < s.1 + s.2)) = true) →
      Takes (.combine t (some h)) d (if hitPersistent h then (d.meetHit h).holdFault (hitAddr h)
        else if (combineSpans d x t).any (fun s => heldAt (d.meetHit h) s.1 s.2) then d.meetHit h else (d.meetHit h).combineWork t c x))
  ∧ (∀ (t : Fin 4) (c : SluiceCmd) (x : SluiceF) (hit : Option Hit) (d : Device), (sluiceStart d t (fun op => op == 3) = some (c, x)) →
    combineChecks x = 0 → (x.fmt = 1 ∨ x.fmt = 2) → engineAccess d c.job (combineSpans d x t) = 0 → combineWaits d = false →
    (((combineSpans d x t).any (fun s => heldAt d s.1 s.2) = true) ∨ (∃ h, hit = some h ∧ ¬(hitFits d h = true ∧ (combineSpans d x t).any (fun s => decide (s.1 ≤ hitAddr h) && decide (hitAddr h < s.1 + s.2)) = true))) →
      Takes (.combine t hit) d d)
  ∧ (∀ (t : Fin 4) (c : SluiceCmd) (x : SluiceF) (d : Device), (sluiceStart d t (fun op => op == 4) = some (c, x)) → branchChecks d c.job x = 0 →
    ((branchSpans x).any (fun s => heldAt d s.1 s.2) = false) →
      Takes (.branch t none) d (let cost := Config.branchCost (((d.jobAt c.job).setup.map (fun u => u.prog.digest)).getD [])
        let groups := Config.branchGroups (((d.jobAt c.job).setup.map (fun u => u.prog.digest)).getD [])
        (((List.range 16).foldl (fun e b => e.store (x.route + b * branchStep x) (branchList d x b)) d).updEng t (fun e => { e with
          work := packWork cost (workOrder cost (branchItems d x)) (List.replicate groups 0) })).completeSluice t x))
  ∧ (∀ (t : Fin 4) (c : SluiceCmd) (x : SluiceF) (h : Hit) (d : Device), (sluiceStart d t (fun op => op == 4) = some (c, x)) →
    branchChecks d c.job x = 0 → ((branchSpans x).any (fun s => heldAt d s.1 s.2) = false) →
    (hitFits d h = true ∧ (branchSpans x).any (fun s => decide (s.1 ≤ hitAddr h) && decide (hitAddr h < s.1 + s.2)) = true) →
      Takes (.branch t (some h)) d (if hitPersistent h then (d.meetHit h).holdFault (hitAddr h)
        else if (branchSpans x).any (fun s => heldAt (d.meetHit h) s.1 s.2) then d.meetHit h else (d.meetHit h).branchWork t c x))
  ∧ (∀ (t : Fin 4) (c : SluiceCmd) (x : SluiceF) (hit : Option Hit) (d : Device), (sluiceStart d t (fun op => op == 4) = some (c, x)) →
    branchChecks d c.job x = 0 →
    (((branchSpans x).any (fun s => heldAt d s.1 s.2) = true) ∨ (∃ h, hit = some h ∧ ¬(hitFits d h = true ∧ (branchSpans x).any (fun s => decide (s.1 ≤ hitAddr h) && decide (hitAddr h < s.1 + s.2)) = true))) →
      Takes (.branch t hit) d d)

/-- On a Terrace whose Sluice is clocked: SLUICE_REQUEST adds the request to the owner's inbox; SLUICE_END adds the END with its source there, and with an
END from NSRC sources the owner of a DISPATCH in progress admits (fewer, or no such DISPATCH: nothing more happens); SLUICE_GRANT, SLUICE_ROW and
SLUICE_RECORD do at their Terrace what a grant, an admitted row and a record do there, but a grant or a row waits and changes nothing while a line it
touches is held, and a record while its pan has a pass to be reissued. A corruption that a grant meets in what it touches is counted and resolved, a
persistent one held for lineage, and one that is not there leaves it undone. On one that is not clocked each changes nothing. -/
def Obligations.SluiceMessages : Prop :=
  (∀ (t : Fin 4) (r : SlReq) (d : Device), engOn d = true →
      Takes (.sluiceRequest t r) d (d.updEng t (fun e => { e with inbox := e.inbox ++ [{ isLocal := r.srcLocal, peer := r.srcPeer, ter := r.srcTer, req := some r }] })))
  ∧ (∀ (t : Fin 4) (peer ter : Nat) (c : SluiceCmd) (p : Dispatch) (d : Device), engOn d = true → d.sluiceHead t = some c → (d.engAt t).disp = some p →
    (p.answered = true ∨ (endedSources ((d.engAt t).inbox ++ [{ isLocal := false, peer := peer, ter := ter }])).length < (sluiceF c.bytes).nsrc) →
      Takes (.sluiceEnd t peer ter) d (d.updEng t (fun e => { e with inbox := e.inbox ++ [{ isLocal := false, peer := peer, ter := ter }] })))
  ∧ (∀ (t : Fin 4) (peer ter : Nat) (d : Device), engOn d = true → (d.sluiceHead t = none ∨ (d.engAt t).disp = none) →
      Takes (.sluiceEnd t peer ter) d (d.updEng t (fun e => { e with inbox := e.inbox ++ [{ isLocal := false, peer := peer, ter := ter }] })))
  ∧ (∀ (t : Fin 4) (peer ter : Nat) (d : Device), engOn d = true →
      Takes (.sluiceEnd t peer ter) d ((d.updEng t (fun e => { e with inbox := e.inbox ++ [{ isLocal := false, peer := peer, ter := ter }] })).grantAll t))
  ∧ (∀ (t : Fin 4) (expert slot : Nat) (data : List Nat) (d : Device), engOn d = true →
    (∀ c, d.sluiceHead t = some c → heldAt d (rowSpan d (sluiceF c.bytes) expert slot data.length).1 (rowSpan d (sluiceF c.bytes) expert slot data.length).2 = false) →
      Takes (.sluiceRow t expert slot data) d (d.takeRow t expert slot data))
  ∧ (∀ (t : Fin 4) (expert slot : Nat) (data : List Nat) (c : SluiceCmd) (d : Device), d.sluiceHead t = some c →
    heldAt d (rowSpan d (sluiceF c.bytes) expert slot data.length).1 (rowSpan d (sluiceF c.bytes) expert slot data.length).2 = true →
      Takes (.sluiceRow t expert slot data) d d)
  ∧ (∀ (t : Fin 4) (src ter expert slot token col : Nat) (rc : List Nat) (d : Device), engOn d = true → recordWaits d t expert slot token col = false →
      Takes (.sluiceRecord t src ter expert slot token col rc) d (d.takeRecord09 t src ter expert slot token col rc))
  ∧ (∀ (t : Fin 4) (src ter expert slot token col : Nat) (rc : List Nat) (d : Device), recordWaits d t expert slot token col = true →
      Takes (.sluiceRecord t src ter expert slot token col rc) d d)
  ∧ (∀ (t : Fin 4) (token rank slot : Nat) (d : Device), engOn d = true → ((grantSpans d t token rank slot).any (fun s => heldAt d s.1 s.2) = false) →
      Takes (.sluiceGrant t token rank slot none) d (d.takeGrant t token rank slot))
  ∧ (∀ (t : Fin 4) (token rank slot : Nat) (h : Hit) (d : Device), engOn d = true →
    ((grantSpans d t token rank slot).any (fun s => heldAt d s.1 s.2) = false) →
    (hitFits d h = true ∧ (grantSpans d t token rank slot).any (fun s => decide (s.1 ≤ hitAddr h) && decide (hitAddr h < s.1 + s.2)) = true) →
      Takes (.sluiceGrant t token rank slot (some h)) d (if hitPersistent h then (d.meetHit h).holdFault (hitAddr h)
        else if (grantSpans d t token rank slot).any (fun s => heldAt (d.meetHit h) s.1 s.2) then d.meetHit h else (d.meetHit h).takeGrant t token rank slot))
  ∧ (∀ (t : Fin 4) (token rank slot : Nat) (hit : Option Hit) (d : Device), engOn d = true →
    (((grantSpans d t token rank slot).any (fun s => heldAt d s.1 s.2) = true) ∨ (∃ h, hit = some h ∧ ¬(hitFits d h = true ∧ (grantSpans d t token rank slot).any (fun s => decide (s.1 ≤ hitAddr h) && decide (hitAddr h < s.1 + s.2)) = true))) →
      Takes (.sluiceGrant t token rank slot hit) d d)
  ∧ (∀ (t : Fin 4) (r : SlReq) (d : Device), engOn d = false → Takes (.sluiceRequest t r) d d)
  ∧ (∀ (t : Fin 4) (peer ter : Nat) (d : Device), engOn d = false → Takes (.sluiceEnd t peer ter) d d)
  ∧ (∀ (t : Fin 4) (token rank slot : Nat) (hit : Option Hit) (d : Device), engOn d = false → Takes (.sluiceGrant t token rank slot hit) d d)
  ∧ (∀ (t : Fin 4) (expert slot : Nat) (data : List Nat) (d : Device), engOn d = false → Takes (.sluiceRow t expert slot data) d d)
  ∧ (∀ (t : Fin 4) (src ter expert slot token col : Nat) (rc : List Nat) (d : Device), engOn d = false →
      Takes (.sluiceRecord t src ter expert slot token col rc) d d)

/-- On a clocked Terrace each of the five completes. SLUICE_REQUEST leaves the request last in the owner's inbox. SLUICE_END leaves the END last there,
and nothing more while fewer than NSRC sources have sent theirs, the admission is made, or no DISPATCH is under way. SLUICE_RECORD of a record that a
DISPATCH expects, well formed, with a good residue, for an entry of normal mode that is no attention entry, and with no pass to be reissued there,
leaves the entry with the record packed-added, the record counted for its pan and noted as seen, and the counts that it reaches settled; one that no
DISPATCH expects is dropped. With a DISPATCH under way that still owes other answers, and nothing held: SLUICE_GRANT with slot 0xFFFF writes 0xFFFF to
the slot field of the routing record of that token and rank and owes one grant less, sending no row; SLUICE_ROW writes its bytes to the slot of the
expert's buffer and owes one row less. With no such answer due each of these two changes nothing. -/
def Obligations.GrantAndRowAtTheSluice : Prop :=
  (∀ (t : Fin 4) (r : SlReq) (d : Device), engOn d = true →
      ∀ l, exec (.sluiceRequest t r) { dev := d, pending := l } = .next { dev := d.updEng t (fun e => { e with inbox := e.inbox ++ [{ isLocal := r.srcLocal, peer := r.srcPeer, ter := r.srcTer, req := some r }] }), pending := l })
  ∧ (∀ (t : Fin 4) (peer ter : Nat) (d : Device), engOn d = true →
    (∀ c p, d.sluiceHead t = some c → (d.engAt t).disp = some p → p.answered = true ∨
      (endedSources ((d.engAt t).inbox ++ [{ isLocal := false, peer := peer, ter := ter }])).length < (sluiceF c.bytes).nsrc) →
      ∀ l, exec (.sluiceEnd t peer ter) { dev := d, pending := l } = .next { dev := d.updEng t (fun e => { e with inbox := e.inbox ++ [{ isLocal := false, peer := peer, ter := ter }] }), pending := l })
  ∧ (∀ (t : Fin 4) (src ter expert slot token col : Nat) (rc : List Nat) (k : Nat) (g : CombineTarget) (r : Packet99) (rest : List Nat) (d : Device),
    engOn d = true → recordWaits d t expert slot token col = false → targetOf (d.engAt t).targets expert slot token col = some k →
    (d.engAt t).targets[k]? = some g → takeRecord rc = some (r, rest) → g.tbase ≤ token → col < g.dv → (g.place token col).1 ≤ 15 →
    (g.place token col).2.1 ≤ 63 → residueOk r = true → ((d.panAt (16 * t + (g.place token col).1)).row (g.place token col).2.1).attn = false →
    ((d.panAt (16 * t + (g.place token col).1)).entry (g.place token col).2.1 (g.place token col).2.2).heritage = none →
      let a := g.place token col
      let d1 := d.updPan (16 * t + a.1) (fun q => q.setEntry a.2.1 a.2.2 (((d.panAt (16 * t + a.1)).entry a.2.1 a.2.2).packedAdd r))
      let h : CombineTarget := { g with missed := g.missed.filter (· != [src, ter, expert, slot, col]), seen := (expert, slot, col) :: g.seen,
                                        counts := addCounts g.counts [{ pan := a.1, expect := 0, got := 1 }] }
      ∀ l, exec (.sluiceRecord t src ter expert slot token col rc) { dev := d, pending := l } =
        .next { dev := (d1.updEng t (fun f => { f with targets := modNth (fun _ => h) f.targets k })).settleCombine t, pending := l })
  ∧ (∀ (t : Fin 4) (src ter expert slot token col : Nat) (rc : List Nat) (d : Device), engOn d = true →
    targetOf (d.engAt t).targets expert slot token col = none →
      ∀ l, exec (.sluiceRecord t src ter expert slot token col rc) { dev := d, pending := l } = .next { dev := d, pending := l })
  ∧ (∀ (t : Fin 4) (token rank : Nat) (c : SluiceCmd) (p : Dispatch) (d : Device), engOn d = true → d.sluiceHead t = some c →
    (d.engAt t).disp = some p → 2 ≤ p.grantsDue → ((grantSpans d t token rank 0xFFFF).any (fun s => heldAt d s.1 s.2) = false) →
      Takes (.sluiceGrant t token rank 0xFFFF none) d ((d.store ((sluiceF c.bytes).recordAt (token - (sluiceF c.bytes).tbase) rank + 2) [255, 255]).updEng t
        (fun e => { e with disp := some { p with grantsDue := p.grantsDue - 1 } })))
  ∧ (∀ (t : Fin 4) (expert slot : Nat) (data : List Nat) (c : SluiceCmd) (p : Dispatch) (d : Device), engOn d = true → d.sluiceHead t = some c →
    (d.engAt t).disp = some p → 2 ≤ p.rowsDue → heldAt d (rowSpan d (sluiceF c.bytes) expert slot data.length).1 data.length = false →
      let y := expertAt d (sluiceF c.bytes) expert
      Takes (.sluiceRow t expert slot data) d ((d.store (y.buf + slot * y.stride) data).updEng t (fun e => { e with disp := some { p with rowsDue := p.rowsDue - 1 } })))
  ∧ (∀ (t : Fin 4) (token rank slot : Nat) (d : Device), ((d.engAt t).disp.all (fun p => p.grantsDue == 0) = true) →
      Takes (.sluiceGrant t token rank slot none) d d)
  ∧ (∀ (t : Fin 4) (expert slot : Nat) (data : List Nat) (d : Device), ((d.engAt t).disp.all (fun p => p.rowsDue == 0) = true) →
      Takes (.sluiceRow t expert slot data) d d)

/-- For every list of requests and expert, the list from which the owner admits the first CAP is a rearrangement of exactly the requests for that expert,
in non-descending global token index. -/
def Obligations.RequestsAdmittedInTokenOrder : Prop :=
  ∀ (rs : List SlReq) (e : Nat),
    (requestsFor rs e).Perm (rs.filter (fun r => r.expert == e)) ∧ (requestsFor rs e).Pairwise (fun a b => a.token ≤ b.token)

/-- For a transaction addressed to this device while its Bund side works: READ and WRITE whose access is refused answer with that status and no data and
change no byte; with the access allowed and no line held, READ answers ST_OK with the LEN bytes at ADDR, and WRITE stores LEN bytes of its data there
and answers ST_OK; while a line of the stretch is held both wait. A corruption that a READ meets there is counted and resolved: a persistent one is
answered with the unrecovered status and no data, one that leaves its line held makes the READ wait, else the data goes out; one that is not there
changes nothing. READ_RESP that matches an outstanding READ hands its status and data to the waiting copy command (while the destination is held, data
waits); WRITE_ACK that matches a WRITE hands its status to it, or, for a WRITE of a log entry or an image, to the holder's record; unmatched ones
change nothing, as does any of the four addressed elsewhere. -/
def Obligations.BundReadAndWrite : Prop :=
  (∀ (x : Txn) (hit : Option Hit) (d : Device), mine d x = true → peerAccess d x ≠ 0 → Takes (.read x hit) d (d.respond x 2 (peerAccess d x) []))
  ∧ (∀ (x : Txn) (d : Device), mine d x = true → peerAccess d x ≠ 0 → Takes (.write x) d (d.respond x 4 (peerAccess d x) []))
  ∧ (∀ (x : Txn) (d : Device), mine d x = true → peerAccess d x = 0 →
    ((([(x.addr, x.len)] : List (Nat × Nat))).any (fun s => heldAt d s.1 s.2) = false) →
      Takes (.read x none) d (d.respond x 2 stOk (d.readN x.addr x.len)))
  ∧ (∀ (x : Txn) (h : Hit) (d : Device), mine d x = true → peerAccess d x = 0 →
    ((([(x.addr, x.len)] : List (Nat × Nat))).any (fun s => heldAt d s.1 s.2) = false) →
    (hitFits d h = true ∧ (([(x.addr, x.len)] : List (Nat × Nat))).any (fun s => decide (s.1 ≤ hitAddr h) && decide (hitAddr h < s.1 + s.2)) = true) →
      Takes (.read x (some h)) d (if hitPersistent h then (d.meetHit h).respond x 2 stUnrecovered []
        else if (([(x.addr, x.len)] : List (Nat × Nat))).any (fun s => heldAt (d.meetHit h) s.1 s.2) then d.meetHit h else (d.meetHit h).respond x 2 stOk ((d.meetHit h).readN x.addr x.len)))
  ∧ (∀ (x : Txn) (hit : Option Hit) (d : Device), mine d x = true → peerAccess d x = 0 →
    (((([(x.addr, x.len)] : List (Nat × Nat))).any (fun s => heldAt d s.1 s.2) = true) ∨ (∃ h, hit = some h ∧ ¬(hitFits d h = true ∧ (([(x.addr, x.len)] : List (Nat × Nat))).any (fun s => decide (s.1 ≤ hitAddr h) && decide (hitAddr h < s.1 + s.2)) = true))) →
      Takes (.read x hit) d d)
  ∧ (∀ (x : Txn) (d : Device), mine d x = true → peerAccess d x = 0 → heldAt d x.addr x.len = false →
      Takes (.write x) d ((d.store x.addr (sliceAt x.data 0 x.len)).respond x 4 stOk []))
  ∧ (∀ (x : Txn) (d : Device), mine d x = true → peerAccess d x = 0 → heldAt d x.addr x.len = true → Takes (.write x) d d)
  ∧ (∀ (x : Txn) (p : Pending) (d : Device), mine d x = true → d.pendOf 1 x = some p → (x.status ≠ 0 ∨ heldAt d p.dest p.txn.len = false) →
      Takes (.readResp x) d (d.answerCopy p x.status (sliceAt x.data 0 p.txn.len)))
  ∧ (∀ (x : Txn) (p : Pending) (d : Device), mine d x = true → d.pendOf 1 x = some p → x.status = 0 → heldAt d p.dest p.txn.len = true →
      Takes (.readResp x) d d)
  ∧ (∀ (x : Txn) (p : Pending) (d : Device), mine d x = true → d.pendOf 3 x = some p → p.image = false → p.logStep = none →
      Takes (.writeAck x) d (d.answerCopy p x.status []))
  ∧ (∀ (x : Txn) (p : Pending) (d : Device), mine d x = true → d.pendOf 3 x = some p → (p.image = true ∨ p.logStep.isSome = true) →
      Takes (.writeAck x) d (d.answerHolder p x.status))
  ∧ (∀ (x : Txn) (d : Device), mine d x = true → d.pendOf 1 x = none → Takes (.readResp x) d d)
  ∧ (∀ (x : Txn) (d : Device), mine d x = true → d.pendOf 3 x = none → Takes (.writeAck x) d d)
  ∧ (∀ (x : Txn) (hit : Option Hit) (d : Device), mine d x = false →
      Takes (.read x hit) d d ∧ Takes (.write x) d d ∧ Takes (.readResp x) d d ∧ Takes (.writeAck x) d d)

/-- For a LADD addressed to this device while its Bund side works: at alarm level 2 or more it is answered ST_SEC_LOCKDOWN; below it, with no program
loaded for its job it ends with ST_FAB_TARGET_ABSENT; out of range with ST_PARAM_RANGE; with FWD and a chain record that agrees with no entry as
malformed; past that, where no pan takes its records now (the job not resident, or being switched out and the LADD not one whose records were asked
for again) with ST_FAB_TARGET_ABSENT; on a pan with a pass to be reissued it waits; else its records (of one held for records asked again, only those
it lacks) are added in order. LADD_ACK that matches: the absent status keeps the LADD for a resend; ST_OK ends it; another status ends it and is
reported. LADD and LADD_ACK for another device, and an unmatched LADD_ACK, change nothing. LADD_RESEND sends every kept LADD again where the Bund side
works, else changes nothing. CHAIN_FORWARD forwards a chain of a live job once its count is there (the first member: LOCAL_FLAG set anew) with its
LOCAL_FLAG set and no pass to be reissued, else changes nothing. RECORD_REQUEST_AGAIN forms the canonical record of the entry again and sends it, or
the record of a slot; for a LADD or a pan it does not know, or where the Bund side does not work, it changes nothing. -/
def Obligations.LedgerAddTransactions : Prop :=
  (∀ (x : Txn) (d : Device), mine d x = true → 2 ≤ d.sec.level → Takes (.ladd x) d (d.respond x 6 stLockdown []))
  ∧ (∀ (x : Txn) (d : Device), mine d x = true → d.sec.level < 2 → (d.jobAt x.job).setup = none →
      Takes (.ladd x) d (d.finishLadd { txn := x, missing := [], status := stTargetAbsent }))
  ∧ (∀ (x : Txn) (u : JobSetup) (d : Device), mine d x = true → d.sec.level < 2 → (d.jobAt x.job).setup = some u →
    laddRange x u.prog.pans (txnRecords x).length = true → Takes (.ladd x) d (d.finishLadd { txn := x, missing := [], status := stRange }))
  ∧ (∀ (x : Txn) (u : JobSetup) (d : Device), mine d x = true → d.sec.level < 2 → (d.jobAt x.job).setup = some u →
    laddRange x u.prog.pans (txnRecords x).length = false → laddFwd x = true → chainOk d x = false →
      Takes (.ladd x) d (d.finishLadd { txn := x, missing := [], status := stMalformed }))
  ∧ (∀ (x : Txn) (u : JobSetup) (d : Device), mine d x = true → d.sec.level < 2 → (d.jobAt x.job).setup = some u →
    laddRange x u.prog.pans (txnRecords x).length = false → (laddFwd x = false ∨ chainOk d x = true) →
    (laddTarget d x ((d.fab.held.find? (fun h => h.txn.src == x.src && h.txn.tag == x.tag && h.txn.job == x.job && !(h.acked && h.status != stTargetAbsent))).filter (fun h => !h.missing.isEmpty)).isSome = none) →
      Takes (.ladd x) d (d.finishLadd { txn := x, missing := [], status := stTargetAbsent }))
  ∧ (∀ (x : Txn) (u : JobSetup) (p : Nat) (d : Device), mine d x = true → d.sec.level < 2 → (d.jobAt x.job).setup = some u →
    laddRange x u.prog.pans (txnRecords x).length = false → (laddFwd x = false ∨ chainOk d x = true) →
    (laddTarget d x ((d.fab.held.find? (fun h => h.txn.src == x.src && h.txn.tag == x.tag && h.txn.job == x.job && !(h.acked && h.status != stTargetAbsent))).filter (fun h => !h.missing.isEmpty)).isSome = some p) →
    reissueDue d p = false →
      Takes (.ladd x) d (d.runLadd x p ((d.fab.held.find? (fun h => h.txn.src == x.src && h.txn.tag == x.tag && h.txn.job == x.job && !(h.acked && h.status != stTargetAbsent))).filter (fun h => !h.missing.isEmpty))))
  ∧ (∀ (x : Txn) (u : JobSetup) (p : Nat) (d : Device), mine d x = true → d.sec.level < 2 → (d.jobAt x.job).setup = some u →
    laddRange x u.prog.pans (txnRecords x).length = false → (laddFwd x = false ∨ chainOk d x = true) →
    (laddTarget d x ((d.fab.held.find? (fun h => h.txn.src == x.src && h.txn.tag == x.tag && h.txn.job == x.job && !(h.acked && h.status != stTargetAbsent))).filter (fun h => !h.missing.isEmpty)).isSome = some p) →
    reissueDue d p = true → Takes (.ladd x) d d)
  ∧ (∀ (x : Txn) (p : Pending) (d : Device), mine d x = true → d.pendOf 5 x = some p → x.status = stTargetAbsent →
      Takes (.laddAck x) d { d with fab := { d.fab with absent := d.fab.absent.filter (fun y => y.tag != p.tag) ++ [p.txn] } })
  ∧ (∀ (x : Txn) (p : Pending) (d : Device), mine d x = true → d.pendOf 5 x = some p → x.status ≠ stTargetAbsent →
      Takes (.laddAck x) d (if x.status = 0 then d.dropPend p else (d.dropPend p).report p.job x.status))
  ∧ (∀ (x : Txn) (d : Device), mine d x = false → Takes (.ladd x) d d ∧ Takes (.laddAck x) d d)
  ∧ (∀ (x : Txn) (d : Device), d.pendOf 5 x = none → Takes (.laddAck x) d d)
  ∧ (∀ (d : Device), terOn d = true →
      Takes .laddResend d (d.fab.absent.foldl (fun e x => e.launch x) ({ d with fab := { d.fab with absent := [] } } : Device)))
  ∧ (∀ (d : Device), terOn d = false → Takes .laddResend d d)
  ∧ (∀ (j : Fin 16) (chain p : Nat) (e : List Nat) (c : ChainRun) (d : Device), chainEntry d j chain = some e → physPan d j (fieldAt e 12 1) = some p →
    ((d.fab.chains.find? (fun r => r.job == j.val && r.id == chain)).getD { job := j, id := chain } = c) →
    (terOn d = true ∧ (d.jobAt j).live = true ∧ (d.panAt p).flag (fieldAt e 15 1) = true ∧ reissueDue d p = false ∧ (if fieldAt e 2 1 = 0 ∨ fieldAt e 8 4 = 0 then c.sent = false else fieldAt e 8 4 ≤ c.added)) →
      Takes (.chainForward j chain) d (d.forwardChain j chain p e))
  ∧ (∀ (j : Fin 16) (chain p : Nat) (e : List Nat) (c : ChainRun) (d : Device), chainEntry d j chain = some e → physPan d j (fieldAt e 12 1) = some p →
    ((d.fab.chains.find? (fun r => r.job == j.val && r.id == chain)).getD { job := j, id := chain } = c) →
    (¬(terOn d = true ∧ (d.jobAt j).live = true ∧ (d.panAt p).flag (fieldAt e 15 1) = true ∧ reissueDue d p = false ∧ (if fieldAt e 2 1 = 0 ∨ fieldAt e 8 4 = 0 then c.sent = false else fieldAt e 8 4 ≤ c.added))) →
      Takes (.chainForward j chain) d d)
  ∧ (∀ (j : Fin 16) (chain : Nat) (d : Device), (∀ e, chainEntry d j chain = some e → physPan d j (fieldAt e 12 1) = none) →
      Takes (.chainForward j chain) d d)
  ∧ (∀ (src tag index k : Nat) (j : Fin 16) (p : Pending) (d : Device), terOn d = true →
    (d.fab.pend.find? (fun r => r.tag == tag && r.txn.op == 5 && r.txn.dst == src && r.job == j.val) = some p) → physPan d j p.pan = some k →
      let bs := (if laddFwd p.txn then p.txn.data.take 8 else []) ++ (canonicalRecord ((d.panAt k).entry ((p.key + index) / 256) ((p.key + index) % 256))).bytes
      Takes (.recordRequestAgain src j (.ladd tag index)) d (d.launch { p.txn with addr := laddAt p.txn.addr index, data := bs, len := bs.length }))
  ∧ (∀ (src tag index : Nat) (j : Fin 16) (d : Device),
    (∀ p, d.fab.pend.find? (fun r => r.tag == tag && r.txn.op == 5 && r.txn.dst == src && r.job == j.val) = some p → physPan d j p.pan = none) →
      Takes (.recordRequestAgain src j (.ladd tag index)) d d)
  ∧ (∀ (src ownTer ter expert slot token col : Nat) (j : Fin 16) (d : Device), terOn d = true →
      Takes (.recordRequestAgain src j (.sluice ownTer ter expert slot token col)) d (d.reformRecord j src ownTer ter expert slot token col))
  ∧ (∀ (src : Nat) (j : Fin 16) (w : Again) (d : Device), terOn d = false → Takes (.recordRequestAgain src j w) d d)

/-- FLAGSET addressed to this device while its Bund side works, for a job with a program, sets the flag that ADDR names in the logical pan it names, or
reports ST_PARAM_RANGE when ADDR names no pan of the program; one that comes back with a status reports it; for a job without a program, or addressed
elsewhere, it changes nothing. BUND_FORWARD of a transaction for another device with hops left and a route to it sends it on with HOPS reduced by one,
and a READ, WRITE or LADD waits for its response, whose passing ends that wait; with HOPS 0 it is discarded with ST_FAB_NO_ROUTE, and with no route
with the route's status: where a route leads to its source, that gets the status, in the answer of a READ, WRITE or LADD, in the FLAGSET sent back, or
in a token for another (log entry 23). One for this device, or where the Bund side does not work, changes nothing. -/
def Obligations.FlagAndForwardTransactions : Prop :=
  (∀ (x : Txn) (u : JobSetup) (d : Device), mine d x = true → x.status = 0 → (d.jobAt x.job).setup = some u → x.addr < 4096 →
    bits x.addr 11 6 < u.prog.pans → Takes (.flagset x) d (d.setJobFlag x.job (bits x.addr 11 6) (bits x.addr 5 0)))
  ∧ (∀ (x : Txn) (u : JobSetup) (d : Device), mine d x = true → x.status = 0 → (d.jobAt x.job).setup = some u →
    (4096 ≤ x.addr ∨ u.prog.pans ≤ bits x.addr 11 6) → Takes (.flagset x) d (d.report x.job stRange))
  ∧ (∀ (x : Txn) (d : Device), (mine d x = false ∨ (x.status = 0 ∧ (d.jobAt x.job).setup = none)) → Takes (.flagset x) d d)
  ∧ (∀ (x : Txn) (d : Device), mine d x = true → x.status ≠ 0 → Takes (.flagset x) d (d.report x.job x.status))
  ∧ (∀ (x : Txn) (b : Nat) (d : Device), terOn d = true → d.fab.selfId ≠ some x.dst → x.hops ≠ 0 → d.routeOf x.dst = .port b →
      let fwd := if x.op = 1 ∨ x.op = 3 ∨ x.op = 5 then d.fab.fwd ++ [x]
        else d.fab.fwd.filter (fun y => !(y.tag == x.tag && y.src == x.dst && answerOp y.op == x.op))
      Takes (.bundForward x) d (({ d with fab := { d.fab with fwd := fwd } } : Device).launch { x with hops := x.hops - 1 }))
  ∧ (∀ (x : Txn) (d : Device), terOn d = true → d.fab.selfId ≠ some x.dst → x.hops = 0 →
      Takes (.bundForward x) d (match d.routeOf x.src with
        | .fail _ => d
        | _ => if x.op = 1 ∨ x.op = 3 ∨ x.op = 5 ∨ x.op = 9 then d.launch { op := answerOp x.op, dst := x.src, src := d.selfBund, tag := x.tag, status := stNoRoute, hops := 8, job := x.job }
          else d.putToken x.src (.bounced x.op stNoRoute)))
  ∧ (∀ (x : Txn) (st : Nat) (d : Device), terOn d = true → d.fab.selfId ≠ some x.dst → x.hops ≠ 0 → d.routeOf x.dst = .fail st →
      Takes (.bundForward x) d (match d.routeOf x.src with
        | .fail _ => d
        | _ => if x.op = 1 ∨ x.op = 3 ∨ x.op = 5 ∨ x.op = 9 then d.launch { op := answerOp x.op, dst := x.src, src := d.selfBund, tag := x.tag, status := st, hops := 8, job := x.job }
          else d.putToken x.src (.bounced x.op st)))
  ∧ (∀ (x : Txn) (d : Device), (terOn d = false ∨ d.fab.selfId = some x.dst) → Takes (.bundForward x) d d)

/-- STEP_READY, once the stages of the job's steps are settled, at a device that is ready for the step and has READY of every child commits the step there
when it is the root or alone (forwarding COMMIT with what the members brought), and otherwise sends READY with it to its parent once; at a device that
is not ready, lacks a READY or has no program nothing more happens. COLL_READY from a child is noted once with what it reports and then tried;
COLL_COMMIT from the parent, for the oldest step whose READY has left and no held line of the shard, is forwarded, noted and applied; COLL_PHASE_TOKEN
ends the waits on that peer for that step. COLL_ABORT from a peer, with the member that its wait named, ends a step of a running or suspended job that
it has not committed, and names that member in a recovering one; COLLECTIVE_TIMEOUT on a peer, or on a Sluice of this device that is waited for, with
no HOLD in the last 100 ms tells every peer to abort and ends the step of such a job, names the peer in a recovering one, and in the partner exchange
fails the start with 0x0806. HOLD for the oldest step starts the waits on that peer again; HOLD_SEND tells every peer of a running job of a step that
its own input pipeline holds. In every other case each of them changes nothing. -/
def Obligations.CollectiveTokens : Prop :=
  (∀ (j : Fin 16) (n : Nat) (u : JobSetup) (d e : Device), d.settleAll j = e → (e.jobAt j).setup = some u → deviceReady e j n = true →
    ((childrenOf u.topo).all (fun c => (e.jobAt j).ready.contains (n, c)) = true) → (u.topo.parent.bind (fun p => u.topo.peers[p]?) = none) →
      Takes (.stepReady j n) d ((e.forwardCommit j n (rootLayers e j n) ((((e.jobAt j).stepAt n).map (stepShare (e.jobAt j))).getD {})).applyCommit j n (rootLayers e j n)))
  ∧ (∀ (j : Fin 16) (n : Nat) (u : JobSetup) (p : Peer) (d e : Device), d.settleAll j = e → (e.jobAt j).setup = some u → deviceReady e j n = true →
    ((childrenOf u.topo).all (fun c => (e.jobAt j).ready.contains (n, c)) = true) → (u.topo.parent.bind (fun p => u.topo.peers[p]?) = some p) →
      Takes (.stepReady j n) d (if (e.jobAt j).steps.any (fun x => x.num == n && x.readySent) then e
        else (e.updStep j n (fun x => { x with readySent := true })).sendToken j p.bundId (.ready p.slot n ((((e.jobAt j).stepAt n).map (stepShare (e.jobAt j))).getD {}))))
  ∧ (∀ (j : Fin 16) (n : Nat) (u : JobSetup) (d e : Device), d.settleAll j = e → (e.jobAt j).setup = some u →
    (deviceReady e j n = false ∨ (childrenOf u.topo).all (fun c => (e.jobAt j).ready.contains (n, c)) = false) → Takes (.stepReady j n) d e)
  ∧ (∀ (j : Fin 16) (n : Nat) (d e : Device), d.settleAll j = e → (e.jobAt j).setup = none → Takes (.stepReady j n) d e)
  ∧ (∀ (src : Nat) (j : Fin 16) (n : Nat) (share : StepShare) (u : JobSetup) (d : Device), (d.jobAt j).setup = some u →
    ((childrenOf u.topo).contains src && !(d.jobAt j).ready.contains (n, src)) = true →
      Takes (.collReady src j n share) d (((d.updJob j (fun q => { q with ready := q.ready ++ [(n, src)] })).takeShare j n src share).tryReady j n))
  ∧ (∀ (src : Nat) (j : Fin 16) (n : Nat) (share : StepShare) (d : Device),
    (∀ u, (d.jobAt j).setup = some u → ((childrenOf u.topo).contains src && !(d.jobAt j).ready.contains (n, src)) = false) →
      Takes (.collReady src j n share) d d)
  ∧ (∀ (src : Nat) (j : Fin 16) (n layers : Nat) (share : StepShare) (u : JobSetup) (d : Device), (d.jobAt j).setup = some u →
    (((u.topo.parent.bind (fun p => u.topo.peers[p]?)).map Peer.bundId == some src && (d.jobAt j).steps.head?.any (fun x => x.num == n && x.readySent) && !(d.jobAt j).shardHeld d) = true) →
      Takes (.collCommit src j n layers share) d
        (((d.forwardCommit j n layers share).updStep j n (fun st => { st with total := some share })).applyCommit j n layers))
  ∧ (∀ (src : Nat) (j : Fin 16) (n layers : Nat) (share : StepShare) (d : Device),
    (∀ u, (d.jobAt j).setup = some u → ((u.topo.parent.bind (fun p => u.topo.peers[p]?)).map Peer.bundId == some src && (d.jobAt j).steps.head?.any (fun x => x.num == n && x.readySent) && !(d.jobAt j).shardHeld d) = false) →
      Takes (.collCommit src j n layers share) d d)
  ∧ (∀ (src : Nat) (j : Fin 16) (n param : Nat) (d : Device),
      Takes (.collPhaseToken src j n param) d { d with fab := { d.fab with waits := d.fab.waits.filter (fun w => !(w.job == j.val && w.step == n && w.peer == src)) } })
  ∧ (∀ (src : Nat) (j : Fin 16) (n : Nat) (failed : Option Nat) (d : Device),
    ((isPeer d j src && ((d.jobAt j).started || (d.jobAt j).state == .recovering) && (d.jobAt j).commit.step.all (fun c => decide (c < n))) = true) →
      Takes (.collAbort src j n failed) d (d.haltJob j n stTimeout failed.toList failed.toList))
  ∧ (∀ (src : Nat) (j : Fin 16) (n : Nat) (failed : Option Nat) (d : Device),
    ((isPeer d j src && ((d.jobAt j).started || (d.jobAt j).state == .recovering) && (d.jobAt j).commit.step.all (fun c => decide (c < n))) = false) →
      Takes (.collAbort src j n failed) d d)
  ∧ (∀ (j : Fin 16) (n peer : Nat) (d : Device), busyStart d j = none →
    (((isPeer d j peer || (d.fab.selfId == some peer && sluiceWaits d j)) && (d.jobAt j).started && (d.jobAt j).steps.any (fun x => x.num == n) && !holdsOff d j n peer) = true) →
      Takes (.collectiveTimeout j n peer) d ((d.tokenAll j (fun s => .abort s n stTimeout (if (d.fab.selfId == some peer && sluiceWaits d j) = true then none else some peer))).haltJob j n stTimeout (if (d.fab.selfId == some peer && sluiceWaits d j) = true then none else some peer).toList (if (d.fab.selfId == some peer && sluiceWaits d j) = true then none else some peer).toList))
  ∧ (∀ (j : Fin 16) (n peer : Nat) (d : Device), busyStart d j = none →
    ((isPeer d j peer && (d.jobAt j).state == .recovering && (d.jobAt j).steps.any (fun x => x.num == n) && !holdsOff d j n peer) = true) →
      Takes (.collectiveTimeout j n peer) d (d.haltJob j n stTimeout [peer] [peer]))
  ∧ (∀ (j : Fin 16) (n peer : Nat) (d : Device), busyStart d j = none →
    (((isPeer d j peer || (d.fab.selfId == some peer && sluiceWaits d j)) && (d.jobAt j).started && (d.jobAt j).steps.any (fun x => x.num == n) && !holdsOff d j n peer) = false) →
    ((isPeer d j peer && (d.jobAt j).state == .recovering && (d.jobAt j).steps.any (fun x => x.num == n) && !holdsOff d j n peer) = false) →
      Takes (.collectiveTimeout j n peer) d d)
  ∧ (∀ (j : Fin 16) (n peer m : Nat) (d : Device), busyStart d j = some m →
      Takes (.collectiveTimeout j n peer) d (if (d.jobAt j).partner.tokens.any (fun t => t.1 == peer) then d
        else (d.updJob j (fun q => { q with partner := { q.partner with tokens := [], sent := false, queued := [] } })).finish m 0x0806 0 []))
  ∧ (∀ (src : Nat) (j : Fin 16) (n : Nat) (d : Device), isPeer d j src = true → ((d.jobAt j).steps.head?.any (fun x => x.num == n) = true) →
      Takes (.hold src j n) d { d with fab := { d.fab with
        waits := d.fab.waits.filter (fun w => !(w.job == j.val && w.peer == src)) ++ [{ job := j, step := n, peer := src, since := d.tide.now }] } })
  ∧ (∀ (src : Nat) (j : Fin 16) (n : Nat) (d : Device), (isPeer d j src = false ∨ (d.jobAt j).steps.head?.any (fun x => x.num == n) = false) →
      Takes (.hold src j n) d d)
  ∧ (∀ (j : Fin 16) (n : Nat) (st : Step) (d : Device), ((d.jobAt j).steps.find? (fun x => x.num == n) = some st) → (d.jobAt j).state = .running →
    inputWaits d j st = true → Takes (.holdSend j n) d (d.tokenAll j (fun s => .hold s n)))
  ∧ (∀ (j : Fin 16) (n : Nat) (d : Device),
    (∀ st, (d.jobAt j).steps.find? (fun x => x.num == n) = some st → (d.jobAt j).state ≠ .running ∨ inputWaits d j st = false) →
      Takes (.holdSend j n) d d)

/-- PARTNER at a job that is neither EMPTY nor RECOVERING and runs no fill of its own replaces the token of that member; at a RECOVERING survivor, or a
spare whose own fill runs, from a member of its group, it is answered with the own list, and the first one makes its sender the fill under way, a
later one from another member is told so with QUEUED and, at a survivor, put at the end of the fills that wait; at an EMPTY job, or from outside the
group, it changes nothing. JOIN from a peer at a RECOVERING survivor counts when it carries the survivor's committed step (of its own holder it notes
that a fresh image is owed, of another member the next fill that waits begins): while another lacked member is missing the job goes on recovering;
with the last one it is RUNNING again. JOIN for another step changes no job and is logged by Renura as a notice with the member and the step (event
code free: log entry 23). In any other state a JOIN is noted; the last peer's at the restored step of a RESTORE 1 start shows an escalation onto layer
1, logged as EV_RES_ESCALATE, and at a RUNNING job that runs a fill it empties the fills that wait; from no peer it changes nothing. QUEUED from a
peer while a fill runs here, or while the start waits in its exchange, puts the member at the end of the fills that wait; otherwise it changes
nothing. -/
def Obligations.PartnerTokens : Prop :=
  (∀ (src : Nat) (j : Fin 16) (ids : List Nat) (d : Device), (d.jobAt j).state ≠ .empty → (d.jobAt j).state ≠ .recovering →
    (d.jobAt j).partner.filling = false →
      Takes (.partner src j ids) d (d.updJob j (fun q => { q with partner := { q.partner with
        tokens := q.partner.tokens.filter (fun t => t.1 != src) ++ [(src, ids)] } })))
  ∧ (∀ (src : Nat) (j : Fin 16) (ids : List Nat) (u : JobSetup) (d : Device), (d.jobAt j).state ≠ .empty →
    ((d.jobAt j).state = .recovering ∨ (d.jobAt j).partner.filling = true) → (d.jobAt j).setup = some u → src ∈ groupOf u.topo →
    (d.jobAt j).partner.fill = none →
      Takes (.partner src j ids) d ((d.tokenTo j src (fun s => .partner s (groupList u.topo))).updJob j (fun q => { q with partner := { q.partner with fill := some src } })))
  ∧ (∀ (src : Nat) (j : Fin 16) (ids : List Nat) (u : JobSetup) (f : Nat) (d : Device), (d.jobAt j).state ≠ .empty →
    ((d.jobAt j).state = .recovering ∨ (d.jobAt j).partner.filling = true) → (d.jobAt j).setup = some u → src ∈ groupOf u.topo →
    (d.jobAt j).partner.fill = some f →
      Takes (.partner src j ids) d (if f = src ∨ (d.jobAt j).partner.queued.contains src = true then d.tokenTo j src (fun s => .partner s (groupList u.topo))
        else (if (d.jobAt j).partner.filling = true then d.tokenTo j src (fun s => .partner s (groupList u.topo)) else (d.tokenTo j src (fun s => .partner s (groupList u.topo))).updJob j (fun q => { q with partner := { q.partner with queued := q.partner.queued ++ [src] } })).tokenTo j src (fun s => .queued s u.topo.selfId)))
  ∧ (∀ (src : Nat) (j : Fin 16) (ids : List Nat) (d : Device),
    ((d.jobAt j).state = .empty ∨ (((d.jobAt j).state = .recovering ∨ (d.jobAt j).partner.filling = true) ∧ ∀ u, (d.jobAt j).setup = some u → src ∉ groupOf u.topo)) →
      Takes (.partner src j ids) d d)
  ∧ (∀ (src : Nat) (j : Fin 16) (b n : Nat) (u : JobSetup) (p : Peer) (d : Device), (d.jobAt j).setup = some u → peerOf u.topo src = some p →
    (d.jobAt j).state = .recovering → (d.jobAt j).committedField = n →
    ((d.jobAt j).partner.lacking.all (fun x => (if (d.jobAt j).partner.joins.contains b then (d.jobAt j).partner.joins else (d.jobAt j).partner.joins ++ [b]).contains x) = false) →
      Takes (.join src j b n) d (d.updJob j (fun q => { q with partner := { (if holderOf u.topo == some b then q.partner else q.partner.fillDone) with
        joins := (if (d.jobAt j).partner.joins.contains b then (d.jobAt j).partner.joins else (d.jobAt j).partner.joins ++ [b]), refill := q.partner.refill || holderOf u.topo == some b } })))
  ∧ (∀ (src : Nat) (j : Fin 16) (b n : Nat) (u : JobSetup) (p : Peer) (d : Device), (d.jobAt j).setup = some u → peerOf u.topo src = some p →
    (d.jobAt j).state = .recovering → (d.jobAt j).committedField = n →
    ((d.jobAt j).partner.lacking.all (fun x => (if (d.jobAt j).partner.joins.contains b then (d.jobAt j).partner.joins else (d.jobAt j).partner.joins ++ [b]).contains x) = true) →
      Takes (.join src j b n) d ((d.updJob j (fun q => { q with partner := { (if holderOf u.topo == some b then q.partner else q.partner.fillDone) with
        joins := (if (d.jobAt j).partner.joins.contains b then (d.jobAt j).partner.joins else (d.jobAt j).partner.joins ++ [b]), refill := q.partner.refill || holderOf u.topo == some b } })).updJob j
        (fun q => { q with state := .running, partner := { q.partner with joins := [], lacking := [] } })))
  ∧ (∀ (src : Nat) (j : Fin 16) (b n : Nat) (u : JobSetup) (p : Peer) (d : Device), (d.jobAt j).setup = some u → peerOf u.topo src = some p →
    (d.jobAt j).state = .recovering → (d.jobAt j).committedField ≠ n →
      Takes (.join src j b n) d (d.draw.2.logEvent srcRenura (d.draw.1 % 65536) sevNotice (some j) (toLE 2 b ++ toLE 8 n)))
  ∧ (∀ (src : Nat) (j : Fin 16) (b n : Nat) (u : JobSetup) (p : Peer) (d e : Device), (d.jobAt j).setup = some u → peerOf u.topo src = some p →
    (d.jobAt j).state ≠ .recovering →
    ((d.updJob j (fun q => { q with partner := { q.partner with joined := if q.partner.joined.contains (b, n) then q.partner.joined else q.partner.joined ++ [(b, n)] } })) = e) →
      Takes (.join src j b n) d (if (d.jobAt j).state = .running ∧ (d.jobAt j).partner.filling = true then
        (if u.jr.restore = 1 ∧ (d.jobAt j).escalated = false ∧ (e.jobAt j).escalated = true then e.logEvent srcRenura 0x0803 sevWarning (some j) (toLE 2 b ++ [1] ++ toLE 8 n) else e).updJob j (fun q => { q with partner := { q.partner with queued := [] } })
        else if u.jr.restore = 1 ∧ (d.jobAt j).escalated = false ∧ (e.jobAt j).escalated = true then e.logEvent srcRenura 0x0803 sevWarning (some j) (toLE 2 b ++ [1] ++ toLE 8 n) else e))
  ∧ (∀ (src : Nat) (j : Fin 16) (b n : Nat) (d : Device), (∀ u, (d.jobAt j).setup = some u → peerOf u.topo src = none) → Takes (.join src j b n) d d)
  ∧ (∀ (src : Nat) (j : Fin 16) (d : Device), ((isPeer d j src = true ∧ (d.jobAt j).partner.filling = true) ∨ (busyStart d j).isSome = true) →
      Takes (.queued src j) d (d.updJob j (fun q => { q with partner := { q.partner with queued := q.partner.queued.filter (· != src) ++ [src] } })))
  ∧ (∀ (src : Nat) (j : Fin 16) (d : Device), (isPeer d j src = false ∨ (d.jobAt j).partner.filling = false) → busyStart d j = none →
      Takes (.queued src j) d d)

/-- On a port that is up: LANE_FAULT of a lane not yet faulty sends the list of faulty lanes (unless a change of the port is under way) and applies the
fault (of a faulty one nothing); CONTROL_FLIT applies the fault of every lane of its list. On one that carries flits, BUND_FLIT whose CRC or tag
fails, or out of sequence, is discarded and answered by NAK, a tag mismatch counted with its time; a good one frees the acknowledged flits and adds
its credits, a data flit takes the next number and its credit is owed, then waiting flits leave, and a data flit is acknowledged by a flit without
payload where none does; NAK frees what it acknowledges, the rest and the waiting flits leave; after 16 resends in a row FLIT_RESEND_LIMIT tells the
other end of the lanes that did not train, applies them and sets the port to training (with fewer it changes nothing). PORT_RETRAIN of a training port
whose lanes allow a width, with the other end's ENC_EN the same, puts it at that state and sends the held flits and those that wait, or takes the lane
faults met meanwhile as found now; otherwise it changes nothing. BND_AUTH after eight tag mismatches within 1 ms takes the port down for good and logs
a Lockdown-request, else nothing. KEY_EPOCH_INSTALL with mailboxes served, below alarm level 2, keys not zeroised, raises the key epoch and restarts
the flit counter, else nothing. On a port that is not up, or does not carry flits, the first five change nothing. -/
def Obligations.BundPorts : Prop :=
  (∀ (b : Fin 8) (l : Fin 9) (d : Device), linkUp d b = true → (d.portAt b).bad.getLsbD l = false →
      Takes (.laneFault b l) d ((if (d.portAt b).state = .training then d else d.sendFaults b ((d.portAt b).bad ||| (1#9 <<< l.val))).laneFaulty b l))
  ∧ (∀ (b : Fin 8) (l : Fin 9) (d : Device), (linkUp d b = false ∨ (d.portAt b).bad.getLsbD l = true) → Takes (.laneFault b l) d d)
  ∧ (∀ (b : Fin 8) (bad : BitVec 9) (d : Device), linkUp d b = true →
      Takes (.controlFlit b bad) d ((List.range 9).foldl (fun e l => if bad.getLsbD l then e.laneFaulty b l else e) d))
  ∧ (∀ (b : Fin 8) (bad : BitVec 9) (d : Device), linkUp d b = false → Takes (.controlFlit b bad) d d)
  ∧ (∀ (b : Fin 8) (f : FlitIn) (d : Device), carries d b = true →
    (f.crcOk = false ∨ ((d.portAt b).encEn = true ∧ f.crcOk = true ∧ f.tagOk = false) ∨ f.seq ≠ (d.portAt b).rxSeq) →
      Takes (.bundFlit b f) d ((if (d.portAt b).encEn = true ∧ f.crcOk = true ∧ f.tagOk = false then d.updPort b (fun q => { q with
        authFail := satAdd q.authFail 1, mismatches := q.mismatches.filter (fun t => decide (d.tide.now < t + 1000000)) ++ [d.tide.now] }) else d).sendNak b))
  ∧ (∀ (b : Fin 8) (f : FlitIn) (d : Device), carries d b = true → f.crcOk = true → ((d.portAt b).encEn = false ∨ f.tagOk = true) →
    f.seq = (d.portAt b).rxSeq →
      let d1 := d.updPort b (fun p =>
        let q := p.acked f.ackSeq
        let r := { q with credits := modNth (· + f.credits) q.credits f.cvc }
        if f.kind = 0 then { r with rxSeq := (r.rxSeq + 1) % 65536, owed := modNth (· + 1) r.owed f.vc } else r)
      let d2 := d1.drain b
      Takes (.bundFlit b f) d (if f.kind = 0 ∧ (d2.portAt b).flitCount = (d1.portAt b).flitCount then d2.emitPlain b 1 [] else d2))
  ∧ (∀ (b : Fin 8) (ack : Nat) (d : Device), carries d b = true → Takes (.nak b ack) d (((d.updPort b (fun p => p.acked ack)).resendFlits b).drain b))
  ∧ (∀ (b : Fin 8) (f : FlitIn) (ack : Nat) (u : List (Fin 9)) (d : Device), carries d b = false →
      Takes (.bundFlit b f) d d ∧ Takes (.nak b ack) d d ∧ Takes (.flitResendLimit b u) d d)
  ∧ (∀ (b : Fin 8) (u : List (Fin 9)) (d : Device), carries d b = true → 16 ≤ (d.portAt b).resends →
      let d1 := d.updPort b (fun p => { p with resends := 0 })
      let d2 := u.foldl (fun e l => e.laneFaulty b l.val) (if u.isEmpty then d1 else d1.sendFaults b (u.foldl (fun (m : BitVec 9) l => m ||| (1#9 <<< l.val)) (d.portAt b).bad))
      Takes (.flitResendLimit b u) d (d2.updPort b (fun p => if p.state = .down then p else { p with state := .training })))
  ∧ (∀ (b : Fin 8) (u : List (Fin 9)) (d : Device), (d.portAt b).resends < 16 → Takes (.flitResendLimit b u) d d)
  ∧ (∀ (b : Fin 8) (enc : Bool) (d : Device), linkUp d b = true → (d.portAt b).state = .training → (d.portAt b).width ≠ .down →
    (d.portAt b).encEn = enc →
      let d1 := d.updPort b (fun q => { q with state := q.width, pendFaults := [] })
      Takes (.portRetrain b enc) d (if (d.portAt b).pendFaults.isEmpty then (d1.resendFlits b).drain b
        else (d.portAt b).pendFaults.foldl (fun e l => e.foundFaulty b l) d1))
  ∧ (∀ (b : Fin 8) (enc : Bool) (d : Device),
    (linkUp d b = false ∨ (d.portAt b).state ≠ .training ∨ (d.portAt b).width = .down ∨ (d.portAt b).encEn ≠ enc) → Takes (.portRetrain b enc) d d)
  ∧ (∀ (b : Fin 8) (d : Device), linkUp d b = true → (8 ≤ ((d.portAt b).mismatches.filter (fun t => decide (d.tide.now < t + 1000000))).length) →
      Takes (.bndAuth b) d
        ((((d.updPort b (fun q => { q with dead := true, mismatches := [] })).portDown b).noteRetire (retireReg d)).logLockdown (srcPort b) 0x0702 [b]))
  ∧ (∀ (b : Fin 8) (d : Device), (linkUp d b = false ∨ ¬(8 ≤ ((d.portAt b).mismatches.filter (fun t => decide (d.tide.now < t + 1000000))).length)) →
      Takes (.bndAuth b) d d)
  ∧ (∀ (b : Fin 8) (d : Device), d.inp.stage = .served → d.sec.level < 2 → d.sec.zeroised = false →
      Takes (.keyEpochInstall b) d ((({ d with free := d.free + 1 } : Device).updPort b (fun p => { p with
        keyEpoch := (p.keyEpoch + 1) % 2 ^ 32, keyed := true, key := if p.keyed then p.key else d.free, flitCount := 0 })).drain b))
  ∧ (∀ (b : Fin 8) (d : Device), (d.inp.stage ≠ .served ∨ 2 ≤ d.sec.level ∨ d.sec.zeroised = true) → Takes (.keyEpochInstall b) d d)

/-- With the host port down, or for a frame of another address, the eight packet commands change nothing. Else PFC is sent where the frame's priority asks
for it; a frame above the MTU, and a packet with a reserved field or code, another VER or a wrong length, is discarded and counted; a frame that is
not this transport's (a fragment, other ports, a wrong checksum) is left; one of another TYPE or OP than the command's is left to that command; one of
no open flow (OPEN apart) is discarded and counted; one that does not open under its flow's key is discarded. A WRITE, READ_REQ or READ_RESP with the
next PSN is applied with the packets held behind it and acknowledged once its PSN is passed; one already applied is only acknowledged again; a later
one outside what its flow reaches is discarded and counted, else held while the early data fits 16 MiB and answered with SACK, else dropped. ACK, SACK
(a gap followed by three acknowledged packets is sent again), OPEN (of an open flow, beyond 1,024 flows, of a new one), CLOSE and PROBE act as listed;
each frees what its ACKPSN acknowledges, OPEN apart. QT_RETX_TIMER sends the oldest packet on its way again, or fails the flow at the twelfth expiry
in a row; without such a packet it changes nothing. PFC frames pause the enabled priorities; the link comes up once trained; a message on an open flow
that reaches its mailbox or staging region is written there, waits for held data, or is discarded and counted; otherwise these three change nothing. -/
def Obligations.QuayTransport : Prop :=
  (∀ (c : Instr) (typ op : Nat) (k : Packet) (r : List (Nat × Nat)) (hit : Option Hit) (d : Device),
    (c, typ, op) ∈ ([(.qtWrite k, 1, 1), (.qtReadReq k hit, 1, 2), (.qtReadResp k, 1, 3), (.ack k, 2, 0), (.sack k r, 3, 0), (.openFlow k, 4, 0), (.closeFlow k, 5, 0), (.probe k, 6, 0)] : List (Instr × Nat × Nat)) →
    (hostUp d = false ∨ k.mac ≠ d.fuses.mac) → Takes c d d)
  ∧ (∀ (c : Instr) (typ op : Nat) (k : Packet) (r : List (Nat × Nat)) (hit : Option Hit) (d : Device),
    (c, typ, op) ∈ ([(.qtWrite k, 1, 1), (.qtReadReq k hit, 1, 2), (.qtReadResp k, 1, 3), (.ack k, 2, 0), (.sack k r, 3, 0), (.openFlow k, 4, 0), (.closeFlow k, 5, 0), (.probe k, 6, 0)] : List (Instr × Nat × Nat)) →
    hostUp d = true → k.mac = d.fuses.mac → d.eth.mtu < frameBytes k → Takes c d (d.pfcSend k).dropPacket)
  ∧ (∀ (c : Instr) (typ op : Nat) (k : Packet) (r : List (Nat × Nat)) (hit : Option Hit) (d : Device),
    (c, typ, op) ∈ ([(.qtWrite k, 1, 1), (.qtReadReq k hit, 1, 2), (.qtReadResp k, 1, 3), (.ack k, 2, 0), (.sack k r, 3, 0), (.openFlow k, 4, 0), (.closeFlow k, 5, 0), (.probe k, 6, 0)] : List (Instr × Nat × Nat)) →
    hostUp d = true → k.mac = d.fuses.mac → frameBytes k ≤ d.eth.mtu → forQuay d k = false → Takes c d (d.pfcSend k))
  ∧ (∀ (c : Instr) (typ op : Nat) (k : Packet) (r : List (Nat × Nat)) (hit : Option Hit) (d : Device),
    (c, typ, op) ∈ ([(.qtWrite k, 1, 1), (.qtReadReq k hit, 1, 2), (.qtReadResp k, 1, 3), (.ack k, 2, 0), (.sack k r, 3, 0), (.openFlow k, 4, 0), (.closeFlow k, 5, 0), (.probe k, 6, 0)] : List (Instr × Nat × Nat)) →
    hostUp d = true → forQuay d k = true → badPacket (d.pfcSend k) k = true → Takes c d (d.pfcSend k).dropPacket)
  ∧ (∀ (c : Instr) (typ op : Nat) (k : Packet) (r : List (Nat × Nat)) (hit : Option Hit) (d : Device),
    (c, typ, op) ∈ ([(.qtWrite k, 1, 1), (.qtReadReq k hit, 1, 2), (.qtReadResp k, 1, 3), (.ack k, 2, 0), (.sack k r, 3, 0), (.openFlow k, 4, 0), (.closeFlow k, 5, 0), (.probe k, 6, 0)] : List (Instr × Nat × Nat)) →
    hostUp d = true → forQuay d k = true → badPacket (d.pfcSend k) k = false → (k.typ ≠ typ ∨ k.op ≠ op) → Takes c d (d.pfcSend k))
  ∧ (∀ (c : Instr) (typ op : Nat) (k : Packet) (r : List (Nat × Nat)) (hit : Option Hit) (d : Device),
    (c, typ, op) ∈ ([(.qtWrite k, 1, 1), (.qtReadReq k hit, 1, 2), (.qtReadResp k, 1, 3), (.ack k, 2, 0), (.sack k r, 3, 0), (.openFlow k, 4, 0), (.closeFlow k, 5, 0), (.probe k, 6, 0)] : List (Instr × Nat × Nat)) →
    typ ≠ 4 → hostUp d = true → forQuay d k = true → badPacket (d.pfcSend k) k = false → k.typ = typ → k.op = op →
    (d.pfcSend k).flowAt k.flow = none → Takes c d (d.pfcSend k).dropPacket)
  ∧ (∀ (c : Instr) (typ op : Nat) (k : Packet) (r : List (Nat × Nat)) (hit : Option Hit) (f : Flow) (d : Device),
    (c, typ, op) ∈ ([(.qtWrite k, 1, 1), (.qtReadReq k hit, 1, 2), (.qtReadResp k, 1, 3), (.ack k, 2, 0), (.sack k r, 3, 0), (.openFlow k, 4, 0), (.closeFlow k, 5, 0), (.probe k, 6, 0)] : List (Instr × Nat × Nat)) →
    typ ≠ 4 → hostUp d = true → forQuay d k = true → badPacket (d.pfcSend k) k = false → k.typ = typ → k.op = op →
    (d.pfcSend k).flowAt k.flow = some f → openPacket f k = none → Takes c d (d.pfcSend k))
  ∧ (∀ (k x : Packet) (f : Flow) (d e : Device), Received d e 1 1 k f x → x.psn = f.rxPsn →
      let g := (e.note x).applyInOrder 1 x none (f.early.length + 1)
      Takes (.qtWrite k) d (if (g.flowAt x.flow).any (fun h => decide (f.rxPsn < h.rxPsn)) then g.sendAck x.flow else g))
  ∧ (∀ (k x : Packet) (f : Flow) (d e : Device), Received d e 1 1 k f x → x.psn < f.rxPsn → Takes (.qtWrite k) d ((e.note x).sendAck x.flow))
  ∧ (∀ (k x : Packet) (f : Flow) (d e : Device), Received d e 1 1 k f x → f.rxPsn < x.psn → unreached (e.note x) f 1 x = true →
      Takes (.qtWrite k) d (e.note x).dropPacket)
  ∧ (∀ (k x : Packet) (f : Flow) (d e : Device), Received d e 1 1 k f x → f.rxPsn < x.psn → unreached (e.note x) f 1 x = false →
      Takes (.qtWrite k) d (if 16777216 < sumNat (f.early.map (fun e => e.2.data.length)) + x.data.length then e.note x
        else ((e.note x).updFlow x.flow (fun g => { g with early := if g.early.any (fun e => e.2.psn == x.psn) then g.early else g.early ++ [(1, x)] })).sendSack x.flow))
  ∧ (∀ (k x : Packet) (f : Flow) (hit : Option Hit) (d e : Device), Received d e 1 2 k f x → x.psn = f.rxPsn →
      let g := (e.note x).applyInOrder 2 x hit (f.early.length + 1)
      Takes (.qtReadReq k hit) d (if (g.flowAt x.flow).any (fun h => decide (f.rxPsn < h.rxPsn)) then g.sendAck x.flow else g))
  ∧ (∀ (k x : Packet) (f : Flow) (hit : Option Hit) (d e : Device), Received d e 1 2 k f x → x.psn < f.rxPsn →
      Takes (.qtReadReq k hit) d ((e.note x).sendAck x.flow))
  ∧ (∀ (k x : Packet) (f : Flow) (hit : Option Hit) (d e : Device), Received d e 1 2 k f x → f.rxPsn < x.psn → unreached (e.note x) f 2 x = true →
      Takes (.qtReadReq k hit) d (e.note x).dropPacket)
  ∧ (∀ (k x : Packet) (f : Flow) (hit : Option Hit) (d e : Device), Received d e 1 2 k f x → f.rxPsn < x.psn → unreached (e.note x) f 2 x = false →
      Takes (.qtReadReq k hit) d (if 16777216 < sumNat (f.early.map (fun e => e.2.data.length)) + x.data.length then e.note x
        else ((e.note x).updFlow x.flow (fun g => { g with early := if g.early.any (fun e => e.2.psn == x.psn) then g.early else g.early ++ [(2, x)] })).sendSack x.flow))
  ∧ (∀ (k x : Packet) (f : Flow) (d e : Device), Received d e 1 3 k f x → x.psn = f.rxPsn →
      let g := (e.note x).applyInOrder 3 x none (f.early.length + 1)
      Takes (.qtReadResp k) d (if (g.flowAt x.flow).any (fun h => decide (f.rxPsn < h.rxPsn)) then g.sendAck x.flow else g))
  ∧ (∀ (k x : Packet) (f : Flow) (d e : Device), Received d e 1 3 k f x → x.psn < f.rxPsn → Takes (.qtReadResp k) d ((e.note x).sendAck x.flow))
  ∧ (∀ (k x : Packet) (f : Flow) (d e : Device), Received d e 1 3 k f x → f.rxPsn < x.psn →
      Takes (.qtReadResp k) d (if 16777216 < sumNat (f.early.map (fun e => e.2.data.length)) + x.data.length then e.note x
        else ((e.note x).updFlow x.flow (fun g => { g with early := if g.early.any (fun e => e.2.psn == x.psn) then g.early else g.early ++ [(3, x)] })).sendSack x.flow))
  ∧ (∀ (k x : Packet) (f : Flow) (d e : Device), Received d e 2 0 k f x →
      Takes (.ack k) d (((e.note k).updFlow k.flow (fun g => g.adjust ((e.note k).pieceOf k.flow) k.ackPsn (bitOf k.flags 1))).pushFlow k.flow))
  ∧ (∀ (k x : Packet) (r : List (Nat × Nat)) (f g : Flow) (d e : Device), Received d e 3 0 k f x →
    (((e.note k).updFlow k.flow (fun h => { h.adjust ((e.note k).pieceOf k.flow) k.ackPsn (bitOf k.flags 1) with unacked := h.unacked.filter (fun u => !inRanges r u.psn) })).flowAt k.flow = some g) →
      Takes (.sack k r) d (((e.note k).updFlow k.flow (fun h => { h.adjust ((e.note k).pieceOf k.flow) k.ackPsn (bitOf k.flags 1) with unacked := h.unacked.filter (fun u => !inRanges r u.psn) })).resend k.flow
        (g.unacked.filter (fun u => u.sent && decide (3 ≤ laterThan r u.psn)))))
  ∧ (∀ (k : Packet) (d : Device), hostUp d = true → forQuay d k = true → badPacket (d.pfcSend k) k = false → k.typ = 4 → k.op = 0 →
      let e := d.pfcSend k
      Takes (.openFlow k) d (if (e.flowAt k.flow).isSome then e.answerFlow k.flow 4 stOk
        else if 1024 ≤ e.quy.flows.length then e.answerFlow k.flow 4 0x0706
        else ({ e with quy := { e.quy with flows := e.quy.flows ++ [{ id := k.flow, v6 := k.v6, tagged := k.vlan.isSome }] } } : Device).answerFlow k.flow 4 stOk))
  ∧ (∀ (k x : Packet) (f : Flow) (d e : Device), Received d e 5 0 k f x →
      Takes (.closeFlow k) d (((e.note k).answerFlow k.flow 5 stOk).dropFlow k.flow))
  ∧ (∀ (k x : Packet) (f : Flow) (d e : Device), Received d e 6 0 k f x → Takes (.probe k) d ((e.note k).sendAck k.flow))
  ∧ (∀ (flow : Nat) (f : Flow) (u : TxPacket) (d : Device), hostUp d = true → d.flowAt flow = some f → (f.unacked.find? (fun u => u.sent) = some u) →
      Takes (.qtRetxTimer flow) d (if 11 ≤ f.expiries then d.failFlow f
        else (d.updFlow flow (fun g => { g with expiries := g.expiries + 1 })).resend flow [u]))
  ∧ (∀ (flow : Nat) (d : Device), (hostUp d = false ∨ ∀ f, d.flowAt flow = some f → f.unacked.find? (fun u => u.sent) = none) →
      Takes (.qtRetxTimer flow) d d)
  ∧ (∀ (p : BitVec 8) (d : Device), hostUp d = true →
      Takes (.pfcPauseFrame p) d ({ d with eth := { d.eth with paused := p &&& BitVec.ofNat 8 d.eth.pfcEn } } : Device).pushAll)
  ∧ (∀ (p : BitVec 8) (d : Device), hostUp d = false → Takes (.pfcPauseFrame p) d d)
  ∧ (∀ (cr : Bool) (d : Device), d.inp.stage = .served → d.eth.state = 1 →
      Takes (.hostPortLinkUp cr) d ({ d with eth := { d.eth with state := 2, cr := cr, fecLock := true } } : Device).pushAll)
  ∧ (∀ (cr : Bool) (d : Device), (d.inp.stage ≠ .served ∨ d.eth.state ≠ 1) → Takes (.hostPortLinkUp cr) d d)
  ∧ (∀ (flow addr : Nat) (data : List Nat) (f : Flow) (d : Device), hostUp d = true → d.flowAt flow = some f →
      Takes (.mailboxPost flow addr data) d (match transportWrite d f true addr data with
        | .done e => e
        | .waits e => e
        | .discarded => d.dropPacket))
  ∧ (∀ (flow addr : Nat) (data : List Nat) (d : Device), (hostUp d = false ∨ d.flowAt flow = none) → Takes (.mailboxPost flow addr data) d d)

/-- Each command whose table row covers every payload of its code: out of its turn it changes nothing; in its turn, with a failing check of class,
reserved fields, length, Lockdown or slot state, it ends with that status and no effect. A management command that passes these ends with the status
of its own first failing check and no effect, or completes: DEV_INFO sets the notice address and replies; FLOW_BIND binds the flow (no key at
Lockdown, log entry 24); PART_SET sets the layout with a fresh key per partition, every byte behind the old keys undefined; JOB_CREATE makes the slot
with its reservation and replies the regions; JOB_DESTROY frees the slot; CONFIG_STAGE puts the pairs in the first free set; TIDE_ADD and TIDE_CANCEL
add and free a schedule entry, with the set that a CONFIG entry names and the EVAL_CLOSE of an EVAL_OPEN cancelled; POWER_REQ replies with its status
and, when that is 0, acts; WARM_RESET replies before it acts; JOB_LIST replies the records of the slots. -/
def Obligations.ManagementCommands : Prop :=
  (∀ (m : Fin 256) (hit : Option Hit) (c : Instr) (k : Nat) (d : Device),
    (c, k) ∈ [(Instr.devInfo m, 0x1), (Instr.flowBind m, 0x2), (Instr.partSet m, 0x3), (Instr.jobCreate m, 0x4), (Instr.jobDestroy m, 0x5), (Instr.configStage m, 0x6), (Instr.tideAdd m, 0x7), (Instr.tideCancel m, 0x8), (Instr.powerReq m, 0x9), (Instr.warmReset m, 0xa), (Instr.jobList m, 0xb), (Instr.jobStart m hit, 0x101), (Instr.jobSuspend m, 0x103), (Instr.jobResume m, 0x104), (Instr.jobQuery m, 0x105), (Instr.logRead m, 0x106), (Instr.overrideAdd m hit, 0x108), (Instr.manifest m hit, 0x201), (Instr.stepSubmit m, 0x202), (Instr.hostlaneReturn m hit, 0x203), (Instr.batch m hit, 0x204)] →
    d.turn m k = true → headerCheck d m ≠ 0 → Takes c d (d.finish m (headerCheck d m) 0 []))
  ∧ (∀ (m : Fin 256) (hit : Option Hit) (c : Instr) (k : Nat) (d : Device),
    (c, k) ∈ [(Instr.devInfo m, 0x1), (Instr.flowBind m, 0x2), (Instr.partSet m, 0x3), (Instr.jobCreate m, 0x4), (Instr.jobDestroy m, 0x5), (Instr.configStage m, 0x6), (Instr.tideAdd m, 0x7), (Instr.tideCancel m, 0x8), (Instr.powerReq m, 0x9), (Instr.warmReset m, 0xa), (Instr.jobList m, 0xb), (Instr.jobStart m hit, 0x101), (Instr.jobSuspend m, 0x103), (Instr.jobResume m, 0x104), (Instr.jobQuery m, 0x105), (Instr.logRead m, 0x106), (Instr.overrideAdd m hit, 0x108), (Instr.manifest m hit, 0x201), (Instr.stepSubmit m, 0x202), (Instr.hostlaneReturn m hit, 0x203), (Instr.batch m hit, 0x204)] →
    d.turn m k = false → Takes c d d)
  ∧ (∀ (m : Fin 256) (p : List Nat) (d : Device), Served d m 0x1 p →
      let e := if d.mbx m 12 2 = 0xFFFF then d else d.setMgmt (d.mbx m 12 2) (d.mbx m 16 8)
      Takes (.devInfo m) d (e.finish m stOk 0 (devInfoBody e)))
  ∧ (∀ (m : Fin 256) (p : List Nat) (d : Device), Served d m 0x2 p →
      let b := fieldAt p 4 1
      let st := firstFail [((d.flowAt (fieldAt p 0 4)).isNone, 0x070D), (b != 0xFF && b != 0xFE && !allocated d b, stJobState)]
      Takes (.flowBind m) d (if st ≠ 0 then d.finish m st 0 [] else (d.updFlow (fieldAt p 0 4) (fun f =>
        { f with binding := if b = 0xFE then none else some b
                 keyEpoch := if 2 ≤ d.sec.level then f.keyEpoch else fieldAt p 8 4
                 key := if 2 ≤ d.sec.level then f.key else if fieldAt p 12 32 = 0 then [] else sliceAt p 12 32 })).finish m stOk 0 []))
  ∧ (∀ (m : Fin 256) (p : List Nat) (d : Device), Served d m 0x3 p →
      let l := fieldAt p 0 1
      let e : Device := { d with quy := { d.quy with layout := l }, free := d.free + 4 }
      let f := (List.range 4).foldl (fun e t => e.updTer t (fun x => { x with
        keys := [some (d.free + t), none, none, none], groups := [[], [], [], []]
        regions := (x.regions.take 2).map (fun r => { r with part := partOfTer l t }) ++ List.replicate 6 Region.off })) e
      let st := firstFail [(slots.any (allocated d), stJobState), (decide (2 < l), stRange), ((List.range 4).any (fun t => (d.terAt t).testEn), stTgen),
        (decide (2 ≤ d.sec.level), stLockdown)]
      Takes (.partSet m) d (if st ≠ 0 then d.finish m st 0 [] else ((f.undefine 0 (2 ^ 40)).deriveSeal).finish m stOk 0 []))
  ∧ (∀ (m : Fin 256) (p : List Nat) (d : Device), Served d m 0x5 p →
      let st := firstFail [(decide (15 < fieldAt p 0 1), stRange), (!allocated d (fieldAt p 0 1), stJobState)]
      Takes (.jobDestroy m) d (if st ≠ 0 then d.finish m st 0 [] else (d.destroySlot (fieldAt p 0 1)).finish m stOk 0 []))
  ∧ (∀ (m : Fin 256) (p : List Nat) (d : Device), Served d m 0x6 p →
      let i := ((List.range 4).find? (fun i => (nthD none d.quy.sets i).isNone)).getD 0
      let g := (d.quy.setGen + 1) % 2 ^ 24
      let st := firstFail [(decide (500 < fieldAt p 0 2), stRange), ((stagedPairs p).any (fun x => !configurable d x.1 x.2), 0x0114),
        ((stagedPairs p).any (fun x => locked d x.1), 0x0A04), (((List.range 4).find? (fun i => (nthD none d.quy.sets i).isNone)).isNone, 0x0206)]
      Takes (.configStage m) d (if st ≠ 0 then d.finish m st 0 [] else ({ d with quy := { d.quy with
        setGen := g, sets := modNth (fun _ => some { gen := g, pairs := stagedPairs p, sealRef := fieldAt p 4 4, staged := d.tide.now }) d.quy.sets i } } : Device).finish m stOk (i + 256 * g) []))
  ∧ (∀ (m : Fin 256) (p : List Nat) (d : Device), Served d m 0x7 p →
      let i := (freeEntry d.tide).getD 0
      let st := entryCheck d m p (entryOf p d.tide.now)
      Takes (.tideAdd m) d (if st ≠ 0 then d.finish m st 0 [] else (d.putEntry i (entryOf p d.tide.now)).finish m stOk i []))
  ∧ (∀ (m : Fin 256) (p : List Nat) (d : Device), Served d m 0x8 p →
      let i := fieldAt p 0 4
      let bad := match entryAt d.tide i with
        | some e => e.fired || (match mboxSlot m with | some j => e.job != j | none => false)
        | none => true
      let f := match entryAt d.tide i with
        | some e => if e.action = 3 ∧ (setOf d e.arg).isSome then d.freeSet (e.arg % 256) else d
        | none => d
      let g := match entryAt d.tide i with
        | some e => if e.action = 6 then (f.freeEntryAt i).freeClose e.job e.arg else f.freeEntryAt i
        | none => f.freeEntryAt i
      let st := firstFail [(decide (255 < i), stRange), (bad, 0x070B)]
      Takes (.tideCancel m) d (if st ≠ 0 then d.finish m st 0 [] else g.finish m stOk 0 []))
  ∧ (∀ (m : Fin 256) (p : List Nat) (d : Device), Served d m 0x9 p →
      let e := d.finish m (d.powerRequest (fieldAt p 0 1)).1 0 []
      Takes (.powerReq m) d (if (d.powerRequest (fieldAt p 0 1)).1 = stOk then (e.powerRequest (fieldAt p 0 1)).2 else e))
  ∧ (∀ (m : Fin 256) (p : List Nat) (d : Device), Served d m 0xa p → Takes (.warmReset m) d (d.finish m stOk 0 []).warmAsked)
  ∧ (∀ (m : Fin 256) (p : List Nat) (d : Device), Served d m 0xb p →
      Takes (.jobList m) d ((listRecords slots d).2.finish m stOk 0 (listRecords slots d).1))
  ∧ (∀ (m : Fin 256) (p : List Nat) (d : Device), Served d m 0x4 p →
      let st := fieldAt p 2 2
      let mem := fieldAt p 4 2
      let ps := (placeAll d (fieldAt p 1 1) st mem).getD []
      let data := (ps.zipIdx).map (fun x => (x.1.1, window x.1.1 + x.1.2.data * 2 ^ 26, dataUnits mem st ps.length x.2 * 2 ^ 26))
      let dev := (ps.head?.map (fun x => window x.1 + x.2.stage * 2 ^ 26)).getD 0
      let r : Resv := { part := fieldAt p 1 1, stageMib := st, memGib := mem, stageDev := dev, data := data
                        save := ps.map (fun x => (x.1, window x.1 + x.2.save * 2 ^ 26)) }
      let e := (ps.foldl (fun e x => e.updTer x.1 (fun y => y.setBoundary x.2.boundary)) d).updJob (fieldAt p 0 1) (fun _ => { state := .created, resv := some r })
      Takes (.jobCreate m) d (if createCheck d p ≠ 0 then d.finish m (createCheck d p) 0 []
        else ({ e with pwr := { e.pwr with job := modNth (fun _ => ({} : Energy)) e.pwr.job (fieldAt p 0 1) } } : Device).finish m stOk dev
          (data.flatMap (fun x => toLE 8 x.2.1 ++ toLE 8 x.2.2))))

/-- For a command in its turn whose header checks pass, in a mailbox of slot j (JOB_STOP and HOSTLANE go by their first payload byte to one of two
commands; out of turn or for the other one they change nothing, with a failing header check they end with it): each ends with the status of its first
failing check and no effect, or: JOB_START goes by its restore source to the partner exchange; JOB_STOP stops at once, or after the next commit with
MODE 0 (with no step submitted at once); JOB_SUSPEND saves the context once drained; JOB_RESUME runs again; JOB_QUERY replies the state, next step and
statuses (FLAGS free: log entry 24); LOG_READ writes whole records to staging; HOSTLANE opens (same media version) or closes the lane; OVERRIDE_ADD,
MANIFEST and STEP_SUBMIT add what they bring, held for the start in a CREATED slot (a spare's dropped step is marked and logged); HOSTLANE_RETURN
takes a well laid out sample of an outstanding request, and asks again for another; BATCH without entries completes at once, else waits in order. A
command that consumes or writes staging ends with ST_MEM_TGEN_ACTIVE while its window is under test (JOB_START by its own check), waits and changes
nothing while a line there is held, and a hit that its read meets is resolved first: a persistent one ends it with ST_MEM_UNRECOVERED. BATCH_RUN of
the batch that is due, its work done, writes the outputs that the program left, up to OUT_MAX, and sends its notice; where they lie is a free value
(log entry 33), and held lines or a hit there stop it as they stop any read; otherwise it changes nothing. -/
def Obligations.JobCommands : Prop :=
  (∀ (m : Fin 256) (p : List Nat) (j : Fin 16) (d : Device), Served d m 0x101 p → mboxSlot m = some j.val →
    ((d.stagingAt j (jobStartSpans d j p)).any (fun s => heldAt d s.1 s.2) = false) →
      Takes (.jobStart m none) d (if firstFail [(startsBarred d, stJobState), (startCheck d j p != 0, startCheck d j p)] ≠ 0 then
          d.finish m (firstFail [(startsBarred d, stJobState), (startCheck d j p != 0, startCheck d j p)]) 0 []
        else match restoreCheck d j p with
          | .refuse => d.finish m 0x0801 0 []
          | .wait e => e.setOwn m 2
          | .from src =>
            match takeHeld (setupOf d j p) (d.jobAt j).held (startSlot (d.jobAt j) (setupOf d j p)) with
            | .error st => (d.updJob j (fun q => { q with held := [] })).finish m st 0 []
            | .ok q => d.exchange m j p q src))
  ∧ (∀ (m : Fin 256) (p : List Nat) (j : Fin 16) (h : Hit) (d : Device), Served d m 0x101 p → mboxSlot m = some j.val →
    ((d.stagingAt j (jobStartSpans d j p)).any (fun s => heldAt d s.1 s.2) = false) →
    (hitFits d h = true ∧ (d.stagingAt j (jobStartSpans d j p)).any (fun s => decide (s.1 ≤ hitAddr h) && decide (hitAddr h < s.1 + s.2)) = true) →
      Takes (.jobStart m (some h)) d (if hitPersistent h then (d.meetHit h).finish m stUnrecovered 0 []
        else if (d.stagingAt j (jobStartSpans d j p)).any (fun s => heldAt (d.meetHit h) s.1 s.2) then d.meetHit h else if firstFail [(startsBarred (d.meetHit h), stJobState), (startCheck (d.meetHit h) j p != 0, startCheck (d.meetHit h) j p)] ≠ 0 then
          (d.meetHit h).finish m (firstFail [(startsBarred (d.meetHit h), stJobState), (startCheck (d.meetHit h) j p != 0, startCheck (d.meetHit h) j p)]) 0 []
        else match restoreCheck (d.meetHit h) j p with
          | .refuse => (d.meetHit h).finish m 0x0801 0 []
          | .wait e => e.setOwn m 2
          | .from src =>
            match takeHeld (setupOf (d.meetHit h) j p) ((d.meetHit h).jobAt j).held (startSlot ((d.meetHit h).jobAt j) (setupOf (d.meetHit h) j p)) with
            | .error st => ((d.meetHit h).updJob j (fun q => { q with held := [] })).finish m st 0 []
            | .ok q => (d.meetHit h).exchange m j p q src))
  ∧ (∀ (m : Fin 256) (p : List Nat) (j : Fin 16) (hit : Option Hit) (d : Device), Served d m 0x101 p → mboxSlot m = some j.val →
    (((d.stagingAt j (jobStartSpans d j p)).any (fun s => heldAt d s.1 s.2) = true) ∨ (∃ h, hit = some h ∧ ¬(hitFits d h = true ∧ (d.stagingAt j (jobStartSpans d j p)).any (fun s => decide (s.1 ≤ hitAddr h) && decide (hitAddr h < s.1 + s.2)) = true))) →
      Takes (.jobStart m hit) d d)
  ∧ (∀ (m : Fin 256) (d : Device), (d.turn m 0x102 = false ∨ ¬(fieldAt (d.payload m) 0 1 = 0)) → Takes (.jobStopAfterCommit m) d d)
  ∧ (∀ (m : Fin 256) (d : Device), d.turn m 0x102 = true → fieldAt (d.payload m) 0 1 = 0 → headerCheck d m ≠ 0 →
      Takes (.jobStopAfterCommit m) d (d.finish m (headerCheck d m) 0 []))
  ∧ (∀ (m : Fin 256) (d : Device), (d.turn m 0x102 = false ∨ ¬(fieldAt (d.payload m) 0 1 ≠ 0)) → Takes (.jobStopAtOnce m) d d)
  ∧ (∀ (m : Fin 256) (d : Device), d.turn m 0x102 = true → fieldAt (d.payload m) 0 1 ≠ 0 → headerCheck d m ≠ 0 →
      Takes (.jobStopAtOnce m) d (d.finish m (headerCheck d m) 0 []))
  ∧ (∀ (m : Fin 256) (d : Device), (d.turn m 0x107 = false ∨ ¬(fieldAt (d.payload m) 0 1 = 0)) → Takes (.hostlaneOpen m) d d)
  ∧ (∀ (m : Fin 256) (d : Device), d.turn m 0x107 = true → fieldAt (d.payload m) 0 1 = 0 → headerCheck d m ≠ 0 →
      Takes (.hostlaneOpen m) d (d.finish m (headerCheck d m) 0 []))
  ∧ (∀ (m : Fin 256) (d : Device), (d.turn m 0x107 = false ∨ ¬(fieldAt (d.payload m) 0 1 ≠ 0)) → Takes (.hostlaneClose m) d d)
  ∧ (∀ (m : Fin 256) (d : Device), d.turn m 0x107 = true → fieldAt (d.payload m) 0 1 ≠ 0 → headerCheck d m ≠ 0 →
      Takes (.hostlaneClose m) d (d.finish m (headerCheck d m) 0 []))
  ∧ (∀ (m : Fin 256) (p : List Nat) (j : Fin 16) (d : Device), Served d m 0x102 p → mboxSlot m = some j.val → fieldAt p 0 1 = 0 →
      Takes (.jobStopAfterCommit m) d (if (d.jobAt j).stopping.isSome then d
        else if (d.jobAt j).steps.isEmpty then (d.stopNow j).finish m stOk 0 []
        else (d.updJob j (fun q => { q with stopping := some m.val })).setOwn m 2))
  ∧ (∀ (m : Fin 256) (p : List Nat) (j : Fin 16) (d : Device), Served d m 0x102 p → mboxSlot m = some j.val → fieldAt p 0 1 ≠ 0 →
      Takes (.jobStopAtOnce m) d (if fieldAt p 0 1 = 1 then (d.stopNow j).finish m stOk 0 [] else d.finish m stRange 0 []))
  ∧ (∀ (m : Fin 256) (p : List Nat) (j : Fin 16) (d : Device), Served d m 0x103 p → mboxSlot m = some j.val →
      Takes (.jobSuspend m) d (if (d.jobAt j).resident && !drained d j then (d.updJob j (fun q => { q with switching := true })).setOwn m 2
        else (d.suspend j).finish m stOk 0 []))
  ∧ (∀ (m : Fin 256) (p : List Nat) (j : Fin 16) (d : Device), Served d m 0x104 p → mboxSlot m = some j.val →
      let e := d.updJob j (fun q => { q with state := .running })
      let f := match (d.jobAt j).part with
        | some pt => if (residentOf e pt).isNone then e.restoreContext j else e
        | none => e
      let st := firstFail [(startsBarred d, stJobState), (partitionBusy d j (!(d.jobAt j).exclusive), 0x0202)]
      Takes (.jobResume m) d (if st ≠ 0 then d.finish m st 0 []
        else ((f.finish m stOk 0 []).pumpLane j).pump))
  ∧ (∀ (m : Fin 256) (p : List Nat) (j : Fin 16) (d : Device), Served d m 0x105 p → mboxSlot m = some j.val →
      Takes (.jobQuery m) d (d.draw.2.finish m stOk 0 ([stateCode (d.jobAt j).state, d.draw.1 % 256, 0, 0, 0, 0, 0, 0] ++ toLE 8 (d.jobAt j).nextStep
        ++ toLE 2 (d.jobAt j).lastStatus ++ toLE 2 (d.jobAt j).lastDesc ++ [0, 0, 0, 0] ++ sliceAt (d.jobAt j).slow.last 0 56)))
  ∧ (∀ (m : Fin 256) (p : List Nat) (j : Fin 16) (d : Device), Served d m 0x106 p → mboxSlot m = some j.val →
    firstFail [(decide (2 < fieldAt p 0 1), stRange), ((d.jobAt j).beyond (fieldAt p 4 4) (fieldAt p 16 4), stStaging)] ≠ 0 →
      Takes (.logRead m) d (d.finish m (firstFail [(decide (2 < fieldAt p 0 1), stRange), ((d.jobAt j).beyond (fieldAt p 4 4) (fieldAt p 16 4), stStaging)]) 0 []))
  ∧ (∀ (m : Fin 256) (p : List Nat) (j : Fin 16) (bs : List Nat) (d : Device), Served d m 0x106 p → mboxSlot m = some j.val → fieldAt p 0 1 ≤ 2 →
    (d.jobAt j).beyond (fieldAt p 4 4) (fieldAt p 16 4) = false →
    (wholeRecords (fieldAt p 16 4) (((logOf (d.jobAt j).logs (fieldAt p 0 1)).filter (fun e => decide (fieldAt p 8 8 ≤ e.1))).map Prod.snd) = bs) →
    ((d.stagingAt j [(fieldAt p 4 4, bs.length)]).any (fun x => accessStatus d .firmware x.1 x.2 == stTgen) = true) →
      Takes (.logRead m) d (d.finish m stTgen 0 []))
  ∧ (∀ (m : Fin 256) (p : List Nat) (j : Fin 16) (bs : List Nat) (d : Device), Served d m 0x106 p → mboxSlot m = some j.val → fieldAt p 0 1 ≤ 2 →
    (d.jobAt j).beyond (fieldAt p 4 4) (fieldAt p 16 4) = false →
    (wholeRecords (fieldAt p 16 4) (((logOf (d.jobAt j).logs (fieldAt p 0 1)).filter (fun e => decide (fieldAt p 8 8 ≤ e.1))).map Prod.snd) = bs) →
    ((d.stagingAt j [(fieldAt p 4 4, bs.length)]).any (fun x => accessStatus d .firmware x.1 x.2 == stTgen) = false) →
    ((d.stagingAt j [(fieldAt p 4 4, bs.length)]).any (fun s => heldAt d s.1 s.2) = false) →
      Takes (.logRead m) d ((d.store (((d.jobAt j).resv.map Resv.stageDev).getD 0 + fieldAt p 4 4) bs).finish m stOk bs.length []))
  ∧ (∀ (m : Fin 256) (p : List Nat) (j : Fin 16) (bs : List Nat) (d : Device), Served d m 0x106 p → mboxSlot m = some j.val → fieldAt p 0 1 ≤ 2 →
    (d.jobAt j).beyond (fieldAt p 4 4) (fieldAt p 16 4) = false →
    (wholeRecords (fieldAt p 16 4) (((logOf (d.jobAt j).logs (fieldAt p 0 1)).filter (fun e => decide (fieldAt p 8 8 ≤ e.1))).map Prod.snd) = bs) →
    ((d.stagingAt j [(fieldAt p 4 4, bs.length)]).any (fun x => accessStatus d .firmware x.1 x.2 == stTgen) = false) →
    ((d.stagingAt j [(fieldAt p 4 4, bs.length)]).any (fun s => heldAt d s.1 s.2) = true) → Takes (.logRead m) d d)
  ∧ (∀ (m : Fin 256) (p : List Nat) (j : Fin 16) (d : Device), Served d m 0x107 p → mboxSlot m = some j.val → fieldAt p 0 1 = 0 →
      let st := firstFail [(decide (1 < fieldAt p 0 1), stRange), (fieldAt p 16 4 == 0, stZeroSize), (decide (4096 < fieldAt p 16 4), stRange),
        (!boundTo d (fieldAt p 2 2) j, stFlowUnknown), (fieldAt p 4 4 != Config.medver % 2 ^ 32, 0x0504)]
      Takes (.hostlaneOpen m) d (if st ≠ 0 then d.finish m st 0 []
        else ((d.updJob j (fun q => { q with lane :=
          { isOpen := true, rflow := fieldAt p 2 2, raddr := fieldAt p 8 8, depth := fieldAt p 16 4, nextReq := 0, reqs := q.lane.reqs } })).finish m stOk 0 []).pumpLane j))
  ∧ (∀ (m : Fin 256) (p : List Nat) (j : Fin 16) (d : Device), Served d m 0x107 p → mboxSlot m = some j.val → fieldAt p 0 1 ≠ 0 →
      let st := firstFail [(decide (1 < fieldAt p 0 1), stRange), (fieldAt p 16 4 == 0, stZeroSize), (decide (4096 < fieldAt p 16 4), stRange),
        (!boundTo d (fieldAt p 2 2) j, stFlowUnknown)]
      Takes (.hostlaneClose m) d (if st ≠ 0 then d.finish m st 0 []
        else (d.updJob j (fun q => { q with lane := { q.lane with isOpen := false } })).finish m stOk 0 []))
  ∧ (∀ (m : Fin 256) (p : List Nat) (j : Fin 16) (hit : Option Hit) (d : Device), Served d m 0x108 p → mboxSlot m = some j.val →
    (d.jobAt j).beyond (fieldAt p 4 4) (24 * fieldAt p 0 4) = true → Takes (.overrideAdd m hit) d (d.finish m stStaging 0 []))
  ∧ (∀ (m : Fin 256) (p : List Nat) (j : Fin 16) (hit : Option Hit) (d : Device), Served d m 0x108 p → mboxSlot m = some j.val →
    (d.jobAt j).beyond (fieldAt p 4 4) (24 * fieldAt p 0 4) = false →
    ((d.stagingAt j [(fieldAt p 4 4, 24 * fieldAt p 0 4)]).any (fun x => accessStatus d .firmware x.1 x.2 == stTgen) = true) →
      Takes (.overrideAdd m hit) d (d.finish m stTgen 0 []))
  ∧ (∀ (m : Fin 256) (p : List Nat) (j : Fin 16) (d : Device), Served d m 0x108 p → mboxSlot m = some j.val →
    (d.jobAt j).beyond (fieldAt p 4 4) (24 * fieldAt p 0 4) = false →
    ((d.stagingAt j [(fieldAt p 4 4, 24 * fieldAt p 0 4)]).any (fun x => accessStatus d .firmware x.1 x.2 == stTgen) = false) →
    ((d.stagingAt j [(fieldAt p 4 4, 24 * fieldAt p 0 4)]).any (fun s => heldAt d s.1 s.2) = false) →
      Takes (.overrideAdd m none) d (let rs := d.stagedRecords j (fieldAt p 4 4) 24 (fieldAt p 0 4)
        let old := (d.jobAt j).overrides.length
        let held := firstFail [(rs.any overrideReserved, stReserved),
          (rs.any (fun b => decide (4 < (overrideOf b).param) || ((overrideOf b).param == 0 && decide (1 < (overrideOf b).value))), stRange)]
        if (d.jobAt j).state = .created then
          if held ≠ 0 then d.finish m held 0 [] else (d.updJob j (fun q => { q with held := q.held ++ [.overrides rs] })).finish m stOk 1 []
        else match addOverrides (((d.jobAt j).setup.map (fun u => u.jr.aug)).getD []) (d.jobAt j).overrides rs with
          | .ok os => (d.updJob j (fun q => { q with
              overrides := os.take old ++ (os.drop old).map (fun (o : Override) => { o with since := (d.jobAt j).nextStep }) })).finish m stOk 0 []
          | .error st => d.finish m st 0 []))
  ∧ (∀ (m : Fin 256) (p : List Nat) (j : Fin 16) (h : Hit) (d : Device), Served d m 0x108 p → mboxSlot m = some j.val →
    (d.jobAt j).beyond (fieldAt p 4 4) (24 * fieldAt p 0 4) = false →
    ((d.stagingAt j [(fieldAt p 4 4, 24 * fieldAt p 0 4)]).any (fun x => accessStatus d .firmware x.1 x.2 == stTgen) = false) →
    ((d.stagingAt j [(fieldAt p 4 4, 24 * fieldAt p 0 4)]).any (fun s => heldAt d s.1 s.2) = false) →
    (hitFits d h = true ∧ (d.stagingAt j [(fieldAt p 4 4, 24 * fieldAt p 0 4)]).any (fun s => decide (s.1 ≤ hitAddr h) && decide (hitAddr h < s.1 + s.2)) = true) →
      Takes (.overrideAdd m (some h)) d (if hitPersistent h then (d.meetHit h).finish m stUnrecovered 0 []
        else if (d.stagingAt j [(fieldAt p 4 4, 24 * fieldAt p 0 4)]).any (fun s => heldAt (d.meetHit h) s.1 s.2) then d.meetHit h else let rs := (d.meetHit h).stagedRecords j (fieldAt p 4 4) 24 (fieldAt p 0 4)
        let old := (d.jobAt j).overrides.length
        let held := firstFail [(rs.any overrideReserved, stReserved),
          (rs.any (fun b => decide (4 < (overrideOf b).param) || ((overrideOf b).param == 0 && decide (1 < (overrideOf b).value))), stRange)]
        if (d.jobAt j).state = .created then
          if held ≠ 0 then (d.meetHit h).finish m held 0 [] else ((d.meetHit h).updJob j (fun q => { q with held := q.held ++ [.overrides rs] })).finish m stOk 1 []
        else match addOverrides (((d.jobAt j).setup.map (fun u => u.jr.aug)).getD []) (d.jobAt j).overrides rs with
          | .ok os => ((d.meetHit h).updJob j (fun q => { q with
              overrides := os.take old ++ (os.drop old).map (fun (o : Override) => { o with since := (d.jobAt j).nextStep }) })).finish m stOk 0 []
          | .error st => (d.meetHit h).finish m st 0 []))
  ∧ (∀ (m : Fin 256) (p : List Nat) (j : Fin 16) (hit : Option Hit) (d : Device), Served d m 0x108 p → mboxSlot m = some j.val →
    (d.jobAt j).beyond (fieldAt p 4 4) (24 * fieldAt p 0 4) = false →
    ((d.stagingAt j [(fieldAt p 4 4, 24 * fieldAt p 0 4)]).any (fun x => accessStatus d .firmware x.1 x.2 == stTgen) = false) →
    (((d.stagingAt j [(fieldAt p 4 4, 24 * fieldAt p 0 4)]).any (fun s => heldAt d s.1 s.2) = true) ∨ (∃ h, hit = some h ∧ ¬(hitFits d h = true ∧ (d.stagingAt j [(fieldAt p 4 4, 24 * fieldAt p 0 4)]).any (fun s => decide (s.1 ≤ hitAddr h) && decide (hitAddr h < s.1 + s.2)) = true))) →
      Takes (.overrideAdd m hit) d d)
  ∧ (∀ (m : Fin 256) (p : List Nat) (j : Fin 16) (hit : Option Hit) (d : Device), Served d m 0x201 p → mboxSlot m = some j.val →
    (d.jobAt j).beyond (fieldAt p 20 4) (32 * fieldAt p 16 4) = true → Takes (.manifest m hit) d (d.finish m stStaging 0 []))
  ∧ (∀ (m : Fin 256) (p : List Nat) (j : Fin 16) (hit : Option Hit) (d : Device), Served d m 0x201 p → mboxSlot m = some j.val →
    (d.jobAt j).beyond (fieldAt p 20 4) (32 * fieldAt p 16 4) = false →
    ((d.stagingAt j [(fieldAt p 20 4, 32 * fieldAt p 16 4)]).any (fun x => accessStatus d .firmware x.1 x.2 == stTgen) = true) →
      Takes (.manifest m hit) d (d.finish m stTgen 0 []))
  ∧ (∀ (m : Fin 256) (p : List Nat) (j : Fin 16) (d : Device), Served d m 0x201 p → mboxSlot m = some j.val →
    (d.jobAt j).beyond (fieldAt p 20 4) (32 * fieldAt p 16 4) = false →
    ((d.stagingAt j [(fieldAt p 20 4, 32 * fieldAt p 16 4)]).any (fun x => accessStatus d .firmware x.1 x.2 == stTgen) = false) →
    ((d.stagingAt j [(fieldAt p 20 4, 32 * fieldAt p 16 4)]).any (fun s => heldAt d s.1 s.2) = false) →
      Takes (.manifest m none) d (let es := d.stagedRecords j (fieldAt p 20 4) 32 (fieldAt p 16 4)
        if es.any (fun e => !boundTo d (manFlow e) j) then d.finish m stFlowUnknown 0 []
        else if (d.jobAt j).state = .created then
          if es.any manReserved then d.finish m stManifestOrder 0 []
          else (d.updJob j (fun q => { q with held := q.held ++ [.window (fieldAt p 0 4) (fieldAt p 8 8) es] })).finish m stOk 1 []
        else match (d.jobAt j).setup with
          | some u =>
            let st := windowCheck (d.jobAt j) u.jr.seed u.jr.n (fieldAt p 0 4) (fieldAt p 8 8) es
            if st ≠ 0 then d.finish m st 0 [] else (d.updJob j (fun q => q.addWindow (fieldAt p 0 4) (fieldAt p 8 8) es)).finish m stOk 0 []
          | none => d.finish m stJobState 0 []))
  ∧ (∀ (m : Fin 256) (p : List Nat) (j : Fin 16) (h : Hit) (d : Device), Served d m 0x201 p → mboxSlot m = some j.val →
    (d.jobAt j).beyond (fieldAt p 20 4) (32 * fieldAt p 16 4) = false →
    ((d.stagingAt j [(fieldAt p 20 4, 32 * fieldAt p 16 4)]).any (fun x => accessStatus d .firmware x.1 x.2 == stTgen) = false) →
    ((d.stagingAt j [(fieldAt p 20 4, 32 * fieldAt p 16 4)]).any (fun s => heldAt d s.1 s.2) = false) →
    (hitFits d h = true ∧ (d.stagingAt j [(fieldAt p 20 4, 32 * fieldAt p 16 4)]).any (fun s => decide (s.1 ≤ hitAddr h) && decide (hitAddr h < s.1 + s.2)) = true) →
      Takes (.manifest m (some h)) d (if hitPersistent h then (d.meetHit h).finish m stUnrecovered 0 []
        else if (d.stagingAt j [(fieldAt p 20 4, 32 * fieldAt p 16 4)]).any (fun s => heldAt (d.meetHit h) s.1 s.2) then d.meetHit h else let es := (d.meetHit h).stagedRecords j (fieldAt p 20 4) 32 (fieldAt p 16 4)
        if es.any (fun e => !boundTo (d.meetHit h) (manFlow e) j) then (d.meetHit h).finish m stFlowUnknown 0 []
        else if (d.jobAt j).state = .created then
          if es.any manReserved then (d.meetHit h).finish m stManifestOrder 0 []
          else ((d.meetHit h).updJob j (fun q => { q with held := q.held ++ [.window (fieldAt p 0 4) (fieldAt p 8 8) es] })).finish m stOk 1 []
        else match (d.jobAt j).setup with
          | some u =>
            let st := windowCheck (d.jobAt j) u.jr.seed u.jr.n (fieldAt p 0 4) (fieldAt p 8 8) es
            if st ≠ 0 then (d.meetHit h).finish m st 0 [] else ((d.meetHit h).updJob j (fun q => q.addWindow (fieldAt p 0 4) (fieldAt p 8 8) es)).finish m stOk 0 []
          | none => (d.meetHit h).finish m stJobState 0 []))
  ∧ (∀ (m : Fin 256) (p : List Nat) (j : Fin 16) (hit : Option Hit) (d : Device), Served d m 0x201 p → mboxSlot m = some j.val →
    (d.jobAt j).beyond (fieldAt p 20 4) (32 * fieldAt p 16 4) = false →
    ((d.stagingAt j [(fieldAt p 20 4, 32 * fieldAt p 16 4)]).any (fun x => accessStatus d .firmware x.1 x.2 == stTgen) = false) →
    (((d.stagingAt j [(fieldAt p 20 4, 32 * fieldAt p 16 4)]).any (fun s => heldAt d s.1 s.2) = true) ∨ (∃ h, hit = some h ∧ ¬(hitFits d h = true ∧ (d.stagingAt j [(fieldAt p 20 4, 32 * fieldAt p 16 4)]).any (fun s => decide (s.1 ≤ hitAddr h) && decide (hitAddr h < s.1 + s.2)) = true))) →
      Takes (.manifest m hit) d d)
  ∧ (∀ (m : Fin 256) (p : List Nat) (j : Fin 16) (d : Device), Served d m 0x202 p → mboxSlot m = some j.val → submitCheck (d.jobAt j) p ≠ 0 →
      Takes (.stepSubmit m) d (d.finish m (submitCheck (d.jobAt j) p) 0 []))
  ∧ (∀ (m : Fin 256) (p : List Nat) (j : Fin 16) (d : Device), Served d m 0x202 p → mboxSlot m = some j.val → submitCheck (d.jobAt j) p = 0 →
    dropsStep (d.jobAt j) (d.jobAt j).nextStep = false →
      let n := (d.jobAt j).nextStep
      Takes (.stepSubmit m) d (((d.updJob j (fun q => { q with steps := q.steps ++ [newStep n (subOf p)], nextStep := n + 1 })).finish m stOk n []).pump))
  ∧ (∀ (m : Fin 256) (p : List Nat) (j : Fin 16) (d : Device), Served d m 0x202 p → mboxSlot m = some j.val → submitCheck (d.jobAt j) p = 0 →
    dropsStep (d.jobAt j) (d.jobAt j).nextStep = true →
      let n := (d.jobAt j).nextStep
      let b := subOf p
      let d1 := d.updJob j (fun q => { q with steps := q.steps ++ [{ newStep n b with dropped := some (b.posFirst, b.posCount) }], nextStep := n + 1 })
      let d2 := d1.logEvent srcRenura 0x0802 sevNotice (some j)
        (toLE 8 n ++ toLE 2 (((d.jobAt j).setup.map (fun u => u.topo.dpPos)).getD 0) ++ toLE 6 b.posFirst ++ toLE 2 b.posCount)
      Takes (.stepSubmit m) d ((d2.finish m stOk n []).pump))
  ∧ (∀ (m : Fin 256) (p : List Nat) (j : Fin 16) (hit : Option Hit) (d : Device), Served d m 0x203 p → mboxSlot m = some j.val →
    (d.jobAt j).beyond (fieldAt p 24 4) (fieldAt p 20 4) = true → Takes (.hostlaneReturn m hit) d (d.finish m stStaging 0 []))
  ∧ (∀ (m : Fin 256) (p : List Nat) (j : Fin 16) (hit : Option Hit) (d : Device), Served d m 0x203 p → mboxSlot m = some j.val →
    (d.jobAt j).beyond (fieldAt p 24 4) (fieldAt p 20 4) = false →
    ((d.jobAt j).setup = none ∨ ((d.jobAt j).lane.reqs.find? (fun r => r.sample == fieldAt p 0 8 && r.step == fieldAt p 8 8 && r.slot == fieldAt p 16 4) = none) ∨ (∃ q, (d.jobAt j).lane.reqs.find? (fun r => r.sample == fieldAt p 0 8 && r.step == fieldAt p 8 8 && r.slot == fieldAt p 16 4) = some q ∧ (d.jobAt j).stepAt q.step = none)) →
      Takes (.hostlaneReturn m hit) d (d.finish m stJobState 0 []))
  ∧ (∀ (m : Fin 256) (p : List Nat) (j : Fin 16) (q : HostReq) (u : JobSetup) (st : Step) (hit : Option Hit) (d : Device), Served d m 0x203 p →
    mboxSlot m = some j.val → (d.jobAt j).beyond (fieldAt p 24 4) (fieldAt p 20 4) = false →
    ((d.jobAt j).lane.reqs.find? (fun r => r.sample == fieldAt p 0 8 && r.step == fieldAt p 8 8 && r.slot == fieldAt p 16 4) = some q) →
    (d.jobAt j).setup = some u → (d.jobAt j).stepAt q.step = some st →
    ((d.stagingAt j [(fieldAt p 24 4, fieldAt p 20 4)]).any (fun x => accessStatus d .firmware x.1 x.2 == stTgen) = true) →
      Takes (.hostlaneReturn m hit) d (d.finish m stTgen 0 []))
  ∧ (∀ (m : Fin 256) (p : List Nat) (j : Fin 16) (q : HostReq) (u : JobSetup) (st : Step) (d : Device), Served d m 0x203 p → mboxSlot m = some j.val →
    (d.jobAt j).beyond (fieldAt p 24 4) (fieldAt p 20 4) = false →
    ((d.jobAt j).lane.reqs.find? (fun r => r.sample == fieldAt p 0 8 && r.step == fieldAt p 8 8 && r.slot == fieldAt p 16 4) = some q) →
    (d.jobAt j).setup = some u → (d.jobAt j).stepAt q.step = some st →
    ((d.stagingAt j [(fieldAt p 24 4, fieldAt p 20 4)]).any (fun x => accessStatus d .firmware x.1 x.2 == stTgen) = false) →
    ((d.stagingAt j [(fieldAt p 24 4, fieldAt p 20 4)]).any (fun s => heldAt d s.1 s.2) = false) →
      Takes (.hostlaneReturn m none) d (let k := fieldAt p 16 4
        let bs := d.staged j (fieldAt p 24 4) (fieldAt p 20 4)
        let e := d.updJob j (fun x => { x with lane := { x.lane with reqs := x.lane.reqs.erase q } })
        if layoutOk u.jr (manMedia (entryOfSlot (d.jobAt j) st k)) bs = true then
          let f := if (smpOf bs).status ≠ 0 then e.endMedia j st k (smpOf bs).status (q.reason == 1) else e.takeSample j st.num k (smpOf bs).conceal bs
          ((f.finish m stOk 0 []).pumpLane j).pump
        else (e.finish m stRange 0 []).requestLane j st k q.reason))
  ∧ (∀ (m : Fin 256) (p : List Nat) (j : Fin 16) (q : HostReq) (u : JobSetup) (st : Step) (h : Hit) (d : Device), Served d m 0x203 p →
    mboxSlot m = some j.val → (d.jobAt j).beyond (fieldAt p 24 4) (fieldAt p 20 4) = false →
    ((d.jobAt j).lane.reqs.find? (fun r => r.sample == fieldAt p 0 8 && r.step == fieldAt p 8 8 && r.slot == fieldAt p 16 4) = some q) →
    (d.jobAt j).setup = some u → (d.jobAt j).stepAt q.step = some st →
    ((d.stagingAt j [(fieldAt p 24 4, fieldAt p 20 4)]).any (fun x => accessStatus d .firmware x.1 x.2 == stTgen) = false) →
    ((d.stagingAt j [(fieldAt p 24 4, fieldAt p 20 4)]).any (fun s => heldAt d s.1 s.2) = false) →
    (hitFits d h = true ∧ (d.stagingAt j [(fieldAt p 24 4, fieldAt p 20 4)]).any (fun s => decide (s.1 ≤ hitAddr h) && decide (hitAddr h < s.1 + s.2)) = true) →
      Takes (.hostlaneReturn m (some h)) d (if hitPersistent h then (d.meetHit h).finish m stUnrecovered 0 []
        else if (d.stagingAt j [(fieldAt p 24 4, fieldAt p 20 4)]).any (fun s => heldAt (d.meetHit h) s.1 s.2) then d.meetHit h else let k := fieldAt p 16 4
        let bs := (d.meetHit h).staged j (fieldAt p 24 4) (fieldAt p 20 4)
        let e := (d.meetHit h).updJob j (fun x => { x with lane := { x.lane with reqs := x.lane.reqs.erase q } })
        if layoutOk u.jr (manMedia (entryOfSlot (d.jobAt j) st k)) bs = true then
          let f := if (smpOf bs).status ≠ 0 then e.endMedia j st k (smpOf bs).status (q.reason == 1) else e.takeSample j st.num k (smpOf bs).conceal bs
          ((f.finish m stOk 0 []).pumpLane j).pump
        else (e.finish m stRange 0 []).requestLane j st k q.reason))
  ∧ (∀ (m : Fin 256) (p : List Nat) (j : Fin 16) (q : HostReq) (u : JobSetup) (st : Step) (hit : Option Hit) (d : Device), Served d m 0x203 p →
    mboxSlot m = some j.val → (d.jobAt j).beyond (fieldAt p 24 4) (fieldAt p 20 4) = false →
    ((d.jobAt j).lane.reqs.find? (fun r => r.sample == fieldAt p 0 8 && r.step == fieldAt p 8 8 && r.slot == fieldAt p 16 4) = some q) →
    (d.jobAt j).setup = some u → (d.jobAt j).stepAt q.step = some st →
    ((d.stagingAt j [(fieldAt p 24 4, fieldAt p 20 4)]).any (fun x => accessStatus d .firmware x.1 x.2 == stTgen) = false) →
    (((d.stagingAt j [(fieldAt p 24 4, fieldAt p 20 4)]).any (fun s => heldAt d s.1 s.2) = true) ∨ (∃ h, hit = some h ∧ ¬(hitFits d h = true ∧ (d.stagingAt j [(fieldAt p 24 4, fieldAt p 20 4)]).any (fun s => decide (s.1 ≤ hitAddr h) && decide (hitAddr h < s.1 + s.2)) = true))) →
      Takes (.hostlaneReturn m hit) d d)
  ∧ (∀ (m : Fin 256) (p : List Nat) (j : Fin 16) (hit : Option Hit) (d : Device), Served d m 0x204 p → mboxSlot m = some j.val →
    batchCheck (d.jobAt j) p ≠ 0 → Takes (.batch m hit) d (d.finish m (batchCheck (d.jobAt j) p) 0 []))
  ∧ (∀ (m : Fin 256) (p : List Nat) (j : Fin 16) (hit : Option Hit) (d : Device), Served d m 0x204 p → mboxSlot m = some j.val →
    batchCheck (d.jobAt j) p = 0 →
    ((d.stagingAt j [(fieldAt p 20 4, 32 * fieldAt p 16 4)]).any (fun x => accessStatus d .firmware x.1 x.2 == stTgen) = true) →
      Takes (.batch m hit) d (d.finish m stTgen 0 []))
  ∧ (∀ (m : Fin 256) (p : List Nat) (j : Fin 16) (d : Device), Served d m 0x204 p → mboxSlot m = some j.val → batchCheck (d.jobAt j) p = 0 →
    ((d.stagingAt j [(fieldAt p 20 4, 32 * fieldAt p 16 4)]).any (fun x => accessStatus d .firmware x.1 x.2 == stTgen) = false) →
    ((d.stagingAt j [(fieldAt p 20 4, 32 * fieldAt p 16 4)]).any (fun s => heldAt d s.1 s.2) = false) →
      Takes (.batch m none) d (if fieldAt p 16 4 = 0 then (d.finish m stOk 0 []).batchNotice j stOk (fieldAt p 8 8) 0
        else ((d.updJob j (fun q => { q with batches := q.batches ++ [{ kind := fieldAt p 0 1, window := fieldAt p 4 4, batchNo := fieldAt p 8 8, work := batchStep (batchBase + (d.jobAt j).nextBatch) (fieldAt p 8 8) (d.stagedRecords j (fieldAt p 20 4) 32 (fieldAt p 16 4)), outOff := fieldAt p 24 4, outMax := fieldAt p 28 4 }], nextBatch := q.nextBatch + 1 })).finish m stOk 0 []).pump))
  ∧ (∀ (m : Fin 256) (p : List Nat) (j : Fin 16) (h : Hit) (d : Device), Served d m 0x204 p → mboxSlot m = some j.val → batchCheck (d.jobAt j) p = 0 →
    ((d.stagingAt j [(fieldAt p 20 4, 32 * fieldAt p 16 4)]).any (fun x => accessStatus d .firmware x.1 x.2 == stTgen) = false) →
    ((d.stagingAt j [(fieldAt p 20 4, 32 * fieldAt p 16 4)]).any (fun s => heldAt d s.1 s.2) = false) →
    (hitFits d h = true ∧ (d.stagingAt j [(fieldAt p 20 4, 32 * fieldAt p 16 4)]).any (fun s => decide (s.1 ≤ hitAddr h) && decide (hitAddr h < s.1 + s.2)) = true) →
      Takes (.batch m (some h)) d (if hitPersistent h then (d.meetHit h).finish m stUnrecovered 0 []
        else if (d.stagingAt j [(fieldAt p 20 4, 32 * fieldAt p 16 4)]).any (fun s => heldAt (d.meetHit h) s.1 s.2) then d.meetHit h else if fieldAt p 16 4 = 0 then ((d.meetHit h).finish m stOk 0 []).batchNotice j stOk (fieldAt p 8 8) 0
        else (((d.meetHit h).updJob j (fun q => { q with batches := q.batches ++ [{ kind := fieldAt p 0 1, window := fieldAt p 4 4, batchNo := fieldAt p 8 8, work := batchStep (batchBase + ((d.meetHit h).jobAt j).nextBatch) (fieldAt p 8 8) ((d.meetHit h).stagedRecords j (fieldAt p 20 4) 32 (fieldAt p 16 4)), outOff := fieldAt p 24 4, outMax := fieldAt p 28 4 }], nextBatch := q.nextBatch + 1 })).finish m stOk 0 []).pump))
  ∧ (∀ (m : Fin 256) (p : List Nat) (j : Fin 16) (hit : Option Hit) (d : Device), Served d m 0x204 p → mboxSlot m = some j.val →
    batchCheck (d.jobAt j) p = 0 →
    ((d.stagingAt j [(fieldAt p 20 4, 32 * fieldAt p 16 4)]).any (fun x => accessStatus d .firmware x.1 x.2 == stTgen) = false) →
    (((d.stagingAt j [(fieldAt p 20 4, 32 * fieldAt p 16 4)]).any (fun s => heldAt d s.1 s.2) = true) ∨ (∃ h, hit = some h ∧ ¬(hitFits d h = true ∧ (d.stagingAt j [(fieldAt p 20 4, 32 * fieldAt p 16 4)]).any (fun s => decide (s.1 ≤ hitAddr h) && decide (hitAddr h < s.1 + s.2)) = true))) →
      Takes (.batch m hit) d d)
  ∧ (∀ (j : Fin 16) (k : Nat) (others : List (List Nat)) (b : Batch) (r : Resv) (u : JobSetup) (d : Device), (d.jobAt j).dueBatch = some b →
    (d.jobAt j).resv = some r → (d.jobAt j).setup = some u →
    (b.batchNo = k ∧ (d.jobAt j).resident = true ∧ (d.jobAt j).switching = false ∧ (d.jobAt j).state = .running ∧ d.glb.cur = .active ∧ d.glb.flushing = false ∧ batchDone d j b.work = true) →
    ((([((Config.batchOutput u.prog.digest).1, min b.outMax (Config.batchOutput u.prog.digest).2), (r.stageDev + b.outOff, min b.outMax (Config.batchOutput u.prog.digest).2)] : List (Nat × Nat))).any (fun s => heldAt d s.1 s.2) = false) →
      Takes (.batchRun j k none others) d (let bs := d.readN (Config.batchOutput u.prog.digest).1 (min b.outMax (Config.batchOutput u.prog.digest).2)
        let e := (d.store (r.stageDev + b.outOff) bs).updJob j (fun q => { q with batches := markDone q.batches })
        let f := if b.kind = 0 then e.batchRecords j u b.work others else e
        (f.batchNotice j (if b.outMax < (Config.batchOutput u.prog.digest).2 then stStaging else stOk) k bs.length).pump))
  ∧ (∀ (j : Fin 16) (k : Nat) (hit : Option Hit) (others : List (List Nat)) (b : Batch) (r : Resv) (u : JobSetup) (d : Device),
    (d.jobAt j).dueBatch = some b → (d.jobAt j).resv = some r → (d.jobAt j).setup = some u →
    (b.batchNo = k ∧ (d.jobAt j).resident = true ∧ (d.jobAt j).switching = false ∧ (d.jobAt j).state = .running ∧ d.glb.cur = .active ∧ d.glb.flushing = false ∧ batchDone d j b.work = true) →
      Takes (.batchRun j k hit others) d (d.withHit hit ([((Config.batchOutput u.prog.digest).1, min b.outMax (Config.batchOutput u.prog.digest).2), (r.stageDev + b.outOff, min b.outMax (Config.batchOutput u.prog.digest).2)] : List (Nat × Nat)) Device.holdFault (fun e =>
        let bs := e.readN (Config.batchOutput u.prog.digest).1 (min b.outMax (Config.batchOutput u.prog.digest).2)
        let g := (e.store (r.stageDev + b.outOff) bs).updJob j (fun q => { q with batches := markDone q.batches })
        let f := if b.kind = 0 then g.batchRecords j u b.work others else g
        (f.batchNotice j (if b.outMax < (Config.batchOutput u.prog.digest).2 then stStaging else stOk) k bs.length).pump)))
  ∧ (∀ (j : Fin 16) (k : Nat) (hit : Option Hit) (others : List (List Nat)) (b : Batch) (d : Device), (d.jobAt j).dueBatch = some b →
    (¬(b.batchNo = k ∧ (d.jobAt j).resident = true ∧ (d.jobAt j).switching = false ∧ (d.jobAt j).state = .running ∧ d.glb.cur = .active ∧ d.glb.flushing = false ∧ batchDone d j b.work = true)) →
      Takes (.batchRun j k hit others) d d)
  ∧ (∀ (j : Fin 16) (k : Nat) (hit : Option Hit) (others : List (List Nat)) (d : Device),
    ((d.jobAt j).dueBatch = none ∨ (d.jobAt j).resv = none ∨ (d.jobAt j).setup = none) → Takes (.batchRun j k hit others) d d)

/-- INTAKE_FETCH, for the job that owns the intake and a slot in fetch with fewer than 8 attempts: bytes of the length and CRC of its manifest entry are
held and routed; others count an attempt, asked for again before the eighth; else only the engine is brought up to date. FETCH_FAILED after the eighth
logs the loss and stops the job. DECODE_START: the next entry for the given media goes to a core; with an uncorrectable word its slot is fetched
again; corrected and uncorrectable words are counted. DECODE_COMPLETE decodes the slot's bytes: a failed decode ends with its status, one of refused
dimensions with ST_DIMS, another becomes the decoded sample and its concealments and syntax errors are counted. DECODE_BUDGET_EXPIRED counts, logs,
and sends the sample to an open host lane when eligible, else to the retry lane without a budget. GRADER_BANK_SWAP swaps an empty draining bank with a
sealed one; RETRY_LANE_ENTRY lets the longest waiting entry in while there is room. MICROBATCH_CLOSE closes what the due batch, if it can close, or
the oldest unpacked step is building. MICROBATCH_DISPATCH, allowed to start, nothing that it writes held, places the micro-batch, captures what its
pans leave behind of another step, takes undo copies when due, lets chains forward again at a step's start, writes expert capacities, starts the pans
and queues the engine commands. REDO_GATE writes the watched slots at the gate, reports and stalls, and in a recomputation of a unit that has passed
restores the watched slots instead; REDO_VERDICT passes the attempt, raises the level below TOP, or records an exhausted trigger; both wait on a held
gate. In every other case each command changes nothing more. Layouts of log entry 25, media reading of log entries 26 and 42 are the model's choices. -/
def Obligations.IntakeAndMicroBatches : Prop :=
  (∀ (j : Fin 16) (n k : Nat) (b : List Nat) (st : Step) (d : Device),
    (d.pump.grd.owner = some j.val ∧ serves d.pump j = true ∧ stepSlot (d.pump.jobAt j) n k (fun x => x.place == .fetching && decide (x.attempts < 8)) = some st) →
    b.length = manCsize (entryOfSlot (d.pump.jobAt j) st k) → crc32c b = manCrc (entryOfSlot (d.pump.jobAt j) st k) →
      let e := d.pump.holdBytes j n k b
      Takes (.intakeFetch j n k b) d (match (e.jobAt j).stepAt n with | some x => (e.route j x k b).pump | none => e))
  ∧ (∀ (j : Fin 16) (n k : Nat) (b : List Nat) (st : Step) (d : Device),
    (d.pump.grd.owner = some j.val ∧ serves d.pump j = true ∧ stepSlot (d.pump.jobAt j) n k (fun x => x.place == .fetching && decide (x.attempts < 8)) = some st) →
    (b.length ≠ manCsize (entryOfSlot (d.pump.jobAt j) st k) ∨ crc32c b ≠ manCrc (entryOfSlot (d.pump.jobAt j) st k)) →
      let t := ((st.slotAt k).getD {}).attempts + 1
      let e := d.pump.updSample j st.num k (fun _ _ _ _ x => { x with attempts := t })
      Takes (.intakeFetch j n k b) d (if t < 8 then e.askFetch (entryOfSlot (d.pump.jobAt j) st k) else e))
  ∧ (∀ (j : Fin 16) (n k : Nat) (b : List Nat) (d : Device),
    (∀ st, ¬(d.pump.grd.owner = some j.val ∧ serves d.pump j = true ∧ stepSlot (d.pump.jobAt j) n k (fun x => x.place == .fetching && decide (x.attempts < 8)) = some st)) →
      Takes (.intakeFetch j n k b) d d.pump)
  ∧ (∀ (j : Fin 16) (n k : Nat) (st : Step) (d : Device),
    (stepSlot (d.jobAt j) n k (fun x => x.place == .fetching && decide (8 ≤ x.attempts)) = some st) →
      Takes (.fetchFailed j n k) d ((d.logEvent srcQuay 0x0601 sevFault (some j) (toLE 8 (manSample (entryOfSlot (d.jobAt j) st k)) ++ toLE 8 st.num)).stopJob j
        (fun n => if n = st.num then 0x0606 else stAborted)))
  ∧ (∀ (j : Fin 16) (n k : Nat) (d : Device), (stepSlot (d.jobAt j) n k (fun x => x.place == .fetching && decide (8 ≤ x.attempts)) = none) →
      Takes (.fetchFailed j n k) d d)
  ∧ (∀ (ms : List Nat) (a b : Ecc) (e : GEntry) (r : Bool) (d : Device), (d.grd.owner.map (serves d)).getD false = true →
    nextEntry d.grd ms = some (e, r) → a ≠ .uncorrectable → b ≠ .uncorrectable →
      let c : GrdCounts := { d.grdc with corr := satAdd d.grdc.corr (([a, b].filter (· == .corrected)).length), uncorr := satAdd d.grdc.uncorr (([a, b].filter (· == .uncorrectable)).length) }
      Takes (.decodeStart ms a b) d (({ d with
          grd := { d.grd.remove e with busy := (d.grd.remove e).busy ++ [e] }
          grdc := c
          med := if isVideo e.media then { d.med with ctxOpen := d.med.ctxOpen + 1 } else d.med } : Device).updSample e.job e.step e.slot
        (fun _ _ _ _ x => { x with place := .decoding })))
  ∧ (∀ (ms : List Nat) (a b : Ecc) (e : GEntry) (r : Bool) (d : Device), (d.grd.owner.map (serves d)).getD false = true →
    nextEntry d.grd ms = some (e, r) → (a = .uncorrectable ∨ b = .uncorrectable) →
      let c : GrdCounts := { d.grdc with corr := satAdd d.grdc.corr (([a, b].filter (· == .corrected)).length), uncorr := satAdd d.grdc.uncorr (([a, b].filter (· == .uncorrectable)).length) }
      Takes (.decodeStart ms a b) d ((({ d with grd := d.grd.remove e, grdc := c } : Device).updSample e.job e.step e.slot
        (fun _ _ _ _ x => { x with place := .unplaced, again := true, attempts := 0 })).pump))
  ∧ (∀ (ms : List Nat) (a b : Ecc) (d : Device), ((d.grd.owner.map (serves d)).getD false = false ∨ nextEntry d.grd ms = none) →
      Takes (.decodeStart ms a b) d d)
  ∧ (∀ (j : Fin 16) (n k : Nat) (x : Decoded) (u : JobSetup) (g : GEntry) (st : Step) (d e : Device), d.takeBusy j n k = some (g, e) →
    (d.jobAt j).setup = some u → (d.jobAt j).stepAt g.step = some st →
    decodeBytes g.media (manWrap (entryOfSlot (d.jobAt j) st k)) (((st.slotAt k).map SampleSlot.raw).getD []) = x → (∃ c, x = .failed c) →
      Takes (.decodeComplete j n k) d (e.endMedia j st k (match x with | .failed c => c | _ => 0) false).pump)
  ∧ (∀ (j : Fin 16) (n k : Nat) (x : Decoded) (u : JobSetup) (g : GEntry) (st : Step) (d e : Device), d.takeBusy j n k = some (g, e) →
    (d.jobAt j).setup = some u → (d.jobAt j).stepAt g.step = some st →
    decodeBytes g.media (manWrap (entryOfSlot (d.jobAt j) st k)) (((st.slotAt k).map SampleSlot.raw).getD []) = x →
    (match x with | .failed _ => false | _ => true) = true →
    ((declared x).any (fun y => dimsBad g.media y.1 y.2 (manCsize (entryOfSlot (d.jobAt j) st k)) (d.jobAt j).pixLimit) = true) →
      Takes (.decodeComplete j n k) d (e.endMedia j st k stDims false).pump)
  ∧ (∀ (j : Fin 16) (n k : Nat) (x : Decoded) (u : JobSetup) (g : GEntry) (st : Step) (d e : Device), d.takeBusy j n k = some (g, e) →
    (d.jobAt j).setup = some u → (d.jobAt j).stepAt g.step = some st →
    decodeBytes g.media (manWrap (entryOfSlot (d.jobAt j) st k)) (((st.slotAt k).map SampleSlot.raw).getD []) = x →
    (match x with | .failed _ => false | _ => true) = true →
    ((declared x).any (fun y => dimsBad g.media y.1 y.2 (manCsize (entryOfSlot (d.jobAt j) st k)) (d.jobAt j).pixLimit) = false) →
      let y := sampleOf u.jr g.media (manCsize (entryOfSlot (d.jobAt j) st k)) (d.jobAt j).pixLimit x
      Takes (.decodeComplete j n k) d ((({ e with med := { e.med with conceal := satAdd e.med.conceal y.conceal, syntaxErr := satAdd e.med.syntaxErr (syntaxErrors x) } } : Device).takeSample
        j st.num k y.conceal y.bytes).pump))
  ∧ (∀ (j : Fin 16) (n k : Nat) (u : JobSetup) (g : GEntry) (d e : Device), d.takeBusy j n k = some (g, e) → (d.jobAt j).setup = some u →
    (d.jobAt j).stepAt g.step = none → Takes (.decodeComplete j n k) d e.pump)
  ∧ (∀ (j : Fin 16) (n k : Nat) (d : Device), (d.takeBusy j n k = none ∨ (d.jobAt j).setup = none) → Takes (.decodeComplete j n k) d d)
  ∧ (∀ (j : Fin 16) (n k : Nat) (g : GEntry) (st : Step) (d e : Device), d.takeBusy j n k = some (g, e) → g.noBudget = false →
    (d.jobAt j).stepAt g.step = some st →
      let f := ({ e with grdc := { e.grdc with slow := satAdd e.grdc.slow 1 } } : Device).logEvent srcQuay 0x0602 sevNotice (some j)
        (toLE 8 g.sample ++ toLE 4 (g.step % 2 ^ 32) ++ toLE 4 (budgetOf (d.jobAt j) g.cost))
      Takes (.decodeBudgetExpired j n k) d (if g.hostElig && laneOpen (d.jobAt j) then f.toLane j st k 0
        else f.toRetry { g with noBudget := true, attempt := min 15 (g.attempt + 1) }).pump)
  ∧ (∀ (j : Fin 16) (n k : Nat) (g : GEntry) (d e : Device), d.takeBusy j n k = some (g, e) → g.noBudget = false → (d.jobAt j).stepAt g.step = none →
      Takes (.decodeBudgetExpired j n k) d e)
  ∧ (∀ (j : Fin 16) (n k : Nat) (d : Device), (((d.takeBusy j n k).map Prod.fst).all (fun g => g.noBudget) = true) →
      Takes (.decodeBudgetExpired j n k) d d)
  ∧ (∀ (d : Device), Takes .graderBankSwap d (if d.grd.draining.isEmpty && d.grd.isSealed then ({ d with grd := d.grd.swap } : Device).pump else d))
  ∧ (∀ (d : Device),
      Takes .retryLaneEntry d (match d.grd.waiting with
        | [] => d
        | g :: gs => if 64 ≤ d.grd.retry.length then d
          else ({ d with grd := { d.grd with waiting := gs, retry := d.grd.retry ++ [g] } } : Device).updSample g.job g.step g.slot (fun _ _ _ _ x => { x with place := .queued })))
  ∧ (∀ (j : Fin 16) (d : Device),
      let oldest := (d.jobAt j).steps.find? (fun st => !st.packDone)
      Takes (.microbatchClose j) d (match ((d.jobAt j).dueBatch.filter (fun b => b.work.closable)).elim oldest (fun b => some b.work) with
        | some st => ((d.updStep j st.num (fun x => x.closeBatch (fun k => manSample (entryOfSlot (d.jobAt j) st k)))).settleAll j).pump
        | none => d))
  ∧ (∀ (j : Fin 16) (n mb addr tmb : Nat) (pans ps : List Nat) (skim sluice : List (Nat × List Nat)) (st : Step) (u : JobSetup) (d f : Device),
    d.settleAll j = f → (f.jobAt j).stepAt n = some st → (f.jobAt j).setup = some u → idlePans f j pans = some ps →
    (mayDispatch f j st mb ps = true ∧ mapped f addr (batchBytes st (nthD ({} : MicroBatch) st.mbs mb)).length = true ∧ heldAt f addr (batchBytes st (nthD ({} : MicroBatch) st.mbs mb)).length = false ∧ sluice.any (fun c => heldAt f (capSpan f c).1 (capSpan f c).2) = false ∧ enginesFit f skim sluice = true) →
      let m := nthD ({} : MicroBatch) st.mbs mb
      let e := ((f.store addr (batchBytes st m)).leaveStep j n ps).updStep j n (fun x => { x with
        started := true, mbs := modNth (fun m => { m with dispatched := true, addr := addr }) x.mbs mb })
      let e2 := if st.batch.isNone && undoDue (f.jobAt j) n then e.captureUndo j n else e
      let e3 : Device := if st.started || st.batch.isSome then e2
        else { e2 with fab := { e2.fab with chains := e2.fab.chains.map (fun c => if c.job == j.val then { c with sent := false } else c) } }
      Takes (.microbatchDispatch j n mb pans addr tmb skim sluice) d
        (((ps.foldl (fun (g : Device) p => g.updPan p (fun x => x.startProgram u.jr.seed st))
          (e3.writeCaps j u (if u.topo.nmemb ≤ 1 then m.tokens else tmb) sluice)).queueEngines j skim sluice).pump))
  ∧ (∀ (j : Fin 16) (n mb addr tmb : Nat) (pans : List Nat) (skim sluice : List (Nat × List Nat)) (d f : Device), d.settleAll j = f →
    ((f.jobAt j).stepAt n = none ∨ (f.jobAt j).setup = none ∨ idlePans f j pans = none
  ∨ (∃ st ps, (f.jobAt j).stepAt n = some st ∧ idlePans f j pans = some ps ∧ ¬(mayDispatch f j st mb ps = true ∧ mapped f addr (batchBytes st (nthD ({} : MicroBatch) st.mbs mb)).length = true ∧ heldAt f addr (batchBytes st (nthD ({} : MicroBatch) st.mbs mb)).length = false ∧ sluice.any (fun c => heldAt f (capSpan f c).1 (capSpan f c).2) = false ∧ enginesFit f skim sluice = true))) →
      Takes (.microbatchDispatch j n mb pans addr tmb skim sluice) d f)
  ∧ (∀ (p : Fin 64) (unit dir mb n l : Nat) (r : RedoUnit) (d : Device),
    (d.panOn p = true ∧ (d.panAt p).core.running = true ∧ (d.panAt p).core.halt = none ∧ (d.panAt p).gated = false) → (d.panAt p).job = some (n, l) →
    redoUnit (d.jobAt n) unit dir = some r → recomputes (d.jobAt n) (d.panAt p) unit dir mb = true →
      Takes (.redoGate p unit dir mb) d (d.updPan p (fun q => { q with
        slots := q.slots.zipIdx.map (fun x => if (watched r).contains x.2 then nthD x.1 q.unitSlots x.2 else x.1) })))
  ∧ (∀ (p : Fin 64) (unit dir mb n l : Nat) (r : RedoUnit) (d : Device),
    (d.panOn p = true ∧ (d.panAt p).core.running = true ∧ (d.panAt p).core.halt = none ∧ (d.panAt p).gated = false) → (d.panAt p).job = some (n, l) →
    redoUnit (d.jobAt n) unit dir = some r → recomputes (d.jobAt n) (d.panAt p) unit dir mb = false →
    (d.panAt p).holds r.gate (16 * (watched r).length) = true → Takes (.redoGate p unit dir mb) d d)
  ∧ (∀ (p : Fin 64) (unit dir mb n l : Nat) (r : RedoUnit) (d : Device),
    (d.panOn p = true ∧ (d.panAt p).core.running = true ∧ (d.panAt p).core.halt = none ∧ (d.panAt p).gated = false) → (d.panAt p).job = some (n, l) →
    redoUnit (d.jobAt n) unit dir = some r → recomputes (d.jobAt n) (d.panAt p) unit dir mb = false →
    (d.panAt p).holds r.gate (16 * (watched r).length) = false →
      let ss := (d.panAt p).slots
      let g := gateOf (d.jobAt n) unit dir mb
      let e := (d.psWrite p r.gate ((watched r).flatMap (fun k => slotBytes (nthD {} ss k)))).updPan p (fun q => { q with gated := true })
      let g1 : Gate := { g with reports := g.reports.filter (fun x => x.1 != p.val) ++ [(p.val, ss)] }
      Takes (.redoGate p unit dir mb) d (e.updJob n (fun q => { q with gates := gatesBut q unit dir mb ++ [g1] })))
  ∧ (∀ (p : Fin 64) (unit dir mb : Nat) (d : Device),
    (¬(d.panOn p = true ∧ (d.panAt p).core.running = true ∧ (d.panAt p).core.halt = none ∧ (d.panAt p).gated = false) ∨ (d.panAt p).job = none ∨ (∃ n l, (d.panAt p).job = some (n, l) ∧ redoUnit (d.jobAt n) unit dir = none)) →
      Takes (.redoGate p unit dir mb) d d)
  ∧ (∀ (j : Fin 16) (unit dir mb n : Nat) (os : List (List Nat)) (r : RedoUnit) (u : JobSetup) (d : Device), redoUnit (d.jobAt j) unit dir = some r →
    (d.jobAt j).setup = some u → ((gateOf (d.jobAt j) unit dir mb).reports.head?.bind (fun x => (d.panAt x.1).step) = some n) →
    ((d.jobAt j).live = true ∧ (d.jobAt j).resident = true ∧ (d.jobAt j).switching = false) →
    ((gateOf (d.jobAt j) unit dir mb).reports.any (fun x => (d.panAt x.1).holds r.gate 4) = false) →
      let g := gateOf (d.jobAt j) unit dir mb
      let cs := combinedSlots r g os
      let sat := cs.foldl (fun a c => satAdd a c.sat) 0
      let inf := cs.foldl (fun a c => satAdd a c.inf) 0
      let shown := if batchBase ≤ n then (d.jobAt j).commit.step.getD 0 else n
      let ids := redoTensors d u r g os
      let rest := d.updJob j (fun q => { q with gates := gatesBut q unit dir mb })
      let pass := fun (x : Device) => if dir = 0 then x.updStep j n (fun st => { st with passed := st.passed ++ [(unit, mb)] }) else x
      Takes (.redoVerdict j unit dir mb os) d (if sat + inf = 0 then (pass rest).giveVerdict r g 0
        else if g.level < r.top then
          (((d.updJob j (fun q => { q with gates := gatesBut q unit dir mb ++ [{ g with level := g.level + 1, reports := [] }] })).updStep j n
            (fun st => { st with redo := st.redo ++ [redoRecord shown (decide (batchBase ≤ n)) r mb g.level (g.level + 1) sat inf ids] })).giveVerdict r g (g.level + 1)).logEvent srcRenura 0x0301 sevNotice (some j)
            (redoData r mb shown g.level (g.level + 1) sat inf)
        else (pass ((rest.updStep j n (fun st => { st with redo := st.redo ++ [redoRecord shown (decide (batchBase ≤ n)) r mb g.level 0xFF sat inf ids] })).logEvent srcRenura 0x0302 sevNotice (some j)
            (redoData r mb shown g.level 0xFF sat inf))).giveVerdict r g 0))
  ∧ (∀ (j : Fin 16) (unit dir mb : Nat) (os : List (List Nat)) (r : RedoUnit) (d : Device), redoUnit (d.jobAt j) unit dir = some r →
    ((gateOf (d.jobAt j) unit dir mb).reports.any (fun x => (d.panAt x.1).holds r.gate 4) = true) → Takes (.redoVerdict j unit dir mb os) d d)
  ∧ (∀ (j : Fin 16) (unit dir mb : Nat) (os : List (List Nat)) (d : Device),
    (redoUnit (d.jobAt j) unit dir = none ∨ (d.jobAt j).setup = none
  ∨ (gateOf (d.jobAt j) unit dir mb).reports.head?.bind (fun x => (d.panAt x.1).step) = none ∨ ¬((d.jobAt j).live = true ∧ (d.jobAt j).resident = true ∧ (d.jobAt j).switching = false)) →
      Takes (.redoVerdict j unit dir mb os) d d)

/-- For a job whose augmentation program has at index o the operation of the command, and whose oldest step with a decoded untreated sample of the slot
stands at o: the command applies that operation to the sample, records it and passes on (REENCODE's bitstream decisions are a free value of the
model). HFLIP shows column W − 1 − x in column x; ROT90 by one turn turns clockwise; CROP of a rectangle inside the frame shows it; TSTRIDE by n shows
every n-th frame; GAIN is fp32 of the product with the gain; DOWNMIX leaves one channel with fp32 of the exact mean. -/
def Obligations.AugmentOperations : Prop :=
  (∀ (j : Fin 16) (k o : Nat) (st : Step) (d : Device), (((d.jobAt j).setup.bind (fun u => u.jr.aug[o]?)).any (fun a => a.opcode == 1) = true) →
    (stepWith (d.jobAt j) k (fun x => x.place == .decoded && !x.treated && x.nextOp == o) = some st) →
      Takes (.crop j k o) d (d.updSample j st.num k (opSlot 1 o)))
  ∧ (∀ (j : Fin 16) (k o : Nat) (d : Device),
    (((d.jobAt j).setup.bind (fun u => u.jr.aug[o]?)).any (fun a => a.opcode == 1) = false ∨ stepWith (d.jobAt j) k (fun x => x.place == .decoded && !x.treated && x.nextOp == o) = none) →
      Takes (.crop j k o) d d)
  ∧ (∀ (j : Fin 16) (k o : Nat) (st : Step) (d : Device), (((d.jobAt j).setup.bind (fun u => u.jr.aug[o]?)).any (fun a => a.opcode == 2) = true) →
    (stepWith (d.jobAt j) k (fun x => x.place == .decoded && !x.treated && x.nextOp == o) = some st) →
      Takes (.resize j k o) d (d.updSample j st.num k (opSlot 2 o)))
  ∧ (∀ (j : Fin 16) (k o : Nat) (d : Device),
    (((d.jobAt j).setup.bind (fun u => u.jr.aug[o]?)).any (fun a => a.opcode == 2) = false ∨ stepWith (d.jobAt j) k (fun x => x.place == .decoded && !x.treated && x.nextOp == o) = none) →
      Takes (.resize j k o) d d)
  ∧ (∀ (j : Fin 16) (k o : Nat) (st : Step) (d : Device), (((d.jobAt j).setup.bind (fun u => u.jr.aug[o]?)).any (fun a => a.opcode == 3) = true) →
    (stepWith (d.jobAt j) k (fun x => x.place == .decoded && !x.treated && x.nextOp == o) = some st) →
      Takes (.hflip j k o) d (d.updSample j st.num k (opSlot 3 o)))
  ∧ (∀ (j : Fin 16) (k o : Nat) (d : Device),
    (((d.jobAt j).setup.bind (fun u => u.jr.aug[o]?)).any (fun a => a.opcode == 3) = false ∨ stepWith (d.jobAt j) k (fun x => x.place == .decoded && !x.treated && x.nextOp == o) = none) →
      Takes (.hflip j k o) d d)
  ∧ (∀ (j : Fin 16) (k o : Nat) (st : Step) (d : Device), (((d.jobAt j).setup.bind (fun u => u.jr.aug[o]?)).any (fun a => a.opcode == 4) = true) →
    (stepWith (d.jobAt j) k (fun x => x.place == .decoded && !x.treated && x.nextOp == o) = some st) →
      Takes (.rot90 j k o) d (d.updSample j st.num k (opSlot 4 o)))
  ∧ (∀ (j : Fin 16) (k o : Nat) (d : Device),
    (((d.jobAt j).setup.bind (fun u => u.jr.aug[o]?)).any (fun a => a.opcode == 4) = false ∨ stepWith (d.jobAt j) k (fun x => x.place == .decoded && !x.treated && x.nextOp == o) = none) →
      Takes (.rot90 j k o) d d)
  ∧ (∀ (j : Fin 16) (k o : Nat) (st : Step) (d : Device), (((d.jobAt j).setup.bind (fun u => u.jr.aug[o]?)).any (fun a => a.opcode == 5) = true) →
    (stepWith (d.jobAt j) k (fun x => x.place == .decoded && !x.treated && x.nextOp == o) = some st) →
      Takes (.jitter j k o) d (d.updSample j st.num k (opSlot 5 o)))
  ∧ (∀ (j : Fin 16) (k o : Nat) (d : Device),
    (((d.jobAt j).setup.bind (fun u => u.jr.aug[o]?)).any (fun a => a.opcode == 5) = false ∨ stepWith (d.jobAt j) k (fun x => x.place == .decoded && !x.treated && x.nextOp == o) = none) →
      Takes (.jitter j k o) d d)
  ∧ (∀ (j : Fin 16) (k o : Nat) (st : Step) (d : Device), (((d.jobAt j).setup.bind (fun u => u.jr.aug[o]?)).any (fun a => a.opcode == 6) = true) →
    (stepWith (d.jobAt j) k (fun x => x.place == .decoded && !x.treated && x.nextOp == o) = some st) →
      Takes (.reencode j k o) d (d.updSample j st.num k (opSlot 6 o)))
  ∧ (∀ (j : Fin 16) (k o : Nat) (d : Device),
    (((d.jobAt j).setup.bind (fun u => u.jr.aug[o]?)).any (fun a => a.opcode == 6) = false ∨ stepWith (d.jobAt j) k (fun x => x.place == .decoded && !x.treated && x.nextOp == o) = none) →
      Takes (.reencode j k o) d d)
  ∧ (∀ (j : Fin 16) (k o : Nat) (st : Step) (d : Device), (((d.jobAt j).setup.bind (fun u => u.jr.aug[o]?)).any (fun a => a.opcode == 7) = true) →
    (stepWith (d.jobAt j) k (fun x => x.place == .decoded && !x.treated && x.nextOp == o) = some st) →
      Takes (.tcrop j k o) d (d.updSample j st.num k (opSlot 7 o)))
  ∧ (∀ (j : Fin 16) (k o : Nat) (d : Device),
    (((d.jobAt j).setup.bind (fun u => u.jr.aug[o]?)).any (fun a => a.opcode == 7) = false ∨ stepWith (d.jobAt j) k (fun x => x.place == .decoded && !x.treated && x.nextOp == o) = none) →
      Takes (.tcrop j k o) d d)
  ∧ (∀ (j : Fin 16) (k o : Nat) (st : Step) (d : Device), (((d.jobAt j).setup.bind (fun u => u.jr.aug[o]?)).any (fun a => a.opcode == 8) = true) →
    (stepWith (d.jobAt j) k (fun x => x.place == .decoded && !x.treated && x.nextOp == o) = some st) →
      Takes (.tstride j k o) d (d.updSample j st.num k (opSlot 8 o)))
  ∧ (∀ (j : Fin 16) (k o : Nat) (d : Device),
    (((d.jobAt j).setup.bind (fun u => u.jr.aug[o]?)).any (fun a => a.opcode == 8) = false ∨ stepWith (d.jobAt j) k (fun x => x.place == .decoded && !x.treated && x.nextOp == o) = none) →
      Takes (.tstride j k o) d d)
  ∧ (∀ (j : Fin 16) (k o : Nat) (st : Step) (d : Device), (((d.jobAt j).setup.bind (fun u => u.jr.aug[o]?)).any (fun a => a.opcode == 9) = true) →
    (stepWith (d.jobAt j) k (fun x => x.place == .decoded && !x.treated && x.nextOp == o) = some st) →
      Takes (.gain j k o) d (d.updSample j st.num k (opSlot 9 o)))
  ∧ (∀ (j : Fin 16) (k o : Nat) (d : Device),
    (((d.jobAt j).setup.bind (fun u => u.jr.aug[o]?)).any (fun a => a.opcode == 9) = false ∨ stepWith (d.jobAt j) k (fun x => x.place == .decoded && !x.treated && x.nextOp == o) = none) →
      Takes (.gain j k o) d d)
  ∧ (∀ (j : Fin 16) (k o : Nat) (st : Step) (d : Device), (((d.jobAt j).setup.bind (fun u => u.jr.aug[o]?)).any (fun a => a.opcode == 10) = true) →
    (stepWith (d.jobAt j) k (fun x => x.place == .decoded && !x.treated && x.nextOp == o) = some st) →
      Takes (.resample j k o) d (d.updSample j st.num k (opSlot 10 o)))
  ∧ (∀ (j : Fin 16) (k o : Nat) (d : Device),
    (((d.jobAt j).setup.bind (fun u => u.jr.aug[o]?)).any (fun a => a.opcode == 10) = false ∨ stepWith (d.jobAt j) k (fun x => x.place == .decoded && !x.treated && x.nextOp == o) = none) →
      Takes (.resample j k o) d d)
  ∧ (∀ (j : Fin 16) (k o : Nat) (st : Step) (d : Device), (((d.jobAt j).setup.bind (fun u => u.jr.aug[o]?)).any (fun a => a.opcode == 11) = true) →
    (stepWith (d.jobAt j) k (fun x => x.place == .decoded && !x.treated && x.nextOp == o) = some st) →
      Takes (.downmix j k o) d (d.updSample j st.num k (opSlot 11 o)))
  ∧ (∀ (j : Fin 16) (k o : Nat) (d : Device),
    (((d.jobAt j).setup.bind (fun u => u.jr.aug[o]?)).any (fun a => a.opcode == 11) = false ∨ stepWith (d.jobAt j) k (fun x => x.place == .decoded && !x.treated && x.nextOp == o) = none) →
      Takes (.downmix j k o) d d)
  ∧ (∀ (f y i c : Nat) (x : Smp), f < x.f → y < x.h → i < x.w → c < x.ch → (opHflip x).px f y i c = x.px f y (x.w - 1 - i) c)
  ∧ (∀ (f y i c : Nat) (x : Smp), f < x.f → y < x.w → i < x.h → c < x.ch → (opRot90 x 1).px f y i c = x.px f (x.h - 1 - i) y c)
  ∧ (∀ (f y i c x0 y0 w h : Nat) (x : Smp), f < x.f → y < h → i < w → y0 + h ≤ x.h → x0 + w ≤ x.w → c < x.ch →
      (opCrop x x0 y0 w h).px f y i c = x.px f (y0 + y) (x0 + i) c)
  ∧ (∀ (f y i c n : Nat) (x : Smp), 1 ≤ n → f * n < x.f → y < x.h → i < x.w → c < x.ch → (opTstride x n).px f y i c = x.px (f * n) y i c)
  ∧ (∀ (n : Nat) (x : Smp) (k : Nat), k < x.data.length → nthD 0 (opGain x n).data k = fp32Of (mulVal (fp32V (nthD 0 x.data k)) (fp32V n)).1)
  ∧ (∀ (x : Smp) (k : Nat), 1 ≤ x.ch → k < x.s → x.data.length = x.s * x.ch →
      (opDownmix x).ch = 1 ∧ nthD 0 (opDownmix x).data k = meanCode ((List.range x.ch).map (fun c => nthD 0 x.data (k * x.ch + c))))

/-- QUANTUM_EXPIRY marks a sliced resident job whose turn is over when another is runnable; CONTEXT_SWITCH of a marked, drained one saves or suspends it
and restores the next, and where none is resident restores one while Active or Idle; the restore waits while an image line is held, a persistent hit
there is a job fault, and with it the image of the job after it is brought to the sleeve. SLOWDOWN_REPORT at a multiple of 10 ms, its counts adding up
to REF within 64, sends a live job's notice (a rate of 1 or more is a free value); FLUSH_END ends flushing. With the island up, an entry due in the
order of R386 fires, a late one counted: PHASE sets its flag in each named pan; COMMIT marks the step and tries it, one still to come being late;
CONFIG applies its set; CAP sets the scheduled cap (0: the policy's); EVAL_OPEN, EVAL_CLOSE and SNAPSHOT wait on their step, a close without an open
ending at once; a window opens once its step is committed and closes once its batches are done. PTP_SYNC with the port up replaces the correction
pending, except where the edge is followed, and the servo sets a frequency correction within 100 ppm (free: log entry 27); sixteen in a row within 1
µs lock the Tide. TIDE_HOLDOVER goes to holdover with a notice, or takes the host port down; TIDE_IN_EDGE in follow mode is repeated, and followed
within 1 µs of PTP time; TIDE_EDGE_LOST ends following; TIDE_SECOND_EDGE raises TIDE_OUT at NS 0, or past it when a tick skipped it, in source mode.
In every other case nothing changes. The rounding of the edge's phase is log entry 27's choice. -/
def Obligations.SchedulingAndTide : Prop :=
  (∀ (t : Fin 4) (held idle j : Nat) (d : Device), residentOf d t = some j →
      Takes (.quantumExpiry t held idle) d
        (if !(d.jobAt j).exclusive && turnOver d (d.jobAt j) held idle && (nextJob d t j).isSome then d.updJob j (fun q => { q with switching := true }) else d))
  ∧ (∀ (t : Fin 4) (held idle : Nat) (d : Device), residentOf d t = none → Takes (.quantumExpiry t held idle) d d)
  ∧ (∀ (t : Fin 4) (hit : Option Hit) (j : Nat) (d : Device), residentOf d t = some j → (d.jobAt j).switching = true → drained d j = true →
      let e := if (d.jobAt j).suspending then d.suspend j else d.saveContext j
      Takes (.contextSwitch t hit) d (match incoming e t j with
        | some k => e.withHit hit (contextSpans e k) (fun x _ => x.jobFault)
          (fun x => (((x.restoreContext k).prefetch t k).pumpLane k).pump)
        | none => e.pump))
  ∧ (∀ (t : Fin 4) (hit : Option Hit) (j : Nat) (d : Device), residentOf d t = some j → ((d.jobAt j).switching = false ∨ drained d j = false) →
      Takes (.contextSwitch t hit) d d)
  ∧ (∀ (t : Fin 4) (hit : Option Hit) (d : Device), residentOf d t = none →
      Takes (.contextSwitch t hit) d (match incoming d t (nthD 15 d.quy.turn t) with
        | some k => if d.glb.cur = .active ∨ d.glb.cur = .idle then d.withHit hit (contextSpans d k) (fun x _ => x.jobFault)
          (fun x => (((x.restoreContext k).prefetch t k).pumpLane k).pump) else d
        | none => d))
  ∧ (∀ (j : Fin 16) (c : SlowCounts) (d : Device), (d.jobAt j).live = true → d.tide.ns % 10000000 = 0 →
    (c.done + c.lShare + c.lPower + c.lWait + c.lInput ≤ sumNat ((jobPans d j).map (fun p => nthD 0 d.fuses.fmax p * 10000)) + 64 ∧ sumNat ((jobPans d j).map (fun p => nthD 0 d.fuses.fmax p * 10000)) ≤ c.done + c.lShare + c.lPower + c.lWait + c.lInput + 64) →
      let rf := sumNat ((jobPans d j).map (fun p => nthD 0 d.fuses.fmax p * 10000))
      let body := toLE 8 (d.jobAt j).committedField ++ timeFields d.tide ++ toLE 4 rf ++ toLE 4 c.done ++ toLE 4 c.lShare ++ toLE 4 c.lPower
        ++ toLE 4 c.lWait ++ toLE 4 c.lInput ++ toLE 2 (slowRate d c.done rf).1
        ++ [b2n (d.jobAt j).slow.late + 2 * b2n d.tide.holdover + 4 * b2n ((d.jobAt j).state == .recovering)] ++ List.replicate 13 0
      Takes (.slowdownReport j c) d (((slowRate d c.done rf).2.updJob j (fun q => { q with slow := { late := false, last := body } })).jobNotice j stOk 2 body))
  ∧ (∀ (j : Fin 16) (c : SlowCounts) (d : Device),
    ((d.jobAt j).live = false ∨ d.tide.ns % 10000000 ≠ 0 ∨ ¬(c.done + c.lShare + c.lPower + c.lWait + c.lInput ≤ sumNat ((jobPans d j).map (fun p => nthD 0 d.fuses.fmax p * 10000)) + 64 ∧ sumNat ((jobPans d j).map (fun p => nthD 0 d.fuses.fmax p * 10000)) ≤ c.done + c.lShare + c.lPower + c.lWait + c.lInput + 64)) →
      Takes (.slowdownReport j c) d d)
  ∧ (∀ (d : Device), Takes .flushEnd d { d with glb := { d.glb with flushing := false } })
  ∧ (∀ (i : Fin 256) (e : TideEntry) (d : Device), d.inp.island = true → dueEntry d.tide i 1 = some e →
      let d1 : Device := { d with tide := countLate d.tide e }
      Takes (.phase i) d (((List.range 64).filter (fun l => bitOf e.arg l)).foldl (fun (x : Device) l => x.phaseFlag e.job l e.param) (d1.freeEntryAt i)))
  ∧ (∀ (i : Fin 256) (d : Device), (d.inp.island = false ∨ dueEntry d.tide i 1 = none) → Takes (.phase i) d d)
  ∧ (∀ (i : Fin 256) (e : TideEntry) (d : Device), d.inp.island = true → dueEntry d.tide i 2 = some e →
      let d1 : Device := { d with tide := countLate d.tide e }
      let d2 := (d1.markFired i).tryReady e.job e.step
      Takes (.commit i) d (if commitMarked d2 e.job e.step then d2.updJob e.job (fun q => { q with slow := { q.slow with late := true } }) else d2))
  ∧ (∀ (i : Fin 256) (d : Device), (d.inp.island = false ∨ dueEntry d.tide i 2 = none) → Takes (.commit i) d d)
  ∧ (∀ (i : Fin 256) (e : TideEntry) (d : Device), d.inp.island = true → dueEntry d.tide i 3 = some e →
      let d1 : Device := { d with tide := countLate d.tide e }
      Takes (.config i) d ((d1.freeEntryAt i).applySet e.arg))
  ∧ (∀ (i : Fin 256) (d : Device), (d.inp.island = false ∨ dueEntry d.tide i 3 = none) → Takes (.config i) d d)
  ∧ (∀ (i : Fin 256) (e : TideEntry) (d : Device), d.inp.island = true → dueEntry d.tide i 4 = some e →
      let d1 : Device := { d with tide := countLate d.tide e }
      Takes (.cap i) d ({ d1.freeEntryAt i with pwr := { d1.pwr with sched := if e.arg = 0 then policyVal d.pwz.policy 0x0400 0 0x866 else e.arg } }))
  ∧ (∀ (i : Fin 256) (d : Device), (d.inp.island = false ∨ dueEntry d.tide i 4 = none) → Takes (.cap i) d d)
  ∧ (∀ (i : Fin 256) (e : TideEntry) (d : Device), d.inp.island = true → dueEntry d.tide i 6 = some e →
      let d1 : Device := { d with tide := countLate d.tide e }
      Takes (.evalOpen i) d ((d1.markFired i).updJob e.job (fun q => q.updWindow e.arg e.step (fun w => { w with openFired := true, step := e.step }))))
  ∧ (∀ (i : Fin 256) (d : Device), (d.inp.island = false ∨ dueEntry d.tide i 6 = none) → Takes (.evalOpen i) d d)
  ∧ (∀ (i : Fin 256) (e : TideEntry) (d : Device), d.inp.island = true → dueEntry d.tide i 5 = some e →
      let d1 : Device := { d with tide := countLate d.tide e }
      Takes (.evalClose i) d (if (d.tide.entries.any (fun x => x.2.action == 6 && x.2.job == e.job && x.2.arg == e.arg)
        || ((d.jobAt e.job).windowAt e.arg).any (fun w => w.openFired)) then
        (d1.markFired i).updJob e.job (fun q => q.updWindow e.arg e.step (fun w => { w with closeFired := true }))
      else d1.freeEntryAt i))
  ∧ (∀ (i : Fin 256) (d : Device), (d.inp.island = false ∨ dueEntry d.tide i 5 = none) → Takes (.evalClose i) d d)
  ∧ (∀ (i : Fin 256) (e : TideEntry) (d : Device), d.inp.island = true → dueEntry d.tide i 7 = some e →
      let d1 : Device := { d with tide := countLate d.tide e }
      Takes (.snapshot i) d (d1.markFired i))
  ∧ (∀ (i : Fin 256) (d : Device), (d.inp.island = false ∨ dueEntry d.tide i 7 = none) → Takes (.snapshot i) d d)
  ∧ (∀ (j : Fin 16) (w : Nat) (x : Window) (d : Device), (d.jobAt j).windowAt w = some x →
      Takes (.evalWindowOpen j w) d (if x.openFired && !x.isOpen && (d.jobAt j).commit.step.any (fun c => decide (x.step ≤ c))
        then (d.freeFired j 6 w).updJob j (fun q => q.updWindow w x.step (fun y => { y with isOpen := true })) else d))
  ∧ (∀ (j : Fin 16) (w : Nat) (x : Window) (d : Device), (d.jobAt j).windowAt w = some x →
      Takes (.evalWindowClose j w) d (if x.isOpen && x.closeFired && (d.jobAt j).batches.all (fun b => b.done || b.kind != 0 || b.window != w)
        then (d.freeFired j 5 w).updJob j (fun q => q.updWindow w x.step (fun y => { y with isOpen := false, closed := true })) else d))
  ∧ (∀ (j : Fin 16) (w : Nat) (d : Device), (d.jobAt j).windowAt w = none → Takes (.evalWindowOpen j w) d d)
  ∧ (∀ (j : Fin 16) (w : Nat) (d : Device), (d.jobAt j).windowAt w = none → Takes (.evalWindowClose j w) d d)
  ∧ (∀ (o : Int) (d : Device), d.inp.island = true → d.eth.state = 2 →
      let run := if o.natAbs ≤ 1000 then min 16 (d.tide.syncRun + 1) else 0
      let r : Tide := { d.tide with ptpErr := o }
      let t := if d.tide.edgeMode = 2 ∧ d.tide.edgeOk = true ∧ o.natAbs ≤ 1000 then r else r.correct o
      let e : Device := { d.draw.2 with tide := { t with
          offset := clampOffset o, syncRun := run, freq := (d.draw.1 % 200001 : Nat) - 100000, holdover := false, locked := d.tide.locked || run == 16, unset := d.tide.unset && run != 16 } }
      Takes (.ptpSync o) d (if run = 16 ∧ d.tide.locked = false then e.logEvent srcTide 0x0705 sevNotice none [] else e))
  ∧ (∀ (o : Int) (d : Device), (d.inp.island = false ∨ d.eth.state ≠ 2) → Takes (.ptpSync o) d d)
  ∧ (∀ (d : Device),
      Takes (.tideHoldover false) d (if d.tide.holdover then d
        else ({ d with tide := { d.tide with locked := false, holdover := true, syncRun := 0 } } : Device).logEvent srcTide 0x0704 sevWarning none []))
  ∧ (∀ (d : Device), Takes (.tideHoldover true) d (d.hostPortDown (if d.inp.stage = .served ∧ d.glb.cur ≠ .shelf then 1 else 0)))
  ∧ (∀ (d : Device), d.inp.island = true → d.tide.edgeMode = 2 →
      let lost : Device := { d.edgeOut with tide := { d.tide with edgeOk := false, pending := if d.tide.edgeOk then -d.tide.ptpErr else d.tide.pending } }
      Takes .tideInEdge d (if (d.tide.edgePhase - d.tide.ptpErr).natAbs ≤ 1000 then { d.edgeOut with tide := { d.tide with edgeOk := true, pending := -d.tide.edgePhase } }
        else if d.tide.edgeOk then lost.logEvent srcTide 0x0706 sevWarning none [] else lost))
  ∧ (∀ (d : Device), (d.inp.island = false ∨ d.tide.edgeMode ≠ 2) → Takes .tideInEdge d d)
  ∧ (∀ (d : Device),
      Takes .tideEdgeLost d (if d.tide.edgeMode = 2 ∧ d.tide.edgeOk = true then
        ({ d with tide := { d.tide with edgeOk := false, pending := if d.tide.edgeOk then -d.tide.ptpErr else d.tide.pending } } : Device).logEvent srcTide 0x0706 sevWarning none [] else d))
  ∧ (∀ (d : Device),
      Takes .tideSecondEdge d (if d.inp.island = true ∧ d.tide.edgeMode = 1 ∧ (d.tide.ns = 0 ∨ d.tide.skipped = true) then d.edgeOut else d))

/-- SNAPSHOT_START of the first fired entry of its layer whose step has committed: one for a disabled layer is freed and reported with
ST_RES_LAYER_DISABLED; one for a replaced step only ends; one whose layer is being written, or whose holder (layer 1) cannot be reached, waits; else,
with no shard line held and what its read meets resolved, the entry is freed and the image of the committed step begins in the older slot.
SNAPSHOT_COMPLETE, every layer-1 write acknowledged, puts the header last and reports layer and step. GRADIENT_LOG_APPEND of the oldest step, its
stages complete, its entry neither done nor on its way and no shard line held, writes the entry, formed with the totals that the step's reductions
gave, to the holder when it fits; else a layer-1 snapshot of the committed step is placed, unless one is under way. RESTORE_COMPLETE of a fill from
partner memory: where the newest complete image of the two slots and the log give the step asked for, its blocks, epoch, head, histories and log stand
and every peer hears JOIN; else the job stops with 0x0802. In every other case nothing changes. The places in the region are log entry 25's, the
treatment of a replaced step's entry log entry 27's choice. -/
def Obligations.Resilience : Prop :=
  (∀ (j : Fin 16) (l : Fin 3) (hit : Option Hit) (i c : Nat) (u : JobSetup) (e : TideEntry) (d : Device), (d.jobAt j).commit.step = some c →
    (d.jobAt j).setup = some u →
    (d.tide.entries.find? (fun e => e.2.fired && e.2.action == 7 && e.2.job == j.val && e.2.arg == l.val && decide (e.2.step ≤ c)) = some (i, e)) →
      let k := fun (x : Device) => olderSlot (imagesOf x j (l + 1))
      let r := fun (x : Device) => ({ layer := l + 1, step := c, slotNo := k x, image := imageHeader (x.jobAt j) u (l + 1) c (imageSections x j c) true ++ imageSections x j c, started := x.tide.now } : SnapRun)
      Takes (.snapshotStart j l hit) d (if layerOff d j (l + 1) = true then (d.freeEntryAt i).report j 0x0803
        else if e.step < c then d.freeEntryAt i
        else if (d.jobAt j).snaps.any (fun x => x.layer == l.val + 1) = true ∨ (l.val = 0 ∧ reachHolder d j = none) then d
        else d.withHit hit (d.jobAt j).blocks Device.holdFault (fun x =>
          (((x.freeEntryAt i).dropImage j (l + 1) (k (x.freeEntryAt i))).putSections j u (r (x.freeEntryAt i))).updJob j (fun q => { q with snaps := q.snaps ++ [r (x.freeEntryAt i)] }))))
  ∧ (∀ (j : Fin 16) (l : Fin 3) (hit : Option Hit) (d : Device),
    (∀ c, (d.jobAt j).commit.step = some c → (d.jobAt j).setup = none ∨ d.tide.entries.find? (fun e => e.2.fired && e.2.action == 7 && e.2.job == j.val && e.2.arg == l.val && decide (e.2.step ≤ c)) = none) →
      Takes (.snapshotStart j l hit) d d)
  ∧ (∀ (j : Fin 16) (l : Fin 3) (u : JobSetup) (r : SnapRun) (d : Device), (d.jobAt j).setup = some u →
    ((d.jobAt j).snaps.find? (fun r => r.layer == l.val + 1) = some r) →
      Takes (.snapshotComplete j l) d (if l.val = 0 ∧ d.fab.pend.any (fun p => p.job == j.val && p.image) = true then d
        else ((d.putImage j u r).updJob j (fun q => { q with
          snaps := q.snaps.filter (fun x => x.layer != l.val + 1), partner := q.partner.imaged r d.tide.now })).logEvent srcRenura 0x0805 sevNotice (some j)
        ([r.layer] ++ toLE 8 r.step ++ sliceAt r.image 40 8)))
  ∧ (∀ (j : Fin 16) (l : Fin 3) (d : Device), ((d.jobAt j).setup = none ∨ (d.jobAt j).snaps.find? (fun r => r.layer == l.val + 1) = none) →
      Takes (.snapshotComplete j l) d d)
  ∧ (∀ (j : Fin 16) (n h sl : Nat) (xs gs : List Nat) (tot : StepShare) (u : JobSetup) (st : Step) (d : Device), (d.jobAt j).setup = some u →
    (d.jobAt j).steps.head? = some st → reachHolder d j = some (h, sl) →
    (st.num = n ∧ st.stages = true ∧ st.logDone = false ∧ d.fab.pend.all (fun p => p.job != j.val || p.logStep != some n) = true ∧ (d.jobAt j).shardHeld d = false) →
      let entry := logEntry d j u { st with total := some tot } xs gs
      let used := sumNat (((d.jobAt j).partner.log.filter (fun e => e.1 != n)).map Prod.snd)
      let snapping := (d.jobAt j).snaps.any (fun r => r.layer == 1) || d.tide.entries.any (fun e => e.2.action == 7 && e.2.job == j.val && e.2.arg == 0 && e.2.fired)
      Takes (.gradientLogAppend j n xs gs tot) d (if used + entry.length ≤ logSize u
        then (d.updStep j n (fun x => { x with logTotal := some tot })).writeLog j h sl n u entry
        else if snapping then d else match (d.jobAt j).commit.step with | some c => d.placeSnapshot j 0 c | none => d))
  ∧ (∀ (j : Fin 16) (n : Nat) (xs gs : List Nat) (tot : StepShare) (d : Device),
    ((d.jobAt j).setup = none ∨ (d.jobAt j).steps = [] ∨ reachHolder d j = none ∨ (∃ st, (d.jobAt j).steps.head? = some st ∧ ¬(st.num = n ∧ st.stages = true ∧ st.logDone = false ∧ d.fab.pend.all (fun p => p.job != j.val || p.logStep != some n) = true ∧ (d.jobAt j).shardHeld d = false))) →
      Takes (.gradientLogAppend j n xs gs tot) d d)
  ∧ (∀ (j : Fin 16) (b es ss : List (List Nat)) (le : Nat) (u : JobSetup) (r : Replay) (d : Device), (d.jobAt j).setup = some u →
    ((d.jobAt j).state = .running ∧ u.jr.restore = 1 ∧ (d.jobAt j).partner.filling = true ∧ (d.jobAt j).partner.queued = []) →
    replayOf (d.jobAt j) u u.jr.restoreStep b es ss = some r →
      let e := d.storeBlocks (d.jobAt j).blocks r.blocks
      let f := e.updJob j (fun q => { q with
        commit := { q.commit with epoch := r.epoch, head := r.head, pre := e.shardDigest j }
        logs := { q.logs with hist := r.hist }
        partner := { q.partner with
          fill := none, filling := false, images := q.partner.images.filter (fun x => x.layer != 1) ++ partnerImages u b
          log := es.map (fun e => (fieldAt e 0 8, e.length)), logAt := le % logSize u } })
      Takes (.restoreComplete j b es ss le) d (f.tokenAll j (fun s => .join s u.topo.selfId u.jr.restoreStep)))
  ∧ (∀ (j : Fin 16) (b es ss : List (List Nat)) (le : Nat) (u : JobSetup) (d : Device), (d.jobAt j).setup = some u →
    ((d.jobAt j).state = .running ∧ u.jr.restore = 1 ∧ (d.jobAt j).partner.filling = true ∧ (d.jobAt j).partner.queued = []) →
    replayOf (d.jobAt j) u u.jr.restoreStep b es ss = none →
      Takes (.restoreComplete j b es ss le) d ((d.updJob j (fun q => { q with lastStatus := 0x0802 })).stopJob j (fun _ => 0x0802)))
  ∧ (∀ (j : Fin 16) (b es ss : List (List Nat)) (le : Nat) (d : Device),
    ((d.jobAt j).setup = none ∨ (∃ u, (d.jobAt j).setup = some u ∧ ¬((d.jobAt j).state = .running ∧ u.jr.restore = 1 ∧ (d.jobAt j).partner.filling = true ∧ (d.jobAt j).partner.queued = []))) →
      Takes (.restoreComplete j b es ss le) d d)

/-- POWER_ESTIMATE, served and not in Shelf, forms the estimates and adds the energy. FAST_LIMIT while served: in Doze or Shelf the slot allowance is 0;
else it follows from the estimate, the budget, the static term and the last allowance, bounded by the thermal allowance: above the budget the share of
R464 (1 where the budget does not exceed the static term), at 97 % or less four more up to 64, between them unchanged. KCAL_CALIBRATE moves every gain
by at most 1 % toward the mean of the rails over the mean estimate since the last one. MODULE_POWER_CHECK adds the input energy; with the last 100
readings of J2 above 2,400 W in the mean C_mod falls by the excess in whole W and the episode is logged once; below 2,350 W every hundredth check
raises it by 10 W up to 2,150; between, the run ends. DROOP_DETECT, DROOP_SKIP_END and DROOP_HELD set and end the skip. THERMAL_CEILING sets r and
C_therm from the mean estimate and the inlet's slope over 5 s, and logs each episode once; THERMAL_THROTTLE at 95 °C, or still at 93 °C, lowers and
else below 93 °C raises the thermal allowance; THERMAL_TRIP takes every slot, faults the jobs, enters Shelf while served, and logs; SENSOR_SAMPLE with
the island up stores the readings and judges throttle, coolant and dies. Static power and weights are free (log entry 28), as is how their terms
combine. -/
def Obligations.PowerAndThermal : Prop :=
  (∀ (a : List (List Nat)) (d : Device),
      let e := (List.range 4).foldl (fun (e : Device) t => e.estimateTerrace t (nthD [] a t)) d
      let f : Device := { e with pwr := { e.pwr with quayMw := estimate 4 (hottest (quayTemps d.pwz)) (nthD [] a 4) 10000 } }
      Takes (.powerEstimate a) d (if d.inp.stage = .served ∧ d.glb.cur ≠ .shelf then
        let g := (List.range 4).foldl (fun (e : Device) t => e.addEnergy t) f
        let p := sumNat (g.terp.toList.map TerPower.estMw) + g.pwr.quayMw
        { g with pwr := { g.pwr with calSum := g.pwr.calSum + p, calCount := g.pwr.calCount + 1, ceilSum := g.pwr.ceilSum + p, ceilCount := g.pwr.ceilCount + 1 } }
        else d))
  ∧ (∀ (t : Fin 4) (d : Device),
      let f := fun (x : TerPower) => fastLimit x.estMw (budgetMw d.pwr t) x.staticMw (max 1 x.slots)
      Takes (.fastLimit t) d (if d.inp.stage ≠ .served then d
        else if d.glb.cur = .doze ∨ d.glb.cur = .shelf then d.updTerp t (fun x => { x with slots := 0 })
        else d.updTerp t (fun x => { x with
          slots := min (f x).1 x.therm, fast := x.fast || (f x).2, fastCount := if (f x).2 then satAdd x.fastCount 1 else x.fastCount })))
  ∧ (∀ (p b ps s : Nat), ps < b → b < p → fastLimit p b ps s = (max 1 (s * (b - ps) / (p - ps)), true))
  ∧ (∀ (p b ps s : Nat), b ≤ ps → b < p → fastLimit p b ps s = (1, true))
  ∧ (∀ (p b ps s : Nat), 100 * p ≤ 97 * b → fastLimit p b ps s = (min 64 (s + 4), false))
  ∧ (∀ (p b ps s : Nat), p ≤ b → 97 * b < 100 * p → fastLimit p b ps s = (s, false))
  ∧ (∀ (d : Device),
      let rail := if d.pwr.railCount = 0 then 0 else d.pwr.railSum / d.pwr.railCount
      let est := if d.pwr.calCount = 0 then packageMw d else d.pwr.calSum / d.pwr.calCount
      Takes .kcalCalibrate d { d with
        terp := d.terp.map (fun x => { x with kcal := if d.pwr.railCount = 0 then x.kcal else kcalStep x.kcal (rail / 1000) est })
        pwr := { d.pwr with calSum := 0, calCount := 0, railSum := 0, railCount := 0 } })
  ∧ (∀ (k m e : Nat), 0 < e → 7500 ≤ k → k ≤ 12500 →
      7500 ≤ kcalStep k m e ∧ kcalStep k m e ≤ 12500 ∧ k - k / 100 ≤ kcalStep k m e ∧ kcalStep k m e ≤ k + k / 100)
  ∧ (∀ (m : Nat) (x : Pwr) (d : Device),
    { d.pwr with input := d.pwr.input.add (inputEnergy d.pwz), j2 := keepLast 100 (d.pwr.j2 ++ [inputPower d.pwz]) } = x →
    ((if x.j2.length = 0 then 0 else sumNat x.j2 / x.j2.length) / 1000 = m) →
      let hot : Device := { d with pwr := { x with module := x.module - ceilDiv (m - 2400000) 1000, moduleEpisode := true, raiseRun := 0 } }
      Takes .modulePowerCheck d (if 2400000 < m then (if d.pwr.moduleEpisode then hot else hot.logEvent srcPawezel 0x0901 sevWarning none (toLE 4 m))
        else if 2350000 ≤ m then { d with pwr := { x with raiseRun := 0 } }
        else if d.pwr.raiseRun + 1 < 100 then { d with pwr := { x with moduleEpisode := false, raiseRun := x.raiseRun + 1 } }
        else { d with pwr := { x with moduleEpisode := false, raiseRun := 0, module := min 2150 (x.module + 10) } }))
  ∧ (∀ (p : Fin 64) (d : Device),
      Takes (.droopDetect p) d ((d.updPan p (fun x => { x with droopSkip := 16 })).updTerp (p / 16) (fun x => { x with droop := satAdd x.droop 1 })))
  ∧ (∀ (p : Fin 64) (d : Device), Takes (.droopSkipEnd p) d (d.updPan p (fun x => { x with droopSkip := 0, droopHeld := false })))
  ∧ (∀ (p : Fin 64) (d : Device),
      Takes (.droopHeld p) d ((d.updPan p (fun x => { x with droopSkip := 16, droopHeld := true })).logEvent (srcPan p) 0x0902 sevWarning none [p.val]))
  ∧ (∀ (d : Device),
      let w := if d.pwr.ceilCount = 0 then packageMw d else d.pwr.ceilSum / d.pwr.ceilCount
      let ins := keepLast 500 (d.pwr.inlets ++ [d.pwz.inlet])
      let r := ceilingR d.pwr.r (hottest d.pwz.die) d.pwz.inlet w
      let c := ceilingW (policyVal d.pwz.policy 0x0403 0 90) d.pwz.inlet (10 * (slopeOf ins).1) (slopeOf ins).2 r d.pwr.flowLow
      let lim := decide (c < min d.pwr.sched (min d.pwr.module 2150))
      let e : Device := { d with pwr := { d.pwr with r := r, therm := c, thermEpisode := lim, ceilSum := 0, ceilCount := 0, inlets := ins } }
      let f := if lim && !d.pwr.thermEpisode then e.logEvent srcPawezel 0x0903 sevNotice none (toLE 4 c) else e
      Takes .thermalCeiling d (if d.pwr.flowLow && !d.pwz.flowEpisode
        then ({ f with pwz := { f.pwz with flowEpisode := true } } : Device).logEvent srcPawezel 0x0904 sevWarning none (sensorData 98 d.pwz.flow) else f))
  ∧ (∀ (t : Fin 4) (d : Device),
      let hot := hottest (terraceTemps d.pwz t)
      Takes (.thermalThrottle t) d (d.updTerp t (fun x =>
        if 950 ≤ hot ∨ (x.throttle = true ∧ 930 ≤ hot) then { x with throttle := true, therm := max 1 (x.therm - 1) }
        else { x with throttle := false, therm := if hot < 930 then min 64 (x.therm + 1) else x.therm })))
  ∧ (∀ (n : Fin 72) (d : Device),
      let v := max 1100 (nthD 0 d.pwz.die n)
      let e : Device := { d with
        pwz := { d.pwz with die := modNth (fun _ => v) d.pwz.die n, coolSince := d.tide.now }
        pwr := { d.pwr with tripped := true }
        terp := d.terp.map (fun x => { x with slots := 0 }) }
      Takes (.thermalTrip n) d ((if d.inp.stage ≠ .served then e else if d.glb.cur = .shelf then e.jobFault else e.jobFault.enterShelf).logEvent srcPawezel 0x0905 sevFault none (sensorData n v)))
  ∧ (∀ (die : List Int) (rails : List (Int × Int)) (i o f : Int) (d : Device),
      let dies := resample 0 d.pwz.die die
      let e : Device := { d with
        pwz := { d.pwz with
          die := dies, rails := resample (0, 0) d.pwz.rails rails, inlet := i, outlet := o, flow := f
          coolSince := if dies.all (fun t => decide (t < 850)) then d.pwz.coolSince else d.tide.now }
        pwr := { d.pwr with tjMax := degrees (hottest dies), tIn := degrees i, railCount := d.pwr.railCount + 1, railSum := d.pwr.railSum + railPower (resample (0, 0) d.pwz.rails rails) } }
      Takes (.sensorSample die rails i o f) d (if d.inp.island then (e.judgeThrottle.judgeCoolant).judgeDies d.pwz.die else d))

/-- A private write that does not reach Pawezel (another address, a bad CRC, the island down) changes nothing; one whose LEN does not fit is answered with
ST_PARAM_RANGE; in recovery only STATUS, LOG, UPD_BEGIN, UPD_DATA, UPD_END, ACTIVATE and SVN_COMMIT are served. Served, STATUS, SENSORS, LOG, CERTS
and TALLY reply what they name, STATUS clearing SOURCES and the alert; POWER replies its status, when OK changing the power state, and is refused
while the compute domain is off, held or too hot; RESET asks for a Warm reset in operation, is refused with the domain off and absorbed by a bring-up;
UPD_BEGIN refuses a bad type or length and a second type, else opens the update and invalidates the slot; UPD_DATA writes bytes within it; UPD_END
verifies the image and takes it, or drops it as a failed verification; ACTIVATE prefers a valid slot; SVN_COMMIT with a valid fallback raises the
rollback count and logs it; NONCE and ATTEST reply a nonce and the signed report, ATTEST refused when the keys are zeroised or used up. With the
island up an assigned address holds from then on (RSTDAA ends it, ENEC and DISEC allow and forbid in-band interrupts, GETSTATUS is answered: log entry
29), a restart loses update, reply and nonce and logs it, a page write writes a Bittern page; a Warm reset of Pawezel's in operation resets the
device. Signatures, keys and nonces are free values (log entry 12); statuses and refusals that R478 does not name are log entry 29's choice. -/
def Obligations.TrayCommands : Prop :=
  (∀ (f : Frame) (d : Device), Taken d f 0 true →
      let e := d.i3cReply 0 ((statusWords d).flatMap (toLE 4))
      Takes (.i3cStatus f) d { e with sec := { e.sec with sources := 0 }, i3c := { e.i3c with alert := false } })
  ∧ (∀ (f : Frame) (d : Device), Taken d f 0 false →
      Takes (.i3cSensors f) d (d.i3cReply 0 ((readings d.pwz).flatMap (fun v => toLE 4 (ofSigned 32 v)))))
  ∧ (∀ (f : Frame) (d : Device), Taken d f 10 true →
      Takes (.i3cLog f) d (d.i3cReply 0 (((recordsFrom d.bit (fieldAt f.payload 0 8)).take (min 204 (fieldAt f.payload 8 2))).flatMap
        (fun r => toLE 8 r.num ++ r.bytes))))
  ∧ (∀ (f : Frame) (d : Device), Taken d f 1 false →
      let st := (d.powerRequest (fieldAt f.payload 0 1)).1
      let e := d.i3cReply st []
      Takes (.i3cPower f) d (match d.inp.stage with
        | .off => d.i3cReply stPwrDisabled [] | .held => d.i3cReply stJobState [] | .coolWait => d.i3cReply stPwrThermal []
        | .served => if st = stOk then (e.powerRequest (fieldAt f.payload 0 1)).2 else e))
  ∧ (∀ (f : Frame) (d : Device), Taken d f 0 false →
      let e := d.i3cReply 0 []
      Takes (.i3cReset f) d (match d.inp.stage with
        | .off => d.i3cReply stPwrDisabled [] | .served => e.warmAsked | .held => e | .coolWait => e))
  ∧ (∀ (f : Frame) (d : Device), Taken d f 5 true →
      let typ := fieldAt f.payload 0 1
      let len := fieldAt f.payload 1 4
      let e := d.i3cReply 0 []
      Takes (.updBegin f) d (if typ = 0 ∨ 4 < typ ∨ slotSize typ < len then d.i3cReply stRange []
        else if d.pwz.update.any (fun u => u.typ != typ) then d.i3cReply stJobState []
        else { e with pwz := { e.pwz.updType typ (fun t => t.put { valid := false }) with update := some { typ := typ, len := len } } }))
  ∧ (∀ (f : Frame) (d : Device), Taken d f 4 true →
      let e := d.i3cReply 0 []
      Takes (.updData f) d (match d.pwz.update with
        | none => d.i3cReply stJobState []
        | some u => if u.len < fieldAt f.payload 0 4 + (f.payload.drop 4).length then d.i3cReply stRange []
          else { e with pwz := { e.pwz with update := some { u with data := bmWrite u.data (fieldAt f.payload 0 4) (f.payload.drop 4) } } }))
  ∧ (∀ (f : Frame) (d : Device), Taken d f 0 true →
      Takes (.updEnd f) d (match d.pwz.update with
        | none => d.i3cReply stJobState []
        | some u =>
          let img := bmRead u.data 0 u.len
          let st := verifyImage d.pwz u.typ img
          if st = stOk then (d.i3cReply st []).takeImage u.typ (imageOf img) else let e := d.i3cReply st []
            ({ e with pwz := { e.pwz with update := none } } : Device).sigFail u.typ))
  ∧ (∀ (f : Frame) (d : Device), Taken d f 2 true →
      let typ := fieldAt f.payload 0 1
      let slot := fieldAt f.payload 1 1
      let t := d.pwz.typeAt typ
      let e := d.i3cReply 0 []
      Takes (.activate f) d (if typ = 0 ∨ 4 < typ ∨ 1 < slot then d.i3cReply stRange []
        else if (if slot = 1 then t.b else t.a).valid = false then d.i3cReply stSignature []
        else { e with pwz := e.pwz.updType typ (fun t => { t with preferredB := slot == 1 }) }))
  ∧ (∀ (f : Frame) (d : Device), Taken d f 1 true →
      let typ := fieldAt f.payload 0 1
      let t := d.pwz.typeAt typ
      let e := d.i3cReply 0 []
      Takes (.svnCommit f) d (if typ = 0 ∨ 4 < typ then d.i3cReply stRange []
        else if t.running.valid = false ∨ d.pwz.imageOk typ t.other = false ∨ t.other.svn < t.running.svn then d.i3cReply stRollback []
        else if t.running.svn ≤ t.rollback then e
        else ({ e with pwz := e.pwz.updType typ (fun t => { t with rollback := t.running.svn }) } : Device).logEvent srcSecurity 0x0A09 sevNotice none
          [typ, t.running.svn]))
  ∧ (∀ (f : Frame) (d : Device), Taken d f 0 false → Takes (.nonce f) d (d.i3cReply 0 (nonceBytes d.newNonce)).newNonce)
  ∧ (∀ (f : Frame) (d : Device), Taken d f 16 false →
      Takes (.attest f) d (if d.sec.zeroised then d.i3cReply stLockdown []
        else match d.hssTake with
        | none => d.i3cReply stHssExhausted []
        | some (i, _) =>
          let body := attestBody d f.payload i
          let e := d.i3cReply 0 (body ++ sliceAt (Config.ecdsaSign d.pwz.aliasFrom (sha384 body)) 0 96 ++ sliceAt (Config.hssSign i (sha384 body)) 0 3604)
          match e.hssTake with | some (_, x) => x | none => e))
  ∧ (∀ (f : Frame) (d : Device), Taken d f 0 false →
      Takes (.certs f) d (d.i3cReply 0 (((Config.certificates d.pwz.aliasFrom).map (· % 256)).take 8192)))
  ∧ (∀ (f : Frame) (d : Device), Taken d f 9 false →
      let cs := d.pwz.tally.filter (fun c => fieldAt c.body 2 1 == fieldAt f.payload 0 1 && decide (fieldAt f.payload 1 8 ≤ fieldAt c.body 4 8))
      Takes (.tally f) d (if 15 < fieldAt f.payload 0 1 then d.i3cReply stRange []
        else d.i3cReply 0 ((cs.take 2).flatMap (fun c => sliceAt c.body 0 60 ++ sliceAt c.sig 0 3700))))
  ∧ (∀ (f : Frame) (d : Device), ¬Taken d f 0 true → Takes (.i3cStatus f) d (if Heard d f ∧ ¬Fits f 0 then d.i3cReply stRange [] else d))
  ∧ (∀ (f : Frame) (d : Device), ¬Taken d f 0 false → Takes (.i3cSensors f) d (if Heard d f ∧ ¬Fits f 0 then d.i3cReply stRange [] else d))
  ∧ (∀ (f : Frame) (d : Device), ¬Taken d f 10 true → Takes (.i3cLog f) d (if Heard d f ∧ ¬Fits f 10 then d.i3cReply stRange [] else d))
  ∧ (∀ (f : Frame) (d : Device), ¬Taken d f 1 false → Takes (.i3cPower f) d (if Heard d f ∧ ¬Fits f 1 then d.i3cReply stRange [] else d))
  ∧ (∀ (f : Frame) (d : Device), ¬Taken d f 0 false → Takes (.i3cReset f) d (if Heard d f ∧ ¬Fits f 0 then d.i3cReply stRange [] else d))
  ∧ (∀ (f : Frame) (d : Device), ¬Taken d f 5 true → Takes (.updBegin f) d (if Heard d f ∧ ¬Fits f 5 then d.i3cReply stRange [] else d))
  ∧ (∀ (f : Frame) (d : Device), ¬Taken d f 4 true → Takes (.updData f) d (if Heard d f ∧ ¬Fits f 4 then d.i3cReply stRange [] else d))
  ∧ (∀ (f : Frame) (d : Device), ¬Taken d f 0 true → Takes (.updEnd f) d (if Heard d f ∧ ¬Fits f 0 then d.i3cReply stRange [] else d))
  ∧ (∀ (f : Frame) (d : Device), ¬Taken d f 2 true → Takes (.activate f) d (if Heard d f ∧ ¬Fits f 2 then d.i3cReply stRange [] else d))
  ∧ (∀ (f : Frame) (d : Device), ¬Taken d f 1 true → Takes (.svnCommit f) d (if Heard d f ∧ ¬Fits f 1 then d.i3cReply stRange [] else d))
  ∧ (∀ (f : Frame) (d : Device), ¬Taken d f 0 false → Takes (.nonce f) d (if Heard d f ∧ ¬Fits f 0 then d.i3cReply stRange [] else d))
  ∧ (∀ (f : Frame) (d : Device), ¬Taken d f 16 false → Takes (.attest f) d (if Heard d f ∧ ¬Fits f 16 then d.i3cReply stRange [] else d))
  ∧ (∀ (f : Frame) (d : Device), ¬Taken d f 0 false → Takes (.certs f) d (if Heard d f ∧ ¬Fits f 0 then d.i3cReply stRange [] else d))
  ∧ (∀ (f : Frame) (d : Device), ¬Taken d f 9 false → Takes (.tally f) d (if Heard d f ∧ ¬Fits f 9 then d.i3cReply stRange [] else d))
  ∧ (∀ (c : Ccc) (d : Device),
      Takes (.dynamicAddressAssignment c) d (if d.inp.island = false then d else match c with
        | .assign a => { d with i3c := { d.i3c with dynAddr := some a } }
        | .rstdaa => { d with i3c := { d.i3c with dynAddr := none } }
        | .enec => { d with i3c := { d.i3c with ibiOff := false } }
        | .disec => { d with i3c := { d.i3c with ibiOff := true } }
        | .getstatus => d.send (.i3cStatus (if d.i3c.alert then 1 else 0))))
  ∧ (∀ (d : Device), Takes .pawezelWarmReset d (if d.inp.stage = .served then d.warmReset else d))
  ∧ (∀ (d : Device),
      let e := d.dropUpdate
      let g : Device := { e with i3c := { e.i3c with reply := none }, sec := { e.sec with nonceGen := e.free }, free := e.free + 1 }
      Takes .pawezelRestart d (if d.inp.island then ({ g with pwz := { g.pwz with hssNext := hssAtBoot g.pwz } } : Device).logEvent srcPawezel 0x0A0C sevWarning none [] else d))
  ∧ (∀ (d : Device), Takes .bitternPageWrite d (if d.inp.island then { d with bit := d.bit.writePage } else d))

/-- With the island up, a mesh breach and a glitch are logged and meet their sources (the third glitch of the window with Erase); a test access with DEBUG
clear is an unlock attempt; else nothing. A token write is checked as any private write of 4,212 bytes outside recovery; a token of another known OP
is not this command. Refused, it is answered ST_SEC_SIGNATURE and counts as a failed verification; accepted, the nonce is replaced and ALARM_CLEAR
lowers the level to 0 (from Erase with PWR_EN high by a Cold reset), DEBUG_UNLOCK sets DEBUG (at Lockdown and above refused), DEBUG_LOCK clears it,
OWNER_PROVISION programs an unprogrammed slot and OWNER_REVOKE revokes another programmed slot that is not the last (else 0x0A07). SEAL_PASS while
served, out of Shelf and without HOLD shows the value and its match or mismatch; a mismatch is counted, logged once an episode, and acts as ACTION
says. SEAL_HOLD by Pawezel or Renura sets HOLD; DERIVED_COMMIT while served takes the current values as reference; a HOLD beyond 100 ms is a mismatch.
Whether a signature is good is a free value; the conventions of log entries 29 and 30 are the model's. -/
def Obligations.SecurityAndSeal : Prop :=
  (∀ (d : Device),
      Takes .meshBreach d (if d.inp.island then (d.logEvent srcSecurity 0x0A05 sevWarning none []).meetSource 0 (alarmResponse d 0) else d))
  ∧ (∀ (d : Device),
      let e := ({ d with sec := { d.sec with glitches := d.sec.glitches + 1 } } : Device).logEvent srcSecurity 0x0A04 sevWarning none []
      Takes .glitch d (if d.inp.island then e.meetSource 1 (if 3 ≤ d.sec.glitches + 1 then 3 else alarmResponse d 1) else d))
  ∧ (∀ (d : Device), Takes .glitchWindowExpiry d { d with sec := { d.sec with glitches := d.sec.glitches - 1 } })
  ∧ (∀ (d : Device), Takes .jtagAccess d (if d.inp.island = true ∧ d.sec.debug = false then d.debugAttempt else d))
  ∧ (∀ (f : Frame) (d : Device), Taken d f 4212 false → ((fieldAt f.payload 0 1 = 1 ∨ fieldAt f.payload 0 1 = 0 ∨ 5 < fieldAt f.payload 0 1)) →
      let e := (d.i3cReply 0 []).newNonce
      Takes (.alarmClear f) d (if tokenOk d f.payload then (let g : Device := { e with sec := { e.sec with level := 0 } }
          if d.sec.level = 3 ∧ d.inp.pwrEn = true then g.causeCold.coldReset else g) else (d.i3cReply stSignature []).tokenRefused 1))
  ∧ (∀ (f : Frame) (d : Device), ¬Taken d f 4212 false →
    (f.len ≠ f.payload.length ∨ (fieldAt f.payload 0 1 = 1 ∨ fieldAt f.payload 0 1 = 0 ∨ 5 < fieldAt f.payload 0 1)) →
      Takes (.alarmClear f) d (if Heard d f ∧ ¬Fits f 4212 then d.i3cReply stRange [] else d))
  ∧ (∀ (f : Frame) (d : Device), f.len = f.payload.length → 1 ≤ fieldAt f.payload 0 1 → fieldAt f.payload 0 1 ≤ 5 → fieldAt f.payload 0 1 ≠ 1 →
      Takes (.alarmClear f) d d)
  ∧ (∀ (f : Frame) (d : Device), Taken d f 4212 false → ((fieldAt f.payload 0 1 = 2 ∨ fieldAt f.payload 0 1 = 0 ∨ 5 < fieldAt f.payload 0 1)) →
      let e := (d.i3cReply 0 []).newNonce
      Takes (.debugUnlock f) d (if tokenOk d f.payload then (if 2 ≤ d.sec.level then (d.i3cReply stLockdown []).newNonce else e.setDebug true) else (d.i3cReply stSignature []).tokenRefused 2))
  ∧ (∀ (f : Frame) (d : Device), ¬Taken d f 4212 false →
    (f.len ≠ f.payload.length ∨ (fieldAt f.payload 0 1 = 2 ∨ fieldAt f.payload 0 1 = 0 ∨ 5 < fieldAt f.payload 0 1)) →
      Takes (.debugUnlock f) d (if Heard d f ∧ ¬Fits f 4212 then d.i3cReply stRange [] else d))
  ∧ (∀ (f : Frame) (d : Device), f.len = f.payload.length → 1 ≤ fieldAt f.payload 0 1 → fieldAt f.payload 0 1 ≤ 5 → fieldAt f.payload 0 1 ≠ 2 →
      Takes (.debugUnlock f) d d)
  ∧ (∀ (f : Frame) (d : Device), Taken d f 4212 false → ((fieldAt f.payload 0 1 = 3 ∨ fieldAt f.payload 0 1 = 0 ∨ 5 < fieldAt f.payload 0 1)) →
      let e := (d.i3cReply 0 []).newNonce
      Takes (.debugLock f) d (if tokenOk d f.payload then e.setDebug false else (d.i3cReply stSignature []).tokenRefused 3))
  ∧ (∀ (f : Frame) (d : Device), ¬Taken d f 4212 false →
    (f.len ≠ f.payload.length ∨ (fieldAt f.payload 0 1 = 3 ∨ fieldAt f.payload 0 1 = 0 ∨ 5 < fieldAt f.payload 0 1)) →
      Takes (.debugLock f) d (if Heard d f ∧ ¬Fits f 4212 then d.i3cReply stRange [] else d))
  ∧ (∀ (f : Frame) (d : Device), f.len = f.payload.length → 1 ≤ fieldAt f.payload 0 1 → fieldAt f.payload 0 1 ≤ 5 → fieldAt f.payload 0 1 ≠ 3 →
      Takes (.debugLock f) d d)
  ∧ (∀ (f : Frame) (d : Device), Taken d f 4212 false → ((fieldAt f.payload 0 1 = 4 ∨ fieldAt f.payload 0 1 = 0 ∨ 5 < fieldAt f.payload 0 1)) →
      let e := (d.i3cReply 0 []).newNonce
      Takes (.ownerProvision f) d (if tokenOk d f.payload then (if (nthD {} d.pwz.ownerKeys (fieldAt f.payload 2 1)).programmed then (d.i3cReply stOwnerSlot []).newNonce
          else e.ownerChange 4 (fieldAt f.payload 2 1) (fun k => { k with hash := some (sliceAt f.payload 68 48) })) else (d.i3cReply stSignature []).tokenRefused 4))
  ∧ (∀ (f : Frame) (d : Device), ¬Taken d f 4212 false →
    (f.len ≠ f.payload.length ∨ (fieldAt f.payload 0 1 = 4 ∨ fieldAt f.payload 0 1 = 0 ∨ 5 < fieldAt f.payload 0 1)) →
      Takes (.ownerProvision f) d (if Heard d f ∧ ¬Fits f 4212 then d.i3cReply stRange [] else d))
  ∧ (∀ (f : Frame) (d : Device), f.len = f.payload.length → 1 ≤ fieldAt f.payload 0 1 → fieldAt f.payload 0 1 ≤ 5 → fieldAt f.payload 0 1 ≠ 4 →
      Takes (.ownerProvision f) d d)
  ∧ (∀ (f : Frame) (d : Device), Taken d f 4212 false → ((fieldAt f.payload 0 1 = 5 ∨ fieldAt f.payload 0 1 = 0 ∨ 5 < fieldAt f.payload 0 1)) →
      let e := (d.i3cReply 0 []).newNonce
      Takes (.ownerRevoke f) d (if tokenOk d f.payload then (if (nthD {} d.pwz.ownerKeys (fieldAt f.payload 2 1)).programmed = false ∨ fieldAt f.payload 2 1 = fieldAt f.payload 1 1
            ∨ (List.range 4).filter (fun i => (nthD {} d.pwz.ownerKeys i).programmed && !(nthD {} d.pwz.ownerKeys i).revoked) = [fieldAt f.payload 2 1]
          then (d.i3cReply stOwnerSlot []).newNonce else e.ownerChange 5 (fieldAt f.payload 2 1) (fun k => { k with revoked := true })) else (d.i3cReply stSignature []).tokenRefused 5))
  ∧ (∀ (f : Frame) (d : Device), ¬Taken d f 4212 false →
    (f.len ≠ f.payload.length ∨ (fieldAt f.payload 0 1 = 5 ∨ fieldAt f.payload 0 1 = 0 ∨ 5 < fieldAt f.payload 0 1)) →
      Takes (.ownerRevoke f) d (if Heard d f ∧ ¬Fits f 4212 then d.i3cReply stRange [] else d))
  ∧ (∀ (f : Frame) (d : Device), f.len = f.payload.length → 1 ≤ fieldAt f.payload 0 1 → fieldAt f.payload 0 1 ≤ 5 → fieldAt f.payload 0 1 ≠ 5 →
      Takes (.ownerRevoke f) d d)
  ∧ (∀ (d : Device),
      let v := sealOf (sealedValues d)
      let e : Device := { d with sl := { d.sl with value := v, valid := true } }
      Takes .sealPass d (if d.inp.stage ≠ .served ∨ d.glb.cur = .shelf ∨ d.sl.hold = true then d
        else if v = d.sl.ref then { d with sl := { d.sl with value := v, valid := true, matched := true, episode := false, blocked := false } }
        else e.sealMismatch))
  ∧ (∀ (d : Device),
      let e : Device := { d with sl := { d.sl with matched := false, mismatch := true, count := satAdd d.sl.count 1, episode := true } }
      let f := ({ e with sl := { e.sl with blocked := true } } : Device).lockdown
      d.sealMismatch = (if d.sl.action = 0 then (if d.sl.episode then e else e.logEvent srcQuay 0x0002 sevWarning none (toLE 4 d.sl.value))
        else if d.sl.episode then f
        else if d.sl.action = 1 then f.logEvent srcQuay 0x0002 sevWarning none (toLE 4 d.sl.value)
        else f.logLockdown srcQuay 0x0002 (toLE 4 d.sl.value)))
  ∧ (∀ (a : Agent) (d : Device),
      Takes (.sealHold a) d (if a = .pawezel ∨ a = .renura then { d with sl := { d.sl with hold := true, matched := false, valid := false } } else d))
  ∧ (∀ (d : Device), Takes .derivedCommit d (if d.inp.stage = .served then d.deriveSeal else d))
  ∧ (∀ (d : Device), Takes .sealHoldTimeout d (if d.sl.hold then d.sealMismatch else d))

/-- Input applied to a stopped island samples SID and, with PWR_EN high, runs a Cold reset. Above 62 V, and below 42 V, once an excursion, the compute
domain goes off and the reading is logged; below 40 V, once an excursion, every record is written; below the island's limit it stops; back in 44 to 61
V the excursion ends, with a Cold reset when PWR_EN is high. PWR_EN rising sets it and, with the island up and outside an excursion, runs a Cold
reset; falling, with the island up, the compute domain goes off and a page is written. MOD_RESET_N asserted in operation is a Module reset, holds a
bring-up that waits for cool sensors, and starts a domain that only a finished recovery keeps off; released while a bring-up is held, the boot goes
on. A bring-up or an exit from Shelf that waits for cool sensors goes on once they are cool, and not before. Link signalling in Shelf puts a host port
that is down in training. In every other case nothing changes. The conventions of log entry 30 are the model's. -/
def Obligations.PinsAndInput : Prop :=
  (∀ (sid : Fin 32) (d : Device),
      let e : Device := { d with
        inp := { d.inp with island := true, overMark := false, underMark := false, holdupMark := false }, i3c := { sid := sid }, glb := { d.glb with cause := {} } }
      Takes (.inputPowerApplied sid) d (if d.inp.island then d else if d.inp.pwrEn then e.coldReset else e))
  ∧ (∀ (mv : Nat) (d : Device),
      Takes (.inputOvervoltage mv) d (if d.inp.island = true ∧ d.inp.overMark = false ∧ 62000 < mv
        then (({ d with inp := { d.inp with overMark := true } } : Device).computeOff).logEvent srcPawezel 0x0907 sevWarning none (toLE 4 mv) else d))
  ∧ (∀ (mv : Nat) (d : Device),
      Takes (.inputUndervoltage mv) d (if d.inp.island = true ∧ d.inp.underMark = false ∧ mv < 42000
        then (({ d with inp := { d.inp with underMark := true } } : Device).computeOff).logEvent srcPawezel 0x0906 sevWarning none (toLE 4 mv) else d))
  ∧ (∀ (mv : Nat) (d : Device),
      Takes (.inputHoldup mv) d (if d.inp.island = true ∧ d.inp.holdupMark = false ∧ mv < 40000
        then { d with inp := { d.inp with holdupMark := true }, bit := d.bit.writeAll } else d))
  ∧ (∀ (d : Device), Takes .inputPowerLost d (if d.inp.island then d.inputLost else d))
  ∧ (∀ (mv : Nat) (d : Device),
      let e : Device := { d with inp := { d.inp with overMark := false, underMark := false, holdupMark := false } }
      Takes (.inputRecovered mv) d (if d.inp.island = true ∧ 44000 ≤ mv ∧ mv ≤ 61000
        then (if d.inp.excursion && d.inp.pwrEn then e.causeCold.coldReset else e) else d))
  ∧ (∀ (d : Device),
      let e : Device := { d with inp := { d.inp with pwrEn := true } }
      Takes .pwrEnRise d (if d.inp.pwrEn then d else if d.inp.island && !d.inp.excursion then e.causeCold.coldReset else e))
  ∧ (∀ (d : Device),
      let e : Device := { d with inp := { d.inp with pwrEn := false } }
      Takes .pwrEnFall d (if !d.inp.pwrEn then d else if d.inp.island then { e.computeOff with bit := e.computeOff.bit.writePage } else e))
  ∧ (∀ (d : Device),
      let e : Device := { d with inp := { d.inp with modResetN := false } }
      Takes .modResetNAssert d (if !d.inp.modResetN then d else match d.inp.stage with
        | .served => e.moduleReset
        | .held => e
        | .coolWait => { e with inp := { e.inp with stage := .held }, glb := { d.glb with coolWait := false } }
        | .off => if d.inp.island && d.inp.pwrEn && !d.inp.excursion && !(d.pwz.typeAt 1).recovery then e.moduleReset else e))
  ∧ (∀ (d : Device),
      let e : Device := { d with inp := { d.inp with modResetN := true } }
      Takes .modResetNRelease d (if d.inp.stage = .held then e.bootStep5 else e))
  ∧ (∀ (d : Device),
      Takes .bringupResume d (if coolEnough d = false then d else if d.inp.stage = .coolWait then d.bringUp
        else if d.inp.stage = .served ∧ d.glb.coolWait = true then ({ d with glb := { d.glb with coolWait := false } } : Device).powerTo d.glb.target else d))
  ∧ (∀ (d : Device),
      Takes .hostPortWake d (if d.inp.stage = .served ∧ d.glb.cur = .shelf ∧ d.eth.state = 0 then { d with eth := { d.eth with state := 1 } } else d))

/-- A read by an agent that reaches the register sends its value; for its RC reader the register is cleared, for any other agent nothing is; an agent that
does not reach it reads nothing. A read of TID_TIME_NS latches the seconds; a read of an energy counter's low half, of the module, a partition or a
job, latches its high half, and of any other register nothing. A write by an agent that does not reach the register, or may not write it, changes
nothing. A write to a register without a command of its own writes its fields by their access types; a sleeve change also derives the seal again; a
locked register other than SEAL_CTRL keeps its value and counts the attempt; SEAL_CTRL takes HOLD from Pawezel and Renura and, unless it is locked,
ACTION. A WM write outside the WM registers, or without reach, changes nothing. GLB_LOCK bits are set and never cleared by a write. A set that no
entry names is freed 60 s after staging, no other. -/
def Obligations.RegisterAccesses : Prop :=
  (∀ (a : Agent) (r : Nat) (d : Device),
      Takes (.rcRead a r) d (if reaches d a r then (if a = rcReader r then rcClear d r else d).send (.reg r (regValue d r)) else d))
  ∧ (∀ (d : Device), Takes .tideTimeLatch d (({ d with tide := { d.tide with latch := d.tide.sec } } : Device).send (.reg 0x40000 d.tide.ns)))
  ∧ (∀ (d : Device),
      let e : Device := { d with pwr := { d.pwr with input := d.pwr.input.latched } }
      Takes (.energyLatch 0x50010) d (e.send (.reg 0x50010 (regValue d 0x50010))))
  ∧ (∀ (i : Fin 4) (d : Device),
      let e : Device := { d with pwr := { d.pwr with part := modNth Energy.latched d.pwr.part i } }
      Takes (.energyLatch (0x50020 + 8 * i)) d (e.send (.reg (0x50020 + 8 * i) (regValue d (0x50020 + 8 * i)))))
  ∧ (∀ (i : Fin 16) (d : Device),
      let e : Device := { d with pwr := { d.pwr with job := modNth Energy.latched d.pwr.job i } }
      Takes (.energyLatch (0x50040 + 8 * i)) d (e.send (.reg (0x50040 + 8 * i) (regValue d (0x50040 + 8 * i)))))
  ∧ (∀ (r : Nat) (d : Device),
      let o := blkOffset r
      let e : Device := if blkOf r ≠ .pwr then d
        else if o = 0x10 then { d with pwr := { d.pwr with input := d.pwr.input.latched } }
        else if 0x20 ≤ o ∧ o < 0x40 ∧ o % 8 = 0 then { d with pwr := { d.pwr with part := modNth Energy.latched d.pwr.part ((o - 0x20) / 8) } }
        else if 0x40 ≤ o ∧ o < 0xC0 ∧ o % 8 = 0 then { d with pwr := { d.pwr with job := modNth Energy.latched d.pwr.job ((o - 0x40) / 8) } }
        else d
      Takes (.energyLatch r) d (e.send (.reg r (regValue d r))))
  ∧ (∀ (a : Agent) (r w : Nat) (d : Device), (reaches d a r = false ∨ mayWrite a r = false) → Takes (.registerWrite a r w) d d)
  ∧ (∀ (a : Agent) (r w t : Nat) (d : Device), reaches d a r = true → mayWrite a r = true → blkOf r = .brn t → blkOffset r = 0x0C →
      Takes (.registerWrite a r w) d (regWrite d r (w % 2 ^ 32)).deriveSeal)
  ∧ (∀ (a : Agent) (r w : Nat) (d : Device), reaches d a r = true → mayWrite a r = true → (¬(blkOf r = .seal ∧ blkOffset r = 0)) →
    (∀ t, ¬(blkOf r = .brn t ∧ blkOffset r = 0x0C)) →
      Takes (.registerWrite a r w) d (if locked d r then { d with glb := { d.glb with lockReject := satAdd d.glb.lockReject 1 } } else regWrite d r (w % 2 ^ 32)))
  ∧ (∀ (a : Agent) (w : Nat) (d : Device), reaches d a 0x10000 = true → mayWrite a 0x10000 = true →
      let s := if a = .pawezel ∨ a = .renura then
          (if bitOf w 31 then { d.sl with hold := true, matched := false, valid := false } else { d.sl with hold := false })
        else d.sl
      Takes (.registerWrite a 0x10000 w) d (if locked d 0x10000
        then { d with sl := s, glb := { d.glb with lockReject := satAdd d.glb.lockReject 1 } } else { d with sl := { s with action := bits w 30 29 } }))
  ∧ (∀ (a : Agent) (r w : Nat) (d : Device), (reaches d a r = false ∨ blkOf r ≠ .glb ∨ blkOffset r < 0x20 ∨ 0x30 ≤ blkOffset r) →
      Takes (.wmWrite a r w) d d)
  ∧ (∀ (a : Agent) (w : Nat) (d : Device), reaches d a 0x0C = true →
      Takes (.glbLockWrite a w) d { d with glb := { d.glb with lock := d.glb.lock ||| BitVec.ofNat 15 w } })
  ∧ (∀ (a : Agent) (w : Nat) (d : Device), reaches d a 0x0C = false → Takes (.glbLockWrite a w) d d)
  ∧ (∀ (i : Fin 4) (d : Device),
      Takes (.configSetExpiry i) d (match nthD none d.quy.sets i with
        | some c => if c.staged + 60000000000 ≤ d.tide.now ∧ d.tide.entries.any (fun e => e.2.action == 3 && e.2.arg == i + 256 * c.gen) = false then d.freeSet i else d
        | none => d))

/-- For every agent that reaches register space, WM register GLB_SCRATCHi and written word w, with mask its bits [31:16] and data its bits [15:0]:
WM_WRITE stores (old AND NOT mask) OR (data AND mask) into bits [15:0] of that register and changes nothing else; in every state bits [31:16] of a WM
register read 0; and a WM write with mask 0 changes nothing. -/
def Obligations.MaskedWrite : Prop :=
  (∀ (a : Agent) (i : Fin 4) (w : Nat) (d : Device), reaches d a (0x20 + 4 * i) = true →
      let mask := BitVec.ofNat 16 (w / 65536)
      let data := BitVec.ofNat 16 w
      Takes (.wmWrite a (0x20 + 4 * i) w) d { d with glb := { d.glb with scratch := d.glb.scratch.set i ((d.glb.scratch[i] &&& ~~~mask) ||| (data &&& mask)) } })
  ∧ (∀ (i : Fin 4) (d : Device), regValue d (0x20 + 4 * i) / 2 ^ 16 = 0)
  ∧ (∀ (a : Agent) (i : Fin 4) (w : Nat) (d : Device), w / 65536 % 65536 = 0 → Takes (.wmWrite a (0x20 + 4 * i) w) d d)

/-- The summary that a summarising instruction takes of no elements is, for a floating-point type, MAX = 0xFF800000, MIN = 0x7F800000, SUM = +0, NANCNT =
NZCNT = 0 and ALLZERO = 1, and for an integer type the same with MAX = 0x80000000 and MIN = 0x7FFFFFFF; a VMOV with SUM = 1 and count 0 leaves that
summary in the pan's registers. -/
def Obligations.EmptySummary : Prop :=
  (∀ (f : Fmt), f.isInt = false →
      (summaryOf f []).1 = { max := 0xFF800000, min := 0x7F800000, sum := 0, sumHi := 0, allZero := true, nz := 0, nan := 0 })
  ∧ (∀ (f : Fmt), f.isInt = true →
      (summaryOf f []).1 = { max := 0x80000000, min := 0x7FFFFFFF, sum := 0, sumHi := 0, allZero := true, nz := 0, nan := 0, fp := false })
  ∧ (∀ (p : Fin 64) (v : VInsn) (d : Device), VectorReady d p (.lanes vTypes) v → v.sum = true → vCount v (d.panAt p) = 0 →
      ∃ e, Takes (.vmov p v) d e ∧ (e.panAt p).vec.vsum = (summaryOf (vfD v) []).1)

/-- The value that a code of the E8M0 format stands for is 2^(e − 127) with a positive sign for e from 0x00 to 0xFE and a NaN for 0xFF; no code stands for
a zero or for a negative value; and code 0x7F stands for 1. -/
def Obligations.ScaleFormat : Prop :=
  (∀ (e : Nat), e ≤ 0xFE → decodeVal .e8m0 e = .fin false 1 ((e : Int) - 127))
  ∧ (decodeVal .e8m0 0xFF = .nan false ∧ decodeVal .e8m0 0x7F = .fin false 1 0)
  ∧ (∀ (e : Nat), (decodeVal .e8m0 e).isZero = false ∧ (decodeVal .e8m0 e).isNeg = false)

/-- In the state after reset, each register whose fields all have a reset value in their tables reads that value, for every Terrace, port, channel and pan
(GLB_LOCK, SEAL_REF, the port states and fused or recorded fields, which boot, the fuses and the records set, apart: notes/assumptions/5.md and 6.md);
every job slot is EMPTY, every mailbox free, the alarm level 0 (the alarm record of a new module), the Tide schedule, the posted commands, the
outstanding transactions and the command queue empty. -/
def Obligations.ResetValues : Prop :=
  ([(0x4, 0x20), (0x8, 0x0), (0x10, 0x0), (0x20, 0x0), (0x24, 0x0), (0x28, 0x0), (0x2c, 0x0), (0x10004, 0x0), (0x10008, 0x0), (0x10010, 0x0),
    (0x40000, 0x0), (0x40004, 0x0), (0x40008, 0x0), (0x40010, 0x0), (0x40014, 0x80000100), (0x40018, 0x0), (0x4001c, 0x0), (0x50000, 0x8660866),
    (0x50004, 0x8660866), (0x50008, 0x19191919), (0x5000c, 0x0), (0x50010, 0x0), (0x50014, 0x0), (0x60000, 0x1), (0x60004, 0x0), (0x60008, 0x0),
    (0x6000c, 0x0), (0x60010, 0x0), (0x60020, 0x0), (0x70004, 0x0), (0x70008, 0x0), (0x70010, 0x2400), (0x70014, 0x36de), (0x70018, 0x48300000),
    (0x7001c, 0x200000), (0x80000, 0x0), (0x80004, 0x0), (0x80008, 0x0), (0x8000c, 0x0), (0x90000, 0x0), (0x90004, 0x0), (0x90008, 0x0),
    (0x9000c, 0x0), (0x90010, 0x0)].all
      (fun x => regValue State.reset.dev x.1 == x.2) = true)
  ∧ (∀ (t : Fin 4),
      [(0x100, 0x514), (0x110, 0x81000000), (0x120, 0x0), (0x130, 0x0)].all
        (fun x => regValue State.reset.dev (0x50000 + 4 * t.val + x.1) == x.2) = true)
  ∧ (∀ (b : Fin 8),
      [(0x0, 0x0), (0x8, 0x0), (0xc, 0x0), (0x10, 0x0)].all
        (fun x => regValue State.reset.dev (0x100000 + 0x10000 * b.val + x.1) == x.2) = true)
  ∧ (∀ (t : Fin 4),
      [(0x0, 0x0), (0x4, 0x0), (0x8, 0x0), (0xc, 0x47), (0x10, 0x0)].all
        (fun x => regValue State.reset.dev (0x600000 + 0x10000 * t.val + x.1) == x.2) = true)
  ∧ (∀ (c : Fin 128),
      [(0x0, 0x0), (0x4, 0x0), (0x10, 0x2800000), (0x14, 0x0), (0x18, 0x0), (0x1c, 0x0), (0x20, 0x0), (0x24, 0x0), (0x28, 0x0)].all
        (fun x => regValue State.reset.dev (0x800000 + 0x1000 * c.val + x.1) == x.2) = true)
  ∧ (∀ (t : Fin 4),
      [(0x0, 0xffffffff), (0x4, 0x0)].all
        (fun x => regValue State.reset.dev (0x900000 + 0x1000 * t.val + x.1) == x.2) = true)
  ∧ (∀ (t : Fin 4),
      [(0x0, 0x0), (0x4, 0x0), (0x8, 0x0), (0xc, 0x0), (0x10, 0x0)].all
        (fun x => regValue State.reset.dev (0xa00000 + 0x10000 * t.val + x.1) == x.2) = true)
  ∧ (∀ (p : Fin 64),
      [(0x0, 0x0), (0x4, 0x0), (0x8, 0x0), (0xc, 0x0), (0x10, 0x0), (0x14, 0x0), (0x18, 0x0), (0x1c, 0x0), (0x40, 0xff800000), (0x44, 0x7f800000),
      (0x48, 0x0), (0x4c, 0x0), (0x50, 0x80000000), (0x54, 0x0), (0x58, 0x0), (0x5c, 0x0), (0x60, 0x0)].all
        (fun x => regValue State.reset.dev (0x1000000 + 0x10000 * p.val + x.1) == x.2) = true)
  ∧ (∀ (p : Fin 64) (s : Fin 16) (f : Fin 4), regValue State.reset.dev (0x1000080 + 0x10000 * p.val + 16 * s.val + 4 * f.val) = 0)
  ∧ (State.reset.pending = [] ∧ (∀ j : Fin 16, (State.reset.dev.jobAt j).state = .empty ∧ State.reset.dev.jobAt j = {}) ∧ State.reset.dev.sec.level = 0
      ∧ State.reset.dev.tide.entries = [] ∧ State.reset.dev.quy.posted = [] ∧ (∀ m : Fin 256, State.reset.dev.ownState m = 0) ∧ State.reset.dev.fab.pend = [])
end

