-- ==== Sys2Proof/Laws/State.lean ====
section
/-! SUPPORT. One lemma per field per update of the device: what each update leaves and what it sets, so that no later proof unfolds a
record update. -/
namespace Sys2Proof.Machine
variable (d : Device)

/-! ### `Device.updPan` -/
@[simp] theorem Device.updPan_fuses (p : Nat) (f : Pan → Pan) : (d.updPan p f).fuses = d.fuses := rfl
@[simp] theorem Device.updPan_glb (p : Nat) (f : Pan → Pan) : (d.updPan p f).glb = d.glb := rfl
@[simp] theorem Device.updPan_sl (p : Nat) (f : Pan → Pan) : (d.updPan p f).sl = d.sl := rfl
@[simp] theorem Device.updPan_sec (p : Nat) (f : Pan → Pan) : (d.updPan p f).sec = d.sec := rfl
@[simp] theorem Device.updPan_pwz (p : Nat) (f : Pan → Pan) : (d.updPan p f).pwz = d.pwz := rfl
@[simp] theorem Device.updPan_bit (p : Nat) (f : Pan → Pan) : (d.updPan p f).bit = d.bit := rfl
@[simp] theorem Device.updPan_i3c (p : Nat) (f : Pan → Pan) : (d.updPan p f).i3c = d.i3c := rfl
@[simp] theorem Device.updPan_inp (p : Nat) (f : Pan → Pan) : (d.updPan p f).inp = d.inp := rfl
@[simp] theorem Device.updPan_tide (p : Nat) (f : Pan → Pan) : (d.updPan p f).tide = d.tide := rfl
@[simp] theorem Device.updPan_pwr (p : Nat) (f : Pan → Pan) : (d.updPan p f).pwr = d.pwr := rfl
@[simp] theorem Device.updPan_terp (p : Nat) (f : Pan → Pan) : (d.updPan p f).terp = d.terp := rfl
@[simp] theorem Device.updPan_ter (p : Nat) (f : Pan → Pan) : (d.updPan p f).ter = d.ter := rfl
@[simp] theorem Device.updPan_eng (p : Nat) (f : Pan → Pan) : (d.updPan p f).eng = d.eng := rfl
@[simp] theorem Device.updPan_chan (p : Nat) (f : Pan → Pan) : (d.updPan p f).chan = d.chan := rfl
@[simp] theorem Device.updPan_port (p : Nat) (f : Pan → Pan) : (d.updPan p f).port = d.port := rfl
@[simp] theorem Device.updPan_fab (p : Nat) (f : Pan → Pan) : (d.updPan p f).fab = d.fab := rfl
@[simp] theorem Device.updPan_eth (p : Nat) (f : Pan → Pan) : (d.updPan p f).eth = d.eth := rfl
@[simp] theorem Device.updPan_quy (p : Nat) (f : Pan → Pan) : (d.updPan p f).quy = d.quy := rfl
@[simp] theorem Device.updPan_med (p : Nat) (f : Pan → Pan) : (d.updPan p f).med = d.med := rfl
@[simp] theorem Device.updPan_grd (p : Nat) (f : Pan → Pan) : (d.updPan p f).grd = d.grd := rfl
@[simp] theorem Device.updPan_grdc (p : Nat) (f : Pan → Pan) : (d.updPan p f).grdc = d.grdc := rfl
@[simp] theorem Device.updPan_mem (p : Nat) (f : Pan → Pan) : (d.updPan p f).mem = d.mem := rfl
@[simp] theorem Device.updPan_pan (p : Nat) (f : Pan → Pan) : (d.updPan p f).pan = vmod d.pan p f := rfl
@[simp] theorem Device.updPan_job (p : Nat) (f : Pan → Pan) : (d.updPan p f).job = d.job := rfl
@[simp] theorem Device.updPan_out (p : Nat) (f : Pan → Pan) : (d.updPan p f).out = d.out := rfl
@[simp] theorem Device.updPan_free (p : Nat) (f : Pan → Pan) : (d.updPan p f).free = d.free := rfl

/-! ### `Device.updJob` -/
@[simp] theorem Device.updJob_fuses (j : Nat) (f : JobSlot → JobSlot) : (d.updJob j f).fuses = d.fuses := rfl
@[simp] theorem Device.updJob_glb (j : Nat) (f : JobSlot → JobSlot) : (d.updJob j f).glb = d.glb := rfl
@[simp] theorem Device.updJob_sl (j : Nat) (f : JobSlot → JobSlot) : (d.updJob j f).sl = d.sl := rfl
@[simp] theorem Device.updJob_sec (j : Nat) (f : JobSlot → JobSlot) : (d.updJob j f).sec = d.sec := rfl
@[simp] theorem Device.updJob_pwz (j : Nat) (f : JobSlot → JobSlot) : (d.updJob j f).pwz = d.pwz := rfl
@[simp] theorem Device.updJob_bit (j : Nat) (f : JobSlot → JobSlot) : (d.updJob j f).bit = d.bit := rfl
@[simp] theorem Device.updJob_i3c (j : Nat) (f : JobSlot → JobSlot) : (d.updJob j f).i3c = d.i3c := rfl
@[simp] theorem Device.updJob_inp (j : Nat) (f : JobSlot → JobSlot) : (d.updJob j f).inp = d.inp := rfl
@[simp] theorem Device.updJob_tide (j : Nat) (f : JobSlot → JobSlot) : (d.updJob j f).tide = d.tide := rfl
@[simp] theorem Device.updJob_pwr (j : Nat) (f : JobSlot → JobSlot) : (d.updJob j f).pwr = d.pwr := rfl
@[simp] theorem Device.updJob_terp (j : Nat) (f : JobSlot → JobSlot) : (d.updJob j f).terp = d.terp := rfl
@[simp] theorem Device.updJob_ter (j : Nat) (f : JobSlot → JobSlot) : (d.updJob j f).ter = d.ter := rfl
@[simp] theorem Device.updJob_eng (j : Nat) (f : JobSlot → JobSlot) : (d.updJob j f).eng = d.eng := rfl
@[simp] theorem Device.updJob_chan (j : Nat) (f : JobSlot → JobSlot) : (d.updJob j f).chan = d.chan := rfl
@[simp] theorem Device.updJob_port (j : Nat) (f : JobSlot → JobSlot) : (d.updJob j f).port = d.port := rfl
@[simp] theorem Device.updJob_fab (j : Nat) (f : JobSlot → JobSlot) : (d.updJob j f).fab = d.fab := rfl
@[simp] theorem Device.updJob_eth (j : Nat) (f : JobSlot → JobSlot) : (d.updJob j f).eth = d.eth := rfl
@[simp] theorem Device.updJob_quy (j : Nat) (f : JobSlot → JobSlot) : (d.updJob j f).quy = d.quy := rfl
@[simp] theorem Device.updJob_med (j : Nat) (f : JobSlot → JobSlot) : (d.updJob j f).med = d.med := rfl
@[simp] theorem Device.updJob_grd (j : Nat) (f : JobSlot → JobSlot) : (d.updJob j f).grd = d.grd := rfl
@[simp] theorem Device.updJob_grdc (j : Nat) (f : JobSlot → JobSlot) : (d.updJob j f).grdc = d.grdc := rfl
@[simp] theorem Device.updJob_mem (j : Nat) (f : JobSlot → JobSlot) : (d.updJob j f).mem = d.mem := rfl
@[simp] theorem Device.updJob_pan (j : Nat) (f : JobSlot → JobSlot) : (d.updJob j f).pan = d.pan := rfl
@[simp] theorem Device.updJob_job (j : Nat) (f : JobSlot → JobSlot) : (d.updJob j f).job = vmod d.job j f := rfl
@[simp] theorem Device.updJob_out (j : Nat) (f : JobSlot → JobSlot) : (d.updJob j f).out = d.out := rfl
@[simp] theorem Device.updJob_free (j : Nat) (f : JobSlot → JobSlot) : (d.updJob j f).free = d.free := rfl

/-! ### `Device.updTer` -/
@[simp] theorem Device.updTer_fuses (t : Nat) (f : Terrace → Terrace) : (d.updTer t f).fuses = d.fuses := rfl
@[simp] theorem Device.updTer_glb (t : Nat) (f : Terrace → Terrace) : (d.updTer t f).glb = d.glb := rfl
@[simp] theorem Device.updTer_sl (t : Nat) (f : Terrace → Terrace) : (d.updTer t f).sl = d.sl := rfl
@[simp] theorem Device.updTer_sec (t : Nat) (f : Terrace → Terrace) : (d.updTer t f).sec = d.sec := rfl
@[simp] theorem Device.updTer_pwz (t : Nat) (f : Terrace → Terrace) : (d.updTer t f).pwz = d.pwz := rfl
@[simp] theorem Device.updTer_bit (t : Nat) (f : Terrace → Terrace) : (d.updTer t f).bit = d.bit := rfl
@[simp] theorem Device.updTer_i3c (t : Nat) (f : Terrace → Terrace) : (d.updTer t f).i3c = d.i3c := rfl
@[simp] theorem Device.updTer_inp (t : Nat) (f : Terrace → Terrace) : (d.updTer t f).inp = d.inp := rfl
@[simp] theorem Device.updTer_tide (t : Nat) (f : Terrace → Terrace) : (d.updTer t f).tide = d.tide := rfl
@[simp] theorem Device.updTer_pwr (t : Nat) (f : Terrace → Terrace) : (d.updTer t f).pwr = d.pwr := rfl
@[simp] theorem Device.updTer_terp (t : Nat) (f : Terrace → Terrace) : (d.updTer t f).terp = d.terp := rfl
@[simp] theorem Device.updTer_ter (t : Nat) (f : Terrace → Terrace) : (d.updTer t f).ter = vmod d.ter t f := rfl
@[simp] theorem Device.updTer_eng (t : Nat) (f : Terrace → Terrace) : (d.updTer t f).eng = d.eng := rfl
@[simp] theorem Device.updTer_chan (t : Nat) (f : Terrace → Terrace) : (d.updTer t f).chan = d.chan := rfl
@[simp] theorem Device.updTer_port (t : Nat) (f : Terrace → Terrace) : (d.updTer t f).port = d.port := rfl
@[simp] theorem Device.updTer_fab (t : Nat) (f : Terrace → Terrace) : (d.updTer t f).fab = d.fab := rfl
@[simp] theorem Device.updTer_eth (t : Nat) (f : Terrace → Terrace) : (d.updTer t f).eth = d.eth := rfl
@[simp] theorem Device.updTer_quy (t : Nat) (f : Terrace → Terrace) : (d.updTer t f).quy = d.quy := rfl
@[simp] theorem Device.updTer_med (t : Nat) (f : Terrace → Terrace) : (d.updTer t f).med = d.med := rfl
@[simp] theorem Device.updTer_grd (t : Nat) (f : Terrace → Terrace) : (d.updTer t f).grd = d.grd := rfl
@[simp] theorem Device.updTer_grdc (t : Nat) (f : Terrace → Terrace) : (d.updTer t f).grdc = d.grdc := rfl
@[simp] theorem Device.updTer_mem (t : Nat) (f : Terrace → Terrace) : (d.updTer t f).mem = d.mem := rfl
@[simp] theorem Device.updTer_pan (t : Nat) (f : Terrace → Terrace) : (d.updTer t f).pan = d.pan := rfl
@[simp] theorem Device.updTer_job (t : Nat) (f : Terrace → Terrace) : (d.updTer t f).job = d.job := rfl
@[simp] theorem Device.updTer_out (t : Nat) (f : Terrace → Terrace) : (d.updTer t f).out = d.out := rfl
@[simp] theorem Device.updTer_free (t : Nat) (f : Terrace → Terrace) : (d.updTer t f).free = d.free := rfl

/-! ### `Device.updEng` -/
@[simp] theorem Device.updEng_fuses (t : Nat) (f : Engines → Engines) : (d.updEng t f).fuses = d.fuses := rfl
@[simp] theorem Device.updEng_glb (t : Nat) (f : Engines → Engines) : (d.updEng t f).glb = d.glb := rfl
@[simp] theorem Device.updEng_sl (t : Nat) (f : Engines → Engines) : (d.updEng t f).sl = d.sl := rfl
@[simp] theorem Device.updEng_sec (t : Nat) (f : Engines → Engines) : (d.updEng t f).sec = d.sec := rfl
@[simp] theorem Device.updEng_pwz (t : Nat) (f : Engines → Engines) : (d.updEng t f).pwz = d.pwz := rfl
@[simp] theorem Device.updEng_bit (t : Nat) (f : Engines → Engines) : (d.updEng t f).bit = d.bit := rfl
@[simp] theorem Device.updEng_i3c (t : Nat) (f : Engines → Engines) : (d.updEng t f).i3c = d.i3c := rfl
@[simp] theorem Device.updEng_inp (t : Nat) (f : Engines → Engines) : (d.updEng t f).inp = d.inp := rfl
@[simp] theorem Device.updEng_tide (t : Nat) (f : Engines → Engines) : (d.updEng t f).tide = d.tide := rfl
@[simp] theorem Device.updEng_pwr (t : Nat) (f : Engines → Engines) : (d.updEng t f).pwr = d.pwr := rfl
@[simp] theorem Device.updEng_terp (t : Nat) (f : Engines → Engines) : (d.updEng t f).terp = d.terp := rfl
@[simp] theorem Device.updEng_ter (t : Nat) (f : Engines → Engines) : (d.updEng t f).ter = d.ter := rfl
@[simp] theorem Device.updEng_eng (t : Nat) (f : Engines → Engines) : (d.updEng t f).eng = vmod d.eng t f := rfl
@[simp] theorem Device.updEng_chan (t : Nat) (f : Engines → Engines) : (d.updEng t f).chan = d.chan := rfl
@[simp] theorem Device.updEng_port (t : Nat) (f : Engines → Engines) : (d.updEng t f).port = d.port := rfl
@[simp] theorem Device.updEng_fab (t : Nat) (f : Engines → Engines) : (d.updEng t f).fab = d.fab := rfl
@[simp] theorem Device.updEng_eth (t : Nat) (f : Engines → Engines) : (d.updEng t f).eth = d.eth := rfl
@[simp] theorem Device.updEng_quy (t : Nat) (f : Engines → Engines) : (d.updEng t f).quy = d.quy := rfl
@[simp] theorem Device.updEng_med (t : Nat) (f : Engines → Engines) : (d.updEng t f).med = d.med := rfl
@[simp] theorem Device.updEng_grd (t : Nat) (f : Engines → Engines) : (d.updEng t f).grd = d.grd := rfl
@[simp] theorem Device.updEng_grdc (t : Nat) (f : Engines → Engines) : (d.updEng t f).grdc = d.grdc := rfl
@[simp] theorem Device.updEng_mem (t : Nat) (f : Engines → Engines) : (d.updEng t f).mem = d.mem := rfl
@[simp] theorem Device.updEng_pan (t : Nat) (f : Engines → Engines) : (d.updEng t f).pan = d.pan := rfl
@[simp] theorem Device.updEng_job (t : Nat) (f : Engines → Engines) : (d.updEng t f).job = d.job := rfl
@[simp] theorem Device.updEng_out (t : Nat) (f : Engines → Engines) : (d.updEng t f).out = d.out := rfl
@[simp] theorem Device.updEng_free (t : Nat) (f : Engines → Engines) : (d.updEng t f).free = d.free := rfl

/-! ### `Device.updTerp` -/
@[simp] theorem Device.updTerp_fuses (t : Nat) (f : TerPower → TerPower) : (d.updTerp t f).fuses = d.fuses := rfl
@[simp] theorem Device.updTerp_glb (t : Nat) (f : TerPower → TerPower) : (d.updTerp t f).glb = d.glb := rfl
@[simp] theorem Device.updTerp_sl (t : Nat) (f : TerPower → TerPower) : (d.updTerp t f).sl = d.sl := rfl
@[simp] theorem Device.updTerp_sec (t : Nat) (f : TerPower → TerPower) : (d.updTerp t f).sec = d.sec := rfl
@[simp] theorem Device.updTerp_pwz (t : Nat) (f : TerPower → TerPower) : (d.updTerp t f).pwz = d.pwz := rfl
@[simp] theorem Device.updTerp_bit (t : Nat) (f : TerPower → TerPower) : (d.updTerp t f).bit = d.bit := rfl
@[simp] theorem Device.updTerp_i3c (t : Nat) (f : TerPower → TerPower) : (d.updTerp t f).i3c = d.i3c := rfl
@[simp] theorem Device.updTerp_inp (t : Nat) (f : TerPower → TerPower) : (d.updTerp t f).inp = d.inp := rfl
@[simp] theorem Device.updTerp_tide (t : Nat) (f : TerPower → TerPower) : (d.updTerp t f).tide = d.tide := rfl
@[simp] theorem Device.updTerp_pwr (t : Nat) (f : TerPower → TerPower) : (d.updTerp t f).pwr = d.pwr := rfl
@[simp] theorem Device.updTerp_terp (t : Nat) (f : TerPower → TerPower) : (d.updTerp t f).terp = vmod d.terp t f := rfl
@[simp] theorem Device.updTerp_ter (t : Nat) (f : TerPower → TerPower) : (d.updTerp t f).ter = d.ter := rfl
@[simp] theorem Device.updTerp_eng (t : Nat) (f : TerPower → TerPower) : (d.updTerp t f).eng = d.eng := rfl
@[simp] theorem Device.updTerp_chan (t : Nat) (f : TerPower → TerPower) : (d.updTerp t f).chan = d.chan := rfl
@[simp] theorem Device.updTerp_port (t : Nat) (f : TerPower → TerPower) : (d.updTerp t f).port = d.port := rfl
@[simp] theorem Device.updTerp_fab (t : Nat) (f : TerPower → TerPower) : (d.updTerp t f).fab = d.fab := rfl
@[simp] theorem Device.updTerp_eth (t : Nat) (f : TerPower → TerPower) : (d.updTerp t f).eth = d.eth := rfl
@[simp] theorem Device.updTerp_quy (t : Nat) (f : TerPower → TerPower) : (d.updTerp t f).quy = d.quy := rfl
@[simp] theorem Device.updTerp_med (t : Nat) (f : TerPower → TerPower) : (d.updTerp t f).med = d.med := rfl
@[simp] theorem Device.updTerp_grd (t : Nat) (f : TerPower → TerPower) : (d.updTerp t f).grd = d.grd := rfl
@[simp] theorem Device.updTerp_grdc (t : Nat) (f : TerPower → TerPower) : (d.updTerp t f).grdc = d.grdc := rfl
@[simp] theorem Device.updTerp_mem (t : Nat) (f : TerPower → TerPower) : (d.updTerp t f).mem = d.mem := rfl
@[simp] theorem Device.updTerp_pan (t : Nat) (f : TerPower → TerPower) : (d.updTerp t f).pan = d.pan := rfl
@[simp] theorem Device.updTerp_job (t : Nat) (f : TerPower → TerPower) : (d.updTerp t f).job = d.job := rfl
@[simp] theorem Device.updTerp_out (t : Nat) (f : TerPower → TerPower) : (d.updTerp t f).out = d.out := rfl
@[simp] theorem Device.updTerp_free (t : Nat) (f : TerPower → TerPower) : (d.updTerp t f).free = d.free := rfl

/-! ### `Device.updChan` -/
@[simp] theorem Device.updChan_fuses (c : Nat) (f : Channel → Channel) : (d.updChan c f).fuses = d.fuses := rfl
@[simp] theorem Device.updChan_glb (c : Nat) (f : Channel → Channel) : (d.updChan c f).glb = d.glb := rfl
@[simp] theorem Device.updChan_sl (c : Nat) (f : Channel → Channel) : (d.updChan c f).sl = d.sl := rfl
@[simp] theorem Device.updChan_sec (c : Nat) (f : Channel → Channel) : (d.updChan c f).sec = d.sec := rfl
@[simp] theorem Device.updChan_pwz (c : Nat) (f : Channel → Channel) : (d.updChan c f).pwz = d.pwz := rfl
@[simp] theorem Device.updChan_bit (c : Nat) (f : Channel → Channel) : (d.updChan c f).bit = d.bit := rfl
@[simp] theorem Device.updChan_i3c (c : Nat) (f : Channel → Channel) : (d.updChan c f).i3c = d.i3c := rfl
@[simp] theorem Device.updChan_inp (c : Nat) (f : Channel → Channel) : (d.updChan c f).inp = d.inp := rfl
@[simp] theorem Device.updChan_tide (c : Nat) (f : Channel → Channel) : (d.updChan c f).tide = d.tide := rfl
@[simp] theorem Device.updChan_pwr (c : Nat) (f : Channel → Channel) : (d.updChan c f).pwr = d.pwr := rfl
@[simp] theorem Device.updChan_terp (c : Nat) (f : Channel → Channel) : (d.updChan c f).terp = d.terp := rfl
@[simp] theorem Device.updChan_ter (c : Nat) (f : Channel → Channel) : (d.updChan c f).ter = d.ter := rfl
@[simp] theorem Device.updChan_eng (c : Nat) (f : Channel → Channel) : (d.updChan c f).eng = d.eng := rfl
@[simp] theorem Device.updChan_chan (c : Nat) (f : Channel → Channel) : (d.updChan c f).chan = vmod d.chan c f := rfl
@[simp] theorem Device.updChan_port (c : Nat) (f : Channel → Channel) : (d.updChan c f).port = d.port := rfl
@[simp] theorem Device.updChan_fab (c : Nat) (f : Channel → Channel) : (d.updChan c f).fab = d.fab := rfl
@[simp] theorem Device.updChan_eth (c : Nat) (f : Channel → Channel) : (d.updChan c f).eth = d.eth := rfl
@[simp] theorem Device.updChan_quy (c : Nat) (f : Channel → Channel) : (d.updChan c f).quy = d.quy := rfl
@[simp] theorem Device.updChan_med (c : Nat) (f : Channel → Channel) : (d.updChan c f).med = d.med := rfl
@[simp] theorem Device.updChan_grd (c : Nat) (f : Channel → Channel) : (d.updChan c f).grd = d.grd := rfl
@[simp] theorem Device.updChan_grdc (c : Nat) (f : Channel → Channel) : (d.updChan c f).grdc = d.grdc := rfl
@[simp] theorem Device.updChan_mem (c : Nat) (f : Channel → Channel) : (d.updChan c f).mem = d.mem := rfl
@[simp] theorem Device.updChan_pan (c : Nat) (f : Channel → Channel) : (d.updChan c f).pan = d.pan := rfl
@[simp] theorem Device.updChan_job (c : Nat) (f : Channel → Channel) : (d.updChan c f).job = d.job := rfl
@[simp] theorem Device.updChan_out (c : Nat) (f : Channel → Channel) : (d.updChan c f).out = d.out := rfl
@[simp] theorem Device.updChan_free (c : Nat) (f : Channel → Channel) : (d.updChan c f).free = d.free := rfl

/-! ### `Device.updPort` -/
@[simp] theorem Device.updPort_fuses (b : Nat) (f : Port → Port) : (d.updPort b f).fuses = d.fuses := rfl
@[simp] theorem Device.updPort_glb (b : Nat) (f : Port → Port) : (d.updPort b f).glb = d.glb := rfl
@[simp] theorem Device.updPort_sl (b : Nat) (f : Port → Port) : (d.updPort b f).sl = d.sl := rfl
@[simp] theorem Device.updPort_sec (b : Nat) (f : Port → Port) : (d.updPort b f).sec = d.sec := rfl
@[simp] theorem Device.updPort_pwz (b : Nat) (f : Port → Port) : (d.updPort b f).pwz = d.pwz := rfl
@[simp] theorem Device.updPort_bit (b : Nat) (f : Port → Port) : (d.updPort b f).bit = d.bit := rfl
@[simp] theorem Device.updPort_i3c (b : Nat) (f : Port → Port) : (d.updPort b f).i3c = d.i3c := rfl
@[simp] theorem Device.updPort_inp (b : Nat) (f : Port → Port) : (d.updPort b f).inp = d.inp := rfl
@[simp] theorem Device.updPort_tide (b : Nat) (f : Port → Port) : (d.updPort b f).tide = d.tide := rfl
@[simp] theorem Device.updPort_pwr (b : Nat) (f : Port → Port) : (d.updPort b f).pwr = d.pwr := rfl
@[simp] theorem Device.updPort_terp (b : Nat) (f : Port → Port) : (d.updPort b f).terp = d.terp := rfl
@[simp] theorem Device.updPort_ter (b : Nat) (f : Port → Port) : (d.updPort b f).ter = d.ter := rfl
@[simp] theorem Device.updPort_eng (b : Nat) (f : Port → Port) : (d.updPort b f).eng = d.eng := rfl
@[simp] theorem Device.updPort_chan (b : Nat) (f : Port → Port) : (d.updPort b f).chan = d.chan := rfl
@[simp] theorem Device.updPort_port (b : Nat) (f : Port → Port) : (d.updPort b f).port = vmod d.port b f := rfl
@[simp] theorem Device.updPort_fab (b : Nat) (f : Port → Port) : (d.updPort b f).fab = d.fab := rfl
@[simp] theorem Device.updPort_eth (b : Nat) (f : Port → Port) : (d.updPort b f).eth = d.eth := rfl
@[simp] theorem Device.updPort_quy (b : Nat) (f : Port → Port) : (d.updPort b f).quy = d.quy := rfl
@[simp] theorem Device.updPort_med (b : Nat) (f : Port → Port) : (d.updPort b f).med = d.med := rfl
@[simp] theorem Device.updPort_grd (b : Nat) (f : Port → Port) : (d.updPort b f).grd = d.grd := rfl
@[simp] theorem Device.updPort_grdc (b : Nat) (f : Port → Port) : (d.updPort b f).grdc = d.grdc := rfl
@[simp] theorem Device.updPort_mem (b : Nat) (f : Port → Port) : (d.updPort b f).mem = d.mem := rfl
@[simp] theorem Device.updPort_pan (b : Nat) (f : Port → Port) : (d.updPort b f).pan = d.pan := rfl
@[simp] theorem Device.updPort_job (b : Nat) (f : Port → Port) : (d.updPort b f).job = d.job := rfl
@[simp] theorem Device.updPort_out (b : Nat) (f : Port → Port) : (d.updPort b f).out = d.out := rfl
@[simp] theorem Device.updPort_free (b : Nat) (f : Port → Port) : (d.updPort b f).free = d.free := rfl

/-! ### `Device.writeN` -/
@[simp] theorem Device.writeN_fuses (a : Nat) (bs : List Nat) : (d.writeN a bs).fuses = d.fuses := rfl
@[simp] theorem Device.writeN_glb (a : Nat) (bs : List Nat) : (d.writeN a bs).glb = d.glb := rfl
@[simp] theorem Device.writeN_sl (a : Nat) (bs : List Nat) : (d.writeN a bs).sl = d.sl := rfl
@[simp] theorem Device.writeN_sec (a : Nat) (bs : List Nat) : (d.writeN a bs).sec = d.sec := rfl
@[simp] theorem Device.writeN_pwz (a : Nat) (bs : List Nat) : (d.writeN a bs).pwz = d.pwz := rfl
@[simp] theorem Device.writeN_bit (a : Nat) (bs : List Nat) : (d.writeN a bs).bit = d.bit := rfl
@[simp] theorem Device.writeN_i3c (a : Nat) (bs : List Nat) : (d.writeN a bs).i3c = d.i3c := rfl
@[simp] theorem Device.writeN_inp (a : Nat) (bs : List Nat) : (d.writeN a bs).inp = d.inp := rfl
@[simp] theorem Device.writeN_tide (a : Nat) (bs : List Nat) : (d.writeN a bs).tide = d.tide := rfl
@[simp] theorem Device.writeN_pwr (a : Nat) (bs : List Nat) : (d.writeN a bs).pwr = d.pwr := rfl
@[simp] theorem Device.writeN_terp (a : Nat) (bs : List Nat) : (d.writeN a bs).terp = d.terp := rfl
@[simp] theorem Device.writeN_ter (a : Nat) (bs : List Nat) : (d.writeN a bs).ter = d.ter := rfl
@[simp] theorem Device.writeN_eng (a : Nat) (bs : List Nat) : (d.writeN a bs).eng = d.eng := rfl
@[simp] theorem Device.writeN_chan (a : Nat) (bs : List Nat) : (d.writeN a bs).chan = d.chan := rfl
@[simp] theorem Device.writeN_port (a : Nat) (bs : List Nat) : (d.writeN a bs).port = d.port := rfl
@[simp] theorem Device.writeN_fab (a : Nat) (bs : List Nat) : (d.writeN a bs).fab = d.fab := rfl
@[simp] theorem Device.writeN_eth (a : Nat) (bs : List Nat) : (d.writeN a bs).eth = d.eth := rfl
@[simp] theorem Device.writeN_quy (a : Nat) (bs : List Nat) : (d.writeN a bs).quy = d.quy := rfl
@[simp] theorem Device.writeN_med (a : Nat) (bs : List Nat) : (d.writeN a bs).med = d.med := rfl
@[simp] theorem Device.writeN_grd (a : Nat) (bs : List Nat) : (d.writeN a bs).grd = d.grd := rfl
@[simp] theorem Device.writeN_grdc (a : Nat) (bs : List Nat) : (d.writeN a bs).grdc = d.grdc := rfl
@[simp] theorem Device.writeN_mem (a : Nat) (bs : List Nat) : (d.writeN a bs).mem = d.mem.writeN a bs := rfl
@[simp] theorem Device.writeN_pan (a : Nat) (bs : List Nat) : (d.writeN a bs).pan = d.pan := rfl
@[simp] theorem Device.writeN_job (a : Nat) (bs : List Nat) : (d.writeN a bs).job = d.job := rfl
@[simp] theorem Device.writeN_out (a : Nat) (bs : List Nat) : (d.writeN a bs).out = d.out := rfl
@[simp] theorem Device.writeN_free (a : Nat) (bs : List Nat) : (d.writeN a bs).free = d.free := rfl

/-! ### `Device.psWrite` -/
@[simp] theorem Device.psWrite_fuses (p a : Nat) (bs : List Nat) : (d.psWrite p a bs).fuses = d.fuses := rfl
@[simp] theorem Device.psWrite_glb (p a : Nat) (bs : List Nat) : (d.psWrite p a bs).glb = d.glb := rfl
@[simp] theorem Device.psWrite_sl (p a : Nat) (bs : List Nat) : (d.psWrite p a bs).sl = d.sl := rfl
@[simp] theorem Device.psWrite_sec (p a : Nat) (bs : List Nat) : (d.psWrite p a bs).sec = d.sec := rfl
@[simp] theorem Device.psWrite_pwz (p a : Nat) (bs : List Nat) : (d.psWrite p a bs).pwz = d.pwz := rfl
@[simp] theorem Device.psWrite_bit (p a : Nat) (bs : List Nat) : (d.psWrite p a bs).bit = d.bit := rfl
@[simp] theorem Device.psWrite_i3c (p a : Nat) (bs : List Nat) : (d.psWrite p a bs).i3c = d.i3c := rfl
@[simp] theorem Device.psWrite_inp (p a : Nat) (bs : List Nat) : (d.psWrite p a bs).inp = d.inp := rfl
@[simp] theorem Device.psWrite_tide (p a : Nat) (bs : List Nat) : (d.psWrite p a bs).tide = d.tide := rfl
@[simp] theorem Device.psWrite_pwr (p a : Nat) (bs : List Nat) : (d.psWrite p a bs).pwr = d.pwr := rfl
@[simp] theorem Device.psWrite_terp (p a : Nat) (bs : List Nat) : (d.psWrite p a bs).terp = d.terp := rfl
@[simp] theorem Device.psWrite_ter (p a : Nat) (bs : List Nat) : (d.psWrite p a bs).ter = d.ter := rfl
@[simp] theorem Device.psWrite_eng (p a : Nat) (bs : List Nat) : (d.psWrite p a bs).eng = d.eng := rfl
@[simp] theorem Device.psWrite_chan (p a : Nat) (bs : List Nat) : (d.psWrite p a bs).chan = d.chan := rfl
@[simp] theorem Device.psWrite_port (p a : Nat) (bs : List Nat) : (d.psWrite p a bs).port = d.port := rfl
@[simp] theorem Device.psWrite_fab (p a : Nat) (bs : List Nat) : (d.psWrite p a bs).fab = d.fab := rfl
@[simp] theorem Device.psWrite_eth (p a : Nat) (bs : List Nat) : (d.psWrite p a bs).eth = d.eth := rfl
@[simp] theorem Device.psWrite_quy (p a : Nat) (bs : List Nat) : (d.psWrite p a bs).quy = d.quy := rfl
@[simp] theorem Device.psWrite_med (p a : Nat) (bs : List Nat) : (d.psWrite p a bs).med = d.med := rfl
@[simp] theorem Device.psWrite_grd (p a : Nat) (bs : List Nat) : (d.psWrite p a bs).grd = d.grd := rfl
@[simp] theorem Device.psWrite_grdc (p a : Nat) (bs : List Nat) : (d.psWrite p a bs).grdc = d.grdc := rfl
@[simp] theorem Device.psWrite_mem (p a : Nat) (bs : List Nat) : (d.psWrite p a bs).mem = psWriteMem p d.mem a bs := rfl
@[simp] theorem Device.psWrite_pan (p a : Nat) (bs : List Nat) : (d.psWrite p a bs).pan = d.pan := rfl
@[simp] theorem Device.psWrite_job (p a : Nat) (bs : List Nat) : (d.psWrite p a bs).job = d.job := rfl
@[simp] theorem Device.psWrite_out (p a : Nat) (bs : List Nat) : (d.psWrite p a bs).out = d.out := rfl
@[simp] theorem Device.psWrite_free (p a : Nat) (bs : List Nat) : (d.psWrite p a bs).free = d.free := rfl

/-! ### `Device.undefine` -/
@[simp] theorem Device.undefine_fuses (lo hi : Nat) : (d.undefine lo hi).fuses = d.fuses := rfl
@[simp] theorem Device.undefine_glb (lo hi : Nat) : (d.undefine lo hi).glb = d.glb := rfl
@[simp] theorem Device.undefine_sl (lo hi : Nat) : (d.undefine lo hi).sl = d.sl := rfl
@[simp] theorem Device.undefine_sec (lo hi : Nat) : (d.undefine lo hi).sec = d.sec := rfl
@[simp] theorem Device.undefine_pwz (lo hi : Nat) : (d.undefine lo hi).pwz = d.pwz := rfl
@[simp] theorem Device.undefine_bit (lo hi : Nat) : (d.undefine lo hi).bit = d.bit := rfl
@[simp] theorem Device.undefine_i3c (lo hi : Nat) : (d.undefine lo hi).i3c = d.i3c := rfl
@[simp] theorem Device.undefine_inp (lo hi : Nat) : (d.undefine lo hi).inp = d.inp := rfl
@[simp] theorem Device.undefine_tide (lo hi : Nat) : (d.undefine lo hi).tide = d.tide := rfl
@[simp] theorem Device.undefine_pwr (lo hi : Nat) : (d.undefine lo hi).pwr = d.pwr := rfl
@[simp] theorem Device.undefine_terp (lo hi : Nat) : (d.undefine lo hi).terp = d.terp := rfl
@[simp] theorem Device.undefine_ter (lo hi : Nat) : (d.undefine lo hi).ter = d.ter := rfl
@[simp] theorem Device.undefine_eng (lo hi : Nat) : (d.undefine lo hi).eng = d.eng := rfl
@[simp] theorem Device.undefine_chan (lo hi : Nat) : (d.undefine lo hi).chan = d.chan := rfl
@[simp] theorem Device.undefine_port (lo hi : Nat) : (d.undefine lo hi).port = d.port := rfl
@[simp] theorem Device.undefine_fab (lo hi : Nat) : (d.undefine lo hi).fab = d.fab := rfl
@[simp] theorem Device.undefine_eth (lo hi : Nat) : (d.undefine lo hi).eth = d.eth := rfl
@[simp] theorem Device.undefine_quy (lo hi : Nat) : (d.undefine lo hi).quy = d.quy := rfl
@[simp] theorem Device.undefine_med (lo hi : Nat) : (d.undefine lo hi).med = d.med := rfl
@[simp] theorem Device.undefine_grd (lo hi : Nat) : (d.undefine lo hi).grd = d.grd := rfl
@[simp] theorem Device.undefine_grdc (lo hi : Nat) : (d.undefine lo hi).grdc = d.grdc := rfl
@[simp] theorem Device.undefine_mem (lo hi : Nat) : (d.undefine lo hi).mem = d.mem.blank lo hi (some d.free) := rfl
@[simp] theorem Device.undefine_pan (lo hi : Nat) : (d.undefine lo hi).pan = d.pan := rfl
@[simp] theorem Device.undefine_job (lo hi : Nat) : (d.undefine lo hi).job = d.job := rfl
@[simp] theorem Device.undefine_out (lo hi : Nat) : (d.undefine lo hi).out = d.out := rfl
@[simp] theorem Device.undefine_free (lo hi : Nat) : (d.undefine lo hi).free = d.free + 1 := rfl

/-! ### `Device.send` -/
@[simp] theorem Device.send_fuses (o : Out) : (d.send o).fuses = d.fuses := rfl
@[simp] theorem Device.send_glb (o : Out) : (d.send o).glb = d.glb := rfl
@[simp] theorem Device.send_sl (o : Out) : (d.send o).sl = d.sl := rfl
@[simp] theorem Device.send_sec (o : Out) : (d.send o).sec = d.sec := rfl
@[simp] theorem Device.send_pwz (o : Out) : (d.send o).pwz = d.pwz := rfl
@[simp] theorem Device.send_bit (o : Out) : (d.send o).bit = d.bit := rfl
@[simp] theorem Device.send_i3c (o : Out) : (d.send o).i3c = d.i3c := rfl
@[simp] theorem Device.send_inp (o : Out) : (d.send o).inp = d.inp := rfl
@[simp] theorem Device.send_tide (o : Out) : (d.send o).tide = d.tide := rfl
@[simp] theorem Device.send_pwr (o : Out) : (d.send o).pwr = d.pwr := rfl
@[simp] theorem Device.send_terp (o : Out) : (d.send o).terp = d.terp := rfl
@[simp] theorem Device.send_ter (o : Out) : (d.send o).ter = d.ter := rfl
@[simp] theorem Device.send_eng (o : Out) : (d.send o).eng = d.eng := rfl
@[simp] theorem Device.send_chan (o : Out) : (d.send o).chan = d.chan := rfl
@[simp] theorem Device.send_port (o : Out) : (d.send o).port = d.port := rfl
@[simp] theorem Device.send_fab (o : Out) : (d.send o).fab = d.fab := rfl
@[simp] theorem Device.send_eth (o : Out) : (d.send o).eth = d.eth := rfl
@[simp] theorem Device.send_quy (o : Out) : (d.send o).quy = d.quy := rfl
@[simp] theorem Device.send_med (o : Out) : (d.send o).med = d.med := rfl
@[simp] theorem Device.send_grd (o : Out) : (d.send o).grd = d.grd := rfl
@[simp] theorem Device.send_grdc (o : Out) : (d.send o).grdc = d.grdc := rfl
@[simp] theorem Device.send_mem (o : Out) : (d.send o).mem = d.mem := rfl
@[simp] theorem Device.send_pan (o : Out) : (d.send o).pan = d.pan := rfl
@[simp] theorem Device.send_job (o : Out) : (d.send o).job = d.job := rfl
@[simp] theorem Device.send_out (o : Out) : (d.send o).out = d.out ++ [o] := rfl
@[simp] theorem Device.send_free (o : Out) : (d.send o).free = d.free := rfl

end Sys2Proof.Machine
end

