-- ==== Sys2Proof/Laws/Maps.lean ====
section
/-! SUPPORT. Laws of the containers: vectors by number, sparse maps, byte lists. -/
namespace Sys2Proof.Machine

/-! ### Vectors by number -/

theorem vget_lt {α : Type} {n : Nat} (d : α) (v : Vector α n) (i : Nat) (h : i < n) : vget d v i = v[i] := by simp [vget, h]

@[simp] theorem vget_vmod_self {α : Type} {n : Nat} (d : α) (v : Vector α n) (i : Nat) (f : α → α) (h : i < n) :
    vget d (vmod v i f) i = f (vget d v i) := by simp [vget, vmod, h]

theorem vget_vmod_ne {α : Type} {n : Nat} (d : α) (v : Vector α n) (i j : Nat) (f : α → α) (h : i ≠ j) :
    vget d (vmod v i f) j = vget d v j := by
  unfold vget vmod
  split
  · split
    · rw [Vector.getElem_set_ne _ _ h]
    · rfl
  · rfl

/-- Every element of a changed vector is an old element or the image of one. -/
theorem vmod_all {α : Type} {n : Nat} (P : α → Prop) (v : Vector α n) (i : Nat) (f : α → α) (hv : ∀ k (h : k < n), P v[k])
    (hf : ∀ x, P x → P (f x)) : ∀ k (h : k < n), P (vmod v i f)[k] := by
  intro k h
  unfold vmod
  split
  · rw [Vector.getElem_set]
    split
    · exact hf _ (hv _ _)
    · exact hv _ _
  · exact hv _ _

/-! ### Sparse maps -/

/-- The keys below the first of a map. -/
def smBelow {α : Type} (k : Nat) : SMap α → Bool
  | [] => true
  | (i, _) :: _ => decide (k < i)

theorem smSorted_cons {α : Type} (k : Nat) (v : α) (m : SMap α) : smSorted ((k, v) :: m) = (smBelow k m && smSorted m) := by
  cases m with
  | nil => rfl
  | cons e r => obtain ⟨i, w⟩ := e; rfl

theorem smBelow_put {α : Type} (j k : Nat) (v : α) (m : SMap α) (h : smBelow j m = true) (hjk : j < k) : smBelow j (smPut m k v) = true := by
  cases m with
  | nil => simpa [smPut, smBelow] using hjk
  | cons e r =>
    obtain ⟨i, w⟩ := e
    simp only [smBelow, decide_eq_true_eq] at h
    unfold smPut
    split
    · simpa [smBelow] using hjk
    · split
      · simpa [smBelow] using hjk
      · simpa [smBelow] using h

theorem smPut_sorted {α : Type} (m : SMap α) (k : Nat) (v : α) (h : smSorted m = true) : smSorted (smPut m k v) = true := by
  induction m with
  | nil => rfl
  | cons e r ih =>
    obtain ⟨i, w⟩ := e
    rw [smSorted_cons, Bool.and_eq_true] at h
    unfold smPut
    split
    · rename_i hk; rw [smSorted_cons, smSorted_cons, h.1, h.2]; simp [smBelow, hk]
    · split
      · rename_i _ hk; subst hk; rw [smSorted_cons, h.1, h.2]; rfl
      · rw [smSorted_cons, ih h.2, smBelow_put i k v r h.1 (by omega)]; rfl

theorem smBelow_trans {α : Type} (j i : Nat) (m : SMap α) (h : smBelow i m = true) (hji : j < i) : smBelow j m = true := by
  cases m with
  | nil => rfl
  | cons e r => obtain ⟨k, w⟩ := e; simp [smBelow] at *; omega

theorem smErase_sorted {α : Type} (m : SMap α) (k : Nat) (h : smSorted m = true) :
    smSorted (smErase m k) = true ∧ ∀ j, smBelow j m = true → smBelow j (smErase m k) = true := by
  induction m with
  | nil => exact ⟨rfl, fun _ hj => hj⟩
  | cons e r ih =>
    obtain ⟨i, w⟩ := e
    rw [smSorted_cons, Bool.and_eq_true] at h
    unfold smErase
    split
    · exact ⟨(ih h.2).1, fun j hj => (ih h.2).2 j (smBelow_trans j i r h.1 (by simpa [smBelow] using hj))⟩
    · refine ⟨?_, fun j hj => by simpa [smBelow] using hj⟩
      rw [smSorted_cons, (ih h.2).1, (ih h.2).2 i h.1]; rfl

theorem smGet_below {α : Type} (d : α) (m : SMap α) (k : Nat) (hs : smSorted m = true) (h : smBelow k m = true) : smGet d m k = d := by
  induction m with
  | nil => rfl
  | cons e r ih =>
    obtain ⟨i, w⟩ := e
    simp only [smBelow, decide_eq_true_eq] at h
    rw [smSorted_cons, Bool.and_eq_true] at hs
    unfold smGet
    rw [if_neg (by omega)]
    exact ih hs.2 (smBelow_trans k i r hs.1 h)

/-- A read of a listed key gives what was put there; every other key reads as before. -/
theorem smGet_smPut {α : Type} (d : α) (m : SMap α) (k j : Nat) (v : α) : smGet d (smPut m k v) j = if j = k then v else smGet d m j := by
  induction m with
  | nil => simp only [smPut, smGet, eq_comm]
  | cons e r ih =>
    obtain ⟨i, w⟩ := e
    unfold smPut
    split
    · simp only [smGet, eq_comm (a := k)]
    · split
      · rename_i _ hk
        subst hk
        simp only [smGet, eq_comm (a := i)]
        split <;> simp_all
      · simp only [smGet, ih]
        split
        · rename_i _ hne he
          subst he
          simp [hne]
        · rfl

theorem smGet_smErase {α : Type} (d : α) (m : SMap α) (k j : Nat) : smGet d (smErase m k) j = if j = k then d else smGet d m j := by
  induction m with
  | nil => simp [smErase, smGet]
  | cons e r ih =>
    obtain ⟨i, w⟩ := e
    unfold smErase
    split
    · rename_i hk
      subst hk
      rw [ih]
      split
      · rfl
      · rename_i hj; simp [smGet, Ne.symm hj]
    · rename_i hk
      simp only [smGet, ih]
      split
      · rename_i he; subst he; simp [hk]
      · rfl

theorem smGet_smSet {α : Type} [DecidableEq α] (d : α) (m : SMap α) (k j : Nat) (v : α) :
    smGet d (smSet d m k v) j = if j = k then v else smGet d m j := by
  unfold smSet
  split
  · rename_i hv; subst hv; exact smGet_smErase _ m k j
  · exact smGet_smPut d m k j v

theorem smSet_sorted {α : Type} [DecidableEq α] (d : α) (m : SMap α) (k : Nat) (v : α) (hs : smSorted m = true) :
    smSorted (smSet d m k v) = true := by
  unfold smSet
  split
  · exact (smErase_sorted m k hs).1
  · exact smPut_sorted m k v hs

theorem smPut_all {α : Type} (P : Nat × α → Prop) (m : SMap α) (k : Nat) (v : α) (hm : ∀ e ∈ m, P e) (hk : P (k, v)) :
    ∀ e ∈ smPut m k v, P e := by
  induction m with
  | nil => intro e he; simp only [smPut, List.mem_singleton] at he; exact he ▸ hk
  | cons x r ih =>
    obtain ⟨i, w⟩ := x
    have hr := ih (fun e he => hm e (List.mem_cons_of_mem _ he))
    intro e he
    unfold smPut at he
    split at he
    · rcases List.mem_cons.mp he with rfl | he
      · exact hk
      · exact hm e he
    · split at he
      · rcases List.mem_cons.mp he with rfl | he
        · exact hk
        · exact hm e (List.mem_cons_of_mem _ he)
      · rcases List.mem_cons.mp he with rfl | he
        · exact hm _ (List.mem_cons_self ..)
        · exact hr e he

theorem smErase_all {α : Type} (P : Nat × α → Prop) (m : SMap α) (k : Nat) (hm : ∀ e ∈ m, P e) : ∀ e ∈ smErase m k, P e := by
  induction m with
  | nil => intro e he; cases he
  | cons x r ih =>
    obtain ⟨i, w⟩ := x
    intro e he
    unfold smErase at he
    split at he
    · exact ih (fun e he => hm e (List.mem_cons_of_mem _ he)) e he
    · rcases List.mem_cons.mp he with rfl | he
      · exact hm _ (List.mem_cons_self ..)
      · exact ih (fun e he => hm e (List.mem_cons_of_mem _ he)) e he

theorem filter_sorted {α : Type} (p : Nat × α → Bool) (m : SMap α) (hs : smSorted m = true) :
    smSorted (m.filter p) = true ∧ ∀ j, smBelow j m = true → smBelow j (m.filter p) = true := by
  induction m with
  | nil => exact ⟨rfl, fun _ h => h⟩
  | cons x r ih =>
    obtain ⟨i, w⟩ := x
    rw [smSorted_cons, Bool.and_eq_true] at hs
    rw [List.filter_cons]
    split
    · refine ⟨?_, fun j hj => by simpa [smBelow] using hj⟩
      rw [smSorted_cons, (ih hs.2).1, (ih hs.2).2 i hs.1]; rfl
    · refine ⟨(ih hs.2).1, fun j hj => (ih hs.2).2 j (smBelow_trans j i r hs.1 (by simpa [smBelow] using hj))⟩

/-- A key outside a written stretch reads as before. -/
theorem bmGet_bmWrite_out (bs : List Nat) : ∀ (m : SMap (BitVec 8)) (k j : Nat), (j < k ∨ k + bs.length ≤ j) →
    bmGet (bmWrite m k bs) j = bmGet m j := by
  induction bs with
  | nil => intro m k j _; rfl
  | cons b r ih =>
    intro m k j hj
    simp only [List.length_cons] at hj
    rw [bmWrite, ih _ _ _ (by omega), bmGet, smGet_smSet, if_neg (by omega), ← bmGet]

/-- A key inside a written stretch reads as written. -/
theorem bmGet_bmWrite_in (bs : List Nat) : ∀ (m : SMap (BitVec 8)) (k i : Nat), (hi : i < bs.length) →
    bmGet (bmWrite m k bs) (k + i) = bs[i] % 256 := by
  induction bs with
  | nil => intro m k i hi; cases hi
  | cons b r ih =>
    intro m k i hi
    rw [bmWrite]
    cases i with
    | zero => rw [bmGet_bmWrite_out _ _ _ _ (by omega), bmGet, smGet_smSet]; simp
    | succ i =>
      have := ih (smSet 0 m k (BitVec.ofNat 8 b)) (k + 1) i (by simpa using hi)
      rw [show k + (i + 1) = k + 1 + i by omega, this]
      rfl

end Sys2Proof.Machine
end

