-- ==== Sys2Proof/Laws/Memory.lean ====
section
/-! SUPPORT. Laws of the device map: every operation keeps its canonical form, a byte written reads back, every other byte stays. -/
namespace Sys2Proof.Machine

theorem cellAt_eq (cs : List Host.Cell) (a : Nat) : cellAt cs a = (smGet (none : Option Nat) (cs.map (fun c => (c.1, some c.2.toNat))) a) := by
  induction cs with
  | nil => rfl
  | cons c r ih => obtain ⟨i, v⟩ := c; simp only [cellAt, List.map_cons, smGet, ih]

theorem cellAt_smPut (cs : List Host.Cell) (k j : Nat) (v : BitVec 8) :
    cellAt (smPut cs k v) j = if j = k then some v.toNat else cellAt cs j := by
  induction cs with
  | nil => simp only [smPut, cellAt, eq_comm]
  | cons e r ih =>
    obtain ⟨i, w⟩ := e
    unfold smPut
    split
    · simp only [cellAt, eq_comm (a := k)]
    · split
      · rename_i _ hk
        subst hk
        simp only [cellAt, eq_comm (a := i)]
        split <;> simp_all
      · simp only [cellAt, ih]
        split
        · rename_i _ hne he
          subst he
          simp [hne]
        · rfl

theorem cellAt_smErase (cs : List Host.Cell) (k j : Nat) : cellAt (smErase cs k) j = if j = k then none else cellAt cs j := by
  induction cs with
  | nil => simp [smErase, cellAt]
  | cons e r ih =>
    obtain ⟨i, w⟩ := e
    unfold smErase
    split
    · rename_i hk
      subst hk
      rw [ih]
      split
      · rfl
      · rename_i hj; simp [cellAt, Ne.symm hj]
    · rename_i hk
      simp only [cellAt, ih]
      split
      · rename_i he; subst he; simp [hk]
      · rfl

theorem Mem.wf_iff (m : Mem) :
    m.wf = true ↔ smSorted m.cells = true ∧ ∀ c ∈ m.cells, ¬(layerOf m.layers c.1 = none ∧ c.2 = 0) := by
  simp only [Mem.wf, Bool.and_eq_true, List.all_eq_true, Bool.not_eq_true', Bool.and_eq_false_iff, decide_eq_false_iff_not]
  constructor
  · rintro ⟨h, k⟩; exact ⟨h, fun c hc hx => (k c hc).elim (fun g => g hx.1) (fun g => g hx.2)⟩
  · rintro ⟨h, k⟩
    refine ⟨h, fun c hc => ?_⟩
    by_cases hl : layerOf m.layers c.1 = none
    · exact .inr (fun h0 => k c hc ⟨hl, h0⟩)
    · exact .inl hl

theorem Mem.write_layers (m : Mem) (a v : Nat) : (m.write a v).layers = m.layers := by unfold Mem.write; split <;> rfl

/-- A write keeps the canonical form. -/
theorem Mem.write_wf (m : Mem) (a v : Nat) (h : m.wf = true) : (m.write a v).wf = true := by
  rw [Mem.wf_iff] at *
  unfold Mem.write
  split
  · exact ⟨(smErase_sorted _ _ h.1).1, smErase_all (fun c => ¬(layerOf m.layers c.1 = none ∧ c.2 = 0)) m.cells a h.2⟩
  · rename_i hn
    refine ⟨smPut_sorted _ _ _ h.1, smPut_all (fun c => ¬(layerOf m.layers c.1 = none ∧ c.2 = 0)) m.cells a _ h.2 ?_⟩
    rintro ⟨hl, h0⟩
    refine hn ⟨hl, ?_⟩
    have := congrArg BitVec.toNat h0
    simpa using this

theorem Mem.writeN_wf (bs : List Nat) : ∀ (m : Mem) (a : Nat), m.wf = true → (m.writeN a bs).wf = true := by
  induction bs with
  | nil => intro m a h; exact h
  | cons b r ih => intro m a h; exact ih _ _ (m.write_wf a b h)

theorem psWriteMem_wf (p : Nat) (bs : List Nat) : ∀ (m : Mem) (a : Nat), m.wf = true → (psWriteMem p m a bs).wf = true := by
  induction bs with
  | nil => intro m a h; exact h
  | cons b r ih => intro m a h; exact ih _ _ (m.write_wf _ b h)

/-- The newest layer over an address outside a stretch does not change when layers inside the stretch go. -/
theorem layerOf_filter (ls : List Layer) (lo hi a : Nat) (h : ¬(lo ≤ a ∧ a < hi)) :
    layerOf (ls.filter (fun l => !(decide (lo ≤ l.lo) && decide (l.hi ≤ hi)))) a = layerOf ls a := by
  induction ls with
  | nil => rfl
  | cons l r ih =>
    rw [List.filter_cons]
    split
    · simp only [layerOf, ih]
    · rename_i hb
      simp at hb
      rw [ih]
      simp only [layerOf]
      rw [if_neg]
      simp only [Bool.and_eq_true, decide_eq_true_eq]
      rintro ⟨h1, h2⟩
      exact h ⟨Nat.le_trans hb.1 h1, Nat.lt_of_lt_of_le h2 hb.2⟩

theorem layerOf_blank (m : Mem) (lo hi a : Nat) (seed : Option Nat) (h : ¬(lo ≤ a ∧ a < hi)) :
    layerOf (m.blank lo hi seed).layers a = layerOf m.layers a := by
  unfold Mem.blank
  simp only [layerOf]
  rw [if_neg (by simpa using h), layerOf_filter m.layers lo hi a h]

/-- A stretch blanked keeps the canonical form. -/
theorem Mem.blank_wf (m : Mem) (lo hi : Nat) (seed : Option Nat) (h : m.wf = true) : (m.blank lo hi seed).wf = true := by
  rw [Mem.wf_iff] at *
  refine ⟨(filter_sorted _ _ h.1).1, fun c hc => ?_⟩
  have hc' : c ∈ m.cells ∧ ¬(lo ≤ c.1 ∧ c.1 < hi) := by
    have := List.mem_filter.mp hc
    refine ⟨this.1, ?_⟩
    have := this.2
    simp at this
    omega
  rw [layerOf_blank m lo hi c.1 seed hc'.2]
  exact h.2 c hc'.1

/-- A byte reads as written, modulo 256; every other byte as before. -/
theorem Mem.read_write (m : Mem) (a v b : Nat) : (m.write a v).read b = if b = a then v % 256 else m.read b := by
  unfold Mem.write
  split
  · rename_i hz
    unfold Mem.read
    rw [cellAt_smErase]
    split
    · rename_i hb; subst hb; simp [Mem.background, hz.1, hz.2]
    · rfl
  · unfold Mem.read
    rw [cellAt_smPut]
    split
    · simp
    · rfl

/-- A byte outside a written stretch reads as before. -/
theorem Mem.read_writeN_out (bs : List Nat) : ∀ (m : Mem) (a b : Nat), (b < a ∨ a + bs.length ≤ b) → (m.writeN a bs).read b = m.read b := by
  induction bs with
  | nil => intro m a b _; rfl
  | cons x r ih =>
    intro m a b hb
    simp only [List.length_cons] at hb
    rw [Mem.writeN, ih _ _ _ (by omega), Mem.read_write m a x b, if_neg (by omega)]

/-- A byte inside a written stretch reads as written. -/
theorem Mem.read_writeN_in (bs : List Nat) : ∀ (m : Mem) (a i : Nat), (hi : i < bs.length) → (m.writeN a bs).read (a + i) = bs[i] % 256 := by
  induction bs with
  | nil => intro m a i hi; cases hi
  | cons x r ih =>
    intro m a i hi
    rw [Mem.writeN]
    cases i with
    | zero => rw [Mem.read_writeN_out _ _ _ _ (by omega), Mem.read_write m a x _]; simp
    | succ i =>
      have := ih (m.write a x) (a + 1) i (by simpa using hi)
      rw [show a + (i + 1) = a + 1 + i by omega, this]
      rfl

/-- A byte outside a blanked stretch reads as before. -/
theorem Mem.read_blank_out (m : Mem) (lo hi b : Nat) (seed : Option Nat) (h : m.wf = true) (hb : ¬(lo ≤ b ∧ b < hi)) :
    (m.blank lo hi seed).read b = m.read b := by
  have hs := ((Mem.wf_iff m).mp h).1
  have hc : cellAt (m.blank lo hi seed).cells b = cellAt m.cells b := by
    show cellAt (m.cells.filter _) b = _
    clear h
    generalize m.cells = cs at hs
    induction cs with
    | nil => rfl
    | cons c r ih =>
      obtain ⟨i, w⟩ := c
      rw [smSorted_cons, Bool.and_eq_true] at hs
      rw [List.filter_cons]
      split
      · simp only [cellAt, ih hs.2]
      · rename_i hx
        have hne : i ≠ b := by
          rintro rfl
          simp [hb] at hx
        simp only [cellAt, if_neg hne, ih hs.2]
  unfold Mem.read Mem.background
  rw [hc, layerOf_blank m lo hi b seed hb]

/-- Layers clipped to a stretch say nothing outside it. -/
theorem layerOf_clip (ls rs : List Layer) (lo hi a : Nat) (h : ¬(lo ≤ a ∧ a < hi)) :
    layerOf (ls.map (fun l => ({ l with lo := max l.lo lo, hi := min l.hi hi } : Layer)) ++ rs) a = layerOf rs a := by
  induction ls with
  | nil => rfl
  | cons l r ih =>
    simp only [List.map_cons, List.cons_append, layerOf, ih]
    rw [if_neg]
    simp only [Bool.and_eq_true, decide_eq_true_eq]
    omega

theorem foldl_write_wf (cs : List Host.Cell) : ∀ (m : Mem), m.wf = true → (cs.foldl (fun mm c => mm.write c.1 c.2.toNat) m).wf = true := by
  induction cs with
  | nil => intro m h; exact h
  | cons c r ih => intro m h; exact ih _ (m.write_wf _ _ h)

end Sys2Proof.Machine
end

