-- ==== Sys2Proof/Laws/MemoryOps.lean ====
section
/-! SUPPORT. The device map keeps its canonical form under a step's undo copies, a slice put back, a copy's blocks and rows. -/
namespace Sys2Proof.Machine

theorem wf_foldl {α : Type} {l : List α} {f : Mem → α → Mem} {m : Mem} (h : m.wf = true) (hf : ∀ e x, e.wf = true → (f e x).wf = true) :
    (l.foldl f m).wf = true := by
  induction l generalizing m with
  | nil => exact h
  | cons x r ih => exact ih (hf m x h)

theorem undoStep_wf (m : Mem) (st : Step) (h : m.wf = true) : (undoStep m st).wf = true :=
  wf_foldl h (fun e x he => Mem.writeN_wf x.2 e x.1 he)

/-- A slice put back keeps the canonical form, whatever the slice is. -/
theorem Mem.paste_wf (m : Mem) (lo hi : Nat) (s : Mem) (h : m.wf = true) : (m.paste lo hi s).wf = true := by
  unfold Mem.paste
  refine foldl_write_wf _ _ ?_
  have hb := (Mem.wf_iff _).mp (Mem.blank_wf m lo hi none h)
  rw [Mem.wf_iff]
  refine ⟨hb.1, fun c hc => ?_⟩
  have hout : ¬(lo ≤ c.1 ∧ c.1 < hi) := by
    have := (List.mem_filter.mp hc).2
    simp at this
    omega
  show ¬(layerOf (_ ++ _) c.1 = none ∧ c.2 = 0)
  rw [layerOf_clip _ _ _ _ _ hout]
  exact hb.2 c hc

theorem copyBytes_wf (n : Nat) : ∀ (m : Mem) (src dst : Nat), m.wf = true → (copyBytes n m src dst).wf = true := by
  induction n with
  | zero => intro m _ _ h; exact h
  | succ n ih => intro m src dst h; exact ih _ _ _ (m.write_wf _ _ h)

theorem putBlocks_wf (bs : List (Nat × Nat)) : ∀ (xs : List Nat) (m : Mem), m.wf = true → (putBlocks bs xs m).wf = true := by
  induction bs with
  | nil => intro _ m h; exact h
  | cons b r ih => intro xs m h; exact ih _ _ (Mem.writeN_wf _ m _ h)

theorem memAfter_wf (d : Device) (j n : Nat) (h : d.mem.wf = true) : (d.memAfter j n).wf = true :=
  wf_foldl h (fun e x he => undoStep_wf e x he)

end Sys2Proof.Machine
end

