-- ==== Sys2Proof/Laws/LegalBase.lean ====
section
/-! SUPPORT. The steps from which every operation's lemma that it keeps a legal device legal is put together. -/
namespace Sys2Proof.Machine

/-- A device that differs from another in none of the parts that legality reads. -/
theorem Device.legal_mk {z : Kept} {d : Device} {glb sl pwz bit i3c inp pwr ter eng chan port fab eth quy med grd grdc pan job out free issued} :
    (Device.mk d.fuses glb sl d.sec pwz bit i3c inp d.tide pwr d.terp ter eng chan port fab eth quy med grd grdc d.mem pan
      job out free issued).Legal z ↔ d.Legal z :=
  ⟨fun h => ⟨h.fused, h.clock, h.alarm, h.floor, h.power, h.memory⟩, fun h => ⟨h.fused, h.clock, h.alarm, h.floor, h.power, h.memory⟩⟩

/-- The same with another Tide of the same nanoseconds and another alarm state of the same level. -/
theorem Device.legal_any {z : Kept} {d : Device} {glb sl sec pwz bit i3c inp tide pwr ter eng chan port fab eth quy med grd grdc pan job out free issued}
    (ht : tide.ns = d.tide.ns) (hs : sec.level = d.sec.level) :
    (Device.mk d.fuses glb sl sec pwz bit i3c inp tide pwr d.terp ter eng chan port fab eth quy med grd grdc d.mem pan job out free issued).Legal z
      ↔ d.Legal z := by
  constructor <;> intro h
  · exact ⟨h.fused, ht ▸ h.clock, by have := h.alarm; simp only [Sec.legal, hs] at this ⊢; exact this, hs ▸ h.floor, h.power, h.memory⟩
  · exact ⟨h.fused, show tide.ns < _ from ht ▸ h.clock, by have := h.alarm; simp only [Sec.legal, hs] at this ⊢; exact this, show z.level ≤ sec.level from hs.symm ▸ h.floor, h.power, h.memory⟩

/-- The same with every Terrace's power state mapped to one of the same allowances and gain. -/
theorem Device.legal_map {z : Kept} {d : Device} {f : TerPower → TerPower}
    {glb sl sec pwz bit i3c inp tide pwr ter eng chan port fab eth quy med grd grdc pan job out free issued}
    (ht : tide.ns = d.tide.ns) (hs : sec.level = d.sec.level) (hf : ∀ x : TerPower, x.legal → (f x).legal) (h : d.Legal z) :
    (Device.mk d.fuses glb sl sec pwz bit i3c inp tide pwr (d.terp.map f) ter
      eng chan port fab eth quy med grd grdc d.mem pan job out free issued).Legal z :=
  ⟨h.fused, show tide.ns < _ from ht ▸ h.clock, by have := h.alarm; simp only [Sec.legal, hs] at this ⊢; exact this, show z.level ≤ sec.level from hs.symm ▸ h.floor,
    fun t ht => by rw [Vector.getElem_map]; exact hf _ (h.power t ht), h.memory⟩

/-- The same with another device map in canonical form. -/
theorem Device.setMem_legal {z : Kept} (d : Device) (m : Mem) (h : d.Legal z) (hm : m.wf = true) : (d.setMem m).Legal z :=
  ⟨h.fused, h.clock, h.alarm, h.floor, h.power, hm⟩

/-- The same with another Tide below one second. -/
theorem Device.legal_tide {z : Kept} {d : Device} {glb sl pwz bit i3c inp tide pwr ter eng chan port fab eth quy med grd grdc pan job out free issued}
    (ht : tide.ns < 1000000000) (h : d.Legal z) :
    (Device.mk d.fuses glb sl d.sec pwz bit i3c inp tide pwr d.terp ter eng chan port fab eth quy med grd grdc d.mem pan job out free issued).Legal z :=
  ⟨h.fused, ht, h.alarm, h.floor, h.power, h.memory⟩

/-- The same with another alarm state at a legal level. -/
theorem Device.legal_sec {z : Kept} {d : Device} {glb sl sec pwz bit i3c inp tide pwr ter eng chan port fab eth quy med grd grdc pan job out free issued}
    (hs : sec.legal) (hf : z.level ≤ sec.level) (ht : tide.ns = d.tide.ns) (h : d.Legal z) :
    (Device.mk d.fuses glb sl sec pwz bit i3c inp tide pwr d.terp ter eng chan port fab eth quy med grd grdc d.mem pan job out free issued).Legal z :=
  ⟨h.fused, show tide.ns < _ from ht ▸ h.clock, hs, hf, h.power, h.memory⟩

theorem legal_ite {z : Kept} {c : Prop} [Decidable c] {a b : Device} (ha : a.Legal z) (hb : b.Legal z) : (if c then a else b).Legal z := by
  split
  · exact ha
  · exact hb

theorem legal_foldl {α : Type} {z : Kept} {l : List α} {f : Device → α → Device} {d : Device} (h : d.Legal z)
    (hf : ∀ e x, e.Legal z → (f e x).Legal z) : (l.foldl f d).Legal z := by
  induction l generalizing d with
  | nil => exact h
  | cons x r ih => exact ih (hf d x h)

end Sys2Proof.Machine
end

