-- ==== Sys2Proof/Laws/LegalOps.lean ====
section
/-! SUPPORT. Every operation of Machine/Ops.lean keeps a legal device legal (Safety.lean). -/
set_option linter.unusedTactic false
set_option linter.unreachableTactic false
set_option linter.unusedVariables false
set_option linter.unusedSimpArgs false
namespace Sys2Proof.Machine

theorem Device.updPan_legal {z : Kept} (d : Device) (p : Nat) (f : Pan → Pan) (h_d : d.Legal z) :
    (Device.updPan d p f).Legal z := by
  unfold Device.updPan
  try dsimp only
  repeat' (first | with_reducible assumption | intro _ | with_reducible apply legal_foldl | with_reducible apply legal_ite | simp only [Device.legal_mk]
                    | simp only [Device.legal_any] | split)

theorem Device.updJob_legal {z : Kept} (d : Device) (j : Nat) (f : JobSlot → JobSlot) (h_d : d.Legal z) :
    (Device.updJob d j f).Legal z := by
  unfold Device.updJob
  try dsimp only
  repeat' (first | with_reducible assumption | intro _ | with_reducible apply legal_foldl | with_reducible apply legal_ite | simp only [Device.legal_mk]
                    | simp only [Device.legal_any] | split)

theorem Device.updTer_legal {z : Kept} (d : Device) (t : Nat) (f : Terrace → Terrace) (h_d : d.Legal z) :
    (Device.updTer d t f).Legal z := by
  unfold Device.updTer
  try dsimp only
  repeat' (first | with_reducible assumption | intro _ | with_reducible apply legal_foldl | with_reducible apply legal_ite | simp only [Device.legal_mk]
                    | simp only [Device.legal_any] | split)

theorem Device.updEng_legal {z : Kept} (d : Device) (t : Nat) (f : Engines → Engines) (h_d : d.Legal z) :
    (Device.updEng d t f).Legal z := by
  unfold Device.updEng
  try dsimp only
  repeat' (first | with_reducible assumption | intro _ | with_reducible apply legal_foldl | with_reducible apply legal_ite | simp only [Device.legal_mk]
                    | simp only [Device.legal_any] | split)

theorem Device.updTerp_legal {z : Kept} (d : Device) (t : Nat) (f : TerPower → TerPower) (h : d.Legal z)
    (hf : ∀ x : TerPower, x.legal → (f x).legal) : (d.updTerp t f).Legal z :=
  ⟨h.fused, h.clock, h.alarm, h.floor, vmod_all TerPower.legal d.terp t f h.power hf, h.memory⟩

theorem Device.updChan_legal {z : Kept} (d : Device) (c : Nat) (f : Channel → Channel) (h_d : d.Legal z) :
    (Device.updChan d c f).Legal z := by
  unfold Device.updChan
  try dsimp only
  repeat' (first | with_reducible assumption | intro _ | with_reducible apply legal_foldl | with_reducible apply legal_ite | simp only [Device.legal_mk]
                    | simp only [Device.legal_any] | split)

theorem Device.updPort_legal {z : Kept} (d : Device) (b : Nat) (f : Port → Port) (h_d : d.Legal z) :
    (Device.updPort d b f).Legal z := by
  unfold Device.updPort
  try dsimp only
  repeat' (first | with_reducible assumption | intro _ | with_reducible apply legal_foldl | with_reducible apply legal_ite | simp only [Device.legal_mk]
                    | simp only [Device.legal_any] | split)


theorem Device.writeN_legal {z : Kept} (d : Device) (a : Nat) (bs : List Nat) (h : d.Legal z) : (d.writeN a bs).Legal z :=
  ⟨h.fused, h.clock, h.alarm, h.floor, h.power, Mem.writeN_wf bs d.mem a h.memory⟩

theorem Device.issue_legal {z : Kept} (d : Device) (h : d.Legal z) : d.issue.2.Legal z := by
  unfold Device.issue
  simp only [Device.legal_mk]; exact h

theorem Device.draw_legal {z : Kept} {d e : Device} {n : Nat} (hq : d.draw = (n, e)) (h : d.Legal z) : e.Legal z := by
  cases hq; exact Device.legal_mk.mpr h

theorem Device.draw_snd_legal {z : Kept} (d : Device) (h : d.Legal z) : d.draw.2.Legal z := Device.legal_mk.mpr h

theorem Device.undefine_legal {z : Kept} (d : Device) (lo hi : Nat) (h : d.Legal z) : (d.undefine lo hi).Legal z :=
  ⟨h.fused, h.clock, h.alarm, h.floor, h.power, Mem.blank_wf d.mem lo hi _ h.memory⟩

theorem Device.psWrite_legal {z : Kept} (d : Device) (p a : Nat) (bs : List Nat) (h : d.Legal z) : (d.psWrite p a bs).Legal z :=
  ⟨h.fused, h.clock, h.alarm, h.floor, h.power, psWriteMem_wf p bs d.mem a h.memory⟩

theorem Device.markDirty_legal {z : Kept} (d : Device) (a : Nat) (n : Nat) (h_d : d.Legal z) :
    (Device.markDirty d a n).Legal z := by
  unfold Device.markDirty
  try dsimp only
  repeat' (first | with_reducible assumption | intro _ | with_reducible apply Device.updTer_legal | with_reducible apply legal_foldl
                    | with_reducible apply legal_ite | simp only [Device.legal_mk] | simp only [Device.legal_any] | split)

theorem Device.store_legal {z : Kept} (d : Device) (a : Nat) (bs : List Nat) (h_d : d.Legal z) :
    (Device.store d a bs).Legal z := by
  unfold Device.store
  try dsimp only
  repeat' (first | with_reducible assumption | intro _ | with_reducible apply Device.writeN_legal | with_reducible apply Device.markDirty_legal
                    | with_reducible apply legal_foldl | with_reducible apply legal_ite | simp only [Device.legal_mk] | simp only [Device.legal_any] | split)

theorem Tide.setNow_ns (t : Tide) (n : Nat) : (t.setNow n).ns < 1000000000 := Nat.mod_lt _ (by decide)

theorem Tide.tick_ns (t : Tide) : t.tick.ns < 1000000000 := Tide.setNow_ns _ _

/-- The tick of an idle step keeps a legal device legal. -/
theorem tideTick_legal {z : Kept} (d : Device) (h : d.Legal z) : (tideTick d).Legal z := by
  unfold tideTick
  split
  · exact ⟨h.fused, Tide.tick_ns d.tide, h.alarm, h.floor, h.power, h.memory⟩
  · exact h

theorem Device.send_legal {z : Kept} (d : Device) (o : Out) (h_d : d.Legal z) :
    (Device.send d o).Legal z := by
  unfold Device.send
  try dsimp only
  repeat' (first | with_reducible assumption | intro _ | with_reducible apply legal_foldl | with_reducible apply legal_ite | simp only [Device.legal_mk]
                    | simp only [Device.legal_any] | split)

end Sys2Proof.Machine
end

