-- ==== Sys2Proof/Laws/LegalDesc.lean ====
section
/-! SUPPORT. Every operation of Machine/Desc.lean keeps a legal device legal (Safety.lean). -/
set_option linter.unusedTactic false
set_option linter.unreachableTactic false
set_option linter.unusedVariables false
set_option linter.unusedSimpArgs false
namespace Sys2Proof.Machine

theorem parityHit_legal {z : Kept} (d : Device) (p : Nat) (a : Nat) (h_d : d.Legal z) :
    (parityHit d p a).Legal z := by
  unfold parityHit
  try dsimp only
  repeat' (first | with_reducible assumption | intro _ | with_reducible apply Device.updPan_legal | with_reducible apply legal_foldl
                    | with_reducible apply legal_ite | simp only [Device.legal_mk] | simp only [Device.legal_any] | split)

theorem Device.panAccess_legal {z : Kept} (d : Device) (p : Nat) (hit : Option Nat) (spans : List (Nat × Nat)) (go : Device → Device) (h_d : d.Legal z) (h_go : ∀ (x0 : Device), x0.Legal z → (go x0).Legal z) :
    (Device.panAccess d p hit spans go).Legal z := by
  unfold Device.panAccess
  try dsimp only
  repeat' (first | with_reducible assumption | intro _ | with_reducible apply h_go | with_reducible apply parityHit_legal
                    | with_reducible apply legal_foldl | with_reducible apply legal_ite | simp only [Device.legal_mk] | simp only [Device.legal_any] | split)

end Sys2Proof.Machine
end

