-- ==== Sys2Proof/Laws/LegalFlows.lean ====
section
/-! SUPPORT. Every operation of Machine/Flows.lean keeps a legal device legal (Safety.lean). -/
set_option linter.unusedTactic false
set_option linter.unreachableTactic false
set_option linter.unusedVariables false
set_option linter.unusedSimpArgs false
namespace Sys2Proof.Machine

theorem Device.updFlow_legal {z : Kept} (d : Device) (id : Nat) (g : Flow → Flow) (h_d : d.Legal z) :
    (Device.updFlow d id g).Legal z := by
  unfold Device.updFlow
  try dsimp only
  repeat' (first | with_reducible assumption | intro _ | with_reducible apply legal_foldl | with_reducible apply legal_ite | simp only [Device.legal_mk]
                    | simp only [Device.legal_any] | split)

theorem Device.dropFlow_legal {z : Kept} (d : Device) (id : Nat) (h_d : d.Legal z) :
    (Device.dropFlow d id).Legal z := by
  unfold Device.dropFlow
  try dsimp only
  repeat' (first | with_reducible assumption | intro _ | with_reducible apply legal_foldl | with_reducible apply legal_ite | simp only [Device.legal_mk]
                    | simp only [Device.legal_any] | split)

theorem Device.pushFlow_legal {z : Kept} (d0 : Device) (id : Nat) (h_d0 : d0.Legal z) :
    (Device.pushFlow d0 id).Legal z := by
  unfold Device.pushFlow
  try dsimp only
  repeat' (first | with_reducible assumption | intro _ | with_reducible apply Device.send_legal | with_reducible apply Device.updFlow_legal
                    | with_reducible apply legal_foldl | with_reducible apply legal_ite | simp only [Device.legal_mk] | simp only [Device.legal_any] | split)

theorem Device.pfcDrain_legal {z : Kept} (d : Device) (h_d : d.Legal z) :
    (Device.pfcDrain d).Legal z := by
  unfold Device.pfcDrain
  try dsimp only
  repeat' (first | with_reducible assumption | intro _ | with_reducible apply Device.send_legal | with_reducible apply legal_foldl
                    | with_reducible apply legal_ite | simp only [Device.legal_mk] | simp only [Device.legal_any] | split)

theorem Device.pushAll_legal {z : Kept} (d : Device) (h_d : d.Legal z) :
    (Device.pushAll d).Legal z := by
  unfold Device.pushAll
  try dsimp only
  repeat' (first | with_reducible assumption | intro _ | with_reducible apply Device.send_legal | with_reducible apply Device.pushFlow_legal
                    | with_reducible apply legal_foldl | with_reducible apply legal_ite | simp only [Device.legal_mk] | simp only [Device.legal_any] | split)

theorem Device.control_legal {z : Kept} (d : Device) (flow : Nat) (typ : Nat) (flags : Nat) (data : List Nat) (h_d : d.Legal z) :
    (Device.control d flow typ flags data).Legal z := by
  unfold Device.control
  try dsimp only
  repeat' (first | with_reducible assumption | intro _ | with_reducible apply Device.send_legal | with_reducible apply legal_foldl
                    | with_reducible apply legal_ite | simp only [Device.legal_mk] | simp only [Device.legal_any] | split)

theorem Device.rekeyFlow_legal {z : Kept} (d : Device) (id : Nat) (h_d : d.Legal z) :
    (Device.rekeyFlow d id).Legal z := by
  unfold Device.rekeyFlow
  try dsimp only
  repeat' (first | with_reducible assumption | intro _ | with_reducible apply Device.send_legal | with_reducible apply Device.dropFlow_legal
                    | with_reducible apply Device.control_legal | with_reducible apply legal_foldl | with_reducible apply legal_ite | simp only [Device.legal_mk]
                    | simp only [Device.legal_any] | split)

theorem Device.queueMsg_legal {z : Kept} (d : Device) (flow : Nat) (op : Nat) (cls : Nat) (ps : List (Nat × Nat × List Nat)) (h_d : d.Legal z) :
    (Device.queueMsg d flow op cls ps).Legal z := by
  unfold Device.queueMsg
  try dsimp only
  repeat' (first | with_reducible assumption | intro _ | with_reducible apply Device.updFlow_legal | with_reducible apply Device.pushFlow_legal
                    | with_reducible apply Device.rekeyFlow_legal | with_reducible apply legal_foldl | with_reducible apply legal_ite | simp only [Device.legal_mk]
                    | simp only [Device.legal_any] | split)

theorem Device.transmit_legal {z : Kept} (d : Device) (flow : Nat) (op : Nat) (cls : Nat) (addr : Nat) (bytes : List Nat) (h_d : d.Legal z) :
    (Device.transmit d flow op cls addr bytes).Legal z := by
  unfold Device.transmit
  try dsimp only
  repeat' (first | with_reducible assumption | intro _ | with_reducible apply Device.queueMsg_legal | with_reducible apply legal_foldl
                    | with_reducible apply legal_ite | simp only [Device.legal_mk] | simp only [Device.legal_any] | split)

theorem Device.askHost_legal {z : Kept} (d : Device) (flow : Nat) (cls : Nat) (addr : Nat) (len : Nat) (h_d : d.Legal z) :
    (Device.askHost d flow cls addr len).Legal z := by
  unfold Device.askHost
  try dsimp only
  repeat' (first | with_reducible assumption | intro _ | with_reducible apply Device.send_legal | with_reducible apply Device.queueMsg_legal
                    | with_reducible apply legal_foldl | with_reducible apply legal_ite | simp only [Device.legal_mk] | simp only [Device.legal_any] | split)

end Sys2Proof.Machine
end

