-- ==== Sys2Proof/Laws/LegalReport.lean ====
section
/-! SUPPORT. Every operation of Machine/Report.lean keeps a legal device legal (Safety.lean). -/
set_option linter.unusedTactic false
set_option linter.unreachableTactic false
set_option linter.unusedVariables false
set_option linter.unusedSimpArgs false
namespace Sys2Proof.Machine

theorem Device.logBytes_legal {z : Kept} (d : Device) (sev : Nat) (bytes : List Nat) (h_d : d.Legal z) :
    (Device.logBytes d sev bytes).Legal z := by
  unfold Device.logBytes
  try dsimp only
  repeat' (first | with_reducible assumption | intro _ | with_reducible apply legal_foldl | with_reducible apply legal_ite | simp only [Device.legal_mk]
                    | simp only [Device.legal_any] | split)

theorem Device.logRaw_legal {z : Kept} (d : Device) (src : Nat) (ev : Nat) (sev : Nat) (job : Nat) (data : List Nat) (h_d : d.Legal z) :
    (Device.logRaw d src ev sev job data).Legal z := by
  unfold Device.logRaw
  try dsimp only
  repeat' (first | with_reducible assumption | intro _ | with_reducible apply Device.logBytes_legal | with_reducible apply legal_foldl
                    | with_reducible apply legal_ite | simp only [Device.legal_mk] | simp only [Device.legal_any] | split)

theorem Device.notice_legal {z : Kept} (d : Device) (flow : Nat) (addr : Nat) (bytes : List Nat) (h_d : d.Legal z) :
    (Device.notice d flow addr bytes).Legal z := by
  unfold Device.notice
  try dsimp only
  repeat' (first | with_reducible assumption | intro _ | with_reducible apply Device.send_legal | with_reducible apply Device.transmit_legal
                    | with_reducible apply legal_foldl | with_reducible apply legal_ite | simp only [Device.legal_mk] | simp only [Device.legal_any] | split)

theorem Device.jobNotice_legal {z : Kept} (d : Device) (j : Nat) (st : Nat) (kind : Nat) (body : List Nat) (h_d : d.Legal z) :
    (Device.jobNotice d j st kind body).Legal z := by
  unfold Device.jobNotice
  try dsimp only
  repeat' (first | with_reducible assumption | intro _ | with_reducible apply Device.notice_legal | with_reducible apply legal_foldl
                    | with_reducible apply legal_ite | simp only [Device.legal_mk] | simp only [Device.legal_any] | split)

theorem Device.mgmtNotice_legal {z : Kept} (d : Device) (rec : List Nat) (h_d : d.Legal z) :
    (Device.mgmtNotice d rec).Legal z := by
  unfold Device.mgmtNotice
  try dsimp only
  repeat' (first | with_reducible assumption | intro _ | with_reducible apply Device.notice_legal | with_reducible apply legal_foldl
                    | with_reducible apply legal_ite | simp only [Device.legal_mk] | simp only [Device.legal_any] | split)

theorem Device.logEvent_legal {z : Kept} (d : Device) (src : Nat) (ev : Nat) (sev : Nat) (job : Option Nat) (data : List Nat) (h_d : d.Legal z) :
    (Device.logEvent d src ev sev job data).Legal z := by
  unfold Device.logEvent
  try dsimp only
  repeat' (first | with_reducible assumption | intro _ | with_reducible apply Device.logBytes_legal | with_reducible apply Device.jobNotice_legal
                    | with_reducible apply Device.mgmtNotice_legal | with_reducible apply legal_foldl | with_reducible apply legal_ite | simp only [Device.legal_mk]
                    | simp only [Device.legal_any] | split)

theorem Device.mbxWrite_legal {z : Kept} (d : Device) (m : Nat) (off : Nat) (bs : List Nat) (h_d : d.Legal z) :
    (Device.mbxWrite d m off bs).Legal z := by
  unfold Device.mbxWrite
  try dsimp only
  repeat' (first | with_reducible assumption | intro _ | with_reducible apply legal_foldl | with_reducible apply legal_ite | simp only [Device.legal_mk]
                    | simp only [Device.legal_any] | split)

theorem Device.setOwn_legal {z : Kept} (d : Device) (m : Nat) (st : Nat) (h_d : d.Legal z) :
    (Device.setOwn d m st).Legal z := by
  unfold Device.setOwn
  try dsimp only
  repeat' (first | with_reducible assumption | intro _ | with_reducible apply Device.mbxWrite_legal | with_reducible apply legal_foldl
                    | with_reducible apply legal_ite | simp only [Device.legal_mk] | simp only [Device.legal_any] | split)

theorem Device.finishOne_legal {z : Kept} (d : Device) (m : Nat) (st : Nat) (result : Nat) (body : List Nat) (h_d : d.Legal z) :
    (Device.finishOne d m st result body).Legal z := by
  unfold Device.finishOne
  try dsimp only
  repeat' (first | with_reducible assumption | intro _ | with_reducible apply Device.notice_legal | with_reducible apply Device.mbxWrite_legal
                    | with_reducible apply Device.setOwn_legal | with_reducible apply legal_foldl | with_reducible apply legal_ite | simp only [Device.legal_mk]
                    | simp only [Device.legal_any] | split)

theorem Device.sweepUnknown_legal {z : Kept} (d : Device) (h_d : d.Legal z) :
    (Device.sweepUnknown d).Legal z := by
  unfold Device.sweepUnknown
  try dsimp only
  repeat' (first | with_reducible assumption | intro _ | with_reducible apply Device.finishOne_legal | with_reducible apply legal_foldl
                    | with_reducible apply legal_ite | simp only [Device.legal_mk] | simp only [Device.legal_any] | split)

theorem Device.finish_legal {z : Kept} (d : Device) (m : Nat) (st : Nat) (result : Nat) (body : List Nat) (h_d : d.Legal z) :
    (Device.finish d m st result body).Legal z := by
  unfold Device.finish
  try dsimp only
  repeat' (first | with_reducible assumption | intro _ | with_reducible apply Device.finishOne_legal | with_reducible apply Device.sweepUnknown_legal
                    | with_reducible apply legal_foldl | with_reducible apply legal_ite | simp only [Device.legal_mk] | simp only [Device.legal_any] | split)

end Sys2Proof.Machine
end

