-- ==== Sys2Proof/Laws/LegalSign.lean ====
section
/-! SUPPORT. Every operation of Machine/Sign.lean keeps a legal device legal (Safety.lean). -/
set_option linter.unusedTactic false
set_option linter.unreachableTactic false
set_option linter.unusedVariables false
set_option linter.unusedSimpArgs false
namespace Sys2Proof.Machine

theorem Device.hssTake_legal {z : Kept} {d e : Device} {i : Nat} (hq : d.hssTake = some (i, e)) (h : d.Legal z) : e.Legal z := by
  unfold Device.hssTake at hq
  dsimp only at hq
  split at hq
  · cases hq
  · cases hq
    split
    · apply Device.logEvent_legal; simp only [Device.legal_mk]; exact h
    · simp only [Device.legal_mk]; exact h

theorem Device.signCheckpoint_legal {z : Kept} (d : Device) (j : Nat) (h : d.Legal z) : (d.signCheckpoint j).Legal z := by
  unfold Device.signCheckpoint
  dsimp only
  split
  · split
    · rename_i heq
      split at heq
      · cases heq
      · apply Device.logEvent_legal
        apply Device.updJob_legal
        simp only [Device.legal_mk]
        exact Device.hssTake_legal heq h
    · exact Device.updJob_legal _ _ _ h
  · exact h

end Sys2Proof.Machine
end

