-- ==== Sys2Proof/Laws/LegalJobs.lean ====
section
/-! SUPPORT. Every operation of Machine/Jobs.lean keeps a legal device legal (Safety.lean). -/
set_option linter.unusedTactic false
set_option linter.unreachableTactic false
set_option linter.unusedVariables false
set_option linter.unusedSimpArgs false
namespace Sys2Proof.Machine

theorem Device.stepNotice_legal {z : Kept} (d : Device) (j : Nat) (st : Step) (status : Nat) (h_d : d.Legal z) :
    (Device.stepNotice d j st status).Legal z := by
  unfold Device.stepNotice
  try dsimp only
  repeat' (first | with_reducible assumption | intro _ | with_reducible apply Device.updJob_legal | with_reducible apply Device.jobNotice_legal
                    | with_reducible apply legal_foldl | with_reducible apply legal_ite | simp only [Device.legal_mk] | simp only [Device.legal_any] | split)

theorem Device.undoOf_legal {z : Kept} (d : Device) (st : Step) (h_d : d.Legal z) :
    (Device.undoOf d st).Legal z := by
  unfold Device.undoOf
  try dsimp only
  repeat' (first | with_reducible assumption | intro _ | with_reducible apply Device.store_legal | with_reducible apply legal_foldl
                    | with_reducible apply legal_ite | simp only [Device.legal_mk] | simp only [Device.legal_any] | split)

theorem Device.undoAll_legal {z : Kept} (d : Device) (j : Nat) (h_d : d.Legal z) :
    (Device.undoAll d j).Legal z := by
  unfold Device.undoAll
  try dsimp only
  repeat' (first | with_reducible assumption | intro _ | with_reducible apply Device.undoOf_legal | with_reducible apply legal_foldl
                    | with_reducible apply legal_ite | simp only [Device.legal_mk] | simp only [Device.legal_any] | split)

theorem Device.freeEntries_legal {z : Kept} (d : Device) (j : Nat) (h_d : d.Legal z) :
    (Device.freeEntries d j).Legal z := by
  unfold Device.freeEntries
  try dsimp only
  repeat' (first | with_reducible assumption | intro _ | with_reducible apply legal_foldl | with_reducible apply legal_ite | simp only [Device.legal_mk]
                    | simp only [Device.legal_any] | split)

theorem Device.dropFabric_legal {z : Kept} (d : Device) (j : Nat) (h_d : d.Legal z) :
    (Device.dropFabric d j).Legal z := by
  unfold Device.dropFabric
  try dsimp only
  repeat' (first | with_reducible assumption | intro _ | with_reducible apply legal_foldl | with_reducible apply legal_ite | simp only [Device.legal_mk]
                    | simp only [Device.legal_any] | split)

theorem Device.releaseWork_legal {z : Kept} (d : Device) (j : Nat) (h_d : d.Legal z) :
    (Device.releaseWork d j).Legal z := by
  unfold Device.releaseWork
  try dsimp only
  repeat' (first | with_reducible assumption | intro _ | with_reducible apply Device.updPan_legal | with_reducible apply Device.dropFabric_legal
                    | with_reducible apply legal_foldl | with_reducible apply legal_ite | simp only [Device.legal_mk] | simp only [Device.legal_any] | split)

theorem Device.discardSteps_legal {z : Kept} (d : Device) (j : Nat) (status : Nat → Nat) (h_d : d.Legal z) :
    (Device.discardSteps d j status).Legal z := by
  unfold Device.discardSteps
  try dsimp only
  repeat' (first | with_reducible assumption | intro _ | with_reducible apply Device.updJob_legal | with_reducible apply Device.stepNotice_legal
                    | with_reducible apply Device.undoAll_legal | with_reducible apply legal_foldl | with_reducible apply legal_ite | simp only [Device.legal_mk]
                    | simp only [Device.legal_any] | split)

theorem Device.answerStop_legal {z : Kept} (d : Device) (j : Nat) (st : Nat) (h_d : d.Legal z) :
    (Device.answerStop d j st).Legal z := by
  unfold Device.answerStop
  try dsimp only
  repeat' (first | with_reducible assumption | intro _ | with_reducible apply Device.updJob_legal | with_reducible apply Device.finish_legal
                    | with_reducible apply legal_foldl | with_reducible apply legal_ite | simp only [Device.legal_mk] | simp only [Device.legal_any] | split)

theorem Device.stopJob_legal {z : Kept} (d : Device) (j : Nat) (status : Nat → Nat) (h_d : d.Legal z) :
    (Device.stopJob d j status).Legal z := by
  unfold Device.stopJob
  try dsimp only
  repeat' (first | with_reducible assumption | intro _ | with_reducible apply Device.updJob_legal | with_reducible apply Device.freeEntries_legal
                    | with_reducible apply Device.releaseWork_legal | with_reducible apply Device.discardSteps_legal | with_reducible apply Device.answerStop_legal
                    | with_reducible apply legal_foldl | with_reducible apply legal_ite | simp only [Device.legal_mk] | simp only [Device.legal_any] | split)

theorem Device.loseJob_legal {z : Kept} (d : Device) (j : Nat) (h_d : d.Legal z) :
    (Device.loseJob d j).Legal z := by
  unfold Device.loseJob
  try dsimp only
  repeat' (first | with_reducible assumption | intro _ | with_reducible apply Device.updJob_legal | with_reducible apply Device.freeEntries_legal
                    | with_reducible apply Device.releaseWork_legal | with_reducible apply legal_foldl | with_reducible apply legal_ite | simp only [Device.legal_mk]
                    | simp only [Device.legal_any] | split)

theorem Device.panFault_legal {z : Kept} (d : Device) (p : Nat) (c : Cause) (st : Nat) (h_d : d.Legal z) :
    (Device.panFault d p c st).Legal z := by
  unfold Device.panFault
  try dsimp only
  repeat' (first | with_reducible assumption | intro _ | with_reducible apply Device.updPan_legal | with_reducible apply Device.stopJob_legal
                    | with_reducible apply legal_foldl | with_reducible apply legal_ite | simp only [Device.legal_mk] | simp only [Device.legal_any] | split)

theorem Device.copyImage_legal {z : Kept} (d : Device) (src dst n : Nat) (h : d.Legal z) : (d.copyImage src dst n).Legal z := by
  unfold Device.copyImage
  have h1 := Device.undefine_legal d dst (dst + contextBytes) h
  refine Device.markDirty_legal _ _ _ (Device.setMem_legal _ _ h1 (wf_foldl ?_ (fun e x he => Mem.write_wf _ _ _ he)))
  have hb := (Mem.wf_iff _).mp h1.memory
  rw [Mem.wf_iff]
  refine ⟨hb.1, fun c hc => ?_⟩
  have hout : ¬(dst ≤ c.1 ∧ c.1 < dst + contextBytes) := by
    have := (List.mem_filter.mp hc).2
    simp at this
    omega
  show ¬(layerOf (_ ++ _) c.1 = none ∧ c.2 = 0)
  rw [layerOf_clip _ _ _ _ _ hout]
  exact hb.2 c hc

theorem Device.putContext_legal {z : Kept} (d : Device) (base p live : Nat) (h : d.Legal z) : (d.putContext base p live).Legal z :=
  Device.copyImage_legal _ _ _ _ h

theorem Device.saveContext_legal {z : Kept} (d : Device) (j : Nat) (h_d : d.Legal z) :
    (Device.saveContext d j).Legal z := by
  unfold Device.saveContext
  try dsimp only
  repeat' (first | with_reducible assumption | intro _ | with_reducible apply Device.updPan_legal | with_reducible apply Device.updJob_legal
                    | with_reducible apply Device.undefine_legal | with_reducible apply Device.store_legal | with_reducible apply Device.putContext_legal
                    | with_reducible apply legal_foldl | with_reducible apply legal_ite | simp only [Device.legal_mk] | simp only [Device.legal_any] | split)

theorem Device.restoreContext_legal {z : Kept} (d : Device) (j : Nat) (h_d : d.Legal z) :
    (Device.restoreContext d j).Legal z := by
  unfold Device.restoreContext
  try dsimp only
  repeat' (first | with_reducible assumption | intro _ | with_reducible apply Device.updPan_legal | with_reducible apply Device.updJob_legal
                    | with_reducible apply Device.setMem_legal | with_reducible apply Device.store_legal | with_reducible apply undoStep_wf
                    | with_reducible apply Mem.paste_wf | with_reducible apply copyBytes_wf | with_reducible apply putBlocks_wf | with_reducible apply memAfter_wf
                    | with_reducible apply Mem.blank_wf | with_reducible apply Mem.writeN_wf | with_reducible apply wf_foldl | with_reducible apply legal_foldl
                    | with_reducible apply legal_ite | simp only [Device.legal_mk] | simp only [Device.legal_any] | split
                    | with_reducible refine Device.Legal.memory (z := z) ?_)

theorem Device.suspend_legal {z : Kept} (d : Device) (j : Nat) (h_d : d.Legal z) :
    (Device.suspend d j).Legal z := by
  unfold Device.suspend
  try dsimp only
  repeat' (first | with_reducible assumption | intro _ | with_reducible apply Device.updJob_legal | with_reducible apply Device.saveContext_legal
                    | with_reducible apply legal_foldl | with_reducible apply legal_ite | simp only [Device.legal_mk] | simp only [Device.legal_any] | split)

theorem Device.suspendDrained_legal {z : Kept} (d : Device) (j : Nat) (h_d : d.Legal z) :
    (Device.suspendDrained d j).Legal z := by
  unfold Device.suspendDrained
  try dsimp only
  repeat' (first | with_reducible assumption | intro _ | with_reducible apply Device.updJob_legal | with_reducible apply Device.suspend_legal
                    | with_reducible apply legal_foldl | with_reducible apply legal_ite | simp only [Device.legal_mk] | simp only [Device.legal_any] | split)

theorem Device.loseLostLines_legal {z : Kept} (d : Device) (t : Nat) (h_d : d.Legal z) :
    (Device.loseLostLines d t).Legal z := by
  unfold Device.loseLostLines
  try dsimp only
  repeat' (first | with_reducible assumption | intro _ | with_reducible apply Device.updTer_legal | with_reducible apply Device.undefine_legal
                    | with_reducible apply legal_foldl | with_reducible apply legal_ite | simp only [Device.legal_mk] | simp only [Device.legal_any] | split)

theorem Device.brineWrittenBack_legal {z : Kept} (d : Device) (h_d : d.Legal z) :
    (Device.brineWrittenBack d).Legal z := by
  unfold Device.brineWrittenBack
  try dsimp only
  repeat' (first | with_reducible assumption | intro _ | with_reducible apply Device.updTer_legal | with_reducible apply Device.undefine_legal
                    | with_reducible apply Device.loseLostLines_legal | with_reducible apply legal_foldl | with_reducible apply legal_ite | simp only [Device.legal_mk]
                    | simp only [Device.legal_any] | split)

theorem Device.brineLost_legal {z : Kept} (d : Device) (h_d : d.Legal z) :
    (Device.brineLost d).Legal z := by
  unfold Device.brineLost
  try dsimp only
  repeat' (first | with_reducible assumption | intro _ | with_reducible apply Device.updTer_legal | with_reducible apply Device.undefine_legal
                    | with_reducible apply Device.loseLostLines_legal | with_reducible apply legal_foldl | with_reducible apply legal_ite | simp only [Device.legal_mk]
                    | simp only [Device.legal_any] | split)

theorem Device.pansLost_legal {z : Kept} (d : Device) (h_d : d.Legal z) :
    (Device.pansLost d).Legal z := by
  unfold Device.pansLost
  try dsimp only
  repeat' (first | with_reducible assumption | intro _ | with_reducible apply Device.undefine_legal | with_reducible apply legal_foldl
                    | with_reducible apply legal_ite | simp only [Device.legal_mk] | simp only [Device.legal_any] | split)

theorem Device.computeLost_legal {z : Kept} (d : Device) (h : d.Legal z) : (Device.computeLost d).Legal z := by
  unfold Device.computeLost
  dsimp only
  exact Device.legal_map rfl rfl (fun x hx => ⟨(show 1 ≤ 64 by decide), (show 64 ≤ 64 by decide), hx.2.2⟩) (Device.pansLost_legal d h)

theorem Device.flush_legal {z : Kept} (d : Device) (h_d : d.Legal z) :
    (Device.flush d).Legal z := by
  unfold Device.flush
  try dsimp only
  repeat' (first | with_reducible assumption | intro _ | with_reducible apply Device.brineWrittenBack_legal
                    | with_reducible apply Device.computeLost_legal | with_reducible apply legal_foldl | with_reducible apply legal_ite | simp only [Device.legal_mk]
                    | simp only [Device.legal_any] | split)

theorem Device.abortJobCommands_legal {z : Kept} (d : Device) (st : Nat) (h_d : d.Legal z) :
    (Device.abortJobCommands d st).Legal z := by
  unfold Device.abortJobCommands
  try dsimp only
  repeat' (first | with_reducible assumption | intro _ | with_reducible apply Device.finish_legal | with_reducible apply legal_foldl
                    | with_reducible apply legal_ite | simp only [Device.legal_mk] | simp only [Device.legal_any] | split)

theorem Device.jobFault_legal {z : Kept} (d : Device) (h_d : d.Legal z) :
    (Device.jobFault d).Legal z := by
  unfold Device.jobFault
  try dsimp only
  repeat' (first | with_reducible assumption | intro _ | with_reducible apply Device.updJob_legal | with_reducible apply Device.logEvent_legal
                    | with_reducible apply Device.stepNotice_legal | with_reducible apply Device.undoAll_legal | with_reducible apply Device.loseJob_legal
                    | with_reducible apply Device.flush_legal | with_reducible apply Device.abortJobCommands_legal | with_reducible apply legal_foldl
                    | with_reducible apply legal_ite | simp only [Device.legal_mk] | simp only [Device.legal_any] | split)

end Sys2Proof.Machine
end

