-- ==== Sys2Proof/Laws/LegalPolicy.lean ====
section
/-! SUPPORT. Every operation of Machine/Policy.lean keeps a legal device legal (Safety.lean). -/
set_option linter.unusedTactic false
set_option linter.unreachableTactic false
set_option linter.unusedVariables false
set_option linter.unusedSimpArgs false
namespace Sys2Proof.Machine

theorem Device.loadPower_legal {z : Kept} (d : Device) (h_d : d.Legal z) :
    (Device.loadPower d).Legal z := by
  unfold Device.loadPower
  try dsimp only
  repeat' (first | with_reducible assumption | (simp only [TerPower.legal] at *; (repeat' split) <;> omega) | intro _ | with_reducible apply legal_foldl
                    | with_reducible apply legal_ite | simp only [Device.legal_mk] | simp only [Device.legal_any] | split
                    | (refine Device.legal_map rfl rfl (fun x hx => ?_) ?_))

theorem Device.deriveSeal_legal {z : Kept} (d : Device) (h_d : d.Legal z) :
    (Device.deriveSeal d).Legal z := by
  unfold Device.deriveSeal
  try dsimp only
  repeat' (first | with_reducible assumption | intro _ | with_reducible apply legal_foldl | with_reducible apply legal_ite | simp only [Device.legal_mk]
                    | simp only [Device.legal_any] | split)

theorem Device.restoreBeds_legal {z : Kept} (d : Device) (h_d : d.Legal z) :
    (Device.restoreBeds d).Legal z := by
  unfold Device.restoreBeds
  try dsimp only
  repeat' (first | with_reducible assumption | intro _ | with_reducible apply Device.updTer_legal | with_reducible apply legal_foldl
                    | with_reducible apply legal_ite | simp only [Device.legal_mk] | simp only [Device.legal_any] | split)

end Sys2Proof.Machine
end

