-- ==== Sys2Proof/Laws/LegalAlarm.lean ====
section
/-! SUPPORT. Every operation of Machine/Alarm.lean keeps a legal device legal (Safety.lean). -/
set_option linter.unusedTactic false
set_option linter.unreachableTactic false
set_option linter.unusedVariables false
set_option linter.unusedSimpArgs false
namespace Sys2Proof.Machine

theorem Device.toHoldover_legal {z : Kept} (d : Device) (h_d : d.Legal z) :
    (Device.toHoldover d).Legal z := by
  unfold Device.toHoldover
  try dsimp only
  repeat' (first | with_reducible assumption | intro _ | with_reducible apply Device.logEvent_legal | with_reducible apply legal_foldl
                    | with_reducible apply legal_ite | simp only [Device.legal_mk] | simp only [Device.legal_any] | split)

theorem Device.hostPortDown_legal {z : Kept} (d : Device) (state : Nat) (h_d : d.Legal z) :
    (Device.hostPortDown d state).Legal z := by
  unfold Device.hostPortDown
  try dsimp only
  repeat' (first | with_reducible assumption | intro _ | with_reducible apply Device.toHoldover_legal | with_reducible apply legal_foldl
                    | with_reducible apply legal_ite | simp only [Device.legal_mk] | simp only [Device.legal_any] | split)

theorem Device.pipeCountersLost_legal {z : Kept} (d : Device) (h_d : d.Legal z) :
    (Device.pipeCountersLost d).Legal z := by
  unfold Device.pipeCountersLost
  try dsimp only
  repeat' (first | with_reducible assumption | intro _ | with_reducible apply legal_foldl | with_reducible apply legal_ite | simp only [Device.legal_mk]
                    | simp only [Device.legal_any] | split)

theorem Device.tgStop_legal {z : Kept} (d : Device) (c : Nat) (h_d : d.Legal z) :
    (Device.tgStop d c).Legal z := by
  unfold Device.tgStop
  try dsimp only
  repeat' (first | with_reducible assumption | intro _ | with_reducible apply Device.updChan_legal | with_reducible apply legal_foldl
                    | with_reducible apply legal_ite | simp only [Device.legal_mk] | simp only [Device.legal_any] | split)

theorem Device.tgStopAll_legal {z : Kept} (d : Device) (h_d : d.Legal z) :
    (Device.tgStopAll d).Legal z := by
  unfold Device.tgStopAll
  try dsimp only
  repeat' (first | with_reducible assumption | intro _ | with_reducible apply Device.tgStop_legal | with_reducible apply legal_foldl
                    | with_reducible apply legal_ite | simp only [Device.legal_mk] | simp only [Device.legal_any] | split)

theorem Device.shelfOff_legal {z : Kept} (d : Device) (h_d : d.Legal z) :
    (Device.shelfOff d).Legal z := by
  unfold Device.shelfOff
  try dsimp only
  repeat' (first | with_reducible assumption | intro _ | with_reducible apply Device.computeLost_legal
                    | with_reducible apply Device.pipeCountersLost_legal | with_reducible apply Device.tgStopAll_legal | with_reducible apply legal_foldl
                    | with_reducible apply legal_ite | simp only [Device.legal_mk] | simp only [Device.legal_any] | split)

theorem Device.setPState_legal {z : Kept} (d : Device) (s : PState) (h_d : d.Legal z) :
    (Device.setPState d s).Legal z := by
  unfold Device.setPState
  try dsimp only
  repeat' (first | with_reducible assumption | (simp only [TerPower.legal] at *; (repeat' split) <;> omega) | intro _ | with_reducible apply legal_foldl
                    | with_reducible apply legal_ite | simp only [Device.legal_mk] | simp only [Device.legal_any] | split
                    | (refine Device.legal_map rfl rfl (fun x hx => ?_) ?_))

theorem Device.enterShelf_legal {z : Kept} (d : Device) (h_d : d.Legal z) :
    (Device.enterShelf d).Legal z := by
  unfold Device.enterShelf
  try dsimp only
  repeat' (first | with_reducible assumption | intro _ | with_reducible apply Device.brineWrittenBack_legal
                    | with_reducible apply Device.hostPortDown_legal | with_reducible apply Device.shelfOff_legal | with_reducible apply Device.setPState_legal
                    | with_reducible apply legal_foldl | with_reducible apply legal_ite | simp only [Device.legal_mk] | simp only [Device.legal_any] | split)

theorem Device.dropUpdate_legal {z : Kept} (d : Device) (h_d : d.Legal z) :
    (Device.dropUpdate d).Legal z := by
  unfold Device.dropUpdate
  try dsimp only
  repeat' (first | with_reducible assumption | intro _ | with_reducible apply legal_foldl | with_reducible apply legal_ite | simp only [Device.legal_mk]
                    | simp only [Device.legal_any] | split)

theorem Device.zeroise_legal {z : Kept} (d : Device) (h_d : d.Legal z) :
    (Device.zeroise d).Legal z := by
  unfold Device.zeroise
  try dsimp only
  repeat' (first | with_reducible assumption | intro _ | with_reducible apply Device.undefine_legal | with_reducible apply legal_foldl
                    | with_reducible apply legal_ite | simp only [Device.legal_mk] | simp only [Device.legal_any] | split)

theorem Device.crustErase_legal {z : Kept} (d : Device) (h_d : d.Legal z) :
    (Device.crustErase d).Legal z := by
  unfold Device.crustErase
  try dsimp only
  repeat' (first | with_reducible assumption | intro _ | with_reducible apply Device.logEvent_legal | with_reducible apply legal_foldl
                    | with_reducible apply legal_ite | simp only [Device.legal_mk] | simp only [Device.legal_any] | split)

theorem Device.loseAll_legal {z : Kept} (d : Device) (h_d : d.Legal z) :
    (Device.loseAll d).Legal z := by
  unfold Device.loseAll
  try dsimp only
  repeat' (first | with_reducible assumption | intro _ | with_reducible apply Device.updJob_legal | with_reducible apply Device.loseJob_legal
                    | with_reducible apply legal_foldl | with_reducible apply legal_ite | simp only [Device.legal_mk] | simp only [Device.legal_any] | split)

theorem Device.erase_legal {z : Kept} (d : Device) (h_d : d.Legal z) :
    (Device.erase d).Legal z := by
  unfold Device.erase
  try dsimp only
  repeat' (first | with_reducible assumption | intro _ | with_reducible apply Device.logEvent_legal | with_reducible apply Device.brineLost_legal
                    | with_reducible apply Device.hostPortDown_legal | with_reducible apply Device.shelfOff_legal | with_reducible apply Device.setPState_legal
                    | with_reducible apply Device.dropUpdate_legal | with_reducible apply Device.zeroise_legal | with_reducible apply Device.crustErase_legal
                    | with_reducible apply Device.loseAll_legal | with_reducible apply legal_foldl | with_reducible apply legal_ite | simp only [Device.legal_mk]
                    | simp only [Device.legal_any] | split)

theorem Device.lockdown_legal {z : Kept} (d : Device) (h_d : d.Legal z) :
    (Device.lockdown d).Legal z := by
  unfold Device.lockdown
  try dsimp only
  repeat' (first | with_reducible assumption | intro _ | with_reducible apply Device.suspendDrained_legal | with_reducible apply legal_foldl
                    | with_reducible apply legal_ite | simp only [Device.legal_mk] | simp only [Device.legal_any] | split)

theorem Device.meetSource_legal {z : Kept} (d : Device) (i : Nat) (resp : Nat) (h : d.Legal z) : (Device.meetSource d i resp).Legal z := by
  unfold Device.meetSource
  dsimp only
  split
  · simp only [Device.legal_any]; exact h
  · rename_i hn
    have hl : ({ d with sec := { d.sec with sources := d.sec.sources ||| (1#7 <<< i), level := min resp 3, alarmCount := satAdd d.sec.alarmCount 1 } } :
        Device).Legal z :=
      ⟨h.fused, h.clock, by show min resp 3 = 0 ∨ min resp 3 = 2 ∨ min resp 3 = 3; omega,
        by show z.level ≤ min resp 3; have := h.alarm; have := h.floor; simp only [Sec.legal] at *; omega, h.power, h.memory⟩
    have := Device.lockdown_legal _ (Device.logEvent_legal _ srcSecurity 0x0A01 sevAlarm none [resp] hl)
    split
    · exact Device.erase_legal _ this
    · exact this

theorem Device.logLockdown_legal {z : Kept} (d : Device) (src : Nat) (ev : Nat) (data : List Nat) (h_d : d.Legal z) :
    (Device.logLockdown d src ev data).Legal z := by
  unfold Device.logLockdown
  try dsimp only
  repeat' (first | with_reducible assumption | intro _ | with_reducible apply Device.logEvent_legal | with_reducible apply Device.meetSource_legal
                    | with_reducible apply legal_foldl | with_reducible apply legal_ite | simp only [Device.legal_mk] | simp only [Device.legal_any] | split)

theorem Device.sigFail_legal {z : Kept} (d : Device) (subject : Nat) (h_d : d.Legal z) :
    (Device.sigFail d subject).Legal z := by
  unfold Device.sigFail
  try dsimp only
  repeat' (first | with_reducible assumption | intro _ | with_reducible apply Device.logEvent_legal | with_reducible apply Device.meetSource_legal
                    | with_reducible apply legal_foldl | with_reducible apply legal_ite | simp only [Device.legal_mk] | simp only [Device.legal_any] | split)

end Sys2Proof.Machine
end

