-- ==== Sys2Proof/Laws/LegalMatrix.lean ====
section
/-! SUPPORT. Every operation of Machine/Matrix.lean keeps a legal device legal (Safety.lean). -/
set_option linter.unusedTactic false
set_option linter.unreachableTactic false
set_option linter.unusedVariables false
set_option linter.unusedSimpArgs false
namespace Sys2Proof.Machine

theorem startPasses_legal {z : Kept} (d : Device) (p : Nat) (q : Desc) (x : MxD) (h_d : d.Legal z) :
    (startPasses d p q x).Legal z := by
  unfold startPasses
  try dsimp only
  repeat' (first | with_reducible assumption | intro _ | with_reducible apply Device.updPan_legal | with_reducible apply legal_foldl
                    | with_reducible apply legal_ite | simp only [Device.legal_mk] | simp only [Device.legal_any] | split)

theorem startMatrix_legal {z : Kept} (d : Device) (p : Nat) (op : Nat) (hit : Option Nat) (checks : MxD → Option Tile → Nat) (h_d : d.Legal z) :
    (startMatrix d p op hit checks).Legal z := by
  unfold startMatrix
  try dsimp only
  repeat' (first | with_reducible assumption | intro _ | with_reducible apply Device.updPan_legal | with_reducible apply Device.panAccess_legal
                    | with_reducible apply startPasses_legal | with_reducible apply legal_foldl | with_reducible apply legal_ite | simp only [Device.legal_mk]
                    | simp only [Device.legal_any] | split)

theorem execMatmul_legal {z : Kept} (p : Fin 64) (hit : Option Nat) (s : State) :
    ∃ d, execMatmul p hit s = .next { s with dev := d } ∧ (s.dev.Legal z → d.Legal z) := by
  refine ⟨_, rfl, fun h => ?_⟩
  try dsimp only
  repeat' (first | with_reducible assumption | intro _ | with_reducible apply startMatrix_legal | with_reducible apply legal_foldl
                    | with_reducible apply legal_ite | simp only [Device.legal_mk] | simp only [Device.legal_any] | split)

theorem execConv_legal {z : Kept} (p : Fin 64) (hit : Option Nat) (s : State) :
    ∃ d, execConv p hit s = .next { s with dev := d } ∧ (s.dev.Legal z → d.Legal z) := by
  refine ⟨_, rfl, fun h => ?_⟩
  try dsimp only
  repeat' (first | with_reducible assumption | intro _ | with_reducible apply startMatrix_legal | with_reducible apply legal_foldl
                    | with_reducible apply legal_ite | simp only [Device.legal_mk] | simp only [Device.legal_any] | split)

theorem execPass_legal {z : Kept} (p : Fin 64) (bad : Bool) (hit : Option Nat) (s : State) :
    ∃ d, execPass p bad hit s = .next { s with dev := d } ∧ (s.dev.Legal z → d.Legal z) := by
  refine ⟨_, rfl, fun h => ?_⟩
  try dsimp only
  repeat' (first | with_reducible assumption | intro _ | with_reducible apply Device.updPan_legal | with_reducible apply Device.panAccess_legal
                    | with_reducible apply legal_foldl | with_reducible apply legal_ite | simp only [Device.legal_mk] | simp only [Device.legal_any] | split)

theorem wbRow_legal {z : Kept} (p : Nat) (x : MxD) (sel : AmaxSel) (one : Nat → Written) (d : Device) (m : Nat) (h_d : d.Legal z) :
    (wbRow p x sel one d m).Legal z := by
  unfold wbRow
  try dsimp only
  repeat' (first | with_reducible assumption | intro _ | with_reducible apply Device.updPan_legal | with_reducible apply Device.psWrite_legal
                    | with_reducible apply legal_foldl | with_reducible apply legal_ite | simp only [Device.legal_mk] | simp only [Device.legal_any] | split)

theorem writeBackRows_legal {z : Kept} (d : Device) (p : Nat) (x : MxD) (sel : AmaxSel) (h_d : d.Legal z) :
    (writeBackRows d p x sel).Legal z := by
  unfold writeBackRows
  try dsimp only
  repeat' (first | with_reducible assumption | intro _ | with_reducible apply wbRow_legal | with_reducible apply legal_foldl
                    | with_reducible apply legal_ite | simp only [Device.legal_mk] | simp only [Device.legal_any] | split)

theorem execEntryOp_legal {z : Kept} (p : Fin 64) (hit : Option Nat) (s : State) :
    ∃ d, execEntryOp p hit s = .next { s with dev := d } ∧ (s.dev.Legal z → d.Legal z) := by
  refine ⟨_, rfl, fun h => ?_⟩
  try dsimp only
  repeat' (first | with_reducible assumption | intro _ | with_reducible apply Device.updPan_legal | with_reducible apply Device.panAccess_legal
                    | with_reducible apply writeBackRows_legal | with_reducible apply legal_foldl | with_reducible apply legal_ite | simp only [Device.legal_mk]
                    | simp only [Device.legal_any] | split)

theorem execAmaxCaptureSelect_legal {z : Kept} (p : Fin 64) (en : Bool) (slot : Fin 16) (s : State) :
    ∃ d, execAmaxCaptureSelect p en slot s = .next { s with dev := d } ∧ (s.dev.Legal z → d.Legal z) := by
  refine ⟨_, rfl, fun h => ?_⟩
  try dsimp only
  repeat' (first | with_reducible assumption | intro _ | with_reducible apply Device.updPan_legal | with_reducible apply legal_foldl
                    | with_reducible apply legal_ite | simp only [Device.legal_mk] | simp only [Device.legal_any] | split)

theorem execAmaxSlotClear_legal {z : Kept} (p : Fin 64) (en : Bool) (slot : Fin 16) (s : State) :
    ∃ d, execAmaxSlotClear p en slot s = .next { s with dev := d } ∧ (s.dev.Legal z → d.Legal z) := by
  refine ⟨_, rfl, fun h => ?_⟩
  try dsimp only
  repeat' (first | with_reducible assumption | intro _ | with_reducible apply Device.updPan_legal | with_reducible apply legal_foldl
                    | with_reducible apply legal_ite | simp only [Device.legal_mk] | simp only [Device.legal_any] | split)

end Sys2Proof.Machine
end

