-- ==== Sys2Proof/Laws/LegalAttention.lean ====
section
/-! SUPPORT. Every operation of Machine/Attention.lean keeps a legal device legal (Safety.lean). -/
set_option linter.unusedTactic false
set_option linter.unreachableTactic false
set_option linter.unusedVariables false
set_option linter.unusedSimpArgs false
namespace Sys2Proof.Machine

theorem rakeBody_legal {z : Kept} (d : Device) (p : Nat) (x : MxD) (r : AttnRec) (h_d : d.Legal z) :
    (rakeBody d p x r).Legal z := by
  unfold rakeBody
  try dsimp only
  repeat' (first | with_reducible assumption | intro _ | with_reducible apply PRes.ok_legal | with_reducible apply PRes.halt_legal
                    | with_reducible apply PRes.wait_legal | with_reducible apply pres_ite | with_reducible apply Device.updPan_legal
                    | with_reducible apply Device.psWrite_legal | with_reducible apply legal_foldl | with_reducible apply legal_ite | simp only [Device.legal_mk]
                    | simp only [Device.legal_any] | split)

theorem appendToken_legal {z : Kept} (p : Nat) (x : MxD) (r : AttnRec) (d : Device) (i : Nat) (h_d : d.Legal z) :
    (appendToken p x r d i).Legal z := by
  unfold appendToken
  try dsimp only
  repeat' (first | with_reducible assumption | intro _ | with_reducible apply PRes.ok_legal | with_reducible apply PRes.halt_legal
                    | with_reducible apply PRes.wait_legal | with_reducible apply pres_ite | with_reducible apply Device.updPan_legal
                    | with_reducible apply Device.psWrite_legal | with_reducible apply legal_foldl | with_reducible apply legal_ite | simp only [Device.legal_mk]
                    | simp only [Device.legal_any] | split)

theorem appendBody_legal {z : Kept} (d : Device) (p : Nat) (x : MxD) (r : AttnRec) (h_d : d.Legal z) :
    (appendBody d p x r).Legal z := by
  unfold appendBody
  try dsimp only
  repeat' (first | with_reducible assumption | intro _ | with_reducible apply PRes.ok_legal | with_reducible apply PRes.halt_legal
                    | with_reducible apply PRes.wait_legal | with_reducible apply pres_ite | with_reducible apply Device.psWrite_legal
                    | with_reducible apply appendToken_legal | with_reducible apply legal_foldl | with_reducible apply legal_ite | simp only [Device.legal_mk]
                    | simp only [Device.legal_any] | split)

theorem attnFinish_legal {z : Kept} (d : Device) (p : Nat) (x : MxD) (sel : AmaxSel) (h_d : d.Legal z) :
    (attnFinish d p x sel).Legal z := by
  unfold attnFinish
  try dsimp only
  repeat' (first | with_reducible assumption | intro _ | with_reducible apply PRes.ok_legal | with_reducible apply PRes.halt_legal
                    | with_reducible apply PRes.wait_legal | with_reducible apply pres_ite | with_reducible apply Device.updPan_legal
                    | with_reducible apply Device.psWrite_legal | with_reducible apply wbRow_legal | with_reducible apply legal_foldl | with_reducible apply legal_ite
                    | simp only [Device.legal_mk] | simp only [Device.legal_any] | split)

theorem startAttn_legal {z : Kept} (d : Device) (p : Nat) (mode : Nat) (bad : Bool) (hit : Option Nat) (body : Device → MxD → AttnRec → Device) (after : DescPhase) (h_d : d.Legal z) (h_body : ∀ (x0 : Device) (x1 : MxD) (x2 : AttnRec), x0.Legal z → (body x0 x1 x2).Legal z) :
    (startAttn d p mode bad hit body after).Legal z := by
  unfold startAttn
  try dsimp only
  repeat' (first | with_reducible assumption | intro _ | with_reducible apply PRes.ok_legal | with_reducible apply PRes.halt_legal
                    | with_reducible apply PRes.wait_legal | with_reducible apply pres_ite | with_reducible apply h_body | with_reducible apply Device.updPan_legal
                    | with_reducible apply Device.panAccess_legal | with_reducible apply legal_foldl | with_reducible apply legal_ite | simp only [Device.legal_mk]
                    | simp only [Device.legal_any] | split)

theorem execAttend_legal {z : Kept} (p : Fin 64) (bad : Bool) (hit : Option Nat) (s : State) :
    ∃ d, execAttend p bad hit s = .next { s with dev := d } ∧ (s.dev.Legal z → d.Legal z) := by
  refine ⟨_, rfl, fun h => ?_⟩
  try dsimp only
  repeat' (first | with_reducible assumption | intro _ | with_reducible apply PRes.ok_legal | with_reducible apply PRes.halt_legal
                    | with_reducible apply PRes.wait_legal | with_reducible apply pres_ite | with_reducible apply Device.updPan_legal
                    | with_reducible apply startAttn_legal | with_reducible apply legal_foldl | with_reducible apply legal_ite | simp only [Device.legal_mk]
                    | simp only [Device.legal_any] | split)

theorem execRake_legal {z : Kept} (p : Fin 64) (hit : Option Nat) (s : State) :
    ∃ d, execRake p hit s = .next { s with dev := d } ∧ (s.dev.Legal z → d.Legal z) := by
  refine ⟨_, rfl, fun h => ?_⟩
  try dsimp only
  repeat' (first | with_reducible assumption | intro _ | with_reducible apply PRes.ok_legal | with_reducible apply PRes.halt_legal
                    | with_reducible apply PRes.wait_legal | with_reducible apply pres_ite | with_reducible apply rakeBody_legal | with_reducible apply startAttn_legal
                    | with_reducible apply legal_foldl | with_reducible apply legal_ite | simp only [Device.legal_mk] | simp only [Device.legal_any] | split)

theorem execAppend_legal {z : Kept} (p : Fin 64) (hit : Option Nat) (s : State) :
    ∃ d, execAppend p hit s = .next { s with dev := d } ∧ (s.dev.Legal z → d.Legal z) := by
  refine ⟨_, rfl, fun h => ?_⟩
  try dsimp only
  repeat' (first | with_reducible assumption | intro _ | with_reducible apply PRes.ok_legal | with_reducible apply PRes.halt_legal
                    | with_reducible apply PRes.wait_legal | with_reducible apply pres_ite | with_reducible apply appendBody_legal | with_reducible apply startAttn_legal
                    | with_reducible apply legal_foldl | with_reducible apply legal_ite | simp only [Device.legal_mk] | simp only [Device.legal_any] | split)

theorem execWriteBack_legal {z : Kept} (p : Fin 64) (hit : Option Nat) (s : State) :
    ∃ d, execWriteBack p hit s = .next { s with dev := d } ∧ (s.dev.Legal z → d.Legal z) := by
  refine ⟨_, rfl, fun h => ?_⟩
  try dsimp only
  repeat' (first | with_reducible assumption | intro _ | with_reducible apply PRes.ok_legal | with_reducible apply PRes.halt_legal
                    | with_reducible apply PRes.wait_legal | with_reducible apply pres_ite | with_reducible apply Device.updPan_legal
                    | with_reducible apply Device.panAccess_legal | with_reducible apply writeBackRows_legal | with_reducible apply attnFinish_legal
                    | with_reducible apply legal_foldl | with_reducible apply legal_ite | simp only [Device.legal_mk] | simp only [Device.legal_any] | split)

theorem noteDescStatus_legal {z : Kept} (d : Device) (p : Nat) (seq : Nat) (st : Nat) (h_d : d.Legal z) :
    (noteDescStatus d p seq st).Legal z := by
  unfold noteDescStatus
  try dsimp only
  repeat' (first | with_reducible assumption | intro _ | with_reducible apply PRes.ok_legal | with_reducible apply PRes.halt_legal
                    | with_reducible apply PRes.wait_legal | with_reducible apply pres_ite | with_reducible apply Device.updJob_legal | with_reducible apply legal_foldl
                    | with_reducible apply legal_ite | simp only [Device.legal_mk] | simp only [Device.legal_any] | split)

theorem execDescriptorComplete_legal {z : Kept} (p : Fin 64) (s : State) :
    ∃ d, execDescriptorComplete p s = .next { s with dev := d } ∧ (s.dev.Legal z → d.Legal z) := by
  refine ⟨_, rfl, fun h => ?_⟩
  try dsimp only
  repeat' (first | with_reducible assumption | intro _ | with_reducible apply PRes.ok_legal | with_reducible apply PRes.halt_legal
                    | with_reducible apply PRes.wait_legal | with_reducible apply pres_ite | with_reducible apply Device.updPan_legal
                    | with_reducible apply noteDescStatus_legal | with_reducible apply legal_foldl | with_reducible apply legal_ite | simp only [Device.legal_mk]
                    | simp only [Device.legal_any] | split)

end Sys2Proof.Machine
end

