-- ==== Sys2Proof/Laws/LegalResets.lean ====
section
/-! SUPPORT. Every operation of Machine/Resets.lean keeps a legal device legal (Safety.lean). -/
set_option linter.unusedTactic false
set_option linter.unreachableTactic false
set_option linter.unusedVariables false
set_option linter.unusedSimpArgs false
namespace Sys2Proof.Machine

theorem Device.noteRetire_legal {z : Kept} (d : Device) (before : Nat) (h_d : d.Legal z) :
    (Device.noteRetire d before).Legal z := by
  unfold Device.noteRetire
  try dsimp only
  repeat' (first | with_reducible assumption | intro _ | with_reducible apply Device.logEvent_legal | with_reducible apply legal_foldl
                    | with_reducible apply legal_ite | simp only [Device.legal_mk] | simp only [Device.legal_any] | split)

theorem Device.updWear_legal {z : Kept} (d : Device) (f : Wear → Wear) (h_d : d.Legal z) :
    (Device.updWear d f).Legal z := by
  unfold Device.updWear
  try dsimp only
  repeat' (first | with_reducible assumption | intro _ | with_reducible apply legal_foldl | with_reducible apply legal_ite | simp only [Device.legal_mk]
                    | simp only [Device.legal_any] | split)

theorem Device.quarantine_legal {z : Kept} (d : Device) (p : Nat) (h_d : d.Legal z) :
    (Device.quarantine d p).Legal z := by
  unfold Device.quarantine
  try dsimp only
  repeat' (first | with_reducible assumption | intro _ | with_reducible apply Device.updPan_legal | with_reducible apply Device.updTer_legal
                    | with_reducible apply Device.logEvent_legal | with_reducible apply Device.jobFault_legal | with_reducible apply Device.noteRetire_legal
                    | with_reducible apply Device.updWear_legal | with_reducible apply legal_foldl | with_reducible apply legal_ite | simp only [Device.legal_mk]
                    | simp only [Device.legal_any] | split)

theorem Device.selectImage_legal {z : Kept} (d : Device) (n : Nat) (h_d : d.Legal z) :
    (Device.selectImage d n).Legal z := by
  unfold Device.selectImage
  try dsimp only
  repeat' (first | with_reducible assumption | intro _ | with_reducible apply Device.logEvent_legal | with_reducible apply Device.sigFail_legal
                    | with_reducible apply legal_foldl | with_reducible apply legal_ite | simp only [Device.legal_mk] | simp only [Device.legal_any] | split)

theorem Device.loadPolicy_legal {z : Kept} (d : Device) (h_d : d.Legal z) :
    (Device.loadPolicy d).Legal z := by
  unfold Device.loadPolicy
  try dsimp only
  repeat' (first | with_reducible assumption | intro _ | with_reducible apply Device.logEvent_legal | with_reducible apply legal_foldl
                    | with_reducible apply legal_ite | simp only [Device.legal_mk] | simp only [Device.legal_any] | split)

theorem Device.applyWear_legal {z : Kept} (d : Device) (h_d : d.Legal z) :
    (Device.applyWear d).Legal z := by
  unfold Device.applyWear
  try dsimp only
  repeat' (first | with_reducible assumption | intro _ | with_reducible apply Device.updTer_legal | with_reducible apply Device.updEng_legal
                    | with_reducible apply Device.updPort_legal | with_reducible apply legal_foldl | with_reducible apply legal_ite | simp only [Device.legal_mk]
                    | simp only [Device.legal_any] | split)

theorem Device.bringUp_legal {z : Kept} (d : Device) (h_d : d.Legal z) :
    (Device.bringUp d).Legal z := by
  unfold Device.bringUp
  try dsimp only
  repeat' (first | with_reducible assumption | intro _ | with_reducible apply Device.loadPower_legal | with_reducible apply Device.deriveSeal_legal
                    | with_reducible apply Device.applyWear_legal | with_reducible apply legal_foldl | with_reducible apply legal_ite | simp only [Device.legal_mk]
                    | simp only [Device.legal_any] | split)

theorem Device.bootStep5_legal {z : Kept} (d : Device) (h_d : d.Legal z) :
    (Device.bootStep5 d).Legal z := by
  unfold Device.bootStep5
  try dsimp only
  repeat' (first | with_reducible assumption | intro _ | with_reducible apply Device.selectImage_legal | with_reducible apply Device.loadPolicy_legal
                    | with_reducible apply Device.bringUp_legal | with_reducible apply legal_foldl | with_reducible apply legal_ite | simp only [Device.legal_mk]
                    | simp only [Device.legal_any] | split)

theorem Device.resumeBoot_legal {z : Kept} (d : Device) (h_d : d.Legal z) :
    (Device.resumeBoot d).Legal z := by
  unfold Device.resumeBoot
  try dsimp only
  repeat' (first | with_reducible assumption | intro _ | with_reducible apply Device.bootStep5_legal | with_reducible apply legal_foldl
                    | with_reducible apply legal_ite | simp only [Device.legal_mk] | simp only [Device.legal_any] | split)

theorem freshMem_wf (n : Nat) : ({ layers := [{ lo := 0, hi := 2 ^ 48, seed := some n }] } : Mem).wf = true := rfl

theorem freshPower_legal : ∀ t (h : t < 4), ((Vector.replicate 4 ({} : TerPower))[t]).legal := by decide

theorem Device.domainReset_legal {z : Kept} (d : Device) (h : d.Legal z) : (Device.domainReset d).Legal z := by
  have h' := Device.hostPortDown_legal d 0 h
  have h'' := Device.dropUpdate_legal _ h'
  exact ⟨h''.fused, h''.clock, h''.alarm, h''.floor, freshPower_legal, freshMem_wf _⟩

theorem Device.moduleReset_legal {z : Kept} (d : Device) (h_d : d.Legal z) :
    (Device.moduleReset d).Legal z := by
  unfold Device.moduleReset
  try dsimp only
  repeat' (first | with_reducible assumption | intro _ | with_reducible apply Device.resumeBoot_legal | with_reducible apply Device.domainReset_legal
                    | with_reducible apply legal_foldl | with_reducible apply legal_ite | simp only [Device.legal_mk] | simp only [Device.legal_any] | split)

theorem Device.coldReset_legal {z : Kept} (d : Device) (h_d : d.Legal z) :
    (Device.coldReset d).Legal z := by
  unfold Device.coldReset
  try dsimp only
  repeat' (first | with_reducible assumption | intro _ | with_reducible apply Device.selectImage_legal | with_reducible apply Device.resumeBoot_legal
                    | with_reducible apply Device.domainReset_legal | with_reducible apply legal_foldl | with_reducible apply legal_ite | simp only [Device.legal_mk]
                    | simp only [Device.legal_any] | split)

theorem Device.causeCold_legal {z : Kept} (d : Device) (h_d : d.Legal z) :
    (Device.causeCold d).Legal z := by
  unfold Device.causeCold
  try dsimp only
  repeat' (first | with_reducible assumption | intro _ | with_reducible apply legal_foldl | with_reducible apply legal_ite | simp only [Device.legal_mk]
                    | simp only [Device.legal_any] | split)

theorem Device.countersLost_legal {z : Kept} (d : Device) (h_d : d.Legal z) :
    (Device.countersLost d).Legal z := by
  unfold Device.countersLost
  try dsimp only
  repeat' (first | with_reducible assumption | (simp only [TerPower.legal] at *; (repeat' split) <;> omega) | intro _ | with_reducible apply legal_foldl
                    | with_reducible apply legal_ite | simp only [Device.legal_mk] | simp only [Device.legal_any] | split
                    | (refine Device.legal_map rfl rfl (fun x hx => ?_) ?_))

theorem Device.endTests_legal {z : Kept} (d : Device) (h_d : d.Legal z) :
    (Device.endTests d).Legal z := by
  unfold Device.endTests
  try dsimp only
  repeat' (first | with_reducible assumption | intro _ | with_reducible apply Device.updTer_legal | with_reducible apply Device.undefine_legal
                    | with_reducible apply legal_foldl | with_reducible apply legal_ite | simp only [Device.legal_mk] | simp only [Device.legal_any] | split)

theorem Device.reloadSeal_legal {z : Kept} (d : Device) (h_d : d.Legal z) :
    (Device.reloadSeal d).Legal z := by
  unfold Device.reloadSeal
  try dsimp only
  repeat' (first | with_reducible assumption | intro _ | with_reducible apply Device.deriveSeal_legal | with_reducible apply legal_foldl
                    | with_reducible apply legal_ite | simp only [Device.legal_mk] | simp only [Device.legal_any] | split)

theorem Device.shelfExit_legal {z : Kept} (d : Device) (h_d : d.Legal z) :
    (Device.shelfExit d).Legal z := by
  unfold Device.shelfExit
  try dsimp only
  repeat' (first | with_reducible assumption | intro _ | with_reducible apply Device.restoreBeds_legal | with_reducible apply Device.setPState_legal
                    | with_reducible apply Device.reloadSeal_legal | with_reducible apply legal_foldl | with_reducible apply legal_ite | simp only [Device.legal_mk]
                    | simp only [Device.legal_any] | split)

theorem Device.loseLive_legal {z : Kept} (d : Device) (h_d : d.Legal z) :
    (Device.loseLive d).Legal z := by
  unfold Device.loseLive
  try dsimp only
  repeat' (first | with_reducible assumption | intro _ | with_reducible apply Device.updJob_legal | with_reducible apply Device.undoAll_legal
                    | with_reducible apply Device.loseJob_legal | with_reducible apply legal_foldl | with_reducible apply legal_ite | simp only [Device.legal_mk]
                    | simp only [Device.legal_any] | split)

theorem Device.warmClear_legal {z : Kept} (d : Device) (h : d.Legal z) : (Device.warmClear d).Legal z := by
  have h1 := Device.dropUpdate_legal _ (Device.countersLost_legal _ (Device.pipeCountersLost_legal _ (Device.computeLost_legal _ (Device.brineLost_legal _
    (Device.endTests_legal _ (Device.loseLive_legal d h))))))
  unfold Device.warmClear
  generalize (d.loseLive.endTests.brineLost.computeLost.pipeCountersLost.countersLost).dropUpdate = d1 at h1 ⊢
  dsimp only
  exact Device.legal_map rfl rfl (fun x hx => ⟨hx.1, hx.2.1, Nat.le_refl 64, hx.2.2.2⟩) h1

theorem Device.warmReset_legal {z : Kept} (d : Device) (h_d : d.Legal z) :
    (Device.warmReset d).Legal z := by
  unfold Device.warmReset
  try dsimp only
  repeat' (first | with_reducible assumption | intro _ | with_reducible apply Device.loadPower_legal | with_reducible apply Device.restoreBeds_legal
                    | with_reducible apply Device.setPState_legal | with_reducible apply Device.selectImage_legal | with_reducible apply Device.loadPolicy_legal
                    | with_reducible apply Device.reloadSeal_legal | with_reducible apply Device.shelfExit_legal | with_reducible apply Device.warmClear_legal
                    | with_reducible apply legal_foldl | with_reducible apply legal_ite | simp only [Device.legal_mk] | simp only [Device.legal_any] | split)

theorem Device.powerTo_legal {z : Kept} (d : Device) (s : PState) (h_d : d.Legal z) :
    (Device.powerTo d s).Legal z := by
  unfold Device.powerTo
  try dsimp only
  repeat' (first | with_reducible assumption | intro _ | with_reducible apply Device.pansLost_legal | with_reducible apply Device.setPState_legal
                    | with_reducible apply Device.enterShelf_legal | with_reducible apply Device.endTests_legal | with_reducible apply Device.shelfExit_legal
                    | with_reducible apply legal_foldl | with_reducible apply legal_ite | simp only [Device.legal_mk] | simp only [Device.legal_any] | split)

theorem Device.powerRequest_legal {z : Kept} (d : Device) (code : Nat) (h : d.Legal z) : (d.powerRequest code).2.Legal z := by
  unfold Device.powerRequest
  dsimp only
  split
  · exact h
  · repeat' (first | split | (with_reducible assumption) | (with_reducible apply Device.powerTo_legal) | simp only [Device.legal_mk])

theorem Device.computeOff_legal {z : Kept} (d : Device) (h_d : d.Legal z) :
    (Device.computeOff d).Legal z := by
  unfold Device.computeOff
  try dsimp only
  repeat' (first | with_reducible assumption | intro _ | with_reducible apply Device.undefine_legal | with_reducible apply Device.brineLost_legal
                    | with_reducible apply Device.hostPortDown_legal | with_reducible apply Device.shelfOff_legal | with_reducible apply Device.loseAll_legal
                    | with_reducible apply Device.endTests_legal | with_reducible apply legal_foldl | with_reducible apply legal_ite | simp only [Device.legal_mk]
                    | simp only [Device.legal_any] | split)

theorem Device.inputLost_legal {z : Kept} (d : Device) (h : d.Legal z) : (Device.inputLost d).Legal z :=
  ⟨h.fused, (show 0 < 1000000000 by decide), h.alarm, h.floor, freshPower_legal, freshMem_wf _⟩

end Sys2Proof.Machine
end

