-- ==== Sys2Proof/Laws/LegalBundOps.lean ====
section
/-! SUPPORT. Every operation of Machine/BundOps.lean keeps a legal device legal (Safety.lean). -/
set_option linter.unusedTactic false
set_option linter.unreachableTactic false
set_option linter.unusedVariables false
set_option linter.unusedSimpArgs false
namespace Sys2Proof.Machine

theorem Device.emit_legal {z : Kept} (d : Device) (b : Nat) (f : Flit) (h_d : d.Legal z) :
    (Device.emit d b f).Legal z := by
  unfold Device.emit
  try dsimp only
  repeat' (first | with_reducible assumption | intro _ | with_reducible apply Device.updPort_legal
                    | (with_reducible refine Device.draw_legal (by assumption) ?_) | with_reducible apply Device.draw_snd_legal | with_reducible apply Device.send_legal
                    | with_reducible apply legal_foldl | with_reducible apply legal_ite | simp only [Device.legal_mk] | simp only [Device.legal_any] | split)

theorem Device.emitPlain_legal {z : Kept} (d : Device) (b : Nat) (kind : Nat) (payload : List Nat) (h_d : d.Legal z) :
    (Device.emitPlain d b kind payload).Legal z := by
  unfold Device.emitPlain
  try dsimp only
  repeat' (first | with_reducible assumption | intro _ | with_reducible apply Device.emit_legal | with_reducible apply legal_foldl
                    | with_reducible apply legal_ite | simp only [Device.legal_mk] | simp only [Device.legal_any] | split)

theorem Device.pumpFlits_legal {z : Kept} (b n : Nat) (d : Device) (h : d.Legal z) : (d.pumpFlits b n).Legal z := by
  induction n generalizing d with
  | zero => exact h
  | succ n ih =>
    unfold Device.pumpFlits
    split
    · exact ih _ (Device.emit_legal _ _ _ (Device.updPort_legal _ _ _ h))
    · exact h

theorem Device.drain_legal {z : Kept} (d : Device) (b : Nat) (h : d.Legal z) : (d.drain b).Legal z := Device.pumpFlits_legal b _ d h

theorem Device.launch_legal {z : Kept} (d : Device) (x : Txn) (h_d : d.Legal z) :
    (Device.launch d x).Legal z := by
  unfold Device.launch
  try dsimp only
  repeat' (first | with_reducible assumption | intro _ | with_reducible apply Device.updPort_legal | with_reducible apply Device.send_legal
                    | with_reducible apply Device.drain_legal | with_reducible apply legal_foldl | with_reducible apply legal_ite | simp only [Device.legal_mk]
                    | simp only [Device.legal_any] | split)

theorem Device.request_legal {z : Kept} {d e : Device} {x : Txn} {ter copy dest n : Nat} (hq : d.request x ter copy dest = (n, e)) (h : d.Legal z) :
    e.Legal z := by
  unfold Device.request at hq
  split at hq
  · cases hq; exact h
  · cases hq
    apply Device.launch_legal
    simp only [Device.legal_mk]; exact h

theorem Device.respond_legal {z : Kept} (d : Device) (x : Txn) (op : Nat) (st : Nat) (data : List Nat) (h_d : d.Legal z) :
    (Device.respond d x op st data).Legal z := by
  unfold Device.respond
  try dsimp only
  repeat' (first | with_reducible assumption | intro _ | with_reducible apply Device.launch_legal | with_reducible apply legal_foldl
                    | with_reducible apply legal_ite | simp only [Device.legal_mk] | simp only [Device.legal_any] | split)

theorem Device.oneWay_legal {z : Kept} (d : Device) (x : Txn) (h_d : d.Legal z) :
    (Device.oneWay d x).Legal z := by
  unfold Device.oneWay
  try dsimp only
  repeat' (first | with_reducible assumption | intro _ | with_reducible apply Device.launch_legal | with_reducible apply legal_foldl
                    | with_reducible apply legal_ite | simp only [Device.legal_mk] | simp only [Device.legal_any] | split)

theorem Device.report_legal {z : Kept} (d : Device) (j : Nat) (st : Nat) (h_d : d.Legal z) :
    (Device.report d j st).Legal z := by
  unfold Device.report
  try dsimp only
  repeat' (first | with_reducible assumption | intro _ | with_reducible apply legal_foldl | with_reducible apply legal_ite | simp only [Device.legal_mk]
                    | simp only [Device.legal_any] | split)

theorem Device.putToken_legal {z : Kept} (d : Device) (dst : Nat) (t : Token) (h_d : d.Legal z) :
    (Device.putToken d dst t).Legal z := by
  unfold Device.putToken
  try dsimp only
  repeat' (first | with_reducible assumption | intro _ | with_reducible apply Device.send_legal | with_reducible apply Device.oneWay_legal
                    | with_reducible apply legal_foldl | with_reducible apply legal_ite | simp only [Device.legal_mk] | simp only [Device.legal_any] | split)

theorem Device.sendToken_legal {z : Kept} (d : Device) (j : Nat) (dst : Nat) (t : Token) (h_d : d.Legal z) :
    (Device.sendToken d j dst t).Legal z := by
  unfold Device.sendToken
  try dsimp only
  repeat' (first | with_reducible assumption | intro _ | with_reducible apply Device.report_legal | with_reducible apply Device.putToken_legal
                    | with_reducible apply legal_foldl | with_reducible apply legal_ite | simp only [Device.legal_mk] | simp only [Device.legal_any] | split)

theorem Device.discard_legal {z : Kept} (d : Device) (x : Txn) (st : Nat) (h_d : d.Legal z) :
    (Device.discard d x st).Legal z := by
  unfold Device.discard
  try dsimp only
  repeat' (first | with_reducible assumption | intro _ | with_reducible apply Device.launch_legal | with_reducible apply Device.putToken_legal
                    | with_reducible apply legal_foldl | with_reducible apply legal_ite | simp only [Device.legal_mk] | simp only [Device.legal_any] | split)

end Sys2Proof.Machine
end

