-- ==== Sys2Proof/Laws/LegalMemory.lean ====
section
/-! SUPPORT. Every operation of Machine/Memory.lean keeps a legal device legal (Safety.lean). -/
set_option linter.unusedTactic false
set_option linter.unreachableTactic false
set_option linter.unusedVariables false
set_option linter.unusedSimpArgs false
namespace Sys2Proof.Machine

theorem Device.holdLine_legal {z : Kept} (d : Device) (t : Nat) (line : Nat) (h_d : d.Legal z) :
    (Device.holdLine d t line).Legal z := by
  unfold Device.holdLine
  try dsimp only
  repeat' (first | with_reducible assumption | intro _ | with_reducible apply Device.updTer_legal | with_reducible apply legal_foldl
                    | with_reducible apply legal_ite | simp only [Device.legal_mk] | simp only [Device.legal_any] | split)

theorem Device.meetHit_legal {z : Kept} (d : Device) (h : Hit) (h_d : d.Legal z) :
    (Device.meetHit d h).Legal z := by
  unfold Device.meetHit
  try dsimp only
  repeat' (first | with_reducible assumption | intro _ | with_reducible apply Device.updPan_legal | with_reducible apply Device.updTer_legal
                    | with_reducible apply Device.updChan_legal | with_reducible apply Device.logEvent_legal | with_reducible apply Device.holdLine_legal
                    | with_reducible apply legal_foldl | with_reducible apply legal_ite | simp only [Device.legal_mk] | simp only [Device.legal_any] | split)

theorem Device.withHit_legal {z : Kept} (d : Device) (hit : Option Hit) (spans : List (Nat × Nat)) (lost : Device → Nat → Device) (go : Device → Device) (h_d : d.Legal z) (h_lost : ∀ (x0 : Device) (x1 : Nat), x0.Legal z → (lost x0 x1).Legal z) (h_go : ∀ (x0 : Device), x0.Legal z → (go x0).Legal z) :
    (Device.withHit d hit spans lost go).Legal z := by
  unfold Device.withHit
  try dsimp only
  repeat' (first | with_reducible assumption | intro _ | with_reducible apply h_lost | with_reducible apply h_go
                    | with_reducible apply Device.meetHit_legal | with_reducible apply legal_foldl | with_reducible apply legal_ite | simp only [Device.legal_mk]
                    | simp only [Device.legal_any] | split)

theorem Device.holdFault_legal {z : Kept} (d : Device) (a : Nat) (h_d : d.Legal z) :
    (Device.holdFault d a).Legal z := by
  unfold Device.holdFault
  try dsimp only
  repeat' (first | with_reducible assumption | intro _ | with_reducible apply Device.holdLine_legal | with_reducible apply legal_foldl
                    | with_reducible apply legal_ite | simp only [Device.legal_mk] | simp only [Device.legal_any] | split)

end Sys2Proof.Machine
end

