-- ==== Sys2Proof/Laws/LegalVector.lean ====
section
/-! SUPPORT. Every operation of Machine/Vector.lean keeps a legal device legal (Safety.lean). -/
set_option linter.unusedTactic false
set_option linter.unreachableTactic false
set_option linter.unusedVariables false
set_option linter.unusedSimpArgs false
namespace Sys2Proof.Machine

/-- The device that a pan's instruction leaves is legal. -/
def PRes.Legal (z : Kept) : PRes → Prop
  | .ok d => d.Legal z
  | .halt d _ _ => d.Legal z
  | .wait d => d.Legal z

theorem PRes.ok_legal {z : Kept} {d : Device} (h : d.Legal z) : (PRes.ok d).Legal z := h
theorem PRes.halt_legal {z : Kept} {d : Device} {c : Cause} {st : Nat} (h : d.Legal z) : (PRes.halt d c st).Legal z := h
theorem PRes.wait_legal {z : Kept} {d : Device} (h : d.Legal z) : (PRes.wait d).Legal z := h
theorem pres_ite {z : Kept} {c : Prop} [Decidable c] {a b : PRes} (ha : a.Legal z) (hb : b.Legal z) : (if c then a else b).Legal z := by
  split
  · exact ha
  · exact hb

theorem vRun_legal {z : Kept} (d : Device) (p : Nat) (k : VKind) (v : VInsn) (body : Pan → Nat → PRes) (h_d : d.Legal z) (h_body : ∀ (x0 : Pan) (x1 : Nat), (body x0 x1).Legal z) :
    (vRun d p k v body).Legal z := by
  unfold vRun
  try dsimp only
  repeat' (first | with_reducible assumption | intro _ | with_reducible apply PRes.ok_legal | with_reducible apply PRes.halt_legal
                    | with_reducible apply PRes.wait_legal | with_reducible apply pres_ite | with_reducible apply h_body | with_reducible apply legal_foldl
                    | with_reducible apply legal_ite | simp only [Device.legal_mk] | simp only [Device.legal_any] | split)

theorem vLanes_legal {z : Kept} (d : Device) (p : Nat) (o : LaneOp) (ts : List Fmt) (v : VInsn) (h_d : d.Legal z) :
    (vLanes d p o ts v).Legal z := by
  unfold vLanes
  try dsimp only
  repeat' (first | with_reducible assumption | intro _ | with_reducible apply PRes.ok_legal | with_reducible apply PRes.halt_legal
                    | with_reducible apply PRes.wait_legal | with_reducible apply pres_ite | with_reducible apply Device.updPan_legal | with_reducible apply vRun_legal
                    | with_reducible apply legal_foldl | with_reducible apply legal_ite | simp only [Device.legal_mk] | simp only [Device.legal_any] | split)

theorem vBcast_legal {z : Kept} (d : Device) (p : Nat) (v : VInsn) (h_d : d.Legal z) :
    (vBcast d p v).Legal z := by
  unfold vBcast
  try dsimp only
  repeat' (first | with_reducible assumption | intro _ | with_reducible apply PRes.ok_legal | with_reducible apply PRes.halt_legal
                    | with_reducible apply PRes.wait_legal | with_reducible apply pres_ite | with_reducible apply Device.updPan_legal | with_reducible apply vRun_legal
                    | with_reducible apply legal_foldl | with_reducible apply legal_ite | simp only [Device.legal_mk] | simp only [Device.legal_any] | split)

theorem vIota_legal {z : Kept} (d : Device) (p : Nat) (v : VInsn) (h_d : d.Legal z) :
    (vIota d p v).Legal z := by
  unfold vIota
  try dsimp only
  repeat' (first | with_reducible assumption | intro _ | with_reducible apply PRes.ok_legal | with_reducible apply PRes.halt_legal
                    | with_reducible apply PRes.wait_legal | with_reducible apply pres_ite | with_reducible apply Device.updPan_legal | with_reducible apply vRun_legal
                    | with_reducible apply legal_foldl | with_reducible apply legal_ite | simp only [Device.legal_mk] | simp only [Device.legal_any] | split)

theorem vCompare_legal {z : Kept} (d : Device) (p : Nat) (test : Val → Val → Bool) (v : VInsn) (h_d : d.Legal z) :
    (vCompare d p test v).Legal z := by
  unfold vCompare
  try dsimp only
  repeat' (first | with_reducible assumption | intro _ | with_reducible apply PRes.ok_legal | with_reducible apply PRes.halt_legal
                    | with_reducible apply PRes.wait_legal | with_reducible apply pres_ite | with_reducible apply Device.updPan_legal
                    | with_reducible apply Device.flush_legal | with_reducible apply vRun_legal | with_reducible apply legal_foldl | with_reducible apply legal_ite
                    | simp only [Device.legal_mk] | simp only [Device.legal_any] | split)

theorem vCvt_legal {z : Kept} (d : Device) (p : Nat) (v : VInsn) (h_d : d.Legal z) :
    (vCvt d p v).Legal z := by
  unfold vCvt
  try dsimp only
  repeat' (first | with_reducible assumption | intro _ | with_reducible apply PRes.ok_legal | with_reducible apply PRes.halt_legal
                    | with_reducible apply PRes.wait_legal | with_reducible apply pres_ite | with_reducible apply Device.updPan_legal | with_reducible apply vRun_legal
                    | with_reducible apply legal_foldl | with_reducible apply legal_ite | simp only [Device.legal_mk] | simp only [Device.legal_any] | split)

theorem vFunction_legal {z : Kept} (d : Device) (p : Nat) (fn : Nat → FnRes) (v : VInsn) (h_d : d.Legal z) :
    (vFunction d p fn v).Legal z := by
  unfold vFunction
  try dsimp only
  repeat' (first | with_reducible assumption | intro _ | with_reducible apply PRes.ok_legal | with_reducible apply PRes.halt_legal
                    | with_reducible apply PRes.wait_legal | with_reducible apply pres_ite | with_reducible apply Device.updPan_legal
                    | with_reducible apply Device.flush_legal | with_reducible apply vRun_legal | with_reducible apply legal_foldl | with_reducible apply legal_ite
                    | simp only [Device.legal_mk] | simp only [Device.legal_any] | split)

theorem vSegment_legal {z : Kept} (d : Device) (p : Nat) (o : SegOp) (v : VInsn) (h_d : d.Legal z) :
    (vSegment d p o v).Legal z := by
  unfold vSegment
  try dsimp only
  repeat' (first | with_reducible assumption | intro _ | with_reducible apply PRes.ok_legal | with_reducible apply PRes.halt_legal
                    | with_reducible apply PRes.wait_legal | with_reducible apply pres_ite | with_reducible apply Device.updPan_legal | with_reducible apply vRun_legal
                    | with_reducible apply legal_foldl | with_reducible apply legal_ite | simp only [Device.legal_mk] | simp only [Device.legal_any] | split)

theorem vPerm_legal {z : Kept} (d : Device) (p : Nat) (v : VInsn) (h_d : d.Legal z) :
    (vPerm d p v).Legal z := by
  unfold vPerm
  try dsimp only
  repeat' (first | with_reducible assumption | intro _ | with_reducible apply PRes.ok_legal | with_reducible apply PRes.halt_legal
                    | with_reducible apply PRes.wait_legal | with_reducible apply pres_ite | with_reducible apply Device.updPan_legal | with_reducible apply vRun_legal
                    | with_reducible apply legal_foldl | with_reducible apply legal_ite | simp only [Device.legal_mk] | simp only [Device.legal_any] | split)

theorem vSlide_legal {z : Kept} (d : Device) (p : Nat) (down : Bool) (v : VInsn) (h_d : d.Legal z) :
    (vSlide d p down v).Legal z := by
  unfold vSlide
  try dsimp only
  repeat' (first | with_reducible assumption | intro _ | with_reducible apply PRes.ok_legal | with_reducible apply PRes.halt_legal
                    | with_reducible apply PRes.wait_legal | with_reducible apply pres_ite | with_reducible apply Device.updPan_legal | with_reducible apply vRun_legal
                    | with_reducible apply legal_foldl | with_reducible apply legal_ite | simp only [Device.legal_mk] | simp only [Device.legal_any] | split)

theorem vRev_legal {z : Kept} (d : Device) (p : Nat) (v : VInsn) (h_d : d.Legal z) :
    (vRev d p v).Legal z := by
  unfold vRev
  try dsimp only
  repeat' (first | with_reducible assumption | intro _ | with_reducible apply PRes.ok_legal | with_reducible apply PRes.halt_legal
                    | with_reducible apply PRes.wait_legal | with_reducible apply pres_ite | with_reducible apply Device.updPan_legal | with_reducible apply vRun_legal
                    | with_reducible apply legal_foldl | with_reducible apply legal_ite | simp only [Device.legal_mk] | simp only [Device.legal_any] | split)

theorem withStoreHit_legal {z : Kept} (d : Device) (p : Nat) (hit : Option Nat) (f : Device → PRes) (h_d : d.Legal z)
    (h_f : ∀ e : Device, e.Legal z → (f e).Legal z) : (withStoreHit d p hit f).Legal z := by
  unfold withStoreHit
  split
  · exact h_f _ h_d
  · rename_i a
    have h1 := h_f _ h_d
    have h2 := h_f _ (parityHit_legal d p a h_d)
    split
    · rename_i heq; rw [heq] at h2; exact h2
    · exact h1

theorem vLoad_legal {z : Kept} (d : Device) (p : Nat) (v : VInsn) (h_d : d.Legal z) :
    (vLoad d p v).Legal z := by
  unfold vLoad
  try dsimp only
  repeat' (first | with_reducible assumption | intro _ | with_reducible apply PRes.ok_legal | with_reducible apply PRes.halt_legal
                    | with_reducible apply PRes.wait_legal | with_reducible apply pres_ite | with_reducible apply Device.updPan_legal | with_reducible apply vRun_legal
                    | with_reducible apply legal_foldl | with_reducible apply legal_ite | simp only [Device.legal_mk] | simp only [Device.legal_any] | split)

theorem vStore_legal {z : Kept} (d : Device) (p : Nat) (v : VInsn) (h_d : d.Legal z) :
    (vStore d p v).Legal z := by
  unfold vStore
  try dsimp only
  repeat' (first | with_reducible assumption | intro _ | with_reducible apply PRes.ok_legal | with_reducible apply PRes.halt_legal
                    | with_reducible apply PRes.wait_legal | with_reducible apply pres_ite | with_reducible apply Device.updPan_legal
                    | with_reducible apply Device.psWrite_legal | with_reducible apply vRun_legal | with_reducible apply legal_foldl | with_reducible apply legal_ite
                    | simp only [Device.legal_mk] | simp only [Device.legal_any] | split)

theorem vZbc_legal {z : Kept} (d : Device) (p : Nat) (v : VInsn) (h_d : d.Legal z) :
    (vZbc d p v).Legal z := by
  unfold vZbc
  try dsimp only
  repeat' (first | with_reducible assumption | intro _ | with_reducible apply PRes.ok_legal | with_reducible apply PRes.halt_legal
                    | with_reducible apply PRes.wait_legal | with_reducible apply pres_ite | with_reducible apply Device.updPan_legal
                    | with_reducible apply Device.psWrite_legal | with_reducible apply vRun_legal | with_reducible apply legal_foldl | with_reducible apply legal_ite
                    | simp only [Device.legal_mk] | simp only [Device.legal_any] | split)

theorem lRun_legal {z : Kept} (d : Device) (p : Nat) (k : VKind) (v : VInsn) (f : Pan → Nat → PRes) (h_d : d.Legal z) (h_f : ∀ (x0 : Pan) (x1 : Nat), (f x0 x1).Legal z) :
    (lRun d p k v f).Legal z := by
  unfold lRun
  try dsimp only
  repeat' (first | with_reducible assumption | intro _ | with_reducible apply PRes.ok_legal | with_reducible apply PRes.halt_legal
                    | with_reducible apply PRes.wait_legal | with_reducible apply pres_ite | with_reducible apply h_f | with_reducible apply vRun_legal
                    | with_reducible apply legal_foldl | with_reducible apply legal_ite | simp only [Device.legal_mk] | simp only [Device.legal_any] | split)

theorem vLrd_legal {z : Kept} (d : Device) (p : Nat) (v : VInsn) (h_d : d.Legal z) :
    (vLrd d p v).Legal z := by
  unfold vLrd
  try dsimp only
  repeat' (first | with_reducible assumption | intro _ | with_reducible apply PRes.ok_legal | with_reducible apply PRes.halt_legal
                    | with_reducible apply PRes.wait_legal | with_reducible apply pres_ite | with_reducible apply Device.updPan_legal | with_reducible apply lRun_legal
                    | with_reducible apply legal_foldl | with_reducible apply legal_ite | simp only [Device.legal_mk] | simp only [Device.legal_any] | split)

theorem vLxrd_legal {z : Kept} (d : Device) (p : Nat) (v : VInsn) (h_d : d.Legal z) :
    (vLxrd d p v).Legal z := by
  unfold vLxrd
  try dsimp only
  repeat' (first | with_reducible assumption | intro _ | with_reducible apply PRes.ok_legal | with_reducible apply PRes.halt_legal
                    | with_reducible apply PRes.wait_legal | with_reducible apply pres_ite | with_reducible apply Device.updPan_legal | with_reducible apply lRun_legal
                    | with_reducible apply legal_foldl | with_reducible apply legal_ite | simp only [Device.legal_mk] | simp only [Device.legal_any] | split)

theorem vLpadd_legal {z : Kept} (d : Device) (p : Nat) (v : VInsn) (h_d : d.Legal z) :
    (vLpadd d p v).Legal z := by
  unfold vLpadd
  try dsimp only
  repeat' (first | with_reducible assumption | intro _ | with_reducible apply PRes.ok_legal | with_reducible apply PRes.halt_legal
                    | with_reducible apply PRes.wait_legal | with_reducible apply pres_ite | with_reducible apply Device.updPan_legal | with_reducible apply lRun_legal
                    | with_reducible apply legal_foldl | with_reducible apply legal_ite | simp only [Device.legal_mk] | simp only [Device.legal_any] | split)

theorem vFence_legal {z : Kept} (d : Device) (p : Nat) (v : VInsn) (h_d : d.Legal z) :
    (vFence d p v).Legal z := by
  unfold vFence
  try dsimp only
  repeat' (first | with_reducible assumption | intro _ | with_reducible apply PRes.ok_legal | with_reducible apply PRes.halt_legal
                    | with_reducible apply PRes.wait_legal | with_reducible apply pres_ite | with_reducible apply Device.updPan_legal | with_reducible apply vRun_legal
                    | with_reducible apply legal_foldl | with_reducible apply legal_ite | simp only [Device.legal_mk] | simp only [Device.legal_any] | split)

end Sys2Proof.Machine
end

