-- ==== Sys2Proof/Laws/LegalPanCore.lean ====
section
/-! SUPPORT. Every operation of Machine/PanCore.lean keeps a legal device legal (Safety.lean). -/
set_option linter.unusedTactic false
set_option linter.unreachableTactic false
set_option linter.unusedVariables false
set_option linter.unusedSimpArgs false
namespace Sys2Proof.Machine

theorem coreWrite_legal {z : Kept} {d e : Device} {p a n v : Nat} (hq : coreWrite d p a n v = some (.ok e)) (h : d.Legal z) : e.Legal z := by
  unfold coreWrite at hq
  split at hq
  · cases hq
  · split at hq
    · cases hq; exact Device.updPan_legal _ _ _ h
    · split at hq
      · cases hq
      · cases hq; exact Device.psWrite_legal _ _ _ _ h
    · cases hq

theorem next_legal {z : Kept} (d : Device) (p : Nat) (len : Nat) (f : Pan → Pan) (h_d : d.Legal z) :
    (next d p len f).Legal z := by
  unfold next
  try dsimp only
  repeat' (first | with_reducible assumption | intro _ | with_reducible apply PRes.ok_legal | with_reducible apply PRes.halt_legal
                    | with_reducible apply PRes.wait_legal | with_reducible apply pres_ite | with_reducible apply Device.updPan_legal | with_reducible apply legal_foldl
                    | with_reducible apply legal_ite | simp only [Device.legal_mk] | simp only [Device.legal_any] | split)

theorem fault_legal {z : Kept} (d : Device) (c : Cause) (h_d : d.Legal z) :
    (fault d c).Legal z := by
  unfold fault
  try dsimp only
  repeat' (first | with_reducible assumption | intro _ | with_reducible apply PRes.ok_legal | with_reducible apply PRes.halt_legal
                    | with_reducible apply PRes.wait_legal | with_reducible apply pres_ite | with_reducible apply legal_foldl | with_reducible apply legal_ite
                    | simp only [Device.legal_mk] | simp only [Device.legal_any] | split)

theorem vNext_legal {z : Kept} (p : Nat) (r : PRes) (h : r.Legal z) : (vNext p r).Legal z := by
  unfold vNext
  split
  · exact Device.updPan_legal _ _ _ h
  · exact h

theorem inSegment_legal {z : Kept} (p : Nat) (hit : Bool) (f : Device → PRes) (d : Device) (h_f : ∀ e : Device, e.Legal z → (f e).Legal z)
    (h : d.Legal z) : (inSegment p hit f d).Legal z := by
  have h1 := h_f _ h
  unfold inSegment
  dsimp only
  split
  · exact Device.updPan_legal _ _ _ h
  · split
    · rename_i heq; rw [heq] at h1; exact Device.updPan_legal _ _ _ h1
    · exact h1

theorem mxdRun_legal {z : Kept} (d : Device) (p : Nat) (rs1 : Nat) (h_d : d.Legal z) :
    (mxdRun d p rs1).Legal z := by
  unfold mxdRun
  try dsimp only
  repeat' (first | with_reducible assumption | intro _ | with_reducible apply PRes.ok_legal | with_reducible apply PRes.halt_legal
                    | with_reducible apply PRes.wait_legal | with_reducible apply pres_ite | with_reducible apply Device.issue_legal | with_reducible apply next_legal
                    | with_reducible apply fault_legal | with_reducible apply legal_foldl | with_reducible apply legal_ite | simp only [Device.legal_mk]
                    | simp only [Device.legal_any] | split)

theorem cpyRun_legal {z : Kept} (d : Device) (p : Nat) (rs1 : Nat) (h_d : d.Legal z) :
    (cpyRun d p rs1).Legal z := by
  unfold cpyRun
  try dsimp only
  repeat' (first | with_reducible assumption | intro _ | with_reducible apply PRes.ok_legal | with_reducible apply PRes.halt_legal
                    | with_reducible apply PRes.wait_legal | with_reducible apply pres_ite | with_reducible apply Device.updEng_legal
                    | with_reducible apply Device.issue_legal | with_reducible apply next_legal | with_reducible apply fault_legal | with_reducible apply legal_foldl
                    | with_reducible apply legal_ite | simp only [Device.legal_mk] | simp only [Device.legal_any] | split)

theorem Device.unflag_legal {z : Kept} (d : Device) (p : Nat) (f : Nat) (h_d : d.Legal z) :
    (Device.unflag d p f).Legal z := by
  unfold Device.unflag
  try dsimp only
  repeat' (first | with_reducible assumption | intro _ | with_reducible apply PRes.ok_legal | with_reducible apply PRes.halt_legal
                    | with_reducible apply PRes.wait_legal | with_reducible apply pres_ite | with_reducible apply Device.updPan_legal | with_reducible apply legal_foldl
                    | with_reducible apply legal_ite | simp only [Device.legal_mk] | simp only [Device.legal_any] | split)

theorem fsetRun_legal {z : Kept} (d : Device) (p : Nat) (f : Nat) (h_d : d.Legal z) :
    (fsetRun d p f).Legal z := by
  unfold fsetRun
  try dsimp only
  repeat' (first | with_reducible assumption | intro _ | with_reducible apply PRes.ok_legal | with_reducible apply PRes.halt_legal
                    | with_reducible apply PRes.wait_legal | with_reducible apply pres_ite | with_reducible apply next_legal | with_reducible apply legal_foldl
                    | with_reducible apply legal_ite | simp only [Device.legal_mk] | simp only [Device.legal_any] | split)

theorem fclrRun_legal {z : Kept} (d : Device) (p : Nat) (f : Nat) (h_d : d.Legal z) :
    (fclrRun d p f).Legal z := by
  unfold fclrRun
  try dsimp only
  repeat' (first | with_reducible assumption | intro _ | with_reducible apply PRes.ok_legal | with_reducible apply PRes.halt_legal
                    | with_reducible apply PRes.wait_legal | with_reducible apply pres_ite | with_reducible apply next_legal | with_reducible apply Device.unflag_legal
                    | with_reducible apply legal_foldl | with_reducible apply legal_ite | simp only [Device.legal_mk] | simp only [Device.legal_any] | split)

theorem fwaitRun_legal {z : Kept} (d : Device) (p : Nat) (f : Nat) (h_d : d.Legal z) :
    (fwaitRun d p f).Legal z := by
  unfold fwaitRun
  try dsimp only
  repeat' (first | with_reducible assumption | intro _ | with_reducible apply PRes.ok_legal | with_reducible apply PRes.halt_legal
                    | with_reducible apply PRes.wait_legal | with_reducible apply pres_ite | with_reducible apply next_legal | with_reducible apply legal_foldl
                    | with_reducible apply legal_ite | simp only [Device.legal_mk] | simp only [Device.legal_any] | split)

theorem fwaitcRun_legal {z : Kept} (d : Device) (p : Nat) (f : Nat) (h_d : d.Legal z) :
    (fwaitcRun d p f).Legal z := by
  unfold fwaitcRun
  try dsimp only
  repeat' (first | with_reducible assumption | intro _ | with_reducible apply PRes.ok_legal | with_reducible apply PRes.halt_legal
                    | with_reducible apply PRes.wait_legal | with_reducible apply pres_ite | with_reducible apply next_legal | with_reducible apply Device.unflag_legal
                    | with_reducible apply legal_foldl | with_reducible apply legal_ite | simp only [Device.legal_mk] | simp only [Device.legal_any] | split)

theorem ftestRun_legal {z : Kept} (d : Device) (p : Nat) (rd : Nat) (f : Nat) (h_d : d.Legal z) :
    (ftestRun d p rd f).Legal z := by
  unfold ftestRun
  try dsimp only
  repeat' (first | with_reducible assumption | intro _ | with_reducible apply PRes.ok_legal | with_reducible apply PRes.halt_legal
                    | with_reducible apply PRes.wait_legal | with_reducible apply pres_ite | with_reducible apply next_legal | with_reducible apply legal_foldl
                    | with_reducible apply legal_ite | simp only [Device.legal_mk] | simp only [Device.legal_any] | split)

theorem fsetrRun_legal {z : Kept} (d : Device) (p : Nat) (rs1 : Nat) (f : Nat) (h_d : d.Legal z) :
    (fsetrRun d p rs1 f).Legal z := by
  unfold fsetrRun
  try dsimp only
  repeat' (first | with_reducible assumption | intro _ | with_reducible apply PRes.ok_legal | with_reducible apply PRes.halt_legal
                    | with_reducible apply PRes.wait_legal | with_reducible apply pres_ite | with_reducible apply Device.updPan_legal | with_reducible apply next_legal
                    | with_reducible apply fault_legal | with_reducible apply legal_foldl | with_reducible apply legal_ite | simp only [Device.legal_mk]
                    | simp only [Device.legal_any] | split)

theorem setvlRun_legal {z : Kept} (d : Device) (p : Nat) (rd : Nat) (rs1 : Nat) (width : Nat) (h_d : d.Legal z) :
    (setvlRun d p rd rs1 width).Legal z := by
  unfold setvlRun
  try dsimp only
  repeat' (first | with_reducible assumption | intro _ | with_reducible apply PRes.ok_legal | with_reducible apply PRes.halt_legal
                    | with_reducible apply PRes.wait_legal | with_reducible apply pres_ite | with_reducible apply next_legal | with_reducible apply fault_legal
                    | with_reducible apply legal_foldl | with_reducible apply legal_ite | simp only [Device.legal_mk] | simp only [Device.legal_any] | split)

theorem pdoneRun_legal {z : Kept} (d : Device) (p : Nat) (rs1 : Nat) (h_d : d.Legal z) :
    (pdoneRun d p rs1).Legal z := by
  unfold pdoneRun
  try dsimp only
  repeat' (first | with_reducible assumption | intro _ | with_reducible apply PRes.ok_legal | with_reducible apply PRes.halt_legal
                    | with_reducible apply PRes.wait_legal | with_reducible apply pres_ite | with_reducible apply next_legal | with_reducible apply legal_foldl
                    | with_reducible apply legal_ite | simp only [Device.legal_mk] | simp only [Device.legal_any] | split)

theorem bsumRun_legal {z : Kept} (d : Device) (p : Nat) (cond : Nat) (off : Int) (h_d : d.Legal z) :
    (bsumRun d p cond off).Legal z := by
  unfold bsumRun
  try dsimp only
  repeat' (first | with_reducible assumption | intro _ | with_reducible apply PRes.ok_legal | with_reducible apply PRes.halt_legal
                    | with_reducible apply PRes.wait_legal | with_reducible apply pres_ite | with_reducible apply Device.updPan_legal | with_reducible apply fault_legal
                    | with_reducible apply legal_foldl | with_reducible apply legal_ite | simp only [Device.legal_mk] | simp only [Device.legal_any] | split)

theorem vOpcode_legal {z : Kept} (d : Device) (p : Nat) (opc : Nat) (v : VInsn) (h_d : d.Legal z) :
    (vOpcode d p opc v).Legal z := by
  unfold vOpcode
  try dsimp only
  repeat' (first | with_reducible assumption | intro _ | with_reducible apply PRes.ok_legal | with_reducible apply PRes.halt_legal
                    | with_reducible apply PRes.wait_legal | with_reducible apply pres_ite | with_reducible apply vLanes_legal | with_reducible apply vBcast_legal
                    | with_reducible apply vIota_legal | with_reducible apply vCompare_legal | with_reducible apply vCvt_legal | with_reducible apply vFunction_legal
                    | with_reducible apply vSegment_legal | with_reducible apply vPerm_legal | with_reducible apply vSlide_legal | with_reducible apply vRev_legal
                    | with_reducible apply vLoad_legal | with_reducible apply vStore_legal | with_reducible apply vZbc_legal | with_reducible apply vLrd_legal
                    | with_reducible apply vLxrd_legal | with_reducible apply vLpadd_legal | with_reducible apply vFence_legal | with_reducible apply fault_legal
                    | with_reducible apply legal_foldl | with_reducible apply legal_ite | simp only [Device.legal_mk] | simp only [Device.legal_any] | split)

theorem systemRun_legal {z : Kept} (d : Device) (p : Nat) (len : Nat) (w : Nat) (h_d : d.Legal z) :
    (systemRun d p len w).Legal z := by
  unfold systemRun
  try dsimp only
  repeat' (first | with_reducible assumption | intro _ | with_reducible apply PRes.ok_legal | with_reducible apply PRes.halt_legal
                    | with_reducible apply PRes.wait_legal | with_reducible apply pres_ite | with_reducible apply Device.updPan_legal | with_reducible apply next_legal
                    | with_reducible apply fault_legal | with_reducible apply legal_foldl | with_reducible apply legal_ite | simp only [Device.legal_mk]
                    | simp only [Device.legal_any] | split)

theorem loadRun_legal {z : Kept} (d : Device) (p : Nat) (len : Nat) (rd : Nat) (a : Nat) (n : Nat) (signed : Bool) (h_d : d.Legal z) :
    (loadRun d p len rd a n signed).Legal z := by
  unfold loadRun
  try dsimp only
  repeat' (first | with_reducible assumption | intro _ | with_reducible apply PRes.ok_legal | with_reducible apply PRes.halt_legal
                    | with_reducible apply PRes.wait_legal | with_reducible apply pres_ite | with_reducible apply next_legal | with_reducible apply fault_legal
                    | with_reducible apply legal_foldl | with_reducible apply legal_ite | simp only [Device.legal_mk] | simp only [Device.legal_any] | split)

theorem storeRun_legal {z : Kept} (d : Device) (p : Nat) (len : Nat) (a : Nat) (n : Nat) (v : Nat) (h_d : d.Legal z) :
    (storeRun d p len a n v).Legal z := by
  unfold storeRun
  try dsimp only
  repeat' (first | with_reducible assumption | intro _ | with_reducible apply PRes.ok_legal | with_reducible apply PRes.halt_legal
                    | with_reducible apply PRes.wait_legal | with_reducible apply pres_ite | (with_reducible refine coreWrite_legal (by assumption) ?_)
                    | with_reducible apply next_legal | with_reducible apply fault_legal | with_reducible apply legal_foldl | with_reducible apply legal_ite
                    | simp only [Device.legal_mk] | simp only [Device.legal_any] | split)

theorem customRun_legal {z : Kept} (d : Device) (p : Nat) (w : Nat) (h_d : d.Legal z) :
    (customRun d p w).Legal z := by
  unfold customRun
  try dsimp only
  repeat' (first | with_reducible assumption | intro _ | with_reducible apply PRes.ok_legal | with_reducible apply PRes.halt_legal
                    | with_reducible apply PRes.wait_legal | with_reducible apply pres_ite | with_reducible apply fault_legal | with_reducible apply mxdRun_legal
                    | with_reducible apply cpyRun_legal | with_reducible apply fsetRun_legal | with_reducible apply fclrRun_legal | with_reducible apply fwaitRun_legal
                    | with_reducible apply fwaitcRun_legal | with_reducible apply ftestRun_legal | with_reducible apply fsetrRun_legal
                    | with_reducible apply setvlRun_legal | with_reducible apply pdoneRun_legal | with_reducible apply legal_foldl | with_reducible apply legal_ite
                    | simp only [Device.legal_mk] | simp only [Device.legal_any] | split)

theorem wordRun_legal {z : Kept} (d : Device) (p : Nat) (len : Nat) (w : Nat) (h_d : d.Legal z) :
    (wordRun d p len w).Legal z := by
  unfold wordRun
  try dsimp only
  repeat' (first | with_reducible assumption | intro _ | with_reducible apply PRes.ok_legal | with_reducible apply PRes.halt_legal
                    | with_reducible apply PRes.wait_legal | with_reducible apply pres_ite | with_reducible apply Device.updPan_legal | with_reducible apply next_legal
                    | with_reducible apply fault_legal | with_reducible apply bsumRun_legal | with_reducible apply systemRun_legal | with_reducible apply loadRun_legal
                    | with_reducible apply storeRun_legal | with_reducible apply customRun_legal | with_reducible apply legal_foldl | with_reducible apply legal_ite
                    | simp only [Device.legal_mk] | simp only [Device.legal_any] | split)

theorem coreRun_legal {z : Kept} (d : Device) (p : Nat) (hit : Bool) (h_d : d.Legal z) :
    (coreRun d p hit).Legal z := by
  unfold coreRun
  try dsimp only
  repeat' (first | with_reducible assumption | intro _ | with_reducible apply PRes.ok_legal | with_reducible apply PRes.halt_legal
                    | with_reducible apply PRes.wait_legal | with_reducible apply pres_ite | with_reducible apply fault_legal | with_reducible apply vNext_legal
                    | with_reducible apply vOpcode_legal | with_reducible apply wordRun_legal | with_reducible apply legal_foldl | with_reducible apply legal_ite
                    | simp only [Device.legal_mk] | simp only [Device.legal_any] | split)

end Sys2Proof.Machine
end

