-- ==== Sys2Proof/Laws/LegalStages.lean ====
section
/-! SUPPORT. Every operation of Machine/Stages.lean keeps a legal device legal (Safety.lean). -/
set_option linter.unusedTactic false
set_option linter.unreachableTactic false
set_option linter.unusedVariables false
set_option linter.unusedSimpArgs false
namespace Sys2Proof.Machine

theorem Device.updStep_legal {z : Kept} (d : Device) (j : Nat) (n : Nat) (f : Step → Step) (h_d : d.Legal z) :
    (Device.updStep d j n f).Legal z := by
  unfold Device.updStep
  try dsimp only
  repeat' (first | with_reducible assumption | intro _ | with_reducible apply Device.updJob_legal | with_reducible apply legal_foldl
                    | with_reducible apply legal_ite | simp only [Device.legal_mk] | simp only [Device.legal_any] | split)

theorem Device.captureUndo_legal {z : Kept} (d : Device) (j : Nat) (n : Nat) (h_d : d.Legal z) :
    (Device.captureUndo d j n).Legal z := by
  unfold Device.captureUndo
  try dsimp only
  repeat' (first | with_reducible assumption | intro _ | with_reducible apply Device.updStep_legal | with_reducible apply legal_foldl
                    | with_reducible apply legal_ite | simp only [Device.legal_mk] | simp only [Device.legal_any] | split)

theorem Device.settleStages_legal {z : Kept} (d : Device) (j : Nat) (h_d : d.Legal z) :
    (Device.settleStages d j).Legal z := by
  unfold Device.settleStages
  try dsimp only
  repeat' (first | with_reducible assumption | intro _ | with_reducible apply Device.updStep_legal | with_reducible apply Device.captureUndo_legal
                    | with_reducible apply legal_foldl | with_reducible apply legal_ite | simp only [Device.legal_mk] | simp only [Device.legal_any] | split)

theorem Device.settleAll_legal {z : Kept} (d : Device) (j : Nat) (h_d : d.Legal z) :
    (Device.settleAll d j).Legal z := by
  unfold Device.settleAll
  try dsimp only
  repeat' (first | with_reducible assumption | intro _ | with_reducible apply Device.settleStages_legal | with_reducible apply legal_foldl
                    | with_reducible apply legal_ite | simp only [Device.legal_mk] | simp only [Device.legal_any] | split)

end Sys2Proof.Machine
end

