-- ==== Sys2Proof/Laws/LegalPanExec.lean ====
section
/-! SUPPORT. Every operation of Machine/PanExec.lean keeps a legal device legal (Safety.lean). -/
set_option linter.unusedTactic false
set_option linter.unreachableTactic false
set_option linter.unusedVariables false
set_option linter.unusedSimpArgs false
namespace Sys2Proof.Machine

theorem settle_legal {z : Kept} (p : Nat) (r : PRes) (h : r.Legal z) : (settle p r).Legal z := by
  cases r with
  | ok d => exact h
  | wait d => exact h
  | halt d c st => exact Device.panFault_legal _ _ _ _ h

theorem Device.runCore_legal {z : Kept} (d : Device) (p : Nat) (f : Device → PRes) (hit : Bool) (h_d : d.Legal z) (h_f : ∀ (x0 : Device), x0.Legal z → (f x0).Legal z) :
    (Device.runCore d p f hit).Legal z := by
  unfold Device.runCore
  try dsimp only
  repeat' (first | with_reducible assumption | intro _ | with_reducible apply PRes.ok_legal | with_reducible apply PRes.halt_legal
                    | with_reducible apply PRes.wait_legal | with_reducible apply pres_ite | with_reducible apply h_f | with_reducible apply inSegment_legal
                    | with_reducible apply settle_legal | with_reducible apply legal_foldl | with_reducible apply legal_ite | simp only [Device.legal_mk]
                    | simp only [Device.legal_any] | split)

theorem Device.runLane_legal {z : Kept} (d : Device) (p : Nat) (f : Device → PRes) (h_d : d.Legal z) (h_f : ∀ (x0 : Device), x0.Legal z → (f x0).Legal z) :
    (Device.runLane d p f).Legal z := by
  unfold Device.runLane
  try dsimp only
  repeat' (first | with_reducible assumption | intro _ | with_reducible apply PRes.ok_legal | with_reducible apply PRes.halt_legal
                    | with_reducible apply PRes.wait_legal | with_reducible apply pres_ite | with_reducible apply h_f | with_reducible apply vNext_legal
                    | with_reducible apply inSegment_legal | with_reducible apply settle_legal | with_reducible apply legal_foldl | with_reducible apply legal_ite
                    | simp only [Device.legal_mk] | simp only [Device.legal_any] | split)

theorem execVmov_legal {z : Kept} (p : Fin 64) (v : VInsn) (s : State) :
    ∃ d, execVmov p v s = .next { s with dev := d } ∧ (s.dev.Legal z → d.Legal z) := by
  refine ⟨_, rfl, fun h => ?_⟩
  try dsimp only
  repeat' (first | with_reducible assumption | intro _ | with_reducible apply PRes.ok_legal | with_reducible apply PRes.halt_legal
                    | with_reducible apply PRes.wait_legal | with_reducible apply pres_ite | with_reducible apply vLanes_legal | with_reducible apply Device.runLane_legal
                    | with_reducible apply legal_foldl | with_reducible apply legal_ite | simp only [Device.legal_mk] | simp only [Device.legal_any] | split)

theorem execVcvt_legal {z : Kept} (p : Fin 64) (v : VInsn) (s : State) :
    ∃ d, execVcvt p v s = .next { s with dev := d } ∧ (s.dev.Legal z → d.Legal z) := by
  refine ⟨_, rfl, fun h => ?_⟩
  try dsimp only
  repeat' (first | with_reducible assumption | intro _ | with_reducible apply PRes.ok_legal | with_reducible apply PRes.halt_legal
                    | with_reducible apply PRes.wait_legal | with_reducible apply pres_ite | with_reducible apply vCvt_legal | with_reducible apply Device.runLane_legal
                    | with_reducible apply legal_foldl | with_reducible apply legal_ite | simp only [Device.legal_mk] | simp only [Device.legal_any] | split)

theorem execVbcast_legal {z : Kept} (p : Fin 64) (v : VInsn) (s : State) :
    ∃ d, execVbcast p v s = .next { s with dev := d } ∧ (s.dev.Legal z → d.Legal z) := by
  refine ⟨_, rfl, fun h => ?_⟩
  try dsimp only
  repeat' (first | with_reducible assumption | intro _ | with_reducible apply PRes.ok_legal | with_reducible apply PRes.halt_legal
                    | with_reducible apply PRes.wait_legal | with_reducible apply pres_ite | with_reducible apply vBcast_legal | with_reducible apply Device.runLane_legal
                    | with_reducible apply legal_foldl | with_reducible apply legal_ite | simp only [Device.legal_mk] | simp only [Device.legal_any] | split)

theorem execViota_legal {z : Kept} (p : Fin 64) (v : VInsn) (s : State) :
    ∃ d, execViota p v s = .next { s with dev := d } ∧ (s.dev.Legal z → d.Legal z) := by
  refine ⟨_, rfl, fun h => ?_⟩
  try dsimp only
  repeat' (first | with_reducible assumption | intro _ | with_reducible apply PRes.ok_legal | with_reducible apply PRes.halt_legal
                    | with_reducible apply PRes.wait_legal | with_reducible apply pres_ite | with_reducible apply vIota_legal | with_reducible apply Device.runLane_legal
                    | with_reducible apply legal_foldl | with_reducible apply legal_ite | simp only [Device.legal_mk] | simp only [Device.legal_any] | split)

theorem execVadd_legal {z : Kept} (p : Fin 64) (v : VInsn) (s : State) :
    ∃ d, execVadd p v s = .next { s with dev := d } ∧ (s.dev.Legal z → d.Legal z) := by
  refine ⟨_, rfl, fun h => ?_⟩
  try dsimp only
  repeat' (first | with_reducible assumption | intro _ | with_reducible apply PRes.ok_legal | with_reducible apply PRes.halt_legal
                    | with_reducible apply PRes.wait_legal | with_reducible apply pres_ite | with_reducible apply vLanes_legal | with_reducible apply Device.runLane_legal
                    | with_reducible apply legal_foldl | with_reducible apply legal_ite | simp only [Device.legal_mk] | simp only [Device.legal_any] | split)

theorem execVsub_legal {z : Kept} (p : Fin 64) (v : VInsn) (s : State) :
    ∃ d, execVsub p v s = .next { s with dev := d } ∧ (s.dev.Legal z → d.Legal z) := by
  refine ⟨_, rfl, fun h => ?_⟩
  try dsimp only
  repeat' (first | with_reducible assumption | intro _ | with_reducible apply PRes.ok_legal | with_reducible apply PRes.halt_legal
                    | with_reducible apply PRes.wait_legal | with_reducible apply pres_ite | with_reducible apply vLanes_legal | with_reducible apply Device.runLane_legal
                    | with_reducible apply legal_foldl | with_reducible apply legal_ite | simp only [Device.legal_mk] | simp only [Device.legal_any] | split)

theorem execVmul_legal {z : Kept} (p : Fin 64) (v : VInsn) (s : State) :
    ∃ d, execVmul p v s = .next { s with dev := d } ∧ (s.dev.Legal z → d.Legal z) := by
  refine ⟨_, rfl, fun h => ?_⟩
  try dsimp only
  repeat' (first | with_reducible assumption | intro _ | with_reducible apply PRes.ok_legal | with_reducible apply PRes.halt_legal
                    | with_reducible apply PRes.wait_legal | with_reducible apply pres_ite | with_reducible apply vLanes_legal | with_reducible apply Device.runLane_legal
                    | with_reducible apply legal_foldl | with_reducible apply legal_ite | simp only [Device.legal_mk] | simp only [Device.legal_any] | split)

theorem execVfma_legal {z : Kept} (p : Fin 64) (v : VInsn) (s : State) :
    ∃ d, execVfma p v s = .next { s with dev := d } ∧ (s.dev.Legal z → d.Legal z) := by
  refine ⟨_, rfl, fun h => ?_⟩
  try dsimp only
  repeat' (first | with_reducible assumption | intro _ | with_reducible apply PRes.ok_legal | with_reducible apply PRes.halt_legal
                    | with_reducible apply PRes.wait_legal | with_reducible apply pres_ite | with_reducible apply vLanes_legal | with_reducible apply Device.runLane_legal
                    | with_reducible apply legal_foldl | with_reducible apply legal_ite | simp only [Device.legal_mk] | simp only [Device.legal_any] | split)

theorem execVmin_legal {z : Kept} (p : Fin 64) (v : VInsn) (s : State) :
    ∃ d, execVmin p v s = .next { s with dev := d } ∧ (s.dev.Legal z → d.Legal z) := by
  refine ⟨_, rfl, fun h => ?_⟩
  try dsimp only
  repeat' (first | with_reducible assumption | intro _ | with_reducible apply PRes.ok_legal | with_reducible apply PRes.halt_legal
                    | with_reducible apply PRes.wait_legal | with_reducible apply pres_ite | with_reducible apply vLanes_legal | with_reducible apply Device.runLane_legal
                    | with_reducible apply legal_foldl | with_reducible apply legal_ite | simp only [Device.legal_mk] | simp only [Device.legal_any] | split)

theorem execVmax_legal {z : Kept} (p : Fin 64) (v : VInsn) (s : State) :
    ∃ d, execVmax p v s = .next { s with dev := d } ∧ (s.dev.Legal z → d.Legal z) := by
  refine ⟨_, rfl, fun h => ?_⟩
  try dsimp only
  repeat' (first | with_reducible assumption | intro _ | with_reducible apply PRes.ok_legal | with_reducible apply PRes.halt_legal
                    | with_reducible apply PRes.wait_legal | with_reducible apply pres_ite | with_reducible apply vLanes_legal | with_reducible apply Device.runLane_legal
                    | with_reducible apply legal_foldl | with_reducible apply legal_ite | simp only [Device.legal_mk] | simp only [Device.legal_any] | split)

theorem execVabs_legal {z : Kept} (p : Fin 64) (v : VInsn) (s : State) :
    ∃ d, execVabs p v s = .next { s with dev := d } ∧ (s.dev.Legal z → d.Legal z) := by
  refine ⟨_, rfl, fun h => ?_⟩
  try dsimp only
  repeat' (first | with_reducible assumption | intro _ | with_reducible apply PRes.ok_legal | with_reducible apply PRes.halt_legal
                    | with_reducible apply PRes.wait_legal | with_reducible apply pres_ite | with_reducible apply vLanes_legal | with_reducible apply Device.runLane_legal
                    | with_reducible apply legal_foldl | with_reducible apply legal_ite | simp only [Device.legal_mk] | simp only [Device.legal_any] | split)

theorem execVneg_legal {z : Kept} (p : Fin 64) (v : VInsn) (s : State) :
    ∃ d, execVneg p v s = .next { s with dev := d } ∧ (s.dev.Legal z → d.Legal z) := by
  refine ⟨_, rfl, fun h => ?_⟩
  try dsimp only
  repeat' (first | with_reducible assumption | intro _ | with_reducible apply PRes.ok_legal | with_reducible apply PRes.halt_legal
                    | with_reducible apply PRes.wait_legal | with_reducible apply pres_ite | with_reducible apply vLanes_legal | with_reducible apply Device.runLane_legal
                    | with_reducible apply legal_foldl | with_reducible apply legal_ite | simp only [Device.legal_mk] | simp only [Device.legal_any] | split)

theorem execVcpsgn_legal {z : Kept} (p : Fin 64) (v : VInsn) (s : State) :
    ∃ d, execVcpsgn p v s = .next { s with dev := d } ∧ (s.dev.Legal z → d.Legal z) := by
  refine ⟨_, rfl, fun h => ?_⟩
  try dsimp only
  repeat' (first | with_reducible assumption | intro _ | with_reducible apply PRes.ok_legal | with_reducible apply PRes.halt_legal
                    | with_reducible apply PRes.wait_legal | with_reducible apply pres_ite | with_reducible apply vLanes_legal | with_reducible apply Device.runLane_legal
                    | with_reducible apply legal_foldl | with_reducible apply legal_ite | simp only [Device.legal_mk] | simp only [Device.legal_any] | split)

theorem execViadd_legal {z : Kept} (p : Fin 64) (v : VInsn) (s : State) :
    ∃ d, execViadd p v s = .next { s with dev := d } ∧ (s.dev.Legal z → d.Legal z) := by
  refine ⟨_, rfl, fun h => ?_⟩
  try dsimp only
  repeat' (first | with_reducible assumption | intro _ | with_reducible apply PRes.ok_legal | with_reducible apply PRes.halt_legal
                    | with_reducible apply PRes.wait_legal | with_reducible apply pres_ite | with_reducible apply vLanes_legal | with_reducible apply Device.runLane_legal
                    | with_reducible apply legal_foldl | with_reducible apply legal_ite | simp only [Device.legal_mk] | simp only [Device.legal_any] | split)

theorem execVisub_legal {z : Kept} (p : Fin 64) (v : VInsn) (s : State) :
    ∃ d, execVisub p v s = .next { s with dev := d } ∧ (s.dev.Legal z → d.Legal z) := by
  refine ⟨_, rfl, fun h => ?_⟩
  try dsimp only
  repeat' (first | with_reducible assumption | intro _ | with_reducible apply PRes.ok_legal | with_reducible apply PRes.halt_legal
                    | with_reducible apply PRes.wait_legal | with_reducible apply pres_ite | with_reducible apply vLanes_legal | with_reducible apply Device.runLane_legal
                    | with_reducible apply legal_foldl | with_reducible apply legal_ite | simp only [Device.legal_mk] | simp only [Device.legal_any] | split)

theorem execVimul_legal {z : Kept} (p : Fin 64) (v : VInsn) (s : State) :
    ∃ d, execVimul p v s = .next { s with dev := d } ∧ (s.dev.Legal z → d.Legal z) := by
  refine ⟨_, rfl, fun h => ?_⟩
  try dsimp only
  repeat' (first | with_reducible assumption | intro _ | with_reducible apply PRes.ok_legal | with_reducible apply PRes.halt_legal
                    | with_reducible apply PRes.wait_legal | with_reducible apply pres_ite | with_reducible apply vLanes_legal | with_reducible apply Device.runLane_legal
                    | with_reducible apply legal_foldl | with_reducible apply legal_ite | simp only [Device.legal_mk] | simp only [Device.legal_any] | split)

theorem execVand_legal {z : Kept} (p : Fin 64) (v : VInsn) (s : State) :
    ∃ d, execVand p v s = .next { s with dev := d } ∧ (s.dev.Legal z → d.Legal z) := by
  refine ⟨_, rfl, fun h => ?_⟩
  try dsimp only
  repeat' (first | with_reducible assumption | intro _ | with_reducible apply PRes.ok_legal | with_reducible apply PRes.halt_legal
                    | with_reducible apply PRes.wait_legal | with_reducible apply pres_ite | with_reducible apply vLanes_legal | with_reducible apply Device.runLane_legal
                    | with_reducible apply legal_foldl | with_reducible apply legal_ite | simp only [Device.legal_mk] | simp only [Device.legal_any] | split)

theorem execVor_legal {z : Kept} (p : Fin 64) (v : VInsn) (s : State) :
    ∃ d, execVor p v s = .next { s with dev := d } ∧ (s.dev.Legal z → d.Legal z) := by
  refine ⟨_, rfl, fun h => ?_⟩
  try dsimp only
  repeat' (first | with_reducible assumption | intro _ | with_reducible apply PRes.ok_legal | with_reducible apply PRes.halt_legal
                    | with_reducible apply PRes.wait_legal | with_reducible apply pres_ite | with_reducible apply vLanes_legal | with_reducible apply Device.runLane_legal
                    | with_reducible apply legal_foldl | with_reducible apply legal_ite | simp only [Device.legal_mk] | simp only [Device.legal_any] | split)

theorem execVxor_legal {z : Kept} (p : Fin 64) (v : VInsn) (s : State) :
    ∃ d, execVxor p v s = .next { s with dev := d } ∧ (s.dev.Legal z → d.Legal z) := by
  refine ⟨_, rfl, fun h => ?_⟩
  try dsimp only
  repeat' (first | with_reducible assumption | intro _ | with_reducible apply PRes.ok_legal | with_reducible apply PRes.halt_legal
                    | with_reducible apply PRes.wait_legal | with_reducible apply pres_ite | with_reducible apply vLanes_legal | with_reducible apply Device.runLane_legal
                    | with_reducible apply legal_foldl | with_reducible apply legal_ite | simp only [Device.legal_mk] | simp only [Device.legal_any] | split)

theorem execVsll_legal {z : Kept} (p : Fin 64) (v : VInsn) (s : State) :
    ∃ d, execVsll p v s = .next { s with dev := d } ∧ (s.dev.Legal z → d.Legal z) := by
  refine ⟨_, rfl, fun h => ?_⟩
  try dsimp only
  repeat' (first | with_reducible assumption | intro _ | with_reducible apply PRes.ok_legal | with_reducible apply PRes.halt_legal
                    | with_reducible apply PRes.wait_legal | with_reducible apply pres_ite | with_reducible apply vLanes_legal | with_reducible apply Device.runLane_legal
                    | with_reducible apply legal_foldl | with_reducible apply legal_ite | simp only [Device.legal_mk] | simp only [Device.legal_any] | split)

theorem execVsrl_legal {z : Kept} (p : Fin 64) (v : VInsn) (s : State) :
    ∃ d, execVsrl p v s = .next { s with dev := d } ∧ (s.dev.Legal z → d.Legal z) := by
  refine ⟨_, rfl, fun h => ?_⟩
  try dsimp only
  repeat' (first | with_reducible assumption | intro _ | with_reducible apply PRes.ok_legal | with_reducible apply PRes.halt_legal
                    | with_reducible apply PRes.wait_legal | with_reducible apply pres_ite | with_reducible apply vLanes_legal | with_reducible apply Device.runLane_legal
                    | with_reducible apply legal_foldl | with_reducible apply legal_ite | simp only [Device.legal_mk] | simp only [Device.legal_any] | split)

theorem execVsra_legal {z : Kept} (p : Fin 64) (v : VInsn) (s : State) :
    ∃ d, execVsra p v s = .next { s with dev := d } ∧ (s.dev.Legal z → d.Legal z) := by
  refine ⟨_, rfl, fun h => ?_⟩
  try dsimp only
  repeat' (first | with_reducible assumption | intro _ | with_reducible apply PRes.ok_legal | with_reducible apply PRes.halt_legal
                    | with_reducible apply PRes.wait_legal | with_reducible apply pres_ite | with_reducible apply vLanes_legal | with_reducible apply Device.runLane_legal
                    | with_reducible apply legal_foldl | with_reducible apply legal_ite | simp only [Device.legal_mk] | simp only [Device.legal_any] | split)

theorem execVimin_legal {z : Kept} (p : Fin 64) (v : VInsn) (s : State) :
    ∃ d, execVimin p v s = .next { s with dev := d } ∧ (s.dev.Legal z → d.Legal z) := by
  refine ⟨_, rfl, fun h => ?_⟩
  try dsimp only
  repeat' (first | with_reducible assumption | intro _ | with_reducible apply PRes.ok_legal | with_reducible apply PRes.halt_legal
                    | with_reducible apply PRes.wait_legal | with_reducible apply pres_ite | with_reducible apply vLanes_legal | with_reducible apply Device.runLane_legal
                    | with_reducible apply legal_foldl | with_reducible apply legal_ite | simp only [Device.legal_mk] | simp only [Device.legal_any] | split)

theorem execVimax_legal {z : Kept} (p : Fin 64) (v : VInsn) (s : State) :
    ∃ d, execVimax p v s = .next { s with dev := d } ∧ (s.dev.Legal z → d.Legal z) := by
  refine ⟨_, rfl, fun h => ?_⟩
  try dsimp only
  repeat' (first | with_reducible assumption | intro _ | with_reducible apply PRes.ok_legal | with_reducible apply PRes.halt_legal
                    | with_reducible apply PRes.wait_legal | with_reducible apply pres_ite | with_reducible apply vLanes_legal | with_reducible apply Device.runLane_legal
                    | with_reducible apply legal_foldl | with_reducible apply legal_ite | simp only [Device.legal_mk] | simp only [Device.legal_any] | split)

theorem execVcmpeq_legal {z : Kept} (p : Fin 64) (v : VInsn) (s : State) :
    ∃ d, execVcmpeq p v s = .next { s with dev := d } ∧ (s.dev.Legal z → d.Legal z) := by
  refine ⟨_, rfl, fun h => ?_⟩
  try dsimp only
  repeat' (first | with_reducible assumption | intro _ | with_reducible apply PRes.ok_legal | with_reducible apply PRes.halt_legal
                    | with_reducible apply PRes.wait_legal | with_reducible apply pres_ite | with_reducible apply vCompare_legal
                    | with_reducible apply Device.runLane_legal | with_reducible apply legal_foldl | with_reducible apply legal_ite | simp only [Device.legal_mk]
                    | simp only [Device.legal_any] | split)

theorem execVcmplt_legal {z : Kept} (p : Fin 64) (v : VInsn) (s : State) :
    ∃ d, execVcmplt p v s = .next { s with dev := d } ∧ (s.dev.Legal z → d.Legal z) := by
  refine ⟨_, rfl, fun h => ?_⟩
  try dsimp only
  repeat' (first | with_reducible assumption | intro _ | with_reducible apply PRes.ok_legal | with_reducible apply PRes.halt_legal
                    | with_reducible apply PRes.wait_legal | with_reducible apply pres_ite | with_reducible apply vCompare_legal
                    | with_reducible apply Device.runLane_legal | with_reducible apply legal_foldl | with_reducible apply legal_ite | simp only [Device.legal_mk]
                    | simp only [Device.legal_any] | split)

theorem execVcmple_legal {z : Kept} (p : Fin 64) (v : VInsn) (s : State) :
    ∃ d, execVcmple p v s = .next { s with dev := d } ∧ (s.dev.Legal z → d.Legal z) := by
  refine ⟨_, rfl, fun h => ?_⟩
  try dsimp only
  repeat' (first | with_reducible assumption | intro _ | with_reducible apply PRes.ok_legal | with_reducible apply PRes.halt_legal
                    | with_reducible apply PRes.wait_legal | with_reducible apply pres_ite | with_reducible apply vCompare_legal
                    | with_reducible apply Device.runLane_legal | with_reducible apply legal_foldl | with_reducible apply legal_ite | simp only [Device.legal_mk]
                    | simp only [Device.legal_any] | split)

theorem execVsel_legal {z : Kept} (p : Fin 64) (v : VInsn) (s : State) :
    ∃ d, execVsel p v s = .next { s with dev := d } ∧ (s.dev.Legal z → d.Legal z) := by
  refine ⟨_, rfl, fun h => ?_⟩
  try dsimp only
  repeat' (first | with_reducible assumption | intro _ | with_reducible apply PRes.ok_legal | with_reducible apply PRes.halt_legal
                    | with_reducible apply PRes.wait_legal | with_reducible apply pres_ite | with_reducible apply vLanes_legal | with_reducible apply Device.runLane_legal
                    | with_reducible apply legal_foldl | with_reducible apply legal_ite | simp only [Device.legal_mk] | simp only [Device.legal_any] | split)

theorem execVexp2_legal {z : Kept} (p : Fin 64) (v : VInsn) (s : State) :
    ∃ d, execVexp2 p v s = .next { s with dev := d } ∧ (s.dev.Legal z → d.Legal z) := by
  refine ⟨_, rfl, fun h => ?_⟩
  try dsimp only
  repeat' (first | with_reducible assumption | intro _ | with_reducible apply PRes.ok_legal | with_reducible apply PRes.halt_legal
                    | with_reducible apply PRes.wait_legal | with_reducible apply pres_ite | with_reducible apply vFunction_legal
                    | with_reducible apply Device.runLane_legal | with_reducible apply legal_foldl | with_reducible apply legal_ite | simp only [Device.legal_mk]
                    | simp only [Device.legal_any] | split)

theorem execVlog2_legal {z : Kept} (p : Fin 64) (v : VInsn) (s : State) :
    ∃ d, execVlog2 p v s = .next { s with dev := d } ∧ (s.dev.Legal z → d.Legal z) := by
  refine ⟨_, rfl, fun h => ?_⟩
  try dsimp only
  repeat' (first | with_reducible assumption | intro _ | with_reducible apply PRes.ok_legal | with_reducible apply PRes.halt_legal
                    | with_reducible apply PRes.wait_legal | with_reducible apply pres_ite | with_reducible apply vFunction_legal
                    | with_reducible apply Device.runLane_legal | with_reducible apply legal_foldl | with_reducible apply legal_ite | simp only [Device.legal_mk]
                    | simp only [Device.legal_any] | split)

theorem execVrcp_legal {z : Kept} (p : Fin 64) (v : VInsn) (s : State) :
    ∃ d, execVrcp p v s = .next { s with dev := d } ∧ (s.dev.Legal z → d.Legal z) := by
  refine ⟨_, rfl, fun h => ?_⟩
  try dsimp only
  repeat' (first | with_reducible assumption | intro _ | with_reducible apply PRes.ok_legal | with_reducible apply PRes.halt_legal
                    | with_reducible apply PRes.wait_legal | with_reducible apply pres_ite | with_reducible apply vFunction_legal
                    | with_reducible apply Device.runLane_legal | with_reducible apply legal_foldl | with_reducible apply legal_ite | simp only [Device.legal_mk]
                    | simp only [Device.legal_any] | split)

theorem execVrsqrt_legal {z : Kept} (p : Fin 64) (v : VInsn) (s : State) :
    ∃ d, execVrsqrt p v s = .next { s with dev := d } ∧ (s.dev.Legal z → d.Legal z) := by
  refine ⟨_, rfl, fun h => ?_⟩
  try dsimp only
  repeat' (first | with_reducible assumption | intro _ | with_reducible apply PRes.ok_legal | with_reducible apply PRes.halt_legal
                    | with_reducible apply PRes.wait_legal | with_reducible apply pres_ite | with_reducible apply vFunction_legal
                    | with_reducible apply Device.runLane_legal | with_reducible apply legal_foldl | with_reducible apply legal_ite | simp only [Device.legal_mk]
                    | simp only [Device.legal_any] | split)

theorem execVsqrt_legal {z : Kept} (p : Fin 64) (v : VInsn) (s : State) :
    ∃ d, execVsqrt p v s = .next { s with dev := d } ∧ (s.dev.Legal z → d.Legal z) := by
  refine ⟨_, rfl, fun h => ?_⟩
  try dsimp only
  repeat' (first | with_reducible assumption | intro _ | with_reducible apply PRes.ok_legal | with_reducible apply PRes.halt_legal
                    | with_reducible apply PRes.wait_legal | with_reducible apply pres_ite | with_reducible apply vFunction_legal
                    | with_reducible apply Device.runLane_legal | with_reducible apply legal_foldl | with_reducible apply legal_ite | simp only [Device.legal_mk]
                    | simp only [Device.legal_any] | split)

theorem execVtanh_legal {z : Kept} (p : Fin 64) (v : VInsn) (s : State) :
    ∃ d, execVtanh p v s = .next { s with dev := d } ∧ (s.dev.Legal z → d.Legal z) := by
  refine ⟨_, rfl, fun h => ?_⟩
  try dsimp only
  repeat' (first | with_reducible assumption | intro _ | with_reducible apply PRes.ok_legal | with_reducible apply PRes.halt_legal
                    | with_reducible apply PRes.wait_legal | with_reducible apply pres_ite | with_reducible apply vFunction_legal
                    | with_reducible apply Device.runLane_legal | with_reducible apply legal_foldl | with_reducible apply legal_ite | simp only [Device.legal_mk]
                    | simp only [Device.legal_any] | split)

theorem execVsigm_legal {z : Kept} (p : Fin 64) (v : VInsn) (s : State) :
    ∃ d, execVsigm p v s = .next { s with dev := d } ∧ (s.dev.Legal z → d.Legal z) := by
  refine ⟨_, rfl, fun h => ?_⟩
  try dsimp only
  repeat' (first | with_reducible assumption | intro _ | with_reducible apply PRes.ok_legal | with_reducible apply PRes.halt_legal
                    | with_reducible apply PRes.wait_legal | with_reducible apply pres_ite | with_reducible apply vFunction_legal
                    | with_reducible apply Device.runLane_legal | with_reducible apply legal_foldl | with_reducible apply legal_ite | simp only [Device.legal_mk]
                    | simp only [Device.legal_any] | split)

theorem execVgelu_legal {z : Kept} (p : Fin 64) (v : VInsn) (s : State) :
    ∃ d, execVgelu p v s = .next { s with dev := d } ∧ (s.dev.Legal z → d.Legal z) := by
  refine ⟨_, rfl, fun h => ?_⟩
  try dsimp only
  repeat' (first | with_reducible assumption | intro _ | with_reducible apply PRes.ok_legal | with_reducible apply PRes.halt_legal
                    | with_reducible apply PRes.wait_legal | with_reducible apply pres_ite | with_reducible apply vFunction_legal
                    | with_reducible apply Device.runLane_legal | with_reducible apply legal_foldl | with_reducible apply legal_ite | simp only [Device.legal_mk]
                    | simp only [Device.legal_any] | split)

theorem execVsegsum_legal {z : Kept} (p : Fin 64) (v : VInsn) (s : State) :
    ∃ d, execVsegsum p v s = .next { s with dev := d } ∧ (s.dev.Legal z → d.Legal z) := by
  refine ⟨_, rfl, fun h => ?_⟩
  try dsimp only
  repeat' (first | with_reducible assumption | intro _ | with_reducible apply PRes.ok_legal | with_reducible apply PRes.halt_legal
                    | with_reducible apply PRes.wait_legal | with_reducible apply pres_ite | with_reducible apply vSegment_legal
                    | with_reducible apply Device.runLane_legal | with_reducible apply legal_foldl | with_reducible apply legal_ite | simp only [Device.legal_mk]
                    | simp only [Device.legal_any] | split)

theorem execVsegmax_legal {z : Kept} (p : Fin 64) (v : VInsn) (s : State) :
    ∃ d, execVsegmax p v s = .next { s with dev := d } ∧ (s.dev.Legal z → d.Legal z) := by
  refine ⟨_, rfl, fun h => ?_⟩
  try dsimp only
  repeat' (first | with_reducible assumption | intro _ | with_reducible apply PRes.ok_legal | with_reducible apply PRes.halt_legal
                    | with_reducible apply PRes.wait_legal | with_reducible apply pres_ite | with_reducible apply vSegment_legal
                    | with_reducible apply Device.runLane_legal | with_reducible apply legal_foldl | with_reducible apply legal_ite | simp only [Device.legal_mk]
                    | simp only [Device.legal_any] | split)

theorem execVsegmin_legal {z : Kept} (p : Fin 64) (v : VInsn) (s : State) :
    ∃ d, execVsegmin p v s = .next { s with dev := d } ∧ (s.dev.Legal z → d.Legal z) := by
  refine ⟨_, rfl, fun h => ?_⟩
  try dsimp only
  repeat' (first | with_reducible assumption | intro _ | with_reducible apply PRes.ok_legal | with_reducible apply PRes.halt_legal
                    | with_reducible apply PRes.wait_legal | with_reducible apply pres_ite | with_reducible apply vSegment_legal
                    | with_reducible apply Device.runLane_legal | with_reducible apply legal_foldl | with_reducible apply legal_ite | simp only [Device.legal_mk]
                    | simp only [Device.legal_any] | split)

theorem execVperm_legal {z : Kept} (p : Fin 64) (v : VInsn) (s : State) :
    ∃ d, execVperm p v s = .next { s with dev := d } ∧ (s.dev.Legal z → d.Legal z) := by
  refine ⟨_, rfl, fun h => ?_⟩
  try dsimp only
  repeat' (first | with_reducible assumption | intro _ | with_reducible apply PRes.ok_legal | with_reducible apply PRes.halt_legal
                    | with_reducible apply PRes.wait_legal | with_reducible apply pres_ite | with_reducible apply vPerm_legal | with_reducible apply Device.runLane_legal
                    | with_reducible apply legal_foldl | with_reducible apply legal_ite | simp only [Device.legal_mk] | simp only [Device.legal_any] | split)

theorem execVslidedn_legal {z : Kept} (p : Fin 64) (v : VInsn) (s : State) :
    ∃ d, execVslidedn p v s = .next { s with dev := d } ∧ (s.dev.Legal z → d.Legal z) := by
  refine ⟨_, rfl, fun h => ?_⟩
  try dsimp only
  repeat' (first | with_reducible assumption | intro _ | with_reducible apply PRes.ok_legal | with_reducible apply PRes.halt_legal
                    | with_reducible apply PRes.wait_legal | with_reducible apply pres_ite | with_reducible apply vSlide_legal | with_reducible apply Device.runLane_legal
                    | with_reducible apply legal_foldl | with_reducible apply legal_ite | simp only [Device.legal_mk] | simp only [Device.legal_any] | split)

theorem execVslideup_legal {z : Kept} (p : Fin 64) (v : VInsn) (s : State) :
    ∃ d, execVslideup p v s = .next { s with dev := d } ∧ (s.dev.Legal z → d.Legal z) := by
  refine ⟨_, rfl, fun h => ?_⟩
  try dsimp only
  repeat' (first | with_reducible assumption | intro _ | with_reducible apply PRes.ok_legal | with_reducible apply PRes.halt_legal
                    | with_reducible apply PRes.wait_legal | with_reducible apply pres_ite | with_reducible apply vSlide_legal | with_reducible apply Device.runLane_legal
                    | with_reducible apply legal_foldl | with_reducible apply legal_ite | simp only [Device.legal_mk] | simp only [Device.legal_any] | split)

theorem execVrev_legal {z : Kept} (p : Fin 64) (v : VInsn) (s : State) :
    ∃ d, execVrev p v s = .next { s with dev := d } ∧ (s.dev.Legal z → d.Legal z) := by
  refine ⟨_, rfl, fun h => ?_⟩
  try dsimp only
  repeat' (first | with_reducible assumption | intro _ | with_reducible apply PRes.ok_legal | with_reducible apply PRes.halt_legal
                    | with_reducible apply PRes.wait_legal | with_reducible apply pres_ite | with_reducible apply vRev_legal | with_reducible apply Device.runLane_legal
                    | with_reducible apply legal_foldl | with_reducible apply legal_ite | simp only [Device.legal_mk] | simp only [Device.legal_any] | split)

theorem execVst_legal {z : Kept} (p : Fin 64) (v : VInsn) (hit : Option Nat) (s : State) :
    ∃ d, execVst p v hit s = .next { s with dev := d } ∧ (s.dev.Legal z → d.Legal z) := by
  refine ⟨_, rfl, fun h => ?_⟩
  try dsimp only
  repeat' (first | with_reducible assumption | intro _ | with_reducible apply PRes.ok_legal | with_reducible apply PRes.halt_legal
                    | with_reducible apply PRes.wait_legal | with_reducible apply pres_ite | with_reducible apply withStoreHit_legal | with_reducible apply vStore_legal
                    | with_reducible apply Device.runLane_legal | with_reducible apply legal_foldl | with_reducible apply legal_ite | simp only [Device.legal_mk]
                    | simp only [Device.legal_any] | split)

theorem execVzbc_legal {z : Kept} (p : Fin 64) (v : VInsn) (s : State) :
    ∃ d, execVzbc p v s = .next { s with dev := d } ∧ (s.dev.Legal z → d.Legal z) := by
  refine ⟨_, rfl, fun h => ?_⟩
  try dsimp only
  repeat' (first | with_reducible assumption | intro _ | with_reducible apply PRes.ok_legal | with_reducible apply PRes.halt_legal
                    | with_reducible apply PRes.wait_legal | with_reducible apply pres_ite | with_reducible apply vZbc_legal | with_reducible apply Device.runLane_legal
                    | with_reducible apply legal_foldl | with_reducible apply legal_ite | simp only [Device.legal_mk] | simp only [Device.legal_any] | split)

theorem execVlrd_legal {z : Kept} (p : Fin 64) (v : VInsn) (s : State) :
    ∃ d, execVlrd p v s = .next { s with dev := d } ∧ (s.dev.Legal z → d.Legal z) := by
  refine ⟨_, rfl, fun h => ?_⟩
  try dsimp only
  repeat' (first | with_reducible assumption | intro _ | with_reducible apply PRes.ok_legal | with_reducible apply PRes.halt_legal
                    | with_reducible apply PRes.wait_legal | with_reducible apply pres_ite | with_reducible apply vLrd_legal | with_reducible apply Device.runLane_legal
                    | with_reducible apply legal_foldl | with_reducible apply legal_ite | simp only [Device.legal_mk] | simp only [Device.legal_any] | split)

theorem execVlxrd_legal {z : Kept} (p : Fin 64) (v : VInsn) (s : State) :
    ∃ d, execVlxrd p v s = .next { s with dev := d } ∧ (s.dev.Legal z → d.Legal z) := by
  refine ⟨_, rfl, fun h => ?_⟩
  try dsimp only
  repeat' (first | with_reducible assumption | intro _ | with_reducible apply PRes.ok_legal | with_reducible apply PRes.halt_legal
                    | with_reducible apply PRes.wait_legal | with_reducible apply pres_ite | with_reducible apply vLxrd_legal | with_reducible apply Device.runLane_legal
                    | with_reducible apply legal_foldl | with_reducible apply legal_ite | simp only [Device.legal_mk] | simp only [Device.legal_any] | split)

theorem execVlpadd_legal {z : Kept} (p : Fin 64) (v : VInsn) (s : State) :
    ∃ d, execVlpadd p v s = .next { s with dev := d } ∧ (s.dev.Legal z → d.Legal z) := by
  refine ⟨_, rfl, fun h => ?_⟩
  try dsimp only
  repeat' (first | with_reducible assumption | intro _ | with_reducible apply PRes.ok_legal | with_reducible apply PRes.halt_legal
                    | with_reducible apply PRes.wait_legal | with_reducible apply pres_ite | with_reducible apply vLpadd_legal | with_reducible apply Device.runLane_legal
                    | with_reducible apply legal_foldl | with_reducible apply legal_ite | simp only [Device.legal_mk] | simp only [Device.legal_any] | split)

theorem execVfence_legal {z : Kept} (p : Fin 64) (v : VInsn) (s : State) :
    ∃ d, execVfence p v s = .next { s with dev := d } ∧ (s.dev.Legal z → d.Legal z) := by
  refine ⟨_, rfl, fun h => ?_⟩
  try dsimp only
  repeat' (first | with_reducible assumption | intro _ | with_reducible apply PRes.ok_legal | with_reducible apply PRes.halt_legal
                    | with_reducible apply PRes.wait_legal | with_reducible apply pres_ite | with_reducible apply vFence_legal | with_reducible apply Device.runLane_legal
                    | with_reducible apply legal_foldl | with_reducible apply legal_ite | simp only [Device.legal_mk] | simp only [Device.legal_any] | split)

theorem execVld_legal {z : Kept} (p : Fin 64) (v : VInsn) (hit : Option Nat) (s : State) :
    ∃ d, execVld p v hit s = .next { s with dev := d } ∧ (s.dev.Legal z → d.Legal z) := by
  refine ⟨_, rfl, fun h => ?_⟩
  try dsimp only
  repeat' (first | with_reducible assumption | intro _ | with_reducible apply PRes.ok_legal | with_reducible apply PRes.halt_legal
                    | with_reducible apply PRes.wait_legal | with_reducible apply pres_ite | with_reducible apply withStoreHit_legal | with_reducible apply vLoad_legal
                    | with_reducible apply Device.runLane_legal | with_reducible apply legal_foldl | with_reducible apply legal_ite | simp only [Device.legal_mk]
                    | simp only [Device.legal_any] | split)

theorem execMxd_legal {z : Kept} (p : Fin 64) (rs1 : Nat) (hit : Option Nat) (s : State) :
    ∃ d, execMxd p rs1 hit s = .next { s with dev := d } ∧ (s.dev.Legal z → d.Legal z) := by
  refine ⟨_, rfl, fun h => ?_⟩
  try dsimp only
  repeat' (first | with_reducible assumption | intro _ | with_reducible apply PRes.ok_legal | with_reducible apply PRes.halt_legal
                    | with_reducible apply PRes.wait_legal | with_reducible apply pres_ite | with_reducible apply withStoreHit_legal | with_reducible apply mxdRun_legal
                    | with_reducible apply Device.runCore_legal | with_reducible apply legal_foldl | with_reducible apply legal_ite | simp only [Device.legal_mk]
                    | simp only [Device.legal_any] | split)

theorem execCpy_legal {z : Kept} (p : Fin 64) (rs1 : Nat) (hit : Option Nat) (s : State) :
    ∃ d, execCpy p rs1 hit s = .next { s with dev := d } ∧ (s.dev.Legal z → d.Legal z) := by
  refine ⟨_, rfl, fun h => ?_⟩
  try dsimp only
  repeat' (first | with_reducible assumption | intro _ | with_reducible apply PRes.ok_legal | with_reducible apply PRes.halt_legal
                    | with_reducible apply PRes.wait_legal | with_reducible apply pres_ite | with_reducible apply withStoreHit_legal | with_reducible apply cpyRun_legal
                    | with_reducible apply Device.runCore_legal | with_reducible apply legal_foldl | with_reducible apply legal_ite | simp only [Device.legal_mk]
                    | simp only [Device.legal_any] | split)

theorem execFset_legal {z : Kept} (p : Fin 64) (flag : Nat) (s : State) :
    ∃ d, execFset p flag s = .next { s with dev := d } ∧ (s.dev.Legal z → d.Legal z) := by
  refine ⟨_, rfl, fun h => ?_⟩
  try dsimp only
  repeat' (first | with_reducible assumption | intro _ | with_reducible apply PRes.ok_legal | with_reducible apply PRes.halt_legal
                    | with_reducible apply PRes.wait_legal | with_reducible apply pres_ite | with_reducible apply fsetRun_legal
                    | with_reducible apply Device.runCore_legal | with_reducible apply legal_foldl | with_reducible apply legal_ite | simp only [Device.legal_mk]
                    | simp only [Device.legal_any] | split)

theorem execFclr_legal {z : Kept} (p : Fin 64) (flag : Nat) (s : State) :
    ∃ d, execFclr p flag s = .next { s with dev := d } ∧ (s.dev.Legal z → d.Legal z) := by
  refine ⟨_, rfl, fun h => ?_⟩
  try dsimp only
  repeat' (first | with_reducible assumption | intro _ | with_reducible apply PRes.ok_legal | with_reducible apply PRes.halt_legal
                    | with_reducible apply PRes.wait_legal | with_reducible apply pres_ite | with_reducible apply fclrRun_legal
                    | with_reducible apply Device.runCore_legal | with_reducible apply legal_foldl | with_reducible apply legal_ite | simp only [Device.legal_mk]
                    | simp only [Device.legal_any] | split)

theorem execFwait_legal {z : Kept} (p : Fin 64) (flag : Nat) (s : State) :
    ∃ d, execFwait p flag s = .next { s with dev := d } ∧ (s.dev.Legal z → d.Legal z) := by
  refine ⟨_, rfl, fun h => ?_⟩
  try dsimp only
  repeat' (first | with_reducible assumption | intro _ | with_reducible apply PRes.ok_legal | with_reducible apply PRes.halt_legal
                    | with_reducible apply PRes.wait_legal | with_reducible apply pres_ite | with_reducible apply fwaitRun_legal
                    | with_reducible apply Device.runCore_legal | with_reducible apply legal_foldl | with_reducible apply legal_ite | simp only [Device.legal_mk]
                    | simp only [Device.legal_any] | split)

theorem execFwaitc_legal {z : Kept} (p : Fin 64) (flag : Nat) (s : State) :
    ∃ d, execFwaitc p flag s = .next { s with dev := d } ∧ (s.dev.Legal z → d.Legal z) := by
  refine ⟨_, rfl, fun h => ?_⟩
  try dsimp only
  repeat' (first | with_reducible assumption | intro _ | with_reducible apply PRes.ok_legal | with_reducible apply PRes.halt_legal
                    | with_reducible apply PRes.wait_legal | with_reducible apply pres_ite | with_reducible apply fwaitcRun_legal
                    | with_reducible apply Device.runCore_legal | with_reducible apply legal_foldl | with_reducible apply legal_ite | simp only [Device.legal_mk]
                    | simp only [Device.legal_any] | split)

theorem execFtest_legal {z : Kept} (p : Fin 64) (rd : Nat) (flag : Nat) (s : State) :
    ∃ d, execFtest p rd flag s = .next { s with dev := d } ∧ (s.dev.Legal z → d.Legal z) := by
  refine ⟨_, rfl, fun h => ?_⟩
  try dsimp only
  repeat' (first | with_reducible assumption | intro _ | with_reducible apply PRes.ok_legal | with_reducible apply PRes.halt_legal
                    | with_reducible apply PRes.wait_legal | with_reducible apply pres_ite | with_reducible apply ftestRun_legal
                    | with_reducible apply Device.runCore_legal | with_reducible apply legal_foldl | with_reducible apply legal_ite | simp only [Device.legal_mk]
                    | simp only [Device.legal_any] | split)

theorem execFsetr_legal {z : Kept} (p : Fin 64) (rs1 : Nat) (flag : Nat) (s : State) :
    ∃ d, execFsetr p rs1 flag s = .next { s with dev := d } ∧ (s.dev.Legal z → d.Legal z) := by
  refine ⟨_, rfl, fun h => ?_⟩
  try dsimp only
  repeat' (first | with_reducible assumption | intro _ | with_reducible apply PRes.ok_legal | with_reducible apply PRes.halt_legal
                    | with_reducible apply PRes.wait_legal | with_reducible apply pres_ite | with_reducible apply fsetrRun_legal
                    | with_reducible apply Device.runCore_legal | with_reducible apply legal_foldl | with_reducible apply legal_ite | simp only [Device.legal_mk]
                    | simp only [Device.legal_any] | split)

theorem execSetvl_legal {z : Kept} (p : Fin 64) (rd : Nat) (rs1 : Nat) (width : Nat) (s : State) :
    ∃ d, execSetvl p rd rs1 width s = .next { s with dev := d } ∧ (s.dev.Legal z → d.Legal z) := by
  refine ⟨_, rfl, fun h => ?_⟩
  try dsimp only
  repeat' (first | with_reducible assumption | intro _ | with_reducible apply PRes.ok_legal | with_reducible apply PRes.halt_legal
                    | with_reducible apply PRes.wait_legal | with_reducible apply pres_ite | with_reducible apply setvlRun_legal
                    | with_reducible apply Device.runCore_legal | with_reducible apply legal_foldl | with_reducible apply legal_ite | simp only [Device.legal_mk]
                    | simp only [Device.legal_any] | split)

theorem execBsum_legal {z : Kept} (p : Fin 64) (cond : Nat) (off : Int) (s : State) :
    ∃ d, execBsum p cond off s = .next { s with dev := d } ∧ (s.dev.Legal z → d.Legal z) := by
  refine ⟨_, rfl, fun h => ?_⟩
  try dsimp only
  repeat' (first | with_reducible assumption | intro _ | with_reducible apply PRes.ok_legal | with_reducible apply PRes.halt_legal
                    | with_reducible apply PRes.wait_legal | with_reducible apply pres_ite | with_reducible apply bsumRun_legal
                    | with_reducible apply Device.runCore_legal | with_reducible apply legal_foldl | with_reducible apply legal_ite | simp only [Device.legal_mk]
                    | simp only [Device.legal_any] | split)

theorem execSegmentRerun_legal {z : Kept} (p : Fin 64) (s : State) :
    ∃ d, execSegmentRerun p s = .next { s with dev := d } ∧ (s.dev.Legal z → d.Legal z) := by
  refine ⟨_, rfl, fun h => ?_⟩
  try dsimp only
  repeat' (first | with_reducible assumption | intro _ | with_reducible apply PRes.ok_legal | with_reducible apply PRes.halt_legal
                    | with_reducible apply PRes.wait_legal | with_reducible apply pres_ite | with_reducible apply Device.updPan_legal | with_reducible apply legal_foldl
                    | with_reducible apply legal_ite | simp only [Device.legal_mk] | simp only [Device.legal_any] | split)

theorem execPanQuarantine_legal {z : Kept} (p : Fin 64) (s : State) :
    ∃ d, execPanQuarantine p s = .next { s with dev := d } ∧ (s.dev.Legal z → d.Legal z) := by
  refine ⟨_, rfl, fun h => ?_⟩
  try dsimp only
  repeat' (first | with_reducible assumption | intro _ | with_reducible apply PRes.ok_legal | with_reducible apply PRes.halt_legal
                    | with_reducible apply PRes.wait_legal | with_reducible apply pres_ite | with_reducible apply Device.quarantine_legal
                    | with_reducible apply legal_foldl | with_reducible apply legal_ite | simp only [Device.legal_mk] | simp only [Device.legal_any] | split)

end Sys2Proof.Machine
end

