-- ==== Sys2Proof/Laws/LegalPanEvents.lean ====
section
/-! SUPPORT. Every operation of Machine/PanEvents.lean keeps a legal device legal (Safety.lean). -/
set_option linter.unusedTactic false
set_option linter.unreachableTactic false
set_option linter.unusedVariables false
set_option linter.unusedSimpArgs false
namespace Sys2Proof.Machine

theorem execMerge_legal {z : Kept} (p : Fin 64) (bad : Bool) (hit : Option Nat) (s : State) :
    ∃ d, execMerge p bad hit s = .next { s with dev := d } ∧ (s.dev.Legal z → d.Legal z) := by
  refine ⟨_, rfl, fun h => ?_⟩
  try dsimp only
  repeat' (first | with_reducible assumption | intro _ | with_reducible apply Device.updPan_legal | with_reducible apply Device.panFault_legal
                    | with_reducible apply startAttn_legal | with_reducible apply legal_foldl | with_reducible apply legal_ite | simp only [Device.legal_mk]
                    | simp only [Device.legal_any] | split)

theorem execHaloTimeout_legal {z : Kept} (p : Fin 64) (s : State) :
    ∃ d, execHaloTimeout p s = .next { s with dev := d } ∧ (s.dev.Legal z → d.Legal z) := by
  refine ⟨_, rfl, fun h => ?_⟩
  try dsimp only
  repeat' (first | with_reducible assumption | intro _ | with_reducible apply Device.updPan_legal | with_reducible apply Device.panFault_legal
                    | with_reducible apply legal_foldl | with_reducible apply legal_ite | simp only [Device.legal_mk] | simp only [Device.legal_any] | split)

end Sys2Proof.Machine
end

