-- ==== Sys2Proof/Laws/LegalCopy.lean ====
section
/-! SUPPORT. Every operation of Machine/Copy.lean keeps a legal device legal (Safety.lean). -/
set_option linter.unusedTactic false
set_option linter.unreachableTactic false
set_option linter.unusedVariables false
set_option linter.unusedSimpArgs false
namespace Sys2Proof.Machine

theorem Device.replaySteps_legal {z : Kept} (d : Device) (j : Nat) (h_d : d.Legal z) :
    (Device.replaySteps d j).Legal z := by
  unfold Device.replaySteps
  try dsimp only
  repeat' (first | with_reducible assumption | intro _ | with_reducible apply Device.updPan_legal | with_reducible apply Device.updJob_legal
                    | with_reducible apply Device.undoAll_legal | with_reducible apply Device.dropFabric_legal | with_reducible apply legal_foldl
                    | with_reducible apply legal_ite | simp only [Device.legal_mk] | simp only [Device.legal_any] | split)

theorem Device.dropCopy_legal {z : Kept} (d : Device) (t : Nat) (id : Nat) (h_d : d.Legal z) :
    (Device.dropCopy d t id).Legal z := by
  unfold Device.dropCopy
  try dsimp only
  repeat' (first | with_reducible assumption | intro _ | with_reducible apply Device.updEng_legal | with_reducible apply legal_foldl
                    | with_reducible apply legal_ite | simp only [Device.legal_mk] | simp only [Device.legal_any] | split)

theorem Device.releaseGrain_legal {z : Kept} (d : Device) (a : Nat) (h_d : d.Legal z) :
    (Device.releaseGrain d a).Legal z := by
  unfold Device.releaseGrain
  try dsimp only
  repeat' (first | with_reducible assumption | intro _ | with_reducible apply Device.updPan_legal | with_reducible apply Device.updTer_legal
                    | with_reducible apply legal_foldl | with_reducible apply legal_ite | simp only [Device.legal_mk] | simp only [Device.legal_any] | split)

theorem releaseRows_legal {z : Kept} (d : Device) (x : CopyF) (h_d : d.Legal z) :
    (releaseRows d x).Legal z := by
  unfold releaseRows
  try dsimp only
  repeat' (first | with_reducible assumption | intro _ | with_reducible apply Device.releaseGrain_legal | with_reducible apply legal_foldl
                    | with_reducible apply legal_ite | simp only [Device.legal_mk] | simp only [Device.legal_any] | split)

theorem Device.failCopy_legal {z : Kept} (d : Device) (t : Nat) (c : CopyCmd) (st : Nat) (h_d : d.Legal z) :
    (Device.failCopy d t c st).Legal z := by
  unfold Device.failCopy
  try dsimp only
  repeat' (first | with_reducible assumption | intro _ | with_reducible apply Device.updEng_legal | with_reducible apply Device.panFault_legal
                    | with_reducible apply noteDescStatus_legal | with_reducible apply Device.replaySteps_legal | with_reducible apply Device.dropCopy_legal
                    | with_reducible apply releaseRows_legal | with_reducible apply legal_foldl | with_reducible apply legal_ite | simp only [Device.legal_mk]
                    | simp only [Device.legal_any] | split)

theorem Device.completeCopy_legal {z : Kept} (d : Device) (t : Nat) (c : CopyCmd) (h_d : d.Legal z) :
    (Device.completeCopy d t c).Legal z := by
  unfold Device.completeCopy
  try dsimp only
  repeat' (first | with_reducible assumption | intro _ | with_reducible apply Device.updPan_legal | with_reducible apply Device.updEng_legal
                    | with_reducible apply Device.store_legal | with_reducible apply Device.dropCopy_legal | with_reducible apply releaseRows_legal
                    | with_reducible apply Device.failCopy_legal | with_reducible apply legal_foldl | with_reducible apply legal_ite | simp only [Device.legal_mk]
                    | simp only [Device.legal_any] | split)

theorem moveRow_legal {z : Kept} (x : CopyF) (d : Device) (i : Nat) (h_d : d.Legal z) :
    (moveRow x d i).Legal z := by
  unfold moveRow
  try dsimp only
  repeat' (first | with_reducible assumption | intro _ | with_reducible apply Device.setMem_legal | with_reducible apply Device.markDirty_legal
                    | with_reducible apply Device.store_legal | with_reducible apply undoStep_wf | with_reducible apply Mem.paste_wf | with_reducible apply copyBytes_wf
                    | with_reducible apply putBlocks_wf | with_reducible apply memAfter_wf | with_reducible apply Mem.blank_wf | with_reducible apply Mem.writeN_wf
                    | with_reducible apply wf_foldl | with_reducible apply legal_foldl | with_reducible apply legal_ite | simp only [Device.legal_mk]
                    | simp only [Device.legal_any] | split | with_reducible refine Device.Legal.memory (z := z) ?_)

theorem moveGranule_legal {z : Kept} (x : CopyF) (i : Nat) (d : Device) (g : Nat) (h_d : d.Legal z) :
    (moveGranule x i d g).Legal z := by
  unfold moveGranule
  try dsimp only
  repeat' (first | with_reducible assumption | intro _ | with_reducible apply Device.setMem_legal | with_reducible apply Device.markDirty_legal
                    | with_reducible apply Device.store_legal | with_reducible apply undoStep_wf | with_reducible apply Mem.paste_wf | with_reducible apply copyBytes_wf
                    | with_reducible apply putBlocks_wf | with_reducible apply memAfter_wf | with_reducible apply Mem.blank_wf | with_reducible apply Mem.writeN_wf
                    | with_reducible apply wf_foldl | with_reducible apply legal_foldl | with_reducible apply legal_ite | simp only [Device.legal_mk]
                    | simp only [Device.legal_any] | split | with_reducible refine Device.Legal.memory (z := z) ?_)

theorem failedRows_legal {z : Kept} (d : Device) (x : CopyF) (bad : Option Nat) (i : Nat) (h_d : d.Legal z) :
    (failedRows d x bad i).Legal z := by
  unfold failedRows
  try dsimp only
  repeat' (first | with_reducible assumption | intro _ | (with_reducible refine Device.draw_legal (by assumption) ?_)
                    | with_reducible apply Device.draw_snd_legal | with_reducible apply moveRow_legal | with_reducible apply moveGranule_legal
                    | with_reducible apply legal_foldl | with_reducible apply legal_ite | simp only [Device.legal_mk] | simp only [Device.legal_any] | split)

theorem sendAll_legal {z : Kept} {t id : Nat} {rs : List (Txn × Nat)} {d e : Device} {n : Nat} {l : List Nat} (hq : sendAll t id rs d = (n, l, e))
    (h : d.Legal z) : e.Legal z := by
  have key : ∀ (rs : List (Txn × Nat)) (acc : Nat × List Nat × Device), acc.2.2.Legal z → (rs.foldl (fun acc r =>
    if acc.1 ≠ 0 then acc
    else
      let tag := acc.2.2.fab.nextTag
      let (st, d') := acc.2.2.request r.1 t id r.2
      (st, if st = 0 then acc.2.1 ++ [tag] else acc.2.1, d')) acc).2.2.Legal z := by
    intro rs
    induction rs with
    | nil => intro acc h; exact h
    | cons x r ih =>
      intro acc h
      refine ih _ ?_
      dsimp only
      split
      · exact h
      · exact Device.request_legal rfl h
  have := key rs (0, [], d) h
  unfold sendAll at hq
  rw [hq] at this
  exact this

theorem sendAll_snd_legal {z : Kept} (t id : Nat) (rs : List (Txn × Nat)) (d : Device) (h : d.Legal z) : (sendAll t id rs d).2.2.Legal z :=
  sendAll_legal rfl h

theorem Device.startCopy_legal {z : Kept} (d : Device) (t : Nat) (id : Nat) (row : Nat) (waits : List Nat) (h_d : d.Legal z) :
    (Device.startCopy d t id row waits).Legal z := by
  unfold Device.startCopy
  try dsimp only
  repeat' (first | with_reducible assumption | intro _ | with_reducible apply Device.updEng_legal | with_reducible apply legal_foldl
                    | with_reducible apply legal_ite | simp only [Device.legal_mk] | simp only [Device.legal_any] | split)

theorem runLocal_legal {z : Kept} (d : Device) (t : Nat) (c : CopyCmd) (bad : Option Nat) (h_d : d.Legal z) :
    (runLocal d t c bad).Legal z := by
  unfold runLocal
  try dsimp only
  repeat' (first | with_reducible assumption | intro _ | with_reducible apply Device.store_legal | with_reducible apply Device.failCopy_legal
                    | with_reducible apply moveRow_legal | with_reducible apply failedRows_legal | with_reducible apply Device.startCopy_legal
                    | with_reducible apply legal_foldl | with_reducible apply legal_ite | simp only [Device.legal_mk] | simp only [Device.legal_any] | split)

theorem runRow_legal {z : Kept} (d : Device) (t : Nat) (c : CopyCmd) (bad : Option Nat) (h_d : d.Legal z) :
    (runRow d t c bad).Legal z := by
  unfold runRow
  try dsimp only
  repeat' (first | with_reducible assumption | intro _ | with_reducible apply Device.failCopy_legal
                    | (with_reducible refine sendAll_legal (by assumption) ?_) | with_reducible apply sendAll_snd_legal | with_reducible apply Device.startCopy_legal
                    | with_reducible apply legal_foldl | with_reducible apply legal_ite | simp only [Device.legal_mk] | simp only [Device.legal_any] | split)

theorem runCopy_legal {z : Kept} (d : Device) (t : Nat) (c : CopyCmd) (bad : Option Nat) (h_d : d.Legal z) :
    (runCopy d t c bad).Legal z := by
  unfold runCopy
  try dsimp only
  repeat' (first | with_reducible assumption | intro _ | with_reducible apply Device.completeCopy_legal | with_reducible apply runLocal_legal
                    | with_reducible apply runRow_legal | with_reducible apply legal_foldl | with_reducible apply legal_ite | simp only [Device.legal_mk]
                    | simp only [Device.legal_any] | split)

theorem takeCopy_legal {z : Kept} (d : Device) (t : Nat) (id : Nat) (mine : Nat → Bool) (hit : Option Hit) (h_d : d.Legal z) :
    (takeCopy d t id mine hit).Legal z := by
  unfold takeCopy
  try dsimp only
  repeat' (first | with_reducible assumption | intro _ | with_reducible apply Device.withHit_legal | with_reducible apply Device.holdFault_legal
                    | with_reducible apply Device.failCopy_legal | with_reducible apply Device.startCopy_legal | with_reducible apply runCopy_legal
                    | with_reducible apply legal_foldl | with_reducible apply legal_ite | simp only [Device.legal_mk] | simp only [Device.legal_any] | split)

theorem execCopy_legal {z : Kept} (t : Fin 4) (id : Nat) (hit : Option Hit) (s : State) :
    ∃ d, execCopy t id hit s = .next { s with dev := d } ∧ (s.dev.Legal z → d.Legal z) := by
  refine ⟨_, rfl, fun h => ?_⟩
  try dsimp only
  repeat' (first | with_reducible assumption | intro _ | with_reducible apply takeCopy_legal | with_reducible apply legal_foldl
                    | with_reducible apply legal_ite | simp only [Device.legal_mk] | simp only [Device.legal_any] | split)

theorem execFill_legal {z : Kept} (t : Fin 4) (id : Nat) (s : State) :
    ∃ d, execFill t id s = .next { s with dev := d } ∧ (s.dev.Legal z → d.Legal z) := by
  refine ⟨_, rfl, fun h => ?_⟩
  try dsimp only
  repeat' (first | with_reducible assumption | intro _ | with_reducible apply takeCopy_legal | with_reducible apply legal_foldl
                    | with_reducible apply legal_ite | simp only [Device.legal_mk] | simp only [Device.legal_any] | split)

theorem execCopyTag_legal {z : Kept} (t : Fin 4) (id : Nat) (hit : Option Hit) (s : State) :
    ∃ d, execCopyTag t id hit s = .next { s with dev := d } ∧ (s.dev.Legal z → d.Legal z) := by
  refine ⟨_, rfl, fun h => ?_⟩
  try dsimp only
  repeat' (first | with_reducible assumption | intro _ | with_reducible apply takeCopy_legal | with_reducible apply legal_foldl
                    | with_reducible apply legal_ite | simp only [Device.legal_mk] | simp only [Device.legal_any] | split)

theorem execCopyComplete_legal {z : Kept} (t : Fin 4) (id : Nat) (s : State) :
    ∃ d, execCopyComplete t id s = .next { s with dev := d } ∧ (s.dev.Legal z → d.Legal z) := by
  refine ⟨_, rfl, fun h => ?_⟩
  try dsimp only
  repeat' (first | with_reducible assumption | intro _ | with_reducible apply Device.completeCopy_legal | with_reducible apply legal_foldl
                    | with_reducible apply legal_ite | simp only [Device.legal_mk] | simp only [Device.legal_any] | split)

end Sys2Proof.Machine
end

