-- ==== Sys2Proof/Laws/LegalRecover.lean ====
section
/-! SUPPORT. Every operation of Machine/Recover.lean keeps a legal device legal (Safety.lean). -/
set_option linter.unusedTactic false
set_option linter.unreachableTactic false
set_option linter.unusedVariables false
set_option linter.unusedSimpArgs false
namespace Sys2Proof.Machine

theorem Device.putEntry_legal {z : Kept} (d : Device) (i : Nat) (e : TideEntry) (h_d : d.Legal z) :
    (Device.putEntry d i e).Legal z := by
  unfold Device.putEntry
  try dsimp only
  repeat' (first | with_reducible assumption | intro _ | with_reducible apply legal_foldl | with_reducible apply legal_ite | simp only [Device.legal_mk]
                    | simp only [Device.legal_any] | split)

theorem Device.freeEntryAt_legal {z : Kept} (d : Device) (i : Nat) (h_d : d.Legal z) :
    (Device.freeEntryAt d i).Legal z := by
  unfold Device.freeEntryAt
  try dsimp only
  repeat' (first | with_reducible assumption | intro _ | with_reducible apply legal_foldl | with_reducible apply legal_ite | simp only [Device.legal_mk]
                    | simp only [Device.legal_any] | split)

theorem Device.placeSnapshot_legal {z : Kept} (d : Device) (j : Nat) (layer : Nat) (n : Nat) (h_d : d.Legal z) :
    (Device.placeSnapshot d j layer n).Legal z := by
  unfold Device.placeSnapshot
  try dsimp only
  repeat' (first | with_reducible assumption | intro _ | with_reducible apply Device.putEntry_legal | with_reducible apply legal_foldl
                    | with_reducible apply legal_ite | simp only [Device.legal_mk] | simp only [Device.legal_any] | split)

theorem Device.tokenTo_legal {z : Kept} (d : Device) (j : Nat) (bund : Nat) (tk : Nat → Token) (h_d : d.Legal z) :
    (Device.tokenTo d j bund tk).Legal z := by
  unfold Device.tokenTo
  try dsimp only
  repeat' (first | with_reducible assumption | intro _ | with_reducible apply Device.sendToken_legal | with_reducible apply legal_foldl
                    | with_reducible apply legal_ite | simp only [Device.legal_mk] | simp only [Device.legal_any] | split)

theorem Device.tokenAll_legal {z : Kept} (d : Device) (j : Nat) (tk : Nat → Token) (h_d : d.Legal z) :
    (Device.tokenAll d j tk).Legal z := by
  unfold Device.tokenAll
  try dsimp only
  repeat' (first | with_reducible assumption | intro _ | with_reducible apply Device.sendToken_legal | with_reducible apply legal_foldl
                    | with_reducible apply legal_ite | simp only [Device.legal_mk] | simp only [Device.legal_any] | split)

theorem Device.readHolder_legal {z : Kept} (d : Device) (j slotBytes : Nat) (h : d.Legal z) : (d.readHolder j slotBytes).Legal z := by
  unfold Device.readHolder
  split
  · split
    · exact legal_foldl h (fun e x he => Device.request_legal rfl he)
    · exact h
  · exact h

theorem Device.noteCoverage_legal {z : Kept} (d : Device) (j : Nat) (h_d : d.Legal z) :
    (Device.noteCoverage d j).Legal z := by
  unfold Device.noteCoverage
  try dsimp only
  repeat' (first | with_reducible assumption | intro _ | with_reducible apply Device.updJob_legal | with_reducible apply Device.logEvent_legal
                    | with_reducible apply Device.stepNotice_legal | with_reducible apply Device.placeSnapshot_legal | with_reducible apply legal_foldl
                    | with_reducible apply legal_ite | simp only [Device.legal_mk] | simp only [Device.legal_any] | split)

theorem Device.haltJob_legal {z : Kept} (d : Device) (j : Nat) (n : Nat) (st : Nat) (lost : List Nat) (failed : List Nat) (h_d : d.Legal z) :
    (Device.haltJob d j n st lost failed).Legal z := by
  unfold Device.haltJob
  try dsimp only
  repeat' (first | with_reducible assumption | intro _ | with_reducible apply Device.updJob_legal | with_reducible apply Device.logEvent_legal
                    | with_reducible apply Device.stepNotice_legal | with_reducible apply Device.replaySteps_legal | with_reducible apply Device.noteCoverage_legal
                    | with_reducible apply legal_foldl | with_reducible apply legal_ite | simp only [Device.legal_mk] | simp only [Device.legal_any] | split)

end Sys2Proof.Machine
end

