-- ==== Sys2Proof/Laws/LegalCommit.lean ====
section
/-! SUPPORT. Every operation of Machine/Commit.lean keeps a legal device legal (Safety.lean). -/
set_option linter.unusedTactic false
set_option linter.unreachableTactic false
set_option linter.unusedVariables false
set_option linter.unusedSimpArgs false
namespace Sys2Proof.Machine

theorem Device.planSnaps_legal {z : Kept} (d : Device) (j : Nat) (n : Nat) (layers : Nat) (writes : List (Option Nat)) (h_d : d.Legal z) :
    (Device.planSnaps d j n layers writes).Legal z := by
  unfold Device.planSnaps
  try dsimp only
  repeat' (first | with_reducible assumption | intro _ | with_reducible apply Device.updJob_legal | with_reducible apply legal_foldl
                    | with_reducible apply legal_ite | simp only [Device.legal_mk] | simp only [Device.legal_any] | split)

theorem Device.noteCommit_legal {z : Kept} (d : Device) (j : Nat) (h_d : d.Legal z) :
    (Device.noteCommit d j).Legal z := by
  unfold Device.noteCommit
  try dsimp only
  repeat' (first | with_reducible assumption | intro _ | with_reducible apply Device.updJob_legal | with_reducible apply legal_foldl
                    | with_reducible apply legal_ite | simp only [Device.legal_mk] | simp only [Device.legal_any] | split)

theorem Device.voidStep_legal {z : Kept} (d : Device) (j : Nat) (st : Step) (h_d : d.Legal z) :
    (Device.voidStep d j st).Legal z := by
  unfold Device.voidStep
  try dsimp only
  repeat' (first | with_reducible assumption | intro _ | with_reducible apply Device.updJob_legal | with_reducible apply Device.undoOf_legal
                    | with_reducible apply Device.updStep_legal | with_reducible apply Device.replaySteps_legal | with_reducible apply legal_foldl
                    | with_reducible apply legal_ite | simp only [Device.legal_mk] | simp only [Device.legal_any] | split)

theorem Device.applyCommit_legal {z : Kept} (d0 : Device) (j : Nat) (n : Nat) (layers : Nat) (h_d0 : d0.Legal z) :
    (Device.applyCommit d0 j n layers).Legal z := by
  unfold Device.applyCommit
  try dsimp only
  repeat' (first | with_reducible assumption | intro _ | with_reducible apply Device.updJob_legal | with_reducible apply Device.logEvent_legal
                    | with_reducible apply Device.signCheckpoint_legal | with_reducible apply Device.stepNotice_legal | with_reducible apply Device.stopJob_legal
                    | with_reducible apply Device.placeSnapshot_legal | with_reducible apply Device.planSnaps_legal | with_reducible apply Device.noteCommit_legal
                    | with_reducible apply Device.voidStep_legal | with_reducible apply legal_foldl | with_reducible apply legal_ite | simp only [Device.legal_mk]
                    | simp only [Device.legal_any] | split)

theorem Device.forwardCommit_legal {z : Kept} (d : Device) (j : Nat) (n : Nat) (layers : Nat) (share : StepShare) (h_d : d.Legal z) :
    (Device.forwardCommit d j n layers share).Legal z := by
  unfold Device.forwardCommit
  try dsimp only
  repeat' (first | with_reducible assumption | intro _ | with_reducible apply Device.tokenTo_legal | with_reducible apply legal_foldl
                    | with_reducible apply legal_ite | simp only [Device.legal_mk] | simp only [Device.legal_any] | split)

theorem Device.tryReady_legal {z : Kept} (d : Device) (j : Nat) (n : Nat) (h_d : d.Legal z) :
    (Device.tryReady d j n).Legal z := by
  unfold Device.tryReady
  try dsimp only
  repeat' (first | with_reducible assumption | intro _ | with_reducible apply Device.sendToken_legal | with_reducible apply Device.updStep_legal
                    | with_reducible apply Device.settleAll_legal | with_reducible apply Device.applyCommit_legal | with_reducible apply Device.forwardCommit_legal
                    | with_reducible apply legal_foldl | with_reducible apply legal_ite | simp only [Device.legal_mk] | simp only [Device.legal_any] | split)

theorem execStepReady_legal {z : Kept} (j : Fin 16) (step : Nat) (s : State) :
    ∃ d, execStepReady j step s = .next { s with dev := d } ∧ (s.dev.Legal z → d.Legal z) := by
  refine ⟨_, rfl, fun h => ?_⟩
  try dsimp only
  repeat' (first | with_reducible assumption | intro _ | with_reducible apply Device.tryReady_legal | with_reducible apply legal_foldl
                    | with_reducible apply legal_ite | simp only [Device.legal_mk] | simp only [Device.legal_any] | split)

theorem Device.takeShare_legal {z : Kept} (d : Device) (j : Nat) (n : Nat) (src : Nat) (x : StepShare) (h_d : d.Legal z) :
    (Device.takeShare d j n src x).Legal z := by
  unfold Device.takeShare
  try dsimp only
  repeat' (first | with_reducible assumption | intro _ | with_reducible apply Device.updStep_legal | with_reducible apply legal_foldl
                    | with_reducible apply legal_ite | simp only [Device.legal_mk] | simp only [Device.legal_any] | split)

theorem execCollReady_legal {z : Kept} (src : Nat) (j : Fin 16) (step : Nat) (share : StepShare) (s : State) :
    ∃ d, execCollReady src j step share s = .next { s with dev := d } ∧ (s.dev.Legal z → d.Legal z) := by
  refine ⟨_, rfl, fun h => ?_⟩
  try dsimp only
  repeat' (first | with_reducible assumption | intro _ | with_reducible apply Device.updJob_legal | with_reducible apply Device.tryReady_legal
                    | with_reducible apply Device.takeShare_legal | with_reducible apply legal_foldl | with_reducible apply legal_ite | simp only [Device.legal_mk]
                    | simp only [Device.legal_any] | split)

theorem execCollCommit_legal {z : Kept} (src : Nat) (j : Fin 16) (step : Nat) (layers : Nat) (share : StepShare) (s : State) :
    ∃ d, execCollCommit src j step layers share s = .next { s with dev := d } ∧ (s.dev.Legal z → d.Legal z) := by
  refine ⟨_, rfl, fun h => ?_⟩
  try dsimp only
  repeat' (first | with_reducible assumption | intro _ | with_reducible apply Device.updStep_legal | with_reducible apply Device.applyCommit_legal
                    | with_reducible apply Device.forwardCommit_legal | with_reducible apply legal_foldl | with_reducible apply legal_ite | simp only [Device.legal_mk]
                    | simp only [Device.legal_any] | split)

theorem execCollPhaseToken_legal {z : Kept} (src : Nat) (j : Fin 16) (step : Nat) (_param : Nat) (s : State) :
    ∃ d, execCollPhaseToken src j step _param s = .next { s with dev := d } ∧ (s.dev.Legal z → d.Legal z) := by
  refine ⟨_, rfl, fun h => ?_⟩
  try dsimp only
  repeat' (first | with_reducible assumption | intro _ | with_reducible apply legal_foldl | with_reducible apply legal_ite | simp only [Device.legal_mk]
                    | simp only [Device.legal_any] | split)

end Sys2Proof.Machine
end

