-- ==== Sys2Proof/Laws/LegalSkim.lean ====
section
/-! SUPPORT. Every operation of Machine/Skim.lean keeps a legal device legal (Safety.lean). -/
set_option linter.unusedTactic false
set_option linter.unreachableTactic false
set_option linter.unusedVariables false
set_option linter.unusedSimpArgs false
namespace Sys2Proof.Machine

theorem Device.failEngine_legal {z : Kept} (d : Device) (j : Nat) (seq : Nat) (st : Nat) (h_d : d.Legal z) :
    (Device.failEngine d j seq st).Legal z := by
  unfold Device.failEngine
  try dsimp only
  repeat' (first | with_reducible assumption | intro _ | with_reducible apply Device.updJob_legal | with_reducible apply Device.stopJob_legal
                    | with_reducible apply legal_foldl | with_reducible apply legal_ite | simp only [Device.legal_mk] | simp only [Device.legal_any] | split)

theorem skimPixel_legal {z : Kept} (src : Device) (p : Nat) (x : SkimF) (c : ConvRec) (d : Device) (m : Nat) (h_src : src.Legal z) (h_d : d.Legal z) :
    (skimPixel src p x c d m).Legal z := by
  unfold skimPixel
  try dsimp only
  repeat' (first | with_reducible assumption | intro _ | with_reducible apply Device.updPan_legal | with_reducible apply Device.store_legal
                    | with_reducible apply legal_foldl | with_reducible apply legal_ite | simp only [Device.legal_mk] | simp only [Device.legal_any] | split)

theorem Device.popSkim_legal {z : Kept} (d : Device) (t : Nat) (h_d : d.Legal z) :
    (Device.popSkim d t).Legal z := by
  unfold Device.popSkim
  try dsimp only
  repeat' (first | with_reducible assumption | intro _ | with_reducible apply Device.updEng_legal | with_reducible apply legal_foldl
                    | with_reducible apply legal_ite | simp only [Device.legal_mk] | simp only [Device.legal_any] | split)

theorem Device.skimWork_legal {z : Kept} (d : Device) (t : Nat) (mismatches : Nat) (x : SkimF) (c : ConvRec) (h_d : d.Legal z) :
    (Device.skimWork d t mismatches x c).Legal z := by
  unfold Device.skimWork
  try dsimp only
  repeat' (first | with_reducible assumption | intro _ | with_reducible apply Device.updPan_legal | with_reducible apply Device.updEng_legal
                    | with_reducible apply skimPixel_legal | with_reducible apply Device.popSkim_legal | with_reducible apply legal_foldl | with_reducible apply legal_ite
                    | simp only [Device.legal_mk] | simp only [Device.legal_any] | split)

theorem execSkimCommand_legal {z : Kept} (t : Fin 4) (mismatches : Nat) (hit : Option Hit) (s : State) :
    ∃ d, execSkimCommand t mismatches hit s = .next { s with dev := d } ∧ (s.dev.Legal z → d.Legal z) := by
  refine ⟨_, rfl, fun h => ?_⟩
  try dsimp only
  repeat' (first | with_reducible assumption | intro _ | with_reducible apply Device.withHit_legal | with_reducible apply Device.holdFault_legal
                    | with_reducible apply Device.failEngine_legal | with_reducible apply Device.popSkim_legal | with_reducible apply Device.skimWork_legal
                    | with_reducible apply legal_foldl | with_reducible apply legal_ite | simp only [Device.legal_mk] | simp only [Device.legal_any] | split)

theorem execSkimFailed_legal {z : Kept} (t : Fin 4) (s : State) :
    ∃ d, execSkimFailed t s = .next { s with dev := d } ∧ (s.dev.Legal z → d.Legal z) := by
  refine ⟨_, rfl, fun h => ?_⟩
  try dsimp only
  repeat' (first | with_reducible assumption | intro _ | with_reducible apply Device.updEng_legal | with_reducible apply Device.logEvent_legal
                    | with_reducible apply Device.jobFault_legal | with_reducible apply Device.updWear_legal | with_reducible apply legal_foldl
                    | with_reducible apply legal_ite | simp only [Device.legal_mk] | simp only [Device.legal_any] | split)

end Sys2Proof.Machine
end

