-- ==== Sys2Proof/Laws/LegalSluice.lean ====
section
/-! SUPPORT. Every operation of Machine/Sluice.lean keeps a legal device legal (Safety.lean). -/
set_option linter.unusedTactic false
set_option linter.unreachableTactic false
set_option linter.unusedVariables false
set_option linter.unusedSimpArgs false
namespace Sys2Proof.Machine

theorem Device.completeSluice_legal {z : Kept} (d : Device) (t : Nat) (x : SluiceF) (h_d : d.Legal z) :
    (Device.completeSluice d t x).Legal z := by
  unfold Device.completeSluice
  try dsimp only
  repeat' (first | with_reducible assumption | intro _ | with_reducible apply Device.updPan_legal | with_reducible apply Device.updEng_legal
                    | with_reducible apply legal_foldl | with_reducible apply legal_ite | simp only [Device.legal_mk] | simp only [Device.legal_any] | split)

theorem Device.rejectSluice_legal {z : Kept} (d : Device) (t : Nat) (c : SluiceCmd) (st : Nat) (h_d : d.Legal z) :
    (Device.rejectSluice d t c st).Legal z := by
  unfold Device.rejectSluice
  try dsimp only
  repeat' (first | with_reducible assumption | intro _ | with_reducible apply Device.updEng_legal | with_reducible apply Device.failEngine_legal
                    | with_reducible apply legal_foldl | with_reducible apply legal_ite | simp only [Device.legal_mk] | simp only [Device.legal_any] | split)

theorem Device.sendSluice_legal {z : Kept} (d : Device) (j : Nat) (dst : Nat) (slot : Nat) (ter : Nat) (m : SlMsg) (h_d : d.Legal z) :
    (Device.sendSluice d j dst slot ter m).Legal z := by
  unfold Device.sendSluice
  try dsimp only
  repeat' (first | with_reducible assumption | intro _ | with_reducible apply Device.send_legal | with_reducible apply Device.oneWay_legal
                    | with_reducible apply Device.report_legal | with_reducible apply legal_foldl | with_reducible apply legal_ite | simp only [Device.legal_mk]
                    | simp only [Device.legal_any] | split)

theorem Device.sluiceToPeer_legal {z : Kept} (d : Device) (j : Nat) (peer : Nat) (ter : Nat) (m : SlMsg) (h_d : d.Legal z) :
    (Device.sluiceToPeer d j peer ter m).Legal z := by
  unfold Device.sluiceToPeer
  try dsimp only
  repeat' (first | with_reducible assumption | intro _ | with_reducible apply Device.report_legal | with_reducible apply Device.sendSluice_legal
                    | with_reducible apply legal_foldl | with_reducible apply legal_ite | simp only [Device.legal_mk] | simp only [Device.legal_any] | split)

theorem Device.selectWork_legal {z : Kept} (d : Device) (t : Nat) (x : SluiceF) (h_d : d.Legal z) :
    (Device.selectWork d t x).Legal z := by
  unfold Device.selectWork
  try dsimp only
  repeat' (first | with_reducible assumption | intro _ | with_reducible apply Device.store_legal | with_reducible apply Device.completeSluice_legal
                    | with_reducible apply legal_foldl | with_reducible apply legal_ite | simp only [Device.legal_mk] | simp only [Device.legal_any] | split)

theorem execSelect_legal {z : Kept} (t : Fin 4) (hit : Option Hit) (s : State) :
    ∃ d, execSelect t hit s = .next { s with dev := d } ∧ (s.dev.Legal z → d.Legal z) := by
  refine ⟨_, rfl, fun h => ?_⟩
  try dsimp only
  repeat' (first | with_reducible assumption | intro _ | with_reducible apply Device.withHit_legal | with_reducible apply Device.holdFault_legal
                    | with_reducible apply Device.rejectSluice_legal | with_reducible apply Device.selectWork_legal | with_reducible apply legal_foldl
                    | with_reducible apply legal_ite | simp only [Device.legal_mk] | simp only [Device.legal_any] | split)

theorem Device.settleCombine_legal {z : Kept} (d : Device) (t : Nat) (h_d : d.Legal z) :
    (Device.settleCombine d t).Legal z := by
  unfold Device.settleCombine
  try dsimp only
  repeat' (first | with_reducible assumption | intro _ | with_reducible apply Device.updPan_legal | with_reducible apply Device.updEng_legal
                    | with_reducible apply legal_foldl | with_reducible apply legal_ite | simp only [Device.legal_mk] | simp only [Device.legal_any] | split)

theorem Device.settleDispatch_legal {z : Kept} (d : Device) (t : Nat) (h_d : d.Legal z) :
    (Device.settleDispatch d t).Legal z := by
  unfold Device.settleDispatch
  try dsimp only
  repeat' (first | with_reducible assumption | intro _ | with_reducible apply Device.updEng_legal | with_reducible apply Device.completeSluice_legal
                    | with_reducible apply Device.settleCombine_legal | with_reducible apply legal_foldl | with_reducible apply legal_ite | simp only [Device.legal_mk]
                    | simp only [Device.legal_any] | split)

theorem Device.takeRow_legal {z : Kept} (d : Device) (t : Nat) (expert : Nat) (slot : Nat) (data : List Nat) (h_d : d.Legal z) :
    (Device.takeRow d t expert slot data).Legal z := by
  unfold Device.takeRow
  try dsimp only
  repeat' (first | with_reducible assumption | intro _ | with_reducible apply Device.updEng_legal | with_reducible apply Device.store_legal
                    | with_reducible apply Device.settleDispatch_legal | with_reducible apply legal_foldl | with_reducible apply legal_ite | simp only [Device.legal_mk]
                    | simp only [Device.legal_any] | split)

theorem Device.takeGrant_legal {z : Kept} (d : Device) (t : Nat) (token : Nat) (rank : Nat) (slot : Nat) (h_d : d.Legal z) :
    (Device.takeGrant d t token rank slot).Legal z := by
  unfold Device.takeGrant
  try dsimp only
  repeat' (first | with_reducible assumption | intro _ | with_reducible apply Device.updEng_legal | with_reducible apply Device.store_legal
                    | with_reducible apply Device.sluiceToPeer_legal | with_reducible apply Device.settleDispatch_legal | with_reducible apply Device.takeRow_legal
                    | with_reducible apply legal_foldl | with_reducible apply legal_ite | simp only [Device.legal_mk] | simp only [Device.legal_any] | split)

theorem Device.sendGrant_legal {z : Kept} (d : Device) (j : Nat) (r : SlReq) (slot : Nat) (h_d : d.Legal z) :
    (Device.sendGrant d j r slot).Legal z := by
  unfold Device.sendGrant
  try dsimp only
  repeat' (first | with_reducible assumption | intro _ | with_reducible apply Device.sluiceToPeer_legal | with_reducible apply Device.takeGrant_legal
                    | with_reducible apply legal_foldl | with_reducible apply legal_ite | simp only [Device.legal_mk] | simp only [Device.legal_any] | split)

theorem admitExpert_legal {z : Kept} (t : Nat) (x : SluiceF) (rs : List SlReq) (d : Device) (e : Nat) (h_d : d.Legal z) :
    (admitExpert t x rs d e).Legal z := by
  unfold admitExpert
  try dsimp only
  repeat' (first | with_reducible assumption | intro _ | with_reducible apply Device.updEng_legal | with_reducible apply Device.store_legal
                    | with_reducible apply legal_foldl | with_reducible apply legal_ite | simp only [Device.legal_mk] | simp only [Device.legal_any] | split)

theorem Device.grantAll_legal {z : Kept} (d : Device) (t : Nat) (h_d : d.Legal z) :
    (Device.grantAll d t).Legal z := by
  unfold Device.grantAll
  try dsimp only
  repeat' (first | with_reducible assumption | intro _ | with_reducible apply Device.updEng_legal | with_reducible apply Device.report_legal
                    | with_reducible apply Device.settleDispatch_legal | with_reducible apply Device.sendGrant_legal | with_reducible apply admitExpert_legal
                    | with_reducible apply legal_foldl | with_reducible apply legal_ite | simp only [Device.legal_mk] | simp only [Device.legal_any] | split)

theorem Device.takeRequest_legal {z : Kept} (d : Device) (t : Nat) (r : SlReq) (h_d : d.Legal z) :
    (Device.takeRequest d t r).Legal z := by
  unfold Device.takeRequest
  try dsimp only
  repeat' (first | with_reducible assumption | intro _ | with_reducible apply Device.updEng_legal | with_reducible apply legal_foldl
                    | with_reducible apply legal_ite | simp only [Device.legal_mk] | simp only [Device.legal_any] | split)

theorem Device.takeEnd_legal {z : Kept} (d : Device) (t : Nat) (isLocal : Bool) (peer : Nat) (ter : Nat) (h_d : d.Legal z) :
    (Device.takeEnd d t isLocal peer ter).Legal z := by
  unfold Device.takeEnd
  try dsimp only
  repeat' (first | with_reducible assumption | intro _ | with_reducible apply Device.updEng_legal | with_reducible apply Device.grantAll_legal
                    | with_reducible apply legal_foldl | with_reducible apply legal_ite | simp only [Device.legal_mk] | simp only [Device.legal_any] | split)

theorem Device.sendRequest_legal {z : Kept} (d : Device) (j : Nat) (x : SluiceF) (r : SlReq) (h_d : d.Legal z) :
    (Device.sendRequest d j x r).Legal z := by
  unfold Device.sendRequest
  try dsimp only
  repeat' (first | with_reducible assumption | intro _ | (with_reducible refine Device.request_legal (by assumption) ?_)
                    | with_reducible apply Device.sluiceToPeer_legal | with_reducible apply Device.takeRequest_legal | with_reducible apply legal_foldl
                    | with_reducible apply legal_ite | simp only [Device.legal_mk] | simp only [Device.legal_any] | split)

theorem Device.skipSlots_legal {z : Kept} (d : Device) (x : SluiceF) (h_d : d.Legal z) :
    (Device.skipSlots d x).Legal z := by
  unfold Device.skipSlots
  try dsimp only
  repeat' (first | with_reducible assumption | intro _ | with_reducible apply Device.store_legal | with_reducible apply legal_foldl
                    | with_reducible apply legal_ite | simp only [Device.legal_mk] | simp only [Device.legal_any] | split)

theorem Device.dispatchWork_legal {z : Kept} (d : Device) (t : Nat) (c : SluiceCmd) (x : SluiceF) (group : List (Bool × Nat × Nat)) (h_d : d.Legal z) :
    (Device.dispatchWork d t c x group).Legal z := by
  unfold Device.dispatchWork
  try dsimp only
  repeat' (first | with_reducible assumption | intro _ | with_reducible apply Device.updEng_legal | with_reducible apply Device.sluiceToPeer_legal
                    | with_reducible apply Device.takeEnd_legal | with_reducible apply Device.sendRequest_legal | with_reducible apply Device.skipSlots_legal
                    | with_reducible apply legal_foldl | with_reducible apply legal_ite | simp only [Device.legal_mk] | simp only [Device.legal_any] | split)

theorem execDispatch_legal {z : Kept} (t : Fin 4) (group : List (Bool × Nat × Nat)) (hit : Option Hit) (s : State) :
    ∃ d, execDispatch t group hit s = .next { s with dev := d } ∧ (s.dev.Legal z → d.Legal z) := by
  refine ⟨_, rfl, fun h => ?_⟩
  try dsimp only
  repeat' (first | with_reducible assumption | intro _ | with_reducible apply Device.withHit_legal | with_reducible apply Device.holdFault_legal
                    | with_reducible apply Device.rejectSluice_legal | with_reducible apply Device.grantAll_legal | with_reducible apply Device.dispatchWork_legal
                    | with_reducible apply legal_foldl | with_reducible apply legal_ite | simp only [Device.legal_mk] | simp only [Device.legal_any] | split)

theorem execSluiceRequest_legal {z : Kept} (t : Fin 4) (r : SlReq) (s : State) :
    ∃ d, execSluiceRequest t r s = .next { s with dev := d } ∧ (s.dev.Legal z → d.Legal z) := by
  refine ⟨_, rfl, fun h => ?_⟩
  try dsimp only
  repeat' (first | with_reducible assumption | intro _ | with_reducible apply Device.takeRequest_legal | with_reducible apply legal_foldl
                    | with_reducible apply legal_ite | simp only [Device.legal_mk] | simp only [Device.legal_any] | split)

theorem execSluiceEnd_legal {z : Kept} (t : Fin 4) (peer : Nat) (ter : Nat) (s : State) :
    ∃ d, execSluiceEnd t peer ter s = .next { s with dev := d } ∧ (s.dev.Legal z → d.Legal z) := by
  refine ⟨_, rfl, fun h => ?_⟩
  try dsimp only
  repeat' (first | with_reducible assumption | intro _ | with_reducible apply Device.takeEnd_legal | with_reducible apply legal_foldl
                    | with_reducible apply legal_ite | simp only [Device.legal_mk] | simp only [Device.legal_any] | split)

theorem execSluiceGrant_legal {z : Kept} (t : Fin 4) (token : Nat) (rank : Nat) (slot : Nat) (hit : Option Hit) (s : State) :
    ∃ d, execSluiceGrant t token rank slot hit s = .next { s with dev := d } ∧ (s.dev.Legal z → d.Legal z) := by
  refine ⟨_, rfl, fun h => ?_⟩
  try dsimp only
  repeat' (first | with_reducible assumption | intro _ | with_reducible apply Device.withHit_legal | with_reducible apply Device.holdFault_legal
                    | with_reducible apply Device.takeGrant_legal | with_reducible apply legal_foldl | with_reducible apply legal_ite | simp only [Device.legal_mk]
                    | simp only [Device.legal_any] | split)

theorem execSluiceRow_legal {z : Kept} (t : Fin 4) (expert : Nat) (slot : Nat) (data : List Nat) (s : State) :
    ∃ d, execSluiceRow t expert slot data s = .next { s with dev := d } ∧ (s.dev.Legal z → d.Legal z) := by
  refine ⟨_, rfl, fun h => ?_⟩
  try dsimp only
  repeat' (first | with_reducible assumption | intro _ | with_reducible apply Device.takeRow_legal | with_reducible apply legal_foldl
                    | with_reducible apply legal_ite | simp only [Device.legal_mk] | simp only [Device.legal_any] | split)

theorem Device.applyRecord_legal {z : Kept} (d : Device) (t : Nat) (k : Nat) (src : Nat) (ter : Nat) (expert : Nat) (slot : Nat) (token : Nat) (col : Nat) (g : CombineTarget) (bytes : List Nat) (h_d : d.Legal z) :
    (Device.applyRecord d t k src ter expert slot token col g bytes).Legal z := by
  unfold Device.applyRecord
  try dsimp only
  repeat' (first | with_reducible assumption | intro _ | with_reducible apply Device.updPan_legal | with_reducible apply Device.updEng_legal
                    | with_reducible apply Device.report_legal | with_reducible apply Device.sendSluice_legal | with_reducible apply Device.settleCombine_legal
                    | with_reducible apply legal_foldl | with_reducible apply legal_ite | simp only [Device.legal_mk] | simp only [Device.legal_any] | split)

theorem Device.takeRecord09_legal {z : Kept} (d : Device) (t : Nat) (src : Nat) (ter : Nat) (expert : Nat) (slot : Nat) (token : Nat) (col : Nat) (bytes : List Nat) (h_d : d.Legal z) :
    (Device.takeRecord09 d t src ter expert slot token col bytes).Legal z := by
  unfold Device.takeRecord09
  try dsimp only
  repeat' (first | with_reducible assumption | intro _ | with_reducible apply Device.applyRecord_legal | with_reducible apply legal_foldl
                    | with_reducible apply legal_ite | simp only [Device.legal_mk] | simp only [Device.legal_any] | split)

theorem combineSlot_legal {z : Kept} (src : Device) (j : Nat) (t : Nat) (x : SluiceF) (e : Nat) (d : Device) (k : Nat) (h_src : src.Legal z) (h_d : d.Legal z) :
    (combineSlot src j t x e d k).Legal z := by
  unfold combineSlot
  try dsimp only
  repeat' (first | with_reducible assumption | intro _ | with_reducible apply Device.sluiceToPeer_legal | with_reducible apply Device.takeRecord09_legal
                    | with_reducible apply legal_foldl | with_reducible apply legal_ite | simp only [Device.legal_mk] | simp only [Device.legal_any] | split)

theorem Device.combineWork_legal {z : Kept} (d : Device) (t : Nat) (c : SluiceCmd) (x : SluiceF) (h_d : d.Legal z) :
    (Device.combineWork d t c x).Legal z := by
  unfold Device.combineWork
  try dsimp only
  repeat' (first | with_reducible assumption | intro _ | with_reducible apply Device.updEng_legal | with_reducible apply Device.completeSluice_legal
                    | with_reducible apply combineSlot_legal | with_reducible apply legal_foldl | with_reducible apply legal_ite | simp only [Device.legal_mk]
                    | simp only [Device.legal_any] | split)

theorem execCombine_legal {z : Kept} (t : Fin 4) (hit : Option Hit) (s : State) :
    ∃ d, execCombine t hit s = .next { s with dev := d } ∧ (s.dev.Legal z → d.Legal z) := by
  refine ⟨_, rfl, fun h => ?_⟩
  try dsimp only
  repeat' (first | with_reducible assumption | intro _ | (with_reducible refine Device.draw_legal (by assumption) ?_)
                    | with_reducible apply Device.draw_snd_legal | with_reducible apply Device.withHit_legal | with_reducible apply Device.holdFault_legal
                    | with_reducible apply Device.rejectSluice_legal | with_reducible apply Device.combineWork_legal | with_reducible apply legal_foldl
                    | with_reducible apply legal_ite | simp only [Device.legal_mk] | simp only [Device.legal_any] | split)

theorem execSluiceRecord_legal {z : Kept} (t : Fin 4) (src : Nat) (ter : Nat) (expert : Nat) (slot : Nat) (token : Nat) (col : Nat) (rec : List Nat) (s : State) :
    ∃ d, execSluiceRecord t src ter expert slot token col rec s = .next { s with dev := d } ∧ (s.dev.Legal z → d.Legal z) := by
  refine ⟨_, rfl, fun h => ?_⟩
  try dsimp only
  repeat' (first | with_reducible assumption | intro _ | with_reducible apply Device.takeRecord09_legal | with_reducible apply legal_foldl
                    | with_reducible apply legal_ite | simp only [Device.legal_mk] | simp only [Device.legal_any] | split)

theorem Device.branchWork_legal {z : Kept} (d : Device) (t : Nat) (c : SluiceCmd) (x : SluiceF) (h_d : d.Legal z) :
    (Device.branchWork d t c x).Legal z := by
  unfold Device.branchWork
  try dsimp only
  repeat' (first | with_reducible assumption | intro _ | with_reducible apply Device.updEng_legal | with_reducible apply Device.store_legal
                    | with_reducible apply Device.completeSluice_legal | with_reducible apply legal_foldl | with_reducible apply legal_ite | simp only [Device.legal_mk]
                    | simp only [Device.legal_any] | split)

theorem execBranch_legal {z : Kept} (t : Fin 4) (hit : Option Hit) (s : State) :
    ∃ d, execBranch t hit s = .next { s with dev := d } ∧ (s.dev.Legal z → d.Legal z) := by
  refine ⟨_, rfl, fun h => ?_⟩
  try dsimp only
  repeat' (first | with_reducible assumption | intro _ | with_reducible apply Device.withHit_legal | with_reducible apply Device.holdFault_legal
                    | with_reducible apply Device.rejectSluice_legal | with_reducible apply Device.branchWork_legal | with_reducible apply legal_foldl
                    | with_reducible apply legal_ite | simp only [Device.legal_mk] | simp only [Device.legal_any] | split)

end Sys2Proof.Machine
end

