-- ==== Sys2Proof/Laws/LegalBund.lean ====
section
/-! SUPPORT. Every operation of Machine/Bund.lean keeps a legal device legal (Safety.lean). -/
set_option linter.unusedTactic false
set_option linter.unreachableTactic false
set_option linter.unusedVariables false
set_option linter.unusedSimpArgs false
namespace Sys2Proof.Machine

theorem execRead_legal {z : Kept} (x : Txn) (hit : Option Hit) (s : State) :
    ∃ d, execRead x hit s = .next { s with dev := d } ∧ (s.dev.Legal z → d.Legal z) := by
  refine ⟨_, rfl, fun h => ?_⟩
  try dsimp only
  repeat' (first | with_reducible assumption | intro _ | with_reducible apply Device.respond_legal | with_reducible apply Device.withHit_legal
                    | with_reducible apply legal_foldl | with_reducible apply legal_ite | simp only [Device.legal_mk] | simp only [Device.legal_any] | split)

theorem execWrite_legal {z : Kept} (x : Txn) (s : State) :
    ∃ d, execWrite x s = .next { s with dev := d } ∧ (s.dev.Legal z → d.Legal z) := by
  refine ⟨_, rfl, fun h => ?_⟩
  try dsimp only
  repeat' (first | with_reducible assumption | intro _ | with_reducible apply Device.store_legal | with_reducible apply Device.respond_legal
                    | with_reducible apply legal_foldl | with_reducible apply legal_ite | simp only [Device.legal_mk] | simp only [Device.legal_any] | split)

theorem Device.dropPend_legal {z : Kept} (d : Device) (p : Pending) (h_d : d.Legal z) :
    (Device.dropPend d p).Legal z := by
  unfold Device.dropPend
  try dsimp only
  repeat' (first | with_reducible assumption | intro _ | with_reducible apply Device.updEng_legal | with_reducible apply legal_foldl
                    | with_reducible apply legal_ite | simp only [Device.legal_mk] | simp only [Device.legal_any] | split)

theorem Device.answerCopy_legal {z : Kept} (d : Device) (p : Pending) (st : Nat) (data : List Nat) (h_d : d.Legal z) :
    (Device.answerCopy d p st data).Legal z := by
  unfold Device.answerCopy
  try dsimp only
  repeat' (first | with_reducible assumption | intro _ | with_reducible apply Device.store_legal | with_reducible apply Device.failCopy_legal
                    | with_reducible apply Device.dropPend_legal | with_reducible apply legal_foldl | with_reducible apply legal_ite | simp only [Device.legal_mk]
                    | simp only [Device.legal_any] | split)

theorem execReadResp_legal {z : Kept} (x : Txn) (s : State) :
    ∃ d, execReadResp x s = .next { s with dev := d } ∧ (s.dev.Legal z → d.Legal z) := by
  refine ⟨_, rfl, fun h => ?_⟩
  try dsimp only
  repeat' (first | with_reducible assumption | intro _ | with_reducible apply Device.answerCopy_legal | with_reducible apply legal_foldl
                    | with_reducible apply legal_ite | simp only [Device.legal_mk] | simp only [Device.legal_any] | split)

theorem Device.loseRegion_legal {z : Kept} (d : Device) (j : Nat) (st : Nat) (h_d : d.Legal z) :
    (Device.loseRegion d j st).Legal z := by
  unfold Device.loseRegion
  try dsimp only
  repeat' (first | with_reducible assumption | intro _ | with_reducible apply Device.updJob_legal | with_reducible apply legal_foldl
                    | with_reducible apply legal_ite | simp only [Device.legal_mk] | simp only [Device.legal_any] | split)

theorem Device.answerHolder_legal {z : Kept} (d : Device) (p : Pending) (st : Nat) (h_d : d.Legal z) :
    (Device.answerHolder d p st).Legal z := by
  unfold Device.answerHolder
  try dsimp only
  repeat' (first | with_reducible assumption | intro _ | with_reducible apply Device.updJob_legal | with_reducible apply Device.updStep_legal
                    | with_reducible apply Device.noteCoverage_legal | with_reducible apply Device.tryReady_legal | with_reducible apply Device.dropPend_legal
                    | with_reducible apply Device.loseRegion_legal | with_reducible apply legal_foldl | with_reducible apply legal_ite | simp only [Device.legal_mk]
                    | simp only [Device.legal_any] | split)

theorem execWriteAck_legal {z : Kept} (x : Txn) (s : State) :
    ∃ d, execWriteAck x s = .next { s with dev := d } ∧ (s.dev.Legal z → d.Legal z) := by
  refine ⟨_, rfl, fun h => ?_⟩
  try dsimp only
  repeat' (first | with_reducible assumption | intro _ | with_reducible apply Device.answerCopy_legal | with_reducible apply Device.answerHolder_legal
                    | with_reducible apply legal_foldl | with_reducible apply legal_ite | simp only [Device.legal_mk] | simp only [Device.legal_any] | split)

theorem Device.updChain_legal {z : Kept} (d : Device) (j : Nat) (id : Nat) (f : ChainRun → ChainRun) (h_d : d.Legal z) :
    (Device.updChain d j id f).Legal z := by
  unfold Device.updChain
  try dsimp only
  repeat' (first | with_reducible assumption | intro _ | with_reducible apply legal_foldl | with_reducible apply legal_ite | simp only [Device.legal_mk]
                    | simp only [Device.legal_any] | split)

theorem Device.addRecord_legal {z : Kept} {d e : Device} {p key n : Nat} {r : Packet99} (hq : d.addRecord p key r = (n, e)) (h : d.Legal z) :
    e.Legal z := by
  unfold Device.addRecord at hq
  dsimp only at hq
  split at hq
  · cases hq; exact h
  · split at hq
    · cases hq; exact h
    · cases hq; exact Device.updPan_legal _ _ _ h

theorem laddOne_legal {z : Kept} (x : Txn) (p key : Nat) (a : LaddRun) (i before : Nat) (r : Option Packet99) (h : a.dev.Legal z) :
    (laddOne x p key a i before r).dev.Legal z := by
  unfold laddOne
  dsimp only
  split
  · exact h
  · split
    · split
      · exact Device.updPan_legal _ _ _ h
      · exact Device.send_legal _ _ (Device.updPan_legal _ _ _ h)
    · split
      · exact Device.addRecord_legal rfl h
      · exact Device.addRecord_legal rfl h

theorem laddFold_legal {α : Type} {z : Kept} {l : List α} {f : LaddRun → α → LaddRun} {a : LaddRun} (h : a.dev.Legal z)
    (hf : ∀ e x, e.dev.Legal z → (f e x).dev.Legal z) : (l.foldl f a).dev.Legal z := by
  induction l generalizing a with
  | nil => exact h
  | cons x r ih => exact ih (hf a x h)

theorem Device.answerLadd_legal {z : Kept} (d : Device) (x : Txn) (st : Nat) (h_d : d.Legal z) :
    (Device.answerLadd d x st).Legal z := by
  unfold Device.answerLadd
  try dsimp only
  repeat' (first | with_reducible assumption | intro _ | with_reducible apply Device.respond_legal | with_reducible apply Device.report_legal
                    | with_reducible apply legal_foldl | with_reducible apply legal_ite | simp only [Device.legal_mk] | simp only [Device.legal_any] | split)

theorem Device.settleFlags_legal {z : Kept} (src n : Nat) (d : Device) (h : d.Legal z) : (d.settleFlags src n).Legal z := by
  induction n generalizing d with
  | zero => exact h
  | succ n ih =>
    unfold Device.settleFlags
    dsimp only
    split
    · split
      · apply ih
        split
        · split
          · apply Device.updPan_legal; simp only [Device.legal_mk]; exact h
          · simp only [Device.legal_mk]; exact h
        · simp only [Device.legal_mk]; exact h
      · exact h
    · exact h

theorem Device.finishLadd_legal {z : Kept} (d : Device) (h : HeldLadd) (h_d : d.Legal z) :
    (Device.finishLadd d h).Legal z := by
  unfold Device.finishLadd
  try dsimp only
  repeat' (first | with_reducible assumption | intro _ | with_reducible apply Device.answerLadd_legal | with_reducible apply Device.settleFlags_legal
                    | with_reducible apply legal_foldl | with_reducible apply legal_ite | simp only [Device.legal_mk] | simp only [Device.legal_any] | split)

theorem Device.runLadd_legal {z : Kept} (d : Device) (x : Txn) (p : Nat) (old : Option HeldLadd) (h_d : d.Legal z) :
    (Device.runLadd d x p old).Legal z := by
  unfold Device.runLadd
  try dsimp only
  repeat' (first | with_reducible assumption | intro _ | with_reducible apply Device.updChain_legal | with_reducible apply laddOne_legal
                    | with_reducible apply laddFold_legal | with_reducible apply Device.finishLadd_legal | with_reducible apply legal_foldl
                    | with_reducible apply legal_ite | simp only [Device.legal_mk] | simp only [Device.legal_any] | split)

theorem execLadd_legal {z : Kept} (x : Txn) (s : State) :
    ∃ d, execLadd x s = .next { s with dev := d } ∧ (s.dev.Legal z → d.Legal z) := by
  refine ⟨_, rfl, fun h => ?_⟩
  try dsimp only
  repeat' (first | with_reducible assumption | intro _ | with_reducible apply Device.respond_legal | with_reducible apply Device.finishLadd_legal
                    | with_reducible apply Device.runLadd_legal | with_reducible apply legal_foldl | with_reducible apply legal_ite | simp only [Device.legal_mk]
                    | simp only [Device.legal_any] | split)

theorem execLaddAck_legal {z : Kept} (x : Txn) (s : State) :
    ∃ d, execLaddAck x s = .next { s with dev := d } ∧ (s.dev.Legal z → d.Legal z) := by
  refine ⟨_, rfl, fun h => ?_⟩
  try dsimp only
  repeat' (first | with_reducible assumption | intro _ | with_reducible apply Device.report_legal | with_reducible apply Device.dropPend_legal
                    | with_reducible apply legal_foldl | with_reducible apply legal_ite | simp only [Device.legal_mk] | simp only [Device.legal_any] | split)

theorem execLaddResend_legal {z : Kept} (s : State) :
    ∃ d, execLaddResend s = .next { s with dev := d } ∧ (s.dev.Legal z → d.Legal z) := by
  refine ⟨_, rfl, fun h => ?_⟩
  try dsimp only
  repeat' (first | with_reducible assumption | intro _ | with_reducible apply Device.launch_legal | with_reducible apply legal_foldl
                    | with_reducible apply legal_ite | simp only [Device.legal_mk] | simp only [Device.legal_any] | split)

theorem Device.sendLadd_legal {z : Kept} (d : Device) (j : Nat) (pan : Nat) (key : Nat) (x : Txn) (h_d : d.Legal z) :
    (Device.sendLadd d j pan key x).Legal z := by
  unfold Device.sendLadd
  try dsimp only
  repeat' (first | with_reducible assumption | intro _ | with_reducible apply Device.launch_legal | with_reducible apply Device.report_legal
                    | with_reducible apply legal_foldl | with_reducible apply legal_ite | simp only [Device.legal_mk] | simp only [Device.legal_any] | split)

theorem Device.forwardChain_legal {z : Kept} (d : Device) (j : Nat) (id : Nat) (p : Nat) (e : List Nat) (h_d : d.Legal z) :
    (Device.forwardChain d j id p e).Legal z := by
  unfold Device.forwardChain
  try dsimp only
  repeat' (first | with_reducible assumption | intro _ | with_reducible apply Device.updPan_legal | with_reducible apply Device.report_legal
                    | with_reducible apply Device.updChain_legal | with_reducible apply Device.sendLadd_legal | with_reducible apply legal_foldl
                    | with_reducible apply legal_ite | simp only [Device.legal_mk] | simp only [Device.legal_any] | split)

theorem execChainForward_legal {z : Kept} (j : Fin 16) (chain : Nat) (s : State) :
    ∃ d, execChainForward j chain s = .next { s with dev := d } ∧ (s.dev.Legal z → d.Legal z) := by
  refine ⟨_, rfl, fun h => ?_⟩
  try dsimp only
  repeat' (first | with_reducible assumption | intro _ | with_reducible apply Device.forwardChain_legal | with_reducible apply legal_foldl
                    | with_reducible apply legal_ite | simp only [Device.legal_mk] | simp only [Device.legal_any] | split)

theorem Device.reformRecord_legal {z : Kept} (d : Device) (j : Nat) (src : Nat) (own : Nat) (ter : Nat) (expert : Nat) (slot : Nat) (token : Nat) (col : Nat) (h_d : d.Legal z) :
    (Device.reformRecord d j src own ter expert slot token col).Legal z := by
  unfold Device.reformRecord
  try dsimp only
  repeat' (first | with_reducible assumption | intro _ | with_reducible apply Device.sluiceToPeer_legal | with_reducible apply legal_foldl
                    | with_reducible apply legal_ite | simp only [Device.legal_mk] | simp only [Device.legal_any] | split)

theorem execRecordRequestAgain_legal {z : Kept} (src : Nat) (j : Fin 16) (w : Again) (s : State) :
    ∃ d, execRecordRequestAgain src j w s = .next { s with dev := d } ∧ (s.dev.Legal z → d.Legal z) := by
  refine ⟨_, rfl, fun h => ?_⟩
  try dsimp only
  repeat' (first | with_reducible assumption | intro _ | with_reducible apply Device.launch_legal | with_reducible apply Device.reformRecord_legal
                    | with_reducible apply legal_foldl | with_reducible apply legal_ite | simp only [Device.legal_mk] | simp only [Device.legal_any] | split)

theorem Device.setJobFlag_legal {z : Kept} (d : Device) (j : Nat) (l : Nat) (f : Nat) (h_d : d.Legal z) :
    (Device.setJobFlag d j l f).Legal z := by
  unfold Device.setJobFlag
  try dsimp only
  repeat' (first | with_reducible assumption | intro _ | with_reducible apply Device.updPan_legal | with_reducible apply Device.updJob_legal
                    | with_reducible apply legal_foldl | with_reducible apply legal_ite | simp only [Device.legal_mk] | simp only [Device.legal_any] | split)

theorem execFlagset_legal {z : Kept} (x : Txn) (s : State) :
    ∃ d, execFlagset x s = .next { s with dev := d } ∧ (s.dev.Legal z → d.Legal z) := by
  refine ⟨_, rfl, fun h => ?_⟩
  try dsimp only
  repeat' (first | with_reducible assumption | intro _ | with_reducible apply Device.report_legal | with_reducible apply Device.setJobFlag_legal
                    | with_reducible apply legal_foldl | with_reducible apply legal_ite | simp only [Device.legal_mk] | simp only [Device.legal_any] | split)

theorem Device.passOn_legal {z : Kept} (d : Device) (x : Txn) (h_d : d.Legal z) :
    (Device.passOn d x).Legal z := by
  unfold Device.passOn
  try dsimp only
  repeat' (first | with_reducible assumption | intro _ | with_reducible apply Device.launch_legal | with_reducible apply legal_foldl
                    | with_reducible apply legal_ite | simp only [Device.legal_mk] | simp only [Device.legal_any] | split)

theorem execBundForward_legal {z : Kept} (x : Txn) (s : State) :
    ∃ d, execBundForward x s = .next { s with dev := d } ∧ (s.dev.Legal z → d.Legal z) := by
  refine ⟨_, rfl, fun h => ?_⟩
  try dsimp only
  repeat' (first | with_reducible assumption | intro _ | with_reducible apply Device.discard_legal | with_reducible apply Device.passOn_legal
                    | with_reducible apply legal_foldl | with_reducible apply legal_ite | simp only [Device.legal_mk] | simp only [Device.legal_any] | split)

theorem Device.deliver_legal {z : Kept} (d : Device) (h : d.Legal z) : d.deliver.Legal z := by
  unfold Device.deliver
  split
  · exact h
  · rename_i x rest _
    have h1 : ({ d with fab := { d.fab with loop := rest } } : Device).Legal z := by simp only [Device.legal_mk]; exact h
    dsimp only
    split
    · exact h
    · split
      · rename_i t heq
        have key : ∀ (o : Host.Outcome State Fault Refusal), o = .next t →
            (∃ e, o = .next { dev := e } ∧ (({ d with fab := { d.fab with loop := rest } } : Device).Legal z → e.Legal z)) → t.dev.Legal z := by
          rintro o ho ⟨e, he, hl⟩
          rw [ho] at he
          cases he
          exact hl h1
        refine key _ heq ?_
        split
        · exact execRead_legal _ _ _
        · exact execReadResp_legal _ _
        · exact execWrite_legal _ _
        · exact execWriteAck_legal _ _
        · exact execLadd_legal _ _
        · exact execLaddAck_legal _ _
        · exact execFlagset_legal _ _
        · exact ⟨_, rfl, id⟩
      · exact h

theorem Device.idle_legal {z : Kept} (d : Device) (h_d : d.Legal z) :
    (Device.idle d).Legal z := by
  unfold Device.idle
  try dsimp only
  repeat' (first | with_reducible assumption | intro _ | with_reducible apply tideTick_legal | with_reducible apply Device.pfcDrain_legal
                    | with_reducible apply Device.deliver_legal | with_reducible apply legal_foldl | with_reducible apply legal_ite | simp only [Device.legal_mk]
                    | simp only [Device.legal_any] | split)

end Sys2Proof.Machine
end

