-- ==== Sys2Proof/Laws/LegalCollective.lean ====
section
/-! SUPPORT. Every operation of Machine/Collective.lean keeps a legal device legal (Safety.lean). -/
set_option linter.unusedTactic false
set_option linter.unreachableTactic false
set_option linter.unusedVariables false
set_option linter.unusedSimpArgs false
namespace Sys2Proof.Machine

theorem execCollAbort_legal {z : Kept} (src : Nat) (j : Fin 16) (step : Nat) (failed : Option Nat) (s : State) :
    ∃ d, execCollAbort src j step failed s = .next { s with dev := d } ∧ (s.dev.Legal z → d.Legal z) := by
  refine ⟨_, rfl, fun h => ?_⟩
  try dsimp only
  repeat' (first | with_reducible assumption | intro _ | with_reducible apply Device.haltJob_legal | with_reducible apply legal_foldl
                    | with_reducible apply legal_ite | simp only [Device.legal_mk] | simp only [Device.legal_any] | split)

theorem Device.endExchange_legal {z : Kept} (d : Device) (j : Nat) (h_d : d.Legal z) :
    (Device.endExchange d j).Legal z := by
  unfold Device.endExchange
  try dsimp only
  repeat' (first | with_reducible assumption | intro _ | with_reducible apply Device.updJob_legal | with_reducible apply legal_foldl
                    | with_reducible apply legal_ite | simp only [Device.legal_mk] | simp only [Device.legal_any] | split)

theorem execCollectiveTimeout_legal {z : Kept} (j : Fin 16) (step : Nat) (peer : Nat) (s : State) :
    ∃ d, execCollectiveTimeout j step peer s = .next { s with dev := d } ∧ (s.dev.Legal z → d.Legal z) := by
  refine ⟨_, rfl, fun h => ?_⟩
  try dsimp only
  repeat' (first | with_reducible assumption | intro _ | with_reducible apply Device.finish_legal | with_reducible apply Device.tokenAll_legal
                    | with_reducible apply Device.haltJob_legal | with_reducible apply Device.endExchange_legal | with_reducible apply legal_foldl
                    | with_reducible apply legal_ite | simp only [Device.legal_mk] | simp only [Device.legal_any] | split)

theorem execHold_legal {z : Kept} (src : Nat) (j : Fin 16) (step : Nat) (s : State) :
    ∃ d, execHold src j step s = .next { s with dev := d } ∧ (s.dev.Legal z → d.Legal z) := by
  refine ⟨_, rfl, fun h => ?_⟩
  try dsimp only
  repeat' (first | with_reducible assumption | intro _ | with_reducible apply legal_foldl | with_reducible apply legal_ite | simp only [Device.legal_mk]
                    | simp only [Device.legal_any] | split)

theorem execHoldSend_legal {z : Kept} (j : Fin 16) (step : Nat) (s : State) :
    ∃ d, execHoldSend j step s = .next { s with dev := d } ∧ (s.dev.Legal z → d.Legal z) := by
  refine ⟨_, rfl, fun h => ?_⟩
  try dsimp only
  repeat' (first | with_reducible assumption | intro _ | with_reducible apply Device.tokenAll_legal | with_reducible apply legal_foldl
                    | with_reducible apply legal_ite | simp only [Device.legal_mk] | simp only [Device.legal_any] | split)

theorem Device.hearJoin_legal {z : Kept} (d : Device) (j : Nat) (bundId : Nat) (step : Nat) (h_d : d.Legal z) :
    (Device.hearJoin d j bundId step).Legal z := by
  unfold Device.hearJoin
  try dsimp only
  repeat' (first | with_reducible assumption | intro _ | with_reducible apply Device.updJob_legal | with_reducible apply Device.logEvent_legal
                    | with_reducible apply legal_foldl | with_reducible apply legal_ite | simp only [Device.legal_mk] | simp only [Device.legal_any] | split)

theorem execJoin_legal {z : Kept} (src : Nat) (j : Fin 16) (bundId : Nat) (step : Nat) (s : State) :
    ∃ d, execJoin src j bundId step s = .next { s with dev := d } ∧ (s.dev.Legal z → d.Legal z) := by
  refine ⟨_, rfl, fun h => ?_⟩
  try dsimp only
  repeat' (first | with_reducible assumption | intro _ | with_reducible apply Device.updJob_legal
                    | (with_reducible refine Device.draw_legal (by assumption) ?_) | with_reducible apply Device.draw_snd_legal
                    | with_reducible apply Device.logEvent_legal | with_reducible apply Device.hearJoin_legal | with_reducible apply legal_foldl
                    | with_reducible apply legal_ite | simp only [Device.legal_mk] | simp only [Device.legal_any] | split)

theorem execQueued_legal {z : Kept} (src : Nat) (j : Fin 16) (s : State) :
    ∃ d, execQueued src j s = .next { s with dev := d } ∧ (s.dev.Legal z → d.Legal z) := by
  refine ⟨_, rfl, fun h => ?_⟩
  try dsimp only
  repeat' (first | with_reducible assumption | intro _ | with_reducible apply Device.updJob_legal | with_reducible apply legal_foldl
                    | with_reducible apply legal_ite | simp only [Device.legal_mk] | simp only [Device.legal_any] | split)

theorem execPartner_legal {z : Kept} (src : Nat) (j : Fin 16) (ids : List Nat) (s : State) :
    ∃ d, execPartner src j ids s = .next { s with dev := d } ∧ (s.dev.Legal z → d.Legal z) := by
  refine ⟨_, rfl, fun h => ?_⟩
  try dsimp only
  repeat' (first | with_reducible assumption | intro _ | with_reducible apply Device.updJob_legal | with_reducible apply Device.tokenTo_legal
                    | with_reducible apply legal_foldl | with_reducible apply legal_ite | simp only [Device.legal_mk] | simp only [Device.legal_any] | split)

end Sys2Proof.Machine
end

