-- ==== Sys2Proof/Laws/LegalLinks.lean ====
section
/-! SUPPORT. Every operation of Machine/Links.lean keeps a legal device legal (Safety.lean). -/
set_option linter.unusedTactic false
set_option linter.unreachableTactic false
set_option linter.unusedVariables false
set_option linter.unusedSimpArgs false
namespace Sys2Proof.Machine

theorem Device.failPend_legal {z : Kept} (d : Device) (p : Pending) (h_d : d.Legal z) :
    (Device.failPend d p).Legal z := by
  unfold Device.failPend
  try dsimp only
  repeat' (first | with_reducible assumption | intro _ | with_reducible apply Device.report_legal | with_reducible apply Device.dropPend_legal
                    | with_reducible apply Device.answerCopy_legal | with_reducible apply Device.answerHolder_legal | with_reducible apply legal_foldl
                    | with_reducible apply legal_ite | simp only [Device.legal_mk] | simp only [Device.legal_any] | split)

theorem Device.failForwarded_legal {z : Kept} (d : Device) (b : Nat) (lost : List Txn) (h_d : d.Legal z) :
    (Device.failForwarded d b lost).Legal z := by
  unfold Device.failForwarded
  try dsimp only
  repeat' (first | with_reducible assumption | intro _ | with_reducible apply Device.discard_legal | with_reducible apply legal_foldl
                    | with_reducible apply legal_ite | simp only [Device.legal_mk] | simp only [Device.legal_any] | split)

theorem Device.portDown_legal {z : Kept} (d : Device) (b : Nat) (h_d : d.Legal z) :
    (Device.portDown d b).Legal z := by
  unfold Device.portDown
  try dsimp only
  repeat' (first | with_reducible assumption | intro _ | with_reducible apply Device.updPort_legal | with_reducible apply Device.readHolder_legal
                    | with_reducible apply Device.haltJob_legal | with_reducible apply Device.failPend_legal | with_reducible apply Device.failForwarded_legal
                    | with_reducible apply legal_foldl | with_reducible apply legal_ite | simp only [Device.legal_mk] | simp only [Device.legal_any] | split)

theorem Device.laneFaulty_legal {z : Kept} (d : Device) (b : Nat) (lane : Nat) (h_d : d.Legal z) :
    (Device.laneFaulty d b lane).Legal z := by
  unfold Device.laneFaulty
  try dsimp only
  repeat' (first | with_reducible assumption | intro _ | with_reducible apply Device.updPort_legal | with_reducible apply Device.logEvent_legal
                    | with_reducible apply Device.noteRetire_legal | with_reducible apply Device.updWear_legal | with_reducible apply Device.portDown_legal
                    | with_reducible apply legal_foldl | with_reducible apply legal_ite | simp only [Device.legal_mk] | simp only [Device.legal_any] | split)

theorem Device.sendFaults_legal {z : Kept} (d : Device) (b : Nat) (bad : BitVec 9) (h_d : d.Legal z) :
    (Device.sendFaults d b bad).Legal z := by
  unfold Device.sendFaults
  try dsimp only
  repeat' (first | with_reducible assumption | intro _ | with_reducible apply Device.send_legal | with_reducible apply Device.control_legal
                    | with_reducible apply Device.emitPlain_legal | with_reducible apply legal_foldl | with_reducible apply legal_ite | simp only [Device.legal_mk]
                    | simp only [Device.legal_any] | split)

theorem Device.foundFaulty_legal {z : Kept} (d : Device) (b : Nat) (lane : Nat) (h_d : d.Legal z) :
    (Device.foundFaulty d b lane).Legal z := by
  unfold Device.foundFaulty
  try dsimp only
  repeat' (first | with_reducible assumption | intro _ | with_reducible apply Device.laneFaulty_legal | with_reducible apply Device.sendFaults_legal
                    | with_reducible apply legal_foldl | with_reducible apply legal_ite | simp only [Device.legal_mk] | simp only [Device.legal_any] | split)

theorem execLaneFault_legal {z : Kept} (b : Fin 8) (lane : Fin 9) (s : State) :
    ∃ d, execLaneFault b lane s = .next { s with dev := d } ∧ (s.dev.Legal z → d.Legal z) := by
  refine ⟨_, rfl, fun h => ?_⟩
  try dsimp only
  repeat' (first | with_reducible assumption | intro _ | with_reducible apply Device.foundFaulty_legal | with_reducible apply legal_foldl
                    | with_reducible apply legal_ite | simp only [Device.legal_mk] | simp only [Device.legal_any] | split)

theorem execControlFlit_legal {z : Kept} (b : Fin 8) (bad : BitVec 9) (s : State) :
    ∃ d, execControlFlit b bad s = .next { s with dev := d } ∧ (s.dev.Legal z → d.Legal z) := by
  refine ⟨_, rfl, fun h => ?_⟩
  try dsimp only
  repeat' (first | with_reducible assumption | intro _ | with_reducible apply Device.laneFaulty_legal | with_reducible apply legal_foldl
                    | with_reducible apply legal_ite | simp only [Device.legal_mk] | simp only [Device.legal_any] | split)

theorem Device.resendFlits_legal {z : Kept} (d : Device) (b : Nat) (h_d : d.Legal z) :
    (Device.resendFlits d b).Legal z := by
  unfold Device.resendFlits
  try dsimp only
  repeat' (first | with_reducible assumption | intro _ | with_reducible apply Device.updPort_legal | with_reducible apply Device.emit_legal
                    | with_reducible apply legal_foldl | with_reducible apply legal_ite | simp only [Device.legal_mk] | simp only [Device.legal_any] | split)

theorem Device.sendNak_legal {z : Kept} (d : Device) (b : Nat) (h_d : d.Legal z) :
    (Device.sendNak d b).Legal z := by
  unfold Device.sendNak
  try dsimp only
  repeat' (first | with_reducible assumption | intro _ | with_reducible apply Device.emitPlain_legal | with_reducible apply legal_foldl
                    | with_reducible apply legal_ite | simp only [Device.legal_mk] | simp only [Device.legal_any] | split)

theorem Device.countTag_legal {z : Kept} (d : Device) (b : Nat) (h_d : d.Legal z) :
    (Device.countTag d b).Legal z := by
  unfold Device.countTag
  try dsimp only
  repeat' (first | with_reducible assumption | intro _ | with_reducible apply Device.updPort_legal | with_reducible apply legal_foldl
                    | with_reducible apply legal_ite | simp only [Device.legal_mk] | simp only [Device.legal_any] | split)

theorem execBundFlit_legal {z : Kept} (b : Fin 8) (f : FlitIn) (s : State) :
    ∃ d, execBundFlit b f s = .next { s with dev := d } ∧ (s.dev.Legal z → d.Legal z) := by
  refine ⟨_, rfl, fun h => ?_⟩
  try dsimp only
  repeat' (first | with_reducible assumption | intro _ | with_reducible apply Device.updPort_legal | with_reducible apply Device.emitPlain_legal
                    | with_reducible apply Device.drain_legal | with_reducible apply Device.sendNak_legal | with_reducible apply Device.countTag_legal
                    | with_reducible apply legal_foldl | with_reducible apply legal_ite | simp only [Device.legal_mk] | simp only [Device.legal_any] | split)

theorem execNak_legal {z : Kept} (b : Fin 8) (ackSeq : Nat) (s : State) :
    ∃ d, execNak b ackSeq s = .next { s with dev := d } ∧ (s.dev.Legal z → d.Legal z) := by
  refine ⟨_, rfl, fun h => ?_⟩
  try dsimp only
  repeat' (first | with_reducible assumption | intro _ | with_reducible apply Device.updPort_legal | with_reducible apply Device.drain_legal
                    | with_reducible apply Device.resendFlits_legal | with_reducible apply legal_foldl | with_reducible apply legal_ite | simp only [Device.legal_mk]
                    | simp only [Device.legal_any] | split)

theorem execFlitResendLimit_legal {z : Kept} (b : Fin 8) (untrained : List (Fin 9)) (s : State) :
    ∃ d, execFlitResendLimit b untrained s = .next { s with dev := d } ∧ (s.dev.Legal z → d.Legal z) := by
  refine ⟨_, rfl, fun h => ?_⟩
  try dsimp only
  repeat' (first | with_reducible assumption | intro _ | with_reducible apply Device.updPort_legal | with_reducible apply Device.laneFaulty_legal
                    | with_reducible apply Device.sendFaults_legal | with_reducible apply legal_foldl | with_reducible apply legal_ite | simp only [Device.legal_mk]
                    | simp only [Device.legal_any] | split)

theorem execPortRetrain_legal {z : Kept} (b : Fin 8) (peerEnc : Bool) (s : State) :
    ∃ d, execPortRetrain b peerEnc s = .next { s with dev := d } ∧ (s.dev.Legal z → d.Legal z) := by
  refine ⟨_, rfl, fun h => ?_⟩
  try dsimp only
  repeat' (first | with_reducible assumption | intro _ | with_reducible apply Device.updPort_legal | with_reducible apply Device.drain_legal
                    | with_reducible apply Device.foundFaulty_legal | with_reducible apply Device.resendFlits_legal | with_reducible apply legal_foldl
                    | with_reducible apply legal_ite | simp only [Device.legal_mk] | simp only [Device.legal_any] | split)

theorem execBndAuth_legal {z : Kept} (b : Fin 8) (s : State) :
    ∃ d, execBndAuth b s = .next { s with dev := d } ∧ (s.dev.Legal z → d.Legal z) := by
  refine ⟨_, rfl, fun h => ?_⟩
  try dsimp only
  repeat' (first | with_reducible assumption | intro _ | with_reducible apply Device.updPort_legal | with_reducible apply Device.logLockdown_legal
                    | with_reducible apply Device.noteRetire_legal | with_reducible apply Device.portDown_legal | with_reducible apply legal_foldl
                    | with_reducible apply legal_ite | simp only [Device.legal_mk] | simp only [Device.legal_any] | split)

theorem execKeyEpochInstall_legal {z : Kept} (b : Fin 8) (s : State) :
    ∃ d, execKeyEpochInstall b s = .next { s with dev := d } ∧ (s.dev.Legal z → d.Legal z) := by
  refine ⟨_, rfl, fun h => ?_⟩
  try dsimp only
  repeat' (first | with_reducible assumption | intro _ | with_reducible apply Device.updPort_legal | with_reducible apply Device.drain_legal
                    | with_reducible apply legal_foldl | with_reducible apply legal_ite | simp only [Device.legal_mk] | simp only [Device.legal_any] | split)

end Sys2Proof.Machine
end

