-- ==== Sys2Proof/Laws/LegalMemCtl.lean ====
section
/-! SUPPORT. Every operation of Machine/MemCtl.lean keeps a legal device legal (Safety.lean). -/
set_option linter.unusedTactic false
set_option linter.unreachableTactic false
set_option linter.unusedVariables false
set_option linter.unusedSimpArgs false
namespace Sys2Proof.Machine

theorem Device.cacheOut_legal {z : Kept} (d : Device) (t : Nat) (h_d : d.Legal z) :
    (Device.cacheOut d t).Legal z := by
  unfold Device.cacheOut
  try dsimp only
  repeat' (first | with_reducible assumption | intro _ | with_reducible apply Device.updTer_legal | with_reducible apply Device.undefine_legal
                    | with_reducible apply legal_foldl | with_reducible apply legal_ite | simp only [Device.legal_mk] | simp only [Device.legal_any] | split)

theorem Device.undefBed_legal {z : Kept} (d : Device) (t : Nat) (b : Nat) (h_d : d.Legal z) :
    (Device.undefBed d t b).Legal z := by
  unfold Device.undefBed
  try dsimp only
  repeat' (first | with_reducible assumption | intro _ | with_reducible apply Device.undefine_legal | with_reducible apply legal_foldl
                    | with_reducible apply legal_ite | simp only [Device.legal_mk] | simp only [Device.legal_any] | split)

theorem execBedModeChange_legal {z : Kept} (t : Fin 4) (modes : BitVec 80) (s : State) :
    ∃ d, execBedModeChange t modes s = .next { s with dev := d } ∧ (s.dev.Legal z → d.Legal z) := by
  refine ⟨_, rfl, fun h => ?_⟩
  try dsimp only
  repeat' (first | with_reducible assumption | intro _ | with_reducible apply Device.updTer_legal | with_reducible apply Device.deriveSeal_legal
                    | with_reducible apply Device.cacheOut_legal | with_reducible apply Device.undefBed_legal | with_reducible apply legal_foldl
                    | with_reducible apply legal_ite | simp only [Device.legal_mk] | simp only [Device.legal_any] | split)

theorem Device.logMapOut_legal {z : Kept} (d : Device) (src : Nat) (unit : Nat) (h_d : d.Legal z) :
    (Device.logMapOut d src unit).Legal z := by
  unfold Device.logMapOut
  try dsimp only
  repeat' (first | with_reducible assumption | intro _ | (with_reducible refine Device.draw_legal (by assumption) ?_)
                    | with_reducible apply Device.draw_snd_legal | with_reducible apply Device.logEvent_legal | with_reducible apply legal_foldl
                    | with_reducible apply legal_ite | simp only [Device.legal_mk] | simp only [Device.legal_any] | split)

theorem Device.losePartners_legal {z : Kept} (d : Device) (t : Nat) (h_d : d.Legal z) :
    (Device.losePartners d t).Legal z := by
  unfold Device.losePartners
  try dsimp only
  repeat' (first | with_reducible assumption | intro _ | with_reducible apply Device.updTer_legal | with_reducible apply Device.sendToken_legal
                    | with_reducible apply legal_foldl | with_reducible apply legal_ite | simp only [Device.legal_mk] | simp only [Device.legal_any] | split)

theorem execChannelMapOut_legal {z : Kept} (t : Fin 4) (c : Fin 32) (s : State) :
    ∃ d, execChannelMapOut t c s = .next { s with dev := d } ∧ (s.dev.Legal z → d.Legal z) := by
  refine ⟨_, rfl, fun h => ?_⟩
  try dsimp only
  repeat' (first | with_reducible assumption | intro _ | with_reducible apply Device.updTer_legal | with_reducible apply Device.undefine_legal
                    | with_reducible apply Device.deriveSeal_legal | with_reducible apply Device.noteRetire_legal | with_reducible apply Device.updWear_legal
                    | with_reducible apply Device.logMapOut_legal | with_reducible apply Device.losePartners_legal | with_reducible apply legal_foldl
                    | with_reducible apply legal_ite | simp only [Device.legal_mk] | simp only [Device.legal_any] | split)

theorem execBedMapOut_legal {z : Kept} (t : Fin 4) (b : Fin 80) (s : State) :
    ∃ d, execBedMapOut t b s = .next { s with dev := d } ∧ (s.dev.Legal z → d.Legal z) := by
  refine ⟨_, rfl, fun h => ?_⟩
  try dsimp only
  repeat' (first | with_reducible assumption | intro _ | with_reducible apply Device.updTer_legal | with_reducible apply Device.deriveSeal_legal
                    | with_reducible apply Device.updWear_legal | with_reducible apply Device.cacheOut_legal | with_reducible apply Device.undefBed_legal
                    | with_reducible apply Device.logMapOut_legal | with_reducible apply legal_foldl | with_reducible apply legal_ite | simp only [Device.legal_mk]
                    | simp only [Device.legal_any] | split)

theorem execTestModeEnable_legal {z : Kept} (t : Fin 4) (s : State) :
    ∃ d, execTestModeEnable t s = .next { s with dev := d } ∧ (s.dev.Legal z → d.Legal z) := by
  refine ⟨_, rfl, fun h => ?_⟩
  try dsimp only
  repeat' (first | with_reducible assumption | intro _ | with_reducible apply Device.updJob_legal | with_reducible apply Device.updTer_legal
                    | with_reducible apply Device.updChan_legal | with_reducible apply Device.undefine_legal | with_reducible apply Device.logEvent_legal
                    | with_reducible apply Device.cacheOut_legal | with_reducible apply legal_foldl | with_reducible apply legal_ite | simp only [Device.legal_mk]
                    | simp only [Device.legal_any] | split)

theorem execTestModeDisable_legal {z : Kept} (t : Fin 4) (s : State) :
    ∃ d, execTestModeDisable t s = .next { s with dev := d } ∧ (s.dev.Legal z → d.Legal z) := by
  refine ⟨_, rfl, fun h => ?_⟩
  try dsimp only
  repeat' (first | with_reducible assumption | intro _ | with_reducible apply Device.updTer_legal | with_reducible apply Device.updChan_legal
                    | with_reducible apply Device.undefine_legal | with_reducible apply legal_foldl | with_reducible apply legal_ite | simp only [Device.legal_mk]
                    | simp only [Device.legal_any] | split)

theorem Device.tgWrite_legal {z : Kept} (d : Device) (c : Nat) (pattern : Nat) (opmode : Nat) (go : Bool) (h_d : d.Legal z) :
    (Device.tgWrite d c pattern opmode go).Legal z := by
  unfold Device.tgWrite
  try dsimp only
  repeat' (first | with_reducible assumption | intro _ | with_reducible apply Device.updChan_legal | with_reducible apply legal_foldl
                    | with_reducible apply legal_ite | simp only [Device.legal_mk] | simp only [Device.legal_any] | split)

theorem execTgGo_legal {z : Kept} (c : Fin 128) (pattern : Nat) (opmode : Nat) (s : State) :
    ∃ d, execTgGo c pattern opmode s = .next { s with dev := d } ∧ (s.dev.Legal z → d.Legal z) := by
  refine ⟨_, rfl, fun h => ?_⟩
  try dsimp only
  repeat' (first | with_reducible assumption | intro _ | with_reducible apply Device.tgWrite_legal | with_reducible apply legal_foldl
                    | with_reducible apply legal_ite | simp only [Device.legal_mk] | simp only [Device.legal_any] | split)

theorem Device.tgCtrl_legal {z : Kept} (d : Device) (c : Nat) (pattern : Nat) (opmode : Nat) (go : Bool) (abort : Bool) (h_d : d.Legal z) :
    (Device.tgCtrl d c pattern opmode go abort).Legal z := by
  unfold Device.tgCtrl
  try dsimp only
  repeat' (first | with_reducible assumption | intro _ | with_reducible apply Device.tgStop_legal | with_reducible apply Device.tgWrite_legal
                    | with_reducible apply legal_foldl | with_reducible apply legal_ite | simp only [Device.legal_mk] | simp only [Device.legal_any] | split)

theorem execTgAbort_legal {z : Kept} (c : Fin 128) (s : State) :
    ∃ d, execTgAbort c s = .next { s with dev := d } ∧ (s.dev.Legal z → d.Legal z) := by
  refine ⟨_, rfl, fun h => ?_⟩
  try dsimp only
  repeat' (first | with_reducible assumption | intro _ | with_reducible apply Device.tgStop_legal | with_reducible apply legal_foldl
                    | with_reducible apply legal_ite | simp only [Device.legal_mk] | simp only [Device.legal_any] | split)

theorem execTgRunDone_legal {z : Kept} (c : Fin 128) (flips : List (Nat × Nat)) (s : State) :
    ∃ d, execTgRunDone c flips s = .next { s with dev := d } ∧ (s.dev.Legal z → d.Legal z) := by
  refine ⟨_, rfl, fun h => ?_⟩
  try dsimp only
  repeat' (first | with_reducible assumption | intro _ | with_reducible apply Device.updChan_legal | with_reducible apply legal_foldl
                    | with_reducible apply legal_ite | simp only [Device.legal_mk] | simp only [Device.legal_any] | split)

end Sys2Proof.Machine
end

