-- ==== Sys2Proof/Laws/LegalRegs.lean ====
section
/-! SUPPORT. Every operation of Machine/Regs.lean keeps a legal device legal (Safety.lean). -/
set_option linter.unusedTactic false
set_option linter.unreachableTactic false
set_option linter.unusedVariables false
set_option linter.unusedSimpArgs false
namespace Sys2Proof.Machine

theorem rcClear_legal {z : Kept} (d : Device) (a : Nat) (h_d : d.Legal z) :
    (rcClear d a).Legal z := by
  unfold rcClear
  try dsimp only
  repeat' (first | with_reducible assumption | (simp only [TerPower.legal] at *; (repeat' split) <;> omega) | intro _
                    | with_reducible apply Device.updPan_legal | with_reducible apply Device.updTer_legal | with_reducible apply Device.updEng_legal
                    | with_reducible apply Device.updTerp_legal | with_reducible apply Device.updChan_legal | with_reducible apply Device.updPort_legal
                    | with_reducible apply legal_foldl | with_reducible apply legal_ite | simp only [Device.legal_mk] | simp only [Device.legal_any] | split)

theorem execRcRead_legal {z : Kept} (a : Agent) (addr : Nat) (s : State) :
    ∃ d, execRcRead a addr s = .next { s with dev := d } ∧ (s.dev.Legal z → d.Legal z) := by
  refine ⟨_, rfl, fun h => ?_⟩
  try dsimp only
  repeat' (first | with_reducible assumption | intro _ | with_reducible apply Device.send_legal | with_reducible apply rcClear_legal
                    | with_reducible apply legal_foldl | with_reducible apply legal_ite | simp only [Device.legal_mk] | simp only [Device.legal_any] | split)

theorem execTideTimeLatch_legal {z : Kept} (s : State) :
    ∃ d, execTideTimeLatch s = .next { s with dev := d } ∧ (s.dev.Legal z → d.Legal z) := by
  refine ⟨_, rfl, fun h => ?_⟩
  try dsimp only
  repeat' (first | with_reducible assumption | intro _ | with_reducible apply Device.send_legal | with_reducible apply legal_foldl
                    | with_reducible apply legal_ite | simp only [Device.legal_mk] | simp only [Device.legal_any] | split)

theorem execEnergyLatch_legal {z : Kept} (addr : Nat) (s : State) :
    ∃ d, execEnergyLatch addr s = .next { s with dev := d } ∧ (s.dev.Legal z → d.Legal z) := by
  refine ⟨_, rfl, fun h => ?_⟩
  try dsimp only
  repeat' (first | with_reducible assumption | intro _ | with_reducible apply Device.send_legal | with_reducible apply legal_foldl
                    | with_reducible apply legal_ite | simp only [Device.legal_mk] | simp only [Device.legal_any] | split)

theorem Device.writePortCtrl_legal {z : Kept} (d : Device) (b : Nat) (w : Nat) (h_d : d.Legal z) :
    (Device.writePortCtrl d b w).Legal z := by
  unfold Device.writePortCtrl
  try dsimp only
  repeat' (first | with_reducible assumption | intro _ | with_reducible apply Device.updPort_legal | with_reducible apply Device.portDown_legal
                    | with_reducible apply legal_foldl | with_reducible apply legal_ite | simp only [Device.legal_mk] | simp only [Device.legal_any] | split)

theorem writeSealCtrl_legal {z : Kept} (d : Device) (g : Agent) (w : Nat) (lock : Bool) (h_d : d.Legal z) :
    (writeSealCtrl d g w lock).Legal z := by
  unfold writeSealCtrl
  try dsimp only
  repeat' (first | with_reducible assumption | intro _ | with_reducible apply legal_foldl | with_reducible apply legal_ite | simp only [Device.legal_mk]
                    | simp only [Device.legal_any] | split)

theorem regWrite_legal {z : Kept} (d : Device) (a : Nat) (w : Nat) (h_d : d.Legal z) :
    (regWrite d a w).Legal z := by
  unfold regWrite
  try dsimp only
  repeat' (first | with_reducible assumption | (simp only [TerPower.legal] at *; (repeat' split) <;> omega) | intro _
                    | with_reducible apply Device.updTer_legal | with_reducible apply Device.updTerp_legal | with_reducible apply Device.updChan_legal
                    | with_reducible apply Device.tgCtrl_legal | with_reducible apply Device.writePortCtrl_legal | with_reducible apply legal_foldl
                    | with_reducible apply legal_ite | simp only [Device.legal_mk] | simp only [Device.legal_any] | split)

theorem execRegisterWrite_legal {z : Kept} (a : Agent) (addr : Nat) (w : Nat) (s : State) :
    ∃ d, execRegisterWrite a addr w s = .next { s with dev := d } ∧ (s.dev.Legal z → d.Legal z) := by
  refine ⟨_, rfl, fun h => ?_⟩
  try dsimp only
  repeat' (first | with_reducible assumption | intro _ | with_reducible apply Device.deriveSeal_legal | with_reducible apply writeSealCtrl_legal
                    | with_reducible apply regWrite_legal | with_reducible apply legal_foldl | with_reducible apply legal_ite | simp only [Device.legal_mk]
                    | simp only [Device.legal_any] | split)

theorem execWmWrite_legal {z : Kept} (a : Agent) (addr : Nat) (w : Nat) (s : State) :
    ∃ d, execWmWrite a addr w s = .next { s with dev := d } ∧ (s.dev.Legal z → d.Legal z) := by
  refine ⟨_, rfl, fun h => ?_⟩
  try dsimp only
  repeat' (first | with_reducible assumption | intro _ | with_reducible apply legal_foldl | with_reducible apply legal_ite | simp only [Device.legal_mk]
                    | simp only [Device.legal_any] | split)

theorem execGlbLockWrite_legal {z : Kept} (a : Agent) (w : Nat) (s : State) :
    ∃ d, execGlbLockWrite a w s = .next { s with dev := d } ∧ (s.dev.Legal z → d.Legal z) := by
  refine ⟨_, rfl, fun h => ?_⟩
  try dsimp only
  repeat' (first | with_reducible assumption | intro _ | with_reducible apply legal_foldl | with_reducible apply legal_ite | simp only [Device.legal_mk]
                    | simp only [Device.legal_any] | split)

theorem Device.writePair_legal {z : Kept} (d : Device) (x : Nat × Nat) (h_d : d.Legal z) :
    (Device.writePair d x).Legal z := by
  unfold Device.writePair
  try dsimp only
  repeat' (first | with_reducible assumption | intro _ | with_reducible apply regWrite_legal | with_reducible apply legal_foldl
                    | with_reducible apply legal_ite | simp only [Device.legal_mk] | simp only [Device.legal_any] | split)

theorem Device.storeSeal_legal {z : Kept} (d : Device) (ref : Nat) (h_d : d.Legal z) :
    (Device.storeSeal d ref).Legal z := by
  unfold Device.storeSeal
  try dsimp only
  repeat' (first | with_reducible assumption | intro _ | with_reducible apply legal_foldl | with_reducible apply legal_ite | simp only [Device.legal_mk]
                    | simp only [Device.legal_any] | split)

theorem Device.freeSet_legal {z : Kept} (d : Device) (i : Nat) (h_d : d.Legal z) :
    (Device.freeSet d i).Legal z := by
  unfold Device.freeSet
  try dsimp only
  repeat' (first | with_reducible assumption | intro _ | with_reducible apply legal_foldl | with_reducible apply legal_ite | simp only [Device.legal_mk]
                    | simp only [Device.legal_any] | split)

theorem Device.applySet_legal {z : Kept} (d : Device) (handle : Nat) (h_d : d.Legal z) :
    (Device.applySet d handle).Legal z := by
  unfold Device.applySet
  try dsimp only
  repeat' (first | with_reducible assumption | intro _ | with_reducible apply Device.logEvent_legal | with_reducible apply Device.loadPower_legal
                    | with_reducible apply Device.writePair_legal | with_reducible apply Device.storeSeal_legal | with_reducible apply Device.freeSet_legal
                    | with_reducible apply legal_foldl | with_reducible apply legal_ite | simp only [Device.legal_mk] | simp only [Device.legal_any] | split)

theorem execConfigSetExpiry_legal {z : Kept} (i : Fin 4) (s : State) :
    ∃ d, execConfigSetExpiry i s = .next { s with dev := d } ∧ (s.dev.Legal z → d.Legal z) := by
  refine ⟨_, rfl, fun h => ?_⟩
  try dsimp only
  repeat' (first | with_reducible assumption | intro _ | with_reducible apply Device.freeSet_legal | with_reducible apply legal_foldl
                    | with_reducible apply legal_ite | simp only [Device.legal_mk] | simp only [Device.legal_any] | split)

end Sys2Proof.Machine
end

