-- ==== Sys2Proof/Laws/LegalFiring.lean ====
section
/-! SUPPORT. Every operation of Machine/Firing.lean keeps a legal device legal (Safety.lean). -/
set_option linter.unusedTactic false
set_option linter.unreachableTactic false
set_option linter.unusedVariables false
set_option linter.unusedSimpArgs false
namespace Sys2Proof.Machine

theorem countLate_ns (t : Tide) (e : TideEntry) : (countLate t e).ns = t.ns := by
  unfold countLate
  split <;> rfl

theorem Device.fire_legal {z : Kept} (d : Device) (i : Nat) (action : Nat) (f : Device → TideEntry → Device) (h_d : d.Legal z)
    (h_f : ∀ (x0 : Device) (x1 : TideEntry), x0.Legal z → (f x0 x1).Legal z) : (Device.fire d i action f).Legal z := by
  unfold Device.fire
  split
  · apply h_f
    exact ⟨h_d.fused, by show (countLate _ _).ns < _; rw [countLate_ns]; exact h_d.clock, h_d.alarm, h_d.floor, h_d.power, h_d.memory⟩
  · exact h_d

theorem Device.markFired_legal {z : Kept} (d : Device) (i : Nat) (h_d : d.Legal z) :
    (Device.markFired d i).Legal z := by
  unfold Device.markFired
  try dsimp only
  repeat' (first | with_reducible assumption | intro _ | with_reducible apply legal_foldl | with_reducible apply legal_ite | simp only [Device.legal_mk]
                    | simp only [Device.legal_any] | split)

theorem Device.phaseFlag_legal {z : Kept} (d : Device) (j : Nat) (l : Nat) (flag : Nat) (h_d : d.Legal z) :
    (Device.phaseFlag d j l flag).Legal z := by
  unfold Device.phaseFlag
  try dsimp only
  repeat' (first | with_reducible assumption | intro _ | with_reducible apply Device.updPan_legal | with_reducible apply Device.updJob_legal
                    | with_reducible apply legal_foldl | with_reducible apply legal_ite | simp only [Device.legal_mk] | simp only [Device.legal_any] | split)

theorem execPhase_legal {z : Kept} (i : Fin 256) (s : State) :
    ∃ d, execPhase i s = .next { s with dev := d } ∧ (s.dev.Legal z → d.Legal z) := by
  refine ⟨_, rfl, fun h => ?_⟩
  try dsimp only
  repeat' (first | with_reducible assumption | intro _ | with_reducible apply Device.freeEntryAt_legal | with_reducible apply Device.fire_legal
                    | with_reducible apply Device.phaseFlag_legal | with_reducible apply legal_foldl | with_reducible apply legal_ite | simp only [Device.legal_mk]
                    | simp only [Device.legal_any] | split)

theorem execCommit_legal {z : Kept} (i : Fin 256) (s : State) :
    ∃ d, execCommit i s = .next { s with dev := d } ∧ (s.dev.Legal z → d.Legal z) := by
  refine ⟨_, rfl, fun h => ?_⟩
  try dsimp only
  repeat' (first | with_reducible assumption | intro _ | with_reducible apply Device.updJob_legal | with_reducible apply Device.tryReady_legal
                    | with_reducible apply Device.fire_legal | with_reducible apply Device.markFired_legal | with_reducible apply legal_foldl
                    | with_reducible apply legal_ite | simp only [Device.legal_mk] | simp only [Device.legal_any] | split)

theorem execConfig_legal {z : Kept} (i : Fin 256) (s : State) :
    ∃ d, execConfig i s = .next { s with dev := d } ∧ (s.dev.Legal z → d.Legal z) := by
  refine ⟨_, rfl, fun h => ?_⟩
  try dsimp only
  repeat' (first | with_reducible assumption | intro _ | with_reducible apply Device.freeEntryAt_legal | with_reducible apply Device.applySet_legal
                    | with_reducible apply Device.fire_legal | with_reducible apply legal_foldl | with_reducible apply legal_ite | simp only [Device.legal_mk]
                    | simp only [Device.legal_any] | split)

theorem execCap_legal {z : Kept} (i : Fin 256) (s : State) :
    ∃ d, execCap i s = .next { s with dev := d } ∧ (s.dev.Legal z → d.Legal z) := by
  refine ⟨_, rfl, fun h => ?_⟩
  try dsimp only
  repeat' (first | with_reducible assumption | intro _ | with_reducible apply Device.freeEntryAt_legal | with_reducible apply Device.fire_legal
                    | with_reducible apply legal_foldl | with_reducible apply legal_ite | simp only [Device.legal_mk] | simp only [Device.legal_any] | split)

theorem execSnapshot_legal {z : Kept} (i : Fin 256) (s : State) :
    ∃ d, execSnapshot i s = .next { s with dev := d } ∧ (s.dev.Legal z → d.Legal z) := by
  refine ⟨_, rfl, fun h => ?_⟩
  try dsimp only
  repeat' (first | with_reducible assumption | intro _ | with_reducible apply Device.fire_legal | with_reducible apply Device.markFired_legal
                    | with_reducible apply legal_foldl | with_reducible apply legal_ite | simp only [Device.legal_mk] | simp only [Device.legal_any] | split)

theorem execEvalOpen_legal {z : Kept} (i : Fin 256) (s : State) :
    ∃ d, execEvalOpen i s = .next { s with dev := d } ∧ (s.dev.Legal z → d.Legal z) := by
  refine ⟨_, rfl, fun h => ?_⟩
  try dsimp only
  repeat' (first | with_reducible assumption | intro _ | with_reducible apply Device.updJob_legal | with_reducible apply Device.fire_legal
                    | with_reducible apply Device.markFired_legal | with_reducible apply legal_foldl | with_reducible apply legal_ite | simp only [Device.legal_mk]
                    | simp only [Device.legal_any] | split)

theorem execEvalClose_legal {z : Kept} (i : Fin 256) (s : State) :
    ∃ d, execEvalClose i s = .next { s with dev := d } ∧ (s.dev.Legal z → d.Legal z) := by
  refine ⟨_, rfl, fun h => ?_⟩
  try dsimp only
  repeat' (first | with_reducible assumption | intro _ | with_reducible apply Device.updJob_legal | with_reducible apply Device.freeEntryAt_legal
                    | with_reducible apply Device.fire_legal | with_reducible apply Device.markFired_legal | with_reducible apply legal_foldl
                    | with_reducible apply legal_ite | simp only [Device.legal_mk] | simp only [Device.legal_any] | split)

theorem Device.freeFired_legal {z : Kept} (d : Device) (j : Nat) (action : Nat) (arg : Nat) (h_d : d.Legal z) :
    (Device.freeFired d j action arg).Legal z := by
  unfold Device.freeFired
  try dsimp only
  repeat' (first | with_reducible assumption | intro _ | with_reducible apply legal_foldl | with_reducible apply legal_ite | simp only [Device.legal_mk]
                    | simp only [Device.legal_any] | split)

theorem execEvalWindowOpen_legal {z : Kept} (j : Fin 16) (w : Nat) (s : State) :
    ∃ d, execEvalWindowOpen j w s = .next { s with dev := d } ∧ (s.dev.Legal z → d.Legal z) := by
  refine ⟨_, rfl, fun h => ?_⟩
  try dsimp only
  repeat' (first | with_reducible assumption | intro _ | with_reducible apply Device.updJob_legal | with_reducible apply Device.freeFired_legal
                    | with_reducible apply legal_foldl | with_reducible apply legal_ite | simp only [Device.legal_mk] | simp only [Device.legal_any] | split)

theorem execEvalWindowClose_legal {z : Kept} (j : Fin 16) (w : Nat) (s : State) :
    ∃ d, execEvalWindowClose j w s = .next { s with dev := d } ∧ (s.dev.Legal z → d.Legal z) := by
  refine ⟨_, rfl, fun h => ?_⟩
  try dsimp only
  repeat' (first | with_reducible assumption | intro _ | with_reducible apply Device.updJob_legal | with_reducible apply Device.freeFired_legal
                    | with_reducible apply legal_foldl | with_reducible apply legal_ite | simp only [Device.legal_mk] | simp only [Device.legal_any] | split)

theorem Tide.correct_ns (t : Tide) (o : Int) (h : t.ns < 1000000000) : (t.correct o).ns < 1000000000 := by
  unfold Tide.correct
  split
  · exact Tide.setNow_ns t _
  · exact h

theorem execPtpSync_legal {z : Kept} (offset : Int) (s : State) :
    ∃ d, execPtpSync offset s = .next { s with dev := d } ∧ (s.dev.Legal z → d.Legal z) := by
  refine ⟨_, rfl, fun h => ?_⟩
  have hd := Device.draw_snd_legal s.dev h
  have h0 : ({ s.dev.tide with ptpErr := offset } : Tide).ns < 1000000000 := h.clock
  dsimp only
  split
  · repeat' (first | (refine Device.legal_tide ?_ hd; first | exact h0 | exact Tide.correct_ns _ _ h0) | split | with_reducible apply Device.logEvent_legal)
  · exact h

theorem execTideHoldover_legal {z : Kept} (linkDown : Bool) (s : State) :
    ∃ d, execTideHoldover linkDown s = .next { s with dev := d } ∧ (s.dev.Legal z → d.Legal z) := by
  refine ⟨_, rfl, fun h => ?_⟩
  try dsimp only
  repeat' (first | with_reducible assumption | intro _ | with_reducible apply Device.toHoldover_legal | with_reducible apply Device.hostPortDown_legal
                    | with_reducible apply legal_foldl | with_reducible apply legal_ite | simp only [Device.legal_mk] | simp only [Device.legal_any] | split)

theorem Device.edgeOut_legal {z : Kept} (d : Device) (h_d : d.Legal z) :
    (Device.edgeOut d).Legal z := by
  unfold Device.edgeOut
  try dsimp only
  repeat' (first | with_reducible assumption | intro _ | with_reducible apply Device.send_legal | with_reducible apply legal_foldl
                    | with_reducible apply legal_ite | simp only [Device.legal_mk] | simp only [Device.legal_any] | split)

theorem execTideInEdge_legal {z : Kept} (s : State) :
    ∃ d, execTideInEdge s = .next { s with dev := d } ∧ (s.dev.Legal z → d.Legal z) := by
  refine ⟨_, rfl, fun h => ?_⟩
  have h1 := Device.edgeOut_legal s.dev h
  dsimp only
  repeat' (first | with_reducible exact h | (refine Device.legal_tide ?_ h1; exact h1.clock) | split | with_reducible apply Device.logEvent_legal)

theorem execTideEdgeLost_legal {z : Kept} (s : State) :
    ∃ d, execTideEdgeLost s = .next { s with dev := d } ∧ (s.dev.Legal z → d.Legal z) := by
  refine ⟨_, rfl, fun h => ?_⟩
  dsimp only
  repeat' (first | with_reducible exact h | (refine Device.legal_tide ?_ h; exact h.clock) | split | with_reducible apply Device.logEvent_legal)

theorem execTideSecondEdge_legal {z : Kept} (s : State) :
    ∃ d, execTideSecondEdge s = .next { s with dev := d } ∧ (s.dev.Legal z → d.Legal z) := by
  refine ⟨_, rfl, fun h => ?_⟩
  try dsimp only
  repeat' (first | with_reducible assumption | intro _ | with_reducible apply Device.edgeOut_legal | with_reducible apply legal_foldl
                    | with_reducible apply legal_ite | simp only [Device.legal_mk] | simp only [Device.legal_any] | split)

end Sys2Proof.Machine
end

