-- ==== Sys2Proof/Laws/LegalQuay.lean ====
section
/-! SUPPORT. Every operation of Machine/Quay.lean keeps a legal device legal (Safety.lean). -/
set_option linter.unusedTactic false
set_option linter.unreachableTactic false
set_option linter.unusedVariables false
set_option linter.unusedSimpArgs false
namespace Sys2Proof.Machine

theorem Device.post_legal {z : Kept} (d : Device) (m : Nat) (h_d : d.Legal z) :
    (Device.post d m).Legal z := by
  unfold Device.post
  try dsimp only
  repeat' (first | with_reducible assumption | intro _ | with_reducible apply Device.sweepUnknown_legal | with_reducible apply Device.finish_legal
                    | with_reducible apply legal_foldl | with_reducible apply legal_ite | simp only [Device.legal_mk] | simp only [Device.legal_any] | split)

theorem Device.mbxReject_legal {z : Kept} (d : Device) (h_d : d.Legal z) :
    (Device.mbxReject d).Legal z := by
  unfold Device.mbxReject
  try dsimp only
  repeat' (first | with_reducible assumption | intro _ | with_reducible apply legal_foldl | with_reducible apply legal_ite | simp only [Device.legal_mk]
                    | simp only [Device.legal_any] | split)

theorem Device.writeBeyond_legal {z : Kept} (d : Device) (m : Nat) (off : Nat) (bs : List Nat) (h_d : d.Legal z) :
    (Device.writeBeyond d m off bs).Legal z := by
  unfold Device.writeBeyond
  try dsimp only
  repeat' (first | with_reducible assumption | intro _ | with_reducible apply Device.mbxWrite_legal | with_reducible apply Device.mbxReject_legal
                    | with_reducible apply legal_foldl | with_reducible apply legal_ite | simp only [Device.legal_mk] | simp only [Device.legal_any] | split)

theorem Device.writeOwn_legal {z : Kept} (d : Device) (m : Nat) (off : Nat) (bs : List Nat) (h_d : d.Legal z) :
    (Device.writeOwn d m off bs).Legal z := by
  unfold Device.writeOwn
  try dsimp only
  repeat' (first | with_reducible assumption | intro _ | with_reducible apply Device.mbxWrite_legal | with_reducible apply Device.post_legal
                    | with_reducible apply Device.mbxReject_legal | with_reducible apply legal_foldl | with_reducible apply legal_ite | simp only [Device.legal_mk]
                    | simp only [Device.legal_any] | split)

theorem Device.applyOwn_legal {z : Kept} (d : Device) (os : List (Nat × Nat × List Nat)) (h_d : d.Legal z) :
    (Device.applyOwn d os).Legal z := by
  unfold Device.applyOwn
  try dsimp only
  repeat' (first | with_reducible assumption | intro _ | with_reducible apply Device.writeOwn_legal | with_reducible apply legal_foldl
                    | with_reducible apply legal_ite | simp only [Device.legal_mk] | simp only [Device.legal_any] | split)

theorem Device.writeMailbox_legal {z : Kept} (d : Device) (m : Nat) (off : Nat) (bs : List Nat) (h_d : d.Legal z) :
    (Device.writeMailbox d m off bs).Legal z := by
  unfold Device.writeMailbox
  try dsimp only
  repeat' (first | with_reducible assumption | intro _ | with_reducible apply Device.writeBeyond_legal | with_reducible apply Device.applyOwn_legal
                    | with_reducible apply legal_foldl | with_reducible apply legal_ite | simp only [Device.legal_mk] | simp only [Device.legal_any] | split)

theorem Device.packetMailbox_legal {z : Kept} (d : Device) (f : Flow) (last : Bool) (m : Nat) (off : Nat) (bs : List Nat) (h_d : d.Legal z) :
    (Device.packetMailbox d f last m off bs).Legal z := by
  unfold Device.packetMailbox
  try dsimp only
  repeat' (first | with_reducible assumption | intro _ | with_reducible apply Device.updFlow_legal | with_reducible apply Device.writeBeyond_legal
                    | with_reducible apply Device.applyOwn_legal | with_reducible apply legal_foldl | with_reducible apply legal_ite | simp only [Device.legal_mk]
                    | simp only [Device.legal_any] | split)

/-- The device that a packet in its turn leaves is legal. -/
def Applied.Legal (z : Kept) : Applied → Prop
  | .waits d => d.Legal z
  | .done d => d.Legal z
  | .discarded => True

theorem transportWrite_legal {z : Kept} (d : Device) (f : Flow) (last : Bool) (addr : Nat) (bs : List Nat) (h : d.Legal z) : (transportWrite d f last addr bs).Legal z := by
  unfold transportWrite
  split
  · exact Device.packetMailbox_legal _ _ _ _ _ _ h
  · split
    · exact h
    · exact Device.store_legal _ _ _ h
  · trivial

theorem Device.readAnswer_legal {z : Kept} (d : Device) (flow : Nat) (cls : Nat) (addr : Nat) (bs : List Nat) (h_d : d.Legal z) :
    (Device.readAnswer d flow cls addr bs).Legal z := by
  unfold Device.readAnswer
  try dsimp only
  repeat' (first | with_reducible assumption | intro _ | with_reducible apply Device.send_legal | with_reducible apply Device.transmit_legal
                    | with_reducible apply legal_foldl | with_reducible apply legal_ite | simp only [Device.legal_mk] | simp only [Device.legal_any] | split)

theorem transportRead_legal {z : Kept} (d : Device) (f : Flow) (addr n : Nat) (hit : Option Hit) (h : d.Legal z) :
    (transportRead d f addr n hit).Legal z := by
  unfold transportRead
  split
  · exact Device.readAnswer_legal _ _ _ _ _ h
  · have h1 : ∀ a, (d.withHit hit [(a, n)] (fun e x => e.holdFault x) id).Legal z := fun a =>
      Device.withHit_legal _ _ _ _ _ h (fun e x h => Device.holdFault_legal _ _ h) (fun e h => h)
    dsimp only
    split
    · exact h1 _
    · exact Device.readAnswer_legal _ _ _ _ _ (h1 _)
  · trivial

theorem execMailboxPost_legal {z : Kept} (flow : Nat) (addr : Nat) (data : List Nat) (s : State) :
    ∃ d, execMailboxPost flow addr data s = .next { s with dev := d } ∧ (s.dev.Legal z → d.Legal z) := by
  refine ⟨_, rfl, fun h => ?_⟩
  dsimp only
  split
  · rename_i f _
    have h1 := transportWrite_legal s.dev f true addr data h
    split
    · rename_i heq; rw [heq] at h1; exact h1
    · rename_i heq; rw [heq] at h1; exact h1
    · simp only [Device.legal_mk]; exact h
  · exact h

theorem Device.dropPacket_legal {z : Kept} (d : Device) (h_d : d.Legal z) :
    (Device.dropPacket d).Legal z := by
  unfold Device.dropPacket
  try dsimp only
  repeat' (first | with_reducible assumption | intro _ | with_reducible apply legal_foldl | with_reducible apply legal_ite | simp only [Device.legal_mk]
                    | simp only [Device.legal_any] | split)

theorem Device.pfcSend_legal {z : Kept} (d : Device) (k : Packet) (h_d : d.Legal z) :
    (Device.pfcSend d k).Legal z := by
  unfold Device.pfcSend
  try dsimp only
  repeat' (first | with_reducible assumption | intro _ | with_reducible apply Device.send_legal | with_reducible apply legal_foldl
                    | with_reducible apply legal_ite | simp only [Device.legal_mk] | simp only [Device.legal_any] | split)

theorem Device.arrive_legal {z : Kept} (d : Device) (typ : Nat) (op : Nat) (k : Packet) (g : Device → Device) (h_d : d.Legal z) (h_g : ∀ (x0 : Device), x0.Legal z → (g x0).Legal z) :
    (Device.arrive d typ op k g).Legal z := by
  unfold Device.arrive
  try dsimp only
  repeat' (first | with_reducible assumption | intro _ | with_reducible apply h_g | with_reducible apply Device.dropPacket_legal
                    | with_reducible apply Device.pfcSend_legal | with_reducible apply legal_foldl | with_reducible apply legal_ite | simp only [Device.legal_mk]
                    | simp only [Device.legal_any] | split)

theorem Device.sendAck_legal {z : Kept} (d : Device) (flow : Nat) (h_d : d.Legal z) :
    (Device.sendAck d flow).Legal z := by
  unfold Device.sendAck
  try dsimp only
  repeat' (first | with_reducible assumption | intro _ | with_reducible apply Device.send_legal | with_reducible apply Device.updFlow_legal
                    | with_reducible apply Device.control_legal | with_reducible apply legal_foldl | with_reducible apply legal_ite | simp only [Device.legal_mk]
                    | simp only [Device.legal_any] | split)

theorem Device.sendSack_legal {z : Kept} (d : Device) (flow : Nat) (h_d : d.Legal z) :
    (Device.sendSack d flow).Legal z := by
  unfold Device.sendSack
  try dsimp only
  repeat' (first | with_reducible assumption | intro _ | with_reducible apply Device.send_legal | with_reducible apply Device.control_legal
                    | with_reducible apply legal_foldl | with_reducible apply legal_ite | simp only [Device.legal_mk] | simp only [Device.legal_any] | split)

theorem applyData_legal {z : Kept} (d : Device) (f : Flow) (op : Nat) (k : Packet) (hit : Option Hit) (h : d.Legal z) :
    (applyData d f op k hit).Legal z := by
  unfold applyData
  split
  · exact transportWrite_legal _ _ _ _ _ h
  · exact transportRead_legal _ _ _ _ _ h
  · exact Device.updFlow_legal _ _ _ h

theorem Device.applyInOrder_legal {z : Kept} (op n : Nat) (k : Packet) (hit : Option Hit) (d : Device) (h : d.Legal z) :
    (d.applyInOrder op k hit n).Legal z := by
  induction n generalizing d k op hit with
  | zero => exact h
  | succ n ih =>
    unfold Device.applyInOrder
    dsimp only
    split
    · exact h
    · rename_i f _
      have h1 := applyData_legal d f op k hit h
      split
      · exact Device.dropPacket_legal _ h
      · rename_i heq; rw [heq] at h1; exact h1
      · rename_i heq
        rw [heq] at h1
        split
        · exact Device.rekeyFlow_legal _ _ h1
        · split
          · exact ih _ _ _ _ (Device.updFlow_legal _ _ _ h1)
          · exact Device.updFlow_legal _ _ _ h1

theorem Device.note_legal {z : Kept} (d : Device) (k : Packet) (h_d : d.Legal z) :
    (Device.note d k).Legal z := by
  unfold Device.note
  try dsimp only
  repeat' (first | with_reducible assumption | intro _ | with_reducible apply Device.updFlow_legal | with_reducible apply Device.pushFlow_legal
                    | with_reducible apply legal_foldl | with_reducible apply legal_ite | simp only [Device.legal_mk] | simp only [Device.legal_any] | split)

theorem Device.rxData_legal {z : Kept} (d : Device) (op : Nat) (k : Packet) (hit : Option Hit) (h_d : d.Legal z) :
    (Device.rxData d op k hit).Legal z := by
  unfold Device.rxData
  try dsimp only
  repeat' (first | with_reducible assumption | intro _ | with_reducible apply Device.updFlow_legal | with_reducible apply Device.dropPacket_legal
                    | with_reducible apply Device.arrive_legal | with_reducible apply Device.sendAck_legal | with_reducible apply Device.sendSack_legal
                    | with_reducible apply Device.applyInOrder_legal | with_reducible apply Device.note_legal | with_reducible apply legal_foldl
                    | with_reducible apply legal_ite | simp only [Device.legal_mk] | simp only [Device.legal_any] | split)

theorem execQtWrite_legal {z : Kept} (k : Packet) (s : State) :
    ∃ d, execQtWrite k s = .next { s with dev := d } ∧ (s.dev.Legal z → d.Legal z) := by
  refine ⟨_, rfl, fun h => ?_⟩
  try dsimp only
  repeat' (first | with_reducible assumption | intro _ | with_reducible apply Device.rxData_legal | with_reducible apply legal_foldl
                    | with_reducible apply legal_ite | simp only [Device.legal_mk] | simp only [Device.legal_any] | split)

theorem execQtReadReq_legal {z : Kept} (k : Packet) (hit : Option Hit) (s : State) :
    ∃ d, execQtReadReq k hit s = .next { s with dev := d } ∧ (s.dev.Legal z → d.Legal z) := by
  refine ⟨_, rfl, fun h => ?_⟩
  try dsimp only
  repeat' (first | with_reducible assumption | intro _ | with_reducible apply Device.rxData_legal | with_reducible apply legal_foldl
                    | with_reducible apply legal_ite | simp only [Device.legal_mk] | simp only [Device.legal_any] | split)

theorem execQtReadResp_legal {z : Kept} (k : Packet) (s : State) :
    ∃ d, execQtReadResp k s = .next { s with dev := d } ∧ (s.dev.Legal z → d.Legal z) := by
  refine ⟨_, rfl, fun h => ?_⟩
  try dsimp only
  repeat' (first | with_reducible assumption | intro _ | with_reducible apply Device.rxData_legal | with_reducible apply legal_foldl
                    | with_reducible apply legal_ite | simp only [Device.legal_mk] | simp only [Device.legal_any] | split)

theorem Device.rxControl_legal {z : Kept} (d : Device) (typ : Nat) (k : Packet) (g : Device → Device) (h_d : d.Legal z) (h_g : ∀ (x0 : Device), x0.Legal z → (g x0).Legal z) :
    (Device.rxControl d typ k g).Legal z := by
  unfold Device.rxControl
  try dsimp only
  repeat' (first | with_reducible assumption | intro _ | with_reducible apply h_g | with_reducible apply Device.dropPacket_legal
                    | with_reducible apply Device.arrive_legal | with_reducible apply Device.note_legal | with_reducible apply legal_foldl
                    | with_reducible apply legal_ite | simp only [Device.legal_mk] | simp only [Device.legal_any] | split)

theorem execAck_legal {z : Kept} (k : Packet) (s : State) :
    ∃ d, execAck k s = .next { s with dev := d } ∧ (s.dev.Legal z → d.Legal z) := by
  refine ⟨_, rfl, fun h => ?_⟩
  try dsimp only
  repeat' (first | with_reducible assumption | intro _ | with_reducible apply Device.updFlow_legal | with_reducible apply Device.pushFlow_legal
                    | with_reducible apply Device.rxControl_legal | with_reducible apply legal_foldl | with_reducible apply legal_ite | simp only [Device.legal_mk]
                    | simp only [Device.legal_any] | split)

theorem Device.resend_legal {z : Kept} (d : Device) (flow : Nat) (us : List TxPacket) (h_d : d.Legal z) :
    (Device.resend d flow us).Legal z := by
  unfold Device.resend
  try dsimp only
  repeat' (first | with_reducible assumption | intro _ | with_reducible apply Device.updFlow_legal | with_reducible apply Device.pushFlow_legal
                    | with_reducible apply legal_foldl | with_reducible apply legal_ite | simp only [Device.legal_mk] | simp only [Device.legal_any] | split)

theorem execSack_legal {z : Kept} (k : Packet) (ranges : List (Nat × Nat)) (s : State) :
    ∃ d, execSack k ranges s = .next { s with dev := d } ∧ (s.dev.Legal z → d.Legal z) := by
  refine ⟨_, rfl, fun h => ?_⟩
  try dsimp only
  repeat' (first | with_reducible assumption | intro _ | with_reducible apply Device.updFlow_legal | with_reducible apply Device.rxControl_legal
                    | with_reducible apply Device.resend_legal | with_reducible apply legal_foldl | with_reducible apply legal_ite | simp only [Device.legal_mk]
                    | simp only [Device.legal_any] | split)

theorem Device.failFlow_legal {z : Kept} (d : Device) (f : Flow) (h_d : d.Legal z) :
    (Device.failFlow d f).Legal z := by
  unfold Device.failFlow
  try dsimp only
  repeat' (first | with_reducible assumption | intro _ | with_reducible apply Device.send_legal | with_reducible apply Device.dropFlow_legal
                    | with_reducible apply Device.logEvent_legal | with_reducible apply legal_foldl | with_reducible apply legal_ite | simp only [Device.legal_mk]
                    | simp only [Device.legal_any] | split)

theorem execQtRetxTimer_legal {z : Kept} (flow : Nat) (s : State) :
    ∃ d, execQtRetxTimer flow s = .next { s with dev := d } ∧ (s.dev.Legal z → d.Legal z) := by
  refine ⟨_, rfl, fun h => ?_⟩
  try dsimp only
  repeat' (first | with_reducible assumption | intro _ | with_reducible apply Device.updFlow_legal | with_reducible apply Device.resend_legal
                    | with_reducible apply Device.failFlow_legal | with_reducible apply legal_foldl | with_reducible apply legal_ite | simp only [Device.legal_mk]
                    | simp only [Device.legal_any] | split)

theorem Device.answerFlow_legal {z : Kept} (d : Device) (flow : Nat) (typ : Nat) (st : Nat) (h_d : d.Legal z) :
    (Device.answerFlow d flow typ st).Legal z := by
  unfold Device.answerFlow
  try dsimp only
  repeat' (first | with_reducible assumption | intro _ | with_reducible apply Device.send_legal | with_reducible apply Device.control_legal
                    | with_reducible apply legal_foldl | with_reducible apply legal_ite | simp only [Device.legal_mk] | simp only [Device.legal_any] | split)

theorem execOpenFlow_legal {z : Kept} (k : Packet) (s : State) :
    ∃ d, execOpenFlow k s = .next { s with dev := d } ∧ (s.dev.Legal z → d.Legal z) := by
  refine ⟨_, rfl, fun h => ?_⟩
  try dsimp only
  repeat' (first | with_reducible assumption | intro _ | with_reducible apply Device.arrive_legal | with_reducible apply Device.answerFlow_legal
                    | with_reducible apply legal_foldl | with_reducible apply legal_ite | simp only [Device.legal_mk] | simp only [Device.legal_any] | split)

theorem execCloseFlow_legal {z : Kept} (k : Packet) (s : State) :
    ∃ d, execCloseFlow k s = .next { s with dev := d } ∧ (s.dev.Legal z → d.Legal z) := by
  refine ⟨_, rfl, fun h => ?_⟩
  try dsimp only
  repeat' (first | with_reducible assumption | intro _ | with_reducible apply Device.dropFlow_legal | with_reducible apply Device.rxControl_legal
                    | with_reducible apply Device.answerFlow_legal | with_reducible apply legal_foldl | with_reducible apply legal_ite | simp only [Device.legal_mk]
                    | simp only [Device.legal_any] | split)

theorem execProbe_legal {z : Kept} (k : Packet) (s : State) :
    ∃ d, execProbe k s = .next { s with dev := d } ∧ (s.dev.Legal z → d.Legal z) := by
  refine ⟨_, rfl, fun h => ?_⟩
  try dsimp only
  repeat' (first | with_reducible assumption | intro _ | with_reducible apply Device.sendAck_legal | with_reducible apply Device.rxControl_legal
                    | with_reducible apply legal_foldl | with_reducible apply legal_ite | simp only [Device.legal_mk] | simp only [Device.legal_any] | split)

theorem execPfcPauseFrame_legal {z : Kept} (paused : BitVec 8) (s : State) :
    ∃ d, execPfcPauseFrame paused s = .next { s with dev := d } ∧ (s.dev.Legal z → d.Legal z) := by
  refine ⟨_, rfl, fun h => ?_⟩
  try dsimp only
  repeat' (first | with_reducible assumption | intro _ | with_reducible apply Device.pushAll_legal | with_reducible apply legal_foldl
                    | with_reducible apply legal_ite | simp only [Device.legal_mk] | simp only [Device.legal_any] | split)

theorem execHostPortLinkUp_legal {z : Kept} (cr : Bool) (s : State) :
    ∃ d, execHostPortLinkUp cr s = .next { s with dev := d } ∧ (s.dev.Legal z → d.Legal z) := by
  refine ⟨_, rfl, fun h => ?_⟩
  try dsimp only
  repeat' (first | with_reducible assumption | intro _ | with_reducible apply Device.pushAll_legal | with_reducible apply legal_foldl
                    | with_reducible apply legal_ite | simp only [Device.legal_mk] | simp only [Device.legal_any] | split)

end Sys2Proof.Machine
end

