-- ==== Sys2Proof/Laws/LegalMailbox.lean ====
section
/-! SUPPORT. Every operation of Machine/Mailbox.lean keeps a legal device legal (Safety.lean). -/
set_option linter.unusedTactic false
set_option linter.unreachableTactic false
set_option linter.unusedVariables false
set_option linter.unusedSimpArgs false
namespace Sys2Proof.Machine

theorem Device.commandIf_legal {z : Kept} (d : Device) (m : Nat) (code : Nat) (sel : List Nat → Bool) (f : Device → List Nat → Device) (h_d : d.Legal z) (h_f : ∀ (x0 : Device) (x1 : List Nat), x0.Legal z → (f x0 x1).Legal z) :
    (Device.commandIf d m code sel f).Legal z := by
  unfold Device.commandIf
  try dsimp only
  repeat' (first | with_reducible assumption | intro _ | with_reducible apply h_f | with_reducible apply Device.finish_legal
                    | with_reducible apply legal_foldl | with_reducible apply legal_ite | simp only [Device.legal_mk] | simp only [Device.legal_any] | split)

theorem Device.command_legal {z : Kept} (d : Device) (m : Nat) (code : Nat) (f : Device → List Nat → Device) (h_d : d.Legal z) (h_f : ∀ (x0 : Device) (x1 : List Nat), x0.Legal z → (f x0 x1).Legal z) :
    (Device.command d m code f).Legal z := by
  unfold Device.command
  try dsimp only
  repeat' (first | with_reducible assumption | intro _ | with_reducible apply h_f | with_reducible apply Device.commandIf_legal
                    | with_reducible apply legal_foldl | with_reducible apply legal_ite | simp only [Device.legal_mk] | simp only [Device.legal_any] | split)

theorem Device.reply_legal {z : Kept} (d : Device) (m : Nat) (st : Nat) (ok : Device → Device) (h_d : d.Legal z) (h_ok : ∀ (x0 : Device), x0.Legal z → (ok x0).Legal z) :
    (Device.reply d m st ok).Legal z := by
  unfold Device.reply
  try dsimp only
  repeat' (first | with_reducible assumption | intro _ | with_reducible apply h_ok | with_reducible apply Device.finish_legal
                    | with_reducible apply legal_foldl | with_reducible apply legal_ite | simp only [Device.legal_mk] | simp only [Device.legal_any] | split)

theorem Device.setMgmt_legal {z : Kept} (d : Device) (f : Nat) (a : Nat) (h_d : d.Legal z) :
    (Device.setMgmt d f a).Legal z := by
  unfold Device.setMgmt
  try dsimp only
  repeat' (first | with_reducible assumption | intro _ | with_reducible apply Device.notice_legal | with_reducible apply Device.logEvent_legal
                    | with_reducible apply legal_foldl | with_reducible apply legal_ite | simp only [Device.legal_mk] | simp only [Device.legal_any] | split)

theorem execDevInfo_legal {z : Kept} (m : Fin 256) (s : State) :
    ∃ d, execDevInfo m s = .next { s with dev := d } ∧ (s.dev.Legal z → d.Legal z) := by
  refine ⟨_, rfl, fun h => ?_⟩
  try dsimp only
  repeat' (first | with_reducible assumption | intro _ | with_reducible apply Device.finish_legal | with_reducible apply Device.command_legal
                    | with_reducible apply Device.setMgmt_legal | with_reducible apply legal_foldl | with_reducible apply legal_ite | simp only [Device.legal_mk]
                    | simp only [Device.legal_any] | split)

theorem execFlowBind_legal {z : Kept} (m : Fin 256) (s : State) :
    ∃ d, execFlowBind m s = .next { s with dev := d } ∧ (s.dev.Legal z → d.Legal z) := by
  refine ⟨_, rfl, fun h => ?_⟩
  try dsimp only
  repeat' (first | with_reducible assumption | intro _ | with_reducible apply Device.updFlow_legal | with_reducible apply Device.finish_legal
                    | with_reducible apply Device.command_legal | with_reducible apply Device.reply_legal | with_reducible apply legal_foldl
                    | with_reducible apply legal_ite | simp only [Device.legal_mk] | simp only [Device.legal_any] | split)

theorem execPartSet_legal {z : Kept} (m : Fin 256) (s : State) :
    ∃ d, execPartSet m s = .next { s with dev := d } ∧ (s.dev.Legal z → d.Legal z) := by
  refine ⟨_, rfl, fun h => ?_⟩
  try dsimp only
  repeat' (first | with_reducible assumption | intro _ | with_reducible apply Device.updTer_legal | with_reducible apply Device.undefine_legal
                    | with_reducible apply Device.finish_legal | with_reducible apply Device.deriveSeal_legal | with_reducible apply Device.command_legal
                    | with_reducible apply Device.reply_legal | with_reducible apply legal_foldl | with_reducible apply legal_ite | simp only [Device.legal_mk]
                    | simp only [Device.legal_any] | split)

theorem execJobCreate_legal {z : Kept} (m : Fin 256) (s : State) :
    ∃ d, execJobCreate m s = .next { s with dev := d } ∧ (s.dev.Legal z → d.Legal z) := by
  refine ⟨_, rfl, fun h => ?_⟩
  try dsimp only
  repeat' (first | with_reducible assumption | intro _ | with_reducible apply Device.updJob_legal | with_reducible apply Device.updTer_legal
                    | with_reducible apply Device.finish_legal | with_reducible apply Device.command_legal | with_reducible apply Device.reply_legal
                    | with_reducible apply legal_foldl | with_reducible apply legal_ite | simp only [Device.legal_mk] | simp only [Device.legal_any] | split)

theorem Device.stopNow_legal {z : Kept} (d : Device) (j : Nat) (h_d : d.Legal z) :
    (Device.stopNow d j).Legal z := by
  unfold Device.stopNow
  try dsimp only
  repeat' (first | with_reducible assumption | intro _ | with_reducible apply Device.signCheckpoint_legal | with_reducible apply Device.stopJob_legal
                    | with_reducible apply legal_foldl | with_reducible apply legal_ite | simp only [Device.legal_mk] | simp only [Device.legal_any] | split)

theorem Device.freePartners_legal {z : Kept} (d : Device) (r : Resv) (h_d : d.Legal z) :
    (Device.freePartners d r).Legal z := by
  unfold Device.freePartners
  try dsimp only
  repeat' (first | with_reducible assumption | intro _ | with_reducible apply Device.updTer_legal | with_reducible apply Device.undefine_legal
                    | with_reducible apply legal_foldl | with_reducible apply legal_ite | simp only [Device.legal_mk] | simp only [Device.legal_any] | split)

theorem Device.refreshRoutes_legal {z : Kept} (d : Device) (h_d : d.Legal z) :
    (Device.refreshRoutes d).Legal z := by
  unfold Device.refreshRoutes
  try dsimp only
  repeat' (first | with_reducible assumption | intro _ | with_reducible apply legal_foldl | with_reducible apply legal_ite | simp only [Device.legal_mk]
                    | simp only [Device.legal_any] | split)

theorem Device.destroySlot_legal {z : Kept} (d : Device) (j : Nat) (h_d : d.Legal z) :
    (Device.destroySlot d j).Legal z := by
  unfold Device.destroySlot
  try dsimp only
  repeat' (first | with_reducible assumption | intro _ | with_reducible apply Device.updJob_legal | with_reducible apply Device.freeEntries_legal
                    | with_reducible apply Device.stopNow_legal | with_reducible apply Device.freePartners_legal | with_reducible apply Device.refreshRoutes_legal
                    | with_reducible apply legal_foldl | with_reducible apply legal_ite | simp only [Device.legal_mk] | simp only [Device.legal_any] | split)

theorem execJobDestroy_legal {z : Kept} (m : Fin 256) (s : State) :
    ∃ d, execJobDestroy m s = .next { s with dev := d } ∧ (s.dev.Legal z → d.Legal z) := by
  refine ⟨_, rfl, fun h => ?_⟩
  try dsimp only
  repeat' (first | with_reducible assumption | intro _ | with_reducible apply Device.finish_legal | with_reducible apply Device.command_legal
                    | with_reducible apply Device.reply_legal | with_reducible apply Device.destroySlot_legal | with_reducible apply legal_foldl
                    | with_reducible apply legal_ite | simp only [Device.legal_mk] | simp only [Device.legal_any] | split)

theorem execConfigStage_legal {z : Kept} (m : Fin 256) (s : State) :
    ∃ d, execConfigStage m s = .next { s with dev := d } ∧ (s.dev.Legal z → d.Legal z) := by
  refine ⟨_, rfl, fun h => ?_⟩
  try dsimp only
  repeat' (first | with_reducible assumption | intro _ | with_reducible apply Device.finish_legal | with_reducible apply Device.command_legal
                    | with_reducible apply Device.reply_legal | with_reducible apply legal_foldl | with_reducible apply legal_ite | simp only [Device.legal_mk]
                    | simp only [Device.legal_any] | split)

theorem execTideAdd_legal {z : Kept} (m : Fin 256) (s : State) :
    ∃ d, execTideAdd m s = .next { s with dev := d } ∧ (s.dev.Legal z → d.Legal z) := by
  refine ⟨_, rfl, fun h => ?_⟩
  try dsimp only
  repeat' (first | with_reducible assumption | intro _ | with_reducible apply Device.finish_legal | with_reducible apply Device.putEntry_legal
                    | with_reducible apply Device.command_legal | with_reducible apply Device.reply_legal | with_reducible apply legal_foldl
                    | with_reducible apply legal_ite | simp only [Device.legal_mk] | simp only [Device.legal_any] | split)

theorem Device.freeClose_legal {z : Kept} (d : Device) (j : Nat) (w : Nat) (h_d : d.Legal z) :
    (Device.freeClose d j w).Legal z := by
  unfold Device.freeClose
  try dsimp only
  repeat' (first | with_reducible assumption | intro _ | with_reducible apply Device.updJob_legal | with_reducible apply legal_foldl
                    | with_reducible apply legal_ite | simp only [Device.legal_mk] | simp only [Device.legal_any] | split)

theorem execTideCancel_legal {z : Kept} (m : Fin 256) (s : State) :
    ∃ d, execTideCancel m s = .next { s with dev := d } ∧ (s.dev.Legal z → d.Legal z) := by
  refine ⟨_, rfl, fun h => ?_⟩
  try dsimp only
  repeat' (first | with_reducible assumption | intro _ | with_reducible apply Device.finish_legal | with_reducible apply Device.freeEntryAt_legal
                    | with_reducible apply Device.freeSet_legal | with_reducible apply Device.command_legal | with_reducible apply Device.reply_legal
                    | with_reducible apply Device.freeClose_legal | with_reducible apply legal_foldl | with_reducible apply legal_ite | simp only [Device.legal_mk]
                    | simp only [Device.legal_any] | split)

theorem execPowerReq_legal {z : Kept} (m : Fin 256) (s : State) :
    ∃ d, execPowerReq m s = .next { s with dev := d } ∧ (s.dev.Legal z → d.Legal z) := by
  refine ⟨_, rfl, fun h => ?_⟩
  try dsimp only
  repeat' (first | with_reducible assumption | intro _ | with_reducible apply Device.finish_legal | with_reducible apply Device.powerRequest_legal
                    | with_reducible apply Device.command_legal | with_reducible apply legal_foldl | with_reducible apply legal_ite | simp only [Device.legal_mk]
                    | simp only [Device.legal_any] | split)

theorem Device.warmAsked_legal {z : Kept} (d : Device) (h_d : d.Legal z) :
    (Device.warmAsked d).Legal z := by
  unfold Device.warmAsked
  try dsimp only
  repeat' (first | with_reducible assumption | intro _ | with_reducible apply Device.finish_legal | with_reducible apply Device.warmReset_legal
                    | with_reducible apply legal_foldl | with_reducible apply legal_ite | simp only [Device.legal_mk] | simp only [Device.legal_any] | split)

theorem execWarmReset_legal {z : Kept} (m : Fin 256) (s : State) :
    ∃ d, execWarmReset m s = .next { s with dev := d } ∧ (s.dev.Legal z → d.Legal z) := by
  refine ⟨_, rfl, fun h => ?_⟩
  try dsimp only
  repeat' (first | with_reducible assumption | intro _ | with_reducible apply Device.finish_legal | with_reducible apply Device.command_legal
                    | with_reducible apply Device.warmAsked_legal | with_reducible apply legal_foldl | with_reducible apply legal_ite | simp only [Device.legal_mk]
                    | simp only [Device.legal_any] | split)

theorem listRecord_legal {z : Kept} {d e : Device} {j : Nat} {l : List Nat} (hq : listRecord d j = (l, e)) (h : d.Legal z) : e.Legal z := by
  unfold listRecord at hq
  cases hq
  exact Device.draw_legal rfl (Device.draw_legal rfl h)

theorem listRecords_snd_legal {z : Kept} (js : List Nat) : ∀ (d : Device), d.Legal z → (listRecords js d).2.Legal z := by
  induction js with
  | nil => intro d h; exact h
  | cons j js ih =>
    intro d h
    show (listRecords js (listRecord d j).2).2.Legal z
    exact ih _ (listRecord_legal (j := j) (l := (listRecord d j).1) rfl h)

theorem listRecords_legal {z : Kept} {js : List Nat} {d e : Device} {l : List Nat} (hq : listRecords js d = (l, e)) (h : d.Legal z) : e.Legal z := by
  have := listRecords_snd_legal js d h
  rw [hq] at this
  exact this

theorem execJobList_legal {z : Kept} (m : Fin 256) (s : State) :
    ∃ d, execJobList m s = .next { s with dev := d } ∧ (s.dev.Legal z → d.Legal z) := by
  refine ⟨_, rfl, fun h => ?_⟩
  try dsimp only
  repeat' (first | with_reducible assumption | intro _ | with_reducible apply Device.finish_legal | with_reducible apply Device.command_legal
                    | (with_reducible refine listRecords_legal (by assumption) ?_) | with_reducible apply listRecords_snd_legal | with_reducible apply legal_foldl
                    | with_reducible apply legal_ite | simp only [Device.legal_mk] | simp only [Device.legal_any] | split)

end Sys2Proof.Machine
end

