-- ==== Sys2Proof/Laws/LegalTray.lean ====
section
/-! SUPPORT. Every operation of Machine/Tray.lean keeps a legal device legal (Safety.lean). -/
set_option linter.unusedTactic false
set_option linter.unreachableTactic false
set_option linter.unusedVariables false
set_option linter.unusedSimpArgs false
namespace Sys2Proof.Machine

theorem Device.i3cReply_legal {z : Kept} (d : Device) (st : Nat) (body : List Nat) (h_d : d.Legal z) :
    (Device.i3cReply d st body).Legal z := by
  unfold Device.i3cReply
  try dsimp only
  repeat' (first | with_reducible assumption | intro _ | with_reducible apply Device.reply_legal | with_reducible apply legal_foldl
                    | with_reducible apply legal_ite | simp only [Device.legal_mk] | simp only [Device.legal_any] | split | simp only [id]
                    | (refine Device.legal_sec (Or.inl rfl) (Nat.le_of_eq h0) rfl ?_))

theorem Device.i3cFrame_legal {z : Kept} (d : Device) (f : Frame) (need : Nat) (served : Bool) (run : Device → List Nat → I3CAnswer) (h_d : d.Legal z) (h_run : ∀ (x0 : Device) (x1 : List Nat) (e : Device), x0.Legal z → e.Legal z → ((run x0 x1).effect e).Legal z) :
    (Device.i3cFrame d f need served run).Legal z := by
  unfold Device.i3cFrame
  try dsimp only
  repeat' (first | with_reducible assumption | intro _ | with_reducible apply h_run | with_reducible apply Device.i3cReply_legal
                    | with_reducible apply legal_foldl | with_reducible apply legal_ite | simp only [Device.legal_mk] | simp only [Device.legal_any] | split
                    | simp only [id] | (refine Device.legal_sec (Or.inl rfl) (Nat.le_of_eq h0) rfl ?_))

theorem i3cRefuse_legal {z : Kept} (st : Nat) (e : Device) (h : e.Legal z) : ((i3cRefuse st).effect e).Legal z := h

theorem execDynamicAddressAssignment_legal {z : Kept} (ccc : Ccc) (s : State) :
    ∃ d, execDynamicAddressAssignment ccc s = .next { s with dev := d } ∧ (s.dev.Legal z → d.Legal z) := by
  refine ⟨_, rfl, fun h => ?_⟩
  try dsimp only
  repeat' (first | with_reducible assumption | intro _ | with_reducible apply Device.send_legal | with_reducible apply legal_foldl
                    | with_reducible apply legal_ite | simp only [Device.legal_mk] | simp only [Device.legal_any] | split | simp only [id]
                    | (refine Device.legal_sec (Or.inl rfl) (Nat.le_of_eq h0) rfl ?_))

theorem execPawezelRestart_legal {z : Kept} (s : State) :
    ∃ d, execPawezelRestart s = .next { s with dev := d } ∧ (s.dev.Legal z → d.Legal z) := by
  refine ⟨_, rfl, fun h => ?_⟩
  try dsimp only
  repeat' (first | with_reducible assumption | intro _ | with_reducible apply Device.logEvent_legal | with_reducible apply Device.dropUpdate_legal
                    | with_reducible apply Device.reply_legal | with_reducible apply legal_foldl | with_reducible apply legal_ite | simp only [Device.legal_mk]
                    | simp only [Device.legal_any] | split | simp only [id] | (refine Device.legal_sec (Or.inl rfl) (Nat.le_of_eq h0) rfl ?_))

theorem execBitternPageWrite_legal {z : Kept} (s : State) :
    ∃ d, execBitternPageWrite s = .next { s with dev := d } ∧ (s.dev.Legal z → d.Legal z) := by
  refine ⟨_, rfl, fun h => ?_⟩
  try dsimp only
  repeat' (first | with_reducible assumption | intro _ | with_reducible apply legal_foldl | with_reducible apply legal_ite | simp only [Device.legal_mk]
                    | simp only [Device.legal_any] | split | simp only [id] | (refine Device.legal_sec (Or.inl rfl) (Nat.le_of_eq h0) rfl ?_))

theorem execPawezelWarmReset_legal {z : Kept} (s : State) :
    ∃ d, execPawezelWarmReset s = .next { s with dev := d } ∧ (s.dev.Legal z → d.Legal z) := by
  refine ⟨_, rfl, fun h => ?_⟩
  try dsimp only
  repeat' (first | with_reducible assumption | intro _ | with_reducible apply Device.warmReset_legal | with_reducible apply legal_foldl
                    | with_reducible apply legal_ite | simp only [Device.legal_mk] | simp only [Device.legal_any] | split | simp only [id]
                    | (refine Device.legal_sec (Or.inl rfl) (Nat.le_of_eq h0) rfl ?_))

theorem execI3cStatus_legal {z : Kept} (f : Frame) (s : State) :
    ∃ d, execI3cStatus f s = .next { s with dev := d } ∧ (s.dev.Legal z → d.Legal z) := by
  refine ⟨_, rfl, fun h => ?_⟩
  try dsimp only
  repeat' (first | with_reducible assumption | intro _ | with_reducible apply Device.i3cFrame_legal | with_reducible apply legal_foldl
                    | with_reducible apply legal_ite | simp only [Device.legal_mk] | simp only [Device.legal_any] | split | simp only [id]
                    | (refine Device.legal_sec (Or.inl rfl) (Nat.le_of_eq h0) rfl ?_))

theorem execI3cSensors_legal {z : Kept} (f : Frame) (s : State) :
    ∃ d, execI3cSensors f s = .next { s with dev := d } ∧ (s.dev.Legal z → d.Legal z) := by
  refine ⟨_, rfl, fun h => ?_⟩
  try dsimp only
  repeat' (first | with_reducible assumption | intro _ | with_reducible apply Device.i3cFrame_legal | with_reducible apply legal_foldl
                    | with_reducible apply legal_ite | simp only [Device.legal_mk] | simp only [Device.legal_any] | split | simp only [id]
                    | (refine Device.legal_sec (Or.inl rfl) (Nat.le_of_eq h0) rfl ?_))

theorem execI3cLog_legal {z : Kept} (f : Frame) (s : State) :
    ∃ d, execI3cLog f s = .next { s with dev := d } ∧ (s.dev.Legal z → d.Legal z) := by
  refine ⟨_, rfl, fun h => ?_⟩
  try dsimp only
  repeat' (first | with_reducible assumption | intro _ | with_reducible apply Device.i3cFrame_legal | with_reducible apply legal_foldl
                    | with_reducible apply legal_ite | simp only [Device.legal_mk] | simp only [Device.legal_any] | split | simp only [id]
                    | (refine Device.legal_sec (Or.inl rfl) (Nat.le_of_eq h0) rfl ?_))

theorem execI3cPower_legal {z : Kept} (f : Frame) (s : State) :
    ∃ d, execI3cPower f s = .next { s with dev := d } ∧ (s.dev.Legal z → d.Legal z) := by
  refine ⟨_, rfl, fun h => ?_⟩
  try dsimp only
  repeat' (first | with_reducible assumption | intro _ | with_reducible apply Device.powerRequest_legal | with_reducible apply Device.i3cFrame_legal
                    | with_reducible apply i3cRefuse_legal | with_reducible apply legal_foldl | with_reducible apply legal_ite | simp only [Device.legal_mk]
                    | simp only [Device.legal_any] | split | simp only [id] | (refine Device.legal_sec (Or.inl rfl) (Nat.le_of_eq h0) rfl ?_))

theorem execI3cReset_legal {z : Kept} (f : Frame) (s : State) :
    ∃ d, execI3cReset f s = .next { s with dev := d } ∧ (s.dev.Legal z → d.Legal z) := by
  refine ⟨_, rfl, fun h => ?_⟩
  try dsimp only
  repeat' (first | with_reducible assumption | intro _ | with_reducible apply Device.warmAsked_legal | with_reducible apply Device.i3cFrame_legal
                    | with_reducible apply i3cRefuse_legal | with_reducible apply legal_foldl | with_reducible apply legal_ite | simp only [Device.legal_mk]
                    | simp only [Device.legal_any] | split | simp only [id] | (refine Device.legal_sec (Or.inl rfl) (Nat.le_of_eq h0) rfl ?_))

theorem execUpdBegin_legal {z : Kept} (f : Frame) (s : State) :
    ∃ d, execUpdBegin f s = .next { s with dev := d } ∧ (s.dev.Legal z → d.Legal z) := by
  refine ⟨_, rfl, fun h => ?_⟩
  try dsimp only
  repeat' (first | with_reducible assumption | intro _ | with_reducible apply Device.i3cFrame_legal | with_reducible apply i3cRefuse_legal
                    | with_reducible apply legal_foldl | with_reducible apply legal_ite | simp only [Device.legal_mk] | simp only [Device.legal_any] | split
                    | simp only [id] | (refine Device.legal_sec (Or.inl rfl) (Nat.le_of_eq h0) rfl ?_))

theorem execUpdData_legal {z : Kept} (f : Frame) (s : State) :
    ∃ d, execUpdData f s = .next { s with dev := d } ∧ (s.dev.Legal z → d.Legal z) := by
  refine ⟨_, rfl, fun h => ?_⟩
  try dsimp only
  repeat' (first | with_reducible assumption | intro _ | with_reducible apply Device.i3cFrame_legal | with_reducible apply i3cRefuse_legal
                    | with_reducible apply legal_foldl | with_reducible apply legal_ite | simp only [Device.legal_mk] | simp only [Device.legal_any] | split
                    | simp only [id] | (refine Device.legal_sec (Or.inl rfl) (Nat.le_of_eq h0) rfl ?_))

theorem Device.leaveRecovery_legal {z : Kept} (d : Device) (typ : Nat) (h_d : d.Legal z) :
    (Device.leaveRecovery d typ).Legal z := by
  unfold Device.leaveRecovery
  try dsimp only
  repeat' (first | with_reducible assumption | intro _ | with_reducible apply Device.selectImage_legal | with_reducible apply Device.bootStep5_legal
                    | with_reducible apply Device.resumeBoot_legal | with_reducible apply legal_foldl | with_reducible apply legal_ite | simp only [Device.legal_mk]
                    | simp only [Device.legal_any] | split | simp only [id] | (refine Device.legal_sec (Or.inl rfl) (Nat.le_of_eq h0) rfl ?_))

theorem Device.takeImage_legal {z : Kept} (d : Device) (typ : Nat) (i : Image) (h_d : d.Legal z) :
    (Device.takeImage d typ i).Legal z := by
  unfold Device.takeImage
  try dsimp only
  repeat' (first | with_reducible assumption | intro _ | with_reducible apply Device.leaveRecovery_legal | with_reducible apply legal_foldl
                    | with_reducible apply legal_ite | simp only [Device.legal_mk] | simp only [Device.legal_any] | split | simp only [id]
                    | (refine Device.legal_sec (Or.inl rfl) (Nat.le_of_eq h0) rfl ?_))

theorem Device.endUpdate_legal {z : Kept} (d : Device) (h_d : d.Legal z) :
    (Device.endUpdate d).Legal z := by
  unfold Device.endUpdate
  try dsimp only
  repeat' (first | with_reducible assumption | intro _ | with_reducible apply legal_foldl | with_reducible apply legal_ite | simp only [Device.legal_mk]
                    | simp only [Device.legal_any] | split | simp only [id] | (refine Device.legal_sec (Or.inl rfl) (Nat.le_of_eq h0) rfl ?_))

theorem execUpdEnd_legal {z : Kept} (f : Frame) (s : State) :
    ∃ d, execUpdEnd f s = .next { s with dev := d } ∧ (s.dev.Legal z → d.Legal z) := by
  refine ⟨_, rfl, fun h => ?_⟩
  try dsimp only
  repeat' (first | with_reducible assumption | intro _ | with_reducible apply Device.sigFail_legal | with_reducible apply Device.i3cFrame_legal
                    | with_reducible apply i3cRefuse_legal | with_reducible apply Device.takeImage_legal | with_reducible apply Device.endUpdate_legal
                    | with_reducible apply legal_foldl | with_reducible apply legal_ite | simp only [Device.legal_mk] | simp only [Device.legal_any] | split
                    | simp only [id] | (refine Device.legal_sec (Or.inl rfl) (Nat.le_of_eq h0) rfl ?_))

theorem execActivate_legal {z : Kept} (f : Frame) (s : State) :
    ∃ d, execActivate f s = .next { s with dev := d } ∧ (s.dev.Legal z → d.Legal z) := by
  refine ⟨_, rfl, fun h => ?_⟩
  try dsimp only
  repeat' (first | with_reducible assumption | intro _ | with_reducible apply Device.i3cFrame_legal | with_reducible apply i3cRefuse_legal
                    | with_reducible apply legal_foldl | with_reducible apply legal_ite | simp only [Device.legal_mk] | simp only [Device.legal_any] | split
                    | simp only [id] | (refine Device.legal_sec (Or.inl rfl) (Nat.le_of_eq h0) rfl ?_))

theorem execSvnCommit_legal {z : Kept} (f : Frame) (s : State) :
    ∃ d, execSvnCommit f s = .next { s with dev := d } ∧ (s.dev.Legal z → d.Legal z) := by
  refine ⟨_, rfl, fun h => ?_⟩
  try dsimp only
  repeat' (first | with_reducible assumption | intro _ | with_reducible apply Device.logEvent_legal | with_reducible apply Device.i3cFrame_legal
                    | with_reducible apply i3cRefuse_legal | with_reducible apply legal_foldl | with_reducible apply legal_ite | simp only [Device.legal_mk]
                    | simp only [Device.legal_any] | split | simp only [id] | (refine Device.legal_sec (Or.inl rfl) (Nat.le_of_eq h0) rfl ?_))

theorem Device.newNonce_legal {z : Kept} (d : Device) (h_d : d.Legal z) :
    (Device.newNonce d).Legal z := by
  unfold Device.newNonce
  try dsimp only
  repeat' (first | with_reducible assumption | intro _ | with_reducible apply legal_foldl | with_reducible apply legal_ite | simp only [Device.legal_mk]
                    | simp only [Device.legal_any] | split | simp only [id] | (refine Device.legal_sec (Or.inl rfl) (Nat.le_of_eq h0) rfl ?_))

theorem execNonce_legal {z : Kept} (f : Frame) (s : State) :
    ∃ d, execNonce f s = .next { s with dev := d } ∧ (s.dev.Legal z → d.Legal z) := by
  refine ⟨_, rfl, fun h => ?_⟩
  try dsimp only
  repeat' (first | with_reducible assumption | intro _ | with_reducible apply Device.i3cFrame_legal | with_reducible apply Device.newNonce_legal
                    | with_reducible apply legal_foldl | with_reducible apply legal_ite | simp only [Device.legal_mk] | simp only [Device.legal_any] | split
                    | simp only [id] | (refine Device.legal_sec (Or.inl rfl) (Nat.le_of_eq h0) rfl ?_))

theorem execAttest_legal {z : Kept} (f : Frame) (s : State) :
    ∃ d, execAttest f s = .next { s with dev := d } ∧ (s.dev.Legal z → d.Legal z) := by
  refine ⟨_, rfl, fun h => ?_⟩
  try dsimp only
  repeat' (first | with_reducible assumption | intro _ | (with_reducible refine Device.hssTake_legal (by assumption) ?_)
                    | with_reducible apply Device.i3cFrame_legal | with_reducible apply i3cRefuse_legal | with_reducible apply legal_foldl
                    | with_reducible apply legal_ite | simp only [Device.legal_mk] | simp only [Device.legal_any] | split | simp only [id]
                    | (refine Device.legal_sec (Or.inl rfl) (Nat.le_of_eq h0) rfl ?_))

theorem execCerts_legal {z : Kept} (f : Frame) (s : State) :
    ∃ d, execCerts f s = .next { s with dev := d } ∧ (s.dev.Legal z → d.Legal z) := by
  refine ⟨_, rfl, fun h => ?_⟩
  try dsimp only
  repeat' (first | with_reducible assumption | intro _ | with_reducible apply Device.i3cFrame_legal | with_reducible apply legal_foldl
                    | with_reducible apply legal_ite | simp only [Device.legal_mk] | simp only [Device.legal_any] | split | simp only [id]
                    | (refine Device.legal_sec (Or.inl rfl) (Nat.le_of_eq h0) rfl ?_))

theorem execTally_legal {z : Kept} (f : Frame) (s : State) :
    ∃ d, execTally f s = .next { s with dev := d } ∧ (s.dev.Legal z → d.Legal z) := by
  refine ⟨_, rfl, fun h => ?_⟩
  try dsimp only
  repeat' (first | with_reducible assumption | intro _ | with_reducible apply Device.i3cFrame_legal | with_reducible apply i3cRefuse_legal
                    | with_reducible apply legal_foldl | with_reducible apply legal_ite | simp only [Device.legal_mk] | simp only [Device.legal_any] | split
                    | simp only [id] | (refine Device.legal_sec (Or.inl rfl) (Nat.le_of_eq h0) rfl ?_))

end Sys2Proof.Machine
end

