-- ==== Sys2Proof/Laws/LegalGuard.lean ====
section
/-! SUPPORT. Every operation of Machine/Guard.lean keeps a legal device legal (Safety.lean). -/
set_option linter.unusedTactic false
set_option linter.unreachableTactic false
set_option linter.unusedVariables false
set_option linter.unusedSimpArgs false
namespace Sys2Proof.Machine

theorem execMeshBreach_legal {z : Kept} (s : State) :
    ∃ d, execMeshBreach s = .next { s with dev := d } ∧ (s.dev.Legal z → d.Legal z) := by
  refine ⟨_, rfl, fun h => ?_⟩
  try dsimp only
  repeat' (first | with_reducible assumption | intro _ | with_reducible apply Device.logEvent_legal | with_reducible apply Device.meetSource_legal
                    | with_reducible apply legal_foldl | with_reducible apply legal_ite | simp only [Device.legal_mk] | simp only [Device.legal_any] | split
                    | simp only [id] | (refine Device.legal_sec (Or.inl rfl) (Nat.le_of_eq h0) rfl ?_))

theorem execGlitch_legal {z : Kept} (s : State) :
    ∃ d, execGlitch s = .next { s with dev := d } ∧ (s.dev.Legal z → d.Legal z) := by
  refine ⟨_, rfl, fun h => ?_⟩
  try dsimp only
  repeat' (first | with_reducible assumption | intro _ | with_reducible apply Device.logEvent_legal | with_reducible apply Device.meetSource_legal
                    | with_reducible apply legal_foldl | with_reducible apply legal_ite | simp only [Device.legal_mk] | simp only [Device.legal_any] | split
                    | simp only [id] | (refine Device.legal_sec (Or.inl rfl) (Nat.le_of_eq h0) rfl ?_))

theorem execGlitchWindowExpiry_legal {z : Kept} (s : State) :
    ∃ d, execGlitchWindowExpiry s = .next { s with dev := d } ∧ (s.dev.Legal z → d.Legal z) := by
  refine ⟨_, rfl, fun h => ?_⟩
  try dsimp only
  repeat' (first | with_reducible assumption | intro _ | with_reducible apply legal_foldl | with_reducible apply legal_ite | simp only [Device.legal_mk]
                    | simp only [Device.legal_any] | split | simp only [id] | (refine Device.legal_sec (Or.inl rfl) (Nat.le_of_eq h0) rfl ?_))

theorem Device.debugAttempt_legal {z : Kept} (d : Device) (h_d : d.Legal z) :
    (Device.debugAttempt d).Legal z := by
  unfold Device.debugAttempt
  try dsimp only
  repeat' (first | with_reducible assumption | intro _ | with_reducible apply Device.logEvent_legal | with_reducible apply Device.meetSource_legal
                    | with_reducible apply legal_foldl | with_reducible apply legal_ite | simp only [Device.legal_mk] | simp only [Device.legal_any] | split
                    | simp only [id] | (refine Device.legal_sec (Or.inl rfl) (Nat.le_of_eq h0) rfl ?_))

theorem execJtagAccess_legal {z : Kept} (s : State) :
    ∃ d, execJtagAccess s = .next { s with dev := d } ∧ (s.dev.Legal z → d.Legal z) := by
  refine ⟨_, rfl, fun h => ?_⟩
  try dsimp only
  repeat' (first | with_reducible assumption | intro _ | with_reducible apply Device.debugAttempt_legal | with_reducible apply legal_foldl
                    | with_reducible apply legal_ite | simp only [Device.legal_mk] | simp only [Device.legal_any] | split | simp only [id]
                    | (refine Device.legal_sec (Or.inl rfl) (Nat.le_of_eq h0) rfl ?_))

theorem Device.tokenRefused_legal {z : Kept} (d : Device) (op : Nat) (h_d : d.Legal z) :
    (Device.tokenRefused d op).Legal z := by
  unfold Device.tokenRefused
  try dsimp only
  repeat' (first | with_reducible assumption | intro _ | with_reducible apply Device.sigFail_legal | with_reducible apply Device.newNonce_legal
                    | with_reducible apply Device.debugAttempt_legal | with_reducible apply legal_foldl | with_reducible apply legal_ite | simp only [Device.legal_mk]
                    | simp only [Device.legal_any] | split | simp only [id] | (refine Device.legal_sec (Or.inl rfl) (Nat.le_of_eq h0) rfl ?_))

theorem Device.auth_legal {z : Kept} (d : Device) (f : Frame) (op : Nat) (act : Device → List Nat → I3CAnswer) (h_d : d.Legal z) (h_act : ∀ (x0 : Device) (x1 : List Nat) (e : Device), x0.Legal z → e.Legal z → ((act x0 x1).effect e).Legal z) :
    (Device.auth d f op act).Legal z := by
  unfold Device.auth
  try dsimp only
  repeat' (first | with_reducible assumption | intro _ | with_reducible apply h_act | with_reducible apply Device.i3cFrame_legal
                    | with_reducible apply Device.newNonce_legal | with_reducible apply Device.tokenRefused_legal | with_reducible apply legal_foldl
                    | with_reducible apply legal_ite | simp only [Device.legal_mk] | simp only [Device.legal_any] | split | simp only [id]
                    | (refine Device.legal_sec (Or.inl rfl) (Nat.le_of_eq h0) rfl ?_))

theorem execAlarmClear_legal {z : Kept} (f : Frame) (s : State) (h0 : z.level = 0) :
    ∃ d, execAlarmClear f s = .next { s with dev := d } ∧ (s.dev.Legal z → d.Legal z) := by
  refine ⟨_, rfl, fun h => ?_⟩
  try dsimp only
  repeat' (first | with_reducible assumption | intro _ | with_reducible apply Device.coldReset_legal | with_reducible apply Device.causeCold_legal
                    | with_reducible apply Device.auth_legal | with_reducible apply legal_foldl | with_reducible apply legal_ite | simp only [Device.legal_mk]
                    | simp only [Device.legal_any] | split | simp only [id] | (refine Device.legal_sec (Or.inl rfl) (Nat.le_of_eq h0) rfl ?_))

theorem Device.setDebug_legal {z : Kept} (d : Device) (on : Bool) (h_d : d.Legal z) :
    (Device.setDebug d on).Legal z := by
  unfold Device.setDebug
  try dsimp only
  repeat' (first | with_reducible assumption | intro _ | with_reducible apply Device.moduleReset_legal | with_reducible apply legal_foldl
                    | with_reducible apply legal_ite | simp only [Device.legal_mk] | simp only [Device.legal_any] | split | simp only [id]
                    | (refine Device.legal_sec (Or.inl rfl) (Nat.le_of_eq h0) rfl ?_))

theorem execDebugUnlock_legal {z : Kept} (f : Frame) (s : State) :
    ∃ d, execDebugUnlock f s = .next { s with dev := d } ∧ (s.dev.Legal z → d.Legal z) := by
  refine ⟨_, rfl, fun h => ?_⟩
  try dsimp only
  repeat' (first | with_reducible assumption | intro _ | with_reducible apply i3cRefuse_legal | with_reducible apply Device.auth_legal
                    | with_reducible apply Device.setDebug_legal | with_reducible apply legal_foldl | with_reducible apply legal_ite | simp only [Device.legal_mk]
                    | simp only [Device.legal_any] | split | simp only [id] | (refine Device.legal_sec (Or.inl rfl) (Nat.le_of_eq h0) rfl ?_))

theorem execDebugLock_legal {z : Kept} (f : Frame) (s : State) :
    ∃ d, execDebugLock f s = .next { s with dev := d } ∧ (s.dev.Legal z → d.Legal z) := by
  refine ⟨_, rfl, fun h => ?_⟩
  try dsimp only
  repeat' (first | with_reducible assumption | intro _ | with_reducible apply Device.auth_legal | with_reducible apply Device.setDebug_legal
                    | with_reducible apply legal_foldl | with_reducible apply legal_ite | simp only [Device.legal_mk] | simp only [Device.legal_any] | split
                    | simp only [id] | (refine Device.legal_sec (Or.inl rfl) (Nat.le_of_eq h0) rfl ?_))

theorem Device.ownerChange_legal {z : Kept} (d : Device) (op : Nat) (target : Nat) (g : KeySlot → KeySlot) (h_d : d.Legal z) :
    (Device.ownerChange d op target g).Legal z := by
  unfold Device.ownerChange
  try dsimp only
  repeat' (first | with_reducible assumption | intro _ | with_reducible apply Device.logEvent_legal | with_reducible apply legal_foldl
                    | with_reducible apply legal_ite | simp only [Device.legal_mk] | simp only [Device.legal_any] | split | simp only [id]
                    | (refine Device.legal_sec (Or.inl rfl) (Nat.le_of_eq h0) rfl ?_))

theorem execOwnerProvision_legal {z : Kept} (f : Frame) (s : State) :
    ∃ d, execOwnerProvision f s = .next { s with dev := d } ∧ (s.dev.Legal z → d.Legal z) := by
  refine ⟨_, rfl, fun h => ?_⟩
  try dsimp only
  repeat' (first | with_reducible assumption | intro _ | with_reducible apply i3cRefuse_legal | with_reducible apply Device.auth_legal
                    | with_reducible apply Device.ownerChange_legal | with_reducible apply legal_foldl | with_reducible apply legal_ite | simp only [Device.legal_mk]
                    | simp only [Device.legal_any] | split | simp only [id] | (refine Device.legal_sec (Or.inl rfl) (Nat.le_of_eq h0) rfl ?_))

theorem execOwnerRevoke_legal {z : Kept} (f : Frame) (s : State) :
    ∃ d, execOwnerRevoke f s = .next { s with dev := d } ∧ (s.dev.Legal z → d.Legal z) := by
  refine ⟨_, rfl, fun h => ?_⟩
  try dsimp only
  repeat' (first | with_reducible assumption | intro _ | with_reducible apply i3cRefuse_legal | with_reducible apply Device.auth_legal
                    | with_reducible apply Device.ownerChange_legal | with_reducible apply legal_foldl | with_reducible apply legal_ite | simp only [Device.legal_mk]
                    | simp only [Device.legal_any] | split | simp only [id] | (refine Device.legal_sec (Or.inl rfl) (Nat.le_of_eq h0) rfl ?_))

end Sys2Proof.Machine
end

