-- ==== Sys2Proof/Laws/LegalRecords.lean ====
section
/-! SUPPORT. Every operation of Machine/Records.lean keeps a legal device legal (Safety.lean). -/
set_option linter.unusedTactic false
set_option linter.unreachableTactic false
set_option linter.unusedVariables false
set_option linter.unusedSimpArgs false
namespace Sys2Proof.Machine

theorem Device.stagingHit_legal {z : Kept} (d : Device) (m : Nat) (j : Nat) (hit : Option Hit) (spans : List (Nat × Nat)) (go : Device → Device) (h_d : d.Legal z) (h_go : ∀ (x0 : Device), x0.Legal z → (go x0).Legal z) :
    (Device.stagingHit d m j hit spans go).Legal z := by
  unfold Device.stagingHit
  try dsimp only
  repeat' (first | with_reducible assumption | intro _ | with_reducible apply h_go | with_reducible apply Device.finish_legal
                    | with_reducible apply Device.withHit_legal | with_reducible apply legal_foldl | with_reducible apply legal_ite | simp only [Device.legal_mk]
                    | simp only [Device.legal_any] | split)

theorem Device.onStaging_legal {z : Kept} (d : Device) (m : Nat) (j : Nat) (hit : Option Hit) (spans : List (Nat × Nat)) (go : Device → Device) (h_d : d.Legal z) (h_go : ∀ (x0 : Device), x0.Legal z → (go x0).Legal z) :
    (Device.onStaging d m j hit spans go).Legal z := by
  unfold Device.onStaging
  try dsimp only
  repeat' (first | with_reducible assumption | intro _ | with_reducible apply h_go | with_reducible apply Device.finish_legal
                    | with_reducible apply Device.stagingHit_legal | with_reducible apply legal_foldl | with_reducible apply legal_ite | simp only [Device.legal_mk]
                    | simp only [Device.legal_any] | split)

end Sys2Proof.Machine
end

