-- ==== Sys2Proof/Laws/LegalIntake.lean ====
section
/-! SUPPORT. Every operation of Machine/Intake.lean keeps a legal device legal (Safety.lean). -/
set_option linter.unusedTactic false
set_option linter.unreachableTactic false
set_option linter.unusedVariables false
set_option linter.unusedSimpArgs false
namespace Sys2Proof.Machine

theorem Device.giveGrader_legal {z : Kept} (d : Device) (k : Nat) (h_d : d.Legal z) :
    (Device.giveGrader d k).Legal z := by
  unfold Device.giveGrader
  try dsimp only
  repeat' (first | with_reducible assumption | intro _ | with_reducible apply Device.updJob_legal | with_reducible apply legal_foldl
                    | with_reducible apply legal_ite | simp only [Device.legal_mk] | simp only [Device.legal_any] | split)

theorem Device.passOwner_legal {z : Kept} (d : Device) (h_d : d.Legal z) :
    (Device.passOwner d).Legal z := by
  unfold Device.passOwner
  try dsimp only
  repeat' (first | with_reducible assumption | intro _ | with_reducible apply Device.updJob_legal | with_reducible apply Device.giveGrader_legal
                    | with_reducible apply legal_foldl | with_reducible apply legal_ite | simp only [Device.legal_mk] | simp only [Device.legal_any] | split)

theorem Device.startFill_legal {z : Kept} (d : Device) (j : Nat) (h_d : d.Legal z) :
    (Device.startFill d j).Legal z := by
  unfold Device.startFill
  try dsimp only
  repeat' (first | with_reducible assumption | intro _ | with_reducible apply legal_foldl | with_reducible apply legal_ite | simp only [Device.legal_mk]
                    | simp only [Device.legal_any] | split)

theorem Device.askFetch_legal {z : Kept} (d : Device) (e : List Nat) (h_d : d.Legal z) :
    (Device.askFetch d e).Legal z := by
  unfold Device.askFetch
  try dsimp only
  repeat' (first | with_reducible assumption | intro _ | with_reducible apply Device.askHost_legal | with_reducible apply legal_foldl
                    | with_reducible apply legal_ite | simp only [Device.legal_mk] | simp only [Device.legal_any] | split)

theorem Device.askFetches_legal {z : Kept} (d : Device) (j : Nat) (h_d : d.Legal z) :
    (Device.askFetches d j).Legal z := by
  unfold Device.askFetches
  try dsimp only
  repeat' (first | with_reducible assumption | intro _ | with_reducible apply Device.updJob_legal | with_reducible apply Device.askFetch_legal
                    | with_reducible apply legal_foldl | with_reducible apply legal_ite | simp only [Device.legal_mk] | simp only [Device.legal_any] | split)

theorem Device.serveIntake_legal {z : Kept} (d : Device) (h_d : d.Legal z) :
    (Device.serveIntake d).Legal z := by
  unfold Device.serveIntake
  try dsimp only
  repeat' (first | with_reducible assumption | intro _ | with_reducible apply Device.startFill_legal | with_reducible apply Device.askFetches_legal
                    | with_reducible apply legal_foldl | with_reducible apply legal_ite | simp only [Device.legal_mk] | simp only [Device.legal_any] | split)

theorem Device.pump_legal {z : Kept} (d : Device) (h_d : d.Legal z) :
    (Device.pump d).Legal z := by
  unfold Device.pump
  try dsimp only
  repeat' (first | with_reducible assumption | intro _ | with_reducible apply Device.passOwner_legal | with_reducible apply Device.serveIntake_legal
                    | with_reducible apply legal_foldl | with_reducible apply legal_ite | simp only [Device.legal_mk] | simp only [Device.legal_any] | split)

theorem Device.requestLane_legal {z : Kept} (d : Device) (j : Nat) (st : Step) (k : Nat) (reason : Nat) (h_d : d.Legal z) :
    (Device.requestLane d j st k reason).Legal z := by
  unfold Device.requestLane
  try dsimp only
  repeat' (first | with_reducible assumption | intro _ | with_reducible apply Device.updJob_legal | with_reducible apply Device.notice_legal
                    | with_reducible apply legal_foldl | with_reducible apply legal_ite | simp only [Device.legal_mk] | simp only [Device.legal_any] | split)

theorem Device.pumpLane_legal {z : Kept} (d : Device) (j : Nat) (h_d : d.Legal z) :
    (Device.pumpLane d j).Legal z := by
  unfold Device.pumpLane
  try dsimp only
  repeat' (first | with_reducible assumption | intro _ | with_reducible apply Device.requestLane_legal | with_reducible apply legal_foldl
                    | with_reducible apply legal_ite | simp only [Device.legal_mk] | simp only [Device.legal_any] | split)

end Sys2Proof.Machine
end

