-- ==== Sys2Proof/Laws/LegalJobCmds.lean ====
section
/-! SUPPORT. Every operation of Machine/JobCmds.lean keeps a legal device legal (Safety.lean). -/
set_option linter.unusedTactic false
set_option linter.unreachableTactic false
set_option linter.unusedVariables false
set_option linter.unusedSimpArgs false
namespace Sys2Proof.Machine

theorem Device.jobCommand_legal {z : Kept} (d : Device) (m : Nat) (code : Nat) (f : Device → Nat → List Nat → Device) (h_d : d.Legal z) (h_f : ∀ (x0 : Device) (x1 : Nat) (x2 : List Nat), x0.Legal z → (f x0 x1 x2).Legal z) :
    (Device.jobCommand d m code f).Legal z := by
  unfold Device.jobCommand
  try dsimp only
  repeat' (first | with_reducible assumption | intro _ | with_reducible apply h_f | with_reducible apply Device.command_legal
                    | with_reducible apply legal_foldl | with_reducible apply legal_ite | simp only [Device.legal_mk] | simp only [Device.legal_any] | split)

theorem execJobStopAfterCommit_legal {z : Kept} (m : Fin 256) (s : State) :
    ∃ d, execJobStopAfterCommit m s = .next { s with dev := d } ∧ (s.dev.Legal z → d.Legal z) := by
  refine ⟨_, rfl, fun h => ?_⟩
  try dsimp only
  repeat' (first | with_reducible assumption | intro _ | with_reducible apply Device.updJob_legal | with_reducible apply Device.setOwn_legal
                    | with_reducible apply Device.finish_legal | with_reducible apply Device.commandIf_legal | with_reducible apply Device.stopNow_legal
                    | with_reducible apply legal_foldl | with_reducible apply legal_ite | simp only [Device.legal_mk] | simp only [Device.legal_any] | split)

theorem execJobStopAtOnce_legal {z : Kept} (m : Fin 256) (s : State) :
    ∃ d, execJobStopAtOnce m s = .next { s with dev := d } ∧ (s.dev.Legal z → d.Legal z) := by
  refine ⟨_, rfl, fun h => ?_⟩
  try dsimp only
  repeat' (first | with_reducible assumption | intro _ | with_reducible apply Device.finish_legal | with_reducible apply Device.commandIf_legal
                    | with_reducible apply Device.reply_legal | with_reducible apply Device.stopNow_legal | with_reducible apply legal_foldl
                    | with_reducible apply legal_ite | simp only [Device.legal_mk] | simp only [Device.legal_any] | split)

theorem execJobSuspend_legal {z : Kept} (m : Fin 256) (s : State) :
    ∃ d, execJobSuspend m s = .next { s with dev := d } ∧ (s.dev.Legal z → d.Legal z) := by
  refine ⟨_, rfl, fun h => ?_⟩
  try dsimp only
  repeat' (first | with_reducible assumption | intro _ | with_reducible apply Device.updJob_legal | with_reducible apply Device.setOwn_legal
                    | with_reducible apply Device.finish_legal | with_reducible apply Device.suspend_legal | with_reducible apply Device.jobCommand_legal
                    | with_reducible apply legal_foldl | with_reducible apply legal_ite | simp only [Device.legal_mk] | simp only [Device.legal_any] | split)

theorem execJobResume_legal {z : Kept} (m : Fin 256) (s : State) :
    ∃ d, execJobResume m s = .next { s with dev := d } ∧ (s.dev.Legal z → d.Legal z) := by
  refine ⟨_, rfl, fun h => ?_⟩
  try dsimp only
  repeat' (first | with_reducible assumption | intro _ | with_reducible apply Device.updJob_legal | with_reducible apply Device.finish_legal
                    | with_reducible apply Device.restoreContext_legal | with_reducible apply Device.reply_legal | with_reducible apply Device.pump_legal
                    | with_reducible apply Device.pumpLane_legal | with_reducible apply Device.jobCommand_legal | with_reducible apply legal_foldl
                    | with_reducible apply legal_ite | simp only [Device.legal_mk] | simp only [Device.legal_any] | split)

theorem execJobQuery_legal {z : Kept} (m : Fin 256) (s : State) :
    ∃ d, execJobQuery m s = .next { s with dev := d } ∧ (s.dev.Legal z → d.Legal z) := by
  refine ⟨_, rfl, fun h => ?_⟩
  try dsimp only
  repeat' (first | with_reducible assumption | intro _ | (with_reducible refine Device.draw_legal (by assumption) ?_)
                    | with_reducible apply Device.draw_snd_legal | with_reducible apply Device.finish_legal | with_reducible apply Device.jobCommand_legal
                    | with_reducible apply legal_foldl | with_reducible apply legal_ite | simp only [Device.legal_mk] | simp only [Device.legal_any] | split)

theorem execLogRead_legal {z : Kept} (m : Fin 256) (s : State) :
    ∃ d, execLogRead m s = .next { s with dev := d } ∧ (s.dev.Legal z → d.Legal z) := by
  refine ⟨_, rfl, fun h => ?_⟩
  try dsimp only
  repeat' (first | with_reducible assumption | intro _ | with_reducible apply Device.store_legal | with_reducible apply Device.finish_legal
                    | with_reducible apply Device.reply_legal | with_reducible apply Device.onStaging_legal | with_reducible apply Device.jobCommand_legal
                    | with_reducible apply legal_foldl | with_reducible apply legal_ite | simp only [Device.legal_mk] | simp only [Device.legal_any] | split)

theorem execOverrideAdd_legal {z : Kept} (m : Fin 256) (hit : Option Hit) (s : State) :
    ∃ d, execOverrideAdd m hit s = .next { s with dev := d } ∧ (s.dev.Legal z → d.Legal z) := by
  refine ⟨_, rfl, fun h => ?_⟩
  try dsimp only
  repeat' (first | with_reducible assumption | intro _ | with_reducible apply Device.updJob_legal | with_reducible apply Device.finish_legal
                    | with_reducible apply Device.reply_legal | with_reducible apply Device.onStaging_legal | with_reducible apply Device.jobCommand_legal
                    | with_reducible apply legal_foldl | with_reducible apply legal_ite | simp only [Device.legal_mk] | simp only [Device.legal_any] | split)

theorem execManifest_legal {z : Kept} (m : Fin 256) (hit : Option Hit) (s : State) :
    ∃ d, execManifest m hit s = .next { s with dev := d } ∧ (s.dev.Legal z → d.Legal z) := by
  refine ⟨_, rfl, fun h => ?_⟩
  try dsimp only
  repeat' (first | with_reducible assumption | intro _ | with_reducible apply Device.updJob_legal | with_reducible apply Device.finish_legal
                    | with_reducible apply Device.reply_legal | with_reducible apply Device.onStaging_legal | with_reducible apply Device.jobCommand_legal
                    | with_reducible apply legal_foldl | with_reducible apply legal_ite | simp only [Device.legal_mk] | simp only [Device.legal_any] | split)

theorem execStepSubmit_legal {z : Kept} (m : Fin 256) (s : State) :
    ∃ d, execStepSubmit m s = .next { s with dev := d } ∧ (s.dev.Legal z → d.Legal z) := by
  refine ⟨_, rfl, fun h => ?_⟩
  try dsimp only
  repeat' (first | with_reducible assumption | intro _ | with_reducible apply Device.updJob_legal | with_reducible apply Device.logEvent_legal
                    | with_reducible apply Device.finish_legal | with_reducible apply Device.reply_legal | with_reducible apply Device.pump_legal
                    | with_reducible apply Device.jobCommand_legal | with_reducible apply legal_foldl | with_reducible apply legal_ite | simp only [Device.legal_mk]
                    | simp only [Device.legal_any] | split)

theorem Device.batchNotice_legal {z : Kept} (d : Device) (j : Nat) (st : Nat) (batchNo : Nat) (n : Nat) (h_d : d.Legal z) :
    (Device.batchNotice d j st batchNo n).Legal z := by
  unfold Device.batchNotice
  try dsimp only
  repeat' (first | with_reducible assumption | intro _ | with_reducible apply Device.jobNotice_legal | with_reducible apply legal_foldl
                    | with_reducible apply legal_ite | simp only [Device.legal_mk] | simp only [Device.legal_any] | split)

theorem execBatch_legal {z : Kept} (m : Fin 256) (hit : Option Hit) (s : State) :
    ∃ d, execBatch m hit s = .next { s with dev := d } ∧ (s.dev.Legal z → d.Legal z) := by
  refine ⟨_, rfl, fun h => ?_⟩
  try dsimp only
  repeat' (first | with_reducible assumption | intro _ | with_reducible apply Device.updJob_legal | with_reducible apply Device.finish_legal
                    | with_reducible apply Device.reply_legal | with_reducible apply Device.onStaging_legal | with_reducible apply Device.pump_legal
                    | with_reducible apply Device.jobCommand_legal | with_reducible apply Device.batchNotice_legal | with_reducible apply legal_foldl
                    | with_reducible apply legal_ite | simp only [Device.legal_mk] | simp only [Device.legal_any] | split)

end Sys2Proof.Machine
end

