-- ==== Sys2Proof/Laws/LegalImage.lean ====
section
/-! SUPPORT. Every operation of Machine/Image.lean keeps a legal device legal (Safety.lean). -/
set_option linter.unusedTactic false
set_option linter.unreachableTactic false
set_option linter.unusedVariables false
set_option linter.unusedSimpArgs false
namespace Sys2Proof.Machine

theorem Device.storeBlocks_legal {z : Kept} (d : Device) (bs : List (Nat × Nat)) (xs : List Nat) (h_d : d.Legal z) :
    (Device.storeBlocks d bs xs).Legal z := by
  unfold Device.storeBlocks
  try dsimp only
  repeat' (first | with_reducible assumption | intro _ | with_reducible apply Device.setMem_legal | with_reducible apply Device.markDirty_legal
                    | with_reducible apply undoStep_wf | with_reducible apply Mem.paste_wf | with_reducible apply copyBytes_wf | with_reducible apply putBlocks_wf
                    | with_reducible apply memAfter_wf | with_reducible apply Mem.blank_wf | with_reducible apply Mem.writeN_wf | with_reducible apply wf_foldl
                    | with_reducible apply legal_foldl | with_reducible apply legal_ite | simp only [Device.legal_mk] | simp only [Device.legal_any] | split
                    | with_reducible refine Device.Legal.memory (z := z) ?_)

end Sys2Proof.Machine
end

