-- ==== Sys2Proof/Laws/LegalJobStart.lean ====
section
/-! SUPPORT. Every operation of Machine/JobStart.lean keeps a legal device legal (Safety.lean). -/
set_option linter.unusedTactic false
set_option linter.unreachableTactic false
set_option linter.unusedVariables false
set_option linter.unusedSimpArgs false
namespace Sys2Proof.Machine

theorem freeOldRegions_legal {z : Kept} (d : Device) (r : Resv) (peer : Option Nat) (units : Nat) (h_d : d.Legal z) :
    (freeOldRegions d r peer units).Legal z := by
  unfold freeOldRegions
  try dsimp only
  repeat' (first | with_reducible assumption | intro _ | with_reducible apply Device.freePartners_legal | with_reducible apply legal_foldl
                    | with_reducible apply legal_ite | simp only [Device.legal_mk] | simp only [Device.legal_any] | split)

theorem Device.makeRegion_legal {z : Kept} (d : Device) (r : Resv) (u : JobSetup) (h_d : d.Legal z) :
    (Device.makeRegion d r u).Legal z := by
  unfold Device.makeRegion
  try dsimp only
  repeat' (first | with_reducible assumption | intro _ | with_reducible apply Device.updTer_legal | with_reducible apply Device.undefine_legal
                    | with_reducible apply freeOldRegions_legal | with_reducible apply legal_foldl | with_reducible apply legal_ite | simp only [Device.legal_mk]
                    | simp only [Device.legal_any] | split)

theorem sharedImage_legal {z : Kept} (d : Device) (u : JobSetup) (s : Nat) (h : d.Legal z) : (sharedImage d u s).2.Legal z := by
  unfold sharedImage
  dsimp only
  split
  · exact Device.askHost_legal _ _ _ _ _ h
  · split
    · exact h
    · split
      · exact Device.askHost_legal _ _ _ _ _ h
      · exact h

theorem restoreCheck_legal {z : Kept} {d e : Device} {j : Nat} {p : List Nat} (hq : restoreCheck d j p = .wait e) (h : d.Legal z) : e.Legal z := by
  unfold restoreCheck at hq
  dsimp only at hq
  have hs := sharedImage_legal (sharedImage d (setupOf d j p) 0).2 (setupOf d j p) 1 (sharedImage_legal d (setupOf d j p) 0 h)
  split at hq
  · cases hq
  · repeat' (first | (split at hq) | (cases hq))
  · repeat' (first | (split at hq) | (cases hq))
  · repeat' (first | (split at hq) | (cases hq; done) | (cases hq; exact hs))

theorem Device.beginJob_legal {z : Kept} (d : Device) (m : Nat) (j : Nat) (p : List Nat) (q0 : JobSlot) (src : Source) (h_d : d.Legal z) :
    (Device.beginJob d m j p q0 src).Legal z := by
  unfold Device.beginJob
  try dsimp only
  repeat' (first | with_reducible assumption | intro _ | with_reducible apply Device.updJob_legal | with_reducible apply Device.store_legal
                    | with_reducible apply Device.logEvent_legal | with_reducible apply Device.finish_legal | with_reducible apply Device.restoreContext_legal
                    | with_reducible apply next_legal | with_reducible apply Device.tokenAll_legal | with_reducible apply Device.readHolder_legal
                    | with_reducible apply Device.refreshRoutes_legal | with_reducible apply Device.storeBlocks_legal | with_reducible apply Device.makeRegion_legal
                    | with_reducible apply legal_foldl | with_reducible apply legal_ite | simp only [Device.legal_mk] | simp only [Device.legal_any] | split)

theorem Device.exchange_legal {z : Kept} (d : Device) (m : Nat) (j : Nat) (p : List Nat) (q0 : JobSlot) (src : Source) (h_d : d.Legal z) :
    (Device.exchange d m j p q0 src).Legal z := by
  unfold Device.exchange
  try dsimp only
  repeat' (first | with_reducible assumption | intro _ | with_reducible apply Device.updJob_legal | with_reducible apply Device.setOwn_legal
                    | with_reducible apply Device.finish_legal | with_reducible apply Device.sendToken_legal | with_reducible apply Device.endExchange_legal
                    | with_reducible apply Device.beginJob_legal | with_reducible apply legal_foldl | with_reducible apply legal_ite | simp only [Device.legal_mk]
                    | simp only [Device.legal_any] | split)

theorem execJobStart_legal {z : Kept} (m : Fin 256) (hit : Option Hit) (s : State) :
    ∃ d, execJobStart m hit s = .next { s with dev := d } ∧ (s.dev.Legal z → d.Legal z) := by
  refine ⟨_, rfl, fun h => ?_⟩
  try dsimp only
  repeat' (first | with_reducible assumption | intro _ | with_reducible apply Device.updJob_legal | with_reducible apply Device.setOwn_legal
                    | with_reducible apply Device.finish_legal | with_reducible apply Device.command_legal | with_reducible apply Device.stagingHit_legal
                    | (with_reducible refine restoreCheck_legal (by assumption) ?_) | with_reducible apply Device.exchange_legal | with_reducible apply legal_foldl
                    | with_reducible apply legal_ite | simp only [Device.legal_mk] | simp only [Device.legal_any] | split)

end Sys2Proof.Machine
end

