-- ==== Sys2Proof/Laws/LegalTreat.lean ====
section
/-! SUPPORT. Every operation of Machine/Treat.lean keeps a legal device legal (Safety.lean). -/
set_option linter.unusedTactic false
set_option linter.unreachableTactic false
set_option linter.unusedVariables false
set_option linter.unusedSimpArgs false
namespace Sys2Proof.Machine

theorem Device.updSample_legal {z : Kept} (d : Device) (j : Nat) (n : Nat) (k : Nat) (f : JobRec → DrawCtx → Nat → Nat → SampleSlot → SampleSlot) (h_d : d.Legal z) :
    (Device.updSample d j n k f).Legal z := by
  unfold Device.updSample
  try dsimp only
  repeat' (first | with_reducible assumption | intro _ | with_reducible apply Device.updJob_legal | with_reducible apply legal_foldl
                    | with_reducible apply legal_ite | simp only [Device.legal_mk] | simp only [Device.legal_any] | split)

theorem Device.augment_legal {z : Kept} (d : Device) (j : Nat) (k : Nat) (o : Nat) (code : Nat) (h_d : d.Legal z) :
    (Device.augment d j k o code).Legal z := by
  unfold Device.augment
  try dsimp only
  repeat' (first | with_reducible assumption | intro _ | with_reducible apply Device.updSample_legal | with_reducible apply legal_foldl
                    | with_reducible apply legal_ite | simp only [Device.legal_mk] | simp only [Device.legal_any] | split)

theorem execCrop_legal {z : Kept} (j : Fin 16) (slot : Nat) (op : Nat) (s : State) :
    ∃ d, execCrop j slot op s = .next { s with dev := d } ∧ (s.dev.Legal z → d.Legal z) := by
  refine ⟨_, rfl, fun h => ?_⟩
  try dsimp only
  repeat' (first | with_reducible assumption | intro _ | with_reducible apply Device.augment_legal | with_reducible apply legal_foldl
                    | with_reducible apply legal_ite | simp only [Device.legal_mk] | simp only [Device.legal_any] | split)

theorem execResize_legal {z : Kept} (j : Fin 16) (slot : Nat) (op : Nat) (s : State) :
    ∃ d, execResize j slot op s = .next { s with dev := d } ∧ (s.dev.Legal z → d.Legal z) := by
  refine ⟨_, rfl, fun h => ?_⟩
  try dsimp only
  repeat' (first | with_reducible assumption | intro _ | with_reducible apply Device.augment_legal | with_reducible apply legal_foldl
                    | with_reducible apply legal_ite | simp only [Device.legal_mk] | simp only [Device.legal_any] | split)

theorem execHflip_legal {z : Kept} (j : Fin 16) (slot : Nat) (op : Nat) (s : State) :
    ∃ d, execHflip j slot op s = .next { s with dev := d } ∧ (s.dev.Legal z → d.Legal z) := by
  refine ⟨_, rfl, fun h => ?_⟩
  try dsimp only
  repeat' (first | with_reducible assumption | intro _ | with_reducible apply Device.augment_legal | with_reducible apply legal_foldl
                    | with_reducible apply legal_ite | simp only [Device.legal_mk] | simp only [Device.legal_any] | split)

theorem execRot90_legal {z : Kept} (j : Fin 16) (slot : Nat) (op : Nat) (s : State) :
    ∃ d, execRot90 j slot op s = .next { s with dev := d } ∧ (s.dev.Legal z → d.Legal z) := by
  refine ⟨_, rfl, fun h => ?_⟩
  try dsimp only
  repeat' (first | with_reducible assumption | intro _ | with_reducible apply Device.augment_legal | with_reducible apply legal_foldl
                    | with_reducible apply legal_ite | simp only [Device.legal_mk] | simp only [Device.legal_any] | split)

theorem execJitter_legal {z : Kept} (j : Fin 16) (slot : Nat) (op : Nat) (s : State) :
    ∃ d, execJitter j slot op s = .next { s with dev := d } ∧ (s.dev.Legal z → d.Legal z) := by
  refine ⟨_, rfl, fun h => ?_⟩
  try dsimp only
  repeat' (first | with_reducible assumption | intro _ | with_reducible apply Device.augment_legal | with_reducible apply legal_foldl
                    | with_reducible apply legal_ite | simp only [Device.legal_mk] | simp only [Device.legal_any] | split)

theorem execReencode_legal {z : Kept} (j : Fin 16) (slot : Nat) (op : Nat) (s : State) :
    ∃ d, execReencode j slot op s = .next { s with dev := d } ∧ (s.dev.Legal z → d.Legal z) := by
  refine ⟨_, rfl, fun h => ?_⟩
  try dsimp only
  repeat' (first | with_reducible assumption | intro _ | with_reducible apply Device.augment_legal | with_reducible apply legal_foldl
                    | with_reducible apply legal_ite | simp only [Device.legal_mk] | simp only [Device.legal_any] | split)

theorem execTcrop_legal {z : Kept} (j : Fin 16) (slot : Nat) (op : Nat) (s : State) :
    ∃ d, execTcrop j slot op s = .next { s with dev := d } ∧ (s.dev.Legal z → d.Legal z) := by
  refine ⟨_, rfl, fun h => ?_⟩
  try dsimp only
  repeat' (first | with_reducible assumption | intro _ | with_reducible apply Device.augment_legal | with_reducible apply legal_foldl
                    | with_reducible apply legal_ite | simp only [Device.legal_mk] | simp only [Device.legal_any] | split)

theorem execTstride_legal {z : Kept} (j : Fin 16) (slot : Nat) (op : Nat) (s : State) :
    ∃ d, execTstride j slot op s = .next { s with dev := d } ∧ (s.dev.Legal z → d.Legal z) := by
  refine ⟨_, rfl, fun h => ?_⟩
  try dsimp only
  repeat' (first | with_reducible assumption | intro _ | with_reducible apply Device.augment_legal | with_reducible apply legal_foldl
                    | with_reducible apply legal_ite | simp only [Device.legal_mk] | simp only [Device.legal_any] | split)

theorem execGain_legal {z : Kept} (j : Fin 16) (slot : Nat) (op : Nat) (s : State) :
    ∃ d, execGain j slot op s = .next { s with dev := d } ∧ (s.dev.Legal z → d.Legal z) := by
  refine ⟨_, rfl, fun h => ?_⟩
  try dsimp only
  repeat' (first | with_reducible assumption | intro _ | with_reducible apply Device.augment_legal | with_reducible apply legal_foldl
                    | with_reducible apply legal_ite | simp only [Device.legal_mk] | simp only [Device.legal_any] | split)

theorem execResample_legal {z : Kept} (j : Fin 16) (slot : Nat) (op : Nat) (s : State) :
    ∃ d, execResample j slot op s = .next { s with dev := d } ∧ (s.dev.Legal z → d.Legal z) := by
  refine ⟨_, rfl, fun h => ?_⟩
  try dsimp only
  repeat' (first | with_reducible assumption | intro _ | with_reducible apply Device.augment_legal | with_reducible apply legal_foldl
                    | with_reducible apply legal_ite | simp only [Device.legal_mk] | simp only [Device.legal_any] | split)

theorem execDownmix_legal {z : Kept} (j : Fin 16) (slot : Nat) (op : Nat) (s : State) :
    ∃ d, execDownmix j slot op s = .next { s with dev := d } ∧ (s.dev.Legal z → d.Legal z) := by
  refine ⟨_, rfl, fun h => ?_⟩
  try dsimp only
  repeat' (first | with_reducible assumption | intro _ | with_reducible apply Device.augment_legal | with_reducible apply legal_foldl
                    | with_reducible apply legal_ite | simp only [Device.legal_mk] | simp only [Device.legal_any] | split)

end Sys2Proof.Machine
end

