-- ==== Sys2Proof/Laws/LegalPipe.lean ====
section
/-! SUPPORT. Every operation of Machine/Pipe.lean keeps a legal device legal (Safety.lean). -/
set_option linter.unusedTactic false
set_option linter.unreachableTactic false
set_option linter.unusedVariables false
set_option linter.unusedSimpArgs false
namespace Sys2Proof.Machine

theorem Device.toRetry_legal {z : Kept} (d : Device) (g : GEntry) (h_d : d.Legal z) :
    (Device.toRetry d g).Legal z := by
  unfold Device.toRetry
  try dsimp only
  repeat' (first | with_reducible assumption | intro _ | with_reducible apply Device.updSample_legal | with_reducible apply legal_foldl
                    | with_reducible apply legal_ite | simp only [Device.legal_mk] | simp only [Device.legal_any] | split)

theorem Device.toLane_legal {z : Kept} (d : Device) (j : Nat) (st : Step) (k : Nat) (reason : Nat) (h_d : d.Legal z) :
    (Device.toLane d j st k reason).Legal z := by
  unfold Device.toLane
  try dsimp only
  repeat' (first | with_reducible assumption | intro _ | with_reducible apply Device.requestLane_legal | with_reducible apply Device.updSample_legal
                    | with_reducible apply legal_foldl | with_reducible apply legal_ite | simp only [Device.legal_mk] | simp only [Device.legal_any] | split)

theorem Device.route_legal {z : Kept} (d : Device) (j : Nat) (st : Step) (k : Nat) (data : List Nat) (h_d : d.Legal z) :
    (Device.route d j st k data).Legal z := by
  unfold Device.route
  try dsimp only
  repeat' (first | with_reducible assumption | intro _ | with_reducible apply Device.updSample_legal | with_reducible apply Device.toRetry_legal
                    | with_reducible apply Device.toLane_legal | with_reducible apply legal_foldl | with_reducible apply legal_ite | simp only [Device.legal_mk]
                    | simp only [Device.legal_any] | split)

theorem Device.holdBytes_legal {z : Kept} (d : Device) (j : Nat) (n : Nat) (k : Nat) (data : List Nat) (h_d : d.Legal z) :
    (Device.holdBytes d j n k data).Legal z := by
  unfold Device.holdBytes
  try dsimp only
  repeat' (first | with_reducible assumption | intro _ | with_reducible apply Device.updSample_legal | with_reducible apply legal_foldl
                    | with_reducible apply legal_ite | simp only [Device.legal_mk] | simp only [Device.legal_any] | split)

theorem execIntakeFetch_legal {z : Kept} (j : Fin 16) (step : Nat) (slot : Nat) (data : List Nat) (s : State) :
    ∃ d, execIntakeFetch j step slot data s = .next { s with dev := d } ∧ (s.dev.Legal z → d.Legal z) := by
  refine ⟨_, rfl, fun h => ?_⟩
  try dsimp only
  repeat' (first | with_reducible assumption | intro _ | with_reducible apply Device.askFetch_legal | with_reducible apply Device.pump_legal
                    | with_reducible apply Device.updSample_legal | with_reducible apply Device.route_legal | with_reducible apply Device.holdBytes_legal
                    | with_reducible apply legal_foldl | with_reducible apply legal_ite | simp only [Device.legal_mk] | simp only [Device.legal_any] | split)

theorem execFetchFailed_legal {z : Kept} (j : Fin 16) (step : Nat) (slot : Nat) (s : State) :
    ∃ d, execFetchFailed j step slot s = .next { s with dev := d } ∧ (s.dev.Legal z → d.Legal z) := by
  refine ⟨_, rfl, fun h => ?_⟩
  try dsimp only
  repeat' (first | with_reducible assumption | intro _ | with_reducible apply Device.logEvent_legal | with_reducible apply Device.stopJob_legal
                    | with_reducible apply legal_foldl | with_reducible apply legal_ite | simp only [Device.legal_mk] | simp only [Device.legal_any] | split)

theorem execDecodeStart_legal {z : Kept} (media : List Nat) (ecc0 : Ecc) (ecc1 : Ecc) (s : State) :
    ∃ d, execDecodeStart media ecc0 ecc1 s = .next { s with dev := d } ∧ (s.dev.Legal z → d.Legal z) := by
  refine ⟨_, rfl, fun h => ?_⟩
  try dsimp only
  repeat' (first | with_reducible assumption | intro _ | with_reducible apply Device.pump_legal | with_reducible apply Device.updSample_legal
                    | with_reducible apply legal_foldl | with_reducible apply legal_ite | simp only [Device.legal_mk] | simp only [Device.legal_any] | split)

theorem Device.takeBusy_legal {z : Kept} {d e : Device} {j n k : Nat} {g : GEntry} (hq : d.takeBusy j n k = some (g, e)) (h : d.Legal z) : e.Legal z := by
  unfold Device.takeBusy at hq
  split at hq
  · cases hq; simp only [Device.legal_mk]; exact h
  · cases hq

theorem Device.endMedia_legal {z : Kept} (d : Device) (j : Nat) (st : Step) (k : Nat) (status : Nat) (last : Bool) (h_d : d.Legal z) :
    (Device.endMedia d j st k status last).Legal z := by
  unfold Device.endMedia
  try dsimp only
  repeat' (first | with_reducible assumption | intro _ | with_reducible apply Device.logEvent_legal | with_reducible apply Device.updStep_legal
                    | with_reducible apply Device.pumpLane_legal | with_reducible apply Device.updSample_legal | with_reducible apply legal_foldl
                    | with_reducible apply legal_ite | simp only [Device.legal_mk] | simp only [Device.legal_any] | split)

theorem Device.takeSample_legal {z : Kept} (d : Device) (j : Nat) (n : Nat) (k : Nat) (conceal : Nat) (bytes : List Nat) (h_d : d.Legal z) :
    (Device.takeSample d j n k conceal bytes).Legal z := by
  unfold Device.takeSample
  try dsimp only
  repeat' (first | with_reducible assumption | intro _ | with_reducible apply Device.updSample_legal | with_reducible apply legal_foldl
                    | with_reducible apply legal_ite | simp only [Device.legal_mk] | simp only [Device.legal_any] | split)

theorem execDecodeComplete_legal {z : Kept} (j : Fin 16) (step : Nat) (slot : Nat) (s : State) :
    ∃ d, execDecodeComplete j step slot s = .next { s with dev := d } ∧ (s.dev.Legal z → d.Legal z) := by
  refine ⟨_, rfl, fun h => ?_⟩
  try dsimp only
  repeat' (first | with_reducible assumption | intro _ | with_reducible apply Device.pump_legal
                    | (with_reducible refine Device.takeBusy_legal (by assumption) ?_) | with_reducible apply Device.endMedia_legal
                    | with_reducible apply Device.takeSample_legal | with_reducible apply legal_foldl | with_reducible apply legal_ite | simp only [Device.legal_mk]
                    | simp only [Device.legal_any] | split)

theorem execDecodeBudgetExpired_legal {z : Kept} (j : Fin 16) (step : Nat) (slot : Nat) (s : State) :
    ∃ d, execDecodeBudgetExpired j step slot s = .next { s with dev := d } ∧ (s.dev.Legal z → d.Legal z) := by
  refine ⟨_, rfl, fun h => ?_⟩
  try dsimp only
  repeat' (first | with_reducible assumption | intro _ | with_reducible apply Device.logEvent_legal | with_reducible apply Device.pump_legal
                    | with_reducible apply Device.toRetry_legal | with_reducible apply Device.toLane_legal
                    | (with_reducible refine Device.takeBusy_legal (by assumption) ?_) | with_reducible apply legal_foldl | with_reducible apply legal_ite
                    | simp only [Device.legal_mk] | simp only [Device.legal_any] | split)

theorem execGraderBankSwap_legal {z : Kept} (s : State) :
    ∃ d, execGraderBankSwap s = .next { s with dev := d } ∧ (s.dev.Legal z → d.Legal z) := by
  refine ⟨_, rfl, fun h => ?_⟩
  try dsimp only
  repeat' (first | with_reducible assumption | intro _ | with_reducible apply Device.pump_legal | with_reducible apply legal_foldl
                    | with_reducible apply legal_ite | simp only [Device.legal_mk] | simp only [Device.legal_any] | split)

theorem execRetryLaneEntry_legal {z : Kept} (s : State) :
    ∃ d, execRetryLaneEntry s = .next { s with dev := d } ∧ (s.dev.Legal z → d.Legal z) := by
  refine ⟨_, rfl, fun h => ?_⟩
  try dsimp only
  repeat' (first | with_reducible assumption | intro _ | with_reducible apply Device.updSample_legal | with_reducible apply legal_foldl
                    | with_reducible apply legal_ite | simp only [Device.legal_mk] | simp only [Device.legal_any] | split)

theorem execHostlaneOpen_legal {z : Kept} (m : Fin 256) (s : State) :
    ∃ d, execHostlaneOpen m s = .next { s with dev := d } ∧ (s.dev.Legal z → d.Legal z) := by
  refine ⟨_, rfl, fun h => ?_⟩
  try dsimp only
  repeat' (first | with_reducible assumption | intro _ | with_reducible apply Device.updJob_legal | with_reducible apply Device.finish_legal
                    | with_reducible apply Device.commandIf_legal | with_reducible apply Device.reply_legal | with_reducible apply Device.pumpLane_legal
                    | with_reducible apply legal_foldl | with_reducible apply legal_ite | simp only [Device.legal_mk] | simp only [Device.legal_any] | split)

theorem execHostlaneClose_legal {z : Kept} (m : Fin 256) (s : State) :
    ∃ d, execHostlaneClose m s = .next { s with dev := d } ∧ (s.dev.Legal z → d.Legal z) := by
  refine ⟨_, rfl, fun h => ?_⟩
  try dsimp only
  repeat' (first | with_reducible assumption | intro _ | with_reducible apply Device.updJob_legal | with_reducible apply Device.finish_legal
                    | with_reducible apply Device.commandIf_legal | with_reducible apply Device.reply_legal | with_reducible apply legal_foldl
                    | with_reducible apply legal_ite | simp only [Device.legal_mk] | simp only [Device.legal_any] | split)

theorem execHostlaneReturn_legal {z : Kept} (m : Fin 256) (hit : Option Hit) (s : State) :
    ∃ d, execHostlaneReturn m hit s = .next { s with dev := d } ∧ (s.dev.Legal z → d.Legal z) := by
  refine ⟨_, rfl, fun h => ?_⟩
  try dsimp only
  repeat' (first | with_reducible assumption | intro _ | with_reducible apply Device.updJob_legal | with_reducible apply Device.finish_legal
                    | with_reducible apply Device.erase_legal | with_reducible apply Device.onStaging_legal | with_reducible apply Device.pump_legal
                    | with_reducible apply Device.requestLane_legal | with_reducible apply Device.pumpLane_legal | with_reducible apply Device.jobCommand_legal
                    | with_reducible apply Device.endMedia_legal | with_reducible apply Device.takeSample_legal | with_reducible apply legal_foldl
                    | with_reducible apply legal_ite | simp only [Device.legal_mk] | simp only [Device.legal_any] | split)

end Sys2Proof.Machine
end

