-- ==== Sys2Proof/Laws/LegalPack.lean ====
section
/-! SUPPORT. Every operation of Machine/Pack.lean keeps a legal device legal (Safety.lean). -/
set_option linter.unusedTactic false
set_option linter.unreachableTactic false
set_option linter.unusedVariables false
set_option linter.unusedSimpArgs false
namespace Sys2Proof.Machine

theorem execMicrobatchClose_legal {z : Kept} (j : Fin 16) (s : State) :
    ∃ d, execMicrobatchClose j s = .next { s with dev := d } ∧ (s.dev.Legal z → d.Legal z) := by
  refine ⟨_, rfl, fun h => ?_⟩
  try dsimp only
  repeat' (first | with_reducible assumption | intro _ | with_reducible apply Device.updStep_legal | with_reducible apply Device.settleAll_legal
                    | with_reducible apply Device.pump_legal | with_reducible apply legal_foldl | with_reducible apply legal_ite | simp only [Device.legal_mk]
                    | simp only [Device.legal_any] | split)

theorem Device.queueEngines_legal {z : Kept} (d : Device) (j : Nat) (skim : List (Nat × List Nat)) (sluice : List (Nat × List Nat)) (h_d : d.Legal z) :
    (Device.queueEngines d j skim sluice).Legal z := by
  unfold Device.queueEngines
  try dsimp only
  repeat' (first | with_reducible assumption | intro _ | with_reducible apply Device.updEng_legal | with_reducible apply Device.issue_legal
                    | with_reducible apply legal_foldl | with_reducible apply legal_ite | simp only [Device.legal_mk] | simp only [Device.legal_any] | split)

theorem Device.writeCaps_legal {z : Kept} (d : Device) (j : Nat) (u : JobSetup) (tokens : Nat) (sluice : List (Nat × List Nat)) (h_d : d.Legal z) :
    (Device.writeCaps d j u tokens sluice).Legal z := by
  unfold Device.writeCaps
  try dsimp only
  repeat' (first | with_reducible assumption | intro _ | with_reducible apply Device.store_legal | with_reducible apply legal_foldl
                    | with_reducible apply legal_ite | simp only [Device.legal_mk] | simp only [Device.legal_any] | split)

theorem Device.leaveStep_legal {z : Kept} (d : Device) (j : Nat) (n : Nat) (ps : List Nat) (h_d : d.Legal z) :
    (Device.leaveStep d j n ps).Legal z := by
  unfold Device.leaveStep
  try dsimp only
  repeat' (first | with_reducible assumption | intro _ | with_reducible apply Device.updStep_legal | with_reducible apply legal_foldl
                    | with_reducible apply legal_ite | simp only [Device.legal_mk] | simp only [Device.legal_any] | split)

theorem execMicrobatchDispatch_legal {z : Kept} (j : Fin 16) (step : Nat) (mb : Nat) (pans : List Nat) (addr : Nat) (tmb : Nat) (skim : List (Nat × List Nat)) (sluice : List (Nat × List Nat)) (s : State) :
    ∃ d, execMicrobatchDispatch j step mb pans addr tmb skim sluice s = .next { s with dev := d } ∧ (s.dev.Legal z → d.Legal z) := by
  refine ⟨_, rfl, fun h => ?_⟩
  try dsimp only
  repeat' (first | with_reducible assumption | intro _ | with_reducible apply Device.updPan_legal | with_reducible apply Device.store_legal
                    | with_reducible apply Device.updStep_legal | with_reducible apply Device.captureUndo_legal | with_reducible apply Device.settleAll_legal
                    | with_reducible apply Device.pump_legal | with_reducible apply Device.queueEngines_legal | with_reducible apply Device.writeCaps_legal
                    | with_reducible apply Device.leaveStep_legal | with_reducible apply legal_foldl | with_reducible apply legal_ite | simp only [Device.legal_mk]
                    | simp only [Device.legal_any] | split)

theorem Device.batchRecords_legal {z : Kept} (d : Device) (j : Nat) (u : JobSetup) (st : Step) (others : List (List Nat)) (h_d : d.Legal z) :
    (Device.batchRecords d j u st others).Legal z := by
  unfold Device.batchRecords
  try dsimp only
  repeat' (first | with_reducible assumption | intro _ | with_reducible apply Device.updJob_legal | with_reducible apply legal_foldl
                    | with_reducible apply legal_ite | simp only [Device.legal_mk] | simp only [Device.legal_any] | split)

theorem execBatchRun_legal {z : Kept} (j : Fin 16) (batchNo : Nat) (hit : Option Hit) (others : List (List Nat)) (s : State) :
    ∃ d, execBatchRun j batchNo hit others s = .next { s with dev := d } ∧ (s.dev.Legal z → d.Legal z) := by
  refine ⟨_, rfl, fun h => ?_⟩
  try dsimp only
  repeat' (first | with_reducible assumption | intro _ | with_reducible apply Device.updJob_legal | with_reducible apply Device.store_legal
                    | with_reducible apply Device.withHit_legal | with_reducible apply Device.holdFault_legal | with_reducible apply Device.pump_legal
                    | with_reducible apply Device.batchNotice_legal | with_reducible apply Device.batchRecords_legal | with_reducible apply legal_foldl
                    | with_reducible apply legal_ite | simp only [Device.legal_mk] | simp only [Device.legal_any] | split)

theorem execRedoGate_legal {z : Kept} (p : Fin 64) (unit : Nat) (dir : Nat) (mb : Nat) (s : State) :
    ∃ d, execRedoGate p unit dir mb s = .next { s with dev := d } ∧ (s.dev.Legal z → d.Legal z) := by
  refine ⟨_, rfl, fun h => ?_⟩
  try dsimp only
  repeat' (first | with_reducible assumption | intro _ | with_reducible apply Device.updPan_legal | with_reducible apply Device.updJob_legal
                    | with_reducible apply Device.psWrite_legal | with_reducible apply legal_foldl | with_reducible apply legal_ite | simp only [Device.legal_mk]
                    | simp only [Device.legal_any] | split)

theorem Device.giveVerdict_legal {z : Kept} (d : Device) (r : RedoUnit) (g : Gate) (v : Nat) (h_d : d.Legal z) :
    (Device.giveVerdict d r g v).Legal z := by
  unfold Device.giveVerdict
  try dsimp only
  repeat' (first | with_reducible assumption | intro _ | with_reducible apply Device.updPan_legal | with_reducible apply Device.psWrite_legal
                    | with_reducible apply legal_foldl | with_reducible apply legal_ite | simp only [Device.legal_mk] | simp only [Device.legal_any] | split)

theorem execRedoVerdict_legal {z : Kept} (j : Fin 16) (unit : Nat) (dir : Nat) (mb : Nat) (others : List (List Nat)) (s : State) :
    ∃ d, execRedoVerdict j unit dir mb others s = .next { s with dev := d } ∧ (s.dev.Legal z → d.Legal z) := by
  refine ⟨_, rfl, fun h => ?_⟩
  try dsimp only
  repeat' (first | with_reducible assumption | intro _ | with_reducible apply Device.updJob_legal | with_reducible apply Device.logEvent_legal
                    | with_reducible apply Device.updStep_legal | with_reducible apply Device.giveVerdict_legal | with_reducible apply legal_foldl
                    | with_reducible apply legal_ite | simp only [Device.legal_mk] | simp only [Device.legal_any] | split)

end Sys2Proof.Machine
end

