-- ==== Sys2Proof/Laws/LegalLineage.lean ====
section
/-! SUPPORT. Every operation of Machine/Lineage.lean keeps a legal device legal (Safety.lean). -/
set_option linter.unusedTactic false
set_option linter.unreachableTactic false
set_option linter.unusedVariables false
set_option linter.unusedSimpArgs false
namespace Sys2Proof.Machine

theorem Device.replayFor_legal {z : Kept} (d : Device) (j : Nat) (a : Nat) (h_d : d.Legal z) :
    (Device.replayFor d j a).Legal z := by
  unfold Device.replayFor
  try dsimp only
  repeat' (first | with_reducible assumption | intro _ | with_reducible apply Device.replaySteps_legal | with_reducible apply Device.releaseGrain_legal
                    | with_reducible apply legal_foldl | with_reducible apply legal_ite | simp only [Device.legal_mk] | simp only [Device.legal_any] | split)

theorem Device.recopy_legal {z : Kept} (d : Device) (j : Nat) (a : Nat) (b : BufEntry) (h_d : d.Legal z) :
    (Device.recopy d j a b).Legal z := by
  unfold Device.recopy
  try dsimp only
  repeat' (first | with_reducible assumption | intro _ | with_reducible apply Device.updEng_legal | with_reducible apply Device.issue_legal
                    | with_reducible apply Device.replayFor_legal | with_reducible apply legal_foldl | with_reducible apply legal_ite | simp only [Device.legal_mk]
                    | simp only [Device.legal_any] | split)

theorem Device.reproduce_legal {z : Kept} (d : Device) (j : Nat) (a : Nat) (b : BufEntry) (h_d : d.Legal z) :
    (Device.reproduce d j a b).Legal z := by
  unfold Device.reproduce
  try dsimp only
  repeat' (first | with_reducible assumption | intro _ | with_reducible apply Device.updPan_legal | with_reducible apply Device.releaseGrain_legal
                    | with_reducible apply Device.replayFor_legal | with_reducible apply legal_foldl | with_reducible apply legal_ite | simp only [Device.legal_mk]
                    | simp only [Device.legal_any] | split)

theorem Device.rebuild_legal {z : Kept} (d : Device) (j : Nat) (a : Nat) (b : BufEntry) (h_d : d.Legal z) :
    (Device.rebuild d j a b).Legal z := by
  unfold Device.rebuild
  try dsimp only
  repeat' (first | with_reducible assumption | intro _ | with_reducible apply Device.store_legal | with_reducible apply Device.releaseGrain_legal
                    | with_reducible apply Device.replayFor_legal | with_reducible apply legal_foldl | with_reducible apply legal_ite | simp only [Device.legal_mk]
                    | simp only [Device.legal_any] | split)

theorem Device.reread_legal {z : Kept} (d : Device) (j : Nat) (a : Nat) (h_d : d.Legal z) :
    (Device.reread d j a).Legal z := by
  unfold Device.reread
  try dsimp only
  repeat' (first | with_reducible assumption | intro _ | with_reducible apply Device.replayFor_legal | with_reducible apply legal_foldl
                    | with_reducible apply legal_ite | simp only [Device.legal_mk] | simp only [Device.legal_any] | split)

theorem execBufferRegenerate_legal {z : Kept} (j : Fin 16) (addr : Nat) (s : State) :
    ∃ d, execBufferRegenerate j addr s = .next { s with dev := d } ∧ (s.dev.Legal z → d.Legal z) := by
  refine ⟨_, rfl, fun h => ?_⟩
  try dsimp only
  repeat' (first | with_reducible assumption | intro _ | with_reducible apply Device.jobFault_legal | with_reducible apply Device.releaseGrain_legal
                    | with_reducible apply Device.replayFor_legal | with_reducible apply Device.recopy_legal | with_reducible apply Device.reproduce_legal
                    | with_reducible apply Device.rebuild_legal | with_reducible apply Device.reread_legal | with_reducible apply legal_foldl
                    | with_reducible apply legal_ite | simp only [Device.legal_mk] | simp only [Device.legal_any] | split)

end Sys2Proof.Machine
end

