-- ==== Sys2Proof/Laws/LegalPanStep.lean ====
section
/-! SUPPORT. Every operation of Machine/PanStep.lean keeps a legal device legal (Safety.lean). -/
set_option linter.unusedTactic false
set_option linter.unreachableTactic false
set_option linter.unusedVariables false
set_option linter.unusedSimpArgs false
namespace Sys2Proof.Machine

theorem afterPdone_legal {z : Kept} (p : Nat) (d : Device) (h_d : d.Legal z) :
    (afterPdone p d).Legal z := by
  unfold afterPdone
  try dsimp only
  repeat' (first | with_reducible assumption | intro _ | with_reducible apply Device.settleStages_legal | with_reducible apply Device.pump_legal
                    | with_reducible apply legal_foldl | with_reducible apply legal_ite | simp only [Device.legal_mk] | simp only [Device.legal_any] | split)

theorem execPdone_legal {z : Kept} (p : Fin 64) (rs1 : Nat) (s : State) :
    ∃ d, execPdone p rs1 s = .next { s with dev := d } ∧ (s.dev.Legal z → d.Legal z) := by
  refine ⟨_, rfl, fun h => ?_⟩
  try dsimp only
  repeat' (first | with_reducible assumption | intro _ | with_reducible apply pdoneRun_legal | with_reducible apply Device.runCore_legal
                    | with_reducible apply afterPdone_legal | with_reducible apply legal_foldl | with_reducible apply legal_ite | simp only [Device.legal_mk]
                    | simp only [Device.legal_any] | split)

theorem execPanCoreInstruction_legal {z : Kept} (p : Fin 64) (hit : Bool) (store : Option Nat) (s : State) :
    ∃ d, execPanCoreInstruction p hit store s = .next { s with dev := d } ∧ (s.dev.Legal z → d.Legal z) := by
  refine ⟨_, rfl, fun h => ?_⟩
  try dsimp only
  repeat' (first | with_reducible assumption | intro _ | with_reducible apply Device.store_legal | with_reducible apply withStoreHit_legal
                    | with_reducible apply coreRun_legal | with_reducible apply Device.runCore_legal | with_reducible apply afterPdone_legal
                    | with_reducible apply legal_foldl | with_reducible apply legal_ite | simp only [Device.legal_mk] | simp only [Device.legal_any] | split)

end Sys2Proof.Machine
end

