-- ==== Sys2Proof/Laws/LegalPower.lean ====
section
/-! SUPPORT. Every operation of Machine/Power.lean keeps a legal device legal (Safety.lean). -/
set_option linter.unusedTactic false
set_option linter.unreachableTactic false
set_option linter.unusedVariables false
set_option linter.unusedSimpArgs false
namespace Sys2Proof.Machine

theorem Device.addEnergy_legal {z : Kept} (d : Device) (t : Nat) (h_d : d.Legal z) :
    (Device.addEnergy d t).Legal z := by
  unfold Device.addEnergy
  try dsimp only
  repeat' (first | with_reducible assumption | intro _ | with_reducible apply legal_foldl | with_reducible apply legal_ite | simp only [Device.legal_mk]
                    | simp only [Device.legal_any] | split)

theorem Device.estimateTerrace_legal {z : Kept} (d : Device) (t : Nat) (counters : List Nat) (h_d : d.Legal z) :
    (Device.estimateTerrace d t counters).Legal z := by
  unfold Device.estimateTerrace
  try dsimp only
  repeat' (first | with_reducible assumption | (simp only [TerPower.legal] at *; (repeat' split) <;> omega) | intro _
                    | with_reducible apply Device.updTerp_legal | with_reducible apply legal_foldl | with_reducible apply legal_ite | simp only [Device.legal_mk]
                    | simp only [Device.legal_any] | split)

theorem execPowerEstimate_legal {z : Kept} (activity : List (List Nat)) (s : State) :
    ∃ d, execPowerEstimate activity s = .next { s with dev := d } ∧ (s.dev.Legal z → d.Legal z) := by
  refine ⟨_, rfl, fun h => ?_⟩
  try dsimp only
  repeat' (first | with_reducible assumption | intro _ | with_reducible apply Device.addEnergy_legal | with_reducible apply Device.estimateTerrace_legal
                    | with_reducible apply legal_foldl | with_reducible apply legal_ite | simp only [Device.legal_mk] | simp only [Device.legal_any] | split)

theorem execFastLimit_legal {z : Kept} (t : Fin 4) (s : State) :
    ∃ d, execFastLimit t s = .next { s with dev := d } ∧ (s.dev.Legal z → d.Legal z) := by
  refine ⟨_, rfl, fun h => ?_⟩
  try dsimp only
  repeat' (first | with_reducible assumption | (simp only [TerPower.legal] at *; (repeat' split) <;> omega) | intro _
                    | with_reducible apply Device.updTerp_legal | with_reducible apply legal_foldl | with_reducible apply legal_ite | simp only [Device.legal_mk]
                    | simp only [Device.legal_any] | split)

theorem kcalStep_range (k m e : Nat) (h : 7500 ≤ k ∧ k ≤ 12500) : 7500 ≤ kcalStep k m e ∧ kcalStep k m e ≤ 12500 := by
  unfold kcalStep
  split
  · exact h
  · omega

theorem execKcalCalibrate_legal {z : Kept} (s : State) :
    ∃ d, execKcalCalibrate s = .next { s with dev := d } ∧ (s.dev.Legal z → d.Legal z) := by
  refine ⟨_, rfl, fun h => ?_⟩
  dsimp only
  refine Device.legal_map rfl rfl (fun x hx => ⟨hx.1, hx.2.1, hx.2.2.1, ?_⟩) h
  show 7500 ≤ (if _ then x.kcal else _) ∧ (if _ then x.kcal else _) ≤ 12500
  split
  · exact hx.2.2.2
  · exact kcalStep_range _ _ _ hx.2.2.2

theorem execModulePowerCheck_legal {z : Kept} (s : State) :
    ∃ d, execModulePowerCheck s = .next { s with dev := d } ∧ (s.dev.Legal z → d.Legal z) := by
  refine ⟨_, rfl, fun h => ?_⟩
  try dsimp only
  repeat' (first | with_reducible assumption | intro _ | with_reducible apply Device.logEvent_legal | with_reducible apply legal_foldl
                    | with_reducible apply legal_ite | simp only [Device.legal_mk] | simp only [Device.legal_any] | split)

theorem execDroopDetect_legal {z : Kept} (p : Fin 64) (s : State) :
    ∃ d, execDroopDetect p s = .next { s with dev := d } ∧ (s.dev.Legal z → d.Legal z) := by
  refine ⟨_, rfl, fun h => ?_⟩
  try dsimp only
  repeat' (first | with_reducible assumption | (simp only [TerPower.legal] at *; (repeat' split) <;> omega) | intro _
                    | with_reducible apply Device.updPan_legal | with_reducible apply Device.updTerp_legal | with_reducible apply legal_foldl
                    | with_reducible apply legal_ite | simp only [Device.legal_mk] | simp only [Device.legal_any] | split)

theorem execDroopSkipEnd_legal {z : Kept} (p : Fin 64) (s : State) :
    ∃ d, execDroopSkipEnd p s = .next { s with dev := d } ∧ (s.dev.Legal z → d.Legal z) := by
  refine ⟨_, rfl, fun h => ?_⟩
  try dsimp only
  repeat' (first | with_reducible assumption | intro _ | with_reducible apply Device.updPan_legal | with_reducible apply legal_foldl
                    | with_reducible apply legal_ite | simp only [Device.legal_mk] | simp only [Device.legal_any] | split)

theorem execDroopHeld_legal {z : Kept} (p : Fin 64) (s : State) :
    ∃ d, execDroopHeld p s = .next { s with dev := d } ∧ (s.dev.Legal z → d.Legal z) := by
  refine ⟨_, rfl, fun h => ?_⟩
  try dsimp only
  repeat' (first | with_reducible assumption | intro _ | with_reducible apply Device.updPan_legal | with_reducible apply Device.logEvent_legal
                    | with_reducible apply legal_foldl | with_reducible apply legal_ite | simp only [Device.legal_mk] | simp only [Device.legal_any] | split)

theorem execThermalCeiling_legal {z : Kept} (s : State) :
    ∃ d, execThermalCeiling s = .next { s with dev := d } ∧ (s.dev.Legal z → d.Legal z) := by
  refine ⟨_, rfl, fun h => ?_⟩
  try dsimp only
  repeat' (first | with_reducible assumption | intro _ | with_reducible apply Device.logEvent_legal | with_reducible apply legal_foldl
                    | with_reducible apply legal_ite | simp only [Device.legal_mk] | simp only [Device.legal_any] | split)

theorem execThermalThrottle_legal {z : Kept} (t : Fin 4) (s : State) :
    ∃ d, execThermalThrottle t s = .next { s with dev := d } ∧ (s.dev.Legal z → d.Legal z) := by
  refine ⟨_, rfl, fun h => ?_⟩
  try dsimp only
  repeat' (first | with_reducible assumption | (simp only [TerPower.legal] at *; (repeat' split) <;> omega) | intro _
                    | with_reducible apply Device.updTerp_legal | with_reducible apply legal_foldl | with_reducible apply legal_ite | simp only [Device.legal_mk]
                    | simp only [Device.legal_any] | split)

theorem execThermalTrip_legal {z : Kept} (n : Fin 72) (s : State) :
    ∃ d, execThermalTrip n s = .next { s with dev := d } ∧ (s.dev.Legal z → d.Legal z) := by
  refine ⟨_, rfl, fun h => ?_⟩
  try dsimp only
  repeat' (first | with_reducible assumption | (simp only [TerPower.legal] at *; (repeat' split) <;> omega) | intro _
                    | with_reducible apply Device.logEvent_legal | with_reducible apply Device.jobFault_legal | with_reducible apply Device.enterShelf_legal
                    | with_reducible apply legal_foldl | with_reducible apply legal_ite | simp only [Device.legal_mk] | simp only [Device.legal_any] | split
                    | (refine Device.legal_map rfl rfl (fun x hx => ?_) ?_))

theorem Device.judgeDies_legal {z : Kept} (d : Device) (old : List Int) (h_d : d.Legal z) :
    (Device.judgeDies d old).Legal z := by
  unfold Device.judgeDies
  try dsimp only
  repeat' (first | with_reducible assumption | intro _ | with_reducible apply Device.logEvent_legal | with_reducible apply Device.meetSource_legal
                    | with_reducible apply legal_foldl | with_reducible apply legal_ite | simp only [Device.legal_mk] | simp only [Device.legal_any] | split)

theorem Device.judgeCoolant_legal {z : Kept} (d : Device) (h_d : d.Legal z) :
    (Device.judgeCoolant d).Legal z := by
  unfold Device.judgeCoolant
  try dsimp only
  repeat' (first | with_reducible assumption | intro _ | with_reducible apply Device.logEvent_legal | with_reducible apply legal_foldl
                    | with_reducible apply legal_ite | simp only [Device.legal_mk] | simp only [Device.legal_any] | split)

theorem Device.judgeThrottle_legal {z : Kept} (d : Device) (h_d : d.Legal z) :
    (Device.judgeThrottle d).Legal z := by
  unfold Device.judgeThrottle
  try dsimp only
  repeat' (first | with_reducible assumption | (simp only [TerPower.legal] at *; (repeat' split) <;> omega) | intro _
                    | with_reducible apply Device.updTerp_legal | with_reducible apply legal_foldl | with_reducible apply legal_ite | simp only [Device.legal_mk]
                    | simp only [Device.legal_any] | split)

theorem execSensorSample_legal {z : Kept} (die : List Int) (rails : List (Int × Int)) (inlet : Int) (outlet : Int) (flow : Int) (s : State) :
    ∃ d, execSensorSample die rails inlet outlet flow s = .next { s with dev := d } ∧ (s.dev.Legal z → d.Legal z) := by
  refine ⟨_, rfl, fun h => ?_⟩
  try dsimp only
  repeat' (first | with_reducible assumption | intro _ | with_reducible apply Device.judgeDies_legal | with_reducible apply Device.judgeCoolant_legal
                    | with_reducible apply Device.judgeThrottle_legal | with_reducible apply legal_foldl | with_reducible apply legal_ite | simp only [Device.legal_mk]
                    | simp only [Device.legal_any] | split)

end Sys2Proof.Machine
end

