-- ==== Sys2Proof/Laws/LegalResil.lean ====
section
/-! SUPPORT. Every operation of Machine/Resil.lean keeps a legal device legal (Safety.lean). -/
set_option linter.unusedTactic false
set_option linter.unreachableTactic false
set_option linter.unusedVariables false
set_option linter.unusedSimpArgs false
namespace Sys2Proof.Machine

theorem Device.writeFor_legal {z : Kept} (d : Device) (j dst job addr : Nat) (bs : List Nat) (logStep : Option Nat) (h : d.Legal z) :
    (Device.writeFor d j dst job addr bs logStep).Legal z := by
  unfold Device.writeFor
  simp only [Device.legal_mk]
  exact Device.request_legal rfl h

theorem Device.writeHolder_legal {z : Kept} (d : Device) (j : Nat) (dst : Nat) (job : Nat) (off : Nat) (bs : List Nat) (logStep : Option Nat) (h_d : d.Legal z) :
    (Device.writeHolder d j dst job off bs logStep).Legal z := by
  unfold Device.writeHolder
  try dsimp only
  repeat' (first | with_reducible assumption | intro _ | with_reducible apply Device.writeFor_legal | with_reducible apply legal_foldl
                    | with_reducible apply legal_ite | simp only [Device.legal_mk] | simp only [Device.legal_any] | split)

theorem Device.dropImage_legal {z : Kept} (d : Device) (j : Nat) (layer : Nat) (slotNo : Nat) (h_d : d.Legal z) :
    (Device.dropImage d j layer slotNo).Legal z := by
  unfold Device.dropImage
  try dsimp only
  repeat' (first | with_reducible assumption | intro _ | with_reducible apply Device.updJob_legal | with_reducible apply legal_foldl
                    | with_reducible apply legal_ite | simp only [Device.legal_mk] | simp only [Device.legal_any] | split)

theorem Device.putPart_legal {z : Kept} (d : Device) (j : Nat) (u : JobSetup) (r : SnapRun) (off : Nat) (bs : List Nat) (h_d : d.Legal z) :
    (Device.putPart d j u r off bs).Legal z := by
  unfold Device.putPart
  try dsimp only
  repeat' (first | with_reducible assumption | intro _ | with_reducible apply Device.send_legal | with_reducible apply Device.transmit_legal
                    | with_reducible apply Device.writeHolder_legal | with_reducible apply legal_foldl | with_reducible apply legal_ite | simp only [Device.legal_mk]
                    | simp only [Device.legal_any] | split)

theorem Device.putSections_legal {z : Kept} (d : Device) (j : Nat) (u : JobSetup) (r : SnapRun) (h_d : d.Legal z) :
    (Device.putSections d j u r).Legal z := by
  unfold Device.putSections
  try dsimp only
  repeat' (first | with_reducible assumption | intro _ | with_reducible apply Device.putPart_legal | with_reducible apply legal_foldl
                    | with_reducible apply legal_ite | simp only [Device.legal_mk] | simp only [Device.legal_any] | split)

theorem Device.putImage_legal {z : Kept} (d : Device) (j : Nat) (u : JobSetup) (r : SnapRun) (h_d : d.Legal z) :
    (Device.putImage d j u r).Legal z := by
  unfold Device.putImage
  try dsimp only
  repeat' (first | with_reducible assumption | intro _ | with_reducible apply Device.updJob_legal | with_reducible apply Device.putPart_legal
                    | with_reducible apply legal_foldl | with_reducible apply legal_ite | simp only [Device.legal_mk] | simp only [Device.legal_any] | split)

theorem Device.beginImage_legal {z : Kept} (d : Device) (j : Nat) (u : JobSetup) (layer : Nat) (c : Nat) (h_d : d.Legal z) :
    (Device.beginImage d j u layer c).Legal z := by
  unfold Device.beginImage
  try dsimp only
  repeat' (first | with_reducible assumption | intro _ | with_reducible apply Device.updJob_legal | with_reducible apply Device.dropImage_legal
                    | with_reducible apply Device.putSections_legal | with_reducible apply legal_foldl | with_reducible apply legal_ite | simp only [Device.legal_mk]
                    | simp only [Device.legal_any] | split)

theorem execSnapshotStart_legal {z : Kept} (j : Fin 16) (layer : Fin 3) (hit : Option Hit) (s : State) :
    ∃ d, execSnapshotStart j layer hit s = .next { s with dev := d } ∧ (s.dev.Legal z → d.Legal z) := by
  refine ⟨_, rfl, fun h => ?_⟩
  try dsimp only
  repeat' (first | with_reducible assumption | intro _ | with_reducible apply Device.report_legal | with_reducible apply Device.withHit_legal
                    | with_reducible apply Device.holdFault_legal | with_reducible apply Device.freeEntryAt_legal | with_reducible apply Device.beginImage_legal
                    | with_reducible apply legal_foldl | with_reducible apply legal_ite | simp only [Device.legal_mk] | simp only [Device.legal_any] | split)

theorem execSnapshotComplete_legal {z : Kept} (j : Fin 16) (layer : Fin 3) (s : State) :
    ∃ d, execSnapshotComplete j layer s = .next { s with dev := d } ∧ (s.dev.Legal z → d.Legal z) := by
  refine ⟨_, rfl, fun h => ?_⟩
  try dsimp only
  repeat' (first | with_reducible assumption | intro _ | with_reducible apply Device.updJob_legal | with_reducible apply Device.logEvent_legal
                    | with_reducible apply Device.putImage_legal | with_reducible apply legal_foldl | with_reducible apply legal_ite | simp only [Device.legal_mk]
                    | simp only [Device.legal_any] | split)

theorem Device.writeLog_legal {z : Kept} (d : Device) (j : Nat) (h : Nat) (sl : Nat) (n : Nat) (u : JobSetup) (bs : List Nat) (h_d : d.Legal z) :
    (Device.writeLog d j h sl n u bs).Legal z := by
  unfold Device.writeLog
  try dsimp only
  repeat' (first | with_reducible assumption | intro _ | with_reducible apply Device.updJob_legal | with_reducible apply Device.writeHolder_legal
                    | with_reducible apply legal_foldl | with_reducible apply legal_ite | simp only [Device.legal_mk] | simp only [Device.legal_any] | split)

theorem execGradientLogAppend_legal {z : Kept} (j : Fin 16) (step : Nat) (scalars : List Nat) (grads : List Nat) (total : StepShare) (s : State) :
    ∃ d, execGradientLogAppend j step scalars grads total s = .next { s with dev := d } ∧ (s.dev.Legal z → d.Legal z) := by
  refine ⟨_, rfl, fun h => ?_⟩
  try dsimp only
  repeat' (first | with_reducible assumption | intro _ | with_reducible apply Device.updStep_legal | with_reducible apply Device.placeSnapshot_legal
                    | with_reducible apply Device.writeLog_legal | with_reducible apply legal_foldl | with_reducible apply legal_ite | simp only [Device.legal_mk]
                    | simp only [Device.legal_any] | split)

theorem execRestoreComplete_legal {z : Kept} (j : Fin 16) (images : List (List Nat)) (entries : List (List Nat)) (states : List (List Nat)) (logEnd : Nat) (s : State) :
    ∃ d, execRestoreComplete j images entries states logEnd s = .next { s with dev := d } ∧ (s.dev.Legal z → d.Legal z) := by
  refine ⟨_, rfl, fun h => ?_⟩
  try dsimp only
  repeat' (first | with_reducible assumption | intro _ | with_reducible apply Device.updJob_legal | with_reducible apply Device.stopJob_legal
                    | with_reducible apply Device.tokenAll_legal | with_reducible apply Device.storeBlocks_legal | with_reducible apply legal_foldl
                    | with_reducible apply legal_ite | simp only [Device.legal_mk] | simp only [Device.legal_any] | split)

end Sys2Proof.Machine
end

