-- ==== Sys2Proof/Laws/LegalSched.lean ====
section
/-! SUPPORT. Every operation of Machine/Sched.lean keeps a legal device legal (Safety.lean). -/
set_option linter.unusedTactic false
set_option linter.unreachableTactic false
set_option linter.unusedVariables false
set_option linter.unusedSimpArgs false
namespace Sys2Proof.Machine

theorem execQuantumExpiry_legal {z : Kept} (part : Fin 4) (held : Nat) (idle : Nat) (s : State) :
    ∃ d, execQuantumExpiry part held idle s = .next { s with dev := d } ∧ (s.dev.Legal z → d.Legal z) := by
  refine ⟨_, rfl, fun h => ?_⟩
  try dsimp only
  repeat' (first | with_reducible assumption | intro _ | with_reducible apply Device.updJob_legal | with_reducible apply Device.idle_legal
                    | with_reducible apply legal_foldl | with_reducible apply legal_ite | simp only [Device.legal_mk] | simp only [Device.legal_any] | split)

theorem Device.prefetch_legal {z : Kept} (d : Device) (part : Nat) (j : Nat) (h_d : d.Legal z) :
    (Device.prefetch d part j).Legal z := by
  unfold Device.prefetch
  try dsimp only
  repeat' (first | with_reducible assumption | intro _ | with_reducible apply Device.copyImage_legal | with_reducible apply legal_foldl
                    | with_reducible apply legal_ite | simp only [Device.legal_mk] | simp only [Device.legal_any] | split)

theorem Device.switchIn_legal {z : Kept} (d : Device) (part : Nat) (k : Nat) (hit : Option Hit) (h_d : d.Legal z) :
    (Device.switchIn d part k hit).Legal z := by
  unfold Device.switchIn
  try dsimp only
  repeat' (first | with_reducible assumption | intro _ | with_reducible apply Device.restoreContext_legal | with_reducible apply Device.jobFault_legal
                    | with_reducible apply Device.withHit_legal | with_reducible apply Device.pump_legal | with_reducible apply Device.pumpLane_legal
                    | with_reducible apply Device.prefetch_legal | with_reducible apply legal_foldl | with_reducible apply legal_ite | simp only [Device.legal_mk]
                    | simp only [Device.legal_any] | split)

theorem execContextSwitch_legal {z : Kept} (part : Fin 4) (hit : Option Hit) (s : State) :
    ∃ d, execContextSwitch part hit s = .next { s with dev := d } ∧ (s.dev.Legal z → d.Legal z) := by
  refine ⟨_, rfl, fun h => ?_⟩
  try dsimp only
  repeat' (first | with_reducible assumption | intro _ | with_reducible apply Device.saveContext_legal | with_reducible apply Device.suspend_legal
                    | with_reducible apply Device.idle_legal | with_reducible apply Device.pump_legal | with_reducible apply Device.switchIn_legal
                    | with_reducible apply legal_foldl | with_reducible apply legal_ite | simp only [Device.legal_mk] | simp only [Device.legal_any] | split)

theorem slowRate_legal {z : Kept} (d : Device) (dn rf : Nat) (h : d.Legal z) : (slowRate d dn rf).2.Legal z := by
  unfold slowRate
  split
  · exact h
  · exact Device.draw_legal rfl h

theorem slowRate_legal' {z : Kept} {d e : Device} {dn rf n : Nat} (hq : slowRate d dn rf = (n, e)) (h : d.Legal z) : e.Legal z := by
  have := slowRate_legal d dn rf h
  rw [hq] at this
  exact this

theorem execSlowdownReport_legal {z : Kept} (j : Fin 16) (c : SlowCounts) (s : State) :
    ∃ d, execSlowdownReport j c s = .next { s with dev := d } ∧ (s.dev.Legal z → d.Legal z) := by
  refine ⟨_, rfl, fun h => ?_⟩
  try dsimp only
  repeat' (first | with_reducible assumption | intro _ | with_reducible apply Device.updJob_legal | with_reducible apply Device.jobNotice_legal
                    | with_reducible apply slowRate_legal | (with_reducible refine slowRate_legal' (by assumption) ?_) | with_reducible apply legal_foldl
                    | with_reducible apply legal_ite | simp only [Device.legal_mk] | simp only [Device.legal_any] | split)

theorem execFlushEnd_legal {z : Kept} (s : State) :
    ∃ d, execFlushEnd s = .next { s with dev := d } ∧ (s.dev.Legal z → d.Legal z) := by
  refine ⟨_, rfl, fun h => ?_⟩
  try dsimp only
  repeat' (first | with_reducible assumption | intro _ | with_reducible apply legal_foldl | with_reducible apply legal_ite | simp only [Device.legal_mk]
                    | simp only [Device.legal_any] | split)

end Sys2Proof.Machine
end

