-- ==== Sys2Proof/Laws/Segment.lean ====
section
/-! SUPPORT. What an instruction of a pan program does in its segment: the first time, and when a re-run of the segment reaches it again (05 R170). -/
namespace Sys2Proof.Machine

/-- An instruction that its segment reaches for the first time has its own effect, and is noted in the segment while that goes on. -/
theorem inSegment_first {d : Device} {p : Nat} {f : Device → PRes} (h : (d.panAt p).replays = false) :
    inSegment p false f d = match f d with
      | .ok e => .ok (e.updPan p (fun r => if r.core.segNo = (d.panAt p).core.segNo then r.logStep else r))
      | r => r := by
  have hn : (d.panAt p).core.trace[(d.panAt p).core.met]? = none := by
    simp only [Pan.replays, decide_eq_false_iff_not, Nat.not_lt] at h
    exact List.getElem?_eq_none h
  simp only [inSegment, hn, Bool.false_eq_true, if_false] <;> cases f d <;> rfl

/-- An instruction that a re-run reaches again leaves the registers as it left them first, and nothing else. -/
theorem inSegment_again {d : Device} {p : Nat} {f : Device → PRes} {s : CoreStep} (h : (d.panAt p).core.trace[(d.panAt p).core.met]? = some s) :
    inSegment p false f d = .ok (d.updPan p (fun q => q.takeStep s)) := by
  simp only [inSegment, h, Bool.false_eq_true, if_false]

/-- Noting an instruction changes no register, flag or pc. -/
@[simp] theorem Pan.logStep_pc (q : Pan) : q.logStep.pc = q.pc := rfl
@[simp] theorem Pan.logStep_vec (q : Pan) : q.logStep.vec = q.vec := rfl
@[simp] theorem Pan.logStep_arr (q : Pan) : q.logStep.arr = q.arr := rfl
@[simp] theorem Pan.logStep_flags (q : Pan) : q.logStep.flags = q.flags := rfl
@[simp] theorem Pan.setPc_segNo (q : Pan) (a : Nat) : (q.setPc a).core.segNo = q.core.segNo := rfl

end Sys2Proof.Machine
end

