-- ==== Sys2Proof/Laws/Units.lean ====
section
/-! SUPPORT. Updates of one unit: two in a row are one, and what a unit reads as after an update. -/
namespace Sys2Proof.Machine

theorem vmod_vmod {α : Type} {n : Nat} (v : Vector α n) (i : Nat) (f g : α → α) : vmod (vmod v i f) i g = vmod v i (fun x => g (f x)) := by
  unfold vmod
  split <;> simp

theorem vmod_get {α : Type} {n : Nat} (d : α) (v : Vector α n) (i : Nat) (f : α → α) (h : i < n) : vget d (vmod v i f) i = f (vget d v i) := by
  simp [vmod, vget, h]

theorem vmod_const {α : Type} {n : Nat} (d : α) (v : Vector α n) (i : Nat) (f : α → α) : vmod v i (fun _ => f (vget d v i)) = vmod v i f := by
  unfold vmod vget
  split <;> rfl

theorem Device.updPan_updPan (d : Device) (p : Nat) (f g : Pan → Pan) : (d.updPan p f).updPan p g = d.updPan p (fun q => g (f q)) := by
  simp [Device.updPan, vmod_vmod]

theorem Device.updPan_const (d : Device) (p : Nat) (f : Pan → Pan) : d.updPan p (fun _ => f (d.panAt p)) = d.updPan p f := by
  simp [Device.updPan, Device.panAt, vmod_const]

@[simp] theorem Device.panAt_updPan (d : Device) (p : Fin 64) (f : Pan → Pan) : (d.updPan p f).panAt p = f (d.panAt p) := by
  simp [Device.updPan, Device.panAt]

theorem Device.updJob_updJob (d : Device) (j : Nat) (f g : JobSlot → JobSlot) : (d.updJob j f).updJob j g = d.updJob j (fun q => g (f q)) := by
  simp [Device.updJob, vmod_vmod]

@[simp] theorem Device.jobAt_updJob (d : Device) (j : Fin 16) (f : JobSlot → JobSlot) : (d.updJob j f).jobAt j = f (d.jobAt j) := by
  simp [Device.updJob, Device.jobAt]

end Sys2Proof.Machine
end

