-- ==== Sys2Proof/WellFormed.lean ====
section
/-! DEFINITION. Well-formed commands: every field at a value its width in the spec holds. A command outside these bounds is none that the
hardware can meet. -/
namespace Sys2Proof.WellFormed

/-- Bytes. -/
def bytesOk (l : List Nat) : Bool := l.all (fun b => decide (b < 256))

/-- A 32-bit word or register address (00 R14, 19 R504). -/
def wordOk (w : Nat) : Bool := decide (w < 2 ^ 32)

/-- Byte strings, and 32-bit codes. -/
def stringsOk (l : List (List Nat)) : Bool := l.all bytesOk
def wordsOk (l : List Nat) : Bool := l.all wordOk

/-- What a member reports of a step: 32-bit counts and rows of five words (10 R274, R275). -/
def shareOk (x : StepShare) : Bool := wordOk x.samples && wordOk x.tokens && x.casts.all (fun r => decide (r.length = 5) && wordsOk r)

/-- A pan-core register number, a flag index, the width code of SETVL, the condition of BSUM (05 R165). -/
def regOk (r : Nat) : Bool := decide (r < 32)
def flagOk (f : Nat) : Bool := decide (f < 64)
def widthOk (w : Nat) : Bool := decide (w < 3)
def condOk (c : Nat) : Bool := decide (c < 8)

/-- A branch offset of the base format: even, in 13 bits (05 R165). -/
def offsetOk (o : Int) : Bool := decide (o % 2 = 0) && decide (-4096 ≤ o) && decide (o < 4096)

/-- A vector instruction's fields (05 R139). -/
def vinsnOk (v : VInsn) : Bool :=
  decide (v.vd < 32) && decide (v.va < 32) && decide (v.vb < 32) && decide (v.td < 16) && decide (v.ts < 16) && decide (v.rmode < 8)
    && decide (v.rsv < 16) && decide (v.cnt < 32768)

/-- A Bund device identifier (13 R362). -/
def bundIdOk (i : Nat) : Bool := decide (i < 65536)

/-- A transaction's header and data (13 R361). -/
def txnOk (x : Txn) : Bool :=
  decide (x.op < 256) && decide (x.flags < 256) && bundIdOk x.dst && bundIdOk x.src && decide (x.tag < 65536) && decide (x.status < 65536)
    && decide (x.hops < 256) && decide (x.job < 256) && decide (x.addr < 2 ^ 64) && wordOk x.len && bytesOk x.data

/-- A routing request's fields (09 R259). -/
def slReqOk (r : SlReq) : Bool :=
  decide (r.expert < 65536) && wordOk r.token && decide (r.rank < 256) && wordOk r.gate && decide (r.srcPeer < 4096) && decide (r.srcTer < 4)

/-- A flit's header and payload (13 R358). -/
def flitOk (f : FlitIn) : Bool :=
  decide (f.seq < 65536) && decide (f.ackSeq < 65536) && decide (f.vc < 4) && decide (f.kind < 4) && decide (f.cvc < 4)
    && decide (f.credits < 1024) && decide (f.payload.length ≤ 244) && bytesOk f.payload

/-- A flit sequence number. -/
def seqOk (n : Nat) : Bool := decide (n < 65536)

/-- A Quay transport packet's header and data (13 R373). -/
def packetOk (k : Packet) : Bool :=
  decide (k.ver < 16) && decide (k.flags < 256) && wordOk k.flow && wordOk k.psn && wordOk k.ackPsn && wordOk k.msg
    && decide (k.rsv < 2 ^ 24) && decide (k.addr < 2 ^ 64) && decide (k.len < 65536) && bytesOk k.data
    && decide (k.typ < 16) && decide (k.op < 256) && decide (k.mac < 2 ^ 48) && k.vlan.all (fun p => decide (p < 8)) && decide (k.ports.1 < 65536)
    && decide (k.ports.2 < 65536) && bytesOk k.tag && decide (k.taken ≤ 4194304)

/-- The ranges of a SACK: at most 16, of 8 bytes each (13 R373). -/
def rangesOk (l : List (Nat × Nat)) : Bool := decide (l.length ≤ 16) && l.all (fun r => wordOk r.1 && wordOk r.2)

/-- An I3C private write: a 7-bit address, a 16-bit LEN, bytes (18 R478). -/
def frameOk (f : Frame) : Bool := decide (f.addr < 128) && decide (f.len < 65536) && bytesOk f.payload

/-- A hit lies in the device map (06 R173). -/
def hitOk (h : Option Hit) : Bool :=
  match h with
  | none => true
  | some (.panParity a) => decide (a < 2 ^ 48)
  | some (.brineParity a) => decide (a < 2 ^ 48)
  | some (.lpd a _ _) => decide (a < 2 ^ 48)

/-- Pans by number (00 R12). -/
def pansOk (l : List Nat) : Bool := l.all (fun p => decide (p < 64))

/-- PATTERN and OPMODE of LPD_TG_CTRL as its fields hold them (06 R200). -/
def patternOk (p : Nat) : Bool := decide (p < 8)
def opmodeOk (o : Nat) : Bool := decide (o < 4)

end Sys2Proof.WellFormed

namespace Sys2Proof
open WellFormed

/-- Whether a command is well formed. -/
def Instr.wf (i : Instr) : Bool :=
  match i with
  | .panCoreInstruction _ _ _ => true
  | .mxd _ rs1 _ => regOk rs1
  | .cpy _ rs1 _ => regOk rs1
  | .fset _ flag => flagOk flag
  | .fclr _ flag => flagOk flag
  | .fwait _ flag => flagOk flag
  | .fwaitc _ flag => flagOk flag
  | .ftest _ rd flag => regOk rd && flagOk flag
  | .fsetr _ rs1 flag => regOk rs1 && flagOk flag
  | .setvl _ rd rs1 width => regOk rd && regOk rs1 && widthOk width
  | .pdone _ rs1 => regOk rs1
  | .bsum _ cond off => condOk cond && offsetOk off
  | .vmov _ v => vinsnOk v
  | .vcvt _ v => vinsnOk v
  | .vbcast _ v => vinsnOk v
  | .viota _ v => vinsnOk v
  | .vadd _ v => vinsnOk v
  | .vsub _ v => vinsnOk v
  | .vmul _ v => vinsnOk v
  | .vfma _ v => vinsnOk v
  | .vmin _ v => vinsnOk v
  | .vmax _ v => vinsnOk v
  | .vabs _ v => vinsnOk v
  | .vneg _ v => vinsnOk v
  | .vcpsgn _ v => vinsnOk v
  | .viadd _ v => vinsnOk v
  | .visub _ v => vinsnOk v
  | .vimul _ v => vinsnOk v
  | .vand _ v => vinsnOk v
  | .vor _ v => vinsnOk v
  | .vxor _ v => vinsnOk v
  | .vsll _ v => vinsnOk v
  | .vsrl _ v => vinsnOk v
  | .vsra _ v => vinsnOk v
  | .vimin _ v => vinsnOk v
  | .vimax _ v => vinsnOk v
  | .vcmpeq _ v => vinsnOk v
  | .vcmplt _ v => vinsnOk v
  | .vcmple _ v => vinsnOk v
  | .vsel _ v => vinsnOk v
  | .vexp2 _ v => vinsnOk v
  | .vlog2 _ v => vinsnOk v
  | .vrcp _ v => vinsnOk v
  | .vrsqrt _ v => vinsnOk v
  | .vsqrt _ v => vinsnOk v
  | .vtanh _ v => vinsnOk v
  | .vsigm _ v => vinsnOk v
  | .vgelu _ v => vinsnOk v
  | .vsegsum _ v => vinsnOk v
  | .vsegmax _ v => vinsnOk v
  | .vsegmin _ v => vinsnOk v
  | .vperm _ v => vinsnOk v
  | .vslidedn _ v => vinsnOk v
  | .vslideup _ v => vinsnOk v
  | .vrev _ v => vinsnOk v
  | .vld _ v _ => vinsnOk v
  | .vst _ v _ => vinsnOk v
  | .vzbc _ v => vinsnOk v
  | .vlrd _ v => vinsnOk v
  | .vlxrd _ v => vinsnOk v
  | .vlpadd _ v => vinsnOk v
  | .vfence _ v => vinsnOk v
  | .amaxCaptureSelect _ _ _ => true
  | .amaxSlotClear _ _ _ => true
  | .matmul _ _ => true
  | .conv _ _ => true
  | .attend _ _ _ => true
  | .merge _ _ _ => true
  | .rake _ _ => true
  | .append _ _ => true
  | .entryOp _ _ => true
  | .pass _ _ _ => true
  | .panQuarantine _ => true
  | .writeBack _ _ => true
  | .descriptorComplete _ => true
  | .haloTimeout _ => true
  | .copy _ _ hit => hitOk hit
  | .fill _ _ => true
  | .copyTag _ _ hit => hitOk hit
  | .copyComplete _ _ => true
  | .bufferRegenerate _ _ => true
  | .segmentRerun _ => true
  | .bedModeChange _ _ => true
  | .channelMapOut _ _ => true
  | .bedMapOut _ _ => true
  | .testModeEnable _ => true
  | .testModeDisable _ => true
  | .tgGo _ pattern opmode => patternOk pattern && opmodeOk opmode
  | .tgAbort _ => true
  | .tgRunDone _ _ => true
  | .skimCommand _ _ hit => hitOk hit
  | .skimFailed _ => true
  | .select _ hit => hitOk hit
  | .dispatch _ _ hit => hitOk hit
  | .sluiceRequest _ r => slReqOk r
  | .sluiceEnd _ _ _ => true
  | .sluiceGrant _ _ _ _ hit => hitOk hit
  | .sluiceRow _ _ _ data => bytesOk data
  | .combine _ hit => hitOk hit
  | .sluiceRecord _ src _ _ _ _ _ rec => bundIdOk src && bytesOk rec
  | .branch _ hit => hitOk hit
  | .read x hit => txnOk x && hitOk hit
  | .readResp x => txnOk x
  | .write x => txnOk x
  | .writeAck x => txnOk x
  | .ladd x => txnOk x
  | .laddAck x => txnOk x
  | .laddResend => true
  | .chainForward _ _ => true
  | .bundForward x => txnOk x
  | .flagset x => txnOk x
  | .collReady src _ _ share => bundIdOk src && shareOk share
  | .collCommit src _ _ _ share => bundIdOk src && shareOk share
  | .collPhaseToken src _ _ _ => bundIdOk src
  | .collAbort src _ _ _ => bundIdOk src
  | .hold src _ _ => bundIdOk src
  | .holdSend _ _ => true
  | .join src _ _ _ => bundIdOk src
  | .queued src _ => bundIdOk src
  | .partner src _ _ => bundIdOk src
  | .collectiveTimeout _ _ _ => true
  | .bundFlit _ f => flitOk f
  | .nak _ ackSeq => seqOk ackSeq
  | .flitResendLimit _ _ => true
  | .controlFlit _ _ => true
  | .laneFault _ _ => true
  | .portRetrain _ _ => true
  | .bndAuth _ => true
  | .keyEpochInstall _ => true
  | .qtWrite k => packetOk k
  | .qtReadReq k hit => packetOk k && hitOk hit
  | .qtReadResp k => packetOk k
  | .ack k => packetOk k
  | .sack k ranges => packetOk k && rangesOk ranges
  | .openFlow k => packetOk k
  | .closeFlow k => packetOk k
  | .probe k => packetOk k
  | .qtRetxTimer flow => wordOk flow
  | .pfcPauseFrame _ => true
  | .mailboxPost flow _ data => wordOk flow && bytesOk data
  | .devInfo _ => true
  | .flowBind _ => true
  | .partSet _ => true
  | .jobCreate _ => true
  | .jobDestroy _ => true
  | .configStage _ => true
  | .tideAdd _ => true
  | .tideCancel _ => true
  | .powerReq _ => true
  | .warmReset _ => true
  | .jobList _ => true
  | .jobStart _ hit => hitOk hit
  | .jobStopAfterCommit _ => true
  | .jobStopAtOnce _ => true
  | .jobSuspend _ => true
  | .jobResume _ => true
  | .jobQuery _ => true
  | .logRead _ => true
  | .hostlaneOpen _ => true
  | .hostlaneClose _ => true
  | .overrideAdd _ hit => hitOk hit
  | .manifest _ hit => hitOk hit
  | .stepSubmit _ => true
  | .hostlaneReturn _ hit => hitOk hit
  | .batch _ hit => hitOk hit
  | .batchRun _ _ hit _ => hitOk hit
  | .intakeFetch _ _ _ data => bytesOk data
  | .fetchFailed _ _ _ => true
  | .decodeStart _ _ _ => true
  | .decodeComplete _ _ _ => true
  | .decodeBudgetExpired _ _ _ => true
  | .graderBankSwap => true
  | .retryLaneEntry => true
  | .crop _ _ _ => true
  | .resize _ _ _ => true
  | .hflip _ _ _ => true
  | .rot90 _ _ _ => true
  | .jitter _ _ _ => true
  | .reencode _ _ _ => true
  | .tcrop _ _ _ => true
  | .tstride _ _ _ => true
  | .gain _ _ _ => true
  | .resample _ _ _ => true
  | .downmix _ _ _ => true
  | .microbatchClose _ => true
  | .microbatchDispatch _ _ _ pans _ _ _ _ => pansOk pans
  | .redoGate _ _ _ _ => true
  | .redoVerdict _ _ _ _ _ => true
  | .quantumExpiry _ _ _ => true
  | .contextSwitch _ hit => hitOk hit
  | .slowdownReport _ _ => true
  | .flushEnd => true
  | .phase _ => true
  | .commit _ => true
  | .config _ => true
  | .cap _ => true
  | .evalOpen _ => true
  | .evalClose _ => true
  | .snapshot _ => true
  | .evalWindowOpen _ _ => true
  | .evalWindowClose _ _ => true
  | .stepReady _ _ => true
  | .gradientLogAppend _ _ scalars grads total => wordsOk scalars && bytesOk grads && shareOk total
  | .snapshotStart _ _ hit => hitOk hit
  | .snapshotComplete _ _ => true
  | .restoreComplete _ _ entries states _ => stringsOk entries && stringsOk states
  | .ptpSync _ => true
  | .tideHoldover _ => true
  | .tideInEdge => true
  | .tideEdgeLost => true
  | .tideSecondEdge => true
  | .powerEstimate _ => true
  | .fastLimit _ => true
  | .kcalCalibrate => true
  | .modulePowerCheck => true
  | .droopDetect _ => true
  | .droopSkipEnd _ => true
  | .droopHeld _ => true
  | .thermalCeiling => true
  | .thermalThrottle _ => true
  | .thermalTrip _ => true
  | .sensorSample _ _ _ _ _ => true
  | .pawezelRestart => true
  | .bitternPageWrite => true
  | .i3cStatus f => frameOk f
  | .i3cSensors f => frameOk f
  | .i3cLog f => frameOk f
  | .i3cPower f => frameOk f
  | .i3cReset f => frameOk f
  | .updBegin f => frameOk f
  | .updData f => frameOk f
  | .updEnd f => frameOk f
  | .activate f => frameOk f
  | .svnCommit f => frameOk f
  | .nonce f => frameOk f
  | .attest f => frameOk f
  | .certs f => frameOk f
  | .tally f => frameOk f
  | .alarmClear f => frameOk f
  | .debugUnlock f => frameOk f
  | .debugLock f => frameOk f
  | .ownerProvision f => frameOk f
  | .ownerRevoke f => frameOk f
  | .meshBreach => true
  | .glitch => true
  | .jtagAccess => true
  | .sealPass => true
  | .sealHold _ => true
  | .derivedCommit => true
  | .sealHoldTimeout => true
  | .configSetExpiry _ => true
  | .glbLockWrite _ w => wordOk w
  | .wmWrite _ addr w => wordOk addr && wordOk w
  | .rcRead _ addr => wordOk addr
  | .tideTimeLatch => true
  | .energyLatch addr => wordOk addr
  | .registerWrite _ addr w => wordOk addr && wordOk w
  | .inputPowerApplied _ => true
  | .pwrEnRise => true
  | .pwrEnFall => true
  | .modResetNAssert => true
  | .modResetNRelease => true
  | .bringupResume => true
  | .hostPortWake => true
  | .inputOvervoltage _ => true
  | .inputUndervoltage _ => true
  | .inputHoldup _ => true
  | .inputPowerLost => true
  | .inputRecovered _ => true
  | .recordRequestAgain src _ _ => bundIdOk src
  | .dynamicAddressAssignment _ => true
  | .hostPortLinkUp _ => true
  | .pawezelWarmReset => true
  | .glitchWindowExpiry => true

end Sys2Proof
end

