-- ==== Sys2Proof/Tests/Slice0.lean ====
section
/-! SUPPORT. Tests: ill-formed commands refused, the worked examples of the spec, and a witness for the hypotheses of each statement. -/
namespace Sys2Proof.Tests
set_option Elab.async false
open Sys2Proof Sys2Proof.Machine

/-! ### Small devices -/

/-- The reset device with a device map that reads as zero. -/
def zdev : Device := { State.reset.dev with mem := {} }

/-- A job record, a topology of one member and a peer, a program of one pan. -/
def wRec : JobRec :=
  { seed := 1, evalSeed := 2, n := 2, serving := false, strict := false, sliced := false, treatLog := false, visChannels := 1, fill := 0
    fillY := 0, fillCb := 0, fillCr := 0, share := 1, patchW := 16, patchH := 16, patchF := 1, hop := 160, aug := [], nflow := 3
    naddr := 64, firstStep := 5, restore := 0, restoreStep := 0 }
def wPeer : Peer := { bundId := 9, child := false, partner := true, slot := 1 }
def wTopo : Topo := { selfId := 4, peers := [wPeer], routes := [(9, 2)], dpSize := 1, dpPos := 0, parent := none, nmemb := 1 }
def wProg : Program :=
  { pans := 1, memMib := 1, layers := 1, images := [], bufs := [], redo := [], ckpt := 0, chain := [], data := [], digest := [] }
def wSetup : JobSetup := { jr := wRec, topo := wTopo, prog := wProg, recipes := [], policy := {} }
def wResv : Resv := { part := 0, stageMib := 1, memGib := 1, stageDev := 0, data := [], save := [] }

/-- A device whose slot 0 holds a running job with the given changes, on pan 0. -/
def wJob (f : JobSlot → JobSlot) : Device :=
  (zdev.updJob 0 (fun q => f { q with state := .running, setup := some wSetup, resv := some wResv, nextStep := 5, resident := true })).updPan 0
    (fun p => { p with job := some (0, 0) })

/-- The same with a buffer of 4,096 bytes. -/
def wBuf (base kind src : Nat) : BufEntry := { base := base, len := 4096, kind := kind, source := toLE 8 src ++ List.replicate 8 0 }
def wBufJob (b : BufEntry) : Device := wJob (fun q => { q with setup := some { wSetup with prog := { wProg with bufs := [b] } } })

/-- The same device as Bund device 4, with a route to device 9 by port 2, which carries flits. -/
def wFab (f : JobSlot → JobSlot) : Device :=
  { (wJob f).updPort 2 (fun p => { p with state := .full }) with fab := { selfId := some 4, routes := [(9, 2)] } }

theorem legal_base : ({ State.reset.dev with free := 17 } : Device).Legal { fuses := State.reset.dev.fuses, level := 0 } :=
  { fused := rfl, clock := by decide, alarm := by decide, floor := by decide, power := by decide +kernel, memory := by decide +kernel }


/-- The sub-pass and the step 5 of the witnesses, and a device whose job serves that step in a topology. -/
def wStep : Step :=
  { num := 5, sub := { epoch := 0, posFirst := 0, posCount := 2, tbudget := 64, hyper := 0, globalCount := 2 } }
def wStepDev (t : Topo) (f : Step → Step) : Device :=
  (wFab id).updJob 0 (fun q => { q with setup := some { wSetup with topo := t }, steps := [f wStep] })

/-- A command posted in a mailbox, without a notice flow. -/
def wCmd (m code : Nat) (p : List Nat) (d : Device) : Device :=
  let e := d.mbxWrite m 0 (toLE 4 (2 ^ 30) ++ toLE 2 code ++ toLE 2 p.length ++ toLE 4 0 ++ [255, 255, 0, 0] ++ List.replicate 48 0 ++ p)
  { e with quy := { e.quy with posted := e.quy.posted ++ [m] } }

/-- A device whose host port is up, with one flow 5 of the management class. -/
def wHost : Device :=
  { wFab id with eth := { (wFab id).eth with state := 2 }, quy := { (wFab id).quy with flows := [{ id := 5, binding := some 0xFF }] } }

/-- The same with the flow bound to slot 0, and its job suspended. -/
def wJobHost : Device := { wHost with quy := { wHost.quy with flows := [{ id := 5, binding := some 0 }] } }
def wSusp : Device := wJobHost.updJob 0 (fun q => { q with state := .suspended, resident := false })

/-! ### Ill-formed commands are refused -/

theorem test_illformed_refused :
    (Instr.mxd 0 32 none).wf = false ∧ (Instr.fset 0 64).wf = false ∧ (Instr.setvl 0 1 2 3).wf = false ∧ (Instr.bsum 0 8 0).wf = false
      ∧ (Instr.bsum 0 0 5).wf = false ∧ (Instr.vmov 0 { vd := 32 }).wf = false ∧ (Instr.fsetr 0 32 0).wf = false := by decide

theorem test_illformed_engine_refused :
    (Instr.copy 0 0 (some (.panParity (2 ^ 48)))).wf = false ∧ (Instr.tgGo 0 8 0).wf = false ∧ (Instr.tgGo 0 0 4).wf = false
      ∧ (Instr.sluiceRequest 0 { expert := 65536, token := 0, rank := 0, gate := 0, srcPeer := 0, srcTer := 0, srcLocal := true }).wf = false
      ∧ (Instr.sluiceRow 0 0 0 [256]).wf = false ∧ (Instr.microbatchDispatch 0 0 0 [64] 0 0 [] []).wf = false := by decide

theorem test_illformed_link_refused :
    (Instr.read { op := 256, dst := 0, src := 0 } none).wf = false ∧ (Instr.hold 65536 0 0).wf = false
      ∧ (Instr.bundFlit 0 { seq := 65536, ackSeq := 0, vc := 0, kind := 0 }).wf = false ∧ (Instr.nak 0 65536).wf = false
      ∧ (Instr.qtWrite { typ := 1, flow := 2 ^ 32 }).wf = false ∧ (Instr.sack { typ := 3, flow := 0 } [(2 ^ 32, 0)]).wf = false := by decide

theorem test_illformed_agent_refused :
    (Instr.i3cStatus { addr := 128, len := 0 }).wf = false ∧ (Instr.wmWrite .renura 0 (2 ^ 32)).wf = false := by decide +kernel

theorem test_wellformed_accepted :
    (Instr.mxd 63 31 none).wf = true ∧ (Instr.bsum 0 7 (-4096)).wf = true ∧ (Instr.tgGo 127 7 3).wf = true
      ∧ (Instr.copy 0 0 (some (.panParity (2 ^ 48 - 1)))).wf = true
      ∧ (Instr.sluiceRow 0 0 0 [255]).wf = true := by decide

/-! ### Number formats: the worked examples of 02 -/

theorem test_e4m3_rounding :
    convertVal (fp32V 0x43E60000) .e4m3 .rne false false 0 = { code := 0x7E }
      ∧ convertVal (fp32V 0x43E80000) .e4m3 .rne false false 0 = { code := 0x7E }
      ∧ convertVal (fp32V 0x43E80001) .e4m3 .rne false false 0 = { code := 0x7E, flags := { overflow := true, satAny := true }, sat := 1 }
      ∧ convertVal (fp32V 0x43E08000) .e4m3 .rup false false 0 = { code := 0x7E, flags := { overflow := true, satAny := true }, sat := 1 }
      ∧ convertVal (fp32V 0x43E80001) .e4m3 .rne false true 0 = { code := 0x7F, flags := { overflow := true, nanOut := true } } := by
  decide +kernel

theorem test_e4m3_subnormal :
    convertVal (fp32V 0x3B400000) .e4m3 .rne false false 0 = { code := 0x02 }
      ∧ convertVal (fp32V 0x3B400000) .e4m3 .rne true false 0 = { code := 0x00, flags := .fl true } := by decide +kernel

theorem test_e5m2_stochastic :
    (convertVal (fp32V 0x40A80000) .e5m2 .rne false false 0).code = 0x45
      ∧ (convertVal (fp32V 0x40A80000) .e5m2 .sr false false 0x3FFFFFFF).code = 0x46
      ∧ (convertVal (fp32V 0x40A80000) .e5m2 .sr false false 0x40000000).code = 0x45 := by decide +kernel

/-! ### The Ledger: the worked examples of 03 -/

theorem test_ledger_write_back :
    let e : LEntry := { l := 2 ^ 256, negz := false, terms := true }
    (e.writeBack (decodeVal .e8m0 0x85) (fp32V 0x3FC00000) none .bf16 .rne false 0).conv = { code := 0x3DC0 }
      ∧ (e.writeBack (decodeVal .e8m0 0x85) (fp32V 0x3FC00000) (some (fp32V 0xBD800000)) .bf16 .rne false 0).conv = { code := 0x3D00 } := by
  decide +kernel

theorem test_ledger_overflow_and_nan :
    let e : LEntry := { l := 0xC4000000 * 2 ^ 266, negz := false, terms := true }
    (e.writeBack (decodeVal .e8m0 0x7F) (fp32V 0x7F000000) none .fp32 .rne false 0).conv = { code := 0x7F800000, flags := { overflow := true } }
      ∧ (({ e with nan := true } : LEntry).writeBack (decodeVal .e8m0 0x7F) (fp32V 0x7F000000) none .fp32 .rne false 0).conv
        = { code := 0x7FC00000, flags := { nanOut := true } } := by decide +kernel

theorem test_ledger_product_of_e5m2 :
    let e := [(0x7B, 0x7B), (0x7E, 0x3C), (0x3C, 0x3C), (0xBC, 0x3C)].foldl
      (fun (e : LEntry) q => e.product (decodeVal .e5m2 q.1) (decodeVal .e5m2 q.2) false) LEntry.cleared
    e.nan = true ∧ e.terms = true ∧ e.pinf = false ∧ e.negz = false ∧ e.invalid = false := by decide +kernel

theorem test_split : split32 0x3F804008 = (0x3F80, some (0x3B00, 0x3580)) ∧ split32 0x3F800000 = (0x3F80, some (0, 0)) := by decide +kernel

theorem test_spill_of_cancelling_chunk :
    chunkSpills 52 (-266) [(decodeVal .bf16 0x4B80, decodeVal .bf16 0x4B80), (decodeVal .bf16 0x3A80, decodeVal .bf16 0x3A80),
      (decodeVal .bf16 0xCB80, decodeVal .bf16 0x4B80), (decodeVal .bf16 0, decodeVal .bf16 0)] = true
      ∧ chunkSpills 52 (-266) [(decodeVal .bf16 0x4B80, decodeVal .bf16 0x4B80), (decodeVal .bf16 0xCB80, decodeVal .bf16 0x4B80)] = false := by
  decide +kernel

theorem test_packed_record_e4m3 :
    (canonicalRecord { l := 2 ^ 256, negz := false, terms := true }).bytes = [0x28, 0x00, 0x21, 0x00, 0x01, 0x00, 0x00, 0x00] := by
  decide +kernel

theorem test_packed_record_e5m2 :
    (canonicalRecord { l := 0xC4000000 * 2 ^ 266, negz := false, terms := true, nan := true }).words = [0x00590829, 0x00000310] := by
  decide +kernel

theorem test_heritage_ties :
    let p := fun (c : Nat) => (decodeVal .e5m2 c, decodeVal .e5m2 c)
    (heritageFold 8 24 none ([p 0x78] ++ List.replicate 7 (p 0) ++ [p 0x48] ++ List.replicate 7 (p 0) ++ [p 0x48] ++ List.replicate 7 (p 0))).1
      = some 0x4E800000 := by decide +kernel

/-! ### The vector engine and the array -/

/-- Registers v1 and v2 of pan 0 hold the operands of the VPERM example of 05. -/
def permDevice : Device :=
  State.reset.dev.updPan 0 (fun q =>
    (q.vwrite 1 .fp32 [0x3F800000, 0x40000000, 0x40400000, 0x40800000, 0x40A00000, 0x40C00000]).vwrite 2 .int32
      [5, 0, 6, 0xFFFFFFFF, 2, 2])
def permInsn : VInsn := { vd := 3, va := 1, vb := 2, sum := true, cnt := 6 }

theorem test_vperm :
    let q := (permDevice.runLane 0 (fun d => vPerm d 0 permInsn)).panAt 0
    q.velems 3 .fp32 6 = [0x40C00000, 0x3F800000, 0, 0, 0x40400000, 0x40400000] ∧ q.vec.index = true
      ∧ q.vec.vsum = { max := 0x40C00000, min := 0, sum := 0x41500000, nz := 4, nan := 0, allZero := false } := by decide +kernel

theorem test_exp2 : exp2Fn 0x3F000000 = { code := 0x3FB504F3 } := by decide +kernel

theorem test_rotation_of_an_eighth_turn : sincos 0x2000000000000000 = (0x3F3504F3, 0x3F3504F3) := by decide +kernel

theorem test_attention_weights :
    weightOf (fp32V 0x3FC00000) 2 = some (0x3F3504F3, 1) ∧ weightOf (fp32V 0xC0000000) 2 = some (0x3D800000, 4)
      ∧ weightOf (fp32V 0x40400000) 3 = some (0x3F800000, 0) := by decide +kernel

theorem test_attention_quotient : (convertRat false 39455206 46466291 .bf16 .rne false 0).code = 0x3F59 := by decide +kernel

theorem test_cast_scales :
    scaleCode 0xC66666 (-22) 0 .e4m3 0 0xFE = 0x78 ∧ scaleCode 0xA3D70A (-29) 1 .e5m2 0 0xFE = 0x6B ∧ scaleCode 0 0 4 .int8 0 0xFE = 0x7F := by
  decide +kernel

theorem test_casts :
    (convertVal (mulVal (fp32V 0x40466666) (.fin false 1 7)).1 .e4m3 .rne false false 0).code = 0x7C
      ∧ (convertVal (mulVal (fp32V 0x3C23D70A) (.fin false 1 7)).1 .e4m3 .rne false false 0).code = 0x3A
      ∧ (convertVal (mulVal (fp32V 0x3D4CCCCD) (.fin false 1 20)).1 .e5m2 .rne false false 0).code = 0x7A
      ∧ (convertVal (mulVal (fp32V 0x3DA3D70A) (.fin false 1 20)).1 .e5m2 .rne false false 0)
        = { code := 0x7B, flags := { overflow := true, satAny := true }, sat := 1 } := by decide +kernel

/-! ### Memory, media, power, registers -/

/-- The reset device with local channel 5 of Terrace 2 mapped out. -/
def channelDevice : Device := State.reset.dev.updTer 2 (fun t => { t with chans := 0xFFFFFFDF })

theorem test_interleave : channelOf channelDevice 0x0092345678C0 = 87 := by decide +kernel

theorem test_declared_dimensions : dimsBad 1 4000 3000 4096 64 = true ∧ dimsBad 1 4000 3000 6000 64 = false := by decide +kernel

theorem test_dc_block :
    idct (5 :: List.replicate 63 0) (16 :: List.replicate 63 0) = List.replicate 64 0x8A
      ∧ idct (-3 :: List.replicate 63 0) (16 :: List.replicate 63 0) = List.replicate 64 0x7A := by decide +kernel

theorem test_fast_limit :
    fastLimit 485000 425000 60000 64 = (54, true) ∧ fastLimit 418600 425000 60000 54 = (54, false)
      ∧ fastLimit 485000 450000 60000 64 = (58, true) := by decide +kernel

theorem test_thermal_ceiling :
    ceilingW 90 480 2 10 20000000 false = 2050 ∧ ceilingW 90 520 0 1 20000000 false = 1900 := by decide +kernel

/-- The registers after a WM write of 0x00F000A5 to GLB_SCRATCH0 over 0x1234. -/
def scratchDevice : Device := { State.reset.dev with glb := { State.reset.dev.glb with scratch := State.reset.dev.glb.scratch.set 0 0x1234 } }

theorem test_wm_write :
    (match execWmWrite .renura 0x20 0x00F000A5 { dev := scratchDevice, pending := [] } with
      | .next s => regValue s.dev 0x20
      | _ => 0) = 0x12A4 := by decide +kernel

/-- A COMBINE-free Sluice command whose expert table stands at 0, the STAT words at 4,096; expert 1 with CAP 3 and its slot table at 8,192. -/
def sluiceCmd : SluiceF := { sluiceF (List.replicate 64 0) with e := 4, stat := 4096, ksel := 2 }
def sluiceDevice : Device :=
  zdev.store 32 (toLE 8 0 ++ toLE 8 0 ++ toLE 8 8192 ++ toLE 4 64 ++ toLE 2 3 ++ [0x00, 0x80])
def sluiceAsk (t : Nat) : SlReq := { expert := 1, token := t, rank := 0, gate := 0, srcPeer := 0, srcTer := 0, srcLocal := true }

/-- The requests for expert 1 of the example of 09 in an order of arrival: tokens 0, 1 and 2 are admitted, four are skipped. -/
theorem test_sluice_admission :
    let d := admitExpert 0 sluiceCmd ([7, 3, 0, 5, 2, 4, 1].map sluiceAsk) sluiceDevice 1
    d.mem.readLE 4100 4 = 0x00040003 ∧ [0, 1, 2].map (fun k => d.mem.readLE (8192 + 16 * k) 4) = [0, 1, 2] ∧ (d.engAt 0).skips = 4 := by
  decide +kernel

theorem test_idle_tick : (match step State.reset with | .next s => s.dev.tide.ns | _ => 0) = 1 := by decide +kernel

theorem test_no_word_spells_a_command : decodeTableWord 32 0 = none ∧ State.reset.withFetchWord 32 0 = State.reset := by decide +kernel

/-! ### Digests against their published vectors -/

theorem test_crc32c : crc32c [0x31, 0x32, 0x33, 0x34, 0x35, 0x36, 0x37, 0x38, 0x39] = 0xE3069283 := by decide +kernel

theorem test_philox_zero : philox 0 0 [0, 0, 0, 0] = [0x6627e8d5, 0xe169c58d, 0xbc57ac4c, 0x9b00dbd8] := by decide +kernel

/-- A byte stream of H.264 put together from 7.3.2.1 and 7.3.2.2: 8 × 6 macroblocks, profile 66 with constraint_set1_flag, and an IDR slice. -/
theorem test_avc_header :
    (match videoHeads 3 (videoUnits 3 ([0, 0, 0, 1, 0x67, 0x42, 0x40, 0x0A, 0xF8, 0x41, 0xA2] ++ [0, 0, 1, 0x68, 0xCE, 0x38, 0x80] ++ [0, 0, 1, 0x65, 0x88, 0x84])) with
      | .ok hs => hs.map (fun (h : VideoHead) => (h.width, h.height, headSupported 3 h))
      | .error _ => []) = [(128, 96, true)] := by decide

/-- An OBU stream put together from AV1 5.5: 640 × 480, Main profile, and a key frame; without the frame there is no header (12 R327). -/
theorem test_av1_header :
    (match videoHeads 5 (videoUnits 5 ([0x12, 0, 0x0A, 11, 0, 0, 0, 0x24, 0xC4, 0xFF, 0xDF, 0, 0x68, 0x02, 0] ++ [0x32, 2, 0x10, 0])) with
      | .ok hs => hs.map (fun (h : VideoHead) => (h.width, h.height, headSupported 5 h))
      | .error _ => []) = [(640, 480, true)] := by decide

/-- The first odd row of the 8-point matrix of H.265 8.6.4.2. -/
theorem test_hevc_matrix : (List.range 8).map (dctAt 8 1) = [89, 75, 50, 18, -18, -50, -75, -89] := by decide

/-! ### The hypotheses of every statement are met

One theorem a statement; a conjunct for each clause with hypotheses. -/

theorem witness_EveryStepKeepsTheDeviceLegal :
    ∃ (s : State) (z : Fuses), s.dev.Legal { fuses := z, level := 0 } :=
  ⟨{ dev := { State.reset.dev with free := 17 } }, State.reset.dev.fuses, legal_base⟩

theorem witness_AlarmLevelFallsOnlyByAlarmClear :
    ∃ (c : Instr) (s : State) (z : Fuses), (∀ f, c ≠ .alarmClear f) ∧ s.dev.Legal { fuses := z, level := 0 } :=
  ⟨.flushEnd, { dev := { State.reset.dev with free := 17 } }, State.reset.dev.fuses, (fun _ h => Instr.noConfusion h), legal_base⟩

theorem witness_IntegerLaneInstructions :
    (∃ (p : Fin 64) (v : VInsn) (d : Device), VectorReady d p (.lanes vInts) v)
      ∧ (∃ (p : Fin 64) (v : VInsn) (d : Device), VectorReady d p (.lanes vInts) v)
      ∧ (∃ (p : Fin 64) (v : VInsn) (d : Device), VectorReady d p (.lanes vInts) v) :=
  ⟨⟨0, { vd := 3, va := 1, vb := 2, td := 8, ts := 8, cnt := 5 }, State.reset.dev, (by decide +kernel)⟩,
    ⟨0, { vd := 3, va := 1, vb := 2, td := 10, ts := 10, cnt := 5 }, State.reset.dev, (by decide +kernel)⟩,
    ⟨0, { vd := 3, va := 1, vb := 2, td := 11, ts := 11, cnt := 5 }, State.reset.dev, (by decide +kernel)⟩⟩

theorem witness_FloatLaneInstructions :
    (∃ (p : Fin 64) (v : VInsn) (d : Device), VectorReady d p (.lanes vTypes) v)
      ∧ (∃ (p : Fin 64) (v : VInsn) (d : Device), VectorReady d p (.lanes vArith) v)
      ∧ (∃ (p : Fin 64) (v : VInsn) (d : Device), VectorReady d p (.lanes vArith) v)
      ∧ (∃ (p : Fin 64) (v : VInsn) (d : Device), VectorReady d p (.lanes vArith) v)
      ∧ (∃ (p : Fin 64) (v : VInsn) (d : Device), VectorReady d p (.lanes vFloats) v)
      ∧ (∃ (p : Fin 64) (v : VInsn) (d : Device), VectorReady d p (.lanes vFloats) v)
      ∧ (∃ (p : Fin 64) (v : VInsn) (d : Device), VectorReady d p (.lanes vTypes) v) :=
  ⟨⟨0, { vd := 3, va := 1, vb := 2, td := 4, ts := 4, cnt := 5 }, State.reset.dev, (by decide +kernel)⟩,
    ⟨0, { vd := 3, va := 1, vb := 2, td := 0, ts := 0, cnt := 5 }, State.reset.dev, (by decide +kernel)⟩,
    ⟨0, { vd := 3, va := 1, vb := 2, td := 1, ts := 1, cnt := 5 }, State.reset.dev, (by decide +kernel)⟩,
    ⟨0, { vd := 3, va := 1, vb := 2, td := 2, ts := 2, cnt := 5 }, State.reset.dev, (by decide +kernel)⟩,
    ⟨0, { vd := 3, va := 1, vb := 2, td := 3, ts := 3, cnt := 5 }, State.reset.dev, (by decide +kernel)⟩,
    ⟨0, { vd := 3, va := 1, vb := 2, td := 4, ts := 4, cnt := 5 }, State.reset.dev, (by decide +kernel)⟩,
    ⟨0, { vd := 3, va := 1, vb := 2, td := 1, ts := 1, cnt := 5 }, State.reset.dev, (by decide +kernel)⟩⟩

theorem witness_ComparisonAndFunctionInstructions :
    (∃ (p : Fin 64) (v : VInsn) (d : Device), VectorReady d p (.cmp) v)
      ∧ (∃ (p : Fin 64) (v : VInsn) (d : Device), VectorReady d p (.lanes vArith) v)
      ∧ (∃ (p : Fin 64) (v : VInsn) (d : Device), VectorReady d p (.lanes vArith) v)
      ∧ (∃ (p : Fin 64) (v : VInsn) (d : Device), VectorReady d p (.lanes vArith) v) :=
  ⟨⟨0, { vd := 3, va := 1, vb := 2, td := 11, ts := 0, cnt := 5 }, State.reset.dev, (by decide +kernel)⟩,
    ⟨0, { vd := 3, va := 1, vb := 2, td := 0, ts := 0, cnt := 5 }, State.reset.dev, (by decide +kernel)⟩,
    ⟨0, { vd := 3, va := 1, vb := 2, td := 1, ts := 1, cnt := 5 }, State.reset.dev, (by decide +kernel)⟩,
    ⟨0, { vd := 3, va := 1, vb := 2, td := 2, ts := 2, cnt := 5 }, State.reset.dev, (by decide +kernel)⟩⟩

theorem witness_SegmentInstructions :
    (∃ (p : Fin 64) (v : VInsn) (d : Device), VectorReady d p (.lanes vTypes) v ∧ (d.panAt p).xreg v.vb ≠ 0)
      ∧ (∃ (p : Fin 64) (v : VInsn) (d : Device), VectorReady d p (.lanes vTypes) v ∧ (d.panAt p).xreg v.vb = 0) :=
  ⟨⟨0, { vd := 3, va := 1, vb := 2, td := 0, ts := 0, cnt := 5 }, State.reset.dev.updPan 0 (fun q => q.setX 2 3), (by decide +kernel)⟩,
    ⟨0, { vd := 3, va := 1, vb := 0, td := 0, ts := 0, cnt := 5 }, State.reset.dev, (by decide +kernel)⟩⟩

theorem witness_RearrangingAndConverting :
    (∃ (p : Fin 64) (v : VInsn) (d : Device), VectorReady d p (.lanes vTypes) v)
      ∧ (∃ (p : Fin 64) (v : VInsn) (d : Device), VectorReady d p (.lanes [.int32, .int16]) v)
      ∧ (∃ (p : Fin 64) (v : VInsn) (d : Device), VectorReady d p (.lanes vTypes) v)
      ∧ (∃ (p : Fin 64) (v : VInsn) (d : Device), VectorReady d p (.perm) v)
      ∧ (∃ (p : Fin 64) (v : VInsn) (d : Device), VectorReady d p (.cvt) v) :=
  ⟨⟨0, { vd := 3, va := 1, vb := 2, td := 0, ts := 0, cnt := 5 }, State.reset.dev, (by decide +kernel)⟩,
    ⟨0, { vd := 3, va := 1, vb := 2, td := 11, ts := 11, cnt := 5 }, State.reset.dev, (by decide +kernel)⟩,
    ⟨0, { vd := 3, va := 1, vb := 2, td := 8, ts := 8, cnt := 5 }, State.reset.dev, (by decide +kernel)⟩,
    ⟨0, { vd := 3, va := 1, vb := 2, td := 0, ts := 0, cnt := 5 }, State.reset.dev, (by decide +kernel)⟩,
    ⟨0, { vd := 3, va := 1, td := 3, ts := 0, cnt := 5, rmode := 1, ftz := true, ovfSp := true }, State.reset.dev, (by decide +kernel)⟩⟩

theorem witness_VectorLoadAndStore :
    (∃ (p : Fin 64) (v : VInsn) (d : Device), VectorReady d p (.lanes vTypes) v ∧ vMisaligned (d.panAt p) v = false ∧ ((List.range (vCount v
      (d.panAt p))).any (fun i => (d.panAt p).holds ((vBase (d.panAt p) v).1 + i * (vBase (d.panAt p) v).2) ((vfD v).width / 8)) = false))
      ∧ (∃ (p : Fin 64) (v : VInsn) (hit : Option Nat) (d : Device), VectorReady d p (.lanes vTypes) v ∧ vMisaligned (d.panAt p) v = true)
      ∧ (∃ (p : Fin 64) (v : VInsn) (a : Nat) (d : Device), VectorReady d p (.lanes vTypes) v ∧ vMisaligned (d.panAt p) v = false ∧ ((List.range
        (vCount v (d.panAt p))).any (fun i => (d.panAt p).holds ((vBase (d.panAt p) v).1 + i * (vBase (d.panAt p) v).2) ((vfD v).width / 8)) =
        false) ∧ ((List.range (vCount v (d.panAt p))).any (fun i => ((parityHit d p a).panAt p).holds ((vBase (d.panAt p) v).1 + i * (vBase
        (d.panAt p) v).2) ((vfD v).width / 8)) = true))
      ∧ (∃ (p : Fin 64) (v : VInsn) (a : Nat) (d : Device), VectorReady d p (.lanes vTypes) v ∧ (vfD v).width < 32 ∧ vMisaligned (d.panAt p) v =
        false ∧ ((List.range (vCount v (d.panAt p))).any (fun i => (d.panAt p).holds ((vBase (d.panAt p) v).1 + i * (vBase (d.panAt p) v).2) ((vfD
        v).width / 8)) = false) ∧ ((List.range (vCount v (d.panAt p))).any (fun i => ((parityHit d p a).panAt p).holds ((vBase (d.panAt p) v).1 +
        i * (vBase (d.panAt p) v).2) ((vfD v).width / 8)) = true))
      ∧ (∃ (p : Fin 64) (v : VInsn) (hit : Option Nat) (d : Device), VectorReady d p (.lanes vTypes) v ∧ vMisaligned (d.panAt p) v = false ∧
        ((List.range (vCount v (d.panAt p))).any (fun i => (d.panAt p).holds ((vBase (d.panAt p) v).1 + i * (vBase (d.panAt p) v).2) ((vfD
        v).width / 8)) = true)) :=
  ⟨⟨0, { vd := 3, va := 0, vb := 0, td := 0, ts := 0, cnt := 5 }, State.reset.dev, (by decide +kernel)⟩,
    ⟨0, { vd := 3, va := 1, vb := 0, td := 0, ts := 0, cnt := 5 }, none, State.reset.dev.updPan 0 (fun q => q.setX 1 2), (by decide +kernel)⟩,
    ⟨0, { vd := 3, va := 0, vb := 0, td := 0, ts := 0, cnt := 32 }, 64, State.reset.dev, (by decide +kernel)⟩,
    ⟨0, { vd := 3, va := 0, vb := 0, td := 1, ts := 1, cnt := 64 }, 64, State.reset.dev, (by decide +kernel)⟩,
    ⟨0, { vd := 3, va := 0, vb := 0, td := 0, ts := 0, cnt := 5 }, none, State.reset.dev.updPan 0 (fun q => { q with held := [0] }),
      (by decide +kernel)⟩⟩

theorem witness_StoreTouchesOnlyItsBytes :
    ∃ (p : Fin 64) (v : VInsn) (d : Device), VectorReady d p (.lanes vTypes) v ∧ vMisaligned (d.panAt p) v = false ∧ ((List.range (vCount v
      (d.panAt p))).any (fun i => (d.panAt p).holds ((vBase (d.panAt p) v).1 + i * (vBase (d.panAt p) v).2) ((vfD v).width / 8)) = false) :=
  ⟨0, { vd := 3, va := 0, vb := 0, td := 0, ts := 0, cnt := 5 }, State.reset.dev, (by decide +kernel)⟩

theorem witness_CompressedFenceAndLedgerInstructions :
    (∃ (p : Fin 64) (v : VInsn) (d : Device), VectorReady d p (.zbc) v ∧ (d.panAt p).xreg v.vb % 4 = 0 ∧ (d.panAt p).holds ((d.panAt p).xreg v.vb)
      ((splitEvery 256 (vCount v (d.panAt p)) ((d.panAt p).velems v.va (vfD v) (vCount v (d.panAt p)))).flatMap (zbcUnitBytes (vfD v))).length =
      false)
      ∧ (∃ (p : Fin 64) (v : VInsn) (d : Device), VectorReady d p (.fence) v)
      ∧ (∃ (p : Fin 64) (v : VInsn) (d : Device), VectorReady d p (.lrd) v ∧ lentBusy d p v = false ∧ (vfD v = .fp32 ∨ (List.range (vCount v
        (d.panAt p))).any (fun i => ((d.panAt p).entry (lentAt v i).1 (lentAt v i).2).heritage.isSome) = false))
      ∧ (∃ (p : Fin 64) (v : VInsn) (d : Device), VectorReady d p (.lxrd) v ∧ lentBusy d p v = false ∧ ((List.range (vCount v (d.panAt p))).any
        (fun i => ((d.panAt p).entry (lentAt v i).1 (lentAt v i).2).heritage.isSome) = false))
      ∧ (∃ (p : Fin 64) (v : VInsn) (d : Device), VectorReady d p (.lxrd) v ∧ lentBusy d p v = false ∧ ((List.range (vCount v (d.panAt p))).any
        (fun i => ((d.panAt p).entry (lentAt v i).1 (lentAt v i).2).heritage.isSome) = true))
      ∧ (∃ (p : Fin 64) (v : VInsn) (d : Device), VectorReady d p (.lpadd) v ∧ lentBusy d p v = false ∧ ((List.range (vCount v (d.panAt p))).any
        (fun i => ((d.panAt p).entry (lentAt v i).1 (lentAt v i).2).heritage.isSome) = false) ∧ ((List.range (vCount v (d.panAt p))).any (fun i =>
        ((d.panAt p).row (lentAt v i).1).attn) = false) ∧ (lpadds v (d.panAt p) (List.range (vCount v (d.panAt p))) (d.panAt p)).2 = none)
      ∧ (∃ (p : Fin 64) (v : VInsn) (d : Device), VectorReady d p (.lpadd) v ∧ lentBusy d p v = false ∧ ((List.range (vCount v (d.panAt p))).any
        (fun i => ((d.panAt p).entry (lentAt v i).1 (lentAt v i).2).heritage.isSome) = true))
      ∧ (∃ (p : Fin 64) (v : VInsn) (d : Device), VectorReady d p (.lpadd) v ∧ lentBusy d p v = false ∧ ((List.range (vCount v (d.panAt p))).any
        (fun i => ((d.panAt p).entry (lentAt v i).1 (lentAt v i).2).heritage.isSome) = false) ∧ ((List.range (vCount v (d.panAt p))).any (fun i =>
        ((d.panAt p).row (lentAt v i).1).attn) = true))
      ∧ (∃ (p : Fin 64) (v : VInsn) (c : Cause × Nat) (d : Device), VectorReady d p (.lpadd) v ∧ lentBusy d p v = false ∧ ((List.range (vCount v
        (d.panAt p))).any (fun i => ((d.panAt p).entry (lentAt v i).1 (lentAt v i).2).heritage.isSome) = false) ∧ ((List.range (vCount v (d.panAt
        p))).any (fun i => ((d.panAt p).row (lentAt v i).1).attn) = false) ∧ (lpadds v (d.panAt p) (List.range (vCount v (d.panAt p))) (d.panAt
        p)).2 = some c)
      ∧ (∃ (p : Fin 64) (v : VInsn) (d : Device), VectorReady d p (.lrd) v ∧ lentBusy d p v = false ∧ ((List.range (vCount v (d.panAt p))).any
        (fun i => ((d.panAt p).entry (lentAt v i).1 (lentAt v i).2).heritage.isSome) = true) ∧ vfD v ≠ .fp32)
      ∧ (∃ (p : Fin 64) (v : VInsn) (d : Device), VectorReady d p (.lrd) v ∧ lentBusy d p v = true)
      ∧ (∃ (p : Fin 64) (v : VInsn) (d : Device), VectorReady d p (.lxrd) v ∧ lentBusy d p v = true)
      ∧ (∃ (p : Fin 64) (v : VInsn) (d : Device), VectorReady d p (.lpadd) v ∧ lentBusy d p v = true) :=
  ⟨⟨0, { vd := 3, va := 1, vb := 0, td := 8, ts := 8, cnt := 40 }, State.reset.dev, (by decide +kernel)⟩,
    ⟨0, { va := 3, vb := 16, td := 0, ts := 0 }, State.reset.dev, (by decide +kernel)⟩,
    ⟨0, { vd := 3, va := 0, td := 0, ts := 0, cnt := 3 }, State.reset.dev.updPan 0 (fun q => q.setEntry 0 1
      { heritage := some { acc := some 5 } }), (by decide +kernel)⟩,
    ⟨0, { vd := 3, va := 1, td := 11, ts := 11, cnt := 2 }, State.reset.dev, (by decide +kernel)⟩,
    ⟨0, { vd := 3, va := 0, td := 11, ts := 11, cnt := 2 }, State.reset.dev.updPan 0 (fun q => q.setEntry 0 1 { heritage := some {} }),
      (by decide +kernel)⟩,
    ⟨0, { vd := 3, va := 0, td := 11, ts := 11, cnt := 2 }, State.reset.dev, (by decide +kernel)⟩,
    ⟨0, { vd := 3, va := 0, td := 11, ts := 11, cnt := 2 }, State.reset.dev.updPan 0 (fun q => q.setEntry 0 1 { heritage := some {} }),
      (by decide +kernel)⟩,
    ⟨0, { vd := 3, va := 0, td := 11, ts := 11, cnt := 2 }, State.reset.dev.updPan 0 (fun q =>
      { q with arr := { q.arr with rows := [(0, { attn := true })] } }), (by decide +kernel)⟩,
    ⟨0, { vd := 3, va := 0, td := 11, ts := 11, cnt := 1 }, (.ledgerRec, 0x0703), (State.reset.dev.updPan 0 (fun q => q.vwrite 3 .int32
      (List.replicate 19 4294967295))), (by decide +kernel)⟩,
    ⟨0, { vd := 3, va := 0, td := 2, ts := 2, cnt := 2 }, State.reset.dev.updPan 0 (fun q => q.setEntry 0 1 { heritage := some {} }),
      (by decide +kernel)⟩,
    ⟨0, { vd := 3, va := 0, td := 0, ts := 0, cnt := 2 }, State.reset.dev.updPan 0 (fun q =>
      { q with arr := { q.arr with queue := [{ words := [0x10000000, 0x202, 0, 0, 0, 0, 0, 0] }] } }), (by decide +kernel)⟩,
    ⟨0, { vd := 3, va := 0, td := 11, ts := 11, cnt := 2 }, State.reset.dev.updPan 0 (fun q =>
      { q with arr := { q.arr with queue := [{ words := [0x10000000, 0x202, 0, 0, 0, 0, 0, 0] }] } }), (by decide +kernel)⟩,
    ⟨0, { vd := 3, va := 0, td := 11, ts := 11, cnt := 2 }, State.reset.dev.updPan 0 (fun q =>
      { q with arr := { q.arr with queue := [{ words := [0x10000000, 0x202, 0, 0, 0, 0, 0, 0] }] } }), (by decide +kernel)⟩⟩

theorem witness_VectorFieldFaults :
    ∃ (p : Fin 64) (v : VInsn) (hit : Option Nat) (d : Device) (c : Cause) (st : Nat), CoreTakes d p ∧ (d.panAt p).droopSkip = 0 :=
  ⟨0, { rsv := 1 }, none, State.reset.dev, .illegal, stReserved, (by decide +kernel)⟩

theorem witness_VectorRegisterReadBack :
    (∃ (q : Pan) (r : Nat) (f : Fmt) (cs : List Nat) (i : Nat), packedBytes f cs.length ≤ 16384 ∧ i < cs.length)
      ∧ (∃ (q : Pan) (r s b : Nat) (f : Fmt) (cs : List Nat), packedBytes f cs.length ≤ 16384 ∧ b < 16384 ∧ (s ≠ r ∨ packedBytes f cs.length ≤ b)) :=
  ⟨⟨{}, 31, .e2m3, [1, 2, 70, 4, 5], 2, (by decide +kernel)⟩,
    ⟨{}, 31, 31, 4, .fp32, [1], (by decide +kernel)⟩⟩

theorem witness_FlagInstructions :
    (∃ (p : Fin 64) (flag : Nat) (d : Device), CoreTakes d p)
      ∧ (∃ (p : Fin 64) (flag : Nat) (d : Device), CoreTakes d p ∧ (d.panAt p).flag flag = true)
      ∧ (∃ (p : Fin 64) (flag : Nat) (d : Device), CoreTakes d p ∧ (d.panAt p).flag flag = false)
      ∧ (∃ (p : Fin 64) (rd flag : Nat) (d : Device), CoreTakes d p) :=
  ⟨⟨0, 63, State.reset.dev, (by decide +kernel)⟩,
    ⟨0, 63, State.reset.dev.updPan 0 (fun q => q.setFlag 63), (by decide +kernel)⟩,
    ⟨0, 63, State.reset.dev, (by decide +kernel)⟩,
    ⟨0, 5, 63, State.reset.dev, (by decide +kernel)⟩⟩

theorem witness_FlagsSetAndCleared :
    ∃ (q : Pan) (f g : Nat), f < 64 ∧ g < 64 :=
  ⟨{}, 63, 0, (by decide +kernel)⟩

theorem witness_PanExtensionIssue :
    (∃ (p : Fin 64) (rs1 : Nat) (ws : List Nat) (d : Device), CoreTakes d p ∧ issueWords d p ((d.panAt p).xreg rs1) = some (.ok ws) ∧ (d.panAt
      p).arr.queue.length < 8)
      ∧ (∃ (p : Fin 64) (rs1 : Nat) (ws : List Nat) (d : Device), CoreTakes d p ∧ issueWords d p ((d.panAt p).xreg rs1) = some (.ok ws) ∧ 8 ≤
        (d.panAt p).arr.queue.length)
      ∧ (∃ (p : Fin 64) (rs1 : Nat) (hit : Option Nat) (d : Device), CoreTakes d p ∧ (d.panAt p).xreg rs1 % 32 ≠ 0)
      ∧ (∃ (p : Fin 64) (rs1 : Nat) (hit : Option Nat) (d : Device), CoreTakes d p ∧ issueWords d p ((d.panAt p).xreg rs1) = some (.error
        .access))
      ∧ (∃ (p : Fin 64) (rs1 : Nat) (hit : Option Nat) (d : Device), CoreTakes d p ∧ issueWords d p ((d.panAt p).xreg rs1) = none)
      ∧ (∃ (p : Fin 64) (rs1 a : Nat) (ws : List Nat) (d : Device), CoreTakes d p ∧ issueWords d p ((d.panAt p).xreg rs1) = some (.ok ws) ∧
        issueWords (parityHit d p a) p ((d.panAt p).xreg rs1) = none ∧ ((d.panAt p).arr.queue.length < 8 ∧ copiesOf d p < 8 ∧ (d.engAt (p /
        16)).mayQueue (.pan p) (((d.panAt p).job.map Prod.fst).getD 16) = true))
      ∧ (∃ (p : Fin 64) (rs1 : Nat) (ws : List Nat) (d : Device), CoreTakes d p ∧ issueWords d p ((d.panAt p).xreg rs1) = some (.ok ws) ∧ copiesOf
        d p < 8 ∧ (d.engAt (p / 16)).mayQueue (.pan p) (((d.panAt p).job.map Prod.fst).getD 16) = true)
      ∧ (∃ (p : Fin 64) (rs1 : Nat) (ws : List Nat) (d : Device), CoreTakes d p ∧ issueWords d p ((d.panAt p).xreg rs1) = some (.ok ws) ∧ 8 ≤
        copiesOf d p)
      ∧ (∃ (p : Fin 64) (rs1 : Nat) (ws : List Nat) (d : Device), CoreTakes d p ∧ issueWords d p ((d.panAt p).xreg rs1) = some (.ok ws) ∧ copiesOf
        d p < 8 ∧ (d.engAt (p / 16)).mayQueue (.pan p) (((d.panAt p).job.map Prod.fst).getD 16) = false) :=
  ⟨⟨0, 1, List.replicate 8 0, State.reset.dev.updPan 0 (fun q => q.setX 1 0x100020), (by decide +kernel)⟩,
    ⟨0, 1, List.replicate 8 0, State.reset.dev.updPan 0 (fun q =>
      { (q.setX 1 0x100020) with arr := { q.arr with queue := List.replicate 8 { words := [] } } }), (by decide +kernel)⟩,
    ⟨0, 1, none, State.reset.dev.updPan 0 (fun q => q.setX 1 0x100008), (by decide +kernel)⟩,
    ⟨0, 1, none, State.reset.dev.updPan 0 (fun q => q.setX 1 0x20000), (by decide +kernel)⟩,
    ⟨0, 1, none, State.reset.dev.updPan 0 (fun q => { q.setX 1 0x10000000 with held := [0] }), (by decide +kernel)⟩,
    ⟨0, 1, 0, (List.replicate 8 0), { zdev.updPan 0 (fun q => q.setX 1 0x10000000) with free := 17 }, (by decide +kernel)⟩,
    ⟨0, 1, List.replicate 8 0, State.reset.dev.updPan 0 (fun q => q.setX 1 0x100020), (by decide +kernel)⟩,
    ⟨0, 1, List.replicate 8 0, (State.reset.dev.updPan 0 (fun q => q.setX 1 0x100020)).updEng 0 (fun e =>
      { e with copies := List.replicate 8 { id := 0, words := [], issuer := .pan 0 } }), (by decide +kernel)⟩,
    ⟨0, 1, List.replicate 8 0, (State.reset.dev.updPan 0 (fun q => q.setX 1 0x100020)).updEng 0 (fun e => { e with waiters := [(.pan 3, 2)] }),
      (by decide +kernel)⟩⟩

theorem witness_PanExtensionControl :
    (∃ (p : Fin 64) (rs1 flag t : Nat) (d : Device), CoreTakes d p ∧ fsetrTarget d p ((d.panAt p).xreg rs1) = some t)
      ∧ (∃ (p : Fin 64) (rs1 flag : Nat) (d : Device), CoreTakes d p ∧ fsetrTarget d p ((d.panAt p).xreg rs1) = none)
      ∧ (∃ (p : Fin 64) (rd rs1 width : Nat) (d : Device), CoreTakes d p ∧ (d.panAt p).core.machine = true ∧ width ≤ 2)
      ∧ (∃ (p : Fin 64) (rd rs1 width : Nat) (d : Device), CoreTakes d p ∧ ((d.panAt p).core.machine = false ∨ 2 < width))
      ∧ (∃ (p : Fin 64) (rs1 : Nat) (d : Device), CoreTakes d p ∧ (d.panAt p).xreg rs1 % 65536 = 0)
      ∧ (∃ (p : Fin 64) (rs1 : Nat) (d : Device), CoreTakes d p ∧ (d.panAt p).xreg rs1 % 65536 ≠ 0)
      ∧ (∃ (p : Fin 64) (cond : Nat) (off : Int) (d : Device), CoreTakes d p ∧ cond ≤ 5)
      ∧ (∃ (p : Fin 64) (cond : Nat) (off : Int) (d : Device), CoreTakes d p ∧ 5 < cond) :=
  ⟨⟨0, 1, 9, 63, State.reset.dev.updPan 0 (fun q => { (q.setX 1 63) with core := { (q.setX 1 63).core with machine := true } }),
      (by decide +kernel)⟩,
    ⟨0, 1, 9, State.reset.dev, (by decide +kernel)⟩,
    ⟨0, 4, 1, 2, State.reset.dev.updPan 0 (fun q => { q with core := { q.core with machine := true } }), (by decide +kernel)⟩,
    ⟨0, 4, 1, 0, State.reset.dev, (by decide +kernel)⟩,
    ⟨0, 0, State.reset.dev, (by decide +kernel)⟩,
    ⟨0, 1, State.reset.dev.updPan 0 (fun q => q.setX 1 0x104), (by decide +kernel)⟩,
    ⟨0, 5, -16, State.reset.dev, (by decide +kernel)⟩,
    ⟨0, 6, 8, State.reset.dev, (by decide +kernel)⟩⟩

theorem witness_PanCoreInstructions :
    (∃ (p : Fin 64) (rd rs1 rs2 : Nat) (d : Device), CoreTakes d p ∧ (d.panAt p).droopSkip = 0 ∧ (d.panAt p).pc + 4 ≤ 0x20000 ∧ (rd < 32 ∧ rs1 <
      32 ∧ rs2 < 32) ∧ ofLE (bmRead (d.panAt p).core.imem (d.panAt p).pc 4) = encR 0 rs2 rs1 0 rd 0x33 ∧ (d.panAt p).core.done = none)
      ∧ (∃ (p : Fin 64) (rd rs1 rs2 : Nat) (d : Device), CoreTakes d p ∧ (d.panAt p).droopSkip = 0 ∧ (d.panAt p).pc + 4 ≤ 0x20000 ∧ (rd < 32 ∧ rs1
        < 32 ∧ rs2 < 32) ∧ ofLE (bmRead (d.panAt p).core.imem (d.panAt p).pc 4) = encR 32 rs2 rs1 0 rd 0x33 ∧ (d.panAt p).core.done = none)
      ∧ (∃ (p : Fin 64) (rd rs1 : Nat) (imm : Int) (d : Device), CoreTakes d p ∧ (d.panAt p).droopSkip = 0 ∧ (d.panAt p).pc + 4 ≤ 0x20000 ∧ (rd <
        32 ∧ rs1 < 32 ∧ -2048 ≤ imm ∧ imm < 2048) ∧ ofLE (bmRead (d.panAt p).core.imem (d.panAt p).pc 4) = encI imm rs1 0 rd 0x13 ∧ (d.panAt
        p).core.done = none)
      ∧ (∃ (p : Fin 64) (rs1 rs2 : Nat) (off : Int) (d : Device), CoreTakes d p ∧ (d.panAt p).droopSkip = 0 ∧ (d.panAt p).pc + 4 ≤ 0x20000 ∧ (rs1
        < 32 ∧ rs2 < 32 ∧ -4096 ≤ off ∧ off < 4096 ∧ off % 2 = 0) ∧ ofLE (bmRead (d.panAt p).core.imem (d.panAt p).pc 4) = encB off rs2 rs1 0 ∧
        (d.panAt p).core.done = none)
      ∧ (∃ (p : Fin 64) (rd : Nat) (off : Int) (d : Device), CoreTakes d p ∧ (d.panAt p).droopSkip = 0 ∧ (d.panAt p).pc + 4 ≤ 0x20000 ∧ (rd < 32 ∧
        -1048576 ≤ off ∧ off < 1048576 ∧ off % 2 = 0) ∧ ofLE (bmRead (d.panAt p).core.imem (d.panAt p).pc 4) = encJ off rd ∧ (d.panAt p).core.done
        = none)
      ∧ (∃ (p : Fin 64) (d : Device), CoreTakes d p ∧ (d.panAt p).droopSkip = 0 ∧ (d.panAt p).pc + 4 ≤ 0x20000 ∧ ofLE (bmRead (d.panAt
        p).core.imem (d.panAt p).pc 4) = 0x73)
      ∧ (∃ (p : Fin 64) (d : Device), coreReady d p = true ∧ (d.panAt p).droopSkip = 0) :=
  ⟨⟨0, 1, 2, 3, State.reset.dev.updPan 0 (fun q => { q with core := { q.core with imem := bmWrite [] 0 (toLE 4 (encR 0 3 2 0 1 0x33)) } }),
      (by decide +kernel)⟩,
    ⟨0, 1, 2, 3, State.reset.dev.updPan 0 (fun q => { q with core := { q.core with imem := bmWrite [] 0 (toLE 4 (encR 32 3 2 0 1 0x33)) } }),
      (by decide +kernel)⟩,
    ⟨0, 1, 2, -5, State.reset.dev.updPan 0 (fun q => { q with core := { q.core with imem := bmWrite [] 0 (toLE 4 (encI (-5) 2 0 1 0x13)) } }),
      (by decide +kernel)⟩,
    ⟨0, 2, 3, -8, State.reset.dev.updPan 0 (fun q => { q with core := { q.core with imem := bmWrite [] 0 (toLE 4 (encB (-8) 3 2 0)) } }),
      (by decide +kernel)⟩,
    ⟨0, 1, -2048, State.reset.dev.updPan 0 (fun q => { q with core := { q.core with imem := bmWrite [] 0 (toLE 4 (encJ (-2048) 1)) } }),
      (by decide +kernel)⟩,
    ⟨0, State.reset.dev.updPan 0 (fun q => { q with core := { q.core with imem := bmWrite [] 0 (toLE 4 0x73) } }), (by decide +kernel)⟩,
    ⟨0, State.reset.dev, (by decide +kernel)⟩⟩

theorem witness_SegmentRerunAndQuarantine :
    (∃ (p : Fin 64) (h : Halt) (d : Device), (d.panAt p).core.halt = some h ∧ h.cause = .recover ∧ (d.panAt p).core.hits < 3 ∧ d.panOn p = true)
      ∧ (∃ (p : Fin 64) (v : VInsn) (x : CoreStep) (rd rs1 k : Nat) (off : Int) (hit : Option Nat) (d : Device), coreReady d p = true ∧ (d.panAt
        p).droopSkip = 0 ∧ (d.panAt p).core.trace[(d.panAt p).core.met]? = some x)
      ∧ (∃ (p : Fin 64) (d : Device), (d.panAt p).core.halt = none)
      ∧ (∃ (p : Fin 64) (h : Halt) (d : Device), (d.panAt p).core.halt = some h ∧ (h.cause ≠ .recover ∨ 3 ≤ (d.panAt p).core.hits ∨ d.panOn p =
        false))
      ∧ (∃ (p : Fin 64) (d : Device), d.panOn p = true ∧ (3 ≤ (d.panAt p).arr.consec ∨ 3 ≤ (d.panAt p).core.hits))
      ∧ (∃ (p : Fin 64) (d : Device), (((d.panAt p).arr.consec < 3 ∧ (d.panAt p).core.hits < 3) ∨ d.panOn p = false)) :=
  ⟨⟨0, { cause := .recover, status := 0 }, State.reset.dev.updPan 0 (fun q =>
      { q with core := { q.core with halt := some { cause := .recover, status := 0 }, hits := 2 } }), (by decide +kernel)⟩,
    ⟨0, {}, ({} : Pan).coreStep, 1, 1, 0, 8, none, State.reset.dev.updPan 0 (fun q => q.logStep.rerun), (by decide +kernel)⟩,
    ⟨0, State.reset.dev, (by decide +kernel)⟩,
    ⟨0, { cause := .align, status := 0 }, State.reset.dev.updPan 0 (fun q =>
      { q with core := { q.core with halt := some { cause := .align, status := 0 } } }), (by decide +kernel)⟩,
    ⟨0, State.reset.dev.updPan 0 (fun q => { q with arr := { q.arr with consec := 3 } }), (by decide +kernel)⟩,
    ⟨0, State.reset.dev, (by decide +kernel)⟩⟩

theorem witness_MatrixDescriptorAndPasses :
    (∃ (p : Fin 64) (q : Desc) (d : Device), d.headOn p = some q ∧ q.phase = .waiting ∧ ((mxd q.words).op = 1 ∨ (mxd q.words).op = 0 ∨ 4 < (mxd
      q.words).op) ∧ (d.panAt p).rerunning = false ∧ ((startSpans d p (mxd q.words) (mxd q.words).tile).any (fun s => (d.panAt p).holds s.1 s.2) =
      false) ∧ matmulChecks d p (mxd q.words) (d.panAt p).arr.tile ≠ 0)
      ∧ (∃ (p : Fin 64) (q : Desc) (d : Device), d.headOn p = some q ∧ q.phase = .waiting ∧ ((mxd q.words).op = 1 ∨ (mxd q.words).op = 0 ∨ 4 <
        (mxd q.words).op) ∧ (d.panAt p).rerunning = false ∧ ((startSpans d p (mxd q.words) (mxd q.words).tile).any (fun s => (d.panAt p).holds s.1
        s.2) = false) ∧ matmulChecks d p (mxd q.words) (d.panAt p).arr.tile = 0 ∧ (mxd q.words).ready (d.panAt p) = false)
      ∧ (∃ (p : Fin 64) (q : Desc) (d : Device), d.headOn p = some q ∧ q.phase = .waiting ∧ ((mxd q.words).op = 1 ∨ (mxd q.words).op = 0 ∨ 4 <
        (mxd q.words).op) ∧ (d.panAt p).rerunning = false ∧ ((startSpans d p (mxd q.words) (mxd q.words).tile).any (fun s => (d.panAt p).holds s.1
        s.2) = false) ∧ matmulChecks d p (mxd q.words) (d.panAt p).arr.tile = 0 ∧ (mxd q.words).ready (d.panAt p) = true ∧ (mxd q.words).m ≠ 0 ∧
        heritageBad (d.panAt p) (mxd q.words) = false)
      ∧ (∃ (p : Fin 64) (q : Desc) (d : Device), d.headOn p = some q ∧ q.phase = .waiting ∧ ((mxd q.words).op = 1 ∨ (mxd q.words).op = 0 ∨ 4 <
        (mxd q.words).op) ∧ (d.panAt p).rerunning = false ∧ ((startSpans d p (mxd q.words) (mxd q.words).tile).any (fun s => (d.panAt p).holds s.1
        s.2) = false) ∧ matmulChecks d p (mxd q.words) (d.panAt p).arr.tile = 0 ∧ (mxd q.words).ready (d.panAt p) = true ∧ (mxd q.words).m = 0)
      ∧ (∃ (p : Fin 64) (q : Desc) (d : Device), d.headOn p = some q ∧ q.phase = .waiting ∧ ((mxd q.words).op = 1 ∨ (mxd q.words).op = 0 ∨ 4 <
        (mxd q.words).op) ∧ (d.panAt p).rerunning = false ∧ ((startSpans d p (mxd q.words) (mxd q.words).tile).any (fun s => (d.panAt p).holds s.1
        s.2) = false) ∧ matmulChecks d p (mxd q.words) (d.panAt p).arr.tile = 0 ∧ (mxd q.words).ready (d.panAt p) = true ∧ (mxd q.words).m ≠ 0 ∧
        heritageBad (d.panAt p) (mxd q.words) = true)
      ∧ (∃ (p : Fin 64) (hit : Option Nat) (d : Device), (∀ q, d.headOn p = some q → ¬((mxd q.words).op = 1 ∨ (mxd q.words).op = 0 ∨ 4 < (mxd
        q.words).op) ∨ q.phase ≠ .waiting ∨ (d.panAt p).rerunning = true))
      ∧ (∃ (p : Fin 64) (q : Desc) (a : Nat) (d : Device), d.headOn p = some q ∧ q.phase = .waiting ∧ ((mxd q.words).op = 1 ∨ (mxd q.words).op = 0
        ∨ 4 < (mxd q.words).op) ∧ (d.panAt p).rerunning = false ∧ ((startSpans d p (mxd q.words) (mxd q.words).tile).any (fun s => (d.panAt
        p).holds s.1 s.2) = false) ∧ (startSpans d p (mxd q.words) (mxd q.words).tile).any (inSpan a) = true)
      ∧ (∃ (p : Fin 64) (q : Desc) (hit : Option Nat) (d : Device), d.headOn p = some q ∧ q.phase = .waiting ∧ ((mxd q.words).op = 1 ∨ (mxd
        q.words).op = 0 ∨ 4 < (mxd q.words).op) ∧ (d.panAt p).rerunning = false ∧ ((startSpans d p (mxd q.words) (mxd q.words).tile).any (fun s =>
        (d.panAt p).holds s.1 s.2) = true ∨ (∃ a, hit = some a ∧ (startSpans d p (mxd q.words) (mxd q.words).tile).any (inSpan a) = false)))
      ∧ (∃ (p : Fin 64) (q : Desc) (d : Device), d.headOn p = some q ∧ q.phase = .waiting ∧ (mxd q.words).op = 2 ∧ (d.panAt p).rerunning = false ∧
        ((startSpans d p (mxd q.words) (mxd q.words).tile).any (fun s => (d.panAt p).holds s.1 s.2) = false) ∧ convChecks d p (mxd q.words)
        (d.panAt p).arr.tile ≠ 0)
      ∧ (∃ (p : Fin 64) (q : Desc) (d : Device), d.headOn p = some q ∧ q.phase = .waiting ∧ (mxd q.words).op = 2 ∧ (d.panAt p).rerunning = false ∧
        ((startSpans d p (mxd q.words) (mxd q.words).tile).any (fun s => (d.panAt p).holds s.1 s.2) = false) ∧ convChecks d p (mxd q.words)
        (d.panAt p).arr.tile = 0 ∧ (mxd q.words).ready (d.panAt p) = false)
      ∧ (∃ (p : Fin 64) (q : Desc) (d : Device), d.headOn p = some q ∧ q.phase = .waiting ∧ (mxd q.words).op = 2 ∧ (d.panAt p).rerunning = false ∧
        ((startSpans d p (mxd q.words) (mxd q.words).tile).any (fun s => (d.panAt p).holds s.1 s.2) = false) ∧ convChecks d p (mxd q.words)
        (d.panAt p).arr.tile = 0 ∧ (mxd q.words).ready (d.panAt p) = true ∧ (mxd q.words).m ≠ 0 ∧ heritageBad (d.panAt p) (mxd q.words) = false)
      ∧ (∃ (p : Fin 64) (q : Desc) (d : Device), d.headOn p = some q ∧ q.phase = .waiting ∧ (mxd q.words).op = 2 ∧ (d.panAt p).rerunning = false ∧
        ((startSpans d p (mxd q.words) (mxd q.words).tile).any (fun s => (d.panAt p).holds s.1 s.2) = false) ∧ convChecks d p (mxd q.words)
        (d.panAt p).arr.tile = 0 ∧ (mxd q.words).ready (d.panAt p) = true ∧ (mxd q.words).m = 0)
      ∧ (∃ (p : Fin 64) (q : Desc) (d : Device), d.headOn p = some q ∧ q.phase = .waiting ∧ (mxd q.words).op = 2 ∧ (d.panAt p).rerunning = false ∧
        ((startSpans d p (mxd q.words) (mxd q.words).tile).any (fun s => (d.panAt p).holds s.1 s.2) = false) ∧ convChecks d p (mxd q.words)
        (d.panAt p).arr.tile = 0 ∧ (mxd q.words).ready (d.panAt p) = true ∧ (mxd q.words).m ≠ 0 ∧ heritageBad (d.panAt p) (mxd q.words) = true)
      ∧ (∃ (p : Fin 64) (hit : Option Nat) (d : Device), (∀ q, d.headOn p = some q → ¬((mxd q.words).op = 2) ∨ q.phase ≠ .waiting ∨ (d.panAt
        p).rerunning = true))
      ∧ (∃ (p : Fin 64) (q : Desc) (a : Nat) (d : Device), d.headOn p = some q ∧ q.phase = .waiting ∧ (mxd q.words).op = 2 ∧ (d.panAt p).rerunning
        = false ∧ ((startSpans d p (mxd q.words) (mxd q.words).tile).any (fun s => (d.panAt p).holds s.1 s.2) = false) ∧ (startSpans d p (mxd
        q.words) (mxd q.words).tile).any (inSpan a) = true)
      ∧ (∃ (p : Fin 64) (q : Desc) (hit : Option Nat) (d : Device), d.headOn p = some q ∧ q.phase = .waiting ∧ (mxd q.words).op = 2 ∧ (d.panAt
        p).rerunning = false ∧ ((startSpans d p (mxd q.words) (mxd q.words).tile).any (fun s => (d.panAt p).holds s.1 s.2) = true ∨ (∃ a, hit =
        some a ∧ (startSpans d p (mxd q.words) (mxd q.words).tile).any (inSpan a) = false)))
      ∧ (∃ (p : Fin 64) (q : Desc) (d : Device), d.headOn p = some q ∧ q.passesLeft = true ∧ ((mxd q.words).op = 1 ∨ (mxd q.words).op = 2) ∧
        d.arrayIssues p = true ∧ (d.panAt p).arr.consec < 3 ∧ haloReady d p (mxd q.words) q.row = true ∧ ((passSpans d p (mxd q.words) ((d.panAt
        p).arr.tile.getD (mxd q.words).tile) q.row).any (fun s => (d.panAt p).holds s.1 s.2) = false))
      ∧ (∃ (p : Fin 64) (bad : Bool) (hit : Option Nat) (d : Device), (∀ q, d.headOn p = some q → q.passesLeft = false ∨ ¬((mxd q.words).op = 1 ∨
        (mxd q.words).op = 2) ∨ d.arrayIssues p = false ∨ 3 ≤ (d.panAt p).arr.consec ∨       haloReady d p (mxd q.words) q.row = false))
      ∧ (∃ (p : Fin 64) (q : Desc) (a : Nat) (bad : Bool) (d : Device), d.headOn p = some q ∧ q.passesLeft = true ∧ ((mxd q.words).op = 1 ∨ (mxd
        q.words).op = 2) ∧ d.arrayIssues p = true ∧ (d.panAt p).arr.consec < 3 ∧ haloReady d p (mxd q.words) q.row = true ∧ ((passSpans d p (mxd
        q.words) ((d.panAt p).arr.tile.getD (mxd q.words).tile) q.row).any (fun s => (d.panAt p).holds s.1 s.2) = false) ∧ (passSpans d p (mxd
        q.words) ((d.panAt p).arr.tile.getD (mxd q.words).tile) q.row).any (inSpan a) = true)
      ∧ (∃ (p : Fin 64) (q : Desc) (hit : Option Nat) (bad : Bool) (d : Device), d.headOn p = some q ∧ q.passesLeft = true ∧ ((mxd q.words).op = 1
        ∨ (mxd q.words).op = 2) ∧ d.arrayIssues p = true ∧ (d.panAt p).arr.consec < 3 ∧ haloReady d p (mxd q.words) q.row = true ∧ ((passSpans d p
        (mxd q.words) ((d.panAt p).arr.tile.getD (mxd q.words).tile) q.row).any (fun s => (d.panAt p).holds s.1 s.2) = true ∨ (∃ a, hit = some a ∧
        (passSpans d p (mxd q.words) ((d.panAt p).arr.tile.getD (mxd q.words).tile) q.row).any (inSpan a) = false))) :=
  ⟨⟨0, { words := [0x51100000, 0x200, 0x2000000, 0, 0, 0, 0, 0] }, (zdev.updPan 0 (fun q =>
      { q with arr := { q.arr with queue := [{ words := [0x51100000, 0x200, 0x2000000, 0, 0, 0, 0, 0] }] } })), (by decide +kernel)⟩,
    ⟨0, { words := [0x11100000, 0x201, 0x2000000, 0, 0, 0, 0x16000000, 0] }, (zdev.updPan 0 (fun q =>
      { q with arr := { q.arr with queue := [{ words := [0x11100000, 0x201, 0x2000000, 0, 0, 0, 0x16000000, 0] }] } })), (by decide +kernel)⟩,
    ⟨0, { words := [0x11100000, 0x80000201, 0x2000000, 0, 0, 0, 0, 0] }, (zdev.updPan 0 (fun q =>
      { q with arr := { q.arr with queue := [{ words := [0x11100000, 0x80000201, 0x2000000, 0, 0, 0, 0, 0] }] } })), (by decide +kernel)⟩,
    ⟨0, { words := [0x11100000, 1, 0x2000000, 0, 0, 0, 0, 0] }, (zdev.updPan 0 (fun q =>
      { q with arr := { q.arr with queue := [{ words := [0x11100000, 1, 0x2000000, 0, 0, 0, 0, 0] }] } })), (by decide +kernel)⟩,
    ⟨0, { words := [0x11100000, 0x201, 0x2000000, 0, 0, 0, 0, 0] }, ((zdev.updPan 0 (fun q => q.setEntry 0 0 { heritage := some {} })).updPan 0
      (fun q => { q with arr := { q.arr with queue := [{ words := [0x11100000, 0x201, 0x2000000, 0, 0, 0, 0, 0] }] } })), (by decide +kernel)⟩,
    ⟨0, none, (zdev.updPan 0 (fun q => { q with arr := { q.arr with queue := [{ words := [0x41100000, 0x201, 0x2000000, 0, 0, 0, 0, 0] }] } })),
      (by intro q h; rw [show Device.headOn _ _ = _ from rfl] at h; exact Or.inl (by cases h; decide +kernel))⟩,
    ⟨0, { words := [0x11100000, 0x201, 0x2000000, 0, 0, 0, 0, 0] }, 0, (zdev.updPan 0 (fun q =>
      { q with arr := { q.arr with queue := [{ words := [0x11100000, 0x201, 0x2000000, 0, 0, 0, 0, 0] }] } })), (by decide +kernel)⟩,
    ⟨0, { words := [0x11100000, 0x201, 0x2000000, 0, 0, 0, 0, 0] }, (some 0x1800000), (zdev.updPan 0 (fun q =>
      { q with arr := { q.arr with queue := [{ words := [0x11100000, 0x201, 0x2000000, 0, 0, 0, 0, 0] }] } })), (by exact ⟨by decide +kernel,
      by decide +kernel, by decide +kernel, by decide +kernel,  Or.inr ⟨_, rfl, by decide +kernel⟩⟩)⟩,
    ⟨0, { words := [0x21100000, 0x200, 0x2000000, 0, 0, 0, 0, 0] }, (zdev.updPan 0 (fun q =>
      { q with arr := { q.arr with queue := [{ words := [0x21100000, 0x200, 0x2000000, 0, 0, 0, 0, 0] }] } })), (by decide +kernel)⟩,
    ⟨0, { words := [0x21100000, 0x201, 0x100000, 0, 0, 0, 0x16000000, 0] }, (((zdev.psWrite 0 20 (toLE 4 512)).psWrite 0 512 ([0x40000000, 0x4,
      0x10000, 0x1, 0x1000001, 0x0, 0x4, 0x0, 0x0, 0x0, 0x1, 0x0, 0x0, 0x0, 0x0, 0x1].flatMap (toLE 4))).updPan 0 (fun q =>
      { q with arr := { q.arr with queue := [{ words := [0x21100000, 0x201, 0x100000, 0, 0, 0, 0x16000000, 0] }] } })), (by decide +kernel)⟩,
    ⟨0, { words := [0x21100000, 0x80000201, 0x100000, 0, 0, 0, 0, 0] }, (((zdev.psWrite 0 20 (toLE 4 512)).psWrite 0 512 ([0x40000000, 0x4,
      0x10000, 0x1, 0x1000001, 0x0, 0x4, 0x0, 0x0, 0x0, 0x1, 0x0, 0x0, 0x0, 0x0, 0x1].flatMap (toLE 4))).updPan 0 (fun q =>
      { q with arr := { q.arr with queue := [{ words := [0x21100000, 0x80000201, 0x100000, 0, 0, 0, 0, 0] }] } })), (by decide +kernel)⟩,
    ⟨0, { words := [0x21100000, 1, 0x100000, 0, 0, 0, 0, 0] }, (((zdev.psWrite 0 20 (toLE 4 512)).psWrite 0 512 ([0x40000000, 0x4, 0x10000, 0x1,
      0x1000001, 0x0, 0x4, 0x0, 0x0, 0x0, 0x1, 0x0, 0x0, 0x0, 0x0, 0x1].flatMap (toLE 4))).updPan 0 (fun q =>
      { q with arr := { q.arr with queue := [{ words := [0x21100000, 1, 0x100000, 0, 0, 0, 0, 0] }] } })), (by decide +kernel)⟩,
    ⟨0, { words := [0x21100000, 0x201, 0x100000, 0, 0, 0, 0, 0] }, ((((zdev.psWrite 0 20 (toLE 4 512)).psWrite 0 512 ([0x40000000, 0x4, 0x10000,
      0x1, 0x1000001, 0x0, 0x4, 0x0, 0x0, 0x0, 0x1, 0x0, 0x0, 0x0, 0x0, 0x1].flatMap (toLE 4))).updPan 0 (fun q =>
      { q with arr := { q.arr with queue := [{ words := [0x21100000, 0x201, 0x100000, 0, 0, 0, 0, 0] }] } })).updPan 0 (fun q => q.setEntry 0 0
      { heritage := some {} })), (by decide +kernel)⟩,
    ⟨0, none, (zdev.updPan 0 (fun q => { q with arr := { q.arr with queue := [{ words := [0x41100000, 0x201, 0x2000000, 0, 0, 0, 0, 0] }] } })),
      (by intro q h; rw [show Device.headOn _ _ = _ from rfl] at h; exact Or.inl (by cases h; decide +kernel))⟩,
    ⟨0, { words := [0x21100000, 0x201, 0x100000, 0, 0, 0, 0, 0] }, 0, (((zdev.psWrite 0 20 (toLE 4 512)).psWrite 0 512 ([0x40000000, 0x4, 0x10000,
      0x1, 0x1000001, 0x0, 0x4, 0x0, 0x0, 0x0, 0x1, 0x0, 0x0, 0x0, 0x0, 0x1].flatMap (toLE 4))).updPan 0 (fun q =>
      { q with arr := { q.arr with queue := [{ words := [0x21100000, 0x201, 0x100000, 0, 0, 0, 0, 0] }] } })), (by decide +kernel)⟩,
    ⟨0, { words := [0x21100000, 0x201, 0x100000, 0, 0, 0, 0, 0] }, (some 0x1800000), (((zdev.psWrite 0 20 (toLE 4 512)).psWrite 0 512
      ([0x40000000, 0x4, 0x10000, 0x1, 0x1000001, 0x0, 0x4, 0x0, 0x0, 0x0, 0x1, 0x0, 0x0, 0x0, 0x0, 0x1].flatMap (toLE 4))).updPan 0 (fun q =>
      { q with arr := { q.arr with queue := [{ words := [0x21100000, 0x201, 0x100000, 0, 0, 0, 0, 0] }] } })), (by exact ⟨by decide +kernel,
      by decide +kernel, by decide +kernel, by decide +kernel,  Or.inr ⟨_, rfl, by decide +kernel⟩⟩)⟩,
    ⟨0, { words := [0x11100000, 0x201, 0x2000000, 0, 0, 0, 0, 0], phase := .passes }, (zdev.updPan 0 (fun q =>
      { q with arr := { q.arr with queue := [{ words := [0x11100000, 0x201, 0x2000000, 0, 0, 0, 0, 0], phase := .passes }] } })),
      (by decide +kernel)⟩,
    ⟨0, false, none, (zdev.updPan 0 (fun q =>
      { q with arr := { q.arr with queue := [{ words := [0x41100000, 0x201, 0x2000000, 0, 0, 0, 0, 0] }] } })),
      (by intro q h; rw [show Device.headOn _ _ = _ from rfl] at h; exact Or.inl (by cases h; decide +kernel))⟩,
    ⟨0, { words := [0x11100000, 0x201, 0x2000000, 0, 0, 0, 0, 0], phase := .passes }, 0, false, (zdev.updPan 0 (fun q =>
      { q with arr := { q.arr with queue := [{ words := [0x11100000, 0x201, 0x2000000, 0, 0, 0, 0, 0], phase := .passes }] } })),
      (by decide +kernel)⟩,
    ⟨0, { words := [0x11100000, 0x201, 0x2000000, 0, 0, 0, 0, 0], phase := .passes }, (some 0x1800000), false, (zdev.updPan 0 (fun q =>
      { q with arr := { q.arr with queue := [{ words := [0x11100000, 0x201, 0x2000000, 0, 0, 0, 0, 0], phase := .passes }] } })), (by exact
      ⟨by decide +kernel, by decide +kernel, by decide +kernel, by decide +kernel, by decide +kernel, by decide +kernel,  Or.inr ⟨_, rfl,
      by decide +kernel⟩⟩)⟩⟩

theorem witness_EntryOpAndWriteBack :
    (∃ (p : Fin 64) (q : Desc) (d : Device), d.headOn p = some q ∧ q.phase = .waiting ∧ (mxd q.words).op = 4 ∧ (d.panAt p).rerunning = false ∧
      ((startSpans d p (mxd q.words) (mxd q.words).tile ++ if entryChecks d p (mxd q.words) = 0 ∧ (mxd q.words).wb then wbReads (mxd q.words) else
      []).any (fun s => (d.panAt p).holds s.1 s.2) = false) ∧ entryChecks d p (mxd q.words) ≠ 0)
      ∧ (∃ (p : Fin 64) (q : Desc) (d : Device), d.headOn p = some q ∧ q.phase = .waiting ∧ (mxd q.words).op = 4 ∧ (d.panAt p).rerunning = false ∧
        ((startSpans d p (mxd q.words) (mxd q.words).tile ++ if entryChecks d p (mxd q.words) = 0 ∧ (mxd q.words).wb then wbReads (mxd q.words)
        else []).any (fun s => (d.panAt p).holds s.1 s.2) = false) ∧ entryChecks d p (mxd q.words) = 0 ∧ (mxd q.words).ready (d.panAt p) = true ∧
        ((mxd q.words).wb = false ∨ outputHeld (d.panAt p) (mxd q.words) = false))
      ∧ (∃ (p : Fin 64) (q : Desc) (d : Device), d.headOn p = some q ∧ q.phase = .waiting ∧ (mxd q.words).op = 4 ∧ (d.panAt p).rerunning = false ∧
        ((startSpans d p (mxd q.words) (mxd q.words).tile ++ if entryChecks d p (mxd q.words) = 0 ∧ (mxd q.words).wb then wbReads (mxd q.words)
        else []).any (fun s => (d.panAt p).holds s.1 s.2) = false) ∧ entryChecks d p (mxd q.words) = 0 ∧ ((mxd q.words).ready (d.panAt p) = false
        ∨ ((mxd q.words).wb = true ∧ outputHeld (d.panAt p) (mxd q.words) = true)))
      ∧ (∃ (p : Fin 64) (hit : Option Nat) (d : Device), (∀ q, d.headOn p = some q → (mxd q.words).op ≠ 4 ∨ q.phase ≠ .waiting ∨ (d.panAt
        p).rerunning = true))
      ∧ (∃ (p : Fin 64) (q : Desc) (a : Nat) (d : Device), d.headOn p = some q ∧ q.phase = .waiting ∧ (mxd q.words).op = 4 ∧ (d.panAt p).rerunning
        = false ∧ ((startSpans d p (mxd q.words) (mxd q.words).tile ++ if entryChecks d p (mxd q.words) = 0 ∧ (mxd q.words).wb then wbReads (mxd
        q.words) else []).any (fun s => (d.panAt p).holds s.1 s.2) = false) ∧ ((startSpans d p (mxd q.words) (mxd q.words).tile ++ if entryChecks
        d p (mxd q.words) = 0 ∧ (mxd q.words).wb then wbReads (mxd q.words) else []).any (inSpan a) = true))
      ∧ (∃ (p : Fin 64) (q : Desc) (hit : Option Nat) (d : Device), d.headOn p = some q ∧ q.phase = .waiting ∧ (mxd q.words).op = 4 ∧ (d.panAt
        p).rerunning = false ∧ ((startSpans d p (mxd q.words) (mxd q.words).tile ++ if entryChecks d p (mxd q.words) = 0 ∧ (mxd q.words).wb then
        wbReads (mxd q.words) else []).any (fun s => (d.panAt p).holds s.1 s.2) = true ∨ (∃ a, hit = some a ∧ (startSpans d p (mxd q.words) (mxd
        q.words).tile ++ if entryChecks d p (mxd q.words) = 0 ∧ (mxd q.words).wb then wbReads (mxd q.words) else []).any (inSpan a) = false)))
      ∧ (∃ (p : Fin 64) (q : Desc) (d : Device), d.headOn p = some q ∧ q.passesDone = true ∧ (mxd q.words).op ≠ 3 ∧ (mxd q.words).wb = true ∧
        ((finishSpans d p (mxd q.words)).any (fun s => (d.panAt p).holds s.1 s.2) = false) ∧ (((outSpans (mxd q.words)).map tailWord ++ if (mxd
        q.words).op = 3 then [((mxd q.words).aux, 32)] else wbReads (mxd q.words)).any (fun s => (d.panAt p).holds s.1 s.2) = false))
      ∧ (∃ (p : Fin 64) (q : Desc) (d : Device), d.headOn p = some q ∧ q.passesDone = true ∧ (mxd q.words).op = 3 ∧ owesFinish d p (mxd q.words) =
        true ∧ ((finishSpans d p (mxd q.words)).any (fun s => (d.panAt p).holds s.1 s.2) = false) ∧ (((outSpans (mxd q.words)).map tailWord ++ if
        (mxd q.words).op = 3 then [((mxd q.words).aux, 32)] else wbReads (mxd q.words)).any (fun s => (d.panAt p).holds s.1 s.2) = false))
      ∧ (∃ (p : Fin 64) (hit : Option Nat) (d : Device), (∀ q, d.headOn p = some q → q.passesDone = false ∨ owesFinish d p (mxd q.words) = false ∨
        (finishSpans d p (mxd q.words)).any (fun s => (d.panAt p).holds s.1 s.2) = true))
      ∧ (∃ (p : Fin 64) (q : Desc) (a : Nat) (d : Device), d.headOn p = some q ∧ q.passesDone = true ∧ owesFinish d p (mxd q.words) = true ∧
        ((finishSpans d p (mxd q.words)).any (fun s => (d.panAt p).holds s.1 s.2) = false) ∧ (((outSpans (mxd q.words)).map tailWord ++ if (mxd
        q.words).op = 3 then [((mxd q.words).aux, 32)] else wbReads (mxd q.words)).any (fun s => (d.panAt p).holds s.1 s.2) = false) ∧ (((outSpans
        (mxd q.words)).map tailWord ++ if (mxd q.words).op = 3 then [((mxd q.words).aux, 32)] else wbReads (mxd q.words)).any (inSpan a) = true))
      ∧ (∃ (p : Fin 64) (q : Desc) (hit : Option Nat) (d : Device), d.headOn p = some q ∧ q.passesDone = true ∧ owesFinish d p (mxd q.words) =
        true ∧ ((finishSpans d p (mxd q.words)).any (fun s => (d.panAt p).holds s.1 s.2) = false) ∧ (((outSpans (mxd q.words)).map tailWord ++ if
        (mxd q.words).op = 3 then [((mxd q.words).aux, 32)] else wbReads (mxd q.words)).any (fun s => (d.panAt p).holds s.1 s.2) = true ∨ (∃ a,
        hit = some a ∧ ((outSpans (mxd q.words)).map tailWord ++ if (mxd q.words).op = 3 then [((mxd q.words).aux, 32)] else wbReads (mxd
        q.words)).any (inSpan a) = false))) :=
  ⟨⟨0, { words := [0x41100000, 0x200, 0x2000000, 0, 0, 0, 0, 0] }, (zdev.updPan 0 (fun q =>
      { q with arr := { q.arr with queue := [{ words := [0x41100000, 0x200, 0x2000000, 0, 0, 0, 0, 0] }] } })), (by decide +kernel)⟩,
    ⟨0, { words := [0x41100000, 0xe0000201, 0x2000000, 0, 0, 2, 0, 0] }, (zdev.updPan 0 (fun q =>
      { q with arr := { q.arr with queue := [{ words := [0x41100000, 0xe0000201, 0x2000000, 0, 0, 2, 0, 0] }] } })), (by decide +kernel)⟩,
    ⟨0, { words := [0x41100000, 0x201, 0x2000000, 0, 0, 0, 0xe000000, 0] }, (zdev.updPan 0 (fun q =>
      { q with arr := { q.arr with queue := [{ words := [0x41100000, 0x201, 0x2000000, 0, 0, 0, 0xe000000, 0] }] } })), (by decide +kernel)⟩,
    ⟨0, none, (zdev.updPan 0 (fun q => { q with arr := { q.arr with queue := [{ words := [0x11100000, 0x201, 0x2000000, 0, 0, 0, 0, 0] }] } })),
      (by intro q h; rw [show Device.headOn _ _ = _ from rfl] at h; exact Or.inl (by cases h; decide +kernel))⟩,
    ⟨0, { words := [0x41100000, 0x201, 0x2000000, 0, 0, 0, 0, 0] }, 0, (zdev.updPan 0 (fun q =>
      { q with arr := { q.arr with queue := [{ words := [0x41100000, 0x201, 0x2000000, 0, 0, 0, 0, 0] }] } })), (by decide +kernel)⟩,
    ⟨0, { words := [0x41100000, 0x201, 0x2000000, 0, 0, 0, 0, 0] }, (some 0x1800000), (zdev.updPan 0 (fun q =>
      { q with arr := { q.arr with queue := [{ words := [0x41100000, 0x201, 0x2000000, 0, 0, 0, 0, 0] }] } })), (by exact ⟨by decide +kernel,
      by decide +kernel, by decide +kernel, by decide +kernel,  Or.inr ⟨_, rfl, by decide +kernel⟩⟩)⟩,
    ⟨0, { words := [0x11100000, 0x40000201, 0x2000000, 0, 0, 2, 0, 0], phase := .passes, row := 1 }, (zdev.updPan 0 (fun q =>
      { q with arr := { q.arr with queue := [{ words := [0x11100000, 0x40000201, 0x2000000, 0, 0, 2, 0, 0], phase := .passes, row := 1 }] } })),
      (by decide +kernel)⟩,
    ⟨0, { words := [0x31100000, 0x40000201, 0x2000000, 0, 0, 0, 0, 0], phase := .passes, row := 1 }, (zdev.updPan 0 (fun q =>
      { q with arr := { q.arr with queue := [{ words := [0x31100000, 0x40000201, 0x2000000, 0, 0, 0, 0, 0], phase := .passes, row := 1 }] } })),
      (by decide +kernel)⟩,
    ⟨0, none, (zdev.updPan 0 (fun q => { q with arr := { q.arr with queue := [{ words := [0x11100000, 0x201, 0x2000000, 0, 0, 0, 0, 0] }] } })),
      (by intro q h; rw [show Device.headOn _ _ = _ from rfl] at h; exact Or.inl (by cases h; decide +kernel))⟩,
    ⟨0, { words := [0x11100000, 0x40000201, 0x2000000, 0, 0, 2, 0, 0], phase := .passes, row := 1 }, 0, (zdev.updPan 0 (fun q =>
      { q with arr := { q.arr with queue := [{ words := [0x11100000, 0x40000201, 0x2000000, 0, 0, 2, 0, 0], phase := .passes, row := 1 }] } })),
      (by decide +kernel)⟩,
    ⟨0, { words := [0x11100000, 0x40000201, 0x2000000, 0, 0, 2, 0, 0], phase := .passes, row := 1 }, (some 0x1800000), (zdev.updPan 0 (fun q =>
      { q with arr := { q.arr with queue := [{ words := [0x11100000, 0x40000201, 0x2000000, 0, 0, 2, 0, 0], phase := .passes, row := 1 }] } })),
      (by exact ⟨by decide +kernel, by decide +kernel, by decide +kernel, by decide +kernel,  Or.inr ⟨_, rfl, by decide +kernel⟩⟩)⟩⟩

theorem witness_DescriptorCompletion :
    (∃ (p : Fin 64) (q : Desc) (d : Device), d.headOn p = some q ∧ (q.phase = .done ∨ q.phase = .written ∨ (q.passesDone = true ∧ owesFinish d p
      (mxd q.words) = false)))
      ∧ (∃ (p : Fin 64) (d : Device), (∀ q, d.headOn p = some q → ¬(q.phase = .done ∨ q.phase = .written ∨ (q.passesDone = true ∧ owesFinish d p
        (mxd q.words) = false))))
      ∧ (∃ (p : Fin 64) (q : Desc) (d : Device), d.headOn p = some q ∧ q.passesLeft = true ∧ (mxd q.words).op = 2 ∧ haloReady d p (mxd q.words)
        q.row = false)
      ∧ (∃ (p : Fin 64) (d : Device), (∀ q, d.headOn p = some q → q.passesLeft = false ∨ (mxd q.words).op ≠ 2 ∨ haloReady d p (mxd q.words) q.row
        = true)) :=
  ⟨⟨0, { words := [0x11100000, 0x201, 0x2000000, 0, 0, 0, 0, 0x1e000000], phase := .done, status := 0x0101 }, (zdev.updPan 0 (fun q =>
      { q with arr := { q.arr with queue := [{ words := [0x11100000, 0x201, 0x2000000, 0, 0, 0, 0, 0x1e000000], phase := .done, status := 0x0101 }] } })),
      (by decide +kernel)⟩,
    ⟨0, (zdev.updPan 0 (fun q => { q with arr := { q.arr with queue := [{ words := [0x11100000, 0x201, 0x2000000, 0, 0, 0, 0, 0] }] } })),
      (by intro q h; rw [show Device.headOn _ _ = _ from rfl] at h; cases h; decide +kernel)⟩,
    ⟨0, { words := [0x21100000, 0x201, 0x100000, 0, 0, 0, 0, 0], phase := .passes }, (((zdev.psWrite 0 20 (toLE 4 512)).psWrite 0 512
      ([0x88000000, 0x40004, 0x10000, 0x101, 0x11000101, 0x0, 0x4, 0x10, 0x0, 0x0, 0x1, 0x40001, 0x400, 0x800, 0x7000040, 0x1].flatMap (toLE
      4))).updPan 0 (fun q =>
      { q with arr := { q.arr with queue := [{ words := [0x21100000, 0x201, 0x100000, 0, 0, 0, 0, 0], phase := .passes }] } })),
      (by decide +kernel)⟩,
    ⟨0, (zdev.updPan 0 (fun q => { q with arr := { q.arr with queue := [{ words := [0x11100000, 0x201, 0x2000000, 0, 0, 0, 0, 0] }] } })),
      (by intro q h; rw [show Device.headOn _ _ = _ from rfl] at h; cases h; decide +kernel)⟩⟩

theorem witness_AttentionDescriptors :
    (∃ (p : Fin 64) (q : Desc) (d : Device), d.headOn p = some q ∧ q.phase = .waiting ∧ (mxd q.words).op = 3 ∧ (((mxd q.words).attn d p).mode = 0
      ∨ 3 < ((mxd q.words).attn d p).mode) ∧ (d.panAt p).rerunning = false ∧ ((startSpans d p (mxd q.words) (mxd q.words).tile ++ attnCheckSpans d
      p (mxd q.words) ((mxd q.words).attn d p) ++ if attnChecks d p (mxd q.words) = 0 then attnSpans d p (mxd q.words) ((mxd q.words).attn d p)
      else []).any (fun s => (d.panAt p).holds s.1 s.2) = false) ∧ attnChecks d p (mxd q.words) = 0 ∧ (mxd q.words).ready (d.panAt p) = true ∧
      d.arrayIssues p = true ∧ (d.panAt p).arr.consec < 3 ∧ (mxd q.words).m ≠ 0 ∧ attnHeritage (d.panAt p) (mxd q.words) ((mxd q.words).attn d p)
      = false)
      ∧ (∃ (p : Fin 64) (q : Desc) (d : Device), d.headOn p = some q ∧ q.phase = .waiting ∧ (mxd q.words).op = 3 ∧ ((mxd q.words).attn d p).mode =
        1 ∧ (d.panAt p).rerunning = false ∧ ((startSpans d p (mxd q.words) (mxd q.words).tile ++ attnCheckSpans d p (mxd q.words) ((mxd
        q.words).attn d p) ++ if attnChecks d p (mxd q.words) = 0 then attnSpans d p (mxd q.words) ((mxd q.words).attn d p) else []).any (fun s =>
        (d.panAt p).holds s.1 s.2) = false) ∧ attnChecks d p (mxd q.words) = 0 ∧ (mxd q.words).ready (d.panAt p) = true ∧ d.arrayIssues p = true ∧
        (d.panAt p).arr.consec < 3 ∧ (mxd q.words).m ≠ 0 ∧ attnHeritage (d.panAt p) (mxd q.words) ((mxd q.words).attn d p) = false ∧ mergeStop d p
        (mxd q.words) = none)
      ∧ (∃ (p : Fin 64) (q : Desc) (d : Device), d.headOn p = some q ∧ q.phase = .waiting ∧ (mxd q.words).op = 3 ∧ ((mxd q.words).attn d p).mode =
        2 ∧ (d.panAt p).rerunning = false ∧ ((startSpans d p (mxd q.words) (mxd q.words).tile ++ attnCheckSpans d p (mxd q.words) ((mxd
        q.words).attn d p) ++ if attnChecks d p (mxd q.words) = 0 then attnSpans d p (mxd q.words) ((mxd q.words).attn d p) else []).any (fun s =>
        (d.panAt p).holds s.1 s.2) = false) ∧ attnChecks d p (mxd q.words) = 0 ∧ (mxd q.words).ready (d.panAt p) = true ∧ d.arrayIssues p = true ∧
        (d.panAt p).arr.consec < 3 ∧ (mxd q.words).m ≠ 0)
      ∧ (∃ (p : Fin 64) (q : Desc) (d : Device), d.headOn p = some q ∧ q.phase = .waiting ∧ (mxd q.words).op = 3 ∧ ((mxd q.words).attn d p).mode =
        3 ∧ (d.panAt p).rerunning = false ∧ ((startSpans d p (mxd q.words) (mxd q.words).tile ++ attnCheckSpans d p (mxd q.words) ((mxd
        q.words).attn d p) ++ if attnChecks d p (mxd q.words) = 0 then attnSpans d p (mxd q.words) ((mxd q.words).attn d p) else []).any (fun s =>
        (d.panAt p).holds s.1 s.2) = false) ∧ attnChecks d p (mxd q.words) = 0 ∧ (mxd q.words).ready (d.panAt p) = true ∧ d.arrayIssues p = true ∧
        (d.panAt p).arr.consec < 3)
      ∧ (∃ (p : Fin 64) (q : Desc) (d : Device), d.headOn p = some q ∧ q.phase = .waiting ∧ (mxd q.words).op = 3 ∧ (((mxd q.words).attn d p).mode
        = 0 ∨ 3 < ((mxd q.words).attn d p).mode) ∧ (d.panAt p).rerunning = false ∧ ((startSpans d p (mxd q.words) (mxd q.words).tile ++
        attnCheckSpans d p (mxd q.words) ((mxd q.words).attn d p) ++ if attnChecks d p (mxd q.words) = 0 then attnSpans d p (mxd q.words) ((mxd
        q.words).attn d p) else []).any (fun s => (d.panAt p).holds s.1 s.2) = false) ∧ attnChecks d p (mxd q.words) ≠ 0)
      ∧ (∃ (p : Fin 64) (q : Desc) (d : Device), d.headOn p = some q ∧ q.phase = .waiting ∧ (mxd q.words).op = 3 ∧ ((mxd q.words).attn d p).mode =
        1 ∧ (d.panAt p).rerunning = false ∧ ((startSpans d p (mxd q.words) (mxd q.words).tile ++ attnCheckSpans d p (mxd q.words) ((mxd
        q.words).attn d p) ++ if attnChecks d p (mxd q.words) = 0 then attnSpans d p (mxd q.words) ((mxd q.words).attn d p) else []).any (fun s =>
        (d.panAt p).holds s.1 s.2) = false) ∧ attnChecks d p (mxd q.words) ≠ 0 ∧ mergeStop d p (mxd q.words) = none)
      ∧ (∃ (p : Fin 64) (q : Desc) (d : Device), d.headOn p = some q ∧ q.phase = .waiting ∧ (mxd q.words).op = 3 ∧ ((mxd q.words).attn d p).mode =
        2 ∧ (d.panAt p).rerunning = false ∧ ((startSpans d p (mxd q.words) (mxd q.words).tile ++ attnCheckSpans d p (mxd q.words) ((mxd
        q.words).attn d p) ++ if attnChecks d p (mxd q.words) = 0 then attnSpans d p (mxd q.words) ((mxd q.words).attn d p) else []).any (fun s =>
        (d.panAt p).holds s.1 s.2) = false) ∧ attnChecks d p (mxd q.words) ≠ 0)
      ∧ (∃ (p : Fin 64) (q : Desc) (d : Device), d.headOn p = some q ∧ q.phase = .waiting ∧ (mxd q.words).op = 3 ∧ ((mxd q.words).attn d p).mode =
        3 ∧ (d.panAt p).rerunning = false ∧ ((startSpans d p (mxd q.words) (mxd q.words).tile ++ attnCheckSpans d p (mxd q.words) ((mxd
        q.words).attn d p) ++ if attnChecks d p (mxd q.words) = 0 then attnSpans d p (mxd q.words) ((mxd q.words).attn d p) else []).any (fun s =>
        (d.panAt p).holds s.1 s.2) = false) ∧ attnChecks d p (mxd q.words) ≠ 0)
      ∧ (∃ (p : Fin 64) (q : Desc) (d : Device), d.headOn p = some q ∧ q.phase = .waiting ∧ (mxd q.words).op = 3 ∧ (((mxd q.words).attn d p).mode
        = 0 ∨ 3 < ((mxd q.words).attn d p).mode) ∧ (d.panAt p).rerunning = false ∧ ((startSpans d p (mxd q.words) (mxd q.words).tile ++
        attnCheckSpans d p (mxd q.words) ((mxd q.words).attn d p) ++ if attnChecks d p (mxd q.words) = 0 then attnSpans d p (mxd q.words) ((mxd
        q.words).attn d p) else []).any (fun s => (d.panAt p).holds s.1 s.2) = false) ∧ attnChecks d p (mxd q.words) = 0 ∧ ((mxd q.words).ready
        (d.panAt p) = false ∨ d.arrayIssues p = false ∨ 3 ≤ (d.panAt p).arr.consec))
      ∧ (∃ (p : Fin 64) (q : Desc) (d : Device), d.headOn p = some q ∧ q.phase = .waiting ∧ (mxd q.words).op = 3 ∧ ((mxd q.words).attn d p).mode =
        1 ∧ (d.panAt p).rerunning = false ∧ ((startSpans d p (mxd q.words) (mxd q.words).tile ++ attnCheckSpans d p (mxd q.words) ((mxd
        q.words).attn d p) ++ if attnChecks d p (mxd q.words) = 0 then attnSpans d p (mxd q.words) ((mxd q.words).attn d p) else []).any (fun s =>
        (d.panAt p).holds s.1 s.2) = false) ∧ attnChecks d p (mxd q.words) = 0 ∧ ((mxd q.words).ready (d.panAt p) = false ∨ d.arrayIssues p =
        false ∨ 3 ≤ (d.panAt p).arr.consec) ∧ mergeStop d p (mxd q.words) = none)
      ∧ (∃ (p : Fin 64) (q : Desc) (d : Device), d.headOn p = some q ∧ q.phase = .waiting ∧ (mxd q.words).op = 3 ∧ ((mxd q.words).attn d p).mode =
        2 ∧ (d.panAt p).rerunning = false ∧ ((startSpans d p (mxd q.words) (mxd q.words).tile ++ attnCheckSpans d p (mxd q.words) ((mxd
        q.words).attn d p) ++ if attnChecks d p (mxd q.words) = 0 then attnSpans d p (mxd q.words) ((mxd q.words).attn d p) else []).any (fun s =>
        (d.panAt p).holds s.1 s.2) = false) ∧ attnChecks d p (mxd q.words) = 0 ∧ ((mxd q.words).ready (d.panAt p) = false ∨ d.arrayIssues p =
        false ∨ 3 ≤ (d.panAt p).arr.consec))
      ∧ (∃ (p : Fin 64) (q : Desc) (d : Device), d.headOn p = some q ∧ q.phase = .waiting ∧ (mxd q.words).op = 3 ∧ ((mxd q.words).attn d p).mode =
        3 ∧ (d.panAt p).rerunning = false ∧ ((startSpans d p (mxd q.words) (mxd q.words).tile ++ attnCheckSpans d p (mxd q.words) ((mxd
        q.words).attn d p) ++ if attnChecks d p (mxd q.words) = 0 then attnSpans d p (mxd q.words) ((mxd q.words).attn d p) else []).any (fun s =>
        (d.panAt p).holds s.1 s.2) = false) ∧ attnChecks d p (mxd q.words) = 0 ∧ ((mxd q.words).ready (d.panAt p) = false ∨ d.arrayIssues p =
        false ∨ 3 ≤ (d.panAt p).arr.consec))
      ∧ (∃ (p : Fin 64) (q : Desc) (d : Device), d.headOn p = some q ∧ q.phase = .waiting ∧ (mxd q.words).op = 3 ∧ (((mxd q.words).attn d p).mode
        = 0 ∨ 3 < ((mxd q.words).attn d p).mode) ∧ (d.panAt p).rerunning = false ∧ ((startSpans d p (mxd q.words) (mxd q.words).tile ++
        attnCheckSpans d p (mxd q.words) ((mxd q.words).attn d p) ++ if attnChecks d p (mxd q.words) = 0 then attnSpans d p (mxd q.words) ((mxd
        q.words).attn d p) else []).any (fun s => (d.panAt p).holds s.1 s.2) = false) ∧ attnChecks d p (mxd q.words) = 0 ∧ (mxd q.words).ready
        (d.panAt p) = true ∧ d.arrayIssues p = true ∧ (d.panAt p).arr.consec < 3 ∧ (mxd q.words).m = 0)
      ∧ (∃ (p : Fin 64) (q : Desc) (d : Device), d.headOn p = some q ∧ q.phase = .waiting ∧ (mxd q.words).op = 3 ∧ ((mxd q.words).attn d p).mode =
        1 ∧ (d.panAt p).rerunning = false ∧ ((startSpans d p (mxd q.words) (mxd q.words).tile ++ attnCheckSpans d p (mxd q.words) ((mxd
        q.words).attn d p) ++ if attnChecks d p (mxd q.words) = 0 then attnSpans d p (mxd q.words) ((mxd q.words).attn d p) else []).any (fun s =>
        (d.panAt p).holds s.1 s.2) = false) ∧ attnChecks d p (mxd q.words) = 0 ∧ (mxd q.words).ready (d.panAt p) = true ∧ d.arrayIssues p = true ∧
        (d.panAt p).arr.consec < 3 ∧ (mxd q.words).m = 0 ∧ mergeStop d p (mxd q.words) = none)
      ∧ (∃ (p : Fin 64) (q : Desc) (d : Device), d.headOn p = some q ∧ q.phase = .waiting ∧ (mxd q.words).op = 3 ∧ ((mxd q.words).attn d p).mode =
        2 ∧ (d.panAt p).rerunning = false ∧ ((startSpans d p (mxd q.words) (mxd q.words).tile ++ attnCheckSpans d p (mxd q.words) ((mxd
        q.words).attn d p) ++ if attnChecks d p (mxd q.words) = 0 then attnSpans d p (mxd q.words) ((mxd q.words).attn d p) else []).any (fun s =>
        (d.panAt p).holds s.1 s.2) = false) ∧ attnChecks d p (mxd q.words) = 0 ∧ (mxd q.words).ready (d.panAt p) = true ∧ d.arrayIssues p = true ∧
        (d.panAt p).arr.consec < 3 ∧ (mxd q.words).m = 0)
      ∧ (∃ (p : Fin 64) (q : Desc) (d : Device), d.headOn p = some q ∧ q.phase = .waiting ∧ (mxd q.words).op = 3 ∧ (((mxd q.words).attn d p).mode
        = 0 ∨ 3 < ((mxd q.words).attn d p).mode) ∧ (d.panAt p).rerunning = false ∧ ((startSpans d p (mxd q.words) (mxd q.words).tile ++
        attnCheckSpans d p (mxd q.words) ((mxd q.words).attn d p) ++ if attnChecks d p (mxd q.words) = 0 then attnSpans d p (mxd q.words) ((mxd
        q.words).attn d p) else []).any (fun s => (d.panAt p).holds s.1 s.2) = false) ∧ attnChecks d p (mxd q.words) = 0 ∧ (mxd q.words).ready
        (d.panAt p) = true ∧ d.arrayIssues p = true ∧ (d.panAt p).arr.consec < 3 ∧ (mxd q.words).m ≠ 0 ∧ attnHeritage (d.panAt p) (mxd q.words)
        ((mxd q.words).attn d p) = true)
      ∧ (∃ (p : Fin 64) (q : Desc) (d : Device), d.headOn p = some q ∧ q.phase = .waiting ∧ (mxd q.words).op = 3 ∧ ((mxd q.words).attn d p).mode =
        1 ∧ (d.panAt p).rerunning = false ∧ ((startSpans d p (mxd q.words) (mxd q.words).tile ++ attnCheckSpans d p (mxd q.words) ((mxd
        q.words).attn d p) ++ if attnChecks d p (mxd q.words) = 0 then attnSpans d p (mxd q.words) ((mxd q.words).attn d p) else []).any (fun s =>
        (d.panAt p).holds s.1 s.2) = false) ∧ attnChecks d p (mxd q.words) = 0 ∧ (mxd q.words).ready (d.panAt p) = true ∧ d.arrayIssues p = true ∧
        (d.panAt p).arr.consec < 3 ∧ (mxd q.words).m ≠ 0 ∧ attnHeritage (d.panAt p) (mxd q.words) ((mxd q.words).attn d p) = true ∧ mergeStop d p
        (mxd q.words) = none)
      ∧ (∃ (p : Fin 64) (q : Desc) (bad : Bool) (c : Cause) (st : Nat) (d : Device), d.headOn p = some q ∧ q.phase = .waiting ∧ (mxd q.words).op =
        3 ∧ ((mxd q.words).attn d p).mode = 1 ∧ (d.panAt p).rerunning = false ∧ mergeStop d p (mxd q.words) = some (c, st))
      ∧ (∃ (p : Fin 64) (q : Desc) (a : Nat) (bad : Bool) (d : Device), d.headOn p = some q ∧ q.phase = .waiting ∧ (mxd q.words).op = 3 ∧ (((mxd
        q.words).attn d p).mode = 0 ∨ 3 < ((mxd q.words).attn d p).mode) ∧ (d.panAt p).rerunning = false ∧ ((startSpans d p (mxd q.words) (mxd
        q.words).tile ++ attnCheckSpans d p (mxd q.words) ((mxd q.words).attn d p) ++ if attnChecks d p (mxd q.words) = 0 then attnSpans d p (mxd
        q.words) ((mxd q.words).attn d p) else []).any (fun s => (d.panAt p).holds s.1 s.2) = false) ∧ ((startSpans d p (mxd q.words) (mxd
        q.words).tile ++ attnCheckSpans d p (mxd q.words) ((mxd q.words).attn d p) ++ if attnChecks d p (mxd q.words) = 0 then attnSpans d p (mxd
        q.words) ((mxd q.words).attn d p) else []).any (inSpan a) = true))
      ∧ (∃ (p : Fin 64) (q : Desc) (bad : Bool) (d : Device), d.headOn p = some q ∧ q.phase = .waiting ∧ (mxd q.words).op = 3 ∧ (((mxd
        q.words).attn d p).mode = 0 ∨ 3 < ((mxd q.words).attn d p).mode) ∧ (d.panAt p).rerunning = false ∧ ((startSpans d p (mxd q.words) (mxd
        q.words).tile ++ attnCheckSpans d p (mxd q.words) ((mxd q.words).attn d p) ++ if attnChecks d p (mxd q.words) = 0 then attnSpans d p (mxd
        q.words) ((mxd q.words).attn d p) else []).any (fun s => (d.panAt p).holds s.1 s.2) = true))
      ∧ (∃ (p : Fin 64) (q : Desc) (a : Nat) (bad : Bool) (d : Device), d.headOn p = some q ∧ q.phase = .waiting ∧ (mxd q.words).op = 3 ∧ (((mxd
        q.words).attn d p).mode = 0 ∨ 3 < ((mxd q.words).attn d p).mode) ∧ (d.panAt p).rerunning = false ∧ ((startSpans d p (mxd q.words) (mxd
        q.words).tile ++ attnCheckSpans d p (mxd q.words) ((mxd q.words).attn d p) ++ if attnChecks d p (mxd q.words) = 0 then attnSpans d p (mxd
        q.words) ((mxd q.words).attn d p) else []).any (fun s => (d.panAt p).holds s.1 s.2) = true ∨ (startSpans d p (mxd q.words) (mxd
        q.words).tile ++ attnCheckSpans d p (mxd q.words) ((mxd q.words).attn d p) ++ if attnChecks d p (mxd q.words) = 0 then attnSpans d p (mxd
        q.words) ((mxd q.words).attn d p) else []).any (inSpan a) = false))
      ∧ (∃ (p : Fin 64) (hit : Option Nat) (bad : Bool) (d : Device), (∀ q, d.headOn p = some q → (mxd q.words).op ≠ 3 ∨ q.phase ≠ .waiting ∨
        ¬(((mxd q.words).attn d p).mode = 0 ∨ 3 < ((mxd q.words).attn d p).mode) ∨ (d.panAt p).rerunning = true))
      ∧ (∃ (p : Fin 64) (q : Desc) (a : Nat) (bad : Bool) (d : Device), d.headOn p = some q ∧ q.phase = .waiting ∧ (mxd q.words).op = 3 ∧ ((mxd
        q.words).attn d p).mode = 1 ∧ (d.panAt p).rerunning = false ∧ ((startSpans d p (mxd q.words) (mxd q.words).tile ++ attnCheckSpans d p (mxd
        q.words) ((mxd q.words).attn d p) ++ if attnChecks d p (mxd q.words) = 0 then attnSpans d p (mxd q.words) ((mxd q.words).attn d p) else
        []).any (fun s => (d.panAt p).holds s.1 s.2) = false) ∧ ((startSpans d p (mxd q.words) (mxd q.words).tile ++ attnCheckSpans d p (mxd
        q.words) ((mxd q.words).attn d p) ++ if attnChecks d p (mxd q.words) = 0 then attnSpans d p (mxd q.words) ((mxd q.words).attn d p) else
        []).any (inSpan a) = true))
      ∧ (∃ (p : Fin 64) (q : Desc) (bad : Bool) (d : Device), d.headOn p = some q ∧ q.phase = .waiting ∧ (mxd q.words).op = 3 ∧ ((mxd
        q.words).attn d p).mode = 1 ∧ (d.panAt p).rerunning = false ∧ ((startSpans d p (mxd q.words) (mxd q.words).tile ++ attnCheckSpans d p (mxd
        q.words) ((mxd q.words).attn d p) ++ if attnChecks d p (mxd q.words) = 0 then attnSpans d p (mxd q.words) ((mxd q.words).attn d p) else
        []).any (fun s => (d.panAt p).holds s.1 s.2) = true) ∧ mergeStop d p (mxd q.words) = none)
      ∧ (∃ (p : Fin 64) (q : Desc) (a : Nat) (bad : Bool) (d : Device), d.headOn p = some q ∧ q.phase = .waiting ∧ (mxd q.words).op = 3 ∧ ((mxd
        q.words).attn d p).mode = 1 ∧ (d.panAt p).rerunning = false ∧ ((startSpans d p (mxd q.words) (mxd q.words).tile ++ attnCheckSpans d p (mxd
        q.words) ((mxd q.words).attn d p) ++ if attnChecks d p (mxd q.words) = 0 then attnSpans d p (mxd q.words) ((mxd q.words).attn d p) else
        []).any (fun s => (d.panAt p).holds s.1 s.2) = true ∨ (startSpans d p (mxd q.words) (mxd q.words).tile ++ attnCheckSpans d p (mxd q.words)
        ((mxd q.words).attn d p) ++ if attnChecks d p (mxd q.words) = 0 then attnSpans d p (mxd q.words) ((mxd q.words).attn d p) else []).any
        (inSpan a) = false))
      ∧ (∃ (p : Fin 64) (hit : Option Nat) (bad : Bool) (d : Device), (∀ q, d.headOn p = some q → (mxd q.words).op ≠ 3 ∨ q.phase ≠ .waiting ∨
        ¬(((mxd q.words).attn d p).mode = 1) ∨ (d.panAt p).rerunning = true))
      ∧ (∃ (p : Fin 64) (q : Desc) (a : Nat) (d : Device), d.headOn p = some q ∧ q.phase = .waiting ∧ (mxd q.words).op = 3 ∧ ((mxd q.words).attn d
        p).mode = 2 ∧ (d.panAt p).rerunning = false ∧ ((startSpans d p (mxd q.words) (mxd q.words).tile ++ attnCheckSpans d p (mxd q.words) ((mxd
        q.words).attn d p) ++ if attnChecks d p (mxd q.words) = 0 then attnSpans d p (mxd q.words) ((mxd q.words).attn d p) else []).any (fun s =>
        (d.panAt p).holds s.1 s.2) = false) ∧ ((startSpans d p (mxd q.words) (mxd q.words).tile ++ attnCheckSpans d p (mxd q.words) ((mxd
        q.words).attn d p) ++ if attnChecks d p (mxd q.words) = 0 then attnSpans d p (mxd q.words) ((mxd q.words).attn d p) else []).any (inSpan
        a) = true))
      ∧ (∃ (p : Fin 64) (q : Desc) (d : Device), d.headOn p = some q ∧ q.phase = .waiting ∧ (mxd q.words).op = 3 ∧ ((mxd q.words).attn d p).mode =
        2 ∧ (d.panAt p).rerunning = false ∧ ((startSpans d p (mxd q.words) (mxd q.words).tile ++ attnCheckSpans d p (mxd q.words) ((mxd
        q.words).attn d p) ++ if attnChecks d p (mxd q.words) = 0 then attnSpans d p (mxd q.words) ((mxd q.words).attn d p) else []).any (fun s =>
        (d.panAt p).holds s.1 s.2) = true))
      ∧ (∃ (p : Fin 64) (q : Desc) (a : Nat) (d : Device), d.headOn p = some q ∧ q.phase = .waiting ∧ (mxd q.words).op = 3 ∧ ((mxd q.words).attn d
        p).mode = 2 ∧ (d.panAt p).rerunning = false ∧ ((startSpans d p (mxd q.words) (mxd q.words).tile ++ attnCheckSpans d p (mxd q.words) ((mxd
        q.words).attn d p) ++ if attnChecks d p (mxd q.words) = 0 then attnSpans d p (mxd q.words) ((mxd q.words).attn d p) else []).any (fun s =>
        (d.panAt p).holds s.1 s.2) = true ∨ (startSpans d p (mxd q.words) (mxd q.words).tile ++ attnCheckSpans d p (mxd q.words) ((mxd
        q.words).attn d p) ++ if attnChecks d p (mxd q.words) = 0 then attnSpans d p (mxd q.words) ((mxd q.words).attn d p) else []).any (inSpan
        a) = false))
      ∧ (∃ (p : Fin 64) (hit : Option Nat) (d : Device), (∀ q, d.headOn p = some q → (mxd q.words).op ≠ 3 ∨ q.phase ≠ .waiting ∨ ¬(((mxd
        q.words).attn d p).mode = 2) ∨ (d.panAt p).rerunning = true))
      ∧ (∃ (p : Fin 64) (q : Desc) (a : Nat) (d : Device), d.headOn p = some q ∧ q.phase = .waiting ∧ (mxd q.words).op = 3 ∧ ((mxd q.words).attn d
        p).mode = 3 ∧ (d.panAt p).rerunning = false ∧ ((startSpans d p (mxd q.words) (mxd q.words).tile ++ attnCheckSpans d p (mxd q.words) ((mxd
        q.words).attn d p) ++ if attnChecks d p (mxd q.words) = 0 then attnSpans d p (mxd q.words) ((mxd q.words).attn d p) else []).any (fun s =>
        (d.panAt p).holds s.1 s.2) = false) ∧ ((startSpans d p (mxd q.words) (mxd q.words).tile ++ attnCheckSpans d p (mxd q.words) ((mxd
        q.words).attn d p) ++ if attnChecks d p (mxd q.words) = 0 then attnSpans d p (mxd q.words) ((mxd q.words).attn d p) else []).any (inSpan
        a) = true))
      ∧ (∃ (p : Fin 64) (q : Desc) (d : Device), d.headOn p = some q ∧ q.phase = .waiting ∧ (mxd q.words).op = 3 ∧ ((mxd q.words).attn d p).mode =
        3 ∧ (d.panAt p).rerunning = false ∧ ((startSpans d p (mxd q.words) (mxd q.words).tile ++ attnCheckSpans d p (mxd q.words) ((mxd
        q.words).attn d p) ++ if attnChecks d p (mxd q.words) = 0 then attnSpans d p (mxd q.words) ((mxd q.words).attn d p) else []).any (fun s =>
        (d.panAt p).holds s.1 s.2) = true))
      ∧ (∃ (p : Fin 64) (q : Desc) (a : Nat) (d : Device), d.headOn p = some q ∧ q.phase = .waiting ∧ (mxd q.words).op = 3 ∧ ((mxd q.words).attn d
        p).mode = 3 ∧ (d.panAt p).rerunning = false ∧ ((startSpans d p (mxd q.words) (mxd q.words).tile ++ attnCheckSpans d p (mxd q.words) ((mxd
        q.words).attn d p) ++ if attnChecks d p (mxd q.words) = 0 then attnSpans d p (mxd q.words) ((mxd q.words).attn d p) else []).any (fun s =>
        (d.panAt p).holds s.1 s.2) = true ∨ (startSpans d p (mxd q.words) (mxd q.words).tile ++ attnCheckSpans d p (mxd q.words) ((mxd
        q.words).attn d p) ++ if attnChecks d p (mxd q.words) = 0 then attnSpans d p (mxd q.words) ((mxd q.words).attn d p) else []).any (inSpan
        a) = false))
      ∧ (∃ (p : Fin 64) (hit : Option Nat) (d : Device), (∀ q, d.headOn p = some q → (mxd q.words).op ≠ 3 ∨ q.phase ≠ .waiting ∨ ¬(((mxd
        q.words).attn d p).mode = 3) ∨ (d.panAt p).rerunning = true)) :=
  ⟨⟨0, { words := [0x31100000, 0x80000220, 0x2000000, 0, 0, 0, 0, 0] }, (((zdev.psWrite 0 20 (toLE 4 512)).psWrite 0 512 ([0x3000000, 0x0,
      0x1000, 0x2000, 0x3000, 0x3800, 0x4000, 0x5000, 0x6000, 0x0, 0x0, 0x0, 0x0, 0x0, 0x0, 0x0].flatMap (toLE 4))).updPan 0 (fun q =>
      { q with arr := { q.arr with queue := [{ words := [0x31100000, 0x80000220, 0x2000000, 0, 0, 0, 0, 0] }] } })), (by decide +kernel)⟩,
    ⟨0, { words := [0x31100000, 0x80000220, 0x2000000, 0, 0, 0, 0, 0] }, (((zdev.psWrite 0 20 (toLE 4 512)).psWrite 0 512 ([0x13000000, 0x0,
      0x1000, 0x2000, 0x3000, 0x3800, 0x4000, 0x5000, 0x6000, 0x0, 0x0, 0x0, 0x0, 0x0, 0x0, 0x0].flatMap (toLE 4))).updPan 0 (fun q =>
      { q with arr := { q.arr with queue := [{ words := [0x31100000, 0x80000220, 0x2000000, 0, 0, 0, 0, 0] }] } })), (by decide +kernel)⟩,
    ⟨0, { words := [0x31100000, 0x220, 0x2000000, 0, 0, 0, 0, 0] }, (((zdev.psWrite 0 20 (toLE 4 512)).psWrite 0 512 ([0x23000000, 0x0, 0x1000,
      0x2000, 0x3000, 0x3800, 0x4000, 0x5000, 0x6000, 0x0, 0x0, 0x0, 0x0, 0x0, 0x0, 0x0].flatMap (toLE 4))).updPan 0 (fun q =>
      { q with arr := { q.arr with queue := [{ words := [0x31100000, 0x220, 0x2000000, 0, 0, 0, 0, 0] }] } })), (by decide +kernel)⟩,
    ⟨0, { words := [0x31100000, 0x80000220, 0x2000000, 0, 0, 0, 0, 0] }, (((zdev.psWrite 0 20 (toLE 4 512)).psWrite 0 512 ([0x33000000, 0x0,
      0x1000, 0x2000, 0x3000, 0x3800, 0x4000, 0x5000, 0x6000, 0x0, 0x0, 0x0, 0x0, 0x0, 0x0, 0x0].flatMap (toLE 4))).updPan 0 (fun q =>
      { q with arr := { q.arr with queue := [{ words := [0x31100000, 0x80000220, 0x2000000, 0, 0, 0, 0, 0] }] } })), (by decide +kernel)⟩,
    ⟨0, { words := [0x32100000, 0x80000220, 0x2000000, 0, 0, 0, 0, 0] }, (((zdev.psWrite 0 20 (toLE 4 512)).psWrite 0 512 ([0x3000000, 0x0,
      0x1000, 0x2000, 0x3000, 0x3800, 0x4000, 0x5000, 0x6000, 0x0, 0x0, 0x0, 0x0, 0x0, 0x0, 0x0].flatMap (toLE 4))).updPan 0 (fun q =>
      { q with arr := { q.arr with queue := [{ words := [0x32100000, 0x80000220, 0x2000000, 0, 0, 0, 0, 0] }] } })), (by decide +kernel)⟩,
    ⟨0, { words := [0x32100000, 0x80000220, 0x2000000, 0, 0, 0, 0, 0] }, (((zdev.psWrite 0 20 (toLE 4 512)).psWrite 0 512 ([0x13000000, 0x0,
      0x1000, 0x2000, 0x3000, 0x3800, 0x4000, 0x5000, 0x6000, 0x0, 0x0, 0x0, 0x0, 0x0, 0x0, 0x0].flatMap (toLE 4))).updPan 0 (fun q =>
      { q with arr := { q.arr with queue := [{ words := [0x32100000, 0x80000220, 0x2000000, 0, 0, 0, 0, 0] }] } })), (by decide +kernel)⟩,
    ⟨0, { words := [0x32100000, 0x220, 0x2000000, 0, 0, 0, 0, 0] }, (((zdev.psWrite 0 20 (toLE 4 512)).psWrite 0 512 ([0x23000000, 0x0, 0x1000,
      0x2000, 0x3000, 0x3800, 0x4000, 0x5000, 0x6000, 0x0, 0x0, 0x0, 0x0, 0x0, 0x0, 0x0].flatMap (toLE 4))).updPan 0 (fun q =>
      { q with arr := { q.arr with queue := [{ words := [0x32100000, 0x220, 0x2000000, 0, 0, 0, 0, 0] }] } })), (by decide +kernel)⟩,
    ⟨0, { words := [0x32100000, 0x80000220, 0x2000000, 0, 0, 0, 0, 0] }, (((zdev.psWrite 0 20 (toLE 4 512)).psWrite 0 512 ([0x33000000, 0x0,
      0x1000, 0x2000, 0x3000, 0x3800, 0x4000, 0x5000, 0x6000, 0x0, 0x0, 0x0, 0x0, 0x0, 0x0, 0x0].flatMap (toLE 4))).updPan 0 (fun q =>
      { q with arr := { q.arr with queue := [{ words := [0x32100000, 0x80000220, 0x2000000, 0, 0, 0, 0, 0] }] } })), (by decide +kernel)⟩,
    ⟨0, { words := [0x31100000, 0x80000220, 0x2000000, 0, 0, 0, 0x26000000, 0] }, (((zdev.psWrite 0 20 (toLE 4 512)).psWrite 0 512 ([0x3000000,
      0x0, 0x1000, 0x2000, 0x3000, 0x3800, 0x4000, 0x5000, 0x6000, 0x0, 0x0, 0x0, 0x0, 0x0, 0x0, 0x0].flatMap (toLE 4))).updPan 0 (fun q =>
      { q with arr := { q.arr with queue := [{ words := [0x31100000, 0x80000220, 0x2000000, 0, 0, 0, 0x26000000, 0] }] } })), (by decide +kernel)⟩,
    ⟨0, { words := [0x31100000, 0x80000220, 0x2000000, 0, 0, 0, 0x26000000, 0] }, (((zdev.psWrite 0 20 (toLE 4 512)).psWrite 0 512 ([0x13000000,
      0x0, 0x1000, 0x2000, 0x3000, 0x3800, 0x4000, 0x5000, 0x6000, 0x0, 0x0, 0x0, 0x0, 0x0, 0x0, 0x0].flatMap (toLE 4))).updPan 0 (fun q =>
      { q with arr := { q.arr with queue := [{ words := [0x31100000, 0x80000220, 0x2000000, 0, 0, 0, 0x26000000, 0] }] } })), (by decide +kernel)⟩,
    ⟨0, { words := [0x31100000, 0x220, 0x2000000, 0, 0, 0, 0x26000000, 0] }, (((zdev.psWrite 0 20 (toLE 4 512)).psWrite 0 512 ([0x23000000, 0x0,
      0x1000, 0x2000, 0x3000, 0x3800, 0x4000, 0x5000, 0x6000, 0x0, 0x0, 0x0, 0x0, 0x0, 0x0, 0x0].flatMap (toLE 4))).updPan 0 (fun q =>
      { q with arr := { q.arr with queue := [{ words := [0x31100000, 0x220, 0x2000000, 0, 0, 0, 0x26000000, 0] }] } })), (by decide +kernel)⟩,
    ⟨0, { words := [0x31100000, 0x80000220, 0x2000000, 0, 0, 0, 0x26000000, 0] }, (((zdev.psWrite 0 20 (toLE 4 512)).psWrite 0 512 ([0x33000000,
      0x0, 0x1000, 0x2000, 0x3000, 0x3800, 0x4000, 0x5000, 0x6000, 0x0, 0x0, 0x0, 0x0, 0x0, 0x0, 0x0].flatMap (toLE 4))).updPan 0 (fun q =>
      { q with arr := { q.arr with queue := [{ words := [0x31100000, 0x80000220, 0x2000000, 0, 0, 0, 0x26000000, 0] }] } })), (by decide +kernel)⟩,
    ⟨0, { words := [0x31100000, 0x80000020, 0x2000000, 0, 0, 0, 0, 0] }, (((zdev.psWrite 0 20 (toLE 4 512)).psWrite 0 512 ([0x3000000, 0x0,
      0x1000, 0x2000, 0x3000, 0x3800, 0x4000, 0x5000, 0x6000, 0x0, 0x0, 0x0, 0x0, 0x0, 0x0, 0x0].flatMap (toLE 4))).updPan 0 (fun q =>
      { q with arr := { q.arr with queue := [{ words := [0x31100000, 0x80000020, 0x2000000, 0, 0, 0, 0, 0] }] } })), (by decide +kernel)⟩,
    ⟨0, { words := [0x31100000, 0x80000020, 0x2000000, 0, 0, 0, 0, 0] }, (((zdev.psWrite 0 20 (toLE 4 512)).psWrite 0 512 ([0x13000000, 0x0,
      0x1000, 0x2000, 0x3000, 0x3800, 0x4000, 0x5000, 0x6000, 0x0, 0x0, 0x0, 0x0, 0x0, 0x0, 0x0].flatMap (toLE 4))).updPan 0 (fun q =>
      { q with arr := { q.arr with queue := [{ words := [0x31100000, 0x80000020, 0x2000000, 0, 0, 0, 0, 0] }] } })), (by decide +kernel)⟩,
    ⟨0, { words := [0x31100000, 0x20, 0x2000000, 0, 0, 0, 0, 0] }, (((zdev.psWrite 0 20 (toLE 4 512)).psWrite 0 512 ([0x23000000, 0x0, 0x1000,
      0x2000, 0x3000, 0x3800, 0x4000, 0x5000, 0x6000, 0x0, 0x0, 0x0, 0x0, 0x0, 0x0, 0x0].flatMap (toLE 4))).updPan 0 (fun q =>
      { q with arr := { q.arr with queue := [{ words := [0x31100000, 0x20, 0x2000000, 0, 0, 0, 0, 0] }] } })), (by decide +kernel)⟩,
    ⟨0, { words := [0x31100000, 0x220, 0x2000000, 0, 0, 0, 0, 0] }, ((((((zdev.psWrite 0 20 (toLE 4 512)).psWrite 0 512 ([0x3000000, 0x1, 0x1000,
      0x2000, 0x3000, 0x3800, 0x4000, 0x5000, 0x6000, 0x0, 0x0, 0x0, 0x0, 0x0, 0x0, 0x0].flatMap (toLE 4))).updPan 0 (fun q =>
      { q with arr := { q.arr with queue := [{ words := [0x31100000, 0x220, 0x2000000, 0, 0, 0, 0, 0] }] } })).updPan 0 (fun q => q.setEntry 0 0
      { heritage := some {} })).psWrite 0 0x1004 [0, 0x90, 0, 0]).psWrite 0 0x9004 [32, 32]), (by decide +kernel)⟩,
    ⟨0, { words := [0x31100000, 0x220, 0x2000000, 0, 0, 0, 0, 0] }, ((((zdev.psWrite 0 20 (toLE 4 512)).psWrite 0 512 ([0x13000000, 0x1, 0x1000,
      0x2000, 0x3000, 0x3800, 0x4000, 0x5000, 0x6000, 0x0, 0x0, 0x0, 0x0, 0x0, 0x0, 0x0].flatMap (toLE 4))).updPan 0 (fun q =>
      { q with arr := { q.arr with queue := [{ words := [0x31100000, 0x220, 0x2000000, 0, 0, 0, 0, 0] }] } })).updPan 0 (fun q => q.setEntry 0 0
      { heritage := some {} })), (by decide +kernel)⟩,
    ⟨0, { words := [0x31100000, 0x80000220, 0x2000000, 0, 0, 0, 0, 0] }, false, .ledgerRec, 0x0703, ((((zdev.psWrite 0 20 (toLE 4 512)).psWrite 0
      512 ([0x13000000, 0x1, 0x1000, 0x2000, 0x3000, 0x3800, 0x4000, 0x5000, 0x6000, 0x0, 0x0, 0x0, 0x0, 0x0, 0x0, 0x0].flatMap (toLE 4))).updPan
      0 (fun q => { q with arr := { q.arr with queue := [{ words := [0x31100000, 0x80000220, 0x2000000, 0, 0, 0, 0, 0] }] } })).psWrite 0
      (partialRec 0x7000 1 0 0) [0, 0, 0, 255]).psWrite 0 0x1000 (toLE 4 0x7000), (by decide +kernel)⟩,
    ⟨0, { words := [0x31100000, 0x80000220, 0x2000000, 0, 0, 0, 0, 0] }, 0, false, (((zdev.psWrite 0 20 (toLE 4 512)).psWrite 0 512 ([0x3000000,
      0x0, 0x1000, 0x2000, 0x3000, 0x3800, 0x4000, 0x5000, 0x6000, 0x0, 0x0, 0x0, 0x0, 0x0, 0x0, 0x0].flatMap (toLE 4))).updPan 0 (fun q =>
      { q with arr := { q.arr with queue := [{ words := [0x31100000, 0x80000220, 0x2000000, 0, 0, 0, 0, 0] }] } })), (by decide +kernel)⟩,
    ⟨0, { words := [0x31100000, 0x80000220, 0x2000000, 0, 0, 0, 0, 0] }, false, ((((zdev.psWrite 0 20 (toLE 4 512)).psWrite 0 512 ([0x3000000,
      0x0, 0x1000, 0x2000, 0x3000, 0x3800, 0x4000, 0x5000, 0x6000, 0x0, 0x0, 0x0, 0x0, 0x0, 0x0, 0x0].flatMap (toLE 4))).updPan 0 (fun q =>
      { q with arr := { q.arr with queue := [{ words := [0x31100000, 0x80000220, 0x2000000, 0, 0, 0, 0, 0] }] } })).updPan 0 (fun q =>
      { q with held := [0] })), (by decide +kernel)⟩,
    ⟨0, { words := [0x31100000, 0x80000220, 0x2000000, 0, 0, 0, 0, 0] }, 0x1800000, false, (((zdev.psWrite 0 20 (toLE 4 512)).psWrite 0 512
      ([0x3000000, 0x0, 0x1000, 0x2000, 0x3000, 0x3800, 0x4000, 0x5000, 0x6000, 0x0, 0x0, 0x0, 0x0, 0x0, 0x0, 0x0].flatMap (toLE 4))).updPan 0
      (fun q => { q with arr := { q.arr with queue := [{ words := [0x31100000, 0x80000220, 0x2000000, 0, 0, 0, 0, 0] }] } })),
      (by decide +kernel)⟩,
    ⟨0, none, false, (zdev.updPan 0 (fun q =>
      { q with arr := { q.arr with queue := [{ words := [0x11100000, 0x201, 0x2000000, 0, 0, 0, 0, 0] }] } })),
      (by intro q h; rw [show Device.headOn _ _ = _ from rfl] at h; exact Or.inl (by cases h; decide +kernel))⟩,
    ⟨0, { words := [0x31100000, 0x80000220, 0x2000000, 0, 0, 0, 0, 0] }, 0, false, (((zdev.psWrite 0 20 (toLE 4 512)).psWrite 0 512 ([0x13000000,
      0x0, 0x1000, 0x2000, 0x3000, 0x3800, 0x4000, 0x5000, 0x6000, 0x0, 0x0, 0x0, 0x0, 0x0, 0x0, 0x0].flatMap (toLE 4))).updPan 0 (fun q =>
      { q with arr := { q.arr with queue := [{ words := [0x31100000, 0x80000220, 0x2000000, 0, 0, 0, 0, 0] }] } })), (by decide +kernel)⟩,
    ⟨0, { words := [0x31100000, 0x80000220, 0x2000000, 0, 0, 0, 0, 0] }, false, ((((zdev.psWrite 0 20 (toLE 4 512)).psWrite 0 512 ([0x13000000,
      0x0, 0x1000, 0x2000, 0x3000, 0x3800, 0x4000, 0x5000, 0x6000, 0x0, 0x0, 0x0, 0x0, 0x0, 0x0, 0x0].flatMap (toLE 4))).updPan 0 (fun q =>
      { q with arr := { q.arr with queue := [{ words := [0x31100000, 0x80000220, 0x2000000, 0, 0, 0, 0, 0] }] } })).updPan 0 (fun q =>
      { q with held := [0] })), (by decide +kernel)⟩,
    ⟨0, { words := [0x31100000, 0x80000220, 0x2000000, 0, 0, 0, 0, 0] }, 0x1800000, false, (((zdev.psWrite 0 20 (toLE 4 512)).psWrite 0 512
      ([0x13000000, 0x0, 0x1000, 0x2000, 0x3000, 0x3800, 0x4000, 0x5000, 0x6000, 0x0, 0x0, 0x0, 0x0, 0x0, 0x0, 0x0].flatMap (toLE 4))).updPan 0
      (fun q => { q with arr := { q.arr with queue := [{ words := [0x31100000, 0x80000220, 0x2000000, 0, 0, 0, 0, 0] }] } })),
      (by decide +kernel)⟩,
    ⟨0, none, false, (zdev.updPan 0 (fun q =>
      { q with arr := { q.arr with queue := [{ words := [0x11100000, 0x201, 0x2000000, 0, 0, 0, 0, 0] }] } })),
      (by intro q h; rw [show Device.headOn _ _ = _ from rfl] at h; exact Or.inl (by cases h; decide +kernel))⟩,
    ⟨0, { words := [0x31100000, 0x220, 0x2000000, 0, 0, 0, 0, 0] }, 0, (((zdev.psWrite 0 20 (toLE 4 512)).psWrite 0 512 ([0x23000000, 0x0, 0x1000,
      0x2000, 0x3000, 0x3800, 0x4000, 0x5000, 0x6000, 0x0, 0x0, 0x0, 0x0, 0x0, 0x0, 0x0].flatMap (toLE 4))).updPan 0 (fun q =>
      { q with arr := { q.arr with queue := [{ words := [0x31100000, 0x220, 0x2000000, 0, 0, 0, 0, 0] }] } })), (by decide +kernel)⟩,
    ⟨0, { words := [0x31100000, 0x220, 0x2000000, 0, 0, 0, 0, 0] }, ((((zdev.psWrite 0 20 (toLE 4 512)).psWrite 0 512 ([0x23000000, 0x0, 0x1000,
      0x2000, 0x3000, 0x3800, 0x4000, 0x5000, 0x6000, 0x0, 0x0, 0x0, 0x0, 0x0, 0x0, 0x0].flatMap (toLE 4))).updPan 0 (fun q =>
      { q with arr := { q.arr with queue := [{ words := [0x31100000, 0x220, 0x2000000, 0, 0, 0, 0, 0] }] } })).updPan 0 (fun q =>
      { q with held := [0] })), (by decide +kernel)⟩,
    ⟨0, { words := [0x31100000, 0x220, 0x2000000, 0, 0, 0, 0, 0] }, 0x1800000, (((zdev.psWrite 0 20 (toLE 4 512)).psWrite 0 512 ([0x23000000, 0x0,
      0x1000, 0x2000, 0x3000, 0x3800, 0x4000, 0x5000, 0x6000, 0x0, 0x0, 0x0, 0x0, 0x0, 0x0, 0x0].flatMap (toLE 4))).updPan 0 (fun q =>
      { q with arr := { q.arr with queue := [{ words := [0x31100000, 0x220, 0x2000000, 0, 0, 0, 0, 0] }] } })), (by decide +kernel)⟩,
    ⟨0, none, (zdev.updPan 0 (fun q => { q with arr := { q.arr with queue := [{ words := [0x11100000, 0x201, 0x2000000, 0, 0, 0, 0, 0] }] } })),
      (by intro q h; rw [show Device.headOn _ _ = _ from rfl] at h; exact Or.inl (by cases h; decide +kernel))⟩,
    ⟨0, { words := [0x31100000, 0x80000220, 0x2000000, 0, 0, 0, 0, 0] }, 0, (((zdev.psWrite 0 20 (toLE 4 512)).psWrite 0 512 ([0x33000000, 0x0,
      0x1000, 0x2000, 0x3000, 0x3800, 0x4000, 0x5000, 0x6000, 0x0, 0x0, 0x0, 0x0, 0x0, 0x0, 0x0].flatMap (toLE 4))).updPan 0 (fun q =>
      { q with arr := { q.arr with queue := [{ words := [0x31100000, 0x80000220, 0x2000000, 0, 0, 0, 0, 0] }] } })), (by decide +kernel)⟩,
    ⟨0, { words := [0x31100000, 0x80000220, 0x2000000, 0, 0, 0, 0, 0] }, ((((zdev.psWrite 0 20 (toLE 4 512)).psWrite 0 512 ([0x33000000, 0x0,
      0x1000, 0x2000, 0x3000, 0x3800, 0x4000, 0x5000, 0x6000, 0x0, 0x0, 0x0, 0x0, 0x0, 0x0, 0x0].flatMap (toLE 4))).updPan 0 (fun q =>
      { q with arr := { q.arr with queue := [{ words := [0x31100000, 0x80000220, 0x2000000, 0, 0, 0, 0, 0] }] } })).updPan 0 (fun q =>
      { q with held := [0] })), (by decide +kernel)⟩,
    ⟨0, { words := [0x31100000, 0x80000220, 0x2000000, 0, 0, 0, 0, 0] }, 0x1800000, (((zdev.psWrite 0 20 (toLE 4 512)).psWrite 0 512 ([0x33000000,
      0x0, 0x1000, 0x2000, 0x3000, 0x3800, 0x4000, 0x5000, 0x6000, 0x0, 0x0, 0x0, 0x0, 0x0, 0x0, 0x0].flatMap (toLE 4))).updPan 0 (fun q =>
      { q with arr := { q.arr with queue := [{ words := [0x31100000, 0x80000220, 0x2000000, 0, 0, 0, 0, 0] }] } })), (by decide +kernel)⟩,
    ⟨0, none, (zdev.updPan 0 (fun q => { q with arr := { q.arr with queue := [{ words := [0x11100000, 0x201, 0x2000000, 0, 0, 0, 0, 0] }] } })),
      (by intro q h; rw [show Device.headOn _ _ = _ from rfl] at h; exact Or.inl (by cases h; decide +kernel))⟩⟩

theorem witness_CopyCommands :
    (∃ (t : Fin 4) (c : CopyCmd) (d : Device), ((d.engAt t).copies.find? (fun x => x.id == c.id) = some c) ∧ terOn d = true ∧ mayStart (d.engAt t)
      c = true ∧ ((copyF c.words).op ≠ 2 ∧ (copyF c.words).op ≠ 3) ∧ c.started = false ∧ copyChecks d c ≠ 0)
      ∧ (∃ (t : Fin 4) (c : CopyCmd) (d : Device), ((d.engAt t).copies.find? (fun x => x.id == c.id) = some c) ∧ terOn d = true ∧ mayStart
        (d.engAt t) c = true ∧ ((copyF c.words).op ≠ 2 ∧ (copyF c.words).op ≠ 3) ∧ (c.started = true ∨ copyChecks d c = 0) ∧ ((nextSpans c).any
        (fun s => heldAt d s.1 s.2) = false) ∧ (copyF c.words).moves = true ∧ ((copyF c.words).remote = 0 ∨ ((copyF c.words).op = 2 ∧ (copyF
        c.words).remote = 1)) ∧ ((List.range (copyF c.words).rows).find? (fun i => (List.range (copyF c.words).rowG).any (fun g => granuleBad d
        (copyF c.words) none i g)) = none))
      ∧ (∃ (t : Fin 4) (c : CopyCmd) (i : Nat) (d : Device), ((d.engAt t).copies.find? (fun x => x.id == c.id) = some c) ∧ terOn d = true ∧
        mayStart (d.engAt t) c = true ∧ ((copyF c.words).op ≠ 2 ∧ (copyF c.words).op ≠ 3) ∧ (c.started = true ∨ copyChecks d c = 0) ∧ ((nextSpans
        c).any (fun s => heldAt d s.1 s.2) = false) ∧ (copyF c.words).moves = true ∧ ((copyF c.words).remote = 0 ∨ ((copyF c.words).op = 2 ∧
        (copyF c.words).remote = 1)) ∧ ((List.range (copyF c.words).rows).find? (fun i => (List.range (copyF c.words).rowG).any (fun g =>
        granuleBad d (copyF c.words) none i g)) = some i))
      ∧ (∃ (t : Fin 4) (c : CopyCmd) (d : Device), ((d.engAt t).copies.find? (fun x => x.id == c.id) = some c) ∧ terOn d = true ∧ mayStart
        (d.engAt t) c = true ∧ ((copyF c.words).op ≠ 2 ∧ (copyF c.words).op ≠ 3) ∧ (c.started = true ∨ copyChecks d c = 0) ∧ ((nextSpans c).any
        (fun s => heldAt d s.1 s.2) = false) ∧ (copyF c.words).moves = false)
      ∧ (∃ (t : Fin 4) (c : CopyCmd) (d : Device), ((d.engAt t).copies.find? (fun x => x.id == c.id) = some c) ∧ terOn d = true ∧ mayStart
        (d.engAt t) c = true ∧ ((copyF c.words).op ≠ 2 ∧ (copyF c.words).op ≠ 3) ∧ (c.started = true ∨ copyChecks d c = 0) ∧ ((nextSpans c).any
        (fun s => heldAt d s.1 s.2) = true))
      ∧ (∃ (t : Fin 4) (id : Nat) (hit : Option Hit) (d : Device), (∀ c, (d.engAt t).copies.find? (fun x => x.id == id) = some c → terOn d = false
        ∨ mayStart (d.engAt t) c = false ∨ ¬((copyF c.words).op ≠ 2 ∧ (copyF c.words).op ≠ 3)))
      ∧ (∃ (t : Fin 4) (c : CopyCmd) (d : Device), ((d.engAt t).copies.find? (fun x => x.id == c.id) = some c) ∧ terOn d = true ∧ mayStart
        (d.engAt t) c = true ∧ (copyF c.words).op = 2 ∧ c.started = false ∧ copyChecks d c ≠ 0)
      ∧ (∃ (t : Fin 4) (c : CopyCmd) (d : Device), ((d.engAt t).copies.find? (fun x => x.id == c.id) = some c) ∧ terOn d = true ∧ mayStart
        (d.engAt t) c = true ∧ (copyF c.words).op = 2 ∧ (c.started = true ∨ copyChecks d c = 0) ∧ ((nextSpans c).any (fun s => heldAt d s.1 s.2) =
        false) ∧ (copyF c.words).moves = true ∧ ((copyF c.words).remote = 0 ∨ ((copyF c.words).op = 2 ∧ (copyF c.words).remote = 1)) ∧
        ((List.range (copyF c.words).rows).find? (fun i => (List.range (copyF c.words).rowG).any (fun g => granuleBad d (copyF c.words) none i g))
        = none))
      ∧ (∃ (t : Fin 4) (c : CopyCmd) (i : Nat) (d : Device), ((d.engAt t).copies.find? (fun x => x.id == c.id) = some c) ∧ terOn d = true ∧
        mayStart (d.engAt t) c = true ∧ (copyF c.words).op = 2 ∧ (c.started = true ∨ copyChecks d c = 0) ∧ ((nextSpans c).any (fun s => heldAt d
        s.1 s.2) = false) ∧ (copyF c.words).moves = true ∧ ((copyF c.words).remote = 0 ∨ ((copyF c.words).op = 2 ∧ (copyF c.words).remote = 1)) ∧
        ((List.range (copyF c.words).rows).find? (fun i => (List.range (copyF c.words).rowG).any (fun g => granuleBad d (copyF c.words) none i g))
        = some i))
      ∧ (∃ (t : Fin 4) (c : CopyCmd) (d : Device), ((d.engAt t).copies.find? (fun x => x.id == c.id) = some c) ∧ terOn d = true ∧ mayStart
        (d.engAt t) c = true ∧ (copyF c.words).op = 2 ∧ (c.started = true ∨ copyChecks d c = 0) ∧ ((nextSpans c).any (fun s => heldAt d s.1 s.2) =
        false) ∧ (copyF c.words).moves = false)
      ∧ (∃ (t : Fin 4) (c : CopyCmd) (d : Device), ((d.engAt t).copies.find? (fun x => x.id == c.id) = some c) ∧ terOn d = true ∧ mayStart
        (d.engAt t) c = true ∧ (copyF c.words).op = 2 ∧ (c.started = true ∨ copyChecks d c = 0) ∧ ((nextSpans c).any (fun s => heldAt d s.1 s.2) =
        true))
      ∧ (∃ (t : Fin 4) (id : Nat) (d : Device), (∀ c, (d.engAt t).copies.find? (fun x => x.id == id) = some c → terOn d = false ∨ mayStart
        (d.engAt t) c = false ∨ ¬((copyF c.words).op = 2)))
      ∧ (∃ (t : Fin 4) (c : CopyCmd) (d : Device), ((d.engAt t).copies.find? (fun x => x.id == c.id) = some c) ∧ terOn d = true ∧ mayStart
        (d.engAt t) c = true ∧ (copyF c.words).op = 3 ∧ c.started = false ∧ copyChecks d c ≠ 0)
      ∧ (∃ (t : Fin 4) (c : CopyCmd) (d : Device), ((d.engAt t).copies.find? (fun x => x.id == c.id) = some c) ∧ terOn d = true ∧ mayStart
        (d.engAt t) c = true ∧ (copyF c.words).op = 3 ∧ (c.started = true ∨ copyChecks d c = 0) ∧ ((nextSpans c).any (fun s => heldAt d s.1 s.2) =
        false) ∧ (copyF c.words).moves = true ∧ ((copyF c.words).remote = 0 ∨ ((copyF c.words).op = 2 ∧ (copyF c.words).remote = 1)) ∧
        ((List.range (copyF c.words).rows).find? (fun i => (List.range (copyF c.words).rowG).any (fun g => granuleBad d (copyF c.words) none i g))
        = none) ∧ keyed d ((copyF c.words).dst - 32) 32 = true)
      ∧ (∃ (t : Fin 4) (c : CopyCmd) (i : Nat) (d : Device), ((d.engAt t).copies.find? (fun x => x.id == c.id) = some c) ∧ terOn d = true ∧
        mayStart (d.engAt t) c = true ∧ (copyF c.words).op = 3 ∧ (c.started = true ∨ copyChecks d c = 0) ∧ ((nextSpans c).any (fun s => heldAt d
        s.1 s.2) = false) ∧ (copyF c.words).moves = true ∧ ((copyF c.words).remote = 0 ∨ ((copyF c.words).op = 2 ∧ (copyF c.words).remote = 1)) ∧
        ((List.range (copyF c.words).rows).find? (fun i => (List.range (copyF c.words).rowG).any (fun g => granuleBad d (copyF c.words) none i g))
        = some i))
      ∧ (∃ (t : Fin 4) (c : CopyCmd) (d : Device), ((d.engAt t).copies.find? (fun x => x.id == c.id) = some c) ∧ terOn d = true ∧ mayStart
        (d.engAt t) c = true ∧ (copyF c.words).op = 3 ∧ (c.started = true ∨ copyChecks d c = 0) ∧ ((nextSpans c).any (fun s => heldAt d s.1 s.2) =
        false) ∧ (copyF c.words).moves = false)
      ∧ (∃ (t : Fin 4) (c : CopyCmd) (d : Device), ((d.engAt t).copies.find? (fun x => x.id == c.id) = some c) ∧ terOn d = true ∧ mayStart
        (d.engAt t) c = true ∧ (copyF c.words).op = 3 ∧ (c.started = true ∨ copyChecks d c = 0) ∧ ((nextSpans c).any (fun s => heldAt d s.1 s.2) =
        true))
      ∧ (∃ (t : Fin 4) (id : Nat) (hit : Option Hit) (d : Device), (∀ c, (d.engAt t).copies.find? (fun x => x.id == id) = some c → terOn d = false
        ∨ mayStart (d.engAt t) c = false ∨ ¬((copyF c.words).op = 3)))
      ∧ (∃ (t : Fin 4) (c : CopyCmd) (d : Device), ((d.engAt t).copies.find? (fun x => x.id == c.id) = some c) ∧ terOn d = true ∧ mayStart
        (d.engAt t) c = true ∧ (copyF c.words).op = 3 ∧ (c.started = true ∨ copyChecks d c = 0) ∧ ((nextSpans c).any (fun s => heldAt d s.1 s.2) =
        false) ∧ (copyF c.words).moves = true ∧ ((copyF c.words).remote = 0 ∨ ((copyF c.words).op = 2 ∧ (copyF c.words).remote = 1)) ∧
        ((List.range (copyF c.words).rows).find? (fun i => (List.range (copyF c.words).rowG).any (fun g => granuleBad d (copyF c.words) none i g))
        = none) ∧ keyed d ((copyF c.words).dst - 32) 32 = false)
      ∧ (∃ (t : Fin 4) (c : CopyCmd) (h : Hit) (d : Device), ((d.engAt t).copies.find? (fun x => x.id == c.id) = some c) ∧ terOn d = true ∧
        mayStart (d.engAt t) c = true ∧ ((copyF c.words).op ≠ 2 ∧ (copyF c.words).op ≠ 3) ∧ (c.started = true ∨ copyChecks d c = 0) ∧ ((nextSpans
        c).any (fun s => heldAt d s.1 s.2) = false) ∧ (hitFits d h = true ∧ (nextSpans c).any (fun s => decide (s.1 ≤ hitAddr h) && decide
        (hitAddr h < s.1 + s.2)) = true) ∧ hitPersistent h = false)
      ∧ (∃ (t : Fin 4) (c : CopyCmd) (h : Hit) (d : Device), ((d.engAt t).copies.find? (fun x => x.id == c.id) = some c) ∧ terOn d = true ∧
        mayStart (d.engAt t) c = true ∧ ((copyF c.words).op ≠ 2 ∧ (copyF c.words).op ≠ 3) ∧ (c.started = true ∨ copyChecks d c = 0) ∧ ((nextSpans
        c).any (fun s => heldAt d s.1 s.2) = false) ∧ (hitFits d h = true ∧ (nextSpans c).any (fun s => decide (s.1 ≤ hitAddr h) && decide
        (hitAddr h < s.1 + s.2)) = true) ∧ hitPersistent h = true)
      ∧ (∃ (t : Fin 4) (c : CopyCmd) (h : Hit) (d : Device), ((d.engAt t).copies.find? (fun x => x.id == c.id) = some c) ∧ terOn d = true ∧
        mayStart (d.engAt t) c = true ∧ ((copyF c.words).op ≠ 2 ∧ (copyF c.words).op ≠ 3) ∧ (c.started = true ∨ copyChecks d c = 0) ∧ (((nextSpans
        c).any (fun s => heldAt d s.1 s.2) = true) ∨ ¬(hitFits d h = true ∧ (nextSpans c).any (fun s => decide (s.1 ≤ hitAddr h) && decide
        (hitAddr h < s.1 + s.2)) = true)))
      ∧ (∃ (t : Fin 4) (c : CopyCmd) (h : Hit) (d : Device), ((d.engAt t).copies.find? (fun x => x.id == c.id) = some c) ∧ terOn d = true ∧
        mayStart (d.engAt t) c = true ∧ (copyF c.words).op = 3 ∧ (c.started = true ∨ copyChecks d c = 0) ∧ ((nextSpans c).any (fun s => heldAt d
        s.1 s.2) = false) ∧ (hitFits d h = true ∧ (nextSpans c).any (fun s => decide (s.1 ≤ hitAddr h) && decide (hitAddr h < s.1 + s.2)) = true)
        ∧ hitPersistent h = false)
      ∧ (∃ (t : Fin 4) (c : CopyCmd) (h : Hit) (d : Device), ((d.engAt t).copies.find? (fun x => x.id == c.id) = some c) ∧ terOn d = true ∧
        mayStart (d.engAt t) c = true ∧ (copyF c.words).op = 3 ∧ (c.started = true ∨ copyChecks d c = 0) ∧ ((nextSpans c).any (fun s => heldAt d
        s.1 s.2) = false) ∧ (hitFits d h = true ∧ (nextSpans c).any (fun s => decide (s.1 ≤ hitAddr h) && decide (hitAddr h < s.1 + s.2)) = true)
        ∧ hitPersistent h = true)
      ∧ (∃ (t : Fin 4) (c : CopyCmd) (h : Hit) (d : Device), ((d.engAt t).copies.find? (fun x => x.id == c.id) = some c) ∧ terOn d = true ∧
        mayStart (d.engAt t) c = true ∧ (copyF c.words).op = 3 ∧ (c.started = true ∨ copyChecks d c = 0) ∧ (((nextSpans c).any (fun s => heldAt d
        s.1 s.2) = true) ∨ ¬(hitFits d h = true ∧ (nextSpans c).any (fun s => decide (s.1 ≤ hitAddr h) && decide (hitAddr h < s.1 + s.2)) =
        true))) :=
  ⟨⟨0, { id := 5, words := [0x10000001, 0x40, 0x10040110, 0x1100000, 0x2000, 0x0, 0x0, 0x0], issuer := .pan 0, started := false }, (zdev.updEng 0
      (fun e =>
      { e with copies := [{ id := 5, words := [0x10000001, 0x40, 0x10040110, 0x1100000, 0x2000, 0x0, 0x0, 0x0], issuer := .pan 0, started := false }] })),
      (by decide +kernel)⟩,
    ⟨0, { id := 5, words := [0x10000001, 0x40, 0x10000110, 0x1100000, 0x2000, 0x0, 0x0, 0x0], issuer := .pan 0, started := false }, (zdev.updEng 0
      (fun e =>
      { e with copies := [{ id := 5, words := [0x10000001, 0x40, 0x10000110, 0x1100000, 0x2000, 0x0, 0x0, 0x0], issuer := .pan 0, started := false }] })),
      (by decide +kernel)⟩,
    ⟨0, { id := 5, words := [0x10000001, 0x40, 0x110, 0x25100, 0x2000, 0x0, 0x0, 0x0], issuer := .pan 0, started := false }, 0, ((zdev.updEng 0
      (fun e =>
      { e with copies := [{ id := 5, words := [0x10000001, 0x40, 0x110, 0x25100, 0x2000, 0x0, 0x0, 0x0], issuer := .pan 0, started := false }] })).updTer
      0 (fun x => { x with keys := [none, none, none, none] })), (by decide +kernel)⟩,
    ⟨0, { id := 5, words := [0x10000000, 0x40, 0x10000110, 0x1100000, 0x2000, 0x0, 0x0, 0x0], issuer := .pan 0, started := false }, (zdev.updEng 0
      (fun e =>
      { e with copies := [{ id := 5, words := [0x10000000, 0x40, 0x10000110, 0x1100000, 0x2000, 0x0, 0x0, 0x0], issuer := .pan 0, started := false }] })),
      (by decide +kernel)⟩,
    ⟨0, { id := 5, words := [0x10000001, 0x40, 0x10000110, 0x1100000, 0x2000, 0x0, 0x0, 0x0], issuer := .pan 0, started := false }, ((zdev.updPan
      0 (fun q => { q with held := [128] })).updEng 0 (fun e =>
      { e with copies := [{ id := 5, words := [0x10000001, 0x40, 0x10000110, 0x1100000, 0x2000, 0x0, 0x0, 0x0], issuer := .pan 0, started := false }] })),
      (by decide +kernel)⟩,
    ⟨0, 5, none, zdev, (by intro c h; cases h)⟩,
    ⟨0, { id := 5, words := [0x20000001, 0x40, 0x10040110, 0x1100000, 0x2000, 0x0, 0x0, 0x1234], issuer := .pan 0, started := false },
      (zdev.updEng 0 (fun e =>
      { e with copies := [{ id := 5, words := [0x20000001, 0x40, 0x10040110, 0x1100000, 0x2000, 0x0, 0x0, 0x1234], issuer := .pan 0, started := false }] })),
      (by decide +kernel)⟩,
    ⟨0, { id := 5, words := [0x20000001, 0x40, 0x10000110, 0x1100000, 0x2000, 0x0, 0x0, 0x1234], issuer := .pan 0, started := false },
      (zdev.updEng 0 (fun e =>
      { e with copies := [{ id := 5, words := [0x20000001, 0x40, 0x10000110, 0x1100000, 0x2000, 0x0, 0x0, 0x1234], issuer := .pan 0, started := false }] })),
      (by decide +kernel)⟩,
    ⟨0, { id := 5, words := [0x20000001, 0x40, 0x110, 0x25100, 0x2000, 0x0, 0x0, 0x1234], issuer := .pan 0, started := false }, 0, ((zdev.updEng 0
      (fun e =>
      { e with copies := [{ id := 5, words := [0x20000001, 0x40, 0x110, 0x25100, 0x2000, 0x0, 0x0, 0x1234], issuer := .pan 0, started := false }] })).updTer
      0 (fun x => { x with keys := [none, none, none, none] })), (by decide +kernel)⟩,
    ⟨0, { id := 5, words := [0x20000000, 0x40, 0x10000110, 0x1100000, 0x2000, 0x0, 0x0, 0x1234], issuer := .pan 0, started := false },
      (zdev.updEng 0 (fun e =>
      { e with copies := [{ id := 5, words := [0x20000000, 0x40, 0x10000110, 0x1100000, 0x2000, 0x0, 0x0, 0x1234], issuer := .pan 0, started := false }] })),
      (by decide +kernel)⟩,
    ⟨0, { id := 5, words := [0x20000001, 0x40, 0x10000110, 0x1100000, 0x2000, 0x0, 0x0, 0x1234], issuer := .pan 0, started := false },
      ((zdev.updPan 0 (fun q => { q with held := [128] })).updEng 0 (fun e =>
      { e with copies := [{ id := 5, words := [0x20000001, 0x40, 0x10000110, 0x1100000, 0x2000, 0x0, 0x0, 0x1234], issuer := .pan 0, started := false }] })),
      (by decide +kernel)⟩,
    ⟨0, 5, zdev, (by intro c h; cases h)⟩,
    ⟨0, { id := 5, words := [0x30000001, 0x40, 0x10040110, 0x1100000, 0x2000, 0x0, 0x0, 0x7], issuer := .pan 0, started := false }, (zdev.updEng 0
      (fun e =>
      { e with copies := [{ id := 5, words := [0x30000001, 0x40, 0x10040110, 0x1100000, 0x2000, 0x0, 0x0, 0x7], issuer := .pan 0, started := false }] })),
      (by decide +kernel)⟩,
    ⟨0, { id := 5, words := [0x30000001, 0x40, 0x10000110, 0x1100000, 0x2000, 0x0, 0x0, 0x7], issuer := .pan 0, started := false }, (zdev.updEng 0
      (fun e =>
      { e with copies := [{ id := 5, words := [0x30000001, 0x40, 0x10000110, 0x1100000, 0x2000, 0x0, 0x0, 0x7], issuer := .pan 0, started := false }] })),
      (by decide +kernel)⟩,
    ⟨0, { id := 5, words := [0x30000001, 0x40, 0x110, 0x25100, 0x2000, 0x0, 0x0, 0x7], issuer := .pan 0, started := false }, 0, ((zdev.updEng 0
      (fun e =>
      { e with copies := [{ id := 5, words := [0x30000001, 0x40, 0x110, 0x25100, 0x2000, 0x0, 0x0, 0x7], issuer := .pan 0, started := false }] })).updTer
      0 (fun x => { x with keys := [none, none, none, none] })), (by decide +kernel)⟩,
    ⟨0, { id := 5, words := [0x30000000, 0x40, 0x10000110, 0x1100000, 0x2000, 0x0, 0x0, 0x7], issuer := .pan 0, started := false }, (zdev.updEng 0
      (fun e =>
      { e with copies := [{ id := 5, words := [0x30000000, 0x40, 0x10000110, 0x1100000, 0x2000, 0x0, 0x0, 0x7], issuer := .pan 0, started := false }] })),
      (by decide +kernel)⟩,
    ⟨0, { id := 5, words := [0x30000001, 0x40, 0x10000110, 0x1100000, 0x2000, 0x0, 0x0, 0x7], issuer := .pan 0, started := false }, ((zdev.updPan
      0 (fun q => { q with held := [128] })).updEng 0 (fun e =>
      { e with copies := [{ id := 5, words := [0x30000001, 0x40, 0x10000110, 0x1100000, 0x2000, 0x0, 0x0, 0x7], issuer := .pan 0, started := false }] })),
      (by decide +kernel)⟩,
    ⟨0, 5, none, zdev, (by intro c h; cases h)⟩,
    ⟨0, { id := 5, words := [0x30000001, 0x40, 0x110, 0x25400, 0x2000, 0x0, 0x0, 0x7], issuer := .pan 0, started := false }, ((zdev.updEng 0 (fun
      e =>
      { e with copies := [{ id := 5, words := [0x30000001, 0x40, 0x110, 0x25400, 0x2000, 0x0, 0x0, 0x7], issuer := .pan 0, started := false }] })).updTer
      0 (fun x =>
      { x with regions := [{ base := 148, limit := 148, slot := 1, owner := 0 }, { base := 149, limit := 3967, slot := 0, owner := 0 }] })),
      (by decide +kernel)⟩,
    ⟨0, { id := 5, words := [0x10000001, 0x51000000, 0x10000002, 0x1100000, 0x2000, 0x0, 0x0, 0x0], issuer := .pan 0, started := false }, .lpd
      0x251000000 3 1, (zdev.updEng 0 (fun e =>
      { e with copies := [{ id := 5, words := [0x10000001, 0x51000000, 0x10000002, 0x1100000, 0x2000, 0x0, 0x0, 0x0], issuer := .pan 0, started := false }] })),
      (by decide +kernel)⟩,
    ⟨0, { id := 5, words := [0x10000001, 0x51000000, 0x10000002, 0x1100000, 0x2000, 0x0, 0x0, 0x0], issuer := .pan 0, started := false }, .lpd
      0x251000000 0 3, (zdev.updEng 0 (fun e =>
      { e with copies := [{ id := 5, words := [0x10000001, 0x51000000, 0x10000002, 0x1100000, 0x2000, 0x0, 0x0, 0x0], issuer := .pan 0, started := false }] })),
      (by decide +kernel)⟩,
    ⟨0, { id := 5, words := [0x10000001, 0x40, 0x10000110, 0x1100000, 0x2000, 0x0, 0x0, 0x0], issuer := .pan 0, started := false }, .lpd
      0x251000000 3 1, (zdev.updEng 0 (fun e =>
      { e with copies := [{ id := 5, words := [0x10000001, 0x40, 0x10000110, 0x1100000, 0x2000, 0x0, 0x0, 0x0], issuer := .pan 0, started := false }] })),
      (by decide +kernel)⟩,
    ⟨0, { id := 5, words := [0x30000001, 0x51000000, 0x10000002, 0x1100000, 0x2000, 0x0, 0x0, 0x7], issuer := .pan 0, started := false }, .lpd
      0x251000000 3 1, (zdev.updEng 0 (fun e =>
      { e with copies := [{ id := 5, words := [0x30000001, 0x51000000, 0x10000002, 0x1100000, 0x2000, 0x0, 0x0, 0x7], issuer := .pan 0, started := false }] })),
      (by decide +kernel)⟩,
    ⟨0, { id := 5, words := [0x30000001, 0x51000000, 0x10000002, 0x1100000, 0x2000, 0x0, 0x0, 0x7], issuer := .pan 0, started := false }, .lpd
      0x251000000 0 3, (zdev.updEng 0 (fun e =>
      { e with copies := [{ id := 5, words := [0x30000001, 0x51000000, 0x10000002, 0x1100000, 0x2000, 0x0, 0x0, 0x7], issuer := .pan 0, started := false }] })),
      (by decide +kernel)⟩,
    ⟨0, { id := 5, words := [0x30000001, 0x40, 0x10000110, 0x1100000, 0x2000, 0x0, 0x0, 0x7], issuer := .pan 0, started := false }, .lpd
      0x251000000 3 1, (zdev.updEng 0 (fun e =>
      { e with copies := [{ id := 5, words := [0x30000001, 0x40, 0x10000110, 0x1100000, 0x2000, 0x0, 0x0, 0x7], issuer := .pan 0, started := false }] })),
      (by decide +kernel)⟩⟩

theorem witness_RemoteCopyAndCompletion :
    (∃ (t : Fin 4) (c : CopyCmd) (pe : Peer) (tags : List Nat) (d e : Device), ((d.engAt t).copies.find? (fun x => x.id == c.id) = some c) ∧ terOn
      d = true ∧ mayStart (d.engAt t) c = true ∧ ((copyF c.words).op ≠ 2 ∧ (copyF c.words).op ≠ 3) ∧ (c.started = true ∨ copyChecks d c = 0) ∧
      ((nextSpans c).any (fun s => heldAt d s.1 s.2) = false) ∧ (copyF c.words).moves = true ∧ ((copyF c.words).remote = 2 ∨ ((copyF c.words).op ≠
      2 ∧ (copyF c.words).remote ≠ 0)) ∧ ((copyF c.words).rows ≤ c.row ∨ (List.range (copyF c.words).rowG).any (fun g => granuleBad d (copyF
      c.words) none c.row g) = false) ∧ copyPeer d c = some pe ∧ (sendAll t c.id (rowRequests d (copyF c.words) pe c.row) (if c.started then d
      else d.startCopy t c.id 0 []) = (0, tags, e)))
      ∧ (∃ (t : Fin 4) (c : CopyCmd) (pe : Peer) (st : Nat) (tags : List Nat) (d e : Device), ((d.engAt t).copies.find? (fun x => x.id == c.id) =
        some c) ∧ terOn d = true ∧ mayStart (d.engAt t) c = true ∧ ((copyF c.words).op ≠ 2 ∧ (copyF c.words).op ≠ 3) ∧ (c.started = true ∨
        copyChecks d c = 0) ∧ ((nextSpans c).any (fun s => heldAt d s.1 s.2) = false) ∧ (copyF c.words).moves = true ∧ ((copyF c.words).remote = 2
        ∨ ((copyF c.words).op ≠ 2 ∧ (copyF c.words).remote ≠ 0)) ∧ ((copyF c.words).rows ≤ c.row ∨ (List.range (copyF c.words).rowG).any (fun g =>
        granuleBad d (copyF c.words) none c.row g) = false) ∧ copyPeer d c = some pe ∧ (sendAll t c.id (rowRequests d (copyF c.words) pe c.row)
        (if c.started then d else d.startCopy t c.id 0 []) = (st, tags, e)) ∧ st ≠ 0)
      ∧ (∃ (t : Fin 4) (c : CopyCmd) (d : Device), ((d.engAt t).copies.find? (fun x => x.id == c.id) = some c) ∧ terOn d = true ∧ mayStart
        (d.engAt t) c = true ∧ ((copyF c.words).op ≠ 2 ∧ (copyF c.words).op ≠ 3) ∧ (c.started = true ∨ copyChecks d c = 0) ∧ ((nextSpans c).any
        (fun s => heldAt d s.1 s.2) = false) ∧ (copyF c.words).moves = true ∧ ((copyF c.words).remote = 2 ∨ ((copyF c.words).op ≠ 2 ∧ (copyF
        c.words).remote ≠ 0)) ∧ (c.row < (copyF c.words).rows ∧ (List.range (copyF c.words).rowG).any (fun g => granuleBad d (copyF c.words) none
        c.row g) = true))
      ∧ (∃ (t : Fin 4) (c : CopyCmd) (d : Device), ((d.engAt t).copies.find? (fun x => x.id == c.id) = some c) ∧ terOn d = true ∧ mayStart
        (d.engAt t) c = true ∧ ((copyF c.words).op ≠ 2 ∧ (copyF c.words).op ≠ 3) ∧ c.started = true ∧ ((nextSpans c).any (fun s => heldAt d s.1
        s.2) = false) ∧ (copyF c.words).moves = true ∧ ((copyF c.words).remote = 2 ∨ ((copyF c.words).op ≠ 2 ∧ (copyF c.words).remote ≠ 0)) ∧
        ((copyF c.words).rows ≤ c.row ∨ (List.range (copyF c.words).rowG).any (fun g => granuleBad d (copyF c.words) none c.row g) = false) ∧
        copyPeer d c = none)
      ∧ (∃ (t : Fin 4) (c : CopyCmd) (pe : Peer) (tags : List Nat) (d e : Device), ((d.engAt t).copies.find? (fun x => x.id == c.id) = some c) ∧
        terOn d = true ∧ mayStart (d.engAt t) c = true ∧ (copyF c.words).op = 2 ∧ (c.started = true ∨ copyChecks d c = 0) ∧ ((nextSpans c).any
        (fun s => heldAt d s.1 s.2) = false) ∧ (copyF c.words).moves = true ∧ ((copyF c.words).remote = 2 ∨ ((copyF c.words).op ≠ 2 ∧ (copyF
        c.words).remote ≠ 0)) ∧ ((copyF c.words).rows ≤ c.row ∨ (List.range (copyF c.words).rowG).any (fun g => granuleBad d (copyF c.words) none
        c.row g) = false) ∧ copyPeer d c = some pe ∧ (sendAll t c.id (rowRequests d (copyF c.words) pe c.row) (if c.started then d else
        d.startCopy t c.id 0 []) = (0, tags, e)))
      ∧ (∃ (t : Fin 4) (c : CopyCmd) (pe : Peer) (st : Nat) (tags : List Nat) (d e : Device), ((d.engAt t).copies.find? (fun x => x.id == c.id) =
        some c) ∧ terOn d = true ∧ mayStart (d.engAt t) c = true ∧ (copyF c.words).op = 2 ∧ (c.started = true ∨ copyChecks d c = 0) ∧ ((nextSpans
        c).any (fun s => heldAt d s.1 s.2) = false) ∧ (copyF c.words).moves = true ∧ ((copyF c.words).remote = 2 ∨ ((copyF c.words).op ≠ 2 ∧
        (copyF c.words).remote ≠ 0)) ∧ ((copyF c.words).rows ≤ c.row ∨ (List.range (copyF c.words).rowG).any (fun g => granuleBad d (copyF
        c.words) none c.row g) = false) ∧ copyPeer d c = some pe ∧ (sendAll t c.id (rowRequests d (copyF c.words) pe c.row) (if c.started then d
        else d.startCopy t c.id 0 []) = (st, tags, e)) ∧ st ≠ 0)
      ∧ (∃ (t : Fin 4) (c : CopyCmd) (d : Device), ((d.engAt t).copies.find? (fun x => x.id == c.id) = some c) ∧ terOn d = true ∧ mayStart
        (d.engAt t) c = true ∧ (copyF c.words).op = 2 ∧ c.started = true ∧ ((nextSpans c).any (fun s => heldAt d s.1 s.2) = false) ∧ (copyF
        c.words).moves = true ∧ ((copyF c.words).remote = 2 ∨ ((copyF c.words).op ≠ 2 ∧ (copyF c.words).remote ≠ 0)) ∧ ((copyF c.words).rows ≤
        c.row ∨ (List.range (copyF c.words).rowG).any (fun g => granuleBad d (copyF c.words) none c.row g) = false) ∧ copyPeer d c = none)
      ∧ (∃ (t : Fin 4) (c : CopyCmd) (pe : Peer) (tags : List Nat) (d e : Device), ((d.engAt t).copies.find? (fun x => x.id == c.id) = some c) ∧
        terOn d = true ∧ mayStart (d.engAt t) c = true ∧ (copyF c.words).op = 3 ∧ (c.started = true ∨ copyChecks d c = 0) ∧ ((nextSpans c).any
        (fun s => heldAt d s.1 s.2) = false) ∧ (copyF c.words).moves = true ∧ ((copyF c.words).remote = 2 ∨ ((copyF c.words).op ≠ 2 ∧ (copyF
        c.words).remote ≠ 0)) ∧ ((copyF c.words).rows ≤ c.row ∨ (List.range (copyF c.words).rowG).any (fun g => granuleBad d (copyF c.words) none
        c.row g) = false) ∧ copyPeer d c = some pe ∧ (sendAll t c.id (rowRequests d (copyF c.words) pe c.row) (if c.started then d else
        d.startCopy t c.id 0 []) = (0, tags, e)))
      ∧ (∃ (t : Fin 4) (c : CopyCmd) (pe : Peer) (st : Nat) (tags : List Nat) (d e : Device), ((d.engAt t).copies.find? (fun x => x.id == c.id) =
        some c) ∧ terOn d = true ∧ mayStart (d.engAt t) c = true ∧ (copyF c.words).op = 3 ∧ (c.started = true ∨ copyChecks d c = 0) ∧ ((nextSpans
        c).any (fun s => heldAt d s.1 s.2) = false) ∧ (copyF c.words).moves = true ∧ ((copyF c.words).remote = 2 ∨ ((copyF c.words).op ≠ 2 ∧
        (copyF c.words).remote ≠ 0)) ∧ ((copyF c.words).rows ≤ c.row ∨ (List.range (copyF c.words).rowG).any (fun g => granuleBad d (copyF
        c.words) none c.row g) = false) ∧ copyPeer d c = some pe ∧ (sendAll t c.id (rowRequests d (copyF c.words) pe c.row) (if c.started then d
        else d.startCopy t c.id 0 []) = (st, tags, e)) ∧ st ≠ 0)
      ∧ (∃ (t : Fin 4) (c : CopyCmd) (d : Device), ((d.engAt t).copies.find? (fun x => x.id == c.id) = some c) ∧ terOn d = true ∧ mayStart
        (d.engAt t) c = true ∧ (copyF c.words).op = 3 ∧ (c.started = true ∨ copyChecks d c = 0) ∧ ((nextSpans c).any (fun s => heldAt d s.1 s.2) =
        false) ∧ (copyF c.words).moves = true ∧ ((copyF c.words).remote = 2 ∨ ((copyF c.words).op ≠ 2 ∧ (copyF c.words).remote ≠ 0)) ∧ (c.row <
        (copyF c.words).rows ∧ (List.range (copyF c.words).rowG).any (fun g => granuleBad d (copyF c.words) none c.row g) = true))
      ∧ (∃ (t : Fin 4) (c : CopyCmd) (d : Device), ((d.engAt t).copies.find? (fun x => x.id == c.id) = some c) ∧ terOn d = true ∧ mayStart
        (d.engAt t) c = true ∧ (copyF c.words).op = 3 ∧ c.started = true ∧ ((nextSpans c).any (fun s => heldAt d s.1 s.2) = false) ∧ (copyF
        c.words).moves = true ∧ ((copyF c.words).remote = 2 ∨ ((copyF c.words).op ≠ 2 ∧ (copyF c.words).remote ≠ 0)) ∧ ((copyF c.words).rows ≤
        c.row ∨ (List.range (copyF c.words).rowG).any (fun g => granuleBad d (copyF c.words) none c.row g) = false) ∧ copyPeer d c = none)
      ∧ (∃ (t : Fin 4) (c : CopyCmd) (d : Device), ((d.engAt t).copies.find? (fun x => x.id == c.id) = some c) ∧ terOn d = true ∧ c.started = true
        ∧ c.waits = [] ∧ (copyF c.words).stages ≤ c.row ∧ ((copyF c.words).tagsHere = false ∨ (copyF c.words).remote ≠ 1 ∨ heldAt d ((copyF
        c.words).dst - 32) 32 = false) ∧ ((copyF c.words).tagsHere = false ∨ (copyF c.words).remote ≠ 1 ∨ keyed d ((copyF c.words).dst - 32) 32 =
        true))
      ∧ (∃ (t : Fin 4) (c : CopyCmd) (d : Device), ((d.engAt t).copies.find? (fun x => x.id == c.id) = some c) ∧ terOn d = true ∧ c.started = true
        ∧ c.waits = [] ∧ (copyF c.words).stages ≤ c.row ∧ (copyF c.words).tagsHere = true ∧ (copyF c.words).remote = 1 ∧ heldAt d ((copyF
        c.words).dst - 32) 32 = false ∧ keyed d ((copyF c.words).dst - 32) 32 = false)
      ∧ (∃ (t : Fin 4) (id : Nat) (d : Device), (∀ c, (d.engAt t).copies.find? (fun x => x.id == id) = some c → terOn d = false ∨ c.started =
        false ∨ c.waits ≠ [] ∨ c.row < (copyF c.words).stages ∨       ((copyF c.words).tagsHere = true ∧ (copyF c.words).remote = 1 ∧ heldAt d
        ((copyF c.words).dst - 32) 32 = true))) :=
  ⟨⟨0, { id := 5, words := [0x14000001, 0x51000000, 0x10000002, 0x1100000, 0x2000, 0x0, 0x0, 0x0], issuer := .pan 0, started := false }, wPeer,
      [0], (({ (wJob id).updPort 2 (fun q => { q with state := .full }) with fab := { selfId := some 4, routes := [(9, 2)] } } : Device).updEng 0
      (fun e =>
      { e with copies := [{ id := 5, words := [0x14000001, 0x51000000, 0x10000002, 0x1100000, 0x2000, 0x0, 0x0, 0x0], issuer := .pan 0, started := false }] })),
      (sendAll 0 5 (rowRequests
      ((({ (wJob id).updPort 2 (fun q => { q with state := .full }) with fab := { selfId := some 4, routes := [(9, 2)] } } : Device).updEng 0 (fun
      e =>
      { e with copies := [{ id := 5, words := [0x14000001, 0x51000000, 0x10000002, 0x1100000, 0x2000, 0x0, 0x0, 0x0], issuer := .pan 0, started := false }] })))
      (copyF ({ id := 5, words := [0x14000001, 0x51000000, 0x10000002, 0x1100000, 0x2000, 0x0, 0x0, 0x0], issuer := .pan 0, started := false } :
      CopyCmd).words) wPeer 0)
      (((({ (wJob id).updPort 2 (fun q => { q with state := .full }) with fab := { selfId := some 4, routes := [(9, 2)] } } : Device).updEng 0
      (fun e =>
      { e with copies := [{ id := 5, words := [0x14000001, 0x51000000, 0x10000002, 0x1100000, 0x2000, 0x0, 0x0, 0x0], issuer := .pan 0, started := false }] }))).startCopy
      0 5 0 [])).2.2,
      (by (repeat' apply And.intro); all_goals first | exact Prod.ext (by decide +kernel) (Prod.ext (by decide +kernel) rfl) | decide +kernel)⟩,
    ⟨0, { id := 5, words := [0x14000001, 0x51000000, 0x10000002, 0x1100000, 0x2000, 0x0, 0x0, 0x0], issuer := .pan 0, started := false }, wPeer,
      (sendAll 0 5 (rowRequests (((wJob id).updEng 0 (fun e =>
      { e with copies := [{ id := 5, words := [0x14000001, 0x51000000, 0x10000002, 0x1100000, 0x2000, 0x0, 0x0, 0x0], issuer := .pan 0, started := false }] })))
      (copyF ({ id := 5, words := [0x14000001, 0x51000000, 0x10000002, 0x1100000, 0x2000, 0x0, 0x0, 0x0], issuer := .pan 0, started := false } :
      CopyCmd).words) wPeer 0) ((((wJob id).updEng 0 (fun e =>
      { e with copies := [{ id := 5, words := [0x14000001, 0x51000000, 0x10000002, 0x1100000, 0x2000, 0x0, 0x0, 0x0], issuer := .pan 0, started := false }] }))).startCopy
      0 5 0 [])).1, [], ((wJob id).updEng 0 (fun e =>
      { e with copies := [{ id := 5, words := [0x14000001, 0x51000000, 0x10000002, 0x1100000, 0x2000, 0x0, 0x0, 0x0], issuer := .pan 0, started := false }] })),
      (sendAll 0 5 (rowRequests (((wJob id).updEng 0 (fun e =>
      { e with copies := [{ id := 5, words := [0x14000001, 0x51000000, 0x10000002, 0x1100000, 0x2000, 0x0, 0x0, 0x0], issuer := .pan 0, started := false }] })))
      (copyF ({ id := 5, words := [0x14000001, 0x51000000, 0x10000002, 0x1100000, 0x2000, 0x0, 0x0, 0x0], issuer := .pan 0, started := false } :
      CopyCmd).words) wPeer 0) ((((wJob id).updEng 0 (fun e =>
      { e with copies := [{ id := 5, words := [0x14000001, 0x51000000, 0x10000002, 0x1100000, 0x2000, 0x0, 0x0, 0x0], issuer := .pan 0, started := false }] }))).startCopy
      0 5 0 [])).2.2,
      (by (repeat' apply And.intro); all_goals first | exact Prod.ext (by decide +kernel) (Prod.ext (by decide +kernel) rfl) | decide +kernel)⟩,
    ⟨0, { id := 5, words := [0x14000001, 0x51000000, 0x2, 0x25200, 0x2000, 0x0, 0x0, 0x0], issuer := .pan 0, started := false },
      ((({ (wJob id).updPort 2 (fun q => { q with state := .full }) with fab := { selfId := some 4, routes := [(9, 2)] } } : Device).updEng 0 (fun
      e =>
      { e with copies := [{ id := 5, words := [0x14000001, 0x51000000, 0x2, 0x25200, 0x2000, 0x0, 0x0, 0x0], issuer := .pan 0, started := false }] })).updTer
      0 (fun x => { x with keys := [none, none, none, none] })), (by decide +kernel)⟩,
    ⟨0, { id := 5, words := [0x14000002, 0x40, 0x10000110, 0x1100000, 0x2000, 0x0, 0x0, 0x0], issuer := .pan 0, started := true, row := 1 },
      (zdev.updEng 0 (fun e =>
      { e with copies := [{ id := 5, words := [0x14000002, 0x40, 0x10000110, 0x1100000, 0x2000, 0x0, 0x0, 0x0], issuer := .pan 0, started := true, row := 1 }] })),
      (by decide +kernel)⟩,
    ⟨0, { id := 5, words := [0x28000001, 0x40, 0x110, 0x25100, 0x2000, 0x0, 0x0, 0x1234], issuer := .pan 0, started := false }, wPeer, [0],
      (({ (wJob id).updPort 2 (fun q => { q with state := .full }) with fab := { selfId := some 4, routes := [(9, 2)] } } : Device).updEng 0 (fun
      e =>
      { e with copies := [{ id := 5, words := [0x28000001, 0x40, 0x110, 0x25100, 0x2000, 0x0, 0x0, 0x1234], issuer := .pan 0, started := false }] })),
      (sendAll 0 5 (rowRequests
      ((({ (wJob id).updPort 2 (fun q => { q with state := .full }) with fab := { selfId := some 4, routes := [(9, 2)] } } : Device).updEng 0 (fun
      e =>
      { e with copies := [{ id := 5, words := [0x28000001, 0x40, 0x110, 0x25100, 0x2000, 0x0, 0x0, 0x1234], issuer := .pan 0, started := false }] })))
      (copyF ({ id := 5, words := [0x28000001, 0x40, 0x110, 0x25100, 0x2000, 0x0, 0x0, 0x1234], issuer := .pan 0, started := false } :
      CopyCmd).words) wPeer 0)
      (((({ (wJob id).updPort 2 (fun q => { q with state := .full }) with fab := { selfId := some 4, routes := [(9, 2)] } } : Device).updEng 0
      (fun e =>
      { e with copies := [{ id := 5, words := [0x28000001, 0x40, 0x110, 0x25100, 0x2000, 0x0, 0x0, 0x1234], issuer := .pan 0, started := false }] }))).startCopy
      0 5 0 [])).2.2,
      (by (repeat' apply And.intro); all_goals first | exact Prod.ext (by decide +kernel) (Prod.ext (by decide +kernel) rfl) | decide +kernel)⟩,
    ⟨0, { id := 5, words := [0x28000001, 0x40, 0x110, 0x25100, 0x2000, 0x0, 0x0, 0x1234], issuer := .pan 0, started := false }, wPeer, (sendAll 0
      5 (rowRequests (((wJob id).updEng 0 (fun e =>
      { e with copies := [{ id := 5, words := [0x28000001, 0x40, 0x110, 0x25100, 0x2000, 0x0, 0x0, 0x1234], issuer := .pan 0, started := false }] })))
      (copyF ({ id := 5, words := [0x28000001, 0x40, 0x110, 0x25100, 0x2000, 0x0, 0x0, 0x1234], issuer := .pan 0, started := false } :
      CopyCmd).words) wPeer 0) ((((wJob id).updEng 0 (fun e =>
      { e with copies := [{ id := 5, words := [0x28000001, 0x40, 0x110, 0x25100, 0x2000, 0x0, 0x0, 0x1234], issuer := .pan 0, started := false }] }))).startCopy
      0 5 0 [])).1, [], ((wJob id).updEng 0 (fun e =>
      { e with copies := [{ id := 5, words := [0x28000001, 0x40, 0x110, 0x25100, 0x2000, 0x0, 0x0, 0x1234], issuer := .pan 0, started := false }] })),
      (sendAll 0 5 (rowRequests (((wJob id).updEng 0 (fun e =>
      { e with copies := [{ id := 5, words := [0x28000001, 0x40, 0x110, 0x25100, 0x2000, 0x0, 0x0, 0x1234], issuer := .pan 0, started := false }] })))
      (copyF ({ id := 5, words := [0x28000001, 0x40, 0x110, 0x25100, 0x2000, 0x0, 0x0, 0x1234], issuer := .pan 0, started := false } :
      CopyCmd).words) wPeer 0) ((((wJob id).updEng 0 (fun e =>
      { e with copies := [{ id := 5, words := [0x28000001, 0x40, 0x110, 0x25100, 0x2000, 0x0, 0x0, 0x1234], issuer := .pan 0, started := false }] }))).startCopy
      0 5 0 [])).2.2,
      (by (repeat' apply And.intro); all_goals first | exact Prod.ext (by decide +kernel) (Prod.ext (by decide +kernel) rfl) | decide +kernel)⟩,
    ⟨0, { id := 5, words := [0x28000002, 0x40, 0x110, 0x25100, 0x2000, 0x0, 0x0, 0x1234], issuer := .pan 0, started := true, row := 1 },
      (zdev.updEng 0 (fun e =>
      { e with copies := [{ id := 5, words := [0x28000002, 0x40, 0x110, 0x25100, 0x2000, 0x0, 0x0, 0x1234], issuer := .pan 0, started := true, row := 1 }] })),
      (by decide +kernel)⟩,
    ⟨0, { id := 5, words := [0x38000001, 0x40, 0x110, 0x25100, 0x2000, 0x0, 0x0, 0x7], issuer := .pan 0, started := false }, wPeer, [0],
      (({ (wJob id).updPort 2 (fun q => { q with state := .full }) with fab := { selfId := some 4, routes := [(9, 2)] } } : Device).updEng 0 (fun
      e =>
      { e with copies := [{ id := 5, words := [0x38000001, 0x40, 0x110, 0x25100, 0x2000, 0x0, 0x0, 0x7], issuer := .pan 0, started := false }] })),
      (sendAll 0 5 (rowRequests
      ((({ (wJob id).updPort 2 (fun q => { q with state := .full }) with fab := { selfId := some 4, routes := [(9, 2)] } } : Device).updEng 0 (fun
      e =>
      { e with copies := [{ id := 5, words := [0x38000001, 0x40, 0x110, 0x25100, 0x2000, 0x0, 0x0, 0x7], issuer := .pan 0, started := false }] })))
      (copyF ({ id := 5, words := [0x38000001, 0x40, 0x110, 0x25100, 0x2000, 0x0, 0x0, 0x7], issuer := .pan 0, started := false } :
      CopyCmd).words) wPeer 0)
      (((({ (wJob id).updPort 2 (fun q => { q with state := .full }) with fab := { selfId := some 4, routes := [(9, 2)] } } : Device).updEng 0
      (fun e =>
      { e with copies := [{ id := 5, words := [0x38000001, 0x40, 0x110, 0x25100, 0x2000, 0x0, 0x0, 0x7], issuer := .pan 0, started := false }] }))).startCopy
      0 5 0 [])).2.2,
      (by (repeat' apply And.intro); all_goals first | exact Prod.ext (by decide +kernel) (Prod.ext (by decide +kernel) rfl) | decide +kernel)⟩,
    ⟨0, { id := 5, words := [0x38000001, 0x40, 0x110, 0x25100, 0x2000, 0x0, 0x0, 0x7], issuer := .pan 0, started := false }, wPeer, (sendAll 0 5
      (rowRequests (((wJob id).updEng 0 (fun e =>
      { e with copies := [{ id := 5, words := [0x38000001, 0x40, 0x110, 0x25100, 0x2000, 0x0, 0x0, 0x7], issuer := .pan 0, started := false }] })))
      (copyF ({ id := 5, words := [0x38000001, 0x40, 0x110, 0x25100, 0x2000, 0x0, 0x0, 0x7], issuer := .pan 0, started := false } :
      CopyCmd).words) wPeer 0) ((((wJob id).updEng 0 (fun e =>
      { e with copies := [{ id := 5, words := [0x38000001, 0x40, 0x110, 0x25100, 0x2000, 0x0, 0x0, 0x7], issuer := .pan 0, started := false }] }))).startCopy
      0 5 0 [])).1, [], ((wJob id).updEng 0 (fun e =>
      { e with copies := [{ id := 5, words := [0x38000001, 0x40, 0x110, 0x25100, 0x2000, 0x0, 0x0, 0x7], issuer := .pan 0, started := false }] })),
      (sendAll 0 5 (rowRequests (((wJob id).updEng 0 (fun e =>
      { e with copies := [{ id := 5, words := [0x38000001, 0x40, 0x110, 0x25100, 0x2000, 0x0, 0x0, 0x7], issuer := .pan 0, started := false }] })))
      (copyF ({ id := 5, words := [0x38000001, 0x40, 0x110, 0x25100, 0x2000, 0x0, 0x0, 0x7], issuer := .pan 0, started := false } :
      CopyCmd).words) wPeer 0) ((((wJob id).updEng 0 (fun e =>
      { e with copies := [{ id := 5, words := [0x38000001, 0x40, 0x110, 0x25100, 0x2000, 0x0, 0x0, 0x7], issuer := .pan 0, started := false }] }))).startCopy
      0 5 0 [])).2.2,
      (by (repeat' apply And.intro); all_goals first | exact Prod.ext (by decide +kernel) (Prod.ext (by decide +kernel) rfl) | decide +kernel)⟩,
    ⟨0, { id := 5, words := [0x38000001, 0x51000000, 0x2, 0x25200, 0x2000, 0x0, 0x0, 0x7], issuer := .pan 0, started := false },
      ((({ (wJob id).updPort 2 (fun q => { q with state := .full }) with fab := { selfId := some 4, routes := [(9, 2)] } } : Device).updEng 0 (fun
      e =>
      { e with copies := [{ id := 5, words := [0x38000001, 0x51000000, 0x2, 0x25200, 0x2000, 0x0, 0x0, 0x7], issuer := .pan 0, started := false }] })).updTer
      0 (fun x => { x with keys := [none, none, none, none] })), (by decide +kernel)⟩,
    ⟨0, { id := 5, words := [0x38000002, 0x40, 0x110, 0x25100, 0x2000, 0x0, 0x0, 0x7], issuer := .pan 0, started := true, row := 1 }, (zdev.updEng
      0 (fun e =>
      { e with copies := [{ id := 5, words := [0x38000002, 0x40, 0x110, 0x25100, 0x2000, 0x0, 0x0, 0x7], issuer := .pan 0, started := true, row := 1 }] })),
      (by decide +kernel)⟩,
    ⟨0, { id := 5, words := [0x10000001, 0x40, 0x10000110, 0x1100000, 0x2260, 0x0, 0x0, 0x0], issuer := .pan 0, started := true, row := 1 },
      (zdev.updEng 0 (fun e =>
      { e with copies := [{ id := 5, words := [0x10000001, 0x40, 0x10000110, 0x1100000, 0x2260, 0x0, 0x0, 0x0], issuer := .pan 0, started := true, row := 1 }] })),
      (by decide +kernel)⟩,
    ⟨0, { id := 5, words := [0x34000001, 0x40, 0x110, 0x25200, 0x2000, 0x0, 0x0, 0x0], issuer := .pan 0, started := true, row := 1 },
      ((zdev.updEng 0 (fun e =>
      { e with copies := [{ id := 5, words := [0x34000001, 0x40, 0x110, 0x25200, 0x2000, 0x0, 0x0, 0x0], issuer := .pan 0, started := true, row := 1 }] })).updTer
      0 (fun x => { x with keys := [none, none, none, none] })), (by decide +kernel)⟩,
    ⟨0, 5, (zdev.updEng 0 (fun e =>
      { e with copies := [{ id := 5, words := [0x10000001, 0x40, 0x10000110, 0x1100000, 0x2000, 0x0, 0x0, 0x0], issuer := .pan 0, started := false }] })),
      (by intro c h; exact Or.inr (Or.inl (by cases h; rfl)))⟩⟩

theorem witness_LocalCopyMovesItsBytes :
    ∃ (t : Fin 4) (c : CopyCmd) (d : Device), ((d.engAt t).copies.find? (fun x => x.id == c.id) = some c) ∧ terOn d = true ∧ mayStart (d.engAt t)
      c = true ∧ (copyF c.words).op = 1 ∧ copyChecks d c = 0 ∧ ((nextSpans c).any (fun s => heldAt d s.1 s.2) = false) ∧ (copyF c.words).moves =
      true ∧ (copyF c.words).remote = 0 ∧ ((List.range (copyF c.words).rows).find? (fun i => (List.range (copyF c.words).rowG).any (fun g =>
      granuleBad d (copyF c.words) none i g)) = none) ∧ (copyF c.words).rows = 1 ∧ ((copyF c.words).src + (copyF c.words).len ≤ (copyF
      c.words).dst ∨ (copyF c.words).dst + (copyF c.words).len ≤ (copyF c.words).src) :=
  ⟨0, { id := 5, words := [0x10000001, 0x40, 0x10000110, 0x1100000, 0x2000, 0x0, 0x0, 0x0], issuer := .pan 0, started := false }, (zdev.updEng 0
    (fun e =>
    { e with copies := [{ id := 5, words := [0x10000001, 0x40, 0x10000110, 0x1100000, 0x2000, 0x0, 0x0, 0x0], issuer := .pan 0, started := false }] })),
    (by decide +kernel)⟩

theorem witness_BufferRegeneration :
    (∃ (j : Fin 16) (addr : Nat) (b : BufEntry) (d : Device), terOn d = true ∧ grainHeld d addr = true ∧ inContext d j addr = false ∧ (d.jobAt
      j).live = true ∧ bufferOf d j addr = some b ∧ b.kind = 0 ∧ ((partOf b addr).1 % 32 = 0 ∧ (partOf b addr).2 % 32 = 0 ∧ (fieldAt b.source 0 8
      + ((partOf b addr).1 - b.base)) % 32 = 0) ∧ heldAt d (fieldAt b.source 0 8 + ((partOf b addr).1 - b.base)) (partOf b addr).2 = false ∧
      ((d.engAt (terOf addr)).copies.any (fun c => c.issuer == .firmware && c.words == recopyWords (fieldAt b.source 0 8 + ((partOf b addr).1 -
      b.base)) (partOf b addr).1 (partOf b addr).2) = false))
      ∧ (∃ (j : Fin 16) (addr : Nat) (b : BufEntry) (d : Device), terOn d = true ∧ grainHeld d addr = true ∧ inContext d j addr = false ∧ (d.jobAt
        j).live = true ∧ bufferOf d j addr = some b ∧ b.kind = 0 ∧ ((partOf b addr).1 % 32 = 0 ∧ (partOf b addr).2 % 32 = 0 ∧ (fieldAt b.source 0
        8 + ((partOf b addr).1 - b.base)) % 32 = 0) ∧ (heldAt d (fieldAt b.source 0 8 + ((partOf b addr).1 - b.base)) (partOf b addr).2 = true ∨
        (d.engAt (terOf addr)).copies.any (fun c => c.issuer == .firmware && c.words == recopyWords (fieldAt b.source 0 8 + ((partOf b addr).1 -
        b.base)) (partOf b addr).1 (partOf b addr).2) = true))
      ∧ (∃ (j : Fin 16) (addr : Nat) (b : BufEntry) (d : Device), terOn d = true ∧ grainHeld d addr = true ∧ inContext d j addr = false ∧ (d.jobAt
        j).live = true ∧ bufferOf d j addr = some b ∧ b.kind = 0 ∧ (¬((partOf b addr).1 % 32 = 0 ∧ (partOf b addr).2 % 32 = 0 ∧ (fieldAt b.source
        0 8 + ((partOf b addr).1 - b.base)) % 32 = 0)))
      ∧ (∃ (j : Fin 16) (addr : Nat) (b : BufEntry) (p : Nat) (d : Device), terOn d = true ∧ grainHeld d addr = true ∧ inContext d j addr = false
        ∧ (d.jobAt j).live = true ∧ bufferOf d j addr = some b ∧ b.kind = 1 ∧ ((pansOf d j).find? (fun p => (d.panAt p).job == some (j.val,
        fieldAt b.source 0 1)) = some p))
      ∧ (∃ (j : Fin 16) (addr : Nat) (b : BufEntry) (d : Device), terOn d = true ∧ grainHeld d addr = true ∧ inContext d j addr = false ∧ (d.jobAt
        j).live = true ∧ bufferOf d j addr = some b ∧ b.kind = 1 ∧ ((pansOf d j).find? (fun p => (d.panAt p).job == some (j.val, fieldAt b.source
        0 1)) = none))
      ∧ (∃ (j : Fin 16) (addr : Nat) (b : BufEntry) (d : Device), terOn d = true ∧ grainHeld d addr = true ∧ inContext d j addr = false ∧ (d.jobAt
        j).live = true ∧ bufferOf d j addr = some b ∧ b.kind = 2 ∧ (((d.jobAt j).allSteps.flatMap (fun st => (st.mbs.filter (fun m => m.dispatched
        && m.samples.any (fun x => x.slot == fieldAt b.source 0 4))).map (fun m => (m.addr, batchBytes st m)))) ≠ []))
      ∧ (∃ (j : Fin 16) (addr : Nat) (b : BufEntry) (d : Device), terOn d = true ∧ grainHeld d addr = true ∧ inContext d j addr = false ∧ (d.jobAt
        j).live = true ∧ bufferOf d j addr = some b ∧ b.kind = 2 ∧ (((d.jobAt j).allSteps.flatMap (fun st => (st.mbs.filter (fun m => m.dispatched
        && m.samples.any (fun x => x.slot == fieldAt b.source 0 4))).map (fun m => (m.addr, batchBytes st m)))) = []))
      ∧ (∃ (j : Fin 16) (addr : Nat) (b : BufEntry) (d : Device), terOn d = true ∧ grainHeld d addr = true ∧ inContext d j addr = false ∧ (d.jobAt
        j).live = true ∧ bufferOf d j addr = some b ∧ 3 ≤ b.kind)
      ∧ (∃ (j : Fin 16) (addr : Nat) (d : Device), terOn d = true ∧ grainHeld d addr = true ∧ inContext d j addr = true)
      ∧ (∃ (j : Fin 16) (addr : Nat) (d : Device), terOn d = true ∧ grainHeld d addr = true ∧ inContext d j addr = false ∧ (d.jobAt j).live = true
        ∧ bufferOf d j addr = none)
      ∧ (∃ (j : Fin 16) (addr : Nat) (d : Device), (terOn d = false ∨ grainHeld d addr = false ∨ (inContext d j addr = false ∧ (d.jobAt j).live =
        false))) :=
  ⟨⟨0, 0x011000000044, wBuf 0x011000000000 0 0x011000100000, ((wBufJob (wBuf 0x011000000000 0 0x011000100000)).updPan 0 (fun p =>
      { p with held := [2] })), (by decide +kernel)⟩,
    ⟨0, 0x011000000044, wBuf 0x011000000000 0 0x011000100000, ((wBufJob (wBuf 0x011000000000 0 0x011000100000)).updPan 0 (fun p =>
      { p with held := [2, 0x8002] })), (by decide +kernel)⟩,
    ⟨0, 0x011000000044, (wBuf 0x011000000000 0 0x011000100001), ((wBufJob (wBuf 0x011000000000 0 0x011000100001)).updPan 0 (fun p =>
      { p with held := [2] })), (by decide +kernel)⟩,
    ⟨0, 0x011000000044, (wBuf 0x011000000000 1 0), 0, ((wBufJob (wBuf 0x011000000000 1 0)).updPan 0 (fun p => { p with held := [2] })),
      (by decide +kernel)⟩,
    ⟨0, 0x011000000044, (wBuf 0x011000000000 1 7), ((wBufJob (wBuf 0x011000000000 1 7)).updPan 0 (fun p => { p with held := [2] })),
      (by decide +kernel)⟩,
    ⟨0, 0x011000000044, (wBuf 0x011000000000 2 0), (((wBufJob (wBuf 0x011000000000 2 0)).updPan 0 (fun p => { p with held := [2] })).updJob 0 (fun
      q =>
      { q with steps := [{ wStep with mbs := [{ dispatched := true, samples := [{ slot := 0, pos := 0, sample := 0, offset := 0, tokens := 0 }] }] }] })),
      (by decide +kernel)⟩,
    ⟨0, 0x011000000044, (wBuf 0x011000000000 2 0), ((wBufJob (wBuf 0x011000000000 2 0)).updPan 0 (fun p => { p with held := [2] })),
      (by decide +kernel)⟩,
    ⟨0, 0x44, (wBuf 0 3 0), ((wBufJob (wBuf 0 3 0)).updTer 0 (fun x => { x with lostLines := [0] })), (by decide +kernel)⟩,
    ⟨0, 0, ((wJob (fun q =>
      { q with saved := some { pans := [], store := {}, grader := none }, resv := some { wResv with save := [(0, 0)] } })).updTer 0 (fun x =>
      { x with lostLines := [0] })), (by decide +kernel)⟩,
    ⟨0, 0x011000000044, (wJob id).updPan 0 (fun p => { p with held := [2] }), (by decide +kernel)⟩,
    ⟨0, 0x011000000044, zdev, (by decide +kernel)⟩⟩

theorem witness_MemoryModesAndTest :
    (∃ (t : Fin 4) (modes : BitVec 80) (d : Device), atBoundary d t = true ∧ d.inp.stage = .served ∧ d.glb.cur ≠ .shelf)
      ∧ (∃ (t : Fin 4) (modes : BitVec 80) (d : Device), (atBoundary d t = false ∨ d.inp.stage ≠ .served ∨ d.glb.cur = .shelf))
      ∧ (∃ (t : Fin 4) (c : Fin 32) (d : Device), atBoundary d t = true ∧ (d.terAt t).chans.getLsbD c = true ∧ (d.terAt t).chans &&& ~~~(1#32 <<<
        c.val) ≠ 0)
      ∧ (∃ (t : Fin 4) (c : Fin 32) (d : Device), (atBoundary d t = false ∨ (d.terAt t).chans.getLsbD c = false ∨ (d.terAt t).chans &&& ~~~(1#32
        <<< c.val) = 0))
      ∧ (∃ (t : Fin 4) (b : Fin 80) (d : Device), (d.terAt t).bedOut.getLsbD b = false)
      ∧ (∃ (t : Fin 4) (b : Fin 80) (d : Device), (d.terAt t).bedOut.getLsbD b = true)
      ∧ (∃ (t : Fin 4) (d : Device), atBoundary d t = true ∧ holdsPartner (d.terAt t) = false ∧ d.inp.stage = .served ∧ d.glb.cur ≠ .shelf ∧
        (d.terAt t).testEn = false)
      ∧ (∃ (t : Fin 4) (d : Device), (atBoundary d t = false ∨ holdsPartner (d.terAt t) = true ∨ d.inp.stage ≠ .served ∨ d.glb.cur = .shelf ∨
        (d.terAt t).testEn = true))
      ∧ (∃ (t : Fin 4) (d : Device), (d.terAt t).testEn = true)
      ∧ (∃ (t : Fin 4) (d : Device), (d.terAt t).testEn = false)
      ∧ (∃ (c : Fin 128) (pattern opmode : Nat) (d : Device), (d.chanAt c).run.isSome = true)
      ∧ (∃ (c : Fin 128) (pattern opmode : Nat) (d : Device), (d.chanAt c).run = none ∧ ((d.terAt (c / 32)).testEn = false ∨ 6 ≤ pattern % 8 ∨
        rawBursts d < (d.chanAt c).start + (d.chanAt c).count))
      ∧ (∃ (c : Fin 128) (pattern opmode : Nat) (d : Device), (d.chanAt c).run = none ∧ (d.terAt (c / 32)).testEn = true ∧ pattern % 8 < 6 ∧
        (d.chanAt c).start + (d.chanAt c).count ≤ rawBursts d ∧ (d.chanAt c).count = 0)
      ∧ (∃ (c : Fin 128) (pattern opmode : Nat) (d : Device), (d.chanAt c).run = none ∧ (d.terAt (c / 32)).testEn = true ∧ pattern % 8 < 6 ∧
        (d.chanAt c).start + (d.chanAt c).count ≤ rawBursts d ∧ (d.chanAt c).count ≠ 0)
      ∧ (∃ (c : Fin 128) (r : TgRun) (d : Device), (d.chanAt c).run = some r ∧ r.opmode = 1)
      ∧ (∃ (c : Fin 128) (r : TgRun) (d : Device), (d.chanAt c).run = some r ∧ r.opmode ≠ 1)
      ∧ (∃ (c : Fin 128) (r : TgRun) (flips : List (Nat × Nat)) (d : Device), (d.chanAt c).run = some r)
      ∧ (∃ (c : Fin 128) (flips : List (Nat × Nat)) (d : Device), (d.chanAt c).run = none) :=
  ⟨⟨3, 0xFF, State.reset.dev, (by decide +kernel)⟩,
    ⟨3, 0xFF, (wJob (fun q => { q with resv := some { wResv with part := partOfTer State.reset.dev.quy.layout 3 } })), (by decide +kernel)⟩,
    ⟨2, 31, State.reset.dev, (by decide +kernel)⟩,
    ⟨2, 31, State.reset.dev.updTer 2 (fun x => { x with chans := 1#32 <<< 31 }), (by decide +kernel)⟩,
    ⟨1, 79, State.reset.dev, (by decide +kernel)⟩,
    ⟨1, 79, State.reset.dev.updTer 1 (fun x => { x with bedOut := 1#80 <<< 79 }), (by decide +kernel)⟩,
    ⟨1, State.reset.dev, (by decide +kernel)⟩,
    ⟨1, State.reset.dev.updTer 1 (fun x => { x with testEn := true }), (by decide +kernel)⟩,
    ⟨1, State.reset.dev.updTer 1 (fun x => { x with testEn := true }), (by decide +kernel)⟩,
    ⟨1, State.reset.dev, (by decide +kernel)⟩,
    ⟨5, 2, 1, State.reset.dev.updChan 5 (fun x => { x with run := some { pattern := 5, opmode := 0, start := 0, count := 2, seed := 1 } }),
      (by decide +kernel)⟩,
    ⟨127, 2, 2, State.reset.dev, (by decide +kernel)⟩,
    ⟨32, 5, 2, (State.reset.dev.updTer 1 (fun x => { x with testEn := true })), (by decide +kernel)⟩,
    ⟨32, 5, 2, (State.reset.dev.updTer 1 (fun x => { x with testEn := true })).updChan 32 (fun x => { x with count := 4, errCnt := 9 }),
      (by decide +kernel)⟩,
    ⟨5, { pattern := 5, opmode := 1, start := 0, count := 2, seed := 1 }, State.reset.dev.updChan 5 (fun x =>
      { x with run := some { pattern := 5, opmode := 1, start := 0, count := 2, seed := 1 } }), (by decide +kernel)⟩,
    ⟨5, { pattern := 5, opmode := 2, start := 0, count := 2, seed := 1 }, State.reset.dev.updChan 5 (fun x =>
      { x with run := some { pattern := 5, opmode := 2, start := 0, count := 2, seed := 1 } }), (by decide +kernel)⟩,
    ⟨5, { pattern := 5, opmode := 2, start := 0, count := 2, seed := 1 }, [(1, 3)], State.reset.dev.updChan 5 (fun x =>
      { x with run := some { pattern := 5, opmode := 2, start := 0, count := 2, seed := 1 } }), (by decide +kernel)⟩,
    ⟨5, [], State.reset.dev, (by decide +kernel)⟩⟩

theorem witness_SkimCommands :
    (∃ (t : Fin 4) (k : SkimCmd) (rest : List SkimCmd) (n : Nat) (hit : Option Hit) (d : Device), (d.engAt t).skim = k :: rest ∧ engOn d = true ∧
      (d.engAt t).skimFailed = false ∧ ((skimF k.bytes).recAddr % 32 = 0 ∧ engineAccess d k.job [((skimF k.bytes).recAddr, 64)] ≠ 0))
      ∧ (∃ (t : Fin 4) (k : SkimCmd) (rest : List SkimCmd) (n : Nat) (hit : Option Hit) (d : Device), (d.engAt t).skim = k :: rest ∧ engOn d =
        true ∧ (d.engAt t).skimFailed = false ∧ ((skimF k.bytes).recAddr % 32 ≠ 0 ∨ engineAccess d k.job [((skimF k.bytes).recAddr, 64)] = 0) ∧
        skimChecks d k.job (skimF k.bytes) (convRec (d.mem.readN (skimF k.bytes).recAddr 64)) ≠ 0)
      ∧ (∃ (t : Fin 4) (k : SkimCmd) (rest : List SkimCmd) (n : Nat) (d : Device), (d.engAt t).skim = k :: rest ∧ engOn d = true ∧ (d.engAt
        t).skimFailed = false ∧ ((skimF k.bytes).recAddr % 32 ≠ 0 ∨ engineAccess d k.job [((skimF k.bytes).recAddr, 64)] = 0) ∧ skimChecks d k.job
        (skimF k.bytes) (convRec (d.mem.readN (skimF k.bytes).recAddr 64)) = 0 ∧ ((if (skimF k.bytes).m = 0 then [((skimF k.bytes).recAddr, 64)]
        else ((skimF k.bytes).recAddr, 64) :: (skimF k.bytes).spans (convRec (d.mem.readN (skimF k.bytes).recAddr 64)) ++ (skimF k.bytes).pixels
        (convRec (d.mem.readN (skimF k.bytes).recAddr 64))).any (fun s => heldAt d s.1 s.2) = false))
      ∧ (∃ (t : Fin 4) (k : SkimCmd) (rest : List SkimCmd) (n : Nat) (h : Hit) (d : Device), (d.engAt t).skim = k :: rest ∧ engOn d = true ∧
        (d.engAt t).skimFailed = false ∧ ((skimF k.bytes).recAddr % 32 ≠ 0 ∨ engineAccess d k.job [((skimF k.bytes).recAddr, 64)] = 0) ∧
        skimChecks d k.job (skimF k.bytes) (convRec (d.mem.readN (skimF k.bytes).recAddr 64)) = 0 ∧ ((if (skimF k.bytes).m = 0 then [((skimF
        k.bytes).recAddr, 64)] else ((skimF k.bytes).recAddr, 64) :: (skimF k.bytes).spans (convRec (d.mem.readN (skimF k.bytes).recAddr 64)) ++
        (skimF k.bytes).pixels (convRec (d.mem.readN (skimF k.bytes).recAddr 64))).any (fun s => heldAt d s.1 s.2) = false) ∧ (hitFits d h = true
        ∧ (if (skimF k.bytes).m = 0 then [((skimF k.bytes).recAddr, 64)] else ((skimF k.bytes).recAddr, 64) :: (skimF k.bytes).spans (convRec
        (d.mem.readN (skimF k.bytes).recAddr 64)) ++ (skimF k.bytes).pixels (convRec (d.mem.readN (skimF k.bytes).recAddr 64))).any (fun s =>
        decide (s.1 ≤ hitAddr h) && decide (hitAddr h < s.1 + s.2)) = true))
      ∧ (∃ (t : Fin 4) (k : SkimCmd) (rest : List SkimCmd) (n : Nat) (hit : Option Hit) (d : Device), (d.engAt t).skim = k :: rest ∧ engOn d =
        true ∧ (d.engAt t).skimFailed = false ∧ ((skimF k.bytes).recAddr % 32 ≠ 0 ∨ engineAccess d k.job [((skimF k.bytes).recAddr, 64)] = 0) ∧
        skimChecks d k.job (skimF k.bytes) (convRec (d.mem.readN (skimF k.bytes).recAddr 64)) = 0 ∧ ((if (skimF k.bytes).m = 0 then [((skimF
        k.bytes).recAddr, 64)] else ((skimF k.bytes).recAddr, 64) :: (skimF k.bytes).spans (convRec (d.mem.readN (skimF k.bytes).recAddr 64)) ++
        (skimF k.bytes).pixels (convRec (d.mem.readN (skimF k.bytes).recAddr 64))).any (fun s => heldAt d s.1 s.2) = true ∨ (∃ h, hit = some h ∧
        ¬(hitFits d h = true ∧ (if (skimF k.bytes).m = 0 then [((skimF k.bytes).recAddr, 64)] else ((skimF k.bytes).recAddr, 64) :: (skimF
        k.bytes).spans (convRec (d.mem.readN (skimF k.bytes).recAddr 64)) ++ (skimF k.bytes).pixels (convRec (d.mem.readN (skimF k.bytes).recAddr
        64))).any (fun s => decide (s.1 ≤ hitAddr h) && decide (hitAddr h < s.1 + s.2)) = true))))
      ∧ (∃ (t : Fin 4) (k : SkimCmd) (rest : List SkimCmd) (n : Nat) (hit : Option Hit) (d : Device), (d.engAt t).skim = k :: rest ∧ engOn d =
        true ∧ (d.engAt t).skimFailed = true)
      ∧ (∃ (t : Fin 4) (n : Nat) (hit : Option Hit) (d : Device), ((d.engAt t).skim = [] ∨ engOn d = false))
      ∧ (∃ (t : Fin 4) (k : SkimCmd) (rest : List SkimCmd) (d : Device), (d.engAt t).skim = k :: rest ∧ engOn d = true ∧ (d.engAt t).skimFailed =
        false)
      ∧ (∃ (t : Fin 4) (d : Device), ((d.engAt t).skim = [] ∨ engOn d = false ∨ (d.engAt t).skimFailed = true)) :=
  ⟨⟨0,
      { bytes := ([0x11000000, 0x1, 0x0, 0x120, 0x1000, 0x110, 0x2000, 0x110, 0x3000, 0x110, 0x4000, 0x110, 0x40, 0x3470001, 0x0, 0x0].flatMap (toLE 4)), job := 0 },
      [], 0, none, ((wJob id).psWrite 0 0x200 ([0x40000000, 0x4, 0x10000, 0x1, 0x1000001, 0x0, 0x4, 0x0, 0x0, 0x0, 0x1, 0x0, 0x0, 0x0, 0x0,
      0x1].flatMap (toLE 4))).updEng 0 (fun e =>
      { e with skim := [{ bytes := ([0x11000000, 0x1, 0x0, 0x120, 0x1000, 0x110, 0x2000, 0x110, 0x3000, 0x110, 0x4000, 0x110, 0x40, 0x3470001, 0x0, 0x0].flatMap (toLE 4)), job := 0 }] }),
      (by decide +kernel)⟩,
    ⟨0,
      { bytes := ([0x11000000, 0x1, 0x200, 0x110, 0x1000, 0x110, 0x2000, 0x110, 0x3000, 0x110, 0x4000, 0x110, 0x40, 0x3470000, 0x0, 0x0].flatMap (toLE 4)), job := 0 },
      [], 0, none, ((wJob id).psWrite 0 0x200 ([0x40000000, 0x4, 0x10000, 0x1, 0x1000001, 0x0, 0x4, 0x0, 0x0, 0x0, 0x1, 0x0, 0x0, 0x0, 0x0,
      0x1].flatMap (toLE 4))).updEng 0 (fun e =>
      { e with skim := [{ bytes := ([0x11000000, 0x1, 0x200, 0x110, 0x1000, 0x110, 0x2000, 0x110, 0x3000, 0x110, 0x4000, 0x110, 0x40, 0x3470000, 0x0, 0x0].flatMap (toLE 4)), job := 0 }] }),
      (by decide +kernel)⟩,
    ⟨0,
      { bytes := ([0x11000000, 0x1, 0x200, 0x110, 0x1000, 0x110, 0x2000, 0x110, 0x3000, 0x110, 0x4000, 0x110, 0x40, 0x3470001, 0x0, 0x0].flatMap (toLE 4)), job := 0 },
      [], 1, ((wJob id).psWrite 0 0x200 ([0x40000000, 0x4, 0x10000, 0x1, 0x1000001, 0x0, 0x4, 0x0, 0x0, 0x0, 0x1, 0x0, 0x0, 0x0, 0x0, 0x1].flatMap
      (toLE 4))).updEng 0 (fun e =>
      { e with skim := [{ bytes := ([0x11000000, 0x1, 0x200, 0x110, 0x1000, 0x110, 0x2000, 0x110, 0x3000, 0x110, 0x4000, 0x110, 0x40, 0x3470001, 0x0, 0x0].flatMap (toLE 4)), job := 0 }] }),
      (by decide +kernel)⟩,
    ⟨0,
      { bytes := ([0x11000000, 0x1, 0x200, 0x110, 0x1000, 0x110, 0x2000, 0x110, 0x3000, 0x110, 0x4000, 0x110, 0x40, 0x3470001, 0x0, 0x0].flatMap (toLE 4)), job := 0 },
      [], 1, (.panParity 0x011000000200), ((wJob id).psWrite 0 0x200 ([0x40000000, 0x4, 0x10000, 0x1, 0x1000001, 0x0, 0x4, 0x0, 0x0, 0x0, 0x1,
      0x0, 0x0, 0x0, 0x0, 0x1].flatMap (toLE 4))).updEng 0 (fun e =>
      { e with skim := [{ bytes := ([0x11000000, 0x1, 0x200, 0x110, 0x1000, 0x110, 0x2000, 0x110, 0x3000, 0x110, 0x4000, 0x110, 0x40, 0x3470001, 0x0, 0x0].flatMap (toLE 4)), job := 0 }] }),
      (by decide +kernel)⟩,
    ⟨0,
      { bytes := ([0x11000000, 0x1, 0x200, 0x110, 0x1000, 0x110, 0x2000, 0x110, 0x3000, 0x110, 0x4000, 0x110, 0x40, 0x3470001, 0x0, 0x0].flatMap (toLE 4)), job := 0 },
      [], 1, none, (((wJob id).psWrite 0 0x200 ([0x40000000, 0x4, 0x10000, 0x1, 0x1000001, 0x0, 0x4, 0x0, 0x0, 0x0, 0x1, 0x0, 0x0, 0x0, 0x0,
      0x1].flatMap (toLE 4))).updEng 0 (fun e =>
      { e with skim := [{ bytes := ([0x11000000, 0x1, 0x200, 0x110, 0x1000, 0x110, 0x2000, 0x110, 0x3000, 0x110, 0x4000, 0x110, 0x40, 0x3470001, 0x0, 0x0].flatMap (toLE 4)), job := 0 }] })).updPan
      0 (fun q => { q with held := [16] }), (by exact ⟨by decide +kernel, by decide +kernel, by decide +kernel, by decide +kernel,
      by decide +kernel, Or.inl (by decide +kernel)⟩)⟩,
    ⟨0, { bytes := [], job := 0 }, [], 0, none, State.reset.dev.updEng 0 (fun e =>
      { e with skim := [{ bytes := [], job := 0 }], skimFailed := true }), (by decide +kernel)⟩,
    ⟨0, 0, none, State.reset.dev, (by decide +kernel)⟩,
    ⟨0, { bytes := [], job := 0 }, [], State.reset.dev.updEng 0 (fun e => { e with skim := [{ bytes := [], job := 0 }] }), (by decide +kernel)⟩,
    ⟨0, State.reset.dev, (by decide +kernel)⟩⟩

theorem witness_SluiceCommands :
    (∃ (t : Fin 4) (c : SluiceCmd) (x : SluiceF) (hit : Option Hit) (d : Device), (sluiceStart d t (fun op => op == 1) = some (c, x)) ∧
      selectChecks d c.job x ≠ 0)
      ∧ (∃ (t : Fin 4) (hit : Option Hit) (d : Device), (sluiceStart d t (fun op => op == 1) = none))
      ∧ (∃ (t : Fin 4) (c : SluiceCmd) (x : SluiceF) (group : List (Bool × Nat × Nat)) (hit : Option Hit) (d : Device), (sluiceStart d t (fun op
        => op != 1 && op != 3 && op != 4) = some (c, x)) ∧ x.op = 2 ∧ dispatchChecks d c.job x t ≠ 0)
      ∧ (∃ (t : Fin 4) (group : List (Bool × Nat × Nat)) (hit : Option Hit) (d : Device), (sluiceStart d t (fun op => op != 1 && op != 3 && op !=
        4) = none))
      ∧ (∃ (t : Fin 4) (c : SluiceCmd) (x : SluiceF) (hit : Option Hit) (d : Device), (sluiceStart d t (fun op => op == 3) = some (c, x)) ∧
        combineChecks x ≠ 0)
      ∧ (∃ (t : Fin 4) (hit : Option Hit) (d : Device), (sluiceStart d t (fun op => op == 3) = none))
      ∧ (∃ (t : Fin 4) (c : SluiceCmd) (x : SluiceF) (hit : Option Hit) (d : Device), (sluiceStart d t (fun op => op == 4) = some (c, x)) ∧
        branchChecks d c.job x ≠ 0)
      ∧ (∃ (t : Fin 4) (hit : Option Hit) (d : Device), (sluiceStart d t (fun op => op == 4) = none))
      ∧ (∃ (t : Fin 4) (c : SluiceCmd) (x : SluiceF) (group : List (Bool × Nat × Nat)) (hit : Option Hit) (d : Device), (sluiceStart d t (fun op
        => op != 1 && op != 3 && op != 4) = some (c, x)) ∧ x.op ≠ 2)
      ∧ (∃ (t : Fin 4) (c : SluiceCmd) (x : SluiceF) (hit : Option Hit) (d : Device), (sluiceStart d t (fun op => op == 3) = some (c, x)) ∧
        combineChecks x = 0 ∧ x.fmt ≠ 1 ∧ x.fmt ≠ 2)
      ∧ (∃ (t : Fin 4) (c : SluiceCmd) (x : SluiceF) (hit : Option Hit) (d : Device), (sluiceStart d t (fun op => op == 3) = some (c, x)) ∧
        combineChecks x = 0 ∧ (x.fmt = 1 ∨ x.fmt = 2) ∧ engineAccess d c.job (combineSpans d x t) ≠ 0)
      ∧ (∃ (t : Fin 4) (c : SluiceCmd) (x : SluiceF) (hit : Option Hit) (d : Device), (sluiceStart d t (fun op => op == 3) = some (c, x)) ∧
        combineChecks x = 0 ∧ (x.fmt = 1 ∨ x.fmt = 2) ∧ engineAccess d c.job (combineSpans d x t) = 0 ∧ combineWaits d = true)
      ∧ (∃ (t : Fin 4) (c : SluiceCmd) (x : SluiceF) (d : Device), (sluiceStart d t (fun op => op == 1) = some (c, x)) ∧ selectChecks d c.job x =
        0 ∧ ((selectSpans x).any (fun s => heldAt d s.1 s.2) = false))
      ∧ (∃ (t : Fin 4) (c : SluiceCmd) (x : SluiceF) (h : Hit) (d : Device), (sluiceStart d t (fun op => op == 1) = some (c, x)) ∧ selectChecks d
        c.job x = 0 ∧ ((selectSpans x).any (fun s => heldAt d s.1 s.2) = false) ∧ (hitFits d h = true ∧ (selectSpans x).any (fun s => decide (s.1
        ≤ hitAddr h) && decide (hitAddr h < s.1 + s.2)) = true))
      ∧ (∃ (t : Fin 4) (c : SluiceCmd) (x : SluiceF) (hit : Option Hit) (d : Device), (sluiceStart d t (fun op => op == 1) = some (c, x)) ∧
        selectChecks d c.job x = 0 ∧ (((selectSpans x).any (fun s => heldAt d s.1 s.2) = true) ∨ (∃ h, hit = some h ∧ ¬(hitFits d h = true ∧
        (selectSpans x).any (fun s => decide (s.1 ≤ hitAddr h) && decide (hitAddr h < s.1 + s.2)) = true))))
      ∧ (∃ (t : Fin 4) (c : SluiceCmd) (x : SluiceF) (group : List (Bool × Nat × Nat)) (d : Device), (sluiceStart d t (fun op => op != 1 && op !=
        3 && op != 4) = some (c, x)) ∧ x.op = 2 ∧ dispatchChecks d c.job x t = 0 ∧ ((dispatchSpans d x t).any (fun s => heldAt d s.1 s.2) =
        false))
      ∧ (∃ (t : Fin 4) (c : SluiceCmd) (x : SluiceF) (group : List (Bool × Nat × Nat)) (h : Hit) (d : Device), (sluiceStart d t (fun op => op != 1
        && op != 3 && op != 4) = some (c, x)) ∧ x.op = 2 ∧ dispatchChecks d c.job x t = 0 ∧ ((dispatchSpans d x t).any (fun s => heldAt d s.1 s.2)
        = false) ∧ (hitFits d h = true ∧ (dispatchSpans d x t).any (fun s => decide (s.1 ≤ hitAddr h) && decide (hitAddr h < s.1 + s.2)) = true))
      ∧ (∃ (t : Fin 4) (c : SluiceCmd) (x : SluiceF) (group : List (Bool × Nat × Nat)) (hit : Option Hit) (d : Device), (sluiceStart d t (fun op
        => op != 1 && op != 3 && op != 4) = some (c, x)) ∧ x.op = 2 ∧ dispatchChecks d c.job x t = 0 ∧ (((dispatchSpans d x t).any (fun s =>
        heldAt d s.1 s.2) = true) ∨ (∃ h, hit = some h ∧ ¬(hitFits d h = true ∧ (dispatchSpans d x t).any (fun s => decide (s.1 ≤ hitAddr h) &&
        decide (hitAddr h < s.1 + s.2)) = true))))
      ∧ (∃ (t : Fin 4) (c : SluiceCmd) (x : SluiceF) (d : Device), (sluiceStart d t (fun op => op == 3) = some (c, x)) ∧ combineChecks x = 0 ∧
        (x.fmt = 1 ∨ x.fmt = 2) ∧ engineAccess d c.job (combineSpans d x t) = 0 ∧ combineWaits d = false ∧ ((combineSpans d x t).any (fun s =>
        heldAt d s.1 s.2) = false))
      ∧ (∃ (t : Fin 4) (c : SluiceCmd) (x : SluiceF) (h : Hit) (d : Device), (sluiceStart d t (fun op => op == 3) = some (c, x)) ∧ combineChecks x
        = 0 ∧ (x.fmt = 1 ∨ x.fmt = 2) ∧ engineAccess d c.job (combineSpans d x t) = 0 ∧ combineWaits d = false ∧ ((combineSpans d x t).any (fun s
        => heldAt d s.1 s.2) = false) ∧ (hitFits d h = true ∧ (combineSpans d x t).any (fun s => decide (s.1 ≤ hitAddr h) && decide (hitAddr h <
        s.1 + s.2)) = true))
      ∧ (∃ (t : Fin 4) (c : SluiceCmd) (x : SluiceF) (hit : Option Hit) (d : Device), (sluiceStart d t (fun op => op == 3) = some (c, x)) ∧
        combineChecks x = 0 ∧ (x.fmt = 1 ∨ x.fmt = 2) ∧ engineAccess d c.job (combineSpans d x t) = 0 ∧ combineWaits d = false ∧ (((combineSpans d
        x t).any (fun s => heldAt d s.1 s.2) = true) ∨ (∃ h, hit = some h ∧ ¬(hitFits d h = true ∧ (combineSpans d x t).any (fun s => decide (s.1
        ≤ hitAddr h) && decide (hitAddr h < s.1 + s.2)) = true))))
      ∧ (∃ (t : Fin 4) (c : SluiceCmd) (x : SluiceF) (d : Device), (sluiceStart d t (fun op => op == 4) = some (c, x)) ∧ branchChecks d c.job x =
        0 ∧ ((branchSpans x).any (fun s => heldAt d s.1 s.2) = false))
      ∧ (∃ (t : Fin 4) (c : SluiceCmd) (x : SluiceF) (h : Hit) (d : Device), (sluiceStart d t (fun op => op == 4) = some (c, x)) ∧ branchChecks d
        c.job x = 0 ∧ ((branchSpans x).any (fun s => heldAt d s.1 s.2) = false) ∧ (hitFits d h = true ∧ (branchSpans x).any (fun s => decide (s.1
        ≤ hitAddr h) && decide (hitAddr h < s.1 + s.2)) = true))
      ∧ (∃ (t : Fin 4) (c : SluiceCmd) (x : SluiceF) (hit : Option Hit) (d : Device), (sluiceStart d t (fun op => op == 4) = some (c, x)) ∧
        branchChecks d c.job x = 0 ∧ (((branchSpans x).any (fun s => heldAt d s.1 s.2) = true) ∨ (∃ h, hit = some h ∧ ¬(hitFits d h = true ∧
        (branchSpans x).any (fun s => decide (s.1 ≤ hitAddr h) && decide (hitAddr h < s.1 + s.2)) = true)))) :=
  ⟨⟨0,
      { bytes := ([0x11116400, 0x1, 0x0, 0x0, 0x1000, 0x110, 0x2000, 0x110, 0x20, 0x20, 0x3000, 0x110, 0x4000, 0x110, 0x4040, 0x10008].flatMap (toLE 4)), job := 0 },
      sluiceF (([0x11116400, 0x1, 0x0, 0x0, 0x1000, 0x110, 0x2000, 0x110, 0x20, 0x20, 0x3000, 0x110, 0x4000, 0x110, 0x4040, 0x10008].flatMap (toLE
      4))), none, ((wJob id).updEng 0 (fun e =>
      { e with sluice := [{ bytes := ([0x11116400, 0x1, 0x0, 0x0, 0x1000, 0x110, 0x2000, 0x110, 0x20, 0x20, 0x3000, 0x110, 0x4000, 0x110, 0x4040, 0x10008].flatMap (toLE 4)), job := 0 }] })),
      (by decide +kernel)⟩,
    ⟨0, none, State.reset.dev, (by decide +kernel)⟩,
    ⟨0,
      { bytes := ([0x21116400, 0x1, 0x0, 0x0, 0x1000, 0x110, 0x2000, 0x110, 0x20, 0x20, 0x3000, 0x110, 0x4000, 0x110, 0x4040, 0x10008].flatMap (toLE 4)), job := 0 },
      sluiceF (([0x21116400, 0x1, 0x0, 0x0, 0x1000, 0x110, 0x2000, 0x110, 0x20, 0x20, 0x3000, 0x110, 0x4000, 0x110, 0x4040, 0x10008].flatMap (toLE
      4))), [(false, 0, 1)], none, ((wJob id).updEng 0 (fun e =>
      { e with sluice := [{ bytes := ([0x21116400, 0x1, 0x0, 0x0, 0x1000, 0x110, 0x2000, 0x110, 0x20, 0x20, 0x3000, 0x110, 0x4000, 0x110, 0x4040, 0x10008].flatMap (toLE 4)), job := 0 }] })),
      (by decide +kernel)⟩,
    ⟨0, [(false, 0, 1)], none, State.reset.dev, (by decide +kernel)⟩,
    ⟨0,
      { bytes := ([0x31116400, 0x1, 0x0, 0x0, 0x1000, 0x110, 0x2000, 0x110, 0x20, 0x20, 0x3000, 0x110, 0x4000, 0x110, 0x4040, 0x10008].flatMap (toLE 4)), job := 0 },
      sluiceF (([0x31116400, 0x1, 0x0, 0x0, 0x1000, 0x110, 0x2000, 0x110, 0x20, 0x20, 0x3000, 0x110, 0x4000, 0x110, 0x4040, 0x10008].flatMap (toLE
      4))), none, ((wJob id).updEng 0 (fun e =>
      { e with sluice := [{ bytes := ([0x31116400, 0x1, 0x0, 0x0, 0x1000, 0x110, 0x2000, 0x110, 0x20, 0x20, 0x3000, 0x110, 0x4000, 0x110, 0x4040, 0x10008].flatMap (toLE 4)), job := 0 }] })),
      (by decide +kernel)⟩,
    ⟨0, none, State.reset.dev, (by decide +kernel)⟩,
    ⟨0,
      { bytes := ([0x41116400, 0x1, 0x2, 0x0, 0x1000, 0x110, 0x2004, 0x110, 0x20, 0x20, 0x3000, 0x110, 0x4000, 0x110, 0x4040, 0x10008].flatMap (toLE 4)), job := 0 },
      sluiceF (([0x41116400, 0x1, 0x2, 0x0, 0x1000, 0x110, 0x2004, 0x110, 0x20, 0x20, 0x3000, 0x110, 0x4000, 0x110, 0x4040, 0x10008].flatMap (toLE
      4))), none, ((wJob id).updEng 0 (fun e =>
      { e with sluice := [{ bytes := ([0x41116400, 0x1, 0x2, 0x0, 0x1000, 0x110, 0x2004, 0x110, 0x20, 0x20, 0x3000, 0x110, 0x4000, 0x110, 0x4040, 0x10008].flatMap (toLE 4)), job := 0 }] })),
      (by decide +kernel)⟩,
    ⟨0, none, State.reset.dev, (by decide +kernel)⟩,
    ⟨0,
      { bytes := ([0x51116400, 0x1, 0x2, 0x0, 0x1000, 0x110, 0x2000, 0x110, 0x20, 0x20, 0x3000, 0x110, 0x4000, 0x110, 0x4040, 0x10008].flatMap (toLE 4)), job := 0 },
      sluiceF (([0x51116400, 0x1, 0x2, 0x0, 0x1000, 0x110, 0x2000, 0x110, 0x20, 0x20, 0x3000, 0x110, 0x4000, 0x110, 0x4040, 0x10008].flatMap (toLE
      4))), [], none, ((wJob id).updEng 0 (fun e =>
      { e with sluice := [{ bytes := ([0x51116400, 0x1, 0x2, 0x0, 0x1000, 0x110, 0x2000, 0x110, 0x20, 0x20, 0x3000, 0x110, 0x4000, 0x110, 0x4040, 0x10008].flatMap (toLE 4)), job := 0 }] })),
      (by decide +kernel)⟩,
    ⟨0,
      { bytes := ([0x30116400, 0x1, 0x2, 0x0, 0x1000, 0x110, 0x2000, 0x110, 0x20, 0x20, 0x3000, 0x110, 0x4000, 0x110, 0x4040, 0x10008].flatMap (toLE 4)), job := 0 },
      sluiceF (([0x30116400, 0x1, 0x2, 0x0, 0x1000, 0x110, 0x2000, 0x110, 0x20, 0x20, 0x3000, 0x110, 0x4000, 0x110, 0x4040, 0x10008].flatMap (toLE
      4))), none, ((wJob id).updEng 0 (fun e =>
      { e with sluice := [{ bytes := ([0x30116400, 0x1, 0x2, 0x0, 0x1000, 0x110, 0x2000, 0x110, 0x20, 0x20, 0x3000, 0x110, 0x4000, 0x110, 0x4040, 0x10008].flatMap (toLE 4)), job := 0 }] })),
      (by decide +kernel)⟩,
    ⟨0,
      { bytes := ([0x31116400, 0x1, 0x2, 0x0, 0x1000, 0x110, 0x2000, 0x110, 0x20, 0x20, 0x0, 0x120, 0x4000, 0x110, 0x4040, 0x10008].flatMap (toLE 4)), job := 0 },
      sluiceF (([0x31116400, 0x1, 0x2, 0x0, 0x1000, 0x110, 0x2000, 0x110, 0x20, 0x20, 0x0, 0x120, 0x4000, 0x110, 0x4040, 0x10008].flatMap (toLE
      4))), none, ((wJob id).updEng 0 (fun e =>
      { e with sluice := [{ bytes := ([0x31116400, 0x1, 0x2, 0x0, 0x1000, 0x110, 0x2000, 0x110, 0x20, 0x20, 0x0, 0x120, 0x4000, 0x110, 0x4040, 0x10008].flatMap (toLE 4)), job := 0 }] })),
      (by decide +kernel)⟩,
    ⟨0,
      { bytes := ([0x31116400, 0x1, 0x2, 0x0, 0x1000, 0x110, 0x2000, 0x110, 0x20, 0x20, 0x3000, 0x110, 0x4000, 0x110, 0x4040, 0x10008].flatMap (toLE 4)), job := 0 },
      sluiceF (([0x31116400, 0x1, 0x2, 0x0, 0x1000, 0x110, 0x2000, 0x110, 0x20, 0x20, 0x3000, 0x110, 0x4000, 0x110, 0x4040, 0x10008].flatMap (toLE
      4))), none, (((((wJob id).updEng 0 (fun e =>
      { e with sluice := [{ bytes := ([0x31116400, 0x1, 0x2, 0x0, 0x1000, 0x110, 0x2000, 0x110, 0x20, 0x20, 0x3000, 0x110, 0x4000, 0x110, 0x4040, 0x10008].flatMap (toLE 4)), job := 0 }] }))).updEng
      0 (fun e =>
      { e with targets := [{ tbase := 0, dv := 8, pan0 := 0, epp := 1, lbase := 0, flag := none, job := 0, counts := [{ pan := 0, expect := 1 }], rows := [(2, 0, 1)] }] })).updPan
      0 (fun q => { q with arr := { q.arr with consec := 1 } })), (by decide +kernel)⟩,
    ⟨0,
      { bytes := ([0x11116400, 0x1, 0x2, 0x0, 0x1000, 0x110, 0x2000, 0x110, 0x20, 0x20, 0x3000, 0x110, 0x4000, 0x110, 0x4040, 0x10008].flatMap (toLE 4)), job := 0 },
      sluiceF (([0x11116400, 0x1, 0x2, 0x0, 0x1000, 0x110, 0x2000, 0x110, 0x20, 0x20, 0x3000, 0x110, 0x4000, 0x110, 0x4040, 0x10008].flatMap (toLE
      4))), ((wJob id).updEng 0 (fun e =>
      { e with sluice := [{ bytes := ([0x11116400, 0x1, 0x2, 0x0, 0x1000, 0x110, 0x2000, 0x110, 0x20, 0x20, 0x3000, 0x110, 0x4000, 0x110, 0x4040, 0x10008].flatMap (toLE 4)), job := 0 }] })),
      (by decide +kernel)⟩,
    ⟨0,
      { bytes := ([0x11116400, 0x1, 0x2, 0x0, 0x1000, 0x110, 0x2000, 0x110, 0x20, 0x20, 0x3000, 0x110, 0x4000, 0x110, 0x4040, 0x10008].flatMap (toLE 4)), job := 0 },
      sluiceF (([0x11116400, 0x1, 0x2, 0x0, 0x1000, 0x110, 0x2000, 0x110, 0x20, 0x20, 0x3000, 0x110, 0x4000, 0x110, 0x4040, 0x10008].flatMap (toLE
      4))), (.panParity 0x011000001004), ((wJob id).updEng 0 (fun e =>
      { e with sluice := [{ bytes := ([0x11116400, 0x1, 0x2, 0x0, 0x1000, 0x110, 0x2000, 0x110, 0x20, 0x20, 0x3000, 0x110, 0x4000, 0x110, 0x4040, 0x10008].flatMap (toLE 4)), job := 0 }] })),
      (by decide +kernel)⟩,
    ⟨0,
      { bytes := ([0x11116400, 0x1, 0x2, 0x0, 0x1000, 0x110, 0x2000, 0x110, 0x20, 0x20, 0x3000, 0x110, 0x4000, 0x110, 0x4040, 0x10008].flatMap (toLE 4)), job := 0 },
      sluiceF (([0x11116400, 0x1, 0x2, 0x0, 0x1000, 0x110, 0x2000, 0x110, 0x20, 0x20, 0x3000, 0x110, 0x4000, 0x110, 0x4040, 0x10008].flatMap (toLE
      4))), none, (((wJob id).updEng 0 (fun e =>
      { e with sluice := [{ bytes := ([0x11116400, 0x1, 0x2, 0x0, 0x1000, 0x110, 0x2000, 0x110, 0x20, 0x20, 0x3000, 0x110, 0x4000, 0x110, 0x4040, 0x10008].flatMap (toLE 4)), job := 0 }] })).updPan
      0 (fun q => { q with held := [128] })), (by refine ⟨?_, ⟨?_, Or.inl ?_⟩⟩ <;> decide +kernel)⟩,
    ⟨0,
      { bytes := ([0x21116400, 0x1, 0x1, 0x0, 0x1000, 0x110, 0x2000, 0x110, 0x20, 0x20, 0x3000, 0x110, 0x4000, 0x110, 0x4040, 0x10008].flatMap (toLE 4)), job := 0 },
      sluiceF (([0x21116400, 0x1, 0x1, 0x0, 0x1000, 0x110, 0x2000, 0x110, 0x20, 0x20, 0x3000, 0x110, 0x4000, 0x110, 0x4040, 0x10008].flatMap (toLE
      4))), [(false, 0, 1)], (((wJob id).psWrite 0 0x301E [0, 128]).updEng 0 (fun e =>
      { e with sluice := [{ bytes := ([0x21116400, 0x1, 0x1, 0x0, 0x1000, 0x110, 0x2000, 0x110, 0x20, 0x20, 0x3000, 0x110, 0x4000, 0x110, 0x4040, 0x10008].flatMap (toLE 4)), job := 0 }] })),
      (by decide +kernel)⟩,
    ⟨0,
      { bytes := ([0x21116400, 0x1, 0x1, 0x0, 0x1000, 0x110, 0x2000, 0x110, 0x20, 0x20, 0x3000, 0x110, 0x4000, 0x110, 0x4040, 0x10008].flatMap (toLE 4)), job := 0 },
      sluiceF (([0x21116400, 0x1, 0x1, 0x0, 0x1000, 0x110, 0x2000, 0x110, 0x20, 0x20, 0x3000, 0x110, 0x4000, 0x110, 0x4040, 0x10008].flatMap (toLE
      4))), [(false, 0, 1)], (.panParity 0x011000001004), (((wJob id).psWrite 0 0x301E [0, 128]).updEng 0 (fun e =>
      { e with sluice := [{ bytes := ([0x21116400, 0x1, 0x1, 0x0, 0x1000, 0x110, 0x2000, 0x110, 0x20, 0x20, 0x3000, 0x110, 0x4000, 0x110, 0x4040, 0x10008].flatMap (toLE 4)), job := 0 }] })),
      (by decide +kernel)⟩,
    ⟨0,
      { bytes := ([0x21116400, 0x1, 0x1, 0x0, 0x1000, 0x110, 0x2000, 0x110, 0x20, 0x20, 0x3000, 0x110, 0x4000, 0x110, 0x4040, 0x10008].flatMap (toLE 4)), job := 0 },
      sluiceF (([0x21116400, 0x1, 0x1, 0x0, 0x1000, 0x110, 0x2000, 0x110, 0x20, 0x20, 0x3000, 0x110, 0x4000, 0x110, 0x4040, 0x10008].flatMap (toLE
      4))), [(false, 0, 1)], none, ((((wJob id).psWrite 0 0x301E [0, 128]).updEng 0 (fun e =>
      { e with sluice := [{ bytes := ([0x21116400, 0x1, 0x1, 0x0, 0x1000, 0x110, 0x2000, 0x110, 0x20, 0x20, 0x3000, 0x110, 0x4000, 0x110, 0x4040, 0x10008].flatMap (toLE 4)), job := 0 }] })).updPan
      0 (fun q => { q with held := [128] })), (by refine ⟨?_, ⟨?_, ⟨?_, Or.inl ?_⟩⟩⟩ <;> decide +kernel)⟩,
    ⟨0,
      { bytes := ([0x31116400, 0x1, 0x2, 0x0, 0x1000, 0x110, 0x2000, 0x110, 0x20, 0x20, 0x3000, 0x110, 0x4000, 0x110, 0x4040, 0x10008].flatMap (toLE 4)), job := 0 },
      sluiceF (([0x31116400, 0x1, 0x2, 0x0, 0x1000, 0x110, 0x2000, 0x110, 0x20, 0x20, 0x3000, 0x110, 0x4000, 0x110, 0x4040, 0x10008].flatMap (toLE
      4))), ((wJob id).updEng 0 (fun e =>
      { e with sluice := [{ bytes := ([0x31116400, 0x1, 0x2, 0x0, 0x1000, 0x110, 0x2000, 0x110, 0x20, 0x20, 0x3000, 0x110, 0x4000, 0x110, 0x4040, 0x10008].flatMap (toLE 4)), job := 0 }] })),
      (by decide +kernel)⟩,
    ⟨0,
      { bytes := ([0x31116400, 0x1, 0x2, 0x0, 0x1000, 0x110, 0x2000, 0x110, 0x20, 0x20, 0x3000, 0x110, 0x4000, 0x110, 0x4040, 0x10008].flatMap (toLE 4)), job := 0 },
      sluiceF (([0x31116400, 0x1, 0x2, 0x0, 0x1000, 0x110, 0x2000, 0x110, 0x20, 0x20, 0x3000, 0x110, 0x4000, 0x110, 0x4040, 0x10008].flatMap (toLE
      4))), (.panParity 0x011000003004), ((wJob id).updEng 0 (fun e =>
      { e with sluice := [{ bytes := ([0x31116400, 0x1, 0x2, 0x0, 0x1000, 0x110, 0x2000, 0x110, 0x20, 0x20, 0x3000, 0x110, 0x4000, 0x110, 0x4040, 0x10008].flatMap (toLE 4)), job := 0 }] })),
      (by decide +kernel)⟩,
    ⟨0,
      { bytes := ([0x31116400, 0x1, 0x2, 0x0, 0x1000, 0x110, 0x2000, 0x110, 0x20, 0x20, 0x3000, 0x110, 0x4000, 0x110, 0x4040, 0x10008].flatMap (toLE 4)), job := 0 },
      sluiceF (([0x31116400, 0x1, 0x2, 0x0, 0x1000, 0x110, 0x2000, 0x110, 0x20, 0x20, 0x3000, 0x110, 0x4000, 0x110, 0x4040, 0x10008].flatMap (toLE
      4))), none, (((wJob id).updEng 0 (fun e =>
      { e with sluice := [{ bytes := ([0x31116400, 0x1, 0x2, 0x0, 0x1000, 0x110, 0x2000, 0x110, 0x20, 0x20, 0x3000, 0x110, 0x4000, 0x110, 0x4040, 0x10008].flatMap (toLE 4)), job := 0 }] })).updPan
      0 (fun q => { q with held := [384] })), (by refine ⟨?_, ⟨?_, ⟨?_, ⟨?_, ⟨?_, Or.inl ?_⟩⟩⟩⟩⟩ <;> decide +kernel)⟩,
    ⟨0,
      { bytes := ([0x41116400, 0x1, 0x2, 0x0, 0x1000, 0x110, 0x2000, 0x110, 0x20, 0x20, 0x3000, 0x110, 0x4000, 0x110, 0x4040, 0x10008].flatMap (toLE 4)), job := 0 },
      sluiceF (([0x41116400, 0x1, 0x2, 0x0, 0x1000, 0x110, 0x2000, 0x110, 0x20, 0x20, 0x3000, 0x110, 0x4000, 0x110, 0x4040, 0x10008].flatMap (toLE
      4))), ((wJob id).updEng 0 (fun e =>
      { e with sluice := [{ bytes := ([0x41116400, 0x1, 0x2, 0x0, 0x1000, 0x110, 0x2000, 0x110, 0x20, 0x20, 0x3000, 0x110, 0x4000, 0x110, 0x4040, 0x10008].flatMap (toLE 4)), job := 0 }] })),
      (by decide +kernel)⟩,
    ⟨0,
      { bytes := ([0x41116400, 0x1, 0x2, 0x0, 0x1000, 0x110, 0x2000, 0x110, 0x20, 0x20, 0x3000, 0x110, 0x4000, 0x110, 0x4040, 0x10008].flatMap (toLE 4)), job := 0 },
      sluiceF (([0x41116400, 0x1, 0x2, 0x0, 0x1000, 0x110, 0x2000, 0x110, 0x20, 0x20, 0x3000, 0x110, 0x4000, 0x110, 0x4040, 0x10008].flatMap (toLE
      4))), (.panParity 0x011000001004), ((wJob id).updEng 0 (fun e =>
      { e with sluice := [{ bytes := ([0x41116400, 0x1, 0x2, 0x0, 0x1000, 0x110, 0x2000, 0x110, 0x20, 0x20, 0x3000, 0x110, 0x4000, 0x110, 0x4040, 0x10008].flatMap (toLE 4)), job := 0 }] })),
      (by decide +kernel)⟩,
    ⟨0,
      { bytes := ([0x41116400, 0x1, 0x2, 0x0, 0x1000, 0x110, 0x2000, 0x110, 0x20, 0x20, 0x3000, 0x110, 0x4000, 0x110, 0x4040, 0x10008].flatMap (toLE 4)), job := 0 },
      sluiceF (([0x41116400, 0x1, 0x2, 0x0, 0x1000, 0x110, 0x2000, 0x110, 0x20, 0x20, 0x3000, 0x110, 0x4000, 0x110, 0x4040, 0x10008].flatMap (toLE
      4))), none, (((wJob id).updEng 0 (fun e =>
      { e with sluice := [{ bytes := ([0x41116400, 0x1, 0x2, 0x0, 0x1000, 0x110, 0x2000, 0x110, 0x20, 0x20, 0x3000, 0x110, 0x4000, 0x110, 0x4040, 0x10008].flatMap (toLE 4)), job := 0 }] })).updPan
      0 (fun q => { q with held := [128] })), (by refine ⟨?_, ⟨?_, Or.inl ?_⟩⟩ <;> decide +kernel)⟩⟩

theorem witness_SluiceMessages :
    (∃ (t : Fin 4) (r : SlReq) (d : Device), engOn d = true)
      ∧ (∃ (t : Fin 4) (peer ter : Nat) (c : SluiceCmd) (p : Dispatch) (d : Device), engOn d = true ∧ d.sluiceHead t = some c ∧ (d.engAt t).disp =
        some p ∧ (p.answered = true ∨ (endedSources ((d.engAt t).inbox ++ [{ isLocal := false, peer := peer, ter := ter }])).length < (sluiceF
        c.bytes).nsrc))
      ∧ (∃ (t : Fin 4) (peer ter : Nat) (d : Device), engOn d = true ∧ (d.sluiceHead t = none ∨ (d.engAt t).disp = none))
      ∧ (∃ (t : Fin 4) (peer ter : Nat) (d : Device), engOn d = true)
      ∧ (∃ (t : Fin 4) (expert slot : Nat) (data : List Nat) (d : Device), engOn d = true ∧ (∀ c, d.sluiceHead t = some c → heldAt d (rowSpan d
        (sluiceF c.bytes) expert slot data.length).1 (rowSpan d (sluiceF c.bytes) expert slot data.length).2 = false))
      ∧ (∃ (t : Fin 4) (expert slot : Nat) (data : List Nat) (c : SluiceCmd) (d : Device), d.sluiceHead t = some c ∧ heldAt d (rowSpan d (sluiceF
        c.bytes) expert slot data.length).1 (rowSpan d (sluiceF c.bytes) expert slot data.length).2 = true)
      ∧ (∃ (t : Fin 4) (src ter expert slot token col : Nat) (rc : List Nat) (d : Device), engOn d = true ∧ recordWaits d t expert slot token col
        = false)
      ∧ (∃ (t : Fin 4) (src ter expert slot token col : Nat) (rc : List Nat) (d : Device), recordWaits d t expert slot token col = true)
      ∧ (∃ (t : Fin 4) (token rank slot : Nat) (d : Device), engOn d = true ∧ ((grantSpans d t token rank slot).any (fun s => heldAt d s.1 s.2) =
        false))
      ∧ (∃ (t : Fin 4) (token rank slot : Nat) (h : Hit) (d : Device), engOn d = true ∧ ((grantSpans d t token rank slot).any (fun s => heldAt d
        s.1 s.2) = false) ∧ (hitFits d h = true ∧ (grantSpans d t token rank slot).any (fun s => decide (s.1 ≤ hitAddr h) && decide (hitAddr h <
        s.1 + s.2)) = true))
      ∧ (∃ (t : Fin 4) (token rank slot : Nat) (hit : Option Hit) (d : Device), engOn d = true ∧ (((grantSpans d t token rank slot).any (fun s =>
        heldAt d s.1 s.2) = true) ∨ (∃ h, hit = some h ∧ ¬(hitFits d h = true ∧ (grantSpans d t token rank slot).any (fun s => decide (s.1 ≤
        hitAddr h) && decide (hitAddr h < s.1 + s.2)) = true))))
      ∧ (∃ (t : Fin 4) (r : SlReq) (d : Device), engOn d = false)
      ∧ (∃ (t : Fin 4) (peer ter : Nat) (d : Device), engOn d = false)
      ∧ (∃ (t : Fin 4) (token rank slot : Nat) (hit : Option Hit) (d : Device), engOn d = false)
      ∧ (∃ (t : Fin 4) (expert slot : Nat) (data : List Nat) (d : Device), engOn d = false)
      ∧ (∃ (t : Fin 4) (src ter expert slot token col : Nat) (rc : List Nat) (d : Device), engOn d = false) :=
  ⟨⟨0, { expert := 0, token := 1, rank := 0, gate := 0, srcPeer := 0, srcTer := 0, srcLocal := false }, State.reset.dev, (by decide +kernel)⟩,
    ⟨0, 0, 1,
      { bytes := ([0x21116400, 0x1, 0x2, 0x0, 0x1000, 0x110, 0x2000, 0x110, 0x20, 0x20, 0x3000, 0x110, 0x4000, 0x110, 0x4040, 0x30008].flatMap (toLE 4)), job := 0 },
      {}, ((wJob id).updEng 0 (fun e =>
      { e with disp := some {}, sluice := [{ bytes := ([0x21116400, 0x1, 0x2, 0x0, 0x1000, 0x110, 0x2000, 0x110, 0x20, 0x20, 0x3000, 0x110, 0x4000, 0x110, 0x4040, 0x30008].flatMap (toLE 4)), job := 0 }] })),
      (by decide +kernel)⟩,
    ⟨0, 0, 1, State.reset.dev, (by decide +kernel)⟩,
    ⟨0, 0, 1, State.reset.dev, (by decide +kernel)⟩,
    ⟨0, 1, 0, [1], State.reset.dev, (by exact ⟨by decide +kernel, fun c h => by cases h⟩)⟩,
    ⟨0, 0, 0, [1, 2],
      { bytes := ([0x21116400, 0x1, 0x2, 0x0, 0x1000, 0x110, 0x2000, 0x110, 0x20, 0x20, 0x3000, 0x110, 0x4000, 0x110, 0x4040, 0x10008].flatMap (toLE 4)), job := 0 },
      (((wJob id).updEng 0 (fun e =>
      { e with sluice := [{ bytes := ([0x21116400, 0x1, 0x2, 0x0, 0x1000, 0x110, 0x2000, 0x110, 0x20, 0x20, 0x3000, 0x110, 0x4000, 0x110, 0x4040, 0x10008].flatMap (toLE 4)), job := 0 }] })).updTer
      0 (fun x => { x with lostLines := [0] })), (by decide +kernel)⟩,
    ⟨0, 1, 0, 2, 0, 1, 2, [], State.reset.dev, (by decide +kernel)⟩,
    ⟨0, 1, 0, 2, 0, 1, 2, [], (((((wJob id).updEng 0 (fun e =>
      { e with sluice := [{ bytes := ([0x31116400, 0x1, 0x2, 0x0, 0x1000, 0x110, 0x2000, 0x110, 0x20, 0x20, 0x3000, 0x110, 0x4000, 0x110, 0x4040, 0x10008].flatMap (toLE 4)), job := 0 }] }))).updEng
      0 (fun e =>
      { e with targets := [{ tbase := 1, dv := 8, pan0 := 0, epp := 1, lbase := 0, flag := none, job := 0, counts := [{ pan := 0, expect := 1 }], rows := [(2, 0, 1)] }] })).updPan
      0 (fun q => { q with arr := { q.arr with consec := 1 } })), (by decide +kernel)⟩,
    ⟨0, 1, 0, 2, State.reset.dev, (by decide +kernel)⟩,
    ⟨0, 0, 0, 0xFFFF, (.panParity 0x011000001002), ((wJob id).updEng 0 (fun e =>
      { e with disp := some { grantsDue := 2 }, sluice := [{ bytes := ([0x21116400, 0x1, 0x2, 0x0, 0x1000, 0x110, 0x2000, 0x110, 0x20, 0x20, 0x3000, 0x110, 0x4000, 0x110, 0x4040, 0x10008].flatMap (toLE 4)), job := 0 }] })),
      (by decide +kernel)⟩,
    ⟨0, 0, 0, 0xFFFF, none, (((wJob id).updEng 0 (fun e =>
      { e with disp := some { grantsDue := 2 }, sluice := [{ bytes := ([0x21116400, 0x1, 0x2, 0x0, 0x1000, 0x110, 0x2000, 0x110, 0x20, 0x20, 0x3000, 0x110, 0x4000, 0x110, 0x4040, 0x10008].flatMap (toLE 4)), job := 0 }] })).updPan
      0 (fun q => { q with held := [128] })), (by refine ⟨?_, Or.inl ?_⟩ <;> decide +kernel)⟩,
    ⟨0, { expert := 0, token := 1, rank := 0, gate := 0, srcPeer := 0, srcTer := 0, srcLocal := false },
      { State.reset.dev with glb := { State.reset.dev.glb with flushing := true } }, (by decide +kernel)⟩,
    ⟨0, 0, 0, { State.reset.dev with glb := { State.reset.dev.glb with flushing := true } }, (by decide +kernel)⟩,
    ⟨0, 1, 0, 0, none, { State.reset.dev with glb := { State.reset.dev.glb with flushing := true } }, (by decide +kernel)⟩,
    ⟨0, 1, 0, [], { State.reset.dev with glb := { State.reset.dev.glb with flushing := true } }, (by decide +kernel)⟩,
    ⟨0, 1, 0, 2, 0, 1, 2, [], { State.reset.dev with glb := { State.reset.dev.glb with flushing := true } }, (by decide +kernel)⟩⟩

theorem witness_GrantAndRowAtTheSluice :
    (∃ (t : Fin 4) (r : SlReq) (d : Device), engOn d = true)
      ∧ (∃ (t : Fin 4) (peer ter : Nat) (d : Device), engOn d = true ∧ (∀ c p, d.sluiceHead t = some c → (d.engAt t).disp = some p → p.answered =
        true ∨       (endedSources ((d.engAt t).inbox ++ [{ isLocal := false, peer := peer, ter := ter }])).length < (sluiceF c.bytes).nsrc))
      ∧ (∃ (t : Fin 4) (src ter expert slot token col : Nat) (rc : List Nat) (k : Nat) (g : CombineTarget) (r : Packet99) (rest : List Nat) (d :
        Device), engOn d = true ∧ recordWaits d t expert slot token col = false ∧ targetOf (d.engAt t).targets expert slot token col = some k ∧
        (d.engAt t).targets[k]? = some g ∧ takeRecord rc = some (r, rest) ∧ g.tbase ≤ token ∧ col < g.dv ∧ (g.place token col).1 ≤ 15 ∧ (g.place
        token col).2.1 ≤ 63 ∧ residueOk r = true ∧ ((d.panAt (16 * t + (g.place token col).1)).row (g.place token col).2.1).attn = false ∧
        ((d.panAt (16 * t + (g.place token col).1)).entry (g.place token col).2.1 (g.place token col).2.2).heritage = none)
      ∧ (∃ (t : Fin 4) (src ter expert slot token col : Nat) (rc : List Nat) (d : Device), engOn d = true ∧ targetOf (d.engAt t).targets expert
        slot token col = none)
      ∧ (∃ (t : Fin 4) (token rank : Nat) (c : SluiceCmd) (p : Dispatch) (d : Device), engOn d = true ∧ d.sluiceHead t = some c ∧ (d.engAt t).disp
        = some p ∧ 2 ≤ p.grantsDue ∧ ((grantSpans d t token rank 0xFFFF).any (fun s => heldAt d s.1 s.2) = false))
      ∧ (∃ (t : Fin 4) (expert slot : Nat) (data : List Nat) (c : SluiceCmd) (p : Dispatch) (d : Device), engOn d = true ∧ d.sluiceHead t = some c
        ∧ (d.engAt t).disp = some p ∧ 2 ≤ p.rowsDue ∧ heldAt d (rowSpan d (sluiceF c.bytes) expert slot data.length).1 data.length = false)
      ∧ (∃ (t : Fin 4) (token rank slot : Nat) (d : Device), ((d.engAt t).disp.all (fun p => p.grantsDue == 0) = true))
      ∧ (∃ (t : Fin 4) (expert slot : Nat) (data : List Nat) (d : Device), ((d.engAt t).disp.all (fun p => p.rowsDue == 0) = true)) :=
  ⟨⟨0, { expert := 0, token := 1, rank := 0, gate := 0, srcPeer := 0, srcTer := 0, srcLocal := false }, State.reset.dev, (by decide +kernel)⟩,
    ⟨0, 0, 1, ((wJob id).updEng 0 (fun e =>
      { e with disp := some { answered := true }, sluice := [{ bytes := ([0x21116400, 0x1, 0x2, 0x0, 0x1000, 0x110, 0x2000, 0x110, 0x20, 0x20, 0x3000, 0x110, 0x4000, 0x110, 0x4040, 0x30008].flatMap (toLE 4)), job := 0 }] })),
      (by exact ⟨by decide +kernel, fun c p _ h => Or.inl (by cases h; rfl)⟩)⟩,
    ⟨0, 9, 0, 2, 0, 1, 2, (canonicalRecord {}).bytes, 0,
      { tbase := 0, dv := 8, pan0 := 0, epp := 1, lbase := 0, flag := none, job := 0, counts := [{ pan := 0, expect := 1 }], rows := [(2, 0, 1)] },
      (canonicalRecord {}), [], ((wJob id).updEng 0 (fun e =>
      { e with targets := [{ tbase := 0, dv := 8, pan0 := 0, epp := 1, lbase := 0, flag := none, job := 0, counts := [{ pan := 0, expect := 1 }], rows := [(2, 0, 1)] }] })),
      (by decide +kernel)⟩,
    ⟨0, 9, 0, 2, 0, 1, 2, [], State.reset.dev, (by decide +kernel)⟩,
    ⟨0, 0, 0,
      { bytes := ([0x21116400, 0x1, 0x2, 0x0, 0x1000, 0x110, 0x2000, 0x110, 0x20, 0x20, 0x3000, 0x110, 0x4000, 0x110, 0x4040, 0x10008].flatMap (toLE 4)), job := 0 },
      { grantsDue := 2 }, ((wJob id).updEng 0 (fun e =>
      { e with disp := some { grantsDue := 2 }, sluice := [{ bytes := ([0x21116400, 0x1, 0x2, 0x0, 0x1000, 0x110, 0x2000, 0x110, 0x20, 0x20, 0x3000, 0x110, 0x4000, 0x110, 0x4040, 0x10008].flatMap (toLE 4)), job := 0 }] })),
      (by decide +kernel)⟩,
    ⟨0, 0, 0, [1, 2],
      { bytes := ([0x21116400, 0x1, 0x2, 0x0, 0x1000, 0x110, 0x2000, 0x110, 0x20, 0x20, 0x3000, 0x110, 0x4000, 0x110, 0x4040, 0x10008].flatMap (toLE 4)), job := 0 },
      { rowsDue := 2 }, ((wJob id).updEng 0 (fun e =>
      { e with disp := some { rowsDue := 2 }, sluice := [{ bytes := ([0x21116400, 0x1, 0x2, 0x0, 0x1000, 0x110, 0x2000, 0x110, 0x20, 0x20, 0x3000, 0x110, 0x4000, 0x110, 0x4040, 0x10008].flatMap (toLE 4)), job := 0 }] })),
      (by decide +kernel)⟩,
    ⟨0, 0, 0, 1, State.reset.dev, (by decide +kernel)⟩,
    ⟨0, 0, 0, [1], State.reset.dev, (by decide +kernel)⟩⟩

theorem witness_BundReadAndWrite :
    (∃ (x : Txn) (hit : Option Hit) (d : Device), mine d x = true ∧ peerAccess d x ≠ 0)
      ∧ (∃ (x : Txn) (d : Device), mine d x = true ∧ peerAccess d x ≠ 0)
      ∧ (∃ (x : Txn) (d : Device), mine d x = true ∧ peerAccess d x = 0 ∧ ((([(x.addr, x.len)] : List (Nat × Nat))).any (fun s => heldAt d s.1
        s.2) = false))
      ∧ (∃ (x : Txn) (h : Hit) (d : Device), mine d x = true ∧ peerAccess d x = 0 ∧ ((([(x.addr, x.len)] : List (Nat × Nat))).any (fun s => heldAt
        d s.1 s.2) = false) ∧ (hitFits d h = true ∧ (([(x.addr, x.len)] : List (Nat × Nat))).any (fun s => decide (s.1 ≤ hitAddr h) && decide
        (hitAddr h < s.1 + s.2)) = true))
      ∧ (∃ (x : Txn) (hit : Option Hit) (d : Device), mine d x = true ∧ peerAccess d x = 0 ∧ (((([(x.addr, x.len)] : List (Nat × Nat))).any (fun s
        => heldAt d s.1 s.2) = true) ∨ (∃ h, hit = some h ∧ ¬(hitFits d h = true ∧ (([(x.addr, x.len)] : List (Nat × Nat))).any (fun s => decide
        (s.1 ≤ hitAddr h) && decide (hitAddr h < s.1 + s.2)) = true))))
      ∧ (∃ (x : Txn) (d : Device), mine d x = true ∧ peerAccess d x = 0 ∧ heldAt d x.addr x.len = false)
      ∧ (∃ (x : Txn) (d : Device), mine d x = true ∧ peerAccess d x = 0 ∧ heldAt d x.addr x.len = true)
      ∧ (∃ (x : Txn) (p : Pending) (d : Device), mine d x = true ∧ d.pendOf 1 x = some p ∧ (x.status ≠ 0 ∨ heldAt d p.dest p.txn.len = false))
      ∧ (∃ (x : Txn) (p : Pending) (d : Device), mine d x = true ∧ d.pendOf 1 x = some p ∧ x.status = 0 ∧ heldAt d p.dest p.txn.len = true)
      ∧ (∃ (x : Txn) (p : Pending) (d : Device), mine d x = true ∧ d.pendOf 3 x = some p ∧ p.image = false ∧ p.logStep = none)
      ∧ (∃ (x : Txn) (p : Pending) (d : Device), mine d x = true ∧ d.pendOf 3 x = some p ∧ (p.image = true ∨ p.logStep.isSome = true))
      ∧ (∃ (x : Txn) (d : Device), mine d x = true ∧ d.pendOf 1 x = none)
      ∧ (∃ (x : Txn) (d : Device), mine d x = true ∧ d.pendOf 3 x = none)
      ∧ (∃ (x : Txn) (hit : Option Hit) (d : Device), mine d x = false) :=
  ⟨⟨{ op := 1, dst := 4, src := 9, addr := 0x28000000000, len := 32 }, none, wFab id, (by decide +kernel)⟩,
    ⟨{ op := 3, dst := 4, src := 9, addr := 0x28000000000, len := 32 }, wFab id, (by decide +kernel)⟩,
    ⟨{ op := 1, dst := 4, src := 9, addr := 0x251000000, len := 32 }, ((wFab id).updTer 0 (fun t =>
      { t with regions := [{ base := 148, limit := 3967, slot := 0, owner := 1, part := 0, peer := 0 }] })), (by decide +kernel)⟩,
    ⟨{ op := 1, dst := 4, src := 9, addr := 0x251000000, len := 32 }, (.lpd 0x251000010 2 1), ((wFab id).updTer 0 (fun t =>
      { t with regions := [{ base := 148, limit := 3967, slot := 0, owner := 1, part := 0, peer := 0 }] })), (by decide +kernel)⟩,
    ⟨{ op := 1, dst := 4, src := 9, addr := 0x251000000, len := 32 }, none, (((wFab id).updTer 0 (fun t =>
      { t with regions := [{ base := 148, limit := 3967, slot := 0, owner := 1, part := 0, peer := 0 }] })).updTer 0 (fun t =>
      { t with lostLines := [0x251000000 / 256] })), (by refine ⟨?_, ⟨?_, Or.inl ?_⟩⟩ <;> decide +kernel)⟩,
    ⟨{ op := 3, dst := 4, src := 9, addr := 0x251000000, len := 32, data := List.replicate 32 5 }, ((wFab id).updTer 0 (fun t =>
      { t with regions := [{ base := 148, limit := 3967, slot := 0, owner := 1, part := 0, peer := 0 }] })), (by decide +kernel)⟩,
    ⟨{ op := 3, dst := 4, src := 9, addr := 0x251000000, len := 32 }, (((wFab id).updTer 0 (fun t =>
      { t with regions := [{ base := 148, limit := 3967, slot := 0, owner := 1, part := 0, peer := 0 }] })).updTer 0 (fun t =>
      { t with lostLines := [0x251000000 / 256] })), (by decide +kernel)⟩,
    ⟨{ op := 2, dst := 4, src := 9, addr := 0x28000000000, len := 32, tag := 7 }, { tag := 7, txn := { op := 1, dst := 9, src := 4, tag := 7 } },
      { wFab id with fab := { (wFab id).fab with pend := [{ tag := 7, txn := { op := 1, dst := 9, src := 4, tag := 7 } }] } },
      (by decide +kernel)⟩,
    ⟨{ op := 2, dst := 4, src := 9, addr := 0x28000000000, len := 32, tag := 7 },
      { tag := 7, txn := { op := 1, dst := 9, src := 4, tag := 7, len := 32 }, dest := 0x251000000 },
      ({ wFab id with fab := { (wFab id).fab with pend := [{ tag := 7, txn := { op := 1, dst := 9, src := 4, tag := 7, len := 32 }, dest := 0x251000000 }] } }
      : Device).updTer 0 (fun t => { t with lostLines := [0x251000000 / 256] }), (by decide +kernel)⟩,
    ⟨{ op := 4, dst := 4, src := 9, addr := 0x28000000000, len := 32, tag := 7 }, { tag := 7, txn := { op := 3, dst := 9, src := 4, tag := 7 } },
      { wFab id with fab := { (wFab id).fab with pend := [{ tag := 7, txn := { op := 3, dst := 9, src := 4, tag := 7 } }] } },
      (by decide +kernel)⟩,
    ⟨{ op := 4, dst := 4, src := 9, addr := 0x28000000000, len := 32, tag := 7 },
      { tag := 7, txn := { op := 3, dst := 9, src := 4, tag := 7 }, job := 0, logStep := some 5 },
      { wFab id with fab := { (wFab id).fab with pend := [{ tag := 7, txn := { op := 3, dst := 9, src := 4, tag := 7 }, job := 0, logStep := some 5 }] } },
      (by decide +kernel)⟩,
    ⟨{ op := 2, dst := 4, src := 9, addr := 0x28000000000, len := 32, tag := 7 }, wFab id, (by decide +kernel)⟩,
    ⟨{ op := 4, dst := 4, src := 9, addr := 0x28000000000, len := 32, tag := 7 }, wFab id, (by decide +kernel)⟩,
    ⟨{ op := 1, dst := 5, src := 9, addr := 0x28000000000, len := 32 }, none, wFab id, (by decide +kernel)⟩⟩

theorem witness_LedgerAddTransactions :
    (∃ (x : Txn) (d : Device), mine d x = true ∧ 2 ≤ d.sec.level)
      ∧ (∃ (x : Txn) (d : Device), mine d x = true ∧ d.sec.level < 2 ∧ (d.jobAt x.job).setup = none)
      ∧ (∃ (x : Txn) (u : JobSetup) (d : Device), mine d x = true ∧ d.sec.level < 2 ∧ (d.jobAt x.job).setup = some u ∧ laddRange x u.prog.pans
        (txnRecords x).length = true)
      ∧ (∃ (x : Txn) (u : JobSetup) (d : Device), mine d x = true ∧ d.sec.level < 2 ∧ (d.jobAt x.job).setup = some u ∧ laddRange x u.prog.pans
        (txnRecords x).length = false ∧ laddFwd x = true ∧ chainOk d x = false)
      ∧ (∃ (x : Txn) (u : JobSetup) (d : Device), mine d x = true ∧ d.sec.level < 2 ∧ (d.jobAt x.job).setup = some u ∧ laddRange x u.prog.pans
        (txnRecords x).length = false ∧ (laddFwd x = false ∨ chainOk d x = true) ∧ (laddTarget d x ((d.fab.held.find? (fun h => h.txn.src == x.src
        && h.txn.tag == x.tag && h.txn.job == x.job && !(h.acked && h.status != stTargetAbsent))).filter (fun h => !h.missing.isEmpty)).isSome =
        none))
      ∧ (∃ (x : Txn) (u : JobSetup) (p : Nat) (d : Device), mine d x = true ∧ d.sec.level < 2 ∧ (d.jobAt x.job).setup = some u ∧ laddRange x
        u.prog.pans (txnRecords x).length = false ∧ (laddFwd x = false ∨ chainOk d x = true) ∧ (laddTarget d x ((d.fab.held.find? (fun h =>
        h.txn.src == x.src && h.txn.tag == x.tag && h.txn.job == x.job && !(h.acked && h.status != stTargetAbsent))).filter (fun h =>
        !h.missing.isEmpty)).isSome = some p) ∧ reissueDue d p = false)
      ∧ (∃ (x : Txn) (u : JobSetup) (p : Nat) (d : Device), mine d x = true ∧ d.sec.level < 2 ∧ (d.jobAt x.job).setup = some u ∧ laddRange x
        u.prog.pans (txnRecords x).length = false ∧ (laddFwd x = false ∨ chainOk d x = true) ∧ (laddTarget d x ((d.fab.held.find? (fun h =>
        h.txn.src == x.src && h.txn.tag == x.tag && h.txn.job == x.job && !(h.acked && h.status != stTargetAbsent))).filter (fun h =>
        !h.missing.isEmpty)).isSome = some p) ∧ reissueDue d p = true)
      ∧ (∃ (x : Txn) (p : Pending) (d : Device), mine d x = true ∧ d.pendOf 5 x = some p ∧ x.status = stTargetAbsent)
      ∧ (∃ (x : Txn) (p : Pending) (d : Device), mine d x = true ∧ d.pendOf 5 x = some p ∧ x.status ≠ stTargetAbsent)
      ∧ (∃ (x : Txn) (d : Device), mine d x = false)
      ∧ (∃ (x : Txn) (d : Device), d.pendOf 5 x = none)
      ∧ (∃ (d : Device), terOn d = true)
      ∧ (∃ (d : Device), terOn d = false)
      ∧ (∃ (j : Fin 16) (chain p : Nat) (e : List Nat) (c : ChainRun) (d : Device), chainEntry d j chain = some e ∧ physPan d j (fieldAt e 12 1) =
        some p ∧ ((d.fab.chains.find? (fun r => r.job == j.val && r.id == chain)).getD { job := j, id := chain } = c) ∧ (terOn d = true ∧ (d.jobAt
        j).live = true ∧ (d.panAt p).flag (fieldAt e 15 1) = true ∧ reissueDue d p = false ∧ (if fieldAt e 2 1 = 0 ∨ fieldAt e 8 4 = 0 then c.sent
        = false else fieldAt e 8 4 ≤ c.added)))
      ∧ (∃ (j : Fin 16) (chain p : Nat) (e : List Nat) (c : ChainRun) (d : Device), chainEntry d j chain = some e ∧ physPan d j (fieldAt e 12 1) =
        some p ∧ ((d.fab.chains.find? (fun r => r.job == j.val && r.id == chain)).getD { job := j, id := chain } = c) ∧ (¬(terOn d = true ∧
        (d.jobAt j).live = true ∧ (d.panAt p).flag (fieldAt e 15 1) = true ∧ reissueDue d p = false ∧ (if fieldAt e 2 1 = 0 ∨ fieldAt e 8 4 = 0
        then c.sent = false else fieldAt e 8 4 ≤ c.added))))
      ∧ (∃ (j : Fin 16) (chain : Nat) (d : Device), (∀ e, chainEntry d j chain = some e → physPan d j (fieldAt e 12 1) = none))
      ∧ (∃ (src tag index k : Nat) (j : Fin 16) (p : Pending) (d : Device), terOn d = true ∧ (d.fab.pend.find? (fun r => r.tag == tag && r.txn.op
        == 5 && r.txn.dst == src && r.job == j.val) = some p) ∧ physPan d j p.pan = some k)
      ∧ (∃ (src tag index : Nat) (j : Fin 16) (d : Device), (∀ p, d.fab.pend.find? (fun r => r.tag == tag && r.txn.op == 5 && r.txn.dst == src &&
        r.job == j.val) = some p → physPan d j p.pan = none))
      ∧ (∃ (src ownTer ter expert slot token col : Nat) (j : Fin 16) (d : Device), terOn d = true)
      ∧ (∃ (src : Nat) (j : Fin 16) (w : Again) (d : Device), terOn d = false) :=
  ⟨⟨{ op := 5, dst := 4, src := 9, addr := 0x28000000000, len := 32 }, { wFab id with sec := { (wFab id).sec with level := 2 } },
      (by decide +kernel)⟩,
    ⟨{ op := 5, dst := 4, src := 9, addr := 0x28000000000, len := 32, job := 3 }, wFab id, (by decide +kernel)⟩,
    ⟨{ op := 5, dst := 4, src := 9, addr := 1, len := 32 }, wSetup, wFab id, (by decide +kernel)⟩,
    ⟨{ op := 5, dst := 4, src := 9, addr := 0, len := 32, flags := 1 }, wSetup, wFab id, (by decide +kernel)⟩,
    ⟨{ op := 5, dst := 4, src := 9, addr := 0, len := 32, data := [0, 0, 0, 0] }, wSetup, (wFab id).updJob 0 (fun q =>
      { q with resident := false }), (by decide +kernel)⟩,
    ⟨{ op := 5, dst := 4, src := 9, addr := 0, len := 32, data := [0, 0, 0, 0] }, wSetup, 0, wFab id, (by decide +kernel)⟩,
    ⟨{ op := 5, dst := 4, src := 9, addr := 0, len := 32, data := [0, 0, 0, 0] }, wSetup, 0, (wFab id).updPan 0 (fun q =>
      { q with arr := { q.arr with consec := 1 } }), (by decide +kernel)⟩,
    ⟨{ op := 6, dst := 4, src := 9, addr := 0x28000000000, len := 32, tag := 7, status := stTargetAbsent },
      { tag := 7, txn := { op := 5, dst := 9, src := 4, tag := 7 } },
      { wFab id with fab := { (wFab id).fab with pend := [{ tag := 7, txn := { op := 5, dst := 9, src := 4, tag := 7 } }] } },
      (by decide +kernel)⟩,
    ⟨{ op := 6, dst := 4, src := 9, addr := 0x28000000000, len := 32, tag := 7 }, { tag := 7, txn := { op := 5, dst := 9, src := 4, tag := 7 } },
      { wFab id with fab := { (wFab id).fab with pend := [{ tag := 7, txn := { op := 5, dst := 9, src := 4, tag := 7 } }] } },
      (by decide +kernel)⟩,
    ⟨{ op := 1, dst := 5, src := 9, addr := 0x28000000000, len := 32 }, wFab id, (by decide +kernel)⟩,
    ⟨{ op := 6, dst := 4, src := 9, addr := 0x28000000000, len := 32 }, wFab id, (by decide +kernel)⟩,
    ⟨wFab id, (by decide +kernel)⟩,
    ⟨{ State.reset.dev with glb := { State.reset.dev.glb with flushing := true } }, (by decide +kernel)⟩,
    ⟨0, 0, 0, [0, 0, 0, 2, 0, 0, 0, 0, 1, 0, 0, 0, 0, 0, 0, 3, 4], { job := 0, id := 0 }, (wFab (fun q =>
      { q with setup := some { wSetup with prog := { wProg with chain := [[0, 0, 0, 2, 0, 0, 0, 0, 1, 0, 0, 0, 0, 0, 0, 3, 4]] } } })).updPan 0
      (fun p => p.setFlag 3), (by decide +kernel)⟩,
    ⟨0, 0, 0, [0, 0, 0, 2, 0, 0, 0, 0, 1, 0, 0, 0, 0, 0, 0, 3, 4], { job := 0, id := 0 }, (wFab (fun q =>
      { q with setup := some { wSetup with prog := { wProg with chain := [[0, 0, 0, 2, 0, 0, 0, 0, 1, 0, 0, 0, 0, 0, 0, 3, 4]] } } })),
      (by decide +kernel)⟩,
    ⟨0, 0, wFab id, (by intro e h; cases h)⟩,
    ⟨9, 7, 1, 0, 0, { tag := 7, txn := { op := 5, dst := 9, src := 4, tag := 7 }, job := 0 },
      { wFab id with fab := { (wFab id).fab with pend := [{ tag := 7, txn := { op := 5, dst := 9, src := 4, tag := 7 }, job := 0 }] } },
      (by decide +kernel)⟩,
    ⟨9, 7, 1, 0, wFab id, (by intro e h; cases h)⟩,
    ⟨9, 0, 0, 0, 0, 0, 0, 0, wFab id, (by decide +kernel)⟩,
    ⟨9, 0, .ladd 7 1, { State.reset.dev with glb := { State.reset.dev.glb with flushing := true } }, (by decide +kernel)⟩⟩

theorem witness_FlagAndForwardTransactions :
    (∃ (x : Txn) (u : JobSetup) (d : Device), mine d x = true ∧ x.status = 0 ∧ (d.jobAt x.job).setup = some u ∧ x.addr < 4096 ∧ bits x.addr 11 6 <
      u.prog.pans)
      ∧ (∃ (x : Txn) (u : JobSetup) (d : Device), mine d x = true ∧ x.status = 0 ∧ (d.jobAt x.job).setup = some u ∧ (4096 ≤ x.addr ∨ u.prog.pans ≤
        bits x.addr 11 6))
      ∧ (∃ (x : Txn) (d : Device), (mine d x = false ∨ (x.status = 0 ∧ (d.jobAt x.job).setup = none)))
      ∧ (∃ (x : Txn) (d : Device), mine d x = true ∧ x.status ≠ 0)
      ∧ (∃ (x : Txn) (b : Nat) (d : Device), terOn d = true ∧ d.fab.selfId ≠ some x.dst ∧ x.hops ≠ 0 ∧ d.routeOf x.dst = .port b)
      ∧ (∃ (x : Txn) (d : Device), terOn d = true ∧ d.fab.selfId ≠ some x.dst ∧ x.hops = 0)
      ∧ (∃ (x : Txn) (st : Nat) (d : Device), terOn d = true ∧ d.fab.selfId ≠ some x.dst ∧ x.hops ≠ 0 ∧ d.routeOf x.dst = .fail st)
      ∧ (∃ (x : Txn) (d : Device), (terOn d = false ∨ d.fab.selfId = some x.dst)) :=
  ⟨⟨{ op := 7, dst := 4, src := 9, addr := 5, len := 32 }, wSetup, wFab id, (by decide +kernel)⟩,
    ⟨{ op := 7, dst := 4, src := 9, addr := 69, len := 32 }, wSetup, wFab id, (by decide +kernel)⟩,
    ⟨{ op := 7, dst := 4, src := 9, addr := 0x28000000000, len := 32, job := 4 }, wFab id, (by decide +kernel)⟩,
    ⟨{ op := 7, dst := 4, src := 9, addr := 5, len := 32, status := 1793 }, wFab id, (by decide +kernel)⟩,
    ⟨{ op := 1, dst := 9, src := 9, addr := 0x28000000000, len := 32 }, 2, wFab id, (by decide +kernel)⟩,
    ⟨{ op := 1, dst := 9, src := 9, addr := 0x28000000000, len := 32, hops := 0 }, wFab id, (by decide +kernel)⟩,
    ⟨{ op := 1, dst := 77, src := 9, addr := 0x28000000000, len := 32 }, stNoRoute, wFab id, (by decide +kernel)⟩,
    ⟨{ op := 1, dst := 4, src := 9, addr := 0x28000000000, len := 32 }, wFab id, (by decide +kernel)⟩⟩

theorem witness_CollectiveTokens :
    (∃ (j : Fin 16) (n : Nat) (u : JobSetup) (d e : Device), d.settleAll j = e ∧ (e.jobAt j).setup = some u ∧ deviceReady e j n = true ∧
      ((childrenOf u.topo).all (fun c => (e.jobAt j).ready.contains (n, c)) = true) ∧ (u.topo.parent.bind (fun p => u.topo.peers[p]?) = none))
      ∧ (∃ (j : Fin 16) (n : Nat) (u : JobSetup) (p : Peer) (d e : Device), d.settleAll j = e ∧ (e.jobAt j).setup = some u ∧ deviceReady e j n =
        true ∧ ((childrenOf u.topo).all (fun c => (e.jobAt j).ready.contains (n, c)) = true) ∧ (u.topo.parent.bind (fun p => u.topo.peers[p]?) =
        some p))
      ∧ (∃ (j : Fin 16) (n : Nat) (u : JobSetup) (d e : Device), d.settleAll j = e ∧ (e.jobAt j).setup = some u ∧ (deviceReady e j n = false ∨
        (childrenOf u.topo).all (fun c => (e.jobAt j).ready.contains (n, c)) = false))
      ∧ (∃ (j : Fin 16) (n : Nat) (d e : Device), d.settleAll j = e ∧ (e.jobAt j).setup = none)
      ∧ (∃ (src : Nat) (j : Fin 16) (n : Nat) (share : StepShare) (u : JobSetup) (d : Device), (d.jobAt j).setup = some u ∧ ((childrenOf
        u.topo).contains src && !(d.jobAt j).ready.contains (n, src)) = true)
      ∧ (∃ (src : Nat) (j : Fin 16) (n : Nat) (share : StepShare) (d : Device), (∀ u, (d.jobAt j).setup = some u → ((childrenOf u.topo).contains
        src && !(d.jobAt j).ready.contains (n, src)) = false))
      ∧ (∃ (src : Nat) (j : Fin 16) (n layers : Nat) (share : StepShare) (u : JobSetup) (d : Device), (d.jobAt j).setup = some u ∧
        (((u.topo.parent.bind (fun p => u.topo.peers[p]?)).map Peer.bundId == some src && (d.jobAt j).steps.head?.any (fun x => x.num == n &&
        x.readySent) && !(d.jobAt j).shardHeld d) = true))
      ∧ (∃ (src : Nat) (j : Fin 16) (n layers : Nat) (share : StepShare) (d : Device), (∀ u, (d.jobAt j).setup = some u → ((u.topo.parent.bind
        (fun p => u.topo.peers[p]?)).map Peer.bundId == some src && (d.jobAt j).steps.head?.any (fun x => x.num == n && x.readySent) && !(d.jobAt
        j).shardHeld d) = false))
      ∧ (∃ (src : Nat) (j : Fin 16) (n : Nat) (failed : Option Nat) (d : Device), ((isPeer d j src && ((d.jobAt j).started || (d.jobAt j).state ==
        .recovering) && (d.jobAt j).commit.step.all (fun c => decide (c < n))) = true))
      ∧ (∃ (src : Nat) (j : Fin 16) (n : Nat) (failed : Option Nat) (d : Device), ((isPeer d j src && ((d.jobAt j).started || (d.jobAt j).state ==
        .recovering) && (d.jobAt j).commit.step.all (fun c => decide (c < n))) = false))
      ∧ (∃ (j : Fin 16) (n peer : Nat) (d : Device), busyStart d j = none ∧ (((isPeer d j peer || (d.fab.selfId == some peer && sluiceWaits d j))
        && (d.jobAt j).started && (d.jobAt j).steps.any (fun x => x.num == n) && !holdsOff d j n peer) = true))
      ∧ (∃ (j : Fin 16) (n peer : Nat) (d : Device), busyStart d j = none ∧ ((isPeer d j peer && (d.jobAt j).state == .recovering && (d.jobAt
        j).steps.any (fun x => x.num == n) && !holdsOff d j n peer) = true))
      ∧ (∃ (j : Fin 16) (n peer : Nat) (d : Device), busyStart d j = none ∧ (((isPeer d j peer || (d.fab.selfId == some peer && sluiceWaits d j))
        && (d.jobAt j).started && (d.jobAt j).steps.any (fun x => x.num == n) && !holdsOff d j n peer) = false) ∧ ((isPeer d j peer && (d.jobAt
        j).state == .recovering && (d.jobAt j).steps.any (fun x => x.num == n) && !holdsOff d j n peer) = false))
      ∧ (∃ (j : Fin 16) (n peer m : Nat) (d : Device), busyStart d j = some m)
      ∧ (∃ (src : Nat) (j : Fin 16) (n : Nat) (d : Device), isPeer d j src = true ∧ ((d.jobAt j).steps.head?.any (fun x => x.num == n) = true))
      ∧ (∃ (src : Nat) (j : Fin 16) (n : Nat) (d : Device), (isPeer d j src = false ∨ (d.jobAt j).steps.head?.any (fun x => x.num == n) = false))
      ∧ (∃ (j : Fin 16) (n : Nat) (st : Step) (d : Device), ((d.jobAt j).steps.find? (fun x => x.num == n) = some st) ∧ (d.jobAt j).state =
        .running ∧ inputWaits d j st = true)
      ∧ (∃ (j : Fin 16) (n : Nat) (d : Device), (∀ st, (d.jobAt j).steps.find? (fun x => x.num == n) = some st → (d.jobAt j).state ≠ .running ∨
        inputWaits d j st = false)) :=
  ⟨⟨0, 5, { wSetup with topo := wTopo },
      ({ wStepDev wTopo (fun x => { x with stages := true, logDone := true }) with tide := { (wFab id).tide with entries := [(0, { ns := 0, sec := 0, action := 2, param := 0, job := 0, step := 5, arg := 0, fired := true })] } }
      : Device),
      ({ wStepDev wTopo (fun x => { x with stages := true, logDone := true }) with tide := { (wFab id).tide with entries := [(0, { ns := 0, sec := 0, action := 2, param := 0, job := 0, step := 5, arg := 0, fired := true })] } }
      : Device).settleAll 0, (by decide +kernel)⟩,
    ⟨0, 5, { wSetup with topo := { wTopo with parent := some 0 } }, wPeer,
      ({ wStepDev { wTopo with parent := some 0 } (fun x => { x with stages := true, logDone := true }) with tide := { (wFab id).tide with entries := [(0, { ns := 0, sec := 0, action := 2, param := 0, job := 0, step := 5, arg := 0, fired := true })] } }
      : Device),
      ({ wStepDev { wTopo with parent := some 0 } (fun x => { x with stages := true, logDone := true }) with tide := { (wFab id).tide with entries := [(0, { ns := 0, sec := 0, action := 2, param := 0, job := 0, step := 5, arg := 0, fired := true })] } }
      : Device).settleAll 0, (by decide +kernel)⟩,
    ⟨0, 5, { wSetup with topo := wTopo }, (wStepDev wTopo id), (wStepDev wTopo id).settleAll 0, (by decide +kernel)⟩,
    ⟨1, 5, (wStepDev wTopo id), (wStepDev wTopo id).settleAll 1, (by decide +kernel)⟩,
    ⟨9, 0, 5, {}, { wSetup with topo := { wTopo with peers := [{ wPeer with child := true }] } }, wStepDev
      { wTopo with peers := [{ wPeer with child := true }] } id, (by decide +kernel)⟩,
    ⟨9, 1, 5, {}, (wStepDev wTopo id), (by intro u h; cases h)⟩,
    ⟨9, 0, 5, 3, {}, { wSetup with topo := { wTopo with parent := some 0 } }, wStepDev { wTopo with parent := some 0 } (fun x =>
      { x with readySent := true }), (by decide +kernel)⟩,
    ⟨9, 1, 5, 3, {}, (wStepDev wTopo id), (by intro u h; cases h)⟩,
    ⟨9, 0, 5, some 12, (wStepDev wTopo id), (by decide +kernel)⟩,
    ⟨9, 0, 5, some 12, (wStepDev wTopo id).updJob 0 (fun q => { q with commit := { step := some 5 } }), (by decide +kernel)⟩,
    ⟨0, 5, 9, (wStepDev wTopo id), (by decide +kernel)⟩,
    ⟨0, 5, 9, (wStepDev wTopo id).updJob 0 (fun q => { q with state := .recovering }), (by decide +kernel)⟩,
    ⟨0, 6, 9, (wStepDev wTopo id), (by decide +kernel)⟩,
    ⟨0, 5, 9, 16, ({ wFab id with quy := { (wFab id).quy with posted := [16], mbx := bmWrite (wFab id).quy.mbx (4096 * 16) [0, 0, 0, 0, 1, 1] } }
      : Device).setOwn 16 2, (by decide +kernel)⟩,
    ⟨9, 0, 5, (wStepDev wTopo id), (by decide +kernel)⟩,
    ⟨9, 0, 6, (wStepDev wTopo id), (by decide +kernel)⟩,
    ⟨0, 5, { wStep with slots := [(0, { place := .hostLane })] }, wStepDev wTopo (fun x => { x with slots := [(0, { place := .hostLane })] }),
      (by decide +kernel)⟩,
    ⟨0, 6, (wStepDev wTopo id), (by intro st h; cases h)⟩⟩

theorem witness_PartnerTokens :
    (∃ (src : Nat) (j : Fin 16) (ids : List Nat) (d : Device), (d.jobAt j).state ≠ .empty ∧ (d.jobAt j).state ≠ .recovering ∧ (d.jobAt
      j).partner.filling = false)
      ∧ (∃ (src : Nat) (j : Fin 16) (ids : List Nat) (u : JobSetup) (d : Device), (d.jobAt j).state ≠ .empty ∧ ((d.jobAt j).state = .recovering ∨
        (d.jobAt j).partner.filling = true) ∧ (d.jobAt j).setup = some u ∧ src ∈ groupOf u.topo ∧ (d.jobAt j).partner.fill = none)
      ∧ (∃ (src : Nat) (j : Fin 16) (ids : List Nat) (u : JobSetup) (f : Nat) (d : Device), (d.jobAt j).state ≠ .empty ∧ ((d.jobAt j).state =
        .recovering ∨ (d.jobAt j).partner.filling = true) ∧ (d.jobAt j).setup = some u ∧ src ∈ groupOf u.topo ∧ (d.jobAt j).partner.fill = some f)
      ∧ (∃ (src : Nat) (j : Fin 16) (ids : List Nat) (d : Device), ((d.jobAt j).state = .empty ∨ (((d.jobAt j).state = .recovering ∨ (d.jobAt
        j).partner.filling = true) ∧ ∀ u, (d.jobAt j).setup = some u → src ∉ groupOf u.topo)))
      ∧ (∃ (src : Nat) (j : Fin 16) (b n : Nat) (u : JobSetup) (p : Peer) (d : Device), (d.jobAt j).setup = some u ∧ peerOf u.topo src = some p ∧
        (d.jobAt j).state = .recovering ∧ (d.jobAt j).committedField = n ∧ ((d.jobAt j).partner.lacking.all (fun x => (if (d.jobAt
        j).partner.joins.contains b then (d.jobAt j).partner.joins else (d.jobAt j).partner.joins ++ [b]).contains x) = false))
      ∧ (∃ (src : Nat) (j : Fin 16) (b n : Nat) (u : JobSetup) (p : Peer) (d : Device), (d.jobAt j).setup = some u ∧ peerOf u.topo src = some p ∧
        (d.jobAt j).state = .recovering ∧ (d.jobAt j).committedField = n ∧ ((d.jobAt j).partner.lacking.all (fun x => (if (d.jobAt
        j).partner.joins.contains b then (d.jobAt j).partner.joins else (d.jobAt j).partner.joins ++ [b]).contains x) = true))
      ∧ (∃ (src : Nat) (j : Fin 16) (b n : Nat) (u : JobSetup) (p : Peer) (d : Device), (d.jobAt j).setup = some u ∧ peerOf u.topo src = some p ∧
        (d.jobAt j).state = .recovering ∧ (d.jobAt j).committedField ≠ n)
      ∧ (∃ (src : Nat) (j : Fin 16) (b n : Nat) (u : JobSetup) (p : Peer) (d e : Device), (d.jobAt j).setup = some u ∧ peerOf u.topo src = some p
        ∧ (d.jobAt j).state ≠ .recovering ∧ ((d.updJob j (fun q =>
        { q with partner := { q.partner with joined := if q.partner.joined.contains (b, n) then q.partner.joined else q.partner.joined ++ [(b, n)] } }))
        = e))
      ∧ (∃ (src : Nat) (j : Fin 16) (b n : Nat) (d : Device), (∀ u, (d.jobAt j).setup = some u → peerOf u.topo src = none))
      ∧ (∃ (src : Nat) (j : Fin 16) (d : Device), ((isPeer d j src = true ∧ (d.jobAt j).partner.filling = true) ∨ (busyStart d j).isSome = true))
      ∧ (∃ (src : Nat) (j : Fin 16) (d : Device), (isPeer d j src = false ∨ (d.jobAt j).partner.filling = false) ∧ busyStart d j = none) :=
  ⟨⟨9, 0, [4], (wStepDev wTopo id), (by decide +kernel)⟩,
    ⟨9, 0, [4], wSetup, ((wStepDev wTopo id).updJob 0 (fun q =>
      { q with state := .recovering, nextStep := 6, commit := { step := some 5 }, partner := { lacking := [9, 12] } })), (by decide +kernel)⟩,
    ⟨9, 0, [4], wSetup, 12, ((wStepDev wTopo id).updJob 0 (fun q =>
      { q with state := .recovering, nextStep := 6, commit := { step := some 5 }, partner := { lacking := [9, 12], fill := some 12 } })),
      (by decide +kernel)⟩,
    ⟨9, 1, [4], (wStepDev wTopo id), (by exact Or.inl (by decide +kernel))⟩,
    ⟨9, 0, 12, 5, { wSetup with topo := { wTopo with peers := [wPeer] } }, wPeer, ((wStepDev wTopo id).updJob 0 (fun q =>
      { q with state := .recovering, nextStep := 6, commit := { step := some 5 }, partner := { lacking := [9, 12] } })), (by decide +kernel)⟩,
    ⟨9, 0, 12, 5, { wSetup with topo := { wTopo with peers := [wPeer] } }, wPeer, ((wStepDev wTopo id).updJob 0 (fun q =>
      { q with state := .recovering, nextStep := 6, commit := { step := some 5 }, partner := { lacking := [12] } })), (by decide +kernel)⟩,
    ⟨9, 0, 12, 4, wSetup, wPeer, ((wStepDev wTopo id).updJob 0 (fun q =>
      { q with state := .recovering, nextStep := 6, commit := { step := some 5 }, partner := { lacking := [9, 12] } })), (by decide +kernel)⟩,
    ⟨9, 0, 9, 4, { wSetup with jr := { wRec with restore := 1, restoreStep := 4 }, topo := { wTopo with peers := [wPeer] } }, wPeer, (wFab (fun q
      => { q with setup := some { wSetup with jr := { wRec with restore := 1, restoreStep := 4 }, topo := { wTopo with peers := [wPeer] } } })),
      ((wFab (fun q =>
      { q with setup := some { wSetup with jr := { wRec with restore := 1, restoreStep := 4 }, topo := { wTopo with peers := [wPeer] } } })).updJob
      0 (fun q =>
      { q with partner := { q.partner with joined := if q.partner.joined.contains (9, 4) then q.partner.joined else q.partner.joined ++ [(9, 4)] } })),
      (by decide +kernel)⟩,
    ⟨9, 1, 12, 4, (wStepDev wTopo id), (by intro u h; cases h)⟩,
    ⟨9, 0, ((wStepDev wTopo id).updJob 0 (fun q => { q with partner := { filling := true } })), (by decide +kernel)⟩,
    ⟨9, 0, (wStepDev wTopo id), (by decide +kernel)⟩⟩

theorem witness_BundPorts :
    (∃ (b : Fin 8) (l : Fin 9) (d : Device), linkUp d b = true ∧ (d.portAt b).bad.getLsbD l = false)
      ∧ (∃ (b : Fin 8) (l : Fin 9) (d : Device), (linkUp d b = false ∨ (d.portAt b).bad.getLsbD l = true))
      ∧ (∃ (b : Fin 8) (bad : BitVec 9) (d : Device), linkUp d b = true)
      ∧ (∃ (b : Fin 8) (bad : BitVec 9) (d : Device), linkUp d b = false)
      ∧ (∃ (b : Fin 8) (f : FlitIn) (d : Device), carries d b = true ∧ (f.crcOk = false ∨ ((d.portAt b).encEn = true ∧ f.crcOk = true ∧ f.tagOk =
        false) ∨ f.seq ≠ (d.portAt b).rxSeq))
      ∧ (∃ (b : Fin 8) (f : FlitIn) (d : Device), carries d b = true ∧ f.crcOk = true ∧ ((d.portAt b).encEn = false ∨ f.tagOk = true) ∧ f.seq =
        (d.portAt b).rxSeq)
      ∧ (∃ (b : Fin 8) (ack : Nat) (d : Device), carries d b = true)
      ∧ (∃ (b : Fin 8) (f : FlitIn) (ack : Nat) (u : List (Fin 9)) (d : Device), carries d b = false)
      ∧ (∃ (b : Fin 8) (u : List (Fin 9)) (d : Device), carries d b = true ∧ 16 ≤ (d.portAt b).resends)
      ∧ (∃ (b : Fin 8) (u : List (Fin 9)) (d : Device), (d.portAt b).resends < 16)
      ∧ (∃ (b : Fin 8) (enc : Bool) (d : Device), linkUp d b = true ∧ (d.portAt b).state = .training ∧ (d.portAt b).width ≠ .down ∧ (d.portAt
        b).encEn = enc)
      ∧ (∃ (b : Fin 8) (enc : Bool) (d : Device), (linkUp d b = false ∨ (d.portAt b).state ≠ .training ∨ (d.portAt b).width = .down ∨ (d.portAt
        b).encEn ≠ enc))
      ∧ (∃ (b : Fin 8) (d : Device), linkUp d b = true ∧ (8 ≤ ((d.portAt b).mismatches.filter (fun t => decide (d.tide.now < t +
        1000000))).length))
      ∧ (∃ (b : Fin 8) (d : Device), (linkUp d b = false ∨ ¬(8 ≤ ((d.portAt b).mismatches.filter (fun t => decide (d.tide.now < t +
        1000000))).length)))
      ∧ (∃ (b : Fin 8) (d : Device), d.inp.stage = .served ∧ d.sec.level < 2 ∧ d.sec.zeroised = false)
      ∧ (∃ (b : Fin 8) (d : Device), (d.inp.stage ≠ .served ∨ 2 ≤ d.sec.level ∨ d.sec.zeroised = true)) :=
  ⟨⟨2, 3, wFab id, (by decide +kernel)⟩,
    ⟨3, 3, ((wFab id).updPort 3 (fun p => { p with state := .down })), (by decide +kernel)⟩,
    ⟨2, 5, wFab id, (by decide +kernel)⟩,
    ⟨2, 5, ((wFab id).updPort 2 (fun p => { p with state := .down })), (by decide +kernel)⟩,
    ⟨2, { seq := 3, ackSeq := 0, vc := 0, kind := 0 }, wFab id, (by decide +kernel)⟩,
    ⟨2, { seq := 0, ackSeq := 0, vc := 0, kind := 0, credits := 4 }, wFab id, (by decide +kernel)⟩,
    ⟨2, 0, wFab id, (by decide +kernel)⟩,
    ⟨2, { seq := 0, ackSeq := 0, vc := 0, kind := 0, credits := 4 }, 0, [], ((wFab id).updPort 2 (fun p => { p with state := .training })),
      (by decide +kernel)⟩,
    ⟨2, [3], ((wFab id).updPort 2 (fun p => { p with resends := 16 })), (by decide +kernel)⟩,
    ⟨2, [3], wFab id, (by decide +kernel)⟩,
    ⟨2, false, ((wFab id).updPort 2 (fun p => { p with state := .training })), (by decide +kernel)⟩,
    ⟨2, true, ((wFab id).updPort 2 (fun p => { p with state := .training })), (by decide +kernel)⟩,
    ⟨2, ((wFab id).updPort 2 (fun p => { p with mismatches := [0, 0, 0, 0, 0, 0, 0, 0] })), (by decide +kernel)⟩,
    ⟨2, ((wFab id).updPort 2 (fun p => { p with mismatches := [0, 0] })), (by decide +kernel)⟩,
    ⟨2, wFab id, (by decide +kernel)⟩,
    ⟨2, { wFab id with sec := { (wFab id).sec with level := 2 } }, (by decide +kernel)⟩⟩

theorem witness_QuayTransport :
    (∃ (c : Instr) (typ op : Nat) (k : Packet) (r : List (Nat × Nat)) (hit : Option Hit) (d : Device), (c, typ, op) ∈ ([(.qtWrite k, 1, 1),
      (.qtReadReq k hit, 1, 2), (.qtReadResp k, 1, 3), (.ack k, 2, 0), (.sack k r, 3, 0), (.openFlow k, 4, 0), (.closeFlow k, 5, 0), (.probe k, 6,
      0)] : List (Instr × Nat × Nat)) ∧ (hostUp d = false ∨ k.mac ≠ d.fuses.mac))
      ∧ (∃ (c : Instr) (typ op : Nat) (k : Packet) (r : List (Nat × Nat)) (hit : Option Hit) (d : Device), (c, typ, op) ∈ ([(.qtWrite k, 1, 1),
        (.qtReadReq k hit, 1, 2), (.qtReadResp k, 1, 3), (.ack k, 2, 0), (.sack k r, 3, 0), (.openFlow k, 4, 0), (.closeFlow k, 5, 0), (.probe k,
        6, 0)] : List (Instr × Nat × Nat)) ∧ hostUp d = true ∧ k.mac = d.fuses.mac ∧ d.eth.mtu < frameBytes k)
      ∧ (∃ (c : Instr) (typ op : Nat) (k : Packet) (r : List (Nat × Nat)) (hit : Option Hit) (d : Device), (c, typ, op) ∈ ([(.qtWrite k, 1, 1),
        (.qtReadReq k hit, 1, 2), (.qtReadResp k, 1, 3), (.ack k, 2, 0), (.sack k r, 3, 0), (.openFlow k, 4, 0), (.closeFlow k, 5, 0), (.probe k,
        6, 0)] : List (Instr × Nat × Nat)) ∧ hostUp d = true ∧ k.mac = d.fuses.mac ∧ frameBytes k ≤ d.eth.mtu ∧ forQuay d k = false)
      ∧ (∃ (c : Instr) (typ op : Nat) (k : Packet) (r : List (Nat × Nat)) (hit : Option Hit) (d : Device), (c, typ, op) ∈ ([(.qtWrite k, 1, 1),
        (.qtReadReq k hit, 1, 2), (.qtReadResp k, 1, 3), (.ack k, 2, 0), (.sack k r, 3, 0), (.openFlow k, 4, 0), (.closeFlow k, 5, 0), (.probe k,
        6, 0)] : List (Instr × Nat × Nat)) ∧ hostUp d = true ∧ forQuay d k = true ∧ badPacket (d.pfcSend k) k = true)
      ∧ (∃ (c : Instr) (typ op : Nat) (k : Packet) (r : List (Nat × Nat)) (hit : Option Hit) (d : Device), (c, typ, op) ∈ ([(.qtWrite k, 1, 1),
        (.qtReadReq k hit, 1, 2), (.qtReadResp k, 1, 3), (.ack k, 2, 0), (.sack k r, 3, 0), (.openFlow k, 4, 0), (.closeFlow k, 5, 0), (.probe k,
        6, 0)] : List (Instr × Nat × Nat)) ∧ hostUp d = true ∧ forQuay d k = true ∧ badPacket (d.pfcSend k) k = false ∧ (k.typ ≠ typ ∨ k.op ≠ op))
      ∧ (∃ (c : Instr) (typ op : Nat) (k : Packet) (r : List (Nat × Nat)) (hit : Option Hit) (d : Device), (c, typ, op) ∈ ([(.qtWrite k, 1, 1),
        (.qtReadReq k hit, 1, 2), (.qtReadResp k, 1, 3), (.ack k, 2, 0), (.sack k r, 3, 0), (.openFlow k, 4, 0), (.closeFlow k, 5, 0), (.probe k,
        6, 0)] : List (Instr × Nat × Nat)) ∧ typ ≠ 4 ∧ hostUp d = true ∧ forQuay d k = true ∧ badPacket (d.pfcSend k) k = false ∧ k.typ = typ ∧
        k.op = op ∧ (d.pfcSend k).flowAt k.flow = none)
      ∧ (∃ (c : Instr) (typ op : Nat) (k : Packet) (r : List (Nat × Nat)) (hit : Option Hit) (f : Flow) (d : Device), (c, typ, op) ∈ ([(.qtWrite
        k, 1, 1), (.qtReadReq k hit, 1, 2), (.qtReadResp k, 1, 3), (.ack k, 2, 0), (.sack k r, 3, 0), (.openFlow k, 4, 0), (.closeFlow k, 5, 0),
        (.probe k, 6, 0)] : List (Instr × Nat × Nat)) ∧ typ ≠ 4 ∧ hostUp d = true ∧ forQuay d k = true ∧ badPacket (d.pfcSend k) k = false ∧ k.typ
        = typ ∧ k.op = op ∧ (d.pfcSend k).flowAt k.flow = some f ∧ openPacket f k = none)
      ∧ (∃ (k x : Packet) (f : Flow) (d e : Device), Received d e 1 1 k f x ∧ x.psn = f.rxPsn)
      ∧ (∃ (k x : Packet) (f : Flow) (d e : Device), Received d e 1 1 k f x ∧ x.psn < f.rxPsn)
      ∧ (∃ (k x : Packet) (f : Flow) (d e : Device), Received d e 1 1 k f x ∧ f.rxPsn < x.psn ∧ unreached (e.note x) f 1 x = true)
      ∧ (∃ (k x : Packet) (f : Flow) (d e : Device), Received d e 1 1 k f x ∧ f.rxPsn < x.psn ∧ unreached (e.note x) f 1 x = false)
      ∧ (∃ (k x : Packet) (f : Flow) (hit : Option Hit) (d e : Device), Received d e 1 2 k f x ∧ x.psn = f.rxPsn)
      ∧ (∃ (k x : Packet) (f : Flow) (hit : Option Hit) (d e : Device), Received d e 1 2 k f x ∧ x.psn < f.rxPsn)
      ∧ (∃ (k x : Packet) (f : Flow) (hit : Option Hit) (d e : Device), Received d e 1 2 k f x ∧ f.rxPsn < x.psn ∧ unreached (e.note x) f 2 x =
        true)
      ∧ (∃ (k x : Packet) (f : Flow) (hit : Option Hit) (d e : Device), Received d e 1 2 k f x ∧ f.rxPsn < x.psn ∧ unreached (e.note x) f 2 x =
        false)
      ∧ (∃ (k x : Packet) (f : Flow) (d e : Device), Received d e 1 3 k f x ∧ x.psn = f.rxPsn)
      ∧ (∃ (k x : Packet) (f : Flow) (d e : Device), Received d e 1 3 k f x ∧ x.psn < f.rxPsn)
      ∧ (∃ (k x : Packet) (f : Flow) (d e : Device), Received d e 1 3 k f x ∧ f.rxPsn < x.psn)
      ∧ (∃ (k x : Packet) (f : Flow) (d e : Device), Received d e 2 0 k f x)
      ∧ (∃ (k x : Packet) (r : List (Nat × Nat)) (f g : Flow) (d e : Device), Received d e 3 0 k f x ∧ (((e.note k).updFlow k.flow (fun h =>
        { h.adjust ((e.note k).pieceOf k.flow) k.ackPsn (bitOf k.flags 1) with unacked := h.unacked.filter (fun u => !inRanges r u.psn) })).flowAt
        k.flow = some g))
      ∧ (∃ (k : Packet) (d : Device), hostUp d = true ∧ forQuay d k = true ∧ badPacket (d.pfcSend k) k = false ∧ k.typ = 4 ∧ k.op = 0)
      ∧ (∃ (k x : Packet) (f : Flow) (d e : Device), Received d e 5 0 k f x)
      ∧ (∃ (k x : Packet) (f : Flow) (d e : Device), Received d e 6 0 k f x)
      ∧ (∃ (flow : Nat) (f : Flow) (u : TxPacket) (d : Device), hostUp d = true ∧ d.flowAt flow = some f ∧ (f.unacked.find? (fun u => u.sent) =
        some u))
      ∧ (∃ (flow : Nat) (d : Device), (hostUp d = false ∨ ∀ f, d.flowAt flow = some f → f.unacked.find? (fun u => u.sent) = none))
      ∧ (∃ (p : BitVec 8) (d : Device), hostUp d = true)
      ∧ (∃ (p : BitVec 8) (d : Device), hostUp d = false)
      ∧ (∃ (cr : Bool) (d : Device), d.inp.stage = .served ∧ d.eth.state = 1)
      ∧ (∃ (cr : Bool) (d : Device), (d.inp.stage ≠ .served ∨ d.eth.state ≠ 1))
      ∧ (∃ (flow addr : Nat) (data : List Nat) (f : Flow) (d : Device), hostUp d = true ∧ d.flowAt flow = some f)
      ∧ (∃ (flow addr : Nat) (data : List Nat) (d : Device), (hostUp d = false ∨ d.flowAt flow = none)) :=
  ⟨⟨.ack { typ := 2, op := 0, flow := 5, flags := 8, mac := 7 }, 2, 0, { typ := 2, op := 0, flow := 5, flags := 8, mac := 7 }, [], none, wHost,
      (by decide +kernel)⟩,
    ⟨.ack { typ := 2, op := 0, flow := 5, flags := 8, fragment := true }, 2, 0, { typ := 2, op := 0, flow := 5, flags := 8, fragment := true },
      [], none, { wHost with eth := { wHost.eth with mtu := 10 } }, (by decide +kernel)⟩,
    ⟨.ack { typ := 2, op := 0, flow := 5, flags := 8, fragment := true }, 2, 0, { typ := 2, op := 0, flow := 5, flags := 8, fragment := true },
      [], none, wHost, (by decide +kernel)⟩,
    ⟨.ack { typ := 2, op := 0, flow := 5, flags := 8, ver := 2 }, 2, 0, { typ := 2, op := 0, flow := 5, flags := 8, ver := 2 }, [], none, wHost,
      (by decide +kernel)⟩,
    ⟨.ack { typ := 6, op := 0, flow := 5, flags := 8 }, 2, 0, { typ := 6, op := 0, flow := 5, flags := 8 }, [], none, wHost, (by decide +kernel)⟩,
    ⟨.ack { typ := 2, op := 0, flow := 77, flags := 8 }, 2, 0, { typ := 2, op := 0, flow := 77, flags := 8 }, [], none, wHost,
      (by decide +kernel)⟩,
    ⟨.ack { typ := 2, op := 0, flow := 5, flags := 9 }, 2, 0, { typ := 2, op := 0, flow := 5, flags := 9 }, [], none,
      { id := 5, binding := some 0xFF }, wHost, (by decide +kernel)⟩,
    ⟨{ typ := 1, op := 1, flow := 5, flags := 8, addr := 64, data := List.replicate 64 7, len := 64 },
      { typ := 1, op := 1, flow := 5, flags := 8, addr := 64, data := List.replicate 64 7, len := 64 }, { id := 5, binding := some 0xFF }, wHost,
      wHost, (by decide +kernel)⟩,
    ⟨{ typ := 1, op := 1, flow := 5, flags := 8, addr := 64, data := List.replicate 64 7, len := 64 },
      { typ := 1, op := 1, flow := 5, flags := 8, addr := 64, data := List.replicate 64 7, len := 64 },
      { id := 5, binding := some 0xFF, rxPsn := 1 },
      { wHost with quy := { wHost.quy with flows := [{ id := 5, binding := some 0xFF, rxPsn := 1 }] } },
      { wHost with quy := { wHost.quy with flows := [{ id := 5, binding := some 0xFF, rxPsn := 1 }] } }, (by decide +kernel)⟩,
    ⟨{ typ := 1, op := 1, flow := 5, psn := 1, flags := 8, addr := 2097152, data := List.replicate 64 7, len := 64 },
      { typ := 1, op := 1, flow := 5, psn := 1, flags := 8, addr := 2097152, data := List.replicate 64 7, len := 64 },
      { id := 5, binding := some 0xFF }, wHost, wHost, (by decide +kernel)⟩,
    ⟨{ typ := 1, op := 1, flow := 5, psn := 1, flags := 8, addr := 64, data := List.replicate 64 7, len := 64 },
      { typ := 1, op := 1, flow := 5, psn := 1, flags := 8, addr := 64, data := List.replicate 64 7, len := 64 },
      { id := 5, binding := some 0xFF }, wHost, wHost, (by decide +kernel)⟩,
    ⟨{ typ := 1, op := 2, flow := 5, flags := 8, addr := 0, len := 64 }, { typ := 1, op := 2, flow := 5, flags := 8, addr := 0, len := 64 },
      { id := 5, binding := some 0xFF }, none, wHost, wHost, (by decide +kernel)⟩,
    ⟨{ typ := 1, op := 2, flow := 5, flags := 8, addr := 0, len := 64 }, { typ := 1, op := 2, flow := 5, flags := 8, addr := 0, len := 64 },
      { id := 5, binding := some 0xFF, rxPsn := 1 }, none,
      { wHost with quy := { wHost.quy with flows := [{ id := 5, binding := some 0xFF, rxPsn := 1 }] } },
      { wHost with quy := { wHost.quy with flows := [{ id := 5, binding := some 0xFF, rxPsn := 1 }] } }, (by decide +kernel)⟩,
    ⟨{ typ := 1, op := 2, flow := 5, psn := 1, flags := 8, addr := 2097152, len := 64 },
      { typ := 1, op := 2, flow := 5, psn := 1, flags := 8, addr := 2097152, len := 64 }, { id := 5, binding := some 0xFF }, none, wHost, wHost,
      (by decide +kernel)⟩,
    ⟨{ typ := 1, op := 2, flow := 5, psn := 1, flags := 8, addr := 0, len := 64 },
      { typ := 1, op := 2, flow := 5, psn := 1, flags := 8, addr := 0, len := 64 }, { id := 5, binding := some 0xFF }, none, wHost, wHost,
      (by decide +kernel)⟩,
    ⟨{ typ := 1, op := 3, flow := 5, flags := 8, addr := 0, len := 64, data := [1] },
      { typ := 1, op := 3, flow := 5, flags := 8, addr := 0, len := 64, data := [1] }, { id := 5, binding := some 0xFF }, wHost, wHost,
      (by decide +kernel)⟩,
    ⟨{ typ := 1, op := 3, flow := 5, flags := 8, addr := 0, len := 64, data := [1] },
      { typ := 1, op := 3, flow := 5, flags := 8, addr := 0, len := 64, data := [1] }, { id := 5, binding := some 0xFF, rxPsn := 1 },
      { wHost with quy := { wHost.quy with flows := [{ id := 5, binding := some 0xFF, rxPsn := 1 }] } },
      { wHost with quy := { wHost.quy with flows := [{ id := 5, binding := some 0xFF, rxPsn := 1 }] } }, (by decide +kernel)⟩,
    ⟨{ typ := 1, op := 3, flow := 5, psn := 1, flags := 8, addr := 0, len := 64, data := [1] },
      { typ := 1, op := 3, flow := 5, psn := 1, flags := 8, addr := 0, len := 64, data := [1] }, { id := 5, binding := some 0xFF }, wHost, wHost,
      (by decide +kernel)⟩,
    ⟨{ typ := 2, op := 0, flow := 5, flags := 8 }, { typ := 2, op := 0, flow := 5, flags := 8 }, { id := 5, binding := some 0xFF }, wHost, wHost,
      (by decide +kernel)⟩,
    ⟨{ typ := 3, op := 0, flow := 5, flags := 8 }, { typ := 3, op := 0, flow := 5, flags := 8 }, [(4, 1)], { id := 5, binding := some 0xFF },
      { id := 5, binding := some 0xFF, window := 73728 }, wHost, wHost, (by decide +kernel)⟩,
    ⟨{ typ := 4, op := 0, flow := 6, flags := 8 }, wHost, (by decide +kernel)⟩,
    ⟨{ typ := 5, op := 0, flow := 5, flags := 8 }, { typ := 5, op := 0, flow := 5, flags := 8 }, { id := 5, binding := some 0xFF }, wHost, wHost,
      (by decide +kernel)⟩,
    ⟨{ typ := 6, op := 0, flow := 5, flags := 8 }, { typ := 6, op := 0, flow := 5, flags := 8 }, { id := 5, binding := some 0xFF }, wHost, wHost,
      (by decide +kernel)⟩,
    ⟨5, { id := 5, unacked := [{ psn := 0, msg := 0, op := 1, addr := 0, len := 0, sent := true }] },
      { psn := 0, msg := 0, op := 1, addr := 0, len := 0, sent := true },
      { wHost with quy := { wHost.quy with flows := [{ id := 5, unacked := [{ psn := 0, msg := 0, op := 1, addr := 0, len := 0, sent := true }] }] } },
      (by decide +kernel)⟩,
    ⟨6, wFab id, (by exact Or.inl (by decide +kernel))⟩,
    ⟨5, wHost, (by decide +kernel)⟩,
    ⟨5, wFab id, (by decide +kernel)⟩,
    ⟨true, { wHost with eth := { wHost.eth with state := 1 } }, (by decide +kernel)⟩,
    ⟨true, wHost, (by decide +kernel)⟩,
    ⟨5, 0, [1], { id := 5, binding := some 0xFF }, wHost, (by decide +kernel)⟩,
    ⟨6, 0, [1], wHost, (by decide +kernel)⟩⟩

theorem witness_ManagementCommands :
    (∃ (m : Fin 256) (hit : Option Hit) (c : Instr) (k : Nat) (d : Device), (c, k) ∈ [(Instr.devInfo m, 0x1), (Instr.flowBind m, 0x2),
      (Instr.partSet m, 0x3), (Instr.jobCreate m, 0x4), (Instr.jobDestroy m, 0x5), (Instr.configStage m, 0x6), (Instr.tideAdd m, 0x7),
      (Instr.tideCancel m, 0x8), (Instr.powerReq m, 0x9), (Instr.warmReset m, 0xa), (Instr.jobList m, 0xb), (Instr.jobStart m hit, 0x101),
      (Instr.jobSuspend m, 0x103), (Instr.jobResume m, 0x104), (Instr.jobQuery m, 0x105), (Instr.logRead m, 0x106), (Instr.overrideAdd m hit,
      0x108), (Instr.manifest m hit, 0x201), (Instr.stepSubmit m, 0x202), (Instr.hostlaneReturn m hit, 0x203), (Instr.batch m hit, 0x204)] ∧
      d.turn m k = true ∧ headerCheck d m ≠ 0)
      ∧ (∃ (m : Fin 256) (hit : Option Hit) (c : Instr) (k : Nat) (d : Device), (c, k) ∈ [(Instr.devInfo m, 0x1), (Instr.flowBind m, 0x2),
        (Instr.partSet m, 0x3), (Instr.jobCreate m, 0x4), (Instr.jobDestroy m, 0x5), (Instr.configStage m, 0x6), (Instr.tideAdd m, 0x7),
        (Instr.tideCancel m, 0x8), (Instr.powerReq m, 0x9), (Instr.warmReset m, 0xa), (Instr.jobList m, 0xb), (Instr.jobStart m hit, 0x101),
        (Instr.jobSuspend m, 0x103), (Instr.jobResume m, 0x104), (Instr.jobQuery m, 0x105), (Instr.logRead m, 0x106), (Instr.overrideAdd m hit,
        0x108), (Instr.manifest m hit, 0x201), (Instr.stepSubmit m, 0x202), (Instr.hostlaneReturn m hit, 0x203), (Instr.batch m hit, 0x204)] ∧
        d.turn m k = false)
      ∧ (∃ (m : Fin 256) (p : List Nat) (d : Device), Served d m 0x1 p)
      ∧ (∃ (m : Fin 256) (p : List Nat) (d : Device), Served d m 0x2 p)
      ∧ (∃ (m : Fin 256) (p : List Nat) (d : Device), Served d m 0x3 p)
      ∧ (∃ (m : Fin 256) (p : List Nat) (d : Device), Served d m 0x5 p)
      ∧ (∃ (m : Fin 256) (p : List Nat) (d : Device), Served d m 0x6 p)
      ∧ (∃ (m : Fin 256) (p : List Nat) (d : Device), Served d m 0x7 p)
      ∧ (∃ (m : Fin 256) (p : List Nat) (d : Device), Served d m 0x8 p)
      ∧ (∃ (m : Fin 256) (p : List Nat) (d : Device), Served d m 0x9 p)
      ∧ (∃ (m : Fin 256) (p : List Nat) (d : Device), Served d m 0xa p)
      ∧ (∃ (m : Fin 256) (p : List Nat) (d : Device), Served d m 0xb p)
      ∧ (∃ (m : Fin 256) (p : List Nat) (d : Device), Served d m 0x4 p) :=
  ⟨⟨0, none, .jobStart 0 none, 0x101, (wCmd 0 0x101 [] wHost), (by decide +kernel)⟩,
    ⟨0, none, .devInfo 0, 1, wHost, (by decide +kernel)⟩,
    ⟨0, [], (wCmd 0 0x1 [] wHost), (by decide +kernel)⟩,
    ⟨0, ([5, 0, 0, 0, 0xFE, 0, 0, 0, 1, 0, 0, 0] ++ List.replicate 32 1), (wCmd 0 0x2 ([5, 0, 0, 0, 0xFE, 0, 0, 0, 1, 0, 0, 0] ++ List.replicate
      32 1) wHost), (by decide +kernel)⟩,
    ⟨0, [1], (wCmd 0 0x3 [1] { zdev with inp := wHost.inp }), (by decide +kernel)⟩,
    ⟨0, [0], (wCmd 0 0x5 [0] wHost), (by decide +kernel)⟩,
    ⟨0, [0, 0, 0, 0, 0, 0, 0, 0], (wCmd 0 0x6 [0, 0, 0, 0, 0, 0, 0, 0] wHost), (by decide +kernel)⟩,
    ⟨0, (List.replicate 10 0 ++ [1, 0, 255] ++ List.replicate 19 0), (wCmd 0 0x7 (List.replicate 10 0 ++ [1, 0, 255] ++ List.replicate 19 0)
      wHost), (by decide +kernel)⟩,
    ⟨0, [0, 0, 0, 0], (wCmd 0 0x8 [0, 0, 0, 0]
      { wHost with tide := { wHost.tide with entries := [(0, { ns := 0, sec := 9, action := 2, param := 0, job := 0, step := 5, arg := 0 })] } }),
      (by decide +kernel)⟩,
    ⟨0, [0], (wCmd 0 0x9 [0] wHost), (by decide +kernel)⟩,
    ⟨0, [], (wCmd 0 0xa [] wHost), (by decide +kernel)⟩,
    ⟨0, [], (wCmd 0 0xb [] wHost), (by decide +kernel)⟩,
    ⟨0, [1, 0, 64, 0, 4, 0], (wCmd 0 0x4 [1, 0, 64, 0, 4, 0] wHost), (by decide +kernel)⟩⟩

theorem witness_JobCommands :
    (∃ (m : Fin 256) (p : List Nat) (j : Fin 16) (d : Device), Served d m 0x101 p ∧ mboxSlot m = some j.val ∧ ((d.stagingAt j (jobStartSpans d j
      p)).any (fun s => heldAt d s.1 s.2) = false))
      ∧ (∃ (m : Fin 256) (p : List Nat) (j : Fin 16) (h : Hit) (d : Device), Served d m 0x101 p ∧ mboxSlot m = some j.val ∧ ((d.stagingAt j
        (jobStartSpans d j p)).any (fun s => heldAt d s.1 s.2) = false) ∧ (hitFits d h = true ∧ (d.stagingAt j (jobStartSpans d j p)).any (fun s
        => decide (s.1 ≤ hitAddr h) && decide (hitAddr h < s.1 + s.2)) = true))
      ∧ (∃ (m : Fin 256) (p : List Nat) (j : Fin 16) (hit : Option Hit) (d : Device), Served d m 0x101 p ∧ mboxSlot m = some j.val ∧
        (((d.stagingAt j (jobStartSpans d j p)).any (fun s => heldAt d s.1 s.2) = true) ∨ (∃ h, hit = some h ∧ ¬(hitFits d h = true ∧ (d.stagingAt
        j (jobStartSpans d j p)).any (fun s => decide (s.1 ≤ hitAddr h) && decide (hitAddr h < s.1 + s.2)) = true))))
      ∧ (∃ (m : Fin 256) (d : Device), (d.turn m 0x102 = false ∨ ¬(fieldAt (d.payload m) 0 1 = 0)))
      ∧ (∃ (m : Fin 256) (d : Device), d.turn m 0x102 = true ∧ fieldAt (d.payload m) 0 1 = 0 ∧ headerCheck d m ≠ 0)
      ∧ (∃ (m : Fin 256) (d : Device), (d.turn m 0x102 = false ∨ ¬(fieldAt (d.payload m) 0 1 ≠ 0)))
      ∧ (∃ (m : Fin 256) (d : Device), d.turn m 0x102 = true ∧ fieldAt (d.payload m) 0 1 ≠ 0 ∧ headerCheck d m ≠ 0)
      ∧ (∃ (m : Fin 256) (d : Device), (d.turn m 0x107 = false ∨ ¬(fieldAt (d.payload m) 0 1 = 0)))
      ∧ (∃ (m : Fin 256) (d : Device), d.turn m 0x107 = true ∧ fieldAt (d.payload m) 0 1 = 0 ∧ headerCheck d m ≠ 0)
      ∧ (∃ (m : Fin 256) (d : Device), (d.turn m 0x107 = false ∨ ¬(fieldAt (d.payload m) 0 1 ≠ 0)))
      ∧ (∃ (m : Fin 256) (d : Device), d.turn m 0x107 = true ∧ fieldAt (d.payload m) 0 1 ≠ 0 ∧ headerCheck d m ≠ 0)
      ∧ (∃ (m : Fin 256) (p : List Nat) (j : Fin 16) (d : Device), Served d m 0x102 p ∧ mboxSlot m = some j.val ∧ fieldAt p 0 1 = 0)
      ∧ (∃ (m : Fin 256) (p : List Nat) (j : Fin 16) (d : Device), Served d m 0x102 p ∧ mboxSlot m = some j.val ∧ fieldAt p 0 1 ≠ 0)
      ∧ (∃ (m : Fin 256) (p : List Nat) (j : Fin 16) (d : Device), Served d m 0x103 p ∧ mboxSlot m = some j.val)
      ∧ (∃ (m : Fin 256) (p : List Nat) (j : Fin 16) (d : Device), Served d m 0x104 p ∧ mboxSlot m = some j.val)
      ∧ (∃ (m : Fin 256) (p : List Nat) (j : Fin 16) (d : Device), Served d m 0x105 p ∧ mboxSlot m = some j.val)
      ∧ (∃ (m : Fin 256) (p : List Nat) (j : Fin 16) (d : Device), Served d m 0x106 p ∧ mboxSlot m = some j.val ∧ firstFail [(decide (2 < fieldAt
        p 0 1), stRange), ((d.jobAt j).beyond (fieldAt p 4 4) (fieldAt p 16 4), stStaging)] ≠ 0)
      ∧ (∃ (m : Fin 256) (p : List Nat) (j : Fin 16) (bs : List Nat) (d : Device), Served d m 0x106 p ∧ mboxSlot m = some j.val ∧ fieldAt p 0 1 ≤
        2 ∧ (d.jobAt j).beyond (fieldAt p 4 4) (fieldAt p 16 4) = false ∧ (wholeRecords (fieldAt p 16 4) (((logOf (d.jobAt j).logs (fieldAt p 0
        1)).filter (fun e => decide (fieldAt p 8 8 ≤ e.1))).map Prod.snd) = bs) ∧ ((d.stagingAt j [(fieldAt p 4 4, bs.length)]).any (fun x =>
        accessStatus d .firmware x.1 x.2 == stTgen) = true))
      ∧ (∃ (m : Fin 256) (p : List Nat) (j : Fin 16) (bs : List Nat) (d : Device), Served d m 0x106 p ∧ mboxSlot m = some j.val ∧ fieldAt p 0 1 ≤
        2 ∧ (d.jobAt j).beyond (fieldAt p 4 4) (fieldAt p 16 4) = false ∧ (wholeRecords (fieldAt p 16 4) (((logOf (d.jobAt j).logs (fieldAt p 0
        1)).filter (fun e => decide (fieldAt p 8 8 ≤ e.1))).map Prod.snd) = bs) ∧ ((d.stagingAt j [(fieldAt p 4 4, bs.length)]).any (fun x =>
        accessStatus d .firmware x.1 x.2 == stTgen) = false) ∧ ((d.stagingAt j [(fieldAt p 4 4, bs.length)]).any (fun s => heldAt d s.1 s.2) =
        false))
      ∧ (∃ (m : Fin 256) (p : List Nat) (j : Fin 16) (bs : List Nat) (d : Device), Served d m 0x106 p ∧ mboxSlot m = some j.val ∧ fieldAt p 0 1 ≤
        2 ∧ (d.jobAt j).beyond (fieldAt p 4 4) (fieldAt p 16 4) = false ∧ (wholeRecords (fieldAt p 16 4) (((logOf (d.jobAt j).logs (fieldAt p 0
        1)).filter (fun e => decide (fieldAt p 8 8 ≤ e.1))).map Prod.snd) = bs) ∧ ((d.stagingAt j [(fieldAt p 4 4, bs.length)]).any (fun x =>
        accessStatus d .firmware x.1 x.2 == stTgen) = false) ∧ ((d.stagingAt j [(fieldAt p 4 4, bs.length)]).any (fun s => heldAt d s.1 s.2) =
        true))
      ∧ (∃ (m : Fin 256) (p : List Nat) (j : Fin 16) (d : Device), Served d m 0x107 p ∧ mboxSlot m = some j.val ∧ fieldAt p 0 1 = 0)
      ∧ (∃ (m : Fin 256) (p : List Nat) (j : Fin 16) (d : Device), Served d m 0x107 p ∧ mboxSlot m = some j.val ∧ fieldAt p 0 1 ≠ 0)
      ∧ (∃ (m : Fin 256) (p : List Nat) (j : Fin 16) (hit : Option Hit) (d : Device), Served d m 0x108 p ∧ mboxSlot m = some j.val ∧ (d.jobAt
        j).beyond (fieldAt p 4 4) (24 * fieldAt p 0 4) = true)
      ∧ (∃ (m : Fin 256) (p : List Nat) (j : Fin 16) (hit : Option Hit) (d : Device), Served d m 0x108 p ∧ mboxSlot m = some j.val ∧ (d.jobAt
        j).beyond (fieldAt p 4 4) (24 * fieldAt p 0 4) = false ∧ ((d.stagingAt j [(fieldAt p 4 4, 24 * fieldAt p 0 4)]).any (fun x => accessStatus
        d .firmware x.1 x.2 == stTgen) = true))
      ∧ (∃ (m : Fin 256) (p : List Nat) (j : Fin 16) (d : Device), Served d m 0x108 p ∧ mboxSlot m = some j.val ∧ (d.jobAt j).beyond (fieldAt p 4
        4) (24 * fieldAt p 0 4) = false ∧ ((d.stagingAt j [(fieldAt p 4 4, 24 * fieldAt p 0 4)]).any (fun x => accessStatus d .firmware x.1 x.2 ==
        stTgen) = false) ∧ ((d.stagingAt j [(fieldAt p 4 4, 24 * fieldAt p 0 4)]).any (fun s => heldAt d s.1 s.2) = false))
      ∧ (∃ (m : Fin 256) (p : List Nat) (j : Fin 16) (h : Hit) (d : Device), Served d m 0x108 p ∧ mboxSlot m = some j.val ∧ (d.jobAt j).beyond
        (fieldAt p 4 4) (24 * fieldAt p 0 4) = false ∧ ((d.stagingAt j [(fieldAt p 4 4, 24 * fieldAt p 0 4)]).any (fun x => accessStatus d
        .firmware x.1 x.2 == stTgen) = false) ∧ ((d.stagingAt j [(fieldAt p 4 4, 24 * fieldAt p 0 4)]).any (fun s => heldAt d s.1 s.2) = false) ∧
        (hitFits d h = true ∧ (d.stagingAt j [(fieldAt p 4 4, 24 * fieldAt p 0 4)]).any (fun s => decide (s.1 ≤ hitAddr h) && decide (hitAddr h <
        s.1 + s.2)) = true))
      ∧ (∃ (m : Fin 256) (p : List Nat) (j : Fin 16) (hit : Option Hit) (d : Device), Served d m 0x108 p ∧ mboxSlot m = some j.val ∧ (d.jobAt
        j).beyond (fieldAt p 4 4) (24 * fieldAt p 0 4) = false ∧ ((d.stagingAt j [(fieldAt p 4 4, 24 * fieldAt p 0 4)]).any (fun x => accessStatus
        d .firmware x.1 x.2 == stTgen) = false) ∧ (((d.stagingAt j [(fieldAt p 4 4, 24 * fieldAt p 0 4)]).any (fun s => heldAt d s.1 s.2) = true)
        ∨ (∃ h, hit = some h ∧ ¬(hitFits d h = true ∧ (d.stagingAt j [(fieldAt p 4 4, 24 * fieldAt p 0 4)]).any (fun s => decide (s.1 ≤ hitAddr h)
        && decide (hitAddr h < s.1 + s.2)) = true))))
      ∧ (∃ (m : Fin 256) (p : List Nat) (j : Fin 16) (hit : Option Hit) (d : Device), Served d m 0x201 p ∧ mboxSlot m = some j.val ∧ (d.jobAt
        j).beyond (fieldAt p 20 4) (32 * fieldAt p 16 4) = true)
      ∧ (∃ (m : Fin 256) (p : List Nat) (j : Fin 16) (hit : Option Hit) (d : Device), Served d m 0x201 p ∧ mboxSlot m = some j.val ∧ (d.jobAt
        j).beyond (fieldAt p 20 4) (32 * fieldAt p 16 4) = false ∧ ((d.stagingAt j [(fieldAt p 20 4, 32 * fieldAt p 16 4)]).any (fun x =>
        accessStatus d .firmware x.1 x.2 == stTgen) = true))
      ∧ (∃ (m : Fin 256) (p : List Nat) (j : Fin 16) (d : Device), Served d m 0x201 p ∧ mboxSlot m = some j.val ∧ (d.jobAt j).beyond (fieldAt p 20
        4) (32 * fieldAt p 16 4) = false ∧ ((d.stagingAt j [(fieldAt p 20 4, 32 * fieldAt p 16 4)]).any (fun x => accessStatus d .firmware x.1 x.2
        == stTgen) = false) ∧ ((d.stagingAt j [(fieldAt p 20 4, 32 * fieldAt p 16 4)]).any (fun s => heldAt d s.1 s.2) = false))
      ∧ (∃ (m : Fin 256) (p : List Nat) (j : Fin 16) (h : Hit) (d : Device), Served d m 0x201 p ∧ mboxSlot m = some j.val ∧ (d.jobAt j).beyond
        (fieldAt p 20 4) (32 * fieldAt p 16 4) = false ∧ ((d.stagingAt j [(fieldAt p 20 4, 32 * fieldAt p 16 4)]).any (fun x => accessStatus d
        .firmware x.1 x.2 == stTgen) = false) ∧ ((d.stagingAt j [(fieldAt p 20 4, 32 * fieldAt p 16 4)]).any (fun s => heldAt d s.1 s.2) = false)
        ∧ (hitFits d h = true ∧ (d.stagingAt j [(fieldAt p 20 4, 32 * fieldAt p 16 4)]).any (fun s => decide (s.1 ≤ hitAddr h) && decide (hitAddr
        h < s.1 + s.2)) = true))
      ∧ (∃ (m : Fin 256) (p : List Nat) (j : Fin 16) (hit : Option Hit) (d : Device), Served d m 0x201 p ∧ mboxSlot m = some j.val ∧ (d.jobAt
        j).beyond (fieldAt p 20 4) (32 * fieldAt p 16 4) = false ∧ ((d.stagingAt j [(fieldAt p 20 4, 32 * fieldAt p 16 4)]).any (fun x =>
        accessStatus d .firmware x.1 x.2 == stTgen) = false) ∧ (((d.stagingAt j [(fieldAt p 20 4, 32 * fieldAt p 16 4)]).any (fun s => heldAt d
        s.1 s.2) = true) ∨ (∃ h, hit = some h ∧ ¬(hitFits d h = true ∧ (d.stagingAt j [(fieldAt p 20 4, 32 * fieldAt p 16 4)]).any (fun s =>
        decide (s.1 ≤ hitAddr h) && decide (hitAddr h < s.1 + s.2)) = true))))
      ∧ (∃ (m : Fin 256) (p : List Nat) (j : Fin 16) (d : Device), Served d m 0x202 p ∧ mboxSlot m = some j.val ∧ submitCheck (d.jobAt j) p ≠ 0)
      ∧ (∃ (m : Fin 256) (p : List Nat) (j : Fin 16) (d : Device), Served d m 0x202 p ∧ mboxSlot m = some j.val ∧ submitCheck (d.jobAt j) p = 0 ∧
        dropsStep (d.jobAt j) (d.jobAt j).nextStep = false)
      ∧ (∃ (m : Fin 256) (p : List Nat) (j : Fin 16) (d : Device), Served d m 0x202 p ∧ mboxSlot m = some j.val ∧ submitCheck (d.jobAt j) p = 0 ∧
        dropsStep (d.jobAt j) (d.jobAt j).nextStep = true)
      ∧ (∃ (m : Fin 256) (p : List Nat) (j : Fin 16) (hit : Option Hit) (d : Device), Served d m 0x203 p ∧ mboxSlot m = some j.val ∧ (d.jobAt
        j).beyond (fieldAt p 24 4) (fieldAt p 20 4) = true)
      ∧ (∃ (m : Fin 256) (p : List Nat) (j : Fin 16) (hit : Option Hit) (d : Device), Served d m 0x203 p ∧ mboxSlot m = some j.val ∧ (d.jobAt
        j).beyond (fieldAt p 24 4) (fieldAt p 20 4) = false ∧ ((d.jobAt j).setup = none ∨ ((d.jobAt j).lane.reqs.find? (fun r => r.sample ==
        fieldAt p 0 8 && r.step == fieldAt p 8 8 && r.slot == fieldAt p 16 4) = none) ∨ (∃ q, (d.jobAt j).lane.reqs.find? (fun r => r.sample ==
        fieldAt p 0 8 && r.step == fieldAt p 8 8 && r.slot == fieldAt p 16 4) = some q ∧ (d.jobAt j).stepAt q.step = none)))
      ∧ (∃ (m : Fin 256) (p : List Nat) (j : Fin 16) (q : HostReq) (u : JobSetup) (st : Step) (hit : Option Hit) (d : Device), Served d m 0x203 p
        ∧ mboxSlot m = some j.val ∧ (d.jobAt j).beyond (fieldAt p 24 4) (fieldAt p 20 4) = false ∧ ((d.jobAt j).lane.reqs.find? (fun r => r.sample
        == fieldAt p 0 8 && r.step == fieldAt p 8 8 && r.slot == fieldAt p 16 4) = some q) ∧ (d.jobAt j).setup = some u ∧ (d.jobAt j).stepAt
        q.step = some st ∧ ((d.stagingAt j [(fieldAt p 24 4, fieldAt p 20 4)]).any (fun x => accessStatus d .firmware x.1 x.2 == stTgen) = true))
      ∧ (∃ (m : Fin 256) (p : List Nat) (j : Fin 16) (q : HostReq) (u : JobSetup) (st : Step) (d : Device), Served d m 0x203 p ∧ mboxSlot m = some
        j.val ∧ (d.jobAt j).beyond (fieldAt p 24 4) (fieldAt p 20 4) = false ∧ ((d.jobAt j).lane.reqs.find? (fun r => r.sample == fieldAt p 0 8 &&
        r.step == fieldAt p 8 8 && r.slot == fieldAt p 16 4) = some q) ∧ (d.jobAt j).setup = some u ∧ (d.jobAt j).stepAt q.step = some st ∧
        ((d.stagingAt j [(fieldAt p 24 4, fieldAt p 20 4)]).any (fun x => accessStatus d .firmware x.1 x.2 == stTgen) = false) ∧ ((d.stagingAt j
        [(fieldAt p 24 4, fieldAt p 20 4)]).any (fun s => heldAt d s.1 s.2) = false))
      ∧ (∃ (m : Fin 256) (p : List Nat) (j : Fin 16) (q : HostReq) (u : JobSetup) (st : Step) (h : Hit) (d : Device), Served d m 0x203 p ∧
        mboxSlot m = some j.val ∧ (d.jobAt j).beyond (fieldAt p 24 4) (fieldAt p 20 4) = false ∧ ((d.jobAt j).lane.reqs.find? (fun r => r.sample
        == fieldAt p 0 8 && r.step == fieldAt p 8 8 && r.slot == fieldAt p 16 4) = some q) ∧ (d.jobAt j).setup = some u ∧ (d.jobAt j).stepAt
        q.step = some st ∧ ((d.stagingAt j [(fieldAt p 24 4, fieldAt p 20 4)]).any (fun x => accessStatus d .firmware x.1 x.2 == stTgen) = false)
        ∧ ((d.stagingAt j [(fieldAt p 24 4, fieldAt p 20 4)]).any (fun s => heldAt d s.1 s.2) = false) ∧ (hitFits d h = true ∧ (d.stagingAt j
        [(fieldAt p 24 4, fieldAt p 20 4)]).any (fun s => decide (s.1 ≤ hitAddr h) && decide (hitAddr h < s.1 + s.2)) = true))
      ∧ (∃ (m : Fin 256) (p : List Nat) (j : Fin 16) (q : HostReq) (u : JobSetup) (st : Step) (hit : Option Hit) (d : Device), Served d m 0x203 p
        ∧ mboxSlot m = some j.val ∧ (d.jobAt j).beyond (fieldAt p 24 4) (fieldAt p 20 4) = false ∧ ((d.jobAt j).lane.reqs.find? (fun r => r.sample
        == fieldAt p 0 8 && r.step == fieldAt p 8 8 && r.slot == fieldAt p 16 4) = some q) ∧ (d.jobAt j).setup = some u ∧ (d.jobAt j).stepAt
        q.step = some st ∧ ((d.stagingAt j [(fieldAt p 24 4, fieldAt p 20 4)]).any (fun x => accessStatus d .firmware x.1 x.2 == stTgen) = false)
        ∧ (((d.stagingAt j [(fieldAt p 24 4, fieldAt p 20 4)]).any (fun s => heldAt d s.1 s.2) = true) ∨ (∃ h, hit = some h ∧ ¬(hitFits d h = true
        ∧ (d.stagingAt j [(fieldAt p 24 4, fieldAt p 20 4)]).any (fun s => decide (s.1 ≤ hitAddr h) && decide (hitAddr h < s.1 + s.2)) = true))))
      ∧ (∃ (m : Fin 256) (p : List Nat) (j : Fin 16) (hit : Option Hit) (d : Device), Served d m 0x204 p ∧ mboxSlot m = some j.val ∧ batchCheck
        (d.jobAt j) p ≠ 0)
      ∧ (∃ (m : Fin 256) (p : List Nat) (j : Fin 16) (hit : Option Hit) (d : Device), Served d m 0x204 p ∧ mboxSlot m = some j.val ∧ batchCheck
        (d.jobAt j) p = 0 ∧ ((d.stagingAt j [(fieldAt p 20 4, 32 * fieldAt p 16 4)]).any (fun x => accessStatus d .firmware x.1 x.2 == stTgen) =
        true))
      ∧ (∃ (m : Fin 256) (p : List Nat) (j : Fin 16) (d : Device), Served d m 0x204 p ∧ mboxSlot m = some j.val ∧ batchCheck (d.jobAt j) p = 0 ∧
        ((d.stagingAt j [(fieldAt p 20 4, 32 * fieldAt p 16 4)]).any (fun x => accessStatus d .firmware x.1 x.2 == stTgen) = false) ∧
        ((d.stagingAt j [(fieldAt p 20 4, 32 * fieldAt p 16 4)]).any (fun s => heldAt d s.1 s.2) = false))
      ∧ (∃ (m : Fin 256) (p : List Nat) (j : Fin 16) (h : Hit) (d : Device), Served d m 0x204 p ∧ mboxSlot m = some j.val ∧ batchCheck (d.jobAt j)
        p = 0 ∧ ((d.stagingAt j [(fieldAt p 20 4, 32 * fieldAt p 16 4)]).any (fun x => accessStatus d .firmware x.1 x.2 == stTgen) = false) ∧
        ((d.stagingAt j [(fieldAt p 20 4, 32 * fieldAt p 16 4)]).any (fun s => heldAt d s.1 s.2) = false) ∧ (hitFits d h = true ∧ (d.stagingAt j
        [(fieldAt p 20 4, 32 * fieldAt p 16 4)]).any (fun s => decide (s.1 ≤ hitAddr h) && decide (hitAddr h < s.1 + s.2)) = true))
      ∧ (∃ (m : Fin 256) (p : List Nat) (j : Fin 16) (hit : Option Hit) (d : Device), Served d m 0x204 p ∧ mboxSlot m = some j.val ∧ batchCheck
        (d.jobAt j) p = 0 ∧ ((d.stagingAt j [(fieldAt p 20 4, 32 * fieldAt p 16 4)]).any (fun x => accessStatus d .firmware x.1 x.2 == stTgen) =
        false) ∧ (((d.stagingAt j [(fieldAt p 20 4, 32 * fieldAt p 16 4)]).any (fun s => heldAt d s.1 s.2) = true) ∨ (∃ h, hit = some h ∧
        ¬(hitFits d h = true ∧ (d.stagingAt j [(fieldAt p 20 4, 32 * fieldAt p 16 4)]).any (fun s => decide (s.1 ≤ hitAddr h) && decide (hitAddr h
        < s.1 + s.2)) = true))))
      ∧ (∃ (j : Fin 16) (k : Nat) (others : List (List Nat)) (b : Batch) (r : Resv) (u : JobSetup) (d : Device), (d.jobAt j).dueBatch = some b ∧
        (d.jobAt j).resv = some r ∧ (d.jobAt j).setup = some u ∧ (b.batchNo = k ∧ (d.jobAt j).resident = true ∧ (d.jobAt j).switching = false ∧
        (d.jobAt j).state = .running ∧ d.glb.cur = .active ∧ d.glb.flushing = false ∧ batchDone d j b.work = true) ∧ ((([((Config.batchOutput
        u.prog.digest).1, min b.outMax (Config.batchOutput u.prog.digest).2), (r.stageDev + b.outOff, min b.outMax (Config.batchOutput
        u.prog.digest).2)] : List (Nat × Nat))).any (fun s => heldAt d s.1 s.2) = false))
      ∧ (∃ (j : Fin 16) (k : Nat) (hit : Option Hit) (others : List (List Nat)) (b : Batch) (r : Resv) (u : JobSetup) (d : Device), (d.jobAt
        j).dueBatch = some b ∧ (d.jobAt j).resv = some r ∧ (d.jobAt j).setup = some u ∧ (b.batchNo = k ∧ (d.jobAt j).resident = true ∧ (d.jobAt
        j).switching = false ∧ (d.jobAt j).state = .running ∧ d.glb.cur = .active ∧ d.glb.flushing = false ∧ batchDone d j b.work = true))
      ∧ (∃ (j : Fin 16) (k : Nat) (hit : Option Hit) (others : List (List Nat)) (b : Batch) (d : Device), (d.jobAt j).dueBatch = some b ∧
        (¬(b.batchNo = k ∧ (d.jobAt j).resident = true ∧ (d.jobAt j).switching = false ∧ (d.jobAt j).state = .running ∧ d.glb.cur = .active ∧
        d.glb.flushing = false ∧ batchDone d j b.work = true)))
      ∧ (∃ (j : Fin 16) (k : Nat) (hit : Option Hit) (others : List (List Nat)) (d : Device), ((d.jobAt j).dueBatch = none ∨ (d.jobAt j).resv =
        none ∨ (d.jobAt j).setup = none)) :=
  ⟨⟨16, ([0, 0, 0, 0, 64] ++ List.replicate 123 0), 0, (wCmd 16 0x101 ([0, 0, 0, 0, 64] ++ List.replicate 123 0) (wJobHost.updJob 0 (fun q =>
      { q with state := .created, setup := none }))), (by decide +kernel)⟩,
    ⟨16, ([0, 0, 0, 0, 64] ++ List.replicate 123 0), 0, (.lpd 0 1 0), (wCmd 16 0x101 ([0, 0, 0, 0, 64] ++ List.replicate 123 0) (wJobHost.updJob 0
      (fun q => { q with state := .created, setup := none }))), (by decide +kernel)⟩,
    ⟨16, ([0, 0, 0, 0, 64] ++ List.replicate 123 0), 0, none, (wCmd 16 0x101 ([0, 0, 0, 0, 64] ++ List.replicate 123 0) ((wJobHost.updJob 0 (fun q
      => { q with state := .created, setup := none })).updTer 0 (fun x => { x with lostLines := [0] }))),
      (by refine ⟨?_, ⟨?_, Or.inl ?_⟩⟩ <;> decide +kernel)⟩,
    ⟨16, wJobHost, (by decide +kernel)⟩,
    ⟨16, (wCmd 16 0x102 [0] (wJobHost.updJob 0 (fun q => { q with state := .created }))), (by decide +kernel)⟩,
    ⟨16, wJobHost, (by decide +kernel)⟩,
    ⟨16, (wCmd 16 0x102 [1] (wJobHost.updJob 0 (fun q => { q with state := .created }))), (by decide +kernel)⟩,
    ⟨16, wJobHost, (by decide +kernel)⟩,
    ⟨16, (wCmd 16 0x107 [0, 0, 0, 0, 0, 0, 0, 0, 0, 0, 0, 0, 0, 0, 0, 0, 0, 0, 0, 0] (wJobHost.updJob 0 (fun q => { q with state := .created }))),
      (by decide +kernel)⟩,
    ⟨16, wJobHost, (by decide +kernel)⟩,
    ⟨16, (wCmd 16 0x107 [1, 0, 0, 0, 0, 0, 0, 0, 0, 0, 0, 0, 0, 0, 0, 0, 0, 0, 0, 0] (wJobHost.updJob 0 (fun q => { q with state := .created }))),
      (by decide +kernel)⟩,
    ⟨16, ([0]), 0, (wCmd 16 0x102 ([0]) wJobHost), (by decide +kernel)⟩,
    ⟨16, ([1]), 0, (wCmd 16 0x102 ([1]) wJobHost), (by decide +kernel)⟩,
    ⟨16, ([]), 0, (wCmd 16 0x103 ([]) (wJobHost.updEng 0 (fun e => { e with skim := [{ bytes := [], job := 0 }] }))), (by decide +kernel)⟩,
    ⟨16, ([]), 0, (wCmd 16 0x104 ([]) wSusp), (by decide +kernel)⟩,
    ⟨16, ([]), 0, (wCmd 16 0x105 ([]) wJobHost), (by decide +kernel)⟩,
    ⟨16, ([3] ++ List.replicate 19 0), 0, (wCmd 16 0x106 ([3] ++ List.replicate 19 0) wJobHost), (by decide +kernel)⟩,
    ⟨16, (List.replicate 16 0 ++ [64, 0, 0, 0]), 0, (List.replicate 64 1), (wCmd 16 0x106 (List.replicate 16 0 ++ [64, 0, 0, 0]) ((wJobHost.updJob
      0 (fun q => { q with logs := { amax := [(0, List.replicate 64 1)] } })).updTer 0 (fun x => { x with testEn := true }))),
      (by decide +kernel)⟩,
    ⟨16, (List.replicate 16 0 ++ [64, 0, 0, 0]), 0, (List.replicate 64 1), (wCmd 16 0x106 (List.replicate 16 0 ++ [64, 0, 0, 0]) (wJobHost.updJob
      0 (fun q => { q with logs := { amax := [(0, List.replicate 64 1)] } }))), (by decide +kernel)⟩,
    ⟨16, (List.replicate 16 0 ++ [64, 0, 0, 0]), 0, (List.replicate 64 1), (wCmd 16 0x106 (List.replicate 16 0 ++ [64, 0, 0, 0]) ((wJobHost.updJob
      0 (fun q => { q with logs := { amax := [(0, List.replicate 64 1)] } })).updTer 0 (fun x => { x with lostLines := [0] }))),
      (by decide +kernel)⟩,
    ⟨16, ([0, 0, 5, 0] ++ List.replicate 12 0 ++ [8, 0, 0, 0]), 0, (wCmd 16 0x107 ([0, 0, 5, 0] ++ List.replicate 12 0 ++ [8, 0, 0, 0]) wJobHost),
      (by decide +kernel)⟩,
    ⟨16, ([1, 0, 5, 0] ++ List.replicate 12 0 ++ [8, 0, 0, 0]), 0, (wCmd 16 0x107 ([1, 0, 5, 0] ++ List.replicate 12 0 ++ [8, 0, 0, 0]) wJobHost),
      (by decide +kernel)⟩,
    ⟨16, ([2, 0, 0, 0] ++ [0, 0, 16, 0]), 0, none, (wCmd 16 0x108 ([2, 0, 0, 0] ++ [0, 0, 16, 0]) wJobHost), (by decide +kernel)⟩,
    ⟨16, ([1, 0, 0, 0, 0, 0, 0, 0]), 0, none, (wCmd 16 0x108 ([1, 0, 0, 0, 0, 0, 0, 0]) (wJobHost.updTer 0 (fun x => { x with testEn := true }))),
      (by decide +kernel)⟩,
    ⟨16, ([1, 0, 0, 0, 0, 0, 0, 0]), 0, (wCmd 16 0x108 ([1, 0, 0, 0, 0, 0, 0, 0]) wJobHost), (by decide +kernel)⟩,
    ⟨16, ([1, 0, 0, 0, 0, 0, 0, 0]), 0, (.lpd 0 1 0), (wCmd 16 0x108 ([1, 0, 0, 0, 0, 0, 0, 0]) wJobHost), (by decide +kernel)⟩,
    ⟨16, ([1, 0, 0, 0, 0, 0, 0, 0]), 0, none, (wCmd 16 0x108 ([1, 0, 0, 0, 0, 0, 0, 0]) (wJobHost.updTer 0 (fun x =>
      { x with lostLines := [0] }))), (by refine ⟨?_, ⟨?_, ⟨?_, ⟨?_, Or.inl ?_⟩⟩⟩⟩ <;> decide +kernel)⟩,
    ⟨64, (List.replicate 16 0 ++ [1, 0, 0, 0, 0, 0, 16, 0]), 0, none, (wCmd 64 0x201 (List.replicate 16 0 ++ [1, 0, 0, 0, 0, 0, 16, 0]) wJobHost),
      (by decide +kernel)⟩,
    ⟨64, (List.replicate 16 0 ++ [1] ++ List.replicate 7 0), 0, none, (wCmd 64 0x201 (List.replicate 16 0 ++ [1] ++ List.replicate 7 0)
      (wJobHost.updTer 0 (fun x => { x with testEn := true }))), (by decide +kernel)⟩,
    ⟨64, (List.replicate 16 0 ++ [1] ++ List.replicate 7 0), 0, (wCmd 64 0x201 (List.replicate 16 0 ++ [1] ++ List.replicate 7 0) wJobHost),
      (by decide +kernel)⟩,
    ⟨64, (List.replicate 16 0 ++ [1] ++ List.replicate 7 0), 0, (.lpd 0 1 0), (wCmd 64 0x201 (List.replicate 16 0 ++ [1] ++ List.replicate 7 0)
      wJobHost), (by decide +kernel)⟩,
    ⟨64, (List.replicate 16 0 ++ [1] ++ List.replicate 7 0), 0, none, (wCmd 64 0x201 (List.replicate 16 0 ++ [1] ++ List.replicate 7 0)
      (wJobHost.updTer 0 (fun x => { x with lostLines := [0] }))), (by refine ⟨?_, ⟨?_, ⟨?_, ⟨?_, Or.inl ?_⟩⟩⟩⟩ <;> decide +kernel)⟩,
    ⟨64, (List.replicate 64 0), 0, (wCmd 64 0x202 (List.replicate 64 0) wJobHost), (by decide +kernel)⟩,
    ⟨64, (List.replicate 20 0 ++ [1] ++ List.replicate 43 0), 0, (wCmd 64 0x202 (List.replicate 20 0 ++ [1] ++ List.replicate 43 0) wJobHost),
      (by decide +kernel)⟩,
    ⟨64, (List.replicate 20 0 ++ [1] ++ List.replicate 43 0), 0, (wCmd 64 0x202 (List.replicate 20 0 ++ [1] ++ List.replicate 43 0)
      (wJobHost.updJob 0 (fun q =>
      { q with setup := some { wSetup with jr := { wRec with restore := 1, restoreStep := 4 }, topo := { wTopo with nmemb := 2 } } }))),
      (by decide +kernel)⟩,
    ⟨64, (List.replicate 20 0 ++ [1, 0, 0, 0, 0, 0, 16, 0]), 0, none, (wCmd 64 0x203 (List.replicate 20 0 ++ [1, 0, 0, 0, 0, 0, 16, 0]) wJobHost),
      (by decide +kernel)⟩,
    ⟨64, (List.replicate 28 0), 0, none, (wCmd 64 0x203 (List.replicate 28 0) wJobHost),
      (by exact ⟨by decide +kernel, by decide +kernel, by decide +kernel, Or.inr (Or.inl (by decide +kernel))⟩)⟩,
    ⟨64, ([0, 0, 0, 0, 0, 0, 0, 0, 5, 0, 0, 0, 0, 0, 0, 0, 0, 0, 0, 0, 64, 0, 0, 0, 0, 0, 0, 0]), 0,
      { sample := 0, step := 5, slot := 0, reason := 0 }, wSetup, { wStep with slots := [(0, { place := .hostLane })] }, none, (wCmd 64 0x203 ([0,
      0, 0, 0, 0, 0, 0, 0, 5, 0, 0, 0, 0, 0, 0, 0, 0, 0, 0, 0, 64, 0, 0, 0, 0, 0, 0, 0]) (((wJobHost.updJob 0 (fun q =>
      { q with steps := [{ wStep with slots := [(0, { place := .hostLane })] }], lane := { reqs := [{ sample := 0, step := 5, slot := 0, reason := 0 }] } })).store
      0 (List.replicate 36 0 ++ [1, 5] ++ List.replicate 26 0)).updTer 0 (fun x => { x with testEn := true }))), (by decide +kernel)⟩,
    ⟨64, ([0, 0, 0, 0, 0, 0, 0, 0, 5, 0, 0, 0, 0, 0, 0, 0, 0, 0, 0, 0, 64, 0, 0, 0, 0, 0, 0, 0]), 0,
      { sample := 0, step := 5, slot := 0, reason := 0 }, wSetup, { wStep with slots := [(0, { place := .hostLane })] }, (wCmd 64 0x203 ([0, 0, 0,
      0, 0, 0, 0, 0, 5, 0, 0, 0, 0, 0, 0, 0, 0, 0, 0, 0, 64, 0, 0, 0, 0, 0, 0, 0]) ((wJobHost.updJob 0 (fun q =>
      { q with steps := [{ wStep with slots := [(0, { place := .hostLane })] }], lane := { reqs := [{ sample := 0, step := 5, slot := 0, reason := 0 }] } })).store
      0 (List.replicate 36 0 ++ [1, 5] ++ List.replicate 26 0))), (by decide +kernel)⟩,
    ⟨64, ([0, 0, 0, 0, 0, 0, 0, 0, 5, 0, 0, 0, 0, 0, 0, 0, 0, 0, 0, 0, 64, 0, 0, 0, 0, 0, 0, 0]), 0,
      { sample := 0, step := 5, slot := 0, reason := 0 }, wSetup, { wStep with slots := [(0, { place := .hostLane })] }, (.lpd 0 1 0), (wCmd 64
      0x203 ([0, 0, 0, 0, 0, 0, 0, 0, 5, 0, 0, 0, 0, 0, 0, 0, 0, 0, 0, 0, 64, 0, 0, 0, 0, 0, 0, 0]) ((wJobHost.updJob 0 (fun q =>
      { q with steps := [{ wStep with slots := [(0, { place := .hostLane })] }], lane := { reqs := [{ sample := 0, step := 5, slot := 0, reason := 0 }] } })).store
      0 (List.replicate 36 0 ++ [1, 5] ++ List.replicate 26 0))), (by decide +kernel)⟩,
    ⟨64, ([0, 0, 0, 0, 0, 0, 0, 0, 5, 0, 0, 0, 0, 0, 0, 0, 0, 0, 0, 0, 64, 0, 0, 0, 0, 0, 0, 0]), 0,
      { sample := 0, step := 5, slot := 0, reason := 0 }, wSetup, { wStep with slots := [(0, { place := .hostLane })] }, none, (wCmd 64 0x203 ([0,
      0, 0, 0, 0, 0, 0, 0, 5, 0, 0, 0, 0, 0, 0, 0, 0, 0, 0, 0, 64, 0, 0, 0, 0, 0, 0, 0]) (((wJobHost.updJob 0 (fun q =>
      { q with steps := [{ wStep with slots := [(0, { place := .hostLane })] }], lane := { reqs := [{ sample := 0, step := 5, slot := 0, reason := 0 }] } })).store
      0 (List.replicate 36 0 ++ [1, 5] ++ List.replicate 26 0)).updTer 0 (fun x => { x with lostLines := [0] }))),
      (by refine ⟨?_, ⟨?_, ⟨?_, ⟨?_, ⟨?_, ⟨?_, ⟨?_, Or.inl ?_⟩⟩⟩⟩⟩⟩⟩ <;> decide +kernel)⟩,
    ⟨64, ([2] ++ List.replicate 31 0), 0, none, (wCmd 64 0x204 ([2] ++ List.replicate 31 0) wJobHost), (by decide +kernel)⟩,
    ⟨64, (List.replicate 16 0 ++ [1] ++ List.replicate 15 0), 0, none, (wCmd 64 0x204 (List.replicate 16 0 ++ [1] ++ List.replicate 15 0)
      (wJobHost.updTer 0 (fun x => { x with testEn := true }))), (by decide +kernel)⟩,
    ⟨64, (List.replicate 16 0 ++ [1] ++ List.replicate 15 0), 0, (wCmd 64 0x204 (List.replicate 16 0 ++ [1] ++ List.replicate 15 0) wJobHost),
      (by decide +kernel)⟩,
    ⟨64, (List.replicate 16 0 ++ [1] ++ List.replicate 15 0), 0, (.lpd 0 1 0), (wCmd 64 0x204 (List.replicate 16 0 ++ [1] ++ List.replicate 15 0)
      wJobHost), (by decide +kernel)⟩,
    ⟨64, (List.replicate 16 0 ++ [1] ++ List.replicate 15 0), 0, none, (wCmd 64 0x204 (List.replicate 16 0 ++ [1] ++ List.replicate 15 0)
      (wJobHost.updTer 0 (fun x => { x with lostLines := [0] }))), (by refine ⟨?_, ⟨?_, ⟨?_, ⟨?_, Or.inl ?_⟩⟩⟩⟩ <;> decide +kernel)⟩,
    ⟨0, 7, [], { kind := 1, window := 0, batchNo := 7, work := { batchStep batchBase 7 [] with packDone := true }, outOff := 0, outMax := 0 },
      wResv, wSetup, (wJobHost.updJob 0 (fun q =>
      { q with batches := [{ kind := 1, window := 0, batchNo := 7, work := { batchStep batchBase 7 [] with packDone := true }, outOff := 0, outMax := 0 }] })),
      (by refine ⟨?_, ?_, ?_, ?_, by simp [heldAt]⟩ <;> decide +kernel)⟩,
    ⟨0, 7, none, [],
      { kind := 1, window := 0, batchNo := 7, work := { batchStep batchBase 7 [] with packDone := true }, outOff := 0, outMax := 8 }, wResv,
      wSetup, (wJobHost.updJob 0 (fun q =>
      { q with batches := [{ kind := 1, window := 0, batchNo := 7, work := { batchStep batchBase 7 [] with packDone := true }, outOff := 0, outMax := 8 }] })),
      (by decide +kernel)⟩,
    ⟨0, 8, none, [],
      { kind := 1, window := 0, batchNo := 7, work := { batchStep batchBase 7 [] with packDone := true }, outOff := 0, outMax := 8 },
      (wJobHost.updJob 0 (fun q =>
      { q with batches := [{ kind := 1, window := 0, batchNo := 7, work := { batchStep batchBase 7 [] with packDone := true }, outOff := 0, outMax := 8 }] })),
      (by decide +kernel)⟩,
    ⟨0, 8, none, [], wJobHost, (by decide +kernel)⟩⟩

theorem witness_IntakeAndMicroBatches :
    (∃ (j : Fin 16) (n k : Nat) (b : List Nat) (st : Step) (d : Device), (d.pump.grd.owner = some j.val ∧ serves d.pump j = true ∧ stepSlot
      (d.pump.jobAt j) n k (fun x => x.place == .fetching && decide (x.attempts < 8)) = some st) ∧ b.length = manCsize (entryOfSlot (d.pump.jobAt
      j) st k) ∧ crc32c b = manCrc (entryOfSlot (d.pump.jobAt j) st k))
      ∧ (∃ (j : Fin 16) (n k : Nat) (b : List Nat) (st : Step) (d : Device), (d.pump.grd.owner = some j.val ∧ serves d.pump j = true ∧ stepSlot
        (d.pump.jobAt j) n k (fun x => x.place == .fetching && decide (x.attempts < 8)) = some st) ∧ (b.length ≠ manCsize (entryOfSlot
        (d.pump.jobAt j) st k) ∨ crc32c b ≠ manCrc (entryOfSlot (d.pump.jobAt j) st k)))
      ∧ (∃ (j : Fin 16) (n k : Nat) (b : List Nat) (d : Device), (∀ st, ¬(d.pump.grd.owner = some j.val ∧ serves d.pump j = true ∧ stepSlot
        (d.pump.jobAt j) n k (fun x => x.place == .fetching && decide (x.attempts < 8)) = some st)))
      ∧ (∃ (j : Fin 16) (n k : Nat) (st : Step) (d : Device), (stepSlot (d.jobAt j) n k (fun x => x.place == .fetching && decide (8 ≤ x.attempts))
        = some st))
      ∧ (∃ (j : Fin 16) (n k : Nat) (d : Device), (stepSlot (d.jobAt j) n k (fun x => x.place == .fetching && decide (8 ≤ x.attempts)) = none))
      ∧ (∃ (ms : List Nat) (a b : Ecc) (e : GEntry) (r : Bool) (d : Device), (d.grd.owner.map (serves d)).getD false = true ∧ nextEntry d.grd ms =
        some (e, r) ∧ a ≠ .uncorrectable ∧ b ≠ .uncorrectable)
      ∧ (∃ (ms : List Nat) (a b : Ecc) (e : GEntry) (r : Bool) (d : Device), (d.grd.owner.map (serves d)).getD false = true ∧ nextEntry d.grd ms =
        some (e, r) ∧ (a = .uncorrectable ∨ b = .uncorrectable))
      ∧ (∃ (ms : List Nat) (a b : Ecc) (d : Device), ((d.grd.owner.map (serves d)).getD false = false ∨ nextEntry d.grd ms = none))
      ∧ (∃ (j : Fin 16) (n k : Nat) (x : Decoded) (u : JobSetup) (g : GEntry) (st : Step) (d e : Device), d.takeBusy j n k = some (g, e) ∧
        (d.jobAt j).setup = some u ∧ (d.jobAt j).stepAt g.step = some st ∧ decodeBytes g.media (manWrap (entryOfSlot (d.jobAt j) st k))
        (((st.slotAt k).map SampleSlot.raw).getD []) = x ∧ (∃ c, x = .failed c))
      ∧ (∃ (j : Fin 16) (n k : Nat) (x : Decoded) (u : JobSetup) (g : GEntry) (st : Step) (d e : Device), d.takeBusy j n k = some (g, e) ∧
        (d.jobAt j).setup = some u ∧ (d.jobAt j).stepAt g.step = some st ∧ decodeBytes g.media (manWrap (entryOfSlot (d.jobAt j) st k))
        (((st.slotAt k).map SampleSlot.raw).getD []) = x ∧ (match x with | .failed _ => false | _ => true) = true ∧ ((declared x).any (fun y =>
        dimsBad g.media y.1 y.2 (manCsize (entryOfSlot (d.jobAt j) st k)) (d.jobAt j).pixLimit) = true))
      ∧ (∃ (j : Fin 16) (n k : Nat) (x : Decoded) (u : JobSetup) (g : GEntry) (st : Step) (d e : Device), d.takeBusy j n k = some (g, e) ∧
        (d.jobAt j).setup = some u ∧ (d.jobAt j).stepAt g.step = some st ∧ decodeBytes g.media (manWrap (entryOfSlot (d.jobAt j) st k))
        (((st.slotAt k).map SampleSlot.raw).getD []) = x ∧ (match x with | .failed _ => false | _ => true) = true ∧ ((declared x).any (fun y =>
        dimsBad g.media y.1 y.2 (manCsize (entryOfSlot (d.jobAt j) st k)) (d.jobAt j).pixLimit) = false))
      ∧ (∃ (j : Fin 16) (n k : Nat) (u : JobSetup) (g : GEntry) (d e : Device), d.takeBusy j n k = some (g, e) ∧ (d.jobAt j).setup = some u ∧
        (d.jobAt j).stepAt g.step = none)
      ∧ (∃ (j : Fin 16) (n k : Nat) (d : Device), (d.takeBusy j n k = none ∨ (d.jobAt j).setup = none))
      ∧ (∃ (j : Fin 16) (n k : Nat) (g : GEntry) (st : Step) (d e : Device), d.takeBusy j n k = some (g, e) ∧ g.noBudget = false ∧ (d.jobAt
        j).stepAt g.step = some st)
      ∧ (∃ (j : Fin 16) (n k : Nat) (g : GEntry) (d e : Device), d.takeBusy j n k = some (g, e) ∧ g.noBudget = false ∧ (d.jobAt j).stepAt g.step =
        none)
      ∧ (∃ (j : Fin 16) (n k : Nat) (d : Device), (((d.takeBusy j n k).map Prod.fst).all (fun g => g.noBudget) = true))
      ∧ (∃ (j : Fin 16) (n mb addr tmb : Nat) (pans ps : List Nat) (skim sluice : List (Nat × List Nat)) (st : Step) (u : JobSetup) (d f :
        Device), d.settleAll j = f ∧ (f.jobAt j).stepAt n = some st ∧ (f.jobAt j).setup = some u ∧ idlePans f j pans = some ps ∧ (mayDispatch f j
        st mb ps = true ∧ mapped f addr (batchBytes st (nthD ({} : MicroBatch) st.mbs mb)).length = true ∧ heldAt f addr (batchBytes st (nthD ({}
        : MicroBatch) st.mbs mb)).length = false ∧ sluice.any (fun c => heldAt f (capSpan f c).1 (capSpan f c).2) = false ∧ enginesFit f skim
        sluice = true))
      ∧ (∃ (j : Fin 16) (n mb addr tmb : Nat) (pans : List Nat) (skim sluice : List (Nat × List Nat)) (d f : Device), d.settleAll j = f ∧
        ((f.jobAt j).stepAt n = none ∨ (f.jobAt j).setup = none ∨ idlePans f j pans = none   ∨ (∃ st ps, (f.jobAt j).stepAt n = some st ∧ idlePans
        f j pans = some ps ∧ ¬(mayDispatch f j st mb ps = true ∧ mapped f addr (batchBytes st (nthD ({} : MicroBatch) st.mbs mb)).length = true ∧
        heldAt f addr (batchBytes st (nthD ({} : MicroBatch) st.mbs mb)).length = false ∧ sluice.any (fun c => heldAt f (capSpan f c).1 (capSpan f
        c).2) = false ∧ enginesFit f skim sluice = true))))
      ∧ (∃ (p : Fin 64) (unit dir mb n l : Nat) (r : RedoUnit) (d : Device), (d.panOn p = true ∧ (d.panAt p).core.running = true ∧ (d.panAt
        p).core.halt = none ∧ (d.panAt p).gated = false) ∧ (d.panAt p).job = some (n, l) ∧ redoUnit (d.jobAt n) unit dir = some r ∧ recomputes
        (d.jobAt n) (d.panAt p) unit dir mb = true)
      ∧ (∃ (p : Fin 64) (unit dir mb n l : Nat) (r : RedoUnit) (d : Device), (d.panOn p = true ∧ (d.panAt p).core.running = true ∧ (d.panAt
        p).core.halt = none ∧ (d.panAt p).gated = false) ∧ (d.panAt p).job = some (n, l) ∧ redoUnit (d.jobAt n) unit dir = some r ∧ recomputes
        (d.jobAt n) (d.panAt p) unit dir mb = false ∧ (d.panAt p).holds r.gate (16 * (watched r).length) = true)
      ∧ (∃ (p : Fin 64) (unit dir mb n l : Nat) (r : RedoUnit) (d : Device), (d.panOn p = true ∧ (d.panAt p).core.running = true ∧ (d.panAt
        p).core.halt = none ∧ (d.panAt p).gated = false) ∧ (d.panAt p).job = some (n, l) ∧ redoUnit (d.jobAt n) unit dir = some r ∧ recomputes
        (d.jobAt n) (d.panAt p) unit dir mb = false ∧ (d.panAt p).holds r.gate (16 * (watched r).length) = false)
      ∧ (∃ (p : Fin 64) (unit dir mb : Nat) (d : Device), (¬(d.panOn p = true ∧ (d.panAt p).core.running = true ∧ (d.panAt p).core.halt = none ∧
        (d.panAt p).gated = false) ∨ (d.panAt p).job = none ∨ (∃ n l, (d.panAt p).job = some (n, l) ∧ redoUnit (d.jobAt n) unit dir = none)))
      ∧ (∃ (j : Fin 16) (unit dir mb n : Nat) (os : List (List Nat)) (r : RedoUnit) (u : JobSetup) (d : Device), redoUnit (d.jobAt j) unit dir =
        some r ∧ (d.jobAt j).setup = some u ∧ ((gateOf (d.jobAt j) unit dir mb).reports.head?.bind (fun x => (d.panAt x.1).step) = some n) ∧
        ((d.jobAt j).live = true ∧ (d.jobAt j).resident = true ∧ (d.jobAt j).switching = false) ∧ ((gateOf (d.jobAt j) unit dir mb).reports.any
        (fun x => (d.panAt x.1).holds r.gate 4) = false))
      ∧ (∃ (j : Fin 16) (unit dir mb : Nat) (os : List (List Nat)) (r : RedoUnit) (d : Device), redoUnit (d.jobAt j) unit dir = some r ∧ ((gateOf
        (d.jobAt j) unit dir mb).reports.any (fun x => (d.panAt x.1).holds r.gate 4) = true))
      ∧ (∃ (j : Fin 16) (unit dir mb : Nat) (os : List (List Nat)) (d : Device), (redoUnit (d.jobAt j) unit dir = none ∨ (d.jobAt j).setup = none
        ∨ (gateOf (d.jobAt j) unit dir mb).reports.head?.bind (fun x => (d.panAt x.1).step) = none ∨ ¬((d.jobAt j).live = true ∧ (d.jobAt
        j).resident = true ∧ (d.jobAt j).switching = false))) :=
  ⟨⟨0, 5, 0, [], { wStep with slots := [(0, { place := .fetching })] },
      ({ wJobHost.updJob 0 (fun q => { q with steps := [{ wStep with slots := [(0, { place := .fetching })] }] }) with grd := { owner := some 0 } }
      : Device), (by decide +kernel)⟩,
    ⟨0, 5, 0, [1], { wStep with slots := [(0, { place := .fetching })] },
      ({ wJobHost.updJob 0 (fun q => { q with steps := [{ wStep with slots := [(0, { place := .fetching })] }] }) with grd := { owner := some 0 } }
      : Device), (by decide +kernel)⟩,
    ⟨0, 5, 0, [], zdev, (by intro st ⟨h, _⟩; revert h; decide +kernel)⟩,
    ⟨0, 5, 0, { wStep with slots := [(0, { place := .fetching, attempts := 8 })] },
      ({ wJobHost.updJob 0 (fun q => { q with steps := [{ wStep with slots := [(0, { place := .fetching, attempts := 8 })] }] }) with grd := { owner := some 0 } }
      : Device), (by decide +kernel)⟩,
    ⟨0, 5, 0,
      ({ wJobHost.updJob 0 (fun q => { q with steps := [{ wStep with slots := [(0, { place := .fetching })] }] }) with grd := { owner := some 0 } }
      : Device), (by decide +kernel)⟩,
    ⟨[1], .clean, .corrected,
      { cost := 0, slot := 0, media := 1, attempt := 0, noBudget := false, hostElig := false, sample := 7, step := 5, job := 0 }, false,
      ({ wJobHost.updJob 0 (fun q => { q with steps := [{ wStep with slots := [(0, { place := .queued })] }] }) with grd := { owner := some 0, bankA := [{ cost := 0, slot := 0, media := 1, attempt := 0, noBudget := false, hostElig := false, sample := 7, step := 5, job := 0 }] } }
      : Device), (by decide +kernel)⟩,
    ⟨[1], .uncorrectable, .corrected,
      { cost := 0, slot := 0, media := 1, attempt := 0, noBudget := false, hostElig := false, sample := 7, step := 5, job := 0 }, false,
      ({ wJobHost.updJob 0 (fun q => { q with steps := [{ wStep with slots := [(0, { place := .queued })] }] }) with grd := { owner := some 0, bankA := [{ cost := 0, slot := 0, media := 1, attempt := 0, noBudget := false, hostElig := false, sample := 7, step := 5, job := 0 }] } }
      : Device), (by decide +kernel)⟩,
    ⟨[1], .clean, .clean, zdev, (by decide +kernel)⟩,
    ⟨0, 5, 0, (readStream 1 ([] : List Nat)), wSetup,
      { cost := 0, slot := 0, media := 1, attempt := 0, noBudget := false, hostElig := false, sample := 7, step := 5, job := 0 },
      { wStep with slots := [(0, { place := .decoding, raw := [] })] },
      ({ wJobHost.updJob 0 (fun q => { q with steps := [{ wStep with slots := [(0, { place := .decoding, raw := [] })] }] }) with grd := { owner := some 0, busy := [{ cost := 0, slot := 0, media := 1, attempt := 0, noBudget := false, hostElig := false, sample := 7, step := 5, job := 0 }] } }
      : Device),
      (((({ wJobHost.updJob 0 (fun q => { q with steps := [{ wStep with slots := [(0, { place := .decoding, raw := [] })] }] }) with grd := { owner := some 0, busy := [{ cost := 0, slot := 0, media := 1, attempt := 0, noBudget := false, hostElig := false, sample := 7, step := 5, job := 0 }] } }
      : Device).takeBusy 0 5 0).map Prod.snd).getD zdev),
      (by refine ⟨by decide +kernel, by decide +kernel, by decide +kernel, by decide +kernel, ⟨stNoHeader, by decide +kernel⟩⟩)⟩,
    ⟨0, 5, 0, (readStream 1 ([0xFF,0xD8,0xFF,0xDB,0,67,0] ++ List.replicate 64 1 ++
      [0xFF,0xC0,0,11,8,0,1,0,1,1,1,0x11,0,0xFF,0xDA,0,8,1,1,0,0,63,0,0xFF,0xD9])), wSetup,
      { cost := 0, slot := 0, media := 1, attempt := 0, noBudget := false, hostElig := false, sample := 7, step := 5, job := 0 },
      { wStep with slots := [(0, { place := .decoding, raw := ([0xFF,0xD8,0xFF,0xDB,0,67,0] ++ List.replicate 64 1 ++ [0xFF,0xC0,0,11,8,0,1,0,1,1,1,0x11,0,0xFF,0xDA,0,8,1,1,0,0,63,0,0xFF,0xD9]) })] },
      ({ wJobHost.updJob 0 (fun q => { q with steps := [{ wStep with slots := [(0, { place := .decoding, raw := ([0xFF,0xD8,0xFF,0xDB,0,67,0] ++ List.replicate 64 1 ++ [0xFF,0xC0,0,11,8,0,1,0,1,1,1,0x11,0,0xFF,0xDA,0,8,1,1,0,0,63,0,0xFF,0xD9]) })] }] }) with grd := { owner := some 0, busy := [{ cost := 0, slot := 0, media := 1, attempt := 0, noBudget := false, hostElig := false, sample := 7, step := 5, job := 0 }] } }
      : Device),
      (((({ wJobHost.updJob 0 (fun q => { q with steps := [{ wStep with slots := [(0, { place := .decoding, raw := ([0xFF,0xD8,0xFF,0xDB,0,67,0] ++ List.replicate 64 1 ++ [0xFF,0xC0,0,11,8,0,1,0,1,1,1,0x11,0,0xFF,0xDA,0,8,1,1,0,0,63,0,0xFF,0xD9]) })] }] }) with grd := { owner := some 0, busy := [{ cost := 0, slot := 0, media := 1, attempt := 0, noBudget := false, hostElig := false, sample := 7, step := 5, job := 0 }] } }
      : Device).takeBusy 0 5 0).map Prod.snd).getD zdev),
      (by refine ⟨by decide +kernel, by decide +kernel, by decide +kernel, by decide +kernel, by decide +kernel, by decide +kernel⟩)⟩,
    ⟨0, 5, 0, (readStream 8
      [0x52,0x49,0x46,0x46,38,0,0,0,0x57,0x41,0x56,0x45,0x66,0x6D,0x74,0x20,16,0,0,0,1,0,1,0,64,31,0,0,64,31,0,0,1,0,8,0,0x64,0x61,0x74,0x61,2,0,0,0,1,2]),
      wSetup, { cost := 0, slot := 0, media := 8, attempt := 0, noBudget := false, hostElig := false, sample := 7, step := 5, job := 0 },
      { wStep with slots := [(0, { place := .decoding, raw := [0x52,0x49,0x46,0x46,38,0,0,0,0x57,0x41,0x56,0x45,0x66,0x6D,0x74,0x20,16,0,0,0,1,0,1,0,64,31,0,0,64,31,0,0,1,0,8,0,0x64,0x61,0x74,0x61,2,0,0,0,1,2] })] },
      ({ wJobHost.updJob 0 (fun q => { q with steps := [{ wStep with slots := [(0, { place := .decoding, raw := [0x52,0x49,0x46,0x46,38,0,0,0,0x57,0x41,0x56,0x45,0x66,0x6D,0x74,0x20,16,0,0,0,1,0,1,0,64,31,0,0,64,31,0,0,1,0,8,0,0x64,0x61,0x74,0x61,2,0,0,0,1,2] })] }] }) with grd := { owner := some 0, busy := [{ cost := 0, slot := 0, media := 8, attempt := 0, noBudget := false, hostElig := false, sample := 7, step := 5, job := 0 }] } }
      : Device),
      (((({ wJobHost.updJob 0 (fun q => { q with steps := [{ wStep with slots := [(0, { place := .decoding, raw := [0x52,0x49,0x46,0x46,38,0,0,0,0x57,0x41,0x56,0x45,0x66,0x6D,0x74,0x20,16,0,0,0,1,0,1,0,64,31,0,0,64,31,0,0,1,0,8,0,0x64,0x61,0x74,0x61,2,0,0,0,1,2] })] }] }) with grd := { owner := some 0, busy := [{ cost := 0, slot := 0, media := 8, attempt := 0, noBudget := false, hostElig := false, sample := 7, step := 5, job := 0 }] } }
      : Device).takeBusy 0 5 0).map Prod.snd).getD zdev),
      (by refine ⟨by decide +kernel, by decide +kernel, by decide +kernel, by decide +kernel, by decide +kernel, by decide +kernel⟩)⟩,
    ⟨0, 5, 0, wSetup, { cost := 0, slot := 0, media := 1, attempt := 0, noBudget := false, hostElig := false, sample := 7, step := 5, job := 0 },
      ({ wJobHost.updJob 0 (fun q => { q with steps := [{ wStep with num := 6, slots := [(0, { place := .decoding, raw := [] })] }] }) with grd := { owner := some 0, busy := [{ cost := 0, slot := 0, media := 1, attempt := 0, noBudget := false, hostElig := false, sample := 7, step := 5, job := 0 }] } }
      : Device),
      (((({ wJobHost.updJob 0 (fun q => { q with steps := [{ wStep with num := 6, slots := [(0, { place := .decoding, raw := [] })] }] }) with grd := { owner := some 0, busy := [{ cost := 0, slot := 0, media := 1, attempt := 0, noBudget := false, hostElig := false, sample := 7, step := 5, job := 0 }] } }
      : Device).takeBusy 0 5 0).map Prod.snd).getD zdev), (by decide +kernel)⟩,
    ⟨0, 5, 0, zdev, (by decide +kernel)⟩,
    ⟨0, 5, 0, { cost := 0, slot := 0, media := 1, attempt := 0, noBudget := false, hostElig := false, sample := 7, step := 5, job := 0 },
      { wStep with slots := [(0, { place := .decoding, raw := [] })] },
      ({ wJobHost.updJob 0 (fun q => { q with steps := [{ wStep with slots := [(0, { place := .decoding, raw := [] })] }] }) with grd := { owner := some 0, busy := [{ cost := 0, slot := 0, media := 1, attempt := 0, noBudget := false, hostElig := false, sample := 7, step := 5, job := 0 }] } }
      : Device),
      (((({ wJobHost.updJob 0 (fun q => { q with steps := [{ wStep with slots := [(0, { place := .decoding, raw := [] })] }] }) with grd := { owner := some 0, busy := [{ cost := 0, slot := 0, media := 1, attempt := 0, noBudget := false, hostElig := false, sample := 7, step := 5, job := 0 }] } }
      : Device).takeBusy 0 5 0).map Prod.snd).getD zdev), (by decide +kernel)⟩,
    ⟨0, 5, 0, { cost := 0, slot := 0, media := 1, attempt := 0, noBudget := false, hostElig := false, sample := 7, step := 5, job := 0 },
      ({ wJobHost.updJob 0 (fun q => { q with steps := [{ wStep with num := 6, slots := [(0, { place := .decoding, raw := [] })] }] }) with grd := { owner := some 0, busy := [{ cost := 0, slot := 0, media := 1, attempt := 0, noBudget := false, hostElig := false, sample := 7, step := 5, job := 0 }] } }
      : Device),
      (((({ wJobHost.updJob 0 (fun q => { q with steps := [{ wStep with num := 6, slots := [(0, { place := .decoding, raw := [] })] }] }) with grd := { owner := some 0, busy := [{ cost := 0, slot := 0, media := 1, attempt := 0, noBudget := false, hostElig := false, sample := 7, step := 5, job := 0 }] } }
      : Device).takeBusy 0 5 0).map Prod.snd).getD zdev), (by decide +kernel)⟩,
    ⟨0, 5, 0,
      ({ wJobHost.updJob 0 (fun q => { q with steps := [{ wStep with slots := [(0, { place := .decoding, raw := [] })] }] }) with grd := { owner := some 0, busy := [{ cost := 0, slot := 0, media := 1, attempt := 0, noBudget := true, hostElig := false, sample := 7, step := 5, job := 0 }] } }
      : Device), (by decide +kernel)⟩,
    ⟨0, 5, 0, 0x11000000000, 0, [0], [0], [], [], { wStep with started := true, mbs := [{}] }, wSetup, ((wJobHost.updJob 0 (fun q =>
      { q with steps := [{ wStep with started := true, mbs := [{}] }] })).updPan 0 (fun p =>
      { p with core := { p.core with running := false } })), (((wJobHost.updJob 0 (fun q =>
      { q with steps := [{ wStep with started := true, mbs := [{}] }] })).updPan 0 (fun p =>
      { p with core := { p.core with running := false } })).settleAll 0), (by decide +kernel)⟩,
    ⟨0, 5, 0, 0x11000000000, 0, [0], [], [], zdev, (zdev.settleAll 0), (by exact ⟨rfl, Or.inl (by decide +kernel)⟩)⟩,
    ⟨0, 3, 0, 0, 0, 0, { unit := 3, dir := 0, top := 1, watch := 1, gate := 0x1000, entries := [], verdict := 1 }, (((wJobHost.updJob 0 (fun q =>
      { q with setup := some ({ wSetup with prog := { wProg with redo := [{ unit := 3, dir := 0, top := 1, watch := 1, gate := 0x1000, entries := [], verdict := 1 }] } }) })).updPan
      0 (fun p => { p with core := { p.core with running := true }, step := some 5 })).updJob 0 (fun q =>
      { q with steps := [{ wStep with passed := [(3, 0)] }] })), (by decide +kernel)⟩,
    ⟨0, 3, 0, 0, 0, 0, { unit := 3, dir := 0, top := 1, watch := 1, gate := 0x1000, entries := [], verdict := 1 }, (((wJobHost.updJob 0 (fun q =>
      { q with setup := some ({ wSetup with prog := { wProg with redo := [{ unit := 3, dir := 0, top := 1, watch := 1, gate := 0x1000, entries := [], verdict := 1 }] } }) })).updPan
      0 (fun p => { p with core := { p.core with running := true }, step := some 5 })).updPan 0 (fun q => { q with held := [128] })),
      (by decide +kernel)⟩,
    ⟨0, 3, 0, 0, 0, 0, { unit := 3, dir := 0, top := 1, watch := 1, gate := 0x1000, entries := [], verdict := 1 }, ((wJobHost.updJob 0 (fun q =>
      { q with setup := some ({ wSetup with prog := { wProg with redo := [{ unit := 3, dir := 0, top := 1, watch := 1, gate := 0x1000, entries := [], verdict := 1 }] } }) })).updPan
      0 (fun p => { p with core := { p.core with running := true }, step := some 5 })), (by decide +kernel)⟩,
    ⟨0, 3, 0, 0, zdev, (by exact Or.inr (Or.inl (by decide +kernel)))⟩,
    ⟨0, 3, 0, 0, 5, [[0, 0, 1, 0, 0, 0]], { unit := 3, dir := 0, top := 1, watch := 1, gate := 0x1000, entries := [], verdict := 1 },
      { wSetup with prog := { wProg with redo := [{ unit := 3, dir := 0, top := 1, watch := 1, gate := 0x1000, entries := [], verdict := 1 }] } },
      (((wJobHost.updJob 0 (fun q =>
      { q with setup := some ({ wSetup with prog := { wProg with redo := [{ unit := 3, dir := 0, top := 1, watch := 1, gate := 0x1000, entries := [], verdict := 1 }] } }) })).updPan
      0 (fun p => { p with core := { p.core with running := true }, step := some 5 })).updJob 0 (fun q =>
      { q with gates := [{ unit := 3, mb := 0, reports := [(0, [{}])] }] })), (by decide +kernel)⟩,
    ⟨0, 3, 0, 0, [], { unit := 3, dir := 0, top := 1, watch := 1, gate := 0x1000, entries := [], verdict := 1 }, ((((wJobHost.updJob 0 (fun q =>
      { q with setup := some ({ wSetup with prog := { wProg with redo := [{ unit := 3, dir := 0, top := 1, watch := 1, gate := 0x1000, entries := [], verdict := 1 }] } }) })).updPan
      0 (fun p => { p with core := { p.core with running := true }, step := some 5 })).updJob 0 (fun q =>
      { q with gates := [{ unit := 3, mb := 0, reports := [(0, [{}])] }] })).updPan 0 (fun q => { q with held := [128] })), (by decide +kernel)⟩,
    ⟨0, 3, 0, 0, [], zdev, (by exact Or.inl (by decide +kernel))⟩⟩

theorem witness_AugmentOperations :
    (∃ (j : Fin 16) (k o : Nat) (st : Step) (d : Device), (((d.jobAt j).setup.bind (fun u => u.jr.aug[o]?)).any (fun a => a.opcode == 1) = true) ∧
      (stepWith (d.jobAt j) k (fun x => x.place == .decoded && !x.treated && x.nextOp == o) = some st))
      ∧ (∃ (j : Fin 16) (k o : Nat) (d : Device), (((d.jobAt j).setup.bind (fun u => u.jr.aug[o]?)).any (fun a => a.opcode == 1) = false ∨
        stepWith (d.jobAt j) k (fun x => x.place == .decoded && !x.treated && x.nextOp == o) = none))
      ∧ (∃ (j : Fin 16) (k o : Nat) (st : Step) (d : Device), (((d.jobAt j).setup.bind (fun u => u.jr.aug[o]?)).any (fun a => a.opcode == 2) =
        true) ∧ (stepWith (d.jobAt j) k (fun x => x.place == .decoded && !x.treated && x.nextOp == o) = some st))
      ∧ (∃ (j : Fin 16) (k o : Nat) (d : Device), (((d.jobAt j).setup.bind (fun u => u.jr.aug[o]?)).any (fun a => a.opcode == 2) = false ∨
        stepWith (d.jobAt j) k (fun x => x.place == .decoded && !x.treated && x.nextOp == o) = none))
      ∧ (∃ (j : Fin 16) (k o : Nat) (st : Step) (d : Device), (((d.jobAt j).setup.bind (fun u => u.jr.aug[o]?)).any (fun a => a.opcode == 3) =
        true) ∧ (stepWith (d.jobAt j) k (fun x => x.place == .decoded && !x.treated && x.nextOp == o) = some st))
      ∧ (∃ (j : Fin 16) (k o : Nat) (d : Device), (((d.jobAt j).setup.bind (fun u => u.jr.aug[o]?)).any (fun a => a.opcode == 3) = false ∨
        stepWith (d.jobAt j) k (fun x => x.place == .decoded && !x.treated && x.nextOp == o) = none))
      ∧ (∃ (j : Fin 16) (k o : Nat) (st : Step) (d : Device), (((d.jobAt j).setup.bind (fun u => u.jr.aug[o]?)).any (fun a => a.opcode == 4) =
        true) ∧ (stepWith (d.jobAt j) k (fun x => x.place == .decoded && !x.treated && x.nextOp == o) = some st))
      ∧ (∃ (j : Fin 16) (k o : Nat) (d : Device), (((d.jobAt j).setup.bind (fun u => u.jr.aug[o]?)).any (fun a => a.opcode == 4) = false ∨
        stepWith (d.jobAt j) k (fun x => x.place == .decoded && !x.treated && x.nextOp == o) = none))
      ∧ (∃ (j : Fin 16) (k o : Nat) (st : Step) (d : Device), (((d.jobAt j).setup.bind (fun u => u.jr.aug[o]?)).any (fun a => a.opcode == 5) =
        true) ∧ (stepWith (d.jobAt j) k (fun x => x.place == .decoded && !x.treated && x.nextOp == o) = some st))
      ∧ (∃ (j : Fin 16) (k o : Nat) (d : Device), (((d.jobAt j).setup.bind (fun u => u.jr.aug[o]?)).any (fun a => a.opcode == 5) = false ∨
        stepWith (d.jobAt j) k (fun x => x.place == .decoded && !x.treated && x.nextOp == o) = none))
      ∧ (∃ (j : Fin 16) (k o : Nat) (st : Step) (d : Device), (((d.jobAt j).setup.bind (fun u => u.jr.aug[o]?)).any (fun a => a.opcode == 6) =
        true) ∧ (stepWith (d.jobAt j) k (fun x => x.place == .decoded && !x.treated && x.nextOp == o) = some st))
      ∧ (∃ (j : Fin 16) (k o : Nat) (d : Device), (((d.jobAt j).setup.bind (fun u => u.jr.aug[o]?)).any (fun a => a.opcode == 6) = false ∨
        stepWith (d.jobAt j) k (fun x => x.place == .decoded && !x.treated && x.nextOp == o) = none))
      ∧ (∃ (j : Fin 16) (k o : Nat) (st : Step) (d : Device), (((d.jobAt j).setup.bind (fun u => u.jr.aug[o]?)).any (fun a => a.opcode == 7) =
        true) ∧ (stepWith (d.jobAt j) k (fun x => x.place == .decoded && !x.treated && x.nextOp == o) = some st))
      ∧ (∃ (j : Fin 16) (k o : Nat) (d : Device), (((d.jobAt j).setup.bind (fun u => u.jr.aug[o]?)).any (fun a => a.opcode == 7) = false ∨
        stepWith (d.jobAt j) k (fun x => x.place == .decoded && !x.treated && x.nextOp == o) = none))
      ∧ (∃ (j : Fin 16) (k o : Nat) (st : Step) (d : Device), (((d.jobAt j).setup.bind (fun u => u.jr.aug[o]?)).any (fun a => a.opcode == 8) =
        true) ∧ (stepWith (d.jobAt j) k (fun x => x.place == .decoded && !x.treated && x.nextOp == o) = some st))
      ∧ (∃ (j : Fin 16) (k o : Nat) (d : Device), (((d.jobAt j).setup.bind (fun u => u.jr.aug[o]?)).any (fun a => a.opcode == 8) = false ∨
        stepWith (d.jobAt j) k (fun x => x.place == .decoded && !x.treated && x.nextOp == o) = none))
      ∧ (∃ (j : Fin 16) (k o : Nat) (st : Step) (d : Device), (((d.jobAt j).setup.bind (fun u => u.jr.aug[o]?)).any (fun a => a.opcode == 9) =
        true) ∧ (stepWith (d.jobAt j) k (fun x => x.place == .decoded && !x.treated && x.nextOp == o) = some st))
      ∧ (∃ (j : Fin 16) (k o : Nat) (d : Device), (((d.jobAt j).setup.bind (fun u => u.jr.aug[o]?)).any (fun a => a.opcode == 9) = false ∨
        stepWith (d.jobAt j) k (fun x => x.place == .decoded && !x.treated && x.nextOp == o) = none))
      ∧ (∃ (j : Fin 16) (k o : Nat) (st : Step) (d : Device), (((d.jobAt j).setup.bind (fun u => u.jr.aug[o]?)).any (fun a => a.opcode == 10) =
        true) ∧ (stepWith (d.jobAt j) k (fun x => x.place == .decoded && !x.treated && x.nextOp == o) = some st))
      ∧ (∃ (j : Fin 16) (k o : Nat) (d : Device), (((d.jobAt j).setup.bind (fun u => u.jr.aug[o]?)).any (fun a => a.opcode == 10) = false ∨
        stepWith (d.jobAt j) k (fun x => x.place == .decoded && !x.treated && x.nextOp == o) = none))
      ∧ (∃ (j : Fin 16) (k o : Nat) (st : Step) (d : Device), (((d.jobAt j).setup.bind (fun u => u.jr.aug[o]?)).any (fun a => a.opcode == 11) =
        true) ∧ (stepWith (d.jobAt j) k (fun x => x.place == .decoded && !x.treated && x.nextOp == o) = some st))
      ∧ (∃ (j : Fin 16) (k o : Nat) (d : Device), (((d.jobAt j).setup.bind (fun u => u.jr.aug[o]?)).any (fun a => a.opcode == 11) = false ∨
        stepWith (d.jobAt j) k (fun x => x.place == .decoded && !x.treated && x.nextOp == o) = none))
      ∧ (∃ (f y i c : Nat) (x : Smp), f < x.f ∧ y < x.h ∧ i < x.w ∧ c < x.ch)
      ∧ (∃ (f y i c : Nat) (x : Smp), f < x.f ∧ y < x.w ∧ i < x.h ∧ c < x.ch)
      ∧ (∃ (f y i c x0 y0 w h : Nat) (x : Smp), f < x.f ∧ y < h ∧ i < w ∧ y0 + h ≤ x.h ∧ x0 + w ≤ x.w ∧ c < x.ch)
      ∧ (∃ (f y i c n : Nat) (x : Smp), 1 ≤ n ∧ f * n < x.f ∧ y < x.h ∧ i < x.w ∧ c < x.ch)
      ∧ (∃ (n : Nat) (x : Smp) (k : Nat), k < x.data.length)
      ∧ (∃ (x : Smp) (k : Nat), 1 ≤ x.ch ∧ k < x.s ∧ x.data.length = x.s * x.ch) :=
  ⟨⟨0, 0, 0, { wStep with slots := [(0, { place := .decoded })] }, (wJobHost.updJob 0 (fun q =>
      { q with setup := some { wSetup with jr := { wRec with aug := [{ opcode := 1, nparam := 0, media := 0xFF, prob := 0, specs := [] }] } }, steps := [{ wStep with slots := [(0, { place := .decoded })] }] })),
      (by decide +kernel)⟩,
    ⟨0, 0, 1, (wJobHost.updJob 0 (fun q =>
      { q with setup := some { wSetup with jr := { wRec with aug := [{ opcode := 1, nparam := 0, media := 0xFF, prob := 0, specs := [] }] } }, steps := [{ wStep with slots := [(0, { place := .decoded })] }] })),
      (by decide +kernel)⟩,
    ⟨0, 0, 0, { wStep with slots := [(0, { place := .decoded })] }, (wJobHost.updJob 0 (fun q =>
      { q with setup := some { wSetup with jr := { wRec with aug := [{ opcode := 2, nparam := 0, media := 0xFF, prob := 0, specs := [] }] } }, steps := [{ wStep with slots := [(0, { place := .decoded })] }] })),
      (by decide +kernel)⟩,
    ⟨0, 0, 1, (wJobHost.updJob 0 (fun q =>
      { q with setup := some { wSetup with jr := { wRec with aug := [{ opcode := 2, nparam := 0, media := 0xFF, prob := 0, specs := [] }] } }, steps := [{ wStep with slots := [(0, { place := .decoded })] }] })),
      (by decide +kernel)⟩,
    ⟨0, 0, 0, { wStep with slots := [(0, { place := .decoded })] }, (wJobHost.updJob 0 (fun q =>
      { q with setup := some { wSetup with jr := { wRec with aug := [{ opcode := 3, nparam := 0, media := 0xFF, prob := 0, specs := [] }] } }, steps := [{ wStep with slots := [(0, { place := .decoded })] }] })),
      (by decide +kernel)⟩,
    ⟨0, 0, 1, (wJobHost.updJob 0 (fun q =>
      { q with setup := some { wSetup with jr := { wRec with aug := [{ opcode := 3, nparam := 0, media := 0xFF, prob := 0, specs := [] }] } }, steps := [{ wStep with slots := [(0, { place := .decoded })] }] })),
      (by decide +kernel)⟩,
    ⟨0, 0, 0, { wStep with slots := [(0, { place := .decoded })] }, (wJobHost.updJob 0 (fun q =>
      { q with setup := some { wSetup with jr := { wRec with aug := [{ opcode := 4, nparam := 0, media := 0xFF, prob := 0, specs := [] }] } }, steps := [{ wStep with slots := [(0, { place := .decoded })] }] })),
      (by decide +kernel)⟩,
    ⟨0, 0, 1, (wJobHost.updJob 0 (fun q =>
      { q with setup := some { wSetup with jr := { wRec with aug := [{ opcode := 4, nparam := 0, media := 0xFF, prob := 0, specs := [] }] } }, steps := [{ wStep with slots := [(0, { place := .decoded })] }] })),
      (by decide +kernel)⟩,
    ⟨0, 0, 0, { wStep with slots := [(0, { place := .decoded })] }, (wJobHost.updJob 0 (fun q =>
      { q with setup := some { wSetup with jr := { wRec with aug := [{ opcode := 5, nparam := 0, media := 0xFF, prob := 0, specs := [] }] } }, steps := [{ wStep with slots := [(0, { place := .decoded })] }] })),
      (by decide +kernel)⟩,
    ⟨0, 0, 1, (wJobHost.updJob 0 (fun q =>
      { q with setup := some { wSetup with jr := { wRec with aug := [{ opcode := 5, nparam := 0, media := 0xFF, prob := 0, specs := [] }] } }, steps := [{ wStep with slots := [(0, { place := .decoded })] }] })),
      (by decide +kernel)⟩,
    ⟨0, 0, 0, { wStep with slots := [(0, { place := .decoded })] }, (wJobHost.updJob 0 (fun q =>
      { q with setup := some { wSetup with jr := { wRec with aug := [{ opcode := 6, nparam := 0, media := 0xFF, prob := 0, specs := [] }] } }, steps := [{ wStep with slots := [(0, { place := .decoded })] }] })),
      (by decide +kernel)⟩,
    ⟨0, 0, 1, (wJobHost.updJob 0 (fun q =>
      { q with setup := some { wSetup with jr := { wRec with aug := [{ opcode := 6, nparam := 0, media := 0xFF, prob := 0, specs := [] }] } }, steps := [{ wStep with slots := [(0, { place := .decoded })] }] })),
      (by decide +kernel)⟩,
    ⟨0, 0, 0, { wStep with slots := [(0, { place := .decoded })] }, (wJobHost.updJob 0 (fun q =>
      { q with setup := some { wSetup with jr := { wRec with aug := [{ opcode := 7, nparam := 0, media := 0xFF, prob := 0, specs := [] }] } }, steps := [{ wStep with slots := [(0, { place := .decoded })] }] })),
      (by decide +kernel)⟩,
    ⟨0, 0, 1, (wJobHost.updJob 0 (fun q =>
      { q with setup := some { wSetup with jr := { wRec with aug := [{ opcode := 7, nparam := 0, media := 0xFF, prob := 0, specs := [] }] } }, steps := [{ wStep with slots := [(0, { place := .decoded })] }] })),
      (by decide +kernel)⟩,
    ⟨0, 0, 0, { wStep with slots := [(0, { place := .decoded })] }, (wJobHost.updJob 0 (fun q =>
      { q with setup := some { wSetup with jr := { wRec with aug := [{ opcode := 8, nparam := 0, media := 0xFF, prob := 0, specs := [] }] } }, steps := [{ wStep with slots := [(0, { place := .decoded })] }] })),
      (by decide +kernel)⟩,
    ⟨0, 0, 1, (wJobHost.updJob 0 (fun q =>
      { q with setup := some { wSetup with jr := { wRec with aug := [{ opcode := 8, nparam := 0, media := 0xFF, prob := 0, specs := [] }] } }, steps := [{ wStep with slots := [(0, { place := .decoded })] }] })),
      (by decide +kernel)⟩,
    ⟨0, 0, 0, { wStep with slots := [(0, { place := .decoded })] }, (wJobHost.updJob 0 (fun q =>
      { q with setup := some { wSetup with jr := { wRec with aug := [{ opcode := 9, nparam := 0, media := 0xFF, prob := 0, specs := [] }] } }, steps := [{ wStep with slots := [(0, { place := .decoded })] }] })),
      (by decide +kernel)⟩,
    ⟨0, 0, 1, (wJobHost.updJob 0 (fun q =>
      { q with setup := some { wSetup with jr := { wRec with aug := [{ opcode := 9, nparam := 0, media := 0xFF, prob := 0, specs := [] }] } }, steps := [{ wStep with slots := [(0, { place := .decoded })] }] })),
      (by decide +kernel)⟩,
    ⟨0, 0, 0, { wStep with slots := [(0, { place := .decoded })] }, (wJobHost.updJob 0 (fun q =>
      { q with setup := some { wSetup with jr := { wRec with aug := [{ opcode := 10, nparam := 0, media := 0xFF, prob := 0, specs := [] }] } }, steps := [{ wStep with slots := [(0, { place := .decoded })] }] })),
      (by decide +kernel)⟩,
    ⟨0, 0, 1, (wJobHost.updJob 0 (fun q =>
      { q with setup := some { wSetup with jr := { wRec with aug := [{ opcode := 10, nparam := 0, media := 0xFF, prob := 0, specs := [] }] } }, steps := [{ wStep with slots := [(0, { place := .decoded })] }] })),
      (by decide +kernel)⟩,
    ⟨0, 0, 0, { wStep with slots := [(0, { place := .decoded })] }, (wJobHost.updJob 0 (fun q =>
      { q with setup := some { wSetup with jr := { wRec with aug := [{ opcode := 11, nparam := 0, media := 0xFF, prob := 0, specs := [] }] } }, steps := [{ wStep with slots := [(0, { place := .decoded })] }] })),
      (by decide +kernel)⟩,
    ⟨0, 0, 1, (wJobHost.updJob 0 (fun q =>
      { q with setup := some { wSetup with jr := { wRec with aug := [{ opcode := 11, nparam := 0, media := 0xFF, prob := 0, specs := [] }] } }, steps := [{ wStep with slots := [(0, { place := .decoded })] }] })),
      (by decide +kernel)⟩,
    ⟨1, 1, 1, 0,
      { media := 1, kind := 0, elem := 1, ch := 1, depth := 8, w := 2, h := 3, f := 2, s := 0, rate := 0, conceal := 0, status := 0, mapW := 1, mapH := 1, data := [1, 2, 3, 4, 5, 6, 7, 8, 9, 10, 11, 12], map := [] },
      (by decide +kernel)⟩,
    ⟨1, 1, 1, 0,
      { media := 1, kind := 0, elem := 1, ch := 1, depth := 8, w := 2, h := 3, f := 2, s := 0, rate := 0, conceal := 0, status := 0, mapW := 1, mapH := 1, data := [1, 2, 3, 4, 5, 6, 7, 8, 9, 10, 11, 12], map := [] },
      (by decide +kernel)⟩,
    ⟨1, 0, 0, 0, 1, 1, 1, 2,
      { media := 1, kind := 0, elem := 1, ch := 1, depth := 8, w := 2, h := 3, f := 2, s := 0, rate := 0, conceal := 0, status := 0, mapW := 1, mapH := 1, data := [1, 2, 3, 4, 5, 6, 7, 8, 9, 10, 11, 12], map := [] },
      (by decide +kernel)⟩,
    ⟨1, 1, 1, 0, 1,
      { media := 1, kind := 0, elem := 1, ch := 1, depth := 8, w := 2, h := 3, f := 2, s := 0, rate := 0, conceal := 0, status := 0, mapW := 1, mapH := 1, data := [1, 2, 3, 4, 5, 6, 7, 8, 9, 10, 11, 12], map := [] },
      (by decide +kernel)⟩,
    ⟨0x40000000,
      { media := 6, kind := 1, elem := 3, ch := 2, depth := 32, w := 0, h := 0, f := 0, s := 2, rate := 8, conceal := 0, status := 0, mapW := 0, mapH := 0, data := [0x3F800000, 0, 0x40000000, 0x40000000], map := [] },
      1, (by decide +kernel)⟩,
    ⟨{ media := 6, kind := 1, elem := 3, ch := 2, depth := 32, w := 0, h := 0, f := 0, s := 2, rate := 8, conceal := 0, status := 0, mapW := 0, mapH := 0, data := [0x3F800000, 0, 0x40000000, 0x40000000], map := [] },
      1, (by decide +kernel)⟩⟩

theorem witness_SchedulingAndTide :
    (∃ (t : Fin 4) (held idle j : Nat) (d : Device), residentOf d t = some j)
      ∧ (∃ (t : Fin 4) (held idle : Nat) (d : Device), residentOf d t = none)
      ∧ (∃ (t : Fin 4) (hit : Option Hit) (j : Nat) (d : Device), residentOf d t = some j ∧ (d.jobAt j).switching = true ∧ drained d j = true)
      ∧ (∃ (t : Fin 4) (hit : Option Hit) (j : Nat) (d : Device), residentOf d t = some j ∧ ((d.jobAt j).switching = false ∨ drained d j = false))
      ∧ (∃ (t : Fin 4) (hit : Option Hit) (d : Device), residentOf d t = none)
      ∧ (∃ (j : Fin 16) (c : SlowCounts) (d : Device), (d.jobAt j).live = true ∧ d.tide.ns % 10000000 = 0 ∧ (c.done + c.lShare + c.lPower +
        c.lWait + c.lInput ≤ sumNat ((jobPans d j).map (fun p => nthD 0 d.fuses.fmax p * 10000)) + 64 ∧ sumNat ((jobPans d j).map (fun p => nthD 0
        d.fuses.fmax p * 10000)) ≤ c.done + c.lShare + c.lPower + c.lWait + c.lInput + 64))
      ∧ (∃ (j : Fin 16) (c : SlowCounts) (d : Device), ((d.jobAt j).live = false ∨ d.tide.ns % 10000000 ≠ 0 ∨ ¬(c.done + c.lShare + c.lPower +
        c.lWait + c.lInput ≤ sumNat ((jobPans d j).map (fun p => nthD 0 d.fuses.fmax p * 10000)) + 64 ∧ sumNat ((jobPans d j).map (fun p => nthD 0
        d.fuses.fmax p * 10000)) ≤ c.done + c.lShare + c.lPower + c.lWait + c.lInput + 64)))
      ∧ (∃ (i : Fin 256) (e : TideEntry) (d : Device), d.inp.island = true ∧ dueEntry d.tide i 1 = some e)
      ∧ (∃ (i : Fin 256) (d : Device), (d.inp.island = false ∨ dueEntry d.tide i 1 = none))
      ∧ (∃ (i : Fin 256) (e : TideEntry) (d : Device), d.inp.island = true ∧ dueEntry d.tide i 2 = some e)
      ∧ (∃ (i : Fin 256) (d : Device), (d.inp.island = false ∨ dueEntry d.tide i 2 = none))
      ∧ (∃ (i : Fin 256) (e : TideEntry) (d : Device), d.inp.island = true ∧ dueEntry d.tide i 3 = some e)
      ∧ (∃ (i : Fin 256) (d : Device), (d.inp.island = false ∨ dueEntry d.tide i 3 = none))
      ∧ (∃ (i : Fin 256) (e : TideEntry) (d : Device), d.inp.island = true ∧ dueEntry d.tide i 4 = some e)
      ∧ (∃ (i : Fin 256) (d : Device), (d.inp.island = false ∨ dueEntry d.tide i 4 = none))
      ∧ (∃ (i : Fin 256) (e : TideEntry) (d : Device), d.inp.island = true ∧ dueEntry d.tide i 6 = some e)
      ∧ (∃ (i : Fin 256) (d : Device), (d.inp.island = false ∨ dueEntry d.tide i 6 = none))
      ∧ (∃ (i : Fin 256) (e : TideEntry) (d : Device), d.inp.island = true ∧ dueEntry d.tide i 5 = some e)
      ∧ (∃ (i : Fin 256) (d : Device), (d.inp.island = false ∨ dueEntry d.tide i 5 = none))
      ∧ (∃ (i : Fin 256) (e : TideEntry) (d : Device), d.inp.island = true ∧ dueEntry d.tide i 7 = some e)
      ∧ (∃ (i : Fin 256) (d : Device), (d.inp.island = false ∨ dueEntry d.tide i 7 = none))
      ∧ (∃ (j : Fin 16) (w : Nat) (x : Window) (d : Device), (d.jobAt j).windowAt w = some x)
      ∧ (∃ (j : Fin 16) (w : Nat) (x : Window) (d : Device), (d.jobAt j).windowAt w = some x)
      ∧ (∃ (j : Fin 16) (w : Nat) (d : Device), (d.jobAt j).windowAt w = none)
      ∧ (∃ (o : Int) (d : Device), d.inp.island = true ∧ d.eth.state = 2)
      ∧ (∃ (o : Int) (d : Device), (d.inp.island = false ∨ d.eth.state ≠ 2))
      ∧ (∃ (d : Device), d.inp.island = true ∧ d.tide.edgeMode = 2)
      ∧ (∃ (d : Device), (d.inp.island = false ∨ d.tide.edgeMode ≠ 2)) :=
  ⟨⟨0, 80000000, 0, 0, ((wJobHost.updJob 1 (fun q =>
      { q with state := .running, resv := some wResv, setup := some { wSetup with jr := { wRec with sliced := true } }, resident := false, windows := [{ num := 0, step := 5, isOpen := true }] })).updJob
      0 (fun q => { q with setup := some { wSetup with jr := { wRec with sliced := true } } })), (by decide +kernel)⟩,
    ⟨1, 0, 0, wJobHost, (by decide +kernel)⟩,
    ⟨0, none, 0, ((wJobHost.updJob 1 (fun q =>
      { q with state := .running, resv := some wResv, setup := some { wSetup with jr := { wRec with sliced := true } }, resident := false, windows := [{ num := 0, step := 5, isOpen := true }] })).updJob
      0 (fun q => { q with setup := some { wSetup with jr := { wRec with sliced := true } }, switching := true })), (by decide +kernel)⟩,
    ⟨0, none, 0, wJobHost, (by decide +kernel)⟩,
    ⟨1, none, wJobHost, (by decide +kernel)⟩,
    ⟨0, { done := 1, lShare := 0, lPower := 0, lWait := 13000000, lInput := 0 }, wJobHost, (by decide +kernel)⟩,
    ⟨1, { done := 1, lShare := 0, lPower := 0, lWait := 0, lInput := 0 }, wJobHost, (by decide +kernel)⟩,
    ⟨0, { ns := 0, sec := 0, action := 1, param := 7, job := 0, step := 5, arg := 3 },
      ({ wJobHost with tide := { wJobHost.tide with entries := [(0, { ns := 0, sec := 0, action := 1, param := 7, job := 0, step := 5, arg := 3 })] } }
      : Device), (by decide +kernel)⟩,
    ⟨1,
      ({ wJobHost with tide := { wJobHost.tide with entries := [(0, { ns := 0, sec := 0, action := 1, param := 7, job := 0, step := 5, arg := 3 })] } }
      : Device), (by decide +kernel)⟩,
    ⟨0, { ns := 0, sec := 0, action := 2, param := 0, job := 0, step := 5, arg := 0 },
      ({ wJobHost with tide := { wJobHost.tide with entries := [(0, { ns := 0, sec := 0, action := 2, param := 0, job := 0, step := 5, arg := 0 })] } }
      : Device), (by decide +kernel)⟩,
    ⟨1,
      ({ wJobHost with tide := { wJobHost.tide with entries := [(0, { ns := 0, sec := 0, action := 2, param := 0, job := 0, step := 5, arg := 0 })] } }
      : Device), (by decide +kernel)⟩,
    ⟨0, { ns := 0, sec := 0, action := 3, param := 0, job := 255, step := 5, arg := 0 },
      ({ wJobHost with tide := { wJobHost.tide with entries := [(0, { ns := 0, sec := 0, action := 3, param := 0, job := 255, step := 5, arg := 0 })] } }
      : Device), (by decide +kernel)⟩,
    ⟨1,
      ({ wJobHost with tide := { wJobHost.tide with entries := [(0, { ns := 0, sec := 0, action := 3, param := 0, job := 255, step := 5, arg := 0 })] } }
      : Device), (by decide +kernel)⟩,
    ⟨0, { ns := 0, sec := 0, action := 4, param := 0, job := 255, step := 5, arg := 600 },
      ({ wJobHost with tide := { wJobHost.tide with entries := [(0, { ns := 0, sec := 0, action := 4, param := 0, job := 255, step := 5, arg := 600 })] } }
      : Device), (by decide +kernel)⟩,
    ⟨1,
      ({ wJobHost with tide := { wJobHost.tide with entries := [(0, { ns := 0, sec := 0, action := 4, param := 0, job := 255, step := 5, arg := 600 })] } }
      : Device), (by decide +kernel)⟩,
    ⟨0, { ns := 0, sec := 0, action := 6, param := 0, job := 0, step := 5, arg := 0 },
      ({ wJobHost with tide := { wJobHost.tide with entries := [(0, { ns := 0, sec := 0, action := 6, param := 0, job := 0, step := 5, arg := 0 })] } }
      : Device), (by decide +kernel)⟩,
    ⟨1,
      ({ wJobHost with tide := { wJobHost.tide with entries := [(0, { ns := 0, sec := 0, action := 6, param := 0, job := 0, step := 5, arg := 0 })] } }
      : Device), (by decide +kernel)⟩,
    ⟨0, { ns := 0, sec := 0, action := 5, param := 0, job := 0, step := 5, arg := 0 },
      ({ (wJobHost.updJob 0 (fun q => { q with windows := [{ num := 0, step := 5, openFired := true }] })) with tide := { (wJobHost.updJob 0 (fun q => { q with windows := [{ num := 0, step := 5, openFired := true }] })).tide with entries := [(0, { ns := 0, sec := 0, action := 5, param := 0, job := 0, step := 5, arg := 0 })] } }
      : Device), (by decide +kernel)⟩,
    ⟨1,
      ({ (wJobHost.updJob 0 (fun q => { q with windows := [{ num := 0, step := 5, openFired := true }] })) with tide := { (wJobHost.updJob 0 (fun q => { q with windows := [{ num := 0, step := 5, openFired := true }] })).tide with entries := [(0, { ns := 0, sec := 0, action := 5, param := 0, job := 0, step := 5, arg := 0 })] } }
      : Device), (by decide +kernel)⟩,
    ⟨0, { ns := 0, sec := 0, action := 7, param := 0, job := 0, step := 5, arg := 0 },
      ({ wJobHost with tide := { wJobHost.tide with entries := [(0, { ns := 0, sec := 0, action := 7, param := 0, job := 0, step := 5, arg := 0 })] } }
      : Device), (by decide +kernel)⟩,
    ⟨1,
      ({ wJobHost with tide := { wJobHost.tide with entries := [(0, { ns := 0, sec := 0, action := 7, param := 0, job := 0, step := 5, arg := 0 })] } }
      : Device), (by decide +kernel)⟩,
    ⟨0, 0, { num := 0, step := 5, openFired := true }, (wJobHost.updJob 0 (fun q =>
      { q with windows := [{ num := 0, step := 5, openFired := true }], commit := { step := some 5 } })), (by decide +kernel)⟩,
    ⟨0, 0, { num := 0, step := 5, openFired := true, isOpen := true, closeFired := true }, (wJobHost.updJob 0 (fun q =>
      { q with windows := [{ num := 0, step := 5, openFired := true, isOpen := true, closeFired := true }] })), (by decide +kernel)⟩,
    ⟨0, 0, wJobHost, (by decide +kernel)⟩,
    ⟨3, ({ wJobHost with tide := { wJobHost.tide with syncRun := 15 } } : Device), (by decide +kernel)⟩,
    ⟨3, zdev, (by decide +kernel)⟩,
    ⟨({ wJobHost with tide := { wJobHost.tide with edgeMode := 2, edgeOk := true, ns := 5000 } } : Device), (by decide +kernel)⟩,
    ⟨wJobHost, (by decide +kernel)⟩⟩

theorem witness_Resilience :
    (∃ (j : Fin 16) (l : Fin 3) (hit : Option Hit) (i c : Nat) (u : JobSetup) (e : TideEntry) (d : Device), (d.jobAt j).commit.step = some c ∧
      (d.jobAt j).setup = some u ∧ (d.tide.entries.find? (fun e => e.2.fired && e.2.action == 7 && e.2.job == j.val && e.2.arg == l.val && decide
      (e.2.step ≤ c)) = some (i, e)))
      ∧ (∃ (j : Fin 16) (l : Fin 3) (hit : Option Hit) (d : Device), (∀ c, (d.jobAt j).commit.step = some c → (d.jobAt j).setup = none ∨
        d.tide.entries.find? (fun e => e.2.fired && e.2.action == 7 && e.2.job == j.val && e.2.arg == l.val && decide (e.2.step ≤ c)) = none))
      ∧ (∃ (j : Fin 16) (l : Fin 3) (u : JobSetup) (r : SnapRun) (d : Device), (d.jobAt j).setup = some u ∧ ((d.jobAt j).snaps.find? (fun r =>
        r.layer == l.val + 1) = some r))
      ∧ (∃ (j : Fin 16) (l : Fin 3) (d : Device), ((d.jobAt j).setup = none ∨ (d.jobAt j).snaps.find? (fun r => r.layer == l.val + 1) = none))
      ∧ (∃ (j : Fin 16) (n h sl : Nat) (xs gs : List Nat) (tot : StepShare) (u : JobSetup) (st : Step) (d : Device), (d.jobAt j).setup = some u ∧
        (d.jobAt j).steps.head? = some st ∧ reachHolder d j = some (h, sl) ∧ (st.num = n ∧ st.stages = true ∧ st.logDone = false ∧ d.fab.pend.all
        (fun p => p.job != j.val || p.logStep != some n) = true ∧ (d.jobAt j).shardHeld d = false))
      ∧ (∃ (j : Fin 16) (n : Nat) (xs gs : List Nat) (tot : StepShare) (d : Device), ((d.jobAt j).setup = none ∨ (d.jobAt j).steps = [] ∨
        reachHolder d j = none ∨ (∃ st, (d.jobAt j).steps.head? = some st ∧ ¬(st.num = n ∧ st.stages = true ∧ st.logDone = false ∧ d.fab.pend.all
        (fun p => p.job != j.val || p.logStep != some n) = true ∧ (d.jobAt j).shardHeld d = false))))
      ∧ (∃ (j : Fin 16) (b es ss : List (List Nat)) (le : Nat) (u : JobSetup) (r : Replay) (d : Device), (d.jobAt j).setup = some u ∧ ((d.jobAt
        j).state = .running ∧ u.jr.restore = 1 ∧ (d.jobAt j).partner.filling = true ∧ (d.jobAt j).partner.queued = []) ∧ replayOf (d.jobAt j) u
        u.jr.restoreStep b es ss = some r)
      ∧ (∃ (j : Fin 16) (b es ss : List (List Nat)) (le : Nat) (u : JobSetup) (d : Device), (d.jobAt j).setup = some u ∧ ((d.jobAt j).state =
        .running ∧ u.jr.restore = 1 ∧ (d.jobAt j).partner.filling = true ∧ (d.jobAt j).partner.queued = []) ∧ replayOf (d.jobAt j) u
        u.jr.restoreStep b es ss = none)
      ∧ (∃ (j : Fin 16) (b es ss : List (List Nat)) (le : Nat) (d : Device), ((d.jobAt j).setup = none ∨ (∃ u, (d.jobAt j).setup = some u ∧
        ¬((d.jobAt j).state = .running ∧ u.jr.restore = 1 ∧ (d.jobAt j).partner.filling = true ∧ (d.jobAt j).partner.queued = [])))) :=
  ⟨⟨0, 1, none, 0, 5, wSetup, { ns := 0, sec := 0, action := 7, param := 0, job := 0, step := 5, arg := 1, fired := true },
      ({ (wJobHost.updJob 0 (fun q => { q with commit := { step := some 5 } })) with tide := { wHost.tide with entries := [(0, { ns := 0, sec := 0, action := 7, param := 0, job := 0, step := 5, arg := 1, fired := true })] } }
      : Device), (by decide +kernel)⟩,
    ⟨1, 0, none, wJobHost, (by intro c h; cases h)⟩,
    ⟨0, 1, wSetup, { layer := 2, step := 5, slotNo := 0, image := [], started := 0 }, (wJobHost.updJob 0 (fun q =>
      { q with snaps := [{ layer := 2, step := 5, slotNo := 0, image := [], started := 0 }] })), (by decide +kernel)⟩,
    ⟨0, 1, wJobHost, (by decide +kernel)⟩,
    ⟨0, 5, 9, 1, [1], [2], {}, wSetup, { wStep with slots := [(0, {})], stages := true }, (wJobHost.updJob 0 (fun q =>
      { q with steps := [{ wStep with slots := [(0, {})], stages := true }], partner := { nextSnap := [none, none, none] } })),
      (by decide +kernel)⟩,
    ⟨0, 5, [], [], {}, wJobHost, (by exact Or.inr (Or.inl (by decide +kernel)))⟩,
    ⟨0, [(imageHeader ((wJobHost.updJob 0 (fun q =>
      { q with setup := some ({ wSetup with jr := { wRec with restore := 1, restoreStep := 5 } }), partner := { filling := true } })).jobAt 0)
      ({ wSetup with jr := { wRec with restore := 1, restoreStep := 5 } }) 1 5 (imageSections (wJobHost.updJob 0 (fun q =>
      { q with setup := some ({ wSetup with jr := { wRec with restore := 1, restoreStep := 5 } }), partner := { filling := true } })) 0 5) true ++
      imageSections (wJobHost.updJob 0 (fun q =>
      { q with setup := some ({ wSetup with jr := { wRec with restore := 1, restoreStep := 5 } }), partner := { filling := true } })) 0 5)], [],
      [], 0, { wSetup with jr := { wRec with restore := 1, restoreStep := 5 } }, ((replayOf ((wJobHost.updJob 0 (fun q =>
      { q with setup := some ({ wSetup with jr := { wRec with restore := 1, restoreStep := 5 } }), partner := { filling := true } })).jobAt 0)
      ({ wSetup with jr := { wRec with restore := 1, restoreStep := 5 } }) 5 [(imageHeader ((wJobHost.updJob 0 (fun q =>
      { q with setup := some ({ wSetup with jr := { wRec with restore := 1, restoreStep := 5 } }), partner := { filling := true } })).jobAt 0)
      ({ wSetup with jr := { wRec with restore := 1, restoreStep := 5 } }) 1 5 (imageSections (wJobHost.updJob 0 (fun q =>
      { q with setup := some ({ wSetup with jr := { wRec with restore := 1, restoreStep := 5 } }), partner := { filling := true } })) 0 5) true ++
      imageSections (wJobHost.updJob 0 (fun q =>
      { q with setup := some ({ wSetup with jr := { wRec with restore := 1, restoreStep := 5 } }), partner := { filling := true } })) 0 5)] []
      []).getD { step := 0, blocks := [], hist := [], epoch := 0, head := [] }), (wJobHost.updJob 0 (fun q =>
      { q with setup := some ({ wSetup with jr := { wRec with restore := 1, restoreStep := 5 } }), partner := { filling := true } })),
      (by decide +kernel)⟩,
    ⟨0, [], [], [], 0, { wSetup with jr := { wRec with restore := 1, restoreStep := 5 } }, (wJobHost.updJob 0 (fun q =>
      { q with setup := some ({ wSetup with jr := { wRec with restore := 1, restoreStep := 5 } }), partner := { filling := true } })),
      (by decide +kernel)⟩,
    ⟨1, [], [], [], 0, wJobHost, (by exact Or.inl (by decide +kernel))⟩⟩

theorem witness_PowerAndThermal :
    (∃ (p b ps s : Nat), ps < b ∧ b < p)
      ∧ (∃ (p b ps s : Nat), b ≤ ps ∧ b < p)
      ∧ (∃ (p b ps s : Nat), 100 * p ≤ 97 * b)
      ∧ (∃ (p b ps s : Nat), p ≤ b ∧ 97 * b < 100 * p)
      ∧ (∃ (k m e : Nat), 0 < e ∧ 7500 ≤ k ∧ k ≤ 12500)
      ∧ (∃ (m : Nat) (x : Pwr) (d : Device),
        { d.pwr with input := d.pwr.input.add (inputEnergy d.pwz), j2 := keepLast 100 (d.pwr.j2 ++ [inputPower d.pwz]) } = x ∧ ((if x.j2.length =
        0 then 0 else sumNat x.j2 / x.j2.length) / 1000 = m)) :=
  ⟨⟨485000, 425000, 60000, 64, (by decide +kernel)⟩,
    ⟨485000, 59000, 60000, 64, (by decide +kernel)⟩,
    ⟨400000, 425000, 60000, 54, (by decide +kernel)⟩,
    ⟨420000, 425000, 60000, 54, (by decide +kernel)⟩,
    ⟨10000, 3, 1, (by decide +kernel)⟩,
    ⟨2500000,
      ({ ({ wJobHost with pwz := { wJobHost.pwz with rails := [(50000, 50000)] } } : Device).pwr with input := ({ wJobHost with pwz := { wJobHost.pwz with rails := [(50000, 50000)] } } : Device).pwr.input.add (inputEnergy ({ wJobHost with pwz := { wJobHost.pwz with rails := [(50000, 50000)] } } : Device).pwz), j2 := [2500000000] }
      : Pwr), ({ wJobHost with pwz := { wJobHost.pwz with rails := [(50000, 50000)] } } : Device), (by decide +kernel)⟩⟩

theorem witness_TrayCommands :
    (∃ (f : Frame) (d : Device), Taken d f 0 true)
      ∧ (∃ (f : Frame) (d : Device), Taken d f 0 false)
      ∧ (∃ (f : Frame) (d : Device), Taken d f 10 true)
      ∧ (∃ (f : Frame) (d : Device), Taken d f 1 false)
      ∧ (∃ (f : Frame) (d : Device), Taken d f 5 true)
      ∧ (∃ (f : Frame) (d : Device), Taken d f 4 true)
      ∧ (∃ (f : Frame) (d : Device), Taken d f 0 true)
      ∧ (∃ (f : Frame) (d : Device), Taken d f 2 true)
      ∧ (∃ (f : Frame) (d : Device), Taken d f 1 true)
      ∧ (∃ (f : Frame) (d : Device), Taken d f 16 false)
      ∧ (∃ (f : Frame) (d : Device), Taken d f 9 false)
      ∧ (∃ (f : Frame) (d : Device), ¬Taken d f 0 true)
      ∧ (∃ (f : Frame) (d : Device), ¬Taken d f 0 false)
      ∧ (∃ (f : Frame) (d : Device), ¬Taken d f 10 true)
      ∧ (∃ (f : Frame) (d : Device), ¬Taken d f 1 false)
      ∧ (∃ (f : Frame) (d : Device), ¬Taken d f 5 true)
      ∧ (∃ (f : Frame) (d : Device), ¬Taken d f 4 true)
      ∧ (∃ (f : Frame) (d : Device), ¬Taken d f 2 true)
      ∧ (∃ (f : Frame) (d : Device), ¬Taken d f 1 true)
      ∧ (∃ (f : Frame) (d : Device), ¬Taken d f 16 false)
      ∧ (∃ (f : Frame) (d : Device), ¬Taken d f 9 false) :=
  ⟨⟨{ len := ([] : List Nat).length, payload := [] }, wJobHost, (by decide +kernel)⟩,
    ⟨{ len := ([] : List Nat).length, payload := [] }, wJobHost, (by decide +kernel)⟩,
    ⟨{ len := ((List.replicate 10 0) : List Nat).length, payload := (List.replicate 10 0) }, wJobHost, (by decide +kernel)⟩,
    ⟨{ len := ([1] : List Nat).length, payload := [1] }, wJobHost, (by decide +kernel)⟩,
    ⟨{ len := ([1, 8, 0, 0, 0] : List Nat).length, payload := [1, 8, 0, 0, 0] }, wJobHost, (by decide +kernel)⟩,
    ⟨{ len := ([0, 0, 0, 0, 7] : List Nat).length, payload := [0, 0, 0, 0, 7] },
      ({ wJobHost with pwz := { wJobHost.pwz with update := some { typ := 1, len := 8 } } } : Device), (by decide +kernel)⟩,
    ⟨{ len := ([] : List Nat).length, payload := [] }, ({ wJobHost with pwz := { wJobHost.pwz with update := some { typ := 1, len := 8 } } } :
      Device), (by decide +kernel)⟩,
    ⟨{ len := ([1, 1] : List Nat).length, payload := [1, 1] },
      ({ wJobHost with pwz := { wJobHost.pwz with types := [{ a := { valid := true }, b := { valid := true } }, {}, {}, { a := { valid := false } }] } }
      : Device), (by decide +kernel)⟩,
    ⟨{ len := ([1] : List Nat).length, payload := [1] },
      ({ wJobHost with pwz := { wJobHost.pwz with types := [{ a := { valid := true, svn := 2 }, b := { valid := true, svn := 2 } }, {}, {}, { a := { valid := false } }] } }
      : Device), (by decide +kernel)⟩,
    ⟨{ len := ((List.replicate 16 0) : List Nat).length, payload := (List.replicate 16 0) }, wJobHost, (by decide +kernel)⟩,
    ⟨{ len := ((List.replicate 9 0) : List Nat).length, payload := (List.replicate 9 0) }, wJobHost, (by decide +kernel)⟩,
    ⟨{ len := 3 }, wJobHost, (by decide +kernel)⟩,
    ⟨{ len := 3 }, wJobHost, (by decide +kernel)⟩,
    ⟨{ len := 3 }, wJobHost, (by decide +kernel)⟩,
    ⟨{ len := 3 }, wJobHost, (by decide +kernel)⟩,
    ⟨{ len := 3 }, wJobHost, (by decide +kernel)⟩,
    ⟨{ len := 3 }, wJobHost, (by decide +kernel)⟩,
    ⟨{ len := 3 }, wJobHost, (by decide +kernel)⟩,
    ⟨{ len := 3 }, wJobHost, (by decide +kernel)⟩,
    ⟨{ len := 3 }, wJobHost, (by decide +kernel)⟩,
    ⟨{ len := 3 }, wJobHost, (by decide +kernel)⟩⟩

theorem witness_SecurityAndSeal :
    (∃ (f : Frame) (d : Device), Taken d f 4212 false ∧ ((fieldAt f.payload 0 1 = 1 ∨ fieldAt f.payload 0 1 = 0 ∨ 5 < fieldAt f.payload 0 1)))
      ∧ (∃ (f : Frame) (d : Device), ¬Taken d f 4212 false ∧ (f.len ≠ f.payload.length ∨ (fieldAt f.payload 0 1 = 1 ∨ fieldAt f.payload 0 1 = 0 ∨
        5 < fieldAt f.payload 0 1)))
      ∧ (∃ (f : Frame) (d : Device), f.len = f.payload.length ∧ 1 ≤ fieldAt f.payload 0 1 ∧ fieldAt f.payload 0 1 ≤ 5 ∧ fieldAt f.payload 0 1 ≠ 1)
      ∧ (∃ (f : Frame) (d : Device), Taken d f 4212 false ∧ ((fieldAt f.payload 0 1 = 2 ∨ fieldAt f.payload 0 1 = 0 ∨ 5 < fieldAt f.payload 0 1)))
      ∧ (∃ (f : Frame) (d : Device), ¬Taken d f 4212 false ∧ (f.len ≠ f.payload.length ∨ (fieldAt f.payload 0 1 = 2 ∨ fieldAt f.payload 0 1 = 0 ∨
        5 < fieldAt f.payload 0 1)))
      ∧ (∃ (f : Frame) (d : Device), f.len = f.payload.length ∧ 1 ≤ fieldAt f.payload 0 1 ∧ fieldAt f.payload 0 1 ≤ 5 ∧ fieldAt f.payload 0 1 ≠ 2)
      ∧ (∃ (f : Frame) (d : Device), Taken d f 4212 false ∧ ((fieldAt f.payload 0 1 = 3 ∨ fieldAt f.payload 0 1 = 0 ∨ 5 < fieldAt f.payload 0 1)))
      ∧ (∃ (f : Frame) (d : Device), ¬Taken d f 4212 false ∧ (f.len ≠ f.payload.length ∨ (fieldAt f.payload 0 1 = 3 ∨ fieldAt f.payload 0 1 = 0 ∨
        5 < fieldAt f.payload 0 1)))
      ∧ (∃ (f : Frame) (d : Device), f.len = f.payload.length ∧ 1 ≤ fieldAt f.payload 0 1 ∧ fieldAt f.payload 0 1 ≤ 5 ∧ fieldAt f.payload 0 1 ≠ 3)
      ∧ (∃ (f : Frame) (d : Device), Taken d f 4212 false ∧ ((fieldAt f.payload 0 1 = 4 ∨ fieldAt f.payload 0 1 = 0 ∨ 5 < fieldAt f.payload 0 1)))
      ∧ (∃ (f : Frame) (d : Device), ¬Taken d f 4212 false ∧ (f.len ≠ f.payload.length ∨ (fieldAt f.payload 0 1 = 4 ∨ fieldAt f.payload 0 1 = 0 ∨
        5 < fieldAt f.payload 0 1)))
      ∧ (∃ (f : Frame) (d : Device), f.len = f.payload.length ∧ 1 ≤ fieldAt f.payload 0 1 ∧ fieldAt f.payload 0 1 ≤ 5 ∧ fieldAt f.payload 0 1 ≠ 4)
      ∧ (∃ (f : Frame) (d : Device), Taken d f 4212 false ∧ ((fieldAt f.payload 0 1 = 5 ∨ fieldAt f.payload 0 1 = 0 ∨ 5 < fieldAt f.payload 0 1)))
      ∧ (∃ (f : Frame) (d : Device), ¬Taken d f 4212 false ∧ (f.len ≠ f.payload.length ∨ (fieldAt f.payload 0 1 = 5 ∨ fieldAt f.payload 0 1 = 0 ∨
        5 < fieldAt f.payload 0 1)))
      ∧ (∃ (f : Frame) (d : Device), f.len = f.payload.length ∧ 1 ≤ fieldAt f.payload 0 1 ∧ fieldAt f.payload 0 1 ≤ 5 ∧ fieldAt f.payload 0 1 ≠ 5) :=
  ⟨⟨{ len := (([1] ++ List.replicate 4211 0) : List Nat).length, payload := ([1] ++ List.replicate 4211 0) }, wJobHost, (by decide +kernel)⟩,
    ⟨{ len := 3 }, wJobHost, (by decide +kernel)⟩,
    ⟨{ len := ([2] : List Nat).length, payload := [2] }, wJobHost, (by decide +kernel)⟩,
    ⟨{ len := (([2] ++ List.replicate 4211 0) : List Nat).length, payload := ([2] ++ List.replicate 4211 0) }, wJobHost, (by decide +kernel)⟩,
    ⟨{ len := 3 }, wJobHost, (by decide +kernel)⟩,
    ⟨{ len := ([3] : List Nat).length, payload := [3] }, wJobHost, (by decide +kernel)⟩,
    ⟨{ len := (([3] ++ List.replicate 4211 0) : List Nat).length, payload := ([3] ++ List.replicate 4211 0) }, wJobHost, (by decide +kernel)⟩,
    ⟨{ len := 3 }, wJobHost, (by decide +kernel)⟩,
    ⟨{ len := ([4] : List Nat).length, payload := [4] }, wJobHost, (by decide +kernel)⟩,
    ⟨{ len := (([4] ++ List.replicate 4211 0) : List Nat).length, payload := ([4] ++ List.replicate 4211 0) }, wJobHost, (by decide +kernel)⟩,
    ⟨{ len := 3 }, wJobHost, (by decide +kernel)⟩,
    ⟨{ len := ([5] : List Nat).length, payload := [5] }, wJobHost, (by decide +kernel)⟩,
    ⟨{ len := (([5, 1, 0] ++ List.replicate 4209 0) : List Nat).length, payload := ([5, 1, 0] ++ List.replicate 4209 0) },
      ({ wJobHost with pwz := { wJobHost.pwz with ownerKeys := [{ hash := some [1] }, { hash := some [2] }, {}, {}] } } : Device),
      (by decide +kernel)⟩,
    ⟨{ len := 3 }, wJobHost, (by decide +kernel)⟩,
    ⟨{ len := ([1] : List Nat).length, payload := [1] }, wJobHost, (by decide +kernel)⟩⟩

theorem witness_RegisterAccesses :
    (∃ (a : Agent) (r w : Nat) (d : Device), (reaches d a r = false ∨ mayWrite a r = false))
      ∧ (∃ (a : Agent) (r w t : Nat) (d : Device), reaches d a r = true ∧ mayWrite a r = true ∧ blkOf r = .brn t ∧ blkOffset r = 0x0C)
      ∧ (∃ (a : Agent) (r w : Nat) (d : Device), reaches d a r = true ∧ mayWrite a r = true ∧ (¬(blkOf r = .seal ∧ blkOffset r = 0)) ∧ (∀ t,
        ¬(blkOf r = .brn t ∧ blkOffset r = 0x0C)))
      ∧ (∃ (a : Agent) (w : Nat) (d : Device), reaches d a 0x10000 = true ∧ mayWrite a 0x10000 = true)
      ∧ (∃ (a : Agent) (r w : Nat) (d : Device), (reaches d a r = false ∨ blkOf r ≠ .glb ∨ blkOffset r < 0x20 ∨ 0x30 ≤ blkOffset r))
      ∧ (∃ (a : Agent) (w : Nat) (d : Device), reaches d a 0x0C = true)
      ∧ (∃ (a : Agent) (w : Nat) (d : Device), reaches d a 0x0C = false) :=
  ⟨⟨.renura, 0x20000, 1, wJobHost, (by decide +kernel)⟩,
    ⟨.renura, 0x60000C, 0x80000003, 0, wJobHost, (by decide +kernel)⟩,
    ⟨.renura, 0x100000, 0x40000000, ({ wJobHost with glb := { wJobHost.glb with lock := 0x7FFF } } : Device),
      (by refine ⟨by decide +kernel, by decide +kernel, by decide +kernel, ?_⟩; intro t h; have h2 : blkOf 0x100000 = .bnd 0 := (by decide +kernel); rw [h2] at h; exact Blk.noConfusion h.1)⟩,
    ⟨.renura, 0x80000000, ({ wJobHost with glb := { wJobHost.glb with lock := 0x7FFF } } : Device), (by decide +kernel)⟩,
    ⟨.renura, 0x10, 1, wJobHost, (by decide +kernel)⟩,
    ⟨.pawezel, 1, wJobHost, (by decide +kernel)⟩,
    ⟨.debug, 1, wJobHost, (by decide +kernel)⟩⟩

theorem witness_MaskedWrite :
    (∃ (a : Agent) (i : Fin 4) (w : Nat) (d : Device), reaches d a (0x20 + 4 * i) = true)
      ∧ (∃ (a : Agent) (i : Fin 4) (w : Nat) (d : Device), w / 65536 % 65536 = 0) :=
  ⟨⟨.renura, 0, 0x00F000A5, wJobHost, (by decide +kernel)⟩,
    ⟨.renura, 0, 0x000000A5, wJobHost, (by decide +kernel)⟩⟩

theorem witness_EmptySummary :
    (∃ (f : Fmt), f.isInt = false)
      ∧ (∃ (f : Fmt), f.isInt = true)
      ∧ (∃ (p : Fin 64) (v : VInsn) (d : Device), VectorReady d p (.lanes vTypes) v ∧ v.sum = true ∧ vCount v (d.panAt p) = 0) :=
  ⟨⟨.bf16, (by decide +kernel)⟩,
    ⟨.int8, (by decide +kernel)⟩,
    ⟨0, { vd := 3, va := 1, vb := 2, td := 1, ts := 1, cnt := 0, sum := true }, State.reset.dev, (by decide +kernel)⟩⟩

theorem witness_ScaleFormat :
    ∃ (e : Nat), e ≤ 0xFE :=
  ⟨3, (by decide +kernel)⟩

end Sys2Proof.Tests
end

section
/-! PROOFS. The tokens of a collective (13 R363, R369 to R371; 14 R389; 16 R429, R433): what each of them does to a device, one lemma per outcome,
and from these the statement on them. -/
namespace Sys2Proof.Machine

/-! ### READY: `Device.tryReady` once the stages are settled -/

section Ready
variable {d e : Device} {j n : Nat} {u : JobSetup} (he : d.settleAll j = e)
include he

/-- What this member and those below it bring to the step. -/
abbrev broughtShare (e : Device) (j n : Nat) : StepShare := (((e.jobAt j).stepAt n).map (stepShare (e.jobAt j))).getD {}

/-- READY of every child has come. -/
abbrev childrenReady (e : Device) (u : JobSetup) (j n : Nat) : Bool := (childrenOf u.topo).all (fun c => (e.jobAt j).ready.contains (n, c))

theorem tryReady_of_root (hu : (e.jobAt j).setup = some u) (hr : deviceReady e j n = true) (hc : childrenReady e u j n = true)
    (hp : (u.topo.parent.bind (fun p => u.topo.peers[p]?)) = none) :
    d.tryReady j n = (e.forwardCommit j n (rootLayers e j n) (broughtShare e j n)).applyCommit j n (rootLayers e j n) := by
  simp only [Device.tryReady, he, hu, hr, hc, hp, Bool.and_self, if_true]

theorem tryReady_of_member {p : Peer} (hu : (e.jobAt j).setup = some u) (hr : deviceReady e j n = true) (hc : childrenReady e u j n = true)
    (hp : (u.topo.parent.bind (fun p => u.topo.peers[p]?)) = some p) :
    d.tryReady j n = if (e.jobAt j).steps.any (fun x => x.num == n && x.readySent) then e
      else (e.updStep j n (fun x => { x with readySent := true })).sendToken j p.bundId (.ready p.slot n (broughtShare e j n)) := by
  simp only [Device.tryReady, he, hu, hr, hc, hp, Bool.and_self, if_true]

theorem tryReady_of_unready (hu : (e.jobAt j).setup = some u) (h : deviceReady e j n = false ∨ childrenReady e u j n = false) :
    d.tryReady j n = e := by
  have hboth : (deviceReady e j n && childrenReady e u j n) = false := Bool.and_eq_false_iff.mpr h
  simp only [Device.tryReady, he, hu, hboth, Bool.false_eq_true, if_false]

theorem tryReady_of_no_program (hu : (e.jobAt j).setup = none) : d.tryReady j n = e := by
  simp only [Device.tryReady, he, hu]

end Ready

/-! ### The tokens of the tree and of a phase -/

section Tokens
variable {src n layers param peer : Nat} {j : Fin 16} {u : JobSetup} {share : StepShare} {failed : Option Nat} {d e : Device}

theorem takes_stepReady (h : d.tryReady j n = e) : Takes (.stepReady j n) d e := fun q => by
  change execStepReady j n _ = _
  simp only [execStepReady, onDev, h]

theorem takes_collReady_from_child (hu : (d.jobAt j).setup = some u)
    (h : ((childrenOf u.topo).contains src && !(d.jobAt j).ready.contains (n, src)) = true) :
    Takes (.collReady src j n share) d
      (((d.updJob j (fun q => { q with ready := q.ready ++ [(n, src)] })).takeShare j n src share).tryReady j n) := fun q => by
  change execCollReady src j n share _ = _
  simp only [execCollReady, onDev, hu, h, if_true]

/-- A READY from a device that is no child, or a second one, counts for nothing. -/
theorem takes_collReady_ignored
    (h : ∀ u, (d.jobAt j).setup = some u → ((childrenOf u.topo).contains src && !(d.jobAt j).ready.contains (n, src)) = false) :
    Takes (.collReady src j n share) d d := fun q => by
  change execCollReady src j n share _ = _
  cases hu : (d.jobAt j).setup with
  | none => simp only [execCollReady, onDev, hu]
  | some u => simp only [execCollReady, onDev, hu, h u hu, Bool.false_eq_true, if_false]

/-- COMMIT(n) comes from the parent, for the oldest step whose READY has left, while no line of the shard is held. -/
abbrev commitCounts (d : Device) (u : JobSetup) (j src n : Nat) : Bool :=
  (u.topo.parent.bind (fun p => u.topo.peers[p]?)).map Peer.bundId == some src && (d.jobAt j).steps.head?.any (fun x => x.num == n && x.readySent)
    && !(d.jobAt j).shardHeld d

theorem takes_collCommit_applied (hu : (d.jobAt j).setup = some u) (h : commitCounts d u j src n = true) :
    Takes (.collCommit src j n layers share) d
      (((d.forwardCommit j n layers share).updStep j n (fun st => { st with total := some share })).applyCommit j n layers) := fun q => by
  change execCollCommit src j n layers share _ = _
  simp only [execCollCommit, onDev, hu, h, if_true]

theorem takes_collCommit_ignored (h : ∀ u, (d.jobAt j).setup = some u → commitCounts d u j src n = false) :
    Takes (.collCommit src j n layers share) d d := fun q => by
  change execCollCommit src j n layers share _ = _
  cases hu : (d.jobAt j).setup with
  | none => simp only [execCollCommit, onDev, hu]
  | some u => simp only [execCollCommit, onDev, hu, h u hu, Bool.false_eq_true, if_false]

theorem takes_collPhaseToken : Takes (.collPhaseToken src j n param) d
    { d with fab := { d.fab with waits := d.fab.waits.filter (fun w => !(w.job == j.val && w.step == n && w.peer == src)) } } :=
  fun _ => rfl

/-! ### The ending of a collective -/

/-- COLL abort counts: it comes from a peer, for a step that this member has not committed. -/
abbrev abortCounts (d : Device) (j src n : Nat) : Bool :=
  isPeer d j src && ((d.jobAt j).started || (d.jobAt j).state == .recovering) && (d.jobAt j).commit.step.all (fun c => decide (c < n))

theorem takes_collAbort_counted (h : abortCounts d j src n = true) :
    Takes (.collAbort src j n failed) d (d.haltJob j n stTimeout failed.toList failed.toList) := fun q => by
  change execCollAbort src j n failed _ = _
  simp only [execCollAbort, onDev, h, if_true]

theorem takes_collAbort_ignored (h : abortCounts d j src n = false) : Takes (.collAbort src j n failed) d d := fun q => by
  change execCollAbort src j n failed _ = _
  simp only [execCollAbort, onDev, h, Bool.false_eq_true, if_false]

/-- The wait is on another Sluice of this device. -/
abbrev waitsOnSelf (d : Device) (j peer : Nat) : Bool := d.fab.selfId == some peer && sluiceWaits d j

/-- The member that a wait names as failed: none where the device waits on itself. -/
abbrev waitedMember (d : Device) (j peer : Nat) : Option Nat := if waitsOnSelf d j peer then none else some peer

/-- The wait ends the step of a job that runs or is suspended. -/
abbrev timeoutEndsStep (d : Device) (j n peer : Nat) : Bool :=
  (isPeer d j peer || waitsOnSelf d j peer) && (d.jobAt j).started && (d.jobAt j).steps.any (fun x => x.num == n) && !holdsOff d j n peer

/-- The wait names one more failed member of a job that recovers. -/
abbrev timeoutNamesMember (d : Device) (j n peer : Nat) : Bool :=
  isPeer d j peer && (d.jobAt j).state == .recovering && (d.jobAt j).steps.any (fun x => x.num == n) && !holdsOff d j n peer

theorem not_started_of_recovering {q : JobSlot} (h : q.state = .recovering) : q.started = false := by
  simp [JobSlot.started, h]

/-- A job that recovers is not one whose step a timeout ends. -/
theorem timeoutEndsStep_of_timeoutNamesMember (h : timeoutNamesMember d j n peer = true) : timeoutEndsStep d j n peer = false := by
  simp only [timeoutNamesMember, Bool.and_eq_true, beq_iff_eq] at h
  obtain ⟨⟨⟨-, hrec⟩, -⟩, -⟩ := h
  simp only [timeoutEndsStep, not_started_of_recovering hrec, Bool.and_false, Bool.false_and]

theorem takes_collectiveTimeout_ends (hb : busyStart d j = none) (h : timeoutEndsStep d j n peer = true) :
    Takes (.collectiveTimeout j n peer) d ((d.tokenAll j (fun s => .abort s n stTimeout (waitedMember d j peer))).haltJob j n stTimeout
      (waitedMember d j peer).toList (waitedMember d j peer).toList) := fun q => by
  change execCollectiveTimeout j n peer _ = _
  simp only [execCollectiveTimeout, onDev, hb, h, if_true]

theorem takes_collectiveTimeout_names (hb : busyStart d j = none) (h : timeoutNamesMember d j n peer = true) :
    Takes (.collectiveTimeout j n peer) d (d.haltJob j n stTimeout [peer] [peer]) := fun q => by
  have hends := timeoutEndsStep_of_timeoutNamesMember h
  change execCollectiveTimeout j n peer _ = _
  simp only [execCollectiveTimeout, onDev, hb, hends, h, Bool.false_eq_true, if_false, if_true]

theorem takes_collectiveTimeout_ignored (hb : busyStart d j = none) (hends : timeoutEndsStep d j n peer = false)
    (hnames : timeoutNamesMember d j n peer = false) : Takes (.collectiveTimeout j n peer) d d := fun q => by
  change execCollectiveTimeout j n peer _ = _
  simp only [execCollectiveTimeout, onDev, hb, hends, hnames, Bool.false_eq_true, if_false]

theorem takes_collectiveTimeout_in_exchange {m : Nat} (hb : busyStart d j = some m) : Takes (.collectiveTimeout j n peer) d
    (if (d.jobAt j).partner.tokens.any (fun t => t.1 == peer) then d else (d.endExchange j).finish m 0x0806 0 []) := fun q => by
  change execCollectiveTimeout j n peer _ = _
  simp only [execCollectiveTimeout, onDev, hb]

/-! ### HOLD -/

theorem takes_hold_restarts (hp : isPeer d j src = true) (hn : (d.jobAt j).steps.head?.any (fun x => x.num == n) = true) :
    Takes (.hold src j n) d { d with fab := { d.fab with
      waits := d.fab.waits.filter (fun w => !(w.job == j.val && w.peer == src)) ++ [{ job := j, step := n, peer := src, since := d.tide.now }] } } :=
  fun q => by
  change execHold src j n _ = _
  simp only [execHold, onDev, hp, hn, Bool.and_self, if_true]

theorem takes_hold_ignored (h : isPeer d j src = false ∨ (d.jobAt j).steps.head?.any (fun x => x.num == n) = false) :
    Takes (.hold src j n) d d := fun q => by
  change execHold src j n _ = _
  simp only [execHold, onDev, Bool.and_eq_false_iff.mpr h, Bool.false_eq_true, if_false]

theorem takes_holdSend_held {st : Step} (hst : (d.jobAt j).steps.find? (fun x => x.num == n) = some st) (hrun : (d.jobAt j).state = .running)
    (hin : inputWaits d j st = true) : Takes (.holdSend j n) d (d.tokenAll j (fun s => .hold s n)) := fun q => by
  change execHoldSend j n _ = _
  simp only [execHoldSend, onDev, hst, hrun, hin, beq_self_eq_true, Bool.and_self, if_true]

theorem takes_holdSend_ignored
    (h : ∀ st, (d.jobAt j).steps.find? (fun x => x.num == n) = some st → (d.jobAt j).state ≠ .running ∨ inputWaits d j st = false) :
    Takes (.holdSend j n) d d := fun q => by
  change execHoldSend j n _ = _
  cases hst : (d.jobAt j).steps.find? (fun x => x.num == n) with
  | none => simp only [execHoldSend, onDev, hst]
  | some st =>
    have hno : ((d.jobAt j).state == .running && inputWaits d j st) = false :=
      Bool.and_eq_false_iff.mpr ((h st hst).imp_left beq_false_of_ne)
    simp only [execHoldSend, onDev, hst, hno, Bool.false_eq_true, if_false]

end Tokens

/-- Settles O42: each clause is one outcome above. -/
theorem collectiveTokens : Obligations.CollectiveTokens := by
  unfold Obligations.CollectiveTokens
  refine ⟨?stepReadyRoot, ?stepReadyMember, ?stepReadyNot, ?stepReadyNoProgram, ?collReady, ?collReadyNot, ?collCommit, ?collCommitNot,
    ?phaseToken, ?abort, ?abortNot, ?timeoutEnds, ?timeoutNames, ?timeoutNot, ?timeoutStart, ?hold, ?holdNot, ?holdSend, ?holdSendNot⟩
  case stepReadyRoot => exact fun _ _ _ _ _ he hu hr hc hp => takes_stepReady (tryReady_of_root he hu hr hc hp)
  case stepReadyMember => exact fun _ _ _ _ _ _ he hu hr hc hp => takes_stepReady (tryReady_of_member he hu hr hc hp)
  case stepReadyNot => exact fun _ _ _ _ _ he hu h => takes_stepReady (tryReady_of_unready he hu h)
  case stepReadyNoProgram => exact fun _ _ _ _ he hu => takes_stepReady (tryReady_of_no_program he hu)
  case collReady => exact fun _ _ _ _ _ _ => takes_collReady_from_child
  case collReadyNot => exact fun _ _ _ _ _ => takes_collReady_ignored
  case collCommit => exact fun _ _ _ _ _ _ _ => takes_collCommit_applied
  case collCommitNot => exact fun _ _ _ _ _ _ => takes_collCommit_ignored
  case phaseToken => exact fun _ _ _ _ _ => takes_collPhaseToken
  case abort => exact fun _ _ _ _ _ => takes_collAbort_counted
  case abortNot => exact fun _ _ _ _ _ => takes_collAbort_ignored
  case timeoutEnds => exact fun _ _ _ _ => takes_collectiveTimeout_ends
  case timeoutNames => exact fun _ _ _ _ => takes_collectiveTimeout_names
  case timeoutNot => exact fun _ _ _ _ => takes_collectiveTimeout_ignored
  case timeoutStart => exact fun _ _ _ _ _ => takes_collectiveTimeout_in_exchange
  case hold => exact fun _ _ _ _ => takes_hold_restarts
  case holdNot => exact fun _ _ _ _ => takes_hold_ignored
  case holdSend => exact fun _ _ _ _ => takes_holdSend_held
  case holdSendNot => exact fun _ _ _ => takes_holdSend_ignored

end Sys2Proof.Machine
end

section
/-! PROOFS. Codes packed into a vector register and read back (02 R45; 05 R137, R138). -/
namespace Sys2Proof.Machine

/-! ### Bytes of one code -/

@[simp] theorem toLE_length (n : Nat) : ∀ v, (toLE n v).length = n := by
  induction n with
  | zero => exact fun _ => rfl
  | succ n ih => exact fun v => congrArg (· + 1) (ih (v / 256))

/-- A value read from its own bytes is that value modulo 2 to their width. -/
theorem ofLE_toLE (n : Nat) : ∀ v, ofLE (toLE n v) = v % 256 ^ n := by
  induction n with
  | zero => intro v; simp [toLE, ofLE, Nat.mod_one]
  | succ n ih => intro v; rw [toLE, ofLE, ih, Nat.mod_mod, Nat.pow_succ', Nat.mod_mul]

/-- A read takes each byte modulo 256. -/
theorem ofLE_map_mod (bs : List Nat) : ofLE (bs.map (· % 256)) = ofLE bs := by
  induction bs with
  | nil => rfl
  | cons b r ih => simp only [List.map_cons, ofLE, ih, Nat.mod_mod]

/-! ### Packed codes: how many bytes they take -/

theorem ceilDiv_add_self (n : Nat) {k : Nat} (hk : 0 < k) : ceilDiv (n + k) k = ceilDiv n k + 1 := by
  rw [ceilDiv, ceilDiv, if_neg hk.ne', if_neg hk.ne', show n + k + k - 1 = n + k - 1 + k by omega, Nat.add_div_right _ hk]

theorem pack4_length (cs : List Nat) : (pack4 cs).length = ceilDiv cs.length 2 := by
  induction cs using pack4.induct with
  | case1 | case2 a => simp [pack4, ceilDiv]
  | case3 a b r ih => exact (congrArg (· + 1) ih).trans (ceilDiv_add_self r.length Nat.two_pos).symm

theorem pack6_length (cs : List Nat) : (pack6 cs).length = 3 * ceilDiv cs.length 4 := by
  induction cs using pack6.induct with
  | case1 | case2 a | case3 a b | case4 a b c => simp [pack6, ceilDiv]
  | case5 a b c d r ih =>
    have hstep : ceilDiv (a :: b :: c :: d :: r).length 4 = ceilDiv r.length 4 + 1 := ceilDiv_add_self r.length (by decide)
    rw [pack6, List.length_append, toLE_length, ih, hstep]
    omega

theorem flatten_toLE_length (k : Nat) (cs : List Nat) : (cs.map (toLE k)).flatten.length = cs.length * k := by
  induction cs with
  | nil => simp
  | cons a r ih => simp only [List.map_cons, List.flatten_cons, List.length_append, toLE_length, ih, List.length_cons]; ring

/-- The packed bytes of codes are as many as the format takes (02 R45). -/
theorem packCodes_length (f : Fmt) (cs : List Nat) : (packCodes f cs).length = packedBytes f cs.length := by
  cases f
  case e2m1 | int4 => exact pack4_length cs
  case e2m3 | e3m2 => exact pack6_length cs
  all_goals exact flatten_toLE_length _ cs

/-! ### Packed codes: what each element reads as -/

@[simp] theorem nthD_nil {α : Type} (d : α) (i : Nat) : nthD d [] i = d := rfl
@[simp] theorem nthD_cons_zero {α : Type} (d a : α) (l : List α) : nthD d (a :: l) 0 = a := rfl
@[simp] theorem nthD_cons_succ {α : Type} (d a : α) (l : List α) (i : Nat) : nthD d (a :: l) (i + 1) = nthD d l i := rfl

theorem nthD_append_add {α : Type} (d : α) (l r : List α) (i : Nat) : nthD d (l ++ r) (l.length + i) = nthD d r i := by
  induction l with
  | nil => simp
  | cons a l ih => rw [List.length_cons, Nat.add_right_comm]; exact ih

/-- The n bytes of a list from place i on. -/
def bytesFrom (bs : List Nat) (i n : Nat) : List Nat := (List.range n).map (fun j => nthD 0 bs (i + j))

theorem bytesFrom_append_left (l r : List Nat) : bytesFrom (l ++ r) 0 l.length = l := by
  refine List.ext_getElem (by simp [bytesFrom]) (fun j _ hj => ?_)
  simp [bytesFrom, nthD, List.getElem?_append_left hj, hj]

theorem bytesFrom_append_add (l r : List Nat) (i n : Nat) : bytesFrom (l ++ r) (l.length + i) n = bytesFrom r i n := by
  simp only [bytesFrom, Nat.add_assoc, nthD_append_add]

/-- Nibble i of packed nibbles. -/
theorem nibble_pack4 (cs : List Nat) : ∀ i, nthD 0 (pack4 cs) (i / 2) / 16 ^ (i % 2) % 16 = nthD 0 cs i % 16 := by
  induction cs using pack4.induct with
  | case1 => simp [pack4]
  | case2 a =>
    intro i
    match i with
    | 0 => simp [pack4]
    | 1 => simp [pack4]
    | i + 2 => simp [pack4]
  | case3 a b r ih =>
    intro i
    match i with
    | 0 => simp [pack4]
    | 1 => simp [pack4]; omega
    | i + 2 => simpa [pack4, Nat.add_mod_right] using ih i

/-- The 24 bits of a group of four 6-bit codes. -/
def sextets (a b c d : Nat) : Nat := a % 64 + 64 * (b % 64) + 4096 * (c % 64) + 262144 * (d % 64)

theorem pack6_one (a : Nat) : pack6 [a] = toLE 3 (sextets a 0 0 0) ++ [] := by simp [pack6, sextets]
theorem pack6_two (a b : Nat) : pack6 [a, b] = toLE 3 (sextets a b 0 0) ++ [] := by simp [pack6, sextets]
theorem pack6_three (a b c : Nat) : pack6 [a, b, c] = toLE 3 (sextets a b c 0) ++ [] := by simp [pack6, sextets]

/-- The 6-bit code at place i of packed bytes. -/
abbrev sextetAt (bs : List Nat) (i : Nat) : Nat := ofLE (bytesFrom bs (3 * (i / 4)) 3) / 64 ^ (i % 4) % 64

theorem sextetAt_first (a b c d : Nat) (bs : List Nat) {i : Nat} (hi : i < 4) :
    sextetAt (toLE 3 (sextets a b c d) ++ bs) i = nthD 0 [a, b, c, d] i % 64 := by
  have hfit : sextets a b c d < 256 ^ 3 := by unfold sextets; omega
  have hbytes : bytesFrom (toLE 3 (sextets a b c d) ++ bs) 0 3 = toLE 3 (sextets a b c d) := bytesFrom_append_left _ bs
  rw [sextetAt, Nat.div_eq_of_lt hi, Nat.mul_zero, hbytes, ofLE_toLE, Nat.mod_eq_of_lt hfit, Nat.mod_eq_of_lt hi, sextets]
  match i, hi with
  | 0, _ | 1, _ | 2, _ | 3, _ => simp only [nthD_cons_succ, nthD_cons_zero, Nat.reducePow]; omega

theorem sextetAt_pack6 (cs : List Nat) : ∀ i, i < cs.length → sextetAt (pack6 cs) i = nthD 0 cs i % 64 := by
  induction cs using pack6.induct with
  | case1 => exact fun _ hi => absurd hi (Nat.not_lt_zero _)
  | case2 a =>
    intro i hi
    match i, hi with
    | 0, _ => rw [pack6_one, sextetAt_first a 0 0 0 [] (by decide)]; rfl
  | case3 a b =>
    intro i hi
    match i, hi with
    | 0, _ | 1, _ => rw [pack6_two, sextetAt_first a b 0 0 [] (by decide)]; rfl
  | case4 a b c =>
    intro i hi
    match i, hi with
    | 0, _ | 1, _ | 2, _ => rw [pack6_three, sextetAt_first a b c 0 [] (by decide)]; rfl
  | case5 a b c d r ih =>
    intro i hi
    match i, hi with
    | 0, _ | 1, _ | 2, _ | 3, _ => rw [pack6, ← sextets, sextetAt_first a b c d _ (by decide)]; rfl
    | i + 4, hi =>
      have hplace : 3 * ((i + 4) / 4) = (toLE 3 (sextets a b c d)).length + 3 * (i / 4) := by rw [toLE_length]; omega
      rw [pack6, ← sextets, sextetAt, hplace, bytesFrom_append_add, Nat.add_mod_right]
      exact ih i (by simpa using hi)

/-- The k bytes of code i among codes of k bytes each. -/
theorem bytesFrom_flatten_toLE (k : Nat) (cs : List Nat) :
    ∀ i, i < cs.length → bytesFrom (cs.map (toLE k)).flatten (k * i) k = toLE k (nthD 0 cs i) := by
  induction cs with
  | nil => exact fun _ hi => absurd hi (Nat.not_lt_zero _)
  | cons a r ih =>
    intro i hi
    rw [List.map_cons, List.flatten_cons]
    match i, hi with
    | 0, _ => simpa only [toLE_length, Nat.mul_zero, nthD_cons_zero] using bytesFrom_append_left (toLE k a) (r.map (toLE k)).flatten
    | i + 1, hi =>
      have hplace : k * (i + 1) = (toLE k a).length + k * i := by rw [toLE_length, Nat.mul_succ, Nat.add_comm]
      rw [hplace, bytesFrom_append_add]
      exact ih i (by simpa using hi)

/-! ### An element read from bytes that hold packed codes -/

/-- Bytes that a memory x holds give the value of the bytes written there. -/
theorem ofLE_held {x : Nat → Nat} {bs : List Nat} {a k : Nat} (hx : ∀ j < k, x (a + j) = nthD 0 bs (a + j) % 256) :
    ofLE ((List.range k).map (fun j => x (a + j))) = ofLE (bytesFrom bs a k) := by
  rw [← ofLE_map_mod (bytesFrom bs a k), bytesFrom, List.map_map]
  exact congrArg ofLE (List.map_congr_left (fun j hj => hx j (List.mem_range.mp hj)))

section Held
variable {x : Nat → Nat} {cs : List Nat} {i : Nat} (hi : i < cs.length)
include hi

theorem nibble_of_held (hx : ∀ b < ceilDiv cs.length 2, x b = nthD 0 (pack4 cs) b % 256) :
    x (i / 2) >>> (4 * (i % 2)) % 16 = nthD 0 cs i % 16 := by
  have hin : i / 2 < ceilDiv cs.length 2 := by rw [ceilDiv, if_neg (by decide)]; omega
  rw [← nibble_pack4, hx _ hin, Nat.shiftRight_eq_div_pow, Nat.pow_mul]
  rcases Nat.mod_two_eq_zero_or_one i with h | h <;> rw [h] <;> omega

theorem sextet_of_held (hx : ∀ b < 3 * ceilDiv cs.length 4, x b = nthD 0 (pack6 cs) b % 256) :
    ofLE ((List.range 3).map (fun j => x (3 * (i / 4) + j))) >>> (6 * (i % 4)) % 64 = nthD 0 cs i % 64 := by
  have hin : 3 * (i / 4) + 3 ≤ 3 * ceilDiv cs.length 4 := by rw [ceilDiv, if_neg (by decide)]; omega
  rw [← sextetAt_pack6 cs i hi, ofLE_held (fun j hj => hx _ (by omega)), Nat.shiftRight_eq_div_pow, Nat.pow_mul]

theorem bytes_of_held (k : Nat) (hx : ∀ b < cs.length * k, x b = nthD 0 (cs.map (toLE k)).flatten b % 256) :
    ofLE ((List.range k).map (fun j => x (k * i + j))) = nthD 0 cs i % 256 ^ k := by
  have hin : k * i + k ≤ cs.length * k := by rw [← Nat.mul_succ, Nat.mul_comm]; exact Nat.mul_le_mul_right k hi
  rw [ofLE_held (fun j hj => hx _ (by omega)), bytesFrom_flatten_toLE k cs i hi, ofLE_toLE]

/-- An element read from the bytes of packed codes is its code modulo 2 to the format's width (02 R45). -/
theorem unpackAt_of_held (f : Fmt) (hx : ∀ b < packedBytes f cs.length, x b = nthD 0 (packCodes f cs) b % 256) :
    unpackAt f x i = nthD 0 cs i % 2 ^ f.width := by
  cases f
  case e2m1 | int4 => exact nibble_of_held hi hx
  case e2m3 | e3m2 => exact sextet_of_held hi hx
  case fp32 | int32 => exact bytes_of_held hi 4 hx
  case bf16 | fp16 | int16 => exact bytes_of_held hi 2 hx
  case e4m3 | e5m2 | int8 | e8m0 =>
    have hin : i < cs.length * 1 := by omega
    have hbyte : x i % 256 = nthD 0 cs i % 256 ^ 1 := by simpa [ofLE] using bytes_of_held hi 1 hx
    have hlt : x i < 256 := hx i hin ▸ Nat.mod_lt _ (by decide)
    exact (Nat.mod_eq_of_lt hlt).symm.trans hbyte

end Held

/-! ### The register file -/

theorem bmGet_vwrite_in (q : Pan) (r : Nat) (f : Fmt) (cs : List Nat) {b : Nat} (hb : b < packedBytes f cs.length) :
    bmGet (q.vwrite r f cs).vec.regs (vKey r b) = nthD 0 (packCodes f cs) b % 256 := by
  have hlen : b < (packCodes f cs).length := packCodes_length f cs ▸ hb
  rw [nthD, List.getElem?_eq_getElem hlen]
  exact bmGet_bmWrite_in _ q.vec.regs (vKey r 0) b hlen

theorem bmGet_vwrite_out (q : Pan) (r s : Nat) (f : Fmt) (cs : List Nat) {b : Nat}
    (h : vKey s b < vKey r 0 ∨ vKey r 0 + packedBytes f cs.length ≤ vKey s b) :
    bmGet (q.vwrite r f cs).vec.regs (vKey s b) = bmGet q.vec.regs (vKey s b) :=
  bmGet_bmWrite_out _ _ _ _ (packCodes_length f cs ▸ h)

theorem velem_vwrite (q : Pan) (r : Nat) (f : Fmt) (cs : List Nat) {i : Nat} (hi : i < cs.length) :
    (q.vwrite r f cs).velem r f i = nthD 0 cs i % 2 ^ f.width :=
  unpackAt_of_held hi f (fun _ hb => bmGet_vwrite_in q r f cs hb)

/-- Settles O17: the bytes written are the packed codes, and they end before the next register. -/
theorem vectorRegisterReadBack : Obligations.VectorRegisterReadBack := by
  unfold Obligations.VectorRegisterReadBack
  refine ⟨fun q r f cs i _ hi => velem_vwrite q r f cs hi, fun q r s b f cs hfit hb h => bmGet_vwrite_out q r s f cs ?_⟩
  unfold vKey
  omega

end Sys2Proof.Machine
end

section
/-! PROOFS. The scale format E8M0 (02 R51). -/
namespace Sys2Proof.Machine

theorem decodeVal_e8m0 (e : Nat) : decodeVal .e8m0 e = if e % 256 = 0xFF then .nan false else .fin false 1 (((e % 256 : Nat) : Int) - 127) := rfl

/-- Settles O59: a code is a NaN or a power of two with a positive sign. -/
theorem scaleFormat : Obligations.ScaleFormat := by
  unfold Obligations.ScaleFormat
  refine ⟨fun e he => ?value, ⟨rfl, rfl⟩, fun e => ?noZeroNoSign⟩
  case value => rw [decodeVal_e8m0, Nat.mod_eq_of_lt (by omega), if_neg (by omega)]
  case noZeroNoSign =>
    rw [decodeVal_e8m0]
    split <;> exact ⟨rfl, rfl⟩

end Sys2Proof.Machine
end

section
/-! PROOFS. A vector instruction that runs (05 R139 to R145, R152, R153, R157; 17 R466): what its work on the pan leaves, said once for every
instruction that changes its own pan alone, and from it the statements on the floating-point lanes, on comparisons and functions, and on the
instructions that rearrange and convert. -/
namespace Sys2Proof.Machine

/-! ### The pan core stands still under the work of a vector instruction -/

@[simp] theorem Pan.summarise_core (q : Pan) (on : Bool) (f : Fmt) (cs : List Nat) : (q.summarise on f cs).core = q.core := by
  unfold Pan.summarise
  split <;> rfl

@[simp] theorem Pan.vdone_core (q : Pan) (v : VInsn) (f : Fmt) (cs : List Conv) : (q.vdone v f cs).core = q.core := by
  rw [Pan.vdone, Pan.summarise_core]
  rfl

/-- Recording conversions changes counts and capture slots alone. -/
theorem foldl_record_core (sel : AmaxSel) (f : Fmt) (ws : List (Val × Conv)) :
    ∀ q : Pan, (ws.foldl (fun r w => r.record sel w.1 w.2 f) q).core = q.core := by
  induction ws with
  | nil => exact fun _ => rfl
  | cons w ws ih => exact fun q => ih (q.record sel w.1 w.2 f)

/-! ### A vector instruction in its segment -/

section Ready
variable {p : Fin 64} {k : VKind} {v : VInsn} {d : Device} {c : Instr}

theorem vRun_of_ready (h : VectorReady d p k v) (body : Pan → Nat → PRes) :
    vRun d p k v body = body (d.panAt p) (vCount v (d.panAt p)) := by
  obtain ⟨-, hskip, hfault⟩ := h
  simp only [vRun, hfault, hskip, bne_self_eq_false, Bool.and_false, Bool.false_eq_true, if_false]

/-- A vector instruction whose work changes its own pan, the core apart, completes: the pc moves 8 bytes on and the segment notes it. -/
theorem runLane_of_ready (h : VectorReady d p k v) {f : Device → PRes} {g : Pan → Pan} (hcore : (g (d.panAt p)).core = (d.panAt p).core)
    (hf : f d = .ok (d.updPan p g)) : d.runLane p f = d.updPan p (fun q => ((g q).setPc (q.pc + 8)).logStep) := by
  obtain ⟨⟨hready, hfirst⟩, hskip, -⟩ := h
  have hpc : (g (d.panAt p)).pc = (d.panAt p).pc := congrArg (fun x => x.pc.toNat) hcore
  have hseg : (g (d.panAt p)).core.segNo = (d.panAt p).core.segNo := congrArg (fun x => x.segNo) hcore
  rw [Device.runLane, hready, hskip, inSegment_first hfirst, hf]
  simp only [vNext, next, Device.updPan_updPan, beq_self_eq_true, Bool.and_self, if_true, settle, id]
  rw [← Device.updPan_const, ← Device.updPan_const (f := fun q => ((g q).setPc (q.pc + 8)).logStep)]
  simp only [hpc, hseg, Pan.setPc_segNo, if_true]

/-- The answer of every vector instruction whose work, on n elements counted, is `g · n` on its own pan. -/
theorem takes_of_work (g : Pan → Nat → Pan) (hcore : ∀ q n, (g q n).core = q.core)
    (hexec : ∀ s, exec c s = onDev s (fun d => d.runLane p (fun d => vRun d p k v (fun q n => .ok (d.updPan p (fun _ => g q n))))))
    (h : VectorReady d p k v) : Takes c d (d.updPan p (fun q => ((g q (vCount v q)).setPc (q.pc + 8)).logStep)) := fun s => by
  have hf : vRun d p k v (fun q n => .ok (d.updPan p (fun _ => g q n))) = .ok (d.updPan p (fun q => g q (vCount v q))) := by
    rw [vRun_of_ready h, Device.updPan_const (f := fun q => g q (vCount v q))]
  rw [hexec, onDev, runLane_of_ready (f := fun d => vRun d p k v (fun q n => .ok (d.updPan p (fun _ => g q n)))) h (hcore _ _) hf]

/-- The answer of every vector instruction that writes codes into VD and does nothing else. -/
theorem takes_vectorDone (cs : Pan → Nat → List Conv)
    (hexec : ∀ s, exec c s =
      onDev s (fun d => d.runLane p (fun d => vRun d p k v (fun q n => .ok (d.updPan p (fun _ => q.vdone v (vfD v) (cs q n)))))))
    (h : VectorReady d p k v) : Takes c d (vectorDone d p v (vfD v) (fun q => cs q (vCount v q))) :=
  takes_of_work (fun q n => q.vdone v (vfD v) (cs q n)) (fun q _ => q.vdone_core v _ _) hexec h

/-- The answer of every instruction of `vLanes`. -/
theorem takes_lanes (o : LaneOp) {ts : List Fmt} (hexec : ∀ s, exec c s = onDev s (fun d => d.runLane p (fun d => vLanes d p o ts v)))
    (h : VectorReady d p (.lanes ts) v) : Takes c d (vectorDone d p v (vfD v) (lanesOf v (vfD v) (lane o v (vfD v)))) :=
  takes_vectorDone (fun q n => (List.range n).map (fun i => lane o v (vfD v) (q.velem v.va (vfD v) i) (q.velem v.vb (vfD v) i)
    (q.velem v.vd (vfD v) i))) hexec h

end Ready

/-! ### Lane operations written with their cases apart -/

theorem lane_abs (v : VInsn) (f : Fmt) : lane .abs v f = fun a _ _ =>
    match (vIn v f a).1 with
    | .fin _ m e => vOut v f (.fin false m e, false) (vIn v f a).2
    | .inf _ => vOut v f (.inf false, false) (vIn v f a).2
    | .nan s => vOut v f (.nan s, false) (vIn v f a).2 := by
  funext a b c
  cases h : (vIn v f a).1 <;> simp only [lane, h]

theorem lane_cpsgn (v : VInsn) (f : Fmt) : lane .cpsgn v f = fun a b _ =>
    let x := vIn v f a; let y := vIn v f b
    match x.1 with
    | .fin _ m e => vOut v f (if y.1.isNan then .nan y.1.isSNan else .fin y.1.isNeg m e, false) (x.2 || y.2)
    | .inf _ => vOut v f (if y.1.isNan then .nan y.1.isSNan else .inf y.1.isNeg, false) (x.2 || y.2)
    | .nan s => vOut v f (.nan (s || y.1.isSNan), false) (x.2 || y.2) := by
  funext a b c
  cases h : (vIn v f a).1 <;> simp only [lane, h]

/-- Settles O9: each instruction is `vLanes` with its operation. -/
theorem floatLaneInstructions : Obligations.FloatLaneInstructions := by
  unfold Obligations.FloatLaneInstructions
  refine ⟨?vmov, ?vadd, ?vsub, ?vmul, ?vmin, ?vmax, ?vneg, ?vsel, ?vfma, ?vabs, ?vcpsgn⟩
  case vmov => exact fun _ _ _ => takes_lanes .mov (fun _ => rfl)
  case vadd => exact fun _ _ _ => takes_lanes .add (fun _ => rfl)
  case vsub => exact fun _ _ _ => takes_lanes .sub (fun _ => rfl)
  case vmul => exact fun _ _ _ => takes_lanes .mul (fun _ => rfl)
  case vmin => exact fun _ _ _ => takes_lanes .min (fun _ => rfl)
  case vmax => exact fun _ _ _ => takes_lanes .max (fun _ => rfl)
  case vneg => exact fun _ _ _ => takes_lanes .neg (fun _ => rfl)
  case vsel => exact fun _ _ _ => takes_lanes .sel (fun _ => rfl)
  case vfma => exact fun _ _ _ => takes_lanes .fma (fun _ => rfl)
  case vabs => exact fun _ v _ h => lane_abs v (vfD v) ▸ takes_lanes .abs (fun _ => rfl) h
  case vcpsgn => exact fun _ v _ h => lane_cpsgn v (vfD v) ▸ takes_lanes .cpsgn (fun _ => rfl) h

/-! ### Comparisons and functions -/

/-- One element of a quiet comparison (02 R57). -/
def compareLane (test : Val → Val → Bool) (v : VInsn) (f : Fmt) (a b : Nat) : Conv :=
  { code := b2n (!(vIn v f a).1.isNan && !(vIn v f b).1.isNan && test (vIn v f a).1 (vIn v f b).1)
    flags := { invalid := (vIn v f a).1.isSNan || (vIn v f b).1.isSNan, flush := (vIn v f a).2 || (vIn v f b).2 } }

/-- One element of a defined function: widened to FP32, given to the function, converted (05 R157). -/
def functionLane (fn : Nat → FnRes) (v : VInsn) (f : Fmt) (a : Nat) : Conv :=
  let x := vIn v f a
  let y := fn (match x.1 with | .nan s => if s then 0x7FA00000 else nan32 | z => fp32Of z)
  let c := convertVal (fp32V y.code) f .rne (vFtz v f) false 0
  { c with flags := c.flags.or { invalid := y.invalid, overflow := y.overflow, flush := x.2 } }

section Lanes
variable {p : Fin 64} {v : VInsn} {d : Device} {c : Instr}

theorem takes_compare (test : Val → Val → Bool) (hexec : ∀ s, exec c s = onDev s (fun d => d.runLane p (fun d => vCompare d p test v)))
    (h : VectorReady d p .cmp v) :
    Takes c d (vectorDone d p v (vfD v) (lanesOf v (vfS v) (fun a b _ => compareLane test v (vfS v) a b))) :=
  takes_vectorDone (fun q n => (List.range n).map (fun i => compareLane test v (vfS v) (q.velem v.va (vfS v) i) (q.velem v.vb (vfS v) i))) hexec h

theorem takes_function (fn : Nat → FnRes) (hexec : ∀ s, exec c s = onDev s (fun d => d.runLane p (fun d => vFunction d p fn v)))
    (h : VectorReady d p (.lanes vArith) v) :
    Takes c d (vectorDone d p v (vfD v) (lanesOf v (vfD v) (fun a _ _ => functionLane fn v (vfD v) a))) :=
  takes_vectorDone (fun q n => (List.range n).map (fun i => functionLane fn v (vfD v) (q.velem v.va (vfD v) i))) hexec h

end Lanes

/-- Settles O10: each instruction is `vCompare` with its test or `vFunction` with its function. -/
theorem comparisonAndFunctionInstructions : Obligations.ComparisonAndFunctionInstructions := by
  unfold Obligations.ComparisonAndFunctionInstructions
  refine ⟨?vcmpeq, ?vcmplt, ?vcmple, ?vexp2, ?vlog2, ?vrcp, ?vrsqrt, ?vsqrt, ?vtanh, ?vsigm, ?vgelu⟩
  case vcmpeq => exact fun _ _ _ => takes_compare eqVal (fun _ => rfl)
  case vcmplt => exact fun _ _ _ => takes_compare ltVal (fun _ => rfl)
  case vcmple => exact fun _ _ _ => takes_compare (fun a b => !ltVal b a) (fun _ => rfl)
  case vexp2 => exact fun _ _ _ => takes_function exp2Fn (fun _ => rfl)
  case vlog2 => exact fun _ _ _ => takes_function log2Fn (fun _ => rfl)
  case vrcp => exact fun _ _ _ => takes_function rcpFn (fun _ => rfl)
  case vrsqrt => exact fun _ _ _ => takes_function rsqrtFn (fun _ => rfl)
  case vsqrt => exact fun _ _ _ => takes_function sqrtFn (fun _ => rfl)
  case vtanh => exact fun _ _ _ => takes_function tanhFn (fun _ => rfl)
  case vsigm => exact fun _ _ _ => takes_function sigmFn (fun _ => rfl)
  case vgelu => exact fun _ _ _ => takes_function geluFn (fun _ => rfl)

/-! ### Rearranging and converting -/

/-- VPERM's signed indices, for n elements counted (05 R152). -/
def permIndices (v : VInsn) (q : Pan) (n : Nat) : List Int :=
  (List.range n).map (fun i => toSigned (permIndex (vfD v)).width (q.velem v.vb (permIndex (vfD v)) i))

/-- An index outside the n elements counted. -/
def permBad (n : Nat) (i : Int) : Bool := decide (i < 0) || decide ((n : Int) ≤ i)

/-- VPERM's work on its pan: the elements picked, and INDEX (05 R152, R153). -/
def permWork (v : VInsn) (q : Pan) (n : Nat) : Pan :=
  let r := q.vdone v (vfD v) ((permIndices v q n).map (fun i => { code := if permBad n i then 0 else q.velem v.va (vfD v) i.toNat }))
  { r with vec := { r.vec with index := r.vec.index || (permIndices v q n).any (permBad n) } }

/-- VCVT's conversion of element i with the value it converts (05 R145). -/
def cvtElem (v : VInsn) (q : Pan) (i : Nat) : Val × Conv :=
  let a := vIn v (vfS v) (q.velem v.va (vfS v) i)
  let m := (RMode.ofCode v.rmode).getD .rne
  let c := convertVal a.1 (vfD v) m (vFtz v (vfD v)) v.ovfSp (if m = .sr then q.srWord q.vec.tensor (q.vec.ebase + i) else 0)
  (a.1, { c with flags := c.flags.or (.fl a.2) })

/-- VCVT's work on its pan: every conversion recorded, then the codes written (05 R145; 10 R273). -/
def cvtWork (v : VInsn) (q : Pan) (n : Nat) : Pan :=
  let ws := (List.range n).map (cvtElem v q)
  (ws.foldl (fun r w => r.record q.sel w.1 w.2 (vfD v)) q).vdone v (vfD v) (ws.map Prod.snd)

theorem cvtWork_core (v : VInsn) (q : Pan) (n : Nat) : (cvtWork v q n).core = q.core := by
  rw [cvtWork, Pan.vdone_core, foldl_record_core]

/-- Settles O12: each instruction writes its codes into VD; VPERM sets INDEX besides, and VCVT records its conversions before. -/
theorem rearrangingAndConverting : Obligations.RearrangingAndConverting := by
  unfold Obligations.RearrangingAndConverting
  refine ⟨?vbcast, ?viota, ?vrev, ?vslidedn, ?vslideup, ?vperm, ?vcvt⟩
  case vbcast => exact fun _ v _ => takes_vectorDone (fun q n => List.replicate n { code := q.xreg v.va % 2 ^ (vfD v).width }) (fun _ => rfl)
  case viota => exact fun _ v _ => takes_vectorDone (fun _ n => (List.range n).map (fun i => { code := i % 2 ^ (vfD v).width })) (fun _ => rfl)
  case vrev =>
    exact fun _ v _ => takes_vectorDone (fun q n => (List.range n).map (fun i => { code := q.velem v.va (vfD v) (n - 1 - i) })) (fun _ => rfl)
  case vslidedn =>
    exact fun _ v _ => takes_vectorDone (fun q n => (List.range n).map (fun i =>
      { code := if i + q.xreg v.vb < n then q.velem v.va (vfD v) (i + q.xreg v.vb) else 0 })) (fun _ => rfl)
  case vslideup =>
    exact fun _ v _ => takes_vectorDone (fun q n => (List.range n).map (fun i =>
      { code := if q.xreg v.vb ≤ i then q.velem v.va (vfD v) (i - q.xreg v.vb) else 0 })) (fun _ => rfl)
  case vperm => exact fun _ v _ => takes_of_work (permWork v) (fun q _ => q.vdone_core v _ _) (fun _ => rfl)
  case vcvt => exact fun _ v _ => takes_of_work (cvtWork v) (cvtWork_core v) (fun _ => rfl)

end Sys2Proof.Machine
end

section
/-! PROOFS. VZBC, VFENCE, VLRD, VLXRD and VLPADD (03 R100, R101, R104, R105; 04 R131; 05 R143, R147, R149 to R151, R166, R169): what each answers
for each outcome, from what the lane makes of that outcome. -/
namespace Sys2Proof.Machine

/-! ### The outcomes of a vector instruction that is ready -/

section Outcomes
variable {p : Fin 64} {k : VKind} {v : VInsn} {d e : Device} {c : Instr} {f : Device → PRes}

theorem runLane_eq (h : VectorReady d p k v) : d.runLane p f = settle p (inSegment p false (fun d => vNext p (f d)) d) := by
  obtain ⟨⟨hready, -⟩, hskip, -⟩ := h
  simp only [Device.runLane, hready, hskip, beq_self_eq_true, Bool.and_self, if_true]

/-- Done, its stores to memory first (device e) and then its work g on the pan: the pc moves 8 bytes on and the segment notes it. -/
theorem takes_of_ok (hexec : ∀ s, exec c s = onDev s (fun d => d.runLane p f)) (h : VectorReady d p k v) {g : Pan → Pan}
    (he : e.panAt p = d.panAt p) (hcore : (g (d.panAt p)).core = (d.panAt p).core) (hf : f d = .ok (e.updPan p g)) :
    Takes c d (e.updPan p (fun q => ((g q).setPc (q.pc + 8)).logStep)) := fun s => by
  have hg : (g (e.panAt p)).core = (e.panAt p).core := he ▸ hcore
  have hpc : (g (e.panAt p)).pc = (e.panAt p).pc := congrArg (fun x => x.pc.toNat) hg
  have hseg : (g (e.panAt p)).core.segNo = (d.panAt p).core.segNo := by rw [hg, he]
  rw [hexec, onDev, runLane_eq h, inSegment_first h.1.2, hf]
  simp only [vNext, next, settle, Device.updPan_updPan, id]
  rw [← Device.updPan_const, ← Device.updPan_const (f := fun q => ((g q).setPc (q.pc + 8)).logStep)]
  simp only [hpc, hseg, Pan.setPc_segNo, if_true]

theorem takes_of_wait (hexec : ∀ s, exec c s = onDev s (fun d => d.runLane p f)) (h : VectorReady d p k v) (hf : f d = .wait e) :
    Takes c d e := fun s => by
  rw [hexec, onDev, runLane_eq h, inSegment_first h.1.2, hf]
  rfl

theorem takes_of_halt {cause : Cause} {st : Nat} (hexec : ∀ s, exec c s = onDev s (fun d => d.runLane p f)) (h : VectorReady d p k v)
    (hf : f d = .halt e cause st) : Takes c d (e.panFault p cause st) := fun s => by
  rw [hexec, onDev, runLane_eq h, inSegment_first h.1.2, hf]
  rfl

/-! ### The Ledger instructions wait for earlier descriptors -/

theorem lRun_of_busy (h : VectorReady d p k v) (hb : lentBusy d p v = true) (body : Pan → Nat → PRes) : lRun d p k v body = .wait d := by
  rw [lRun, vRun_of_ready h, hb, if_pos rfl]

theorem lRun_of_free (h : VectorReady d p k v) (hb : lentBusy d p v = false) (body : Pan → Nat → PRes) :
    lRun d p k v body = body (d.panAt p) (vCount v (d.panAt p)) := by
  rw [lRun, vRun_of_ready h, hb, if_neg Bool.false_ne_true]

end Outcomes

/-! ### VZBC and VFENCE -/

section Fields
variable {p : Fin 64} {v : VInsn} {d : Device}

/-- What VZBC stores for n elements counted: their compressed units (04 R131). -/
def zbcBytes (v : VInsn) (q : Pan) (n : Nat) : List Nat := (splitEvery 256 n (q.velems v.va (vfD v) n)).flatMap (zbcUnitBytes (vfD v))

/-- VZBC's work on the pan: INVALID for a signalling NaN among the codes, and their summary with the bytes written as SUM (05 R143, R147). -/
def zbcWork (v : VInsn) (cs out : List Nat) (q : Pan) : Pan :=
  let r := q.vflags (.inv (cs.any (fun c => (decodeVal (vfD v) c).isSNan)))
  { r with vec := { r.vec with vsum := { (summaryOf (vfD v) cs).1 with sum := out.length, sumHi := 0 } } }

theorem vZbc_of_aligned (h : VectorReady d p .zbc v) (ha : (d.panAt p).xreg v.vb % 4 = 0)
    (hh : (d.panAt p).holds ((d.panAt p).xreg v.vb) (zbcBytes v (d.panAt p) (vCount v (d.panAt p))).length = false) :
    vZbc d p v = .ok ((d.psWrite p ((d.panAt p).xreg v.vb) (zbcBytes v (d.panAt p) (vCount v (d.panAt p)))).updPan p
      (zbcWork v ((d.panAt p).velems v.va (vfD v) (vCount v (d.panAt p))) (zbcBytes v (d.panAt p) (vCount v (d.panAt p))))) := by
  unfold zbcBytes at hh
  simp only [vZbc, vRun_of_ready h, ha, hh, ne_eq, not_true_eq_false, and_false, Bool.false_eq_true, if_false]
  rfl

theorem vFence_of_ready (h : VectorReady d p .fence v) : vFence d p v = .ok (d.updPan p (fun q => q.setFlag (vIndex6 v))) :=
  vRun_of_ready h _

/-! ### VLRD, VLXRD and VLPADD -/

/-- One of the n entries named is in heritage mode (03 R104). -/
abbrev heritageNamed (v : VInsn) (q : Pan) (n : Nat) : Bool := (List.range n).any (fun i => (q.entry (lentAt v i).1 (lentAt v i).2).heritage.isSome)

/-- One of the n entries named is an attention entry (05 R150). -/
abbrev attentionNamed (v : VInsn) (q : Pan) (n : Nat) : Bool := (List.range n).any (fun i => (q.row (lentAt v i).1).attn)

theorem any_entries (v : VInsn) (q : Pan) (n : Nat) :
    ((List.range n).map (fun i => q.entry (lentAt v i).1 (lentAt v i).2)).any (fun e => e.heritage.isSome) = heritageNamed v q n :=
  List.any_map

/-- The elements made from the numbers below n, each worked on with its number. -/
theorem map_zipIdx_map_range {α β : Type} (n : Nat) (f : Nat → α) (g : α × Nat → β) :
    ((List.range n).map f).zipIdx.map g = (List.range n).map (fun i => g (f i, i)) := by
  apply List.ext_getElem <;> simp

/-- What VLRD reads from entry i: a heritage entry's accumulator, or a normal entry's write-back with the value it converts (05 R149). -/
def lrdElem (v : VInsn) (q : Pan) (i : Nat) : Option Val × Conv :=
  let m := (RMode.ofCode v.rmode).getD .rne
  let e := q.entry (lentAt v i).1 (lentAt v i).2
  match e.heritage with
  | some h => (none, { code := h.acc.getD 0 })
  | none =>
    let w := writeBackNormal e (.fin false 1 0) (.fin false 1 0) none (vfD v) m v.ovfSp (if m = .sr then q.srWord q.vec.tensor (q.vec.ebase + i) else 0)
    (some w.value, w.conv)

/-- VLRD's work on its pan: every conversion recorded, then the codes written (05 R149; 10 R273). -/
def lrdWork (v : VInsn) (q : Pan) (n : Nat) : Pan :=
  let ws := (List.range n).map (lrdElem v q)
  (ws.foldl (fun r w => match w.1 with | some x => r.record q.sel x w.2 (vfD v) | none => r) q).vdone v (vfD v) (ws.map Prod.snd)

theorem lrdWork_core (v : VInsn) (q : Pan) (n : Nat) : (lrdWork v q n).core = q.core := by
  rw [lrdWork, Pan.vdone_core]
  refine List.foldlRecOn (motive := fun r : Pan => r.core = q.core) _ _ rfl (fun r hr w _ => ?_)
  split
  · exact hr
  · exact hr

theorem vLrd_of_reads (h : VectorReady d p .lrd v) (hb : lentBusy d p v = false)
    (hf : vfD v = .fp32 ∨ heritageNamed v (d.panAt p) (vCount v (d.panAt p)) = false) :
    vLrd d p v = .ok (d.updPan p (fun q => lrdWork v q (vCount v q))) := by
  have hgo : ((vfD v != .fp32) && heritageNamed v (d.panAt p) (vCount v (d.panAt p))) = false := by
    rcases hf with hf | hf
    · rw [hf]
      rfl
    · rw [hf, Bool.and_false]
  rw [vLrd, lRun_of_free h hb, ← Device.updPan_const (f := fun q => lrdWork v q (vCount v q))]
  simp only [any_entries, hgo, map_zipIdx_map_range, Bool.false_eq_true, if_false]
  rfl

theorem vLrd_of_order (h : VectorReady d p .lrd v) (hb : lentBusy d p v = false)
    (hh : heritageNamed v (d.panAt p) (vCount v (d.panAt p)) = true) (hf : vfD v ≠ .fp32) : vLrd d p v = .halt d .order stHeritageOrder := by
  rw [vLrd, lRun_of_free h hb]
  simp only [any_entries, hh, bne_iff_ne.mpr hf, Bool.and_self, if_true]

/-- The codes VLXRD writes: the 19 words of each entry's full record (03 R101). -/
def lxrdCodes (v : VInsn) (q : Pan) (n : Nat) : List Conv :=
  (List.range n).flatMap (fun i => (fullRecord (q.entry (lentAt v i).1 (lentAt v i).2)).words.map (fun w => { code := w }))

theorem vLxrd_of_reads (h : VectorReady d p .lxrd v) (hb : lentBusy d p v = false)
    (hh : heritageNamed v (d.panAt p) (vCount v (d.panAt p)) = false) :
    vLxrd d p v = .ok (d.updPan p (fun q => q.vdone v .int32 (lxrdCodes v q (vCount v q)))) := by
  rw [vLxrd, lRun_of_free h hb, ← Device.updPan_const (f := fun q => q.vdone v .int32 (lxrdCodes v q (vCount v q)))]
  simp only [any_entries, hh, List.flatMap_map, Bool.false_eq_true, if_false]
  rfl

theorem vLxrd_of_order (h : VectorReady d p .lxrd v) (hb : lentBusy d p v = false)
    (hh : heritageNamed v (d.panAt p) (vCount v (d.panAt p)) = true) : vLxrd d p v = .halt d .order stHeritageOrder := by
  rw [vLxrd, lRun_of_free h hb]
  simp only [any_entries, hh, if_true]

/-- Adding records changes Ledger entries alone. -/
theorem lpadds_core (v : VInsn) (q : Pan) (js : List Nat) : ∀ r : Pan, r.core = q.core → (lpadds v q js r).1.core = q.core := by
  induction js with
  | nil => exact fun _ hr => hr
  | cons j js ih =>
    intro r hr
    simp only [lpadds]
    split
    · exact hr
    · split
      · exact ih _ hr
      · rfl

theorem vLpadd_of_order (h : VectorReady d p .lpadd v) (hb : lentBusy d p v = false)
    (hh : heritageNamed v (d.panAt p) (vCount v (d.panAt p)) = true) : vLpadd d p v = .halt d .order stHeritageOrder := by
  rw [vLpadd, lRun_of_free h hb]
  simp only [List.any_map, Function.comp_def, hh, if_true]

theorem vLpadd_of_attention (h : VectorReady d p .lpadd v) (hb : lentBusy d p v = false)
    (hh : heritageNamed v (d.panAt p) (vCount v (d.panAt p)) = false) (ha : attentionNamed v (d.panAt p) (vCount v (d.panAt p)) = true) :
    vLpadd d p v = .halt d .order stAttnEntry := by
  rw [vLpadd, lRun_of_free h hb]
  simp only [List.any_map, Function.comp_def, hh, ha, Bool.false_eq_true, if_false, if_true]

/-- The records added by VLPADD on its pan (05 R150). -/
def lpaddWork (v : VInsn) (q : Pan) (n : Nat) : Pan := (lpadds v q (List.range n) q).1

theorem vLpadd_of_adds (h : VectorReady d p .lpadd v) (hb : lentBusy d p v = false)
    (hh : heritageNamed v (d.panAt p) (vCount v (d.panAt p)) = false) (ha : attentionNamed v (d.panAt p) (vCount v (d.panAt p)) = false)
    (hr : (lpadds v (d.panAt p) (List.range (vCount v (d.panAt p))) (d.panAt p)).2 = none) :
    vLpadd d p v = .ok (d.updPan p (fun q => lpaddWork v q (vCount v q))) := by
  rw [vLpadd, lRun_of_free h hb, ← Device.updPan_const (f := fun q => lpaddWork v q (vCount v q))]
  simp only [List.any_map, Function.comp_def, hh, ha, hr, lpaddWork, Bool.false_eq_true, if_false]

/-- A record that stops VLPADD halts the core, after the records before it. -/
theorem vLpadd_of_stopped {c : Cause × Nat} (h : VectorReady d p .lpadd v) (hb : lentBusy d p v = false)
    (hh : heritageNamed v (d.panAt p) (vCount v (d.panAt p)) = false) (ha : attentionNamed v (d.panAt p) (vCount v (d.panAt p)) = false)
    (hr : (lpadds v (d.panAt p) (List.range (vCount v (d.panAt p))) (d.panAt p)).2 = some c) :
    vLpadd d p v = .halt (d.updPan p (fun q => lpaddWork v q (vCount v q))) c.1 c.2 := by
  rw [vLpadd, lRun_of_free h hb, ← Device.updPan_const (f := fun q => lpaddWork v q (vCount v q))]
  simp only [List.any_map, Function.comp_def, hh, ha, hr, lpaddWork, Bool.false_eq_true, if_false]

end Fields

/-- Settles O15: each clause is one outcome of its instruction. -/
theorem compressedFenceAndLedgerInstructions : Obligations.CompressedFenceAndLedgerInstructions := by
  unfold Obligations.CompressedFenceAndLedgerInstructions
  refine ⟨?vzbc, ?vfence, ?vlrd, ?vlxrd, ?vlxrdOrder, ?vlpadd, ?vlpaddOrder, ?vlpaddAttention, ?vlpaddStopped, ?vlrdOrder, ?vlrdBusy, ?vlxrdBusy,
    ?vlpaddBusy⟩
  case vzbc => exact fun _ _ _ h ha hh => takes_of_ok (fun _ => rfl) h rfl rfl (vZbc_of_aligned h ha hh)
  case vfence => exact fun _ _ _ h => takes_of_ok (fun _ => rfl) h rfl rfl (vFence_of_ready h)
  case vlrd => exact fun _ _ _ h hb hf => takes_of_ok (fun _ => rfl) h rfl (lrdWork_core _ _ _) (vLrd_of_reads h hb hf)
  case vlxrd => exact fun _ _ _ h hb hh => takes_of_ok (fun _ => rfl) h rfl (Pan.vdone_core _ _ _ _) (vLxrd_of_reads h hb hh)
  case vlxrdOrder => exact fun _ _ _ h hb hh => takes_of_halt (fun _ => rfl) h (vLxrd_of_order h hb hh)
  case vlpadd => exact fun _ _ _ h hb hh ha hr => takes_of_ok (fun _ => rfl) h rfl (lpadds_core _ _ _ _ rfl) (vLpadd_of_adds h hb hh ha hr)
  case vlpaddOrder => exact fun _ _ _ h hb hh => takes_of_halt (fun _ => rfl) h (vLpadd_of_order h hb hh)
  case vlpaddAttention => exact fun _ _ _ h hb hh ha => takes_of_halt (fun _ => rfl) h (vLpadd_of_attention h hb hh ha)
  case vlpaddStopped => exact fun _ _ _ _ h hb hh ha hr => takes_of_halt (fun _ => rfl) h (vLpadd_of_stopped h hb hh ha hr)
  case vlrdOrder => exact fun _ _ _ h hb hh hf => takes_of_halt (fun _ => rfl) h (vLrd_of_order h hb hh hf)
  case vlrdBusy => exact fun _ _ _ h hb => takes_of_wait (fun _ => rfl) h (lRun_of_busy h hb _)
  case vlxrdBusy => exact fun _ _ _ h hb => takes_of_wait (fun _ => rfl) h (lRun_of_busy h hb _)
  case vlpaddBusy => exact fun _ _ _ h hb => takes_of_wait (fun _ => rfl) h (lRun_of_busy h hb _)

end Sys2Proof.Machine
end

section
/-! PROOFS. ENTRY_OP and WRITE_BACK (03 R93, R105; 04 R118, R120, R121; 06 R177; 07 R204 to R206, R209): the checked accesses of a pan's descriptor,
then what each command does once its accesses are clear. -/
namespace Sys2Proof.Machine

/-! ### The checked accesses of a pan -/

section Access
variable {d : Device} {p a : Nat} {hit : Option Nat} {spans : List (Nat × Nat)} {go : Device → Device}

/-- What an access goes on to do, it does to the device itself. -/
theorem Device.panAccess_const : d.panAccess p hit spans go = d.panAccess p hit spans (fun _ => go d) := by
  unfold Device.panAccess
  split <;> rfl

theorem Device.panAccess_clear (h : spans.any (fun s => (d.panAt p).holds s.1 s.2) = false) : d.panAccess p none spans go = go d := by
  simp only [Device.panAccess, h, Bool.false_eq_true, if_false]

theorem Device.panAccess_hit (h : spans.any (fun s => (d.panAt p).holds s.1 s.2) = false) (ha : spans.any (inSpan a) = true) :
    d.panAccess p (some a) spans go = parityHit d p a := by
  simp only [Device.panAccess, h, ha, Bool.false_eq_true, if_false, if_true]

theorem Device.panAccess_held (h : spans.any (fun s => (d.panAt p).holds s.1 s.2) = true) : d.panAccess p hit spans go = d := by
  simp only [Device.panAccess, h, if_true]

/-- A hit that lies in nothing accessed leaves the device as it is, whether or not something is held. -/
theorem Device.panAccess_elsewhere (ha : spans.any (inSpan a) = false) : d.panAccess p (some a) spans go = d := by
  simp only [Device.panAccess, ha, Bool.false_eq_true, if_false, ite_self]

theorem Device.panAccess_none
    (h : spans.any (fun s => (d.panAt p).holds s.1 s.2) = true ∨ ∃ a, hit = some a ∧ spans.any (inSpan a) = false) :
    d.panAccess p hit spans go = d := by
  rcases h with h | ⟨a, rfl, ha⟩
  · exact Device.panAccess_held h
  · exact Device.panAccess_elsewhere ha

end Access

/-! ### ENTRY_OP -/

section EntryOp
variable {p : Fin 64} {q : Desc} {hit : Option Nat} {d e : Device}

/-- What ENTRY_OP reads: what its checks read, and what its write-back reads when they pass (04 R120; 06 R177). -/
abbrev entryOpSpans (d : Device) (p : Nat) (x : MxD) : List (Nat × Nat) :=
  startSpans d p x x.tile ++ if entryChecks d p x = 0 ∧ x.wb then wbReads x else []

/-- The clears of an ENTRY_OP under one of its bits (03 R105). -/
def clearIf (b : Bool) (d : Device) (p : Nat) (x : MxD) : Device := if b then d.updPan p (fun r => r.clearRows x.lbase x.m) else d

/-- ENTRY_OP in its order: clear, write back, clear after, done (03 R105). -/
def entryOpDone (d : Device) (p : Nat) (q : Desc) : Device :=
  let x := mxd q.words
  let a := clearIf x.clr d p x
  (clearIf x.clrAfter (if x.wb then writeBackRows a p x q.amax else a) p x).updPan p (fun r => r.rejectHead q stOk)

/-- ENTRY_OP once what it reads is clear (04 R120). -/
def entryOpWork (d : Device) (p : Nat) (q : Desc) : Device :=
  let x := mxd q.words
  if entryChecks d p x ≠ 0 then d.updPan p (fun r => r.rejectHead q (entryChecks d p x))
  else if !x.ready (d.panAt p) || (x.wb && outputHeld (d.panAt p) x) then d
  else entryOpDone d p q

theorem takes_entryOp (hq : d.headOn p = some q) (hw : q.phase = .waiting) (hop : (mxd q.words).op = 4) (hr : (d.panAt p).rerunning = false)
    (he : d.panAccess p hit (entryOpSpans d p (mxd q.words)) (fun _ => entryOpWork d p q) = e) : Takes (.entryOp p hit) d e := fun s => by
  change execEntryOp p hit _ = _
  simp only [execEntryOp, onDev, hq, hop, hw, hr, Bool.not_false, and_self, if_true]
  rw [Device.panAccess_const, Device.updPan_const (f := fun r => r.rejectHead q (entryChecks d p (mxd q.words)))]
  subst he
  rfl

theorem takes_entryOp_ignored (h : ∀ q, d.headOn p = some q → (mxd q.words).op ≠ 4 ∨ q.phase ≠ .waiting ∨ (d.panAt p).rerunning = true) :
    Takes (.entryOp p hit) d d := fun s => by
  change execEntryOp p hit _ = _
  cases hq : d.headOn p with
  | none => simp only [execEntryOp, onDev, hq]
  | some q =>
    have hno : ¬((mxd q.words).op = 4 ∧ q.phase = .waiting ∧ (!(d.panAt p).rerunning) = true) := by
      rintro ⟨hop, hw, hr⟩
      rcases h q hq with h | h | h
      · exact h hop
      · exact h hw
      · simp [h] at hr
    simp only [execEntryOp, onDev, hq, if_neg hno]

theorem entryOpWork_of_rejected (h : entryChecks d p (mxd q.words) ≠ 0) :
    entryOpWork d p q = d.updPan p (fun r => r.rejectHead q (entryChecks d p (mxd q.words))) := if_pos h

theorem entryOpWork_of_done (h : entryChecks d p (mxd q.words) = 0) (hready : (mxd q.words).ready (d.panAt p) = true)
    (hout : (mxd q.words).wb = false ∨ outputHeld (d.panAt p) (mxd q.words) = false) : entryOpWork d p q = entryOpDone d p q := by
  simp only [entryOpWork, h, hready, Bool.and_eq_false_iff.mpr hout, ne_eq, not_true_eq_false, Bool.not_true, Bool.or_self, Bool.false_eq_true, if_false]

theorem entryOpWork_of_waiting (h : entryChecks d p (mxd q.words) = 0)
    (hwait : (mxd q.words).ready (d.panAt p) = false ∨ ((mxd q.words).wb = true ∧ outputHeld (d.panAt p) (mxd q.words) = true)) :
    entryOpWork d p q = d := by
  have hstop : (!(mxd q.words).ready (d.panAt p) || ((mxd q.words).wb && outputHeld (d.panAt p) (mxd q.words))) = true := by
    simpa using hwait
  simp only [entryOpWork, h, hstop, ne_eq, not_true_eq_false, if_false, if_true]

end EntryOp

/-! ### WRITE_BACK -/

section WriteBack
variable {p : Fin 64} {q : Desc} {hit : Option Nat} {d e : Device}

/-- What WRITE_BACK reads: the words it merges into, and the record or the scales and biases (06 R177). -/
abbrev writeBackSpans (x : MxD) : List (Nat × Nat) := (outSpans x).map tailWord ++ if x.op = 3 then [(x.aux, 32)] else wbReads x

/-- WRITE_BACK of a MATMUL or CONV: its rows, then the clears of CLR_AFTER (03 R105; 04 R118). -/
def matrixFinish (d : Device) (p : Nat) (q : Desc) : Device :=
  clearIf (mxd q.words).clrAfter (writeBackRows d p (mxd q.words) q.amax) p (mxd q.words)

/-- The descriptor marked written after its finish (04 R121). -/
def writeBackWork (d : Device) (p : Nat) (q : Desc) : Device :=
  (if (mxd q.words).op = 3 then attnFinish d p (mxd q.words) q.amax else matrixFinish d p q).updPan p (fun r => r.setHead { q with phase := .written })

theorem takes_writeBack (hq : d.headOn p = some q) (hdone : q.passesDone = true) (howes : owesFinish d p (mxd q.words) = true)
    (hout : (finishSpans d p (mxd q.words)).any (fun s => (d.panAt p).holds s.1 s.2) = false)
    (he : d.panAccess p hit (writeBackSpans (mxd q.words)) (fun _ => writeBackWork d p q) = e) : Takes (.writeBack p hit) d e := fun s => by
  change execWriteBack p hit _ = _
  simp only [execWriteBack, onDev, hq, hdone, howes, hout, Bool.not_false, Bool.and_self, if_true]
  rw [Device.panAccess_const]
  subst he
  rfl

theorem takes_writeBack_ignored
    (h : ∀ q, d.headOn p = some q → q.passesDone = false ∨ owesFinish d p (mxd q.words) = false ∨
      (finishSpans d p (mxd q.words)).any (fun s => (d.panAt p).holds s.1 s.2) = true) : Takes (.writeBack p hit) d d := fun s => by
  change execWriteBack p hit _ = _
  cases hq : d.headOn p with
  | none => simp only [execWriteBack, onDev, hq]
  | some q =>
    have hno : (q.passesDone && owesFinish d p (mxd q.words) && !(finishSpans d p (mxd q.words)).any (fun s => (d.panAt p).holds s.1 s.2)) = false := by
      rcases h q hq with h | h | h <;> simp only [h, Bool.false_and, Bool.and_false, Bool.not_true]
    simp only [execWriteBack, onDev, hq, hno, Bool.false_eq_true, if_false]

theorem owesFinish_of_wb {x : MxD} (h : x.wb = true) : owesFinish d p x = true := by
  simp only [owesFinish, h, Bool.true_or]

theorem writeBackWork_of_matrix (hop : (mxd q.words).op ≠ 3) :
    writeBackWork d p q = (matrixFinish d p q).updPan p (fun r => r.setHead { q with phase := .written }) := by
  rw [writeBackWork, if_neg hop]

theorem writeBackWork_of_attention (hop : (mxd q.words).op = 3) :
    writeBackWork d p q = (attnFinish d p (mxd q.words) q.amax).updPan p (fun r => r.setHead { q with phase := .written }) := by
  rw [writeBackWork, if_pos hop]

end WriteBack

/-- Settles O25: each clause is one outcome of the access, or of the work once it is clear. -/
theorem entryOpAndWriteBack : Obligations.EntryOpAndWriteBack := by
  unfold Obligations.EntryOpAndWriteBack
  refine ⟨?rejected, ?done, ?waiting, ?entryIgnored, ?entryHit, ?entryHeld, ?matrix, ?attention, ?backIgnored, ?backHit, ?backHeld⟩
  case rejected =>
    exact fun _ _ _ hq hw hop hr hs hc => takes_entryOp hq hw hop hr ((Device.panAccess_clear hs).trans (entryOpWork_of_rejected hc))
  case done =>
    exact fun _ _ _ hq hw hop hr hs hc hready hout =>
      takes_entryOp hq hw hop hr ((Device.panAccess_clear hs).trans (entryOpWork_of_done hc hready hout))
  case waiting =>
    exact fun _ _ _ hq hw hop hr hs hc hwait => takes_entryOp hq hw hop hr ((Device.panAccess_clear hs).trans (entryOpWork_of_waiting hc hwait))
  case entryIgnored => exact fun _ _ _ => takes_entryOp_ignored
  case entryHit => exact fun _ _ _ _ hq hw hop hr hs ha => takes_entryOp hq hw hop hr (Device.panAccess_hit hs ha)
  case entryHeld => exact fun _ _ _ _ hq hw hop hr h => takes_entryOp hq hw hop hr (Device.panAccess_none h)
  case matrix =>
    exact fun _ _ _ hq hd hop hwb hout hs =>
      takes_writeBack hq hd (owesFinish_of_wb hwb) hout ((Device.panAccess_clear hs).trans (writeBackWork_of_matrix hop))
  case attention =>
    exact fun _ _ _ hq hd hop howes hout hs =>
      takes_writeBack hq hd howes hout ((Device.panAccess_clear hs).trans (writeBackWork_of_attention hop))
  case backIgnored => exact fun _ _ _ => takes_writeBack_ignored
  case backHit => exact fun _ _ _ _ hq hd howes hout hs ha => takes_writeBack hq hd howes hout (Device.panAccess_hit hs ha)
  case backHeld => exact fun _ _ _ _ hq hd howes hout h => takes_writeBack hq hd howes hout (Device.panAccess_none h)

end Sys2Proof.Machine
end

section
/-! PROOFS. ATTEND, MERGE, RAKE and APPEND (03 R111, R134; 04 R120; 06 R177; 07 R207, R211, R216, R217, R228, R232): what starting an attention
descriptor does in each of its outcomes, said once for the four modes, and from it what each command does. -/
namespace Sys2Proof.Machine

/-! ### Starting an attention descriptor -/

/-- The modes that a command of mode `mode` takes: its own, and a reserved one goes to ATTEND (07 R207). -/
def takesMode (mode m : Nat) : Prop := m = mode ∨ (mode = 0 ∧ 3 < m)

theorem takesMode_zero {m : Nat} : takesMode 0 m ↔ m = 0 ∨ 3 < m := by
  simp only [takesMode, true_and]

theorem takesMode_of_ne_zero {mode m : Nat} (h : mode ≠ 0) : takesMode mode m ↔ m = mode := by
  simp only [takesMode, h, false_and, or_false]

/-- Descriptor q waits at the head of a pan that is on, outside a re-run, and is an ATTN descriptor of a mode that the command takes. -/
structure AttnDue (d : Device) (p mode : Nat) (q : Desc) : Prop where
  head : d.headOn p = some q
  waiting : q.phase = .waiting
  op : (mxd q.words).op = 3
  takes : takesMode mode ((mxd q.words).attn d p).mode
  first : (d.panAt p).rerunning = false

/-- The descriptor passes its checks, its wait is met, the array issues, and fewer than three mismatches came in a row (04 R120; 03 R111). -/
structure AttnGoes (d : Device) (p : Nat) (x : MxD) : Prop where
  checks : attnChecks d p x = 0
  ready : x.ready (d.panAt p) = true
  issues : d.arrayIssues p = true
  runs : (d.panAt p).arr.consec < 3

/-- What an attention descriptor touches: what its checks read, and its operands when they pass (06 R177). -/
abbrev attnTouched (d : Device) (p : Nat) (x : MxD) : List (Nat × Nat) :=
  startSpans d p x x.tile ++ attnCheckSpans d p x (x.attn d p) ++ if attnChecks d p x = 0 then attnSpans d p x (x.attn d p) else []

section Start
variable {d e : Device} {p mode a : Nat} {bad : Bool} {hit : Option Nat} {q : Desc} {body : Device → MxD → AttnRec → Device} {after : DescPhase}

/-- An attention descriptor once what it touches is clear. -/
def attnWork (d : Device) (p mode : Nat) (bad : Bool) (body : Device → MxD → AttnRec → Device) (after : DescPhase) (q : Desc) : Device :=
  let x := mxd q.words
  if attnChecks d p x ≠ 0 then d.updPan p (fun r => r.rejectHead q (attnChecks d p x))
  else if !x.ready (d.panAt p) || !d.arrayIssues p || decide (3 ≤ (d.panAt p).arr.consec) then d
  else if x.m = 0 ∧ mode ≠ 3 then d.updPan p (fun r => r.rejectHead q stOk)
  else if attnHeritage (d.panAt p) x (x.attn d p) then d.updPan p (fun r => r.rejectHead q stHeritageOrder)
  else if bad then d.updPan p Pan.mismatch
  else (body d x (x.attn d p)).updPan p (fun r => (r.setHead { q with phase := after, row := x.m }).attempted)

theorem updPan_rejectHead_const (st : Nat) :
    d.updPan p (fun _ => (d.panAt p).rejectHead q st) = d.updPan p (fun r => r.rejectHead q st) :=
  Device.updPan_const d p (fun r => r.rejectHead q st)

theorem startAttn_due (h : AttnDue d p mode q) : startAttn d p mode bad hit body after =
    d.panAccess p hit (attnTouched d p (mxd q.words)) (fun _ => attnWork d p mode bad body after q) := by
  obtain ⟨hq, hw, hop, hm, hr⟩ := h
  unfold takesMode at hm
  simp only [startAttn, hq, hw, hop, hm, hr, Bool.not_false, and_self, if_true]
  rw [Device.panAccess_const]
  simp only [attnWork, updPan_rejectHead_const]

theorem startAttn_ignored {M : Desc → Prop} (hM : ∀ q, takesMode mode ((mxd q.words).attn d p).mode → M q)
    (h : ∀ q, d.headOn p = some q → (mxd q.words).op ≠ 3 ∨ q.phase ≠ .waiting ∨ ¬M q ∨ (d.panAt p).rerunning = true) :
    startAttn d p mode bad hit body after = d := by
  unfold startAttn
  split
  · next q hq =>
    refine if_neg ?_
    rintro ⟨hop, hw, hr, hm⟩
    rcases h q hq with h | h | h | h
    · exact h hop
    · exact h hw
    · exact h (hM q hm)
    · simp [h] at hr
  · rfl

theorem startAttn_clear (h : AttnDue d p mode q) (hs : (attnTouched d p (mxd q.words)).any (fun s => (d.panAt p).holds s.1 s.2) = false)
    (he : attnWork d p mode bad body after q = e) : startAttn d p mode bad none body after = e := by
  rw [startAttn_due h, Device.panAccess_clear hs, he]

theorem startAttn_hit (h : AttnDue d p mode q) (hs : (attnTouched d p (mxd q.words)).any (fun s => (d.panAt p).holds s.1 s.2) = false)
    (ha : (attnTouched d p (mxd q.words)).any (inSpan a) = true) : startAttn d p mode bad (some a) body after = parityHit d p a := by
  rw [startAttn_due h, Device.panAccess_hit hs ha]

theorem startAttn_held (h : AttnDue d p mode q) (hs : (attnTouched d p (mxd q.words)).any (fun s => (d.panAt p).holds s.1 s.2) = true) :
    startAttn d p mode bad hit body after = d := by
  rw [startAttn_due h, Device.panAccess_held hs]

theorem startAttn_hit_elsewhere (h : AttnDue d p mode q)
    (hs : (attnTouched d p (mxd q.words)).any (fun s => (d.panAt p).holds s.1 s.2) = true ∨ (attnTouched d p (mxd q.words)).any (inSpan a) = false) :
    startAttn d p mode bad (some a) body after = d := by
  rw [startAttn_due h, Device.panAccess_none (hs.imp_right (fun ha => ⟨a, rfl, ha⟩))]

/-! ### The work of a descriptor that is clear -/

theorem attnWork_rejected (h : attnChecks d p (mxd q.words) ≠ 0) :
    attnWork d p mode bad body after q = d.updPan p (fun r => r.rejectHead q (attnChecks d p (mxd q.words))) := if_pos h

theorem attnWork_waiting (h : attnChecks d p (mxd q.words) = 0)
    (hwait : (mxd q.words).ready (d.panAt p) = false ∨ d.arrayIssues p = false ∨ 3 ≤ (d.panAt p).arr.consec) :
    attnWork d p mode bad body after q = d := by
  have hstop : (!(mxd q.words).ready (d.panAt p) || !d.arrayIssues p || decide (3 ≤ (d.panAt p).arr.consec)) = true := by
    simpa [or_assoc] using hwait
  simp only [attnWork, h, hstop, ne_eq, not_true_eq_false, if_false, if_true]

/-- The steps that a descriptor which goes on takes. -/
theorem attnWork_goes (h : AttnGoes d p (mxd q.words)) : attnWork d p mode bad body after q =
    if (mxd q.words).m = 0 ∧ mode ≠ 3 then d.updPan p (fun r => r.rejectHead q stOk)
    else if attnHeritage (d.panAt p) (mxd q.words) ((mxd q.words).attn d p) then d.updPan p (fun r => r.rejectHead q stHeritageOrder)
    else if bad then d.updPan p Pan.mismatch
    else (body d (mxd q.words) ((mxd q.words).attn d p)).updPan p (fun r => (r.setHead { q with phase := after, row := (mxd q.words).m }).attempted) := by
  obtain ⟨hc, hready, hissues, hruns⟩ := h
  simp only [attnWork, hc, hready, hissues, Nat.not_le.mpr hruns, ne_eq, not_true_eq_false, Bool.not_true, decide_false, Bool.or_self,
    Bool.false_eq_true, if_false]

theorem attnWork_empty (h : AttnGoes d p (mxd q.words)) (hm : (mxd q.words).m = 0) (hmode : mode ≠ 3) :
    attnWork d p mode bad body after q = d.updPan p (fun r => r.rejectHead q stOk) := by
  rw [attnWork_goes h, if_pos ⟨hm, hmode⟩]

theorem attnWork_heritage (h : AttnGoes d p (mxd q.words)) (hm : (mxd q.words).m ≠ 0)
    (hh : attnHeritage (d.panAt p) (mxd q.words) ((mxd q.words).attn d p) = true) :
    attnWork d p mode bad body after q = d.updPan p (fun r => r.rejectHead q stHeritageOrder) := by
  rw [attnWork_goes h, if_neg (fun hm' => hm hm'.1), if_pos hh]

theorem attnWork_mismatch (h : AttnGoes d p (mxd q.words)) (hm : (mxd q.words).m ≠ 0)
    (hh : attnHeritage (d.panAt p) (mxd q.words) ((mxd q.words).attn d p) = false) :
    attnWork d p mode true body after q = d.updPan p Pan.mismatch := by
  rw [attnWork_goes h, if_neg (fun hm' => hm hm'.1), hh, if_neg Bool.false_ne_true, if_pos rfl]

theorem attnWork_done (h : AttnGoes d p (mxd q.words)) (hm : (mxd q.words).m ≠ 0 ∨ mode = 3)
    (hh : attnHeritage (d.panAt p) (mxd q.words) ((mxd q.words).attn d p) = false) : attnWork d p mode false body after q =
      (body d (mxd q.words) ((mxd q.words).attn d p)).updPan p (fun r => (r.setHead { q with phase := after, row := (mxd q.words).m }).attempted) := by
  have hne : ¬((mxd q.words).m = 0 ∧ mode ≠ 3) := fun hm' => hm.elim (· hm'.1) hm'.2
  rw [attnWork_goes h, if_neg hne, hh, if_neg Bool.false_ne_true, if_neg Bool.false_ne_true]

/-- RAKE and APPEND name no Ledger entry. -/
theorem attnHeritage_of_mode {pan : Pan} {x : MxD} {r : AttnRec} (h : 2 ≤ r.mode) : attnHeritage pan x r = false := by
  simp only [attnHeritage, Nat.not_lt.mpr h, decide_false, Bool.false_and]

end Start

/-! ### The four commands -/

section Commands
variable {p : Fin 64} {q : Desc} {bad : Bool} {hit : Option Nat} {d e : Device}

theorem takes_attend (h : startAttn d p 0 bad hit (fun d x r => d.updPan p (fun _ => attendBody d p x r)) .passes = e) :
    Takes (.attend p bad hit) d e := fun s => by
  subst h
  rfl

theorem takes_rake (h : startAttn d p 2 false hit (fun d x r => rakeBody d p x r) .done = e) : Takes (.rake p hit) d e := fun s => by
  subst h
  rfl

theorem takes_append (h : startAttn d p 3 false hit (fun d x r => appendBody d p x r) .done = e) : Takes (.append p hit) d e := fun s => by
  subst h
  rfl

/-- MERGE that no record stops: a parity hit comes before its records (03 R134; 07 R216). -/
theorem takes_merge (hdue : AttnDue d p 1 q) (hstop : hit.isSome = true ∨ mergeStop d p (mxd q.words) = none)
    (h : startAttn d p 1 bad hit (fun d x r => d.updPan p (fun _ => mergeBody d p x r)) .passes = e) : Takes (.merge p bad hit) d e := fun s => by
  obtain ⟨hq, hw, hop, hm, hr⟩ := hdue
  have hm := (takesMode_of_ne_zero (by decide)).mp hm
  have hnone : (if hit.isSome then none else mergeStop d p (mxd q.words)) = none := by
    rcases hstop with hs | hs <;> simp only [hs, if_true, ite_self]
  subst h
  change execMerge p bad hit _ = _
  simp only [execMerge, onDev, hq, hw, hop, hm, hr, hnone, Bool.not_false, and_self, if_true]

theorem takes_merge_stopped {c : Cause} {st : Nat} (hdue : AttnDue d p 1 q) (hstop : mergeStop d p (mxd q.words) = some (c, st)) :
    Takes (.merge p bad none) d (d.panFault p c st) := fun s => by
  obtain ⟨hq, hw, hop, hm, hr⟩ := hdue
  have hm := (takesMode_of_ne_zero (by decide)).mp hm
  change execMerge p bad none _ = _
  simp only [execMerge, onDev, hq, hw, hop, hm, hr, hstop, Option.isSome_none, Bool.false_eq_true, if_false, Bool.not_false, and_self, if_true]

theorem takes_merge_ignored (h : ∀ q, d.headOn p = some q →
      (mxd q.words).op ≠ 3 ∨ q.phase ≠ .waiting ∨ ¬((mxd q.words).attn d p).mode = 1 ∨ (d.panAt p).rerunning = true) :
    Takes (.merge p bad hit) d d := fun s => by
  change execMerge p bad hit _ = _
  cases hq : d.headOn p with
  | none => simp only [execMerge, onDev, hq]
  | some q =>
    have hno : ¬((mxd q.words).op = 3 ∧ q.phase = .waiting ∧ ((mxd q.words).attn d p).mode = 1 ∧ (!(d.panAt p).rerunning) = true) := by
      rintro ⟨hop, hw, hm, hr⟩
      rcases h q hq with h | h | h | h
      · exact h hop
      · exact h hw
      · exact h hm
      · simp [h] at hr
    simp only [execMerge, onDev, hq, if_neg hno]

/-! ### When a command's descriptor is due -/

theorem attendDue (hq : d.headOn p = some q) (hw : q.phase = .waiting) (hop : (mxd q.words).op = 3)
    (hm : ((mxd q.words).attn d p).mode = 0 ∨ 3 < ((mxd q.words).attn d p).mode) (hr : (d.panAt p).rerunning = false) : AttnDue d p 0 q :=
  ⟨hq, hw, hop, takesMode_zero.mpr hm, hr⟩

theorem attnDue {mode : Nat} (hq : d.headOn p = some q) (hw : q.phase = .waiting) (hop : (mxd q.words).op = 3)
    (hm : ((mxd q.words).attn d p).mode = mode) (hr : (d.panAt p).rerunning = false) : AttnDue d p mode q :=
  ⟨hq, hw, hop, .inl hm, hr⟩

end Commands

/-- Settles O27: each clause is one outcome of starting the descriptor, for one of the four commands. -/
theorem attentionDescriptors : Obligations.AttentionDescriptors := by
  unfold Obligations.AttentionDescriptors
  refine ⟨?attendDone, ?mergeDone, ?rakeDone, ?appendDone, ?attendRejected, ?mergeRejected, ?rakeRejected, ?appendRejected, ?attendWaits,
    ?mergeWaits, ?rakeWaits, ?appendWaits, ?attendEmpty, ?mergeEmpty, ?rakeEmpty, ?attendHeritage, ?mergeHeritage, ?attendMismatch,
    ?mergeMismatch, ?mergeStopped, ?attendHit, ?attendHeld, ?attendElsewhere, ?attendIgnored, ?mergeHit, ?mergeHeld, ?mergeElsewhere,
    ?mergeIgnored, ?rakeHit, ?rakeHeld, ?rakeElsewhere, ?rakeIgnored, ?appendHit, ?appendHeld, ?appendElsewhere, ?appendIgnored⟩
  case attendDone =>
    exact fun _ _ _ hq hw hop hm hr hs hc hy hi hk hn hh =>
      takes_attend (startAttn_clear (attendDue hq hw hop hm hr) hs (attnWork_done ⟨hc, hy, hi, hk⟩ (.inl hn) hh))
  case mergeDone =>
    exact fun _ _ _ hq hw hop hm hr hs hc hy hi hk hn hh hstop =>
      let due := attnDue hq hw hop hm hr
      takes_merge due (.inr hstop) (startAttn_clear due hs (attnWork_done ⟨hc, hy, hi, hk⟩ (.inl hn) hh))
  case rakeDone =>
    exact fun _ _ _ hq hw hop hm hr hs hc hy hi hk hn =>
      takes_rake (startAttn_clear (attnDue hq hw hop hm hr) hs (attnWork_done ⟨hc, hy, hi, hk⟩ (.inl hn) (attnHeritage_of_mode (by omega))))
  case appendDone =>
    exact fun _ _ _ hq hw hop hm hr hs hc hy hi hk =>
      takes_append (startAttn_clear (attnDue hq hw hop hm hr) hs (attnWork_done ⟨hc, hy, hi, hk⟩ (.inr rfl) (attnHeritage_of_mode (by omega))))
  case attendRejected =>
    exact fun _ _ _ hq hw hop hm hr hs hc => takes_attend (startAttn_clear (attendDue hq hw hop hm hr) hs (attnWork_rejected hc))
  case mergeRejected =>
    exact fun _ _ _ hq hw hop hm hr hs hc hstop =>
      let due := attnDue hq hw hop hm hr
      takes_merge due (.inr hstop) (startAttn_clear due hs (attnWork_rejected hc))
  case rakeRejected =>
    exact fun _ _ _ hq hw hop hm hr hs hc => takes_rake (startAttn_clear (attnDue hq hw hop hm hr) hs (attnWork_rejected hc))
  case appendRejected =>
    exact fun _ _ _ hq hw hop hm hr hs hc => takes_append (startAttn_clear (attnDue hq hw hop hm hr) hs (attnWork_rejected hc))
  case attendWaits =>
    exact fun _ _ _ hq hw hop hm hr hs hc hy => takes_attend (startAttn_clear (attendDue hq hw hop hm hr) hs (attnWork_waiting hc hy))
  case mergeWaits =>
    exact fun _ _ _ hq hw hop hm hr hs hc hy hstop =>
      let due := attnDue hq hw hop hm hr
      takes_merge due (.inr hstop) (startAttn_clear due hs (attnWork_waiting hc hy))
  case rakeWaits =>
    exact fun _ _ _ hq hw hop hm hr hs hc hy => takes_rake (startAttn_clear (attnDue hq hw hop hm hr) hs (attnWork_waiting hc hy))
  case appendWaits =>
    exact fun _ _ _ hq hw hop hm hr hs hc hy => takes_append (startAttn_clear (attnDue hq hw hop hm hr) hs (attnWork_waiting hc hy))
  case attendEmpty =>
    exact fun _ _ _ hq hw hop hm hr hs hc hy hi hk hn =>
      takes_attend (startAttn_clear (attendDue hq hw hop hm hr) hs (attnWork_empty ⟨hc, hy, hi, hk⟩ hn (by decide)))
  case mergeEmpty =>
    exact fun _ _ _ hq hw hop hm hr hs hc hy hi hk hn hstop =>
      let due := attnDue hq hw hop hm hr
      takes_merge due (.inr hstop) (startAttn_clear due hs (attnWork_empty ⟨hc, hy, hi, hk⟩ hn (by decide)))
  case rakeEmpty =>
    exact fun _ _ _ hq hw hop hm hr hs hc hy hi hk hn =>
      takes_rake (startAttn_clear (attnDue hq hw hop hm hr) hs (attnWork_empty ⟨hc, hy, hi, hk⟩ hn (by decide)))
  case attendHeritage =>
    exact fun _ _ _ hq hw hop hm hr hs hc hy hi hk hn hh =>
      takes_attend (startAttn_clear (attendDue hq hw hop hm hr) hs (attnWork_heritage ⟨hc, hy, hi, hk⟩ hn hh))
  case mergeHeritage =>
    exact fun _ _ _ hq hw hop hm hr hs hc hy hi hk hn hh hstop =>
      let due := attnDue hq hw hop hm hr
      takes_merge due (.inr hstop) (startAttn_clear due hs (attnWork_heritage ⟨hc, hy, hi, hk⟩ hn hh))
  case attendMismatch =>
    exact fun _ _ _ hq hw hop hm hr hs hc hy hi hk hn hh =>
      takes_attend (startAttn_clear (attendDue hq hw hop hm hr) hs (attnWork_mismatch ⟨hc, hy, hi, hk⟩ hn hh))
  case mergeMismatch =>
    exact fun _ _ _ hq hw hop hm hr hs hc hy hi hk hn hh hstop =>
      let due := attnDue hq hw hop hm hr
      takes_merge due (.inr hstop) (startAttn_clear due hs (attnWork_mismatch ⟨hc, hy, hi, hk⟩ hn hh))
  case mergeStopped => exact fun _ _ _ _ _ _ hq hw hop hm hr hstop => takes_merge_stopped (attnDue hq hw hop hm hr) hstop
  case attendHit => exact fun _ _ _ _ _ hq hw hop hm hr hs ha => takes_attend (startAttn_hit (attendDue hq hw hop hm hr) hs ha)
  case attendHeld => exact fun _ _ _ _ hq hw hop hm hr hs => takes_attend (startAttn_held (attendDue hq hw hop hm hr) hs)
  case attendElsewhere => exact fun _ _ _ _ _ hq hw hop hm hr hs => takes_attend (startAttn_hit_elsewhere (attendDue hq hw hop hm hr) hs)
  case attendIgnored => exact fun _ _ _ _ h => takes_attend (startAttn_ignored (fun _ => takesMode_zero.mp) h)
  case mergeHit =>
    exact fun _ _ _ _ _ hq hw hop hm hr hs ha =>
      let due := attnDue hq hw hop hm hr
      takes_merge due (.inl rfl) (startAttn_hit due hs ha)
  case mergeHeld =>
    exact fun _ _ _ _ hq hw hop hm hr hs hstop =>
      let due := attnDue hq hw hop hm hr
      takes_merge due (.inr hstop) (startAttn_held due hs)
  case mergeElsewhere =>
    exact fun _ _ _ _ _ hq hw hop hm hr hs =>
      let due := attnDue hq hw hop hm hr
      takes_merge due (.inl rfl) (startAttn_hit_elsewhere due hs)
  case mergeIgnored => exact fun _ _ _ _ => takes_merge_ignored
  case rakeHit => exact fun _ _ _ _ hq hw hop hm hr hs ha => takes_rake (startAttn_hit (attnDue hq hw hop hm hr) hs ha)
  case rakeHeld => exact fun _ _ _ hq hw hop hm hr hs => takes_rake (startAttn_held (attnDue hq hw hop hm hr) hs)
  case rakeElsewhere => exact fun _ _ _ _ hq hw hop hm hr hs => takes_rake (startAttn_hit_elsewhere (attnDue hq hw hop hm hr) hs)
  case rakeIgnored => exact fun _ _ _ h => takes_rake (startAttn_ignored (fun _ => (takesMode_of_ne_zero (by decide)).mp) h)
  case appendHit => exact fun _ _ _ _ hq hw hop hm hr hs ha => takes_append (startAttn_hit (attnDue hq hw hop hm hr) hs ha)
  case appendHeld => exact fun _ _ _ hq hw hop hm hr hs => takes_append (startAttn_held (attnDue hq hw hop hm hr) hs)
  case appendElsewhere => exact fun _ _ _ _ hq hw hop hm hr hs => takes_append (startAttn_hit_elsewhere (attnDue hq hw hop hm hr) hs)
  case appendIgnored => exact fun _ _ _ h => takes_append (startAttn_ignored (fun _ => (takesMode_of_ne_zero (by decide)).mp) h)

end Sys2Proof.Machine
end

section
/-! PROOFS. LADD, its acknowledgements and resends, chains, and records asked again (03 R101, R107, R134; 13 R364, R366, R367; 18 R500): one lemma
per outcome of each command. -/
namespace Sys2Proof.Machine

/-! ### LADD -/

section Ladd
variable {x : Txn} {u : JobSetup} {p : Nat} {d : Device}

/-- The records of x that this device has asked for again and waits for (13 R366). -/
abbrev askedAgain (d : Device) (x : Txn) : Option HeldLadd :=
  (d.fab.held.find? (fun h => h.txn.src == x.src && h.txn.tag == x.tag && h.txn.job == x.job && !(h.acked && h.status != stTargetAbsent))).filter
    (fun h => !h.missing.isEmpty)

/-- A LADD addressed to this device that comes as far as its pan: no Lockdown, a program for its job, records in range, no malformed chain
(13 R364; 18 R500). -/
structure LaddFits (d : Device) (x : Txn) (u : JobSetup) : Prop where
  mine : mine d x = true
  level : d.sec.level < 2
  setup : (d.jobAt x.job).setup = some u
  range : laddRange x u.prog.pans (txnRecords x).length = false
  chain : laddFwd x = false ∨ chainOk d x = true

theorem takes_ladd_lockdown (hm : mine d x = true) (hl : 2 ≤ d.sec.level) : Takes (.ladd x) d (d.respond x 6 stLockdown []) := fun s => by
  change execLadd x _ = _
  simp only [execLadd, onDev, hm, hl, Bool.not_true, Bool.false_eq_true, if_false, if_true]

theorem takes_ladd_no_program (hm : mine d x = true) (hl : d.sec.level < 2) (hu : (d.jobAt x.job).setup = none) :
    Takes (.ladd x) d (d.finishLadd { txn := x, missing := [], status := stTargetAbsent }) := fun s => by
  change execLadd x _ = _
  simp only [execLadd, onDev, hm, Nat.not_le.mpr hl, hu, Bool.not_true, Bool.false_eq_true, if_false]

theorem takes_ladd_out_of_range (hm : mine d x = true) (hl : d.sec.level < 2) (hu : (d.jobAt x.job).setup = some u)
    (hr : laddRange x u.prog.pans (txnRecords x).length = true) :
    Takes (.ladd x) d (d.finishLadd { txn := x, missing := [], status := stRange }) := fun s => by
  change execLadd x _ = _
  simp only [execLadd, onDev, hm, Nat.not_le.mpr hl, hu, hr, Bool.not_true, Bool.false_eq_true, if_false, if_true]

theorem takes_ladd_malformed (hm : mine d x = true) (hl : d.sec.level < 2) (hu : (d.jobAt x.job).setup = some u)
    (hr : laddRange x u.prog.pans (txnRecords x).length = false) (hf : laddFwd x = true) (hc : chainOk d x = false) :
    Takes (.ladd x) d (d.finishLadd { txn := x, missing := [], status := stMalformed }) := fun s => by
  change execLadd x _ = _
  simp only [execLadd, onDev, hm, Nat.not_le.mpr hl, hu, hr, hf, hc, Bool.not_true, Bool.not_false, Bool.and_self, Bool.false_eq_true, if_false,
    if_true]

/-- What a LADD that fits comes to: the pan it finds, or none. -/
def laddWork (d : Device) (x : Txn) : Device :=
  match laddTarget d x (askedAgain d x).isSome with
  | none => d.finishLadd { txn := x, missing := [], status := stTargetAbsent }
  | some p => if reissueDue d p then d else d.runLadd x p (askedAgain d x)

theorem takes_ladd_of_fits {e : Device} (h : LaddFits d x u) (he : laddWork d x = e) : Takes (.ladd x) d e := fun s => by
  obtain ⟨hm, hl, hu, hr, hc⟩ := h
  have hchain : (laddFwd x && !chainOk d x) = false := by
    rcases hc with hc | hc <;> simp only [hc, Bool.false_and, Bool.not_true, Bool.and_false]
  subst he
  change execLadd x _ = _
  cases ht : laddTarget d x (askedAgain d x).isSome <;>
    simp only [execLadd, onDev, hm, Nat.not_le.mpr hl, hu, hr, hchain, ht, Bool.not_true, Bool.false_eq_true, if_false, laddWork]

theorem laddWork_absent (h : laddTarget d x (askedAgain d x).isSome = none) :
    laddWork d x = d.finishLadd { txn := x, missing := [], status := stTargetAbsent } := by
  simp only [laddWork, h]

theorem laddWork_runs (h : laddTarget d x (askedAgain d x).isSome = some p) (hr : reissueDue d p = false) :
    laddWork d x = d.runLadd x p (askedAgain d x) := by
  simp only [laddWork, h, hr, Bool.false_eq_true, if_false]

theorem laddWork_waits (h : laddTarget d x (askedAgain d x).isSome = some p) (hr : reissueDue d p = true) : laddWork d x = d := by
  simp only [laddWork, h, hr, if_true]

theorem takes_ladd_elsewhere (hm : mine d x = false) : Takes (.ladd x) d d := fun s => by
  change execLadd x _ = _
  simp only [execLadd, onDev, hm, Bool.not_false, if_true]

end Ladd

/-! ### LADD_ACK and LADD_RESEND -/

section Ack
variable {x : Txn} {p : Pending} {d : Device}

theorem takes_laddAck_absent (hm : mine d x = true) (hp : d.pendOf 5 x = some p) (hs : x.status = stTargetAbsent) :
    Takes (.laddAck x) d { d with fab := { d.fab with absent := d.fab.absent.filter (fun y => y.tag != p.tag) ++ [p.txn] } } := fun s => by
  change execLaddAck x _ = _
  simp only [execLaddAck, onDev, hm, hp, hs, Bool.not_true, Bool.false_eq_true, if_false, if_true]

theorem takes_laddAck_ends (hm : mine d x = true) (hp : d.pendOf 5 x = some p) (hs : x.status ≠ stTargetAbsent) :
    Takes (.laddAck x) d (if x.status = 0 then d.dropPend p else (d.dropPend p).report p.job x.status) := fun s => by
  change execLaddAck x _ = _
  simp only [execLaddAck, onDev, hm, hp, hs, Bool.not_true, Bool.false_eq_true, if_false]

theorem takes_laddAck_elsewhere (hm : mine d x = false) : Takes (.laddAck x) d d := fun s => by
  change execLaddAck x _ = _
  simp only [execLaddAck, onDev, hm, Bool.not_false, if_true]

theorem takes_laddAck_unmatched (hp : d.pendOf 5 x = none) : Takes (.laddAck x) d d := fun s => by
  change execLaddAck x _ = _
  simp only [execLaddAck, onDev, hp, ite_self]

theorem takes_laddResend (hon : terOn d = true) :
    Takes .laddResend d (d.fab.absent.foldl (fun e x => e.launch x) ({ d with fab := { d.fab with absent := [] } } : Device)) := fun s => by
  change execLaddResend _ = _
  simp only [execLaddResend, onDev, hon, if_true]

theorem takes_laddResend_off (hon : terOn d = false) : Takes .laddResend d d := fun s => by
  change execLaddResend _ = _
  simp only [execLaddResend, onDev, hon, Bool.false_eq_true, if_false]

end Ack

/-! ### CHAIN_FORWARD -/

section Chain
variable {j : Fin 16} {chain p : Nat} {e : List Nat} {c : ChainRun} {d : Device}

/-- What a member has done so far for its chain. -/
abbrev chainRun (d : Device) (j chain : Nat) : ChainRun :=
  (d.fab.chains.find? (fun r => r.job == j && r.id == chain)).getD { job := j, id := chain }

/-- A chain of entry e with its pan p goes on: the Bund side works, the job is live, LOCAL_FLAG is set, no pass is to be reissued, and the count is
there (13 R367). -/
abbrev ChainDue (d : Device) (j p : Nat) (e : List Nat) (c : ChainRun) : Prop :=
  terOn d = true ∧ (d.jobAt j).live = true ∧ (d.panAt p).flag (fieldAt e 15 1) = true ∧ reissueDue d p = false ∧
    (if fieldAt e 2 1 = 0 ∨ fieldAt e 8 4 = 0 then c.sent = false else fieldAt e 8 4 ≤ c.added)

/-- The model's test says that the chain is due. -/
theorem chainDue_iff : (terOn d && (d.jobAt j).live && (d.panAt p).flag (fieldAt e 15 1) && !reissueDue d p
      && (if fieldAt e 2 1 = 0 ∨ fieldAt e 8 4 = 0 then !c.sent else decide (fieldAt e 8 4 ≤ c.added))) = true ↔ ChainDue d j p e c := by
  simp only [ChainDue, Bool.and_eq_true, Bool.not_eq_true', and_assoc]
  split <;> simp only [Bool.not_eq_true', decide_eq_true_eq]

theorem takes_chainForward (he : chainEntry d j chain = some e) (hp : physPan d j (fieldAt e 12 1) = some p) (hc : chainRun d j chain = c)
    {w : Device} (hw : (if ChainDue d j p e c then d.forwardChain j chain p e else d) = w) : Takes (.chainForward j chain) d w := fun s => by
  subst hc hw
  change execChainForward j chain _ = _
  simp only [execChainForward, onDev, he, hp, chainDue_iff]

theorem takes_chainForward_unknown (h : ∀ e, chainEntry d j chain = some e → physPan d j (fieldAt e 12 1) = none) :
    Takes (.chainForward j chain) d d := fun s => by
  change execChainForward j chain _ = _
  cases he : chainEntry d j chain with
  | none => simp only [execChainForward, onDev, he]
  | some e => simp only [execChainForward, onDev, he, h e he]

end Chain

/-! ### RECORD_REQUEST_AGAIN -/

section Again
variable {src tag index k : Nat} {j : Fin 16} {p : Pending} {w : Again} {d : Device}

/-- The LADD of this tag that a device waits to have acknowledged by src. -/
abbrev laddOf (d : Device) (src tag : Nat) (j : Nat) : Option Pending :=
  d.fab.pend.find? (fun r => r.tag == tag && r.txn.op == 5 && r.txn.dst == src && r.job == j)

theorem takes_recordRequestAgain_ladd (hon : terOn d = true) (hp : laddOf d src tag j = some p) (hk : physPan d j p.pan = some k) :
    Takes (.recordRequestAgain src j (.ladd tag index)) d
      (let bs := (if laddFwd p.txn then p.txn.data.take 8 else []) ++
        (canonicalRecord ((d.panAt k).entry ((p.key + index) / 256) ((p.key + index) % 256))).bytes
      d.launch { p.txn with addr := laddAt p.txn.addr index, data := bs, len := bs.length }) := fun s => by
  change execRecordRequestAgain src j (.ladd tag index) _ = _
  simp only [execRecordRequestAgain, onDev, hon, hp, hk, Bool.not_true, Bool.false_eq_true, if_false]

theorem takes_recordRequestAgain_off (hon : terOn d = false) : Takes (.recordRequestAgain src j w) d d := fun s => by
  change execRecordRequestAgain src j w _ = _
  simp only [execRecordRequestAgain, onDev, hon, Bool.not_false, if_true]

theorem takes_recordRequestAgain_unknown (h : ∀ p, laddOf d src tag j = some p → physPan d j p.pan = none) :
    Takes (.recordRequestAgain src j (.ladd tag index)) d d := fun s => by
  change execRecordRequestAgain src j (.ladd tag index) _ = _
  cases hp : laddOf d src tag j with
  | none => simp only [execRecordRequestAgain, onDev, hp, ite_self]
  | some p => simp only [execRecordRequestAgain, onDev, hp, h p hp, ite_self]

theorem takes_recordRequestAgain_sluice {ownTer ter expert slot token col : Nat} (hon : terOn d = true) :
    Takes (.recordRequestAgain src j (.sluice ownTer ter expert slot token col)) d (d.reformRecord j src ownTer ter expert slot token col) :=
  fun s => by
  change execRecordRequestAgain src j (.sluice ownTer ter expert slot token col) _ = _
  simp only [execRecordRequestAgain, onDev, hon, Bool.not_true, Bool.false_eq_true, if_false]

end Again

/-- Settles O40: each clause is one outcome above. -/
theorem ledgerAddTransactions : Obligations.LedgerAddTransactions := by
  unfold Obligations.LedgerAddTransactions
  refine ⟨?lockdown, ?noProgram, ?outOfRange, ?malformed, ?absent, ?runs, ?waits, ?ackAbsent, ?ackEnds, ?elsewhere, ?ackUnmatched, ?resend,
    ?resendOff, ?chain, ?chainNot, ?chainUnknown, ?again, ?againUnknown, ?againSluice, ?againOff⟩
  case lockdown => exact fun _ _ => takes_ladd_lockdown
  case noProgram => exact fun _ _ => takes_ladd_no_program
  case outOfRange => exact fun _ _ _ => takes_ladd_out_of_range
  case malformed => exact fun _ _ _ => takes_ladd_malformed
  case absent => exact fun _ _ _ hm hl hu hr hc ht => takes_ladd_of_fits ⟨hm, hl, hu, hr, hc⟩ (laddWork_absent ht)
  case runs => exact fun _ _ _ _ hm hl hu hr hc ht hi => takes_ladd_of_fits ⟨hm, hl, hu, hr, hc⟩ (laddWork_runs ht hi)
  case waits => exact fun _ _ _ _ hm hl hu hr hc ht hi => takes_ladd_of_fits ⟨hm, hl, hu, hr, hc⟩ (laddWork_waits ht hi)
  case ackAbsent => exact fun _ _ _ => takes_laddAck_absent
  case ackEnds => exact fun _ _ _ => takes_laddAck_ends
  case elsewhere => exact fun _ _ hm => ⟨takes_ladd_elsewhere hm, takes_laddAck_elsewhere hm⟩
  case ackUnmatched => exact fun _ _ => takes_laddAck_unmatched
  case resend => exact fun _ => takes_laddResend
  case resendOff => exact fun _ => takes_laddResend_off
  case chain => exact fun _ _ _ _ _ _ he hp hc hdue => takes_chainForward he hp hc (if_pos hdue)
  case chainNot => exact fun _ _ _ _ _ _ he hp hc hno => takes_chainForward he hp hc (if_neg hno)
  case chainUnknown => exact fun _ _ _ => takes_chainForward_unknown
  case again => exact fun _ _ _ _ _ _ _ => takes_recordRequestAgain_ladd
  case againUnknown => exact fun _ _ _ _ _ => takes_recordRequestAgain_unknown
  case againSluice => exact fun _ _ _ _ _ _ _ _ _ => takes_recordRequestAgain_sluice
  case againOff => exact fun _ _ _ _ => takes_recordRequestAgain_off

end Sys2Proof.Machine
end

section
/-! PROOFS. The Pan extension's issue of descriptors and copies, and the re-run of a segment (04 R135; 05 R164, R165, R169, R170; 06 R177, R181): what
an instruction of the pan core answers for each outcome of its work, then MXD and CPY, SEGMENT_RERUN and PAN_QUARANTINE. -/
namespace Sys2Proof.Machine

/-! ### The outcomes of a core instruction that its segment reaches for the first time -/

section Outcomes
variable {p : Fin 64} {d e : Device} {c : Instr} {f : Device → PRes}

theorem runCore_of_ready (h : coreReady d p = true) : d.runCore p f = settle p (inSegment p false f d) := if_pos h

/-- Done, with work g on its own pan that starts no segment: the segment notes it. -/
theorem takes_core_of_ok (hexec : ∀ s, exec c s = onDev s (fun d => d.runCore p f)) (h : CoreTakes d p) {g : Pan → Pan}
    (hseg : (g (e.panAt p)).core.segNo = (d.panAt p).core.segNo) (hf : f d = .ok (e.updPan p g)) :
    Takes c d (e.updPan p (fun q => (g q).logStep)) := fun s => by
  rw [hexec, onDev, runCore_of_ready h.1, inSegment_first h.2, hf]
  simp only [settle, Device.updPan_updPan]
  rw [← Device.updPan_const, ← Device.updPan_const (f := fun q => (g q).logStep), if_pos hseg]

theorem takes_core_of_wait (hexec : ∀ s, exec c s = onDev s (fun d => d.runCore p f)) (h : CoreTakes d p) (hf : f d = .wait e) : Takes c d e :=
  fun s => by
  rw [hexec, onDev, runCore_of_ready h.1, inSegment_first h.2, hf]
  rfl

theorem takes_core_of_halt {cause : Cause} {st : Nat} (hexec : ∀ s, exec c s = onDev s (fun d => d.runCore p f)) (h : CoreTakes d p)
    (hf : f d = .halt e cause st) : Takes c d (e.panFault p cause st) := fun s => by
  rw [hexec, onDev, runCore_of_ready h.1, inSegment_first h.2, hf]
  rfl

/-! ### An instruction that may meet a parity hit in its words -/

/-- An instruction that waits anyway meets no hit. -/
theorem withStoreHit_of_wait {hit : Option Nat} (hf : f d = .wait e) : withStoreHit d p hit f = .wait e := by
  cases hit <;> simp only [withStoreHit, hf]

/-- An instruction that faults meets no hit. -/
theorem withStoreHit_of_halt {hit : Option Nat} {cause : Cause} {st : Nat} (hf : f d = .halt e cause st) :
    withStoreHit d p hit f = .halt e cause st := by
  cases hit <;> simp only [withStoreHit, hf]

/-- A hit in what the instruction reads: with its granule held the instruction waits. -/
theorem withStoreHit_of_hit {a : Nat} {r : Device} (hf : f d = .ok r) (hheld : f (parityHit d p a) = .wait e) :
    withStoreHit d p (some a) f = .wait e := by
  simp only [withStoreHit, hf, hheld]

end Outcomes

/-! ### MXD and CPY -/

section Issue
variable {p : Fin 64} {rs1 a : Nat} {ws : List Nat} {d : Device} {hit : Option Nat} {cause : Cause}

theorem issueWords_misaligned {x : Nat} (h : x % 32 ≠ 0) : issueWords d p x = some (.error .align) := if_pos h

/-- A parity hit changes no register of the core. -/
@[simp] theorem parityHit_xreg (d : Device) (p : Fin 64) (a r : Nat) : ((parityHit d p a).panAt p).xreg r = (d.panAt p).xreg r := by
  rw [parityHit, Device.panAt_updPan]
  rfl

theorem mxdRun_of_held (h : issueWords d p ((d.panAt p).xreg rs1) = none) : mxdRun d p rs1 = .wait d := by
  simp only [mxdRun, h]

theorem mxdRun_of_fault (h : issueWords d p ((d.panAt p).xreg rs1) = some (.error cause)) : mxdRun d p rs1 = .halt d cause cause.status := by
  simp only [mxdRun, h, fault]

theorem mxdRun_of_full (h : issueWords d p ((d.panAt p).xreg rs1) = some (.ok ws)) (hfull : 8 ≤ (d.panAt p).arr.queue.length) :
    mxdRun d p rs1 = .wait d := by
  simp only [mxdRun, h, if_pos hfull]

/-- The pan after MXD queued its words: the descriptor last, with the capture selection in force, and the pc 4 bytes on (04 R123; 10 R273). -/
def mxdQueued (n : Nat) (ws : List Nat) (q : Pan) : Pan :=
  ({ q with arr := { q.arr with queue := q.arr.queue ++ [{ words := ws, seq := n, amax := q.sel }] } } : Pan).setPc (q.pc + 4)

theorem mxdRun_of_room (h : issueWords d p ((d.panAt p).xreg rs1) = some (.ok ws)) (hroom : (d.panAt p).arr.queue.length < 8) :
    mxdRun d p rs1 = .ok (d.issue.2.updPan p (mxdQueued d.issued ws)) := by
  simp only [mxdRun, h, if_neg (Nat.not_le.mpr hroom), next]
  rfl

/-- The job that a copy command of pan p is queued for; 16 stands for none (06 R181). -/
abbrev panCopyJob (d : Device) (p : Nat) : Nat := ((d.panAt p).job.map Prod.fst).getD 16

theorem cpyRun_of_held (h : issueWords d p ((d.panAt p).xreg rs1) = none) : cpyRun d p rs1 = .wait d := by
  simp only [cpyRun, h]

theorem cpyRun_of_fault (h : issueWords d p ((d.panAt p).xreg rs1) = some (.error cause)) : cpyRun d p rs1 = .halt d cause cause.status := by
  simp only [cpyRun, h, fault]

theorem cpyRun_of_full (h : issueWords d p ((d.panAt p).xreg rs1) = some (.ok ws)) (hfull : 8 ≤ copiesOf d p) : cpyRun d p rs1 = .wait d := by
  simp only [cpyRun, h, if_pos hfull]

theorem cpyRun_of_no_room (h : issueWords d p ((d.panAt p).xreg rs1) = some (.ok ws)) (hown : copiesOf d p < 8)
    (hroom : (d.engAt (p / 16)).mayQueue (.pan p) (panCopyJob d p) = false) :
    cpyRun d p rs1 = .wait (d.updEng (p / 16) (fun e => e.await (.pan p) (panCopyJob d p))) := by
  simp only [cpyRun, h, if_neg (Nat.not_le.mpr hown), hroom, Bool.false_eq_true, if_false]

theorem cpyRun_of_room (h : issueWords d p ((d.panAt p).xreg rs1) = some (.ok ws)) (hown : copiesOf d p < 8)
    (hroom : (d.engAt (p / 16)).mayQueue (.pan p) (panCopyJob d p) = true) :
    cpyRun d p rs1 = .ok ((d.issue.2.updEng (p / 16) (fun e => e.queueCopy (.pan p) (panCopyJob d p) d.issued ws)).updPan p
      (fun q => q.setPc (q.pc + 4))) := by
  simp only [cpyRun, h, if_neg (Nat.not_le.mpr hown), hroom, if_true, next, id]

/-! ### What MXD and CPY answer -/

theorem takes_mxd_of_wait {e : Device} (h : CoreTakes d p) (hf : mxdRun d p rs1 = .wait e) : Takes (.mxd p rs1 hit) d e :=
  takes_core_of_wait (fun _ => rfl) h (withStoreHit_of_wait (f := fun d => mxdRun d p rs1) hf)

theorem takes_cpy_of_wait {e : Device} (h : CoreTakes d p) (hf : cpyRun d p rs1 = .wait e) : Takes (.cpy p rs1 hit) d e :=
  takes_core_of_wait (fun _ => rfl) h (withStoreHit_of_wait (f := fun d => cpyRun d p rs1) hf)

/-- An address that no descriptor or copy may be issued from halts the core with its cause. -/
theorem takes_issue_fault (h : CoreTakes d p) (hw : issueWords d p ((d.panAt p).xreg rs1) = some (.error cause)) :
    Takes (.mxd p rs1 hit) d (d.panFault p cause cause.status) ∧ Takes (.cpy p rs1 hit) d (d.panFault p cause cause.status) :=
  ⟨takes_core_of_halt (fun _ => rfl) h (withStoreHit_of_halt (f := fun d => mxdRun d p rs1) (mxdRun_of_fault hw)),
    takes_core_of_halt (fun _ => rfl) h (withStoreHit_of_halt (f := fun d => cpyRun d p rs1) (cpyRun_of_fault hw))⟩

theorem takes_mxd_hit (h : CoreTakes d p) (hw : issueWords d p ((d.panAt p).xreg rs1) = some (.ok ws))
    (hheld : issueWords (parityHit d p a) p ((d.panAt p).xreg rs1) = none) (hroom : (d.panAt p).arr.queue.length < 8) :
    Takes (.mxd p rs1 (some a)) d (parityHit d p a) :=
  takes_core_of_wait (fun _ => rfl) h
    (withStoreHit_of_hit (f := fun d => mxdRun d p rs1) (mxdRun_of_room hw hroom) (mxdRun_of_held (by rw [parityHit_xreg, hheld])))

theorem takes_cpy_hit (h : CoreTakes d p) (hw : issueWords d p ((d.panAt p).xreg rs1) = some (.ok ws))
    (hheld : issueWords (parityHit d p a) p ((d.panAt p).xreg rs1) = none) (hown : copiesOf d p < 8)
    (hroom : (d.engAt (p / 16)).mayQueue (.pan p) (panCopyJob d p) = true) : Takes (.cpy p rs1 (some a)) d (parityHit d p a) :=
  takes_core_of_wait (fun _ => rfl) h
    (withStoreHit_of_hit (f := fun d => cpyRun d p rs1) (cpyRun_of_room hw hown hroom) (cpyRun_of_held (by rw [parityHit_xreg, hheld])))

end Issue

/-- Settles O20: each clause is one outcome of `mxdRun` or `cpyRun`. -/
theorem panExtensionIssue : Obligations.PanExtensionIssue := by
  unfold Obligations.PanExtensionIssue
  refine ⟨?mxdQueues, ?mxdFull, ?misaligned, ?noMemory, ?held, ?parity, ?cpyQueues, ?cpyFull, ?cpyAwaits⟩
  case mxdQueues => exact fun _ _ _ _ h hw hroom => takes_core_of_ok (fun _ => rfl) h rfl (mxdRun_of_room hw hroom)
  case mxdFull => exact fun _ _ _ _ h hw hfull => takes_mxd_of_wait h (mxdRun_of_full hw hfull)
  case misaligned => exact fun _ _ _ _ h ha => takes_issue_fault h (issueWords_misaligned ha)
  case noMemory => exact fun _ _ _ _ h hw => takes_issue_fault h hw
  case held => exact fun _ _ _ _ h hw => ⟨takes_mxd_of_wait h (mxdRun_of_held hw), takes_cpy_of_wait h (cpyRun_of_held hw)⟩
  case parity =>
    exact fun _ _ _ _ _ h hw hheld ⟨hqueue, hown, hroom⟩ => ⟨takes_mxd_hit h hw hheld hqueue, takes_cpy_hit h hw hheld hown hroom⟩
  case cpyQueues => exact fun _ _ _ _ h hw hown hroom => takes_core_of_ok (fun _ => rfl) h rfl (cpyRun_of_room hw hown hroom)
  case cpyFull => exact fun _ _ _ _ h hw hfull => takes_cpy_of_wait h (cpyRun_of_full hw hfull)
  case cpyAwaits => exact fun _ _ _ _ h hw hown hroom => takes_cpy_of_wait h (cpyRun_of_no_room hw hown hroom)

/-! ### An instruction that a re-run passes again -/

section Again
variable {p : Fin 64} {v : VInsn} {x : CoreStep} {d : Device} {c : Instr} {f : Device → PRes} {hit : Option Nat}

theorem runCore_again (hr : coreReady d p = true) (hx : (d.panAt p).core.trace[(d.panAt p).core.met]? = some x) :
    d.runCore p f = d.updPan p (fun q => q.takeStep x) := by
  rw [runCore_of_ready hr, inSegment_again hx, settle]

theorem runLane_again (hr : coreReady d p = true) (hskip : (d.panAt p).droopSkip = 0)
    (hx : (d.panAt p).core.trace[(d.panAt p).core.met]? = some x) : d.runLane p f = d.updPan p (fun q => q.takeStep x) := by
  simp only [Device.runLane, hr, hskip, inSegment_again hx, settle, beq_self_eq_true, Bool.and_self, if_true]

/-- The vector instructions of pan p with fields v; `hit` is a parity hit that a load or store meets (05 R139, R143). -/
def vectorInstructions (p : Fin 64) (v : VInsn) (hit : Option Nat) : List Instr :=
  [.vmov p v, .vsel p v, .vmin p v, .vmax p v, .vadd p v, .vsub p v, .vmul p v, .vfma p v, .vabs p v, .vneg p v, .vcpsgn p v, .viadd p v,
    .visub p v, .vimul p v, .vand p v, .vor p v, .vxor p v, .vsll p v, .vsrl p v, .vsra p v, .vimin p v, .vimax p v, .vcmpeq p v, .vcmplt p v,
    .vcmple p v, .vcvt p v, .vperm p v, .vlrd p v, .vlxrd p v, .vlpadd p v, .vfence p v, .vzbc p v, .vst p v hit, .vld p v hit, .viota p v,
    .vbcast p v, .vsegsum p v, .vsegmax p v, .vsegmin p v, .vslidedn p v, .vslideup p v, .vrev p v, .vexp2 p v, .vlog2 p v, .vrcp p v,
    .vrsqrt p v, .vsqrt p v, .vtanh p v, .vsigm p v, .vgelu p v]

/-- The instructions of the Pan extension that do not end their program (05 R165). -/
def extensionInstructions (p : Fin 64) (rd rs1 k : Nat) (off : Int) (hit : Option Nat) : List Instr :=
  [.mxd p rs1 hit, .cpy p rs1 hit, .fset p k, .fclr p k, .fwait p k, .fwaitc p k, .ftest p rd k, .fsetr p rs1 k, .setvl p rd rs1 k, .bsum p k off]

/-- Each vector instruction runs on the lanes of its pan. -/
theorem exec_of_vector (hc : c ∈ vectorInstructions p v hit) : ∃ f, ∀ s, exec c s = onDev s (fun d => d.runLane p f) := by
  fin_cases hc <;> exact ⟨_, fun _ => rfl⟩

/-- Each instruction of the Pan extension runs on the core of its pan. -/
theorem exec_of_extension {rd rs1 k : Nat} {off : Int} (hc : c ∈ extensionInstructions p rd rs1 k off hit) :
    ∃ f, ∀ s, exec c s = onDev s (fun d => d.runCore p f) := by
  fin_cases hc <;> exact ⟨_, fun _ => rfl⟩

theorem takes_vector_again (hc : c ∈ vectorInstructions p v hit) (hr : coreReady d p = true) (hskip : (d.panAt p).droopSkip = 0)
    (hx : (d.panAt p).core.trace[(d.panAt p).core.met]? = some x) : Takes c d (d.updPan p (fun q => q.takeStep x)) := fun s => by
  obtain ⟨f, hexec⟩ := exec_of_vector hc
  rw [hexec, onDev, runLane_again hr hskip hx]

theorem takes_extension_again {rd rs1 k : Nat} {off : Int} (hc : c ∈ extensionInstructions p rd rs1 k off hit) (hr : coreReady d p = true)
    (hx : (d.panAt p).core.trace[(d.panAt p).core.met]? = some x) : Takes c d (d.updPan p (fun q => q.takeStep x)) := fun s => by
  obtain ⟨f, hexec⟩ := exec_of_extension hc
  rw [hexec, onDev, runCore_again hr hx]

theorem takes_pdone_again {rs1 : Nat} (hr : coreReady d p = true) (hx : (d.panAt p).core.trace[(d.panAt p).core.met]? = some x) :
    Takes (.pdone p rs1) d (afterPdone p (d.updPan p (fun q => q.takeStep x))) := fun s => by
  change execPdone p rs1 _ = _
  rw [execPdone, onDev, runCore_again hr hx]

theorem takes_panCoreInstruction_again (hr : coreReady d p = true) (hskip : (d.panAt p).droopSkip = 0)
    (hx : (d.panAt p).core.trace[(d.panAt p).core.met]? = some x) :
    Takes (.panCoreInstruction p false hit) d (afterPdone p (d.updPan p (fun q => q.takeStep x))) := fun s => by
  change execPanCoreInstruction p false hit _ = _
  simp only [execPanCoreInstruction, onDev, hskip, bne_self_eq_false, Bool.false_and, Bool.false_eq_true, if_false, runCore_again hr hx]

end Again

/-! ### SEGMENT_RERUN and PAN_QUARANTINE -/

section Events
variable {p : Fin 64} {h : Halt} {d : Device}

theorem takes_segmentRerun (hhalt : (d.panAt p).core.halt = some h) (hcause : h.cause = .recover) (hhits : (d.panAt p).core.hits < 3)
    (hon : d.panOn p = true) : Takes (.segmentRerun p) d (d.updPan p Pan.rerun) := fun s => by
  change execSegmentRerun p _ = _
  simp only [execSegmentRerun, onDev, hhalt, hcause, hhits, hon, and_self, if_true]

theorem takes_segmentRerun_running (hhalt : (d.panAt p).core.halt = none) : Takes (.segmentRerun p) d d := fun s => by
  change execSegmentRerun p _ = _
  simp only [execSegmentRerun, onDev, hhalt]

theorem takes_segmentRerun_refused (hhalt : (d.panAt p).core.halt = some h)
    (hno : h.cause ≠ .recover ∨ 3 ≤ (d.panAt p).core.hits ∨ d.panOn p = false) : Takes (.segmentRerun p) d d := fun s => by
  have hnot : ¬(h.cause = .recover ∧ (d.panAt p).core.hits < 3 ∧ d.panOn p = true) := by
    rintro ⟨hcause, hhits, hon⟩
    rcases hno with hno | hno | hno
    · exact hno hcause
    · exact Nat.not_le.mpr hhits hno
    · exact Bool.false_ne_true (hno.symm.trans hon)
  change execSegmentRerun p _ = _
  simp only [execSegmentRerun, onDev, hhalt, if_neg hnot]

theorem takes_panQuarantine (hon : d.panOn p = true) (hthree : 3 ≤ (d.panAt p).arr.consec ∨ 3 ≤ (d.panAt p).core.hits) :
    Takes (.panQuarantine p) d (d.quarantine p) := fun s => by
  have hgo : (d.panOn p && (decide (3 ≤ (d.panAt p).arr.consec) || decide (3 ≤ (d.panAt p).core.hits))) = true := by
    simpa [hon] using hthree
  change execPanQuarantine p _ = _
  simp only [execPanQuarantine, onDev, hgo, if_true]

theorem takes_panQuarantine_refused (hno : ((d.panAt p).arr.consec < 3 ∧ (d.panAt p).core.hits < 3) ∨ d.panOn p = false) :
    Takes (.panQuarantine p) d d := fun s => by
  have hstay : (d.panOn p && (decide (3 ≤ (d.panAt p).arr.consec) || decide (3 ≤ (d.panAt p).core.hits))) = false := by
    rcases hno with ⟨hconsec, hhits⟩ | hoff
    · simp [hconsec, hhits]
    · rw [hoff, Bool.false_and]
  change execPanQuarantine p _ = _
  simp only [execPanQuarantine, onDev, hstay, Bool.false_eq_true, if_false]

end Events

/-- Settles O23: a re-run passes each instruction again by `takeStep`; the other clauses are the outcomes of the two events. -/
theorem segmentRerunAndQuarantine : Obligations.SegmentRerunAndQuarantine := by
  unfold Obligations.SegmentRerunAndQuarantine
  refine ⟨?reruns, ?again, ?running, ?refused, ?quarantines, ?stays⟩
  case reruns => exact fun _ _ _ => takes_segmentRerun
  case again =>
    refine fun p v x rd rs1 k off hit d hr hskip hx => ⟨fun c hc => ?listed, takes_pdone_again hr hx, takes_panCoreInstruction_again hr hskip hx⟩
    have hlisted : c ∈ vectorInstructions p v hit ++ extensionInstructions p rd rs1 k off hit := hc
    rcases List.mem_append.mp hlisted with hvector | hextension
    · exact takes_vector_again hvector hr hskip hx
    · exact takes_extension_again hextension hr hx
  case running => exact fun _ _ => takes_segmentRerun_running
  case refused => exact fun _ _ _ => takes_segmentRerun_refused
  case quarantines => exact fun _ _ => takes_panQuarantine
  case stays => exact fun _ _ => takes_panQuarantine_refused

end Sys2Proof.Machine
end

section
/-! PROOFS. MATMUL, CONV, PASS, DESCRIPTOR_COMPLETE and HALO_TIMEOUT (03 R548; 04 R115 to R123, R134, R135; 06 R177; 08 R236 to R242, R250, R251): the
start of a matrix descriptor once for both commands, the pass of one row, and the end of a descriptor. -/
namespace Sys2Proof.Machine

/-! ### Starting a matrix descriptor -/

section Start
variable {d e : Device} {p : Fin 64} {op a : Nat} {hit : Option Nat} {q : Desc} {checks : MxD → Option Tile → Nat}

/-- The command for OP `op` starts a descriptor of OP o: its own, and MATMUL one of a reserved OP (04 R120). -/
abbrev takesOp (op o : Nat) : Prop := o = op ∨ (op = 1 ∧ (o = 0 ∨ 4 < o))

theorem takesOp_one {o : Nat} : takesOp 1 o ↔ o = 1 ∨ o = 0 ∨ 4 < o := by
  simp only [takesOp, true_and]

theorem takesOp_two {o : Nat} : takesOp 2 o ↔ o = 2 := by
  simp [takesOp]

/-- Descriptor q waits at the head of a pan that is on, outside a re-run, and the command for OP `op` starts it. -/
structure MatrixDue (d : Device) (p op : Nat) (q : Desc) : Prop where
  head : d.headOn p = some q
  waiting : q.phase = .waiting
  takes : takesOp op (mxd q.words).op
  first : (d.panAt p).rerunning = false

/-- The stretches that the start of descriptor q reads (06 R177). -/
abbrev matrixSpans (d : Device) (p : Nat) (q : Desc) : List (Nat × Nat) := startSpans d p (mxd q.words) (mxd q.words).tile

/-- A matrix descriptor once what its start reads is clear. -/
def matrixWork (d : Device) (p : Nat) (checks : MxD → Option Tile → Nat) (q : Desc) : Device :=
  let x := mxd q.words
  let st := checks x (d.panAt p).arr.tile
  if st ≠ 0 then d.updPan p (fun r => r.rejectHead q st)
  else if x.ready (d.panAt p) then startPasses d p q x else d

theorem startMatrix_due (h : MatrixDue d p op q) :
    startMatrix d p op hit checks = d.panAccess p hit (matrixSpans d p q) (fun _ => matrixWork d p checks q) := by
  obtain ⟨hq, hw, htakes, hr⟩ := h
  simp only [startMatrix, hq]
  rw [if_pos ⟨htakes, hw, by rw [hr]; rfl⟩, Device.panAccess_const]
  simp only [matrixWork, ← Device.updPan_const (f := fun r => r.rejectHead q (checks (mxd q.words) (d.panAt p).arr.tile))]

theorem startMatrix_ignored
    (h : ∀ q, d.headOn p = some q → ¬takesOp op (mxd q.words).op ∨ q.phase ≠ .waiting ∨ (d.panAt p).rerunning = true) :
    startMatrix d p op hit checks = d := by
  cases hq : d.headOn p with
  | none => simp only [startMatrix, hq]
  | some q =>
    have hno : ¬(takesOp op (mxd q.words).op ∧ q.phase = .waiting ∧ (!(d.panAt p).rerunning) = true) := by
      rintro ⟨htakes, hw, hr⟩
      rcases h q hq with h | h | h
      · exact h htakes
      · exact h hw
      · simp [h] at hr
    simp only [startMatrix, hq, if_neg hno]

theorem startMatrix_clear (h : MatrixDue d p op q) (hs : (matrixSpans d p q).any (fun s => (d.panAt p).holds s.1 s.2) = false)
    (he : matrixWork d p checks q = e) : startMatrix d p op none checks = e := by
  rw [startMatrix_due h, Device.panAccess_clear hs, he]

theorem startMatrix_hit (h : MatrixDue d p op q) (hs : (matrixSpans d p q).any (fun s => (d.panAt p).holds s.1 s.2) = false)
    (ha : (matrixSpans d p q).any (inSpan a) = true) : startMatrix d p op (some a) checks = parityHit d p a := by
  rw [startMatrix_due h, Device.panAccess_hit hs ha]

theorem startMatrix_held (h : MatrixDue d p op q)
    (hs : (matrixSpans d p q).any (fun s => (d.panAt p).holds s.1 s.2) = true ∨ ∃ a, hit = some a ∧ (matrixSpans d p q).any (inSpan a) = false) :
    startMatrix d p op hit checks = d := by
  rw [startMatrix_due h, Device.panAccess_none hs]

/-! ### The work of a descriptor that is clear -/

theorem matrixWork_rejected (hc : checks (mxd q.words) (d.panAt p).arr.tile ≠ 0) :
    matrixWork d p checks q = d.updPan p (fun r => r.rejectHead q (checks (mxd q.words) (d.panAt p).arr.tile)) := if_pos hc

theorem matrixWork_waiting (hc : checks (mxd q.words) (d.panAt p).arr.tile = 0) (hready : (mxd q.words).ready (d.panAt p) = false) :
    matrixWork d p checks q = d := by
  simp only [matrixWork, hc, hready, ne_eq, not_true_eq_false, Bool.false_eq_true, if_false]

theorem matrixWork_starts (hc : checks (mxd q.words) (d.panAt p).arr.tile = 0) (hready : (mxd q.words).ready (d.panAt p) = true) :
    matrixWork d p checks q = startPasses d p q (mxd q.words) := by
  simp only [matrixWork, hc, hready, ne_eq, not_true_eq_false, if_false, if_true]

/-- The entries that a start clears under CLR and puts in heritage mode (04 R117; 03 R548). -/
def entriesStarted (x : MxD) (r : Pan) : Pan := (if x.clr then r.clearRows x.lbase x.m else r).makeHeritage x

/-- The pan once its descriptor's passes begin: the entries started, the tile loaded without WKEEP, at row 0 (04 R117, R121, R122). -/
def passesBegun (d : Device) (p : Nat) (q : Desc) (r : Pan) : Pan :=
  let x := mxd q.words
  let a := entriesStarted x r
  let b : Pan := if x.wkeep then { a with arr := { a.arr with tileValid := true } }
    else { a.raise (.fl (tileFlushes d p x x.tile)) with arr := { a.arr with tile := some x.tile, tileValid := true } }
  b.setHead { q with phase := .passes, row := 0 }

theorem startPasses_empty (hm : (mxd q.words).m = 0) : startPasses d p q (mxd q.words) = d.updPan p (fun r => r.rejectHead q stOk) := by
  rw [startPasses, if_pos hm, Device.updPan_const (f := fun r => r.rejectHead q stOk)]

theorem startPasses_heritage (hm : (mxd q.words).m ≠ 0) (hh : heritageBad (d.panAt p) (mxd q.words) = true) :
    startPasses d p q (mxd q.words) = d.updPan p (fun r => r.rejectHead q stHeritageOrder) := by
  rw [startPasses, if_neg hm, if_pos hh, Device.updPan_const (f := fun r => r.rejectHead q stHeritageOrder)]

theorem startPasses_begun (hm : (mxd q.words).m ≠ 0) (hh : heritageBad (d.panAt p) (mxd q.words) = false) :
    startPasses d p q (mxd q.words) = d.updPan p (passesBegun d p q) := by
  rw [startPasses, if_neg hm, hh, if_neg Bool.false_ne_true, ← Device.updPan_const (f := passesBegun d p q)]
  rfl

end Start

/-! ### MATMUL and CONV -/

section Commands
variable {d e : Device} {p : Fin 64} {hit : Option Nat} {q : Desc}

theorem takes_matmul (h : startMatrix d p 1 hit (matmulChecks d p) = e) : Takes (.matmul p hit) d e := fun s => by
  subst h
  rfl

theorem takes_conv (h : startMatrix d p 2 hit (convChecks d p) = e) : Takes (.conv p hit) d e := fun s => by
  subst h
  rfl

theorem matmulDue (hq : d.headOn p = some q) (hw : q.phase = .waiting) (hop : (mxd q.words).op = 1 ∨ (mxd q.words).op = 0 ∨ 4 < (mxd q.words).op)
    (hr : (d.panAt p).rerunning = false) : MatrixDue d p 1 q := ⟨hq, hw, takesOp_one.mpr hop, hr⟩

theorem convDue (hq : d.headOn p = some q) (hw : q.phase = .waiting) (hop : (mxd q.words).op = 2) (hr : (d.panAt p).rerunning = false) :
    MatrixDue d p 2 q := ⟨hq, hw, takesOp_two.mpr hop, hr⟩

end Commands

/-! ### PASS -/

section Pass
variable {d e : Device} {p : Fin 64} {a : Nat} {bad : Bool} {hit : Option Nat} {q : Desc}

/-- Descriptor q at the head has a row whose pass may be tried: passes left, an array that issues, fewer than three mismatches in a row, and the
halo tags of the row present (04 R121, R135; 08 R250; 17 R466). -/
structure PassDue (d : Device) (p : Nat) (q : Desc) : Prop where
  head : d.headOn p = some q
  left : q.passesLeft = true
  op : (mxd q.words).op = 1 ∨ (mxd q.words).op = 2
  issues : d.arrayIssues p = true
  runs : (d.panAt p).arr.consec < 3
  halo : haloReady d p (mxd q.words) q.row = true

/-- The tile that the passes of descriptor q use: the one in the array, or its own before any was loaded (04 R122). -/
abbrev passTile (d : Device) (p : Nat) (q : Desc) : Tile := (d.panAt p).arr.tile.getD (mxd q.words).tile

/-- The stretches that the pass of descriptor q's row reads (06 R177). -/
abbrev rowSpans (d : Device) (p : Nat) (q : Desc) : List (Nat × Nat) := passSpans d p (mxd q.words) (passTile d p q) q.row

/-- The pass of a row whose operands are clear: a mismatch only counts, else its row is promoted (04 R115, R134). -/
def passWork (d : Device) (p : Nat) (bad : Bool) (q : Desc) : Device :=
  if bad then d.updPan p Pan.mismatch
  else d.updPan p (fun _ => ((passRow d p (mxd q.words) (passTile d p q) q.row).setHead { q with row := q.row + 1 }).passed)

theorem takes_pass (h : PassDue d p q) (he : d.panAccess p hit (rowSpans d p q) (fun _ => passWork d p bad q) = e) :
    Takes (.pass p bad hit) d e := fun s => by
  obtain ⟨hq, hleft, hop, hissues, hruns, hhalo⟩ := h
  have hmatrix : ((mxd q.words).op == 1 || (mxd q.words).op == 2) = true := by simpa using hop
  change execPass p bad hit _ = _
  simp only [execPass, onDev, hq, hleft, hmatrix, hissues, Nat.not_le.mpr hruns, hhalo, Bool.not_true, decide_false, Bool.or_self,
    Bool.false_eq_true, if_false]
  rw [Device.panAccess_const]
  subst he
  rfl

theorem takes_pass_ignored
    (h : ∀ q, d.headOn p = some q → q.passesLeft = false ∨ ¬((mxd q.words).op = 1 ∨ (mxd q.words).op = 2) ∨ d.arrayIssues p = false ∨
      3 ≤ (d.panAt p).arr.consec ∨ haloReady d p (mxd q.words) q.row = false) : Takes (.pass p bad hit) d d := fun s => by
  change execPass p bad hit _ = _
  cases hq : d.headOn p with
  | none => simp only [execPass, onDev, hq]
  | some q =>
    have hstop : (!q.passesLeft || !((mxd q.words).op == 1 || (mxd q.words).op == 2) || !d.arrayIssues p || decide (3 ≤ (d.panAt p).arr.consec)
        || !haloReady d p (mxd q.words) q.row) = true := by
      simpa [or_assoc] using h q hq
    simp only [execPass, onDev, hq, hstop, if_true]

end Pass

/-- Settles O24: each clause is one outcome of the start of a descriptor, for one of the two commands, or of a pass. -/
theorem matrixDescriptorAndPasses : Obligations.MatrixDescriptorAndPasses := by
  unfold Obligations.MatrixDescriptorAndPasses
  refine ⟨?matmulRejected, ?matmulWaits, ?matmulBegins, ?matmulEmpty, ?matmulHeritage, ?matmulIgnored, ?matmulHit, ?matmulHeld, ?convRejected,
    ?convWaits, ?convBegins, ?convEmpty, ?convHeritage, ?convIgnored, ?convHit, ?convHeld, ?passGood, ?passBad, ?passIgnored, ?passHit, ?passHeld⟩
  case matmulRejected =>
    exact fun _ _ _ hq hw hop hr hs hc => takes_matmul (startMatrix_clear (matmulDue hq hw hop hr) hs (matrixWork_rejected hc))
  case matmulWaits =>
    exact fun _ _ _ hq hw hop hr hs hc hy => takes_matmul (startMatrix_clear (matmulDue hq hw hop hr) hs (matrixWork_waiting hc hy))
  case matmulBegins =>
    exact fun _ _ _ hq hw hop hr hs hc hy hm hh =>
      takes_matmul (startMatrix_clear (matmulDue hq hw hop hr) hs ((matrixWork_starts hc hy).trans (startPasses_begun hm hh)))
  case matmulEmpty =>
    exact fun _ _ _ hq hw hop hr hs hc hy hm =>
      takes_matmul (startMatrix_clear (matmulDue hq hw hop hr) hs ((matrixWork_starts hc hy).trans (startPasses_empty hm)))
  case matmulHeritage =>
    exact fun _ _ _ hq hw hop hr hs hc hy hm hh =>
      takes_matmul (startMatrix_clear (matmulDue hq hw hop hr) hs ((matrixWork_starts hc hy).trans (startPasses_heritage hm hh)))
  case matmulIgnored => exact fun _ _ _ h => takes_matmul (startMatrix_ignored (fun q hq => (h q hq).imp_left (mt takesOp_one.mp)))
  case matmulHit => exact fun _ _ _ _ hq hw hop hr hs ha => takes_matmul (startMatrix_hit (matmulDue hq hw hop hr) hs ha)
  case matmulHeld => exact fun _ _ _ _ hq hw hop hr hs => takes_matmul (startMatrix_held (matmulDue hq hw hop hr) hs)
  case convRejected =>
    exact fun _ _ _ hq hw hop hr hs hc => takes_conv (startMatrix_clear (convDue hq hw hop hr) hs (matrixWork_rejected hc))
  case convWaits =>
    exact fun _ _ _ hq hw hop hr hs hc hy => takes_conv (startMatrix_clear (convDue hq hw hop hr) hs (matrixWork_waiting hc hy))
  case convBegins =>
    exact fun _ _ _ hq hw hop hr hs hc hy hm hh =>
      takes_conv (startMatrix_clear (convDue hq hw hop hr) hs ((matrixWork_starts hc hy).trans (startPasses_begun hm hh)))
  case convEmpty =>
    exact fun _ _ _ hq hw hop hr hs hc hy hm =>
      takes_conv (startMatrix_clear (convDue hq hw hop hr) hs ((matrixWork_starts hc hy).trans (startPasses_empty hm)))
  case convHeritage =>
    exact fun _ _ _ hq hw hop hr hs hc hy hm hh =>
      takes_conv (startMatrix_clear (convDue hq hw hop hr) hs ((matrixWork_starts hc hy).trans (startPasses_heritage hm hh)))
  case convIgnored => exact fun _ _ _ h => takes_conv (startMatrix_ignored (fun q hq => (h q hq).imp_left (mt takesOp_two.mp)))
  case convHit => exact fun _ _ _ _ hq hw hop hr hs ha => takes_conv (startMatrix_hit (convDue hq hw hop hr) hs ha)
  case convHeld => exact fun _ _ _ _ hq hw hop hr hs => takes_conv (startMatrix_held (convDue hq hw hop hr) hs)
  case passGood => exact fun _ _ _ hq hl hop hi hk hh hs => takes_pass ⟨hq, hl, hop, hi, hk, hh⟩ (Device.panAccess_clear hs)
  case passBad => exact fun _ _ _ hq hl hop hi hk hh hs => takes_pass ⟨hq, hl, hop, hi, hk, hh⟩ (Device.panAccess_clear hs)
  case passIgnored => exact fun _ _ _ _ => takes_pass_ignored
  case passHit => exact fun _ _ _ _ _ hq hl hop hi hk hh hs ha => takes_pass ⟨hq, hl, hop, hi, hk, hh⟩ (Device.panAccess_hit hs ha)
  case passHeld => exact fun _ _ _ _ _ hq hl hop hi hk hh hs => takes_pass ⟨hq, hl, hop, hi, hk, hh⟩ (Device.panAccess_none hs)

/-! ### The end of a descriptor -/

section Completion
variable {d : Device} {p : Fin 64} {q : Desc}

/-- Nothing of descriptor q remains but its completion (04 R121). -/
abbrev mayComplete (d : Device) (p : Nat) (q : Desc) : Prop :=
  q.phase = .done ∨ q.phase = .written ∨ (q.passesDone = true ∧ owesFinish d p (mxd q.words) = false)

theorem mayComplete_iff :
    (q.phase == .done || q.phase == .written || (q.passesDone && !owesFinish d p (mxd q.words))) = true ↔ mayComplete d p q := by
  simp [mayComplete, or_assoc]

/-- The queue entry freed: LAST_STATUS is its status, and SET_FLAG is set when asked (04 R121, R123). -/
def entryFreed (q : Desc) (r : Pan) : Pan :=
  let a : Pan := { r with arr := { r.arr with queue := r.arr.queue.drop 1, lastStatus := q.status } }
  if (mxd q.words).setEn then a.setFlag (mxd q.words).setFlag else a

theorem takes_descriptorComplete (hq : d.headOn p = some q) (h : mayComplete d p q) : Takes (.descriptorComplete p) d
    (if q.status = 0 then d.updPan p (entryFreed q) else noteDescStatus (d.updPan p (entryFreed q)) p q.seq q.status) := fun s => by
  change execDescriptorComplete p _ = _
  simp only [execDescriptorComplete, onDev, hq, mayComplete_iff.mpr h, if_true]
  rfl

theorem takes_descriptorComplete_ignored (h : ∀ q, d.headOn p = some q → ¬mayComplete d p q) : Takes (.descriptorComplete p) d d := fun s => by
  change execDescriptorComplete p _ = _
  cases hq : d.headOn p with
  | none => simp only [execDescriptorComplete, onDev, hq]
  | some q => simp only [execDescriptorComplete, onDev, hq, mt mayComplete_iff.mp (h q hq), Bool.false_eq_true, if_false]

theorem takes_haloTimeout (hq : d.headOn p = some q) (hleft : q.passesLeft = true) (hop : (mxd q.words).op = 2)
    (hhalo : haloReady d p (mxd q.words) q.row = false) :
    Takes (.haloTimeout p) d ((d.updPan p (fun r => r.rejectHead q 0x0708)).panFault p .halo 0x0708) := fun s => by
  change execHaloTimeout p _ = _
  simp only [execHaloTimeout, onDev, hq, hleft, hop, hhalo, beq_self_eq_true, Bool.not_false, Bool.and_self, if_true]
  rfl

theorem takes_haloTimeout_ignored
    (h : ∀ q, d.headOn p = some q → q.passesLeft = false ∨ (mxd q.words).op ≠ 2 ∨ haloReady d p (mxd q.words) q.row = true) :
    Takes (.haloTimeout p) d d := fun s => by
  change execHaloTimeout p _ = _
  cases hq : d.headOn p with
  | none => simp only [execHaloTimeout, onDev, hq]
  | some q =>
    have hno : (q.passesLeft && (mxd q.words).op == 2 && !haloReady d p (mxd q.words) q.row) = false := by
      rcases h q hq with h | h | h <;> simp [h]
    simp only [execHaloTimeout, onDev, hq, hno, Bool.false_eq_true, if_false]

end Completion

/-- Settles O26: each clause is one outcome of the two events. -/
theorem descriptorCompletion : Obligations.DescriptorCompletion := by
  unfold Obligations.DescriptorCompletion
  refine ⟨?completes, ?notComplete, ?timesOut, ?noTimeout⟩
  case completes => exact fun _ _ _ => takes_descriptorComplete
  case notComplete => exact fun _ _ => takes_descriptorComplete_ignored
  case timesOut => exact fun _ _ _ => takes_haloTimeout
  case noTimeout => exact fun _ _ => takes_haloTimeout_ignored

end Sys2Proof.Machine
end

section
/-! PROOFS. The messages of the Sluice (01 R39; 06 R177, R184, R196; 09 R259 to R264; 19 R521): an access that may meet a corruption, the admission at
an owner, and what each of the five messages does at its Terrace. -/
namespace Sys2Proof.Machine

/-! ### An access that may meet a corruption -/

section Hits
variable {d : Device} {h : Hit} {hit : Option Hit} {spans : List (Nat × Nat)} {lost : Device → Nat → Device} {go : Device → Device}

/-- A corruption that can stand where it is said to, in one of the stretches accessed (06 R177, R184, R196). -/
abbrev hitMet (d : Device) (h : Hit) (spans : List (Nat × Nat)) : Prop :=
  hitFits d h = true ∧ spans.any (fun s => decide (s.1 ≤ hitAddr h) && decide (hitAddr h < s.1 + s.2)) = true

theorem Device.withHit_clear (hs : spans.any (fun s => heldAt d s.1 s.2) = false) : d.withHit none spans lost go = go d := by
  simp only [Device.withHit, hs, Bool.false_eq_true, if_false]

theorem Device.withHit_held (hs : spans.any (fun s => heldAt d s.1 s.2) = true) : d.withHit hit spans lost go = d := by
  simp only [Device.withHit, hs, if_true]

theorem Device.withHit_met (hs : spans.any (fun s => heldAt d s.1 s.2) = false) (hmet : hitMet d h spans) :
    d.withHit (some h) spans lost go = if hitPersistent h then lost (d.meetHit h) (hitAddr h)
      else if spans.any (fun s => heldAt (d.meetHit h) s.1 s.2) then d.meetHit h else go (d.meetHit h) := by
  obtain ⟨hfits, hin⟩ := hmet
  simp only [Device.withHit, hs, hfits, hin, Bool.not_true, Bool.or_self, Bool.false_eq_true, if_false]

/-- A corruption that is not there leaves the access undone, whether or not something is held. -/
theorem Device.withHit_unmet (hnot : ¬hitMet d h spans) : d.withHit (some h) spans lost go = d := by
  have hmiss : (!hitFits d h || !spans.any (fun s => decide (s.1 ≤ hitAddr h) && decide (hitAddr h < s.1 + s.2))) = true := by
    rwa [← Bool.not_and, Bool.not_eq_true', ← Bool.not_eq_true, Bool.and_eq_true]
  simp only [Device.withHit, hmiss, if_true, ite_self]

theorem Device.withHit_undone
    (h : spans.any (fun s => heldAt d s.1 s.2) = true ∨ ∃ h, hit = some h ∧ ¬hitMet d h spans) : d.withHit hit spans lost go = d := by
  rcases h with hs | ⟨h, rfl, hnot⟩
  · exact Device.withHit_held hs
  · exact Device.withHit_unmet hnot

end Hits

/-! ### The admission at an owner -/

section Admission
variable {d : Device} {t : Fin 4} {c : SluiceCmd} {p : Dispatch}

@[simp] theorem Device.engAt_updEng (d : Device) (t : Fin 4) (f : Engines → Engines) : (d.updEng t f).engAt t = f (d.engAt t) := by
  simp [Device.updEng, Device.engAt]

/-- With the admission made, or fewer than NSRC sources at their END, nothing more is granted (09 R259). -/
theorem grantAll_of_not_due (hc : d.sluiceHead t = some c) (hp : (d.engAt t).disp = some p)
    (h : p.answered = true ∨ (endedSources (d.engAt t).inbox).length < (sluiceF c.bytes).nsrc) : d.grantAll t = d := by
  have hstop : (p.answered || decide ((endedSources (d.engAt t).inbox).length < (sluiceF c.bytes).nsrc) || dispatchHeld d) = true := by
    rcases h with h | h <;> simp [h]
  simp only [Device.grantAll, hc, hp, hstop, if_true]

theorem grantAll_of_no_dispatch (h : d.sluiceHead t = none ∨ (d.engAt t).disp = none) : d.grantAll t = d := by
  rcases h with h | h
  · simp only [Device.grantAll, h]
  · cases hc : d.sluiceHead t <;> simp only [Device.grantAll, hc, h]

/-- An END of a Sluice of a peer last in an owner's inbox (09 R259). -/
abbrev endQueued (peer ter : Nat) (e : Engines) : Engines := { e with inbox := e.inbox ++ [{ isLocal := false, peer := peer, ter := ter }] }

/-- An END in the inbox changes no Sluice command. -/
theorem sluiceHead_endQueued (d : Device) (t : Fin 4) (peer ter : Nat) : (d.updEng t (endQueued peer ter)).sluiceHead t = d.sluiceHead t := by
  simp only [Device.sluiceHead, Device.engAt_updEng]

end Admission

/-! ### The five messages -/

section Messages
variable {d e : Device} {t : Fin 4} {r : SlReq} {peer ter src token rank expert slot col : Nat} {data : List Nat} {c : SluiceCmd} {hit : Option Hit}

theorem takes_sluiceRequest (hon : engOn d = true) : Takes (.sluiceRequest t r) d (d.takeRequest t r) := fun s => by
  change execSluiceRequest t r _ = _
  simp only [execSluiceRequest, onDev, hon, if_true]

theorem takes_sluiceRequest_off (hoff : engOn d = false) : Takes (.sluiceRequest t r) d d := fun s => by
  change execSluiceRequest t r _ = _
  simp only [execSluiceRequest, onDev, hoff, Bool.false_eq_true, if_false]

theorem takes_sluiceEnd (hon : engOn d = true) (he : (d.updEng t (endQueued peer ter)).grantAll t = e) : Takes (.sluiceEnd t peer ter) d e :=
  fun s => by
  change execSluiceEnd t peer ter _ = _
  subst he
  simp only [execSluiceEnd, onDev, hon, if_true, Device.takeEnd]

theorem takes_sluiceEnd_off (hoff : engOn d = false) : Takes (.sluiceEnd t peer ter) d d := fun s => by
  change execSluiceEnd t peer ter _ = _
  simp only [execSluiceEnd, onDev, hoff, Bool.false_eq_true, if_false]

theorem takes_sluiceEnd_not_due {p : Dispatch} (hon : engOn d = true) (hc : d.sluiceHead t = some c) (hp : (d.engAt t).disp = some p)
    (h : p.answered = true ∨ (endedSources (endQueued peer ter (d.engAt t)).inbox).length < (sluiceF c.bytes).nsrc) :
    Takes (.sluiceEnd t peer ter) d (d.updEng t (endQueued peer ter)) := by
  have hhead : (d.updEng t (endQueued peer ter)).sluiceHead t = some c := by rw [sluiceHead_endQueued, hc]
  refine takes_sluiceEnd hon (grantAll_of_not_due (p := p) hhead ?_ ?_)
  · rw [Device.engAt_updEng, hp]
  · rwa [Device.engAt_updEng]

theorem takes_sluiceEnd_no_dispatch (hon : engOn d = true) (h : d.sluiceHead t = none ∨ (d.engAt t).disp = none) :
    Takes (.sluiceEnd t peer ter) d (d.updEng t (endQueued peer ter)) := by
  refine takes_sluiceEnd hon (grantAll_of_no_dispatch ?_)
  rwa [sluiceHead_endQueued, Device.engAt_updEng]

/-- A line of the slot that a row goes to is held: the row waits (01 R39). -/
abbrev rowHeld (d : Device) (c : SluiceCmd) (expert slot n : Nat) : Bool :=
  heldAt d (rowSpan d (sluiceF c.bytes) expert slot n).1 (rowSpan d (sluiceF c.bytes) expert slot n).2

theorem takes_sluiceRow (hon : engOn d = true) (h : ∀ c, d.sluiceHead t = some c → rowHeld d c expert slot data.length = false) :
    Takes (.sluiceRow t expert slot data) d (d.takeRow t expert slot data) := fun s => by
  change execSluiceRow t expert slot data _ = _
  cases hc : d.sluiceHead t with
  | none => simp only [execSluiceRow, onDev, hon, hc, Bool.not_false, Bool.and_self, if_true]
  | some c => simp only [execSluiceRow, onDev, hon, hc, h c hc, Bool.not_false, Bool.and_self, if_true]

theorem takes_sluiceRow_held (hc : d.sluiceHead t = some c) (h : rowHeld d c expert slot data.length = true) :
    Takes (.sluiceRow t expert slot data) d d := fun s => by
  change execSluiceRow t expert slot data _ = _
  simp only [execSluiceRow, onDev, hc, h, Bool.not_true, Bool.and_false, Bool.false_eq_true, if_false]

theorem takes_sluiceRow_off (hoff : engOn d = false) : Takes (.sluiceRow t expert slot data) d d := fun s => by
  change execSluiceRow t expert slot data _ = _
  simp only [execSluiceRow, onDev, hoff, Bool.false_and, Bool.false_eq_true, if_false]

theorem takes_sluiceRecord (hon : engOn d = true) (h : recordWaits d t expert slot token col = false) :
    Takes (.sluiceRecord t src ter expert slot token col data) d (d.takeRecord09 t src ter expert slot token col data) := fun s => by
  change execSluiceRecord t src ter expert slot token col data _ = _
  simp only [execSluiceRecord, onDev, hon, h, Bool.not_false, Bool.and_self, if_true]

theorem takes_sluiceRecord_ignored (h : engOn d = false ∨ recordWaits d t expert slot token col = true) :
    Takes (.sluiceRecord t src ter expert slot token col data) d d := fun s => by
  have hstay : (engOn d && !recordWaits d t expert slot token col) = false := by
    rcases h with h | h <;> simp only [h, Bool.false_and, Bool.not_true, Bool.and_false]
  change execSluiceRecord t src ter expert slot token col data _ = _
  simp only [execSluiceRecord, onDev, hstay, Bool.false_eq_true, if_false]

theorem takes_sluiceGrant (hon : engOn d = true)
    (he : d.withHit hit (grantSpans d t token rank slot) Device.holdFault (fun e => e.takeGrant t token rank slot) = e) :
    Takes (.sluiceGrant t token rank slot hit) d e := fun s => by
  change execSluiceGrant t token rank slot hit _ = _
  simp only [execSluiceGrant, onDev, hon, if_true, he]

theorem takes_sluiceGrant_off (hoff : engOn d = false) : Takes (.sluiceGrant t token rank slot hit) d d := fun s => by
  change execSluiceGrant t token rank slot hit _ = _
  simp only [execSluiceGrant, onDev, hoff, Bool.false_eq_true, if_false]

end Messages

/-- Settles O36: each clause is one outcome of its message. -/
theorem sluiceMessages : Obligations.SluiceMessages := by
  unfold Obligations.SluiceMessages
  refine ⟨?request, ?endNotDue, ?endNoDispatch, ?endAdmits, ?row, ?rowHeld, ?record, ?recordWaits, ?grant, ?grantMet, ?grantUndone, ?requestOff,
    ?endOff, ?grantOff, ?rowOff, ?recordOff⟩
  case request => exact fun _ _ _ => takes_sluiceRequest
  case endNotDue => exact fun _ _ _ _ _ _ => takes_sluiceEnd_not_due
  case endNoDispatch => exact fun _ _ _ _ => takes_sluiceEnd_no_dispatch
  case endAdmits => exact fun _ _ _ _ hon => takes_sluiceEnd hon rfl
  case row => exact fun _ _ _ _ _ => takes_sluiceRow
  case rowHeld => exact fun _ _ _ _ _ _ => takes_sluiceRow_held
  case record => exact fun _ _ _ _ _ _ _ _ _ => takes_sluiceRecord
  case recordWaits => exact fun _ _ _ _ _ _ _ _ _ hw => takes_sluiceRecord_ignored (.inr hw)
  case grant => exact fun _ _ _ _ _ hon hs => takes_sluiceGrant hon (Device.withHit_clear hs)
  case grantMet => exact fun _ _ _ _ _ _ hon hs hmet => takes_sluiceGrant hon (Device.withHit_met hs hmet)
  case grantUndone => exact fun _ _ _ _ _ _ hon h => takes_sluiceGrant hon (Device.withHit_undone h)
  case requestOff => exact fun _ _ _ => takes_sluiceRequest_off
  case endOff => exact fun _ _ _ _ => takes_sluiceEnd_off
  case grantOff => exact fun _ _ _ _ _ _ => takes_sluiceGrant_off
  case rowOff => exact fun _ _ _ _ _ => takes_sluiceRow_off
  case recordOff => exact fun _ _ _ _ _ _ _ _ _ hoff => takes_sluiceRecord_ignored (.inl hoff)

end Sys2Proof.Machine
end

section
/-! PROOFS. The integer lanes, the segment reductions, the transfers with the pan store, and what fields that fault do (05 R137 to R147, R155, R169;
06 R177). -/
namespace Sys2Proof.Machine

/-! ### One pan updated -/

/-- An update of a pan is what it makes of that pan as it stands. -/
theorem Device.updPan_congr {d : Device} {p : Nat} {g g' : Pan → Pan} (h : g (d.panAt p) = g' (d.panAt p)) : d.updPan p g = d.updPan p g' := by
  rw [← Device.updPan_const, h, Device.updPan_const]

/-- What an update of a pan keeps of every pan, it keeps of each pan of the device. -/
theorem panAt_updPan_keeps {α : Type} (get : Pan → α) {g : Pan → Pan} (hg : ∀ q, get (g q) = get q) (d : Device) (t : Nat) (r : Fin 64) :
    get ((d.updPan t g).panAt r) = get (d.panAt r) := by
  by_cases hr : t = r
  · rw [hr, Device.panAt_updPan, hg]
  · exact congrArg get (vget_vmod_ne ({} : Pan) d.pan t r g hr)

/-! ### Integer lanes -/

/-- Settles O8: each instruction is `vLanes` with its operation. -/
theorem integerLaneInstructions : Obligations.IntegerLaneInstructions := by
  unfold Obligations.IntegerLaneInstructions
  refine ⟨?viadd, ?visub, ?vimul, ?vand, ?vor, ?vxor, ?vsll, ?vsrl, ?vsra, ?vimin, ?vimax⟩
  case viadd => exact fun _ _ _ => takes_lanes .iadd (fun _ => rfl)
  case visub => exact fun _ _ _ => takes_lanes .isub (fun _ => rfl)
  case vimul => exact fun _ _ _ => takes_lanes .imul (fun _ => rfl)
  case vand => exact fun _ _ _ => takes_lanes .band (fun _ => rfl)
  case vor => exact fun _ _ _ => takes_lanes .bor (fun _ => rfl)
  case vxor => exact fun _ _ _ => takes_lanes .bxor (fun _ => rfl)
  case vsll => exact fun _ _ _ => takes_lanes .sll (fun _ => rfl)
  case vsrl => exact fun _ _ _ => takes_lanes .srl (fun _ => rfl)
  case vsra => exact fun _ _ _ => takes_lanes .sra (fun _ => rfl)
  case vimin => exact fun _ _ _ => takes_lanes .imin (fun _ => rfl)
  case vimax => exact fun _ _ _ => takes_lanes .imax (fun _ => rfl)

/-! ### Segment reductions -/

section Segments
variable {p : Fin 64} {v : VInsn} {d : Device} {c : Instr} {f : Device → PRes}

/-- The answer of a vector instruction that reads the device and writes codes into VD. -/
theorem takes_vectorDone_of_ok {k : VKind} {cs : Pan → List Conv} (hexec : ∀ s, exec c s = onDev s (fun d => d.runLane p f))
    (h : VectorReady d p k v) (hf : f d = .ok (d.updPan p (fun q => q.vdone v (vfD v) (cs q)))) : Takes c d (vectorDone d p v (vfD v) cs) :=
  takes_of_ok hexec h rfl (Pan.vdone_core _ _ _ _) hf

/-- What a reduction writes: one result for each run of x[VB] counted elements (05 R146). -/
def segmentCodes (o : SegOp) (v : VInsn) (q : Pan) : List Conv :=
  (splitEvery (q.xreg v.vb) (vCount v q) (q.velems v.va (vfD v) (vCount v q))).map (segment o v (vfD v))

theorem vSegment_of_length {o : SegOp} (h : VectorReady d p (.lanes vTypes) v) (hlen : (d.panAt p).xreg v.vb ≠ 0) :
    vSegment d p o v = .ok (d.updPan p (fun q => q.vdone v (vfD v) (segmentCodes o v q))) := by
  rw [vSegment, vRun_of_ready h, if_neg hlen, ← Device.updPan_const (f := fun q => q.vdone v (vfD v) (segmentCodes o v q))]
  rfl

theorem vSegment_of_zero {o : SegOp} (h : VectorReady d p (.lanes vTypes) v) (hlen : (d.panAt p).xreg v.vb = 0) :
    vSegment d p o v = .halt d .zeroSize stZeroSize := by
  rw [vSegment, vRun_of_ready h, if_pos hlen]

end Segments

/-- Settles O11: each instruction is `vSegment` with its reduction, on a length G that is zero or not. -/
theorem segmentInstructions : Obligations.SegmentInstructions := by
  unfold Obligations.SegmentInstructions
  refine ⟨?vsegsum, ?vsegmax, ?vsegmin, ?vsegsumZero, ?vsegmaxZero, ?vsegminZero⟩
  case vsegsum | vsegmax | vsegmin => exact fun _ _ _ h hlen => takes_vectorDone_of_ok (fun _ => rfl) h (vSegment_of_length h hlen)
  case vsegsumZero | vsegmaxZero | vsegminZero => exact fun _ _ _ h hlen => takes_of_halt (fun _ => rfl) h (vSegment_of_zero h hlen)

/-! ### The summary of no elements -/

theorem summaryOf_nil_of_float {f : Fmt} (h : f.isInt = false) :
    (summaryOf f []).1 = { max := 0xFF800000, min := 0x7F800000, sum := 0, sumHi := 0, allZero := true, nz := 0, nan := 0 } := by
  rw [summaryOf, h]
  rfl

theorem summaryOf_nil_of_int {f : Fmt} (h : f.isInt = true) :
    (summaryOf f []).1 = { max := 0x80000000, min := 0x7FFFFFFF, sum := 0, sumHi := 0, allZero := true, nz := 0, nan := 0, fp := false } := by
  simp only [summaryOf, h, if_true, List.map_nil]
  decide

@[simp] theorem Pan.setPc_vec (q : Pan) (a : Nat) : (q.setPc a).vec = q.vec := rfl

/-- An instruction with SUM leaves the summary of the codes it wrote. -/
theorem vdone_vsum (q : Pan) {v : VInsn} (f : Fmt) (cs : List Conv) (h : v.sum = true) :
    (q.vdone v f cs).vec.vsum = (summaryOf f (cs.map Conv.code)).1 := by
  rw [Pan.vdone, Pan.summarise, h]
  rfl

theorem lanesOf_of_no_count {v : VInsn} {q : Pan} (h : vCount v q = 0) (f : Fmt) (g : Nat → Nat → Nat → Conv) : lanesOf v f g q = [] := by
  rw [lanesOf, h]
  rfl

/-- Settles O58: the folds of a summary start from its identities; VMOV of no elements takes the summary of no codes. -/
theorem emptySummary : Obligations.EmptySummary := by
  unfold Obligations.EmptySummary
  refine ⟨fun _ => summaryOf_nil_of_float, fun _ => summaryOf_nil_of_int, fun _ _ _ h hsum hcount =>
    ⟨_, takes_lanes .mov (fun _ => rfl) h, ?vsum⟩⟩
  case vsum => rw [vectorDone, Device.panAt_updPan, Pan.logStep_vec, Pan.setPc_vec, vdone_vsum _ _ _ hsum, lanesOf_of_no_count hcount, List.map_nil]

/-! ### Fields that raise a fault -/

section FieldFaults
variable {p : Fin 64} {k : VKind} {v : VInsn} {d : Device} {cause : Cause} {st : Nat}

theorem vRun_of_fault (hfault : vFault k v (d.panAt p) = some (cause, st)) (body : Pan → Nat → PRes) : vRun d p k v body = .halt d cause st := by
  simp only [vRun, hfault]

theorem lRun_of_fault (hfault : vFault k v (d.panAt p) = some (cause, st)) (body : Pan → Nat → PRes) : lRun d p k v body = .halt d cause st :=
  vRun_of_fault hfault _

/-- A vector instruction whose work is a fault halts its core with that. -/
theorem takes_lane_fault {c : Instr} {f : Device → PRes} (hexec : ∀ s, exec c s = onDev s (fun d => d.runLane p f)) (h : CoreTakes d p)
    (hskip : (d.panAt p).droopSkip = 0) (hf : f d = .halt d cause st) : Takes c d (d.panFault p cause st) := fun s => by
  obtain ⟨hready, hfirst⟩ := h
  rw [hexec, onDev, Device.runLane, hready, hskip, inSegment_first hfirst, hf]
  rfl

end FieldFaults

/-- Settles O16: every vector instruction checks its fields first, in `vRun`; a load or store that faults meets no parity hit. -/
theorem vectorFieldFaults : Obligations.VectorFieldFaults := by
  unfold Obligations.VectorFieldFaults
  intro p v hit d c st h hskip
  refine ⟨?vmov, ?vsel, ?vmin, ?vmax, ?vadd, ?vsub, ?vmul, ?vfma, ?vabs, ?vneg, ?vcpsgn, ?viadd, ?visub, ?vimul, ?vand, ?vor, ?vxor, ?vsll, ?vsrl,
    ?vsra, ?vimin, ?vimax, ?vcmpeq, ?vcmplt, ?vcmple, ?vcvt, ?vperm, ?vlrd, ?vlxrd, ?vlpadd, ?vfence, ?vzbc, ?vst, ?vld, ?viota, ?vbcast, ?vsegsum,
    ?vsegmax, ?vsegmin, ?vslidedn, ?vslideup, ?vrev, ?vexp2, ?vlog2, ?vrcp, ?vrsqrt, ?vsqrt, ?vtanh, ?vsigm, ?vgelu⟩
  case vst =>
    exact fun hfault => takes_lane_fault (fun _ => rfl) h hskip (withStoreHit_of_halt (f := fun d => vStore d p v) (vRun_of_fault hfault _))
  case vld =>
    exact fun hfault => takes_lane_fault (fun _ => rfl) h hskip (withStoreHit_of_halt (f := fun d => vLoad d p v) (vRun_of_fault hfault _))
  case vlrd | vlxrd | vlpadd => exact fun hfault => takes_lane_fault (fun _ => rfl) h hskip (lRun_of_fault hfault _)
  all_goals exact fun hfault => takes_lane_fault (fun _ => rfl) h hskip (vRun_of_fault hfault _)

/-! ### VLD and VST -/

section Transfers
variable {p : Fin 64} {v : VInsn} {d : Device} {a : Nat} {hit : Option Nat}

/-- A granule of an element that a load or store of the fields v accesses is held in pan q (05 R147; 06 R177). -/
abbrev elementHeld (v : VInsn) (q : Pan) : Bool :=
  (List.range (vCount v q)).any (fun i => q.holds ((vBase q v).1 + i * (vBase q v).2) ((vfD v).width / 8))

/-- The codes that VLD reads (05 R147). -/
def loadCodes (d : Device) (p : Nat) (v : VInsn) (q : Pan) : List Conv :=
  (List.range (vCount v q)).map (fun i => { code := d.psLE p ((vBase q v).1 + i * (vBase q v).2) ((vfD v).width / 8) })

/-- The codes that VST stores (05 R147). -/
abbrev storeCodes (v : VInsn) (q : Pan) : List Nat := q.velems v.vd (vfD v) (vCount v q)

/-- The device once VST has stored its elements (05 R147). -/
def stored (d : Device) (p : Nat) (v : VInsn) : Device :=
  (storeCodes v (d.panAt p)).zipIdx.foldl (fun e c =>
    e.psWrite p ((vBase (d.panAt p) v).1 + c.2 * (vBase (d.panAt p) v).2) (toLE ((vfD v).width / 8) c.1)) d

/-- The pan once VST has stored the codes cs: the summary when asked for, the pc 8 bytes on, and the instruction noted (05 R147, R154). -/
def storeNoted (v : VInsn) (cs : List Nat) (q : Pan) : Pan := ((q.summarise v.sum (vfD v) cs).setPc (q.pc + 8)).logStep

/-- The work of a load or store behind its checks (05 R147, R169). -/
def elementAccess (d : Device) (p : Nat) (v : VInsn) (work : PRes) : PRes :=
  if vMisaligned (d.panAt p) v then .halt d .align stAlign else if elementHeld v (d.panAt p) then .wait d else work

theorem elementAccess_misaligned (ha : vMisaligned (d.panAt p) v = true) (work : PRes) : elementAccess d p v work = .halt d .align stAlign :=
  if_pos ha

theorem elementAccess_held (ha : vMisaligned (d.panAt p) v = false) (hh : elementHeld v (d.panAt p) = true) (work : PRes) :
    elementAccess d p v work = .wait d := by
  rw [elementAccess, ha, hh, if_neg Bool.false_ne_true, if_pos rfl]

theorem elementAccess_clear (ha : vMisaligned (d.panAt p) v = false) (hh : elementHeld v (d.panAt p) = false) (work : PRes) :
    elementAccess d p v work = work := by
  rw [elementAccess, ha, hh, if_neg Bool.false_ne_true, if_neg Bool.false_ne_true]

theorem vLoad_of_ready (h : VectorReady d p (.lanes vTypes) v) :
    vLoad d p v = elementAccess d p v (.ok (d.updPan p (fun q => q.vdone v (vfD v) (loadCodes d p v q)))) := by
  rw [vLoad, vRun_of_ready h, ← Device.updPan_const (f := fun q => q.vdone v (vfD v) (loadCodes d p v q))]
  rfl

theorem vStore_of_ready (h : VectorReady d p (.lanes vTypes) v) :
    vStore d p v = elementAccess d p v (.ok ((stored d p v).updPan p (fun q => q.summarise v.sum (vfD v) (storeCodes v (d.panAt p))))) := by
  rw [vStore, vRun_of_ready h]
  rfl

/-! #### A parity hit -/

/-- The pan that a parity hit leaves: its counts and its held granules apart, the one that met it. -/
theorem parityHit_pan (d : Device) (p : Fin 64) (a : Nat) :
    ∃ held counts, (parityHit d p a).panAt p = { d.panAt p with held := held, counts := counts } := by
  rw [parityHit, Device.panAt_updPan]
  exact ⟨_, _, rfl⟩

/-- An instruction that is ready still is once it has met a parity hit. -/
theorem vectorReady_parityHit {k : VKind} (h : VectorReady d p k v) (a : Nat) : VectorReady (parityHit d p a) p k v := by
  obtain ⟨held, counts, hpan⟩ := parityHit_pan d p a
  obtain ⟨⟨hready, hfirst⟩, hskip, hfault⟩ := h
  have hsame : coreReady (parityHit d p a) p = coreReady d p := by
    simp only [coreReady, Device.panOn, switchingOut, hpan]
    rfl
  exact ⟨⟨hsame.trans hready, hpan ▸ hfirst⟩, hpan ▸ hskip, hpan ▸ hfault⟩

/-- The elements that a load or store accesses, with their granules held by a parity hit. -/
theorem elementHeld_parityHit
    (hh : (List.range (vCount v (d.panAt p))).any (fun i =>
      ((parityHit d p a).panAt p).holds ((vBase (d.panAt p) v).1 + i * (vBase (d.panAt p) v).2) ((vfD v).width / 8)) = true) :
    elementHeld v ((parityHit d p a).panAt p) = true := by
  obtain ⟨held, counts, hpan⟩ := parityHit_pan d p a
  rw [hpan] at hh ⊢
  exact hh

theorem elementAccess_parityHit (ha : vMisaligned (d.panAt p) v = false) (hh : elementHeld v ((parityHit d p a).panAt p) = true) (work : PRes) :
    elementAccess (parityHit d p a) p v work = .wait (parityHit d p a) := by
  obtain ⟨held, counts, hpan⟩ := parityHit_pan d p a
  exact elementAccess_held (hpan ▸ ha) hh work

/-! #### What VLD and VST answer -/

theorem takes_vld (h : VectorReady d p (.lanes vTypes) v) (ha : vMisaligned (d.panAt p) v = false) (hh : elementHeld v (d.panAt p) = false) :
    Takes (.vld p v none) d (vectorDone d p v (vfD v) (loadCodes d p v)) :=
  takes_vectorDone_of_ok (fun _ => rfl) h ((vLoad_of_ready h).trans (elementAccess_clear ha hh _))

theorem stored_pan (d : Device) (p : Nat) (v : VInsn) : (stored d p v).pan = d.pan :=
  List.foldlRecOn (motive := fun e : Device => e.pan = d.pan) _ _ rfl (fun _ he _ _ => he)

theorem takes_vst (h : VectorReady d p (.lanes vTypes) v) (ha : vMisaligned (d.panAt p) v = false) (hh : elementHeld v (d.panAt p) = false) :
    Takes (.vst p v none) d ((stored d p v).updPan p (storeNoted v (storeCodes v (d.panAt p)))) := by
  have hpan : (stored d p v).panAt p = d.panAt p := by rw [Device.panAt, stored_pan, Device.panAt]
  refine takes_of_ok (fun _ => rfl) h hpan (Pan.summarise_core _ _ _ _) ?stores
  case stores => rw [ite_self]; exact (vStore_of_ready h).trans (elementAccess_clear ha hh _)

/-- What stops a load and a store alike stops them whatever hit they may meet. -/
theorem takes_misaligned (h : VectorReady d p (.lanes vTypes) v) (ha : vMisaligned (d.panAt p) v = true) :
    Takes (.vld p v hit) d (d.panFault p .align stAlign) ∧ Takes (.vst p v hit) d (d.panFault p .align stAlign) :=
  ⟨takes_of_halt (fun _ => rfl) h
      (withStoreHit_of_halt (f := fun d => vLoad d p v) ((vLoad_of_ready h).trans (elementAccess_misaligned ha _))),
    takes_of_halt (fun _ => rfl) h
      (withStoreHit_of_halt (f := fun d => vStore d p v) ((vStore_of_ready h).trans (elementAccess_misaligned ha _)))⟩

theorem takes_held (h : VectorReady d p (.lanes vTypes) v) (ha : vMisaligned (d.panAt p) v = false) (hh : elementHeld v (d.panAt p) = true) :
    Takes (.vld p v hit) d d ∧ Takes (.vst p v hit) d d :=
  ⟨takes_of_wait (fun _ => rfl) h (withStoreHit_of_wait (f := fun d => vLoad d p v) ((vLoad_of_ready h).trans (elementAccess_held ha hh _))),
    takes_of_wait (fun _ => rfl) h (withStoreHit_of_wait (f := fun d => vStore d p v) ((vStore_of_ready h).trans (elementAccess_held ha hh _)))⟩

theorem takes_vld_hit (h : VectorReady d p (.lanes vTypes) v) (ha : vMisaligned (d.panAt p) v = false) (hh : elementHeld v (d.panAt p) = false)
    (hmet : elementHeld v ((parityHit d p a).panAt p) = true) : Takes (.vld p v (some a)) d (parityHit d p a) :=
  takes_of_wait (fun _ => rfl) h (withStoreHit_of_hit (f := fun d => vLoad d p v) ((vLoad_of_ready h).trans (elementAccess_clear ha hh _))
    ((vLoad_of_ready (vectorReady_parityHit h a)).trans (elementAccess_parityHit ha hmet _)))

theorem takes_vst_hit (h : VectorReady d p (.lanes vTypes) v) (hw : (vfD v).width < 32) (ha : vMisaligned (d.panAt p) v = false)
    (hh : elementHeld v (d.panAt p) = false) (hmet : elementHeld v ((parityHit d p a).panAt p) = true) :
    Takes (.vst p v (some a)) d (parityHit d p a) := by
  refine takes_of_wait (fun _ => rfl) h ?merges
  case merges =>
    rw [if_pos hw]
    exact withStoreHit_of_hit (f := fun d => vStore d p v) ((vStore_of_ready h).trans (elementAccess_clear ha hh _))
      ((vStore_of_ready (vectorReady_parityHit h a)).trans (elementAccess_parityHit ha hmet _))

end Transfers

/-- Settles O13: each clause is one outcome of the checks in front of a transfer. -/
theorem vectorLoadAndStore : Obligations.VectorLoadAndStore := by
  unfold Obligations.VectorLoadAndStore
  refine ⟨?vld, ?vst, ?vldMisaligned, ?vstMisaligned, ?vldHit, ?vstHit, ?held⟩
  case vld => exact fun _ _ _ => takes_vld
  case vst => exact fun _ _ _ => takes_vst
  case vldMisaligned => exact fun _ _ _ _ h ha => (takes_misaligned h ha).1
  case vstMisaligned => exact fun _ _ _ _ h ha => (takes_misaligned h ha).2
  case vldHit => exact fun _ _ _ _ h ha hh hmet => takes_vld_hit h ha hh (elementHeld_parityHit hmet)
  case vstHit => exact fun _ _ _ _ h hw ha hh hmet => takes_vst_hit h hw ha hh (elementHeld_parityHit hmet)
  case held => exact fun _ _ _ _ => takes_held

/-! ### What VST leaves as it was -/

/-- A write to a pan store changes the bytes it writes alone. -/
theorem read_psWriteMem_out {p b : Nat} (bs : List Nat) :
    ∀ (m : Mem) (a : Nat), (∀ i < bs.length, b ≠ psAddr p (a + i)) → (psWriteMem p m a bs).read b = m.read b := by
  induction bs with
  | nil => exact fun _ _ _ => rfl
  | cons x bs ih =>
    intro m a hb
    have hfirst : b ≠ psAddr p a := hb 0 (Nat.succ_pos _)
    have hrest : ∀ i < bs.length, b ≠ psAddr p (a + 1 + i) := fun i hi => by
      rw [Nat.add_assoc, Nat.add_comm 1 i]
      exact hb (i + 1) (Nat.succ_lt_succ hi)
    rw [psWriteMem, ih _ _ hrest, Mem.read_write, if_neg hfirst]

/-- VST changes the bytes of its elements alone. -/
theorem read_stored_out {d : Device} {p a : Nat} {v : VInsn}
    (ha : ∀ i b, i < vCount v (d.panAt p) → b < (vfD v).width / 8 →
      a ≠ psAddr p ((vBase (d.panAt p) v).1 + i * (vBase (d.panAt p) v).2 + b)) :
    (stored d p v).mem.read a = d.mem.read a := by
  refine List.foldlRecOn (motive := fun e : Device => e.mem.read a = d.mem.read a) _ _ rfl (fun e he c hc => ?_)
  have hcount : c.2 < vCount v (d.panAt p) := by simpa [storeCodes, Pan.velems] using List.snd_lt_of_mem_zipIdx hc
  rw [Device.psWrite_mem, read_psWriteMem_out _ _ _ (fun b hb => ha c.2 b hcount (by simpa using hb)), he]

/-- Noting a store on its pan changes no vector register, no Ledger entry and no flag. -/
theorem storeNoted_keeps (v : VInsn) (cs : List Nat) (q : Pan) :
    (storeNoted v cs q).vec.regs = q.vec.regs ∧ (storeNoted v cs q).arr = q.arr ∧ (storeNoted v cs q).flags = q.flags := by
  unfold storeNoted Pan.summarise
  split <;> exact ⟨rfl, rfl, rfl⟩

/-- Settles O14: the stores write the bytes of the elements, and the summary is the pan's only other change but the pc. -/
theorem storeTouchesOnlyItsBytes : Obligations.StoreTouchesOnlyItsBytes := by
  unfold Obligations.StoreTouchesOnlyItsBytes
  intro p v d h ha hh
  have hpans : ∀ r : Fin 64, (stored d p v).panAt r = d.panAt r := fun r => by rw [Device.panAt, stored_pan, Device.panAt]
  refine ⟨_, takes_vst h ha hh, fun a => read_stored_out, fun r => ?pans⟩
  case pans =>
    rw [← hpans r]
    exact ⟨panAt_updPan_keeps (fun q => q.vec.regs) (fun q => (storeNoted_keeps v _ q).1) _ _ _,
      panAt_updPan_keeps Pan.arr (fun q => (storeNoted_keeps v _ q).2.1) _ _ _,
      panAt_updPan_keeps Pan.flags (fun q => (storeNoted_keeps v _ q).2.2) _ _ _⟩

end Sys2Proof.Machine
end

section
/-! PROOFS. The flags of a pan and the instructions of the Pan extension that need no words of memory (05 R142, R156, R165, R166, R169, R170;
13 R366). -/
namespace Sys2Proof.Machine

/-! ### Flags -/

/-- The mask of flag f has bit f alone. -/
theorem getLsbD_flagMask {f g : Nat} (hg : g < 64) : (1#64 <<< f).getLsbD g = decide (g = f) := by
  rw [BitVec.getLsbD_shiftLeft, BitVec.getLsbD_one, Bool.eq_iff_iff]
  simp only [hg, decide_true, Bool.true_and, Bool.and_eq_true, Bool.not_eq_true', decide_eq_false_iff_not, decide_eq_true_eq]
  omega

theorem flag_setFlag (q : Pan) {f g : Nat} (hg : g < 64) : (q.setFlag f).flag g = (decide (g = f) || q.flag g) := by
  have hbit : (1#64 <<< f).getLsbD g = decide (g = f) := getLsbD_flagMask hg
  rw [Pan.flag, Pan.setFlag, BitVec.getLsbD_or, hbit, Bool.or_comm]
  rfl

theorem flag_clearFlag (q : Pan) {f g : Nat} (hg : g < 64) : (q.clearFlag f).flag g = (!decide (g = f) && q.flag g) := by
  have hbit : (1#64 <<< f).getLsbD g = decide (g = f) := getLsbD_flagMask hg
  rw [Pan.flag, Pan.clearFlag, BitVec.getLsbD_and, BitVec.getLsbD_not, hbit, decide_eq_true hg, Bool.true_and, Bool.and_comm]
  rfl

/-- Settles O19: the mask of flag f has that bit alone. -/
theorem flagsSetAndCleared : Obligations.FlagsSetAndCleared := by
  unfold Obligations.FlagsSetAndCleared
  exact fun q f g _ hg => ⟨flag_setFlag q hg, flag_clearFlag q hg⟩

/-! ### Flag instructions -/

/-- A register written starts no segment. -/
@[simp] theorem Pan.setX_segNo (q : Pan) (n v : Nat) : (q.setX n v).core.segNo = q.core.segNo := by
  unfold Pan.setX
  split <;> rfl

section Flags
variable {p : Fin 64} {flag : Nat} {d e : Device} {c : Instr} {f : Device → PRes}

/-- Clearing a flag changes no register of the core. -/
@[simp] theorem unflag_core (d : Device) (p : Fin 64) (flag : Nat) : ((d.unflag p flag).panAt p).core = (d.panAt p).core := by
  rw [Device.unflag, Device.panAt_updPan]
  rfl

/-- Done, with work g on its own pan that starts a segment: the segment before it notes nothing more (05 R170). -/
theorem takes_core_of_newSegment (hexec : ∀ s, exec c s = onDev s (fun d => d.runCore p f)) (h : CoreTakes d p) {g : Pan → Pan}
    (hseg : (g (e.panAt p)).core.segNo ≠ (d.panAt p).core.segNo) (hf : f d = .ok (e.updPan p g)) : Takes c d (e.updPan p g) := fun s => by
  rw [hexec, onDev, runCore_of_ready h.1, inSegment_first h.2, hf]
  simp only [settle, Device.updPan_updPan]
  rw [Device.updPan_congr (if_neg hseg)]

theorem newSegment_segNo_ne (q : Pan) {n : Nat} (hn : q.core.segNo = n) (a : Nat) : (q.newSegment.setPc a).core.segNo ≠ n :=
  hn ▸ Nat.succ_ne_self _

theorem fwaitRun_of_set (h : (d.panAt p).flag flag = true) :
    fwaitRun d p flag = .ok (d.updPan p (fun q => q.newSegment.setPc (q.pc + 4))) := if_pos h

theorem fwaitRun_of_clear (h : (d.panAt p).flag flag = false) : fwaitRun d p flag = .wait d := by
  rw [fwaitRun, h, if_neg Bool.false_ne_true]

theorem fwaitcRun_of_set (h : (d.panAt p).flag flag = true) :
    fwaitcRun d p flag = .ok ((d.unflag p flag).updPan p (fun q => q.newSegment.setPc (q.pc + 4))) := if_pos h

theorem fwaitcRun_of_clear (h : (d.panAt p).flag flag = false) : fwaitcRun d p flag = .wait d := by
  rw [fwaitcRun, h, if_neg Bool.false_ne_true]

end Flags

/-- Settles O18: a wait that ends starts a segment; the other instructions are noted in theirs. -/
theorem flagInstructions : Obligations.FlagInstructions := by
  unfold Obligations.FlagInstructions
  refine ⟨?fset, ?fclr, ?fwait, ?fwaitClear, ?fwaitc, ?fwaitcClear, ?ftest⟩
  case fset => exact fun _ _ _ h => takes_core_of_ok (fun _ => rfl) h rfl rfl
  case fclr => exact fun p flag d h => takes_core_of_ok (fun _ => rfl) h (congrArg (·.segNo) (unflag_core d p flag)) rfl
  case fwait => exact fun _ _ _ h hset => takes_core_of_newSegment (fun _ => rfl) h (newSegment_segNo_ne _ rfl _) (fwaitRun_of_set hset)
  case fwaitClear => exact fun _ _ _ h hclear => takes_core_of_wait (fun _ => rfl) h (fwaitRun_of_clear hclear)
  case fwaitc =>
    exact fun p flag d h hset => takes_core_of_newSegment (fun _ => rfl) h
      (newSegment_segNo_ne _ (congrArg (·.segNo) (unflag_core d p flag)) _) (fwaitcRun_of_set hset)
  case fwaitcClear => exact fun _ _ _ h hclear => takes_core_of_wait (fun _ => rfl) h (fwaitcRun_of_clear hclear)
  case ftest => exact fun _ _ _ _ h => takes_core_of_ok (fun _ => rfl) h (Pan.setX_segNo _ _ _) rfl

/-! ### FSETR, SETVL, PDONE and BSUM -/

section Control
variable {p : Fin 64} {rd rs1 flag width t cond : Nat} {off : Int} {d e : Device} {f : Device → PRes}

theorem fsetrRun_of_target (h : fsetrTarget d p ((d.panAt p).xreg rs1) = some t) :
    fsetrRun d p rs1 flag = .ok ((d.updPan t (fun q => q.setFlag flag)).updPan p (fun q => q.setPc (q.pc + 4))) := by
  rw [fsetrRun, h]
  rfl

theorem fsetrRun_of_no_target (h : fsetrTarget d p ((d.panAt p).xreg rs1) = none) : fsetrRun d p rs1 flag = .halt d .range stRange := by
  rw [fsetrRun, h]
  rfl

/-- The pan with VLEN and rd at the lesser of x[rs1] and the limit of a width code (05 R142). -/
def lengthSet (rd rs1 width : Nat) (q : Pan) : Pan :=
  let n := min (q.xreg rs1) (vLimit (8 * 2 ^ width))
  ({ q with vec := { q.vec with vlen := n } } : Pan).setX rd n

theorem setvlRun_of_machine (hm : (d.panAt p).core.machine = true) (hw : width ≤ 2) :
    setvlRun d p rd rs1 width = .ok (d.updPan p (fun q => (lengthSet rd rs1 width q).setPc (q.pc + 4))) := by
  rw [setvlRun, hm, if_neg (by simpa using hw)]
  exact congrArg PRes.ok (Device.updPan_congr rfl)

theorem setvlRun_of_illegal (h : (d.panAt p).core.machine = false ∨ 2 < width) : setvlRun d p rd rs1 width = .halt d .illegal stReserved := by
  rw [setvlRun, if_pos (by simpa using h)]
  rfl

theorem pdoneRun_of_zero (h : (d.panAt p).xreg rs1 % 65536 = 0) :
    pdoneRun d p rs1 = .ok (d.updPan p (fun q => ({ q with core := { q.core with done := some 0, running := false } } : Pan).setPc (q.pc + 4))) := by
  rw [pdoneRun, h]
  rfl

theorem pdoneRun_of_status (h : (d.panAt p).xreg rs1 % 65536 ≠ 0) : pdoneRun d p rs1 = .halt d .program ((d.panAt p).xreg rs1 % 65536) := if_pos h

/-- The condition that a code of BSUM names, on the summary registers (05 R165). -/
def bsumTaken (q : Pan) (cond : Nat) : Bool :=
  match cond with
  | 0 => q.vec.vsum.allZero
  | 1 => !q.vec.vsum.allZero
  | 2 => q.vec.vsum.nan != 0
  | 3 => q.vec.vsum.nan == 0
  | 4 => q.vec.vsum.fp && ((fp32V q.vec.vsum.sum).isNan || (fp32V q.vec.vsum.sum).isInf)
  | _ => q.vec.index

theorem bsumRun_of_code (h : cond ≤ 5) :
    bsumRun d p cond off =
      .ok (d.updPan p (fun q => q.setPc (ofSigned 64 ((q.pc : Int) + (if bsumTaken (d.panAt p) cond then off else 4))))) := by
  interval_cases cond <;> rfl

theorem bsumRun_of_reserved (h : 5 < cond) : bsumRun d p cond off = .halt d .illegal stReserved := by
  obtain ⟨n, rfl⟩ : ∃ n, cond = n + 6 := ⟨cond - 6, by omega⟩
  rfl

/-! #### The device after an instruction that may end the program -/

theorem runCore_of_ok (h : CoreTakes d p) {g : Pan → Pan} (hseg : (g (d.panAt p)).core.segNo = (d.panAt p).core.segNo)
    (hf : f d = .ok (d.updPan p g)) : d.runCore p f = d.updPan p (fun q => (g q).logStep) := by
  rw [runCore_of_ready h.1, inSegment_first h.2, hf]
  simp only [settle, Device.updPan_updPan]
  exact Device.updPan_congr (if_pos hseg)

theorem runCore_of_halt (h : CoreTakes d p) {cause : Cause} {st : Nat} (hf : f d = .halt e cause st) : d.runCore p f = e.panFault p cause st := by
  rw [runCore_of_ready h.1, inSegment_first h.2, hf]
  rfl

theorem takes_pdone (he : d.runCore p (fun d => pdoneRun d p rs1) = e) : Takes (.pdone p rs1) d (afterPdone p e) := fun s => by
  change execPdone p rs1 _ = _
  rw [execPdone, onDev, he]

end Control

/-- Settles O21: each clause is one outcome of its instruction. -/
theorem panExtensionControl : Obligations.PanExtensionControl := by
  unfold Obligations.PanExtensionControl
  refine ⟨?fsetr, ?fsetrRange, ?setvl, ?setvlIllegal, ?pdone, ?pdoneProgram, ?bsum, ?bsumIllegal⟩
  case fsetr =>
    exact fun p rs1 flag t d h ht => takes_core_of_ok (fun _ => rfl) h
      (panAt_updPan_keeps (g := fun q => q.setFlag flag) (·.core.segNo) (fun _ => rfl) d t p) (fsetrRun_of_target ht)
  case fsetrRange => exact fun _ _ _ _ h ht => takes_core_of_halt (fun _ => rfl) h (fsetrRun_of_no_target ht)
  case setvl => exact fun _ _ _ _ _ h hm hw => takes_core_of_ok (fun _ => rfl) h (Pan.setX_segNo _ _ _) (setvlRun_of_machine hm hw)
  case setvlIllegal => exact fun _ _ _ _ _ h hill => takes_core_of_halt (fun _ => rfl) h (setvlRun_of_illegal hill)
  case pdone => exact fun _ _ _ h hst => takes_pdone (runCore_of_ok h rfl (pdoneRun_of_zero hst))
  case pdoneProgram => exact fun _ _ _ h hst => takes_pdone (runCore_of_halt h (pdoneRun_of_status hst))
  case bsum => exact fun _ _ _ _ h hc => takes_core_of_ok (fun _ => rfl) h rfl (bsumRun_of_code hc)
  case bsumIllegal => exact fun _ _ _ _ h hc => takes_core_of_halt (fun _ => rfl) h (bsumRun_of_reserved hc)

end Sys2Proof.Machine
end

section
/-! PROOFS. The instruction at the pc (05 R164, R170): two's-complement codes, the fields and immediates of the base formats' words, what an
instruction of such a word does, and what PAN_CORE_INSTRUCTION answers. -/
namespace Sys2Proof.Machine

/-! ### Two's-complement codes -/

/-- A code read as two's complement is congruent to it. -/
theorem toSigned_modEq (w c : Nat) : toSigned w c ≡ (c : Int) [ZMOD ((2 ^ w : Nat) : Int)] := by
  have hmod : ((c % 2 ^ w : Nat) : Int) ≡ (c : Int) [ZMOD ((2 ^ w : Nat) : Int)] := by
    rw [Int.natCast_mod]
    exact Int.mod_modEq _ _
  unfold toSigned
  split
  · exact hmod
  · exact (Int.modEq_iff_dvd.mpr ⟨1, by ring⟩ : _ ≡ ((c % 2 ^ w : Nat) : Int) [ZMOD _]).trans hmod

/-- The code of an integer is congruent to it. -/
theorem ofSigned_modEq (w : Nat) (x : Int) : (ofSigned w x : Int) ≡ x [ZMOD ((2 ^ w : Nat) : Int)] := by
  have hpos : (0 : Int) < ((2 ^ w : Nat) : Int) := by positivity
  rw [ofSigned, Int.toNat_of_nonneg (Int.emod_nonneg x hpos.ne')]
  exact Int.mod_modEq _ _

theorem ofSigned_congr {w : Nat} {x y : Int} (h : x ≡ y [ZMOD ((2 ^ w : Nat) : Int)]) : ofSigned w x = ofSigned w y := congrArg Int.toNat h

theorem ofSigned_natCast (w n : Nat) : ofSigned w (n : Int) = n % 2 ^ w := by
  rw [ofSigned, ← Int.natCast_mod, Int.toNat_natCast]

theorem ofSigned_lt (w : Nat) (x : Int) : ofSigned w x < 2 ^ w := by
  have hpos : (0 : Int) < ((2 ^ w : Nat) : Int) := by positivity
  have hlt := Int.emod_lt_of_pos x hpos
  rw [ofSigned]
  omega

/-- An integer in a code's range is what its code reads as. -/
theorem toSigned_ofSigned {n : Nat} {x : Int} (hlo : -(2 ^ n : Nat) ≤ x) (hhi : x < (2 ^ n : Nat)) : toSigned (n + 1) (ofSigned (n + 1) x) = x := by
  have hdouble : ((2 ^ (n + 1) : Nat) : Int) = 2 * (2 ^ n : Nat) := by rw [Nat.pow_succ']; push_cast; ring
  have hcode : (ofSigned (n + 1) x : Int) = if 0 ≤ x then x else x + (2 ^ (n + 1) : Nat) := by
    rw [ofSigned, Int.toNat_of_nonneg (Int.emod_nonneg x (by positivity))]
    split
    · exact Int.emod_eq_of_lt ‹_› (by omega)
    · rw [← Int.add_emod_right, Int.emod_eq_of_lt (by omega) (by omega)]
  rw [toSigned, Nat.mod_eq_of_lt (ofSigned_lt _ _), Nat.add_sub_cancel]
  generalize ofSigned (n + 1) x = c at hcode
  split at hcode <;> split <;> omega

/-! ### The fields of a word -/

theorem b2n_bitOf (w n : Nat) : b2n (bitOf w n) = w / 2 ^ n % 2 := by
  rw [bitOf, Nat.shiftRight_eq_div_pow]
  rcases Nat.mod_two_eq_zero_or_one (w / 2 ^ n) with h | h <;> rw [h] <;> rfl

theorem bits_eq (w hi lo : Nat) : bits w hi lo = w / 2 ^ lo % 2 ^ (hi + 1 - lo) := by rw [bits, Nat.shiftRight_eq_div_pow]

/-- The fields of a word of the base formats, by the places that R-type gives them. -/
structure HasFields (w f7 rs2 rs1 f3 rd op : Nat) : Prop where
  f7 : bits w 31 25 = f7
  rs2 : bits w 24 20 = rs2
  rs1 : bits w 19 15 = rs1
  f3 : bits w 14 12 = f3
  rd : bits w 11 7 = rd
  op : bits w 6 0 = op

theorem encR_fields {f7 rs2 rs1 f3 rd op : Nat} (h7 : f7 < 128) (h2 : rs2 < 32) (h1 : rs1 < 32) (h3 : f3 < 8) (hd : rd < 32) (hop : op < 128) :
    HasFields (encR f7 rs2 rs1 f3 rd op) f7 rs2 rs1 f3 rd op := by
  constructor <;> simp only [bits_eq, encR, Nat.reduceAdd, Nat.reduceSub, Nat.reducePow] <;> omega

section Immediates
variable {w f7 rs2 rs1 f3 rd op : Nat} (h : HasFields w f7 rs2 rs1 f3 rd op)
include h

/-- The immediates put together from the fields. -/
theorem immI_of_fields : immI w = toSigned 12 (f7 * 32 + rs2) := by
  obtain ⟨rfl, rfl, -, -, -, -⟩ := h
  refine congrArg (toSigned 12) ?_
  simp only [bits_eq, Nat.reduceAdd, Nat.reduceSub, Nat.reducePow]
  omega

theorem immB_of_fields : immB w = toSigned 13 (f7 / 64 * 4096 + rd % 2 * 2048 + f7 % 64 * 32 + rd / 2 * 2) := by
  obtain ⟨rfl, -, -, -, rfl, -⟩ := h
  refine congrArg (toSigned 13) ?_
  simp only [b2n_bitOf, bits_eq, Nat.reduceAdd, Nat.reduceSub, Nat.reducePow]
  omega

theorem immJ_of_fields : immJ w = toSigned 21 (f7 / 64 * 1048576 + (rs1 * 8 + f3) * 4096 + rs2 % 2 * 2048 + (f7 % 64 * 16 + rs2 / 2) * 2) := by
  obtain ⟨rfl, rfl, rfl, rfl, -, -⟩ := h
  refine congrArg (toSigned 21) ?_
  simp only [b2n_bitOf, bits_eq, Nat.reduceAdd, Nat.reduceSub, Nat.reducePow]
  omega

end Immediates

/-- The code of an even integer is even. -/
theorem ofSigned_even {n : Nat} {x : Int} (hx : x % 2 = 0) : ofSigned (n + 1) x % 2 = 0 := by
  have hdvd : (2 : Int) ∣ ((2 ^ (n + 1) : Nat) : Int) := by
    rw [Nat.pow_succ']
    exact ⟨(2 ^ n : Nat), by push_cast; ring⟩
  have hcode : (ofSigned (n + 1) x : Int) % 2 = x % 2 := (ofSigned_modEq (n + 1) x).of_dvd hdvd
  omega

/-! ### Words of the base formats: their fields and immediates -/

/-- An I-type word has its immediate in the places of funct7 and rs2. -/
theorem encI_fields {imm : Int} {rs1 f3 rd op : Nat} (h1 : rs1 < 32) (h3 : f3 < 8) (hd : rd < 32) (hop : op < 128) :
    HasFields (encI imm rs1 f3 rd op) (ofSigned 12 imm / 32) (ofSigned 12 imm % 32) rs1 f3 rd op := by
  have hlt : ofSigned 12 imm < 4096 := ofSigned_lt 12 imm
  have hword : encI imm rs1 f3 rd op = encR (ofSigned 12 imm / 32) (ofSigned 12 imm % 32) rs1 f3 rd op := by
    simp only [encI, encR]
    omega
  exact hword ▸ encR_fields (by omega) (by omega) h1 h3 hd hop

theorem immI_encI {imm : Int} {rs1 f3 rd op : Nat} (hlo : -2048 ≤ imm) (hhi : imm < 2048) (h1 : rs1 < 32) (h3 : f3 < 8) (hd : rd < 32)
    (hop : op < 128) : immI (encI imm rs1 f3 rd op) = imm := by
  rw [immI_of_fields (encI_fields h1 h3 hd hop), Nat.div_add_mod', toSigned_ofSigned hlo hhi]

/-- A B-type word has its offset in the places of funct7 and rd. -/
theorem encB_fields {off : Int} {rs2 rs1 f3 : Nat} (hlo : -4096 ≤ off) (hhi : off < 4096) (heven : off % 2 = 0) (h2 : rs2 < 32) (h1 : rs1 < 32)
    (h3 : f3 < 8) : ∃ f7 rd, HasFields (encB off rs2 rs1 f3) f7 rs2 rs1 f3 rd 0x63 ∧ immB (encB off rs2 rs1 f3) = off := by
  have hlt : ofSigned 13 off < 8192 := ofSigned_lt 13 off
  have hcode : ofSigned 13 off % 2 = 0 := ofSigned_even heven
  obtain ⟨s, e, m, n, hs, he, hm, hn, hu⟩ : ∃ s e m n, s < 2 ∧ e < 2 ∧ m < 64 ∧ n < 16 ∧
      ofSigned 13 off = s * 4096 + e * 2048 + m * 32 + n * 2 :=
    ⟨ofSigned 13 off / 4096, ofSigned 13 off / 2048 % 2, ofSigned 13 off / 32 % 64, ofSigned 13 off / 2 % 16, by omega⟩
  have hword : encB off rs2 rs1 f3 = encR (s * 64 + m) rs2 rs1 f3 (n * 2 + e) 0x63 := by
    have h12 : ofSigned 13 off / 4096 % 2 = s := by omega
    have h11 : ofSigned 13 off / 2048 % 2 = e := by omega
    have h10 : ofSigned 13 off / 32 % 64 = m := by omega
    have h4 : ofSigned 13 off / 2 % 16 = n := by omega
    simp only [encB, encR, b2n_bitOf, bits_eq, Nat.reduceAdd, Nat.reduceSub, Nat.reducePow, pow_one, h12, h11, h10, h4]
    omega
  have hfields := hword ▸ encR_fields (f7 := s * 64 + m) (rd := n * 2 + e) (op := 0x63) (by omega) h2 h1 h3 (by omega) (by decide)
  have hdigits : (s * 64 + m) / 64 = s ∧ (n * 2 + e) % 2 = e ∧ (s * 64 + m) % 64 = m ∧ (n * 2 + e) / 2 = n := by omega
  obtain ⟨h12, h11, h10, h4⟩ := hdigits
  exact ⟨_, _, hfields, by rw [immB_of_fields hfields, h12, h11, h10, h4, ← hu, toSigned_ofSigned hlo hhi]⟩

/-- A J-type word has its offset in the places of funct7, rs2, rs1 and funct3. -/
theorem encJ_fields {off : Int} {rd : Nat} (hlo : -1048576 ≤ off) (hhi : off < 1048576) (heven : off % 2 = 0) (hd : rd < 32) :
    ∃ f7 rs2 rs1 f3, HasFields (encJ off rd) f7 rs2 rs1 f3 rd 0x6F ∧ immJ (encJ off rd) = off := by
  have hlt : ofSigned 21 off < 2097152 := ofSigned_lt 21 off
  have hcode : ofSigned 21 off % 2 = 0 := ofSigned_even heven
  obtain ⟨s, a, b, e, m, n, hs, ha, hb, he, hm, hn, hu⟩ : ∃ s a b e m n, s < 2 ∧ a < 32 ∧ b < 8 ∧ e < 2 ∧ m < 64 ∧ n < 16 ∧
      ofSigned 21 off = s * 1048576 + a * 32768 + b * 4096 + e * 2048 + m * 32 + n * 2 :=
    ⟨ofSigned 21 off / 1048576, ofSigned 21 off / 32768 % 32, ofSigned 21 off / 4096 % 8, ofSigned 21 off / 2048 % 2, ofSigned 21 off / 32 % 64,
      ofSigned 21 off / 2 % 16, by omega⟩
  have hword : encJ off rd = encR (s * 64 + m) (n * 2 + e) a b rd 0x6F := by
    have h20 : ofSigned 21 off / 1048576 % 2 = s := by omega
    have h19 : ofSigned 21 off / 4096 % 256 = a * 8 + b := by omega
    have h11 : ofSigned 21 off / 2048 % 2 = e := by omega
    have h10 : ofSigned 21 off / 2 % 1024 = m * 16 + n := by omega
    simp only [encJ, encR, b2n_bitOf, bits_eq, Nat.reduceAdd, Nat.reduceSub, Nat.reducePow, pow_one, h20, h19, h11, h10]
    omega
  have hfields := hword ▸ encR_fields (f7 := s * 64 + m) (rs2 := n * 2 + e) (op := 0x6F) (by omega) (by omega) ha hb hd (by decide)
  have hdigits : (s * 64 + m) / 64 = s ∧ (n * 2 + e) % 2 = e ∧ (s * 64 + m) % 64 = m ∧ (n * 2 + e) / 2 = n := by omega
  obtain ⟨h20, h11, h10, h4⟩ := hdigits
  have hwhole : s * 1048576 + (a * 8 + b) * 4096 + e * 2048 + (m * 16 + n) * 2 = ofSigned 21 off := by omega
  exact ⟨_, _, _, _, hfields, by rw [immJ_of_fields hfields, h20, h11, h10, h4, hwhole, toSigned_ofSigned hlo hhi]⟩

/-! ### What the instruction of a word does -/

section Words
variable {p : Fin 64} {d : Device} {w f7 rs2 rs1 f3 rd op : Nat}

/-- A register's value is its code of 64 bits. -/
theorem xreg_lt (q : Pan) (n : Nat) : q.xreg n < 2 ^ 64 := by
  unfold Pan.xreg
  split
  · decide
  · exact BitVec.isLt _

theorem aluOp_add (a b : Nat) : aluOp 0 false 64 a b = (a + b) % 2 ^ 64 :=
  (ofSigned_congr ((toSigned_modEq 64 a).add (toSigned_modEq 64 b))).trans (ofSigned_natCast 64 (a + b))

theorem aluOp_sub {a b : Nat} (hb : b < 2 ^ 64) : aluOp 0 true 64 a b = (a + 2 ^ 64 - b) % 2 ^ 64 := by
  have hwrap : (a : Int) - b ≡ ((a + 2 ^ 64 - b : Nat) : Int) [ZMOD ((2 ^ 64 : Nat) : Int)] := Int.modEq_iff_dvd.mpr ⟨1, by omega⟩
  exact (ofSigned_congr (((toSigned_modEq 64 a).sub (toSigned_modEq 64 b)).trans hwrap)).trans (ofSigned_natCast 64 _)

theorem aluOp_add_imm (a : Nat) (imm : Int) : aluOp 0 false 64 a (w64 imm) = ofSigned 64 (a + imm) :=
  ofSigned_congr ((toSigned_modEq 64 a).add ((toSigned_modEq 64 _).trans (ofSigned_modEq 64 imm)))

theorem wordRun_add (h : HasFields w 0 rs2 rs1 0 rd 0x33) :
    wordRun d p 4 w = .ok (d.updPan p (fun q => (q.setX rd ((q.xreg rs1 + q.xreg rs2) % 2 ^ 64)).setPc (q.pc + 4))) := by
  simp only [wordRun, h.op, h.f3, h.f7, h.rd, h.rs1, h.rs2, aluOp_add]
  exact congrArg PRes.ok (Device.updPan_congr rfl)

theorem wordRun_sub (h : HasFields w 32 rs2 rs1 0 rd 0x33) :
    wordRun d p 4 w = .ok (d.updPan p (fun q => (q.setX rd ((q.xreg rs1 + 2 ^ 64 - q.xreg rs2) % 2 ^ 64)).setPc (q.pc + 4))) := by
  simp only [wordRun, h.op, h.f3, h.f7, h.rd, h.rs1, h.rs2, aluOp_sub (xreg_lt _ _)]
  exact congrArg PRes.ok (Device.updPan_congr rfl)

theorem wordRun_addi {imm : Int} (h : HasFields w f7 rs2 rs1 0 rd 0x13) (himm : immI w = imm) :
    wordRun d p 4 w = .ok (d.updPan p (fun q => (q.setX rd (ofSigned 64 ((q.xreg rs1 : Int) + imm))).setPc (q.pc + 4))) := by
  simp only [wordRun, h.op, h.f3, h.rd, h.rs1, himm, aluOp_add_imm]
  exact congrArg PRes.ok (Device.updPan_congr rfl)

theorem wordRun_beq {off : Int} (h : HasFields w f7 rs2 rs1 0 rd 0x63) (himm : immB w = off) :
    wordRun d p 4 w = .ok (d.updPan p (fun q =>
      q.setPc (if q.xreg rs1 = q.xreg rs2 then ofSigned 64 ((q.pc : Int) + off) else q.pc + 4))) := by
  simp only [wordRun, h.op, h.f3, h.rs1, h.rs2, himm, branchTaken, beq_iff_eq]
  split
  case isTrue heq => exact congrArg PRes.ok (Device.updPan_congr (by rw [if_pos heq]; rfl))
  case isFalse hne => exact congrArg PRes.ok (Device.updPan_congr (by rw [if_neg hne]; rfl))

/-- A register keeps the low 64 bits of a value. -/
theorem setX_ofSigned (q : Pan) (n v : Nat) : q.setX n (ofSigned 64 (v : Int)) = q.setX n v := by
  have hcode : BitVec.ofNat 64 (v % 2 ^ 64) = BitVec.ofNat 64 v :=
    BitVec.eq_of_toNat_eq (by rw [BitVec.toNat_ofNat, BitVec.toNat_ofNat, Nat.mod_mod])
  rw [ofSigned_natCast, Pan.setX, Pan.setX, hcode]

theorem wordRun_jal {off : Int} (h : HasFields w f7 rs2 rs1 f3 rd 0x6F) (himm : immJ w = off) :
    wordRun d p 4 w = .ok (d.updPan p (fun q => (q.setX rd (q.pc + 4)).setPc (ofSigned 64 ((q.pc : Int) + off)))) := by
  simp only [wordRun, h.op, h.rd, himm, w64, if_true]
  refine congrArg PRes.ok (Device.updPan_congr ?_)
  have hlink : (((d.panAt p).pc : Int) + ((4 : Nat) : Int)) = (((d.panAt p).pc + 4 : Nat) : Int) := rfl
  rw [hlink, setX_ofSigned]

theorem wordRun_ecall : wordRun d p 4 0x73 = .halt d .illegal stReserved := rfl

/-- The low bytes of a word that a byte map holds. -/
theorem ofLE_bmRead_half (m : SMap (BitVec 8)) (a : Nat) : ofLE (bmRead m a 2) = ofLE (bmRead m a 4) % 65536 := by
  simp only [bmRead, List.range_succ, List.range_zero, List.map_cons, List.map_nil, List.nil_append, List.cons_append, ofLE]
  omega

/-- The instruction at the pc is that of the 32-bit word held there (05 R164). -/
theorem coreRun_of_word (hpc : (d.panAt p).pc + 4 ≤ 0x20000) (hw : ofLE (bmRead (d.panAt p).core.imem (d.panAt p).pc 4) = w)
    (hop : bits w 6 0 = op) (hfull : op % 4 = 3) (hlong : op % 32 ≠ 31) : coreRun d p false = wordRun d p 4 w := by
  have hhalf : ofLE (bmRead (d.panAt p).core.imem (d.panAt p).pc 2) = w % 65536 := hw ▸ ofLE_bmRead_half _ _
  rw [bits_eq, pow_zero, Nat.div_one] at hop
  have hlow : w % 65536 % 4 = 3 ∧ w % 65536 % 32 ≠ 31 := by omega
  have hin : ¬(0x20000 < (d.panAt p).pc + 2) ∧ ¬(0x20000 < (d.panAt p).pc + 4) := by omega
  simp only [coreRun, hw, hhalf, hlow, hin, Bool.false_eq_true, if_false, if_true, ne_eq, not_true_eq_false, not_false_eq_true]

end Words

/-! ### What PAN_CORE_INSTRUCTION answers -/

@[simp] theorem Pan.setX_done (q : Pan) (n v : Nat) : (q.setX n v).core.done = q.core.done := by
  unfold Pan.setX
  split <;> rfl

section AtPc
variable {p : Fin 64} {d e : Device} {w f7 rs2 rs1 f3 rd op : Nat} {hit : Bool}

/-- A program that has not ended its step settles no stage. -/
theorem afterPdone_of_running (h : (e.panAt p).core.done = none) : afterPdone p e = e := by
  unfold afterPdone
  split
  · rw [h, if_neg (by decide)]
  · rfl

theorem takes_panCoreInstruction (hskip : (d.panAt p).droopSkip = 0) (he : d.runCore p (fun d => coreRun d p hit) hit = e) :
    Takes (.panCoreInstruction p hit none) d (afterPdone p e) := fun s => by
  change execPanCoreInstruction p hit none _ = _
  simp only [execPanCoreInstruction, onDev, hskip, bne_self_eq_false, Bool.false_and, Bool.false_eq_true, if_false, ite_self, withStoreHit, he]

theorem runCore_hit (hr : coreReady d p = true) : d.runCore p (fun d => coreRun d p true) true = d.panFault p .recover 0 := if_pos hr

section Word
variable (h : CoreTakes d p) (hskip : (d.panAt p).droopSkip = 0) (hpc : (d.panAt p).pc + 4 ≤ 0x20000)
  (hw : ofLE (bmRead (d.panAt p).core.imem (d.panAt p).pc 4) = w) (hf : HasFields w f7 rs2 rs1 f3 rd op) (hop : op % 4 = 3 ∧ op % 32 ≠ 31)
include h hskip hpc hw hf hop

/-- A word at the pc whose work on the pan is g: the segment notes it, and nothing else of the device changes. -/
theorem takes_word {g : Pan → Pan} (hrun : wordRun d p 4 w = .ok (d.updPan p g))
    (hseg : (g (d.panAt p)).core.segNo = (d.panAt p).core.segNo) (hdone : (g (d.panAt p)).core.done = none) :
    Takes (.panCoreInstruction p false none) d (d.updPan p (fun q => (g q).logStep)) := by
  have hend : ((d.updPan p (fun q => (g q).logStep)).panAt p).core.done = none := by
    rw [Device.panAt_updPan]
    exact hdone
  have hcore : coreRun d p false = .ok (d.updPan p g) := (coreRun_of_word hpc hw hf.op hop.1 hop.2).trans hrun
  exact afterPdone_of_running hend ▸ takes_panCoreInstruction hskip (runCore_of_ok h hseg hcore)

/-- A word at the pc that writes v into rd and goes on at t. -/
theorem takes_word_writing {v t : Pan → Nat} (hrun : wordRun d p 4 w = .ok (d.updPan p (fun q => (q.setX rd (v q)).setPc (t q))))
    (hdone : (d.panAt p).core.done = none) :
    Takes (.panCoreInstruction p false none) d (d.updPan p (fun q => ((q.setX rd (v q)).setPc (t q)).logStep)) :=
  takes_word h hskip hpc hw hf hop hrun (Pan.setX_segNo _ _ _) ((Pan.setX_done _ _ _).trans hdone)

end Word

end AtPc

/-- Settles O22: each word's fields name its instruction; the instruction's work is then that of `wordRun`. -/
theorem panCoreInstructions : Obligations.PanCoreInstructions := by
  unfold Obligations.PanCoreInstructions
  refine ⟨?add, ?sub, ?addi, ?beq, ?jal, ?ecall, ?hit⟩
  case add =>
    intro p rd rs1 rs2 d h hskip hpc ⟨hd, h1, h2⟩ hw hdone
    have hf := encR_fields (f7 := 0) (f3 := 0) (op := 0x33) (by decide) h2 h1 (by decide) hd (by decide)
    exact takes_word_writing h hskip hpc hw hf (by decide) (wordRun_add hf) hdone
  case sub =>
    intro p rd rs1 rs2 d h hskip hpc ⟨hd, h1, h2⟩ hw hdone
    have hf := encR_fields (f7 := 32) (f3 := 0) (op := 0x33) (by decide) h2 h1 (by decide) hd (by decide)
    exact takes_word_writing h hskip hpc hw hf (by decide) (wordRun_sub hf) hdone
  case addi =>
    intro p rd rs1 imm d h hskip hpc ⟨hd, h1, hlo, hhi⟩ hw hdone
    have hf := encI_fields (imm := imm) (f3 := 0) (op := 0x13) h1 (by decide) hd (by decide)
    exact takes_word_writing h hskip hpc hw hf (by decide) (wordRun_addi hf (immI_encI hlo hhi h1 (by decide) hd (by decide))) hdone
  case beq =>
    intro p rs1 rs2 off d h hskip hpc ⟨h1, h2, hlo, hhi, heven⟩ hw hdone
    obtain ⟨f7, rd, hf, himm⟩ := encB_fields (f3 := 0) hlo hhi heven h2 h1 (by decide)
    exact takes_word h hskip hpc hw hf (by decide) (wordRun_beq hf himm) rfl hdone
  case jal =>
    intro p rd off d h hskip hpc ⟨hd, hlo, hhi, heven⟩ hw hdone
    obtain ⟨f7, rs2, rs1, f3, hf, himm⟩ := encJ_fields hlo hhi heven hd
    exact takes_word_writing h hskip hpc hw hf (by decide) (wordRun_jal hf himm) hdone
  case ecall =>
    intro p d h hskip hpc hw
    exact takes_panCoreInstruction hskip (runCore_of_halt h ((coreRun_of_word hpc hw rfl (by decide) (by decide)).trans wordRun_ecall))
  case hit => exact fun p d hr hskip => takes_panCoreInstruction hskip (runCore_hit hr)

end Sys2Proof.Machine
end

section
/-! PROOFS. The copy commands (06 R177 to R184, R188, R196; 13 R361): what an engine that takes one does, the rows of a local one and of one with a
peer, and the completion. -/
namespace Sys2Proof.Machine

/-! ### A command taken by its engine -/

section Taken
variable {d : Device} {t : Fin 4} {c : CopyCmd} {mine : Nat → Bool} {hit : Option Hit} {h : Hit}

/-- An engine of Terrace t may take command c of its queue now, or go on with it, and its OP is one of those asked for (06 R181). -/
structure CopyDue (d : Device) (t : Fin 4) (c : CopyCmd) (mine : Nat → Bool) : Prop where
  queued : (d.engAt t).copies.find? (fun x => x.id == c.id) = some c
  on : terOn d = true
  may : mayStart (d.engAt t) c = true
  op : mine (copyF c.words).op = true

/-- The device once the command stands as started. -/
abbrev begun (d : Device) (t : Fin 4) (c : CopyCmd) : Device := if c.started then d else d.startCopy t c.id 0 []

/-- The command's own mark is not among the things that an access reads. -/
theorem heldAt_begun (d : Device) (t : Fin 4) (c : CopyCmd) (a n : Nat) : heldAt (begun d t c) a n = heldAt d a n := by
  unfold begun
  split <;> rfl

theorem hitFits_begun (d : Device) (t : Fin 4) (c : CopyCmd) (h : Hit) : hitFits (begun d t c) h = hitFits d h := by
  unfold begun
  split
  · rfl
  · cases h <;> rfl

theorem keyed_begun (d : Device) (t : Fin 4) (c : CopyCmd) (a n : Nat) : keyed (begun d t c) a n = keyed d a n := by
  unfold begun
  split <;> rfl

theorem granuleBad_begun (d : Device) (t : Fin 4) (c : CopyCmd) (x : CopyF) (bad : Option Nat) (i g : Nat) :
    granuleBad (begun d t c) x bad i g = granuleBad d x bad i g := by
  simp only [granuleBad, keyed_begun]

theorem copyPeer_begun (d : Device) (t : Fin 4) (c : CopyCmd) : copyPeer (begun d t c) c = copyPeer d c := by
  unfold begun
  split <;> rfl

/-- What a command that goes on does: its next part, which may meet a corruption. -/
abbrev copyPart (d : Device) (t : Fin 4) (c : CopyCmd) (hit : Option Hit) : Device :=
  d.withHit hit (nextSpans c) (fun e a => if ((copyJob e c).bind (fun j => bufferOf e j a)).isSome then e.holdFault a else runCopy e t c (some a))
    (fun e => runCopy e t c none)

theorem takeCopy_refused (hdue : CopyDue d t c mine) (hnew : c.started = false) (hc : copyChecks d c ≠ 0) :
    takeCopy d t c.id mine hit = d.failCopy t c (copyChecks d c) := by
  simp only [takeCopy, hdue.queued, hdue.on, hdue.may, hdue.op, Bool.not_true, Bool.or_self, Bool.false_eq_true, if_false, hnew, if_pos hc]

theorem takeCopy_goes (hdue : CopyDue d t c mine) (hpast : c.started = true ∨ copyChecks d c = 0) :
    takeCopy d t c.id mine hit = copyPart (begun d t c) t c hit := by
  have hst : (if c.started then 0 else copyChecks d c) = 0 := by
    rcases hpast with hs | hc
    · exact if_pos hs
    · rw [hc, ite_self]
  simp only [takeCopy, hdue.queued, hdue.on, hdue.may, hdue.op, Bool.not_true, Bool.or_self, Bool.false_eq_true, if_false, hst, ne_eq,
    not_true_eq_false]

theorem takeCopy_ignored {id : Nat} (hno : ∀ c, (d.engAt t).copies.find? (fun x => x.id == id) = some c →
    terOn d = false ∨ mayStart (d.engAt t) c = false ∨ mine (copyF c.words).op = false) : takeCopy d t id mine hit = d := by
  cases hq : (d.engAt t).copies.find? (fun x => x.id == id) with
  | none => simp only [takeCopy, hq]
  | some c =>
    have hskip : (!terOn d || !mayStart (d.engAt t) c || !mine (copyF c.words).op) = true := by
      rcases hno c hq with h | h | h <;> simp [h]
    simp only [takeCopy, hq, hskip, if_true]

section Part
variable (hdue : CopyDue d t c mine) (hpast : c.started = true ∨ copyChecks d c = 0)
include hdue hpast

theorem takeCopy_runs (hs : (nextSpans c).any (fun s => heldAt d s.1 s.2) = false) :
    takeCopy d t c.id mine none = runCopy (begun d t c) t c none :=
  (takeCopy_goes hdue hpast).trans (Device.withHit_clear (by simpa only [heldAt_begun] using hs))

theorem takeCopy_held (hs : (nextSpans c).any (fun s => heldAt d s.1 s.2) = true) : takeCopy d t c.id mine hit = begun d t c :=
  (takeCopy_goes hdue hpast).trans (Device.withHit_held (by simpa only [heldAt_begun] using hs))

theorem takeCopy_undone (hs : (nextSpans c).any (fun s => heldAt d s.1 s.2) = true ∨ ¬hitMet d h (nextSpans c)) :
    takeCopy d t c.id mine (some h) = begun d t c := by
  rcases hs with hs | hs
  · exact takeCopy_held hdue hpast hs
  · exact (takeCopy_goes hdue hpast).trans (Device.withHit_unmet (by simpa only [hitMet, hitFits_begun] using hs))

/-- A corruption met in what the command touches (06 R177, R184, R196). -/
theorem takeCopy_met (hs : (nextSpans c).any (fun s => heldAt d s.1 s.2) = false) (hmet : hitMet d h (nextSpans c)) :
    takeCopy d t c.id mine (some h) = if hitPersistent h then
        if ((copyJob ((begun d t c).meetHit h) c).bind (fun j => bufferOf ((begun d t c).meetHit h) j (hitAddr h))).isSome
          then ((begun d t c).meetHit h).holdFault (hitAddr h) else runCopy ((begun d t c).meetHit h) t c (some (hitAddr h))
      else if (nextSpans c).any (fun s => heldAt ((begun d t c).meetHit h) s.1 s.2) then (begun d t c).meetHit h
      else runCopy ((begun d t c).meetHit h) t c none :=
  (takeCopy_goes hdue hpast).trans
    (Device.withHit_met (by simpa only [heldAt_begun] using hs) (by simpa only [hitMet, hitFits_begun] using hmet))

theorem takeCopy_met_passing (hs : (nextSpans c).any (fun s => heldAt d s.1 s.2) = false) (hmet : hitMet d h (nextSpans c))
    (hp : hitPersistent h = false) :
    takeCopy d t c.id mine (some h) = if (nextSpans c).any (fun s => heldAt ((begun d t c).meetHit h) s.1 s.2) then (begun d t c).meetHit h
      else runCopy ((begun d t c).meetHit h) t c none :=
  (takeCopy_met hdue hpast hs hmet).trans (if_neg (by simp [hp]))

theorem takeCopy_met_persistent (hs : (nextSpans c).any (fun s => heldAt d s.1 s.2) = false) (hmet : hitMet d h (nextSpans c))
    (hp : hitPersistent h = true) :
    takeCopy d t c.id mine (some h) =
      if ((copyJob ((begun d t c).meetHit h) c).bind (fun j => bufferOf ((begun d t c).meetHit h) j (hitAddr h))).isSome
        then ((begun d t c).meetHit h).holdFault (hitAddr h) else runCopy ((begun d t c).meetHit h) t c (some (hitAddr h)) :=
  (takeCopy_met hdue hpast hs hmet).trans (if_pos hp)

end Part

end Taken

/-! ### The work of a command past its checks -/

section Work
variable {d : Device} {t : Fin 4} {c : CopyCmd} {i : Nat}

theorem runCopy_empty (hm : (copyF c.words).moves = false) : runCopy d t c none = d.completeCopy t c := by
  simp only [runCopy, hm, Bool.not_false, if_true]

/-- The command moves rows within this device (06 R179). -/
abbrev LocalRows (x : CopyF) : Prop := x.moves = true ∧ (x.remote = 0 ∨ (x.op = 2 ∧ x.remote = 1))

/-- The first row of a local command that meets a granule without a key (06 R182). -/
abbrev keylessRow (d : Device) (x : CopyF) : Option Nat :=
  (List.range x.rows).find? (fun i => (List.range x.rowG).any (fun g => granuleBad d x none i g))

/-- The rows of a local command moved in ascending order (06 R179, R180). -/
abbrev rowsMoved (d : Device) (x : CopyF) : Device := (List.range x.rows).foldl (moveRow x) d

theorem runCopy_local (hl : LocalRows (copyF c.words)) : runCopy d t c none = runLocal d t c none := by
  simp only [runCopy, hl.1, Bool.not_true, Bool.false_eq_true, if_false, if_pos hl.2]

theorem runCopy_keyless (hl : LocalRows (copyF c.words)) (hi : keylessRow d (copyF c.words) = some i) :
    runCopy d t c none = (failedRows d (copyF c.words) none i).failCopy t c stKeyAbsent := by
  have hbad : ((List.range (copyF c.words).rowG).any (fun g => granuleBad d (copyF c.words) none i g)) = true := by
    simpa using List.find?_some hi
  rw [runCopy_local hl]
  simp only [runLocal, hi, hbad, if_true]

theorem runCopy_untagged (hl : LocalRows (copyF c.words)) (hk : keylessRow d (copyF c.words) = none) (hop : (copyF c.words).op ≠ 3) :
    runCopy d t c none = (rowsMoved d (copyF c.words)).startCopy t c.id (copyF c.words).stages [] := by
  have htag : (copyF c.words).tagsHere = false := by simp [CopyF.tagsHere, hop]
  rw [runCopy_local hl]
  simp only [runLocal, hk, htag, Bool.false_and, Bool.false_eq_true, if_false]

/-- A local COPY_TAG writes its tag at this end. -/
theorem tagsHere_of_local (hl : LocalRows (copyF c.words)) (hop : (copyF c.words).op = 3) : (copyF c.words).tagsHere = true := by
  have hrem : (copyF c.words).remote = 0 := hl.2.resolve_right (by simp [hop])
  simp [CopyF.tagsHere, hop, hrem, hl.1]

theorem runCopy_tagged (hl : LocalRows (copyF c.words)) (hk : keylessRow d (copyF c.words) = none) (hop : (copyF c.words).op = 3)
    (hkey : keyed d ((copyF c.words).dst - 32) 32 = true) :
    runCopy d t c none = ((rowsMoved d (copyF c.words)).store ((copyF c.words).dst - 32) (toLE 4 (copyF c.words).word)).startCopy t c.id
      (copyF c.words).stages [] := by
  rw [runCopy_local hl]
  simp only [runLocal, hk, tagsHere_of_local hl hop, hkey, Bool.not_true, Bool.and_false, Bool.false_eq_true, if_false, if_true]

theorem runCopy_tag_keyless (hl : LocalRows (copyF c.words)) (hk : keylessRow d (copyF c.words) = none) (hop : (copyF c.words).op = 3)
    (hkey : keyed d ((copyF c.words).dst - 32) 32 = false) : runCopy d t c none = (rowsMoved d (copyF c.words)).failCopy t c stKeyAbsent := by
  rw [runCopy_local hl]
  simp only [runLocal, hk, tagsHere_of_local hl hop, hkey, Bool.not_false, Bool.and_self, if_true]

end Work

/-! ### The three commands -/

section Commands
variable {d e : Device} {t : Fin 4} {c : CopyCmd} {id : Nat} {hit : Option Hit}

/-- The OPs that COPY serves, a reserved one among them; FILL's; COPY_TAG's (06 R179). -/
abbrev copyOps (op : Nat) : Bool := op != 2 && op != 3
abbrev fillOps (op : Nat) : Bool := op == 2
abbrev tagOps (op : Nat) : Bool := op == 3

theorem takes_copy (h : takeCopy d t id copyOps hit = e) : Takes (.copy t id hit) d e := fun s => by
  change execCopy t id hit _ = _
  simp only [execCopy, onDev, h]

theorem takes_fill (h : takeCopy d t id fillOps none = e) : Takes (.fill t id) d e := fun s => by
  change execFill t id _ = _
  simp only [execFill, onDev, h]

theorem takes_copyTag (h : takeCopy d t id tagOps hit = e) : Takes (.copyTag t id hit) d e := fun s => by
  change execCopyTag t id hit _ = _
  simp only [execCopyTag, onDev, h]

theorem copyOps_iff {op : Nat} : copyOps op = true ↔ op ≠ 2 ∧ op ≠ 3 := by simp [copyOps]

section Due
variable (hq : (d.engAt t).copies.find? (fun x => x.id == c.id) = some c) (hon : terOn d = true) (hmay : mayStart (d.engAt t) c = true)
include hq hon hmay

theorem copyDue (hop : (copyF c.words).op ≠ 2 ∧ (copyF c.words).op ≠ 3) : CopyDue d t c copyOps := ⟨hq, hon, hmay, copyOps_iff.mpr hop⟩
theorem fillDue (hop : (copyF c.words).op = 2) : CopyDue d t c fillOps := ⟨hq, hon, hmay, beq_iff_eq.mpr hop⟩
theorem tagDue (hop : (copyF c.words).op = 3) : CopyDue d t c tagOps := ⟨hq, hon, hmay, beq_iff_eq.mpr hop⟩

end Due

/-- A local command whose rows all have their keys finds them so once it stands as started. -/
theorem keylessRow_begun (d : Device) (t : Fin 4) (c : CopyCmd) : keylessRow (begun d t c) (copyF c.words) = keylessRow d (copyF c.words) := by
  simp only [keylessRow, granuleBad_begun]

section Outcomes
variable {mine : Nat → Bool} {i : Nat} (hdue : CopyDue d t c mine) (hpast : c.started = true ∨ copyChecks d c = 0)
  (hs : (nextSpans c).any (fun s => heldAt d s.1 s.2) = false)
include hdue hpast hs

theorem takeCopy_empty (hm : (copyF c.words).moves = false) : takeCopy d t c.id mine none = (begun d t c).completeCopy t c :=
  (takeCopy_runs hdue hpast hs).trans (runCopy_empty hm)

theorem takeCopy_keyless (hl : LocalRows (copyF c.words)) (hi : keylessRow d (copyF c.words) = some i) :
    takeCopy d t c.id mine none = (failedRows (begun d t c) (copyF c.words) none i).failCopy t c stKeyAbsent :=
  (takeCopy_runs hdue hpast hs).trans (runCopy_keyless hl (by rw [keylessRow_begun, hi]))

theorem takeCopy_untagged (hl : LocalRows (copyF c.words)) (hk : keylessRow d (copyF c.words) = none) (hop : (copyF c.words).op ≠ 3) :
    takeCopy d t c.id mine none = (rowsMoved (begun d t c) (copyF c.words)).startCopy t c.id (copyF c.words).stages [] :=
  (takeCopy_runs hdue hpast hs).trans (runCopy_untagged hl (by rw [keylessRow_begun, hk]) hop)

theorem takeCopy_tagged (hl : LocalRows (copyF c.words)) (hk : keylessRow d (copyF c.words) = none) (hop : (copyF c.words).op = 3)
    (hkey : keyed d ((copyF c.words).dst - 32) 32 = true) :
    takeCopy d t c.id mine none = ((rowsMoved (begun d t c) (copyF c.words)).store ((copyF c.words).dst - 32)
      (toLE 4 (copyF c.words).word)).startCopy t c.id (copyF c.words).stages [] :=
  (takeCopy_runs hdue hpast hs).trans (runCopy_tagged hl (by rw [keylessRow_begun, hk]) hop (by rw [keyed_begun, hkey]))

theorem takeCopy_tag_keyless (hl : LocalRows (copyF c.words)) (hk : keylessRow d (copyF c.words) = none) (hop : (copyF c.words).op = 3)
    (hkey : keyed d ((copyF c.words).dst - 32) 32 = false) :
    takeCopy d t c.id mine none = (rowsMoved (begun d t c) (copyF c.words)).failCopy t c stKeyAbsent :=
  (takeCopy_runs hdue hpast hs).trans (runCopy_tag_keyless hl (by rw [keylessRow_begun, hk]) hop (by rw [keyed_begun, hkey]))

end Outcomes

end Commands

/-- Settles O29: each clause is one outcome of `takeCopy`, for the OPs of its command. -/
theorem copyCommands : Obligations.CopyCommands := by
  unfold Obligations.CopyCommands
  refine ⟨?copyRefused, ?copyMoves, ?copyKeyless, ?copyEmpty, ?copyHeld, ?copyIgnored, ?fillRefused, ?fillMoves, ?fillKeyless, ?fillEmpty,
    ?fillHeld, ?fillIgnored, ?tagRefused, ?tagMoves, ?tagKeyless, ?tagEmpty, ?tagHeld, ?tagIgnored, ?tagNoKey, ?copyPassing, ?copyPersistent,
    ?copyUndone, ?tagPassing, ?tagPersistent, ?tagUndone⟩
  case copyRefused => exact fun t c d hq hon hmay hop hnew hc => takes_copy (takeCopy_refused (copyDue hq hon hmay hop) hnew hc)
  case copyMoves =>
    exact fun t c d hq hon hmay hop hpast hs hm hl hk =>
      takes_copy (takeCopy_untagged (copyDue hq hon hmay hop) hpast hs ⟨hm, hl⟩ hk hop.2)
  case copyKeyless =>
    exact fun t c i d hq hon hmay hop hpast hs hm hl hi =>
      takes_copy (takeCopy_keyless (copyDue hq hon hmay hop) hpast hs ⟨hm, hl⟩ hi)
  case copyEmpty => exact fun t c d hq hon hmay hop hpast hs hm => takes_copy (takeCopy_empty (copyDue hq hon hmay hop) hpast hs hm)
  case copyHeld => exact fun t c d hq hon hmay hop hpast hs => takes_copy (takeCopy_held (copyDue hq hon hmay hop) hpast hs)
  case copyIgnored =>
    exact fun t id hit d hno => takes_copy (takeCopy_ignored fun c hq => by
      simpa only [← copyOps_iff, Bool.not_eq_true] using hno c hq)
  case fillRefused => exact fun t c d hq hon hmay hop hnew hc => takes_fill (takeCopy_refused (fillDue hq hon hmay hop) hnew hc)
  case fillMoves =>
    exact fun t c d hq hon hmay hop hpast hs hm hl hk =>
      takes_fill (takeCopy_untagged (fillDue hq hon hmay hop) hpast hs ⟨hm, hl⟩ hk (by simp [hop]))
  case fillKeyless =>
    exact fun t c i d hq hon hmay hop hpast hs hm hl hi =>
      takes_fill (takeCopy_keyless (fillDue hq hon hmay hop) hpast hs ⟨hm, hl⟩ hi)
  case fillEmpty => exact fun t c d hq hon hmay hop hpast hs hm => takes_fill (takeCopy_empty (fillDue hq hon hmay hop) hpast hs hm)
  case fillHeld => exact fun t c d hq hon hmay hop hpast hs => takes_fill (takeCopy_held (fillDue hq hon hmay hop) hpast hs)
  case fillIgnored => exact fun t id d hno => takes_fill (takeCopy_ignored fun c hq => by simpa [fillOps] using hno c hq)
  case tagRefused => exact fun t c d hq hon hmay hop hnew hc => takes_copyTag (takeCopy_refused (tagDue hq hon hmay hop) hnew hc)
  case tagMoves =>
    exact fun t c d hq hon hmay hop hpast hs hm hl hk hkey =>
      takes_copyTag (takeCopy_tagged (tagDue hq hon hmay hop) hpast hs ⟨hm, hl⟩ hk hop hkey)
  case tagKeyless =>
    exact fun t c i d hq hon hmay hop hpast hs hm hl hi =>
      takes_copyTag (takeCopy_keyless (tagDue hq hon hmay hop) hpast hs ⟨hm, hl⟩ hi)
  case tagEmpty => exact fun t c d hq hon hmay hop hpast hs hm => takes_copyTag (takeCopy_empty (tagDue hq hon hmay hop) hpast hs hm)
  case tagHeld => exact fun t c d hq hon hmay hop hpast hs => takes_copyTag (takeCopy_held (tagDue hq hon hmay hop) hpast hs)
  case tagIgnored => exact fun t id hit d hno => takes_copyTag (takeCopy_ignored fun c hq => by simpa [tagOps] using hno c hq)
  case tagNoKey =>
    exact fun t c d hq hon hmay hop hpast hs hm hl hk hkey =>
      takes_copyTag (takeCopy_tag_keyless (tagDue hq hon hmay hop) hpast hs ⟨hm, hl⟩ hk hop hkey)
  case copyPassing =>
    exact fun t c h d hq hon hmay hop hpast hs hmet hp =>
      takes_copy (takeCopy_met_passing (copyDue hq hon hmay hop) hpast hs hmet hp)
  case copyPersistent =>
    exact fun t c h d hq hon hmay hop hpast hs hmet hp =>
      takes_copy (takeCopy_met_persistent (copyDue hq hon hmay hop) hpast hs hmet hp)
  case copyUndone => exact fun t c h d hq hon hmay hop hpast hs => takes_copy (takeCopy_undone (copyDue hq hon hmay hop) hpast hs)
  case tagPassing =>
    exact fun t c h d hq hon hmay hop hpast hs hmet hp =>
      takes_copyTag (takeCopy_met_passing (tagDue hq hon hmay hop) hpast hs hmet hp)
  case tagPersistent =>
    exact fun t c h d hq hon hmay hop hpast hs hmet hp =>
      takes_copyTag (takeCopy_met_persistent (tagDue hq hon hmay hop) hpast hs hmet hp)
  case tagUndone => exact fun t c h d hq hon hmay hop hpast hs => takes_copyTag (takeCopy_undone (tagDue hq hon hmay hop) hpast hs)

/-! ### The bytes of a row -/

section Bytes

theorem cellAt_lt {cs : List Host.Cell} {a v : Nat} (h : cellAt cs a = some v) : v < 256 := by
  induction cs with
  | nil => cases h
  | cons e r ih =>
    obtain ⟨i, w⟩ := e
    simp only [cellAt] at h
    split at h
    · exact Option.some.inj h ▸ w.isLt
    · exact ih h

theorem Mem.background_lt (m : Mem) (a : Nat) : m.background a < 256 := by
  unfold Mem.background
  split
  · exact Nat.mod_lt _ (by decide)
  · decide

/-- What a memory reads as is a byte. -/
theorem Mem.read_lt (m : Mem) (a : Nat) : m.read a < 256 := by
  unfold Mem.read
  cases h : cellAt m.cells a with
  | none => exact m.background_lt a
  | some v => exact cellAt_lt h

theorem read_copyBytes_out {b : Nat} (n : Nat) : ∀ (m : Mem) (src dst : Nat), b < dst ∨ dst + n ≤ b → (copyBytes n m src dst).read b = m.read b := by
  induction n with
  | zero => exact fun _ _ _ _ => rfl
  | succ n ih =>
    intro m src dst hb
    rw [copyBytes, ih _ _ _ (by omega), Mem.read_write, if_neg (by omega)]

/-- Bytes copied in ascending address to a stretch apart from their own are those that stood there (06 R180). -/
theorem read_copyBytes_in (n : Nat) : ∀ (m : Mem) (src dst i : Nat), src + n ≤ dst ∨ dst + n ≤ src → i < n →
    (copyBytes n m src dst).read (dst + i) = m.read (src + i) := by
  induction n with
  | zero => exact fun _ _ _ _ _ hi => absurd hi (Nat.not_lt_zero _)
  | succ n ih =>
    intro m src dst i hapart hi
    cases i with
    | zero =>
      rw [copyBytes, read_copyBytes_out n _ _ _ (by omega), Nat.add_zero, Mem.read_write, if_pos rfl, Nat.add_zero,
        Nat.mod_eq_of_lt (m.read_lt src)]
    | succ i =>
      have hdst : dst + (i + 1) = dst + 1 + i := by omega
      have hsrc : src + (i + 1) = src + 1 + i := by omega
      rw [copyBytes, hdst, hsrc, ih _ _ _ i (by omega) (by omega), Mem.read_write, if_neg (by omega)]

theorem markDirty_mem (d : Device) (a n : Nat) : (d.markDirty a n).mem = d.mem := by
  unfold Device.markDirty
  split <;> rfl

/-- A row of a command other than FILL is copied byte by byte. -/
theorem moveRow_mem {d : Device} {x : CopyF} {i : Nat} (hop : x.op ≠ 2) :
    (moveRow x d i).mem = copyBytes x.len d.mem (x.srcRow i) (x.dstRow i) := by
  rw [moveRow, if_neg hop, markDirty_mem]
  rfl

theorem begun_mem (d : Device) (t : Fin 4) (c : CopyCmd) : (begun d t c).mem = d.mem := by
  unfold begun
  split <;> rfl

theorem rowsMoved_one_mem {d : Device} {x : CopyF} (hrows : x.rows = 1) (hop : x.op ≠ 2) :
    (rowsMoved d x).mem = copyBytes x.len d.mem x.src x.dst := by
  have hone : rowsMoved d x = moveRow x d 0 := by simp [rowsMoved, hrows]
  rw [hone, moveRow_mem hop]
  rfl

end Bytes

/-- Settles O31: the device answered is that of the row moved, whose map is `copyBytes` of the map before. -/
theorem localCopyMovesItsBytes : Obligations.LocalCopyMovesItsBytes := by
  intro t c d hq hon hmay hop hc hs hm hrem hk hrows hapart
  have hops : (copyF c.words).op ≠ 2 ∧ (copyF c.words).op ≠ 3 := by simp [hop]
  have hmem := rowsMoved_one_mem (d := begun d t c) hrows hops.1
  rw [begun_mem] at hmem
  refine ⟨_, takes_copy (takeCopy_untagged (copyDue hq hon hmay hops) (.inr hc) hs ⟨hm, .inl hrem⟩ hk hops.2), fun i hi => ?_, fun a ha => ?_⟩
  · exact (congrArg (Mem.read · _) hmem).trans (read_copyBytes_in _ _ _ _ _ hapart hi)
  · exact (congrArg (Mem.read · _) hmem).trans (read_copyBytes_out _ _ _ _ ha)

/-! ### A command with a peer -/

section Remote
variable {d e : Device} {t : Fin 4} {c : CopyCmd} {mine : Nat → Bool} {pe : Peer} {st : Nat} {tags : List Nat}

/-- The command moves rows between this device and a peer (06 R179, R181). -/
abbrev RemoteRows (x : CopyF) : Prop := x.moves = true ∧ (x.remote = 2 ∨ (x.op ≠ 2 ∧ x.remote ≠ 0))

/-- The next part of the command is its tag, or a row whose granules here have their keys (06 R182). -/
abbrev RowFits (d : Device) (c : CopyCmd) : Prop :=
  (copyF c.words).rows ≤ c.row ∨ (List.range (copyF c.words).rowG).any (fun g => granuleBad d (copyF c.words) none c.row g) = false

theorem runCopy_remote (hr : RemoteRows (copyF c.words)) : runCopy d t c none = runRow d t c none := by
  have hno : ¬((copyF c.words).remote = 0 ∨ ((copyF c.words).op = 2 ∧ (copyF c.words).remote = 1)) := by
    obtain ⟨-, hrem⟩ := hr
    omega
  simp only [runCopy, hr.1, Bool.not_true, Bool.false_eq_true, if_false, if_neg hno]

theorem runRow_keyless (hrow : c.row < (copyF c.words).rows)
    (hbad : (List.range (copyF c.words).rowG).any (fun g => granuleBad d (copyF c.words) none c.row g) = true) :
    runRow d t c none = d.failCopy t c stKeyAbsent := by
  simp only [runRow, hrow, hbad, decide_true, Bool.and_self, if_true]

theorem runRow_of_fits (hfit : RowFits d c) : runRow d t c none = match copyPeer d c with
    | some pe =>
      if (sendAll t c.id (rowRequests d (copyF c.words) pe c.row) d).1 = 0 then
        (sendAll t c.id (rowRequests d (copyF c.words) pe c.row) d).2.2.startCopy t c.id (c.row + 1)
          (sendAll t c.id (rowRequests d (copyF c.words) pe c.row) d).2.1
      else (sendAll t c.id (rowRequests d (copyF c.words) pe c.row) d).2.2.failCopy t c
        (sendAll t c.id (rowRequests d (copyF c.words) pe c.row) d).1
    | none => d.failCopy t c stNoRoute := by
  have hok : (decide (c.row < (copyF c.words).rows) && (List.range (copyF c.words).rowG).any (fun g => granuleBad d (copyF c.words) none c.row g))
      = false := by
    rcases hfit with h | h
    · rw [decide_eq_false (Nat.not_lt.mpr h), Bool.false_and]
    · rw [h, Bool.and_false]
  simp only [runRow, hok, Bool.false_eq_true, if_false] <;> rfl

theorem runRow_sent (hfit : RowFits d c) (hp : copyPeer d c = some pe)
    (hsend : sendAll t c.id (rowRequests d (copyF c.words) pe c.row) d = (0, tags, e)) :
    runRow d t c none = e.startCopy t c.id (c.row + 1) tags := by
  simp only [runRow_of_fits hfit, hp, hsend, if_true]

theorem runRow_stopped (hfit : RowFits d c) (hp : copyPeer d c = some pe)
    (hsend : sendAll t c.id (rowRequests d (copyF c.words) pe c.row) d = (st, tags, e)) (hst : st ≠ 0) :
    runRow d t c none = e.failCopy t c st := by
  simp only [runRow_of_fits hfit, hp, hsend, if_neg hst]

theorem runRow_no_route (hfit : RowFits d c) (hp : copyPeer d c = none) : runRow d t c none = d.failCopy t c stNoRoute := by
  simp only [runRow_of_fits hfit, hp]

/-! The same once the command stands as started. -/

theorem rowFits_begun (hfit : RowFits d c) : RowFits (begun d t c) c := by simpa only [RowFits, granuleBad_begun] using hfit

theorem rowRequests_begun (x : CopyF) (pe : Peer) (i : Nat) : rowRequests (begun d t c) x pe i = rowRequests d x pe i := by
  simp only [rowRequests, Device.readN, begun_mem]

section Outcomes
variable (hdue : CopyDue d t c mine) (hpast : c.started = true ∨ copyChecks d c = 0)
  (hs : (nextSpans c).any (fun s => heldAt d s.1 s.2) = false) (hr : RemoteRows (copyF c.words))
include hdue hpast hs hr

theorem takeCopy_row : takeCopy d t c.id mine none = runRow (begun d t c) t c none :=
  (takeCopy_runs hdue hpast hs).trans (runCopy_remote hr)

theorem takeCopy_sent (hfit : RowFits d c) (hp : copyPeer d c = some pe)
    (hsend : sendAll t c.id (rowRequests d (copyF c.words) pe c.row) (begun d t c) = (0, tags, e)) :
    takeCopy d t c.id mine none = e.startCopy t c.id (c.row + 1) tags :=
  (takeCopy_row hdue hpast hs hr).trans
    (runRow_sent (rowFits_begun hfit) ((copyPeer_begun d t c).trans hp) (by rw [rowRequests_begun, hsend]))

theorem takeCopy_stopped (hfit : RowFits d c) (hp : copyPeer d c = some pe)
    (hsend : sendAll t c.id (rowRequests d (copyF c.words) pe c.row) (begun d t c) = (st, tags, e)) (hst : st ≠ 0) :
    takeCopy d t c.id mine none = e.failCopy t c st :=
  (takeCopy_row hdue hpast hs hr).trans
    (runRow_stopped (rowFits_begun hfit) ((copyPeer_begun d t c).trans hp) (by rw [rowRequests_begun, hsend]) hst)

theorem takeCopy_row_keyless (hbad : c.row < (copyF c.words).rows ∧
      (List.range (copyF c.words).rowG).any (fun g => granuleBad d (copyF c.words) none c.row g) = true) :
    takeCopy d t c.id mine none = (begun d t c).failCopy t c stKeyAbsent :=
  (takeCopy_row hdue hpast hs hr).trans (runRow_keyless hbad.1 (by simpa only [granuleBad_begun] using hbad.2))

end Outcomes

theorem takeCopy_no_route (hdue : CopyDue d t c mine) (hstarted : c.started = true)
    (hs : (nextSpans c).any (fun s => heldAt d s.1 s.2) = false) (hr : RemoteRows (copyF c.words)) (hfit : RowFits d c)
    (hp : copyPeer d c = none) : takeCopy d t c.id mine none = d.failCopy t c stNoRoute := by
  have hb : begun d t c = d := if_pos hstarted
  rw [takeCopy_row hdue (.inl hstarted) hs hr, hb, runRow_no_route hfit hp]

end Remote

/-! ### COPY_COMPLETE -/

section Complete
variable {d e : Device} {t : Fin 4} {c : CopyCmd} {id : Nat}

/-- The command's tag is written here once its data has come from the peer (06 R179). -/
abbrev awaitsTag (x : CopyF) : Bool := x.tagsHere && x.remote == 1

/-- Every part of a started command is done and answered, and a tag that waited has its granule free (06 R177, R181). -/
abbrev copyOver (d : Device) (c : CopyCmd) : Bool :=
  terOn d && c.started && c.waits.isEmpty && decide ((copyF c.words).stages ≤ c.row)
    && !(awaitsTag (copyF c.words) && heldAt d ((copyF c.words).dst - 32) 32)

theorem takes_copyComplete (hq : (d.engAt t).copies.find? (fun x => x.id == c.id) = some c) (h : copyOver d c = true)
    (he : d.completeCopy t c = e) : Takes (.copyComplete t c.id) d e := fun s => by
  change execCopyComplete t c.id _ = _
  simp only [execCopyComplete, onDev, hq, h, if_true, he]

theorem takes_copyComplete_ignored (h : ∀ c, (d.engAt t).copies.find? (fun x => x.id == id) = some c → copyOver d c = false) :
    Takes (.copyComplete t id) d d := fun s => by
  change execCopyComplete t id _ = _
  cases hq : (d.engAt t).copies.find? (fun x => x.id == id) with
  | none => simp only [execCopyComplete, onDev, hq]
  | some c => simp only [execCopyComplete, onDev, hq, h c hq, Bool.false_eq_true, if_false]

theorem awaitsTag_and_eq_false {x : CopyF} {b : Bool} : (awaitsTag x && b) = false ↔ x.tagsHere = false ∨ x.remote ≠ 1 ∨ b = false := by
  simp only [awaitsTag, Bool.and_eq_false_iff, or_assoc, beq_eq_false_iff_ne, ne_eq]

theorem copyOver_iff : copyOver d c = true ↔ terOn d = true ∧ c.started = true ∧ c.waits = [] ∧ (copyF c.words).stages ≤ c.row ∧
    ((copyF c.words).tagsHere = false ∨ (copyF c.words).remote ≠ 1 ∨ heldAt d ((copyF c.words).dst - 32) 32 = false) := by
  rw [← awaitsTag_and_eq_false]
  simp only [copyOver, Bool.and_eq_true, decide_eq_true_eq, List.isEmpty_iff, Bool.not_eq_true', and_assoc]

theorem copyOver_eq_false (h : terOn d = false ∨ c.started = false ∨ c.waits ≠ [] ∨ c.row < (copyF c.words).stages ∨
    ((copyF c.words).tagsHere = true ∧ (copyF c.words).remote = 1 ∧ heldAt d ((copyF c.words).dst - 32) 32 = true)) : copyOver d c = false := by
  rw [← Bool.not_eq_true, copyOver_iff]
  rintro ⟨hon, hstarted, hwaits, hrow, htag⟩
  rcases h with h | h | h | h | ⟨htags, hrem, hheld⟩
  · simp [hon] at h
  · simp [hstarted] at h
  · exact h hwaits
  · omega
  · simp [htags, hrem, hheld] at htag

theorem completeCopy_keyless (htags : (copyF c.words).tagsHere = true) (hrem : (copyF c.words).remote = 1)
    (hkey : keyed d ((copyF c.words).dst - 32) 32 = false) : d.completeCopy t c = d.failCopy t c stKeyAbsent :=
  if_pos (by simp [htags, hrem, hkey])

/-- The end of a command that is complete, after its tag (06 R179, R181). -/
def copyEnded (d : Device) (t : Nat) (c : CopyCmd) : Device :=
  match c.issuer with
  | .pan p => if (copyF c.words).setEn then (d.dropCopy t c.id).updPan p (fun q => q.setFlag (copyF c.words).setFlag) else d.dropCopy t c.id
  | .firmware =>
    let d3 := (d.dropCopy t c.id).updEng t (fun e => { e with returned := some (c.job, stOk) })
    if (copyF c.words).moves then releaseRows d3 (copyF c.words) else d3

theorem completeCopy_done (hkey : (copyF c.words).tagsHere = false ∨ (copyF c.words).remote ≠ 1 ∨ keyed d ((copyF c.words).dst - 32) 32 = true) :
    d.completeCopy t c = copyEnded (if awaitsTag (copyF c.words) then d.store ((copyF c.words).dst - 32) (toLE 4 (copyF c.words).word) else d) t c := by
  have hok : (awaitsTag (copyF c.words) && !keyed d ((copyF c.words).dst - 32) 32) = false := awaitsTag_and_eq_false.mpr (by simpa using hkey)
  exact (if_neg (by rw [hok]; decide)).trans rfl

end Complete

/-- Settles O30: a row with a peer is `runRow`, the end of a command `completeCopy`. -/
theorem remoteCopyAndCompletion : Obligations.RemoteCopyAndCompletion := by
  unfold Obligations.RemoteCopyAndCompletion
  refine ⟨?copySent, ?copyStopped, ?copyKeyless, ?copyNoRoute, ?fillSent, ?fillStopped, ?fillNoRoute, ?tagSent, ?tagStopped, ?tagKeyless,
    ?tagNoRoute, ?done, ?keyless, ?ignored⟩
  case copySent =>
    exact fun t c pe tags d e hq hon hmay hop hpast hs hm hrem hfit hp hsend =>
      takes_copy (takeCopy_sent (copyDue hq hon hmay hop) hpast hs ⟨hm, hrem⟩ hfit hp hsend)
  case copyStopped =>
    exact fun t c pe st tags d e hq hon hmay hop hpast hs hm hrem hfit hp hsend hst =>
      takes_copy (takeCopy_stopped (copyDue hq hon hmay hop) hpast hs ⟨hm, hrem⟩ hfit hp hsend hst)
  case copyKeyless =>
    exact fun t c d hq hon hmay hop hpast hs hm hrem hbad =>
      takes_copy (takeCopy_row_keyless (copyDue hq hon hmay hop) hpast hs ⟨hm, hrem⟩ hbad)
  case copyNoRoute =>
    exact fun t c d hq hon hmay hop hstarted hs hm hrem hfit hp =>
      takes_copy (takeCopy_no_route (copyDue hq hon hmay hop) hstarted hs ⟨hm, hrem⟩ hfit hp)
  case fillSent =>
    exact fun t c pe tags d e hq hon hmay hop hpast hs hm hrem hfit hp hsend =>
      takes_fill (takeCopy_sent (fillDue hq hon hmay hop) hpast hs ⟨hm, hrem⟩ hfit hp hsend)
  case fillStopped =>
    exact fun t c pe st tags d e hq hon hmay hop hpast hs hm hrem hfit hp hsend hst =>
      takes_fill (takeCopy_stopped (fillDue hq hon hmay hop) hpast hs ⟨hm, hrem⟩ hfit hp hsend hst)
  case fillNoRoute =>
    exact fun t c d hq hon hmay hop hstarted hs hm hrem hfit hp =>
      takes_fill (takeCopy_no_route (fillDue hq hon hmay hop) hstarted hs ⟨hm, hrem⟩ hfit hp)
  case tagSent =>
    exact fun t c pe tags d e hq hon hmay hop hpast hs hm hrem hfit hp hsend =>
      takes_copyTag (takeCopy_sent (tagDue hq hon hmay hop) hpast hs ⟨hm, hrem⟩ hfit hp hsend)
  case tagStopped =>
    exact fun t c pe st tags d e hq hon hmay hop hpast hs hm hrem hfit hp hsend hst =>
      takes_copyTag (takeCopy_stopped (tagDue hq hon hmay hop) hpast hs ⟨hm, hrem⟩ hfit hp hsend hst)
  case tagKeyless =>
    exact fun t c d hq hon hmay hop hpast hs hm hrem hbad =>
      takes_copyTag (takeCopy_row_keyless (tagDue hq hon hmay hop) hpast hs ⟨hm, hrem⟩ hbad)
  case tagNoRoute =>
    exact fun t c d hq hon hmay hop hstarted hs hm hrem hfit hp =>
      takes_copyTag (takeCopy_no_route (tagDue hq hon hmay hop) hstarted hs ⟨hm, hrem⟩ hfit hp)
  case done =>
    exact fun t c d hq hon hstarted hwaits hrow hheld hkey =>
      takes_copyComplete hq (copyOver_iff.mpr ⟨hon, hstarted, hwaits, hrow, hheld⟩) (completeCopy_done hkey)
  case keyless =>
    exact fun t c d hq hon hstarted hwaits hrow htags hrem hheld hkey =>
      takes_copyComplete hq (copyOver_iff.mpr ⟨hon, hstarted, hwaits, hrow, .inr (.inr hheld)⟩) (completeCopy_keyless htags hrem hkey)
  case ignored => exact fun t id d hno => takes_copyComplete_ignored fun c hq => copyOver_eq_false (hno c hq)

end Sys2Proof.Machine
end

section
/-! PROOFS. BUFFER_REGENERATE (06 R188; 15 R424): which grains it resolves, and how each kind of buffer is resolved. -/
namespace Sys2Proof.Machine

/-! ### Which grain is resolved -/

section Due
variable {d e : Device} {j : Fin 16} {addr : Nat} {b : BufEntry}

/-- The grain of an address is held where the Terraces work, outside a saved context of the job, which is live (06 R188; 15 R424). -/
structure GrainDue (d : Device) (j : Fin 16) (addr : Nat) : Prop where
  on : terOn d = true
  held : grainHeld d addr = true
  data : inContext d j addr = false
  live : (d.jobAt j).live = true

/-- A grain resolved by the kind of its buffer. -/
abbrev resolved (d : Device) (j addr : Nat) (b : BufEntry) : Device :=
  match b.kind with
  | 0 => d.recopy j addr b
  | 1 => d.reproduce j addr b
  | 2 => d.rebuild j addr b
  | _ => d.reread j addr

theorem takes_bufferRegenerate (h : GrainDue d j addr) (hb : bufferOf d j addr = some b) (he : resolved d j addr b = e) :
    Takes (.bufferRegenerate j addr) d e := fun s => by
  obtain ⟨hon, hheld, hdata, hlive⟩ := h
  subst he
  change execBufferRegenerate j addr _ = _
  simp only [execBufferRegenerate, onDev, hon, hheld, hdata, hlive, hb, Bool.not_true, Bool.or_self, Bool.false_eq_true, if_false] <;> rfl

theorem takes_bufferRegenerate_unnamed (h : GrainDue d j addr) (hb : bufferOf d j addr = none) :
    Takes (.bufferRegenerate j addr) d ((d.replaySteps j).releaseGrain addr) := fun s => by
  obtain ⟨hon, hheld, hdata, hlive⟩ := h
  change execBufferRegenerate j addr _ = _
  simp only [execBufferRegenerate, onDev, hon, hheld, hdata, hlive, hb, Bool.not_true, Bool.or_self, Bool.false_eq_true, if_false,
    Device.replayFor]

theorem takes_bufferRegenerate_context (hon : terOn d = true) (hheld : grainHeld d addr = true) (hctx : inContext d j addr = true) :
    Takes (.bufferRegenerate j addr) d (d.releaseGrain addr).jobFault := fun s => by
  change execBufferRegenerate j addr _ = _
  simp only [execBufferRegenerate, onDev, hon, hheld, hctx, Bool.not_true, Bool.or_self, Bool.false_eq_true, if_false, if_true]

theorem takes_bufferRegenerate_ignored
    (h : terOn d = false ∨ grainHeld d addr = false ∨ (inContext d j addr = false ∧ (d.jobAt j).live = false)) :
    Takes (.bufferRegenerate j addr) d d := fun s => by
  change execBufferRegenerate j addr _ = _
  rcases h with h | h | ⟨hctx, hlive⟩
  · simp only [execBufferRegenerate, onDev, h, Bool.not_false, Bool.true_or, if_true]
  · simp only [execBufferRegenerate, onDev, h, Bool.not_false, Bool.or_true, if_true]
  · simp only [execBufferRegenerate, onDev, hctx, hlive, Bool.not_false, Bool.false_eq_true, if_false, if_true, ite_self]

end Due

/-! ### The kinds of buffer -/

section Kinds
variable {d : Device} {j addr p : Nat} {b : BufEntry}

/-- Where the source of a COPY buffer holds the part of a grain (06 R188). -/
abbrev copySource (b : BufEntry) (addr : Nat) : Nat := fieldAt b.source 0 8 + ((partOf b addr).1 - b.base)

/-- The part of a grain in a COPY buffer is whole granules, at its source as well. -/
abbrev WholeGranules (b : BufEntry) (addr : Nat) : Prop :=
  (partOf b addr).1 % 32 = 0 ∧ (partOf b addr).2 % 32 = 0 ∧ copySource b addr % 32 = 0

/-- Firmware's copy of the part is in the queue already. -/
abbrev recopyQueued (d : Device) (b : BufEntry) (addr : Nat) : Bool :=
  (d.engAt (terOf addr)).copies.any (fun c => c.issuer == .firmware && c.words == recopyWords (copySource b addr) (partOf b addr).1 (partOf b addr).2)

theorem not_wholeGranules_iff : ((partOf b addr).1 % 32 ≠ 0 ∨ (partOf b addr).2 % 32 ≠ 0 ∨ copySource b addr % 32 ≠ 0) ↔ ¬WholeGranules b addr := by
  rw [not_and_or, not_and_or]

theorem recopy_whole (hw : WholeGranules b addr) (hsrc : heldAt d (copySource b addr) (partOf b addr).2 = false)
    (hq : recopyQueued d b addr = false) :
    d.recopy j addr b = if (d.engAt (terOf addr)).mayQueue .firmware j = true then
        d.issue.2.updEng (terOf addr) (fun e => e.queueCopy .firmware j d.issued (recopyWords (copySource b addr) (partOf b addr).1 (partOf b addr).2))
      else d.updEng (terOf addr) (fun e => e.await .firmware j) := by
  simp only [Device.recopy, if_neg (not_wholeGranules_iff.not.mpr (not_not.mpr hw)), hsrc, hq, Bool.false_eq_true, if_false]

theorem recopy_waits (hw : WholeGranules b addr)
    (h : heldAt d (copySource b addr) (partOf b addr).2 = true ∨ recopyQueued d b addr = true) : d.recopy j addr b = d := by
  rcases h with h | h <;>
    simp only [Device.recopy, if_neg (not_wholeGranules_iff.not.mpr (not_not.mpr hw)), h, if_true, ite_self]

theorem recopy_broken (hw : ¬WholeGranules b addr) : d.recopy j addr b = (d.replaySteps j).releaseGrain addr := by
  simp only [Device.recopy, if_pos (not_wholeGranules_iff.mpr hw), Device.replayFor]

/-- The pan of a job that wrote a PRODUCED buffer (06 R188). -/
abbrev producer (d : Device) (j : Nat) (b : BufEntry) : Option Nat :=
  (pansOf d j).find? (fun p => (d.panAt p).job == some (j, fieldAt b.source 0 1))

theorem reproduce_of_producer (hp : producer d j b = some p) :
    d.reproduce j addr b = if (d.panAt p).core.running ∧ (d.panAt p).core.segNo = fieldAt b.source 1 4 then (d.releaseGrain addr).updPan p Pan.rerun
      else if (d.panAt p).core.segNo < fieldAt b.source 1 4 then (d.replaySteps j).releaseGrain addr else d.releaseGrain addr := by
  have hp' : Device.reproduce.physPanOf d j (fieldAt b.source 0 1) = some p := hp
  simp only [Device.reproduce, hp', Device.replayFor, Bool.and_eq_true, beq_iff_eq]

theorem reproduce_lost (hp : producer d j b = none) : d.reproduce j addr b = (d.replaySteps j).releaseGrain addr := by
  have hp' : Device.reproduce.physPanOf d j (fieldAt b.source 0 1) = none := hp
  simp only [Device.reproduce, hp', Device.replayFor]

/-- The dispatched micro-batches that hold the sample slot of an INPUT buffer: where each lies, and its bytes (06 R188). -/
abbrev batchesOf (d : Device) (j : Nat) (b : BufEntry) : List (Nat × List Nat) :=
  (d.jobAt j).allSteps.flatMap (fun st => (st.mbs.filter (fun m => m.dispatched && m.samples.any (fun x => x.slot == fieldAt b.source 0 4))).map
    (fun m => (m.addr, batchBytes st m)))

theorem rebuild_placed (h : batchesOf d j b ≠ []) :
    d.rebuild j addr b = ((batchesOf d j b).foldl (fun e x => e.store x.1 x.2) d).releaseGrain addr :=
  if_neg (by rwa [List.isEmpty_iff])

theorem rebuild_none (h : batchesOf d j b = []) : d.rebuild j addr b = (d.replaySteps j).releaseGrain addr :=
  if_pos (by rwa [List.isEmpty_iff])

/-! The buffer's kind picks the way. -/

theorem resolved_copy (hk : b.kind = 0) : resolved d j addr b = d.recopy j addr b := by simp only [resolved, hk]
theorem resolved_produced (hk : b.kind = 1) : resolved d j addr b = d.reproduce j addr b := by simp only [resolved, hk]
theorem resolved_input (hk : b.kind = 2) : resolved d j addr b = d.rebuild j addr b := by simp only [resolved, hk]

theorem resolved_state (hk : 3 ≤ b.kind) : resolved d j addr b = (d.replaySteps j).releaseGrain addr := by
  unfold resolved
  split
  case h_4 => rfl
  all_goals omega

end Kinds

/-- Settles O32: the grain's buffer is of one of the four kinds, or none; each kind's ways are apart. -/
theorem bufferRegeneration : Obligations.BufferRegeneration := by
  unfold Obligations.BufferRegeneration
  refine ⟨?copied, ?waits, ?broken, ?produced, ?noProducer, ?placed, ?noBatch, ?state, ?context, ?unnamed, ?ignored⟩
  case copied =>
    exact fun j addr b d hon hheld hdata hlive hb hk hw hsrc hq =>
      takes_bufferRegenerate ⟨hon, hheld, hdata, hlive⟩ hb ((resolved_copy hk).trans (recopy_whole hw hsrc hq))
  case waits =>
    exact fun j addr b d hon hheld hdata hlive hb hk hw h =>
      takes_bufferRegenerate ⟨hon, hheld, hdata, hlive⟩ hb ((resolved_copy hk).trans (recopy_waits hw h))
  case broken =>
    exact fun j addr b d hon hheld hdata hlive hb hk hw =>
      takes_bufferRegenerate ⟨hon, hheld, hdata, hlive⟩ hb ((resolved_copy hk).trans (recopy_broken hw))
  case produced =>
    exact fun j addr b p d hon hheld hdata hlive hb hk hp =>
      takes_bufferRegenerate ⟨hon, hheld, hdata, hlive⟩ hb ((resolved_produced hk).trans (reproduce_of_producer hp))
  case noProducer =>
    exact fun j addr b d hon hheld hdata hlive hb hk hp =>
      takes_bufferRegenerate ⟨hon, hheld, hdata, hlive⟩ hb ((resolved_produced hk).trans (reproduce_lost hp))
  case placed =>
    exact fun j addr b d hon hheld hdata hlive hb hk h =>
      takes_bufferRegenerate ⟨hon, hheld, hdata, hlive⟩ hb ((resolved_input hk).trans (rebuild_placed h))
  case noBatch =>
    exact fun j addr b d hon hheld hdata hlive hb hk h =>
      takes_bufferRegenerate ⟨hon, hheld, hdata, hlive⟩ hb ((resolved_input hk).trans (rebuild_none h))
  case state =>
    exact fun j addr b d hon hheld hdata hlive hb hk => takes_bufferRegenerate ⟨hon, hheld, hdata, hlive⟩ hb (resolved_state hk)
  case context => exact fun j addr d => takes_bufferRegenerate_context
  case unnamed => exact fun j addr d hon hheld hdata hlive => takes_bufferRegenerate_unnamed ⟨hon, hheld, hdata, hlive⟩
  case ignored => exact fun j addr d => takes_bufferRegenerate_ignored

end Sys2Proof.Machine
end

section
/-! PROOFS. Bed modes, map-outs, test mode and the traffic generator (06 R185, R197 to R200; 19 R513): what each command does where its conditions
hold, and that it changes nothing where they do not. -/
namespace Sys2Proof.Machine

/-! ### Bed modes and map-outs -/

section Boundary
variable {d : Device} {t : Fin 4} {c : Fin 32} {b : Fin 80} {modes : BitVec 80}

/-- The condition under which BED_MODE_CHANGE does nothing (06 R185). -/
theorem modesBarred_iff : (!atBoundary d t || d.inp.stage != .served || d.glb.cur == .shelf) = true ↔
    atBoundary d t = false ∨ d.inp.stage ≠ .served ∨ d.glb.cur = .shelf := by
  simp only [Bool.or_eq_true, Bool.not_eq_true', bne_iff_ne, beq_iff_eq, or_assoc]

theorem takes_bedModeChange (hb : atBoundary d t = true) (hs : d.inp.stage = .served) (hp : d.glb.cur ≠ .shelf) :
    Takes (.bedModeChange t modes) d (((List.range 80).filter (fun b => (d.terAt t).bedMode.getLsbD b != modes.getLsbD b)).foldl
      (fun e b => e.undefBed t b) ((d.cacheOut t).updTer t (fun x => { x with bedMode := modes }))).deriveSeal := fun s => by
  have hno : ¬(!atBoundary d t || d.inp.stage != .served || d.glb.cur == .shelf) = true := by simp [hb, hs, hp]
  change execBedModeChange t modes _ = _
  simp only [execBedModeChange, onDev, if_neg hno]

theorem takes_bedModeChange_ignored (h : atBoundary d t = false ∨ d.inp.stage ≠ .served ∨ d.glb.cur = .shelf) :
    Takes (.bedModeChange t modes) d d := fun s => by
  change execBedModeChange t modes _ = _
  simp only [execBedModeChange, onDev, if_pos (modesBarred_iff.mpr h)]

/-- The channels that a map-out leaves (06 R197). -/
abbrev chansLeft (d : Device) (t : Fin 4) (c : Fin 32) : BitVec 32 := (d.terAt t).chans &&& ~~~(1#32 <<< c.val)

/-- The Terrace with a channel's bit cleared: its window undefined, nothing of it dirty or held. -/
def windowLost (d : Device) (t : Fin 4) (c : Fin 32) : Device :=
  (d.updTer t (fun x => { x with chans := chansLeft d t c, dirty := [], lostLines := x.lostLines.filter (fun l => !isWindow (256 * l))
                                 mapOutDue := x.mapOutDue.filter (fun k => k != c.val) })).undefine (window t) (window (t + 1))

/-- What CHANNEL_MAP_OUT does: partner regions lost, partition region 1 ended at the new top, the wear, the seal, the log. -/
def channelOut (d : Device) (t : Fin 4) (c : Fin 32) : Device :=
  let d1 := windowLost d t c
  let d2 := (d1.losePartners t).updTer t (fun x => { x with regions := modNth (fun r => { r with limit := populated d1 t / 2 ^ 26 - 1 }) x.regions 1 })
  ((d2.updWear (fun w => { w with chans := wearAdd w.chans (32 * t + c) })).deriveSeal.logMapOut (srcChan (32 * t + c)) (32 * t + c)).noteRetire
    (retireReg d)

theorem takes_channelMapOut (hb : atBoundary d t = true) (hc : (d.terAt t).chans.getLsbD c = true) (hl : chansLeft d t c ≠ 0) :
    Takes (.channelMapOut t c) d (channelOut d t c) := fun s => by
  change execChannelMapOut t c _ = _
  simp only [execChannelMapOut, onDev, hb, hc, beq_eq_false_iff_ne.mpr hl, Bool.not_true, Bool.or_self, Bool.false_eq_true, if_false]
  rfl

theorem takes_channelMapOut_ignored (h : atBoundary d t = false ∨ (d.terAt t).chans.getLsbD c = false ∨ chansLeft d t c = 0) :
    Takes (.channelMapOut t c) d d := fun s => by
  have hbar : (!atBoundary d t || !(d.terAt t).chans.getLsbD c || chansLeft d t c == 0) = true := by
    simpa only [Bool.or_eq_true, Bool.not_eq_true', beq_iff_eq, or_assoc] using h
  change execChannelMapOut t c _ = _
  simp only [execChannelMapOut, onDev, if_pos hbar]

theorem takes_bedMapOut (h : (d.terAt t).bedOut.getLsbD b = false) :
    Takes (.bedMapOut t b) d (((((if (d.terAt t).bedMode.getLsbD b then d else d.cacheOut t).updTer t
      (fun x => { x with bedOut := x.bedOut ||| (1#80 <<< b.val) })).undefBed t b).updWear
        (fun w => { w with beds := wearAdd w.beds (80 * t + b) })).deriveSeal.logMapOut (srcTer t) (80 * t + b)) := fun s => by
  change execBedMapOut t b _ = _
  simp only [execBedMapOut, onDev, h, Bool.false_eq_true, if_false]

theorem takes_bedMapOut_ignored (h : (d.terAt t).bedOut.getLsbD b = true) : Takes (.bedMapOut t b) d d := fun s => by
  change execBedMapOut t b _ = _
  simp only [execBedMapOut, onDev, h, if_true]

end Boundary

/-! ### Test mode -/

section TestMode
variable {d : Device} {t : Fin 4}

/-- The jobs of the Terrace's partition that stand stopped or lost have no committed state any more (06 R199). -/
def stoppedLost (t : Nat) (d : Device) : Device :=
  slots.foldl (fun e j =>
    if (e.jobAt j).part = some (partOfTer e.quy.layout t) ∧ ((e.jobAt j).state = .stopped ∨ (e.jobAt j).state = .lost) then
      e.updJob j (fun q => { q with state := .lost, commit := { q.commit with kept := false } }) else e) d

/-- The staging of every slot of the Terrace's partition left undefined (06 R199). -/
def stagingLost (t : Nat) (d : Device) : Device :=
  slots.foldl (fun e j => match (e.jobAt j).resv with
    | some r => if r.part = partOfTer e.quy.layout t then e.undefine r.stageDev (r.stageDev + r.stageMib * 1048576) else e
    | none => e) d

/-- What TEST_MODE_ENABLE does (06 R199). -/
def testOn (d : Device) (t : Fin 4) : Device :=
  let d1 := (d.cacheOut t).undefine (window t) (window (t + 1))
  let d2 := (List.range 32).foldl (fun e c => e.updChan (32 * t + c) (fun x => { x with raw := rawUnknown d1.free })) { d1 with free := d1.free + 1 }
  ((stagingLost t (stoppedLost t d2)).updTer t (fun x => { x with testEn := true })).logEvent (srcTer t) 0x0402 sevWarning none [t.val]

theorem takes_testModeEnable (hb : atBoundary d t = true) (hp : holdsPartner (d.terAt t) = false) (hs : d.inp.stage = .served)
    (hc : d.glb.cur ≠ .shelf) (ht : (d.terAt t).testEn = false) : Takes (.testModeEnable t) d (testOn d t) := fun s => by
  have hno : ¬(!atBoundary d t || holdsPartner (d.terAt t) || d.inp.stage != .served || d.glb.cur == .shelf || (d.terAt t).testEn) = true := by
    simp [hb, hp, hs, hc, ht]
  change execTestModeEnable t _ = _
  simp only [execTestModeEnable, onDev, if_neg hno]
  simp only [testOn, stagingLost, stoppedLost, Bool.and_eq_true, Bool.or_eq_true, beq_iff_eq] <;> rfl

theorem takes_testModeEnable_ignored (h : atBoundary d t = false ∨ holdsPartner (d.terAt t) = true ∨ d.inp.stage ≠ .served ∨ d.glb.cur = .shelf ∨
    (d.terAt t).testEn = true) : Takes (.testModeEnable t) d d := fun s => by
  have hbar : (!atBoundary d t || holdsPartner (d.terAt t) || d.inp.stage != .served || d.glb.cur == .shelf || (d.terAt t).testEn) = true := by
    rcases h with h | h | h | h | h <;> simp [h]
  change execTestModeEnable t _ = _
  simp only [execTestModeEnable, onDev, if_pos hbar]

theorem takes_testModeDisable (h : (d.terAt t).testEn = true) :
    Takes (.testModeDisable t) d ((List.range 32).foldl (fun e c => e.updChan (32 * t + c) (fun x => { x with run := none, abort := false }))
      ((d.updTer t (fun x => { x with testEn := false })).undefine (window t) (window (t + 1)))) := fun s => by
  change execTestModeDisable t _ = _
  simp only [execTestModeDisable, onDev, h, Bool.not_true, Bool.false_eq_true, if_false]

theorem takes_testModeDisable_ignored (h : (d.terAt t).testEn = false) : Takes (.testModeDisable t) d d := fun s => by
  change execTestModeDisable t _ = _
  simp only [execTestModeDisable, onDev, h, Bool.not_false, if_true]

end TestMode

/-! ### The traffic generator -/

section Generator
variable {d : Device} {c : Fin 128} {pattern opmode : Nat} {r : TgRun} {flips : List (Nat × Nat)}

/-- An update of a channel is what it makes of that channel as it stands. -/
theorem Device.updChan_congr {f g : Channel → Channel} (h : f (d.chanAt c) = g (d.chanAt c)) : d.updChan c f = d.updChan c g := by
  have hat : d.chanAt c = d.chan[c.val] := by simp [Device.chanAt, vget]
  rw [hat] at h
  simp only [Device.updChan, vmod, c.isLt, dif_pos, h]

/-- What a write of LPD_TG_CTRL with GO makes of a channel (06 R200). -/
def goWritten (d : Device) (c : Fin 128) (pattern opmode : Nat) (x : Channel) : Channel :=
  if x.run.isSome then { x with pattern := pattern % 8, opmode := opmode % 4, abort := false }
  else if !(d.terAt (c / 32)).testEn || decide (6 ≤ pattern % 8) || decide (rawBursts d < x.start + x.count) then
    { x with pattern := pattern % 8, opmode := opmode % 4, abort := false, rejected := true }
  else if x.count = 0 then { x with pattern := pattern % 8, opmode := opmode % 4, abort := false, done := true }
  else { x with
    pattern := pattern % 8, opmode := opmode % 4, abort := false
    run := some { pattern := pattern % 8, opmode := opmode % 4, start := x.start, count := x.count, seed := x.seed } }

theorem tgWrite_go : d.tgWrite c pattern opmode true = d.updChan c (goWritten d c pattern opmode) := rfl

theorem takes_tgGo {f : Channel → Channel} (hf : goWritten d c pattern opmode (d.chanAt c) = f (d.chanAt c)) :
    Takes (.tgGo c pattern opmode) d (d.updChan c f) := fun s => by
  change execTgGo c pattern opmode _ = _
  rw [execTgGo, onDev, tgWrite_go, Device.updChan_congr hf]

/-- The conditions that refuse a run with no other under way (06 R200). -/
theorem goRefused_iff : (!(d.terAt (c / 32)).testEn || decide (6 ≤ pattern % 8) || decide (rawBursts d < (d.chanAt c).start + (d.chanAt c).count)) = true ↔
    (d.terAt (c / 32)).testEn = false ∨ 6 ≤ pattern % 8 ∨ rawBursts d < (d.chanAt c).start + (d.chanAt c).count := by
  simp only [Bool.or_eq_true, Bool.not_eq_true', decide_eq_true_eq, or_assoc]

theorem tgStop_idle (h : (d.chanAt c).run = none) : d.tgStop c = d := by simp only [Device.tgStop, h]

theorem tgStop_reading (h : (d.chanAt c).run = some r) (hop : r.opmode = 1) :
    d.tgStop c = d.updChan c (fun x => { x with run := none, aborted := true, abort := false }) := by
  simp only [Device.tgStop, h, if_pos hop]

theorem tgStop_writing (h : (d.chanAt c).run = some r) (hop : r.opmode ≠ 1) :
    d.tgStop c = ({ d.updChan c (fun x => { x with run := none, aborted := true, abort := false }) with
      free := (d.updChan c (fun x => { x with run := none, aborted := true, abort := false })).free + 1 } : Device).updChan c (fun x => { x with
        raw := x.raw.blank (rawKey c (64 * r.start)) (rawKey c (64 * (r.start + r.count))) (some d.free) }) := by
  simp only [Device.tgStop, h, if_neg hop]

theorem takes_tgAbort {e : Device} (h : d.tgStop c = e) : Takes (.tgAbort c) d e := fun s => by
  change execTgAbort c _ = _
  simp only [execTgAbort, onDev, h]

theorem takes_tgRunDone (h : (d.chanAt c).run = some r) : Takes (.tgRunDone c flips) d (d.updChan c (fun x =>
    let ds := runData r.pattern r.count r.start (prbsStart r.pattern r.seed)
    let y := if r.opmode = 1 then x else ds.foldl (fun y b => rawWrite c y b.1 b.2) x
    let z := if r.opmode = 0 then y else ds.foldl (checkBurst c flips) y
    if r.opmode = 3 then z else { z with run := none, done := true })) := fun s => by
  change execTgRunDone c flips _ = _
  simp only [execTgRunDone, onDev, h]

theorem takes_tgRunDone_idle (h : (d.chanAt c).run = none) : Takes (.tgRunDone c flips) d d := fun s => by
  change execTgRunDone c flips _ = _
  simp only [execTgRunDone, onDev, h]

end Generator

/-- Settles O33: each command under its conditions, and without them. -/
theorem memoryModesAndTest : Obligations.MemoryModesAndTest := by
  unfold Obligations.MemoryModesAndTest
  refine ⟨?modes, ?modesBarred, ?channel, ?channelBarred, ?bed, ?bedOut, ?testOn, ?testBarred, ?testOff, ?testOffAlready, ?goRunning,
    ?goRefused, ?goEmpty, ?goStarts, ?abortReading, ?abortWriting, ?runDone, ?idle⟩
  case modes => exact fun t modes d => takes_bedModeChange
  case modesBarred => exact fun t modes d => takes_bedModeChange_ignored
  case channel => exact fun t c d => takes_channelMapOut
  case channelBarred => exact fun t c d => takes_channelMapOut_ignored
  case bed => exact fun t b d => takes_bedMapOut
  case bedOut => exact fun t b d => takes_bedMapOut_ignored
  case testOn => exact fun t d => takes_testModeEnable
  case testBarred => exact fun t d => takes_testModeEnable_ignored
  case testOff => exact fun t d => takes_testModeDisable
  case testOffAlready => exact fun t d => takes_testModeDisable_ignored
  case goRunning => exact fun c pattern opmode d hrun => takes_tgGo (if_pos hrun)
  case goRefused =>
    exact fun c pattern opmode d hrun hno => takes_tgGo ((if_neg (by simp [hrun])).trans (if_pos (goRefused_iff.mpr hno)))
  case goEmpty =>
    intro c pattern opmode d hrun htest hpat hfit hzero
    have hok := goRefused_iff (d := d) (c := c) (pattern := pattern).not.mpr (by simp [htest, hpat, hfit])
    exact takes_tgGo ((if_neg (by simp [hrun])).trans ((if_neg hok).trans (if_pos hzero)))
  case goStarts =>
    intro c pattern opmode d hrun htest hpat hfit hcount
    have hok := goRefused_iff (d := d) (c := c) (pattern := pattern).not.mpr (by simp [htest, hpat, hfit])
    exact takes_tgGo ((if_neg (by simp [hrun])).trans ((if_neg hok).trans (if_neg hcount)))
  case abortReading => exact fun c r d h hop => takes_tgAbort (tgStop_reading h hop)
  case abortWriting => exact fun c r d h hop => takes_tgAbort (tgStop_writing h hop)
  case runDone => exact fun c r flips d => takes_tgRunDone
  case idle => exact fun c flips d h => ⟨takes_tgAbort (tgStop_idle h), takes_tgRunDone_idle h⟩

end Sys2Proof.Machine
end

section
/-! PROOFS. The Skim engine and the Sluice's commands (06 R177, R184, R196; 08 R246 to R248; 09 R254 to R266; 19 R521, R523): the head command of an
engine refused by its checks, done, or held back. -/
namespace Sys2Proof.Machine

/-! ### SKIM_COMMAND -/

section Skim
variable {d e : Device} {t : Fin 4} {k : SkimCmd} {rest : List SkimCmd} {n : Nat} {hit : Option Hit}

/-- The convolution record of a Skim command, read from memory (08 R246). -/
abbrev skimRec (d : Device) (k : SkimCmd) : ConvRec := convRec (d.mem.readN (skimF k.bytes).recAddr 64)

/-- What refuses the record itself: an access that the job may not make. One out of alignment is left to the checks. -/
abbrev recStatus (d : Device) (k : SkimCmd) : Nat :=
  if (skimF k.bytes).recAddr % 32 = 0 then engineAccess d k.job [((skimF k.bytes).recAddr, 64)] else 0

/-- The status of the oldest Skim command (08 R246, R248). -/
abbrev skimStatus (d : Device) (t : Fin 4) (k : SkimCmd) : Nat :=
  if (d.engAt t).skimFailed then 0x0805 else if recStatus d k ≠ 0 then recStatus d k else skimChecks d k.job (skimF k.bytes) (skimRec d k)

/-- The stretches that a Skim command touches. -/
abbrev skimSpans (d : Device) (k : SkimCmd) : List (Nat × Nat) :=
  if (skimF k.bytes).m = 0 then [((skimF k.bytes).recAddr, 64)]
  else ((skimF k.bytes).recAddr, 64) :: (skimF k.bytes).spans (skimRec d k) ++ (skimF k.bytes).pixels (skimRec d k)

theorem takes_skim_refused (hq : (d.engAt t).skim = k :: rest) (hon : engOn d = true) {st : Nat} (hst : skimStatus d t k = st) (hne : st ≠ 0) :
    Takes (.skimCommand t n hit) d ((d.popSkim t).failEngine k.job k.seq st) := fun s => by
  subst hst
  change execSkimCommand t n hit _ = _
  simp only [execSkimCommand, onDev, hq, hon, Bool.not_true, Bool.false_eq_true, if_false, if_pos hne]

theorem takes_skim_past (hq : (d.engAt t).skim = k :: rest) (hon : engOn d = true) (hst : skimStatus d t k = 0)
    (he : d.withHit hit (skimSpans d k) Device.holdFault (fun e => e.skimWork t n (skimF k.bytes) (skimRec d k)) = e) :
    Takes (.skimCommand t n hit) d e := fun s => by
  have hno : ¬skimStatus d t k ≠ 0 := not_not.mpr hst
  subst he
  change execSkimCommand t n hit _ = _
  simp only [execSkimCommand, onDev, hq, hon, Bool.not_true, Bool.false_eq_true, if_false, if_neg hno]

theorem takes_skim_ignored (h : (d.engAt t).skim = [] ∨ engOn d = false) : Takes (.skimCommand t n hit) d d := fun s => by
  change execSkimCommand t n hit _ = _
  cases hq : (d.engAt t).skim with
  | nil => simp only [execSkimCommand, onDev, hq]
  | cons k rest =>
    have hoff : engOn d = false := h.resolve_left (by simp [hq])
    simp only [execSkimCommand, onDev, hq, hoff, Bool.not_false, if_true]

theorem recStatus_eq_zero (h : (skimF k.bytes).recAddr % 32 ≠ 0 ∨ engineAccess d k.job [((skimF k.bytes).recAddr, 64)] = 0) : recStatus d k = 0 := by
  rcases h with h | h
  · exact if_neg h
  · exact (congrArg (ite _ · 0) h).trans (ite_self 0)

theorem skimStatus_failed (hf : (d.engAt t).skimFailed = true) : skimStatus d t k = 0x0805 := if_pos hf

theorem skimStatus_of_record (hf : (d.engAt t).skimFailed = false) (ha : (skimF k.bytes).recAddr % 32 = 0)
    (hacc : engineAccess d k.job [((skimF k.bytes).recAddr, 64)] ≠ 0) : skimStatus d t k = engineAccess d k.job [((skimF k.bytes).recAddr, 64)] := by
  have hrec : recStatus d k = engineAccess d k.job [((skimF k.bytes).recAddr, 64)] := if_pos ha
  simp only [skimStatus, hf, Bool.false_eq_true, if_false, hrec, if_pos hacc]

theorem skimStatus_of_checks (hf : (d.engAt t).skimFailed = false)
    (hr : (skimF k.bytes).recAddr % 32 ≠ 0 ∨ engineAccess d k.job [((skimF k.bytes).recAddr, 64)] = 0) :
    skimStatus d t k = skimChecks d k.job (skimF k.bytes) (skimRec d k) := by
  simp only [skimStatus, hf, Bool.false_eq_true, if_false, recStatus_eq_zero hr, ne_eq, not_true_eq_false]

theorem takes_skimFailed (hq : (d.engAt t).skim = k :: rest) (hon : engOn d = true) (hf : (d.engAt t).skimFailed = false) :
    Takes (.skimFailed t) d ((((d.updEng t (fun e => { e with skimFailed := true, skimResidue := satAdd e.skimResidue 3 })).updWear
      (fun w => { w with skims := wearAdd w.skims t })).logEvent (srcTer t) 0x0809 sevFault (some k.job) [t.val]).jobFault) := fun s => by
  change execSkimFailed t _ = _
  simp only [execSkimFailed, onDev, hq, hon, hf, Bool.not_true, List.isEmpty_cons, Bool.or_self, Bool.false_eq_true, if_false, List.head?_cons,
    Option.map_some]

theorem takes_skimFailed_ignored (h : (d.engAt t).skim = [] ∨ engOn d = false ∨ (d.engAt t).skimFailed = true) : Takes (.skimFailed t) d d :=
  fun s => by
  have hbar : (!engOn d || (d.engAt t).skim.isEmpty || (d.engAt t).skimFailed) = true := by
    rcases h with h | h | h <;> simp [h]
  change execSkimFailed t _ = _
  simp only [execSkimFailed, onDev, if_pos hbar]

end Skim

/-- Settles O34: the status of the oldest command decides between its refusal and its work. -/
theorem skimCommands : Obligations.SkimCommands := by
  unfold Obligations.SkimCommands
  refine ⟨?noRecord, ?refused, ?done, ?met, ?undone, ?broken, ?ignored, ?fails, ?failsNot⟩
  case noRecord => exact fun t k rest n hit d hq hon hf hacc => takes_skim_refused hq hon (skimStatus_of_record hf hacc.1 hacc.2) hacc.2
  case refused => exact fun t k rest n hit d hq hon hf hr hc => takes_skim_refused hq hon (skimStatus_of_checks hf hr) hc
  case done =>
    exact fun t k rest n d hq hon hf hr hc hs => takes_skim_past hq hon ((skimStatus_of_checks hf hr).trans hc) (Device.withHit_clear hs)
  case met =>
    exact fun t k rest n h d hq hon hf hr hc hs hmet =>
      takes_skim_past hq hon ((skimStatus_of_checks hf hr).trans hc) (Device.withHit_met hs hmet)
  case undone =>
    exact fun t k rest n hit d hq hon hf hr hc h => takes_skim_past hq hon ((skimStatus_of_checks hf hr).trans hc) (Device.withHit_undone h)
  case broken => exact fun t k rest n hit d hq hon hf => takes_skim_refused hq hon (skimStatus_failed hf) (by decide)
  case ignored => exact fun t n hit d => takes_skim_ignored
  case fails => exact fun t k rest d => takes_skimFailed
  case failsNot => exact fun t d => takes_skimFailed_ignored

/-! ### SELECT, DISPATCH, COMBINE and BRANCH -/

section Sluice
variable {d e : Device} {t : Fin 4} {c : SluiceCmd} {x : SluiceF} {group : List (Bool × Nat × Nat)} {hit : Option Hit}

/-- The Terrace's head command is of an OP that a Sluice command serves, and may start (09 R254). -/
abbrev SluiceDue (d : Device) (t : Fin 4) (mine : Nat → Bool) (c : SluiceCmd) (x : SluiceF) : Prop := sluiceStart d t mine = some (c, x)

/-- The OPs that DISPATCH serves, a reserved one among them. -/
abbrev dispatchOps (op : Nat) : Bool := op != 1 && op != 3 && op != 4

theorem takes_select_refused (h : SluiceDue d t (· == 1) c x) (hc : selectChecks d c.job x ≠ 0) :
    Takes (.select t hit) d (d.rejectSluice t c (selectChecks d c.job x)) := fun s => by
  change execSelect t hit _ = _
  simp only [execSelect, onDev, h, if_pos hc]

theorem takes_select_past (h : SluiceDue d t (· == 1) c x) (hc : selectChecks d c.job x = 0)
    (he : d.withHit hit (selectSpans x) Device.holdFault (fun e => e.selectWork t x) = e) : Takes (.select t hit) d e := fun s => by
  change execSelect t hit _ = _
  simp only [execSelect, onDev, h, hc, ne_eq, not_true_eq_false, if_false, he]

theorem takes_select_ignored (h : sluiceStart d t (· == 1) = none) : Takes (.select t hit) d d := fun s => by
  change execSelect t hit _ = _
  simp only [execSelect, onDev, h]

theorem takes_dispatch_refused (h : SluiceDue d t dispatchOps c x) (hop : x.op = 2) (hc : dispatchChecks d c.job x t ≠ 0) :
    Takes (.dispatch t group hit) d (d.rejectSluice t c (dispatchChecks d c.job x t)) := fun s => by
  change execDispatch t group hit _ = _
  simp only [execDispatch, onDev, h, if_pos hop, if_pos hc]

theorem takes_dispatch_reserved (h : SluiceDue d t dispatchOps c x) (hop : x.op ≠ 2) :
    Takes (.dispatch t group hit) d (d.rejectSluice t c stReserved) := fun s => by
  have hne : stReserved ≠ 0 := by decide
  change execDispatch t group hit _ = _
  simp only [execDispatch, onDev, h, if_neg hop, if_pos hne]

theorem takes_dispatch_past (h : SluiceDue d t dispatchOps c x) (hop : x.op = 2) (hc : dispatchChecks d c.job x t = 0)
    (he : d.withHit hit (dispatchSpans d x t) Device.holdFault (fun e => e.dispatchWork t c x group) = e) : Takes (.dispatch t group hit) d e :=
  fun s => by
  change execDispatch t group hit _ = _
  simp only [execDispatch, onDev, h, if_pos hop, hc, ne_eq, not_true_eq_false, if_false, he]

/-- With no DISPATCH to start, one in progress goes on with its admission (09 R259). -/
theorem takes_dispatch_ignored (h : sluiceStart d t dispatchOps = none) :
    Takes (.dispatch t group hit) d (if engOn d then d.grantAll t else d) := fun s => by
  change execDispatch t group hit _ = _
  simp only [execDispatch, onDev, h]

theorem takes_combine_refused (h : SluiceDue d t (· == 3) c x) (hc : combineChecks x ≠ 0) :
    Takes (.combine t hit) d (d.rejectSluice t c (combineChecks x)) := fun s => by
  change execCombine t hit _ = _
  simp only [execCombine, onDev, h, if_pos hc]

theorem takes_combine_format (h : SluiceDue d t (· == 3) c x) (hc : combineChecks x = 0) (hf : x.fmt ≠ 1 ∧ x.fmt ≠ 2) :
    Takes (.combine t hit) d (d.draw.2.rejectSluice t c (1 + d.draw.1 % 65535)) := fun s => by
  change execCombine t hit _ = _
  simp only [execCombine, onDev, h, hc, if_pos hf, ne_eq, not_true_eq_false, if_false]

theorem takes_combine_access (h : SluiceDue d t (· == 3) c x) (hc : combineChecks x = 0) (hf : x.fmt = 1 ∨ x.fmt = 2)
    (hacc : engineAccess d c.job (combineSpans d x t) ≠ 0) :
    Takes (.combine t hit) d (d.rejectSluice t c (engineAccess d c.job (combineSpans d x t))) := fun s => by
  have hfmt : ¬(x.fmt ≠ 1 ∧ x.fmt ≠ 2) := by omega
  have hst : ¬combineChecks x ≠ 0 := not_not.mpr hc
  change execCombine t hit _ = _
  simp only [execCombine, onDev, h, if_neg hst, if_neg hfmt, if_pos hacc]

/-- A COMBINE past its checks and accesses, while no record waits for a pass. -/
theorem takes_combine_past (h : SluiceDue d t (· == 3) c x) (hc : combineChecks x = 0) (hf : x.fmt = 1 ∨ x.fmt = 2)
    (hacc : engineAccess d c.job (combineSpans d x t) = 0)
    (he : (if combineWaits d then d else d.withHit hit (combineSpans d x t) Device.holdFault (fun e => e.combineWork t c x)) = e) :
    Takes (.combine t hit) d e := fun s => by
  have hfmt : ¬(x.fmt ≠ 1 ∧ x.fmt ≠ 2) := by omega
  have hst : ¬combineChecks x ≠ 0 := not_not.mpr hc
  change execCombine t hit _ = _
  simp only [execCombine, onDev, h, if_neg hst, if_neg hfmt, hacc, ne_eq, not_true_eq_false, if_false, he]

theorem takes_combine_ignored (h : sluiceStart d t (· == 3) = none) : Takes (.combine t hit) d d := fun s => by
  change execCombine t hit _ = _
  simp only [execCombine, onDev, h]

theorem takes_branch_refused (h : SluiceDue d t (· == 4) c x) (hc : branchChecks d c.job x ≠ 0) :
    Takes (.branch t hit) d (d.rejectSluice t c (branchChecks d c.job x)) := fun s => by
  change execBranch t hit _ = _
  simp only [execBranch, onDev, h, if_pos hc]

theorem takes_branch_past (h : SluiceDue d t (· == 4) c x) (hc : branchChecks d c.job x = 0)
    (he : d.withHit hit (branchSpans x) Device.holdFault (fun e => e.branchWork t c x) = e) : Takes (.branch t hit) d e := fun s => by
  change execBranch t hit _ = _
  simp only [execBranch, onDev, h, hc, ne_eq, not_true_eq_false, if_false, he]

theorem takes_branch_ignored (h : sluiceStart d t (· == 4) = none) : Takes (.branch t hit) d d := fun s => by
  change execBranch t hit _ = _
  simp only [execBranch, onDev, h]

end Sluice

/-- Settles O35: each command refused, done, met by a corruption, or left undone. -/
theorem sluiceCommands : Obligations.SluiceCommands := by
  unfold Obligations.SluiceCommands
  refine ⟨?selectRefused, ?selectNone, ?dispatchRefused, ?dispatchNone, ?combineRefused, ?combineNone, ?branchRefused, ?branchNone, ?reserved,
    ?combineFormat, ?combineAccess, ?combineWaits, ?select, ?selectMet, ?selectUndone, ?dispatch, ?dispatchMet, ?dispatchUndone, ?combine,
    ?combineMet, ?combineUndone, ?branch, ?branchMet, ?branchUndone⟩
  case selectRefused => exact fun t c x hit d => takes_select_refused
  case selectNone => exact fun t hit d => takes_select_ignored
  case dispatchRefused => exact fun t c x group hit d => takes_dispatch_refused
  case dispatchNone => exact fun t group hit d => takes_dispatch_ignored
  case combineRefused => exact fun t c x hit d => takes_combine_refused
  case combineNone => exact fun t hit d => takes_combine_ignored
  case branchRefused => exact fun t c x hit d => takes_branch_refused
  case branchNone => exact fun t hit d => takes_branch_ignored
  case reserved => exact fun t c x group hit d => takes_dispatch_reserved
  case combineFormat => exact fun t c x hit d h hc h1 h2 => takes_combine_format h hc ⟨h1, h2⟩
  case combineAccess => exact fun t c x hit d => takes_combine_access
  case combineWaits => exact fun t c x hit d h hc hf hacc hw => takes_combine_past h hc hf hacc (if_pos hw)
  case select => exact fun t c x d h hc hs => takes_select_past h hc (Device.withHit_clear hs)
  case selectMet => exact fun t c x k d h hc hs hmet => takes_select_past h hc (Device.withHit_met hs hmet)
  case selectUndone => exact fun t c x hit d h hc hs => takes_select_past h hc (Device.withHit_undone hs)
  case dispatch => exact fun t c x group d h hop hc hs => takes_dispatch_past h hop hc (Device.withHit_clear hs)
  case dispatchMet => exact fun t c x group k d h hop hc hs hmet => takes_dispatch_past h hop hc (Device.withHit_met hs hmet)
  case dispatchUndone => exact fun t c x group hit d h hop hc hs => takes_dispatch_past h hop hc (Device.withHit_undone hs)
  case combine =>
    exact fun t c x d h hc hf hacc hw hs => takes_combine_past h hc hf hacc ((if_neg (by simp [hw])).trans (Device.withHit_clear hs))
  case combineMet =>
    exact fun t c x k d h hc hf hacc hw hs hmet => takes_combine_past h hc hf hacc ((if_neg (by simp [hw])).trans (Device.withHit_met hs hmet))
  case combineUndone =>
    exact fun t c x hit d h hc hf hacc hw hs => takes_combine_past h hc hf hacc ((if_neg (by simp [hw])).trans (Device.withHit_undone hs))
  case branch => exact fun t c x d h hc hs => takes_branch_past h hc (Device.withHit_clear hs)
  case branchMet => exact fun t c x k d h hc hs hmet => takes_branch_past h hc (Device.withHit_met hs hmet)
  case branchUndone => exact fun t c x hit d h hc hs => takes_branch_past h hc (Device.withHit_undone hs)

end Sys2Proof.Machine
end

section
/-! PROOFS. READ, WRITE and their answers (06 R177, R194, R196; 13 R361, R363, R365): each transaction addressed to this device by its outcome. -/
namespace Sys2Proof.Machine

section Transactions
variable {d e : Device} {x : Txn} {p : Pending} {hit : Option Hit}

/-! ### The access of a peer -/

theorem takes_read_refused (hm : mine d x = true) (ha : peerAccess d x ≠ 0) : Takes (.read x hit) d (d.respond x 2 (peerAccess d x) []) := fun s => by
  change execRead x hit _ = _
  simp only [execRead, onDev, hm, Bool.not_true, Bool.false_eq_true, if_false, if_pos ha]

theorem takes_read_allowed (hm : mine d x = true) (ha : peerAccess d x = 0)
    (he : d.withHit hit [(x.addr, x.len)] (fun e _ => e.respond x 2 stUnrecovered []) (fun e => e.respond x 2 stOk (e.readN x.addr x.len)) = e) :
    Takes (.read x hit) d e := fun s => by
  change execRead x hit _ = _
  simp only [execRead, onDev, hm, ha, Bool.not_true, Bool.false_eq_true, if_false, ne_eq, not_true_eq_false, he]

theorem takes_write_refused (hm : mine d x = true) (ha : peerAccess d x ≠ 0) : Takes (.write x) d (d.respond x 4 (peerAccess d x) []) := fun s => by
  change execWrite x _ = _
  simp only [execWrite, onDev, hm, Bool.not_true, Bool.false_eq_true, if_false, if_pos ha]

theorem takes_write (hm : mine d x = true) (ha : peerAccess d x = 0) (hs : heldAt d x.addr x.len = false) :
    Takes (.write x) d ((d.store x.addr (sliceAt x.data 0 x.len)).respond x 4 stOk []) := fun s => by
  change execWrite x _ = _
  simp only [execWrite, onDev, hm, ha, hs, Bool.not_true, Bool.false_eq_true, if_false, ne_eq, not_true_eq_false]

theorem takes_write_held (hm : mine d x = true) (ha : peerAccess d x = 0) (hs : heldAt d x.addr x.len = true) : Takes (.write x) d d := fun s => by
  change execWrite x _ = _
  simp only [execWrite, onDev, hm, ha, hs, Bool.not_true, Bool.false_eq_true, if_false, ne_eq, not_true_eq_false, if_true]

/-! ### The answers -/

/-- The data of an answer has to wait for its destination (06 R177). -/
abbrev dataWaits (d : Device) (x : Txn) (p : Pending) : Prop := x.status = 0 ∧ heldAt d p.dest p.txn.len = true

theorem takes_readResp (hm : mine d x = true) (hp : d.pendOf 1 x = some p) (hw : ¬dataWaits d x p) :
    Takes (.readResp x) d (d.answerCopy p x.status (sliceAt x.data 0 p.txn.len)) := fun s => by
  change execReadResp x _ = _
  simp only [execReadResp, onDev, hm, hp, Bool.not_true, Bool.false_eq_true, if_false, if_neg hw]

theorem takes_readResp_waits (hm : mine d x = true) (hp : d.pendOf 1 x = some p) (hw : dataWaits d x p) : Takes (.readResp x) d d := fun s => by
  change execReadResp x _ = _
  simp only [execReadResp, onDev, hm, hp, Bool.not_true, Bool.false_eq_true, if_false, if_pos hw]

theorem takes_readResp_unmatched (hp : d.pendOf 1 x = none) : Takes (.readResp x) d d := fun s => by
  change execReadResp x _ = _
  simp only [execReadResp, onDev, hp, ite_self]

/-- A WRITE of a log entry or an image is answered to its holder's record (16 R435, R438). -/
theorem takes_writeAck (hm : mine d x = true) (hp : d.pendOf 3 x = some p)
    (he : (if p.image || p.logStep.isSome then d.answerHolder p x.status else d.answerCopy p x.status []) = e) : Takes (.writeAck x) d e := fun s => by
  change execWriteAck x _ = _
  simp only [execWriteAck, onDev, hm, hp, Bool.not_true, Bool.false_eq_true, if_false, he]

theorem takes_writeAck_unmatched (hp : d.pendOf 3 x = none) : Takes (.writeAck x) d d := fun s => by
  change execWriteAck x _ = _
  simp only [execWriteAck, onDev, hp, ite_self]

/-! ### A transaction for another device -/

theorem takes_access_elsewhere (hm : mine d x = false) :
    Takes (.read x hit) d d ∧ Takes (.write x) d d ∧ Takes (.readResp x) d d ∧ Takes (.writeAck x) d d := by
  refine ⟨fun s => ?read, fun s => ?write, fun s => ?resp, fun s => ?ack⟩
  case read => change execRead x hit _ = _; simp only [execRead, onDev, hm, Bool.not_false, if_true]
  case write => change execWrite x _ = _; simp only [execWrite, onDev, hm, Bool.not_false, if_true]
  case resp => change execReadResp x _ = _; simp only [execReadResp, onDev, hm, Bool.not_false, if_true]
  case ack => change execWriteAck x _ = _; simp only [execWriteAck, onDev, hm, Bool.not_false, if_true]

end Transactions

/-- Settles O39: the status of the access decides a READ or WRITE, the outstanding transaction its answer. -/
theorem bundReadAndWrite : Obligations.BundReadAndWrite := by
  unfold Obligations.BundReadAndWrite
  refine ⟨?readRefused, ?writeRefused, ?read, ?readMet, ?readUndone, ?write, ?writeHeld, ?resp, ?respWaits, ?ackCopy, ?ackHolder, ?respUnmatched,
    ?ackUnmatched, ?elsewhere⟩
  case readRefused => exact fun x hit d => takes_read_refused
  case writeRefused => exact fun x d => takes_write_refused
  case read => exact fun x d hm ha hs => takes_read_allowed hm ha (Device.withHit_clear hs)
  case readMet => exact fun x h d hm ha hs hmet => takes_read_allowed hm ha (Device.withHit_met hs hmet)
  case readUndone => exact fun x hit d hm ha h => takes_read_allowed hm ha (Device.withHit_undone h)
  case write => exact fun x d => takes_write
  case writeHeld => exact fun x d => takes_write_held
  case resp =>
    intro x p d hm hp h
    refine takes_readResp hm hp fun hw => ?_
    rcases h with h | h
    · exact h hw.1
    · exact absurd hw.2 (by simp [h])
  case respWaits => exact fun x p d hm hp hst hs => takes_readResp_waits hm hp ⟨hst, hs⟩
  case ackCopy => exact fun x p d hm hp himage hlog => takes_writeAck hm hp (if_neg (by simp [himage, hlog]))
  case ackHolder => exact fun x p d hm hp h => takes_writeAck hm hp (if_pos (by simpa using h))
  case respUnmatched => exact fun x d _ => takes_readResp_unmatched
  case ackUnmatched => exact fun x d _ => takes_writeAck_unmatched
  case elsewhere => exact fun x hit d => takes_access_elsewhere

end Sys2Proof.Machine
end

section
/-! PROOFS. The job and data-plane commands (06 R196, R199; 11 R296, R302, R319; 12 R331, R353; 15 R404 to R422): a command in its turn, its access of
staging, and what each command does past its checks. -/
namespace Sys2Proof.Machine

/-! ### A command in its turn -/

section Turn
variable {d e : Device} {m : Fin 256} {code : Nat} {p : List Nat} {j : Fin 16} {c : Instr} {sel : List Nat → Bool}

theorem Device.commandIf_served {f : Device → List Nat → Device} (h : Served d m code p) (hsel : sel p = true) :
    d.commandIf m code sel f = f d p := by
  obtain ⟨hturn, hhead, rfl⟩ := h
  simp only [Device.commandIf, hturn, hsel, hhead, Bool.and_self, if_true]

theorem Device.commandIf_rejected {f : Device → List Nat → Device} (hturn : d.turn m code = true) (hsel : sel (d.payload m) = true)
    (hhead : headerCheck d m ≠ 0) : d.commandIf m code sel f = d.finish m (headerCheck d m) 0 [] := by
  simp only [Device.commandIf, hturn, hsel, Bool.and_self, if_true, if_neg hhead]

theorem Device.commandIf_ignored {f : Device → List Nat → Device} (h : d.turn m code = false ∨ sel (d.payload m) = false) :
    d.commandIf m code sel f = d := by
  have hno : (d.turn m code && sel (d.payload m)) = false := Bool.and_eq_false_iff.mpr h
  simp only [Device.commandIf, hno, Bool.false_eq_true, if_false]

theorem Device.reply_eq (d : Device) (m st : Nat) (ok : Device → Device) : d.reply m st ok = if st ≠ 0 then d.finish m st 0 [] else ok d :=
  (ite_not _ _ _).symm

section Picked
variable {f : Device → List Nat → Device} (hexec : ∀ s, exec c s = onDev s (fun d => d.commandIf m code sel f))
include hexec

theorem takes_commandIf (he : d.commandIf m code sel f = e) : Takes c d e := fun s => by rw [hexec, onDev, he]

theorem takes_commandIf_served (h : Served d m code p) (hsel : sel p = true) (he : f d p = e) : Takes c d e :=
  takes_commandIf hexec ((Device.commandIf_served h hsel).trans he)

theorem takes_commandIf_rejected (hturn : d.turn m code = true) (hsel : sel (d.payload m) = true) (hhead : headerCheck d m ≠ 0) :
    Takes c d (d.finish m (headerCheck d m) 0 []) := takes_commandIf hexec (Device.commandIf_rejected hturn hsel hhead)

theorem takes_commandIf_ignored (h : d.turn m code = false ∨ sel (d.payload m) = false) : Takes c d d :=
  takes_commandIf hexec (Device.commandIf_ignored h)

end Picked

/-- The first payload byte picks between the two commands of JOB_STOP, and of HOSTLANE (15 R404). -/
abbrev byteZero (p : List Nat) : Bool := fieldAt p 0 1 == 0
abbrev byteSet (p : List Nat) : Bool := fieldAt p 0 1 != 0

theorem byteZero_iff : byteZero p = true ↔ fieldAt p 0 1 = 0 := beq_iff_eq
theorem byteSet_iff : byteSet p = true ↔ fieldAt p 0 1 ≠ 0 := bne_iff_ne

/-- A job command, once its mailbox names its slot, is its work on that slot with its payload. -/
theorem takes_jobCommand {f : Device → Nat → List Nat → Device} (hexec : ∀ s, exec c s = onDev s (fun d => d.jobCommand m code f))
    (h : Served d m code p) (hj : mboxSlot m = some j.val) (he : f d j p = e) : Takes c d e := fun s => by
  have hrun : d.jobCommand m code f = e := by
    rw [Device.jobCommand, Device.command, Device.commandIf_served h rfl, hj]
    exact he
  rw [hexec, onDev, hrun]

end Turn

/-! ### An access of staging -/

section Staging
variable {d e : Device} {m j : Nat} {hit : Option Hit} {h : Hit} {spans : List (Nat × Nat)} {go : Device → Device}

/-- A window of the stretches of staging is under test (06 R199). -/
abbrev stagingTested (d : Device) (j : Nat) (spans : List (Nat × Nat)) : Bool :=
  (d.stagingAt j spans).any (fun x => accessStatus d .firmware x.1 x.2 == stTgen)

/-- A line of the stretches of staging is held (06 R184). -/
abbrev stagingHeld (d e : Device) (j : Nat) (spans : List (Nat × Nat)) : Bool := (d.stagingAt j spans).any (fun s => heldAt e s.1 s.2)

theorem Device.stagingHit_clear (hs : stagingHeld d d j spans = false) : d.stagingHit m j none spans go = go d := Device.withHit_clear hs

theorem Device.stagingHit_met (hs : stagingHeld d d j spans = false) (hmet : hitMet d h (d.stagingAt j spans)) :
    d.stagingHit m j (some h) spans go = if hitPersistent h then (d.meetHit h).finish m stUnrecovered 0 []
      else if stagingHeld d (d.meetHit h) j spans then d.meetHit h else go (d.meetHit h) := Device.withHit_met hs hmet

theorem Device.stagingHit_undone (hs : stagingHeld d d j spans = true ∨ ∃ h, hit = some h ∧ ¬hitMet d h (d.stagingAt j spans)) :
    d.stagingHit m j hit spans go = d := Device.withHit_undone hs

theorem Device.onStaging_tested (ht : stagingTested d j spans = true) : d.onStaging m j hit spans go = d.finish m stTgen 0 [] := if_pos ht

theorem Device.onStaging_of_free (ht : stagingTested d j spans = false) : d.onStaging m j hit spans go = d.stagingHit m j hit spans go :=
  if_neg (Bool.eq_false_iff.mp ht)

end Staging

/-! ### JOB_START -/

section Start
variable {d e : Device} {m : Fin 256} {p : List Nat} {j : Fin 16} {hit : Option Hit}

/-- JOB_START past its access of staging: its checks, then its restore source and the partner exchange (15 R407, R412; 16 R433). -/
def startWork (m : Fin 256) (j : Fin 16) (p : List Nat) (d : Device) : Device :=
  if firstFail [(startsBarred d, stJobState), (startCheck d j p != 0, startCheck d j p)] ≠ 0 then
    d.finish m (firstFail [(startsBarred d, stJobState), (startCheck d j p != 0, startCheck d j p)]) 0 []
  else match restoreCheck d j p with
    | .refuse => d.finish m 0x0801 0 []
    | .wait e => e.setOwn m 2
    | .from src =>
      match takeHeld (setupOf d j p) (d.jobAt j).held (startSlot (d.jobAt j) (setupOf d j p)) with
      | .error st => (d.updJob j (fun q => { q with held := [] })).finish m st 0 []
      | .ok q => d.exchange m j p q src

theorem takes_jobStart (h : Served d m 0x101 p) (hj : mboxSlot m = some j.val)
    (he : d.stagingHit m j hit (jobStartSpans d j p) (startWork m j p) = e) : Takes (.jobStart m hit) d e := by
  refine takes_commandIf_served (sel := fun _ => true) (fun _ => rfl) h rfl ?_
  subst he
  simp only [hj, Option.getD_some]
  rfl

end Start

/-! ### JOB_STOP to JOB_QUERY -/

section Control
variable {d e : Device} {m : Fin 256} {p : List Nat} {j : Fin 16}

theorem takes_jobStopAfterCommit (h : Served d m 0x102 p) (hj : mboxSlot m = some j.val) (hmode : fieldAt p 0 1 = 0) :
    Takes (.jobStopAfterCommit m) d (if (d.jobAt j).stopping.isSome then d
      else if (d.jobAt j).steps.isEmpty then (d.stopNow j).finish m stOk 0 []
      else (d.updJob j (fun q => { q with stopping := some m.val })).setOwn m 2) := by
  refine takes_commandIf_served (fun _ => rfl) h (byteZero_iff.mpr hmode) ?_
  simp only [hj, Option.getD_some]

theorem takes_jobStopAtOnce (h : Served d m 0x102 p) (hj : mboxSlot m = some j.val) (hmode : fieldAt p 0 1 ≠ 0) :
    Takes (.jobStopAtOnce m) d (if fieldAt p 0 1 = 1 then (d.stopNow j).finish m stOk 0 [] else d.finish m stRange 0 []) := by
  refine takes_commandIf_served (fun _ => rfl) h (byteSet_iff.mpr hmode) ?_
  have hst : stRange ≠ 0 := by decide
  by_cases hone : fieldAt p 0 1 = 1
  · have hin : ¬1 < fieldAt p 0 1 := by omega
    simp only [hj, Option.getD_some, Device.reply, if_neg hin, if_pos hone, if_true]
  · have hout : 1 < fieldAt p 0 1 := by omega
    simp only [hj, Option.getD_some, Device.reply, if_pos hout, if_neg hone, if_neg hst]

theorem takes_jobSuspend (h : Served d m 0x103 p) (hj : mboxSlot m = some j.val) :
    Takes (.jobSuspend m) d (if (d.jobAt j).resident && !drained d j then (d.updJob j (fun q => { q with switching := true })).setOwn m 2
      else (d.suspend j).finish m stOk 0 []) := takes_jobCommand (fun _ => rfl) h hj rfl

/-- A job RUNNING again, resident when no other job of its partition is (15 R414). -/
def resumed (d : Device) (j : Fin 16) : Device :=
  match (d.jobAt j).part with
  | some pt => if (residentOf (d.updJob j (fun q => { q with state := .running })) pt).isNone then
      (d.updJob j (fun q => { q with state := .running })).restoreContext j else d.updJob j (fun q => { q with state := .running })
  | none => d.updJob j (fun q => { q with state := .running })

/-- What refuses a JOB_RESUME (15 R412, R414). -/
abbrev resumeStatus (d : Device) (j : Fin 16) : Nat :=
  firstFail [(startsBarred d, stJobState), (partitionBusy d j (!(d.jobAt j).exclusive), 0x0202)]

theorem takes_jobResume (h : Served d m 0x104 p) (hj : mboxSlot m = some j.val) :
    Takes (.jobResume m) d (if resumeStatus d j ≠ 0 then d.finish m (resumeStatus d j) 0 []
      else (((resumed d j).finish m stOk 0 []).pumpLane j).pump) :=
  takes_jobCommand (fun _ => rfl) h hj (Device.reply_eq _ _ _ _)

theorem takes_jobQuery (h : Served d m 0x105 p) (hj : mboxSlot m = some j.val) :
    Takes (.jobQuery m) d (d.draw.2.finish m stOk 0 ([stateCode (d.jobAt j).state, d.draw.1 % 256, 0, 0, 0, 0, 0, 0] ++ toLE 8 (d.jobAt j).nextStep
      ++ toLE 2 (d.jobAt j).lastStatus ++ toLE 2 (d.jobAt j).lastDesc ++ [0, 0, 0, 0] ++ sliceAt (d.jobAt j).slow.last 0 56)) :=
  takes_jobCommand (fun _ => rfl) h hj rfl

end Control

/-! ### LOG_READ -/

section Log
variable {d e : Device} {m : Fin 256} {p : List Nat} {j : Fin 16}

/-- What refuses a LOG_READ: the log it names, then its range of staging (15 R404). -/
abbrev logStatus (d : Device) (j : Fin 16) (p : List Nat) : Nat :=
  firstFail [(decide (2 < fieldAt p 0 1), stRange), ((d.jobAt j).beyond (fieldAt p 4 4) (fieldAt p 16 4), stStaging)]

/-- The whole records that a LOG_READ gives. -/
abbrev logBytes (d : Device) (j : Fin 16) (p : List Nat) : List Nat :=
  wholeRecords (fieldAt p 16 4) (((logOf (d.jobAt j).logs (fieldAt p 0 1)).filter (fun e => decide (fieldAt p 8 8 ≤ e.1))).map Prod.snd)

theorem takes_logRead (h : Served d m 0x106 p) (hj : mboxSlot m = some j.val)
    (he : d.reply m (logStatus d j p) (fun d' => d'.onStaging m j none [(fieldAt p 4 4, (logBytes d j p).length)]
      (fun f => (f.store (((d.jobAt j).resv.map Resv.stageDev).getD 0 + fieldAt p 4 4) (logBytes d j p)).finish m stOk (logBytes d j p).length [])) = e) :
    Takes (.logRead m) d e := takes_jobCommand (fun _ => rfl) h hj he

theorem takes_logRead_refused (h : Served d m 0x106 p) (hj : mboxSlot m = some j.val) (hst : logStatus d j p ≠ 0) :
    Takes (.logRead m) d (d.finish m (logStatus d j p) 0 []) := takes_logRead h hj (if_neg hst)

theorem logStatus_eq_zero (hlog : fieldAt p 0 1 ≤ 2) (hin : (d.jobAt j).beyond (fieldAt p 4 4) (fieldAt p 16 4) = false) : logStatus d j p = 0 := by
  simp [logStatus, firstFail, hlog, hin]

/-- A LOG_READ past its checks writes the records to staging. -/
theorem takes_logRead_writes {bs : List Nat} (h : Served d m 0x106 p) (hj : mboxSlot m = some j.val) (hlog : fieldAt p 0 1 ≤ 2)
    (hin : (d.jobAt j).beyond (fieldAt p 4 4) (fieldAt p 16 4) = false) (hbs : logBytes d j p = bs)
    (he : d.onStaging m j none [(fieldAt p 4 4, bs.length)]
      (fun f => (f.store (((d.jobAt j).resv.map Resv.stageDev).getD 0 + fieldAt p 4 4) bs).finish m stOk bs.length []) = e) :
    Takes (.logRead m) d e := by
  subst hbs
  exact takes_logRead h hj ((if_pos (logStatus_eq_zero hlog hin)).trans he)

end Log

/-! ### HOSTLANE -/

section Lane
variable {d : Device} {m : Fin 256} {p : List Nat} {j : Fin 16}

/-- Checks made as one check of their first failing status are those checks in their place. -/
theorem firstFail_nested {l r : List (Bool × Nat)} (hl : ∀ x ∈ l, x.2 ≠ 0) : firstFail ((firstFail l != 0, firstFail l) :: r) = firstFail (l ++ r) := by
  induction l with
  | nil => rfl
  | cons x l ih =>
    obtain ⟨b, st⟩ := x
    obtain ⟨hst, hrest⟩ := List.forall_mem_cons.mp hl
    cases b with
    | true => simp [firstFail, hst]
    | false => exact ih hrest

/-- The checks of HOSTLANE with OP 0: those of its row, then the media version (12 R353). -/
abbrev openStatus (d : Device) (j : Fin 16) (p : List Nat) : Nat :=
  firstFail [(decide (1 < fieldAt p 0 1), stRange), (fieldAt p 16 4 == 0, stZeroSize), (decide (4096 < fieldAt p 16 4), stRange),
    (!boundTo d (fieldAt p 2 2) j, stFlowUnknown), (fieldAt p 4 4 != Config.medver % 2 ^ 32, 0x0504)]

theorem openStatus_eq (d : Device) (j : Fin 16) (p : List Nat) :
    firstFail [(laneCheck d j p != 0, laneCheck d j p), (fieldAt p 4 4 != Config.medver % 2 ^ 32, 0x0504)] = openStatus d j p :=
  firstFail_nested (by simp [stRange, stZeroSize, stFlowUnknown])

theorem takes_hostlaneOpen (h : Served d m 0x107 p) (hj : mboxSlot m = some j.val) (hop : fieldAt p 0 1 = 0) :
    Takes (.hostlaneOpen m) d (if openStatus d j p ≠ 0 then d.finish m (openStatus d j p) 0 []
      else ((d.updJob j (fun q => { q with lane :=
        { isOpen := true, rflow := fieldAt p 2 2, raddr := fieldAt p 8 8, depth := fieldAt p 16 4, nextReq := 0, reqs := q.lane.reqs } })).finish m
          stOk 0 []).pumpLane j) := by
  refine takes_commandIf_served (fun _ => rfl) h (byteZero_iff.mpr hop) ?_
  simp only [hj, Option.getD_some, openStatus_eq, Device.reply_eq]

theorem takes_hostlaneClose (h : Served d m 0x107 p) (hj : mboxSlot m = some j.val) (hop : fieldAt p 0 1 ≠ 0) :
    Takes (.hostlaneClose m) d (if laneCheck d j p ≠ 0 then d.finish m (laneCheck d j p) 0 []
      else (d.updJob j (fun q => { q with lane := { q.lane with isOpen := false } })).finish m stOk 0 []) := by
  refine takes_commandIf_served (fun _ => rfl) h (byteSet_iff.mpr hop) ?_
  simp only [hj, Option.getD_some, Device.reply_eq]

end Lane

/-! ### Records in staging: OVERRIDE_ADD, MANIFEST, BATCH -/

section Records
variable {d e : Device} {m : Fin 256} {p : List Nat} {j : Fin 16} {hit : Option Hit}

/-- OVERRIDE_ADD of slot q once its records can be read (11 R319; 15 R412). -/
def overrideWork (q : JobSlot) (m : Fin 256) (j : Fin 16) (p : List Nat) (d : Device) : Device :=
  let rs := d.stagedRecords j (fieldAt p 4 4) 24 (fieldAt p 0 4)
  let old := q.overrides.length
  let held := firstFail [(rs.any overrideReserved, stReserved),
    (rs.any (fun b => decide (4 < (overrideOf b).param) || ((overrideOf b).param == 0 && decide (1 < (overrideOf b).value))), stRange)]
  if q.state = .created then
    if held ≠ 0 then d.finish m held 0 [] else (d.updJob j (fun q => { q with held := q.held ++ [.overrides rs] })).finish m stOk 1 []
  else match addOverrides ((q.setup.map (fun u => u.jr.aug)).getD []) q.overrides rs with
    | .ok os => (d.updJob j (fun x => { x with
        overrides := os.take old ++ (os.drop old).map (fun (o : Override) => { o with since := q.nextStep }) })).finish m stOk 0 []
    | .error st => d.finish m st 0 []

theorem takes_overrideAdd_beyond (h : Served d m 0x108 p) (hj : mboxSlot m = some j.val)
    (hb : (d.jobAt j).beyond (fieldAt p 4 4) (24 * fieldAt p 0 4) = true) : Takes (.overrideAdd m hit) d (d.finish m stStaging 0 []) :=
  takes_jobCommand (fun _ => rfl) h hj (if_pos hb)

theorem takes_overrideAdd (h : Served d m 0x108 p) (hj : mboxSlot m = some j.val)
    (hb : (d.jobAt j).beyond (fieldAt p 4 4) (24 * fieldAt p 0 4) = false)
    (he : d.onStaging m j hit [(fieldAt p 4 4, 24 * fieldAt p 0 4)] (overrideWork (d.jobAt j) m j p) = e) : Takes (.overrideAdd m hit) d e := by
  refine takes_jobCommand (fun _ => rfl) h hj ((if_neg (Bool.eq_false_iff.mp hb)).trans (.trans (congrArg (d.onStaging m j hit _) ?_) he))
  funext d'
  simp only [overrideWork, Device.reply_eq] <;> rfl

/-- MANIFEST of slot q once its entries can be read (11 R296; 15 R412). -/
def manifestWork (q : JobSlot) (m : Fin 256) (j : Fin 16) (p : List Nat) (d : Device) : Device :=
  let es := d.stagedRecords j (fieldAt p 20 4) 32 (fieldAt p 16 4)
  if es.any (fun e => !boundTo d (manFlow e) j) then d.finish m stFlowUnknown 0 []
  else if q.state = .created then
    if es.any manReserved then d.finish m stManifestOrder 0 []
    else (d.updJob j (fun q => { q with held := q.held ++ [.window (fieldAt p 0 4) (fieldAt p 8 8) es] })).finish m stOk 1 []
  else match q.setup with
    | some u =>
      let st := windowCheck q u.jr.seed u.jr.n (fieldAt p 0 4) (fieldAt p 8 8) es
      if st ≠ 0 then d.finish m st 0 [] else (d.updJob j (fun q => q.addWindow (fieldAt p 0 4) (fieldAt p 8 8) es)).finish m stOk 0 []
    | none => d.finish m stJobState 0 []

theorem takes_manifest_beyond (h : Served d m 0x201 p) (hj : mboxSlot m = some j.val)
    (hb : (d.jobAt j).beyond (fieldAt p 20 4) (32 * fieldAt p 16 4) = true) : Takes (.manifest m hit) d (d.finish m stStaging 0 []) :=
  takes_jobCommand (fun _ => rfl) h hj (if_pos hb)

/-- A refusal for one reason alone. -/
theorem Device.reply_ite (d : Device) (m st : Nat) (ok : Device → Device) (b : Bool) (hst : st ≠ 0) :
    d.reply m (if b then st else 0) ok = if b then d.finish m st 0 [] else ok d := by
  cases b
  · rfl
  · exact if_neg hst

theorem takes_manifest (h : Served d m 0x201 p) (hj : mboxSlot m = some j.val)
    (hb : (d.jobAt j).beyond (fieldAt p 20 4) (32 * fieldAt p 16 4) = false)
    (he : d.onStaging m j hit [(fieldAt p 20 4, 32 * fieldAt p 16 4)] (manifestWork (d.jobAt j) m j p) = e) : Takes (.manifest m hit) d e := by
  refine takes_jobCommand (fun _ => rfl) h hj ((if_neg (Bool.eq_false_iff.mp hb)).trans (.trans (congrArg (d.onStaging m j hit _) ?_) he))
  funext d'
  have hst : stManifestOrder ≠ 0 := by decide
  simp only [manifestWork, Device.reply_ite _ _ _ _ _ hst, Device.reply_eq] <;> rfl

/-- BATCH past its checks and accesses: without entries it completes at once, else it waits its turn (15 R422). -/
def batchWork (m : Fin 256) (j : Fin 16) (p : List Nat) (d : Device) : Device :=
  if fieldAt p 16 4 = 0 then (d.finish m stOk 0 []).batchNotice j stOk (fieldAt p 8 8) 0
  else ((d.updJob j (fun q => { q with
    batches := q.batches ++ [{ kind := fieldAt p 0 1, window := fieldAt p 4 4, batchNo := fieldAt p 8 8
                               work := batchStep (batchBase + (d.jobAt j).nextBatch) (fieldAt p 8 8) (d.stagedRecords j (fieldAt p 20 4) 32 (fieldAt p 16 4))
                               outOff := fieldAt p 24 4, outMax := fieldAt p 28 4 }]
    nextBatch := q.nextBatch + 1 })).finish m stOk 0 []).pump

theorem takes_batch_refused (h : Served d m 0x204 p) (hj : mboxSlot m = some j.val) (hc : batchCheck (d.jobAt j) p ≠ 0) :
    Takes (.batch m hit) d (d.finish m (batchCheck (d.jobAt j) p) 0 []) := takes_jobCommand (fun _ => rfl) h hj (if_neg hc)

theorem takes_batch (h : Served d m 0x204 p) (hj : mboxSlot m = some j.val) (hc : batchCheck (d.jobAt j) p = 0)
    (he : d.onStaging m j hit [(fieldAt p 20 4, 32 * fieldAt p 16 4)] (batchWork m j p) = e) : Takes (.batch m hit) d e :=
  takes_jobCommand (fun _ => rfl) h hj ((if_pos hc).trans he)

end Records

/-! ### STEP_SUBMIT -/

section Submit
variable {d : Device} {m : Fin 256} {p : List Nat} {j : Fin 16}

theorem takes_stepSubmit_refused (h : Served d m 0x202 p) (hj : mboxSlot m = some j.val) (hc : submitCheck (d.jobAt j) p ≠ 0) :
    Takes (.stepSubmit m) d (d.finish m (submitCheck (d.jobAt j) p) 0 []) := takes_jobCommand (fun _ => rfl) h hj (if_neg hc)

theorem takes_stepSubmit (h : Served d m 0x202 p) (hj : mboxSlot m = some j.val) (hc : submitCheck (d.jobAt j) p = 0)
    (hdrop : dropsStep (d.jobAt j) (d.jobAt j).nextStep = false) :
    Takes (.stepSubmit m) d (((d.updJob j (fun q => { q with
      steps := q.steps ++ [newStep (d.jobAt j).nextStep (subOf p)], nextStep := (d.jobAt j).nextStep + 1 })).finish m stOk
        (d.jobAt j).nextStep []).pump) := by
  refine takes_jobCommand (fun _ => rfl) h hj ((if_pos hc).trans ?_)
  simp only [hdrop, Bool.false_eq_true, if_false]

/-- The step that a spare drops is marked and logged (16 R447). -/
theorem takes_stepSubmit_dropped (h : Served d m 0x202 p) (hj : mboxSlot m = some j.val) (hc : submitCheck (d.jobAt j) p = 0)
    (hdrop : dropsStep (d.jobAt j) (d.jobAt j).nextStep = true) :
    Takes (.stepSubmit m) d ((((d.updJob j (fun q => { q with
      steps := q.steps ++ [{ newStep (d.jobAt j).nextStep (subOf p) with dropped := some ((subOf p).posFirst, (subOf p).posCount) }]
      nextStep := (d.jobAt j).nextStep + 1 })).logEvent srcRenura 0x0802 sevNotice (some j)
        (toLE 8 (d.jobAt j).nextStep ++ toLE 2 (((d.jobAt j).setup.map (fun u => u.topo.dpPos)).getD 0) ++ toLE 6 (subOf p).posFirst
          ++ toLE 2 (subOf p).posCount)).finish m stOk (d.jobAt j).nextStep []).pump) := by
  refine takes_jobCommand (fun _ => rfl) h hj ((if_pos hc).trans ?_)
  simp only [hdrop, if_true]

end Submit

/-! ### HOSTLANE_RETURN -/

section Return
variable {d e : Device} {m : Fin 256} {p : List Nat} {j : Fin 16} {hit : Option Hit} {q : HostReq} {u : JobSetup} {st : Step}

/-- The outstanding request that a returned sample answers (12 R331). -/
abbrev laneRequest (d : Device) (j : Fin 16) (p : List Nat) : Option HostReq :=
  (d.jobAt j).lane.reqs.find? (fun r => r.sample == fieldAt p 0 8 && r.step == fieldAt p 8 8 && r.slot == fieldAt p 16 4)

/-- The sample of an outstanding request taken into its slot; one of another layout is asked for again (12 R331). -/
def returnWork (w : JobSlot) (q : HostReq) (u : JobSetup) (st : Step) (m : Fin 256) (j : Fin 16) (p : List Nat) (d : Device) : Device :=
  let k := fieldAt p 16 4
  let bs := d.staged j (fieldAt p 24 4) (fieldAt p 20 4)
  let e := d.updJob j (fun x => { x with lane := { x.lane with reqs := x.lane.reqs.erase q } })
  if layoutOk u.jr (manMedia (entryOfSlot w st k)) bs = true then
    let f := if (smpOf bs).status ≠ 0 then e.endMedia j st k (smpOf bs).status (q.reason == 1) else e.takeSample j st.num k (smpOf bs).conceal bs
    ((f.finish m stOk 0 []).pumpLane j).pump
  else (e.finish m stRange 0 []).requestLane j st k q.reason

theorem takes_hostlaneReturn_beyond (h : Served d m 0x203 p) (hj : mboxSlot m = some j.val)
    (hb : (d.jobAt j).beyond (fieldAt p 24 4) (fieldAt p 20 4) = true) : Takes (.hostlaneReturn m hit) d (d.finish m stStaging 0 []) := by
  refine takes_jobCommand (fun _ => rfl) h hj ?_
  simp only [hb, if_true]

theorem takes_hostlaneReturn_unasked (h : Served d m 0x203 p) (hj : mboxSlot m = some j.val)
    (hb : (d.jobAt j).beyond (fieldAt p 24 4) (fieldAt p 20 4) = false)
    (hno : (d.jobAt j).setup = none ∨ laneRequest d j p = none ∨ ∃ q, laneRequest d j p = some q ∧ (d.jobAt j).stepAt q.step = none) :
    Takes (.hostlaneReturn m hit) d (d.finish m stJobState 0 []) := by
  refine takes_jobCommand (fun _ => rfl) h hj ?_
  simp only [hb, Bool.false_eq_true, if_false]
  rcases hno with hu | hr | ⟨q, hr, hst⟩
  · cases hr : laneRequest d j p <;> simp only [hr, hu]
  · simp only [hr]
  · cases hu : (d.jobAt j).setup <;> simp only [hr, hst]

theorem takes_hostlaneReturn (h : Served d m 0x203 p) (hj : mboxSlot m = some j.val)
    (hb : (d.jobAt j).beyond (fieldAt p 24 4) (fieldAt p 20 4) = false) (hr : laneRequest d j p = some q) (hu : (d.jobAt j).setup = some u)
    (hst : (d.jobAt j).stepAt q.step = some st)
    (he : d.onStaging m j hit [(fieldAt p 24 4, fieldAt p 20 4)] (returnWork (d.jobAt j) q u st m j p) = e) : Takes (.hostlaneReturn m hit) d e := by
  refine takes_jobCommand (fun _ => rfl) h hj ?_
  subst he
  simp only [hb, hr, hu, hst, Bool.false_eq_true, if_false]
  rfl

end Return

/-! ### BATCH_RUN -/

section Run
variable {d e : Device} {j : Fin 16} {k : Nat} {hit : Option Hit} {others : List (List Nat)} {b : Batch} {r : Resv} {u : JobSetup}

/-- The batch that is due may run now: its work is done (15 R422). -/
abbrev BatchDue (d : Device) (j : Fin 16) (k : Nat) (b : Batch) : Prop :=
  b.batchNo = k ∧ (d.jobAt j).resident = true ∧ (d.jobAt j).switching = false ∧ (d.jobAt j).state = .running ∧ d.glb.cur = .active ∧
    d.glb.flushing = false ∧ batchDone d j b.work = true

theorem batchDue_iff : (b.batchNo == k && (d.jobAt j).resident && !(d.jobAt j).switching && (d.jobAt j).state == .running && d.glb.cur == .active
    && !d.glb.flushing && batchDone d j b.work) = true ↔ BatchDue d j k b := by
  simp only [Bool.and_eq_true, beq_iff_eq, Bool.not_eq_true', and_assoc]

/-- The stretches of a batch's outputs: where its program leaves them, and where they go (log entry 33). -/
abbrev outputSpans (b : Batch) (r : Resv) (u : JobSetup) : List (Nat × Nat) :=
  [((Config.batchOutput u.prog.digest).1, min b.outMax (Config.batchOutput u.prog.digest).2),
    (r.stageDev + b.outOff, min b.outMax (Config.batchOutput u.prog.digest).2)]

/-- The outputs of a batch written up to OUT_MAX, and its notice. -/
def outputsWritten (b : Batch) (r : Resv) (u : JobSetup) (j : Fin 16) (k : Nat) (others : List (List Nat)) (d : Device) : Device :=
  let bs := d.readN (Config.batchOutput u.prog.digest).1 (min b.outMax (Config.batchOutput u.prog.digest).2)
  let e := (d.store (r.stageDev + b.outOff) bs).updJob j (fun q => { q with batches := markDone q.batches })
  let f := if b.kind = 0 then e.batchRecords j u b.work others else e
  (f.batchNotice j (if b.outMax < (Config.batchOutput u.prog.digest).2 then stStaging else stOk) k bs.length).pump

theorem takes_batchRun (hb : (d.jobAt j).dueBatch = some b) (hr : (d.jobAt j).resv = some r) (hu : (d.jobAt j).setup = some u)
    (hdue : BatchDue d j k b) (he : d.withHit hit (outputSpans b r u) Device.holdFault (outputsWritten b r u j k others) = e) :
    Takes (.batchRun j k hit others) d e := fun s => by
  subst he
  change execBatchRun j k hit others _ = _
  simp only [execBatchRun, onDev, hb, hr, hu, if_pos (batchDue_iff.mpr hdue)]
  rfl

theorem takes_batchRun_not_due (hb : (d.jobAt j).dueBatch = some b) (hdue : ¬BatchDue d j k b) : Takes (.batchRun j k hit others) d d := fun s => by
  change execBatchRun j k hit others _ = _
  cases hr : (d.jobAt j).resv <;> cases hu : (d.jobAt j).setup <;>
    simp only [execBatchRun, onDev, hb, hr, hu, if_neg (batchDue_iff.not.mpr hdue)]

theorem takes_batchRun_none (h : (d.jobAt j).dueBatch = none ∨ (d.jobAt j).resv = none ∨ (d.jobAt j).setup = none) :
    Takes (.batchRun j k hit others) d d := fun s => by
  change execBatchRun j k hit others _ = _
  rcases h with h | h | h
  · simp only [execBatchRun, onDev, h]
  · cases hb : (d.jobAt j).dueBatch <;> simp only [execBatchRun, onDev, hb, h]
  · cases hb : (d.jobAt j).dueBatch <;> cases hr : (d.jobAt j).resv <;> simp only [execBatchRun, onDev, hb, hr, h]

end Run

/-- Settles O47: each command by its turn, its first failing check, its access of staging, and its work. -/
theorem jobCommands : Obligations.JobCommands := by
  unfold Obligations.JobCommands
  refine ⟨?start, ?startMet, ?startUndone, ?stopLaterIgnored, ?stopLaterRejected, ?stopNowIgnored, ?stopNowRejected, ?openIgnored, ?openRejected,
    ?closeIgnored, ?closeRejected, ?stopLater, ?stopNow, ?suspend, ?resume, ?query, ?logRefused, ?logTested, ?log, ?logHeld, ?opens, ?closes,
    ?overrideBeyond, ?overrideTested, ?override, ?overrideMet, ?overrideUndone, ?manifestBeyond, ?manifestTested, ?manifest, ?manifestMet,
    ?manifestUndone, ?submitRefused, ?submit, ?submitDropped, ?returnBeyond, ?returnUnasked, ?returnTested, ?returned, ?returnMet, ?returnUndone,
    ?batchRefused, ?batchTested, ?batch, ?batchMet, ?batchUndone, ?runs, ?runMet, ?runNotDue, ?runNone⟩
  case start => exact fun m p j d h hj hs => takes_jobStart h hj (Device.stagingHit_clear hs)
  case startMet => exact fun m p j k d h hj hs hmet => takes_jobStart h hj (Device.stagingHit_met hs hmet)
  case startUndone => exact fun m p j hit d h hj hs => takes_jobStart h hj (Device.stagingHit_undone hs)
  case stopLaterIgnored =>
    exact fun m d h => takes_commandIf_ignored (sel := byteZero) (fun _ => rfl) (h.imp_right fun hne => Bool.eq_false_iff.mpr (mt byteZero_iff.mp hne))
  case stopLaterRejected => exact fun m d hturn hz hhead => takes_commandIf_rejected (sel := byteZero) (fun _ => rfl) hturn (byteZero_iff.mpr hz) hhead
  case stopNowIgnored =>
    exact fun m d h => takes_commandIf_ignored (sel := byteSet) (fun _ => rfl) (h.imp_right fun hne => Bool.eq_false_iff.mpr (mt byteSet_iff.mp hne))
  case stopNowRejected => exact fun m d hturn hz hhead => takes_commandIf_rejected (sel := byteSet) (fun _ => rfl) hturn (byteSet_iff.mpr hz) hhead
  case openIgnored =>
    exact fun m d h => takes_commandIf_ignored (sel := byteZero) (fun _ => rfl) (h.imp_right fun hne => Bool.eq_false_iff.mpr (mt byteZero_iff.mp hne))
  case openRejected => exact fun m d hturn hz hhead => takes_commandIf_rejected (sel := byteZero) (fun _ => rfl) hturn (byteZero_iff.mpr hz) hhead
  case closeIgnored =>
    exact fun m d h => takes_commandIf_ignored (sel := byteSet) (fun _ => rfl) (h.imp_right fun hne => Bool.eq_false_iff.mpr (mt byteSet_iff.mp hne))
  case closeRejected => exact fun m d hturn hz hhead => takes_commandIf_rejected (sel := byteSet) (fun _ => rfl) hturn (byteSet_iff.mpr hz) hhead
  case stopLater => exact fun m p j d => takes_jobStopAfterCommit
  case stopNow => exact fun m p j d => takes_jobStopAtOnce
  case suspend => exact fun m p j d => takes_jobSuspend
  case resume => exact fun m p j d => takes_jobResume
  case query => exact fun m p j d => takes_jobQuery
  case logRefused => exact fun m p j d => takes_logRead_refused
  case logTested =>
    exact fun m p j bs d h hj hlog hin hbs ht => takes_logRead_writes h hj hlog hin hbs (Device.onStaging_tested ht)
  case log =>
    exact fun m p j bs d h hj hlog hin hbs ht hs =>
      takes_logRead_writes h hj hlog hin hbs ((Device.onStaging_of_free ht).trans (Device.stagingHit_clear hs))
  case logHeld =>
    exact fun m p j bs d h hj hlog hin hbs ht hs =>
      takes_logRead_writes h hj hlog hin hbs ((Device.onStaging_of_free ht).trans (Device.stagingHit_undone (.inl hs)))
  case opens => exact fun m p j d => takes_hostlaneOpen
  case closes => exact fun m p j d => takes_hostlaneClose
  case overrideBeyond => exact fun m p j hit d => takes_overrideAdd_beyond
  case overrideTested => exact fun m p j hit d h hj hb ht => takes_overrideAdd h hj hb (Device.onStaging_tested ht)
  case override =>
    exact fun m p j d h hj hb ht hs => takes_overrideAdd h hj hb ((Device.onStaging_of_free ht).trans (Device.stagingHit_clear hs))
  case overrideMet =>
    exact fun m p j k d h hj hb ht hs hmet => takes_overrideAdd h hj hb ((Device.onStaging_of_free ht).trans (Device.stagingHit_met hs hmet))
  case overrideUndone =>
    exact fun m p j hit d h hj hb ht hs => takes_overrideAdd h hj hb ((Device.onStaging_of_free ht).trans (Device.stagingHit_undone hs))
  case manifestBeyond => exact fun m p j hit d => takes_manifest_beyond
  case manifestTested => exact fun m p j hit d h hj hb ht => takes_manifest h hj hb (Device.onStaging_tested ht)
  case manifest =>
    exact fun m p j d h hj hb ht hs => takes_manifest h hj hb ((Device.onStaging_of_free ht).trans (Device.stagingHit_clear hs))
  case manifestMet =>
    exact fun m p j k d h hj hb ht hs hmet => takes_manifest h hj hb ((Device.onStaging_of_free ht).trans (Device.stagingHit_met hs hmet))
  case manifestUndone =>
    exact fun m p j hit d h hj hb ht hs => takes_manifest h hj hb ((Device.onStaging_of_free ht).trans (Device.stagingHit_undone hs))
  case submitRefused => exact fun m p j d => takes_stepSubmit_refused
  case submit => exact fun m p j d => takes_stepSubmit
  case submitDropped => exact fun m p j d => takes_stepSubmit_dropped
  case returnBeyond => exact fun m p j hit d => takes_hostlaneReturn_beyond
  case returnUnasked => exact fun m p j hit d => takes_hostlaneReturn_unasked
  case returnTested =>
    exact fun m p j q u st hit d h hj hb hr hu hst ht => takes_hostlaneReturn h hj hb hr hu hst (Device.onStaging_tested ht)
  case returned =>
    exact fun m p j q u st d h hj hb hr hu hst ht hs =>
      takes_hostlaneReturn h hj hb hr hu hst ((Device.onStaging_of_free ht).trans (Device.stagingHit_clear hs))
  case returnMet =>
    exact fun m p j q u st k d h hj hb hr hu hst ht hs hmet =>
      takes_hostlaneReturn h hj hb hr hu hst ((Device.onStaging_of_free ht).trans (Device.stagingHit_met hs hmet))
  case returnUndone =>
    exact fun m p j q u st hit d h hj hb hr hu hst ht hs =>
      takes_hostlaneReturn h hj hb hr hu hst ((Device.onStaging_of_free ht).trans (Device.stagingHit_undone hs))
  case batchRefused => exact fun m p j hit d => takes_batch_refused
  case batchTested => exact fun m p j hit d h hj hc ht => takes_batch h hj hc (Device.onStaging_tested ht)
  case batch => exact fun m p j d h hj hc ht hs => takes_batch h hj hc ((Device.onStaging_of_free ht).trans (Device.stagingHit_clear hs))
  case batchMet =>
    exact fun m p j k d h hj hc ht hs hmet => takes_batch h hj hc ((Device.onStaging_of_free ht).trans (Device.stagingHit_met hs hmet))
  case batchUndone =>
    exact fun m p j hit d h hj hc ht hs => takes_batch h hj hc ((Device.onStaging_of_free ht).trans (Device.stagingHit_undone hs))
  case runs => exact fun j k others b r u d hb hr hu hdue hs => takes_batchRun hb hr hu hdue (Device.withHit_clear hs)
  case runMet => exact fun j k hit others b r u d hb hr hu hdue => takes_batchRun hb hr hu hdue rfl
  case runNotDue => exact fun j k hit others b d => takes_batchRun_not_due
  case runNone => exact fun j k hit others d => takes_batchRun_none

end Sys2Proof.Machine
end

section
/-! PROOFS. The order of the Sluice's admissions (09 R259, R260), and what each of its five messages leaves at its Terrace (09 R257 to R264). -/
namespace Sys2Proof.Machine

/-! ### The insertion sort -/

section Sorting
variable {α : Type} {le : α → α → Bool}

theorem insertBy_perm (le : α → α → Bool) (x : α) (l : List α) : (insertBy le x l).Perm (x :: l) := by
  induction l with
  | nil => exact .refl _
  | cons y ys ih =>
    unfold insertBy
    split
    · exact (ih.cons y).trans (.swap x y ys)
    · exact .refl _

/-- The sort takes its elements from the front: the last one is inserted last. -/
theorem sortBy_concat (le : α → α → Bool) (l : List α) (x : α) : sortBy le (l ++ [x]) = insertBy le x (sortBy le l) := by
  simp only [sortBy, List.foldl_append, List.foldl_cons, List.foldl_nil]

theorem sortBy_perm (le : α → α → Bool) (l : List α) : (sortBy le l).Perm l := by
  induction l using List.reverseRecOn with
  | nil => exact .refl _
  | append_singleton l x ih =>
    calc sortBy le (l ++ [x])
      _ = insertBy le x (sortBy le l) := sortBy_concat le l x
      List.Perm _ (x :: sortBy le l) := insertBy_perm le x _
      List.Perm _ (x :: l) := ih.cons x
      List.Perm _ (l ++ [x]) := (List.perm_append_singleton x l).symm

/-- An insertion keeps a list in order: the element stands behind all that come before it, and in front of the first that does not. -/
theorem insertBy_pairwise (htrans : ∀ a b c, le a b → le b c → le a c) (htotal : ∀ a b, le a b ∨ le b a) (x : α) {l : List α}
    (hl : l.Pairwise (fun a b => le a b)) : (insertBy le x l).Pairwise (fun a b => le a b) := by
  induction l with
  | nil => exact List.pairwise_singleton _ x
  | cons y ys ih =>
    obtain ⟨hy, hys⟩ := List.pairwise_cons.mp hl
    unfold insertBy
    split
    next hyx =>
      refine List.pairwise_cons.mpr ⟨fun z hz => ?_, ih hys⟩
      rcases List.mem_cons.mp ((insertBy_perm le x ys).mem_iff.mp hz) with rfl | hz
      · exact hyx
      · exact hy z hz
    next hyx =>
      have hxy : le x y := (htotal x y).resolve_right hyx
      refine List.pairwise_cons.mpr ⟨fun z hz => ?_, hl⟩
      rcases List.mem_cons.mp hz with rfl | hz
      · exact hxy
      · exact htrans x y z hxy (hy z hz)

theorem sortBy_pairwise (htrans : ∀ a b c, le a b → le b c → le a c) (htotal : ∀ a b, le a b ∨ le b a) (l : List α) :
    (sortBy le l).Pairwise (fun a b => le a b) := by
  induction l using List.reverseRecOn with
  | nil => exact .nil
  | append_singleton l x ih =>
    rw [sortBy_concat]
    exact insertBy_pairwise htrans htotal x ih

end Sorting

/-- Settles O38: the list is an insertion sort of the expert's requests by token, and `≤` on tokens is transitive and total. -/
theorem requestsAdmittedInTokenOrder : Obligations.RequestsAdmittedInTokenOrder := by
  unfold Obligations.RequestsAdmittedInTokenOrder
  intro rs e
  refine ⟨sortBy_perm _ _, (sortBy_pairwise ?_ ?_ _).imp of_decide_eq_true⟩
  · intro a b c hab hbc
    exact decide_eq_true ((of_decide_eq_true hab).trans (of_decide_eq_true hbc))
  · intro a b
    simpa only [decide_eq_true_eq] using Nat.le_total a.token b.token

/-! ### What the answers leave at a DISPATCH under way -/

section Answers
variable {d e : Device} {t : Fin 4} {token rank expert slot peer ter : Nat} {data : List Nat} {c : SluiceCmd} {p : Dispatch} {hit : Option Hit}

theorem takes_sluiceEnd_stays (hon : engOn d = true)
    (h : ∀ c p, d.sluiceHead t = some c → (d.engAt t).disp = some p →
      p.answered = true ∨ (endedSources (endQueued peer ter (d.engAt t)).inbox).length < (sluiceF c.bytes).nsrc) :
    Takes (.sluiceEnd t peer ter) d (d.updEng t (endQueued peer ter)) := by
  cases hc : d.sluiceHead t with
  | none => exact takes_sluiceEnd_no_dispatch hon (.inl hc)
  | some c =>
    cases hp : (d.engAt t).disp with
    | none => exact takes_sluiceEnd_no_dispatch hon (.inr hp)
    | some p => exact takes_sluiceEnd_not_due hon hc hp (h c p hc hp)

/-- A DISPATCH that owes a grant or a row is not complete (09 R259). -/
theorem settleDispatch_of_owing (hp : (d.engAt t).disp = some p) (h : p.grantsDue ≠ 0 ∨ p.rowsDue ≠ 0) : d.settleDispatch t = d := by
  have hopen : (p.answered && p.grantsDue == 0 && p.rowsDue == 0) = false := by
    rcases h with h | h <;> simp [h]
  cases hc : d.sluiceHead t with
  | none => simp only [Device.settleDispatch, hc]
  | some c => simp only [Device.settleDispatch, hc, hp, hopen, Bool.false_eq_true, if_false]

theorem Engines.updTarget_id (e : Engines) : e.updTarget (fun g => g) = e := by
  simp only [Engines.updTarget, ite_self, List.map_id']

/-- The grant of a request that is not admitted: its routing record gets slot 0xFFFF, and no row is sent (09 R259). -/
theorem takeGrant_skipped (hc : d.sluiceHead t = some c) (hp : (d.engAt t).disp = some p) (hdue : 2 ≤ p.grantsDue) :
    d.takeGrant t token rank 0xFFFF =
      (d.store ((sluiceF c.bytes).recordAt (token - (sluiceF c.bytes).tbase) rank + 2) [255, 255]).updEng t
        (fun e => { e with disp := some { p with grantsDue := p.grantsDue - 1 } }) := by
  have hsome : p.grantsDue ≠ 0 := by omega
  have howes : p.grantsDue - 1 ≠ 0 := by omega
  have hslot : toLE 2 0xFFFF = [255, 255] := rfl
  simp only [Device.takeGrant, hc, hp, if_neg hsome, if_true, hslot, Engines.updTarget_id]
  exact settleDispatch_of_owing (congrArg Engines.disp (Device.engAt_updEng _ t _)) (.inl howes)

/-- A row that its owner expects: stored in the slot of the expert's buffer (09 R259). -/
theorem takeRow_due (hc : d.sluiceHead t = some c) (hp : (d.engAt t).disp = some p) (hdue : 2 ≤ p.rowsDue) :
    d.takeRow t expert slot data =
      (d.store ((expertAt d (sluiceF c.bytes) expert).buf + slot * (expertAt d (sluiceF c.bytes) expert).stride) data).updEng t
        (fun e => { e with disp := some { p with rowsDue := p.rowsDue - 1 } }) := by
  have hsome : p.rowsDue ≠ 0 := by omega
  have howes : p.rowsDue - 1 ≠ 0 := by omega
  simp only [Device.takeRow, hc, hp, if_neg hsome]
  exact settleDispatch_of_owing (congrArg Engines.disp (Device.engAt_updEng _ t _)) (.inr howes)

theorem takeGrant_not_due (h : (d.engAt t).disp.all (fun p => p.grantsDue == 0) = true) : d.takeGrant t token rank slot = d := by
  cases hc : d.sluiceHead t with
  | none => simp only [Device.takeGrant, hc]
  | some c =>
    cases hp : (d.engAt t).disp with
    | none => simp only [Device.takeGrant, hc, hp]
    | some p =>
      have hnone : p.grantsDue = 0 := by simpa [hp] using h
      simp only [Device.takeGrant, hc, hp, if_pos hnone]

theorem takeRow_not_due (h : (d.engAt t).disp.all (fun p => p.rowsDue == 0) = true) : d.takeRow t expert slot data = d := by
  cases hc : d.sluiceHead t with
  | none => simp only [Device.takeRow, hc]
  | some c =>
    cases hp : (d.engAt t).disp with
    | none => simp only [Device.takeRow, hc, hp]
    | some p =>
      have hnone : p.rowsDue = 0 := by simpa [hp] using h
      simp only [Device.takeRow, hc, hp, if_pos hnone]

/-- A grant that no DISPATCH is owed changes nothing, whether or not the Terrace is clocked or a line is held. -/
theorem takes_sluiceGrant_not_due (h : (d.engAt t).disp.all (fun p => p.grantsDue == 0) = true) :
    Takes (.sluiceGrant t token rank slot none) d d := by
  cases hon : engOn d with
  | false => exact takes_sluiceGrant_off hon
  | true =>
    cases hs : (grantSpans d t token rank slot).any (fun s => heldAt d s.1 s.2) with
    | true => exact takes_sluiceGrant hon (Device.withHit_held hs)
    | false => exact takes_sluiceGrant hon ((Device.withHit_clear hs).trans (takeGrant_not_due h))

theorem takes_sluiceRow_to (hon : engOn d = true) (hfree : ∀ c, d.sluiceHead t = some c → rowHeld d c expert slot data.length = false)
    (he : d.takeRow t expert slot data = e) : Takes (.sluiceRow t expert slot data) d e :=
  he ▸ takes_sluiceRow hon hfree

theorem takes_sluiceRow_not_due (h : (d.engAt t).disp.all (fun p => p.rowsDue == 0) = true) : Takes (.sluiceRow t expert slot data) d d := by
  cases hon : engOn d with
  | false => exact takes_sluiceRow_off hon
  | true =>
    by_cases hfree : ∀ c, d.sluiceHead t = some c → rowHeld d c expert slot data.length = false
    · exact takes_sluiceRow_to hon hfree (takeRow_not_due h)
    · push Not at hfree
      obtain ⟨c, hc, hheld⟩ := hfree
      exact takes_sluiceRow_held hc (Bool.eq_true_of_not_eq_false hheld)

end Answers

/-! ### What a record leaves at its DISPATCH -/

section Records
variable {d e : Device} {t : Fin 4} {k src ter expert slot token col : Nat} {bytes rest : List Nat} {g : CombineTarget} {r : Packet99}

theorem takeRecord09_of_target (hk : targetOf (d.engAt t).targets expert slot token col = some k) (hg : (d.engAt t).targets[k]? = some g) :
    d.takeRecord09 t src ter expert slot token col bytes = d.applyRecord t k src ter expert slot token col g bytes := by
  simp only [Device.takeRecord09, hk, hg]

theorem takeRecord09_unexpected (hk : targetOf (d.engAt t).targets expert slot token col = none) :
    d.takeRecord09 t src ter expert slot token col bytes = d := by
  simp only [Device.takeRecord09, hk]

/-- A record waits only for the pan of a DISPATCH that expects it. -/
theorem recordWaits_unexpected (hk : targetOf (d.engAt t).targets expert slot token col = none) : recordWaits d t expert slot token col = false := by
  simp only [recordWaits, hk]

/-- The token and the column of a record lie in the DISPATCH's range, and its place in the pans and entries of the Terrace (09 R263). -/
abbrev recordFits (g : CombineTarget) (token col : Nat) : Prop :=
  g.tbase ≤ token ∧ col < g.dv ∧ (g.place token col).1 ≤ 15 ∧ (g.place token col).2.1 ≤ 63

/-- A DISPATCH's counts once a record is applied (09 R262): no longer missed, seen, and one more for its pan. -/
abbrev CombineTarget.applied (g : CombineTarget) (src ter expert slot token col : Nat) : CombineTarget :=
  { g with missed := g.missed.filter (· != [src, ter, expert, slot, col]), seen := (expert, slot, col) :: g.seen,
           counts := addCounts g.counts [{ pan := (g.place token col).1, expect := 0, got := 1 }] }

/-- The entry that a record is for has the record packed-added (09 R263). -/
abbrev recordAdded (d : Device) (t : Fin 4) (a : Nat × Nat × Nat) (r : Packet99) : Device :=
  d.updPan (16 * t + a.1) (fun q => q.setEntry a.2.1 a.2.2 (((d.panAt (16 * t + a.1)).entry a.2.1 a.2.2).packedAdd r))

/-- A sound record for an entry of normal mode is added and counted (09 R262 to R264). -/
theorem applyRecord_sound (hr : takeRecord bytes = some (r, rest)) (hfits : recordFits g token col) (hres : residueOk r = true)
    (hattn : ((d.panAt (16 * t + (g.place token col).1)).row (g.place token col).2.1).attn = false)
    (hher : ((d.panAt (16 * t + (g.place token col).1)).entry (g.place token col).2.1 (g.place token col).2.2).heritage = none) :
    d.applyRecord t k src ter expert slot token col g bytes =
      ((recordAdded d t (g.place token col) r).updEng t
        (fun f => { f with targets := modNth (fun _ => g.applied src ter expert slot token col) f.targets k })).settleCombine t := by
  have hin : ¬(token < g.tbase ∨ g.dv ≤ col ∨ 15 < (g.place token col).1 ∨ 63 < (g.place token col).2.1) := by
    obtain ⟨hbase, hcol, hpan, hentry⟩ := hfits
    omega
  simp only [Device.applyRecord, hr, if_neg hin, hres, hattn, hher, Bool.not_true, Option.isSome_none, Bool.false_eq_true, if_false]

theorem takes_sluiceRecord_to (hon : engOn d = true) (hw : recordWaits d t expert slot token col = false)
    (he : d.takeRecord09 t src ter expert slot token col bytes = e) : Takes (.sluiceRecord t src ter expert slot token col bytes) d e :=
  he ▸ takes_sluiceRecord hon hw

end Records

/-- Settles O37: each clause is one outcome of its message; the DISPATCH that a record counts for is `targetOf` (log entry 20). -/
theorem grantAndRowAtTheSluice : Obligations.GrantAndRowAtTheSluice := by
  unfold Obligations.GrantAndRowAtTheSluice
  refine ⟨?request, ?ends, ?record, ?recordDropped, ?grant, ?row, ?grantNotDue, ?rowNotDue⟩
  case request => exact fun _ _ _ => takes_sluiceRequest
  case ends => exact fun _ _ _ _ => takes_sluiceEnd_stays
  case record =>
    intro t src ter expert slot token col rc k g r rest d hon hw hk hg hr hbase hcol hpan hentry hres hattn hher
    exact takes_sluiceRecord_to hon hw
      ((takeRecord09_of_target hk hg).trans (applyRecord_sound hr ⟨hbase, hcol, hpan, hentry⟩ hres hattn hher))
  case recordDropped =>
    exact fun _ _ _ _ _ _ _ _ _ hon hk => takes_sluiceRecord_to hon (recordWaits_unexpected hk) (takeRecord09_unexpected hk)
  case grant =>
    intro t token rank c p d hon hc hp hdue hs
    exact takes_sluiceGrant hon ((Device.withHit_clear hs).trans (takeGrant_skipped hc hp hdue))
  case row =>
    intro t expert slot data c p d hon hc hp hdue hfree
    have hrow : ∀ c', d.sluiceHead t = some c' → rowHeld d c' expert slot data.length = false := fun c' hc' => by
      obtain rfl : c = c' := Option.some.inj (hc.symm.trans hc')
      exact hfree
    exact takes_sluiceRow_to hon hrow (takeRow_due hc hp hdue)
  case grantNotDue => exact fun _ _ _ _ _ => takes_sluiceGrant_not_due
  case rowNotDue => exact fun _ _ _ _ _ => takes_sluiceRow_not_due

end Sys2Proof.Machine
end

section
/-! PROOFS. The amax capture unit (10 R273, R274): what a write of PAN_AMAX_SEL leaves at its pan. -/
namespace Sys2Proof.Machine

/-- EN and SLOT of PAN_AMAX_SEL, for the conversions that follow (10 R273). -/
theorem takes_amaxCaptureSelect (p : Fin 64) (en : Bool) (slot : Fin 16) (d : Device) :
    Takes (.amaxCaptureSelect p en slot) d (d.updPan p (fun q => { q with sel := { en := en, slot := slot } })) := fun q => by
  change execAmaxCaptureSelect p en slot _ = _
  simp only [execAmaxCaptureSelect, onDev]

/-- The same write with CLR: a slot at its reset values is one with AMAX and the three counts 0 (10 R274). -/
theorem takes_amaxSlotClear (p : Fin 64) (en : Bool) (slot : Fin 16) (d : Device) :
    Takes (.amaxSlotClear p en slot) d (d.updPan p (fun q =>
      { q with sel := { en := en, slot := slot }, slots := modNth (fun _ => { amax := 0, sat := 0, inf := 0, nan := 0 }) q.slots slot })) :=
  fun q => by
    change execAmaxSlotClear p en slot _ = _
    simp only [execAmaxSlotClear, onDev]

/-- Settles O28: one clause for each of the two writes of PAN_AMAX_SEL, without CLR and with it. -/
theorem amaxCaptureRegister : Obligations.AmaxCaptureRegister := by
  unfold Obligations.AmaxCaptureRegister
  exact ⟨takes_amaxCaptureSelect, takes_amaxSlotClear⟩

end Sys2Proof.Machine
end

section
/-! PROOFS. The input pipeline of a job (10 R278, R279, R282; 11 R304 to R315, R321 to R323; 01 R36, R38): what each of its commands leaves, from the
bytes fetched for a slot to the verdict on a redo unit. -/
namespace Sys2Proof.Machine

/-! ### Fetched bytes -/

section Fetch
variable {j : Fin 16} {n k : Nat} {b : List Nat} {st : Step} {d : Device}

/-- Job j owns the intake and is served, and slot k of its step n waits for bytes it may still ask for (11 R304). -/
abbrev Awaits (d : Device) (j : Fin 16) (n k : Nat) (st : Step) : Prop :=
  d.grd.owner = some j.val ∧ serves d j = true
    ∧ stepSlot (d.jobAt j) n k (fun x => x.place == .fetching && decide (x.attempts < 8)) = some st

/-- INTAKE_FETCH acts on the step that awaits the bytes. -/
theorem awaits_iff : (if d.grd.owner = some j.val ∧ serves d j then
      stepSlot (d.jobAt j) n k (fun x => x.place == .fetching && decide (x.attempts < 8)) else none) = some st ↔ Awaits d j n k st := by
  rw [Option.ite_none_right_eq_some, and_assoc]

/-- The bytes match the length and the CRC of the manifest entry (11 R304). -/
theorem bytesGood_iff {m : List Nat} : (b.length == manCsize m && crc32c b == manCrc m) = true ↔ b.length = manCsize m ∧ crc32c b = manCrc m := by
  rw [Bool.and_eq_true, beq_iff_eq, beq_iff_eq]

theorem takes_intakeFetch_good (hs : Awaits d.pump j n k st) (hlen : b.length = manCsize (entryOfSlot (d.pump.jobAt j) st k))
    (hcrc : crc32c b = manCrc (entryOfSlot (d.pump.jobAt j) st k)) :
    Takes (.intakeFetch j n k b) d (match ((d.pump.holdBytes j n k b).jobAt j).stepAt n with
      | some x => ((d.pump.holdBytes j n k b).route j x k b).pump
      | none => d.pump.holdBytes j n k b) := fun s => by
  change execIntakeFetch j n k b _ = _
  cases hx : ((d.pump.holdBytes j n k b).jobAt j).stepAt n <;>
    simp only [execIntakeFetch, onDev, awaits_iff.mpr hs, if_pos (bytesGood_iff.mpr ⟨hlen, hcrc⟩), hx]

theorem takes_intakeFetch_bad (hs : Awaits d.pump j n k st)
    (hbad : b.length ≠ manCsize (entryOfSlot (d.pump.jobAt j) st k) ∨ crc32c b ≠ manCrc (entryOfSlot (d.pump.jobAt j) st k)) {t : Nat} {e : Device}
    (ht : ((st.slotAt k).getD {}).attempts + 1 = t) (he : d.pump.updSample j st.num k (fun _ _ _ _ x => { x with attempts := t }) = e) :
    Takes (.intakeFetch j n k b) d (if t < 8 then e.askFetch (entryOfSlot (d.pump.jobAt j) st k) else e) := fun s => by
  have hno := mt bytesGood_iff.mp (not_and_or.mpr hbad)
  change execIntakeFetch j n k b _ = _
  simp only [execIntakeFetch, onDev, awaits_iff.mpr hs, if_neg hno, ht, he]

theorem takes_intakeFetch_idle (hs : ∀ st, ¬Awaits d.pump j n k st) : Takes (.intakeFetch j n k b) d d.pump := fun s => by
  have hnone := Option.eq_none_iff_forall_ne_some.mpr fun st => mt awaits_iff.mp (hs st)
  change execIntakeFetch j n k b _ = _
  simp only [execIntakeFetch, onDev, hnone]

theorem takes_fetchFailed (hs : stepSlot (d.jobAt j) n k (fun x => x.place == .fetching && decide (8 ≤ x.attempts)) = some st) :
    Takes (.fetchFailed j n k) d
      ((d.logEvent srcQuay 0x0601 sevFault (some j) (toLE 8 (manSample (entryOfSlot (d.jobAt j) st k)) ++ toLE 8 st.num)).stopJob j
        (fun n => if n = st.num then 0x0606 else stAborted)) := fun s => by
  change execFetchFailed j n k _ = _
  simp only [execFetchFailed, onDev, hs]

theorem takes_fetchFailed_idle (hs : stepSlot (d.jobAt j) n k (fun x => x.place == .fetching && decide (8 ≤ x.attempts)) = none) :
    Takes (.fetchFailed j n k) d d := fun s => by
  change execFetchFailed j n k _ = _
  simp only [execFetchFailed, onDev, hs]

end Fetch

/-! ### The Grader's entries -/

section Decode
variable {ms : List Nat} {a b : Ecc} {r : Bool} {d e f : Device} {g : GEntry} {j : Fin 16} {n k : Nat} {st : Step} {u : JobSetup} {x : Decoded}

/-- The counts of corrected and uncorrectable words after an entry's two words are read (11 R309). -/
abbrev GrdCounts.wordsRead (c : GrdCounts) (a b : Ecc) : GrdCounts :=
  { c with corr := satAdd c.corr ([a, b].filter (· == .corrected)).length, uncorr := satAdd c.uncorr ([a, b].filter (· == .uncorrectable)).length }

theorem uncorrectable_words_ne_zero_iff :
    ([a, b].filter (· == .uncorrectable)).length ≠ 0 ↔ a = .uncorrectable ∨ b = .uncorrectable := by
  rw [Ne, List.length_eq_zero_iff, List.filter_eq_nil_iff]
  simp only [List.forall_mem_cons, beq_iff_eq, not_and_or, not_not, List.not_mem_nil, false_imp_iff, implies_true, and_true]

theorem takes_decodeStart_sound (hon : (d.grd.owner.map (serves d)).getD false = true) (hn : nextEntry d.grd ms = some (g, r))
    (ha : a ≠ .uncorrectable) (hb : b ≠ .uncorrectable) :
    Takes (.decodeStart ms a b) d (({ d with
        grd := { d.grd.remove g with busy := (d.grd.remove g).busy ++ [g] }
        grdc := d.grdc.wordsRead a b
        med := if isVideo g.media then { d.med with ctxOpen := d.med.ctxOpen + 1 } else d.med } : Device).updSample g.job g.step g.slot
      (fun _ _ _ _ x => { x with place := .decoding })) := fun s => by
  have hno := mt uncorrectable_words_ne_zero_iff.mp (not_or.mpr ⟨ha, hb⟩)
  change execDecodeStart ms a b _ = _
  simp only [execDecodeStart, onDev, if_pos hon, hn, if_neg hno]

theorem takes_decodeStart_lost (hon : (d.grd.owner.map (serves d)).getD false = true) (hn : nextEntry d.grd ms = some (g, r))
    (hab : a = .uncorrectable ∨ b = .uncorrectable) :
    Takes (.decodeStart ms a b) d (({ d with grd := d.grd.remove g, grdc := d.grdc.wordsRead a b } : Device).updSample g.job g.step g.slot
      (fun _ _ _ _ x => { x with place := .unplaced, again := true, attempts := 0 })).pump := fun s => by
  change execDecodeStart ms a b _ = _
  simp only [execDecodeStart, onDev, if_pos hon, hn, if_pos (uncorrectable_words_ne_zero_iff.mpr hab)]

theorem takes_decodeStart_idle (h : (d.grd.owner.map (serves d)).getD false = false ∨ nextEntry d.grd ms = none) :
    Takes (.decodeStart ms a b) d d := fun s => by
  have hnone : (if (d.grd.owner.map (serves d)).getD false then nextEntry d.grd ms else none) = none :=
    ite_eq_right_iff.mpr fun hon => h.resolve_left (by simp [hon])
  change execDecodeStart ms a b _ = _
  simp only [execDecodeStart, onDev, hnone]

/-! ### Decoded samples -/

/-- The bytes of slot k of a step, decoded as its entry says (11 R314; 12 R325). -/
abbrev slotDecoded (q : JobSlot) (st : Step) (k : Nat) (g : GEntry) : Decoded :=
  decodeBytes g.media (manWrap (entryOfSlot q st k)) (((st.slotAt k).map SampleSlot.raw).getD [])

/-- The dimensions that a decode declares are refused (12 R327). -/
abbrev dimsRefused (q : JobSlot) (st : Step) (k : Nat) (g : GEntry) (x : Decoded) : Bool :=
  (declared x).any (fun y => dimsBad g.media y.1 y.2 (manCsize (entryOfSlot q st k)) q.pixLimit)

/-- The end of a decode that gave x, its core free: a status, or the sample in its slot with what was concealed counted (12 R327, R329). -/
def Device.endDecode (e : Device) (j : Nat) (q : JobSlot) (u : JobSetup) (st : Step) (k : Nat) (g : GEntry) (x : Decoded) : Device :=
  match x with
  | .failed c => e.endMedia j st k c false
  | x =>
    if dimsRefused q st k g x then e.endMedia j st k stDims false
    else
      let y := sampleOf u.jr g.media (manCsize (entryOfSlot q st k)) q.pixLimit x
      ({ e with med := { e.med with conceal := satAdd e.med.conceal y.conceal, syntaxErr := satAdd e.med.syntaxErr (syntaxErrors x) } } : Device).takeSample
        j st.num k y.conceal y.bytes

theorem takes_decodeComplete (ht : d.takeBusy j n k = some (g, e)) (hu : (d.jobAt j).setup = some u) (hs : (d.jobAt j).stepAt g.step = some st)
    (hx : slotDecoded (d.jobAt j) st k g = x) (hf : e.endDecode j (d.jobAt j) u st k g x = f) : Takes (.decodeComplete j n k) d f.pump := fun s => by
  change execDecodeComplete j n k _ = _
  simp only [execDecodeComplete, onDev, ht, hu, hs, hx]
  subst hf
  cases x <;> rfl

theorem endDecode_refused {q : JobSlot} (hx : ∀ c, x ≠ .failed c) (hd : dimsRefused q st k g x = true) :
    e.endDecode j q u st k g x = e.endMedia j st k stDims false := by
  unfold Device.endDecode
  split
  next c => exact absurd rfl (hx c)
  next => rw [if_pos hd]

theorem endDecode_sound {q : JobSlot} (hx : ∀ c, x ≠ .failed c) (hd : dimsRefused q st k g x = false) {y : Smp}
    (hy : sampleOf u.jr g.media (manCsize (entryOfSlot q st k)) q.pixLimit x = y) :
    e.endDecode j q u st k g x =
      ({ e with med := { e.med with conceal := satAdd e.med.conceal y.conceal, syntaxErr := satAdd e.med.syntaxErr (syntaxErrors x) } } : Device).takeSample
        j st.num k y.conceal y.bytes := by
  unfold Device.endDecode
  split
  next c => exact absurd rfl (hx c)
  next => rw [if_neg (Bool.eq_false_iff.mp hd), hy]

theorem takes_decodeComplete_stepless (ht : d.takeBusy j n k = some (g, e)) (hu : (d.jobAt j).setup = some u)
    (hs : (d.jobAt j).stepAt g.step = none) : Takes (.decodeComplete j n k) d e.pump := fun s => by
  change execDecodeComplete j n k _ = _
  simp only [execDecodeComplete, onDev, ht, hu, hs]

theorem takes_decodeComplete_idle (h : d.takeBusy j n k = none ∨ (d.jobAt j).setup = none) : Takes (.decodeComplete j n k) d d := fun s => by
  change execDecodeComplete j n k _ = _
  rcases h with h | h
  · simp only [execDecodeComplete, onDev, h]
  · cases ht : d.takeBusy j n k <;> simp only [execDecodeComplete, onDev, h, ht]

/-! ### Expired budgets -/

/-- A decode aborted for its budget is counted and logged (11 R313). -/
abbrev Device.noteSlow (e : Device) (j : Fin 16) (q : JobSlot) (g : GEntry) : Device :=
  ({ e with grdc := { e.grdc with slow := satAdd e.grdc.slow 1 } } : Device).logEvent srcQuay 0x0602 sevNotice (some j)
    (toLE 8 g.sample ++ toLE 4 (g.step % 2 ^ 32) ++ toLE 4 (budgetOf q g.cost))

theorem takes_decodeBudgetExpired (ht : d.takeBusy j n k = some (g, e)) (hb : g.noBudget = false) (hs : (d.jobAt j).stepAt g.step = some st) :
    Takes (.decodeBudgetExpired j n k) d (if g.hostElig && laneOpen (d.jobAt j) then (e.noteSlow j (d.jobAt j) g).toLane j st k 0
      else (e.noteSlow j (d.jobAt j) g).toRetry { g with noBudget := true, attempt := min 15 (g.attempt + 1) }).pump := fun s => by
  change execDecodeBudgetExpired j n k _ = _
  simp only [execDecodeBudgetExpired, onDev, ht, hb, hs, Bool.false_eq_true, if_false]

theorem takes_decodeBudgetExpired_stepless (ht : d.takeBusy j n k = some (g, e)) (hb : g.noBudget = false)
    (hs : (d.jobAt j).stepAt g.step = none) : Takes (.decodeBudgetExpired j n k) d e := fun s => by
  change execDecodeBudgetExpired j n k _ = _
  simp only [execDecodeBudgetExpired, onDev, ht, hb, hs, Bool.false_eq_true, if_false]

theorem takes_decodeBudgetExpired_idle (h : ((d.takeBusy j n k).map Prod.fst).all (fun g => g.noBudget) = true) :
    Takes (.decodeBudgetExpired j n k) d d := fun s => by
  change execDecodeBudgetExpired j n k _ = _
  cases ht : d.takeBusy j n k with
  | none => simp only [execDecodeBudgetExpired, onDev, ht]
  | some x =>
    have hb : x.1.noBudget = true := by simpa [ht] using h
    simp only [execDecodeBudgetExpired, onDev, ht, hb, if_true]

end Decode

/-! ### The Grader's queues -/

section Queues
variable {d : Device}

theorem takes_graderBankSwap :
    Takes .graderBankSwap d (if d.grd.draining.isEmpty && d.grd.isSealed then ({ d with grd := d.grd.swap } : Device).pump else d) := fun s => by
  change execGraderBankSwap _ = _
  simp only [execGraderBankSwap, onDev]

theorem takes_retryLaneEntry : Takes .retryLaneEntry d (match d.grd.waiting with
    | [] => d
    | g :: gs => if 64 ≤ d.grd.retry.length then d
      else ({ d with grd := { d.grd with waiting := gs, retry := d.grd.retry ++ [g] } } : Device).updSample g.job g.step g.slot
        (fun _ _ _ _ x => { x with place := .queued })) := fun s => by
  change execRetryLaneEntry _ = _
  cases hw : d.grd.waiting <;> simp only [execRetryLaneEntry, onDev, hw]

end Queues

/-! ### Micro-batches -/

section MicroBatches
variable {j : Fin 16} {n mb addr tmb : Nat} {pans ps : List Nat} {skim sluice : List (Nat × List Nat)} {st : Step} {u : JobSetup} {d f : Device}

/-- The work whose micro-batch closes next: the due batch if it can close, else the oldest unpacked step (11 R321, R324). -/
abbrev nextToClose (q : JobSlot) : Option Step :=
  (q.dueBatch.filter (fun b => b.work.closable)).elim (q.steps.find? (fun st => !st.packDone)) (fun b => some b.work)

theorem takes_microbatchClose : Takes (.microbatchClose j) d (match nextToClose (d.jobAt j) with
    | some st => ((d.updStep j st.num (fun x => x.closeBatch (fun k => manSample (entryOfSlot (d.jobAt j) st k)))).settleAll j).pump
    | none => d) := fun s => by
  change execMicrobatchClose j _ = _
  cases hb : (d.jobAt j).dueBatch with
  | none => simp only [execMicrobatchClose, onDev, nextToClose, hb, Option.filter_none, Option.elim_none] <;> rfl
  | some b =>
    by_cases hc : b.work.closable
    · simp only [execMicrobatchClose, onDev, nextToClose, hb, if_pos hc, Option.filter_some, Option.elim_some]
    · simp only [execMicrobatchClose, onDev, nextToClose, hb, if_neg hc, Option.filter_some, Option.elim_none] <;> rfl

/-- A micro-batch of a step may start on the pans: it is the step's turn, where it is placed and where its capacities go is neither held nor off
the map, and the engines have room for its commands (01 R36, R38, R39). -/
abbrev DispatchClear (f : Device) (j : Fin 16) (st : Step) (mb : Nat) (ps : List Nat) (addr : Nat) (skim sluice : List (Nat × List Nat)) : Prop :=
  mayDispatch f j st mb ps = true ∧ mapped f addr (batchBytes st (nthD ({} : MicroBatch) st.mbs mb)).length = true
    ∧ heldAt f addr (batchBytes st (nthD ({} : MicroBatch) st.mbs mb)).length = false
    ∧ sluice.any (fun c => heldAt f (capSpan f c).1 (capSpan f c).2) = false ∧ enginesFit f skim sluice = true

theorem dispatchClear_iff :
    (mayDispatch f j st mb ps && mapped f addr (batchBytes st (nthD ({} : MicroBatch) st.mbs mb)).length
      && !heldAt f addr (batchBytes st (nthD ({} : MicroBatch) st.mbs mb)).length
      && !sluice.any (fun c => heldAt f (capSpan f c).1 (capSpan f c).2) && enginesFit f skim sluice) = true ↔
    DispatchClear f j st mb ps addr skim sluice := by
  simp only [Bool.and_eq_true, Bool.not_eq_true', and_assoc]

/-- Micro-batch mb of a step placed at addr, what its pans leave behind captured (10 R291). -/
abbrev Device.placeBatch (f : Device) (j : Fin 16) (n : Nat) (st : Step) (mb addr : Nat) (ps : List Nat) : Device :=
  ((f.store addr (batchBytes st (nthD ({} : MicroBatch) st.mbs mb))).leaveStep j n ps).updStep j n (fun x => { x with
    started := true, mbs := modNth (fun m => { m with dispatched := true, addr := addr }) x.mbs mb })

/-- The undo copies of a step taken when they are due (16 R430); q is the job as its dispatch found it. -/
abbrev Device.undoIfDue (e : Device) (j : Fin 16) (n : Nat) (q : JobSlot) (st : Step) : Device :=
  if st.batch.isNone && undoDue q n then e.captureUndo j n else e

/-- At the start of a step the job's chains may forward again. -/
abbrev Device.chainsAgain (e : Device) (j : Fin 16) (st : Step) : Device :=
  if st.started || st.batch.isSome then e
  else { e with fab := { e.fab with chains := e.fab.chains.map (fun c => if c.job == j.val then { c with sent := false } else c) } }

/-- The start of a placed micro-batch: capacities written, pans started, engine commands queued (09 R256; 01 R36). -/
abbrev Device.startBatch (e : Device) (j : Fin 16) (u : JobSetup) (st : Step) (tokens : Nat) (ps : List Nat) (skim sluice : List (Nat × List Nat)) :
    Device :=
  ((ps.foldl (fun (g : Device) p => g.updPan p (fun x => x.startProgram u.jr.seed st)) (e.writeCaps j u tokens sluice)).queueEngines j skim sluice).pump

theorem takes_microbatchDispatch (hf : d.settleAll j = f) (hs : (f.jobAt j).stepAt n = some st) (hu : (f.jobAt j).setup = some u)
    (hp : idlePans f j pans = some ps) (hc : DispatchClear f j st mb ps addr skim sluice) :
    Takes (.microbatchDispatch j n mb pans addr tmb skim sluice) d
      ((((f.placeBatch j n st mb addr ps).undoIfDue j n (f.jobAt j) st).chainsAgain j st).startBatch j u st
        (if u.topo.nmemb ≤ 1 then (nthD ({} : MicroBatch) st.mbs mb).tokens else tmb) ps skim sluice) := fun s => by
  change execMicrobatchDispatch j n mb pans addr tmb skim sluice _ = _
  simp only [execMicrobatchDispatch, onDev, hf, hs, hu, hp, if_pos (dispatchClear_iff.mpr hc)]

theorem takes_microbatchDispatch_idle (hf : d.settleAll j = f)
    (h : (f.jobAt j).stepAt n = none ∨ (f.jobAt j).setup = none ∨ idlePans f j pans = none ∨
      ∃ st ps, (f.jobAt j).stepAt n = some st ∧ idlePans f j pans = some ps ∧ ¬DispatchClear f j st mb ps addr skim sluice) :
    Takes (.microbatchDispatch j n mb pans addr tmb skim sluice) d f := fun s => by
  change execMicrobatchDispatch j n mb pans addr tmb skim sluice _ = _
  simp only [execMicrobatchDispatch, onDev, hf]
  split
  next st u ps hs hu hp =>
    have hno : ¬DispatchClear f j st mb ps addr skim sluice := by simpa [hs, hu, hp] using h
    rw [if_neg (mt dispatchClear_iff.mp hno)]
  next => rfl

end MicroBatches

/-! ### Redo gates -/

section Gate
variable {p : Fin 64} {unit dir mb n l : Nat} {r : RedoUnit} {d : Device}

/-- Pan p runs a program and stands at no gate yet (10 R278). -/
abbrev ReachesGate (d : Device) (p : Fin 64) : Prop :=
  d.panOn p = true ∧ (d.panAt p).core.running = true ∧ (d.panAt p).core.halt = none ∧ (d.panAt p).gated = false

theorem reachesGate_iff : (d.panOn p && (d.panAt p).core.running && (d.panAt p).core.halt.isNone && !(d.panAt p).gated) = true ↔ ReachesGate d p := by
  simp only [Bool.and_eq_true, Bool.not_eq_true', Option.isNone_iff_eq_none, and_assoc]

theorem takes_redoGate_again (hp : ReachesGate d p) (hj : (d.panAt p).job = some (n, l)) (hr : redoUnit (d.jobAt n) unit dir = some r)
    (hre : recomputes (d.jobAt n) (d.panAt p) unit dir mb = true) :
    Takes (.redoGate p unit dir mb) d (d.updPan p (fun q => q.recomputed r)) := fun s => by
  change execRedoGate p unit dir mb _ = _
  simp only [execRedoGate, onDev, if_pos (reachesGate_iff.mpr hp), hj, hr, if_pos hre]

theorem takes_redoGate_held (hp : ReachesGate d p) (hj : (d.panAt p).job = some (n, l)) (hr : redoUnit (d.jobAt n) unit dir = some r)
    (hre : recomputes (d.jobAt n) (d.panAt p) unit dir mb = false) (hh : (d.panAt p).holds r.gate (16 * (watched r).length) = true) :
    Takes (.redoGate p unit dir mb) d d := fun s => by
  change execRedoGate p unit dir mb _ = _
  simp only [execRedoGate, onDev, if_pos (reachesGate_iff.mpr hp), hj, hr, hre, Bool.false_eq_true, if_false, if_pos hh]

/-- The report of a pan's slots at a gate, in place of an earlier one of the pan (10 R278). -/
abbrev Gate.reported (g : Gate) (p : Fin 64) (ss : List AmaxSlot) : Gate :=
  { g with reports := g.reports.filter (fun x => x.1 != p.val) ++ [(p.val, ss)] }

theorem takes_redoGate_reports (hp : ReachesGate d p) (hj : (d.panAt p).job = some (n, l)) (hr : redoUnit (d.jobAt n) unit dir = some r)
    (hre : recomputes (d.jobAt n) (d.panAt p) unit dir mb = false) (hh : (d.panAt p).holds r.gate (16 * (watched r).length) = false) :
    Takes (.redoGate p unit dir mb) d
      (((d.psWrite p r.gate ((watched r).flatMap (fun k => slotBytes (nthD {} (d.panAt p).slots k)))).updPan p (fun q => { q with gated := true })).updJob n
        (fun q => { q with gates := gatesBut q unit dir mb ++ [(gateOf (d.jobAt n) unit dir mb).reported p (d.panAt p).slots] })) := fun s => by
  change execRedoGate p unit dir mb _ = _
  simp only [execRedoGate, onDev, if_pos (reachesGate_iff.mpr hp), hj, hr, hre, hh, Bool.false_eq_true, if_false]

theorem takes_redoGate_idle (h : ¬ReachesGate d p ∨ (d.panAt p).job = none ∨
    ∃ n l, (d.panAt p).job = some (n, l) ∧ redoUnit (d.jobAt n) unit dir = none) : Takes (.redoGate p unit dir mb) d d := fun s => by
  change execRedoGate p unit dir mb _ = _
  rcases h with h | h | ⟨n, l, hj, hr⟩
  · simp only [execRedoGate, onDev, if_neg (mt reachesGate_iff.mp h)]
  · simp only [execRedoGate, onDev, h, ite_self]
  · by_cases hp : ReachesGate d p
    · simp only [execRedoGate, onDev, if_pos (reachesGate_iff.mpr hp), hj, hr]
    · simp only [execRedoGate, onDev, if_neg (mt reachesGate_iff.mp hp)]

end Gate

/-! ### Redo verdicts -/

section Verdict
variable {j : Fin 16} {unit dir mb n : Nat} {os : List (List Nat)} {r : RedoUnit} {u : JobSetup} {d : Device}

/-- A held granule where the verdict on a gate goes (01 R39). -/
abbrev verdictHeld (d : Device) (r : RedoUnit) (g : Gate) : Bool := g.reports.any (fun x => (d.panAt x.1).holds r.gate 4)

/-- The saturated conversions that the reports of a gate count (10 R274, R279). -/
abbrev gateSat (r : RedoUnit) (g : Gate) (os : List (List Nat)) : Nat := (combinedSlots r g os).foldl (fun a c => satAdd a c.sat) 0

/-- The infinite conversions that they count. -/
abbrev gateInf (r : RedoUnit) (g : Gate) (os : List (List Nat)) : Nat := (combinedSlots r g os).foldl (fun a c => satAdd a c.inf) 0

/-- The step that a redo record names: that of the weights for a batch (10 R281). -/
abbrev shownStep (q : JobSlot) (n : Nat) : Nat := if batchBase ≤ n then q.commit.step.getD 0 else n

/-- A passed attempt of a forward unit noted in its step (10 R282). -/
abbrev Device.notePassed (d : Device) (j : Fin 16) (n unit dir mb : Nat) : Device :=
  if dir = 0 then d.updStep j n (fun st => { st with passed := st.passed ++ [(unit, mb)] }) else d

/-- The record of a triggered attempt of gate g, for a next level to', added to its step in e; d is the device that the verdict found (10 R281). -/
abbrev Device.noteRedo (d e : Device) (j : Fin 16) (n mb : Nat) (u : JobSetup) (r : RedoUnit) (g : Gate) (os : List (List Nat)) (to' : Nat) : Device :=
  e.updStep j n (fun st => { st with redo := st.redo ++ [redoRecord (shownStep (d.jobAt j) n) (decide (batchBase ≤ n)) r mb g.level to'
    (gateSat r g os) (gateInf r g os) (redoTensors d u r g os)] })

/-- What REDO_VERDICT leaves for gate g (10 R279 to R281). -/
abbrev Device.judge (d : Device) (j : Fin 16) (unit dir mb n : Nat) (u : JobSetup) (r : RedoUnit) (g : Gate) (os : List (List Nat)) : Device :=
  let sat := gateSat r g os
  let inf := gateInf r g os
  let rest := d.updJob j (fun q => { q with gates := gatesBut q unit dir mb })
  if sat + inf = 0 then (rest.notePassed j n unit dir mb).giveVerdict r g 0
  else if g.level < r.top then
    ((d.noteRedo (d.updJob j (fun q => { q with gates := gatesBut q unit dir mb ++ [{ g with level := g.level + 1, reports := [] }] })) j n mb u r g os
      (g.level + 1)).giveVerdict r g (g.level + 1)).logEvent srcRenura 0x0301 sevNotice (some j)
        (redoData r mb (shownStep (d.jobAt j) n) g.level (g.level + 1) sat inf)
  else (((d.noteRedo rest j n mb u r g os 0xFF).logEvent srcRenura 0x0302 sevNotice (some j)
    (redoData r mb (shownStep (d.jobAt j) n) g.level 0xFF sat inf)).notePassed j n unit dir mb).giveVerdict r g 0

/-- Job j runs on its pans and is not being switched out. -/
abbrev OnPans (d : Device) (j : Fin 16) : Prop := (d.jobAt j).live = true ∧ (d.jobAt j).resident = true ∧ (d.jobAt j).switching = false

theorem verdictDue_iff {g : Gate} :
    ((d.jobAt j).live && (d.jobAt j).resident && !(d.jobAt j).switching && !verdictHeld d r g) = true ↔ OnPans d j ∧ verdictHeld d r g = false := by
  simp only [Bool.and_eq_true, Bool.not_eq_true', and_assoc]

/-- A triggered attempt below the highest level goes up by one (10 R279). -/
theorem escalates_iff {count level top : Nat} : (decide (0 < count) && decide (level < top)) = true ↔ count ≠ 0 ∧ level < top := by
  rw [Bool.and_eq_true, decide_eq_true_eq, decide_eq_true_eq, Nat.pos_iff_ne_zero]

theorem takes_redoVerdict {g : Gate} (hg : gateOf (d.jobAt j) unit dir mb = g) (hr : redoUnit (d.jobAt j) unit dir = some r)
    (hu : (d.jobAt j).setup = some u) (hn : g.reports.head?.bind (fun x => (d.panAt x.1).step) = some n) (hon : OnPans d j)
    (hfree : verdictHeld d r g = false) : Takes (.redoVerdict j unit dir mb os) d (d.judge j unit dir mb n u r g os) := fun s => by
  change execRedoVerdict j unit dir mb os _ = _
  simp only [execRedoVerdict, onDev, hg, hr, hu, hn, if_pos (verdictDue_iff.mpr ⟨hon, hfree⟩), decide_eq_true_eq]
  by_cases hz : gateSat r g os + gateInf r g os = 0
  · rw [if_neg (mt escalates_iff.mp fun h => h.1 hz)]
    simp only [Device.judge, if_pos hz, if_neg (mt Nat.pos_iff_ne_zero.mp (not_not.mpr hz))]
  · by_cases hl : g.level < r.top
    · rw [if_pos (escalates_iff.mpr ⟨hz, hl⟩)]
      simp only [Device.judge, if_neg hz, if_pos hl]
    · rw [if_neg (mt escalates_iff.mp fun h => hl h.2)]
      simp only [Device.judge, if_neg hz, if_neg hl, if_pos (Nat.pos_iff_ne_zero.mpr hz)]

/-- Without a unit, its program, a step of the gate's first pan, its job on its pans and free granules there is no verdict. -/
theorem takes_redoVerdict_not_due (h : ∀ r u n, redoUnit (d.jobAt j) unit dir = some r → (d.jobAt j).setup = some u →
      (gateOf (d.jobAt j) unit dir mb).reports.head?.bind (fun x => (d.panAt x.1).step) = some n →
      ¬(OnPans d j ∧ verdictHeld d r (gateOf (d.jobAt j) unit dir mb) = false)) :
    Takes (.redoVerdict j unit dir mb os) d d := fun s => by
  change execRedoVerdict j unit dir mb os _ = _
  simp only [execRedoVerdict, onDev]
  split
  next r u n hr hu hn => rw [if_neg (mt verdictDue_iff.mp (h r u n hr hu hn))]
  next => rfl

theorem takes_redoVerdict_held (hr : redoUnit (d.jobAt j) unit dir = some r) (hh : verdictHeld d r (gateOf (d.jobAt j) unit dir mb) = true) :
    Takes (.redoVerdict j unit dir mb os) d d :=
  takes_redoVerdict_not_due fun r' u n hr' _ _ hdue => by
    obtain rfl : r = r' := Option.some.inj (hr.symm.trans hr')
    exact Bool.false_ne_true (hdue.2.symm.trans hh)

theorem takes_redoVerdict_idle (h : redoUnit (d.jobAt j) unit dir = none ∨ (d.jobAt j).setup = none ∨
    (gateOf (d.jobAt j) unit dir mb).reports.head?.bind (fun x => (d.panAt x.1).step) = none ∨ ¬OnPans d j) :
    Takes (.redoVerdict j unit dir mb os) d d :=
  takes_redoVerdict_not_due fun r u n hr hu hn hdue => by
    have hoff : ¬OnPans d j := by simpa [hr, hu, hn] using h
    exact hoff hdue.1

end Verdict

/-- Settles O48: each clause is one outcome of its command. -/
theorem intakeAndMicroBatches : Obligations.IntakeAndMicroBatches := by
  unfold Obligations.IntakeAndMicroBatches
  refine ⟨?fetched, ?fetchedBad, ?fetchIdle, ?fetchFailed, ?fetchFailedIdle, ?start, ?startLost, ?startIdle, ?failed, ?refused, ?decoded,
    ?stepless, ?decodeIdle, ?expired, ?expiredStepless, ?expiredIdle, ?swap, ?retry, ?close, ?dispatch, ?dispatchIdle, ?gateAgain, ?gateHeld,
    ?gate, ?gateIdle, ?verdict, ?verdictHeld, ?verdictIdle⟩
  case fetched => exact fun j n k b st d => takes_intakeFetch_good
  case fetchedBad => exact fun j n k b st d hs hbad => takes_intakeFetch_bad hs hbad rfl rfl
  case fetchIdle => exact fun j n k b d => takes_intakeFetch_idle
  case fetchFailed => exact fun j n k st d => takes_fetchFailed
  case fetchFailedIdle => exact fun j n k d => takes_fetchFailed_idle
  case start => exact fun ms a b e r d => takes_decodeStart_sound
  case startLost => exact fun ms a b e r d => takes_decodeStart_lost
  case startIdle => exact fun ms a b d => takes_decodeStart_idle
  case failed =>
    rintro j n k _ u g st d e ht hu hs hx ⟨c, rfl⟩
    exact takes_decodeComplete ht hu hs hx rfl
  case refused =>
    intro j n k x u g st d e ht hu hs hx hok hd
    have hne : ∀ c, x ≠ .failed c := by rintro c rfl; exact Bool.false_ne_true hok
    exact takes_decodeComplete ht hu hs hx (endDecode_refused hne hd)
  case decoded =>
    intro j n k x u g st d e ht hu hs hx hok hd y
    have hne : ∀ c, x ≠ .failed c := by rintro c rfl; exact Bool.false_ne_true hok
    exact takes_decodeComplete ht hu hs hx (endDecode_sound hne hd rfl)
  case stepless => exact fun j n k u g d e => takes_decodeComplete_stepless
  case decodeIdle => exact fun j n k d => takes_decodeComplete_idle
  case expired => exact fun j n k g st d e => takes_decodeBudgetExpired
  case expiredStepless => exact fun j n k g d e => takes_decodeBudgetExpired_stepless
  case expiredIdle => exact fun j n k d => takes_decodeBudgetExpired_idle
  case swap => exact fun d => takes_graderBankSwap
  case retry => exact fun d => takes_retryLaneEntry
  case close => exact fun j d => takes_microbatchClose
  case dispatch => exact fun j n mb addr tmb pans ps skim sluice st u d f => takes_microbatchDispatch
  case dispatchIdle => exact fun j n mb addr tmb pans skim sluice d f => takes_microbatchDispatch_idle
  case gateAgain => exact fun p unit dir mb n l r d => takes_redoGate_again
  case gateHeld => exact fun p unit dir mb n l r d => takes_redoGate_held
  case gate => exact fun p unit dir mb n l r d => takes_redoGate_reports
  case gateIdle => exact fun p unit dir mb d => takes_redoGate_idle
  case verdict => exact fun j unit dir mb n os r u d hr hu hn hon => takes_redoVerdict rfl hr hu hn hon
  case verdictHeld => exact fun j unit dir mb os r d => takes_redoVerdict_held
  case verdictIdle => exact fun j unit dir mb os d => takes_redoVerdict_idle

end Sys2Proof.Machine
end

section
/-! PROOFS. The augmentation operations on a decoded sample (11 R317 to R321; 12 R345, R347 to R349): what a command leaves when its operation comes
next for a sample and when it does not (what REENCODE does within is log entry 43), and which samples HFLIP, ROT90, CROP, TSTRIDE, GAIN and DOWNMIX
show. -/
namespace Sys2Proof.Machine

/-! ### The commands -/

section Commands
variable {j : Fin 16} {k o code : Nat} {st : Step} {d : Device} {c : Instr}

/-- Operation o of the job's augmentation program has this opcode. -/
abbrev programHas (d : Device) (j : Fin 16) (o code : Nat) : Bool :=
  ((d.jobAt j).setup.bind (fun u => u.jr.aug[o]?)).any (fun a => a.opcode == code)

/-- The oldest step of the job with a decoded untreated sample in slot k for which operation o comes next. -/
abbrev awaitsOp (d : Device) (j : Fin 16) (k o : Nat) : Option Step :=
  stepWith (d.jobAt j) k (fun x => x.place == .decoded && !x.treated && x.nextOp == o)

theorem augment_of_awaits (hop : programHas d j o code = true) (hst : awaitsOp d j k o = some st) :
    d.augment j k o code = d.updSample j st.num k (opSlot code o) := by
  simp only [Device.augment, hop, hst, if_true]

theorem augment_of_not_awaits (h : programHas d j o code = false ∨ awaitsOp d j k o = none) : d.augment j k o code = d := by
  obtain hop | hst := h
  · simp only [Device.augment, hop, Bool.false_eq_true, if_false]
  · simp only [Device.augment, hst, ite_self]

theorem takes_augment (hexec : ∀ s, exec c s = onDev s (fun d => d.augment j k o code)) (hop : programHas d j o code = true)
    (hst : awaitsOp d j k o = some st) : Takes c d (d.updSample j st.num k (opSlot code o)) := fun q => by
  rw [hexec, onDev, augment_of_awaits hop hst]

theorem takes_augment_ignored (hexec : ∀ s, exec c s = onDev s (fun d => d.augment j k o code))
    (h : programHas d j o code = false ∨ awaitsOp d j k o = none) : Takes c d d := fun q => by
  rw [hexec, onDev, augment_of_not_awaits h]

end Commands

/-! ### Elements of mapped lists and of lists of equal blocks -/

theorem nthD_map {α β : Type} (d : β) (f : α → β) {l : List α} {i : Nat} {a : α} (h : l[i]? = some a) : nthD d (l.map f) i = f a := by
  rw [nthD, List.getElem?_map, h, Option.map_some, Option.getD_some]

theorem block_index_lt {k m n i : Nat} (hk : k < m) (hi : i < n) : k * n + i < m * n :=
  calc k * n + i < k * n + n := Nat.add_lt_add_left hi _
    _ = (k + 1) * n := (Nat.succ_mul k n).symm
    _ ≤ m * n := Nat.mul_le_mul_right n hk

/-- Element i of block k, in a list of blocks of n elements. -/
theorem nthD_flatMap_blocks {α β : Type} {d : β} {g : α → List β} {n i : Nat} (hg : ∀ a, (g a).length = n) (hi : i < n) {l : List α} :
    ∀ {k : Nat} {a : α}, l[k]? = some a → nthD d (l.flatMap g) (k * n + i) = nthD d (g a) i := by
  induction l with
  | nil => intro k a h; simp at h
  | cons b l ih =>
    intro k a h
    rw [List.flatMap_cons]
    cases k with
    | zero =>
      obtain rfl : b = a := by simpa using h
      rw [Nat.zero_mul, Nat.zero_add, nthD, nthD, List.getElem?_append_left (by rw [hg]; exact hi)]
    | succ k =>
      have hat : (k + 1) * n + i = (g b).length + (k * n + i) := by rw [hg]; ring
      rw [hat, nthD_append_add]
      exact ih (by simpa using h)

theorem chunks_getElem? {α : Type} {c n : Nat} {l : List α} {k : Nat} (hk : k < n) (hl : k * c < l.length) :
    (chunks c n l)[k]? = some ((l.drop (k * c)).take c) := by
  induction n generalizing l k with
  | zero => omega
  | succ n ih =>
    have hne : l.isEmpty = false := by cases l with | nil => simp at hl | cons a l => rfl
    rw [chunks, hne, if_neg Bool.false_ne_true]
    cases k with
    | zero => simp
    | succ k =>
      have hl' : k * c < (l.drop c).length := by rw [List.length_drop]; rw [Nat.succ_mul] at hl; omega
      rw [List.getElem?_cons_succ, ih (by omega) hl', List.drop_drop, Nat.succ_mul, Nat.add_comm c]

/-- A stretch inside a list is its elements one by one. -/
theorem take_drop_eq_bytesFrom {l : List Nat} {i n : Nat} (h : i + n ≤ l.length) : (l.drop i).take n = bytesFrom l i n := by
  refine List.ext_getElem (by simp [bytesFrom]; omega) (fun j hj _ => ?_)
  have hj' : i + j < l.length := by simp at hj; omega
  simp [bytesFrom, nthD, hj']

/-! ### The visual operations -/

/-- A rebuilt sample shows in its n-th frame what is put for the n-th frame listed. -/
theorem rebuild_px {x : Smp} {w h n y i c f : Nat} {fs : List Nat} {g : Nat → Nat → Nat → Nat → Nat} (hf : fs[n]? = some f) (hy : y < h)
    (hi : i < w) (hc : c < x.ch) : (x.rebuild w h fs g).px n y i c = g f y i c := by
  have hat : ((n * h + y) * w + i) * x.ch + c = n * (h * (w * x.ch)) + (y * (w * x.ch) + (i * x.ch + c)) := by ring
  have hrow : i * x.ch + c < w * x.ch := block_index_lt hi hc
  have hframe : y * (w * x.ch) + (i * x.ch + c) < h * (w * x.ch) := block_index_lt hy hrow
  rw [Smp.px, Smp.rebuild, hat]
  refine (nthD_flatMap_blocks (by simp) hframe hf).trans ?_
  refine (nthD_flatMap_blocks (by simp) hrow (List.getElem?_range hy)).trans ?_
  exact (nthD_flatMap_blocks (by simp) hc (List.getElem?_range hi)).trans (nthD_map 0 _ (List.getElem?_range hc))

/-- A rebuilt sample with all frames of the old one shows in each frame what is put for it. -/
theorem rebuild_frames_px {x : Smp} {w h f y i c : Nat} {g : Nat → Nat → Nat → Nat → Nat} (hf : f < x.f) (hy : y < h) (hi : i < w)
    (hc : c < x.ch) : (x.rebuild w h x.frames g).px f y i c = g f y i c :=
  rebuild_px (List.getElem?_range hf) hy hi hc

theorem opCrop_px {x : Smp} {f y i c x0 y0 w h : Nat} (hf : f < x.f) (hy : y < h) (hi : i < w) (hh : y0 + h ≤ x.h) (hw : x0 + w ≤ x.w)
    (hc : c < x.ch) : (opCrop x x0 y0 w h).px f y i c = x.px f (y0 + y) (x0 + i) c :=
  rebuild_frames_px hf (by omega) (by omega) hc

/-- The multiples of n below f × n are f. -/
theorem length_filter_multiples {n : Nat} (hn : 0 < n) (f : Nat) : ((List.range (f * n)).filter (fun m => m % n == 0)).length = f := by
  have hcount : (f * n).count (· ≡ 0 [MOD n]) = f := by
    rw [Nat.count_modEq_card _ hn, Nat.mul_div_cancel _ hn, Nat.mul_mod_left, if_neg (Nat.not_lt_zero _), Nat.add_zero]
  rw [← List.countP_eq_length_filter]
  refine (List.countP_congr fun m _ => ?_).trans hcount
  simp only [beq_iff_eq, decide_eq_true_iff, Nat.modEq_zero_iff_dvd, Nat.dvd_iff_mod_eq_zero]

/-- Of the frames that TSTRIDE keeps, number f is frame f × n. -/
theorem filter_multiples_getElem? {n f m : Nat} (hn : 0 < n) (hf : f * n < m) : ((List.range m).filter (fun t => t % n == 0))[f]? = some (f * n) := by
  obtain ⟨r, rfl⟩ := Nat.exists_eq_add_of_lt hf
  rw [Nat.add_assoc, List.range_add, List.filter_append, List.getElem?_append_right (length_filter_multiples hn f).le,
    length_filter_multiples hn f, Nat.sub_self, List.range_succ_eq_map]
  simp

theorem opTstride_px {x : Smp} {f y i c n : Nat} (hn : 1 ≤ n) (hf : f * n < x.f) (hy : y < x.h) (hi : i < x.w) (hc : c < x.ch) :
    (opTstride x n).px f y i c = x.px (f * n) y i c := by
  rw [opTstride, Nat.max_eq_right hn]
  exact rebuild_px (filter_multiples_getElem? hn hf) hy hi hc

/-! ### The audio operations -/

theorem opGain_data (x : Smp) (n : Nat) {k : Nat} (hk : k < x.data.length) :
    nthD 0 (opGain x n).data k = fp32Of (mulVal (fp32V (nthD 0 x.data k)) (fp32V n)).1 := by
  have hx : x.data[k]? = some (nthD 0 x.data k) := by rw [nthD, List.getElem?_eq_getElem hk, Option.getD_some]
  exact nthD_map 0 _ hx

theorem opDownmix_data {x : Smp} {k : Nat} (hch : 1 ≤ x.ch) (hk : k < x.s) (hlen : x.data.length = x.s * x.ch) :
    nthD 0 (opDownmix x).data k = meanCode (bytesFrom x.data (k * x.ch) x.ch) := by
  have hend : k * x.ch + x.ch ≤ x.data.length := by rw [hlen, ← Nat.succ_mul]; exact Nat.mul_le_mul_right _ hk
  rw [← take_drop_eq_bytesFrom hend]
  exact nthD_map 0 meanCode (chunks_getElem? hk (by omega))

/-- Settles O49: each command is `Device.augment` with its opcode; the visual operations rebuild the sample, the audio operations map its data. -/
theorem augmentOperations : Obligations.AugmentOperations := by
  unfold Obligations.AugmentOperations
  refine ⟨?crop, ?cropIdle, ?resize, ?resizeIdle, ?hflip, ?hflipIdle, ?rot90, ?rot90Idle, ?jitter, ?jitterIdle, ?reencode, ?reencodeIdle,
    ?tcrop, ?tcropIdle, ?tstride, ?tstrideIdle, ?gain, ?gainIdle, ?resample, ?resampleIdle, ?downmix, ?downmixIdle,
    ?hflipPx, ?rot90Px, ?cropPx, ?tstridePx, ?gainData, ?downmixData⟩
  case crop | resize | hflip | rot90 | jitter | reencode | tcrop | tstride | gain | resample | downmix =>
    exact fun j k o st d => takes_augment (fun _ => rfl)
  case cropIdle | resizeIdle | hflipIdle | rot90Idle | jitterIdle | reencodeIdle | tcropIdle | tstrideIdle | gainIdle | resampleIdle
      | downmixIdle =>
    exact fun j k o d => takes_augment_ignored (fun _ => rfl)
  case hflipPx => exact fun f y i c x => rebuild_frames_px
  case rot90Px => exact fun f y i c x => rebuild_frames_px
  case cropPx => exact fun f y i c x0 y0 w h x => opCrop_px
  case tstridePx => exact fun f y i c n x => opTstride_px
  case gainData => exact fun n x k => opGain_data x n
  case downmixData => exact fun x k hch hk hlen => ⟨rfl, opDownmix_data hch hk hlen⟩

end Sys2Proof.Machine
end

section
/-! PROOFS. The idle step (13 R362, R377; 14 R379, R380; log entry 10). -/
namespace Sys2Proof.Machine

theorem step_of_no_command (d : Device) : step { dev := d, pending := [] } = .next { dev := d.idle, pending := [] } := rfl

/-- Settles O2: what `Device.idle` does is the tick, the delivery and the drain, in this order. -/
theorem idleStepIsOneTick : Obligations.IdleStepIsOneTick := by
  unfold Obligations.IdleStepIsOneTick
  exact step_of_no_command

end Sys2Proof.Machine
end

section
/-! PROOFS. FLAGSET and transactions for another device (13 R357, R361 to R363; log entry 23). -/
namespace Sys2Proof.Machine

/-! ### FLAGSET -/

section Flagset
variable {d e : Device} {x : Txn} {u : JobSetup}

theorem takes_flagset_elsewhere (hm : mine d x = false) : Takes (.flagset x) d d := fun s => by
  change execFlagset x _ = _
  simp only [execFlagset, onDev, hm, Bool.not_false, if_true]

theorem takes_flagset_returned (hm : mine d x = true) (hst : x.status ≠ 0) : Takes (.flagset x) d (d.report x.job x.status) := fun s => by
  change execFlagset x _ = _
  simp only [execFlagset, onDev, hm, Bool.not_true, Bool.false_eq_true, if_false, if_pos hst]

theorem takes_flagset_of_program (hm : mine d x = true) (hst : x.status = 0) (hu : (d.jobAt x.job).setup = some u)
    (he : (if 4096 ≤ x.addr ∨ u.prog.pans ≤ bits x.addr 11 6 then d.report x.job stRange
      else d.setJobFlag x.job (bits x.addr 11 6) (bits x.addr 5 0)) = e) : Takes (.flagset x) d e := fun s => by
  change execFlagset x _ = _
  simp only [execFlagset, onDev, hm, hst, hu, Bool.not_true, Bool.false_eq_true, if_false, ne_eq, not_true_eq_false, he]

theorem takes_flagset_no_program (hm : mine d x = true) (hst : x.status = 0) (hu : (d.jobAt x.job).setup = none) :
    Takes (.flagset x) d d := fun s => by
  change execFlagset x _ = _
  simp only [execFlagset, onDev, hm, hst, hu, Bool.not_true, Bool.false_eq_true, if_false, ne_eq, not_true_eq_false]

end Flagset

/-! ### A transaction for another device -/

section Forward
variable {d e : Device} {x : Txn} {b st : Nat}

/-- How the source of a discarded transaction learns its status: by the answer of a READ, WRITE or LADD, by the FLAGSET sent back, or by a token. -/
theorem Device.discard_eq (d : Device) (x : Txn) (st : Nat) : d.discard x st = match d.routeOf x.src with
    | .fail _ => d
    | _ => if x.op = 1 ∨ x.op = 3 ∨ x.op = 5 ∨ x.op = 9 then
        d.launch { op := answerOp x.op, dst := x.src, src := d.selfBund, tag := x.tag, status := st, hops := 8, job := x.job }
      else d.putToken x.src (.bounced x.op st) := by
  have hop : x.op ∈ [1, 3, 5, 9] ↔ x.op = 1 ∨ x.op = 3 ∨ x.op = 5 ∨ x.op = 9 := by simp
  unfold Device.discard
  cases d.routeOf x.src with
  | fail _ => rfl
  | self | port _ => simp only [hop]

theorem Device.passOn_eq (d : Device) (x : Txn) : d.passOn x = ({ d with fab := { d.fab with
      fwd := if x.op = 1 ∨ x.op = 3 ∨ x.op = 5 then d.fab.fwd ++ [x]
        else d.fab.fwd.filter (fun y => !(y.tag == x.tag && y.src == x.dst && answerOp y.op == x.op)) } } : Device).launch
      { x with hops := x.hops - 1 } := by
  simp only [Device.passOn, List.mem_cons, List.not_mem_nil, or_false]

section Due
variable (hon : terOn d = true) (hself : d.fab.selfId ≠ some x.dst)
include hon hself

theorem takes_bundForward_no_hops (hh : x.hops = 0) (he : d.discard x stNoRoute = e) : Takes (.bundForward x) d e := fun s => by
  change execBundForward x _ = _
  simp only [execBundForward, onDev, hon, beq_eq_false_iff_ne.mpr hself, hh, Bool.not_true, Bool.or_self, Bool.false_eq_true, if_false, if_true, he]

theorem takes_bundForward_no_route (hh : x.hops ≠ 0) (hr : d.routeOf x.dst = .fail st) (he : d.discard x st = e) :
    Takes (.bundForward x) d e := fun s => by
  change execBundForward x _ = _
  simp only [execBundForward, onDev, hon, beq_eq_false_iff_ne.mpr hself, hh, hr, Bool.not_true, Bool.or_self, Bool.false_eq_true, if_false, he]

theorem takes_bundForward_sent (hh : x.hops ≠ 0) (hr : d.routeOf x.dst = .port b) (he : d.passOn x = e) : Takes (.bundForward x) d e := fun s => by
  change execBundForward x _ = _
  simp only [execBundForward, onDev, hon, beq_eq_false_iff_ne.mpr hself, hh, hr, Bool.not_true, Bool.or_self, Bool.false_eq_true, if_false, he]

end Due

theorem takes_bundForward_ignored (h : terOn d = false ∨ d.fab.selfId = some x.dst) : Takes (.bundForward x) d d := fun s => by
  have hno : (!terOn d || d.fab.selfId == some x.dst) = true := by simpa using h
  change execBundForward x _ = _
  simp only [execBundForward, onDev, hno, if_true]

end Forward

/-- Settles O41: FLAGSET by its status and its job's program, BUND_FORWARD by its hops and its route. -/
theorem flagAndForwardTransactions : Obligations.FlagAndForwardTransactions := by
  unfold Obligations.FlagAndForwardTransactions
  refine ⟨?flag, ?flagBeyond, ?flagIdle, ?flagBack, ?sent, ?noHops, ?noRoute, ?idle⟩
  case flag => exact fun x u d hm hst hu ha hp => takes_flagset_of_program hm hst hu (if_neg (by omega))
  case flagBeyond => exact fun x u d hm hst hu h => takes_flagset_of_program hm hst hu (if_pos h)
  case flagIdle =>
    rintro x d h
    cases hm : mine d x with
    | false => exact takes_flagset_elsewhere hm
    | true =>
      obtain ⟨hst, hu⟩ := h.resolve_left (by simp [hm])
      exact takes_flagset_no_program hm hst hu
  case flagBack => exact fun x d => takes_flagset_returned
  case sent => exact fun x b d hon hself hh hr => takes_bundForward_sent hon hself hh hr (d.passOn_eq x)
  case noHops => exact fun x d hon hself hh => takes_bundForward_no_hops hon hself hh (d.discard_eq x stNoRoute)
  case noRoute => exact fun x st d hon hself hh hr => takes_bundForward_no_route hon hself hh hr (d.discard_eq x st)
  case idle => exact fun x d => takes_bundForward_ignored

end Sys2Proof.Machine
end

section
/-! PROOFS. JOIN, QUEUED and PARTNER (13 R363; 16 R433, R445, R446, R450, R451, R458; log entries 23, 26, 27). -/
namespace Sys2Proof.Machine

/-! ### PARTNER -/

section PartnerToken
variable {src f : Nat} {j : Fin 16} {ids : List Nat} {u : JobSetup} {d e : Device}

/-- A survivor in RECOVERING, or a spare whose own fill runs: it answers PARTNER with its own list (16 R450). -/
abbrev answersPartner (d : Device) (j : Fin 16) : Prop := (d.jobAt j).state = .recovering ∨ (d.jobAt j).partner.filling = true

/-- The own list sent to a member (16 R433). -/
abbrev ownListTo (d : Device) (j : Fin 16) (u : JobSetup) (src : Nat) : Device := d.tokenTo j src (fun s => .partner s (groupList u.topo))

theorem takes_partner_kept (he : (d.jobAt j).state ≠ .empty) (hno : ¬answersPartner d j) :
    Takes (.partner src j ids) d (d.updJob j (fun q => { q with partner := { q.partner with
      tokens := q.partner.tokens.filter (fun t => t.1 != src) ++ [(src, ids)] } })) := fun s => by
  change execPartner src j ids _ = _
  simp only [execPartner, onDev, he, if_false, if_neg hno]

section Answered
variable (hne : (d.jobAt j).state ≠ .empty) (hans : answersPartner d j) (hu : (d.jobAt j).setup = some u) (hg : src ∈ groupOf u.topo)
include hne hans hu hg

theorem takes_partner_first (hf : (d.jobAt j).partner.fill = none) : Takes (.partner src j ids) d
    ((ownListTo d j u src).updJob j (fun q => { q with partner := { q.partner with fill := some src } })) := fun s => by
  change execPartner src j ids _ = _
  simp only [execPartner, onDev, hne, if_false, if_pos hans, hu, List.contains_iff_mem.mpr hg, if_true, hf]

theorem takes_partner_later (hf : (d.jobAt j).partner.fill = some f)
    (he : (if f = src ∨ (d.jobAt j).partner.queued.contains src = true then ownListTo d j u src
      else (if (d.jobAt j).partner.filling = true then ownListTo d j u src
        else (ownListTo d j u src).updJob j (fun q => { q with partner := { q.partner with queued := q.partner.queued ++ [src] } })).tokenTo j src
          (fun s => .queued s u.topo.selfId)) = e) : Takes (.partner src j ids) d e := fun s => by
  change execPartner src j ids _ = _
  simp only [execPartner, onDev, hne, if_false, if_pos hans, hu, List.contains_iff_mem.mpr hg, if_true, hf, he]

end Answered

theorem takes_partner_empty (h : (d.jobAt j).state = .empty) : Takes (.partner src j ids) d d := fun s => by
  change execPartner src j ids _ = _
  simp only [execPartner, onDev, h, if_true]

theorem takes_partner_outside (hans : answersPartner d j) (hout : ∀ u, (d.jobAt j).setup = some u → src ∉ groupOf u.topo) :
    Takes (.partner src j ids) d d := fun s => by
  change execPartner src j ids _ = _
  cases hu : (d.jobAt j).setup with
  | none => simp only [execPartner, onDev, if_pos hans, hu, ite_self]
  | some u =>
    have hno : ¬(groupOf u.topo).contains src = true := fun h => hout u hu (List.contains_iff_mem.mp h)
    simp only [execPartner, onDev, if_pos hans, hu, if_neg hno, ite_self]

end PartnerToken

/-! ### JOIN -/

section Join
variable {src b n : Nat} {j : Fin 16} {u : JobSetup} {p : Peer} {d e : Device}

/-- The JOINs heard by a survivor, with a member's. -/
abbrev joinsWith (d : Device) (j : Fin 16) (b : Nat) : List Nat :=
  if (d.jobAt j).partner.joins.contains b then (d.jobAt j).partner.joins else (d.jobAt j).partner.joins ++ [b]

/-- A survivor after a JOIN for its committed step: its own holder's notes that a fresh image is owed, another's lets the next fill begin
(16 R445, R446, R450). -/
abbrev joinCounted (d : Device) (j : Fin 16) (u : JobSetup) (b : Nat) : Device :=
  d.updJob j (fun q => { q with partner := { (if holderOf u.topo == some b then q.partner else q.partner.fillDone) with
    joins := joinsWith d j b, refill := q.partner.refill || holderOf u.topo == some b } })

/-- Every member that a survivor lacked has sent JOIN, with this one. -/
abbrev lastJoin (d : Device) (j : Fin 16) (b : Nat) : Bool := (d.jobAt j).partner.lacking.all (fun x => (joinsWith d j b).contains x)

/-- A JOIN noted outside RECOVERING. -/
abbrev joinNoted (d : Device) (j : Fin 16) (b n : Nat) : Device :=
  d.updJob j (fun q => { q with partner := { q.partner with
    joined := if q.partner.joined.contains (b, n) then q.partner.joined else q.partner.joined ++ [(b, n)] } })

theorem hearJoin_of_program (hu : (d.jobAt j).setup = some u) (hn : joinNoted d j b n = e) : d.hearJoin j b n =
    if u.jr.restore = 1 ∧ (d.jobAt j).escalated = false ∧ (e.jobAt j).escalated = true then
      e.logEvent srcRenura 0x0803 sevWarning (some j) (toLE 2 b ++ [1] ++ toLE 8 n) else e := by
  subst hn
  simp only [Device.hearJoin, hu]

section FromPeer
variable (hu : (d.jobAt j).setup = some u) (hp : peerOf u.topo src = some p)
include hu hp

theorem takes_join_counted (hr : (d.jobAt j).state = .recovering) (hc : (d.jobAt j).committedField = n) (hl : lastJoin d j b = false) :
    Takes (.join src j b n) d (joinCounted d j u b) := fun s => by
  change execJoin src j b n _ = _
  simp only [execJoin, onDev, hu, hp, Option.isNone_some, Bool.false_eq_true, if_false, hr, hc, if_true, hl]

theorem takes_join_last (hr : (d.jobAt j).state = .recovering) (hc : (d.jobAt j).committedField = n) (hl : lastJoin d j b = true) :
    Takes (.join src j b n) d ((joinCounted d j u b).updJob j
      (fun q => { q with state := .running, partner := { q.partner with joins := [], lacking := [] } })) := fun s => by
  change execJoin src j b n _ = _
  simp only [execJoin, onDev, hu, hp, Option.isNone_some, Bool.false_eq_true, if_false, hr, hc, if_true, hl]

theorem takes_join_other_step (hr : (d.jobAt j).state = .recovering) (hc : (d.jobAt j).committedField ≠ n) : Takes (.join src j b n) d
    (d.draw.2.logEvent srcRenura (d.draw.1 % 65536) sevNotice (some j) (toLE 2 b ++ toLE 8 n)) := fun s => by
  change execJoin src j b n _ = _
  simp only [execJoin, onDev, hu, hp, Option.isNone_some, Bool.false_eq_true, if_false, hr, if_true, if_neg hc]

theorem takes_join_heard (hr : (d.jobAt j).state ≠ .recovering) (hh : d.hearJoin j b n = e) : Takes (.join src j b n) d
    (if (d.jobAt j).state = .running ∧ (d.jobAt j).partner.filling = true then
      e.updJob j (fun q => { q with partner := { q.partner with queued := [] } }) else e) := fun s => by
  change execJoin src j b n _ = _
  simp only [execJoin, onDev, hu, hp, Option.isNone_some, Bool.false_eq_true, if_false, if_neg hr, hh, Bool.and_eq_true, decide_eq_true_eq]

end FromPeer

theorem takes_join_no_peer (h : ∀ u, (d.jobAt j).setup = some u → peerOf u.topo src = none) : Takes (.join src j b n) d d := fun s => by
  change execJoin src j b n _ = _
  cases hu : (d.jobAt j).setup with
  | none => simp only [execJoin, onDev, hu]
  | some u => simp only [execJoin, onDev, hu, h u hu, Option.isNone_none, if_true]

end Join

/-! ### QUEUED -/

section Queued
variable {src : Nat} {j : Fin 16} {d : Device}

theorem takes_queued (h : (isPeer d j src = true ∧ (d.jobAt j).partner.filling = true) ∨ (busyStart d j).isSome = true) :
    Takes (.queued src j) d
      (d.updJob j (fun q => { q with partner := { q.partner with queued := q.partner.queued.filter (· != src) ++ [src] } })) := fun s => by
  change execQueued src j _ = _
  simp only [execQueued, onDev, Bool.or_eq_true, Bool.and_eq_true, if_pos h]

theorem takes_queued_ignored (h : isPeer d j src = false ∨ (d.jobAt j).partner.filling = false) (hb : busyStart d j = none) :
    Takes (.queued src j) d d := fun s => by
  have hno : (isPeer d j src && (d.jobAt j).partner.filling) = false := Bool.and_eq_false_iff.mpr h
  change execQueued src j _ = _
  simp only [execQueued, onDev, hno, hb, Option.isSome_none, Bool.or_self, Bool.false_eq_true, if_false]

end Queued

/-- Settles O43: each token by the state of the job it reaches. -/
theorem partnerTokens : Obligations.PartnerTokens := by
  unfold Obligations.PartnerTokens
  refine ⟨?kept, ?first, ?later, ?partnerIdle, ?counted, ?last, ?otherStep, ?heard, ?noPeer, ?queued, ?queuedIdle⟩
  case kept => exact fun src j ids d he hr hf => takes_partner_kept he (by simp [hr, hf])
  case first => exact fun src j ids u d => takes_partner_first
  case later => exact fun src j ids u f d hne hans hu hg hf => takes_partner_later hne hans hu hg hf rfl
  case partnerIdle =>
    rintro src j ids d (he | ⟨hans, hout⟩)
    · exact takes_partner_empty he
    · exact takes_partner_outside hans hout
  case counted => exact fun src j b n u p d => takes_join_counted
  case last => exact fun src j b n u p d => takes_join_last
  case otherStep => exact fun src j b n u p d => takes_join_other_step
  case heard => exact fun src j b n u p d e hu hp hr hn => takes_join_heard hu hp hr (hearJoin_of_program hu hn)
  case noPeer => exact fun src j b n d => takes_join_no_peer
  case queued => exact fun src j d => takes_queued
  case queuedIdle => exact fun src j d => takes_queued_ignored

end Sys2Proof.Machine
end

section
/-! PROOFS. The Bund ports: lanes, flits, retraining, authentication and keys (13 R355 to R360; 18 R500; log entry 41). -/
namespace Sys2Proof.Machine

/-! ### Lanes -/

section PortLanes
variable {b : Fin 8} {l : Fin 9} {bad : BitVec 9} {d : Device}

theorem takes_laneFault (hup : linkUp d b = true) (hl : (d.portAt b).bad.getLsbD l = false) :
    Takes (.laneFault b l) d (d.foundFaulty b l) := fun s => by
  change execLaneFault b l _ = _
  simp only [execLaneFault, onDev, hup, hl, Bool.not_false, Bool.and_self, if_true]

theorem takes_laneFault_ignored (h : linkUp d b = false ∨ (d.portAt b).bad.getLsbD l = true) : Takes (.laneFault b l) d d := fun s => by
  have hno : (linkUp d b && !(d.portAt b).bad.getLsbD l) = false := by
    rcases h with h | h <;> simp only [h, Bool.false_and, Bool.not_true, Bool.and_false]
  change execLaneFault b l _ = _
  simp only [execLaneFault, onDev, hno, Bool.false_eq_true, if_false]

theorem takes_controlFlit (hup : linkUp d b = true) : Takes (.controlFlit b bad) d
    ((List.range 9).foldl (fun e l => if bad.getLsbD l then e.laneFaulty b l else e) d) := fun s => by
  change execControlFlit b bad _ = _
  simp only [execControlFlit, onDev, hup, if_true]

theorem takes_controlFlit_ignored (hdown : linkUp d b = false) : Takes (.controlFlit b bad) d d := fun s => by
  change execControlFlit b bad _ = _
  simp only [execControlFlit, onDev, hdown, Bool.false_eq_true, if_false]

end PortLanes

/-! ### Flits -/

section Flits
variable {b : Fin 8} {f : FlitIn} {ack : Nat} {u : List (Fin 9)} {d : Device}

/-- A flit whose CRC is good and whose tag is not. -/
abbrev tagBad (d : Device) (b : Fin 8) (f : FlitIn) : Prop := (d.portAt b).encEn = true ∧ f.crcOk = true ∧ f.tagOk = false

theorem tagBad_iff : ((d.portAt b).encEn && f.crcOk && !f.tagOk) = true ↔ tagBad d b f := by
  simp only [Bool.and_eq_true, Bool.not_eq_true', and_assoc]

/-- A flit that is discarded: its CRC or tag fails, or it is out of sequence. -/
theorem flitBad_iff : (!f.crcOk || ((d.portAt b).encEn && f.crcOk && !f.tagOk) || f.seq != (d.portAt b).rxSeq) = true ↔
    f.crcOk = false ∨ tagBad d b f ∨ f.seq ≠ (d.portAt b).rxSeq := by
  simp only [Bool.or_eq_true, Bool.not_eq_true', tagBad_iff, bne_iff_ne, or_assoc]

theorem takes_bundFlit_discarded (hc : carries d b = true) (h : f.crcOk = false ∨ tagBad d b f ∨ f.seq ≠ (d.portAt b).rxSeq) :
    Takes (.bundFlit b f) d ((if tagBad d b f then d.countTag b else d).sendNak b) := fun s => by
  change execBundFlit b f _ = _
  simp only [execBundFlit, onDev, hc, Bool.not_true, Bool.false_eq_true, if_false, if_pos (flitBad_iff.mpr h), tagBad_iff]

theorem takes_bundFlit_taken (hc : carries d b = true) (h : ¬(f.crcOk = false ∨ tagBad d b f ∨ f.seq ≠ (d.portAt b).rxSeq)) {d1 d2 : Device}
    (h1 : d.updPort b (fun p => p.took f) = d1) (h2 : d1.drain b = d2) : Takes (.bundFlit b f) d
    (if f.kind = 0 ∧ (d2.portAt b).flitCount = (d1.portAt b).flitCount then d2.emitPlain b 1 [] else d2) := fun s => by
  change execBundFlit b f _ = _
  simp only [execBundFlit, onDev, hc, Bool.not_true, Bool.false_eq_true, if_false, if_neg (flitBad_iff.not.mpr h), h1, h2]

theorem takes_nak (hc : carries d b = true) : Takes (.nak b ack) d (((d.updPort b (fun p => p.acked ack)).resendFlits b).drain b) := fun s => by
  change execNak b ack _ = _
  simp only [execNak, onDev, hc, if_true]

theorem takes_flitResendLimit (hc : carries d b = true) (hn : 16 ≤ (d.portAt b).resends) {d1 : Device}
    (h1 : d.updPort b (fun p => { p with resends := 0 }) = d1) : Takes (.flitResendLimit b u) d
    ((u.foldl (fun e l => e.laneFaulty b l.val)
      (if u.isEmpty then d1 else d1.sendFaults b (u.foldl (fun (m : BitVec 9) l => m ||| (1#9 <<< l.val)) (d.portAt b).bad))).updPort b
        (fun p => if p.state = .down then p else { p with state := .training })) := fun s => by
  change execFlitResendLimit b u _ = _
  simp only [execFlitResendLimit, onDev, hc, decide_eq_true hn, Bool.and_self, if_true, h1]

theorem takes_flitResendLimit_fewer (hn : (d.portAt b).resends < 16) : Takes (.flitResendLimit b u) d d := fun s => by
  change execFlitResendLimit b u _ = _
  simp only [execFlitResendLimit, onDev, decide_eq_false (Nat.not_le.mpr hn), Bool.and_false, Bool.false_eq_true, if_false]

theorem takes_flits_ignored (hc : carries d b = false) :
    Takes (.bundFlit b f) d d ∧ Takes (.nak b ack) d d ∧ Takes (.flitResendLimit b u) d d := by
  refine ⟨fun s => ?flit, fun s => ?nak, fun s => ?limit⟩
  case flit => change execBundFlit b f _ = _; simp only [execBundFlit, onDev, hc, Bool.not_false, if_true]
  case nak => change execNak b ack _ = _; simp only [execNak, onDev, hc, Bool.false_eq_true, if_false]
  case limit => change execFlitResendLimit b u _ = _; simp only [execFlitResendLimit, onDev, hc, Bool.false_and, Bool.false_eq_true, if_false]

end Flits

/-! ### Retraining, authentication, keys -/

section Ports
variable {b : Fin 8} {enc : Bool} {d : Device}

/-- A port that does not end its training: of the link, at a width, with the other end's ENC_EN (13 R356, R360). -/
theorem retrainBarred_iff : (!linkUp d b || (d.portAt b).state != .training || (d.portAt b).width == .down || (d.portAt b).encEn != enc) = true ↔
    linkUp d b = false ∨ (d.portAt b).state ≠ .training ∨ (d.portAt b).width = .down ∨ (d.portAt b).encEn ≠ enc := by
  simp only [Bool.or_eq_true, Bool.not_eq_true', bne_iff_ne, beq_iff_eq, or_assoc]

theorem takes_portRetrain (hup : linkUp d b = true) (hst : (d.portAt b).state = .training) (hw : (d.portAt b).width ≠ .down)
    (henc : (d.portAt b).encEn = enc) {d1 : Device} (h1 : d.updPort b (fun q => { q with state := q.width, pendFaults := [] }) = d1) :
    Takes (.portRetrain b enc) d (if (d.portAt b).pendFaults.isEmpty then (d1.resendFlits b).drain b
      else (d.portAt b).pendFaults.foldl (fun e l => e.foundFaulty b l) d1) := fun s => by
  have hno := (retrainBarred_iff (d := d) (b := b) (enc := enc)).not.mpr (by simp [hup, hst, hw, henc])
  change execPortRetrain b enc _ = _
  simp only [execPortRetrain, onDev, if_neg hno, h1]

theorem takes_portRetrain_ignored
    (h : linkUp d b = false ∨ (d.portAt b).state ≠ .training ∨ (d.portAt b).width = .down ∨ (d.portAt b).encEn ≠ enc) :
    Takes (.portRetrain b enc) d d := fun s => by
  change execPortRetrain b enc _ = _
  simp only [execPortRetrain, onDev, if_pos (retrainBarred_iff.mpr h)]

/-- The tag mismatches of a port within the last 1 ms. -/
abbrev lateMismatches (d : Device) (b : Fin 8) : Nat := ((d.portAt b).mismatches.filter (fun t => decide (d.tide.now < t + 1000000))).length

theorem takes_bndAuth (hup : linkUp d b = true) (hn : 8 ≤ lateMismatches d b) : Takes (.bndAuth b) d
    ((((d.updPort b (fun q => { q with dead := true, mismatches := [] })).portDown b).noteRetire (retireReg d)).logLockdown (srcPort b) 0x0702 [b]) :=
  fun s => by
  change execBndAuth b _ = _
  simp only [execBndAuth, onDev, hup, decide_eq_true hn, Bool.and_self, if_true]

theorem takes_bndAuth_ignored (h : linkUp d b = false ∨ ¬8 ≤ lateMismatches d b) : Takes (.bndAuth b) d d := fun s => by
  have hno : (linkUp d b && decide (8 ≤ lateMismatches d b)) = false := Bool.and_eq_false_iff.mpr (h.imp_right decide_eq_false)
  change execBndAuth b _ = _
  simp only [execBndAuth, onDev, hno, Bool.false_eq_true, if_false]

theorem keyInstalls_iff : (d.inp.stage == .served && decide (d.sec.level < 2) && !d.sec.zeroised) = true ↔
    d.inp.stage = .served ∧ d.sec.level < 2 ∧ d.sec.zeroised = false := by
  simp only [Bool.and_eq_true, beq_iff_eq, decide_eq_true_eq, Bool.not_eq_true', and_assoc]

theorem takes_keyEpochInstall (hs : d.inp.stage = .served) (hl : d.sec.level < 2) (hz : d.sec.zeroised = false) : Takes (.keyEpochInstall b) d
    ((({ d with free := d.free + 1 } : Device).updPort b (fun p => { p with
      keyEpoch := (p.keyEpoch + 1) % 2 ^ 32, keyed := true, key := if p.keyed then p.key else d.free, flitCount := 0 })).drain b) := fun s => by
  change execKeyEpochInstall b _ = _
  simp only [execKeyEpochInstall, onDev, if_pos (keyInstalls_iff.mpr ⟨hs, hl, hz⟩)]

theorem takes_keyEpochInstall_ignored (h : d.inp.stage ≠ .served ∨ 2 ≤ d.sec.level ∨ d.sec.zeroised = true) :
    Takes (.keyEpochInstall b) d d := fun s => by
  have hno : ¬(d.inp.stage = .served ∧ d.sec.level < 2 ∧ d.sec.zeroised = false) := by
    rintro ⟨hs, hl, hz⟩
    rcases h with h | h | h
    · exact h hs
    · omega
    · exact absurd h (by simp [hz])
  change execKeyEpochInstall b _ = _
  simp only [execKeyEpochInstall, onDev, if_neg (keyInstalls_iff.not.mpr hno)]

end Ports

/-- Settles O44: each command on a port that is up or carries flits, and on one that does not. -/
theorem bundPorts : Obligations.BundPorts := by
  unfold Obligations.BundPorts
  refine ⟨?lane, ?laneIdle, ?control, ?controlIdle, ?flitBad, ?flitGood, ?nak, ?flitsIdle, ?limit, ?limitFewer, ?retrain, ?retrainIdle,
    ?auth, ?authIdle, ?key, ?keyIdle⟩
  case lane => exact fun b l d => takes_laneFault
  case laneIdle => exact fun b l d => takes_laneFault_ignored
  case control => exact fun b bad d => takes_controlFlit
  case controlIdle => exact fun b bad d => takes_controlFlit_ignored
  case flitBad => exact fun b f d => takes_bundFlit_discarded
  case flitGood =>
    intro b f d hc hcrc htag hseq
    have hgood : ¬(f.crcOk = false ∨ tagBad d b f ∨ f.seq ≠ (d.portAt b).rxSeq) := by
      rintro (h | ⟨henc, -, hbad⟩ | h)
      · exact absurd hcrc (by simp [h])
      · simp [henc, hbad] at htag
      · exact h hseq
    exact takes_bundFlit_taken hc hgood rfl rfl
  case nak => exact fun b ack d => takes_nak
  case flitsIdle => exact fun b f ack u d => takes_flits_ignored
  case limit => exact fun b u d hc hn => takes_flitResendLimit hc hn rfl
  case limitFewer => exact fun b u d => takes_flitResendLimit_fewer
  case retrain => exact fun b enc d hup hst hw henc => takes_portRetrain hup hst hw henc rfl
  case retrainIdle => exact fun b enc d => takes_portRetrain_ignored
  case auth => exact fun b d => takes_bndAuth
  case authIdle => exact fun b d => takes_bndAuth_ignored
  case key => exact fun b d => takes_keyEpochInstall
  case keyIdle => exact fun b d => takes_keyEpochInstall_ignored

end Sys2Proof.Machine
end

section
/-! PROOFS. The Quay transport: what the port does with a frame before its command's own work, then the work of each packet, the timer and the port
(13 R372 to R378; 15 R393, R398, R399; log entry 24). -/
namespace Sys2Proof.Machine

/-! ### A frame at the port: `Device.arrive` -/

section Arrival
variable {d : Device} {typ op : Nat} {k : Packet} {g : Device → Device}

@[simp] theorem Device.pfcSend_mtu (d : Device) (k : Packet) : (d.pfcSend k).eth.mtu = d.eth.mtu := by
  simp only [Device.pfcSend]
  split_ifs <;> rfl

theorem frameFits_of_good (hgood : badPacket (d.pfcSend k) k = false) : ¬d.eth.mtu < frameBytes k := by
  rw [badPacket, Bool.or_eq_false_iff, Device.pfcSend_mtu] at hgood
  obtain ⟨-, hmtu⟩ := hgood
  exact of_decide_eq_false hmtu

theorem forQuay_mac (hq : forQuay d k = true) : k.mac = d.fuses.mac := by
  simp only [forQuay, Bool.and_eq_true, beq_iff_eq] at hq
  obtain ⟨⟨⟨hmac, -⟩, -⟩, -⟩ := hq
  exact hmac

theorem arrive_barred (h : hostUp d = false ∨ k.mac ≠ d.fuses.mac) : d.arrive typ op k g = d := by
  have hno : (!hostUp d || k.mac != d.fuses.mac) = true := by simpa using h
  simp only [Device.arrive, hno, if_true]

section Up
variable (hup : hostUp d = true)
include hup

theorem arrive_oversized (hmac : k.mac = d.fuses.mac) (hlong : d.eth.mtu < frameBytes k) : d.arrive typ op k g = (d.pfcSend k).dropPacket := by
  simp only [Device.arrive, hup, hmac, hlong, bne_self_eq_false, Bool.not_true, Bool.or_self, Bool.false_eq_true, if_false, decide_true, if_true]

theorem arrive_foreign (hmac : k.mac = d.fuses.mac) (hfits : frameBytes k ≤ d.eth.mtu) (hq : forQuay d k = false) :
    d.arrive typ op k g = d.pfcSend k := by
  simp only [Device.arrive, hup, hmac, Nat.not_lt.mpr hfits, hq, bne_self_eq_false, Bool.not_true, Bool.not_false, Bool.or_self, Bool.false_eq_true,
    if_false, decide_false, if_true]

theorem arrive_bad (hq : forQuay d k = true) (hbad : badPacket (d.pfcSend k) k = true) : d.arrive typ op k g = (d.pfcSend k).dropPacket := by
  simp only [Device.arrive, hup, forQuay_mac hq, hq, hbad, bne_self_eq_false, Bool.not_true, Bool.or_self, Bool.false_eq_true,
    if_false, if_true, ite_self]

theorem arrive_good (hq : forQuay d k = true) (hgood : badPacket (d.pfcSend k) k = false) :
    d.arrive typ op k g = if k.typ != typ || k.op != op then d.pfcSend k else g (d.pfcSend k) := by
  simp only [Device.arrive, hup, forQuay_mac hq, frameFits_of_good hgood, hq, hgood, bne_self_eq_false, Bool.not_true, Bool.or_self,
    Bool.false_eq_true, if_false, decide_false]

theorem arrive_other (hq : forQuay d k = true) (hgood : badPacket (d.pfcSend k) k = false) (h : k.typ ≠ typ ∨ k.op ≠ op) :
    d.arrive typ op k g = d.pfcSend k := by
  rw [arrive_good hup hq hgood, if_pos (by simpa using h)]

theorem arrive_own (hq : forQuay d k = true) (hgood : badPacket (d.pfcSend k) k = false) (ht : k.typ = typ) (ho : k.op = op) :
    d.arrive typ op k g = g (d.pfcSend k) := by
  rw [arrive_good hup hq hgood, if_neg (by simp [ht, ho])]

end Up

end Arrival

/-! ### What each packet's command does on its flow -/

/-- The work of a DATA packet of this OP, once the port has taken it (13 R374, R375). -/
def dataWork (op : Nat) (k : Packet) (hit : Option Hit) (d : Device) : Device :=
  match d.flowAt k.flow with
  | none => d.dropPacket
  | some f =>
    match openPacket f k with
    | none => d
    | some x =>
      if x.psn < f.rxPsn then (d.note x).sendAck x.flow
      else if x.psn = f.rxPsn then
        let g := (d.note x).applyInOrder op x hit (f.early.length + 1)
        if (g.flowAt x.flow).any (fun h => decide (f.rxPsn < h.rxPsn)) then g.sendAck x.flow else g
      else if unreached (d.note x) f op x then (d.note x).dropPacket
      else if 16777216 < sumNat (f.early.map (fun e => e.2.data.length)) + x.data.length then d.note x
      else ((d.note x).updFlow x.flow (fun g =>
        { g with early := if g.early.any (fun e => e.2.psn == x.psn) then g.early else g.early ++ [(op, x)] })).sendSack x.flow

/-- The work of a packet without data, once the port has taken it: g, on its open flow. -/
def controlWork (k : Packet) (g : Device → Device) (d : Device) : Device :=
  match d.flowAt k.flow with
  | none => d.dropPacket
  | some f => if (openPacket f k).isSome then g (d.note k) else d

/-- The work of an OPEN, once the port has taken it (13 R374). -/
def openWork (k : Packet) (d : Device) : Device :=
  match d.flowAt k.flow with
  | some _ => d.answerFlow k.flow 4 stOk
  | none =>
    if 1024 ≤ d.quy.flows.length then d.answerFlow k.flow 4 0x0706
    else ({ d with quy := { d.quy with flows := d.quy.flows ++ [{ id := k.flow, v6 := k.v6, tagged := k.vlan.isSome }] } } : Device).answerFlow
      k.flow 4 stOk

/-- The work of an ACK on its flow (13 R377). -/
def ackWork (k : Packet) (d : Device) : Device :=
  (d.updFlow k.flow (fun f => f.adjust (d.pieceOf k.flow) k.ackPsn (bitOf k.flags 1))).pushFlow k.flow

/-- A flow's packets after a SACK: the window moves, and what the ranges hold is acknowledged (13 R375). -/
def sacked (k : Packet) (r : List (Nat × Nat)) (d : Device) : Device :=
  d.updFlow k.flow (fun h => { h.adjust (d.pieceOf k.flow) k.ackPsn (bitOf k.flags 1) with unacked := h.unacked.filter (fun u => !inRanges r u.psn) })

/-- The work of a SACK on its flow: a gap followed by three acknowledged packets is sent again (13 R375). -/
def sackWork (k : Packet) (r : List (Nat × Nat)) (d : Device) : Device :=
  match (sacked k r d).flowAt k.flow with
  | some f => (sacked k r d).resend k.flow (f.unacked.filter (fun u => u.sent && decide (3 ≤ laterThan r u.psn)))
  | none => sacked k r d

section Work
variable {d : Device} {op : Nat} {k x : Packet} {r : List (Nat × Nat)} {f : Flow} {hit : Option Hit} {g : Device → Device}

theorem dataWork_no_flow (hf : d.flowAt k.flow = none) : dataWork op k hit d = d.dropPacket := by simp only [dataWork, hf]

theorem dataWork_sealed (hf : d.flowAt k.flow = some f) (ho : openPacket f k = none) : dataWork op k hit d = d := by simp only [dataWork, hf, ho]

theorem controlWork_no_flow (hf : d.flowAt k.flow = none) : controlWork k g d = d.dropPacket := by simp only [controlWork, hf]

theorem controlWork_sealed (hf : d.flowAt k.flow = some f) (ho : openPacket f k = none) : controlWork k g d = d := by
  simp only [controlWork, hf, ho, Option.isSome_none, Bool.false_eq_true, if_false]

theorem controlWork_opened (hf : d.flowAt k.flow = some f) (ho : openPacket f k = some x) : controlWork k g d = g (d.note k) := by
  simp only [controlWork, hf, ho, Option.isSome_some, if_true]

section Opened
variable (hf : d.flowAt k.flow = some f) (ho : openPacket f k = some x)
include hf ho

theorem dataWork_in_turn (hp : x.psn = f.rxPsn) {e : Device} (he : (d.note x).applyInOrder op x hit (f.early.length + 1) = e) :
    dataWork op k hit d = if (e.flowAt x.flow).any (fun h => decide (f.rxPsn < h.rxPsn)) then e.sendAck x.flow else e := by
  simp only [dataWork, hf, ho, hp, Nat.lt_irrefl, if_false, if_true, he]

theorem dataWork_past (hp : x.psn < f.rxPsn) : dataWork op k hit d = (d.note x).sendAck x.flow := by simp only [dataWork, hf, ho, hp, if_true]

theorem dataWork_unreached (hp : f.rxPsn < x.psn) (hu : unreached (d.note x) f op x = true) : dataWork op k hit d = (d.note x).dropPacket := by
  simp only [dataWork, hf, ho, Nat.lt_asymm hp, hp.ne', hu, if_false, if_true]

theorem dataWork_early (hp : f.rxPsn < x.psn) (hu : unreached (d.note x) f op x = false) : dataWork op k hit d =
    if 16777216 < sumNat (f.early.map (fun e => e.2.data.length)) + x.data.length then d.note x
    else ((d.note x).updFlow x.flow (fun g =>
      { g with early := if g.early.any (fun e => e.2.psn == x.psn) then g.early else g.early ++ [(op, x)] })).sendSack x.flow := by
  simp only [dataWork, hf, ho, Nat.lt_asymm hp, hp.ne', hu, Bool.false_eq_true, if_false]

end Opened

theorem sackWork_of_flow (hf : (sacked k r d).flowAt k.flow = some f) :
    sackWork k r d = (sacked k r d).resend k.flow (f.unacked.filter (fun u => u.sent && decide (3 ≤ laterThan r u.psn))) := by
  simp only [sackWork, hf]

theorem openWork_eq (k : Packet) (d : Device) : openWork k d = if (d.flowAt k.flow).isSome then d.answerFlow k.flow 4 stOk
    else if 1024 ≤ d.quy.flows.length then d.answerFlow k.flow 4 0x0706
    else ({ d with quy := { d.quy with flows := d.quy.flows ++ [{ id := k.flow, v6 := k.v6, tagged := k.vlan.isSome }] } } : Device).answerFlow
      k.flow 4 stOk := by
  cases hf : d.flowAt k.flow with
  | none => simp only [openWork, hf, Option.isSome_none, Bool.false_eq_true, if_false]
  | some f => simp only [openWork, hf, Option.isSome_some, if_true]

end Work

/-! ### The eight packet commands -/

section Exec
variable {k : Packet} {r : List (Nat × Nat)} {hit : Option Hit} (s : State)

theorem exec_qtWrite : exec (.qtWrite k) s = onDev s (fun d => d.arrive 1 1 k (dataWork 1 k none)) := rfl
theorem exec_qtReadReq : exec (.qtReadReq k hit) s = onDev s (fun d => d.arrive 1 2 k (dataWork 2 k hit)) := rfl
theorem exec_qtReadResp : exec (.qtReadResp k) s = onDev s (fun d => d.arrive 1 3 k (dataWork 3 k none)) := rfl
theorem exec_ack : exec (.ack k) s = onDev s (fun d => d.arrive 2 0 k (controlWork k (ackWork k))) := rfl
theorem exec_sack : exec (.sack k r) s = onDev s (fun d => d.arrive 3 0 k (controlWork k (sackWork k r))) := rfl
theorem exec_openFlow : exec (.openFlow k) s = onDev s (fun d => d.arrive 4 0 k (openWork k)) := rfl
theorem exec_closeFlow :
    exec (.closeFlow k) s = onDev s (fun d => d.arrive 5 0 k (controlWork k (fun d => (d.answerFlow k.flow 5 stOk).dropFlow k.flow))) := rfl
theorem exec_probe : exec (.probe k) s = onDev s (fun d => d.arrive 6 0 k (controlWork k (fun d => d.sendAck k.flow))) := rfl

end Exec

/-- The work of a packet that needs an open flow: without one the packet is dropped, and one that does not open under the flow's key changes nothing
(13 R374, R376). -/
structure NeedsFlow (k : Packet) (g : Device → Device) : Prop where
  noFlow : ∀ {d : Device}, d.flowAt k.flow = none → g d = d.dropPacket
  unopened : ∀ {d : Device} {f : Flow}, d.flowAt k.flow = some f → openPacket f k = none → g d = d

theorem needsFlow_dataWork (op : Nat) (k : Packet) (hit : Option Hit) : NeedsFlow k (dataWork op k hit) := ⟨dataWork_no_flow, dataWork_sealed⟩

theorem needsFlow_controlWork (k : Packet) (g : Device → Device) : NeedsFlow k (controlWork k g) := ⟨controlWork_no_flow, controlWork_sealed⟩

section Commands
variable {c : Instr} {d e : Device} {typ op : Nat} {k x : Packet} {r : List (Nat × Nat)} {hit : Option Hit} {f : Flow} {g : Device → Device}

/-- The commands of the transport's packets, each with the TYPE and OP of its packets. -/
abbrev packetCommands (k : Packet) (r : List (Nat × Nat)) (hit : Option Hit) : List (Instr × Nat × Nat) :=
  [(.qtWrite k, 1, 1), (.qtReadReq k hit, 1, 2), (.qtReadResp k, 1, 3), (.ack k, 2, 0), (.sack k r, 3, 0), (.openFlow k, 4, 0), (.closeFlow k, 5, 0),
    (.probe k, 6, 0)]

/-- Each packet command is a frame's arrival with a work of its own, which needs an open flow for every TYPE but OPEN's. -/
theorem packetCommand_arrives (h : (c, typ, op) ∈ packetCommands k r hit) :
    ∃ g, (∀ s, exec c s = onDev s (fun d => d.arrive typ op k g)) ∧ (typ ≠ 4 → NeedsFlow k g) := by
  simp only [packetCommands, List.mem_cons, List.not_mem_nil, or_false, Prod.mk.injEq] at h
  obtain ⟨rfl, rfl, rfl⟩ | ⟨rfl, rfl, rfl⟩ | ⟨rfl, rfl, rfl⟩ | ⟨rfl, rfl, rfl⟩ | ⟨rfl, rfl, rfl⟩ | ⟨rfl, rfl, rfl⟩ | ⟨rfl, rfl, rfl⟩ |
    ⟨rfl, rfl, rfl⟩ := h
  · exact ⟨_, exec_qtWrite, fun _ => needsFlow_dataWork 1 k none⟩
  · exact ⟨_, exec_qtReadReq, fun _ => needsFlow_dataWork 2 k hit⟩
  · exact ⟨_, exec_qtReadResp, fun _ => needsFlow_dataWork 3 k none⟩
  · exact ⟨_, exec_ack, fun _ => needsFlow_controlWork k _⟩
  · exact ⟨_, exec_sack, fun _ => needsFlow_controlWork k _⟩
  · exact ⟨_, exec_openFlow, fun h => absurd rfl h⟩
  · exact ⟨_, exec_closeFlow, fun _ => needsFlow_controlWork k _⟩
  · exact ⟨_, exec_probe, fun _ => needsFlow_controlWork k _⟩

theorem takes_arrival (hexec : ∀ s, exec c s = onDev s (fun d => d.arrive typ op k g)) (he : d.arrive typ op k g = e) : Takes c d e := fun s => by
  rw [hexec, onDev, he]

/-- A packet command whose frame goes no further than the port. -/
theorem takes_packetCommand (h : (c, typ, op) ∈ packetCommands k r hit) (he : ∀ g, d.arrive typ op k g = e) : Takes c d e := by
  obtain ⟨g, hexec, -⟩ := packetCommand_arrives h
  exact takes_arrival hexec (he g)

/-- A packet command, but OPEN's, whose packet finds no open flow or does not open under its key. -/
theorem takes_packetCommand_on_flow (h : (c, typ, op) ∈ packetCommands k r hit) (h4 : typ ≠ 4) (hup : hostUp d = true) (hq : forQuay d k = true)
    (hgood : badPacket (d.pfcSend k) k = false) (ht : k.typ = typ) (ho : k.op = op) (he : ∀ g, NeedsFlow k g → g (d.pfcSend k) = e) :
    Takes c d e := by
  obtain ⟨g, hexec, hflow⟩ := packetCommand_arrives h
  exact takes_arrival hexec ((arrive_own hup hq hgood ht ho).trans (he g (hflow h4)))

theorem arrive_received (h : Received d e typ op k f x) : d.arrive typ op k g = g e := by
  obtain ⟨hup, hq, rfl, hgood, ht, ho, -, -⟩ := h
  exact arrive_own hup hq hgood ht ho

theorem received_flow (h : Received d e typ op k f x) : e.flowAt k.flow = some f := by
  obtain ⟨-, -, -, -, -, -, hf, -⟩ := h
  exact hf

theorem received_opens (h : Received d e typ op k f x) : openPacket f k = some x := by
  obtain ⟨-, -, -, -, -, -, -, hx⟩ := h
  exact hx

section Data
variable (hexec : ∀ s, exec c s = onDev s (fun d => d.arrive 1 op k (dataWork op k hit))) (h : Received d e 1 op k f x)
include hexec h

theorem takes_data_in_turn (hp : x.psn = f.rxPsn) {g : Device} (hg : (e.note x).applyInOrder op x hit (f.early.length + 1) = g) :
    Takes c d (if (g.flowAt x.flow).any (fun h => decide (f.rxPsn < h.rxPsn)) then g.sendAck x.flow else g) :=
  takes_arrival hexec ((arrive_received h).trans (dataWork_in_turn (received_flow h) (received_opens h) hp hg))

theorem takes_data_past (hp : x.psn < f.rxPsn) : Takes c d ((e.note x).sendAck x.flow) :=
  takes_arrival hexec ((arrive_received h).trans (dataWork_past (received_flow h) (received_opens h) hp))

theorem takes_data_unreached (hp : f.rxPsn < x.psn) (hu : unreached (e.note x) f op x = true) : Takes c d (e.note x).dropPacket :=
  takes_arrival hexec ((arrive_received h).trans (dataWork_unreached (received_flow h) (received_opens h) hp hu))

theorem takes_data_early (hp : f.rxPsn < x.psn) (hu : unreached (e.note x) f op x = false) : Takes c d
    (if 16777216 < sumNat (f.early.map (fun e => e.2.data.length)) + x.data.length then e.note x
      else ((e.note x).updFlow x.flow (fun g =>
        { g with early := if g.early.any (fun e => e.2.psn == x.psn) then g.early else g.early ++ [(op, x)] })).sendSack x.flow) :=
  takes_arrival hexec ((arrive_received h).trans (dataWork_early (received_flow h) (received_opens h) hp hu))

end Data

theorem takes_control (hexec : ∀ s, exec c s = onDev s (fun d => d.arrive typ op k (controlWork k g))) (h : Received d e typ op k f x) :
    Takes c d (g (e.note k)) :=
  takes_arrival hexec ((arrive_received h).trans (controlWork_opened (received_flow h) (received_opens h)))

theorem takes_openFlow (hup : hostUp d = true) (hq : forQuay d k = true) (hgood : badPacket (d.pfcSend k) k = false) (ht : k.typ = 4) (ho : k.op = 0)
    (he : openWork k (d.pfcSend k) = e) : Takes (.openFlow k) d e :=
  takes_arrival exec_openFlow ((arrive_own hup hq hgood ht ho).trans he)

end Commands

/-! ### The timer, the port and a mailbox's message -/

section Port
variable {d : Device} {flow addr : Nat} {data : List Nat} {f : Flow} {u : TxPacket} {paused : BitVec 8} {cr : Bool}

theorem takes_qtRetxTimer (hup : hostUp d = true) (hf : d.flowAt flow = some f) (hu : f.unacked.find? (fun u => u.sent) = some u) :
    Takes (.qtRetxTimer flow) d (if 11 ≤ f.expiries then d.failFlow f
      else (d.updFlow flow (fun g => { g with expiries := g.expiries + 1 })).resend flow [u]) := fun s => by
  change execQtRetxTimer flow _ = _
  simp only [execQtRetxTimer, onDev, hup, if_true, hf, hu]

theorem takes_qtRetxTimer_ignored (h : hostUp d = false ∨ ∀ f, d.flowAt flow = some f → f.unacked.find? (fun u => u.sent) = none) :
    Takes (.qtRetxTimer flow) d d := fun s => by
  change execQtRetxTimer flow _ = _
  cases hup : hostUp d with
  | false => simp only [execQtRetxTimer, onDev, hup, Bool.false_eq_true, if_false]
  | true =>
    cases hf : d.flowAt flow with
    | none => simp only [execQtRetxTimer, onDev, hup, if_true, hf]
    | some f =>
      have hnone : f.unacked.find? (fun u => u.sent) = none := h.resolve_left (by simp [hup]) f hf
      simp only [execQtRetxTimer, onDev, hup, if_true, hf, hnone]

theorem takes_pfcPauseFrame (hup : hostUp d = true) : Takes (.pfcPauseFrame paused) d
    ({ d with eth := { d.eth with paused := paused &&& BitVec.ofNat 8 d.eth.pfcEn } } : Device).pushAll := fun s => by
  change execPfcPauseFrame paused _ = _
  simp only [execPfcPauseFrame, onDev, hup, if_true]

theorem takes_pfcPauseFrame_ignored (hdown : hostUp d = false) : Takes (.pfcPauseFrame paused) d d := fun s => by
  change execPfcPauseFrame paused _ = _
  simp only [execPfcPauseFrame, onDev, hdown, Bool.false_eq_true, if_false]

theorem takes_hostPortLinkUp (hs : d.inp.stage = .served) (he : d.eth.state = 1) : Takes (.hostPortLinkUp cr) d
    ({ d with eth := { d.eth with state := 2, cr := cr, fecLock := true } } : Device).pushAll := fun s => by
  change execHostPortLinkUp cr _ = _
  simp only [execHostPortLinkUp, onDev, hs, he, beq_self_eq_true, Bool.and_self, if_true]

theorem takes_hostPortLinkUp_ignored (h : d.inp.stage ≠ .served ∨ d.eth.state ≠ 1) : Takes (.hostPortLinkUp cr) d d := fun s => by
  have hno : (d.inp.stage == .served && d.eth.state == 1) = false :=
    Bool.and_eq_false_iff.mpr (h.imp beq_eq_false_iff_ne.mpr beq_eq_false_iff_ne.mpr)
  change execHostPortLinkUp cr _ = _
  simp only [execHostPortLinkUp, onDev, hno, Bool.false_eq_true, if_false]

/-- What is left of a device by a message in its turn: a discarded one is counted. -/
def Applied.counted (d : Device) : Applied → Device
  | .done e => e
  | .waits e => e
  | .discarded => d.dropPacket

theorem takes_mailboxPost (hup : hostUp d = true) (hf : d.flowAt flow = some f) :
    Takes (.mailboxPost flow addr data) d ((transportWrite d f true addr data).counted d) := fun s => by
  change execMailboxPost flow addr data _ = _
  cases ht : transportWrite d f true addr data <;> simp only [execMailboxPost, onDev, hup, if_true, hf, ht, Applied.counted, Device.dropPacket]

theorem takes_mailboxPost_ignored (h : hostUp d = false ∨ d.flowAt flow = none) : Takes (.mailboxPost flow addr data) d d := fun s => by
  have hno : (if hostUp d = true then d.flowAt flow else none) = none := by
    rcases h with h | h <;> simp only [h, Bool.false_eq_true, if_false, ite_self]
  change execMailboxPost flow addr data _ = _
  simp only [execMailboxPost, onDev, hno]

end Port

/-- Settles O45: a frame stops at the port, at its flow, or is the work of its command; the timer and the port's own commands stand apart. -/
theorem quayTransport : Obligations.QuayTransport := by
  unfold Obligations.QuayTransport
  refine ⟨?barred, ?oversized, ?foreign, ?bad, ?other, ?flowless, ?sealed, ?write, ?writePast, ?writeUnreached, ?writeEarly, ?read, ?readPast,
    ?readUnreached, ?readEarly, ?resp, ?respPast, ?respEarly, ?ack, ?sack, ?opened, ?close, ?probe, ?timer, ?timerIdle, ?pause, ?pauseIdle, ?link,
    ?linkIdle, ?post, ?postIdle⟩
  case barred => exact fun c typ op k r hit d hc h => takes_packetCommand hc fun g => arrive_barred h
  case oversized => exact fun c typ op k r hit d hc hup hmac hlong => takes_packetCommand hc fun g => arrive_oversized hup hmac hlong
  case foreign => exact fun c typ op k r hit d hc hup hmac hfits hq => takes_packetCommand hc fun g => arrive_foreign hup hmac hfits hq
  case bad => exact fun c typ op k r hit d hc hup hq hbad => takes_packetCommand hc fun g => arrive_bad hup hq hbad
  case other => exact fun c typ op k r hit d hc hup hq hgood h => takes_packetCommand hc fun g => arrive_other hup hq hgood h
  case flowless =>
    exact fun c typ op k r hit d hc h4 hup hq hgood ht ho hf => takes_packetCommand_on_flow hc h4 hup hq hgood ht ho fun g hg => hg.noFlow hf
  case sealed =>
    exact fun c typ op k r hit f d hc h4 hup hq hgood ht ho hf hx =>
      takes_packetCommand_on_flow hc h4 hup hq hgood ht ho fun g hg => hg.unopened hf hx
  case write => exact fun k x f d e h hp => takes_data_in_turn exec_qtWrite h hp rfl
  case writePast => exact fun k x f d e h hp => takes_data_past exec_qtWrite h hp
  case writeUnreached => exact fun k x f d e h hp hu => takes_data_unreached exec_qtWrite h hp hu
  case writeEarly => exact fun k x f d e h hp hu => takes_data_early exec_qtWrite h hp hu
  case read => exact fun k x f hit d e h hp => takes_data_in_turn exec_qtReadReq h hp rfl
  case readPast => exact fun k x f hit d e h hp => takes_data_past exec_qtReadReq h hp
  case readUnreached => exact fun k x f hit d e h hp hu => takes_data_unreached exec_qtReadReq h hp hu
  case readEarly => exact fun k x f hit d e h hp hu => takes_data_early exec_qtReadReq h hp hu
  case resp => exact fun k x f d e h hp => takes_data_in_turn exec_qtReadResp h hp rfl
  case respPast => exact fun k x f d e h hp => takes_data_past exec_qtReadResp h hp
  case respEarly => exact fun k x f d e h hp => takes_data_early exec_qtReadResp h hp rfl
  case ack => exact fun k x f d e h => takes_control exec_ack h
  case sack => exact fun k x r f g d e h hg => sackWork_of_flow hg ▸ takes_control exec_sack h
  case opened => exact fun k d hup hq hgood ht ho => takes_openFlow hup hq hgood ht ho (openWork_eq k _)
  case close => exact fun k x f d e h => takes_control exec_closeFlow h
  case probe => exact fun k x f d e h => takes_control exec_probe h
  case timer => exact fun flow f u d => takes_qtRetxTimer
  case timerIdle => exact fun flow d => takes_qtRetxTimer_ignored
  case pause => exact fun p d => takes_pfcPauseFrame
  case pauseIdle => exact fun p d => takes_pfcPauseFrame_ignored
  case link => exact fun cr d => takes_hostPortLinkUp
  case linkIdle => exact fun cr d => takes_hostPortLinkUp_ignored
  case post => exact fun flow addr data f d => takes_mailboxPost
  case postIdle => exact fun flow addr data d => takes_mailboxPost_ignored

end Sys2Proof.Machine
end

section
/-! PROOFS. The step as a whole: every command answers a device of its own, whatever waits (log entry 31), and keeps a legal device legal
(14 R379; 17 R460, R464, R469; 18 R500). -/
namespace Sys2Proof.Machine

/-! ### Every command is a change of the device -/

/-- The device that command c makes of device d. -/
def Instr.after (c : Instr) (d : Device) : Device :=
  match exec c { dev := d, pending := [] } with
  | .next t => t.dev
  | _ => d

/-- No meaning faults, is refused, reads the queue or changes it. -/
theorem takes_after (c : Instr) (d : Device) : Takes c d (Instr.after c d) := fun _ => by
  cases c <;> rfl

theorem step_of_command (c : Instr) (rest : List Instr) (d : Device) :
    step { dev := d, pending := c :: rest } = exec c { dev := d, pending := rest } := rfl

theorem step_of_takes {c : Instr} {d e : Device} (rest : List Instr) (h : Takes c d e) :
    step { dev := d, pending := c :: rest } = .next { dev := e, pending := rest } := h rest

theorem run_succ_of_step {s t : State} (k : Nat) (h : step s = .next t) :
    Host.Core.run Sys2Proof.core (k + 1) s = Host.Core.run Sys2Proof.core k t := by
  simp only [Host.Core.run, show Sys2Proof.core.step s = _ from h]

/-- As many steps as commands wait run them all. -/
theorem run_drains (q : List Instr) (d : Device) :
    ∃ t : State, Host.Core.run Sys2Proof.core q.length { dev := d, pending := q } = .next t ∧ t.pending = [] := by
  induction q generalizing d with
  | nil => exact ⟨_, rfl, rfl⟩
  | cons c rest ih =>
    rw [List.length_cons, run_succ_of_step _ (step_of_takes rest (takes_after c d))]
    exact ih _

/-- Settles O1: it is the second equation of `step`. -/
theorem stepRunsFrontCommand : Obligations.StepRunsFrontCommand := by
  unfold Obligations.StepRunsFrontCommand
  exact step_of_command

/-- Settles O3: the device is `Instr.after c d`. -/
theorem everyCommandAnswersANextState : Obligations.EveryCommandAnswersANextState := by
  unfold Obligations.EveryCommandAnswersANextState
  exact fun c d => ⟨_, takes_after c d⟩

/-- Settles O4, by induction on the queue. -/
theorem queueDrains : Obligations.QueueDrains := by
  unfold Obligations.QueueDrains
  exact fun s => run_drains s.pending s.dev

/-! ### Every command keeps a legal device legal -/

/-- Each command has its law under Laws/; ALARM_CLEAR alone keeps no level but 0. -/
theorem exec_legal {z : Kept} (c : Instr) (s : State) (h0 : ∀ f, c = .alarmClear f → z.level = 0) :
    ∃ d, exec c s = .next { s with dev := d } ∧ (s.dev.Legal z → d.Legal z) := by
  cases c with
  | panCoreInstruction p hit store => exact execPanCoreInstruction_legal p hit store s
  | mxd p rs1 hit => exact execMxd_legal p rs1 hit s
  | cpy p rs1 hit => exact execCpy_legal p rs1 hit s
  | fset p flag => exact execFset_legal p flag s
  | fclr p flag => exact execFclr_legal p flag s
  | fwait p flag => exact execFwait_legal p flag s
  | fwaitc p flag => exact execFwaitc_legal p flag s
  | ftest p rd flag => exact execFtest_legal p rd flag s
  | fsetr p rs1 flag => exact execFsetr_legal p rs1 flag s
  | setvl p rd rs1 width => exact execSetvl_legal p rd rs1 width s
  | pdone p rs1 => exact execPdone_legal p rs1 s
  | bsum p cond off => exact execBsum_legal p cond off s
  | vmov p v => exact execVmov_legal p v s
  | vcvt p v => exact execVcvt_legal p v s
  | vbcast p v => exact execVbcast_legal p v s
  | viota p v => exact execViota_legal p v s
  | vadd p v => exact execVadd_legal p v s
  | vsub p v => exact execVsub_legal p v s
  | vmul p v => exact execVmul_legal p v s
  | vfma p v => exact execVfma_legal p v s
  | vmin p v => exact execVmin_legal p v s
  | vmax p v => exact execVmax_legal p v s
  | vabs p v => exact execVabs_legal p v s
  | vneg p v => exact execVneg_legal p v s
  | vcpsgn p v => exact execVcpsgn_legal p v s
  | viadd p v => exact execViadd_legal p v s
  | visub p v => exact execVisub_legal p v s
  | vimul p v => exact execVimul_legal p v s
  | vand p v => exact execVand_legal p v s
  | vor p v => exact execVor_legal p v s
  | vxor p v => exact execVxor_legal p v s
  | vsll p v => exact execVsll_legal p v s
  | vsrl p v => exact execVsrl_legal p v s
  | vsra p v => exact execVsra_legal p v s
  | vimin p v => exact execVimin_legal p v s
  | vimax p v => exact execVimax_legal p v s
  | vcmpeq p v => exact execVcmpeq_legal p v s
  | vcmplt p v => exact execVcmplt_legal p v s
  | vcmple p v => exact execVcmple_legal p v s
  | vsel p v => exact execVsel_legal p v s
  | vexp2 p v => exact execVexp2_legal p v s
  | vlog2 p v => exact execVlog2_legal p v s
  | vrcp p v => exact execVrcp_legal p v s
  | vrsqrt p v => exact execVrsqrt_legal p v s
  | vsqrt p v => exact execVsqrt_legal p v s
  | vtanh p v => exact execVtanh_legal p v s
  | vsigm p v => exact execVsigm_legal p v s
  | vgelu p v => exact execVgelu_legal p v s
  | vsegsum p v => exact execVsegsum_legal p v s
  | vsegmax p v => exact execVsegmax_legal p v s
  | vsegmin p v => exact execVsegmin_legal p v s
  | vperm p v => exact execVperm_legal p v s
  | vslidedn p v => exact execVslidedn_legal p v s
  | vslideup p v => exact execVslideup_legal p v s
  | vrev p v => exact execVrev_legal p v s
  | vld p v hit => exact execVld_legal p v hit s
  | vst p v hit => exact execVst_legal p v hit s
  | vzbc p v => exact execVzbc_legal p v s
  | vlrd p v => exact execVlrd_legal p v s
  | vlxrd p v => exact execVlxrd_legal p v s
  | vlpadd p v => exact execVlpadd_legal p v s
  | vfence p v => exact execVfence_legal p v s
  | amaxCaptureSelect p en slot => exact execAmaxCaptureSelect_legal p en slot s
  | amaxSlotClear p en slot => exact execAmaxSlotClear_legal p en slot s
  | matmul p hit => exact execMatmul_legal p hit s
  | conv p hit => exact execConv_legal p hit s
  | attend p bad hit => exact execAttend_legal p bad hit s
  | merge p bad hit => exact execMerge_legal p bad hit s
  | rake p hit => exact execRake_legal p hit s
  | append p hit => exact execAppend_legal p hit s
  | entryOp p hit => exact execEntryOp_legal p hit s
  | pass p bad hit => exact execPass_legal p bad hit s
  | panQuarantine p => exact execPanQuarantine_legal p s
  | writeBack p hit => exact execWriteBack_legal p hit s
  | descriptorComplete p => exact execDescriptorComplete_legal p s
  | haloTimeout p => exact execHaloTimeout_legal p s
  | copy t id hit => exact execCopy_legal t id hit s
  | fill t id => exact execFill_legal t id s
  | copyTag t id hit => exact execCopyTag_legal t id hit s
  | copyComplete t id => exact execCopyComplete_legal t id s
  | bufferRegenerate j addr => exact execBufferRegenerate_legal j addr s
  | segmentRerun p => exact execSegmentRerun_legal p s
  | bedModeChange t modes => exact execBedModeChange_legal t modes s
  | channelMapOut t c => exact execChannelMapOut_legal t c s
  | bedMapOut t b => exact execBedMapOut_legal t b s
  | testModeEnable t => exact execTestModeEnable_legal t s
  | testModeDisable t => exact execTestModeDisable_legal t s
  | tgGo c pattern opmode => exact execTgGo_legal c pattern opmode s
  | tgAbort c => exact execTgAbort_legal c s
  | tgRunDone c flips => exact execTgRunDone_legal c flips s
  | skimCommand t mismatches hit => exact execSkimCommand_legal t mismatches hit s
  | skimFailed t => exact execSkimFailed_legal t s
  | select t hit => exact execSelect_legal t hit s
  | dispatch t group hit => exact execDispatch_legal t group hit s
  | sluiceRequest t r => exact execSluiceRequest_legal t r s
  | sluiceEnd t peer ter => exact execSluiceEnd_legal t peer ter s
  | sluiceGrant t token rank slot hit => exact execSluiceGrant_legal t token rank slot hit s
  | sluiceRow t expert slot data => exact execSluiceRow_legal t expert slot data s
  | combine t hit => exact execCombine_legal t hit s
  | sluiceRecord t src ter expert slot token col rec => exact execSluiceRecord_legal t src ter expert slot token col rec s
  | branch t hit => exact execBranch_legal t hit s
  | read x hit => exact execRead_legal x hit s
  | readResp x => exact execReadResp_legal x s
  | write x => exact execWrite_legal x s
  | writeAck x => exact execWriteAck_legal x s
  | ladd x => exact execLadd_legal x s
  | laddAck x => exact execLaddAck_legal x s
  | laddResend => exact execLaddResend_legal s
  | chainForward j chain => exact execChainForward_legal j chain s
  | bundForward x => exact execBundForward_legal x s
  | flagset x => exact execFlagset_legal x s
  | collReady src j step share => exact execCollReady_legal src j step share s
  | collCommit src j step layers share => exact execCollCommit_legal src j step layers share s
  | collPhaseToken src j step param => exact execCollPhaseToken_legal src j step param s
  | collAbort src j step failed => exact execCollAbort_legal src j step failed s
  | hold src j step => exact execHold_legal src j step s
  | holdSend j step => exact execHoldSend_legal j step s
  | join src j bundId step => exact execJoin_legal src j bundId step s
  | queued src j => exact execQueued_legal src j s
  | partner src j ids => exact execPartner_legal src j ids s
  | collectiveTimeout j step peer => exact execCollectiveTimeout_legal j step peer s
  | bundFlit b f => exact execBundFlit_legal b f s
  | nak b ackSeq => exact execNak_legal b ackSeq s
  | flitResendLimit b untrained => exact execFlitResendLimit_legal b untrained s
  | controlFlit b bad => exact execControlFlit_legal b bad s
  | laneFault b lane => exact execLaneFault_legal b lane s
  | portRetrain b peerEnc => exact execPortRetrain_legal b peerEnc s
  | bndAuth b => exact execBndAuth_legal b s
  | keyEpochInstall b => exact execKeyEpochInstall_legal b s
  | qtWrite k => exact execQtWrite_legal k s
  | qtReadReq k hit => exact execQtReadReq_legal k hit s
  | qtReadResp k => exact execQtReadResp_legal k s
  | ack k => exact execAck_legal k s
  | sack k ranges => exact execSack_legal k ranges s
  | openFlow k => exact execOpenFlow_legal k s
  | closeFlow k => exact execCloseFlow_legal k s
  | probe k => exact execProbe_legal k s
  | qtRetxTimer flow => exact execQtRetxTimer_legal flow s
  | pfcPauseFrame paused => exact execPfcPauseFrame_legal paused s
  | mailboxPost flow addr data => exact execMailboxPost_legal flow addr data s
  | devInfo m => exact execDevInfo_legal m s
  | flowBind m => exact execFlowBind_legal m s
  | partSet m => exact execPartSet_legal m s
  | jobCreate m => exact execJobCreate_legal m s
  | jobDestroy m => exact execJobDestroy_legal m s
  | configStage m => exact execConfigStage_legal m s
  | tideAdd m => exact execTideAdd_legal m s
  | tideCancel m => exact execTideCancel_legal m s
  | powerReq m => exact execPowerReq_legal m s
  | warmReset m => exact execWarmReset_legal m s
  | jobList m => exact execJobList_legal m s
  | jobStart m hit => exact execJobStart_legal m hit s
  | jobStopAfterCommit m => exact execJobStopAfterCommit_legal m s
  | jobStopAtOnce m => exact execJobStopAtOnce_legal m s
  | jobSuspend m => exact execJobSuspend_legal m s
  | jobResume m => exact execJobResume_legal m s
  | jobQuery m => exact execJobQuery_legal m s
  | logRead m => exact execLogRead_legal m s
  | hostlaneOpen m => exact execHostlaneOpen_legal m s
  | hostlaneClose m => exact execHostlaneClose_legal m s
  | overrideAdd m hit => exact execOverrideAdd_legal m hit s
  | manifest m hit => exact execManifest_legal m hit s
  | stepSubmit m => exact execStepSubmit_legal m s
  | hostlaneReturn m hit => exact execHostlaneReturn_legal m hit s
  | batch m hit => exact execBatch_legal m hit s
  | batchRun j batchNo hit others => exact execBatchRun_legal j batchNo hit others s
  | intakeFetch j step slot data => exact execIntakeFetch_legal j step slot data s
  | fetchFailed j step slot => exact execFetchFailed_legal j step slot s
  | decodeStart media ecc0 ecc1 => exact execDecodeStart_legal media ecc0 ecc1 s
  | decodeComplete j step slot => exact execDecodeComplete_legal j step slot s
  | decodeBudgetExpired j step slot => exact execDecodeBudgetExpired_legal j step slot s
  | graderBankSwap => exact execGraderBankSwap_legal s
  | retryLaneEntry => exact execRetryLaneEntry_legal s
  | crop j slot op => exact execCrop_legal j slot op s
  | resize j slot op => exact execResize_legal j slot op s
  | hflip j slot op => exact execHflip_legal j slot op s
  | rot90 j slot op => exact execRot90_legal j slot op s
  | jitter j slot op => exact execJitter_legal j slot op s
  | reencode j slot op => exact execReencode_legal j slot op s
  | tcrop j slot op => exact execTcrop_legal j slot op s
  | tstride j slot op => exact execTstride_legal j slot op s
  | gain j slot op => exact execGain_legal j slot op s
  | resample j slot op => exact execResample_legal j slot op s
  | downmix j slot op => exact execDownmix_legal j slot op s
  | microbatchClose j => exact execMicrobatchClose_legal j s
  | microbatchDispatch j step mb pans addr tmb skim sluice => exact execMicrobatchDispatch_legal j step mb pans addr tmb skim sluice s
  | redoGate p unit dir mb => exact execRedoGate_legal p unit dir mb s
  | redoVerdict j unit dir mb others => exact execRedoVerdict_legal j unit dir mb others s
  | quantumExpiry part held idle => exact execQuantumExpiry_legal part held idle s
  | contextSwitch part hit => exact execContextSwitch_legal part hit s
  | slowdownReport j c => exact execSlowdownReport_legal j c s
  | flushEnd => exact execFlushEnd_legal s
  | phase idx => exact execPhase_legal idx s
  | commit idx => exact execCommit_legal idx s
  | config idx => exact execConfig_legal idx s
  | cap idx => exact execCap_legal idx s
  | evalOpen idx => exact execEvalOpen_legal idx s
  | evalClose idx => exact execEvalClose_legal idx s
  | snapshot idx => exact execSnapshot_legal idx s
  | evalWindowOpen j w => exact execEvalWindowOpen_legal j w s
  | evalWindowClose j w => exact execEvalWindowClose_legal j w s
  | stepReady j step => exact execStepReady_legal j step s
  | gradientLogAppend j step scalars grads total => exact execGradientLogAppend_legal j step scalars grads total s
  | snapshotStart j layer hit => exact execSnapshotStart_legal j layer hit s
  | snapshotComplete j layer => exact execSnapshotComplete_legal j layer s
  | restoreComplete j images entries states logEnd => exact execRestoreComplete_legal j images entries states logEnd s
  | ptpSync offset => exact execPtpSync_legal offset s
  | tideHoldover linkDown => exact execTideHoldover_legal linkDown s
  | tideInEdge => exact execTideInEdge_legal s
  | tideEdgeLost => exact execTideEdgeLost_legal s
  | tideSecondEdge => exact execTideSecondEdge_legal s
  | powerEstimate activity => exact execPowerEstimate_legal activity s
  | fastLimit t => exact execFastLimit_legal t s
  | kcalCalibrate => exact execKcalCalibrate_legal s
  | modulePowerCheck => exact execModulePowerCheck_legal s
  | droopDetect p => exact execDroopDetect_legal p s
  | droopSkipEnd p => exact execDroopSkipEnd_legal p s
  | droopHeld p => exact execDroopHeld_legal p s
  | thermalCeiling => exact execThermalCeiling_legal s
  | thermalThrottle t => exact execThermalThrottle_legal t s
  | thermalTrip n => exact execThermalTrip_legal n s
  | sensorSample die rails inlet outlet flow => exact execSensorSample_legal die rails inlet outlet flow s
  | pawezelRestart => exact execPawezelRestart_legal s
  | bitternPageWrite => exact execBitternPageWrite_legal s
  | i3cStatus f => exact execI3cStatus_legal f s
  | i3cSensors f => exact execI3cSensors_legal f s
  | i3cLog f => exact execI3cLog_legal f s
  | i3cPower f => exact execI3cPower_legal f s
  | i3cReset f => exact execI3cReset_legal f s
  | updBegin f => exact execUpdBegin_legal f s
  | updData f => exact execUpdData_legal f s
  | updEnd f => exact execUpdEnd_legal f s
  | activate f => exact execActivate_legal f s
  | svnCommit f => exact execSvnCommit_legal f s
  | nonce f => exact execNonce_legal f s
  | attest f => exact execAttest_legal f s
  | certs f => exact execCerts_legal f s
  | tally f => exact execTally_legal f s
  | alarmClear f => exact execAlarmClear_legal f s (h0 f rfl)
  | debugUnlock f => exact execDebugUnlock_legal f s
  | debugLock f => exact execDebugLock_legal f s
  | ownerProvision f => exact execOwnerProvision_legal f s
  | ownerRevoke f => exact execOwnerRevoke_legal f s
  | meshBreach => exact execMeshBreach_legal s
  | glitch => exact execGlitch_legal s
  | jtagAccess => exact execJtagAccess_legal s
  | sealPass => exact execSealPass_legal s
  | sealHold a => exact execSealHold_legal a s
  | derivedCommit => exact execDerivedCommit_legal s
  | sealHoldTimeout => exact execSealHoldTimeout_legal s
  | configSetExpiry idx => exact execConfigSetExpiry_legal idx s
  | glbLockWrite a w => exact execGlbLockWrite_legal a w s
  | wmWrite a addr w => exact execWmWrite_legal a addr w s
  | rcRead a addr => exact execRcRead_legal a addr s
  | tideTimeLatch => exact execTideTimeLatch_legal s
  | energyLatch addr => exact execEnergyLatch_legal addr s
  | registerWrite a addr w => exact execRegisterWrite_legal a addr w s
  | inputPowerApplied sid => exact execInputPowerApplied_legal sid s
  | pwrEnRise => exact execPwrEnRise_legal s
  | pwrEnFall => exact execPwrEnFall_legal s
  | modResetNAssert => exact execModResetNAssert_legal s
  | modResetNRelease => exact execModResetNRelease_legal s
  | bringupResume => exact execBringupResume_legal s
  | hostPortWake => exact execHostPortWake_legal s
  | inputOvervoltage mv => exact execInputOvervoltage_legal mv s
  | inputUndervoltage mv => exact execInputUndervoltage_legal mv s
  | inputHoldup mv => exact execInputHoldup_legal mv s
  | inputPowerLost => exact execInputPowerLost_legal s
  | inputRecovered mv => exact execInputRecovered_legal mv s
  | recordRequestAgain src j w => exact execRecordRequestAgain_legal src j w s
  | dynamicAddressAssignment ccc => exact execDynamicAddressAssignment_legal ccc s
  | hostPortLinkUp cr => exact execHostPortLinkUp_legal cr s
  | pawezelWarmReset => exact execPawezelWarmReset_legal s
  | glitchWindowExpiry => exact execGlitchWindowExpiry_legal s

theorem step_legal {z : Kept} (s : State) (h0 : z.level = 0) (h : s.dev.Legal z) : ∃ t, step s = .next t ∧ t.dev.Legal z := by
  obtain ⟨d, q⟩ := s
  cases q with
  | nil => exact ⟨_, step_of_no_command d, Device.idle_legal d h⟩
  | cons c rest =>
    obtain ⟨e, he, hl⟩ := exec_legal c { dev := d, pending := rest } (fun _ _ => h0)
    exact ⟨_, (step_of_command c rest d).trans he, hl h⟩

/-- A legal device keeps the level it has reached. -/
theorem Device.Legal.at_level {z : Kept} {d : Device} (h : d.Legal z) : d.Legal { fuses := z.fuses, level := d.sec.level } :=
  ⟨h.fused, h.clock, h.alarm, le_rfl, h.power, h.memory⟩

/-- Settles O6: an idle step by `Device.idle_legal`, a command by its law. -/
theorem everyStepKeepsTheDeviceLegal : Obligations.EveryStepKeepsTheDeviceLegal := by
  unfold Obligations.EveryStepKeepsTheDeviceLegal
  exact fun s _ h => step_legal s rfl h

/-- Settles O7: the laws of the commands hold for the level of the device itself as the level kept. -/
theorem alarmLevelFallsOnlyByAlarmClear : Obligations.AlarmLevelFallsOnlyByAlarmClear := by
  unfold Obligations.AlarmLevelFallsOnlyByAlarmClear
  intro c s z hc h
  obtain ⟨d, he, hl⟩ := exec_legal (z := { fuses := z, level := s.dev.sec.level }) c s (fun f hf => absurd hf (hc f))
  exact ⟨_, he, (hl h.at_level).floor⟩

end Sys2Proof.Machine
end

section
/-! PROOFS. The state after reset: its device is legal, and what its registers read (18 R500; 19 R504, R506). -/
namespace Sys2Proof.Machine

/-- Settles O5: each range is evaluated on the reset device. -/
theorem resetDeviceIsLegal : Obligations.ResetDeviceIsLegal :=
  { fused := rfl, clock := by decide, alarm := by decide, floor := by decide, power := by decide, memory := by decide }

/-! ### The registers of a channel and of a pan (19 R504) -/

theorem blkOf_lpd (c : Fin 128) {x : Nat} (hx : x < 0x1000) : blkOf (0x800000 + 0x1000 * c.val + x) = .lpd c := by
  have hc := c.isLt
  rw [blkOf, if_neg (by omega), if_neg (by omega), if_neg (by omega), if_neg (by omega), if_neg (by omega), if_pos (by omega)]
  exact congrArg Blk.lpd (by omega)

theorem blkOf_pan (p : Fin 64) {x : Nat} (hx : x < 0x10000) : blkOf (0x1000000 + 0x10000 * p.val + x) = .pan p := by
  have hp := p.isLt
  rw [blkOf, if_neg (by omega), if_neg (by omega), if_neg (by omega), if_neg (by omega), if_neg (by omega), if_neg (by omega), if_neg (by omega),
    if_neg (by omega), if_neg (by omega), if_neg (by omega), if_neg (by omega), if_pos (by omega)]
  exact congrArg Blk.pan (by omega)

theorem regValue_lpd (d : Device) (c : Fin 128) {x : Nat} (hx : x < 0x1000) :
    regValue d (0x800000 + 0x1000 * c.val + x) = chanValue (d.chanAt c) x := by
  have hoff : blkOffset (0x800000 + 0x1000 * c.val + x) = x := by
    simp only [blkOffset, blkOf_lpd c hx]
    omega
  simp only [regValue, blkOf_lpd c hx, hoff]

theorem regValue_pan (d : Device) (p : Fin 64) {x : Nat} (hx : x < 0x10000) :
    regValue d (0x1000000 + 0x10000 * p.val + x) = panValue d p x := by
  have hoff : blkOffset (0x1000000 + 0x10000 * p.val + x) = x := by
    simp only [blkOffset, blkOf_pan p hx]
    omega
  simp only [regValue, blkOf_pan p hx, hoff]

/-- A table of offsets and values that holds of the registers from a base address. -/
theorem table_reads {l : List (Nat × Nat)} {d : Device} {base n : Nat} {val : Nat → Nat} (hval : ∀ x < n, regValue d (base + x) = val x)
    (hl : l.all (fun x => decide (x.1 < n) && val x.1 == x.2) = true) : l.all (fun x => regValue d (base + x.1) == x.2) = true := by
  rw [List.all_eq_true] at hl ⊢
  intro x hx
  obtain ⟨hin, heq⟩ := Bool.and_eq_true_iff.mp (hl x hx)
  rwa [hval x.1 (of_decide_eq_true hin)]

/-! ### Channels, pans, job slots and mailboxes at reset -/

theorem reset_chanAt (c : Fin 128) : State.reset.dev.chanAt c = {} := (vget_lt _ _ _ c.isLt).trans (Vector.getElem_replicate c.isLt)

theorem reset_panAt (p : Fin 64) : State.reset.dev.panAt p = {} := (vget_lt _ _ _ p.isLt).trans (Vector.getElem_replicate p.isLt)

theorem reset_jobAt (j : Fin 16) : State.reset.dev.jobAt j = {} := (vget_lt _ _ _ j.isLt).trans (Vector.getElem_replicate j.isLt)

theorem reset_fmax (p : Fin 64) : nthD 0 State.reset.dev.fuses.fmax p = 1300 := by
  rw [nthD, show State.reset.dev.fuses.fmax = List.replicate 64 1300 from rfl, List.getElem?_replicate_of_lt p.isLt, Option.getD_some]

theorem reset_chan_reads (c : Fin 128) {x : Nat} (hx : x < 0x1000) : regValue State.reset.dev (0x800000 + 0x1000 * c.val + x) = chanValue {} x := by
  rw [regValue_lpd _ c hx, reset_chanAt]

/-- Every pan reads as pan 0 does. -/
theorem reset_pan_reads (p : Fin 64) {x : Nat} (hx : x < 0x10000) :
    regValue State.reset.dev (0x1000000 + 0x10000 * p.val + x) = panValue State.reset.dev (0 : Fin 64) x := by
  simp only [regValue_pan _ p hx, panValue, reset_panAt, reset_fmax]

/-- The capture slots of a pan read zero. -/
theorem reset_slot_reads (s : Fin 16) (f : Fin 4) : panValue State.reset.dev (0 : Fin 64) (0x80 + 16 * s.val + 4 * f.val) = 0 := by
  revert s f
  decide +kernel

theorem ofLE_zeros (n : Nat) : ofLE (List.replicate n 0) = 0 := by
  induction n with
  | zero => rfl
  | succ n ih => rw [List.replicate_succ, ofLE, ih]

theorem bmRead_empty (k n : Nat) : bmRead [] k n = List.replicate n 0 := by
  rw [bmRead, show (fun i => bmGet [] (k + i)) = fun _ => 0 from rfl, List.map_const', List.length_range]

theorem reset_mailbox_free (m : Fin 256) : State.reset.dev.ownState m = 0 := by
  rw [Device.ownState, Device.mbx, show State.reset.dev.quy.mbx = [] from rfl, bmRead_empty, ofLE_zeros, Nat.zero_div]

/-- Settles O60: the channels and the pans are alike, so one of each is evaluated; the other blocks are evaluated as they stand. -/
theorem resetValues : Obligations.ResetValues := by
  unfold Obligations.ResetValues
  refine ⟨?blocks, ?powers, ?ports, ?sleeves, ?channels, ?controllers, ?terraces, ?pans, ?slots, rfl, ?jobs, rfl, rfl, rfl, reset_mailbox_free, rfl⟩
  case blocks => decide +kernel
  case powers => decide +kernel
  case ports => decide +kernel
  case sleeves => decide +kernel
  case channels => exact fun c => table_reads (fun x => reset_chan_reads c) (by decide)
  case controllers => decide +kernel
  case terraces => decide +kernel
  case pans => exact fun p => table_reads (fun x => reset_pan_reads p) (by decide +kernel)
  case slots =>
    intro p s f
    have hs := s.isLt
    have hf := f.isLt
    rw [show 0x1000080 + 0x10000 * p.val + 16 * s.val + 4 * f.val = 0x1000000 + 0x10000 * p.val + (0x80 + 16 * s.val + 4 * f.val) by omega,
      reset_pan_reads p (by omega), reset_slot_reads]
  case jobs => exact fun j => by rw [reset_jobAt]; exact ⟨rfl, rfl⟩

end Sys2Proof.Machine
end

section
/-! PROOFS. The management commands (14 R385, R387; 15 R394, R395, R402 to R411, R425, R427; 19 R514). -/
namespace Sys2Proof.Machine

/-! ### The commands whose row covers every payload -/

/-- The commands whose table row covers every payload of its code, with their codes (15 R404). -/
abbrev wholeCommands (m : Fin 256) (hit : Option Hit) : List (Instr × Nat) :=
  [(Instr.devInfo m, 0x1), (Instr.flowBind m, 0x2), (Instr.partSet m, 0x3), (Instr.jobCreate m, 0x4), (Instr.jobDestroy m, 0x5),
    (Instr.configStage m, 0x6), (Instr.tideAdd m, 0x7), (Instr.tideCancel m, 0x8), (Instr.powerReq m, 0x9), (Instr.warmReset m, 0xa),
    (Instr.jobList m, 0xb), (Instr.jobStart m hit, 0x101), (Instr.jobSuspend m, 0x103), (Instr.jobResume m, 0x104), (Instr.jobQuery m, 0x105),
    (Instr.logRead m, 0x106), (Instr.overrideAdd m hit, 0x108), (Instr.manifest m hit, 0x201), (Instr.stepSubmit m, 0x202),
    (Instr.hostlaneReturn m hit, 0x203), (Instr.batch m hit, 0x204)]

section Command
variable {c : Instr} {m : Fin 256} {k : Nat}

theorem exists_command {f : Device → List Nat → Device} (hexec : ∀ s, exec c s = onDev s (fun d => d.command m k f)) :
    ∃ g, ∀ s, exec c s = onDev s (fun d => d.command m k g) := ⟨f, hexec⟩

/-- A command of the slot of its mailbox is a command. -/
theorem exists_command_of_jobCommand {f : Device → Nat → List Nat → Device} (hexec : ∀ s, exec c s = onDev s (fun d => d.jobCommand m k f)) :
    ∃ g, ∀ s, exec c s = onDev s (fun d => d.command m k g) := ⟨_, hexec⟩

end Command

/-- Each of them is a command of its code: eleven of the management class and JOB_START, and nine of the slot of their mailbox. -/
theorem command_of_mem_wholeCommands {m : Fin 256} {hit : Option Hit} :
    ∀ x ∈ wholeCommands m hit, ∃ f, ∀ s, exec x.1 s = onDev s (fun d => d.command m x.2 f) := by
  simp only [wholeCommands, List.forall_mem_cons]
  and_intros
  iterate 12 exact exists_command fun _ => rfl
  iterate 9 exact exists_command_of_jobCommand fun _ => rfl
  exact List.forall_mem_nil _

section Whole
variable {m : Fin 256} {hit : Option Hit} {c : Instr} {k : Nat} {d e : Device} {p : List Nat}

theorem takes_whole_rejected (hc : (c, k) ∈ wholeCommands m hit) (hturn : d.turn m k = true) (hhead : headerCheck d m ≠ 0) :
    Takes c d (d.finish m (headerCheck d m) 0 []) :=
  let ⟨_, hexec⟩ := command_of_mem_wholeCommands _ hc
  takes_commandIf_rejected (sel := fun _ => true) hexec hturn rfl hhead

theorem takes_whole_out_of_turn (hc : (c, k) ∈ wholeCommands m hit) (hturn : d.turn m k = false) : Takes c d d :=
  let ⟨_, hexec⟩ := command_of_mem_wholeCommands _ hc
  takes_commandIf_ignored (sel := fun _ => true) hexec (.inl hturn)

/-- A command that passes the checks of R402 is its work on its payload. -/
theorem takes_command {f : Device → List Nat → Device} (hexec : ∀ s, exec c s = onDev s (fun d => d.command m k f)) (h : Served d m k p)
    (he : f d p = e) : Takes c d e := takes_commandIf_served (sel := fun _ => true) hexec h rfl he

end Whole

/-- Settles O46: each command is its work once its turn and the checks of R402 are past. -/
theorem managementCommands : Obligations.ManagementCommands := by
  unfold Obligations.ManagementCommands
  refine ⟨?rejected, ?outOfTurn, ?devInfo, ?flowBind, ?partSet, ?jobDestroy, ?configStage, ?tideAdd, ?tideCancel, ?powerReq, ?warmReset, ?jobList,
    ?jobCreate⟩
  case rejected => exact fun m hit c k d => takes_whole_rejected
  case outOfTurn => exact fun m hit c k d => takes_whole_out_of_turn
  case devInfo => exact fun m p d h => takes_command (fun _ => rfl) h rfl
  case flowBind => exact fun m p d h => takes_command (fun _ => rfl) h (Device.reply_eq d m _ _)
  case partSet => exact fun m p d h => takes_command (fun _ => rfl) h (Device.reply_eq d m _ _)
  case jobDestroy => exact fun m p d h => takes_command (fun _ => rfl) h (Device.reply_eq d m _ _)
  case configStage => exact fun m p d h => takes_command (fun _ => rfl) h (Device.reply_eq d m _ _)
  case tideAdd => exact fun m p d h => takes_command (fun _ => rfl) h (Device.reply_eq d m _ _)
  case tideCancel => exact fun m p d h => takes_command (fun _ => rfl) h (Device.reply_eq d m _ _)
  case powerReq => exact fun m p d h => takes_command (fun _ => rfl) h rfl
  case warmReset => exact fun m p d h => takes_command (fun _ => rfl) h rfl
  case jobList => exact fun m p d h => takes_command (fun _ => rfl) h rfl
  case jobCreate => exact fun m p d h => takes_command (fun _ => rfl) h (Device.reply_eq d m _ _)

end Sys2Proof.Machine
end

section
/-! PROOFS. The tray interface (18 R475 to R498): a frame that Pawezel serves and one that it does not, what each command answers, and the commands
without a frame. -/
namespace Sys2Proof.Machine

/-! ### Frames (18 R478, R492) -/

section Frames
variable {c : Instr} {d e : Device} {f : Frame} {need : Nat} {inRec : Bool} {run : Device → List Nat → I3CAnswer}

theorem heard_iff : (!d.inp.island || f.addr != i3cAddr d || !f.crcOk) = false ↔ Heard d f := by
  simp only [Bool.or_eq_false_iff, Bool.not_eq_false', bne_eq_false_iff_eq, and_assoc]

theorem fits_iff : ¬(f.len ≠ f.payload.length ∨ 8192 < f.len ∨ f.payload.length < need) ↔ Fits f need := by
  simp only [not_or, ne_eq, not_not, not_lt]

theorem Device.i3cFrame_taken (h : Taken d f need inRec) :
    d.i3cFrame f need inRec run = (run d f.payload).effect (d.i3cReply (run d f.payload).status (run d f.payload).body) := by
  obtain ⟨hheard, hfits, hrec⟩ := h
  have hserved : (inRecovery d && !inRec) = false := by rcases hrec with h | h <;> simp [h]
  simp only [Device.i3cFrame, heard_iff.mpr hheard, hserved, Bool.false_eq_true, if_false, if_neg (fits_iff.mpr hfits)]

theorem Device.i3cFrame_unheard (h : ¬Heard d f) : d.i3cFrame f need inRec run = d :=
  if_pos (Bool.not_eq_false _ ▸ mt heard_iff.mp h)

theorem Device.i3cFrame_unfit (h : Heard d f) (hn : ¬Fits f need) : d.i3cFrame f need inRec run = d.i3cReply stRange [] := by
  simp only [Device.i3cFrame, heard_iff.mpr h, Bool.false_eq_true, if_false, if_pos (not_not.mp (mt fits_iff.mp hn))]

theorem Device.i3cFrame_barred (h : Heard d f) (hf : Fits f need) (hrec : inRec = false) (hin : inRecovery d = true) :
    d.i3cFrame f need inRec run = d := by
  simp only [Device.i3cFrame, heard_iff.mpr h, hrec, hin, Bool.false_eq_true, if_false, if_neg (fits_iff.mpr hf), Bool.not_false, Bool.and_self, if_true]

/-- A frame that is not served is answered only when it is heard and does not fit. -/
theorem Device.i3cFrame_not_taken (h : ¬Taken d f need inRec) :
    d.i3cFrame f need inRec run = if Heard d f ∧ ¬Fits f need then d.i3cReply stRange [] else d := by
  by_cases hh : Heard d f
  · by_cases hf : Fits f need
    · have hbarred : ¬(inRec = true ∨ inRecovery d = false) := fun hs => h ⟨hh, hf, hs⟩
      rw [not_or, Bool.not_eq_true, Bool.not_eq_false] at hbarred
      rw [Device.i3cFrame_barred hh hf hbarred.1 hbarred.2, if_neg fun hn => hn.2 hf]
    · rw [Device.i3cFrame_unfit hh hf, if_pos ⟨hh, hf⟩]
  · rw [Device.i3cFrame_unheard hh, if_neg fun hn => hh hn.1]

/-- What an answer leaves: its effect on the device whose reply stands. -/
abbrev I3CAnswer.leaves (r : I3CAnswer) (d : Device) : Device := r.effect (d.i3cReply r.status r.body)

theorem I3CAnswer.leaves_ite {p : Prop} [Decidable p] {r q : I3CAnswer} : (if p then r else q).leaves d = if p then r.leaves d else q.leaves d :=
  apply_ite (fun r : I3CAnswer => r.leaves d) p r q

section Framed
variable (hexec : ∀ s, exec c s = onDev s (fun d => d.i3cFrame f need inRec run))
include hexec

theorem takes_frame (h : Taken d f need inRec) (he : (run d f.payload).leaves d = e) : Takes c d e := fun s => by
  rw [hexec, onDev, Device.i3cFrame_taken h, ← he]

theorem takes_frame_not_taken (h : ¬Taken d f need inRec) : Takes c d (if Heard d f ∧ ¬Fits f need then d.i3cReply stRange [] else d) := fun s => by
  rw [hexec, onDev, Device.i3cFrame_not_taken h]

end Framed
end Frames

/-! ### Without a frame -/

section Frameless
variable {d : Device} {c : Ccc}

theorem takes_dynamicAddressAssignment : Takes (.dynamicAddressAssignment c) d (if d.inp.island = false then d else match c with
    | .assign a => { d with i3c := { d.i3c with dynAddr := some a } }
    | .rstdaa => { d with i3c := { d.i3c with dynAddr := none } }
    | .enec => { d with i3c := { d.i3c with ibiOff := false } }
    | .disec => { d with i3c := { d.i3c with ibiOff := true } }
    | .getstatus => d.send (.i3cStatus (if d.i3c.alert then 1 else 0))) := fun s => by
  change execDynamicAddressAssignment _ _ = _
  simp only [execDynamicAddressAssignment, onDev, Bool.not_eq_true']
  cases c <;> rfl

theorem takes_pawezelWarmReset : Takes .pawezelWarmReset d (if d.inp.stage = .served then d.warmReset else d) := fun s => by
  change execPawezelWarmReset _ = _
  simp only [execPawezelWarmReset, onDev, beq_iff_eq]

theorem takes_bitternPageWrite : Takes .bitternPageWrite d (if d.inp.island then { d with bit := d.bit.writePage } else d) := fun _ => rfl

/-- Pawezel started again from NOR. -/
def pawezelRestarted (d : Device) : Device :=
  let e := d.dropUpdate
  let g : Device := { e with i3c := { e.i3c with reply := none }, sec := { e.sec with nonceGen := e.free }, free := e.free + 1 }
  ({ g with pwz := { g.pwz with hssNext := hssAtBoot g.pwz } } : Device).logEvent srcPawezel 0x0A0C sevWarning none []

theorem takes_pawezelRestart : Takes .pawezelRestart d (if d.inp.island then pawezelRestarted d else d) := fun s => by
  change execPawezelRestart _ = _
  simp only [execPawezelRestart, onDev, Bool.not_eq_true', ← Bool.not_eq_true, ite_not]
  rfl

end Frameless

/-- Settles O53: a frame that is served leaves what its command's answer does, and one that is not changes nothing or is answered with
ST_PARAM_RANGE. -/
theorem trayCommands : Obligations.TrayCommands := by
  unfold Obligations.TrayCommands
  refine ⟨?status, ?sensors, ?log, ?power, ?reset, ?begin, ?data, ?finish, ?activate, ?commit, ?nonce, ?attest, ?certs, ?tally, ?statusNot, ?sensorsNot,
    ?logNot, ?powerNot, ?resetNot, ?beginNot, ?dataNot, ?endNot, ?activateNot, ?commitNot, ?nonceNot, ?attestNot, ?certsNot, ?tallyNot, ?address,
    ?warm, ?restart, ?page⟩
  case status => exact fun f d h => takes_frame (fun _ => rfl) h rfl
  case sensors => exact fun f d h => takes_frame (fun _ => rfl) h rfl
  case log => exact fun f d h => takes_frame (fun _ => rfl) h rfl
  case power =>
    refine fun f d h => takes_frame (fun _ => rfl) h ?_
    dsimp only
    cases d.inp.stage <;> rfl
  case reset =>
    refine fun f d h => takes_frame (fun _ => rfl) h ?_
    cases d.inp.stage with
    | served => simp only
    | off | held | coolWait => rfl
  case begin =>
    refine fun f d h => takes_frame (fun _ => rfl) h ?_
    simp only [I3CAnswer.leaves_ite]
    cases d.pwz.update <;> rfl
  case data =>
    refine fun f d h => takes_frame (fun _ => rfl) h ?_
    cases d.pwz.update with
    | none => rfl
    | some u => exact I3CAnswer.leaves_ite
  case finish =>
    refine fun f d h => takes_frame (fun _ => rfl) h ?_
    cases d.pwz.update with
    | none => rfl
    | some u =>
      dsimp only
      split <;> rfl
  case activate =>
    refine fun f d h => takes_frame (fun _ => rfl) h ?_
    simp only [I3CAnswer.leaves_ite, Bool.not_eq_true']
    rfl
  case commit =>
    refine fun f d h => takes_frame (fun _ => rfl) h ?_
    simp only [I3CAnswer.leaves_ite, Bool.or_eq_true, Bool.not_eq_true', decide_eq_true_eq, or_assoc]
    rfl
  case nonce => exact fun f d h => takes_frame (fun _ => rfl) h rfl
  case attest =>
    refine fun f d h => takes_frame (fun _ => rfl) h ?_
    simp only [I3CAnswer.leaves_ite]
    cases d.hssTake <;> rfl
  case certs => exact fun f d h => takes_frame (fun _ => rfl) h rfl
  case tally => exact fun f d h => takes_frame (fun _ => rfl) h I3CAnswer.leaves_ite
  case statusNot => exact fun f d => takes_frame_not_taken fun _ => rfl
  case sensorsNot => exact fun f d => takes_frame_not_taken fun _ => rfl
  case logNot => exact fun f d => takes_frame_not_taken fun _ => rfl
  case powerNot => exact fun f d => takes_frame_not_taken fun _ => rfl
  case resetNot => exact fun f d => takes_frame_not_taken fun _ => rfl
  case beginNot => exact fun f d => takes_frame_not_taken fun _ => rfl
  case dataNot => exact fun f d => takes_frame_not_taken fun _ => rfl
  case endNot => exact fun f d => takes_frame_not_taken fun _ => rfl
  case activateNot => exact fun f d => takes_frame_not_taken fun _ => rfl
  case commitNot => exact fun f d => takes_frame_not_taken fun _ => rfl
  case nonceNot => exact fun f d => takes_frame_not_taken fun _ => rfl
  case attestNot => exact fun f d => takes_frame_not_taken fun _ => rfl
  case certsNot => exact fun f d => takes_frame_not_taken fun _ => rfl
  case tallyNot => exact fun f d => takes_frame_not_taken fun _ => rfl
  case address => exact fun c d => takes_dynamicAddressAssignment
  case warm => exact fun d => takes_pawezelWarmReset
  case restart => exact fun d => takes_pawezelRestart
  case page => exact fun d => takes_bitternPageWrite

end Sys2Proof.Machine
end

section
/-! PROOFS. Tamper events, owner tokens and the seal (18 R499 to R503; 19 R511 to R513; 20 R544). -/
namespace Sys2Proof.Machine

/-! ### Tamper events -/

section Tamper
variable {d : Device}

theorem takes_meshBreach :
    Takes .meshBreach d (if d.inp.island then (d.logEvent srcSecurity 0x0A05 sevWarning none []).meetSource 0 (alarmResponse d 0) else d) := fun _ => rfl

/-- The device after its glitch number n (18 R499). -/
abbrev glitched (d : Device) (n : Nat) : Device :=
  (({ d with sec := { d.sec with glitches := n } } : Device).logEvent srcSecurity 0x0A04 sevWarning none []).meetSource 1
    (if 3 ≤ n then 3 else alarmResponse d 1)

theorem takes_glitch : Takes .glitch d (if d.inp.island then glitched d (d.sec.glitches + 1) else d) := fun _ => rfl

theorem takes_glitchWindowExpiry : Takes .glitchWindowExpiry d { d with sec := { d.sec with glitches := d.sec.glitches - 1 } } := fun _ => rfl

theorem takes_jtagAccess : Takes .jtagAccess d (if d.inp.island = true ∧ d.sec.debug = false then d.debugAttempt else d) := fun _ => by
  change execJtagAccess _ = _
  simp only [execJtagAccess, onDev, Bool.and_eq_true, Bool.not_eq_true']

end Tamper

/-! ### Owner tokens -/

section Tokens
variable {c : Instr} {d e : Device} {f : Frame} {op : Nat} {act : Device → List Nat → I3CAnswer}

/-- What the answer to an accepted token leaves: its effect once the nonce is replaced (18 R502). -/
abbrev I3CAnswer.leavesFresh (r : I3CAnswer) (d : Device) : Device := r.effect (d.i3cReply r.status r.body).newNonce

theorem I3CAnswer.leavesFresh_ite {p : Prop} [Decidable p] {r q : I3CAnswer} :
    (if p then r else q).leavesFresh d = if p then r.leavesFresh d else q.leavesFresh d :=
  apply_ite (fun r : I3CAnswer => r.leavesFresh d) p r q

/-- What AUTH answers to the token of an operation (18 R502). -/
abbrev authAnswer (op : Nat) (act : Device → List Nat → I3CAnswer) (d : Device) (tok : List Nat) : I3CAnswer :=
  if tokenOk d tok then { act d tok with effect := fun e => (act d tok).effect e.newNonce }
  else { status := stSignature, effect := fun e => e.tokenRefused op }

/-- A whole frame whose token names another known operation. -/
abbrev namesOther (f : Frame) (op : Nat) : Prop :=
  f.len = f.payload.length ∧ 1 ≤ fieldAt f.payload 0 1 ∧ fieldAt f.payload 0 1 ≤ 5 ∧ fieldAt f.payload 0 1 ≠ op

theorem Device.auth_own (h : ¬namesOther f op) : d.auth f op act = d.i3cFrame f 4212 false (authAnswer op act) := if_neg h

theorem Device.auth_other (h : namesOther f op) : d.auth f op act = d := if_pos h

theorem authAnswer_leaves {tok : List Nat} : (authAnswer op act d tok).leaves d =
    if tokenOk d tok then (act d tok).leavesFresh d else (d.i3cReply stSignature []).tokenRefused op := I3CAnswer.leaves_ite

section Authed
variable (hexec : ∀ s, exec c s = onDev s (fun d => d.auth f op act))
include hexec

theorem exec_auth_own (h : ¬namesOther f op) (s : State) : exec c s = onDev s (fun d => d.i3cFrame f 4212 false (authAnswer op act)) := by
  simp only [hexec, Device.auth_own h]

theorem takes_token (h : Taken d f 4212 false) (hop : fieldAt f.payload 0 1 = op ∨ fieldAt f.payload 0 1 = 0 ∨ 5 < fieldAt f.payload 0 1)
    (he : (act d f.payload).leavesFresh d = e) :
    Takes c d (if tokenOk d f.payload then e else (d.i3cReply stSignature []).tokenRefused op) :=
  have hown : ¬namesOther f op := fun ⟨_, hlow, hhigh, hne⟩ => by omega
  takes_frame (exec_auth_own hexec hown) h (he ▸ authAnswer_leaves)

theorem takes_token_not_taken (h : ¬Taken d f 4212 false)
    (hop : f.len ≠ f.payload.length ∨ (fieldAt f.payload 0 1 = op ∨ fieldAt f.payload 0 1 = 0 ∨ 5 < fieldAt f.payload 0 1)) :
    Takes c d (if Heard d f ∧ ¬Fits f 4212 then d.i3cReply stRange [] else d) :=
  have hown : ¬namesOther f op := fun ⟨hlen, hlow, hhigh, hne⟩ => by omega
  takes_frame_not_taken (exec_auth_own hexec hown) h

theorem takes_token_of_other (h : namesOther f op) : Takes c d d := fun s => by
  rw [hexec, onDev, Device.auth_other h]

end Authed
end Tokens

/-! ### The seal -/

section SealSteps
variable {d : Device}

theorem takes_sealPass : Takes .sealPass d
    (if d.inp.stage ≠ .served ∨ d.glb.cur = .shelf ∨ d.sl.hold = true then d
      else if sealOf (sealedValues d) = d.sl.ref then
        { d with sl := { d.sl with value := sealOf (sealedValues d), valid := true, matched := true, episode := false, blocked := false } }
      else ({ d with sl := { d.sl with value := sealOf (sealedValues d), valid := true } } : Device).sealMismatch) := fun _ => by
  change execSealPass _ = _
  simp only [execSealPass, onDev, Bool.or_eq_true, bne_iff_ne, beq_iff_eq, or_assoc]

/-- The device at a mismatch, before ACTION acts. -/
abbrev mismatched (d : Device) : Device := { d with sl := { d.sl with matched := false, mismatch := true, count := satAdd d.sl.count 1, episode := true } }

/-- The mismatched device with its jobs suspended and starts refused. -/
abbrev sealBlocked (d : Device) : Device := ({ mismatched d with sl := { (mismatched d).sl with blocked := true } } : Device).lockdown

theorem sealMismatch_eq : d.sealMismatch =
    if d.sl.action = 0 then (if d.sl.episode then mismatched d else (mismatched d).logEvent srcQuay 0x0002 sevWarning none (toLE 4 d.sl.value))
    else if d.sl.episode then sealBlocked d
    else if d.sl.action = 1 then (sealBlocked d).logEvent srcQuay 0x0002 sevWarning none (toLE 4 d.sl.value)
    else (sealBlocked d).logLockdown srcQuay 0x0002 (toLE 4 d.sl.value) := by
  unfold Device.sealMismatch Device.sealAct
  cases d.sl.episode <;> rfl

theorem takes_sealHold (a : Agent) : Takes (.sealHold a) d
    (if a = .pawezel ∨ a = .renura then { d with sl := { d.sl with hold := true, matched := false, valid := false } } else d) := fun _ => rfl

theorem takes_derivedCommit : Takes .derivedCommit d (if d.inp.stage = .served then d.deriveSeal else d) := fun _ => by
  change execDerivedCommit _ = _
  simp only [execDerivedCommit, onDev, beq_iff_eq]

theorem takes_sealHoldTimeout : Takes .sealHoldTimeout d (if d.sl.hold then d.sealMismatch else d) := fun _ => rfl

end SealSteps

/-- Settles O54: an event by its conditions, a token by whether it is taken and names the command, the seal's commands by the state. -/
theorem securityAndSeal : Obligations.SecurityAndSeal := by
  unfold Obligations.SecurityAndSeal
  refine ⟨?mesh, ?glitch, ?expiry, ?jtag, ?clear, ?clearNot, ?clearOther, ?unlock, ?unlockNot, ?unlockOther, ?lock, ?lockNot, ?lockOther, ?provision,
    ?provisionNot, ?provisionOther, ?revoke, ?revokeNot, ?revokeOther, ?pass, ?mismatch, ?hold, ?commit, ?timeout⟩
  case mesh => exact fun d => takes_meshBreach
  case glitch => exact fun d => takes_glitch
  case expiry => exact fun d => takes_glitchWindowExpiry
  case jtag => exact fun d => takes_jtagAccess
  case clear => exact fun f d h hop => takes_token (fun _ => rfl) h hop rfl
  case clearNot => exact fun f d => takes_token_not_taken fun _ => rfl
  case clearOther => exact fun f d hlen hlow hhigh hne => takes_token_of_other (fun _ => rfl) ⟨hlen, hlow, hhigh, hne⟩
  case unlock =>
    refine fun f d h hop => takes_token (fun _ => rfl) h hop ?_
    simp only [I3CAnswer.leavesFresh_ite]
    rfl
  case unlockNot => exact fun f d => takes_token_not_taken fun _ => rfl
  case unlockOther => exact fun f d hlen hlow hhigh hne => takes_token_of_other (fun _ => rfl) ⟨hlen, hlow, hhigh, hne⟩
  case lock => exact fun f d h hop => takes_token (fun _ => rfl) h hop rfl
  case lockNot => exact fun f d => takes_token_not_taken fun _ => rfl
  case lockOther => exact fun f d hlen hlow hhigh hne => takes_token_of_other (fun _ => rfl) ⟨hlen, hlow, hhigh, hne⟩
  case provision =>
    refine fun f d h hop => takes_token (fun _ => rfl) h hop ?_
    simp only [I3CAnswer.leavesFresh_ite]
    rfl
  case provisionNot => exact fun f d => takes_token_not_taken fun _ => rfl
  case provisionOther => exact fun f d hlen hlow hhigh hne => takes_token_of_other (fun _ => rfl) ⟨hlen, hlow, hhigh, hne⟩
  case revoke =>
    refine fun f d h hop => takes_token (fun _ => rfl) h hop ?_
    simp only [I3CAnswer.leavesFresh_ite, Bool.or_eq_true, Bool.not_eq_true', beq_iff_eq, or_assoc]
    rfl
  case revokeNot => exact fun f d => takes_token_not_taken fun _ => rfl
  case revokeOther => exact fun f d hlen hlow hhigh hne => takes_token_of_other (fun _ => rfl) ⟨hlen, hlow, hhigh, hne⟩
  case pass => exact fun d => takes_sealPass
  case mismatch => exact fun d => sealMismatch_eq
  case hold => exact fun a d => takes_sealHold a
  case commit => exact fun d => takes_derivedCommit
  case timeout => exact fun d => takes_sealHoldTimeout

end Sys2Proof.Machine
end

section
/-! PROOFS. The pins and the input power (19 R517, R519, R522; 20 R534 to R539). -/
namespace Sys2Proof.Machine

section Input
variable {d : Device}

/-- The device whose island starts with input power, SID sampled (20 R536; 19 R521). -/
abbrev inputApplied (d : Device) (sid : Fin 32) : Device :=
  { d with
    inp := { d.inp with island := true, overMark := false, underMark := false, holdupMark := false }, i3c := { sid := sid }
    glb := { d.glb with cause := {} } }

theorem takes_inputPowerApplied (sid : Fin 32) :
    Takes (.inputPowerApplied sid) d (if d.inp.island then d else if d.inp.pwrEn then (inputApplied d sid).coldReset else inputApplied d sid) :=
  fun _ => rfl

theorem takes_inputOvervoltage (mv : Nat) : Takes (.inputOvervoltage mv) d (if d.inp.island = true ∧ d.inp.overMark = false ∧ 62000 < mv
    then (({ d with inp := { d.inp with overMark := true } } : Device).computeOff).logEvent srcPawezel 0x0907 sevWarning none (toLE 4 mv) else d) := fun _ => by
  change execInputOvervoltage mv _ = _
  simp only [execInputOvervoltage, onDev, Bool.and_eq_true, Bool.not_eq_true', decide_eq_true_eq, and_assoc]

theorem takes_inputUndervoltage (mv : Nat) : Takes (.inputUndervoltage mv) d (if d.inp.island = true ∧ d.inp.underMark = false ∧ mv < 42000
    then (({ d with inp := { d.inp with underMark := true } } : Device).computeOff).logEvent srcPawezel 0x0906 sevWarning none (toLE 4 mv) else d) :=
  fun _ => by
  change execInputUndervoltage mv _ = _
  simp only [execInputUndervoltage, onDev, Bool.and_eq_true, Bool.not_eq_true', decide_eq_true_eq, and_assoc]

theorem takes_inputHoldup (mv : Nat) : Takes (.inputHoldup mv) d (if d.inp.island = true ∧ d.inp.holdupMark = false ∧ mv < 40000
    then { d with inp := { d.inp with holdupMark := true }, bit := d.bit.writeAll } else d) := fun _ => by
  change execInputHoldup mv _ = _
  simp only [execInputHoldup, onDev, Bool.and_eq_true, Bool.not_eq_true', decide_eq_true_eq, and_assoc]

theorem takes_inputPowerLost : Takes .inputPowerLost d (if d.inp.island then d.inputLost else d) := fun _ => rfl

/-- The device whose excursion of the input is over. -/
abbrev excursionOver (d : Device) : Device := { d with inp := { d.inp with overMark := false, underMark := false, holdupMark := false } }

theorem takes_inputRecovered (mv : Nat) : Takes (.inputRecovered mv) d (if d.inp.island = true ∧ 44000 ≤ mv ∧ mv ≤ 61000
    then (if d.inp.excursion && d.inp.pwrEn then (excursionOver d).causeCold.coldReset else excursionOver d) else d) := fun _ => by
  change execInputRecovered mv _ = _
  simp only [execInputRecovered, onDev, Bool.and_eq_true, decide_eq_true_eq, and_assoc]

end Input

section Pins
variable {d : Device}

/-- The device with PWR_EN, or MOD_RESET_N, at a level. -/
abbrev withPwrEn (d : Device) (on : Bool) : Device := { d with inp := { d.inp with pwrEn := on } }
abbrev withModResetN (d : Device) (on : Bool) : Device := { d with inp := { d.inp with modResetN := on } }

theorem takes_pwrEnRise : Takes .pwrEnRise d (if d.inp.pwrEn then d else if d.inp.island && !d.inp.excursion then (withPwrEn d true).causeCold.coldReset
    else withPwrEn d true) := fun _ => rfl

theorem takes_pwrEnFall : Takes .pwrEnFall d (if !d.inp.pwrEn then d else if d.inp.island
    then { (withPwrEn d false).computeOff with bit := (withPwrEn d false).computeOff.bit.writePage } else withPwrEn d false) :=
  fun _ => rfl

theorem takes_modResetNRelease :
    Takes .modResetNRelease d (if d.inp.stage = .held then (withModResetN d true).bootStep5 else withModResetN d true) := fun _ => by
  change execModResetNRelease _ = _
  simp only [execModResetNRelease, onDev, beq_iff_eq]

theorem takes_bringupResume : Takes .bringupResume d (if coolEnough d = false then d else if d.inp.stage = .coolWait then d.bringUp
    else if d.inp.stage = .served ∧ d.glb.coolWait = true then ({ d with glb := { d.glb with coolWait := false } } : Device).powerTo d.glb.target
    else d) := fun _ => by
  change execBringupResume _ = _
  simp only [execBringupResume, onDev, Bool.not_eq_true', beq_iff_eq, Bool.and_eq_true]

theorem takes_hostPortWake : Takes .hostPortWake d
    (if d.inp.stage = .served ∧ d.glb.cur = .shelf ∧ d.eth.state = 0 then { d with eth := { d.eth with state := 1 } } else d) := fun _ => by
  change execHostPortWake _ = _
  simp only [execHostPortWake, onDev, Bool.and_eq_true, beq_iff_eq, and_assoc]

end Pins

/-- Settles O55: each command by the conditions under which it acts. -/
theorem pinsAndInput : Obligations.PinsAndInput := by
  unfold Obligations.PinsAndInput
  exact ⟨fun sid _ => takes_inputPowerApplied sid, fun mv _ => takes_inputOvervoltage mv, fun mv _ => takes_inputUndervoltage mv,
    fun mv _ => takes_inputHoldup mv, fun _ => takes_inputPowerLost, fun mv _ => takes_inputRecovered mv, fun _ => takes_pwrEnRise,
    fun _ => takes_pwrEnFall, fun _ => fun _ => rfl, fun _ => takes_modResetNRelease, fun _ => takes_bringupResume,
    fun _ => takes_hostPortWake⟩

end Sys2Proof.Machine
end

section
/-! PROOFS. Register accesses (14 R379; 17 R471; 19 R504 to R515). -/
namespace Sys2Proof.Machine

/-! ### The GLB, SEAL and PWR blocks (19 R504) -/

theorem blkOf_scratch (i : Fin 4) : blkOf (0x20 + 4 * i.val) = .glb := by revert i; decide

theorem blkOffset_scratch (i : Fin 4) : blkOffset (0x20 + 4 * i.val) = 0x20 + 4 * i.val := by revert i; decide

theorem blkOf_pwr {o : Nat} (ho : o < 0x10000) : blkOf (0x50000 + o) = .pwr := by
  rw [blkOf, if_pos (by omega), show (0x50000 + o) / 0x10000 = 5 by omega]
  rfl

theorem blkOffset_pwr {o : Nat} (ho : o < 0x10000) : blkOffset (0x50000 + o) = o := by
  simp only [blkOffset, blkOf_pwr ho]
  omega

section Reads
variable {d : Device}

theorem takes_rcRead (a : Agent) (r : Nat) :
    Takes (.rcRead a r) d (if reaches d a r then (if a = rcReader r then rcClear d r else d).send (.reg r (regValue d r)) else d) := fun _ => rfl

theorem takes_tideTimeLatch :
    Takes .tideTimeLatch d (({ d with tide := { d.tide with latch := d.tide.sec } } : Device).send (.reg 0x40000 d.tide.ns)) := fun _ => rfl

/-- The device whose energy counter of a PWR_ low half is latched; the same device for any other register (17 R471). -/
def energyLatched (d : Device) (r : Nat) : Device :=
  let o := blkOffset r
  if blkOf r ≠ .pwr then d
  else if o = 0x10 then { d with pwr := { d.pwr with input := d.pwr.input.latched } }
  else if 0x20 ≤ o ∧ o < 0x40 ∧ o % 8 = 0 then { d with pwr := { d.pwr with part := modNth Energy.latched d.pwr.part ((o - 0x20) / 8) } }
  else if 0x40 ≤ o ∧ o < 0xC0 ∧ o % 8 = 0 then { d with pwr := { d.pwr with job := modNth Energy.latched d.pwr.job ((o - 0x40) / 8) } }
  else d

theorem takes_energyLatch (r : Nat) : Takes (.energyLatch r) d ((energyLatched d r).send (.reg r (regValue d r))) := fun q => by
  change Host.Outcome.next (State.mk (if energyLatched d r = d then d.send _ else (energyLatched d r).send _) q) = _
  split
  · next h => rw [h]
  · rfl

theorem energyLatched_input : energyLatched d 0x50010 = { d with pwr := { d.pwr with input := d.pwr.input.latched } } := rfl

theorem energyLatched_part (i : Fin 4) :
    energyLatched d (0x50020 + 8 * i) = { d with pwr := { d.pwr with part := modNth Energy.latched d.pwr.part i } } := by
  have hi := i.isLt
  rw [show 0x50020 + 8 * i.val = 0x50000 + (0x20 + 8 * i.val) by omega, energyLatched, blkOf_pwr (by omega), blkOffset_pwr (by omega),
    if_neg (by simp), if_neg (by omega), if_pos (by omega), show (0x20 + 8 * i.val - 0x20) / 8 = i by omega]

theorem energyLatched_job (i : Fin 16) :
    energyLatched d (0x50040 + 8 * i) = { d with pwr := { d.pwr with job := modNth Energy.latched d.pwr.job i } } := by
  have hi := i.isLt
  rw [show 0x50040 + 8 * i.val = 0x50000 + (0x40 + 8 * i.val) by omega, energyLatched, blkOf_pwr (by omega), blkOffset_pwr (by omega),
    if_neg (by simp), if_neg (by omega), if_neg (by omega), if_pos (by omega), show (0x40 + 8 * i.val - 0x40) / 8 = i by omega]

end Reads

section Writes
variable {a : Agent} {r w : Nat} {d : Device}

theorem takes_registerWrite_refused (h : reaches d a r = false ∨ mayWrite a r = false) : Takes (.registerWrite a r w) d d := fun _ => by
  change execRegisterWrite a r w _ = _
  have hno : (!reaches d a r || !mayWrite a r) = true := by rcases h with h | h <;> simp [h]
  simp only [execRegisterWrite, onDev, hno, if_true]

/-- What a register write leaves once its agent may write the register. -/
def registerWritten (a : Agent) (r w : Nat) (d : Device) : Device :=
  let d0 : Device := if locked d r then { d with glb := { d.glb with lockReject := satAdd d.glb.lockReject 1 } } else d
  let d1 := if blkOf r = .seal ∧ blkOffset r = 0 then writeSealCtrl d0 a w (locked d r) else if locked d r then d0 else regWrite d0 r (w % 2 ^ 32)
  match blkOf r with
  | .brn _ => if blkOffset r = 0x0C then d1.deriveSeal else d1
  | _ => d1

theorem takes_registerWrite (hr : reaches d a r = true) (hm : mayWrite a r = true) : Takes (.registerWrite a r w) d (registerWritten a r w d) := fun _ => by
  change execRegisterWrite a r w _ = _
  simp only [execRegisterWrite, onDev, hr, hm, Bool.not_true, Bool.or_self, Bool.false_eq_true, if_false]
  rfl

theorem not_locked_of_brn {t : Nat} (hb : blkOf r = .brn t) : locked d r = false := by
  simp only [locked, rwlBlock, hb, Option.any_none]

theorem registerWritten_sleeve {t : Nat} (hb : blkOf r = .brn t) (ho : blkOffset r = 0x0C) :
    registerWritten a r w d = (regWrite d r (w % 2 ^ 32)).deriveSeal := by
  simp [registerWritten, hb, ho, not_locked_of_brn hb]

theorem registerWritten_fields (hs : ¬(blkOf r = .seal ∧ blkOffset r = 0)) (hb : ∀ t, ¬(blkOf r = .brn t ∧ blkOffset r = 0x0C)) :
    registerWritten a r w d =
      if locked d r then { d with glb := { d.glb with lockReject := satAdd d.glb.lockReject 1 } } else regWrite d r (w % 2 ^ 32) := by
  simp only [registerWritten, if_neg hs]
  split
  · next t ht =>
    rw [if_neg fun ho => hb t ⟨ht, ho⟩]
    split <;> rfl
  · split <;> rfl

/-- SEAL_CTRL's HOLD as an agent leaves it: only Pawezel and Renura firmware write it (19 R513). -/
abbrev sealHeld (a : Agent) (w : Nat) (s : Seal) : Seal :=
  if a = .pawezel ∨ a = .renura then (if bitOf w 31 then { s with hold := true, matched := false, valid := false } else { s with hold := false }) else s

theorem registerWritten_sealCtrl : registerWritten a 0x10000 w d =
    if locked d 0x10000 then { d with sl := sealHeld a w d.sl, glb := { d.glb with lockReject := satAdd d.glb.lockReject 1 } }
    else { d with sl := { sealHeld a w d.sl with action := bits w 30 29 } } := by
  rw [registerWritten]
  cases locked d 0x10000 <;> rfl

theorem takes_registerWrite_sealCtrl (hr : reaches d a 0x10000 = true) (hm : mayWrite a 0x10000 = true) : Takes (.registerWrite a 0x10000 w) d
    (if locked d 0x10000 then { d with sl := sealHeld a w d.sl, glb := { d.glb with lockReject := satAdd d.glb.lockReject 1 } }
      else { d with sl := { sealHeld a w d.sl with action := bits w 30 29 } }) := registerWritten_sealCtrl ▸ takes_registerWrite hr hm

theorem takes_wmWrite_elsewhere (h : reaches d a r = false ∨ blkOf r ≠ .glb ∨ blkOffset r < 0x20 ∨ 0x30 ≤ blkOffset r) : Takes (.wmWrite a r w) d d :=
  fun _ => by
  change execWmWrite a r w _ = _
  have hno : ¬(((reaches d a r = true ∧ blkOf r = .glb) ∧ 0x20 ≤ blkOffset r) ∧ blkOffset r < 0x30) := by
    rintro ⟨⟨⟨hr, hb⟩, hlow⟩, hhigh⟩
    rcases h with h | h | h | h
    · simp [hr] at h
    · exact h hb
    · omega
    · omega
  simp only [execWmWrite, onDev, Bool.and_eq_true, beq_iff_eq, decide_eq_true_eq, if_neg hno]

theorem takes_wmWrite (h : reaches d a r = true) (hb : blkOf r = .glb) (hlow : 0x20 ≤ blkOffset r) (hhigh : blkOffset r < 0x30) :
    Takes (.wmWrite a r w) d { d with glb := { d.glb with scratch := vmod d.glb.scratch ((blkOffset r - 0x20) / 4) (fun old =>
      (old &&& ~~~BitVec.ofNat 16 (w / 65536)) ||| (BitVec.ofNat 16 w &&& BitVec.ofNat 16 (w / 65536))) } } := fun _ => by
  change execWmWrite a r w _ = _
  simp only [execWmWrite, onDev, h, hb, hlow, hhigh, beq_self_eq_true, decide_true, Bool.and_self, if_true]

theorem takes_glbLockWrite (h : reaches d a 0x0C = true) :
    Takes (.glbLockWrite a w) d { d with glb := { d.glb with lock := d.glb.lock ||| BitVec.ofNat 15 w } } := fun _ => by
  change execGlbLockWrite a w _ = _
  simp only [execGlbLockWrite, onDev, h, if_true]

theorem takes_glbLockWrite_unreached (h : reaches d a 0x0C = false) : Takes (.glbLockWrite a w) d d := fun _ => by
  change execGlbLockWrite a w _ = _
  simp only [execGlbLockWrite, onDev, h, Bool.false_eq_true, if_false]

theorem takes_configSetExpiry (i : Fin 4) : Takes (.configSetExpiry i) d (match nthD none d.quy.sets i with
    | some c => if c.staged + 60000000000 ≤ d.tide.now ∧ d.tide.entries.any (fun e => e.2.action == 3 && e.2.arg == i + 256 * c.gen) = false
      then d.freeSet i else d
    | none => d) := fun _ => by
  change execConfigSetExpiry i _ = _
  simp only [execConfigSetExpiry, onDev, Bool.and_eq_true, decide_eq_true_eq, Bool.not_eq_true'] <;> rfl

end Writes

/-! ### The WM registers (19 R509) -/

section Masked
variable {a : Agent} {i : Fin 4} {w : Nat} {d : Device}

theorem takes_wmWrite_scratch (h : reaches d a (0x20 + 4 * i) = true) : Takes (.wmWrite a (0x20 + 4 * i) w) d { d with glb := { d.glb with
    scratch := d.glb.scratch.set i ((d.glb.scratch[i] &&& ~~~BitVec.ofNat 16 (w / 65536)) ||| (BitVec.ofNat 16 w &&& BitVec.ofNat 16 (w / 65536))) } } := by
  have hi := i.isLt
  have hoff := blkOffset_scratch i
  have hset := takes_wmWrite (w := w) h (blkOf_scratch i) (by omega) (by omega)
  rw [hoff, show (0x20 + 4 * i.val - 0x20) / 4 = i by omega, vmod, dif_pos hi] at hset
  exact hset

theorem regValue_scratch : regValue d (0x20 + 4 * i) = (d.glb.scratch[i.val]?.getD 0).toNat := by
  match i with
  | 0 | 1 | 2 | 3 => rfl

theorem scratch_high_zero : regValue d (0x20 + 4 * i) / 2 ^ 16 = 0 := by
  rw [regValue_scratch]
  exact Nat.div_eq_of_lt (BitVec.isLt _)

theorem takes_wmWrite_unmasked (h : w / 65536 % 65536 = 0) : Takes (.wmWrite a (0x20 + 4 * i) w) d d := by
  cases hr : reaches d a (0x20 + 4 * i) with
  | false => exact takes_wmWrite_elsewhere (.inl hr)
  | true =>
    have hmask : BitVec.ofNat 16 (w / 65536) = 0 := BitVec.eq_of_toNat_eq h
    have hset := takes_wmWrite_scratch (w := w) hr
    have hsame : (d.glb.scratch[i] &&& ~~~(0 : BitVec 16)) ||| (BitVec.ofNat 16 w &&& 0) = d.glb.scratch[i] := by
      simp only [BitVec.ofNat_eq_ofNat, BitVec.and_zero, BitVec.or_zero, BitVec.not_zero, BitVec.and_allOnes]
    rw [hmask, hsame, show d.glb.scratch.set i d.glb.scratch[i] = d.glb.scratch from Vector.set_getElem_self _] at hset
    exact hset

end Masked

/-- Settles O57: the write is on the register's own scratch word, whose value has 16 bits. -/
theorem maskedWrite : Obligations.MaskedWrite := by
  unfold Obligations.MaskedWrite
  exact ⟨fun a i w d => takes_wmWrite_scratch, fun i d => scratch_high_zero, fun a i w d => takes_wmWrite_unmasked⟩

/-- Settles O56: a read sends its value with what it clears or latches, a write is refused, locked or done. -/
theorem registerAccesses : Obligations.RegisterAccesses := by
  unfold Obligations.RegisterAccesses
  refine ⟨?rc, ?time, ?input, ?part, ?job, ?latch, ?refused, ?sleeve, ?fields, ?sealCtrl, ?wmNot, ?lock, ?lockNot, ?expiry⟩
  case rc => exact fun a r d => takes_rcRead a r
  case time => exact fun d => takes_tideTimeLatch
  case input => exact fun d => takes_energyLatch 0x50010
  case part => exact fun i d => energyLatched_part i ▸ takes_energyLatch (0x50020 + 8 * i)
  case job => exact fun i d => energyLatched_job i ▸ takes_energyLatch (0x50040 + 8 * i)
  case latch => exact fun r d => takes_energyLatch r
  case refused => exact fun a r w d => takes_registerWrite_refused
  case sleeve => exact fun a r w t d hr hm hb ho => registerWritten_sleeve hb ho ▸ takes_registerWrite hr hm
  case fields => exact fun a r w d hr hm hs hb => registerWritten_fields hs hb ▸ takes_registerWrite hr hm
  case sealCtrl => exact fun a w d => takes_registerWrite_sealCtrl
  case wmNot => exact fun a r w d => takes_wmWrite_elsewhere
  case lock => exact fun a w d => takes_glbLockWrite
  case lockNot => exact fun a w d => takes_glbLockWrite_unreached
  case expiry => exact fun i d => takes_configSetExpiry i

end Sys2Proof.Machine
end

section
/-! PROOFS. Power and thermal control (17 R459 to R471; 18 R476; 20 R540). -/
namespace Sys2Proof.Machine

/-! ### Estimates and the fast limit (17 R459, R464) -/

section Estimates
variable {d e : Device}

/-- The device whose Terraces and Quay die have formed their estimates from the window's counters. -/
def estimated (d : Device) (a : List (List Nat)) : Device :=
  let e := (List.range 4).foldl (fun (e : Device) t => e.estimateTerrace t (nthD [] a t)) d
  { e with pwr := { e.pwr with quayMw := estimate 4 (hottest (quayTemps d.pwz)) (nthD [] a 4) 10000 } }

/-- The device that has added the energy of its estimates, and entered the package's. -/
def energyAdded (d : Device) : Device :=
  let g := (List.range 4).foldl (fun (e : Device) t => e.addEnergy t) d
  { g with pwr := g.pwr.noteEstimate (packageMw g) }

theorem takes_powerEstimate (a : List (List Nat)) :
    Takes (.powerEstimate a) d (if d.inp.stage = .served ∧ d.glb.cur ≠ .shelf then energyAdded (estimated d a) else d) := fun _ => by
  change execPowerEstimate a _ = _
  have hoff : (d.inp.stage != .served || d.glb.cur == .shelf) = true ↔ ¬(d.inp.stage = .served ∧ d.glb.cur ≠ .shelf) := by
    simp only [Bool.or_eq_true, bne_iff_ne, beq_iff_eq, not_and_or, not_not]
  simp only [execPowerEstimate, onDev, hoff, ite_not]
  rfl

theorem takes_fastLimit (t : Fin 4) : Takes (.fastLimit t) d (if d.inp.stage ≠ .served then d
    else if d.glb.cur = .doze ∨ d.glb.cur = .shelf then d.updTerp t (fun x => { x with slots := 0 })
    else d.updTerp t (fun x =>
      let r := fastLimit x.estMw (budgetMw d.pwr t) x.staticMw (max 1 x.slots)
      { x with slots := min r.1 x.therm, fast := x.fast || r.2, fastCount := if r.2 then satAdd x.fastCount 1 else x.fastCount })) := fun _ => by
  change execFastLimit t _ = _
  simp only [execFastLimit, onDev, bne_iff_ne, beq_iff_eq, Bool.or_eq_true]

end Estimates

section Limit
variable {p b ps s : Nat}

theorem fastLimit_above (hps : ps < b) (hp : b < p) : fastLimit p b ps s = (max 1 (s * (b - ps) / (p - ps)), true) := by
  rw [fastLimit, if_pos hp, if_neg (by omega)]

theorem fastLimit_below_static (hps : b ≤ ps) (hp : b < p) : fastLimit p b ps s = (1, true) := by
  rw [fastLimit, if_pos hp, if_pos hps]

theorem fastLimit_rises (h : 100 * p ≤ 97 * b) : fastLimit p b ps s = (min 64 (s + 4), false) := by
  rw [fastLimit, if_neg (by omega), if_pos h]

theorem fastLimit_stays (hp : p ≤ b) (h : 97 * b < 100 * p) : fastLimit p b ps s = (s, false) := by
  rw [fastLimit, if_neg (by omega), if_neg (by omega)]

end Limit

/-! ### Calibration and the module limit (17 R460, R463) -/

section Module
variable {d : Device}

theorem takes_kcalCalibrate : Takes .kcalCalibrate d { d with
    terp := d.terp.map (fun x => { x with
      kcal := if d.pwr.railCount = 0 then x.kcal else kcalStep x.kcal (railMean d.pwr) (meanOr (packageMw d) d.pwr.calSum d.pwr.calCount) })
    pwr := { d.pwr with calSum := 0, calCount := 0, railSum := 0, railCount := 0 } } := fun _ => rfl

/-- A calibration keeps a gain in range and moves it by at most 1 %. -/
theorem kcalStep_bounds {k m e : Nat} (he : 0 < e) (hlow : 7500 ≤ k) (hhigh : k ≤ 12500) :
    7500 ≤ kcalStep k m e ∧ kcalStep k m e ≤ 12500 ∧ k - k / 100 ≤ kcalStep k m e ∧ kcalStep k m e ≤ k + k / 100 := by
  obtain ⟨hmin, hmax⟩ := kcalStep_range k m e ⟨hlow, hhigh⟩
  refine ⟨hmin, hmax, ?_, ?_⟩
  all_goals
    rw [kcalStep, if_neg (by omega)]
    omega

/-- The power state with one more reading of J2 and its energy. -/
def inputRead (d : Device) : Pwr :=
  { d.pwr with input := d.pwr.input.add (inputEnergy d.pwz), j2 := keepLast 100 (d.pwr.j2 ++ [inputPower d.pwz]) }

/-- C_mod lowered by what a mean of m mW exceeds the TDP by. -/
def moduleLowered (d : Device) (x : Pwr) (m : Nat) : Device :=
  { d with pwr := { x with module := x.module - ceilDiv (m - 2400000) 1000, moduleEpisode := true, raiseRun := 0 } }

theorem takes_modulePowerCheck {m : Nat} {x : Pwr} (hx : inputRead d = x) (hm : j2Mean x = m) :
    Takes .modulePowerCheck d (if 2400000 < m then (if d.pwr.moduleEpisode then moduleLowered d x m
        else (moduleLowered d x m).logEvent srcPawezel 0x0901 sevWarning none (toLE 4 m))
      else if 2350000 ≤ m then { d with pwr := { x with raiseRun := 0 } }
      else if d.pwr.raiseRun + 1 < 100 then { d with pwr := { x with moduleEpisode := false, raiseRun := x.raiseRun + 1 } }
      else { d with pwr := { x with moduleEpisode := false, raiseRun := 0, module := min 2150 (x.module + 10) } }) := fun _ => by
  subst hx hm
  change Host.Outcome.next (State.mk (if 2400000 < j2Mean (inputRead d) then _ else if j2Mean (inputRead d) < 2350000 then _ else _) _) = _
  simp only [← not_le (a := 2350000), ite_not]
  rfl

end Module

/-! ### Droop and thermal control (17 R466 to R470) -/

section Thermal
variable {d : Device}

/-- A Terrace at a hottest reading: throttled it loses a slot of its thermal allowance, and below 93 °C it gains one (17 R469). -/
def throttleStep (hot : Int) (x : TerPower) : TerPower :=
  if 950 ≤ hot ∨ (x.throttle = true ∧ 930 ≤ hot) then { x with throttle := true, therm := max 1 (x.therm - 1) }
  else { x with throttle := false, therm := if hot < 930 then min 64 (x.therm + 1) else x.therm }

theorem throttleStep_eq (d : Device) (t : Nat) (x : TerPower) : throttleStep (hottest (terraceTemps d.pwz t)) x =
    { x with
      throttle := throttled d t x.throttle
      therm := if throttled d t x.throttle then max 1 (x.therm - 1)
        else if hottest (terraceTemps d.pwz t) < 930 then min 64 (x.therm + 1) else x.therm } := by
  have hon : throttled d t x.throttle = true ↔
      950 ≤ hottest (terraceTemps d.pwz t) ∨ (x.throttle = true ∧ 930 ≤ hottest (terraceTemps d.pwz t)) := by
    simp only [throttled, Bool.or_eq_true, Bool.and_eq_true, decide_eq_true_eq]
  simp only [throttleStep, ← hon]
  cases throttled d t x.throttle <;> rfl

theorem takes_thermalThrottle (t : Fin 4) : Takes (.thermalThrottle t) d (d.updTerp t (throttleStep (hottest (terraceTemps d.pwz t)))) := fun _ => by
  change execThermalThrottle t _ = _
  simp only [execThermalThrottle, onDev, ← throttleStep_eq]

/-- The device whose sensor n reads v, past the trip: every slot allowance is taken. -/
def tripped (d : Device) (n : Fin 72) (v : Int) : Device :=
  { d with
    pwz := { d.pwz with die := modNth (fun _ => v) d.pwz.die n, coolSince := d.tide.now }
    pwr := { d.pwr with tripped := true }
    terp := d.terp.map (fun x => { x with slots := 0 }) }

theorem takes_thermalTrip (n : Fin 72) {v : Int} (hv : max 1100 (nthD 0 d.pwz.die n) = v) :
    Takes (.thermalTrip n) d ((if d.inp.stage ≠ .served then tripped d n v else if d.glb.cur = .shelf then (tripped d n v).jobFault
      else (tripped d n v).jobFault.enterShelf).logEvent srcPawezel 0x0905 sevFault none (sensorData n v)) := fun _ => by
  subst hv
  change execThermalTrip n _ = _
  simp only [execThermalTrip, onDev, bne_iff_ne, beq_iff_eq]
  rfl

/-- The device with one reading of every sensor, and the fields that show them (18 R476). -/
def sampled (d : Device) (die : List Int) (rails : List (Int × Int)) (i o f : Int) : Device :=
  let dies := resample 0 d.pwz.die die
  { d with
    pwz := { d.pwz with
      die := dies, rails := resample (0, 0) d.pwz.rails rails, inlet := i, outlet := o, flow := f
      coolSince := if dies.all (fun t => decide (t < 850)) then d.pwz.coolSince else d.tide.now }
    pwr := { d.pwr with
      tjMax := degrees (hottest dies), tIn := degrees i, railCount := d.pwr.railCount + 1
      railSum := d.pwr.railSum + railPower (resample (0, 0) d.pwz.rails rails) } }

theorem takes_sensorSample (die : List Int) (rails : List (Int × Int)) (i o f : Int) : Takes (.sensorSample die rails i o f) d
    (if d.inp.island then ((sampled d die rails i o f).judgeThrottle.judgeCoolant).judgeDies d.pwz.die else d) := fun _ => by
  change execSensorSample die rails i o f _ = _
  simp only [execSensorSample, onDev, Bool.not_eq_true', ← Bool.not_eq_true, ite_not]
  rfl

end Thermal

/-- Settles O52: each command by the thresholds of its reading. -/
theorem powerAndThermal : Obligations.PowerAndThermal := by
  unfold Obligations.PowerAndThermal
  refine ⟨?estimate, ?fast, ?above, ?static, ?rises, ?stays, ?calibrate, ?step, ?module, ?droop, ?skipEnd, ?held, ?ceiling, ?throttle, ?trip, ?sample⟩
  case estimate => exact fun a d => takes_powerEstimate a
  case fast => exact fun t d => takes_fastLimit t
  case above => exact fun p b ps s => fastLimit_above
  case static => exact fun p b ps s => fastLimit_below_static
  case rises => exact fun p b ps s => fastLimit_rises
  case stays => exact fun p b ps s => fastLimit_stays
  case calibrate => exact fun d => takes_kcalCalibrate
  case step => exact fun k m e => kcalStep_bounds
  case module => exact fun m x d => takes_modulePowerCheck
  case droop => exact fun p d _ => rfl
  case skipEnd => exact fun p d _ => rfl
  case held => exact fun p d _ => rfl
  case ceiling => exact fun d _ => rfl
  case throttle => exact fun t d => takes_thermalThrottle t
  case trip => exact fun n d => takes_thermalTrip n rfl
  case sample => exact fun die rails i o f d => takes_sensorSample die rails i o f

end Sys2Proof.Machine
end

section
/-! PROOFS. Snapshots, the gradient log and the restore from partner memory (14 R392; 16 R434 to R446, R453). -/
namespace Sys2Proof.Machine

/-! ### Snapshots -/

section Snapshots
variable {d : Device} {j : Fin 16} {l : Fin 3} {hit : Option Hit} {c i : Nat} {u : JobSetup} {e : TideEntry} {r : SnapRun}

theorem takes_snapshotStart (hc : (d.jobAt j).commit.step = some c) (hu : (d.jobAt j).setup = some u) (he : snapEntry d j l c = some (i, e)) :
    Takes (.snapshotStart j l hit) d (if layerOff d j (l + 1) = true then (d.freeEntryAt i).report j 0x0803
      else if e.step < c then d.freeEntryAt i
      else if (d.jobAt j).snaps.any (fun x => x.layer == l.val + 1) = true ∨ (l.val = 0 ∧ reachHolder d j = none) then d
      else d.withHit hit (d.jobAt j).blocks Device.holdFault (fun x => (x.freeEntryAt i).beginImage j u (l + 1) c)) := fun _ => by
  change execSnapshotStart j l hit _ = _
  simp only [execSnapshotStart, onDev, hc, hu, he, Bool.or_eq_true, Bool.and_eq_true, beq_iff_eq, Option.isNone_iff_eq_none]

theorem takes_snapshotStart_ignored (h : ∀ c, (d.jobAt j).commit.step = some c → (d.jobAt j).setup = none ∨ snapEntry d j l c = none) :
    Takes (.snapshotStart j l hit) d d := fun _ => by
  change execSnapshotStart j l hit _ = _
  simp only [execSnapshotStart, onDev]
  cases hc : (d.jobAt j).commit.step with
  | none => rfl
  | some c =>
    rcases h c hc with hu | he
    · simp only [hu]
    · cases (d.jobAt j).setup <;> simp only [he]

/-- The device whose image of a layer is complete: its header put last, the run over, EV_SNAP_DONE reported. -/
def imageCompleted (d : Device) (j : Fin 16) (l : Fin 3) (u : JobSetup) (r : SnapRun) : Device :=
  ((d.putImage j u r).updJob j (fun q => { q with
    snaps := q.snaps.filter (fun x => x.layer != l.val + 1), partner := q.partner.imaged r d.tide.now })).logEvent srcRenura 0x0805 sevNotice (some j)
    ([r.layer] ++ toLE 8 r.step ++ sliceAt r.image 40 8)

theorem takes_snapshotComplete (hu : (d.jobAt j).setup = some u) (hr : (d.jobAt j).snaps.find? (fun r => r.layer == l.val + 1) = some r) :
    Takes (.snapshotComplete j l) d (if l.val = 0 ∧ d.fab.pend.any (fun p => p.job == j.val && p.image) = true then d else imageCompleted d j l u r) :=
  fun _ => by
  change execSnapshotComplete j l _ = _
  simp only [execSnapshotComplete, onDev, hu, hr]
  rfl

theorem takes_snapshotComplete_ignored (h : (d.jobAt j).setup = none ∨ (d.jobAt j).snaps.find? (fun r => r.layer == l.val + 1) = none) :
    Takes (.snapshotComplete j l) d d := fun _ => by
  change execSnapshotComplete j l _ = _
  rcases h with h | h
  · simp only [execSnapshotComplete, onDev, h]
  · cases hu : (d.jobAt j).setup <;> simp only [execSnapshotComplete, onDev, h, hu]

end Snapshots

/-! ### The gradient log -/

section Log
variable {d : Device} {j : Fin 16} {n h sl : Nat} {xs gs : List Nat} {tot : StepShare} {u : JobSetup} {st : Step}

/-- The log entry of step n is due: the oldest step is n, its stages complete, its entry neither done nor on its way, no shard line held (16 R437). -/
abbrev logDue (d : Device) (j : Fin 16) (n : Nat) (st : Step) : Prop :=
  st.num = n ∧ st.stages = true ∧ st.logDone = false ∧ d.fab.pend.all (fun p => p.job != j.val || p.logStep != some n) = true
    ∧ (d.jobAt j).shardHeld d = false

/-- The log's entries of the other steps and this one fit in the region. -/
abbrev logFits (d : Device) (j : Fin 16) (n : Nat) (u : JobSetup) (entry : List Nat) : Prop :=
  sumNat (((d.jobAt j).partner.log.filter (fun e => e.1 != n)).map Prod.snd) + entry.length ≤ logSize u

/-- A layer-1 snapshot of the job is under way or placed. -/
abbrev snapping (d : Device) (j : Fin 16) : Bool :=
  (d.jobAt j).snaps.any (fun r => r.layer == 1) || d.tide.entries.any (fun e => e.2.action == 7 && e.2.job == j.val && e.2.arg == 0 && e.2.fired)

theorem takes_gradientLogAppend (hu : (d.jobAt j).setup = some u) (hst : (d.jobAt j).steps.head? = some st) (hh : reachHolder d j = some (h, sl))
    (hdue : logDue d j n st) : Takes (.gradientLogAppend j n xs gs tot) d (if logFits d j n u (logEntry d j u { st with total := some tot } xs gs)
      then (d.updStep j n (fun x => { x with logTotal := some tot })).writeLog j h sl n u (logEntry d j u { st with total := some tot } xs gs)
      else if snapping d j then d else match (d.jobAt j).commit.step with | some c => d.placeSnapshot j 0 c | none => d) := fun _ => by
  obtain ⟨hnum, hstages, hdone, hpend, hheld⟩ := hdue
  change execGradientLogAppend j n xs gs tot _ = _
  simp only [execGradientLogAppend, onDev, hu, hst, hh, hnum, hstages, hdone, hpend, hheld, beq_self_eq_true, Bool.not_false, Bool.and_self, if_true,
    logFits, ← not_lt, ite_not] <;> rfl

theorem takes_gradientLogAppend_ignored (hno : (d.jobAt j).setup = none ∨ (d.jobAt j).steps = [] ∨ reachHolder d j = none ∨
    (∃ st, (d.jobAt j).steps.head? = some st ∧ ¬logDue d j n st)) : Takes (.gradientLogAppend j n xs gs tot) d d := fun _ => by
  change execGradientLogAppend j n xs gs tot _ = _
  rcases hno with hu | hs | hh | ⟨st, hst, hno⟩
  · simp only [execGradientLogAppend, onDev, hu]
  · cases hu : (d.jobAt j).setup <;> simp only [execGradientLogAppend, onDev, hu, hs, List.head?_nil]
  · cases hu : (d.jobAt j).setup <;> cases hst : (d.jobAt j).steps.head? <;> simp only [execGradientLogAppend, onDev, hu, hst, hh]
  · have hnot : ¬(st.num == n && st.stages && !st.logDone && d.fab.pend.all (fun p => p.job != j.val || p.logStep != some n)
        && !(d.jobAt j).shardHeld d) = true := by
      simpa only [Bool.and_eq_true, beq_iff_eq, Bool.not_eq_true', and_assoc] using hno
    cases hu : (d.jobAt j).setup <;> cases hh : reachHolder d j <;>
      simp only [execGradientLogAppend, onDev, hu, hst, hh, if_neg hnot]

end Log

/-! ### The restore -/

section Restore
variable {d : Device} {j : Fin 16} {b es ss : List (List Nat)} {le : Nat} {u : JobSetup} {r : Replay}

/-- The job runs from a fill of partner memory that is complete (16 R445). -/
abbrev filled (d : Device) (j : Fin 16) (u : JobSetup) : Prop :=
  (d.jobAt j).state = .running ∧ u.jr.restore = 1 ∧ (d.jobAt j).partner.filling = true ∧ (d.jobAt j).partner.queued = []

/-- The device with the committed state that a replay reached, and its peers told. -/
def restored (d : Device) (j : Fin 16) (u : JobSetup) (r : Replay) (b es : List (List Nat)) (le : Nat) : Device :=
  let e := d.storeBlocks (d.jobAt j).blocks r.blocks
  (e.updJob j (fun q => { q with
    commit := { q.commit with epoch := r.epoch, head := r.head, pre := e.shardDigest j }
    logs := { q.logs with hist := r.hist }, partner := q.partner.refilled u b es le })).tokenAll j (fun s => .join s u.topo.selfId u.jr.restoreStep)

theorem filled_iff : ((d.jobAt j).state == .running && u.jr.restore == 1 && (d.jobAt j).partner.filling && (d.jobAt j).partner.queued.isEmpty) = true
    ↔ filled d j u := by
  simp only [filled, Bool.and_eq_true, beq_iff_eq, List.isEmpty_iff, and_assoc]

theorem takes_restoreComplete (hu : (d.jobAt j).setup = some u) (hf : filled d j u) (hr : replayOf (d.jobAt j) u u.jr.restoreStep b es ss = some r) :
    Takes (.restoreComplete j b es ss le) d (restored d j u r b es le) := fun _ => by
  change execRestoreComplete j b es ss le _ = _
  simp only [execRestoreComplete, onDev, hu, if_pos (filled_iff.mpr hf), hr]
  rfl

theorem takes_restoreComplete_stops (hu : (d.jobAt j).setup = some u) (hf : filled d j u)
    (hr : replayOf (d.jobAt j) u u.jr.restoreStep b es ss = none) : Takes (.restoreComplete j b es ss le) d
      ((d.updJob j (fun q => { q with lastStatus := 0x0802 })).stopJob j (fun _ => 0x0802)) := fun _ => by
  change execRestoreComplete j b es ss le _ = _
  simp only [execRestoreComplete, onDev, hu, if_pos (filled_iff.mpr hf), hr]

theorem takes_restoreComplete_ignored (h : (d.jobAt j).setup = none ∨ ∃ u, (d.jobAt j).setup = some u ∧ ¬filled d j u) :
    Takes (.restoreComplete j b es ss le) d d := fun _ => by
  change execRestoreComplete j b es ss le _ = _
  rcases h with hu | ⟨u, hu, hf⟩
  · simp only [execRestoreComplete, onDev, hu]
  · simp only [execRestoreComplete, onDev, hu, if_neg (mt filled_iff.mp hf)]

end Restore

/-- Settles O51: each command on the state it waits for, and otherwise. -/
theorem resilience : Obligations.Resilience := by
  unfold Obligations.Resilience
  refine ⟨?start, ?startNot, ?complete, ?completeNot, ?append, ?appendNot, ?restore, ?restoreStops, ?restoreNot⟩
  case start => exact fun j l hit i c u e d => takes_snapshotStart
  case startNot => exact fun j l hit d => takes_snapshotStart_ignored
  case complete => exact fun j l u r d => takes_snapshotComplete
  case completeNot => exact fun j l d => takes_snapshotComplete_ignored
  case append => exact fun j n h sl xs gs tot u st d => takes_gradientLogAppend
  case appendNot => exact fun j n xs gs tot d => takes_gradientLogAppend_ignored
  case restore => exact fun j b es ss le u r d => takes_restoreComplete
  case restoreStops => exact fun j b es ss le u d => takes_restoreComplete_stops
  case restoreNot => exact fun j b es ss le d => takes_restoreComplete_ignored

end Sys2Proof.Machine
end

section
/-! PROOFS. Time slicing and reports, the firings of the Tide schedule, the servo and the tray edge (14 R380 to R388; 15 R415 to R424). -/
namespace Sys2Proof.Machine

/-! ### Time slicing and reports -/

section Slicing
variable {d : Device} {t : Fin 4} {held idle j : Nat} {hit : Option Hit}

theorem takes_quantumExpiry (hj : residentOf d t = some j) : Takes (.quantumExpiry t held idle) d
    (if !(d.jobAt j).exclusive && turnOver d (d.jobAt j) held idle && (nextJob d t j).isSome then d.updJob j (fun q => { q with switching := true }) else d) :=
  fun _ => by
  change execQuantumExpiry t held idle _ = _
  simp only [execQuantumExpiry, onDev, hj]

theorem takes_quantumExpiry_idle (hj : residentOf d t = none) : Takes (.quantumExpiry t held idle) d d := fun _ => by
  change execQuantumExpiry t held idle _ = _
  simp only [execQuantumExpiry, onDev, hj]

/-- The device after the resident job j has gone out of partition t, and the job that comes in, if any, in its place. -/
def switched (d : Device) (t : Fin 4) (j : Nat) (hit : Option Hit) : Device :=
  match incoming d t j with
  | some k => d.switchIn t k hit
  | none => d.pump

theorem takes_contextSwitch (hj : residentOf d t = some j) (hs : (d.jobAt j).switching = true) (hdr : drained d j = true) :
    Takes (.contextSwitch t hit) d (switched (if (d.jobAt j).suspending then d.suspend j else d.saveContext j) t j hit) := fun _ => by
  change execContextSwitch t hit _ = _
  simp only [execContextSwitch, onDev, hj, hs, hdr, Bool.and_self, if_true]
  rfl

theorem takes_contextSwitch_stays (hj : residentOf d t = some j) (h : (d.jobAt j).switching = false ∨ drained d j = false) :
    Takes (.contextSwitch t hit) d d := fun _ => by
  change execContextSwitch t hit _ = _
  simp only [execContextSwitch, onDev, hj, Bool.and_eq_false_iff.mpr h, Bool.false_eq_true, if_false]

/-- The device after a job has come into partition t, where none was resident. -/
def switchedIn (d : Device) (t : Fin 4) (hit : Option Hit) : Device :=
  match incoming d t (nthD 15 d.quy.turn t) with
  | some k => if d.glb.cur = .active ∨ d.glb.cur = .idle then d.switchIn t k hit else d
  | none => d

theorem takes_contextSwitch_empty (hj : residentOf d t = none) : Takes (.contextSwitch t hit) d (switchedIn d t hit) := fun _ => by
  change execContextSwitch t hit _ = _
  simp only [execContextSwitch, onDev, hj, Bool.or_eq_true, beq_iff_eq]
  rfl

end Slicing

section Reports
variable {d : Device} {j : Fin 16} {c : SlowCounts} {body : List Nat} {rf : Nat}

/-- REF of a job's report: the cycles of its pans in 10 ms at their maximum frequency (15 R423). -/
abbrev slowRef (d : Device) (j : Fin 16) : Nat := sumNat ((jobPans d j).map (fun p => nthD 0 d.fuses.fmax p * 10000))

/-- The counts of a report add up to REF within 64 pan-cycles. -/
abbrev countsFit (c : SlowCounts) (rf : Nat) : Prop := slowSum c ≤ rf + 64 ∧ rf ≤ slowSum c + 64

/-- The body of a report. -/
def slowBody (d : Device) (j : Fin 16) (c : SlowCounts) (rf : Nat) : List Nat :=
  toLE 8 (d.jobAt j).committedField ++ timeFields d.tide ++ toLE 4 rf ++ toLE 4 c.done ++ toLE 4 c.lShare ++ toLE 4 c.lPower ++ toLE 4 c.lWait
    ++ toLE 4 c.lInput ++ toLE 2 (slowRate d c.done rf).1 ++ [b2n (d.jobAt j).slow.late + 2 * b2n d.tide.holdover + 4 * b2n ((d.jobAt j).state == .recovering)]
    ++ List.replicate 13 0

theorem takes_slowdownReport (hl : (d.jobAt j).live = true) (ht : d.tide.ns % 10000000 = 0) (hc : countsFit c (slowRef d j)) :
    Takes (.slowdownReport j c) d (((slowRate d c.done (slowRef d j)).2.updJob j (fun q =>
      { q with slow := { late := false, last := slowBody d j c (slowRef d j) } })).jobNotice j stOk 2 (slowBody d j c (slowRef d j))) := fun _ => by
  change execSlowdownReport j c _ = _
  simp only [execSlowdownReport, onDev, hl, ht, hc.1, hc.2, beq_self_eq_true, decide_true, Bool.and_self, if_true]
  rfl

theorem takes_slowdownReport_ignored (h : (d.jobAt j).live = false ∨ d.tide.ns % 10000000 ≠ 0 ∨ ¬countsFit c (slowRef d j)) :
    Takes (.slowdownReport j c) d d := fun _ => by
  change execSlowdownReport j c _ = _
  have hno : ¬(((d.jobAt j).live && d.tide.ns % 10000000 == 0 && decide (slowSum c ≤ slowRef d j + 64)
      && decide (slowRef d j ≤ slowSum c + 64)) = true) := by
    simp only [Bool.and_eq_true, beq_iff_eq, decide_eq_true_eq]
    rintro ⟨⟨⟨hl, ht⟩, hlow⟩, hhigh⟩
    rcases h with h | h | h
    · simp [hl] at h
    · exact h ht
    · exact h ⟨hlow, hhigh⟩
  simp only [execSlowdownReport, onDev, if_neg hno]

end Reports

/-! ### Firings (14 R386 to R388) -/

section Firings
variable {c : Instr} {d e' : Device} {i : Fin 256} {k : Nat} {e : TideEntry} {f : Device → TideEntry → Device}

theorem Device.fire_due (hi : d.inp.island = true) (he : dueEntry d.tide i k = some e) :
    d.fire i k f = f { d with tide := countLate d.tide e } e := by
  simp only [Device.fire, hi, if_true, he]

theorem Device.fire_not_due (h : d.inp.island = false ∨ dueEntry d.tide i k = none) : d.fire i k f = d := by
  rcases h with h | h
  · simp only [Device.fire, h, Bool.false_eq_true, if_false]
  · simp only [Device.fire, h, ite_self]

theorem takes_fire (hexec : ∀ s, exec c s = onDev s (fun d => d.fire i k f)) (hi : d.inp.island = true) (he : dueEntry d.tide i k = some e)
    (hf : f { d with tide := countLate d.tide e } e = e') : Takes c d e' := fun s => by
  rw [hexec, onDev, Device.fire_due hi he, hf]

theorem takes_fire_not_due (hexec : ∀ s, exec c s = onDev s (fun d => d.fire i k f)) (h : d.inp.island = false ∨ dueEntry d.tide i k = none) :
    Takes c d d := fun s => by
  rw [hexec, onDev, Device.fire_not_due h]

theorem countLate_entries (t : Tide) (e : TideEntry) : (countLate t e).entries = t.entries := by
  unfold countLate
  split <;> rfl

end Firings

section Windows
variable {d : Device} {j : Fin 16} {w : Nat} {x : Window}

theorem takes_evalWindowOpen (hw : (d.jobAt j).windowAt w = some x) :
    Takes (.evalWindowOpen j w) d (if x.openFired && !x.isOpen && (d.jobAt j).commit.step.any (fun c => decide (x.step ≤ c))
      then (d.freeFired j 6 w).updJob j (fun q => q.updWindow w x.step (fun y => { y with isOpen := true })) else d) := fun _ => by
  change execEvalWindowOpen j w _ = _
  simp only [execEvalWindowOpen, onDev, hw]

theorem takes_evalWindowClose (hw : (d.jobAt j).windowAt w = some x) :
    Takes (.evalWindowClose j w) d (if x.isOpen && x.closeFired && (d.jobAt j).batches.all (fun b => b.done || b.kind != 0 || b.window != w)
      then (d.freeFired j 5 w).updJob j (fun q => q.updWindow w x.step (fun y => { y with isOpen := false, closed := true })) else d) := fun _ => by
  change execEvalWindowClose j w _ = _
  simp only [execEvalWindowClose, onDev, hw]

theorem takes_evalWindowOpen_none (hw : (d.jobAt j).windowAt w = none) : Takes (.evalWindowOpen j w) d d := fun _ => by
  change execEvalWindowOpen j w _ = _
  simp only [execEvalWindowOpen, onDev, hw]

theorem takes_evalWindowClose_none (hw : (d.jobAt j).windowAt w = none) : Takes (.evalWindowClose j w) d d := fun _ => by
  change execEvalWindowClose j w _ = _
  simp only [execEvalWindowClose, onDev, hw]

end Windows

/-! ### The servo and the tray edge (14 R380 to R384) -/

section Servo
variable {d : Device} {o : Int}

/-- The Syncs in a row within 1 µs, with one of offset o (14 R383). -/
def syncsInRow (d : Device) (o : Int) : Nat := if o.natAbs ≤ 1000 then min 16 (d.tide.syncRun + 1) else 0

/-- The device after a Sync of offset o: the correction, unless the edge is followed, and the servo's frequency correction (14 R380 to R384). -/
def synced (d : Device) (o : Int) : Device :=
  let run := syncsInRow d o
  let r : Tide := { d.tide with ptpErr := o }
  let t := if d.tide.edgeMode = 2 ∧ d.tide.edgeOk = true ∧ o.natAbs ≤ 1000 then r else r.correct o
  { d.draw.2 with tide := { t with
      offset := clampOffset o, syncRun := run, freq := freqOf d.draw.1, holdover := false, locked := d.tide.locked || run == 16
      unset := d.tide.unset && run != 16 } }

theorem takes_ptpSync (hi : d.inp.island = true) (hs : d.eth.state = 2) : Takes (.ptpSync o) d
    (if syncsInRow d o = 16 ∧ d.tide.locked = false then (synced d o).logEvent srcTide 0x0705 sevNotice none [] else synced d o) := fun _ => by
  change execPtpSync o _ = _
  simp only [execPtpSync, onDev, hi, hs, beq_self_eq_true, Bool.and_self, if_true, decide_eq_true_eq, Bool.and_eq_true, Bool.not_eq_true']
  rfl

theorem takes_ptpSync_ignored (h : d.inp.island = false ∨ d.eth.state ≠ 2) : Takes (.ptpSync o) d d := fun _ => by
  change execPtpSync o _ = _
  have hno : (d.inp.island && d.eth.state == 2) = false := by rcases h with h | h <;> simp [h]
  simp only [execPtpSync, onDev, hno, Bool.false_eq_true, if_false]

/-- The device whose edge is not followed: the servo is back on PTP alone (14 R384). -/
abbrev edgeLeft (d : Device) : Device := { d.edgeOut with tide := d.tide.ptpAlone }

theorem takes_tideInEdge (hi : d.inp.island = true) (hm : d.tide.edgeMode = 2) : Takes .tideInEdge d
    (if (d.tide.edgePhase - d.tide.ptpErr).natAbs ≤ 1000 then { d.edgeOut with tide := { d.tide with edgeOk := true, pending := -d.tide.edgePhase } }
      else if d.tide.edgeOk then (edgeLeft d).logEvent srcTide 0x0706 sevWarning none [] else edgeLeft d) := fun _ => by
  change execTideInEdge _ = _
  have hon : (d.inp.island && d.tide.edgeMode == 2) = true := by simp [hi, hm]
  simp only [execTideInEdge, onDev, hon, if_true, ← not_le (b := 1000), ite_not]
  rfl

theorem takes_tideInEdge_ignored (h : d.inp.island = false ∨ d.tide.edgeMode ≠ 2) : Takes .tideInEdge d d := fun _ => by
  change execTideInEdge _ = _
  have hno : (d.inp.island && d.tide.edgeMode == 2) = false := by rcases h with h | h <;> simp [h]
  simp only [execTideInEdge, onDev, hno, Bool.false_eq_true, if_false]

theorem takes_tideLinkDown : Takes (.tideHoldover true) d (d.hostPortDown (if d.inp.stage = .served ∧ d.glb.cur ≠ .shelf then 1 else 0)) := fun _ => by
  change execTideHoldover true _ = _
  simp only [execTideHoldover, onDev, if_true, Bool.and_eq_true, beq_iff_eq, bne_iff_ne]

theorem takes_tideSecondEdge : Takes .tideSecondEdge d
    (if d.inp.island = true ∧ d.tide.edgeMode = 1 ∧ (d.tide.ns = 0 ∨ d.tide.skipped = true) then d.edgeOut else d) := fun _ => by
  change execTideSecondEdge _ = _
  simp only [execTideSecondEdge, onDev, Bool.and_eq_true, beq_iff_eq, Bool.or_eq_true, and_assoc]

end Servo

/-- Settles O50: each command by the state it waits for, an entry by whether it is due. -/
theorem schedulingAndTide : Obligations.SchedulingAndTide := by
  unfold Obligations.SchedulingAndTide
  refine ⟨?quantum, ?quantumIdle, ?switch, ?switchStays, ?switchEmpty, ?report, ?reportNot, ?flush, ?phase, ?phaseNot, ?commit, ?commitNot, ?config,
    ?configNot, ?cap, ?capNot, ?evalOpen, ?evalOpenNot, ?evalClose, ?evalCloseNot, ?snapshot, ?snapshotNot, ?windowOpen, ?windowClose, ?windowOpenNone,
    ?windowCloseNone, ?sync, ?syncNot, ?holdover, ?linkDown, ?edge, ?edgeNot, ?edgeLost, ?secondEdge⟩
  case quantum => exact fun t held idle j d => takes_quantumExpiry
  case quantumIdle => exact fun t held idle d => takes_quantumExpiry_idle
  case switch => exact fun t hit j d => takes_contextSwitch
  case switchStays => exact fun t hit j d => takes_contextSwitch_stays
  case switchEmpty => exact fun t hit d => takes_contextSwitch_empty
  case report => exact fun j c d => takes_slowdownReport
  case reportNot => exact fun j c d => takes_slowdownReport_ignored
  case flush => exact fun d _ => rfl
  case phase => exact fun i e d hi he => takes_fire (fun _ => rfl) hi he rfl
  case phaseNot => exact fun i d => takes_fire_not_due fun _ => rfl
  case commit => exact fun i e d hi he => takes_fire (fun _ => rfl) hi he rfl
  case commitNot => exact fun i d => takes_fire_not_due fun _ => rfl
  case config => exact fun i e d hi he => takes_fire (fun _ => rfl) hi he rfl
  case configNot => exact fun i d => takes_fire_not_due fun _ => rfl
  case cap => exact fun i e d hi he => takes_fire (fun _ => rfl) hi he rfl
  case capNot => exact fun i d => takes_fire_not_due fun _ => rfl
  case evalOpen => exact fun i e d hi he => takes_fire (fun _ => rfl) hi he rfl
  case evalOpenNot => exact fun i d => takes_fire_not_due fun _ => rfl
  case evalClose =>
    intro i e d hi he
    refine takes_fire (fun _ => rfl) hi he ?_
    simp only [countLate_entries]
    rfl
  case evalCloseNot => exact fun i d => takes_fire_not_due fun _ => rfl
  case snapshot => exact fun i e d hi he => takes_fire (fun _ => rfl) hi he rfl
  case snapshotNot => exact fun i d => takes_fire_not_due fun _ => rfl
  case windowOpen => exact fun j w x d => takes_evalWindowOpen
  case windowClose => exact fun j w x d => takes_evalWindowClose
  case windowOpenNone => exact fun j w d => takes_evalWindowOpen_none
  case windowCloseNone => exact fun j w d => takes_evalWindowClose_none
  case sync => exact fun o d => takes_ptpSync
  case syncNot => exact fun o d => takes_ptpSync_ignored
  case holdover => exact fun d _ => rfl
  case linkDown => exact fun d => takes_tideLinkDown
  case edge => exact fun d => takes_tideInEdge
  case edgeNot => exact fun d => takes_tideInEdge_ignored
  case edgeLost => exact fun d _ => rfl
  case secondEdge => exact fun d => takes_tideSecondEdge

end Sys2Proof.Machine
end
